-- ==== Sys2Proof/Word.lean ====
section
/-! DEFINITION. The words of the TSM-4800's register interface and the plainest arithmetic over them
(00 R5: little-endian, R8: aligned 32-bit words). -/

namespace Sys2Proof

/-- One 32-bit word of the host interface and of a calibre image (R8, R76). -/
abbrev Word := BitVec 32

/-- One byte of a payload or a record. -/
abbrev Byte := BitVec 8

/-- An IEEE 754 binary32 pattern (R62: f32 is IEEE 754 binary32). -/
abbrev F32 := BitVec 32

end Sys2Proof
end

