-- ==== Sys2Proof/Syntax.lean ====
section
/-! DEFINITION. The commands of the block: one constructor per row of spec/opcode_table.json, in the table's order.
The table gives its rows no bits and no fields; the operands are what the rule of the row says comes from outside
the module with the step: who writes, what is written, which unit acts, what a sensor or a frame brings. -/

namespace Sys2Proof

/-- The source of a request (13 R322): on the fabric the source MAC address with SRC, on CAN the channel. -/
inductive Source where
  | fabric (mac : Nat) (src : Nat)
  | can (c : Fin 2)
  deriving DecidableEq, Repr, Inhabited

/-- A frame that arrives at a port: the port, Ethernet destination and source, HSR sequence number, whether it bears a VLAN
tag, its EtherType, the header of Table 12-2, and `size`, the bytes that follow that header. -/
structure FabHdr where
  port : Fin 3
  ethDst : Nat
  mac : Nat
  hsrSeq : Nat
  tagged : Bool
  etherType : Nat
  ver : Nat
  kind : Nat
  stamp : Bool
  src : Nat
  dst : Nat
  string : Nat
  claim : Nat
  seq : Nat
  beat : Nat
  stampId : Nat
  len : Nat
  size : Nat
  deriving DecidableEq, Repr, Inhabited

/-- How a request comes: in an ACCESS_REQ frame, or in a CAN frame of a channel with so many data words (R327). -/
inductive Via where
  | fabric (h : FabHdr)
  | can (c : Fin 2) (words : Nat)
  deriving DecidableEq, Repr, Inhabited

/-- The head of an access request (Table 13-1, R327): how it comes, SESSION and TAG, COUNT as a request without words bears it
(READ, WRITE and READ_FIXED bring theirs as an operand), and the nanosecond of the beat at which it reaches the module. -/
structure Req where
  via : Via
  session : Nat
  tag : Nat
  plainCount : Nat
  atNs : Nat
  deriving DecidableEq, Repr, Inhabited

/-- The source of a request (R322). -/
def Req.source (r : Req) : Source :=
  match r.via with
  | .fabric h => .fabric h.mac h.src
  | .can c _ => .can c

/-- STAMP and STAMP_ID of a request, which its response carries too (12 Table 12-3). -/
def Req.stamp (r : Req) : Option Nat :=
  match r.via with
  | .fabric h => if h.stamp then some h.stampId else none
  | .can _ _ => none

/-- The data words that a request's frame carries after its head. -/
def Req.words (r : Req) : Nat :=
  match r.via with
  | .fabric h => (h.len - 12) / 4
  | .can _ words => words

/-- One end of a chain line (04 R85). -/
inductive End where
  | e
  | w
  deriving DecidableEq, Repr, Inhabited

/-- A queue a host reads: Q0 to Q7 or the receive queue of a CAN channel (13 R337, 14 R353). -/
inductive QueueId where
  | q (i : Fin 8)
  | can (c : Fin 2)
  deriving DecidableEq, Repr, Inhabited

/-- The priority vector of a gPTP Announce (Table 02-4: best master clock, clause 10 algorithm). -/
structure PrioVec where
  prio1 : Nat
  clockClass : Nat
  accuracy : Nat
  variance : Nat
  prio2 : Nat
  identity : Nat
  stepsRemoved : Nat
  deriving DecidableEq, Repr, Inhabited

/-- The header of an inbound chain frame and its CRC, as E8 receives them (Table 04-2, R88), with the line, the port end
it arrived at and the tick of its arrival. -/
structure ChainHdr where
  line : Fin 4
  fromEnd : End
  tick : Nat
  typ : Nat
  addr : Nat
  len : Nat
  hops : Nat
  claim : Nat
  seq : Nat
  crc : Nat
  deriving DecidableEq, Repr, Inhabited

/-- RESULT payload (Table 04-6). -/
structure ResultBody where
  nstat : Nat
  suspect : Nat
  vpos : List Int
  deriving DecidableEq, Repr, Inhabited

/-- What a node's own checks say of a sample (Table 04-6): the positions whose value is suspect, and NODE_WARN. -/
structure SampleMarks where
  suspect : Nat
  warn : Bool
  deriving DecidableEq, Repr, Inhabited

/-- One tap entry of an AUX payload (Table 04-7). -/
structure TapEntry where
  mux : Nat
  drop : Int
  tq : Nat
  deriving DecidableEq, Repr, Inhabited

/-- AUX payload (Table 04-7). -/
structure AuxBody where
  tflagNew : Bool
  taps : List TapEntry
  temps : List Int
  deriving DecidableEq, Repr, Inhabited

/-- The data of a REPLY (Table 04-8), by the command it answers. -/
inductive ReplyData where
  | none
  | assign (uid : Nat) (nodeType proto caps : Nat) (lockin : Bool)
  | id (uid : Nat) (nodeType proto caps : Nat) (lockin : Bool) (present tpresent : Nat)
  | sense (done : Bool) (r : List Nat)
  | lockin (done : Bool) (vRe vIm iRe iIm : Int)
  | diag (crcErr beatLost claimLow : Nat) (tDie : Int) (vNode : Nat)
  deriving DecidableEq, Repr, Inhabited

/-- A BEAT frame as a node receives it (Tables 04-2, 04-5): the end it came from, CLAIM, HOPS, BEAT, INSTANT, FLAGS, the
BLEED words, the CRC, and the node-clock arrival of its reference edge in ns. -/
structure NodeBeat where
  fromEnd : End
  claim : Nat
  hops : Nat
  beat : Nat
  instant : Nat
  primary : Bool
  tempNext : Bool
  roundNext : Bool
  bleed : List Nat
  crc : Nat
  arrival : Nat
  deriving DecidableEq, Repr, Inhabited

/-- The identity a node has from manufacture and wiring (Table 04-8: ENUM_ASSIGN and READ_ID reply data). -/
structure NodeIdent where
  uid : Nat
  nodeType : Nat
  proto : Nat
  taps : Nat
  lockin : Bool
  present : Nat
  tpresent : Nat
  sense : List Nat
  deriving DecidableEq, Repr, Inhabited

/-- BANK_STATE payload (Table 12-4). -/
structure BankBody where
  state : Nat
  connected : Bool
  pair : Bool
  bank : Nat
  dvJoin : Nat
  vStr : Int
  vLnk : Int
  iEpoch : Int
  epoch : Nat
  lim : List Nat
  deriving DecidableEq, Repr, Inhabited

/-- DISCOVER payload, the fields a receiver uses (Table 12-14). -/
structure DiscoverBody where
  mac : Nat
  addrValid : Bool
  addr : Nat
  role : Nat
  bank : Nat
  claim : Nat
  deriving DecidableEq, Repr, Inhabited

/-- STATUS of the partner exchange (Table 12-16), with the configuration R311 compares. -/
structure StatusBody where
  state : Nat
  holder : Bool
  yielded : Bool
  aLatch : Bool
  bLatch : Bool
  sides : Nat
  ownEnd : Nat
  claim : Nat
  digest : Nat
  limCrc : Nat
  partnerAddr : Nat
  bank : Nat
  ends : Nat
  lines : Nat
  role : Nat
  deriving DecidableEq, Repr, Inhabited

/-- FRONT of the partner exchange (Table 12-16). -/
structure FrontBody where
  i : Int
  vStr : Int
  vLnk : Int
  iCode : Nat
  strCode : Nat
  lnkCode : Nat
  deriving DecidableEq, Repr, Inhabited

/-- STREAM of the partner exchange (Table 12-16). -/
structure StreamBody where
  i : List Int
  iMean : Int
  scodes : Nat
  dq : Int
  deriving DecidableEq, Repr, Inhabited

/-- PLAN of the partner exchange (Table 12-16): BLEED words, commands as (line, addr, op, argument bytes) and the
chime currents as (node, local position, mA). -/
structure PlanBody where
  bleed : List Nat
  cmds : List (Nat × Nat × Nat × List Nat)
  ic : List (Nat × Nat × Nat)
  deriving DecidableEq, Repr, Inhabited

/-- A received CAN frame (Table 14-4). -/
structure CanFrame where
  xtd : Bool
  id : Nat
  remote : Bool
  fdf : Bool
  brs : Bool
  esi : Bool
  dlc : Nat
  data : List Byte
  own : Bool
  tick : Nat
  deriving DecidableEq, Repr, Inhabited

/-- What a check beat of WATCH brings from the front end and the nodes (Table 15-6): the aligned string voltage with
its VALID flag; per listed node (address, RESULT accepted, position values with VALID flags); temperature points with
VALID flags; tap entries; TH values with VALID flags; and a settled insulation result where the bridge ends. -/
structure WatchData where
  vStr : Option Int
  nodes : List (Nat × Bool × List (Nat × Int))
  temps : List (Nat × Nat × Int)
  taps : List (Nat × TapEntry)
  th : List (Nat × Int)
  ins : Option Nat
  deriving DecidableEq, Repr, Inhabited

/-- The command set: one constructor per row of spec/opcode_table.json. -/
inductive Instr where
  | hostWrite (sess : Fin 32) (addr value : Word)
  | latchingRead (sess : Fin 32) (addr : Word)
  | openReq (r : Req) (word : Word)
  | closeReq (r : Req)
  | read (r : Req) (count : Nat) (addr : Word)
  | write (r : Req) (count : Nat) (addr : Word) (data : List Word)
  | readFixed (r : Req) (count : Nat) (addr : Word)
  | nop (r : Req)
  | sessionTimeout (sess : Fin 32)
  | enterStorage (sess : Fin 32)
  | arm (sess : Fin 32)
  | run (sess : Fin 32)
  | stop (sess : Fin 32)
  | service (sess : Fin 32)
  | watch (sess : Fin 32)
  | resetCmd (sess : Fin 32)
  | stateCmdJudge
  | wakeIn
  | vsupReturn
  | powerFail (vsupMv : Nat)
  | restart
  | internalWatchdog
  | vsupLow (vsupMv : Nat)
  | vsupHigh (vsupMv : Nat)
  | vloadLow (vloadMv : Nat)
  | beatBoundary
  | itemRelease (item : Nat)
  | itemComplete (engine : Fin 11) (cycles : Nat)
  | itemBudgetExpiry (engine : Fin 11)
  | itemDeadlineExpiry (item cycles : Nat)
  | syncReceive (domain : Fin 2) (port : Fin 3) (rawOffset : Int) (gm : Nat)
  | gptpAnnounceReceive (domain : Fin 2) (port : Fin 3) (v : PrioVec)
  | syncSend (domain : Fin 2) (port : Fin 3)
  | pdelayExchange (port : Fin 3) (meanNs : Nat)
  | syncReceiptTimeout (domain : Fin 2)
  | domainSwitch
  | steer (sess : Fin 32) (value : Word)
  | triggerArm (sess : Fin 32) (k : Fin 4) (value : Word)
  | triggerFire (k : Fin 4)
  | txTimestamp (port : Fin 3) (id : Nat) (fabricNs : Nat)
  | tsqPop (sess : Fin 32) (port : Fin 3) (value : Word)
  | probe (sess : Fin 32) (value : Word)
  | engLoadClear (sess : Fin 32) (e : Fin 11) (value : Word)
  | ldData (sess : Fin 32) (word : Word)
  | postReceptionChecksDone
  | loadAccept
  | loadTimeout
  | ldCtrlAbort (sess : Fin 32)
  | replaceLogic (sess : Fin 32)
  | replacementChecksDone
  | onCtrlGo (sess : Fin 32) (n : Fin 32)
  | cancel (sess : Fin 32)
  | batchPending
  | batchApply
  | constantApply (task : Fin 8)
  | beatFrame
  | passThroughCheck (line : Fin 4) (seen : Option Nat)
  | lineReturnWhole (line : Fin 4)
  | enumReset (line : Fin 4)
  | enumAssign (line : Fin 4)
  | enumLineEnd (line : Fin 4)
  | reassign (line : Fin 4) (addr : Fin 64)
  | readId (node : Fin 64)
  | setDelay (node : Fin 64)
  | setTapPlan (node : Fin 64)
  | measSense (node : Fin 64)
  | readSense (node : Fin 64)
  | chime (node : Fin 64) (pos bin ampl cycles start : Nat)
  | lockinStart (node : Fin 64) (bins posMask start : Nat)
  | lockinRead (node : Fin 64) (pos bin : Nat)
  | stimStop (line : Fin 4)
  | readDiag (node : Fin 64)
  | clearDiag (node : Fin 64)
  | sleep (line : Fin 4)
  | probeFrame
  | echo (h : ChainHdr) (payload : List Byte) (rttNs : Nat)
  | result (h : ChainHdr) (b : ResultBody)
  | aux (h : ChainHdr) (b : AuxBody)
  | reply (h : ChainHdr) (op status : Nat) (d : ReplyData)
  | announce (h : ChainHdr) (uid nodeType proto : Nat)
  | armResult
  | chainCommit
  | nodeBeatReceive (line : Fin 4) (hop : Fin 16) (f : NodeBeat)
  | nodeSample (line : Fin 4) (hop : Fin 16) (marks : SampleMarks) (vpos : List Int) (temps : List Int) (taps : List TapEntry)
  | nodeResultSend (line : Fin 4) (hop : Fin 16)
  | nodeAuxSend (line : Fin 4) (hop : Fin 16)
  | nodeClaimRelease (line : Fin 4) (hop : Fin 16)
  | nodeStimulusFallback (line : Fin 4) (hop : Fin 16)
  | nodeSleep (line : Fin 4) (hop : Fin 16)
  | nodeWake (line : Fin 4) (hop : Fin 16)
  | nodeAnnounceSend (line : Fin 4) (hop : Fin 16)
  | streamSample (k : Fin 8) (shuntPv vStr vLnk : Int)
  | alignedSample
  | chargeCommit
  | gainCheck (devStr devLnk : Int)
  | insulationCycleStart
  | insulationPhaseSettled (v : Int)
  | insulationPhaseTimeout
  | insResult (h : FabHdr) (rPos rNeg endBeat : Nat)
  | accordEvaluation
  | take (sess : Fin 32) (value : Word)
  | snapshotCapture
  | windowEnd (bin : Fin 31)
  | chimeRoundStart
  | burstEnd (pos : Fin 1024)
  | lockinCampaignStart
  | lockinCampaignEnd
  | requestDwellStart
  | spectrumCapture
  | slotComplete
  | derivedUpdate
  | filterStep (pos : Fin 1024)
  | secondJudgement
  | anchorHour
  | warningEvaluation
  | refReset (sess : Fin 32)
  | seedCtrlGo (sess : Fin 32) (value : Word)
  | cellRoundUpdate
  | roundEffect
  | thermalJudgement (dieT : Int)
  | loopSnapshot (id : Fin 64)
  | loopPeriodEnd (id : Fin 64)
  | limitPublication
  | balancePlan
  | channelAEvaluation (hsMa : List Nat)
  | crcRecheck
  | selfTest (passed : Bool)
  | requestApplication
  | toggleEdge (intervalUs : Nat) (lsMa : List Nat)
  | toggleMissing
  | aliveAdvance
  | latchA
  | latchB
  | overcurrentOnset
  | fastOc
  | safetyInputChange (i : Fin 4) (pinB : Bool) (level : Bool)
  | pinFollow (i : Fin 4) (channelB : Bool)
  | testPulse (tp : Fin 2) (lowReads : List Nat)
  | offPulseTest (k : Fin 4)
  | offPulseEnd (k : Fin 4) (maxMa : Nat)
  | kCmd (sess : Fin 32) (value : Word)
  | precharge (sess : Fin 32) (j : Fin 8)
  | prechargeCommit
  | prechargeEnd
  | prechargeTimeout
  | closeMain (sess : Fin 32) (j : Fin 8)
  | jobAbort (sess : Fin 32) (j : Fin 8)
  | jobClear (sess : Fin 32) (j : Fin 8)
  | inputPhase
  | taskRun (t : Fin 8) (cycles : Nat)
  | taskOverrun (t : Fin 8)
  | outputPhase
  | station (h : FabHdr) (dir n sflags : Nat) (words : List Word)
  | stationLost (i : Fin 16)
  | forceEnable (sess : Fin 32) (f : Fin 32) (value : Word)
  | forceClear (sess : Fin 32) (f : Fin 32) (value : Word)
  | varWr (sess : Fin 32) (value : Word)
  | lgClrCounts (sess : Fin 32)
  | chClrCounts (sess : Fin 32)
  | hsrFrameReceive (h : FabHdr)
  | supervisionFrame (backP0 backP1 : Bool)
  | discover (rx : Option (FabHdr × DiscoverBody))
  | addrClaim (rx : Option (FabHdr × Nat))
  | addressTaken
  | bankState (rx : Option (FabHdr × Nat × BankBody))
  | bankComputation
  | resultFwd (h : FabHdr) (node : Fin 64) (seq : Nat) (tick : Nat) (b : ResultBody)
  | auxFwd (h : FabHdr) (node : Fin 64) (seq : Nat) (tick : Nat) (b : AuxBody)
  | front (rx : Option (FabHdr × FrontBody))
  | streamX (rx : Option (FabHdr × StreamBody))
  | plan (rx : Option (FabHdr × PlanBody))
  | delays (rx : Option (FabHdr × Fin 64 × End × Nat))
  | status (rx : Option (FabHdr × StatusBody))
  | pairLost
  | yieldCmd (sess : Fin 32)
  | reclaim (sess : Fin 32)
  | publish
  | streamItem (q : Fin 8)
  | queueItemCommit (q : QueueId) (ecc : Bool)
  | qdataRead (sess : Fin 32) (q : QueueId)
  | flush (sess : Fin 32) (q : QueueId)
  | claim (sess : Fin 32) (q : Fin 8)
  | queueRelease (sess : Fin 32) (q : Fin 8)
  | req (sess : Fin 32) (c : Fin 2) (b : Fin 3)
  | txbAbort (sess : Fin 32) (c : Fin 2) (b : Fin 3)
  | canFrameSent (c : Fin 2)
  | canAckError (c : Fin 2)
  | canFrameReceived (c : Fin 2) (f : CanFrame)
  | loop (sess : Fin 32) (c : Fin 2) (value : Word)
  | busOffRecovery (c : Fin 2)
  | publicationDue (c : Fin 2) (i : Fin 32)
  | txb1Load (c : Fin 2)
  | inputFilterChange (k : Fin 16) (level : Bool)
  | counterEdge (k : Fin 4)
  | cntClr (sess : Fin 32) (value : Word)
  | overload (k : Fin 16)
  | overtemp (k : Fin 16) (tempC : Int)
  | readback (k : Fin 16)
  | openWire (k : Fin 16)
  | silenceExpiry
  | thConversion (raw : List Nat)
  | watchCheckStart
  | watchCheckBeat (d : WatchData)
  | watchCheckEnd
  | wakeOutClr (sess : Fin 32)
  | wakeOutHold (sess : Fin 32) (hold : Bool)
  | ship (sess : Fin 32) (value : Word)
  | provision (sess : Fin 32) (value : Word)
  | addKey (sess : Fin 32) (value : Word)
  | revoke (sess : Fin 32) (value : Word)
  | returnCmd (sess : Fin 32) (value : Word)
  | scrap (sess : Fin 32) (value : Word)
  | recorderCommit
  | journalCommit
  | freeze (sess : Fin 32)
  | unfreeze (sess : Fin 32)
  | freezeTimeout
  | clearRecords (sess : Fin 32) (j : Fin 8)
  | clearRecordsDone
  | crownRelease (sess : Fin 32) (value : Word)
  | lock (sess : Fin 32)
  | manifestPiece (sess : Fin 32) (index : Nat)
  | manifestVerifyDone
  | imagePiece (sess : Fin 32) (index : Nat)
  | pieceJudged (sess : Fin 32)
  | imageHashCheckDone
  | confirm (sess : Fin 32)
  | discardSlot (sess : Fin 32) (j : Fin 8)
  | discardDone
  | activate (sess : Fin 32) (j : Fin 8)
  | trialExpiry
  | trialFallback
  | portLinkChange (p : Fin 3) (up : Bool)
  | nodeReset (line : Fin 4) (hop : Fin 16) (ident : NodeIdent)
  | probeLost (line : Fin 4)
  | overcurrentEnd
  | canBusError (c : Fin 2) (transmitting : Bool)
  | canArbitrationLost (c : Fin 2)
  | readbackClear (k : Fin 16)
  | openWireClear (k : Fin 16)
  | reserveLow (low : Bool)
  | opSec
  | reservedOpRequest (r : Req) (op : Nat)
  | reservedKindStart (sess : Fin 32) (j : Fin 8) (kind : Nat)
  deriving DecidableEq, Repr

end Sys2Proof
end

