-- ==== Sys2Proof/Machine/Crypto.lean ====
section
/-! DEFINITION. The checks over bytes that the spec names by their standards: CRC-32 and CRC-32C (03), SHA-256 and
ECDSA over P-256 (03, 15, 16). The standards' own constants are PRESUMED (log 13). -/

namespace Sys2Proof.Machine

/-! ### Bytes -/

/-- Little-endian number of a byte list (00 R5). -/
def leNat : List Byte → Nat
  | [] => 0
  | b :: r => b.toNat + 256 * leNat r

/-- Big-endian number of a byte list. -/
def beNat (l : List Byte) : Nat := l.foldl (fun a b => a * 256 + b.toNat) 0

/-- n bytes of a number, little-endian. -/
def leBytes : Nat → Nat → List Byte
  | 0, _ => []
  | k + 1, v => BitVec.ofNat 8 v :: leBytes k (v / 256)

/-- n bytes of a number, big-endian. -/
def beBytes (n v : Nat) : List Byte := (leBytes n v).reverse

/-- The bytes of a list of words, each little-endian. -/
def wordsBytes (l : List Word) : List Byte := l.flatMap (fun w => leBytes 4 w.toNat)

/-- The words of a byte list, a last part filled with zero bytes. -/
def bytesWords (l : List Byte) : List Word :=
  (List.range ((l.length + 3) / 4)).map (fun i => BitVec.ofNat 32 (leNat ((l.drop (4 * i)).take 4)))

/-! ### CRC-32 -/

/-- One bit of a reflected CRC. -/
def crcBit (poly c : Nat) : Nat := if c % 2 = 1 then (c / 2) ^^^ poly else c / 2

/-- One byte of a reflected CRC. -/
def crcByte (poly c : Nat) (b : Byte) : Nat :=
  let c0 := c ^^^ b.toNat
  let f := crcBit poly
  f (f (f (f (f (f (f (f c0)))))))

/-- A reflected 32-bit CRC with all ones before and after. -/
def crcOf (poly : Nat) (l : List Byte) : Nat := (l.foldl (crcByte poly) 0xFFFFFFFF) ^^^ 0xFFFFFFFF

/-- CRC-32 (IEEE 802.3). -/
def crc32 (l : List Byte) : Nat := crcOf 0xEDB88320 l

/-- CRC-32C (Castagnoli). -/
def crc32c (l : List Byte) : Nat := crcOf 0x82F63B78 l

/-! ### SHA-256

The standard takes its constants from the roots of the first primes; they are computed here from that definition. -/

/-- A prime below 312; the 64th prime is 311. -/
def smallPrime (n : Nat) : Bool := decide (2 ≤ n) && (List.range n).all (fun d => decide (d < 2) || n % d != 0)

/-- The first k primes, for k up to 64. -/
def firstPrimes (k : Nat) : List Nat := ((List.range 312).filter smallPrime).take k

/-- The whole part of the e-th root of n, found bit by bit from 2^(k−1) down, on top of r. -/
def rootBits (e n : Nat) : Nat → Nat → Nat
  | 0, r => r
  | k + 1, r => rootBits e n k (if (r + 2 ^ k) ^ e ≤ n then r + 2 ^ k else r)

/-- The first 32 bits of the fraction of the e-th root of a prime. -/
def rootFraction (e p : Nat) : Word := BitVec.ofNat 32 (rootBits e (p * 2 ^ (32 * e)) 36 0)

/-- The exclusive or of a word's rotations. -/
def rotations (ks : List Nat) (x : Word) : Word := ks.foldl (fun y k => y ^^^ x.rotateRight k) 0

/-- k more words of the message schedule, the newest word first. -/
def shaSched : Nat → List Word → List Word
  | 0, w => w
  | k + 1, w =>
    let old := w.getD 14 0
    let new := w.getD 1 0
    let mixed := (rotations [7, 18] old ^^^ old.ushiftRight 3) + (rotations [17, 19] new ^^^ new.ushiftRight 10)
    shaSched k ((w.getD 15 0 + w.getD 6 0 + mixed) :: w)

/-- One round over the eight working words, with the round's constant and schedule word added up. -/
def shaRound (x : List Word) (kw : Word) : List Word :=
  match x with
  | [a, b, c, d, e, f, g, h] =>
    let choice := g ^^^ (e &&& (f ^^^ g))
    let majority := (a &&& (b ||| c)) ||| (b &&& c)
    let t := h + rotations [6, 11, 25] e + choice + kw
    [t + rotations [2, 13, 22] a + majority, a, b, c, d + t, e, f, g]
  | other => other

/-- One block of 16 words, first to last. -/
def shaBlock (h : List Word) (block : List Word) : List Word :=
  let w := (shaSched 48 block.reverse).reverse
  let kw := List.zipWith (· + ·) ((firstPrimes 64).map (rootFraction 3)) w
  List.zipWith (· + ·) h (kw.foldl shaRound h)

/-- The padded message. -/
def shaPad (l : List Byte) : List Byte :=
  l ++ [(0x80 : Byte)] ++ List.replicate ((119 - l.length % 64) % 64) 0 ++ beBytes 8 (8 * l.length)

/-- Big-endian word i of a byte list. -/
def beWord (l : List Byte) (i : Nat) : Word := BitVec.ofNat 32 (beNat ((l.drop (4 * i)).take 4))

/-- Block i of a padded message, as its 16 words. -/
def shaWords (p : List Byte) (i : Nat) : List Word := (List.range 16).map (fun j => beWord p (16 * i + j))

/-- SHA-256 as the big-endian number of its 32 bytes. -/
def sha256 (l : List Byte) : Nat :=
  let p := shaPad l
  let start := (firstPrimes 8).map (rootFraction 2)
  let h := (List.range (p.length / 64)).foldl (fun h i => shaBlock h (shaWords p i)) start
  beNat (h.flatMap (fun w => beBytes 4 w.toNat))

/-! ### ECDSA over P-256 -/

/-- The prime of the field. -/
def ecP : Nat := 0xFFFFFFFF00000001000000000000000000000000FFFFFFFFFFFFFFFFFFFFFFFF
/-- The order of the base point. -/
def ecN : Nat := 0xFFFFFFFF00000000FFFFFFFFFFFFFFFFBCE6FAADA7179E84F3B9CAC2FC632551
/-- The curve's constant b. -/
def ecB : Nat := 0x5AC635D8AA3A93E7B3EBBD55769886BC651D06B0CC53B0F63BCE3C3E27D2604B
/-- The base point. -/
def ecG : Nat × Nat :=
  (0x6B17D1F2E12C4247F8BCE6E563A440F277037D812DEB33A0F4A13945D898C296,
   0x4FE342E2FE1A7F9B8EE7EB4A7C0F9E162BCE33576B315ECECBB6406837BF51F5)

/-- b to the power e modulo m, by the bits of e from bit k−1 down. -/
def powMod (b e m : Nat) : Nat → Nat
  | 0 => 1 % m
  | k + 1 =>
    let h := powMod b (e / 2) m k
    let q := h * h % m
    if e % 2 = 1 then q * b % m else q

/-- The inverse modulo a prime below 2^256. -/
def invMod (a m : Nat) : Nat := powMod (a % m) (m - 2) m 256

/-- A point of the curve; `none` is the point at infinity. -/
abbrev EcPt := Option (Nat × Nat)

/-- The line through a point with slope lam, met with the curve. -/
def ecMeet (lam : Nat) (p q : Nat × Nat) : EcPt :=
  let x := (lam * lam + 2 * ecP - p.1 - q.1) % ecP
  some (x, (lam * (p.1 + ecP - x) + ecP - p.2) % ecP)

/-- Sum of two points; coordinates below ecP. -/
def ecAdd : EcPt → EcPt → EcPt
  | none, q => q
  | p, none => p
  | some p, some q =>
    if p.1 = q.1 then
      if (p.2 + q.2) % ecP = 0 then none
      else ecMeet ((3 * p.1 * p.1 + ecP - 3) * invMod (2 * p.2) ecP % ecP) p q
    else ecMeet ((q.2 + ecP - p.2) * invMod (q.1 + ecP - p.1) ecP % ecP) p q

/-- k times a point, by the bits of k. -/
def ecMul : Nat → Nat → EcPt → EcPt
  | 0, _, _ => none
  | j + 1, k, p =>
    let h := ecMul j (k / 2) p
    let d := ecAdd h h
    if k % 2 = 1 then ecAdd d p else d

/-- The point lies on the curve. -/
def ecOn (x y : Nat) : Bool :=
  decide (x < ecP) && decide (y < ecP) && (y * y % ecP == (x * x * x + (ecP - 3) * x + ecB) % ecP)

/-- ECDSA verification of the signature (r, s) over a digest with the public key (x, y). -/
def ecdsaOk (key : Nat × Nat) (digest r s : Nat) : Bool :=
  ecOn key.1 key.2 && decide (0 < r) && decide (r < ecN) && decide (0 < s) && decide (s < ecN) &&
    (let w := invMod s ecN
     match ecAdd (ecMul 256 (digest * w % ecN) (some ecG)) (ecMul 256 (r * w % ecN) (some key)) with
     | none => false
     | some p => p.1 % ecN == r)

end Sys2Proof.Machine
end

