-- ==== Sys2Proof/Config.lean ====
section
/-! DEFINITION. What a part fixes, and the free values: constants without a body, so that nothing can be proved about
the number behind them. Each names the rule that leaves it open; notes/assumptions says which log entry declares it. -/

namespace Sys2Proof.Config

/-- SERIAL of the part (13 Table 13-11: per part; log 3). -/
opaque serial : BitVec 64

/-- MAC address of the part (12 Table 12-9: per part; log 3). -/
opaque mac : BitVec 48

/-- REVISION.HW_MINOR (00 Table 00-5: per part; log 3). -/
opaque hwMinor : BitVec 8

/-- REVISION.FW_MINOR of the firmware a slot held when the part was delivered (00 Table 00-5: per slot; log 3). -/
opaque fwMinor : Nat → BitVec 8

/-- The function catalogue of minor version 0: FUNC, REQUIRED, ENGINE (03 R413: the manual does not list it; log 3). -/
opaque catalogueBase : List (Nat × Bool × Nat)

/-- The entries that a later minor version adds: FUNC, ENGINE; none of them REQUIRED (03 R413; log 3). -/
opaque catalogueAdded : Nat → List (Nat × Nat)

/-- MIN_BUDGET of a function, in units of 256 cycles, as a minor version sets it; what stands is the least so far, since
no later minor version raises it (03 R413; log 3). -/
opaque minBudget : Nat → Nat → Nat

/-- Whether the ledger items of an engine and FUNC carry out one kind of estimator work for one position (02 R43: the
spec names no FUNC and does not say which engine estimates which position; log 35). -/
opaque carries : Nat → Nat → Nat → Nat → Bool

/-- The two vendor update keys, x and y (16 R394: fused at manufacture; log 3). -/
opaque vendorKey : Nat → Nat × Nat

/-- NONCE after it has changed n times (15 R380: it changes; no value is given; log 6). -/
opaque nonce : Nat → BitVec 64

/-- A free bit: where a rule gives a number that is not a whole one of its register and does not say how it is rounded,
this bit chooses between the whole number below and the one above (log 7). -/
opaque roundUp : Nat → Bool

/-- A free number, for a result that no rule states (log 8). -/
opaque freeInt : Nat → Int

/-- The gPTP offset the module predicts from the offsets measured before and the rate correction applied (02 R46: no
formula is given; log 9). -/
opaque predictOffset : List Int → Int → Int

/-- The rate correction, in 0.01 ppb, that the servo chooses for an offset; the rules bound it to 200 ppm (02 R48, R49;
log 9). -/
opaque servoRate : List Int → Int → Int

/-- The resistance in mΩ of a sense wire that a module has never read: in a pair the lower claim sends no READ_SENSE, and no
frame of the exchange carries the values (05 R125; log 8): by node address and wire. -/
opaque senseWire : Nat → Nat → Nat

/-- Where in its period, in ps, the lock-in wave of a string position at a bin stands as a slice begins (06 R157 gives no
phase; log 8). -/
opaque lockPhase : Nat → Nat → Nat → Nat

/-- The partner has taken ARM by a beat (12 R313: enumeration waits for it, and no frame of the exchange carries it;
log 27). -/
opaque partnerArmed : Nat → Bool

/-- A ring prefix is named in a route record of another bridge of the module's own ring (12 R304): the spec says that a bridge
forwards by it, and not how the bridge comes to know it (log 27). -/
opaque ringRoutes : Nat → Bool

/-- R_pos and R_neg in Ω from the two settled voltages of the insulation bridge (05: the circuit's formula is not
given; log 10). -/
opaque insBridge : Int → Int → Nat × Nat

/-- `expf` of the filter step (07 R177: its accuracy is not stated; log 11). -/
opaque expf : F32 → F32

/-- `cosf` of the Hann window and the real part of `cexpf` (06 R151; log 11). -/
opaque cosf : F32 → F32

/-- `sinf`, the imaginary part of `cexpf` (06 R151; log 11). -/
opaque sinf : F32 → F32

/-- `cabsf` (06 R151; log 11). -/
opaque cabsf : F32 → F32 → F32

end Sys2Proof.Config
end

