-- ==== Sys2Proof/Machine/State.lean ====
section
/-! DEFINITION. The state of the TSM-4800 as plain data: every register, store, counter, mode, queue and pin the spec
gives the block, one structure per chapter of spec/, and with them the queue of waiting commands. Registers that
software reads as packed words are kept as their fields and packed in Machine/Regs*.lean; words that a host writes
whole and the part keeps whole are bit vectors. -/

namespace Sys2Proof.Machine

/-- The states of Table 01-3; STORAGE and WATCH have no code (01 R19). -/
inductive Mode where
  | storage | watch | blank | loading | loaded | armed | run | stop | service | safe
  deriving DecidableEq, Repr, Inhabited

/-- The two safety channels (01 Table 01-1). -/
inductive Chan where
  | a | b
  deriving DecidableEq, Repr, Inhabited

/-! ### The calibre (03): the sections as the module holds them from T4 -/

/-- One ledger item (03 Table 03-3). `prev` and `out` are the two bits of FLAGS. -/
structure LedgerItem where
  engine : Nat
  prev : Bool
  out : Bool
  func : Nat
  release : Nat
  deadline : Nat
  budget : Nat
  period : Nat
  phase : Nat
  deriving DecidableEq, Repr, Inhabited

/-- One node of the chain map (03 Table 03-4). -/
structure NodeMap where
  line : Nat
  hop : Nat
  uidReq : Bool
  uid : Nat
  posBase : Nat
  posMask : Nat
  tempMask : Nat
  tapCh : Nat
  deriving DecidableEq, Repr, Inhabited

/-- The chain map (03 Table 03-4, section 0x03). -/
structure ChainMap where
  nPos : Nat
  parMax : Nat
  lines : Nat
  ends : Nat
  ownEnd : Nat
  senseRMax : Nat
  nodes : List NodeMap
  deriving DecidableEq, Repr, Inhabited

/-- One tap record (03 R68). -/
structure TapRec where
  mux : Nat
  ftc : Int
  rfuse : Nat
  deriving DecidableEq, Repr, Inhabited

/-- Section 0x05, front end (03 Table 03-5). -/
structure FrontCfg where
  shunt : Nat
  shuntTh : Nat
  gain : Int
  tc : Int
  insWarn : Nat
  insPeriod : Nat
  lnkUse : Bool
  deriving DecidableEq, Repr, Inhabited

/-- One table of section 0x06: breakpoints of the three axes and the values, axis 1 running fastest. -/
structure CellTable where
  kind : Nat
  set : Nat
  bp1 : List Int
  bp2 : List Int
  bp3 : List Int
  vals : List Int
  deriving DecidableEq, Repr, Inhabited

/-- Section 0x06, cell model tables. -/
structure CellModel where
  nSets : Nat
  ratedQ : List Nat
  tables : List CellTable
  deriving DecidableEq, Repr, Inhabited

/-- Section 0x07, estimator settings, as written (0 selects the default where R69 says so). -/
structure EstCfg where
  restI : Nat
  restT : Nat
  band : Nat
  bandT : Nat
  starveH : Nat
  qSoc : F32
  qV1 : F32
  qV2 : F32
  rMeas : F32
  wDis : List Nat
  wChg : List Nat
  qaCoh : Nat
  setMap : List Nat
  deriving DecidableEq, Repr, Inhabited

/-- Section 0x08, spectroscopy plan. -/
structure SpecCfg where
  sources : Nat
  snapMin : Nat
  chimeI : Nat
  chimeCyc : Nat
  reqAmpl : Nat
  reqBins : Nat
  lockinBins : Nat
  deriving DecidableEq, Repr, Inhabited

/-- A coefficient set KP, KI, KD, KF with SHIFT[4] (sections 0x09 and 0x0A). -/
structure Coefs where
  kp : Int
  ki : Int
  kd : Int
  kf : Int
  shift : List Nat
  deriving DecidableEq, Repr, Inhabited

/-- One loop record of section 0x09. -/
structure LoopCfg where
  id : Nat
  kind : Nat
  period : Nat
  group : Nat
  inSel : Nat
  sched : Nat
  slot : Nat
  setpoint : Int
  coefs : Coefs
  outMin : Int
  outMax : Int
  track : Nat
  deriving DecidableEq, Repr, Inhabited

/-- One group record of section 0x09. -/
structure GroupCfg where
  target : Nat
  nIn : Nat
  deriving DecidableEq, Repr, Inhabited

/-- One gain schedule of section 0x0A: the breakpoints in use and the region sets, NS fastest. -/
structure SchedCfg where
  tBp : List Int
  socBp : List Nat
  regions : List Coefs
  deriving DecidableEq, Repr, Inhabited

/-- One class of section 0x0B. -/
structure ThermCfg where
  cls : Nat
  sensors : Nat
  warn : Int
  throttle : Int
  shut : Int
  hyst : Nat
  deriving DecidableEq, Repr, Inhabited

/-- One S_CFGs word of the safety block, decoded (03 Table 03-6). -/
structure SInCfg where
  discT : Nat
  mode : Nat
  test : Nat
  kMask : Nat
  deriving DecidableEq, Repr, Inhabited

/-- The safety parameter block (03 Table 03-6), decoded; a channel's working copy is one of these. -/
structure SafetyBlock where
  calId : Nat
  calVersion : Nat
  sbFormat : Nat
  nPos : Nat
  kMain : Nat
  kPre : Nat
  sides : Nat
  vPosMin : Int
  vPosMax : Int
  tMin : Int
  tMax : Int
  ageMax : Nat
  tChgMin : Int
  iDisEnv : Nat
  iChgEnv : Nat
  i2tDis : Nat
  i2tChg : Nat
  iFast : Nat
  dirTolI : Nat
  dirTolT : Nat
  offPulse : Nat
  vStrMax : Nat
  vStrMin : Nat
  insMin : Nat
  preTmax : Nat
  preDv : Nat
  sCfg : List SInCfg
  deriving DecidableEq, Repr, Inhabited

/-- One task record of section 0x0E. -/
structure TaskCfg where
  cycle : Nat
  cls : Nat
  prio : Nat
  entry : Nat
  wcet : Nat
  deriving DecidableEq, Repr, Inhabited

/-- One station record of section 0x0E (11 R281). -/
structure StationCfg where
  addr : Nat
  cycle : Nat
  timeout : Nat
  nIn : Nat
  nOut : Nat
  deriving DecidableEq, Repr, Inhabited

/-- Section 0x0E, logic program: FORM, tasks, constants, station records and code words. -/
structure LogicCfg where
  form : Nat
  nInstr : Nat
  instSize : Nat
  tasks : List TaskCfg
  consts : List Int
  stations : List StationCfg
  code : List Word
  deriving DecidableEq, Repr, Inhabited

/-- One IO record of section 0x0F. -/
structure IoCfg where
  mode : Nat
  filter : Nat
  safe : Bool
  wb : Bool
  deriving DecidableEq, Repr, Inhabited

/-- One TH record of section 0x0F. -/
structure ThCfg where
  kind : Nat
  beta : Nat
  deriving DecidableEq, Repr, Inhabited

/-- Section 0x0F, I/O personality. -/
structure IoPers where
  silence : Nat
  io : List IoCfg
  th : List ThCfg
  deriving DecidableEq, Repr, Inhabited

/-- The channel settings of section 0x10, also the BLANK settings of 14 R346. -/
structure CanCfg where
  nbrp : Nat
  ntseg1 : Nat
  ntseg2 : Nat
  nsjw : Nat
  dbrp : Nat
  dtseg1 : Nat
  dtseg2 : Nat
  dsjw : Nat
  txOrder : Nat
  access : Bool
  accId : Nat
  deriving DecidableEq, Repr, Inhabited

/-- One publication record of section 0x10. -/
structure PubCfg where
  ch : Nat
  enable : Bool
  period : Nat
  canId : Nat
  content : Nat
  deriving DecidableEq, Repr, Inhabited

/-- Per gPTP domain in section 0x11. -/
structure DomCfg where
  prio1 : Nat
  prio2 : Nat
  bmca : Nat
  portRole : List Nat
  deriving DecidableEq, Repr, Inhabited

/-- Section 0x11, fabric identity and partner. -/
structure FabCfg where
  addr : Nat
  ring : Nat
  role : Nat
  autoSwitch : Bool
  claim : Nat
  bank : Nat
  partnerAddr : Nat
  dvJoin : Nat
  doms : List DomCfg
  logSync : Int
  logPdelay : Int
  asym : List Int
  routes : List (Nat × Nat)
  deriving DecidableEq, Repr, Inhabited

/-- Section 0x12, watch plan (15 Table 15-5), as written. -/
structure WatchCfg where
  period : Nat
  checks : Nat
  vStrLo : Nat
  vStrHi : Nat
  vPosLo : Int
  vPosHi : Int
  tHi : Int
  insLo : Nat
  iShort : Nat
  nodes : List Nat
  deriving DecidableEq, Repr, Inhabited

/-- One queue record of section 0x13. -/
structure QueueCfg where
  content : Nat
  decim : Nat
  depth : Nat
  deriving DecidableEq, Repr, Inhabited

/-- Section 0x13, stream plan: eight queue records and the host stream lists A and B. -/
structure StreamCfg where
  queues : List QueueCfg
  listA : List Word
  listB : List Word
  deriving DecidableEq, Repr, Inhabited

/-- The loaded calibre: the header's identity, each section as read from its payload, and the payloads themselves,
which online changes rewrite (03 R80 to R83). An optional section that is absent is `none` (03 R65, Table 03-7). -/
structure Calibre where
  calId : Nat
  calVersion : Nat
  crc : Nat
  len : Nat
  ledgerLen : Nat
  items : List LedgerItem
  chain : ChainMap
  taps : List (List TapRec)
  front : FrontCfg
  model : CellModel
  est : EstCfg
  spec : Option SpecCfg
  loops : List LoopCfg
  groups : List GroupCfg
  scheds : List SchedCfg
  therm : List ThermCfg
  logic : Option LogicCfg
  io : IoPers
  can : Option (List CanCfg × List PubCfg)
  fab : FabCfg
  watch : Option WatchCfg
  stream : Option StreamCfg
  payloads : List (Nat × List Byte)
  deriving DecidableEq, Repr, Inhabited

/-- An online batch that passed R81 and waits (03 R82): section, entries, the register image and whether its beat
boundary has passed. -/
structure Batch where
  sect : Nat
  entries : List (Nat × Word)
  atBoundary : Bool
  /-- the session that wrote GO, and the beat of the write -/
  session : Nat
  beat : Nat
  deriving DecidableEq, Repr, Inhabited

/-- The calibre loader block (03 Tables 03-11 to 03-20) and what a load in progress holds. -/
structure Ldr where
  err : Nat
  detail : Nat
  armErr : Nat
  sigUnchecked : Bool
  replaced : Bool
  checking : Bool
  receiving : Bool
  count : Nat
  errSect : Nat
  errPlace : Nat
  owner : Option (Fin 32)
  /-- the words of the calibre area, as received (R76); of a replacement while one is owned (R84) -/
  words : List Word
  repl : Option (List Word)
  idleBeats : Nat
  /-- the beat in which the checks of R414 point 5 passed: T4 waits for the next beat boundary (R78) -/
  passed : Option Nat
  onCount : Nat
  onResult : Nat
  onApplied : Bool
  onSel : List Word
  onVal : List Word
  batch : Option Batch
  deriving DecidableEq, Repr, Inhabited

/-! ### Time (02) -/

/-- What the module holds of one gPTP domain (02 R45, R46, Tables 02-11, 02-12). -/
structure Dom where
  /-- a grandmaster is known: its clockIdentity (Table 02-11) -/
  gm : Option Nat
  /-- the best vector received so far on each port (clause 10 inputs) -/
  best : List (Nat × PrioVec)
  self : Bool
  seen : Bool
  offset : Int
  /-- the offsets measured before, newest first, at most 16 (R46) -/
  history : List Int
  good : Nat
  locked : Bool
  receipt : Bool
  deriving DecidableEq, Repr, Inhabited

/-- SYNC_STATE (02 Table 02-5). -/
inductive SyncState where
  | free | acquiring | locked | holdover | grandmaster
  deriving DecidableEq, Repr, Inhabited

/-- One time trigger (02 Tables 02-10, 02-17). The target is taken when ARM is written to 1 (R57). -/
structure Trig where
  ns : Nat
  secLo : Nat
  secHi : Nat
  target : Nat
  arm : Bool
  /-- ARM was written to 1 after the present beat began -/
  armedNow : Bool
  fired : Bool
  late : Bool
  deriving DecidableEq, Repr, Inhabited

/-- One egress stamp (02 Table 02-19). -/
structure Stamp where
  id : Nat
  ns : Nat
  sec : Nat
  deriving DecidableEq, Repr, Inhabited

/-- The transmit time-stamp queue of one port (02 Tables 02-18 to 02-20). -/
structure Tsq where
  items : List Stamp
  lost : Nat
  ovf : Bool
  popMiss : Bool
  deriving DecidableEq, Repr, Inhabited

/-- One engine E0 to E10 as the escapement sees it (02 R38 to R43, Table 02-16): its clock, the released items in
running order with what is left of their budgets, cycles used in this beat, and the overrun counts. -/
structure Engine where
  clock : Bool
  released : List (Nat × Nat)
  used : Nat
  peak : Nat
  count : Nat
  ovr : Bool
  ovrThisBeat : Bool
  /-- consecutive beats with an overrun and consecutive beats without one (Table 02-3) -/
  ovrRun : Nat
  cleanRun : Nat
  /-- EST_LAG stands for this engine (Table 02-3) -/
  lag : Bool
  deriving DecidableEq, Repr, Inhabited

/-- The commands that a beat carries out at most once, at their own tick, which the module's state does not tell apart by
itself (log 33). -/
inductive Turn where
  | release (item : Nat)
  | beatFrame
  | probeFrame
  | passCheck (line : Nat)
  | commit
  | charge
  | accord
  | second
  | hour
  | warning
  | step (pos : Nat)
  | window (bin : Nat)
  | cellRound
  | spectrum
  | derived
  | balance
  | publish
  | dwell
  | input
  | output
  | sample (line hop : Nat)
  | station (i : Nat)
  | testSlot (k : Nat)
  | testPulse (tp : Nat)
  | recheck
  | supervision
  | thermal
  | loopEnd (id : Nat)
  | status
  | front
  | stream
  | plan
  | item (queue : Nat)
  | publishFab
  | pubCan (ch rec : Nat)
  | bankState
  | bankCalc
  | discover
  | thermistors
  | other (k : Nat)
  deriving DecidableEq, Repr, Inhabited

/-- The time block and the escapement. -/
structure Time where
  beat : Nat
  /-- nanoseconds since the beat began, 0 to 999 999, as the newest command gives them -/
  ns : Nat
  syncState : SyncState
  dom : Vector Dom 2
  steer : Fin 2
  steerReq : Fin 2
  switchTo : Option (Fin 2)
  /-- the pending switch is the automatic one of R51, and the beat in which a pending switch was asked for -/
  switchAuto : Bool
  switchBeat : Nat
  autoSwitch : Bool
  timeFault : Bool
  switchRefused : Bool
  switched : Bool
  stepped : Bool
  /-- an offset is being removed by the rate of the clock (R48, R49) -/
  slew : Bool
  /-- applied rate correction, 0.01 ppb -/
  rateAdj : Int
  asym : Vector Int 3
  asymUsed : Vector Int 3
  pdelay : Vector Nat 3
  trg : Vector Trig 4
  tsq : Vector Tsq 3
  engines : Vector Engine 11
  /-- consecutive overrun beats of each ledger item (Table 02-3) -/
  itemOvr : List (Nat × Nat)
  /-- items that have overrun in this beat -/
  itemOvrNow : List Nat
  loopHold : Bool
  /-- the commands that have had their turn in this beat -/
  turns : List Turn
  deriving DecidableEq, Repr, Inhabited

/-! ### Host access (13) -/

/-- The response codes of 13 Table 13-4. -/
inductive RspCode where
  | ok | align | address | access | state | session | full | busy | format
  deriving DecidableEq, Repr, Inhabited

/-- A response (13 Table 13-2; on CAN R327). -/
structure Rsp where
  dest : Option Source
  /-- STAMP_ID of a request that bears STAMP: the response bears it too (12 Table 12-3) -/
  stamp : Option Nat
  session : Nat
  op : Nat
  tag : Nat
  code : RspCode
  done : Nat
  addr : Nat
  data : List Word
  deriving DecidableEq, Repr, Inhabited

/-- One session (13 R322 to R324, R12, and what later chapters hold for each session). -/
structure Session where
  isOpen : Bool
  source : Source
  idle : Nat
  lastTag : Option (Nat × Rsp)
  /-- a request waits for its response (a write to STATE_CMD, R326) -/
  outstanding : Bool
  /-- the words latched by R12: address and value -/
  latches : List (Nat × Word)
  cmdValid : Bool
  cmdCode : Nat
  cmdResult : Nat
  /-- it sent the SERVICE command that made T9 (R20 T10) -/
  inService : Bool
  page : Nat
  tpage : Nat
  estPage : Nat
  varSel : Word
  rrSel : Nat
  jrSel : Nat
  /-- the crown lock is released in this session (16 R392) -/
  crown : Bool
  deriving DecidableEq, Repr, Inhabited

/-- A state command waiting for its beat boundary (01 R22, 13 R328). -/
structure PendCmd where
  sess : Fin 32
  /-- the request to answer, its count of words and the index of this word; `none` for a single write -/
  req : Option (Req × Nat × Nat)
  code : Nat
  /-- the beat of the write -/
  beat : Nat
  deriving DecidableEq, Repr, Inhabited

/-- JOBj_STAT.STATE (13 Table 13-15). -/
inductive JobSt where
  | idle | running | completed | aborted | failed | refused
  deriving DecidableEq, Repr, Inhabited

/-- One job slot (13 Tables 13-14, 13-15). -/
structure Job where
  st : JobSt
  abortLate : Bool
  committed : Bool
  session : Nat
  kind : Nat
  detail : Nat
  arg : Word
  start : Nat
  commit : Nat
  ended : Nat
  /-- an abort is latched and waits for the tick at which it acts (R331) -/
  abortReq : Bool
  deriving DecidableEq, Repr, Inhabited

/-- One stream queue or CAN receive queue (13 R333 to R338): the visible words, items written but not committed,
the sequence count, and the pending gap. -/
structure Queue where
  words : List Word
  building : List (List Word)
  seq : Nat
  drops : Nat
  firstDrop : Nat
  total : Nat
  last : Word
  underrun : Bool
  ovf : Bool
  flushed : Bool
  claim : Option (Fin 32)
  deriving DecidableEq, Repr, Inhabited

/-- One subscription (13 R341). -/
structure Sub where
  enable : Bool
  addr : Nat
  content : Nat
  period : Nat
  deriving DecidableEq, Repr, Inhabited

/-- Sessions, state commands, jobs, queues and subscriptions. -/
structure HostIf where
  sess : Vector Session 32
  timeoutSeen : Bool
  fullSeen : Bool
  cmds : List PendCmd
  jobs : Vector Job 8
  queues : Vector Queue 8
  subs : Vector Sub 64
  deriving DecidableEq, Repr, Inhabited

/-! ### The Stoex chain, module side (04) -/

/-- A set of 64 probes of one node from one end (04 R102, R103). -/
structure ProbeSet where
  n : Nat
  sum : Nat
  least : Nat
  most : Nat
  lost : Bool
  deriving DecidableEq, Repr, Inhabited

/-- What the module holds of the node with one address (04 Tables 04-22, 04-23, R100, R102). -/
structure NodeM where
  found : Bool
  present : Bool
  absent : Bool
  followW : Bool
  rejoined : Bool
  missRun : Nat
  crc : Nat
  uid : Nat
  nodeType : Nat
  proto : Nat
  caps : Nat
  lockin : Bool
  inputs : Nat
  tInputs : Nat
  idRead : Bool
  sense : List Nat
  senseDone : Bool
  dE : Nat
  dW : Nat
  /-- a delay from that end has been written -/
  knownE : Bool
  knownW : Bool
  /-- delays measured and not yet written by SET_DELAY -/
  newE : Option Nat
  newW : Option Nat
  setE : ProbeSet
  setW : ProbeSet
  /-- HOPS of the newest accepted RESULT from the end it follows -/
  hops : Nat
  /-- REASSIGN is to be sent (R114) -/
  assign : Bool
  /-- tap-plan entries already written by SET_TAP_PLAN, and the beat of the newest SET_TAP_PLAN -/
  planNext : Nat
  planBeat : Nat
  /-- MEAS_SENSE has been sent, and the beat of the newest READ_DIAG -/
  senseSent : Bool
  diagBeat : Option Nat
  deriving DecidableEq, Repr, Inhabited

/-- LINEk_STAT.MODE (04 Table 04-20). -/
inductive LineMode where
  | unused | whole | split | single
  deriving DecidableEq, Repr, Inhabited

/-- Progress of the enumeration of one line (04 R100). -/
inductive EnumStep where
  | idle | waiting | assigning | checking | passed | failed
  deriving DecidableEq, Repr, Inhabited

/-- One chain line as E8 runs it (04 Tables 04-16, 04-20, 04-21, R100, R109, R111). -/
structure Line where
  mode : LineMode
  active : Bool
  nodes : Nat
  silent : Bool
  brk : Bool
  split : Bool
  crc : Nat
  passMiss : Nat
  resultMiss : Nat
  wholes : Nat
  splits : Nat
  pass : Bool
  missRun : Nat
  passRun : Nat
  secondary : Bool
  silentRun : Nat
  step : EnumStep
  waited : Nat
  nextHop : Nat
  /-- rotation of R103 over nodes and owned ends, and the PROBE whose ECHO is awaited -/
  probeIdx : Nat
  probe : Option (Nat × End)
  cmds : Nat
  /-- the beat of the newest pass-through check (R109, R111) -/
  checkBeat : Option Nat
  /-- SLEEP was the last frame sent on the line (R107) -/
  slept : Bool
  deriving DecidableEq, Repr, Inhabited

/-- A RESULT that E8 accepted for the present beat (04 R97). -/
structure GotResult where
  addr : Nat
  nstat : Nat
  suspect : Nat
  vpos : List Int
  deriving DecidableEq, Repr, Inhabited

/-- An AUX that E8 accepted, for the previous beat (04 R97). -/
structure GotAux where
  addr : Nat
  body : AuxBody
  deriving DecidableEq, Repr, Inhabited

/-- A CMD frame sent in this beat: its SEQ, line, address (0xFF for all), OP and argument bytes (Table 04-8). -/
structure CmdOut where
  seq : Nat
  line : Nat
  addr : Nat
  op : Nat
  args : List Nat
  /-- its one REPLY has come (R98) -/
  done : Bool
  deriving DecidableEq, Repr, Inhabited

/-- The chain block. -/
structure Chain where
  line : Vector Line 4
  node : Vector NodeM 64
  claimHigher : Bool
  nodeRejoined : Bool
  unknownNode : Bool
  enumDone : Bool
  enumErr : Nat
  enumLine : Nat
  enumEnd : End
  enumHop : Nat
  enumDetail : Nat
  unkValid : Bool
  unkLine : Nat
  unkEnd : End
  unkHops : Nat
  unkUid : Nat
  cmdSeq : Nat
  /-- T6 is in progress: the beat boundary at which ARM took effect; and whether enumeration has begun (R79, R100, 12 R313) -/
  arming : Option Nat
  enumOn : Bool
  /-- CMD frames sent in this beat -/
  cmdsOut : List CmdOut
  got : List GotResult
  gotAux : List GotAux
  deriving DecidableEq, Repr, Inhabited

/-! ### The nodes, as far as 04 R92 to R110 lay them down -/

/-- The newest valid BEAT frame a node holds from one end. -/
structure HeldBeat where
  beat : Nat
  arrival : Nat
  instant : Nat
  hops : Nat
  tempNext : Bool
  roundNext : Bool
  primary : Bool
  deriving DecidableEq, Repr, Inhabited

/-- A sample a node has taken and not yet sent (R93, R95, R96): its beat, and its instant on the node's own clock. -/
structure NodeTaken where
  beat : Nat
  instant : Int
  /-- a self-check of the node has failed (NSTAT NODE_WARN) -/
  warn : Bool
  suspect : Nat
  vpos : List Int
  tempNew : Bool
  taps : List TapEntry
  resultSent : Bool
  auxSent : Bool
  deriving DecidableEq, Repr, Inhabited

/-- A chime burst set up at a node (R152), with the number of its first beat. -/
structure NodeChime where
  pos : Nat
  bin : Nat
  ampl : Nat
  cycles : Nat
  start : Nat
  deriving DecidableEq, Repr, Inhabited

/-- One node, at a place on the chain given by line and hop counted from end E. -/
structure NodeS where
  line : Nat
  hop : Nat
  ident : NodeIdent
  addr : Option Nat
  gate : Bool
  held : Nat
  /-- when a valid frame that carries HELD last came, and when the last valid BEAT frame came, in ns of fabric time
  (R105, R107) -/
  heldAt : Int
  beatAt : Int
  followW : Bool
  /-- the end it followed when the newest beat began (R110) -/
  followBase : Bool
  fromE : Option HeldBeat
  fromW : Option HeldBeat
  prevE : Option HeldBeat
  prevW : Option HeldBeat
  dE : Nat
  dW : Nat
  tapPlan : List Nat
  /-- the beat in which the plan was last written: rounds that began before do not use it (08 R213) -/
  planBeat : Nat
  /-- the newest BLEED words taken, by beat, newest first (R91) -/
  bleeds : List (Nat × Nat)
  chimes : List NodeChime
  /-- BINS, POS_MASK and first beat of the newest LOCKIN_STARTs, newest first (06 R157) -/
  lockin : List (Nat × Nat × Nat)
  /-- the beat of the newest MEAS_SENSE -/
  senseAt : Option Nat
  asleep : Bool
  /-- a frame has come since it fell asleep (R107) -/
  waking : Bool
  temps : List Int
  roundBeat : Option Nat
  taken : Option NodeTaken
  crcErr : Nat
  beatLost : Nat
  claimLow : Nat
  resetSelf : Bool
  /-- the beat of its newest ANNOUNCE (R114) -/
  announced : Option Nat
  deriving DecidableEq, Repr, Inhabited

/-! ### Sweeps and measurement (05) -/

/-- The quality codes of 05 Table 05-5. -/
inductive Qual where
  | valid | suspect | missed | blanked | stale | unused
  deriving DecidableEq, Repr, Inhabited

/-- One front-end sample: string current in 10 µA, string and link voltage in 10 µV, each with its doubt (R127 to
R129). -/
structure FeSample where
  i : Int
  vStr : Int
  vLnk : Int
  iBad : Bool
  strBad : Bool
  lnkBad : Bool
  deriving DecidableEq, Repr, Inhabited

/-- An aligned sample with its beat (R121). -/
structure Aligned where
  beat : Nat
  fe : FeSample
  deriving DecidableEq, Repr, Inhabited

/-- A position in the position and table area: the newest VALID value and its beat, and the code of the newest
committed beat with the value taken in it (R132 to R135). -/
structure PosM where
  held : Int
  heldBeat : Option Nat
  code : Qual
  value : Int
  deriving DecidableEq, Repr, Inhabited

/-- A string temperature point (R136); also a TH input (14 R363). -/
structure TempPt where
  mapped : Bool
  held : Int
  heldBeat : Option Nat
  code : Qual
  deriving DecidableEq, Repr, Inhabited

/-- The usable beats of the accord window (R138 to R140, R143) as exact sums: e, r and voltages in µV, current in
10 µA. -/
structure AccWin where
  n : Nat
  e : Int
  i : Int
  ei : Int
  ii : Int
  r : Int
  v : Int
  d : Int
  iMin : Int
  iMax : Int
  dOk : Bool
  deriving DecidableEq, Repr, Inhabited

/-- The accord check (R138 to R143). -/
structure Accord where
  win : AccWin
  /-- the window that ended with the beat before the newest multiple of 1 000 -/
  winPrev : AccWin
  rOut : Int
  rBar : Int
  aWarn : Int
  /-- A_WARN as computed, before it is rounded for its register -/
  aWarnX : Rat
  evals : Nat
  skipped : Nat
  skipRun : Nat
  idle : Bool
  warnRun : Nat
  okRun : Nat
  faultRun : Nat
  warn : Bool
  fault : Bool
  d0 : Option Rat
  node : Bool
  feDisagree : Bool
  classified : Bool
  rOutRange : Bool
  deriving DecidableEq, Repr, Inhabited

/-- The insulation monitor (R130, R131). -/
structure Insul where
  /-- phase 1 or 2 of a running cycle, with the beat it began -/
  phase : Option (Nat × Nat)
  v1 : Int
  /-- the first beat at which the next cycle may start -/
  nextDue : Nat
  /-- R_pos, R_neg in Ω of the last cycle that gave a result, its end beat and the measuring module's address -/
  result : Option (Nat × Nat)
  endBeat : Nat
  source : Nat
  warn : Bool
  deriving DecidableEq, Repr, Inhabited

/-- A measurement snapshot (R145). -/
structure Snap where
  beat : Nat
  fe : FeSample
  iMean : Int
  q : Int
  rBar : Int
  aWarn : Int
  rOut : Int
  evals : Nat
  warnRun : Nat
  skipped : Nat
  ins : Option (Nat × Nat)
  insEnd : Nat
  insSource : Nat
  pos : List PosM
  temps : List TempPt
  deriving DecidableEq, Repr, Inhabited

/-- The measurement block. -/
structure Meas where
  /-- the stream samples of this beat and of the beat before, by k = 0 to 7 -/
  stream : Vector (Option FeSample) 8
  prevStream : Vector (Option FeSample) 8
  aligned : Option Aligned
  /-- the aligned sample that the estimators use: the holder's in a pair's non-holder (12 R316) -/
  alignedE : Option Aligned
  /-- the aligned values paired with the newest committed positions (R123) -/
  pair : Option Aligned
  iMean : Int
  /-- the exact charge sum in units of 1.25 nC (R122) -/
  qSum : Int
  /-- what the newest CHARGE_COMMIT added from this module's own samples -/
  ownDq : Int
  curOvr : Bool
  vstrOvr : Bool
  vlnkOvr : Bool
  azStr : Bool
  azLnk : Bool
  pos : List PosM
  temps : List TempPt
  /-- the beat of the newest committed positions -/
  posBeat : Nat
  blankedAny : Bool
  suspectAny : Bool
  acc : Accord
  ins : Insul
  snapPending : Bool
  snapValid : Bool
  snap : Option Snap
  deriving DecidableEq, Repr, Inhabited

/-! ### Impedance spectroscopy (06) -/

/-- The accumulators of one position and bin for one source (R151), with the beat of the newest accepted window and
the single-window impedances of the newest two (R170). -/
structure SpecAcc where
  n : Nat
  sii : F32
  svv : F32
  sviRe : F32
  sviIm : F32
  zRe : F32
  zIm : F32
  coh : F32
  last : Option Nat
  recent : List (F32 × F32)
  deriving DecidableEq, Repr, Inhabited

/-- The chime estimate of one position and bin: the last accepted burst results, newest first (R156). -/
structure ChimeEst where
  results : List (F32 × F32)
  last : Option Nat
  deriving DecidableEq, Repr, Inhabited

/-- A lock-in result (R158): Z and the beat it was read. -/
structure LockinEst where
  z : Option (F32 × F32)
  last : Option Nat
  deriving DecidableEq, Repr, Inhabited

/-- The spectroscopy state of one position: accumulators by bin, chime and lock-in results, and the derived
quantities of R165 to R170. -/
structure PosSpec where
  amb : List SpecAcc
  req : List SpecAcc
  chime : List ChimeEst
  lockin : List LockinEst
  kHi : Option Nat
  kLo : Option Nat
  rOhm : Int
  rCt : Int
  tInt : Int
  tIntU : Nat
  tIntValid : Bool
  g : Option Rat
  gLearntRest : Bool
  /-- the plating level by η, and whether it reads 3 for want of a bin (R168) -/
  plate : Nat
  plateUnk : Bool
  plateFall : Nat
  /-- PAR_EST, once one has been formed (R169) -/
  parEst : Option Nat
  parLow : Bool
  parLowRun : Nat
  parOkRun : Nat
  qaV : Int
  qaU : Nat
  qaBeat : Option Nat
  /-- mean current of the previous bin-0 window -/
  prevMean : Option Rat
  deriving DecidableEq, Repr, Inhabited

/-- One beat kept for the windows of R148: the aligned pair and every position's value with its code, and the chime
currents in mA. -/
structure BeatRec where
  beat : Nat
  fe : FeSample
  pos : List (Int × Qual)
  ic : List (Nat × Nat)
  /-- positions through which lock-in current flows at the sample instant, in mA (06 R157) -/
  lk : List (Nat × Nat)
  deriving DecidableEq, Repr, Inhabited

/-- A chime burst in the module's plan (R152 to R156). -/
structure Burst where
  pos : Nat
  bin : Nat
  ampl : Nat
  cycles : Nat
  start : Nat
  stop : Nat
  deriving DecidableEq, Repr, Inhabited

/-- A LOCKIN_START sent to a node: its address, BINS, POS_MASK and start beat (R157). -/
structure LockRun where
  addr : Nat
  bins : Nat
  mask : Nat
  start : Nat
  deriving DecidableEq, Repr, Inhabited

/-- A dwell of the stimulus request: its bin, its first beat, the first beat after it, and REQ_AMPL as it began (R159,
R172). -/
structure Dwell where
  bin : Nat
  first : Nat
  stop : Nat
  ampl : Nat
  deriving DecidableEq, Repr, Inhabited

/-- One slot of the spectrum store (R162, R163): the header and the position records as bytes. -/
structure Slot where
  seq : Nat
  st : Nat
  header : List Byte
  recs : List (List Byte)
  deriving DecidableEq, Repr, Inhabited

/-- The spectroscopy block. -/
structure Spectra where
  hist : List BeatRec
  pos : List PosSpec
  str : List SpecAcc
  strReq : List SpecAcc
  /-- number of the next round, the earliest beat it may start at, its bursts still to be commanded, and the bursts
  commanded that have not ended (R154, R155) -/
  round : Nat
  nextRound : Nat
  toSend : List Burst
  bursts : List Burst
  /-- campaigns that wait: parity and start beat; those fixed that have not ended: parity, start and end beat; their
  commands still to be sent and those sent (R157, R158) -/
  campaigns : List (Nat × Nat)
  running : List (Nat × Nat × Nat)
  lockToSend : List LockRun
  locks : List LockRun
  /-- the newest dwell of the stimulus request and the one before it (R159) -/
  dwell : Option Dwell
  dwellOld : Option Dwell
  lastBin : Option Nat
  reqHonoured : Bool
  seq : Nat
  slots : List Slot
  /-- the lines to which a STIM_STOP is still to be sent (R172) -/
  stimStop : Nat
  deriving DecidableEq, Repr, Inhabited

/-! ### State of charge, capacity and health (07) -/

/-- A true anchor kept as A1 (R185). -/
structure Anchor where
  s : Rat
  u : Rat
  q : Int
  deriving DecidableEq, Repr, Inhabited

/-- A stored seed (R194). -/
structure Seed where
  pos : Nat
  soc : Nat
  socU : Nat
  q : Nat
  qU : Nat
  hours : Nat
  suspect : Bool
  deriving DecidableEq, Repr, Inhabited

/-- One second of a position's rest run: seconds from its start, mean of the VALID samples in µV and their number
(R182, Table 07-2). -/
structure RestSec where
  t : Nat
  mean : Rat
  n : Nat
  deriving DecidableEq, Repr, Inhabited

/-- The filter of one mapped position with everything kept beside it (R173 to R192). -/
structure Filter where
  started : Bool
  /-- state of charge, LSB 10⁻⁶ ppm, and the remainder of the last division -/
  s : Int
  sRem : Rat
  v1 : F32
  v2 : F32
  cov : List F32
  /-- q_p in µC, and the charge counter it last read -/
  q : Int
  qSeen : Int
  /-- charge of bleed and stimulus not yet added, nC -/
  qExtra : Int
  lastBeat : Nat
  tP : Rat
  tempDefault : Bool
  /-- charge history for the rate of R175: beat and q_p, newest first -/
  rate : List (Nat × Int)
  qCap : F32
  uQ : F32
  capSuspect : Bool
  capReject : Bool
  a1 : Option Anchor
  gross : Int
  sCC : Int
  ccRem : Rat
  /-- s_V of the running second: sum and number, and the newest 1-second value -/
  svSum : Rat
  svN : Nat
  sV : Option Rat
  disagree : Bool
  disRun : Nat
  agreeRun : Nat
  h : Nat
  g : Nat
  qaThisHour : Bool
  qaPending : Bool
  seeded : Bool
  /-- the rest run its seconds belong to (R181) -/
  runStart : Option Nat
  restOk : Bool
  /-- q_p at the newest charge commit, and at the start of the running second -/
  beatQ : Int
  secQ : Int
  secSum : Int
  secN : Nat
  restSecs : List RestSec
  /-- a second of the run has ended since the newest step -/
  secDue : Bool
  anchored : Bool
  refSpec : Option (List (Option (F32 × F32)) × Rat)
  drift : Nat
  deriving DecidableEq, Repr, Inhabited

/-- The summary registers of SUM_BEAT (Tables 07-8, 07-10): the position registers as their eight words. -/
structure EstSum where
  beat : Nat
  socStr : Nat
  socStrU : Nat
  eDis : Nat
  eChg : Nat
  qStr : Nat
  socMin : Nat × Nat
  socMax : Nat × Nat
  capMin : Nat × Nat
  rgMax : Nat × Int
  restWord : Word
  anchorWord : Word
  disagree : Nat
  suspect : Nat
  pages : List (List Word)
  /-- the least eps_dis and eps_chg of the evaluation, ppm (R191) -/
  epsDis : Option Rat
  epsChg : Option Rat
  deriving DecidableEq, Repr, Inhabited

/-- The estimation block. -/
structure Est where
  running : Bool
  filters : List Filter
  t6Beat : Nat
  restStart : Option Nat
  restBeats : Nat
  rest : Bool
  capRejectSeen : Bool
  capLearnt : Bool
  anchorTrue : Bool
  /-- W1 to W3 of discharge in bits 0 to 2, of charge in bits 3 to 5 -/
  live : Nat
  latch : Nat
  src : Nat
  trueCount : Nat
  sum : EstSum
  /-- the summary formed at the newest multiple of 100, shown from tick 330 of the beat after -/
  sumNext : Option EstSum
  seedSoc : Nat
  seedSocU : Nat
  seedQ : Nat
  seedQU : Nat
  seedAge : Word
  seedResult : Nat
  seeds : List Seed
  deriving DecidableEq, Repr, Inhabited

/-! ### Cell-resolved supervision (08) -/

/-- What the round brought of one tap (05 R137, 08 R200): drop, code, and the position's current in A and temperature in
0.01 °C at the beat of its conversion. -/
structure TapNow where
  drop : Int
  code : Qual
  ia : F32
  tp : Rat
  deriving DecidableEq, Repr, Inhabited

/-- One tap: what its cell record shows (Table 08-2) and what the rules keep beside it. -/
structure Tap where
  pos : Nat
  tap : Nat
  cfg : TapRec
  now : Option TapNow
  drop : Int
  everValid : Bool
  tq : Qual
  age : Nat
  iCell : Int
  tFuse : Int
  rFuseT : Nat
  /-- shares in ppm -/
  share : F32
  shareF : F32
  shareN : Nat
  shareBase : F32
  drift : F32
  lowRun : Nat
  interRun : Nat
  weak : Bool
  opened : Bool
  short : Bool
  intermittent : Bool
  shareRound : Bool
  restRound : Bool
  /-- x_c of the judged rest rounds of this run in A, newest first, at most 60 (R206, R207) -/
  xs : List F32
  iRest : Int
  /-- m_c in A -/
  mC : Rat
  dwell : Nat
  mStart : Rat
  iMin : Int
  iMax : Int
  qAbs : Nat
  openRound : Nat
  weakRound : Nat
  shortRound : Nat
  hist : List Int
  /-- round of the newest update -/
  round : Nat
  deriving DecidableEq, Repr, Inhabited

/-- The group of one position (R201, Table 08-10). -/
structure CellPos where
  kappa : F32
  kappaValid : Bool
  bad : Nat
  noCal : Bool
  nLive : Nat
  /-- live taps once the effects of R209 stand -/
  nLiveNext : Nat
  restRound : Bool
  deriving DecidableEq, Repr, Inhabited

/-- One finding of a round: KIND, cell index and VALUE, with n_live after the round (R212, Table 08-3). -/
structure Finding where
  kind : Nat
  cell : Nat
  value : Word
  nLive : Nat
  deriving DecidableEq, Repr, Inhabited

/-- The cell block. -/
structure Cells where
  taps : List Tap
  pos : List CellPos
  newShort : Bool
  newOpen : Bool
  newWeak : Bool
  /-- the newest round whose records are complete -/
  round : Option Nat
  /-- a round's values have been offered to the loops, and the greatest SHARE_F of a live tap in ppm among them (R211) -/
  offered : Bool
  shareMax : Option Rat
  /-- the groups and taps before the newest round's update, while the rest of that round may still end (R206, R213) -/
  before : Option (List CellPos × List Tap)
  /-- the findings of the newest round that are still to be entered (R212) -/
  findings : List Finding
  /-- the round whose update was stopped by an overrun (R209) -/
  lost : Option Nat
  /-- T_p of every position, and the beat they are of (R200) -/
  tps : Nat × List Rat
  lastKind : Nat
  lastCell : Nat
  deriving DecidableEq, Repr, Inhabited
/-! ### Limits, loops, balancing and heat (09) -/

/-- One loop of the graph (R217 to R222, Table 09-13). -/
structure LoopSt where
  /-- the record and the coefficients of the running period, taken at its snapshot (R220, R221) -/
  cfg : LoopCfg
  coefs : Coefs
  begun : Bool
  x : Int
  stale : Bool
  regT : Nat
  regS : Nat
  iState : Int
  ePrev : Option Int
  u : Int
  /-- a transfer waits for the period that runs (R221) -/
  transfer : Bool
  inputStale : Bool
  tracking : Bool
  winner : Bool
  satHi : Bool
  satLo : Bool
  /-- its period ended in this beat -/
  due : Bool
  /-- E10 has overrun in an earlier beat of the running period: its outputs are not written (02 Table 02-3, R232) -/
  lost : Bool
  deriving DecidableEq, Repr, Inhabited

/-- The winner of a group (R222, Table 09-11). -/
structure GroupSt where
  found : Bool
  u : Int
  slot : Nat
  loop : Nat
  deriving DecidableEq, Repr, Inhabited

/-- One thermal class record (R224 to R226, Table 09-12): judged temperature, T_eff, level and factor. -/
structure ThermSt where
  t : Int
  tEff : Option Int
  level : Nat
  stale : Bool
  factor : Nat
  deriving DecidableEq, Repr, Inhabited

/-- The limits and loops block. -/
structure Lim where
  loops : List LoopSt
  groups : List GroupSt
  therm : List ThermSt
  balEnable : Bool
  maxNode : Nat
  deadband : Nat
  limBeat : Nat
  /-- the eight published limits, discharge 2 s to continuous, then charge (Table 09-6) -/
  lim : Vector Nat 8
  fTherm : Nat
  plate : Nat
  fDie : Nat
  dieAcc : Nat
  /-- the estimator steps of this beat run (R228) -/
  estRuns : Bool
  schedSwitch : Bool
  envClamp : Bool
  chgCold : Bool
  /-- positions the plan bleeds, and those whose bit stood in the newest BEAT frame -/
  plan : List Nat
  bleed : List Nat
  refPos : Nat
  bleedNc : Nat
  deriving DecidableEq, Repr, Inhabited

/-! ### Safety functions (10) -/

/-- The latched fault causes of Table 10-7. -/
inductive Cause where
  | posOv | posUv | strOv | strUv | tempOt | tempUt | posAge | tempAge | feAge | i2tDis | i2tChg | fastOc
  | direction | insulation | accord | sbCorrupt | internal | toggle | bAlive | testHs | testLs | coil
  deriving DecidableEq, Repr, Inhabited

/-- One contactor Kk: its switches, requests, test state and coil readings (Tables 10-13, 10-15, 10-17). -/
structure Contactor where
  hs : Bool
  ls : Bool
  /-- CLOSE_REQ[k] of Table 10-2 -/
  closeReq : Bool
  /-- a close request of Table 10-4 holds -/
  req : Bool
  /-- an open request of K_CMD or of a job that waits for the next tick 350 -/
  openReq : Bool
  /-- the program's output bit of the output phase of the beat before, and the one taken at the newest tick 350 (R252) -/
  progBit : Bool
  progSeen : Bool
  /-- a demand has come, and since its end no output phase has given the bit 0 (R264) -/
  blocked : Bool
  /-- a demand has come, and no job has been started since its end (R264) -/
  lockout : Bool
  /-- LS_TEST[k] of Table 10-2, until channel B takes it at the TOGGLE edge -/
  lsTest : Bool
  /-- a pulse runs: true for the HS side; and whether an open request has acted in it (R260, R262) -/
  pulse : Option Bool
  pulseOpened : Bool
  nextLs : Bool
  lastPass : Bool
  postponed : Nat
  overdue : Bool
  /-- the beat of the newest test slot taken -/
  slotBeat : Option Nat
  hsMa : Nat
  lsMa : Nat
  coilOk : Bool
  badHs : Nat
  badLs : Nat
  deriving DecidableEq, Repr, Inhabited

/-- What one channel keeps of a safety input (R265, R266): disagreeing beats, faults, pulses in a row not seen. -/
structure SafeCh where
  count : Nat
  disc : Bool
  tpMiss : Nat
  tpFault : Bool
  deriving DecidableEq, Repr, Inhabited

/-- One safety input (R264 to R266, Table 10-16): filtered levels of its pins and what each channel keeps. -/
structure SafeIn where
  pinA : Bool
  pinB : Bool
  a : SafeCh
  b : SafeCh
  deriving DecidableEq, Repr, Inhabited

/-- What channel A keeps of one position, temperature point or front-end value (R238 to R242). -/
structure Watched where
  seen : Bool
  count : Nat
  deriving DecidableEq, Repr, Inhabited

/-- A precharge or close-main job in progress (R255 to R258). -/
structure JobRun where
  slot : Fin 8
  precharge : Bool
  first : Nat
  /-- the beat from which its first request may act -/
  start : Nat
  /-- the beat of the step 2 request, once made -/
  s : Option Nat
  passRun : Nat
  /-- the beat for the commit point, once ten beats in a row have passed -/
  cBeat : Option Nat
  commit : Option Nat
  /-- contactors it has asked to close, and those it asked at the newest tick 350 -/
  asked : Nat
  now : Nat
  /-- the tick at which an abort was latched (R331) -/
  abortAt : Option Nat
  deriving DecidableEq, Repr, Inhabited

/-- The safety block, channels A and B. -/
structure Saf where
  monitor : Bool
  copyA : Option SafetyBlock
  copyB : Option SafetyBlock
  rawA : List Byte
  rawB : List Byte
  /-- SB_CRC_A and SB_CRC_B, and the values at acceptance (R248) -/
  crcA : Nat
  crcB : Nat
  accA : Nat
  accB : Nat
  latchA : Bool
  latchB : Bool
  /-- SF_CAUSE with the tick at which it latched, and every cause that has latched (R269) -/
  cause : Option (Chan × Cause × Nat)
  causeTick : Nat
  latched : List (Chan × Cause)
  k : Vector Contactor 4
  sin : Vector SafeIn 4
  posW : List Watched
  strW : Watched
  tempW : List Watched
  /-- beats of the newest VALID aligned current and string voltage since T6 (R241) -/
  iHeld : Option Nat
  strHeld : Option Nat
  i2tDis : F32
  i2tChg : F32
  dirCount : Nat
  chgForbid : Bool
  /-- own insulation results in a row below INS_MIN (R246) -/
  insLow : Nat
  /-- beats of the newest evaluation of channel A, of the newest tick 350 with the contactors it named, and of the newest
  TOGGLE written (R250, R252, R261) -/
  evalBeat : Option Nat
  applied : Option (Nat × Nat)
  /-- the contactors whose switches were both on before that tick's requests (R261) -/
  onBefore : Nat
  toggle : Bool
  /-- channel B: a TOGGLE change not yet received; an edge has come since T6; edges missing since the newest; good edges
  in a row; the newest edge was good (R250) -/
  edgePending : Bool
  edgeSeen : Bool
  missing : Nat
  goodRun : Nat
  toggleOk : Bool
  noToggle : Bool
  alive : Nat
  aliveReads : List Nat
  overI : Bool
  /-- levels of TP0 and TP1 -/
  tp : Vector Bool 2
  dvRefused : Bool
  closeRefused : Bool
  preTimeout : Bool
  openLoad : Bool
  job : Option JobRun
  deriving DecidableEq, Repr, Inhabited
/-! ### The cyclic logic program (11) -/

/-- One task (R277, Table 11-13). -/
structure TaskSt where
  ovr : Nat
  lastOvr : Bool
  peak : Nat
  firstScan : Bool
  deriving DecidableEq, Repr, Inhabited

/-- One force (R289 to R291, Table 11-14). -/
structure Force where
  enable : Bool
  word : Bool
  area : Nat
  index : Nat
  val : Word
  deriving DecidableEq, Repr, Inhabited

/-- One remote station (R285 to R288, Table 11-15). -/
structure StationSt where
  good : Bool
  lastSeq : Option Nat
  /-- arrival of the newest good frame in ticks since beat 0 -/
  arrival : Nat
  newest : List Word
  /-- the words of the good frame before the newest -/
  prior : List Word
  /-- good frames with consecutive sequence numbers up to the newest, and the arrival of the second of the newest two such
  frames since it became LOST (R287) -/
  run : Nat
  pairAt : Option Nat
  losses : Nat
  outSeq : Nat
  deriving DecidableEq, Repr, Inhabited

/-- The logic engine block: images and memory as words that are listed when not zero, by index. -/
structure Logic where
  /-- the input image as the input phase fills it, and under the forces (R279, R290) -/
  rawInput : List (Nat × Word)
  input : List (Nat × Word)
  output : List (Nat × Word)
  mem : List (Nat × Word)
  inst : List (Nat × Word)
  consts : List Int
  tasks : Vector TaskSt 8
  forces : Vector Force 32
  stations : Vector StationSt 16
  varWrites : List (Nat × Word)
  /-- constants accepted in a batch and not yet applied by each task: task, index, value -/
  pendingConsts : List (Nat × Nat × Int)
  taskConsts : List (Nat × Nat × Int)
  forceRefused : Bool
  varRefused : Bool
  svcOvr : Bool
  protOvr : Bool
  protNow : Bool
  /-- the tasks that have run or overrun in this beat (R273) -/
  ranNow : List Nat
  t8Pending : Bool
  deriving DecidableEq, Repr, Inhabited

/-! ### Fabric, banks and partner pairs (12) -/

/-- One fabric port (Table 12-10). -/
structure PortSt where
  link : Bool
  rx : Nat
  dup : Nat
  err : Nat
  deriving DecidableEq, Repr, Inhabited

/-- A module seen through DISCOVER or ADDR_CLAIM (R301, R302): MAC address, address shown and the beat it arrived. -/
structure Peer where
  mac : Nat
  addr : Nat
  role : Nat
  bank : Nat
  beat : Nat
  discovered : Bool
  deriving DecidableEq, Repr, Inhabited

/-- One STRING of the bank (R307 to R309, Table 12-13). -/
structure Member where
  string : Nat
  body : BankBody
  claim : Nat
  /-- the beat its newest frame belongs to -/
  beat : Nat
  miss : Nat
  included : Bool
  mute : Bool
  share : Nat
  deriving DecidableEq, Repr, Inhabited

/-- A BANK_STATE frame waiting for its computation (R308). -/
structure BankFrame where
  string : Nat
  claim : Nat
  beat : Nat
  body : BankBody
  deriving DecidableEq, Repr, Inhabited

/-- PAIR_STATUS.STATE (Table 12-11). -/
inductive PairSt where
  | none | waiting | formed | lost
  deriving DecidableEq, Repr, Inhabited

/-- The partner pair (R311 to R320). -/
structure Pair where
  st : PairSt
  partner : Option StatusBody
  goodRun : Nat
  missRun : Nat
  gotNow : Bool
  configBad : Bool
  yielded : Bool
  holder : Bool
  /-- YIELD taken: acts from the next beat boundary; RECLAIM taken: the beat of the primary frames -/
  yieldNext : Bool
  reclaimAt : Option Nat
  exchMiss : Nat
  statusMiss : Nat
  stepMismatch : Bool
  mismatchRun : Nat
  front : Option (Nat × FrontBody)
  stream : Option (Nat × StreamBody)
  plan : Option (Nat × PlanBody)
  /-- delays measured here that wait for their DELAYS frame: node address, END, D (R313) -/
  delays : List (Nat × Bool × Nat)
  deriving DecidableEq, Repr, Inhabited

/-- The fabric and partner block. -/
structure Fab where
  port : Vector PortSt 3
  /-- source MAC, HSR sequence and beat of the frames accepted in the last 400 ms (R297) -/
  hsrSeen : List (Nat × Nat × Nat)
  /-- (SRC, KIND, SEQ, DST, beat): R299 -/
  paySeen : List (Nat × Nat × Nat × Nat × Nat)
  nodeTable : List (Nat × Nat)
  proxies : List Nat
  supRun : Nat
  /-- the beat of the newest own supervision frames (Table 12-1) -/
  supBeat : Option Nat
  ringOpen : Bool
  lateRx : Bool
  routeDrop : Bool
  claimLowRx : Bool
  addr : Nat
  addrValid : Bool
  addrConflict : Bool
  /-- the side of a static conflict that must fall silent (R302) -/
  silenced : Bool
  dynamic : Bool
  candidate : Nat
  claims : Nat
  claimBeat : Nat
  peers : List Peer
  /-- own sequence numbers by KIND (Table 12-2) -/
  seq : Vector Nat 16
  /-- claims held per STRING for STATION frames: STRING, HELD, beat of the newest accepted frame (R318) -/
  held : List (Nat × Nat × Nat)
  bankIn : List BankFrame
  members : List Member
  joinRefused : Bool
  left : Bool
  joined : Bool
  shareEqual : Bool
  bankEpoch : Nat
  vBus : Int
  bankSum : Int
  bankCalc : Vector Nat 8
  /-- sum of I_MEAN over the running epoch, and over the last one that has ended -/
  epochAcc : Int
  iEpoch : Int
  pair : Pair
  deriving DecidableEq, Repr, Inhabited

/-! ### CAN FD and field channels (14) -/

/-- CANc_ERR.STATE (Table 14-10). -/
inductive CanSt where
  | active | passive | busOff | integrating
  deriving DecidableEq, Repr, Inhabited

/-- One receive filter (Table 14-11). -/
structure CanFilter where
  xtd : Bool
  enable : Bool
  id : Nat
  mask : Nat
  deriving DecidableEq, Repr, Inhabited

/-- TXBb_STAT.STATE (Table 14-12). -/
inductive TxSt where
  | idle | pending | done | aborted
  deriving DecidableEq, Repr, Inhabited

/-- One transmit buffer (R347 to R349, Table 14-12). -/
structure Txb where
  brs : Bool
  fdf : Bool
  dlc : Nat
  xtd : Bool
  id : Nat
  data : List Word
  st : TxSt
  abortLate : Bool
  attempts : Nat
  /-- an abort is latched while an attempt is on the bus -/
  abortReq : Bool
  deriving DecidableEq, Repr, Inhabited

/-- A pending publication (R354): record index, and the data bytes taken when it fell due. -/
structure PubPend where
  index : Nat
  canId : Nat
  data : List Byte
  deriving DecidableEq, Repr, Inhabited

/-- One CAN channel. -/
structure CanCh where
  cfg : CanCfg
  nPub : Nat
  blankSet : Bool
  loop : Nat
  tec : Nat
  recCnt : Nat
  errSt : CanSt
  ackRun : Nat
  noAck : Bool
  noAckSeen : Bool
  passiveSeen : Bool
  busoffSeen : Bool
  rxOvf : Bool
  busoff : Nat
  txOk : Nat
  rx : Queue
  filt : Vector CanFilter 4
  txb : Vector Txb 3
  /-- the buffer offered in the present arbitration (R348) -/
  offered : Option (Fin 3)
  /-- another node's frame holds the bus since arbitration was lost -/
  busy : Bool
  /-- access-profile responses that wait for TXB0 -/
  rspQ : List (List Byte)
  pubs : List PubPend
  pubSkip : Nat
  pubSent : Nat
  deriving DecidableEq, Repr, Inhabited

/-- One field channel (R357 to R361, Table 14-15). -/
structure IoCh where
  filtered : Bool
  /-- the value driven after forcing and safe values, before hold-off -/
  driven : Bool
  overload : Bool
  overtemp : Bool
  /-- the switch has cooled below 130 °C since OVERTEMP was set -/
  cool : Bool
  openWire : Bool
  readback : Bool
  seen : Bool
  deriving DecidableEq, Repr, Inhabited

/-- The field I/O block. -/
structure Fio where
  /-- the personality is in effect: from T6 on -/
  live : Bool
  io : Vector IoCh 16
  cnt : Vector Nat 4
  th : Vector TempPt 6
  faultSeenAny : Bool
  tripSeen : Bool
  silent : Bool
  trips : Nat
  armed : Bool
  /-- beats begun since the last output phase, and the nanosecond of its beat at which that phase (or a new SILENCE)
  restarted the silence watch -/
  since : Nat
  phaseNs : Nat
  deriving DecidableEq, Repr, Inhabited

/-! ### Power modes, watch and life cycle (15) -/

/-- LC_STATE.STATE (Table 15-10). -/
inductive LcSt where
  | factory | shipped | owned | returned | scrapped
  deriving DecidableEq, Repr, Inhabited

/-- One owner key slot: the key (x, y) once written, and its revocation fuse. -/
structure KeySlot where
  key : Option (Nat × Nat)
  revoked : Bool
  deriving DecidableEq, Repr, Inhabited

/-- A listed node as the retention memory holds it (R373). -/
structure WatchNode where
  addr : Nat
  line : Nat
  d : Nat
  posBase : Nat
  posMask : Nat
  tempMask : Nat
  taps : Nat
  rfuse : Nat
  ftc : Int
  dwell : Nat
  /-- beats 10 to 19 of the running check without an accepted RESULT -/
  missed : Nat
  /-- sums over beats 10 to 19: local order of positions, sum and number -/
  sums : List (Int × Nat)
  /-- its VALID temperatures of beat 100, and the tap that met R375 in the running check: MUX and −i_c in mA -/
  temps : List Int
  hit : Option (Nat × Nat)
  /-- end W is its line's primary end -/
  fromW : Bool
  deriving DecidableEq, Repr, Inhabited

/-- The plan in retention memory and the check that runs from it (R373 to R376). -/
structure WatchRun where
  plan : Option WatchCfg
  nodes : List WatchNode
  thOn : List Bool
  fromLoaded : Bool
  notHigher : Bool
  /-- the claim number that the check's frames carry (04 Table 04-2) -/
  claim : Nat
  checks : Nat
  /-- the next beat of the running check -/
  beat : Option Nat
  /-- its insulation cycle has settled; WAKE_IN has come in it -/
  insDone : Bool
  wakeIn : Bool
  strSum : Int
  strN : Nat
  deriving DecidableEq, Repr, Inhabited

/-- The retained watch result (Table 15-16). -/
structure WatchRes where
  count : Nat
  tripped : Nat
  skipped : Nat
  cause : Nat
  vStr : Int
  vMin : Option (Nat × Int)
  vMax : Option (Nat × Int)
  tMax : Option (Nat × Int)
  ins : Nat
  short : Nat × Nat × Nat
  sec : Nat
  deriving DecidableEq, Repr, Inhabited

/-- The power and watch block, the always-on domain and the life-cycle fuses. -/
structure Pw where
  vsup : Nat
  vload : Nat
  vsupLow : Bool
  vsupHigh : Bool
  vloadLow : Bool
  vsupDip : Bool
  lcRefused : Bool
  wakeTrip : Bool
  wakeHold : Bool
  wakeCause : Nat
  wakeInAlso : Bool
  watch : Option WatchRun
  res : WatchRes
  resReadable : Bool
  /-- the module holds in reset after a power fail (Table 15-4) -/
  held : Bool
  lc : LcSt
  keys : Vector KeySlot 4
  /-- ENTERED and WIPED fuses of the newest life-cycle change (R381) -/
  entered : Bool
  wiped : Bool
  lcResult : Nat
  lcData : Vector Word 32
  /-- how often NONCE has changed: NONCE is Config.nonce of it (R380) -/
  nonceCtr : Nat
  deriving DecidableEq, Repr, Inhabited

/-! ### Hardware recorder, journal and firmware update (16) -/

/-- An event that a channel or the power-fail path records, before its record is committed (R384): code, CHAN and
P0 to P3, with OP_SEC and PCYCLE at the event. -/
structure RecEvent where
  code : Nat
  chan : Nat
  opSec : Nat
  pcycle : Nat
  p : List Word
  /-- the tick of the event, counted from beat 0 (R385) -/
  tick : Nat
  deriving DecidableEq, Repr, Inhabited

/-- An event that firmware enters in the journal, before its record is formed (R387). -/
structure JnlEvent where
  code : Nat
  session : Nat
  payload : List Word
  deriving DecidableEq, Repr, Inhabited

/-- The counter block, the recorder, the journal and the freeze (R382 to R392). Records are their 8 or 16 words. -/
structure Rcd where
  opSec : Nat
  pcycle : Nat
  jnlSeq : Nat
  recLost : Nat
  jnlLost : Nat
  recs : List (List Word)
  jnls : List (List Word)
  recQ : List RecEvent
  jnlQ : List JnlEvent
  newRecord : Bool
  rrFull : Bool
  jrFull : Bool
  crownRefused : Bool
  freeze : Option (Fin 32)
  frozenBeats : Nat
  holdRec : List RecEvent
  holdJnl : List (List Word)
  deriving DecidableEq, Repr, Inhabited

/-- UP_STATUS.PHASE (Table 16-9). -/
inductive UpPhase where
  | empty | manifest | receiving | ready | trial | rejected
  deriving DecidableEq, Repr, Inhabited

/-- One firmware slot: its manifest bytes, the received pieces with their 256 words, and its firmware version. -/
structure FwSlot where
  man : List Byte
  next : Nat
  pieces : List (Nat × List Word)
  deriving DecidableEq, Repr, Inhabited

/-- What a session holds for its pieces (R397). -/
structure UpSess where
  buf : List Word
  result : Nat
  /-- the piece that waits to be judged -/
  piece : Option Nat
  deriving DecidableEq, Repr, Inhabited

/-- The update block. -/
structure Upd where
  active : Nat
  phase : UpPhase
  slot : FwSlot
  sess : Vector UpSess 32
  /-- the last manifest piece has arrived: session that sent it -/
  manCheck : Option (Fin 32)
  imgCheck : Option (Fin 32)
  /-- firmware FW_MINOR and MANIFEST SVN of each slot, once known -/
  slotMan : Vector (List Byte) 2
  fellBack : Bool
  expired : Bool
  starts : Nat
  trialSec : Nat
  svnMin : Nat
  actSec : Nat
  reserveLow : Bool
  deriving DecidableEq, Repr, Inhabited

/-! ### The state of the block -/

/-- The identity and state block's own part (13 Table 13-11): present state, previous code and count of changes. -/
structure St where
  mode : Mode
  prev : Nat
  changes : Nat
  deriving DecidableEq, Repr, Inhabited

/-- A frame on the chain as its sender forms it (04 R87, Table 04-2). -/
structure ChainFrame where
  typ : Nat
  addr : Nat
  len : Nat
  hops : Nat
  claim : Nat
  seq : Nat
  payload : List Byte
  crc : Nat
  deriving DecidableEq, Repr, Inhabited

/-- What the block puts out while it carries out one command: responses, frames and pin levels. The list in the state
holds what the newest command put out. -/
inductive Emit where
  /-- a response to a request, or to a single host write or read -/
  | rsp (r : Rsp)
  /-- an outbound chain frame: line, end it leaves by, and the frame -/
  | chain (line : Nat) (fromEnd : End) (frame : ChainFrame)
  /-- an inbound frame sent by a node: line, hop, the end it goes towards, the nanosecond of its beat at which it starts,
  and the frame -/
  | node (line hop : Nat) (toEnd : End) (startNs : Nat) (frame : ChainFrame)
  /-- a payload frame on the fabric: the Ethernet destination where it is addressed by MAC only, its header fields, the stamp
  identifier it asks for, the port mask it leaves by and its payload -/
  | fabric (mac : Option Nat) (kind src dst string claim seq beat : Nat) (stamp : Option Nat) (ports : Nat) (payload : List Byte)
  /-- a ring or routed frame passed on: KIND, DST and the port mask -/
  | forward (kind dst : Nat) (ports : Nat)
  /-- a gPTP Sync of a domain on a port, or a supervision frame -/
  | sync (domain port : Nat)
  | supervision
  /-- a CAN frame offered: channel, buffer -/
  | can (c : Nat) (b : Nat)
  /-- a test pulse on TP0 or TP1 -/
  | tpPulse (tp : Nat)
  deriving DecidableEq, Repr, Inhabited

/-- What the model keeps to tell which W1C bits were set within the present tick (00 R11): the tick in which the newest
command ended, the W1C bits of every register with such bits at that time, and those at the end of the tick before. -/
structure W1cMark where
  tick : Nat
  last : List Nat
  old : List Nat
  /-- W1C bits that were set again while they stood at 1: the tick, the register's address and the bits -/
  again : List (Nat × Nat × Nat)
  deriving DecidableEq, Repr, Inhabited

/-- The whole state of the block. -/
structure State where
  st : St
  time : Time
  ldr : Ldr
  cal : Option Calibre
  chain : Chain
  nodes : List NodeS
  meas : Meas
  spec : Spectra
  est : Est
  cells : Cells
  lim : Lim
  saf : Saf
  lg : Logic
  fab : Fab
  host : HostIf
  can : Vector CanCh 2
  fio : Fio
  pw : Pw
  rcd : Rcd
  upd : Upd
  /-- the commands that wait, first in first out -/
  pending : List Instr
  /-- the model's own note of the W1C bits -/
  mark : W1cMark
  /-- what the newest command put out -/
  sent : List Emit
  /-- the model's own counter: every free value takes its next number -/
  freeCtr : Nat
  deriving DecidableEq, Repr, Inhabited

/-- No command of this block stops in a fault: the spec answers every event with an effect, with an error code, or
with nothing. -/
inductive Fault where
  deriving DecidableEq, Repr

/-- Why a command is refused. -/
inductive Refusal where
  /-- raised by `exec` for a command whose meaning is not written yet; safe: the run ends, nothing is claimed -/
  | notModelled (mnemonic : String)
  deriving DecidableEq, Repr

/-! ### After reset -/

/-- The BLANK settings of a CAN channel (14 R346). -/
def CanCfg.blank : CanCfg :=
  { nbrp := 1, ntseg1 := 127, ntseg2 := 32, nsjw := 32, dbrp := 1, dtseg1 := 31, dtseg2 := 8, dsjw := 8,
    txOrder := 0, access := true, accId := 0x98DA4800 }

/-- A transmit buffer after reset (14 Table 14-12): idle, every word zero. -/
def Txb.reset : Txb :=
  { brs := false, fdf := false, dlc := 0, xtd := false, id := 0, data := List.replicate 16 0, st := .idle,
    abortLate := false, attempts := 0, abortReq := false }

/-- A CAN channel after reset: the BLANK settings in force, BLANK_SET 1, everything else zero (14 Table 14-8). -/
def CanCh.reset : CanCh :=
  { (default : CanCh) with cfg := CanCfg.blank, blankSet := true, txb := Vector.replicate 3 Txb.reset }

/-- A temperature point that nothing maps: code UNUSED (05 Table 05-5). -/
def TempPt.unused : TempPt := { mapped := false, held := 0, heldBeat := none, code := .unused }

/-- Limits and balancing after reset: BAL_CTRL reads 0x8008_1388 (09 Table 09-6), everything else zero. -/
def Lim.reset : Lim :=
  { (default : Lim) with balEnable := true, maxNode := 8, deadband := 5000 }

/-- The loader after reset: every register zero (03 Table 03-11). -/
def Ldr.reset : Ldr :=
  { (default : Ldr) with onSel := List.replicate 16 0, onVal := List.replicate 16 0 }

/-- The field I/O block after reset: every output off, inputs unused (14 R359, R362). -/
def Fio.reset : Fio := { (default : Fio) with th := Vector.replicate 6 TempPt.unused }

/-- Power, watch and life cycle after a first power-up: WAKE_CAUSE reads POWER_ON, nothing retained, WAKE_OUT off.
DESIGN CHOICE: the part is SHIPPED and holds no owner key (the fuses are part data; log 4). -/
def Pw.reset : Pw := { (default : Pw) with wakeCause := 1, lc := .shipped }

/-- The record store and counters of a part at its first power-up: nothing recorded, and PCYCLE counts this start.
DESIGN CHOICE: the counter block is part data (log 5). -/
def Rcd.reset : Rcd := { (default : Rcd) with pcycle := 1 }

/-- The update block of a part whose inactive slot is erased (DESIGN CHOICE: part data, log 5). -/
def UpSess.reset : UpSess := { buf := List.replicate 256 0, result := 0, piece := none }

/-- The update block after reset. -/
def Upd.reset : Upd := { (default : Upd) with sess := Vector.replicate 32 UpSess.reset }

/-- The machine right after reset: BLANK, no calibre, fabric time 0 in FREE (02 R416), every session closed, every
queue empty, and each register at the reset value its table gives. -/
def State.reset : State :=
  { st := { mode := .blank, prev := 0, changes := 0 }
    time := default
    ldr := Ldr.reset
    cal := none
    chain := default
    nodes := []
    meas := default
    spec := default
    est := default
    cells := default
    lim := Lim.reset
    saf := default
    lg := default
    fab := default
    host := default
    can := Vector.replicate 2 CanCh.reset
    fio := Fio.reset
    pw := Pw.reset
    rcd := Rcd.reset
    upd := Upd.reset
    pending := []
    mark := default
    sent := []
    freeCtr := 0 }

end Sys2Proof.Machine
end

