-- ==== Sys2Proof/Machine/Ops.lean ====
section
/-! DEFINITION. The named operations every family uses: reading and packing fields, saturating counts, fixed tables
held in vectors, the output list, free values, the entries for the recorder and the journal, and the change of state
with its journal record. -/

namespace Sys2Proof.Machine

/-- What a command answers. -/
abbrev Res := Host.Outcome State Fault Refusal

/-! ### Fields of words (00 R5 to R7) -/

/-- A Bool as one bit. -/
def b2n (b : Bool) : Nat := if b then 1 else 0

/-- A number as a register word. -/
def toW (n : Nat) : Word := BitVec.ofNat 32 n

/-- A signed number as a register word, two's complement. -/
def intW (i : Int) : Word := BitVec.ofInt 32 i

/-- The low `w` bits of a signed number, two's complement. -/
def intField (i : Int) (w : Nat) : Nat := (i % (2 ^ w : Nat)).toNat

/-- A field of width `w` at bit `lo` of a word under construction. -/
def fld (v lo w : Nat) : Nat := v % 2 ^ w * 2 ^ lo

/-- One bit at place `k` of a word under construction. -/
def bitAt (b : Bool) (k : Nat) : Nat := if b then 2 ^ k else 0

/-- Bits [hi:lo] of a number. -/
def bitsOf (n hi lo : Nat) : Nat := n / 2 ^ lo % 2 ^ (hi - lo + 1)

/-- Bits [hi:lo] of a word. -/
def wBits (w : Word) (hi lo : Nat) : Nat := bitsOf w.toNat hi lo

/-- Bit k of a word. -/
def wBit (w : Word) (k : Nat) : Bool := w.toNat.testBit k

/-- An unsigned field of width `w` read as signed (00 R7). -/
def signed (n w : Nat) : Int := if n < 2 ^ (w - 1) then (n : Int) else (n : Int) - (2 ^ w : Nat)

/-- Bits of a mask that are set, in ascending order. -/
def maskBits (n m : Nat) : List Nat := (List.range n).filter (fun k => m.testBit k)

/-- The mask with exactly the bits of the list. -/
def maskOf (l : List Nat) : Nat := l.foldl (fun m k => m ||| 2 ^ k) 0

/-- How many bits of the low n are set. -/
def popCount (n m : Nat) : Nat := (maskBits n m).length

/-- The mask of the indices below n at which f holds. -/
def maskIf (n : Nat) (f : Nat → Bool) : Nat := maskOf ((List.range n).filter f)

/-! ### Counts that saturate -/

/-- n + k, saturating at m. -/
def satAdd (n k m : Nat) : Nat := min m (n + k)

/-- A number clamped to a range. -/
def clampI (lo hi x : Int) : Int := max lo (min hi x)

/-! ### Vectors of fixed length -/

/-- A vector changed at one place. -/
def updAt {α : Type} {n : Nat} (v : Vector α n) (i : Fin n) (f : α → α) : Vector α n := v.set i (f v[i])

/-- A vector changed at a place given as a number; nothing changes beyond its end. -/
def updNat {α : Type} {n : Nat} (v : Vector α n) (i : Nat) (f : α → α) : Vector α n :=
  if h : i < n then updAt v ⟨i, h⟩ f else v

/-- A vector's entry at a number, the default beyond its end. -/
def getNat {α : Type} [Inhabited α] {n : Nat} (v : Vector α n) (i : Nat) : α :=
  if h : i < n then v[i] else default

/-- A vector changed everywhere, with the index at hand. -/
def mapAll {α β : Type} {n : Nat} (v : Vector α n) (f : Nat → α → β) : Vector β n :=
  Vector.ofFn (fun i => f i.val v[i])

/-- A list changed at one place. -/
def updL {α : Type} (l : List α) (i : Nat) (f : α → α) : List α := l.modify i f

/-- A list changed everywhere, with the index at hand. -/
def mapL {α β : Type} (l : List α) (f : Nat → α → β) : List β := l.mapIdx f

/-! ### Sparse words: an index not listed reads 0; the list rises strictly and lists no 0 -/

/-- A word of a sparse area. -/
def wordAt (l : List (Nat × Word)) (i : Nat) : Word := ((l.find? (fun p => p.1 == i)).map (·.2)).getD 0

/-- A sparse area with one word written; writing 0 takes the entry out. -/
def wordPut : List (Nat × Word) → Nat → Word → List (Nat × Word)
  | [], i, v => if v = 0 then [] else [(i, v)]
  | (j, u) :: r, i, v =>
    if i < j then (if v = 0 then (j, u) :: r else (i, v) :: (j, u) :: r)
    else if i = j then (if v = 0 then r else (i, v) :: r)
    else (j, u) :: wordPut r i v

/-! ### Output and free values -/

/-- Ticks since beat 0. -/
def absTick (s : State) : Nat := s.time.beat * 400 + s.time.ns / 2500

/-- A register that holds W1C bits: its address, and which of these bits are 1. -/
abbrev W1cRow := Nat × (State → Nat)

/-- The registers of the host, loader, timing and chain blocks that hold W1C bits. -/
def w1cRowsA : List W1cRow :=
  [(0x3000, fun s => bitAt s.host.timeoutSeen 9 + bitAt s.host.fullSeen 8),
   (0x5000, fun s => bitAt s.ldr.replaced 4),
   (0x5040, fun s => bitAt s.ldr.onApplied 2),
   (0x6000, fun s => bitAt s.time.switchRefused 13 + bitAt s.time.switched 12 + bitAt s.time.stepped 11),
   (0x6060, fun s => maskIf 11 (fun e => (getNat s.time.engines e).ovr)),
   (0x7000, fun s => bitAt s.chain.claimHigher 21 + bitAt s.chain.nodeRejoined 20 + bitAt s.chain.unknownNode 19)]

/-- Those of the measuring, estimating, cell, limit and safety blocks. -/
def w1cRowsB : List W1cRow :=
  [(0x8000, fun s => bitAt s.meas.vlnkOvr 13 + bitAt s.meas.vstrOvr 12 + bitAt s.meas.curOvr 11 +
      bitAt s.meas.acc.rOutRange 8),
   (0x9000, fun s => bitAt s.est.capRejectSeen 9 + bitAt s.est.capLearnt 8 + bitAt s.est.anchorTrue 7),
   (0x902C, fun s => s.est.latch % 64 * 256),
   (0x14000000, fun s => bitAt s.cells.newShort 3 + bitAt s.cells.newOpen 2 + bitAt s.cells.newWeak 1),
   (0xA000, fun s => bitAt s.lim.schedSwitch 8 + bitAt s.lim.envClamp 7),
   (0xB000, fun s => bitAt s.saf.dvRefused 10 + bitAt s.saf.closeRefused 9 + bitAt s.saf.preTimeout 8 +
      bitAt s.saf.openLoad 7)]

/-- Those of the logic, fabric, field, power, recorder and update blocks. -/
def w1cRowsC : List W1cRow :=
  [(0xC000, fun s => bitAt s.lg.forceRefused 7 + bitAt s.lg.varRefused 6 + bitAt s.lg.svcOvr 5 + bitAt s.lg.protOvr 4),
   (0xD000, fun s => bitAt s.fab.lateRx 5 + bitAt s.fab.routeDrop 4 + bitAt s.fab.claimLowRx 3),
   (0xD0C0, fun s => bitAt s.fab.joinRefused 6 + bitAt s.fab.left 5 + bitAt s.fab.joined 4),
   (0xF000, fun s => bitAt s.fio.tripSeen 1 + bitAt s.fio.faultSeenAny 0),
   (0x10000, fun s => bitAt s.pw.lcRefused 6 + bitAt s.pw.vsupDip 5),
   (0x11000, fun s => bitAt s.rcd.crownRefused 6 + bitAt s.rcd.newRecord 0),
   (0x12000, fun s => bitAt s.upd.fellBack 4)]

/-- The row of one trigger. -/
def w1cTrigger (k : Nat) : W1cRow :=
  (0x60CC + 0x10 * k, fun s => bitAt (getNat s.time.trg k).late 2 + bitAt (getNat s.time.trg k).fired 1)

/-- The row of one port's timestamp queue. -/
def w1cStamp (p : Nat) : W1cRow :=
  (0x6100 + 0x20 * p, fun s => bitAt (getNat s.time.tsq p).popMiss 9 + bitAt (getNat s.time.tsq p).ovf 8)

/-- The row of one host queue. -/
def w1cQueue (q : Nat) : W1cRow :=
  (0x4004 + 0x20 * q, fun s => bitAt (getNat s.host.queues q).flushed 19 +
    bitAt (getNat s.host.queues q).underrun 18 + bitAt (getNat s.host.queues q).ovf 17)

/-- The row of one CAN controller. -/
def w1cCan (c : Nat) : W1cRow :=
  (0xE000 + 0x400 * c, fun s => bitAt (getNat s.can c).rxOvf 7 + bitAt (getNat s.can c).busoffSeen 6 +
    bitAt (getNat s.can c).passiveSeen 5 + bitAt (getNat s.can c).noAckSeen 4)

/-- The row of one CAN controller's receive queue. -/
def w1cCanRx (c : Nat) : W1cRow :=
  (0xE014 + 0x400 * c, fun s => bitAt (getNat s.can c).rx.flushed 19 + bitAt (getNat s.can c).rx.underrun 18 +
    bitAt (getNat s.can c).rx.ovf 17)

/-- The row of one field input or output. -/
def w1cField (k : Nat) : W1cRow := (0xF040 + 4 * k, fun s => bitAt (getNat s.fio.io k).seen 0)

/-- The registers that hold W1C bits: address, and which of these bits are 1. -/
def w1cTable : List W1cRow :=
  w1cRowsA ++ w1cRowsB ++ w1cRowsC ++ (List.range 4).map w1cTrigger ++ (List.range 3).map w1cStamp ++
    (List.range 8).map w1cQueue ++ (List.range 2).map w1cCan ++ (List.range 2).map w1cCanRx ++
    (List.range 16).map w1cField

/-- The note of the W1C bits moves on to the end of the newest command (00 R11). -/
def markTick (s : State) : State :=
  { s with mark := { tick := absTick s, last := w1cTable.map (fun r => r.2 s)
                     old := if absTick s = s.mark.tick then s.mark.old else s.mark.last
                     again := s.mark.again.filter (fun x => x.1 == absTick s) } }

/-- The module sets W1C bits of a register: those that stand at 1 already are noted, since R11 keeps them too (00 R11). -/
def setAgain (a bits : Nat) (s : State) : State :=
  { s with mark := { s.mark with again := (absTick s, a, bits) :: s.mark.again } }

/-- The same where a condition holds. -/
def setAgainIf (c : Bool) (a bits : Nat) (s : State) : State := if c then setAgain a bits s else s

/-- The W1C bits of a register that were set again within the present tick. -/
def againBits (a : Nat) (s : State) : Nat :=
  (s.mark.again.filter (fun x => x.1 == absTick s && x.2.1 == a)).foldl (fun m x => m ||| x.2.2) 0

/-- The W1C bits of a register word that were set within the present tick. -/
def setThisTick (a : Nat) (s : State) : Nat :=
  match w1cTable.findIdx? (fun r => r.1 == a) with
  | none => 0
  | some i =>
    let now := ((w1cTable[i]?).map (fun r => r.2 s)).getD 0
    let before := ((if absTick s = s.mark.tick then s.mark.old else s.mark.last)[i]?).getD 0
    now &&& ((now ^^^ before) ||| againBits a s)

/-- A word written to a register, without the ones for W1C bits that the module set in the same tick (00 R11). -/
def keepFresh (a : Nat) (v : Word) (s : State) : Word := v &&& ~~~(toW (setThisTick a s))

/-- Every command starts with an empty output list. -/
def fresh (s : State) : State := { markTick s with sent := [] }

/-- One more output of this command. -/
def put (e : Emit) (s : State) : State := { s with sent := s.sent ++ [e] }

/-- The fabric address as frames and registers show it: 0 before ADDR_VALID (12 Tables 12-2, 12-9). -/
def ownAddr (s : State) : Nat := if s.fab.addrValid then s.fab.addr else 0

/-- Section 0x11 of the loaded calibre; every field zero without one (12 R301). -/
def fabCfg (s : State) : FabCfg := (s.cal.map (·.fab)).getD default

/-- The STRING identity: the own address, of a pair the lower of the two (12 R307). -/
def ownString (s : State) : Nat := if (fabCfg s).role = 1 then min (ownAddr s) (fabCfg s).partnerAddr else ownAddr s

/-- A payload frame leaves, by MAC only where an Ethernet destination is given, under a header with this module's SRC, STRING and CLAIM (12 Table 12-2). A module that
R302 has silenced sends only DISCOVER and ACCESS_RSP. -/
def emitFab (mac : Option Nat) (kind dst seq beat : Nat) (stamp : Option Nat) (ports : Nat) (payload : List Byte) (s : State) : State :=
  if s.fab.silenced && kind != 1 && kind != 4 then s
  else
    let claim := if (fabCfg s).role = 1 then (fabCfg s).claim else 0
    put (.fabric mac kind (ownAddr s) dst (ownString s) claim seq beat stamp ports payload) s

/-- A payload frame sent by this module: it takes the next SEQ of its KIND (12 Table 12-2). -/
def sendFab (mac : Option Nat) (kind dst beat : Nat) (stamp : Option Nat) (ports : Nat) (payload : List Byte) (s : State) : State :=
  emitFab mac kind dst (getNat s.fab.seq kind) beat stamp ports payload
    { s with fab := { s.fab with seq := updNat s.fab.seq kind (fun x => (x + 1) % 2 ^ 32) } }

/-- The ports by which a frame to an address leaves: the ring, and P2 too, but from a bridge only what R304 lets out
of the ring (12 R297, R304). -/
def outPorts (kind dst : Nat) (s : State) : Nat :=
  let c := fabCfg s
  if c.role = 2 then
    if dst = 0xFFFF then (if kind = 5 ∨ kind = 8 ∨ kind = 10 then 7 else 3)
    else if dst ≠ 0 ∧ c.routes.any (fun r => r.1 == dst / 1024) = true then 4 else 3
  else 7

/-- A state with one more free value taken. -/
def tookFree (k : Nat) (s : State) : State := { s with freeCtr := s.freeCtr + k }

/-- A quotient that no rule rounds: the whole number below or, where there is a remainder and the free bit says so, the
one above (log 7). -/
def divFree (k : Nat) (num : Int) (den : Int) : Int :=
  if den = 0 then Config.freeInt k
  else if num % den = 0 then num / den
  else Int.fdiv num den + (if Config.roundUp k then 1 else 0)

/-- A rational that no rule rounds (log 7). -/
def ratFree (k : Nat) (r : Rat) : Int := divFree k r.num r.den

/-- A quotient rounded to the nearest whole number where no rule says which way a half goes: the free bit does (log 7). -/
def nearFree (k : Nat) (num : Int) (den : Nat) : Int :=
  if den = 0 then Config.freeInt k
  else if 2 * (num % den) = den then num / den + (if Config.roundUp k then 1 else 0)
  else (2 * num + den) / (2 * den)

/-- Quotient rounded to the nearest whole number, a half away from zero (05 R121). -/
def divNear (num : Int) (den : Nat) : Int :=
  if 0 ≤ num then (2 * num + den) / (2 * den) else -((2 * -num + den) / (2 * den))

/-- FW_MINOR of the firmware in a slot: that of its manifest, once one has been accepted. -/
def fwMinorOf (s : State) (slot : Nat) : Nat :=
  let m := getNat s.upd.slotMan slot
  if m.isEmpty then (Config.fwMinor slot).toNat else (m.getD 11 0).toNat

/-! ### Time at hand -/

/-- The beat number. -/
def beatOf (s : State) : Nat := s.time.beat

/-- The tick within the beat (02 R33). -/
def tickOf (s : State) : Nat := s.time.ns / 2500

/-- Fabric time in nanoseconds (02 R32). -/
def fabNs (s : State) : Nat := s.time.beat * 1000000 + s.time.ns

/-- A command has had its turn in the present beat (log 33). -/
def hadTurn (x : Turn) (s : State) : Bool := s.time.turns.contains x

/-- A command takes its turn in the present beat. -/
def takeTurn (x : Turn) (s : State) : State := { s with time := { s.time with turns := x :: s.time.turns } }

/-- A command of tick t may act: the tick has not passed and the command has not had its turn. -/
def mayAct (x : Turn) (t : Nat) (s : State) : Bool := decide (tickOf s ≤ t) && !hadTurn x s

/-- The block is at a given tick of its beat. -/
def atTick (t : Nat) (s : State) : State := { s with time := { s.time with ns := t * 2500 } }

/-- A command of tick t acts: the block is at that tick, and the command's turn is taken. -/
def actAt (x : Turn) (t : Nat) (s : State) : State := atTick t (takeTurn x s)

/-- The block is at a given nanosecond of its beat, never going back within the beat. -/
def atNs (ns : Nat) (s : State) : State :=
  { s with time := { s.time with ns := max s.time.ns (min 999999 ns) } }


/-! ### States (01 Table 01-3) -/

/-- The state code of Table 01-3; STORAGE and WATCH have none. -/
def Mode.code : Mode → Nat
  | .storage => 0 | .watch => 0 | .blank => 1 | .loading => 2 | .loaded => 3 | .armed => 4 | .run => 5
  | .stop => 6 | .service => 7 | .safe => 8

/-- ARMED and every state beyond it (ARMED, RUN, STOP, SERVICE, SAFE). -/
def Mode.fromArmed : Mode → Bool
  | .armed | .run | .stop | .service | .safe => true
  | _ => false

/-- LOADED and every state beyond it. -/
def Mode.fromLoaded (m : Mode) : Bool := m == .loaded || m.fromArmed

/-- Host access exists: every state but STORAGE and WATCH (01 Table 01-5). -/
def Mode.hosted (m : Mode) : Bool := m != .storage && m != .watch

/-- The module is powered and out of reset. -/
def awake (s : State) : Bool := s.st.mode.hosted && !s.pw.held

/-! ### Entries for the recorder and the journal (16) -/

/-- An event put in its place among those that wait: channel B's before the others of its tick (16 R385). -/
def recInsert (e : RecEvent) : List RecEvent → List RecEvent
  | [] => [e]
  | x :: r => if e.chan = 1 ∧ x.chan ≠ 1 ∧ x.tick = e.tick then e :: x :: r else x :: recInsert e r

/-- A channel or the power-fail path records an event: it reads the counters now and its record is committed next
(16 R384, R385). -/
def recEvent (code chan : Nat) (p : List Word) (s : State) : State :=
  let e : RecEvent :=
    { code := code, chan := chan, opSec := s.rcd.opSec, pcycle := s.rcd.pcycle, p := p, tick := absTick s }
  { s with rcd := { s.rcd with recQ := recInsert e s.rcd.recQ } }

/-- Firmware enters an event in the journal (16 R387). -/
def jnl (code session : Nat) (payload : List Word) (s : State) : State :=
  { s with rcd := { s.rcd with jnlQ := s.rcd.jnlQ ++ [{ code := code, session := session, payload := payload }] } }

/-- The beat number's low and high words. -/
def beatLo (s : State) : Word := toW s.time.beat

/-- The high word of the beat number. -/
def beatHi (s : State) : Word := toW (s.time.beat / 2 ^ 32)

/-- A change of state with PREV, CHANGES (saturating) and its journal record (13 Table 13-11, 16 Table 16-5). -/
def toMode (m : Mode) (tno : Nat) (s : State) : State :=
  let s' := { s with st := { mode := m, prev := s.st.mode.code, changes := satAdd s.st.changes 1 65535 } }
  jnl 1 0xFF [beatLo s, beatHi s, toW s.st.mode.code, toW m.code, toW tno] s'

end Sys2Proof.Machine
end

