-- ==== Sys2Proof/Machine/Operands.lean ====
section
/-! DEFINITION. Operand forms: the host address map (00 Table 00-10), the operand words and blocks of the cyclic logic
program (11 R278, Tables 11-2, 11-5, 11-6), and the node address and position arithmetic of the chain map (04 R85,
03 R67). -/

namespace Sys2Proof.Machine

/-! ### The host address map -/

/-- The blocks and windows of Table 00-10. -/
inductive Blk where
  | ident | board | jobs | sessions | queues | loader | time | chain | meas | est | limits | safety | logic | fabric
  | can0 | can1 | canRest | fio | power | records | update | cellWin | cellSum | specWin
  deriving DecidableEq, Repr

/-- The block and the offset in it of a host address, `none` outside every block (00 R13). -/
def blockOf (a : Nat) : Option (Blk × Nat) :=
  if a < 0x13000 then
    let o := a % 0x1000
    match a / 0x1000 with
    | 0 => some (.ident, o)
    | 1 => some (.board, o)
    | 2 => some (.jobs, o)
    | 3 => some (.sessions, o)
    | 4 => some (.queues, o)
    | 5 => some (.loader, o)
    | 6 => some (.time, o)
    | 7 => some (.chain, o)
    | 8 => some (.meas, o)
    | 9 => some (.est, o)
    | 10 => some (.limits, o)
    | 11 => some (.safety, o)
    | 12 => some (.logic, o)
    | 13 => some (.fabric, o)
    | 14 => if o < 0x400 then some (.can0, o) else if o < 0x800 then some (.can1, o - 0x400) else some (.canRest, o)
    | 15 => some (.fio, o)
    | 16 => some (.power, o)
    | 17 => some (.records, o)
    | _ => some (.update, o)
  else if 0x10000000 ≤ a ∧ a < 0x14000000 then some (.cellWin, a - 0x10000000)
  else if 0x14000000 ≤ a ∧ a < 0x14004000 then some (.cellSum, a - 0x14000000)
  else if 0x20000000 ≤ a ∧ a < 0x20800000 then some (.specWin, a - 0x20000000)
  else none

/-- A host address that the module accepts as a stream selector: aligned and in a block (13 R340). -/
def addrOk (a : Nat) : Bool := a % 4 == 0 && (blockOf a).isSome

/-- The offset of entry i of a register array at `base` with `stride` and `n` entries, if the offset is one of them. -/
def arrIdx (o base stride n : Nat) : Option Nat :=
  if base ≤ o ∧ (o - base) % stride = 0 ∧ (o - base) / stride < n then some ((o - base) / stride) else none

/-- The bits of a register word that are W1C. -/
def w1cMask (a : Nat) : Nat :=
  match a with
  | 0x3000 => 0x300 | 0x5000 => 0x10 | 0x5040 => 0x4 | 0x6000 => 0x3800 | 0x6060 => 0x7FF | 0x7000 => 0x380000
  | 0x8000 => 0x3900 | 0x9000 => 0x380 | 0x902C => 0x3F00 | 0x14000000 => 0xE | 0xA000 => 0x180 | 0xB000 => 0x780
  | 0xC000 => 0xF0 | 0xD000 => 0x38 | 0xD0C0 => 0x70 | 0xF000 => 0x3 | 0x10000 => 0x60 | 0x11000 => 0x41 | 0x12000 => 0x10
  | 0xE000 => 0xF0 | 0xE400 => 0xF0 | 0xE014 => 0xE0000 | 0xE414 => 0xE0000
  | _ =>
    if (arrIdx a 0x60CC 0x10 4).isSome then 0x6
    else if (arrIdx a 0x6100 0x20 3).isSome then 0x300
    else if (arrIdx a 0x4004 0x20 8).isSome then 0xE0000
    else if (arrIdx a 0xF040 4 16).isSome then 0x1
    else 0

/-! ### Node addresses and positions -/

/-- A node address: line and hop (04 R100). -/
def nodeAddr (line hop : Nat) : Nat := line * 16 + hop

/-- The string position of local position k of a node, if its mask uses it (03 R67). -/
def NodeMap.stringPos (n : NodeMap) (k : Nat) : Option Nat :=
  if n.posMask.testBit k then some (n.posBase + popCount k n.posMask) else none

/-- The local positions a node uses, in ascending order. -/
def NodeMap.locals (n : NodeMap) : List Nat := maskBits 16 n.posMask

/-- The node and local position that map a string position. -/
def ChainMap.nodeOf (c : ChainMap) (p : Nat) : Option (NodeMap × Nat) :=
  c.nodes.findSome? (fun n => (n.locals.find? (fun k => n.stringPos k == some p)).map (fun k => (n, k)))

/-- The nodes of one line. -/
def ChainMap.onLine (c : ChainMap) (l : Nat) : List NodeMap := c.nodes.filter (fun n => n.line == l)

/-- Index of a mapped temperature point: node address × 8 + point. -/
def tempIdx (addr t : Nat) : Nat := addr * 8 + t

/-! ### The logic program's operands (11 R278, Table 11-2) -/

/-- Size of an operand area in words; literals and reserved areas have none. -/
def areaSize (nConst area : Nat) : Option Nat :=
  match area with
  | 1 => some 288
  | 2 => some 288
  | 3 => some 4096
  | 4 => some nConst
  | _ => none

/-- AREA of an operand word. -/
def opArea (w : Nat) : Nat := bitsOf w 23 20
/-- INDEX of an operand word. -/
def opIndex (w : Nat) : Nat := bitsOf w 19 0

/-- A bit operand that is read names a word of its area. -/
def bitReadOk (nConst w : Nat) : Bool :=
  match areaSize nConst (opArea w) with
  | some n => decide (opIndex w / 32 < n)
  | none => false

/-- A word operand that is read names a word of its area, or is a literal. -/
def wordReadOk (nConst w : Nat) : Bool :=
  opArea w == 5 ||
  match areaSize nConst (opArea w) with
  | some n => decide (opIndex w < n)
  | none => false

/-- Operands that are written lie in area Q or M. -/
def bitWriteOk (nConst w : Nat) : Bool := (opArea w == 2 || opArea w == 3) && bitReadOk nConst w
/-- The same for words. -/
def wordWriteOk (nConst w : Nat) : Bool := (opArea w == 2 || opArea w == 3) && wordReadOk nConst w

/-- Kind of one operand of a block: bit or word. -/
inductive OpKind where
  | bit | word
  deriving DecidableEq, Repr

/-- The inputs, outputs and instance words of a block (Table 11-6); `none` for a reserved BLOCK. -/
def blockForm (block n : Nat) : Option (List OpKind × List OpKind × Nat) :=
  match block with
  | 0x00 => some ([], [], 0)
  | 0x01 => some (List.replicate n .bit, [.bit], 0)
  | 0x02 => some (List.replicate n .bit, [.bit], 0)
  | 0x03 => some ([.bit, .bit], [.bit], 0)
  | 0x04 => some ([.bit], [.bit], 0)
  | 0x05 => some ([.word], [.word], 0)
  | 0x06 => some ([.word, .word], [.word], 0)
  | 0x07 => some ([.word, .word], [.word], 0)
  | 0x08 => some ([.word, .word], [.word], 0)
  | 0x09 => some ([.word, .word], [.bit], 0)
  | 0x0A => some ([.word, .word], [.bit], 0)
  | 0x0B => some ([.word, .word], [.bit], 0)
  | 0x0C => some ([.bit, .word, .word], [.word], 0)
  | 0x0D => some ([.word, .word, .word], [.word], 0)
  | 0x10 => some ([.bit, .word], [.bit, .word], 2)
  | 0x11 => some ([.bit, .word], [.bit, .word], 2)
  | 0x12 => some ([.bit, .word], [.bit, .word], 2)
  | 0x13 => some ([.bit, .bit, .word], [.bit, .word], 2)
  | 0x14 => some ([.bit, .bit, .word], [.bit, .word], 2)
  | 0x15 => some ([.bit], [.bit], 1)
  | 0x16 => some ([.bit], [.bit], 1)
  | 0x17 => some ([.bit, .bit], [.bit], 1)
  | 0x18 => some ([.bit, .bit], [.bit], 1)
  | 0x20 => some ([.word, .word, .word], [.bit], 1)
  | 0x21 => some ([.word, .word], [.word], 1)
  | 0x22 => some ([.word, .word, .word], [.word], 0)
  | 0x23 => some ([.bit, .word], [.bit], 2)
  | _ => none

/-- N of a call's header is within R283: 2 to 8 for AND and OR, 0 for the others. -/
def blockNOk (block n : Nat) : Bool :=
  if block = 1 ∨ block = 2 then decide (2 ≤ n ∧ n ≤ 8) else n == 0

/-- What a bit-logic instruction does (Table 11-5). -/
inductive BitOp where
  | ld (neg : Bool)
  | comb (op : Nat) (neg : Bool)
  | st (neg : Bool)
  | set
  | rst
  | not
  | push (op : Nat)
  | pop
  | endTask
  deriving DecidableEq, Repr

/-- The instruction of an OP code; 0 AND, 1 OR, 2 XOR are the combinations. -/
def bitOpOf (op : Nat) : Option BitOp :=
  match op with
  | 0x01 => some (.ld false)
  | 0x02 => some (.ld true)
  | 0x03 => some (.comb 0 false)
  | 0x04 => some (.comb 0 true)
  | 0x05 => some (.comb 1 false)
  | 0x06 => some (.comb 1 true)
  | 0x07 => some (.comb 2 false)
  | 0x08 => some (.comb 2 true)
  | 0x09 => some (.st false)
  | 0x0A => some (.st true)
  | 0x0B => some .set
  | 0x0C => some .rst
  | 0x0D => some .not
  | 0x10 => some (.push 0)
  | 0x11 => some (.push 1)
  | 0x12 => some (.push 2)
  | 0x1F => some .pop
  | 0xFF => some .endTask
  | _ => none

/-- AND, OR or XOR of two bits. -/
def bitComb (op : Nat) (a b : Bool) : Bool :=
  match op with
  | 0 => a && b
  | 1 => a || b
  | _ => a != b

end Sys2Proof.Machine
end

