-- ==== Sys2Proof/Machine/Nodes.lean ====
section
/-! DEFINITION. The frames of the chain, and the Terril TCN-1600 nodes as far as 04 R87 to R115 lay them down: how a frame
travels along a line, the claim rules, what each command does at a node, and the events a node has by itself. -/

namespace Sys2Proof.Machine

/-! ### The bin frequencies (06 R147): f_k = 0.05 Hz × 40 000^(k/39), irrational but for k = 0 and 39 -/

/-- f_k times t seconds is at least c, for t = num/den: exact, by the 39th power. -/
def cyclesGe (k num den c : Nat) : Bool := decide ((c * 20 * den) ^ 39 ≤ num ^ 39 * 40000 ^ k)

/-- Beats from the first beat of a burst to its last: it starts at tick 300 of the first and lasts `cycles` periods of
bin k (06 R152). The search runs over at most `fuel` beats. -/
def burstBeats (k cycles : Nat) : Nat :=
  let rec go (fuel n : Nat) : Nat :=
    match fuel with
    | 0 => n
    | f + 1 => if cyclesGe k (4 * (n + 1) - 3) 4000 cycles then n else go f (n + 1)
  -- a start close below the answer: cycles × 1000 / f_k lies between the whole-number bounds of f_k
  let rec bis (fuel lo hi : Nat) : Nat :=
    match fuel with
    | 0 => lo
    | f + 1 => if lo + 1 ≥ hi then lo
               else let m := (lo + hi) / 2
                    if cyclesGe k (4 * m - 3) 4000 cycles then bis f lo m else bis f m hi
  go 2 (bis 40 0 (20000 * cycles + 4))

/-! ### Bytes of frames and payloads -/

/-- Bytes of a number, little-endian (00 R5). -/
def leB (k n : Nat) : List Byte := (List.range k).map (fun i => BitVec.ofNat 8 (n / 2 ^ (8 * i)))

/-- Bytes of a signed number in k bytes. -/
def leI (k : Nat) (i : Int) : List Byte := leB k (intField i (8 * k))

/-- A list cut or filled with zeros to n entries. -/
def padTo {α : Type} (z : α) (n : Nat) (l : List α) : List α := (l ++ List.replicate n z).take n

/-- Bytes filled with zeros to whole 4-byte words (Table 04-2: LEN counts words). -/
def padWords (l : List Byte) : List Byte := l ++ List.replicate ((4 - l.length % 4) % 4) 0

/-- The CRC of a frame: CRC-32 over the header with HOPS taken as 0, and the payload (R88). -/
def frameCrc (typ addr len claim seq : Nat) (payload : List Byte) : Nat :=
  crc32 (leB 1 typ ++ leB 1 addr ++ leB 1 len ++ leB 1 0 ++ leB 2 claim ++ leB 2 seq ++ payload)

/-- A frame as its sender forms it: HOPS 0, LEN in words, and the CRC (R87, R88, Table 04-2). -/
def mkFrame (typ addr claim seq : Nat) (payload : List Byte) : ChainFrame :=
  let p := padWords payload
  { typ := typ, addr := addr, len := p.length / 4, hops := 0, claim := claim, seq := seq, payload := p
    crc := frameCrc typ addr (p.length / 4) claim seq p }

/-- A receiver keeps a frame of TYPE t with this payload (R88): whole, its CRC right, its TYPE not reserved. -/
def frameOk (t : Nat) (h : ChainHdr) (payload : List Byte) : Bool :=
  h.typ == t && 4 * h.len == payload.length && h.crc == frameCrc h.typ h.addr h.len h.claim h.seq payload

/-- A RESULT payload (Table 04-6). -/
def resultBytes (b : ResultBody) : List Byte :=
  leB 1 b.nstat ++ leB 1 0 ++ leB 2 b.suspect ++ (padTo 0 16 b.vpos).flatMap (leI 3)

/-- An AUX payload (Table 04-7). -/
def auxBytes (b : AuxBody) : List Byte :=
  leB 1 b.taps.length ++ leB 1 (b2n b.tflagNew) ++ leB 2 0 ++
  (padTo { mux := 0, drop := 0, tq := 0 } 5 b.taps).flatMap (fun t => leB 2 t.mux ++ leI 3 t.drop ++ leB 1 t.tq) ++
  leB 2 0 ++ (padTo 0 8 b.temps).flatMap (leI 2)

/-- An ANNOUNCE payload (Table 04-3). -/
def announceBytes (uid nodeType proto : Nat) : List Byte := leB 8 uid ++ leB 2 nodeType ++ leB 1 proto ++ leB 5 0

/-- A BEAT payload (Table 04-5). -/
def beatBytes (beat instant : Nat) (primary tempNext roundNext : Bool) (bleed : List Nat) : List Byte :=
  leB 8 beat ++ leB 4 instant ++ leB 2 (bitAt primary 0 + bitAt tempNext 1 + bitAt roundNext 2) ++ leB 2 0 ++
  (padTo 0 16 bleed).flatMap (leB 2)

/-- The identity words of a reply (Table 04-8): UID, NODE_TYPE, PROTO and CAPS. -/
def identBytes (uid nodeType proto caps : Nat) (lockin : Bool) : List Byte :=
  leB 8 uid ++ leB 2 nodeType ++ leB 1 proto ++ leB 1 0 ++ leB 4 (caps % 8192 + bitAt lockin 16)

/-- The data of a reply (Table 04-8). -/
def replyData : ReplyData → List Byte
  | .none => []
  | .assign uid nodeType proto caps lockin => identBytes uid nodeType proto caps lockin
  | .id uid nodeType proto caps lockin present tpresent =>
    identBytes uid nodeType proto caps lockin ++ leB 2 present ++ leB 1 tpresent ++ leB 1 0
  | .sense done r => leB 1 (b2n done) ++ leB 3 0 ++ (padTo 0 17 r).flatMap (leB 4)
  | .lockin done vRe vIm iRe iIm => leB 1 (b2n done) ++ leB 3 0 ++ leI 4 vRe ++ leI 4 vIm ++ leI 4 iRe ++ leI 4 iIm
  | .diag crcErr beatLost claimLow tDie vNode =>
    leB 4 crcErr ++ leB 4 beatLost ++ leB 4 claimLow ++ leI 2 tDie ++ leB 2 vNode

/-- A REPLY payload (R98). -/
def replyBytes (op status : Nat) (d : ReplyData) : List Byte := leB 1 op ++ leB 1 status ++ leB 2 0 ++ replyData d

/-! ### Along the line -/

/-- The node at a place of the chain. -/
def nodeAt (s : State) (line hop : Nat) : Option NodeS := s.nodes.find? (fun n => n.line == line && n.hop == hop)

/-- One node changed. -/
def modNode (line hop : Nat) (f : NodeS → NodeS) (s : State) : State :=
  { s with nodes := s.nodes.map (fun n => if n.line == line && n.hop == hop then f n else n) }

/-- The nodes of a line in the order in which a frame from an end meets them. -/
def lineFrom (line : Nat) (d : End) (s : State) : List NodeS :=
  let l := (List.range 16).filterMap (nodeAt s line)
  match d with
  | .e => l
  | .w => l.reverse

/-- A frame goes on while gates are open: the first node with a closed gate is the last that it reaches (R100). -/
def reach : List NodeS → List NodeS
  | [] => []
  | n :: r => if n.gate then n :: reach r else [n]

/-- The hops that a frame sent from an end of a line reaches. -/
def reachedHops (line : Nat) (d : End) (s : State) : List Nat := (reach (lineFrom line d s)).map (·.hop)

/-- A frame at a node: a sleeping node takes nothing from it, but begins to wake (R107). -/
def NodeS.meet (f : NodeS → NodeS) (n : NodeS) : NodeS := if n.asleep then { n with waking := true } else f n

/-- The nodes that a frame reaches are changed. -/
def applyReached (line : Nat) (d : End) (f : NodeS → NodeS) (s : State) : State :=
  let hops := reachedHops line d s
  { s with nodes := s.nodes.map (fun n => if n.line == line && hops.contains n.hop then n.meet f else n) }

/-! ### Claims (R104, R105) -/

/-- A valid frame with this claim has come: a higher claim raises HELD, and a frame that carries HELD renews it. -/
def NodeS.raise (now : Int) (claim : Nat) (n : NodeS) : NodeS :=
  if n.held ≤ claim then { n with held := claim, heldAt := now } else n

/-- A write is discarded and counted. -/
def NodeS.low (n : NodeS) : NodeS := { n with claimLow := satAdd n.claimLow 1 (2 ^ 32 - 1) }

/-- A node with this address. -/
def NodeS.hasAddr (n : NodeS) (addr : Nat) : Bool := n.addr == some addr

/-! ### Commands at a node (Table 04-8) -/

/-- What a node does with one command that it handles: whether it is a write, the STATUS it answers with beside
CLAIM_LOW, its effect where that STATUS is OK, and the data of its REPLY (Tables 04-8, 04-9). -/
structure NodeCmd where
  write : Bool
  status : NodeS → Nat
  act : NodeS → NodeS
  data : NodeS → ReplyData

/-- STATUS of the REPLY to a command with this claim (Tables 04-9, 04-11). -/
def NodeCmd.answer (c : NodeCmd) (claim : Nat) (n : NodeS) : Nat :=
  if c.write && decide (claim < n.held) then 1 else c.status n

/-- A node handles a command by its claim (Table 04-11). -/
def NodeCmd.handle (c : NodeCmd) (now : Int) (claim : Nat) (n : NodeS) : NodeS :=
  if c.write && decide (claim < n.held) then n.low
  else if c.status n = 0 then c.act (n.raise now claim) else n.raise now claim

/-- A read that leaves the node as it is. -/
def NodeCmd.read (d : NodeS → ReplyData) : NodeCmd := { write := false, status := fun _ => 0, act := id, data := d }

/-- A write without data, always carried out. -/
def NodeCmd.plain (f : NodeS → NodeS) : NodeCmd :=
  { write := true, status := fun _ => 0, act := f, data := fun _ => .none }

/-- An addressed command at the nodes it reaches: its node handles it, every other node sees its claim (R104). -/
def nodeCommand (line : Nat) (d : End) (addr claim : Nat) (c : NodeCmd) (s : State) : State :=
  applyReached line d (fun n => if n.hasAddr addr then c.handle (fabNs s) claim n else n.raise (fabNs s) claim) s

/-- A broadcast command at every node it reaches. -/
def nodeBroadcast (line : Nat) (d : End) (claim : Nat) (c : NodeCmd) (s : State) : State :=
  applyReached line d (fun n => c.handle (fabNs s) claim n) s

/-- The end that a node sends towards. -/
def NodeS.toEnd (n : NodeS) : End := if n.followW then .w else .e

/-- A node's REPLY to a command: at its own tick 334 plus RSLOT µs, towards the end it follows, with its address and
HELD as the command leaves them (R95, R98). Without OK only ENUM_ASSIGN's carries data (R415). -/
def NodeS.reply (now : Int) (op seq rslot claim : Nat) (c : NodeCmd) (n : NodeS) : Emit :=
  let status := c.answer claim n
  let m := c.handle now claim n
  let data := if status = 0 ∨ op = 2 then c.data n else .none
  .node n.line n.hop n.toEnd (835000 + 1000 * rslot) (mkFrame 6 (m.addr.getD 0xFE) m.held seq (replyBytes op status data))

/-- The node that answers an addressed command: awake, reached, and with the address. -/
def answering (line : Nat) (d : End) (addr : Nat) (s : State) : Option NodeS :=
  (reach (lineFrom line d s)).find? (fun n => n.hasAddr addr && !n.asleep)

/-- ENUM_RESET: the node clears its address and closes its gate. -/
def NodeS.enumReset (n : NodeS) : NodeS := { n with addr := none, gate := false, resetSelf := false }

/-- The identity that a node answers with. -/
def NodeS.identity (n : NodeS) : ReplyData := .assign n.ident.uid n.ident.nodeType n.ident.proto n.ident.taps n.ident.lockin

/-- ENUM_ASSIGN at the node that takes its address: it opens its gate (R100). -/
def assignCmd (addr : Nat) : NodeCmd :=
  { write := true, status := fun _ => 0, data := NodeS.identity
    act := fun n => { n with addr := some addr, gate := true, resetSelf := false } }

/-- The nodes that an ENUM_ASSIGN reaches up to the one that takes or refuses it, which is the last (R100, R415): the
first that holds a higher claim refuses; the first without an address takes. -/
def assignPath (claim : Nat) : List NodeS → List NodeS
  | [] => []
  | n :: r =>
    if n.asleep then n :: (if n.gate then assignPath claim r else [])
    else if claim < n.held ∨ n.addr.isNone = true then [n]
    else n :: (if n.gate then assignPath claim r else [])

/-- The node among these that takes or refuses the ENUM_ASSIGN. -/
def assignTaker (claim : Nat) (path : List NodeS) : Option NodeS :=
  path.getLast?.filter (fun n => !n.asleep && (decide (claim < n.held) || n.addr.isNone))

/-- The nodes an ENUM_ASSIGN passes see its claim, and the last of them takes or refuses the address (R100, R104, R415). -/
def nodesAssign (line : Nat) (d : End) (claim addr : Nat) (s : State) : State :=
  let path := assignPath claim (lineFrom line d s)
  let taker := assignTaker claim path
  { s with nodes := s.nodes.map (fun n =>
      if n.line == line && path.any (fun m => m.hop == n.hop) then
        n.meet (fun n => if taker.any (fun m => m.hop == n.hop) then (assignCmd addr).handle (fabNs s) claim n
                         else n.raise (fabNs s) claim)
      else n) }

/-- REASSIGN: the node whose UID matches takes the address. The frames it has received no longer count, so that it
samples from the second beat after (R114). -/
def NodeS.reassign (addr : Nat) (n : NodeS) : NodeS :=
  { n with addr := some addr, resetSelf := false, fromE := none, fromW := none, prevE := none, prevW := none }

/-- REASSIGN at the node whose UID matches. -/
def reassignCmd (addr : Nat) : NodeCmd :=
  { write := true, status := fun _ => 0, act := NodeS.reassign addr, data := NodeS.identity }

/-- REASSIGN along a line: only the node with this UID handles it. -/
def nodesReassign (line : Nat) (d : End) (claim addr uid : Nat) (s : State) : State :=
  applyReached line d (fun n =>
    if n.ident.uid = uid then (reassignCmd addr).handle (fabNs s) claim n else n.raise (fabNs s) claim) s

/-- The node that answers a REASSIGN. -/
def answeringUid (line : Nat) (d : End) (uid : Nat) (s : State) : Option NodeS :=
  (reach (lineFrom line d s)).find? (fun n => n.ident.uid == uid && !n.asleep)

/-- SET_DELAY. -/
def NodeS.setDelay (dE dW : Nat) (n : NodeS) : NodeS := { n with dE := dE, dW := dW }

/-- SET_TAP_PLAN: entries FIRST to FIRST + N − 1; a plan entry not yet written reads 0. -/
def NodeS.setPlan (beat first : Nat) (mux : List Nat) (n : NodeS) : NodeS :=
  let old := n.tapPlan ++ List.replicate (first + mux.length - n.tapPlan.length) 0
  { n with tapPlan := old.take first ++ mux ++ old.drop (first + mux.length), planBeat := beat }

/-- SET_TAP_PLAN with its limits: N 1 to 120, the plan within 4 096 entries. -/
def planCmd (beat first : Nat) (mux : List Nat) : NodeCmd :=
  { write := true, data := fun _ => .none, act := NodeS.setPlan beat first mux
    status := fun _ => if 1 ≤ mux.length ∧ mux.length ≤ 120 ∧ first + mux.length ≤ 4096 then 0 else 2 }

/-- A MEAS_SENSE still runs: its result is ready within 100 beats (Table 04-8); when, no rule says (log 8). -/
def NodeS.sensing (beat k : Nat) (n : NodeS) : Bool :=
  match n.senseAt with
  | some b => decide (beat < b + 100) && Config.roundUp k
  | none => false

/-- MEAS_SENSE. -/
def senseCmd (beat k : Nat) : NodeCmd :=
  { write := true, data := fun _ => .none, act := fun n => { n with senseAt := some beat }
    status := fun n => if n.sensing beat k then 3 else 0 }

/-- READ_SENSE. -/
def readSenseCmd (beat k : Nat) : NodeCmd :=
  .read (fun n => .sense (n.senseAt.isSome && !n.sensing beat k) n.ident.sense)

/-- The first beat from now whose number has these low 16 bits (06 R152, R157). -/
def beatNext16 (now lo : Nat) : Nat := now + (lo + 65536 - now % 65536) % 65536

/-- The first beat after a lock-in: one dwell of 1 000 beats for each bin (06 R157). -/
def lockinEnd (x : Nat × Nat × Nat) : Nat := x.2.2 + 1000 * popCount 40 x.1

/-- A lock-in runs in a beat. -/
def NodeS.lockinRuns (beat : Nat) (n : NodeS) : Bool :=
  n.lockin.any (fun x => decide (x.2.2 ≤ beat ∧ beat < lockinEnd x))

/-- A chime burst has not ended by a beat (06 R152). -/
def NodeChime.live (beat : Nat) (c : NodeChime) : Bool := decide (beat ≤ c.start + burstBeats c.bin c.cycles)

/-- A chime burst runs in a beat. -/
def NodeChime.runs (beat : Nat) (c : NodeChime) : Bool := decide (c.start ≤ beat) && c.live beat

/-- CHIME: arguments in range, at most four bursts at once, none while a lock-in runs (06 R152, Table 04-8). -/
def chimeCmd (beat : Nat) (c : NodeChime) : NodeCmd :=
  { write := true, data := fun _ => .none
    act := fun n => { n with chimes := n.chimes.filter (·.live beat) ++ [c] }
    status := fun n =>
      if n.lockinRuns beat then 3
      else if 4 ≤ (n.chimes.filter (·.live beat)).length ∨ 15 < c.pos ∨ 39 < c.bin ∨ c.ampl < 1 ∨ 300 < c.ampl ∨
        c.cycles < 4 ∨ 1024 < c.cycles then 2 else 0 }

/-- LOCKIN_START: BUSY where an earlier lock-in would still run at its START (Table 04-9). The results of the lock-in before
it stay until the next one after it (DESIGN CHOICE, log 19). -/
def lockinCmd (bins mask start : Nat) : NodeCmd :=
  { write := true, data := fun _ => .none, act := fun n => { n with lockin := ((bins, mask, start) :: n.lockin).take 2 }
    status := fun n => if n.lockin.any (fun x => decide (start < lockinEnd x)) then 3 else 0 }

/-- LOCKIN_READ: DONE once the dwell of the bin has ended at the position (06 R157); the values are what the node
measured, which no rule gives (log 8). -/
def lockinReadCmd (beat pos bin k : Nat) : NodeCmd :=
  .read (fun n => match n.lockin.find? (fun x => x.2.1.testBit pos) with
    | some (bins, _, start) =>
      let done := bins.testBit bin && decide (start + 1000 * popCount (bin + 1) bins ≤ beat)
      .lockin done (Config.freeInt k) (Config.freeInt (k + 1)) (Config.freeInt (k + 2)) (Config.freeInt (k + 3))
    | none => .lockin false 0 0 0 0)

/-- READ_ID. -/
def readIdCmd : NodeCmd :=
  .read (fun n => .id n.ident.uid n.ident.nodeType n.ident.proto n.ident.taps n.ident.lockin n.ident.present n.ident.tpresent)

/-- READ_DIAG; temperature and supply are what the node measures (log 8). -/
def diagCmd (k : Nat) : NodeCmd :=
  .read (fun n => .diag n.crcErr n.beatLost n.claimLow (Config.freeInt k) ((Config.freeInt (k + 1)).toNat % 65536))

/-- All stimulus stops (STIM_STOP, R107). -/
def NodeS.stopStim (n : NodeS) : NodeS := { n with chimes := [], lockin := [] }

/-- CLEAR_DIAG. -/
def NodeS.clearDiag (n : NodeS) : NodeS := { n with crcErr := 0, beatLost := 0, claimLow := 0 }

/-- The node sleeps: bleeding and stimulus stop, HELD is 0; address, delays and tap plan stay (R105, R107). -/
def NodeS.sleep (n : NodeS) : NodeS := { n.stopStim with bleeds := [], held := 0, asleep := true, waking := false }

/-! ### Balancing switches (R91, R94) -/

/-- The BLEED word that applies at a tick of a beat: the frame of beat n applies from tick 208 of n to tick 192 of n + 1. -/
def NodeS.bleedWord (beat tick : Nat) (n : NodeS) : Nat :=
  let b := if tick < 208 then beat - 1 else beat
  ((n.bleeds.find? (fun x => x.1 == b)).map (·.2)).getD 0

/-- The balancing bleed switches that a node holds closed at a tick of a beat: none from tick 192 to tick 208, and none of
a chimed position, whose switch follows the burst (R94, 06 R152). -/
def NodeS.bleeding (beat tick : Nat) (n : NodeS) : Nat :=
  if 192 ≤ tick ∧ tick < 208 then 0
  else (List.range 16).foldl (fun m k =>
    if (n.bleedWord beat tick).testBit k && !n.chimes.any (fun c => c.pos == k && c.runs beat) then m + 2 ^ k else m) 0

/-! ### Events of a node -/

/-- The end that a node follows once the frames of a beat from both ends are known (R110): it keeps its end while a
frame of the beat reaches it from there; else it takes the end from which one does. -/
def NodeS.choose (beat : Nat) (n : NodeS) : NodeS :=
  let has := fun (h : Option HeldBeat) => (h.map (fun x => x.beat == beat)).getD false
  let own := if n.followBase then n.fromW else n.fromE
  let other := if n.followBase then n.fromE else n.fromW
  { n with followW := if has own then n.followBase else if has other then !n.followBase else n.followW }

/-- A frame of this beat has reached the node already, from either end. -/
def NodeS.knows (beat : Nat) (n : NodeS) : Bool :=
  (n.fromE.map (fun x => x.beat == beat)).getD false || (n.fromW.map (fun x => x.beat == beat)).getD false

/-- The BLEED word of a frame for this node: the entry of its address (Table 04-5). -/
def NodeS.ownBleed (words : List Nat) (n : NodeS) : Nat :=
  match n.addr with
  | some a => words.getD (a % 16) 0 % 65536
  | none => 0

/-- A valid BEAT frame at a node (R92, R96, R104, R107, R110). -/
def NodeS.takeBeat (now : Int) (f : NodeBeat) (n : NodeS) : NodeS :=
  let full := decide (n.held ≤ f.claim)
  let n := { n.raise now f.claim with beatAt := now, followBase := if n.knows f.beat then n.followBase else n.followW }
  let h : HeldBeat := { beat := f.beat, arrival := f.arrival, instant := f.instant, hops := f.hops
                        tempNext := f.tempNext, roundNext := f.roundNext, primary := f.primary }
  let last := match f.fromEnd with
    | .e => n.fromE
    | .w => n.fromW
  let gap := match last with
    | some p => f.beat - p.beat - 1
    | none => 0
  let n := match f.fromEnd with
    | .e => { n with fromE := some h, prevE := n.fromE }
    | .w => { n with fromW := some h, prevW := n.fromW }
  let n := n.choose f.beat
  if n.followW = (f.fromEnd == .w) then
    let n := { n with beatLost := satAdd n.beatLost gap (2 ^ 32 - 1)
                      roundBeat := if f.roundNext then some (f.beat + 1) else n.roundBeat }
    if full then { n with bleeds := ((f.beat, n.ownBleed f.bleed) :: n.bleeds).take 2 } else n
  else n

/-- The CRC of a BEAT frame is right (R88). -/
def beatIntact (f : NodeBeat) : Bool :=
  f.crc == frameCrc 1 0xFF 12 f.claim (f.beat % 65536) (beatBytes f.beat f.instant f.primary f.tempNext f.roundNext f.bleed)

/-- NODE_BEAT_RECEIVE (R88, R92, R104, R107, R110): a frame with a wrong CRC is counted and no part of it is used; a
sleeping node takes nothing from the frame that wakes it. -/
def execNodeBeatReceive (line : Fin 4) (hop : Fin 16) (f : NodeBeat) (s : State) : Res :=
  let s := fresh s
  .next (modNode line.val hop.val (NodeS.meet (fun n =>
    if beatIntact f then n.takeBeat (fabNs s) f else { n with crcErr := satAdd n.crcErr 1 (2 ^ 32 - 1) })) s)

/-- The two frames that give the sample of a beat: that beat's frame from the followed end and the one of the beat
before (R92). -/
def NodeS.pair (beat : Nat) (n : NodeS) : Option (HeldBeat × HeldBeat) :=
  match (if n.followW then n.fromW else n.fromE), (if n.followW then n.prevW else n.prevE) with
  | some a, some b => if a.beat = beat ∧ b.beat + 1 = beat then some (a, b) else none
  | _, _ => none

/-- D of the end that a node follows. -/
def NodeS.delay (n : NodeS) : Nat := if n.followW then n.dW else n.dE

/-- The sample instant on the node's own clock (R93): the arrival of the frame of the beat before, plus INSTANT − D
counted by a timer whose rate is trimmed to the interval between the two reference edges, which is 1 000 000 ns of the
module's time. -/
def NodeS.sampleInstant (a b : HeldBeat) (n : NodeS) : Int :=
  (b.arrival : Int) + ((b.instant : Int) - n.delay) * ((a.arrival : Int) - b.arrival) / 1000000

/-- The tap-plan entries of a beat: in beat b of a round the entries 5b to 5b + 4, in a round that began after the plan
was written (R96, 08 R213). Rounds begin every 1 000 beats. -/
def NodeS.planFor (beat : Nat) (n : NodeS) : List Nat :=
  match n.roundBeat with
  | some r =>
    let b := (beat - r) % 1000
    if r ≤ beat ∧ n.planBeat < beat - b then (n.tapPlan.drop (5 * b)).take 5 else []
  | none => []

/-- The node samples in a beat (R92, R93, R96): only with an address and both frames; temperatures only in a temperature
beat. -/
def NodeS.sample (beat : Nat) (marks : SampleMarks) (vpos temps : List Int) (taps : List TapEntry) (n : NodeS) : NodeS :=
  match n.addr, n.pair beat with
  | some _, some (a, b) =>
    let got := ((n.planFor beat).zip taps).map (fun x => { x.2 with mux := x.1 })
    { n with temps := if b.tempNext then temps else n.temps
             taken := some { beat := beat, instant := n.sampleInstant a b, warn := marks.warn, suspect := marks.suspect, vpos := vpos
                             tempNew := b.tempNext, taps := got, resultSent := false, auxSent := false } }
  | _, _ => n

/-- NODE_SAMPLE (R92 to R96, R119): at the sample instant, which is tick 200 of the module's time; the balancing switches
are open then (R94). -/
def execNodeSample (line : Fin 4) (hop : Fin 16) (marks : SampleMarks) (vpos temps : List Int) (taps : List TapEntry)
    (s : State) : Res :=
  let s := fresh s
  .next (if mayAct (.sample line.val hop.val) 200 s then
    let s := actAt (.sample line.val hop.val) 200 s
    modNode line.val hop.val (fun n => if n.asleep then n else n.sample s.time.beat marks vpos temps taps) s
  else s)

/-- HOPS of the newest BEAT frame from the followed end: the slot number h of R95. -/
def NodeS.slot (n : NodeS) : Nat := ((if n.followW then n.fromW else n.fromE).map (·.hops)).getD 0

/-- NSTAT at a tick of a beat (Table 04-6). -/
def NodeS.nstat (beat tick : Nat) (warn : Bool) (n : NodeS) : Nat :=
  bitAt (n.bleeding beat tick != 0) 0 + bitAt (n.chimes.any (·.runs beat)) 1 + bitAt n.followW 2 + bitAt warn 3

/-- A node may start a frame at this nanosecond of the beat: the slot has not passed, and it does not fall into the quiet
window of ticks 188 to 210 (R90). -/
def slotFree (ns : Nat) (s : State) : Bool :=
  decide (s.time.ns ≤ ns ∧ ns < 1000000) && !(decide (470000 ≤ ns) && decide (ns < 525000))

/-- The slot of a RESULT: 25 000 ns + h × 18 000 ns after the sample instant, which is 500 000 ns into the beat (R95). -/
def NodeS.resultNs (n : NodeS) : Nat := 525000 + 18000 * n.slot

/-- The slot of an AUX: 550 000 ns + h × 18 000 ns after the sample instant, and so in the beat after it (R95). -/
def NodeS.auxNs (n : NodeS) : Nat := 50000 + 18000 * n.slot

/-- NODE_RESULT_SEND (R90, R95): the RESULT of the sample just taken, in its slot, towards the followed end. -/
def execNodeResultSend (line : Fin 4) (hop : Fin 16) (s : State) : Res :=
  let s := fresh s
  match nodeAt s line.val hop.val with
  | some n =>
    match n.addr, n.taken with
    | some a, some t =>
      if n.asleep || t.resultSent || t.beat != s.time.beat || !slotFree n.resultNs s then .next s
      else
        let b : ResultBody :=
          { nstat := n.nstat t.beat (n.resultNs / 2500) t.warn, suspect := t.suspect, vpos := t.vpos }
        .next (put (.node line.val hop.val n.toEnd n.resultNs (mkFrame 4 a n.held (t.beat % 65536) (resultBytes b)))
          (modNode line.val hop.val (fun n => { n with taken := some { t with resultSent := true } }) (atNs n.resultNs s)))
    | _, _ => .next s
  | none => .next s

/-- NODE_AUX_SEND (R90, R92, R95): the AUX of the sample taken in the beat before, in its slot, with the last temperatures
sampled. -/
def execNodeAuxSend (line : Fin 4) (hop : Fin 16) (s : State) : Res :=
  let s := fresh s
  match nodeAt s line.val hop.val with
  | some n =>
    match n.addr, n.taken with
    | some a, some t =>
      if n.asleep || t.auxSent || t.beat + 1 != s.time.beat || !slotFree n.auxNs s then .next s
      else
        let b : AuxBody := { tflagNew := t.tempNew, taps := t.taps, temps := n.temps }
        .next (put (.node line.val hop.val n.toEnd n.auxNs (mkFrame 5 a n.held (t.beat % 65536) (auxBytes b)))
          (modNode line.val hop.val (fun n => { n with taken := some { t with auxSent := true } }) (atNs n.auxNs s)))
    | _, _ => .next s
  | none => .next s

/-- A span of a node's time since one of its marks ends in the present beat or has ended: the time at which it ends. The
node's time is counted in fabric time (log 38). -/
def spanEnd (mark : Int) (span : Nat) (s : State) : Option Nat :=
  let t := mark + span
  if t < ((s.time.beat : Int) + 1) * 1000000 then some (t - (s.time.beat : Int) * 1000000).toNat else none

/-- An event of a node that comes a span after one of its marks, where that span has passed. -/
def afterSpan (line hop : Nat) (mark : NodeS → Int) (span : Nat) (f : NodeS → NodeS) (s : State) : State :=
  match nodeAt s line hop with
  | some n => match spanEnd (mark n) span s with
    | some ns => modNode line hop f (atNs ns s)
    | none => s
  | none => s

/-- NODE_CLAIM_RELEASE (R105): 3 ms without a valid frame that carries HELD. -/
def execNodeClaimRelease (line : Fin 4) (hop : Fin 16) (s : State) : Res :=
  .next (afterSpan line.val hop.val (·.heldAt) 3000000 (fun n => { n with held := 0 }) (fresh s))

/-- NODE_STIMULUS_FALLBACK (R107): 5 ms after the last valid BEAT frame. -/
def execNodeStimulusFallback (line : Fin 4) (hop : Fin 16) (s : State) : Res :=
  .next (afterSpan line.val hop.val (·.beatAt) 5000000 (fun n => { n.stopStim with bleeds := [] }) (fresh s))

/-- NODE_SLEEP (R105, R107): 2 000 ms after the last valid BEAT frame. -/
def execNodeSleep (line : Fin 4) (hop : Fin 16) (s : State) : Res :=
  .next (afterSpan line.val hop.val (·.beatAt) 2000000000 NodeS.sleep (fresh s))

/-- NODE_WAKE (R107): a sleeping node that a frame has reached is ready. Its 2 000 ms begin anew (log 38). -/
def execNodeWake (line : Fin 4) (hop : Fin 16) (s : State) : Res :=
  let s := fresh s
  .next (modNode line.val hop.val (fun n =>
    if n.asleep && n.waking then { n with asleep := false, waking := false, beatAt := fabNs s, heldAt := fabNs s } else n) s)

/-- A node knows the ticks of the present beat: it has the beat's frame from the end it follows. -/
def NodeS.inStep (beat : Nat) (n : NodeS) : Bool :=
  ((if n.followW then n.fromW else n.fromE).map (fun x => x.beat == beat)).getD false

/-- NODE_ANNOUNCE_SEND (R114, Table 04-4): a node that has reset on its own and has no address announces itself once every
1 000 beats, in the window of ticks 160 to 186. -/
def execNodeAnnounceSend (line : Fin 4) (hop : Fin 16) (s : State) : Res :=
  let s := fresh s
  match nodeAt s line.val hop.val with
  | some n =>
    if n.asleep || n.addr.isSome || !n.resetSelf || !n.inStep s.time.beat ||
        (n.announced.map (fun b => b / 1000)) == some (s.time.beat / 1000) || decide (186 < tickOf s) then .next s
    else
      let s := if tickOf s < 160 then atTick 160 s else s
      .next (put (.node line.val hop.val n.toEnd s.time.ns
          (mkFrame 8 0xFE n.held 0 (announceBytes n.ident.uid n.ident.nodeType n.ident.proto)))
        (modNode line.val hop.val (fun n => { n with announced := some s.time.beat }) s))
  | none => .next s

/-- A node after its own reset: no address, HELD 0, gate open; delays, plan and stimulus gone (R105, R114, 06 R172). -/
def NodeS.fresh (now : Int) (line hop : Nat) (i : NodeIdent) : NodeS :=
  { (default : NodeS) with line := line, hop := hop, ident := i, gate := true, resetSelf := true, heldAt := now, beatAt := now }

/-- NODE_RESET (R105, R114): also how a node comes to stand at a place of the chain. -/
def execNodeReset (line : Fin 4) (hop : Fin 16) (i : NodeIdent) (s : State) : Res :=
  let s := fresh s
  let n := NodeS.fresh (fabNs s) line.val hop.val i
  match nodeAt s line.val hop.val with
  | some _ => .next (modNode line.val hop.val (fun _ => n) s)
  | none => .next { s with nodes := s.nodes ++ [n] }

end Sys2Proof.Machine
end

