-- ==== Sys2Proof/Machine/Queues.lean ====
section
/-! DEFINITION. Stream queues and CAN receive queues as one kind of queue (13 R334 to R338, 14 R353): offering,
committing, dropping, reading, flushing and claiming, and their registers (Table 13-19). -/

namespace Sys2Proof.Machine

/-- Header word of an item or a gap marker (R334). -/
def itemHeader (kind len seq : Nat) : Word := toW (fld kind 24 8 + fld len 16 8 + fld seq 0 16)

/-- A producer writes an item's words; they become visible only at its commit (R335). -/
def Queue.offer (q : Queue) (words : List Word) : Queue := { q with building := q.building ++ [words] }

/-- Words a pending gap marker takes (R336). -/
def Queue.gapWords (q : Queue) : Nat := if q.drops = 0 then 0 else 2

/-- An item dropped or rewound: counted, a gap pending, OVF set (R335, R336). -/
def Queue.drop (q : Queue) : Queue :=
  { q with drops := satAdd q.drops 1 65535, firstDrop := if q.drops = 0 then q.seq else q.firstDrop
           total := satAdd q.total 1 65535, ovf := true, seq := (q.seq + 1) % 65536 }

/-- An item taken: a pending gap marker first, then its header and words (R336). -/
def Queue.take (q : Queue) (kind : Nat) (item : List Word) : Queue :=
  let gap := if q.drops = 0 then [] else [itemHeader 0xFF 1 q.firstDrop, toW q.drops]
  { q with words := q.words ++ gap ++ itemHeader kind item.length q.seq :: item, drops := 0
           seq := (q.seq + 1) % 65536 }

/-- The item does not become visible: its source did not commit, its body words drew an ECC error (`lost`), or the queue
has no room for it (R335, R336). -/
def Queue.drops? (q : Queue) (item : List Word) (depth : Nat) (lost : Bool) : Bool :=
  lost || decide (depth < q.words.length + q.gapWords + 1 + item.length)

/-- The oldest item's last word is written: it is taken or dropped (R335, R336). -/
def Queue.commit (q : Queue) (kind depth : Nat) (lost : Bool) : Queue :=
  match q.building with
  | [] => q
  | item :: r =>
    let q := { q with building := r }
    if q.drops? item depth lost then q.drop else q.take kind item

/-- The oldest item's commit drops it. -/
def Queue.dropsNow (q : Queue) (depth : Nat) (lost : Bool) : Bool :=
  match q.building with
  | [] => false
  | item :: _ => q.drops? item depth lost

/-- A read of the head: the word, and the queue without it; an empty queue repeats the last word and sets UNDERRUN
(R337). -/
def Queue.pop (q : Queue) : Word × Queue :=
  match q.words with
  | [] => (q.last, { q with underrun := true })
  | w :: r => (w, { q with words := r, last := w })

/-- FLUSH empties the queue of visible words and of a pending gap (R338). -/
def Queue.flush (q : Queue) : Queue := { q with words := [], drops := 0, flushed := true }

/-- QqSTAT and CANc_RXSTAT (Tables 13-19, 14-11). -/
def Queue.stat (q : Queue) : Word :=
  toW (bitAt q.flushed 19 + bitAt q.underrun 18 + bitAt q.ovf 17 + bitAt q.words.isEmpty 16 +
    fld (min q.words.length 65535) 0 16)

/-- A write of QqSTAT or CANc_RXSTAT: the W1C bits. -/
def Queue.statW1c (q : Queue) (v : Word) : Queue :=
  { q with flushed := q.flushed && !wBit v 19, underrun := q.underrun && !wBit v 18, ovf := q.ovf && !wBit v 17 }

/-- QqDROP and CANc_RXDROP. -/
def Queue.dropWord (q : Queue) : Word := toW (fld q.total 16 16 + fld q.drops 0 16)

/-- The queue record of section 0x13 for Qq; CONTENT 0 without the section (Table 03-7). -/
def queueCfg (s : State) (q : Nat) : QueueCfg :=
  match s.cal.bind (·.stream) with
  | some c => c.queues.getD q default
  | none => default

/-- One queue of the stream queues changed. -/
def modQueue (q : Nat) (f : Queue → Queue) (s : State) : State :=
  { s with host := { s.host with queues := updNat s.host.queues q f } }

/-- An item offered to every queue whose stream plan names a content; producers fill queues from ARMED onward (R339). -/
def offerContent (content : Nat) (words : List Word) (s : State) : State :=
  if s.st.mode.fromArmed then
    (List.range 8).foldl
      (fun s q => if (queueCfg s q).content = content then modQueue q (·.offer words) s else s) s
  else s

/-- A session may read a queue: no claim, or its own (R337). -/
def Queue.readable (q : Queue) (i : Fin 32) : Bool :=
  match q.claim with
  | some j => j == i
  | none => true

/-- A write of QqCTRL as a whole: FLUSH, CLAIM and RELEASE; a CLAIM while another session holds the claim refuses the
write (Table 13-19, 00 R9). -/
def queueCtrl (i : Fin 32) (q : Nat) (v : Word) (s : State) : RspCode × State :=
  if wBit v 30 && !(getNat s.host.queues q).readable i then (.access, s)
  else
    let f := fun (x : Queue) =>
      let x := if wBit v 31 then x.flush else x
      let x := if wBit v 30 then { x with claim := some i } else x
      if wBit v 29 && x.claim == some i then { x with claim := none } else x
    (.ok, modQueue q f (setAgainIf (wBit v 31) (0x4004 + 0x20 * q) (2 ^ 19) s))

/-- The words of the queue block, but for QqDATA (Table 13-18). -/
def queuesRead (o : Nat) (s : State) : Word :=
  let qs := s.host.queues
  let mask := fun (f : Queue → Bool) => maskIf 8 (fun q => f (getNat qs q))
  if o = 0x100 then
    toW (mask (·.flushed) * 2 ^ 24 + mask (·.underrun) * 2 ^ 16 + mask (·.ovf) * 2 ^ 8 + mask (·.words.isEmpty))
  else if o < 0x100 then
    let q := getNat qs (o / 0x20)
    let c := queueCfg s (o / 0x20)
    match o % 0x20 with
    | 4 => q.stat
    | 12 => q.dropWord
    | 16 => toW (bitAt q.claim.isSome 31 + fld ((q.claim.map Fin.val).getD 0) 24 5 + fld c.content 16 8 + fld c.depth 0 16)
    | _ => 0
  else 0

/-- Writes to the queue block. -/
def queuesWrite (i : Fin 32) (o : Nat) (v : Word) (s : State) : RspCode × State :=
  if o < 0x100 then
    match o % 0x20 with
    | 4 => (.ok, modQueue (o / 0x20) (·.statW1c v) s)
    | 8 => queueCtrl i (o / 0x20) v s
    | _ => (.ok, s)
  else (.ok, s)

/-- The queues of a session that closes: its claims are released (13 R323). -/
def releaseClaims (i : Fin 32) (s : State) : State :=
  { s with host := { s.host with queues := mapAll s.host.queues (fun _ q =>
      if q.claim = some i then { q with claim := none } else q) } }

end Sys2Proof.Machine
end

