-- ==== Sys2Proof/Machine/CanIo.lean ====
section
/-! DEFINITION. The CAN FD channels (14 R343 to R355): transmit buffers and arbitration, error states, loop-back, the
receive queue, and their registers. -/

namespace Sys2Proof.Machine

/-- A channel. -/
def canAt (s : State) (c : Nat) : CanCh := getNat s.can c

/-- The W1C bits of CANc_STATUS that the change of a channel from x to y sets (Table 14-9): bus-off, error-passive and
no acknowledgement are entered. -/
def canLatched (x y : CanCh) : Nat :=
  bitAt (y.errSt == .busOff && x.errSt != .busOff) 6 + bitAt (y.errSt == .passive && x.errSt == .active) 5 +
    bitAt (y.noAck && !x.noAck) 4

/-- One channel changed. -/
def modCan (c : Nat) (f : CanCh → CanCh) (s : State) : State :=
  setAgainIf (canLatched (canAt s c) (f (canAt s c)) != 0) (0xE000 + 0x400 * c) (canLatched (canAt s c) (f (canAt s c)))
    { s with can := updNat s.can c f }

/-- One buffer changed. -/
def CanCh.modTxb (b : Nat) (f : Txb → Txb) (x : CanCh) : CanCh := { x with txb := updNat x.txb b f }

/-- The module uses a buffer (R347): TXB0 while ACCESS is 1, TXB1 while the channel has publications. -/
def CanCh.moduleUses (x : CanCh) (b : Nat) : Bool := (b == 0 && x.cfg.access) || (b == 1 && decide (0 < x.nPub))

/-! ### Arbitration (R348) -/

/-- Order in which frames win arbitration: the identifier's eleven leading bits, then the base format, then the rest. -/
def Txb.arbKey (t : Txb) : Nat :=
  if t.xtd then t.id / 2 ^ 18 % 2 ^ 11 * 2 ^ 19 + 2 ^ 18 + t.id % 2 ^ 18 else t.id % 2 ^ 11 * 2 ^ 19

/-- The pending buffer that the channel offers. -/
def CanCh.choose (x : CanCh) : Option (Fin 3) :=
  let pend := ([0, 1, 2] : List (Fin 3)).filter (fun b => x.txb[b].st == .pending)
  match pend with
  | [] => none
  | b :: r =>
    if x.cfg.txOrder = 1 then some b
    else some (r.foldl (fun m b => if x.txb[b].arbKey < x.txb[m].arbKey then b else m) b)

/-- A channel that may send: error-active or error-passive, on an idle bus, with nothing on the bus (R348). -/
def CanCh.idle (x : CanCh) : Bool := (x.errSt == .active || x.errSt == .passive) && !x.busy && x.offered.isNone

/-- Responses of the access profile go to TXB0 as it becomes free (R327, R347): an FD frame with BRS and the least DLC. -/
def fdDlc (n : Nat) : Nat :=
  if n ≤ 8 then n else if n ≤ 12 then 9 else if n ≤ 16 then 10 else if n ≤ 20 then 11 else if n ≤ 24 then 12
  else if n ≤ 32 then 13 else if n ≤ 48 then 14 else 15

/-- Data bytes of a DLC. -/
def dlcBytes (fdf : Bool) (dlc : Nat) : Nat :=
  if dlc ≤ 8 then dlc
  else if !fdf then 8
  else match dlc with
    | 9 => 12 | 10 => 16 | 11 => 20 | 12 => 24 | 13 => 32 | 14 => 48 | _ => 64

/-- A frame of the module's own in a buffer. -/
def Txb.load (canId : Nat) (data : List Byte) (t : Txb) : Txb :=
  let dlc := fdDlc data.length
  { t with brs := true, fdf := true, dlc := dlc, xtd := canId.testBit 31, id := canId % 2 ^ 29
           data := padTo 0 16 (bytesWords (padTo 0 (dlcBytes true dlc) data)), st := .pending, abortLate := false
           attempts := 0, abortReq := false }

/-- The oldest response that waits goes to TXB0. -/
def CanCh.loadRsp (x : CanCh) : CanCh :=
  match x.rspQ with
  | d :: r =>
    if x.cfg.access && x.txb[(0 : Fin 3)].st != .pending then
      { x.modTxb 0 (Txb.load (x.cfg.accId / 2 ^ 29 * 2 ^ 29 + (x.cfg.accId + 1) % 2 ^ 29) d) with rspQ := r }
    else x
  | [] => x

/-- The next start of arbitration: TXB0 is filled and a pending buffer is offered. -/
def canOffer (c : Nat) (s : State) : State :=
  let x := (canAt s c).loadRsp
  let s := modCan c (fun _ => x) s
  if x.idle then
    match x.choose with
    | some b => put (.can c b.val) (modCan c (fun x => { x with offered := some b }) s)
    | none => s
  else s

/-- A response of the access profile (R327). -/
def canRespond (c : Nat) (data : List Byte) (s : State) : State :=
  canOffer c (modCan c (fun x => { x with rspQ := x.rspQ ++ [data] }) s)

/-- The attempt on the bus ends without success: counted, and the buffer ABORTED if an abort waits (R348, R349). -/
def CanCh.failed (x : CanCh) : CanCh :=
  match x.offered with
  | none => x
  | some b =>
    { x.modTxb b.val (fun t => { t with attempts := satAdd t.attempts 1 255
                                        st := if t.abortReq then .aborted else t.st, abortReq := false }) with
      offered := none }

/-! ### Error states (R343, R350) -/

/-- The error state from the counters, with what it latches. -/
def CanCh.judge (x : CanCh) : CanCh :=
  match x.errSt with
  | .busOff => x
  | .integrating => x
  | st =>
    if 256 ≤ x.tec then { x with errSt := .busOff, busoffSeen := true, busoff := satAdd x.busoff 1 255 }
    else if 128 ≤ x.tec ∨ 128 ≤ x.recCnt then { x with errSt := .passive, passiveSeen := x.passiveSeen || st == .active }
    else { x with errSt := .active }

/-- A channel that runs, in a state with host access. -/
def canOn (s : State) : Bool := awake s

/-- CAN_FRAME_SENT (R348 to R350): the frame on the bus received its ACK. -/
def execCanFrameSent (c : Fin 2) (s : State) : Res :=
  let s := fresh s
  match (canAt s c.val).offered with
  | some b =>
    if canOn s then
      .next (canOffer c.val (modCan c.val (fun x =>
        let pub := b == 1 && decide (0 < x.nPub)
        let x := x.modTxb b.val (fun t => { t with st := .done, attempts := satAdd t.attempts 1 255
                                                   abortLate := t.abortReq, abortReq := false })
        { x with offered := none, tec := x.tec - 1, txOk := (x.txOk + 1) % 2 ^ 24, ackRun := 0, noAck := false
                 pubSent := if pub then (x.pubSent + 1) % 65536 else x.pubSent }.judge) s))
    else .next s
  | none => .next s

/-- CAN_ACK_ERROR (R350): an error-passive transmitter does not raise its counter. -/
def execCanAckError (c : Fin 2) (s : State) : Res :=
  let s := fresh s
  let x := canAt s c.val
  if canOn s && x.offered.isSome then
    let run := satAdd x.ackRun 1 255
    let no := decide (16 ≤ run)
    .next (canOffer c.val (modCan c.val (fun x =>
      { x.failed with ackRun := run, noAck := no, noAckSeen := x.noAckSeen || (no && !x.noAck)
                      tec := if x.errSt = CanSt.passive then x.tec else x.tec + 8 }.judge) s))
  else .next s

/-- CAN_BUS_ERROR (R343, R348): a transmitter's counter rises by 8, a receiver's by 1 (ISO 11898-1; PRESUMED, log 28). -/
def execCanBusError (c : Fin 2) (transmitting : Bool) (s : State) : Res :=
  let s := fresh s
  let x := canAt s c.val
  if !canOn s || x.errSt == .busOff || x.errSt == .integrating then .next s
  else if transmitting then
    if x.offered.isSome then
      .next (canOffer c.val (modCan c.val (fun x => { x.failed with tec := x.tec + 8 }.judge) s))
    else .next s
  else .next (canOffer c.val (modCan c.val (fun x =>
    { x with busy := false, recCnt := satAdd x.recCnt 1 255 }.judge) s))

/-- CAN_ARBITRATION_LOST (R348): offered again once the bus is free. -/
def execCanArbitrationLost (c : Fin 2) (s : State) : Res :=
  let s := fresh s
  if canOn s && (canAt s c.val).offered.isSome then .next (modCan c.val (fun x => { x.failed with busy := true }) s)
  else .next s

/-- BUS_OFF_RECOVERY (R343). -/
def execBusOffRecovery (c : Fin 2) (s : State) : Res :=
  let s := fresh s
  if canOn s && (canAt s c.val).errSt == .busOff then
    .next (canOffer c.val (modCan c.val (fun x => { x with errSt := .active, tec := 0, recCnt := 0 }) s))
  else .next s

/-- A new beat ends the integration that a change of mode began (R351; DESIGN CHOICE, log 28). -/
def canBeat (s : State) : State :=
  (List.range 2).foldl (fun s c =>
    if (canAt s c).errSt = .integrating then canOffer c (modCan c (fun x => { x with errSt := .active }.judge) s) else s) s

/-! ### Receiving (R352, R353) -/

/-- The frame carries the channel's access identifier (R327). -/
def CanCh.isAccess (x : CanCh) (f : CanFrame) : Bool :=
  f.xtd == x.cfg.accId.testBit 31 && f.id == x.cfg.accId % 2 ^ 29

/-- The lowest enabled filter that a frame matches. -/
def CanCh.filterOf (x : CanCh) (f : CanFrame) : Option Nat :=
  (List.range 4).find? (fun k =>
    let y := getNat x.filt k
    y.enable && y.xtd == f.xtd && (f.id ^^^ y.id) &&& y.mask == 0)

/-- The words of a receive item (Table 14-4). -/
def rxItem (beat k : Nat) (f : CanFrame) : List Word :=
  [toW (bitAt f.xtd 31 + fld f.id 0 29),
   toW (fld f.dlc 20 4 + bitAt f.fdf 19 + bitAt f.brs 18 + bitAt f.esi 17 + fld k 12 3 + fld f.tick 0 10), toW beat] ++
  bytesWords (padTo 0 (dlcBytes f.fdf f.dlc) f.data)

/-- A correct frame lowers the receive counter; from above 127 ISO 11898-1 leaves it between 119 and 127 (log 28). -/
def recDown (free rc : Nat) : Nat := if rc ≤ 127 then rc - 1 else 119 + (Config.freeInt free).toNat % 9

/-- The channel takes part on its bus and hears a frame: its own in a loop-back mode, another node's but in the internal
one (R343, R351). -/
def CanCh.hears (own : Bool) (x : CanCh) : Bool :=
  (x.errSt == .active || x.errSt == .passive) && (if own then x.loop != 0 else x.loop != 1)

/-- CAN_FRAME_RECEIVED (R351 to R353): an access request has its own row; remote frames and frames that no filter lets in
are discarded; the rest enter the receive queue from T6 on. -/
def execCanFrameReceived (c : Fin 2) (f : CanFrame) (s : State) : Res :=
  let s := fresh s
  let x := canAt s c.val
  if canOn s && x.hears f.own then
    let s := if f.own then s
      else modCan c.val (fun x => { x with busy := false, recCnt := recDown s.freeCtr x.recCnt }.judge) (tookFree 1 s)
    let s := canOffer c.val s
    if f.remote || x.isAccess f || !s.st.mode.fromArmed then .next s
    else match x.filterOf f with
      | some k => .next (modCan c.val (fun x => { x with rx := x.rx.offer (rxItem s.time.beat k f) }) s)
      | none => .next s
  else .next s

/-- The oldest frame of a receive queue is committed, or dropped (R336, R353, Table 14-9). -/
def canCommit (c : Nat) (lost : Bool) (s : State) : State :=
  let drop := (canAt s c).rx.dropsNow 1280 lost
  modCan c (fun x => { x with rx := x.rx.commit 0x10 1280 lost, rxOvf := x.rxOvf || drop })
    (setAgainIf drop (0xE000 + 0x400 * c) (2 ^ 7) (setAgainIf drop (0xE014 + 0x400 * c) (2 ^ 17) s))

/-! ### Publications (R354, R355) -/

/-- The publication records of a channel, in their order. -/
def pubsOf (s : State) (c : Nat) : List PubCfg :=
  match s.cal.bind (·.can) with
  | some (_, l) => l.filter (fun p => p.ch == c)
  | none => []

/-- TXB1_LOAD (R354): TXB1, when it is not PENDING, takes the lowest pending record. -/
def execTxb1Load (c : Fin 2) (s : State) : Res :=
  let s := fresh s
  let x := canAt s c.val
  let best := x.pubs.foldl (fun (m : Option PubPend) p => match m with
    | some q => if p.index < q.index then some p else some q
    | none => some p) none
  match best with
  | some p =>
    if canOn s && decide (0 < x.nPub) && x.txb[(1 : Fin 3)].st != .pending then
      .next (canOffer c.val (modCan c.val (fun x =>
        { x.modTxb 1 (Txb.load p.canId p.data) with pubs := x.pubs.filter (fun q => q.index != p.index) }) s))
    else .next s
  | none => .next s

/-- The settings of section 0x10 take effect at T6 (R346); without the section the BLANK settings stay. -/
def canStart (s : State) : State :=
  match s.cal.bind (·.can) with
  | none => s
  | some (cfgs, _) =>
    { s with can := mapAll s.can (fun c x =>
        { x with cfg := cfgs.getD c CanCfg.blank, blankSet := false, nPub := (pubsOf s c).length, pubs := [] }) }

/-! ### Host writes (R347, R349, R351) -/

/-- REQ (R348). -/
def Txb.request (t : Txb) : Txb :=
  if t.st = .pending then t else { t with st := .pending, abortLate := false, attempts := 0, abortReq := false }

/-- ABORT (R349). -/
def CanCh.abort (b : Nat) (x : CanCh) : CanCh :=
  if (getNat x.txb b).st = .pending then
    if x.offered.map Fin.val = some b then x.modTxb b (fun t => { t with abortReq := true })
    else x.modTxb b (fun t => { t with st := .aborted })
  else x

/-- A write of TXBb_CMD. -/
def txbCmd (c b : Nat) (v : Word) (s : State) : RspCode × State :=
  if (canAt s c).moduleUses b then (.access, s)
  else
    let s := if wBit v 31 then canOffer c (modCan c (fun x => x.modTxb b Txb.request) s) else s
    (.ok, if wBit v 30 then modCan c (CanCh.abort b) s else s)

/-- A write of the CTRL, ID or DATA registers of a buffer. -/
def txbWrite (c b w : Nat) (v : Word) (s : State) : RspCode × State :=
  let x := canAt s c
  if x.moduleUses b || (getNat x.txb b).st == .pending then (.access, s)
  else
    (.ok, modCan c (fun x => x.modTxb b (fun t =>
      match w with
      | 0 => { t with brs := wBit v 5, fdf := wBit v 4, dlc := wBits v 3 0 }
      | 4 => { t with xtd := wBit v 31, id := wBits v 28 0 }
      | _ => { t with data := updL t.data ((w - 0x10) / 4) (fun _ => v) })) s)

/-- A write of CANc_CTRL (R351; RWS of 00 Table 00-9): after a change the channel integrates. -/
def loopWrite (c : Nat) (v : Word) (s : State) : RspCode × State :=
  let x := canAt s c
  let m := wBits v 1 0
  if m = 3 ∨ x.txb.toList.any (fun t => t.st == .pending) then (.access, s)
  else if m = x.loop then (.ok, s)
  else if s.st.mode ≠ .stop ∧ s.st.mode ≠ .service then (.access, s)
  else (.ok, modCan c (fun x => { x with loop := m, busy := false
                                         errSt := if x.errSt = .busOff then .busOff else .integrating }) s)

/-- A write of a receive filter. -/
def filtWrite (c k : Nat) (mask : Bool) (v : Word) (s : State) : State :=
  modCan c (fun x => { x with filt := updNat x.filt k (fun y =>
    if mask then { y with mask := wBits v 28 0 }
    else { y with xtd := wBit v 31, enable := wBit v 30, id := wBits v 28 0 }) }) s

/-- Writes to a CAN channel (Table 14-8). -/
def canWrite (c o : Nat) (v : Word) (s : State) : RspCode × State :=
  match o with
  | 0x000 =>
    (.ok, modCan c (fun x => { x with rxOvf := x.rxOvf && !wBit v 7, busoffSeen := x.busoffSeen && !wBit v 6
                                      passiveSeen := x.passiveSeen && !wBit v 5
                                      noAckSeen := x.noAckSeen && !wBit v 4 }) s)
  | 0x004 => loopWrite c v s
  | 0x014 => (.ok, modCan c (fun x => { x with rx := x.rx.statW1c v }) s)
  | 0x018 => (.ok, if wBit v 31 then
      modCan c (fun x => { x with rx := x.rx.flush }) (setAgain (0xE014 + 0x400 * c) (2 ^ 19) s) else s)
  | _ =>
    if 0x040 ≤ o ∧ o < 0x060 then (.ok, filtWrite c ((o - 0x040) / 8) (o % 8 == 4) v s)
    else if 0x100 ≤ o ∧ o < 0x220 then
      let b := (o - 0x100) / 0x60
      match (o - 0x100) % 0x60 with
      | 8 => txbCmd c b v s
      | 12 => (.ok, s)
      | w => if w < 0x50 then txbWrite c b w v s else (.ok, s)
    else (.ok, s)

/-! ### Registers (Tables 14-8 to 14-12) -/

/-- CANc_STATUS. -/
def canStatus (x : CanCh) : Word :=
  toW (bitAt x.rxOvf 7 + bitAt x.busoffSeen 6 + bitAt x.passiveSeen 5 + bitAt x.noAckSeen 4 + bitAt x.noAck 3 +
    bitAt x.blankSet 2)

/-- CANc_ERR.STATE. -/
def CanSt.code : CanSt → Nat
  | .active => 0 | .passive => 1 | .busOff => 2 | .integrating => 3

/-- TXBb_STAT.STATE. -/
def TxSt.code : TxSt → Nat
  | .idle => 0 | .pending => 1 | .done => 2 | .aborted => 3

/-- The words of a transmit buffer. -/
def txbRead (x : CanCh) (b w : Nat) : Word :=
  let t := getNat x.txb b
  match w with
  | 0 => toW (bitAt t.brs 5 + bitAt t.fdf 4 + fld t.dlc 0 4)
  | 4 => toW (bitAt t.xtd 31 + fld t.id 0 29)
  | 8 => 0
  | 12 => toW (bitAt (x.moduleUses b) 17 + bitAt t.abortLate 16 + fld t.attempts 8 8 + t.st.code)
  | _ => t.data.getD ((w - 0x10) / 4) 0

/-- The words of a CAN channel, but for CANc_RXDATA. -/
def canRead (c o : Nat) (s : State) : Word :=
  let x := canAt s c
  match o with
  | 0x000 => canStatus x
  | 0x004 => toW x.loop
  | 0x008 => toW (fld x.errSt.code 24 2 + fld x.ackRun 16 8 + fld (min x.recCnt 255) 8 8 + fld (min x.tec 255) 0 8)
  | 0x00C => toW (fld x.busoff 24 8 + fld x.txOk 0 24)
  | 0x014 => x.rx.stat
  | 0x01C => x.rx.dropWord
  | 0x300 => toW (fld x.pubSkip 16 16 + fld x.pubSent 0 16)
  | _ =>
    if 0x040 ≤ o ∧ o < 0x060 then
      let y := getNat x.filt ((o - 0x040) / 8)
      if o % 8 = 4 then toW y.mask else toW (bitAt y.xtd 31 + bitAt y.enable 30 + fld y.id 0 29)
    else if 0x100 ≤ o ∧ o < 0x220 then
      let w := (o - 0x100) % 0x60
      if w < 0x50 then txbRead x ((o - 0x100) / 0x60) w else 0
    else 0

end Sys2Proof.Machine
end

