-- ==== Sys2Proof/Machine/Calibre.lean ====
section
/-! DEFINITION. Reading a calibre image (03 Tables 03-1 to 03-6, 15-5, 14-2): the fields of every section's payload,
and the structures the module keeps of them. -/

namespace Sys2Proof.Machine

/-! ### Fields at byte offsets, little-endian; bytes beyond the end read 0 -/

/-- The bytes of a payload or an image. -/
abbrev Bytes := Array Byte

/-- u8. -/
def rU8 (p : Bytes) (o : Nat) : Nat := (p.getD o 0).toNat
/-- u16. -/
def rU16 (p : Bytes) (o : Nat) : Nat := rU8 p o + 256 * rU8 p (o + 1)
/-- u32. -/
def rU32 (p : Bytes) (o : Nat) : Nat := rU16 p o + 65536 * rU16 p (o + 2)
/-- u64. -/
def rU64 (p : Bytes) (o : Nat) : Nat := rU32 p o + 2 ^ 32 * rU32 p (o + 4)
/-- i8. -/
def rI8 (p : Bytes) (o : Nat) : Int := signed (rU8 p o) 8
/-- i16. -/
def rI16 (p : Bytes) (o : Nat) : Int := signed (rU16 p o) 16
/-- i32. -/
def rI32 (p : Bytes) (o : Nat) : Int := signed (rU32 p o) 32
/-- f32. -/
def rF32 (p : Bytes) (o : Nat) : F32 := toW (rU32 p o)
/-- 256-bit number, least significant byte first. -/
def rU256 (p : Bytes) (o : Nat) : Nat := leNat ((List.range 32).map (fun i => p.getD (o + i) 0))
/-- n u8 fields. -/
def rU8s (p : Bytes) (o n : Nat) : List Nat := (List.range n).map (fun i => rU8 p (o + i))
/-- n u32 fields. -/
def rU32s (p : Bytes) (o n : Nat) : List Nat := (List.range n).map (fun i => rU32 p (o + 4 * i))
/-- n i32 fields. -/
def rI32s (p : Bytes) (o n : Nat) : List Int := (List.range n).map (fun i => rI32 p (o + 4 * i))
/-- n records from a reader of one record. -/
def recs {α : Type} (n : Nat) (f : Nat → α) : List α := (List.range n).map f
/-- The next multiple of 4. -/
def up4 (n : Nat) : Nat := (n + 3) / 4 * 4

/-! ### The sections (Table 03-3 to Table 03-6) -/

/-- Ledger item i. -/
def rdItem (p : Bytes) (i : Nat) : LedgerItem :=
  let o := 8 + 16 * i
  { engine := rU8 p o, prev := (rU8 p (o + 1)).testBit 0, out := (rU8 p (o + 1)).testBit 1, func := rU16 p (o + 2),
    release := rU16 p (o + 4), deadline := rU16 p (o + 6), budget := rU32 p (o + 8), period := rU16 p (o + 12),
    phase := rU16 p (o + 14) }

/-- The items of section 0x02. -/
def rdItems (p : Bytes) : List LedgerItem := recs (rU16 p 2) (rdItem p)

/-- Node record j of section 0x03. -/
def rdNode (p : Bytes) (j : Nat) : NodeMap :=
  let o := 0x20 + 24 * j
  { line := rU8 p o, hop := rU8 p (o + 1), uidReq := (rU8 p (o + 2)).testBit 0, uid := rU64 p (o + 4),
    posBase := rU16 p (o + 12), posMask := rU16 p (o + 14), tempMask := rU8 p (o + 16), tapCh := rU16 p (o + 18) }

/-- Section 0x03. -/
def rdChain (p : Bytes) : ChainMap :=
  { nPos := rU16 p 0, parMax := rU16 p 2, lines := rU8 p 5, ends := rU8 p 6, ownEnd := rU8 p 7,
    senseRMax := rU32 p 8, nodes := recs (rU8 p 4) (rdNode p) }

/-- Where the tap records of section 0x04 begin. -/
def tapBase (p : Bytes) : Nat := up4 (4 + 2 * rU16 p 0)
/-- TAP_COUNT of every position. -/
def rdTapCounts (p : Bytes) : List Nat := recs (rU16 p 0) (fun i => rU16 p (4 + 2 * i))
/-- One tap record. -/
def rdTap (p : Bytes) (k : Nat) : TapRec :=
  let o := tapBase p + 8 * k
  { mux := rU16 p o, ftc := rI16 p (o + 2), rfuse := rU32 p (o + 4) }
/-- Section 0x04: the taps of each position. -/
def rdTaps (p : Bytes) : List (List TapRec) :=
  ((rdTapCounts p).foldl (fun (acc : Nat × List (List TapRec)) n =>
    (acc.1 + n, recs n (fun i => rdTap p (acc.1 + i)) :: acc.2)) (0, [])).2.reverse

/-- Section 0x05. -/
def rdFront (p : Bytes) : FrontCfg :=
  { shunt := rU8 p 0, shuntTh := rU8 p 1, gain := rI32 p 4, tc := rI32 p 8, insWarn := rU32 p 12,
    insPeriod := rU16 p 16, lnkUse := rU8 p 18 == 1 }

/-- One table record of section 0x06 at a place, with the place after it. -/
def rdTable (p : Bytes) (o : Nat) : CellTable × Nat :=
  let n1 := rU8 p (o + 2)
  let n2 := rU8 p (o + 3)
  let n3 := rU8 p (o + 4)
  let b := o + 8
  let v := b + 4 * (n1 + n2 + n3)
  ({ kind := rU8 p o, set := rU8 p (o + 1), bp1 := rI32s p b n1, bp2 := rI32s p (b + 4 * n1) n2,
     bp3 := rI32s p (b + 4 * (n1 + n2)) n3, vals := rI32s p v (n1 * n2 * n3) }, v + 4 * (n1 * n2 * n3))

/-- n table records with the place of each, and the place after the last. -/
def rdTables (p : Bytes) : Nat → Nat → List (Nat × CellTable) × Nat
  | 0, o => ([], o)
  | n + 1, o =>
    if p.size < o + 8 then ([], o + 8)
    else
      let (t, o') := rdTable p o
      let (r, e) := rdTables p n o'
      ((o, t) :: r, e)

/-- Section 0x06. -/
def rdModel (p : Bytes) : CellModel :=
  { nSets := rU8 p 0, ratedQ := rU32s p 4 8, tables := (rdTables p (rU16 p 2) 0x24).1.map (·.2) }

/-- Section 0x07. -/
def rdEst (nPos : Nat) (p : Bytes) : EstCfg :=
  { restI := rU32 p 0, restT := rU16 p 4, band := rU32 p 8, bandT := rU16 p 12, starveH := rU16 p 14,
    qSoc := rF32 p 0x10, qV1 := rF32 p 0x14, qV2 := rF32 p 0x18, rMeas := rF32 p 0x1C,
    wDis := rU32s p 0x20 3, wChg := rU32s p 0x2C 3, qaCoh := rU32 p 0x38, setMap := rU8s p 0x3C nPos }

/-- Section 0x08. -/
def rdSpec (p : Bytes) : SpecCfg :=
  { sources := rU8 p 0, snapMin := rU16 p 2, chimeI := rU16 p 4, chimeCyc := rU16 p 6, reqAmpl := rU32 p 8,
    reqBins := rU64 p 12, lockinBins := rU64 p 20 }

/-- KP, KI, KD, KF and SHIFT at a place. -/
def rdCoefs (p : Bytes) (o : Nat) : Coefs :=
  { kp := rI32 p o, ki := rI32 p (o + 4), kd := rI32 p (o + 8), kf := rI32 p (o + 12), shift := rU8s p (o + 16) 4 }

/-- Loop record i. -/
def rdLoop (p : Bytes) (i : Nat) : LoopCfg :=
  let o := 4 + 48 * i
  { id := rU8 p o, kind := rU8 p (o + 1), period := rU8 p (o + 2), group := rU8 p (o + 3), inSel := rU16 p (o + 4),
    sched := rU8 p (o + 6), slot := rU8 p (o + 7), setpoint := rI32 p (o + 8), coefs := rdCoefs p (o + 12),
    outMin := rI32 p (o + 32), outMax := rI32 p (o + 36), track := rU8 p (o + 40) }
/-- The loops of section 0x09. -/
def rdLoops (p : Bytes) : List LoopCfg := recs (rU8 p 0) (rdLoop p)
/-- Where the group records begin. -/
def groupBase (p : Bytes) : Nat := 4 + 48 * rU8 p 0
/-- The groups of section 0x09. -/
def rdGroups (p : Bytes) : List GroupCfg :=
  recs (rU8 p 1) (fun g => { target := rU8 p (groupBase p + 4 * g), nIn := rU8 p (groupBase p + 4 * g + 1) })

/-- n schedules of section 0x0A with the place of each, and the place after the last. -/
def rdScheds (p : Bytes) : Nat → Nat → List (Nat × SchedCfg) × Nat
  | 0, o => ([], o)
  | n + 1, o =>
    if p.size < o + 52 then ([], o + 52)
    else
      let nt := rU8 p o
      let ns := rU8 p (o + 1)
      let s : SchedCfg :=
        { tBp := recs nt (fun i => rI16 p (o + 4 + 2 * i)), socBp := rU32s p (o + 0x14) ns
          regions := recs (nt * ns) (fun k => rdCoefs p (o + 0x34 + 20 * k)) }
      let (r, e) := rdScheds p n (o + 52 + 20 * nt * ns)
      ((o, s) :: r, e)

/-- Section 0x0B. -/
def rdTherm (p : Bytes) : List ThermCfg :=
  recs (rU8 p 0) (fun i =>
    let o := 4 + 16 * i
    { cls := rU8 p o, sensors := rU8 p (o + 1), warn := rI16 p (o + 4), throttle := rI16 p (o + 6),
      shut := rI16 p (o + 8), hyst := rU16 p (o + 10) })

/-- S_CFGs, decoded. -/
def rdSIn (w : Nat) : SInCfg :=
  { discT := bitsOf w 15 0, mode := bitsOf w 17 16, test := bitsOf w 19 18, kMask := bitsOf w 23 20 }

/-- The safety block body (Table 03-6); AGE_MAX 0 selects 10. -/
def rdSafety (p : Bytes) : SafetyBlock :=
  { calId := rU32 p 0, calVersion := rU32 p 4, sbFormat := rU16 p 8, nPos := rU16 p 10, kMain := rU8 p 12,
    kPre := rU8 p 13, sides := rU8 p 14, vPosMin := rI32 p 0x10, vPosMax := rI32 p 0x14, tMin := rI16 p 0x18,
    tMax := rI16 p 0x1A, ageMax := if rU16 p 0x1C = 0 then 10 else rU16 p 0x1C, tChgMin := rI16 p 0x1E,
    iDisEnv := rU32 p 0x20, iChgEnv := rU32 p 0x24, i2tDis := rU32 p 0x28, i2tChg := rU32 p 0x2C,
    iFast := rU32 p 0x30, dirTolI := rU32 p 0x34, dirTolT := rU16 p 0x38, offPulse := rU16 p 0x3A,
    vStrMax := rU32 p 0x3C, vStrMin := rU32 p 0x40, insMin := rU32 p 0x44, preTmax := rU16 p 0x48,
    preDv := rU32 p 0x4C, sCfg := recs 4 (fun s => rdSIn (rU32 p (0x50 + 4 * s))) }

/-- The parts of section 0x0E before its program: where constants, station table and program begin. -/
def lgConstBase (p : Bytes) : Nat := 8 + 12 * rU8 p 1
/-- Station table. -/
def lgStnBase (p : Bytes) : Nat := lgConstBase p + 4 * rU16 p 4
/-- N_STN. -/
def lgNStn (p : Bytes) : Nat := rU16 p (lgStnBase p)
/-- Program. -/
def lgCodeBase (p : Bytes) : Nat := lgStnBase p + 4 + 12 * lgNStn p

/-- Section 0x0E. -/
def rdLogic (p : Bytes) : LogicCfg :=
  { form := rU8 p 0, nInstr := rU16 p 2, instSize := rU16 p 6
    tasks := recs (rU8 p 1) (fun t =>
      let o := 8 + 12 * t
      { cycle := rU16 p o, cls := rU8 p (o + 2), prio := rU8 p (o + 3), entry := rU16 p (o + 4), wcet := rU32 p (o + 8) })
    consts := rI32s p (lgConstBase p) (rU16 p 4)
    stations := recs (lgNStn p) (fun s =>
      let o := lgStnBase p + 4 + 12 * s
      { addr := rU16 p o, cycle := rU16 p (o + 2), timeout := rU16 p (o + 4), nIn := rU8 p (o + 6), nOut := rU8 p (o + 7) })
    code := (rU32s p (lgCodeBase p) ((p.size - lgCodeBase p) / 4)).map toW }

/-- Section 0x0F. -/
def rdIo (p : Bytes) : IoPers :=
  { silence := rU8 p 0
    io := recs 16 (fun k =>
      let o := 4 + 8 * k
      { mode := rU8 p o, filter := rU8 p (o + 1), safe := rU8 p (o + 2) == 1, wb := rU8 p (o + 3) == 1 })
    th := recs 6 (fun t => { kind := rU8 p (0x84 + 8 * t), beta := rU16 p (0x84 + 8 * t + 4) }) }

/-- Channel record c of section 0x10 (14 Table 14-2). -/
def rdCanCh (p : Bytes) (c : Nat) : CanCfg :=
  let o := 32 * c
  { nbrp := rU8 p o, ntseg1 := rU8 p (o + 1), ntseg2 := rU8 p (o + 2), nsjw := rU8 p (o + 3), dbrp := rU8 p (o + 4),
    dtseg1 := rU8 p (o + 5), dtseg2 := rU8 p (o + 6), dsjw := rU8 p (o + 7), txOrder := rU8 p (o + 8),
    access := rU8 p (o + 9) == 1, accId := rU32 p (o + 12) }
/-- N_PUB of a channel. -/
def canNPub (p : Bytes) (c : Nat) : Nat := rU16 p (32 * c + 16)
/-- Publication record i of section 0x10. -/
def rdPub (p : Bytes) (i : Nat) : PubCfg :=
  let o := 64 + 12 * i
  { ch := rU8 p o, enable := (rU8 p (o + 1)).testBit 0, period := rU16 p (o + 2), canId := rU32 p (o + 4),
    content := rU16 p (o + 8) }
/-- Section 0x10. -/
def rdCan (p : Bytes) : List CanCfg × List PubCfg :=
  ([rdCanCh p 0, rdCanCh p 1], recs (canNPub p 0 + canNPub p 1) (rdPub p))

/-- Section 0x11. -/
def rdFab (p : Bytes) : FabCfg :=
  { addr := rU16 p 0, ring := rU16 p 2, role := rU8 p 4, autoSwitch := rU8 p 5 != 0, claim := rU16 p 6,
    bank := rU16 p 8, partnerAddr := rU16 p 10, dvJoin := rU32 p 12
    doms := recs 2 (fun d =>
      let o := 0x10 + 6 * d
      { prio1 := rU8 p o, prio2 := rU8 p (o + 1), bmca := rU8 p (o + 2), portRole := rU8s p (o + 3) 3 })
    logSync := rI8 p 0x1C, logPdelay := rI8 p 0x1D, asym := rI32s p 0x20 3
    routes := recs (rU16 p 0x2C) (fun r => (rU16 p (0x30 + 4 * r), rU8 p (0x32 + 4 * r))) }

/-- Section 0x12 (15 Table 15-5). -/
def rdWatch (p : Bytes) : WatchCfg :=
  { period := rU16 p 0, checks := rU16 p 2, vStrLo := rU32 p 4, vStrHi := rU32 p 8, vPosLo := rI32 p 12,
    vPosHi := rI32 p 16, tHi := rI16 p 20, insLo := rU32 p 24, iShort := rU32 p 28,
    nodes := rU8s p 0x24 (rU16 p 0x20) }

/-- Length of list A and where list B begins in section 0x13. -/
def streamNA (p : Bytes) : Nat := rU16 p 64
/-- Where list B begins. -/
def streamB (p : Bytes) : Nat := 68 + 4 * streamNA p
/-- Section 0x13. -/
def rdStream (p : Bytes) : StreamCfg :=
  { queues := recs 8 (fun q => { content := rU8 p (8 * q), decim := rU8 p (8 * q + 1), depth := rU16 p (8 * q + 2) })
    listA := (rU32s p 68 (streamNA p)).map toW
    listB := (rU32s p (streamB p + 4) (rU16 p (streamB p))).map toW }

/-! ### The image -/

/-- A section of an image: its type and its payload. -/
structure Section where
  typ : Nat
  payload : Bytes

/-- SECT_COUNT of the header. -/
def imgSectCount (img : Bytes) : Nat := rU16 img 0x2C
/-- TOTAL_LEN of the header. -/
def imgTotal (img : Bytes) : Nat := rU32 img 0x18
/-- Directory entry k: TYPE and OFFSET. -/
def imgDir (img : Bytes) (k : Nat) : Nat × Nat := (rU8 img (0x30 + 8 * k), rU32 img (0x34 + 8 * k))
/-- LENGTH of the section whose head stands at an offset. -/
def imgLen (img : Bytes) (o : Nat) : Nat := rU32 img (o + 4)
/-- A piece of an image. -/
def slice (img : Bytes) (o n : Nat) : Bytes := ((List.range n).map (fun i => img.getD (o + i) 0)).toArray

/-- The sections that the directory names. -/
def imgSections (img : Bytes) : List Section :=
  recs (imgSectCount img) (fun k =>
    let d := imgDir img k
    { typ := d.1, payload := slice img (d.2 + 16) (imgLen img d.2) })

/-- The payload of the section of a type. -/
def payOf (ss : List Section) (t : Nat) : Option Bytes := (ss.find? (fun s => s.typ == t)).map (·.payload)

/-- The payload of a required section. -/
def payReq (ss : List Section) (t : Nat) : Bytes := (payOf ss t).getD #[]

/-- The calibre of an image that passed every check. -/
def calibreOf (img : Bytes) : Calibre :=
  let ss := imgSections img
  let ch := rdChain (payReq ss 3)
  let h := payReq ss 1
  { calId := rU32 h 12, calVersion := rU32 h 16, crc := rU32 img (imgTotal img - 4), len := imgTotal img
    ledgerLen := rU16 (payReq ss 2) 0
    items := rdItems (payReq ss 2)
    chain := ch
    taps := match payOf ss 4 with
      | some p => rdTaps p
      | none => List.replicate ch.nPos []
    front := rdFront (payReq ss 5)
    model := rdModel (payReq ss 6)
    est := rdEst ch.nPos (payReq ss 7)
    spec := (payOf ss 8).map rdSpec
    loops := rdLoops (payReq ss 9)
    groups := rdGroups (payReq ss 9)
    scheds := match payOf ss 0x0A with
      | some p => (rdScheds p (rU8 p 0) 4).1.map (·.2)
      | none => []
    therm := rdTherm (payReq ss 0x0B)
    logic := (payOf ss 0x0E).map rdLogic
    io := rdIo (payReq ss 0x0F)
    can := (payOf ss 0x10).map rdCan
    fab := rdFab (payReq ss 0x11)
    watch := (payOf ss 0x12).map rdWatch
    stream := (payOf ss 0x13).map rdStream
    payloads := ss.map (fun s => (s.typ, s.payload.toList)) }

/-- A payload of the loaded calibre. -/
def Calibre.payload (c : Calibre) (t : Nat) : Option (List Byte) := (c.payloads.find? (fun p => p.1 == t)).map (·.2)

/-- The loaded calibre's sections, as the checks read them. -/
def Calibre.sections (c : Calibre) : List Section := c.payloads.map (fun p => { typ := p.1, payload := p.2.toArray })

/-- A calibre with the payload of one section put in its place, in ascending order of type, and the structure that
section describes read anew (03 R82 to R84). -/
def Calibre.withPayload (c : Calibre) (t : Nat) (l : List Byte) : Calibre :=
  let p := l.toArray
  let ps := (c.payloads.filter (fun q => q.1 < t)) ++ (t, l) :: c.payloads.filter (fun q => t < q.1)
  let c := { c with payloads := ps }
  match t with
  | 5 => { c with front := rdFront p }
  | 6 => { c with model := rdModel p }
  | 7 => { c with est := rdEst c.chain.nPos p }
  | 8 => { c with spec := some (rdSpec p) }
  | 9 => { c with loops := rdLoops p, groups := rdGroups p }
  | 10 => { c with scheds := (rdScheds p (rU8 p 0) 4).1.map (·.2) }
  | 11 => { c with therm := rdTherm p }
  | 14 => { c with logic := some (rdLogic p) }
  | 15 => { c with io := rdIo p }
  | 16 => { c with can := some (rdCan p) }
  | 18 => { c with watch := some (rdWatch p) }
  | 19 => { c with stream := some (rdStream p) }
  | _ => c

end Sys2Proof.Machine
end

