-- ==== Sys2Proof/Machine/Fp32.lean ====
section
/-! DEFINITION. IEEE 754 binary32 arithmetic with rounding to nearest, ties to even. The spec says FP32 and gives the
filter in C floats (01 Table 01-1, 06 R151, 07 R177); the rounding mode is PRESUMED (log 12). -/

namespace Sys2Proof.Machine

/-- The pattern of +0, of 1 and of the quiet NaN every invalid operation gives. -/
def fZero : F32 := 0
/-- 1.0. -/
def fOne : F32 := 0x3F800000
/-- The NaN of an invalid operation. -/
def fNaN : F32 := 0x7FC00000

/-- Sign bit. -/
def fSign (a : F32) : Bool := a.toNat.testBit 31
/-- Exponent field. -/
def fExp (a : F32) : Nat := a.toNat / 2 ^ 23 % 256
/-- Fraction field. -/
def fFrac (a : F32) : Nat := a.toNat % 2 ^ 23
/-- Not a number. -/
def fIsNaN (a : F32) : Bool := fExp a == 255 && fFrac a != 0
/-- An infinity. -/
def fIsInf (a : F32) : Bool := fExp a == 255 && fFrac a == 0
/-- Neither NaN nor an infinity: the finite values that 03 R62 allows in a calibre. -/
def fFinite (a : F32) : Bool := fExp a != 255
/-- A zero of either sign. -/
def fIsZero (a : F32) : Bool := a.toNat % 2 ^ 31 == 0

/-- An infinity. -/
def fInf (neg : Bool) : F32 := if neg then 0xFF800000 else 0x7F800000
/-- A zero with a sign. -/
def fZeroS (neg : Bool) : F32 := if neg then 0x80000000 else 0

/-- Quotient to the nearest whole number, ties to even. -/
def quotRNE (n d : Nat) : Nat :=
  let q := n / d
  let r := n % d
  if 2 * r < d then q else if d < 2 * r then q + 1 else if q % 2 = 0 then q else q + 1

/-- The binary32 nearest to ±n/d, d > 0. -/
def fRound (neg : Bool) (n d : Nat) : F32 :=
  if n = 0 then fZeroS neg
  else
    let g : Int := (Nat.log2 n : Int) - Nat.log2 d
    -- 2^q ≤ n/d < 2^(q+1)
    let below : Bool := if 0 ≤ g then n < d * 2 ^ g.toNat else n * 2 ^ (-g).toNat < d
    let q : Int := if below then g - 1 else g
    let l : Int := max (q - 23) (-149)
    let m : Nat := if 0 ≤ l then quotRNE n (d * 2 ^ l.toNat) else quotRNE (n * 2 ^ (-l).toNat) d
    -- m ≤ 2^24; the exponent field of m·2^l
    let m' := if m = 2 ^ 24 then 2 ^ 23 else m
    let l' := if m = 2 ^ 24 then l + 1 else l
    if m' < 2 ^ 23 then BitVec.ofNat 32 ((if neg then 2 ^ 31 else 0) + m')
    else
      let e : Int := l' + 150
      if 255 ≤ e then fInf neg
      else BitVec.ofNat 32 ((if neg then 2 ^ 31 else 0) + e.toNat * 2 ^ 23 + (m' - 2 ^ 23))

/-- The binary32 nearest to a rational. -/
def fOfRat (r : Rat) : F32 := fRound (decide (r.num < 0)) r.num.natAbs r.den

/-- The binary32 nearest to a whole number. -/
def fOfInt (i : Int) : F32 := fRound (decide (i < 0)) i.natAbs 1

/-- The exact value of a finite binary32; 0 for the others. -/
def fToRat (a : F32) : Rat :=
  if fExp a = 255 then 0
  else
    let m : Nat := if fExp a = 0 then fFrac a else 2 ^ 23 + fFrac a
    let e : Int := (if fExp a = 0 then 1 else fExp a : Nat) - 150
    let s : Int := if fSign a then -(m : Int) else m
    if 0 ≤ e then (s * 2 ^ e.toNat : Int) else mkRat s (2 ^ (-e).toNat)

/-- Negation flips the sign bit. -/
def fNeg (a : F32) : F32 := a ^^^ 0x80000000
/-- Absolute value clears it. -/
def fAbs (a : F32) : F32 := a &&& 0x7FFFFFFF

/-- a + b. -/
def fAdd (a b : F32) : F32 :=
  if fIsNaN a || fIsNaN b then fNaN
  else if fIsInf a then (if fIsInf b && fSign a != fSign b then fNaN else a)
  else if fIsInf b then b
  else if fIsZero a && fIsZero b then fZeroS (fSign a && fSign b)
  else fOfRat (fToRat a + fToRat b)

/-- a − b. -/
def fSub (a b : F32) : F32 := fAdd a (fNeg b)

/-- a × b. -/
def fMul (a b : F32) : F32 :=
  let sg := fSign a != fSign b
  if fIsNaN a || fIsNaN b then fNaN
  else if fIsInf a || fIsInf b then (if fIsZero a || fIsZero b then fNaN else fInf sg)
  else if fIsZero a || fIsZero b then fZeroS sg
  else fOfRat (fToRat a * fToRat b)

/-- a / b. -/
def fDiv (a b : F32) : F32 :=
  let sg := fSign a != fSign b
  if fIsNaN a || fIsNaN b then fNaN
  else if fIsInf a then (if fIsInf b then fNaN else fInf sg)
  else if fIsInf b then fZeroS sg
  else if fIsZero b then (if fIsZero a then fNaN else fInf sg)
  else if fIsZero a then fZeroS sg
  else
    let q := fToRat a / fToRat b
    fOfRat q

/-- Whole square root by bits, from bit k down: the greatest r with r² ≤ n among those above acc. -/
def isqrtGo (n : Nat) : Nat → Nat → Nat
  | 0, acc => if (acc + 1) * (acc + 1) ≤ n then acc + 1 else acc
  | k + 1, acc =>
    let t := acc + 2 ^ (k + 1)
    isqrtGo n k (if t * t ≤ n then t else acc)

/-- The whole square root of n. -/
def isqrt (n : Nat) : Nat := isqrtGo n (Nat.log2 n / 2) 0

/-- √a, correctly rounded: 26 bits and a sticky bit are enough. -/
def fSqrt (a : F32) : F32 :=
  if fIsNaN a then fNaN
  else if fIsZero a then a
  else if fSign a then fNaN
  else if fIsInf a then a
  else
    let m : Nat := if fExp a = 0 then fFrac a else 2 ^ 23 + fFrac a
    let e : Int := (if fExp a = 0 then 1 else fExp a : Nat) - 150
    -- a = m·2^e; bring the exponent to an even number and add 56 places
    let m1 := if e % 2 = 0 then m * 2 ^ 56 else m * 2 ^ 57
    let e1 : Int := (if e % 2 = 0 then e - 56 else e - 57) / 2
    let r := isqrt m1
    let m2 := 2 * r + (if r * r = m1 then 0 else 1)
    let e2 := e1 - 1
    if 0 ≤ e2 then fRound false (m2 * 2 ^ e2.toNat) 1 else fRound false m2 (2 ^ (-e2).toNat)

/-- a < b; false with a NaN. -/
def fLt (a b : F32) : Bool :=
  if fIsNaN a || fIsNaN b then false
  else if fIsInf a then (fSign a && !(fIsInf b && fSign b))
  else if fIsInf b then !fSign b
  else decide (fToRat a < fToRat b)

/-- a ≤ b; false with a NaN. -/
def fLe (a b : F32) : Bool :=
  !fIsNaN a && !fIsNaN b && !fLt b a

/-- A constant given as a quotient of whole numbers. -/
def fC (n : Int) (d : Nat) : F32 := fRound (decide (n < 0)) n.natAbs d

/-- The whole number nearest to a rational, ties to even. -/
def ratRNE (r : Rat) : Int :=
  if r.num < 0 then -(quotRNE r.num.natAbs r.den : Int) else (quotRNE r.num.natAbs r.den : Int)

/-- The whole number nearest to a finite binary32, ties to even; 0 for the others. -/
def fToIntRNE (a : F32) : Int := ratRNE (fToRat a)

/-- The whole part of a rational, towards zero. -/
def ratTrunc (r : Rat) : Int := Int.tdiv r.num r.den

end Sys2Proof.Machine
end

