-- ==== Sys2Proof/Machine/Chain.lean ====
section
/-! DEFINITION. The sweep sequencer's side of the Stoex chain (04): which end sends, the commands, enumeration, delays,
frames that arrive, breaks and returns, and the chain registers. -/

namespace Sys2Proof.Machine

/-! ### Lines and ends -/

/-- The chain map of the loaded calibre. -/
def chainMap (s : State) : ChainMap := (s.cal.map (·.chain)).getD default

/-- Line k is in LINES. -/
def lineUsed (s : State) (l : Nat) : Bool := s.cal.isSome && (chainMap s).lines.testBit l

/-- The two ENDS bits of a line. -/
def endBits (s : State) (l : Nat) : Nat := (chainMap s).ends / 4 ^ l % 4

/-- The ends of a line that this module owns: OWN_END in a pair, else the ends in use (03 Table 03-4). -/
def ownBits (s : State) (l : Nat) : Nat :=
  let o := (chainMap s).ownEnd / 4 ^ l % 4
  if o = 0 then endBits s l else o

/-- An end among two bits: bit 0 is E, bit 1 is W. -/
def hasEnd (bits : Nat) : End → Bool
  | .e => bits.testBit 0
  | .w => bits.testBit 1

/-- The other end. -/
def endFlip : End → End
  | .e => .w
  | .w => .e

/-- The END bit: 0 for E, 1 for W. -/
def endNum : End → Nat
  | .e => 0
  | .w => 1

/-- This module's claim (03, section 0x11). -/
def ownClaim (s : State) : Nat := (s.cal.map (·.fab.claim)).getD 0

/-- The calibre makes the module a partner of a pair. -/
def inPair (s : State) : Bool := ((s.cal.map (·.fab.role)).getD 0) == 1

/-- Of a pair, this module holds the higher claim (12 R313, R314); a single module always counts as that one. -/
def higherClaim (s : State) : Bool :=
  !inPair s || ((s.fab.pair.partner.map (fun p => decide (p.claim < ownClaim s))).getD false)

/-- This module sends the primary BEAT frames and the commands: the only module, or the pair's higher claim while it
has not yielded (12 R314, R320). -/
def sendsPrimary (s : State) : Bool := higherClaim s && !(inPair s && s.fab.pair.yielded)

/-- This module is the holder (12 R314). -/
def holder (s : State) : Bool := !inPair s || s.fab.pair.holder

/-- The primary end of a line (R100): W only where W alone is in use; in a pair the end that the higher claim owns. -/
def primaryEnd (s : State) (l : Nat) : End :=
  if inPair s then
    let mine : End := if hasEnd (ownBits s l) .w then .w else .e
    if higherClaim s then mine else (endFlip mine)
  else if endBits s l = 2 then .w else .e

/-- The far end is in use and belongs to this module (R109). -/
def farOwned (s : State) (l : Nat) : Bool :=
  lineUsed s l && endBits s l == 3 && hasEnd (ownBits s l) (endFlip (primaryEnd s l))

/-- E8 drives the chain: from T6 onward, its enumeration included (R89). -/
def e8On (s : State) : Bool := awake s && (s.st.mode.fromArmed || s.chain.enumOn)

/-- The ends from which this module sends BEAT frames on a line; a module that has yielded sends none (12 R320). -/
def beatEnds (s : State) (l : Nat) : List End :=
  if inPair s && s.fab.pair.yielded then [] else
  (if sendsPrimary s && hasEnd (ownBits s l) (primaryEnd s l) then [primaryEnd s l] else []) ++
  (if (getNat s.chain.line l).secondary then [(endFlip (primaryEnd s l))] else [])

/-- One line changed. -/
def modLine (l : Nat) (f : Line → Line) (s : State) : State :=
  { s with chain := { s.chain with line := updNat s.chain.line l f } }

/-- A line. -/
def lineAt (s : State) (l : Nat) : Line := getNat s.chain.line l

/-- One node record changed. -/
def modRec (a : Nat) (f : NodeM → NodeM) (s : State) : State :=
  { s with chain := { s.chain with node := updNat s.chain.node a f } }

/-- The record of the node with an address. -/
def nodeRec (s : State) (a : Nat) : NodeM := getNat s.chain.node a

/-! ### Sending commands (R89, R98, R99) -/

/-- The windows and the count let a CMD frame out on this line: fewer than four have gone in this beat, and tick 140 has
not passed (R89, R99). -/
def windowFree (l : Nat) (s : State) : Bool := decide ((lineAt s l).cmds < 4) && decide (tickOf s ≤ 140)

/-- A command may go out on this line now: E8 runs, and this module sends BEAT frames on the line (R99; 12 R313, R320). -/
def cmdFree (l : Nat) (s : State) : Bool :=
  e8On s && lineUsed s l && !(beatEnds s l).isEmpty && windowFree l s

/-- The end by which a command for an address leaves: the one its node follows, where this module sends there. -/
def cmdEnd (s : State) (l addr : Nat) : End :=
  let d : End := if (nodeRec s addr).followW then .w else .e
  if addr < 64 && (beatEnds s l).contains d then d else ((beatEnds s l).head?).getD (primaryEnd s l)

/-- A chain frame leaves this module with its claim (Table 04-2). -/
def sendChain (l : Nat) (d : End) (typ addr seq : Nat) (payload : List Byte) (s : State) : State :=
  put (.chain l d (mkFrame typ addr (ownClaim s) seq payload)) s

/-- RSLOT of the next CMD frame on a line: E8 gives the replies of a beat slots of 40 µs (DESIGN CHOICE, log 17). -/
def nextSlot (l : Nat) (s : State) : Nat := 40 * (lineAt s l).cmds

/-- A CMD frame leaves at tick 20 or later: OP, RSLOT, two reserved bytes and the arguments (R89, R98). -/
def sendCmd (l : Nat) (d : End) (addr op : Nat) (args : List Nat) (s : State) : State :=
  let rslot := nextSlot l s
  let s := sendChain l d 2 addr s.chain.cmdSeq
    (leB 1 op ++ leB 1 rslot ++ leB 2 0 ++ args.map (fun n => BitVec.ofNat 8 n)) (atNs 50000 s)
  let s := modLine l (fun x => { x with cmds := x.cmds + 1, slept := false }) s
  let c : CmdOut := { seq := s.chain.cmdSeq, line := l, addr := addr, op := op, args := args, done := false }
  { s with chain := { s.chain with cmdSeq := (s.chain.cmdSeq + 1) % 65536, cmdsOut := s.chain.cmdsOut ++ [c] } }

/-- The REPLY of a node, where one answers. -/
def putReply (op seq rslot claim : Nat) (c : NodeCmd) (n : Option NodeS) (s : State) : State :=
  match n with
  | some n => put (n.reply (fabNs s) op seq rslot claim c) s
  | none => s

/-- An addressed command: the CMD frame leaves, its node handles it and answers (R98, R104). -/
def command (addr op : Nat) (args : List Nat) (c : NodeCmd) (s : State) : State :=
  let l := addr / 16
  let d := cmdEnd s l addr
  let seq := s.chain.cmdSeq
  let rslot := nextSlot l s
  let s := sendCmd l d addr op args s
  nodeCommand l d addr (ownClaim s) c (putReply op seq rslot (ownClaim s) c (answering l d addr s) s)

/-- A broadcast command without a reply. -/
def broadcast (l : Nat) (d : End) (op : Nat) (args : List Nat) (c : NodeCmd) (s : State) : State :=
  nodeBroadcast l d (ownClaim s) c (sendCmd l d 0xFF op args s)

/-- Argument bytes of a number. -/
def argB (k n : Nat) : List Nat := (List.range k).map (fun i => n / 2 ^ (8 * i) % 256)

/-! ### Enumeration (R100, R101) -/

/-- The first failure of a chain check ends the enumeration of its line and fills ENUM_RESULT (R101). -/
def enumFail (l err : Nat) (d : End) (hop detail : Nat) (s : State) : State :=
  let s := modLine l (fun x => { x with step := .failed }) s
  if s.chain.enumErr = 0 then
    { s with chain := { s.chain with enumErr := err, enumLine := l, enumEnd := d, enumHop := hop
                                     enumDetail := min detail 65535 } }
  else s

/-- Hop from E of the node that is h nodes away from an end, by the nodes that the chain map declares (03 Table 03-4). -/
def hopFrom (s : State) (l : Nat) (d : End) (h : Nat) : Nat :=
  match d with
  | .e => h
  | .w => ((chainMap s).onLine l).length - 1 - h

/-- Hop from E of the h-th node counted from the primary end: addresses count from the primary end (R100), HOP counts
from E (03 Table 03-4). -/
def hopFromE (s : State) (l h : Nat) : Nat := hopFrom s l (primaryEnd s l) h

/-- The node of the chain map at an address. -/
def mapNode (s : State) (a : Nat) : Option NodeMap :=
  ((chainMap s).onLine (a / 16)).find? (fun n => n.hop == hopFromE s (a / 16) (a % 16))

/-- The address of a node of the chain map. -/
def addrOf (s : State) (n : NodeMap) : Nat := nodeAddr n.line (hopFromE s n.line n.hop)

/-- ENUM_RESET (R100, R104, R415). -/
def execEnumReset (line : Fin 4) (s : State) : Res :=
  let s := fresh s
  let l := line.val
  if cmdFree l s && (lineAt s l).step == .waiting && decide (3 ≤ (lineAt s l).waited) then
    .next (modLine l (fun x => { x with step := .assigning, waited := 0, nextHop := 0 })
      (broadcast l (primaryEnd s l) 1 [] (.plain NodeS.enumReset) s))
  else .next s

/-- ENUM_ASSIGN (R98, R100, R415): alone in its beat on the line; a line has at most 16 nodes (R85). -/
def execEnumAssign (line : Fin 4) (s : State) : Res :=
  let s := fresh s
  let l := line.val
  let h := (lineAt s l).nextHop
  if cmdFree l s && (lineAt s l).step == .assigning && (lineAt s l).cmds == 0 && decide (h < 16) then
    let a := nodeAddr l h
    let d := primaryEnd s l
    let seq := s.chain.cmdSeq
    let s := sendCmd l d 0xFF 2 [a, 0, 0, 0] s
    let taker := assignTaker (ownClaim s) (assignPath (ownClaim s) (lineFrom l d s))
    let s := nodesAssign l d (ownClaim s) a (putReply 2 seq 0 (ownClaim s) (assignCmd a) taker s)
    .next (modLine l (fun x => { x with cmds := 4 }) s)
  else .next s

/-- ENUM_LINE_END (R100, Table 04-10): 10 beats without a reply, or 16 nodes found. No rule gives END and HOP where no one
node fails: COUNT_LOW names the first node missing, COUNT_HIGH the first beyond the map, LINE_DEAD HOP 0, each with the
primary end (DESIGN CHOICE, log 38). -/
def execEnumLineEnd (line : Fin 4) (s : State) : Res :=
  let s := fresh s
  let l := line.val
  let x := lineAt s l
  if e8On s && x.step == .assigning && (decide (10 ≤ x.waited) || decide (16 ≤ x.nextHop)) then
    let n := ((chainMap s).onLine l).length
    let s := modLine l (fun x => { x with nodes := x.nextHop }) s
    if x.nextHop = 0 then .next (enumFail l 12 (primaryEnd s l) 0 0 s)
    else if x.nextHop < n then .next (enumFail l 1 (primaryEnd s l) (hopFromE s l x.nextHop) x.nextHop s)
    else if n < x.nextHop then .next (enumFail l 2 (primaryEnd s l) (hopFromE s l n) x.nextHop s)
    else .next (modLine l (fun x => { x with step := .checking }) s)
  else .next s

/-- The node is under the checks of R100 steps 3 and 4. -/
def checkingNode (s : State) (a : Nat) : Bool := (lineAt s (a / 16)).step == .checking && (nodeRec s a).found

/-- A delay of the node from an end has been measured, or is written. -/
def NodeM.measured (r : NodeM) : End → Bool
  | .e => r.newE.isSome || r.knownE
  | .w => r.newW.isSome || r.knownW

/-- D is measured from every end of the node's line that this module owns (R100 step 3). -/
def ownDelays (s : State) (a : Nat) : Bool :=
  [End.e, End.w].all (fun d => !hasEnd (ownBits s (a / 16)) d || (nodeRec s a).measured d)

/-- READ_ID (Table 04-8, R100 step 3). -/
def execReadId (node : Fin 64) (s : State) : Res :=
  let s := fresh s
  let a := node.val
  if cmdFree (a / 16) s && checkingNode s a && !(nodeRec s a).idRead then .next (command a 4 [] readIdCmd s) else .next s

/-- MEAS_SENSE (Table 04-8, R100 step 3): after READ_ID and the delays. -/
def execMeasSense (node : Fin 64) (s : State) : Res :=
  let s := fresh s
  let a := node.val
  let r := nodeRec s a
  if cmdFree (a / 16) s && checkingNode s a && r.idRead && ownDelays s a && !r.senseDone then
    .next (modRec a (fun r => { r with senseSent := true })
      (command a 7 [] (senseCmd s.time.beat s.freeCtr) (tookFree 1 s)))
  else .next s

/-- READ_SENSE (Table 04-8, R100 step 3): after MEAS_SENSE. -/
def execReadSense (node : Fin 64) (s : State) : Res :=
  let s := fresh s
  let a := node.val
  let r := nodeRec s a
  if cmdFree (a / 16) s && checkingNode s a && r.senseSent && !r.senseDone then
    .next (command a 8 [] (readSenseCmd s.time.beat s.freeCtr) (tookFree 1 s))
  else .next s

/-- A delay to write: the measured one where there is one, else the one the node holds. -/
def delayE (r : NodeM) : Nat := r.newE.getD r.dE
/-- The same from end W. -/
def delayW (r : NodeM) : Nat := r.newW.getD r.dW

/-- The checks of R100 step 3 are behind this node, or its line has passed. -/
def checked (s : State) (a : Nat) : Bool :=
  let r := nodeRec s a
  r.found && !r.assign && ((lineAt s (a / 16)).step == .passed ||
    ((lineAt s (a / 16)).step == .checking && r.idRead && r.senseDone && ownDelays s a))

/-- SET_DELAY (R100 step 4, R103, R114): sent when a measured delay waits to be written, after the checks of the node and
after its REASSIGN. -/
def execSetDelay (node : Fin 64) (s : State) : Res :=
  let s := fresh s
  let a := node.val
  let r := nodeRec s a
  if cmdFree (a / 16) s && checked s a && (r.newE.isSome || r.newW.isSome) then
    let dE := delayE r
    let dW := delayW r
    let s := command a 5 (argB 2 dE ++ argB 2 dW) (.plain (NodeS.setDelay dE dW)) s
    .next (modRec a (fun r => { r with dE := dE, dW := dW, knownE := r.knownE || r.newE.isSome
                                       knownW := r.knownW || r.newW.isSome, newE := none, newW := none }) s)
  else .next s

/-- The tap plan of a node: its tap records' MUX words in order, TAP_CH of them (03 R68, 05 R119). -/
def tapPlanOf (s : State) (a : Nat) : List Nat :=
  match s.cal, mapNode s a with
  | some c, some n => (((n.locals.filterMap n.stringPos).flatMap (fun p => (c.taps[p]?).getD [])).map (·.mux)).take n.tapCh
  | _, _ => []

/-- SET_TAP_PLAN (R100 step 4, R114): after SET_DELAY, at most 120 entries a command. -/
def execSetTapPlan (node : Fin 64) (s : State) : Res :=
  let s := fresh s
  let a := node.val
  let r := nodeRec s a
  let mux := ((tapPlanOf s a).drop r.planNext).take 120
  if cmdFree (a / 16) s && checked s a && r.newE.isNone && r.newW.isNone && decide (0 < mux.length) then
    let s := command a 6 (argB 2 r.planNext ++ argB 2 mux.length ++ mux.flatMap (argB 2))
      (planCmd s.time.beat r.planNext mux) s
    .next (modRec a (fun r => { r with planNext := r.planNext + mux.length, planBeat := s.time.beat }) s)
  else .next s

/-- REASSIGN (R98, R114): for a node whose ANNOUNCE was known, alone in its beat on the line. -/
def execReassign (line : Fin 4) (addr : Fin 64) (s : State) : Res :=
  let s := fresh s
  let l := line.val
  let a := addr.val
  let r := nodeRec s a
  if cmdFree l s && decide (a / 16 = l) && r.assign && (lineAt s l).cmds == 0 then
    let d := cmdEnd s l a
    let seq := s.chain.cmdSeq
    let s := sendCmd l d 0xFF 3 ([a, 0, 0, 0] ++ argB 8 r.uid) s
    let s := putReply 3 seq 0 (ownClaim s) (reassignCmd a) (answeringUid l d r.uid s) s
    let s := nodesReassign l d (ownClaim s) a r.uid s
    let s := modLine l (fun x => { x with cmds := 4 }) s
    .next (modRec a (fun r => { r with assign := false }) s)
  else .next s

/-- READ_DIAG (R99): once every 1 000 beats from every node. -/
def execReadDiag (node : Fin 64) (s : State) : Res :=
  let s := fresh s
  let a := node.val
  let r := nodeRec s a
  if cmdFree (a / 16) s && r.found && !r.assign && (r.diagBeat.map (fun b => b / 1000)) != some (s.time.beat / 1000) then
    .next (modRec a (fun r => { r with diagBeat := some s.time.beat })
      (command a 13 [] (diagCmd s.freeCtr) (tookFree 2 s)))
  else .next s

/-- CLEAR_DIAG (Table 04-8). -/
def execClearDiag (node : Fin 64) (s : State) : Res :=
  let s := fresh s
  let a := node.val
  if cmdFree (a / 16) s && (nodeRec s a).found && !(nodeRec s a).assign then
    .next (command a 14 [] (.plain NodeS.clearDiag) s)
  else .next s

/-- The end by which a SLEEP leaves: the primary one where this module owns it, else its own; without a chain map, E
(DESIGN CHOICE, log 38). -/
def sleepEnd (s : State) (l : Nat) : End :=
  if ownBits s l = 0 ∨ hasEnd (ownBits s l) (primaryEnd s l) then primaryEnd s l else endFlip (primaryEnd s l)

/-- A SLEEP broadcast on a line (R107). -/
def sleepLine (l : Nat) (s : State) : State :=
  modLine l (fun x => { x with slept := true }) (broadcast l (sleepEnd s l) 15 [] (.plain NodeS.sleep) s)

/-- The SLEEP frames that T2 and T12 still owe: on every line whose last frame was none (R107). Those leave at the beat
boundary itself (DESIGN CHOICE, log 38). -/
def sleepAll (s : State) : State :=
  (List.range 4).foldl (fun s l => if (lineAt s l).slept then s else sleepLine l s) s

/-- SLEEP (R89, R99, R107): in the command window, before T2 and T12, which wait for their beat boundary. -/
def execSleep (line : Fin 4) (s : State) : Res :=
  let s := fresh s
  let l := line.val
  if awake s && s.host.cmds.any (fun c => c.code == 1 || c.code == 6) && windowFree l s && !(lineAt s l).slept then
    .next (sleepLine l s)
  else .next s

/-! ### Hop delay (R102, R103) -/

/-- The nodes and owned ends over which the probes of a line rotate: in a pair only this module's end. -/
def probeList (s : State) (l : Nat) : List (Nat × End) :=
  let ns := (List.range (lineAt s l).nodes).filter (fun h => (nodeRec s (nodeAddr l h)).found)
  let ends := [End.e, End.w].filter (hasEnd (ownBits s l))
  ns.flatMap (fun h => ends.map (fun d => (nodeAddr l h, d)))

/-- The probes that a line still needs: from ARMED onward all rotate; during enumeration those of delays not yet measured,
in a pair's lower claim once the other module's nodes let the BEAT frames through (R100, R103; 12 R313). -/
def probesDue (s : State) (l : Nat) : List (Nat × End) :=
  let x := lineAt s l
  if s.st.mode.fromArmed then (if x.step == .passed then probeList s l else [])
  else if x.step == .checking && (higherClaim s || x.pass) then
    (probeList s l).filter (fun p => !(nodeRec s p.1).measured p.2)
  else []

/-- A PROBE frame: its node echoes it 4 000 ns after it arrives, towards the end it came from; the delay of the cable and
the nodes between is the hardware's (R102, log 8). -/
def sendProbe (l : Nat) (d : End) (a : Nat) (s : State) : State :=
  let s := tookFree 1 (sendChain l d 3 a 0 [] s)
  let claim := ownClaim s
  let s := match answering l d a s with
    | some n =>
      put (.node n.line n.hop d (364000 + (Config.freeInt s.freeCtr).toNat) (mkFrame 7 a (max n.held claim) 0 [])) s
    | none => s
  nodeCommand l d a claim (.read (fun _ => .none)) s

/-- PROBE_FRAME on one line. -/
def probeLine (l : Nat) (s : State) : State :=
  let due := probesDue s l
  let x := lineAt s l
  if lineUsed s l then
    match due[x.probeIdx % max 1 due.length]? with
    | some (a, d) =>
      sendProbe l d a (modLine l (fun x => { x with probe := some (a, d), probeIdx := (x.probeIdx + 1) % max 1 due.length }) s)
    | none => s
  else s

/-- PROBE_FRAME (R89, R102, R103): at tick 144 of a beat, one PROBE per line, the next of the rotation. A module that has
yielded sends none (12 R320). -/
def execProbeFrame (s : State) : Res :=
  let s := fresh s
  if e8On s && !(inPair s && s.fab.pair.yielded) && mayAct .probeFrame 144 s then
    .next ((List.range 4).foldl (fun s l => probeLine l s) (actAt .probeFrame 144 s))
  else .next s

/-- The probe set of a node from an end. -/
def NodeM.setOf (r : NodeM) : End → ProbeSet
  | .e => r.setE
  | .w => r.setW

/-- The delay written from an end. -/
def NodeM.dOf (r : NodeM) : End → Nat
  | .e => r.dE
  | .w => r.dW

/-- A probe set stored. -/
def NodeM.withSet (d : End) (p : ProbeSet) (r : NodeM) : NodeM :=
  match d with
  | .e => { r with setE := p }
  | .w => { r with setW := p }

/-- A new delay that waits for SET_DELAY. -/
def NodeM.withNew (d : End) (v : Nat) (r : NodeM) : NodeM :=
  match d with
  | .e => { r with newE := some v }
  | .w => { r with newW := some v }

/-- A delay taken as written: the pair's lower claim keeps what it has passed on (12 R313). -/
def NodeM.withD (d : End) (v : Nat) (r : NodeM) : NodeM :=
  match d with
  | .e => { r with dE := v, knownE := true }
  | .w => { r with dW := v, knownW := true }

/-- An empty set. -/
def ProbeSet.empty : ProbeSet := default

/-- One round trip added to a set. -/
def ProbeSet.add (rtt : Nat) (p : ProbeSet) : ProbeSet :=
  { p with n := p.n + 1, sum := p.sum + rtt, least := if p.n = 0 then rtt else min p.least rtt
           most := max p.most rtt }

/-- D of a full set: (mean − 4 000) / 2, to the nearest nanosecond. -/
def ProbeSet.delay (k : Nat) (p : ProbeSet) : Nat := (nearFree k ((p.sum : Int) - 64 * 4000) 128).toNat

/-- A delay waits to go to the partner by DELAYS, where this module has the pair's lower claim (12 R313). -/
def sendDelays (a : Nat) (d : End) (v : Nat) (s : State) : State :=
  if inPair s && !higherClaim s then
    { s with fab := { s.fab with pair := { s.fab.pair with delays := s.fab.pair.delays ++ [(a, d == .w, v)] } } }
  else s

/-- A full set of 64 (R102, R103): at enumeration the checks of DELAY, then D waits to be written; from ARMED onward
a set with a lost probe is discarded, and D is written when it differs by 2 ns or more. -/
def closeSet (a : Nat) (d : End) (s : State) : State :=
  let p := (nodeRec s a).setOf d
  let v := p.delay s.freeCtr
  let s := tookFree 1 s
  let s := modRec a (NodeM.withSet d ProbeSet.empty) s
  if p.lost then s
  else if s.st.mode.fromArmed then
    let old := (nodeRec s a).dOf d
    let s := sendDelays a d v s
    if 2 ≤ ((v : Int) - old).natAbs then modRec a (if higherClaim s then NodeM.withNew d v else NodeM.withD d v) s
    else s
  else if 3000 < v ∨ p.least + 40 < p.most then enumFail (a / 16) 10 d (hopFromE s (a / 16) (a % 16)) v s
  else sendDelays a d v (modRec a (if higherClaim s then NodeM.withNew d v else NodeM.withD d v) s)

/-- The probe that is out on a line is lost (R102). -/
def probeLost (l : Nat) (s : State) : State :=
  match (lineAt s l).probe with
  | some (a, d) =>
    let s := modLine l (fun x => { x with probe := none }) s
    if s.st.mode.fromArmed then
      let s := modRec a (fun r => r.withSet d { r.setOf d with n := (r.setOf d).n + 1, lost := true }) s
      if 64 ≤ ((nodeRec s a).setOf d).n then closeSet a d s else s
    else enumFail l 10 d (hopFromE s (a / 16) (a % 16)) 0xFFFF (modRec a (NodeM.withSet d ProbeSet.empty) s)
  | none => s

/-- PROBE_LOST (R102): a probe without its ECHO by tick 152. -/
def execProbeLost (line : Fin 4) (s : State) : Res :=
  let s := fresh s
  .next (if e8On s && (lineAt s line.val).probe.isSome then probeLost line.val (atNs 380000 s) else s)

/-! ### Frames that arrive (R88, R97, R98, R106, R114) -/

/-- What every inbound frame does: a discarded one is counted on its line (R88); a higher claim is seen (R106). -/
def inbound (h : ChainHdr) (whole : Bool) (s : State) : State :=
  if whole then
    if ownClaim s < h.claim then setAgain 0x7000 (2 ^ 21) { s with chain := { s.chain with claimHigher := true } } else s
  else modLine h.line.val (fun x => { x with crc := satAdd x.crc 1 (2 ^ 32 - 1) }) s

/-- A frame that this module can receive: E8 runs and the end is its own. -/
def hears (h : ChainHdr) (s : State) : Bool := e8On s && lineUsed s h.line.val && hasEnd (ownBits s h.line.val) h.fromEnd

/-- The frame comes from a known node of that line. -/
def knownSender (h : ChainHdr) (s : State) : Bool :=
  decide (h.addr < 64) && decide (h.addr / 16 = h.line.val) && (nodeRec s h.addr).found

/-- ECHO (R88, R102, R103, R106): the ECHO of the PROBE that is out, by tick 152. -/
def execEcho (h : ChainHdr) (payload : List Byte) (rttNs : Nat) (s : State) : Res :=
  let s := fresh s
  if hears h s then
    let whole := frameOk 7 h payload
    let s := inbound h whole s
    let a := h.addr
    if whole && (lineAt s h.line.val).probe == some (a, h.fromEnd) && decide (h.tick ≤ 152 ∧ tickOf s ≤ 152) then
      let s := modLine h.line.val (fun x => { x with probe := none }) (atNs (h.tick * 2500) s)
      let s := modRec a (fun r => r.withSet h.fromEnd ((r.setOf h.fromEnd).add rttNs)) s
      .next (if 64 ≤ ((nodeRec s a).setOf h.fromEnd).n then closeSet a h.fromEnd s else s)
    else .next s
  else .next s

/-- RESULT_FWD or AUX_FWD to the partner of a formed pair (12 Table 12-5, Table 12-16). -/
def forwardPair (sub a seq : Nat) (body : List Byte) (s : State) : State :=
  if inPair s && s.fab.pair.st == .formed then
    sendFab none 6 ((s.cal.map (·.fab.partnerAddr)).getD 0) s.time.beat none 3
      (leB 1 sub ++ leB 3 0 ++ leB 1 a ++ leB 1 0 ++ leB 2 seq ++ body) s
  else s

/-- A RESULT taken for the beat: the first of its node (R97). -/
def takeResult (a : Nat) (b : ResultBody) (s : State) : State :=
  if s.chain.got.any (fun g => g.addr == a) then s
  else { s with chain := { s.chain with got :=
    s.chain.got ++ [{ addr := a, nstat := b.nstat, suspect := b.suspect, vpos := b.vpos }] } }

/-- An AUX taken for the beat before. -/
def takeAux (a : Nat) (b : AuxBody) (s : State) : State :=
  if s.chain.gotAux.any (fun g => g.addr == a) then s
  else { s with chain := { s.chain with gotAux := s.chain.gotAux ++ [{ addr := a, body := b }] } }

/-- A RESULT is accepted (R97): window of ticks 210 to 330, SEQ of this beat, at the end that its sender follows. -/
def resultOk (h : ChainHdr) (b : ResultBody) (s : State) : Bool :=
  knownSender h s && decide (210 ≤ h.tick ∧ h.tick ≤ 330 ∧ tickOf s ≤ 330) &&
  decide (h.seq = s.time.beat % 65536) && (b.nstat.testBit 2 == (h.fromEnd == .w))

/-- RESULT (R88, R97, R106; 12 Table 12-5). -/
def execResult (h : ChainHdr) (b : ResultBody) (s : State) : Res :=
  let s := fresh s
  if hears h s then
    let whole := frameOk 4 h (resultBytes b)
    let s := inbound h whole s
    if whole && resultOk h b s then
      let s := atNs (h.tick * 2500) s
      let s := modRec h.addr (fun r => { r with followW := b.nstat.testBit 2, hops := h.hops }) s
      .next (forwardPair 1 h.addr h.seq (resultBytes b) (takeResult h.addr b s))
    else .next s
  else .next s

/-- An AUX is accepted (R97): window of ticks 20 to 140, SEQ of the beat before, at the end its sender follows. -/
def auxOk (h : ChainHdr) (s : State) : Bool :=
  knownSender h s && decide (20 ≤ h.tick ∧ h.tick ≤ 140 ∧ tickOf s ≤ 140) &&
  decide ((h.seq + 1) % 65536 = s.time.beat % 65536) && ((nodeRec s h.addr).followW == (h.fromEnd == .w))

/-- AUX (R88, R97, R106; 12 Table 12-5). -/
def execAux (h : ChainHdr) (b : AuxBody) (s : State) : Res :=
  let s := fresh s
  if hears h s then
    let whole := frameOk 5 h (auxBytes b)
    let s := inbound h whole s
    if whole && auxOk h s then
      .next (forwardPair 2 h.addr h.seq (auxBytes b) (takeAux h.addr b (atNs (h.tick * 2500) s)))
    else .next s
  else .next s

/-- UID checks and the other checks on the words of READ_ID, in the order of Table 04-10. -/
def checkId (a : Nat) (s : State) : State :=
  let r := nodeRec s a
  let l := a / 16
  let fail := fun err detail => enumFail l err (primaryEnd s l) (hopFromE s (a / 16) (a % 16)) detail s
  match mapNode s a with
  | none => s
  | some m =>
    if m.uidReq && r.uid != m.uid then fail 3 0
    else if r.nodeType != 0x1600 || r.proto != 1 then fail 4 r.nodeType
    else if r.inputs != m.posMask then fail 5 r.inputs
    else if m.tempMask &&& r.tInputs != m.tempMask then fail 6 r.tInputs
    else if r.caps % 8192 < m.tapCh then fail 7 (r.caps % 8192)
    else s

/-- The sense wires that a node uses: those beside a mapped local position (05 R125). -/
def usedWires (m : NodeMap) : List Nat :=
  (List.range 17).filter (fun w => m.posMask.testBit w || (decide (0 < w) && m.posMask.testBit (w - 1)))

/-- SENSE_R (Table 04-10). -/
def checkSense (a : Nat) (s : State) : State :=
  let r := nodeRec s a
  match mapNode s a with
  | none => s
  | some m =>
    match (usedWires m).find? (fun w => decide ((chainMap s).senseRMax < (r.sense[w]?).getD 0)) with
    | some w => enumFail (a / 16) 8 (primaryEnd s (a / 16)) (hopFromE s (a / 16) (a % 16)) ((r.sense[w]?).getD 0) s
    | none => s

/-- An identity from a reply is kept (R101: always). -/
def keepIdent (a uid nodeType proto caps : Nat) (lockin : Bool) (s : State) : State :=
  modRec a (fun r => { r with found := true, uid := uid, nodeType := nodeType, proto := proto, caps := caps
                              lockin := lockin }) s

/-- What a reply of status OK brings, by its command (Table 04-8, R99 to R101). -/
def replyOk (c : CmdOut) (a : Nat) (d : ReplyData) (s : State) : State :=
  match d with
  | .assign uid nodeType proto caps lockin =>
    if c.op = 2 ∧ (lineAt s c.line).step = .assigning then
      let s := keepIdent a uid nodeType proto caps lockin s
      modLine c.line (fun x => { x with nextHop := x.nextHop + 1, waited := 0 }) s
    else s
  | .id uid nodeType proto caps lockin present tpresent =>
    let s := keepIdent a uid nodeType proto caps lockin s
    let s := modRec a (fun r => { r with inputs := present, tInputs := tpresent, idRead := true }) s
    if (lineAt s (a / 16)).step = .checking then checkId a s else s
  | .sense done r =>
    if done then
      let s := modRec a (fun x => { x with sense := r, senseDone := true }) s
      if (lineAt s (a / 16)).step = .checking then checkSense a s else s
    else s
  | .diag crcErr _ _ _ _ => modRec a (fun r => { r with crc := min crcErr 65535 }) s
  | _ => s

/-- The command of this beat that a reply answers, whose one reply has not come yet: same SEQ, line and OP; ENUM_ASSIGN and
REASSIGN name the node in their arguments, every other command in its address (R98). -/
def answered (h : ChainHdr) (op status : Nat) (s : State) : Option CmdOut :=
  s.chain.cmdsOut.find? (fun c => !c.done && c.seq == h.seq && c.line == h.line.val && c.op == op &&
    (if op = 2 then decide (status = 1) || (c.args.head?).getD 0 == h.addr
     else if op = 3 then (c.args.head?).getD 0 == h.addr
     else c.addr == h.addr))

/-- The reply of a command has come. -/
def markDone (c : CmdOut) (s : State) : State :=
  { s with chain := { s.chain with cmdsOut := s.chain.cmdsOut.map (fun x => if x.seq = c.seq then { x with done := true } else x) } }

/-- REPLY, all but the results of LOCKIN_READ (R88, R98, R100, R106, R415). The HOP of a node that refused a write counts
from the end it answers at, by its HOPS. -/
def takeReply (h : ChainHdr) (op status : Nat) (d : ReplyData) (s : State) : State :=
  if hears h s then
    let whole := frameOk 6 h (replyBytes op status d)
    let s := inbound h whole s
    if whole then
      match answered h op status s with
      | none => s
      | some c =>
        let s := markDone c (atNs (h.tick * 2500) s)
        let x := lineAt s c.line
        if status = 0 then replyOk c ((c.args.head?).getD 0 * b2n (c.addr == 0xFF) + h.addr * b2n (c.addr != 0xFF)) d s
        else if status = 1 ∧ (x.step = .checking ∨ (c.op = 2 ∧ x.step = .assigning)) then
          enumFail c.line 11 h.fromEnd (hopFrom s c.line h.fromEnd h.hops) h.claim s
        else s
    else s
  else s

/-- UNK_INFO as the journal and the register show it (Table 04-19). -/
def unkInfo (c : Chain) : Nat :=
  bitAt c.unkValid 31 + fld c.unkLine 8 2 + fld (endNum c.unkEnd) 7 1 + fld c.unkHops 0 5

/-- The place of an ANNOUNCE counted from the primary end, as addresses count (R100): HOPS counts from the end it was
received at. -/
def announceHop (h : ChainHdr) (s : State) : Nat :=
  if h.fromEnd = primaryEnd s h.line.val then h.hops else (lineAt s h.line.val).nodes - 1 - h.hops

/-- The address of the enumerated node that an ANNOUNCE matches: its UID and HOPS (R114). -/
def announced (h : ChainHdr) (uid : Nat) (s : State) : Option Nat :=
  let a := nodeAddr h.line.val (announceHop h s)
  if decide (h.hops < (lineAt s h.line.val).nodes) && (nodeRec s a).found && (nodeRec s a).uid == uid then some a else none

/-- A known node has announced itself: it gets its address, its delays and its tap plan again (R114). -/
def rejoin (a : Nat) (s : State) : State :=
  let r := nodeRec s a
  let s := modRec a (fun r => { r with assign := true, planNext := 0, newE := some (delayE r)
                                       newW := some (delayW r), rejoined := true }) s
  let s := setAgain 0x7000 (2 ^ 20) { s with chain := { s.chain with nodeRejoined := true } }
  jnl 7 0xFF [beatLo s, toW a, toW r.uid, toW (r.uid / 2 ^ 32)] s

/-- A node that the module does not know has announced itself (R114). -/
def unknownSeen (h : ChainHdr) (uid : Nat) (s : State) : State :=
  let s := setAgain 0x7000 (2 ^ 19) { s with chain := { s.chain with
    unknownNode := true, unkValid := true, unkLine := h.line.val, unkEnd := h.fromEnd, unkHops := h.hops, unkUid := uid } }
  jnl 8 0xFF [beatLo s, toW (unkInfo s.chain), toW uid, toW (uid / 2 ^ 32)] s

/-- ANNOUNCE (R88, R106, R114). -/
def execAnnounce (h : ChainHdr) (uid nodeType proto : Nat) (s : State) : Res :=
  let s := fresh s
  if hears h s then
    let whole := frameOk 8 h (announceBytes uid nodeType proto)
    let s := inbound h whole s
    if whole && s.st.mode.fromArmed && decide (160 ≤ h.tick ∧ h.tick ≤ 186) then
      match announced h uid s with
      | some a => .next (rejoin a s)
      | none => .next (unknownSeen h uid s)
    else .next s
  else .next s

/-! ### Breaks (R109, R111 to R113) -/

/-- Every node of the line has passed R100 steps 3 and 4: identity and wires read, delays from every end of use
written, tap plan written. A pair's lower claim only measures D from its own end (12 R313). -/
def nodesDone (s : State) (l : Nat) : Bool :=
  (List.range (lineAt s l).nodes).all (fun h =>
    let a := nodeAddr l h
    let r := nodeRec s a
    if higherClaim s then
      r.idRead && r.senseDone && r.newE.isNone && r.newW.isNone && decide ((tapPlanOf s a).length ≤ r.planNext) &&
      (!hasEnd (endBits s l) .e || r.knownE) && (!hasEnd (endBits s l) .w || r.knownW)
    else ownDelays s a)

/-- A line that has passed every check is enumerated (Table 04-16 ACTIVE); its nodes follow the primary end. -/
def linePass (l : Nat) (s : State) : State :=
  let m : LineMode := if endBits s l = 3 then .whole else .single
  let w := primaryEnd s l == .w
  let s := modLine l (fun x => { x with step := .passed, active := true, mode := m }) s
  (List.range (lineAt s l).nodes).foldl
    (fun s h => modRec (nodeAddr l h) (fun r => { r with present := true, followW := w }) s) s

/-- The pass-through of a beat seen, or not, from ARMED onward; runs count consecutive beats (R109, R111). -/
def Line.judgePass (beat : Nat) (seen : Bool) (x : Line) : Line :=
  let next := x.checkBeat == some (beat - 1)
  let x := { x with checkBeat := some beat }
  if seen then { x with pass := true, missRun := 0, passRun := satAdd (if next then x.passRun else 0) 1 1000 }
  else
    let miss := satAdd (if next then x.missRun else 0) 1 2
    let split := decide (2 ≤ miss)
    { x with pass := false, missRun := miss, passRun := 0, passMiss := satAdd x.passMiss 1 65535
             splits := if split && !x.split then satAdd x.splits 1 65535 else x.splits
             brk := x.brk || split, split := x.split || split, secondary := x.secondary || split
             mode := if split then .split else x.mode }

/-- The module sends secondary frames on every line in LINES and has seen no pass-through on any of them in the last 2
beats (12 R314). -/
def chainAlone (s : State) : Bool :=
  let used := (List.range 4).filter (lineUsed s)
  !used.isEmpty && used.all (fun l => (lineAt s l).secondary && decide (2 ≤ (lineAt s l).missRun))

/-- The holder role set. -/
def setHolder (b : Bool) (s : State) : State :=
  { s with fab := { s.fab with pair := { s.fab.pair with holder := b } } }

/-- The secondary frames of this beat leave on every line: the module becomes the holder (12 R314, R319). -/
def takeOver (s : State) : State := if inPair s && !s.fab.pair.holder && chainAlone s then setHolder true s else s

/-- A module that does not send primary frames is the holder only while it stands alone on the chain (12 R314). -/
def loseHold (s : State) : State :=
  if inPair s && s.fab.pair.holder && !sendsPrimary s && !chainAlone s then setHolder false s else s

/-- The pass-through during enumeration (R100 step 5, R101; 12 R313): a pair's lower claim waits for the other module to
enumerate, and then measures its delays. FAR_END names the far end with HOP 0 (DESIGN CHOICE, log 38). -/
def passEnum (l : Nat) (seen : Option Nat) (s : State) : State :=
  let x := lineAt s l
  let all := seen == some x.nodes
  let s := modLine l (fun x => { x with pass := seen.isSome }) s
  if x.step = .waiting ∧ higherClaim s = false then
    if all && decide (4 ≤ x.waited) then modLine l (fun x => { x with step := .checking }) s else s
  else if x.step = .checking ∧ nodesDone s l = true then
    if all then linePass l s else enumFail l 9 (endFlip (primaryEnd s l)) 0 (seen.getD 0) s
  else s

/-- PASS_THROUGH_CHECK (R100 step 5, R109, R111, R113; 12 R314): at tick 16, the HOPS of the primary frame at the far
end, if it came. -/
def execPassThroughCheck (line : Fin 4) (seen : Option Nat) (s : State) : Res :=
  let s := fresh s
  let l := line.val
  if e8On s && farOwned s l && mayAct (.passCheck l) 16 s then
    let s := actAt (.passCheck l) 16 s
    if s.st.mode.fromArmed then .next (loseHold (modLine l (Line.judgePass s.time.beat seen.isSome) s))
    else .next (passEnum l seen s)
  else .next s

/-- LINE_RETURN_WHOLE (R111): at a beat that is a multiple of 1 000, before its BEAT frames, after 1 000 beats of
pass-through. -/
def execLineReturnWhole (line : Fin 4) (s : State) : Res :=
  let s := fresh s
  let l := line.val
  let x := lineAt s l
  if e8On s && x.split && decide (1000 ≤ x.passRun) && x.checkBeat == some (s.time.beat - 1) &&
      decide (s.time.beat % 1000 = 0) && mayAct .beatFrame 8 s then
    .next (modLine l (fun x => { x with split := false, brk := false, secondary := false, mode := .whole
                                        wholes := satAdd x.wholes 1 65535 }) s)
  else .next s

/-- BREAK of a single-ended line: the nodes from some hop on are ABSENT while the nodes before it answer (R112). Addresses
count from the one end in use (R100). -/
def singleBreak (s : State) (l : Nat) : Bool :=
  let x := lineAt s l
  let abs := (List.range x.nodes).map (fun h => (nodeRec s (nodeAddr l h)).absent)
  x.mode == .single && (List.range x.nodes).any (fun k => decide (0 < k) && (abs.take k).all (fun b => !b) &&
    (abs.drop k).all (fun b => b))

/-- The runs of missed RESULTs, ABSENT, SILENT and BREAK, judged at tick 330 (R108, R112). -/
def judgeAbsent (s : State) : State :=
  let has := fun a => s.chain.got.any (fun g => g.addr == a)
  let s := (List.range 64).foldl (fun s a =>
    if (nodeRec s a).present then
      if has a then modRec a (fun r => { r with missRun := 0, absent := false }) s
      else
        let s := modLine (a / 16) (fun x => { x with resultMiss := satAdd x.resultMiss 1 65535 }) s
        modRec a (fun r => { r with missRun := satAdd r.missRun 1 255, absent := r.absent || decide (2 ≤ r.missRun) }) s
    else s) s
  (List.range 4).foldl (fun s l =>
    if (lineAt s l).active then
      let any := s.chain.got.any (fun g => g.addr / 16 == l)
      let s := modLine l (fun x => { x with silentRun := if any then 0 else satAdd x.silentRun 1 3
                                            silent := if any then false else x.silent || decide (2 ≤ x.silentRun) }) s
      if singleBreak s l then modLine l (fun x => { x with brk := true }) s else s
    else s) s

/-! ### Per beat -/

/-- What a new beat clears and counts on the chain: a probe still out is lost, and the frames of the beat before and the
waits of enumeration move on. -/
def chainBeat (s : State) : State :=
  let s := if e8On s then (List.range 4).foldl (fun s l => probeLost l s) s else s
  let lines : Vector Line 4 := mapAll s.chain.line (fun _ x =>
    { x with cmds := 0, probe := none, waited := if x.step = .waiting ∨ x.step = .assigning then x.waited + 1 else x.waited })
  { s with chain := { s.chain with line := lines, cmdsOut := [], got := [], gotAux := [] } }

/-- Enumeration begins on every line in use (R100, T6): ENUM_RESULT is cleared and the identities of an earlier
enumeration go. In a pair only the module with the higher claim enumerates (12 R313); the other takes the nodes that
the chain map declares and probes them from its own end. -/
def enumStart (s : State) : State :=
  let hi := higherClaim s
  let count := fun l => ((chainMap s).onLine l).length
  let lines : Vector Line 4 := mapAll s.chain.line (fun l x =>
    if lineUsed s l then { x with step := .waiting, waited := 0, nextHop := 0, nodes := if hi then 0 else count l
                                  active := false, pass := false, probe := none, probeIdx := 0 }
    else x)
  let nodes : Vector NodeM 64 := Vector.ofFn (fun a : Fin 64 =>
    { (default : NodeM) with found := !hi && lineUsed s (a.val / 16) && decide (a.val % 16 < count (a.val / 16)) })
  { s with chain := { s.chain with line := lines, node := nodes, enumOn := true } }

/-! ### Registers (Tables 04-15 to 04-23) -/

/-- CH_STATUS (Table 04-16). -/
def chStatus (s : State) : Word :=
  let c := s.chain
  let m := fun (f : Line → Bool) => maskIf 4 (fun l => f (getNat c.line l))
  toW (bitAt c.claimHigher 21 + bitAt c.nodeRejoined 20 + bitAt c.unknownNode 19 +
    bitAt (c.node.toList.any (·.absent)) 18 + bitAt c.enumDone 17 + fld (m (·.brk)) 12 4 + fld (m (·.split)) 8 4 +
    fld (m (·.silent)) 4 4 + fld (m (·.active)) 0 4)

/-- LINEk_STAT (Table 04-20). -/
def lineStat (s : State) (l : Nat) : Word :=
  let x := lineAt s l
  let ws := ((List.range x.nodes).filter (fun h => (nodeRec s (nodeAddr l h)).followW)).length
  let mode := match x.mode with
    | .unused => 0 | .whole => 1 | .split => 2 | .single => 3
  if x.active then toW (fld ws 24 5 + fld (x.nodes - ws) 16 5 + fld x.nodes 8 5 + bitAt x.pass 2 + mode) else toW 0

/-- Sets the counts to zero (Table 04-17). -/
def chClear (s : State) : State :=
  let lines : Vector Line 4 := mapAll s.chain.line (fun _ x =>
    { x with crc := 0, passMiss := 0, resultMiss := 0, wholes := 0, splits := 0 })
  let nodes : Vector NodeM 64 := mapAll s.chain.node (fun _ r => { r with rejoined := false, crc := 0 })
  { s with chain := { s.chain with line := lines, node := nodes } }

/-- The chain block's words. -/
def chainRead (o : Nat) (s : State) : Word :=
  let c := s.chain
  if o = 0 then chStatus s
  else if o = 8 then
    toW (fld c.enumErr 28 4 + fld c.enumLine 26 2 + fld (endNum c.enumEnd) 25 1 + fld c.enumHop 20 4 + fld c.enumDetail 0 16)
  else if o = 0xC then toW (unkInfo c)
  else if o = 0x10 then toW c.unkUid
  else if o = 0x14 then toW (c.unkUid / 2 ^ 32)
  else if 0x20 ≤ o ∧ o < 0x60 then
    let l := (o - 0x20) / 16
    let x := lineAt s l
    match o % 16 with
    | 0 => lineStat s l
    | 4 => toW x.crc
    | 8 => toW (fld x.passMiss 16 16 + fld x.resultMiss 0 16)
    | _ => toW (fld x.wholes 16 16 + fld x.splits 0 16)
  else if 0x400 ≤ o ∧ o < 0x800 then
    let r := nodeRec s ((o - 0x400) / 16)
    match o % 16 with
    | 0 => toW (fld r.crc 16 16 + fld r.missRun 8 8 + bitAt r.rejoined 3 + bitAt r.followW 2 + bitAt r.absent 1 +
        bitAt r.present 0)
    | 4 => toW (fld r.dW 16 16 + fld r.dE 0 16)
    | 8 => toW r.uid
    | _ => toW (r.uid / 2 ^ 32)
  else 0

/-- The words that reading a chain register latches (R12). -/
def chainLatch (o : Nat) : List Nat :=
  if o = 0xC then [0x10, 0x14] else if 0x400 ≤ o ∧ o < 0x800 ∧ o % 16 = 8 then [o + 4] else []

/-- A write in the chain block: W1C bits of CH_STATUS and CLR_COUNTS; `none` for a register that takes no write. -/
def chainWrite (o : Nat) (v : Word) (s : State) : Option State :=
  if o = 0 then
    some { s with chain := { s.chain with claimHigher := s.chain.claimHigher && !wBit v 21
                                          nodeRejoined := s.chain.nodeRejoined && !wBit v 20
                                          unknownNode := s.chain.unknownNode && !wBit v 19 } }
  else if o = 4 then some (if wBit v 31 then chClear s else s)
  else none

end Sys2Proof.Machine
end

