-- ==== Sys2Proof/Machine/Timing.lean ====
section
/-! DEFINITION. The escapement, fabric time, the triggers and the transmit stamps (02). -/

namespace Sys2Proof.Machine

/-! ### The escapement and overruns (R38 to R44) -/

/-- The ledger item of an index, with a calibre loaded. -/
def itemAt (s : State) (k : Nat) : Option LedgerItem := s.cal.bind (fun c => c.items[k]?)

/-- An item runs in a slot of the ledger: s mod PERIOD = PHASE (03 Table 03-3). -/
def itemDue (s : State) (i : LedgerItem) : Bool :=
  match s.cal with
  | some c => c.ledgerLen != 0 && i.period != 0 && s.time.beat % c.ledgerLen % i.period == i.phase
  | none => false

/-- Released items in running order: rising deadline, then calibre order (R38). DESIGN CHOICE (log 35): R38 does not say
whether an item that is released while another runs waits for its end; by this order a newly released item with an
earlier deadline runs at once, and the one before it keeps its whole budget for later. -/
def insertReleased (dl : Nat → Nat) (x : Nat × Nat) : List (Nat × Nat) → List (Nat × Nat)
  | [] => [x]
  | y :: r =>
    if dl x.1 < dl y.1 ∨ (dl x.1 = dl y.1 ∧ x.1 < y.1) then x :: y :: r else y :: insertReleased dl x r

/-- One engine changed. -/
def modEngine (e : Nat) (f : Engine → Engine) (s : State) : State :=
  { s with time := { s.time with engines := updNat s.time.engines e f } }

/-- An engine. -/
def engineAt (s : State) (e : Nat) : Engine := getNat s.time.engines e

/-- The clock of an engine runs while it has a released item (R38, R39). -/
def Engine.settle (e : Engine) : Engine := { e with clock := !e.released.isEmpty }

/-- Cycles used in this beat, with the peak since last cleared (Table 02-16). -/
def Engine.use (e : Engine) (c : Nat) : Engine :=
  { e with used := e.used + c, peak := max e.peak (min (e.used + c) (2 ^ 20 - 1)) }

/-- The escapement releases an item (R38). -/
def releaseItem (k : Nat) (s : State) : State :=
  match itemAt s k with
  | none => s
  | some i =>
    let dl := fun j => ((itemAt s j).map (·.deadline)).getD 0
    modEngine i.engine (fun e =>
      if e.released.any (fun x => x.1 == k) then e
      else { e with released := insertReleased dl (k, i.budget) e.released }.settle) (takeTurn (.release k) s)

/-- An overrun on an engine: counted, its OVR bit set, and the reactions of Table 02-3 that this block makes. -/
def overrun (e : Nat) (item : Option Nat) (s : State) : State :=
  let s := modEngine e (fun x => { x with count := satAdd x.count 1 255, ovr := true, ovrThisBeat := true })
    (setAgain 0x6060 (2 ^ e) s)
  let now := match item with
    | some k => if s.time.itemOvrNow.contains k then s.time.itemOvrNow else s.time.itemOvrNow ++ [k]
    | none => s.time.itemOvrNow
  let before : Nat → Nat := fun k => ((s.time.itemOvr.find? (fun x => x.1 == k)).map (·.2)).getD 0
  let lag := decide (e < 8) && (item.map (fun k => decide (9 ≤ before k))).getD false
  let s := modEngine e (fun x => { x with lag := x.lag || lag }) s
  let hold := decide (e = 10) && decide (2 ≤ (engineAt s 10).ovrRun)
  let s := { s with time := { s.time with itemOvrNow := now, loopHold := s.time.loopHold || hold } }
  if hold then { s with lim := { s.lim with lim := Vector.replicate 8 0 } } else s

/-- A released item is stopped: it leaves its engine with the cycles it used, and has overrun (R40, R43). -/
def stopItem (k cycles : Nat) (s : State) : State :=
  match itemAt s k with
  | none => s
  | some i =>
    if (engineAt s i.engine).released.any (fun x => x.1 == k) then
      overrun i.engine (some k) (modEngine i.engine (fun e =>
        ({ e with released := e.released.filter (fun x => x.1 != k) }.use cycles).settle) s)
    else s

/-- The work of E0 to E7 that the ledger's items carry out. -/
inductive Work where
  | filter | window | cells | derived | warning
  deriving DecidableEq, Repr

/-- The work's number, by which `Config.carries` knows it. -/
def Work.code : Work → Nat
  | .filter => 0 | .window => 1 | .cells => 2 | .derived => 3 | .warning => 4

/-- An item of E0 to E7 that carries this work of a position was stopped in this beat: its results are not committed
(R40, R43, log 35). -/
def workStopped (w : Work) (pos : Nat) (s : State) : Bool :=
  s.time.itemOvrNow.any (fun k => match itemAt s k with
    | some i => decide (i.engine < 8) && Config.carries i.engine i.func w.code pos
    | none => false)

/-- EST_LAG (Table 02-15). -/
def estLag (s : State) : Bool := s.time.engines.toList.any (·.lag)

/-- An item still released when its beat ends is stopped by its deadline of 400. DESIGN CHOICE (log 35): no command brings
the cycles it used, so they are a free number of at most its budget. -/
def stopLate (s : State) (x : Nat × Nat) : State :=
  stopItem x.1 ((Config.freeInt s.freeCtr).toNat % (x.2 + 1)) (tookFree 1 s)

/-- The items still released as the beat ends have met their deadline of 400 (R32, R38, R40). -/
def stopReleased (s : State) : State := (s.time.engines.toList.flatMap (·.released)).foldl stopLate s

/-- What the escapement counts at the start of a beat, the stops of the beat before being known: the runs of
overrun and clean beats; a loop period with an overrun of E10 in it is lost (Table 02-3). -/
def escapementBeat (s : State) : State :=
  let runs := s.time.itemOvrNow.map (fun k =>
    (k, ((s.time.itemOvr.find? (fun x => x.1 == k)).map (·.2)).getD 0 + 1))
  let engines : Vector Engine 11 := mapAll s.time.engines (fun _ e =>
    let clean := if e.ovrThisBeat then 0 else satAdd e.cleanRun 1 100
    { e with ovrRun := if e.ovrThisBeat then satAdd e.ovrRun 1 100 else 0, cleanRun := clean
             lag := e.lag && decide (clean < 100), ovrThisBeat := false, used := 0 })
  let hold := s.time.loopHold && decide ((getNat engines 10).cleanRun < 100)
  let s := if (getNat s.time.engines 10).ovrThisBeat then
    { s with lim := { s.lim with loops := s.lim.loops.map (fun x => { x with lost := true }) } } else s
  { s with time := { s.time with engines := engines, itemOvr := runs, itemOvrNow := [], loopHold := hold, turns := []
                                 trg := s.time.trg.map (fun t => { t with armedNow := false }) } }

/-- The items due at tick 0 of the present beat are released. -/
def releaseAtZero (s : State) : State :=
  if s.st.mode.fromArmed then
    match s.cal with
    | none => s
    | some c =>
      (List.range c.items.length).foldl (fun s k => match c.items[k]? with
        | some i => if i.release = 0 ∧ itemDue s i = true then releaseItem k s else s
        | none => s) s
  else s

/-- ITEM_RELEASE (R38, R39). -/
def execItemRelease (item : Nat) (s : State) : Res :=
  let s := fresh s
  match itemAt s item with
  | some i =>
    if awake s ∧ s.st.mode.fromArmed = true ∧ itemDue s i = true ∧ mayAct (.release item) i.release s = true then
      .next (releaseItem item (atTick i.release s))
    else .next s
  | none => .next s

/-- ITEM_COMPLETE (R38, R39): the item that runs reaches its end within its budget. -/
def execItemComplete (e : Fin 11) (cycles : Nat) (s : State) : Res :=
  let s := fresh s
  match s.time.engines[e].released with
  | [] => .next s
  | (_, b) :: r =>
    if cycles ≤ b then .next (modEngine e.val (fun x => ({ x with released := r }.use cycles).settle) s) else .next s

/-! ### Fabric time (R45 to R53) -/

/-- 200 ppm in units of 0.01 ppb. -/
def rateLimit : Int := 20000000

/-- Whether the domain steers now. -/
def steering (d : Fin 2) (s : State) : Bool := s.time.steer == d

/-- One domain changed. -/
def modDom (d : Fin 2) (f : Dom → Dom) (s : State) : State :=
  { s with time := { s.time with dom := updAt s.time.dom d f } }

/-- The steering domain's lock, and what follows for SYNC_STATE and the automatic switch (R50 to R52, Table 02-5). DESIGN
CHOICE (log 36): the spec does not give SYNC_STATE after GRANDMASTER; it is ACQUIRING where a grandmaster is seen and
HOLDOVER otherwise. An automatic switch that waits for its beat boundary stands, although domain 0 regains lock before
it. -/
def judgeSync (s : State) : State :=
  let t := s.time
  let d := t.dom[t.steer]
  let auto := t.autoSwitch && !t.timeFault && (t.syncState == .locked || t.syncState == .holdover) && t.steer == 0 &&
    !d.locked && t.dom[(1 : Fin 2)].locked
  let st : SyncState :=
    if t.timeFault then .holdover
    else if d.self then .grandmaster
    else if d.locked then .locked
    else match t.syncState with
      | .locked => .holdover
      | .holdover => .holdover
      | .grandmaster => if d.seen then .acquiring else .holdover
      | _ => if d.seen then .acquiring else .free
  { s with time := { t with syncState := st, switchTo := if auto then some 1 else t.switchTo
                            switchAuto := t.switchAuto || auto
                            switchBeat := if auto then t.beat else t.switchBeat } }

/-- The marks of the nodes move with a jump of fabric time, for their own time does not jump (R105, R107). -/
def nodesShift (d : Int) (s : State) : State :=
  { s with nodes := s.nodes.map (fun n => { n with heldAt := n.heldAt + d, beatAt := n.beatAt + d }) }

/-- What waits for a beat boundary, or counts beats of T6, when the beat number jumps from b to b': the number it is
compared with jumps too (R48). -/
def rebeat (b b' : Nat) (s : State) : State :=
  { s with
    host := { s.host with cmds := s.host.cmds.map (fun c => { c with beat := b' }) }
    ldr := { s.ldr with passed := s.ldr.passed.map (fun _ => b') }
    chain := { s.chain with
      arming := s.chain.arming.map (fun x => b' + x - b)
      line := s.chain.line.map (fun x => { x with checkBeat := x.checkBeat.map (fun c => b' + c - b) }) } }

/-- The module sets its clock back or forward by an offset: the beat number moves with it, STEPPED is set, and every
domain's offset shifts by the same (R48). DESIGN CHOICE (log 36): the spec does not say what the prediction of R46 does
across a step; the offsets measured before are forgotten, and prediction begins anew. -/
def stepClock (offset : Int) (s : State) : State :=
  let f := ((fabNs s : Int) - offset).toNat
  let s := nodesShift (-offset) (setAgain 0x6000 (2 ^ 11) s)
  rebeat s.time.beat (f / 1000000)
    { s with time := { s.time with
        beat := f / 1000000, ns := f % 1000000, stepped := true
        switchBeat := f / 1000000
        turns := if f / 1000000 = s.time.beat then s.time.turns else []
        trg := if f / 1000000 = s.time.beat then s.time.trg else s.time.trg.map (fun t => { t with armedNow := false })
        dom := mapAll s.time.dom (fun _ d => { d with offset := d.offset - offset, history := [] }) } }

/-- The rate correction for an offset of the steering domain, bounded to 200 ppm (R48, R49). -/
def steerRate (s : State) : Int :=
  clampI (-rateLimit) rateLimit (Config.servoRate s.time.dom[s.time.steer].history s.time.rateAdj)

/-- What the steering offset makes the module do: a step or a fault by size, else a new rate (R48 to R50). -/
def correct (s : State) : State :=
  let off := s.time.dom[s.time.steer].offset
  if s.time.timeFault then s
  else if s.st.mode.fromArmed then
    if 10000000 < off.natAbs then
      { s with time := { s.time with timeFault := true, slew := false, syncState := .holdover } }
    else { s with time := { s.time with rateAdj := steerRate s, slew := decide (off ≠ 0) } }
  else if 1000 < off.natAbs then stepClock off s
  else { s with time := { s.time with rateAdj := steerRate s, slew := false } }

/-- The measured offset of one Sync, and the judgement of its domain's lock (R46). -/
def syncMeasured (d : Fin 2) (off : Int) (gm : Nat) (s : State) : State :=
  let x := s.time.dom[d]
  let resid := off - Config.predictOffset x.history s.time.rateAdj
  let st := steering d s
  let within := decide (resid.natAbs ≤ 100) && (!st || decide (off.natAbs ≤ 100))
  let good := if within then satAdd x.good 1 16 else 0
  let lost := decide (1000 < resid.natAbs) || (st && decide (1000 < off.natAbs) && !s.time.slew)
  let locked := if x.locked then !lost else decide (16 ≤ good)
  modDom d (fun x => { x with gm := some gm, seen := true, offset := off
                              history := (off :: x.history).take 16, good := if x.locked && lost then 0 else good
                              locked := locked, receipt := true }) s

/-- SYNC_RECEIVE (R45, R46, R48 to R50, R52, R56). A domain of which the module is itself grandmaster takes no Sync. -/
def execSyncReceive (d : Fin 2) (port : Fin 3) (rawOffset : Int) (gm : Nat) (s : State) : Res :=
  let s := fresh s
  if !awake s || s.time.dom[d].self then .next s
  else
    let s := judgeSync (syncMeasured d (rawOffset - s.time.asymUsed[port]) gm s)
    .next (if steering d s then correct s else s)

/-- SYNC_RECEIPT_TIMEOUT (R46): three sync intervals without a Sync; the domain's lock and grandmaster are lost. -/
def execSyncReceiptTimeout (d : Fin 2) (s : State) : Res :=
  let s := fresh s
  if !awake s || s.time.dom[d].self then .next s
  else .next (judgeSync (modDom d (fun x => { x with locked := false, good := 0, receipt := false, gm := none
                                                     best := [] }) s))

/-- The module's own clockIdentity, from its MAC address by EUI-64 (IEEE 802.1AS; PRESUMED, log 16). -/
def ownClockId : Nat :=
  let m := Config.mac.toNat
  (m / 2 ^ 24) * 2 ^ 40 + 0xFFFE * 2 ^ 24 + m % 2 ^ 24

/-- Settings of a domain in the loaded calibre. -/
def domCfg (s : State) (d : Fin 2) : Option DomCfg := s.cal.bind (fun c => c.fab.doms[d.val]?)

/-- The module's own priority vector: PRIO1 255 without a calibre (Table 02-4); the other fields PRESUMED (log 16). -/
def ownVec (s : State) (d : Fin 2) : PrioVec :=
  { prio1 := ((domCfg s d).map (·.prio1)).getD 255, clockClass := 248, accuracy := 0xFE, variance := 0x4E5D
    prio2 := ((domCfg s d).map (·.prio2)).getD 255, identity := ownClockId, stepsRemoved := 0 }

/-- Order of priority vectors (clause 10). -/
def prioKey (v : PrioVec) : List Nat :=
  [v.prio1, v.clockClass, v.accuracy, v.variance, v.prio2, v.identity, v.stepsRemoved]

/-- Lexicographic order of two lists of numbers. -/
def lexLt : List Nat → List Nat → Bool
  | [], [] => false
  | [], _ :: _ => true
  | _ :: _, [] => false
  | a :: x, b :: y => a < b || (a == b && lexLt x y)

/-- The best of a list of vectors. -/
def bestVec (l : List PrioVec) : Option PrioVec :=
  l.foldl (fun m v => match m with | none => some v | some b => if lexLt (prioKey v) (prioKey b) then some v else some b) none

/-- The grandmaster of a domain by the clause 10 algorithm or the external port configuration (Table 02-4). PORT_ROLE
code 9 is a slave port (IEEE 802.1AS; PRESUMED, log 16). -/
def selectGm (d : Fin 2) (s : State) : State :=
  let x := s.time.dom[d]
  let own := ownVec s d
  let ext := ((domCfg s d).map (fun c => c.bmca == 1)).getD false
  let roles := ((domCfg s d).map (·.portRole)).getD []
  let heard := if ext then x.best.filter (fun p => roles.getD p.1 0 == 9) else x.best
  let best := bestVec (heard.map (·.2))
  let capable := decide (own.prio1 < 255)
  let self := if ext then s.cal.isSome && !roles.contains 9 && capable
    else capable && (match best with
      | some b => lexLt (prioKey own) (prioKey b)
      | none => true)
  let gm := if self then some ownClockId else match best with
    | some b => some b.identity
    | none => x.gm
  modDom d (fun x => { x with self := self, gm := gm, seen := x.seen || (!self && best.isSome)
                              locked := x.locked && (self == x.self), good := if gm = x.gm then x.good else 0 }) s

/-- GPTP_ANNOUNCE_RECEIVE (R45, Tables 02-4 and 02-11). -/
def execGptpAnnounceReceive (d : Fin 2) (port : Fin 3) (v : PrioVec) (s : State) : Res :=
  let s := fresh s
  if !awake s then .next s
  else
    let s := modDom d (fun x => { x with best := (x.best.filter (fun p => p.1 != port.val)) ++ [(port.val, v)] }) s
    .next (judgeSync (selectGm d s))

/-- SYNC_SEND (R45): as grandmaster, or as a relay of the domain's grandmaster, the module sends its own Sync. -/
def execSyncSend (d : Fin 2) (port : Fin 3) (s : State) : Res :=
  let s := fresh s
  .next (if awake s ∧ (s.time.dom[d].self = true ∨ s.time.dom[d].receipt = true) ∧ s.fab.port[port].link = true
    then put (.sync d.val port.val) s else s)

/-- PDELAY_EXCHANGE (R49, R53): the port's path delay is computed, with the ASYM that stands then. -/
def execPdelayExchange (port : Fin 3) (meanNs : Nat) (s : State) : Res :=
  let s := fresh s
  .next (if awake s then
    { s with time := { s.time with pdelay := s.time.pdelay.set port meanNs
                                   asymUsed := s.time.asymUsed.set port s.time.asym[port] } } else s)

/-- No switch waits any more. -/
def endSwitch (s : State) : State := { s with time := { s.time with switchTo := none, switchAuto := false } }

/-- The steering domain changes (R51, R52). -/
def steerTo (d : Fin 2) (s : State) : State :=
  correct (judgeSync (endSwitch (setAgain 0x6000 (2 ^ 12)
    { s with time := { s.time with steer := d, switched := true, slew := s.st.mode.fromArmed } })))

/-- DOMAIN_SWITCH (R51, R52, R49): at a beat boundary the steering domain changes to a locked domain. A switch that the
host asked for takes a boundary after its write; SWITCH_REFUSED is set by a STEER write alone (Table 02-8). -/
def execDomainSwitch (s : State) : Res :=
  let s := fresh s
  match s.time.switchTo with
  | none => .next s
  | some d =>
    if awake s && decide (tickOf s = 0) && (s.time.switchAuto || s.time.switchBeat != s.time.beat) then
      if s.time.steer = d then .next (endSwitch s)
      else if s.time.dom[d].locked then .next (steerTo d s)
      else if s.time.switchAuto then .next (endSwitch s)
      else .next (endSwitch (setAgain 0x6000 (2 ^ 13) { s with time := { s.time with switchRefused := true } }))
    else .next s

/-! ### Triggers (R54 to R57) -/

/-- A trigger armed before the present beat began, whose target the beat has reached. -/
def trigDue (k : Fin 4) (s : State) : Bool :=
  s.time.trg[k].arm && !s.time.trg[k].armedNow && decide (s.time.trg[k].target ≤ s.time.beat * 1000000)

/-- The trigger fires: FIRED, ARM cleared, LATE more than 1 000 000 ns after its target (R54, R55). -/
def fireTrig (k : Fin 4) (s : State) : State :=
  let t := s.time.trg[k]
  let t' : Trig :=
    { t with arm := false, fired := true, late := t.late || decide (t.target + 1000000 < s.time.beat * 1000000) }
  setAgain (0x60CC + 16 * k.val) (2 + bitAt (decide (t.target + 1000000 < s.time.beat * 1000000)) 2)
    { s with time := { s.time with trg := s.time.trg.set k t' } }

/-- The target of a trigger's words, in nanoseconds. -/
def Trig.words (t : Trig) : Nat := (t.secHi * 2 ^ 32 + t.secLo) * 1000000000 + t.ns

/-- A trigger armed with the target that its words give now (R57). -/
def Trig.armed (t : Trig) : Trig := { t with arm := true, target := t.words, armedNow := true }

/-- A write to one word of trigger k. Host writes to TRG3 are refused. -/
def trigWrite (k : Fin 4) (w : Nat) (v : Word) (s : State) : RspCode × State :=
  let put' := fun (t : Trig) => { s with time := { s.time with trg := s.time.trg.set k t } }
  let t := s.time.trg[k]
  if k = 3 then (.access, s)
  else match w with
    | 0 =>
      if t.arm then (.ok, s)
      else if 999999999 < wBits v 29 0 then (.access, s)
      else (.ok, put' { t with ns := wBits v 29 0 })
    | 4 => (.ok, if t.arm then s else put' { t with secLo := v.toNat })
    | 8 => (.ok, if t.arm then s else put' { t with secHi := wBits v 15 0 })
    | _ =>
      let t := { t with late := t.late && !wBit v 2, fired := t.fired && !wBit v 1 }
      (.ok, put' (if wBit v 0 then (if t.arm then t else t.armed) else { t with arm := false }))

/-! ### Transmit stamps and probes (R58 to R60) -/

/-- One stamp queue changed. -/
def modTsq (p : Fin 3) (f : Tsq → Tsq) (s : State) : State :=
  { s with time := { s.time with tsq := updAt s.time.tsq p f } }

/-- A new stamp joins the queue, or is discarded (R58). -/
def Tsq.add (q : Tsq) (x : Stamp) : Tsq :=
  if q.items.length < 8 then { q with items := q.items ++ [x] }
  else { q with ovf := true, lost := satAdd q.lost 1 65535 }

/-- A write of TSQp_POP (R59). -/
def Tsq.popId (q : Tsq) (id : Nat) : Tsq :=
  match q.items with
  | x :: r => if x.id = id then { q with items := r } else { q with popMiss := true }
  | [] => { q with popMiss := true }

/-- TX_TIMESTAMP (R58). -/
def execTxTimestamp (port : Fin 3) (id fabricNs : Nat) (s : State) : Res :=
  let s := fresh s
  .next (if awake s then
    modTsq port (·.add { id := id % 65536, ns := fabricNs % 1000000000, sec := fabricNs / 1000000000 % 2 ^ 48 })
      (setAgainIf (decide (8 ≤ s.time.tsq[port].items.length)) (0x6100 + 32 * port.val) (2 ^ 8) s) else s)

/-- A write of PROBE: one time-probe frame on each selected port whose link is up (R60). -/
def probeWrite (v : Word) (s : State) : State :=
  if !wBit v 31 then s
  else
    (List.range 3).foldl (fun s p =>
      if wBit v (16 + p) && (getNat s.fab.port p).link then
        sendFab none 9 0 s.time.beat (some (wBits v 15 0)) (2 ^ p) [] s
      else s) s

/-! ### Registers (Tables 02-7 to 02-21) -/

/-- SYNC_STATE (Table 02-5). -/
def SyncState.code : SyncState → Nat
  | .free => 0 | .acquiring => 1 | .locked => 2 | .holdover => 3 | .grandmaster => 4

/-- TIME_STATUS. -/
def timeStatus (s : State) : Word :=
  let t := s.time
  toW (bitAt (t.trg.toList.any (·.late)) 18 + bitAt (t.engines.toList.any (·.ovr)) 17 +
    bitAt (t.tsq.toList.any (·.ovf)) 16 + bitAt t.timeFault 15 + bitAt (decide (t.rateAdj.natAbs = 20000000)) 14 +
    bitAt t.switchRefused 13 + bitAt t.switched 12 + bitAt t.stepped 11 + bitAt t.dom[(1 : Fin 2)].locked 10 +
    bitAt t.dom[(0 : Fin 2)].locked 9 + fld t.steer.val 8 1 + fld t.syncState.code 0 4)

/-- The words of the time block. -/
def timeRead (o : Nat) (s : State) : Word :=
  let t := s.time
  let gm := fun (d : Fin 2) => (t.dom[d].gm).getD 0
  match o with
  | 0x000 => timeStatus s
  | 0x004 => toW (bitAt t.autoSwitch 1 + fld t.steerReq.val 0 1)
  | 0x008 => toW (fabNs s % 1000000000)
  | 0x00C => toW (fabNs s / 1000000000)
  | 0x010 => toW (fabNs s / 1000000000 / 2 ^ 32 % 65536)
  | 0x014 => beatLo s
  | 0x018 => beatHi s
  | 0x020 => intW (clampI (-2147483647) 2147483647 t.dom[(0 : Fin 2)].offset)
  | 0x024 => intW (clampI (-2147483647) 2147483647 t.dom[(1 : Fin 2)].offset)
  | 0x028 => toW (gm 0)
  | 0x02C => toW (gm 0 / 2 ^ 32)
  | 0x030 => toW (gm 1)
  | 0x034 => toW (gm 1 / 2 ^ 32)
  | 0x038 => intW t.rateAdj
  | 0x060 => toW (bitAt t.loopHold 17 + bitAt (estLag s) 16 + maskIf 11 (fun e => (engineAt s e).ovr))
  | _ =>
    match arrIdx o 0x40 4 3, arrIdx o 0x50 4 3, arrIdx o 0x80 4 11 with
    | some p, _, _ => intW (getNat t.asym p)
    | _, some p, _ => toW (getNat t.pdelay p)
    | _, _, some e => toW (fld (engineAt s e).count 20 8 + fld (engineAt s e).peak 0 20)
    | none, none, none =>
      if 0xC0 ≤ o ∧ o < 0x100 then
        let g := getNat t.trg ((o - 0xC0) / 16)
        match o % 16 with
        | 0 => toW g.ns
        | 4 => toW g.secLo
        | 8 => toW g.secHi
        | _ => toW (bitAt g.late 2 + bitAt g.fired 1 + bitAt g.arm 0)
      else if 0x100 ≤ o ∧ o < 0x160 then
        let q := getNat t.tsq ((o - 0x100) / 0x20)
        let h := q.items.headD { id := 0, ns := 0, sec := 0 }
        match (o - 0x100) % 0x20 with
        | 0 => toW (fld q.lost 16 16 + bitAt q.popMiss 9 + bitAt q.ovf 8 + fld q.items.length 0 4)
        | 4 => toW (bitAt (!q.items.isEmpty) 31 + fld h.id 0 16)
        | 8 => toW h.ns
        | 12 => toW h.sec
        | 16 => toW (h.sec / 2 ^ 32 % 65536)
        | _ => 0
      else 0

/-- A write of TIME_CTRL (Table 02-9, R51). -/
def timeCtrlWrite (v : Word) (s : State) : RspCode × State :=
  let auto := wBit v 1
  let d : Fin 2 := if wBit v 0 then 1 else 0
  if s.st.mode.fromArmed && auto != s.time.autoSwitch then (.access, s)
  else
    let s := judgeSync { s with time := { s.time with autoSwitch := auto } }
    if s.time.steer = d then
      let s := { s with time := { s.time with steerReq := d } }
      (.ok, if s.time.switchAuto then s else endSwitch s)
    else if s.time.dom[d].locked then
      (.ok, { s with time := { s.time with steerReq := d, switchTo := some d, switchAuto := false, switchBeat := s.time.beat } })
    else (.ok, setAgain 0x6000 (2 ^ 13) { s with time := { s.time with switchRefused := true } })

/-- Writes to the time block. -/
def timeWrite (o : Nat) (v : Word) (s : State) : RspCode × State :=
  match o with
  | 0x000 =>
    (.ok, { s with time := { s.time with switchRefused := s.time.switchRefused && !wBit v 13
                                         switched := s.time.switched && !wBit v 12
                                         stepped := s.time.stepped && !wBit v 11 } })
  | 0x004 => timeCtrlWrite v s
  | 0x060 =>
    (.ok, { s with time := { s.time with engines := mapAll s.time.engines (fun e x => { x with ovr := x.ovr && !wBit v e }) } })
  | 0x160 => (.ok, probeWrite v s)
  | _ =>
    match arrIdx o 0x40 4 3, arrIdx o 0x80 4 11 with
    | some p, _ => (.ok, { s with time := { s.time with asym := updNat s.time.asym p (fun _ => v.toInt) } })
    | none, some e => (.ok, if wBit v 31 then modEngine e (fun x => { x with peak := 0, count := 0 }) s else s)
    | none, none =>
      if h : 0xC0 ≤ o ∧ o < 0x100 then trigWrite ⟨(o - 0xC0) / 16, by omega⟩ (o % 16) v s
      else if h : 0x100 ≤ o ∧ o < 0x160 then
        let p : Fin 3 := ⟨(o - 0x100) / 0x20, by omega⟩
        match (o - 0x100) % 0x20 with
        | 0 =>
          (.ok, modTsq p (fun q => { q with ovf := q.ovf && !wBit v 8, lost := if wBit v 8 then 0 else q.lost
                                            popMiss := q.popMiss && !wBit v 9 }) s)
        | 0x14 =>
          (.ok, modTsq p (·.popId (wBits v 15 0))
            (setAgainIf ((s.time.tsq[p].items.head?.map (·.id)) != some (wBits v 15 0)) (0x6100 + 32 * p.val) (2 ^ 9) s))
        | _ => (.ok, s)
      else (.ok, s)

end Sys2Proof.Machine
end

