-- ==== Sys2Proof/Machine/Measure.lean ====
section
/-! DEFINITION. Sweeps, alignment and measurement precision (05): the front end, the charge counter, the corrections
and codes of position samples, temperatures, the accord check, insulation, snapshots and their registers. -/

namespace Sys2Proof.Machine

/-! ### Contactors as the measurement rules see them (10 R236) -/

/-- The switches that SIDES lets the module drive: bit 0 for HS, bit 1 for LS; SIDES 0 is both. -/
def sides (s : State) : Nat :=
  match (s.saf.copyA.map (·.sides)).getD 0 with
  | 0 => 3
  | n => n

/-- A contactor is closed when every switch of it that this module drives is on; a switch under an off-pulse counts as
on, since the contactor holds (10 R260). -/
def Contactor.shut (sd : Nat) (c : Contactor) : Bool :=
  let hs := c.hs || (c.pulse == some true && !c.pulseOpened)
  let ls := c.ls || (c.pulse == some false && !c.pulseOpened)
  (!sd.testBit 0 || hs) && (!sd.testBit 1 || ls)

/-- Contactor k is closed. -/
def kClosed (s : State) (k : Nat) : Bool := (getNat s.saf.k k).shut (sides s)

/-- The mask of the contactors that are closed. -/
def closedMask (s : State) : Nat := maskIf 4 (kClosed s)

/-- K_MAIN. -/
def kMain (s : State) : Nat := (s.saf.copyA.map (·.kMain)).getD 0
/-- K_PRE. -/
def kPre (s : State) : Nat := (s.saf.copyA.map (·.kPre)).getD 0

/-- Every main contactor is closed. -/
def mainClosed (s : State) : Bool := kMain s != 0 && closedMask s &&& kMain s == kMain s

/-! ### Codes and ages (R132 to R136) -/

/-- The codes of Table 05-5. -/
def Qual.code : Qual → Nat
  | .valid => 0 | .suspect => 1 | .missed => 2 | .blanked => 3 | .stale => 4 | .unused => 7

/-- The code of a front-end sample: VALID or SUSPECT. -/
def feCode (bad : Bool) : Nat := b2n bad

/-- Age of a value in beats, saturating. -/
def ageOf (top now : Nat) (held : Option Nat) : Nat :=
  match held with
  | some b => min top (now - b)
  | none => top

/-- AGE_MAX of the safety block. -/
def ageMax (s : State) : Nat := (s.saf.copyA.map (·.ageMax)).getD 10

/-- The code of a temperature value now: STALE where it is not VALID and older than `lim` beats. -/
def TempPt.codeAt (lim now : Nat) (t : TempPt) : Qual :=
  if !t.mapped then .unused
  else match t.code with
    | .valid => .valid
    | .stale => .stale
    | c => if t.heldBeat.isNone || decide (lim < ageOf 4095 now t.heldBeat) then .stale else c

/-- The code of a string temperature point now (R136). -/
def TempPt.codeNow (now : Nat) (t : TempPt) : Qual := t.codeAt 300 now

/-- The code of a TH input now (14 R363). -/
def TempPt.codeTh (now : Nat) (t : TempPt) : Qual := t.codeAt 100 now

/-- A temperature result of a temperature beat (R136). -/
def TempPt.take (beat : Nat) (v : Option Int) (t : TempPt) : TempPt :=
  match v with
  | some x => if -5500 ≤ x ∧ x ≤ 15000 then { t with held := x, heldBeat := some beat, code := .valid }
              else { t with code := .suspect }
  | none => { t with code := .missed }

/-- A position mapped at T4 and not yet VALID since T6 (R135). -/
def PosM.start : PosM := { held := 0, heldBeat := none, code := .stale, value := 0 }

/-- A temperature point mapped at T4 and not yet VALID since T6 (R136). -/
def TempPt.start (mapped : Bool) : TempPt :=
  { mapped := mapped, held := 0, heldBeat := none, code := if mapped then .stale else .unused }

/-! ### The front end (R120 to R129) -/

/-- SHUNT_TH's temperature in 0.01 °C, where a VALID reading has come; else 25 °C (R127). -/
def shuntTemp (s : State) : Int :=
  let th := (s.cal.map (·.front.shuntTh)).getD 255
  if th < 6 then
    let t := getNat s.fio.th th
    if t.heldBeat.isSome then t.held else 2500
  else 2500

/-- The string current in 10 µA from the shunt voltage in pV, before its range (R127). No rule rounds it (log 7). -/
def shuntCurrent (pv : Int) (s : State) : Int :=
  match s.cal with
  | none => 0
  | some c =>
    let per : Int := if c.front.shunt = 2 then 500 else 250
    let num := pv * (1000000 + c.front.gain) * (10000000000 + c.front.tc * (shuntTemp s - 2500))
    divFree s.freeCtr num (per * 1000000 * 10000000000)

/-- The current range in 10 µA: 3 000 A with 25 µΩ, 1 500 A with 50 µΩ. -/
def currentRange (s : State) : Int := if (s.cal.map (·.front.shunt)).getD 1 = 2 then 150000000 else 300000000

/-- Beats whose number ends in 500 check the gains; in ticks 250 to 330 voltages repeat the value of tick 250 (R129). -/
def gainBeat (s : State) : Bool := s.time.beat % 1000 == 500

/-- STREAM_SAMPLE (R117, R120, R121, R127 to R129): the sample of tick 50 k, 96 µs after its instant. -/
def execStreamSample (k : Fin 8) (shuntPv vStr vLnk : Int) (s : State) : Res :=
  let s := fresh s
  if awake s && s.st.mode.fromLoaded then
    let i := shuntCurrent shuntPv s
    let s := tookFree 1 (atNs (k.val * 125000) s)
    let m := s.meas
    let r := currentRange s
    let rep := if gainBeat s && k.val == 6 then m.stream[(5 : Fin 8)] else none
    let vs := (rep.map (·.vStr)).getD vStr
    let vl := (rep.map (·.vLnk)).getD vLnk
    let iOut := decide (i < -r ∨ r < i)
    let sOut := decide (180000000 < vs)
    let lOut := decide (vl < -5000000 ∨ 180000000 < vl)
    let x : FeSample :=
      { i := clampI (-r) r i, vStr := min vs 180000000, vLnk := clampI (-5000000) 180000000 vl
        iBad := iOut, strBad := sOut || m.azStr, lnkBad := lOut || m.azLnk }
    .next (setAgain 0x8000 (bitAt iOut 11 + bitAt sOut 12 + bitAt lOut 13)
      { s with meas := { m with stream := m.stream.set k (some x), curOvr := m.curOvr || iOut
                                vstrOvr := m.vstrOvr || sOut, vlnkOvr := m.vlnkOvr || lOut } })
  else .next s

/-- ALIGNED_SAMPLE (R117, R121): the sample of tick 200 is the aligned sample of the beat, ready by tick 240. -/
def execAlignedSample (s : State) : Res :=
  let s := fresh s
  match s.meas.stream[(4 : Fin 8)] with
  | some x =>
    if awake s && s.st.mode.fromLoaded then
      let a : Aligned := { beat := s.time.beat, fe := x }
      .next { s with meas := { s.meas with aligned := some a, alignedE := some a } }
    else .next s
  | none => .next s

/-- The current samples of the beat before that the front end delivered. -/
def prevCurrents (s : State) : List Int := s.meas.prevStream.toList.filterMap (fun x => x.map (·.i))

/-- I_MEAN and the charge counter at tick 20 (R121, R122): eight samples, 1.25 nC per LSB each. -/
def chargeCommit (s : State) : State :=
  let sum := (prevCurrents s).foldl (fun a b => a + b) 0
  { s with meas := { s.meas with iMean := divNear sum 8, qSum := s.meas.qSum + sum, ownDq := sum } }

/-- I_MEAN joins the sum of its epoch; with the last beat of an epoch the sum of the whole epoch stands (12 Table
12-4). -/
def epochBeat (s : State) : State :=
  let sum := s.fab.epochAcc + s.meas.iMean
  { s with fab := if s.time.beat % 100 = 0 then { s.fab with iEpoch := sum, epochAcc := 0 }
                  else { s.fab with epochAcc := sum } }

/-- The charge counter in µC, toward zero (R122). -/
def chargeUc (m : Meas) : Int := Int.tdiv (m.qSum * 125) 100000

/-- GAIN_CHECK (R129): the gains' deviation in ppm in a beat ending in 500. -/
def execGainCheck (devStr devLnk : Int) (s : State) : Res :=
  let s := fresh s
  if awake s && s.st.mode.fromLoaded && gainBeat s then
    let m := s.meas
    .next (atNs 625000 { s with meas := { m with azStr := m.azStr || decide (200 < devStr.natAbs)
                                                 azLnk := m.azLnk || decide (200 < devLnk.natAbs) } })
  else .next s

/-! ### Corrections and codes of positions (R125, R126, R133, R134) -/

/-- Whole half-periods of bin k in num/den seconds, by bisection between 0 and `hi`. -/
def halfPeriods (k num den hi : Nat) : Nat :=
  let rec bis (fuel lo hi : Nat) : Nat :=
    match fuel with
    | 0 => lo
    | f + 1 => if lo + 1 ≥ hi then lo
               else let m := (lo + hi) / 2
                    if cyclesGe k (2 * num) den m then bis f m hi else bis f lo m
  bis 40 0 (hi + 1)

/-- The chime switch of a burst is closed at the sample instant of a beat: its state 25 µs before, since an edge
between 25 µs before and after waits (06 R152). The burst starts at tick 300 of its first beat. -/
def burstOn (b : Burst) (beat : Nat) : Bool :=
  if b.start < beat then
    let h := halfPeriods b.bin (1000 * (beat - b.start) - 275) 1000000 (2 * b.cycles)
    decide (h < 2 * b.cycles) && decide (h % 2 = 0)
  else false

/-- The chime current in mA drawn from a string position at the sample instant of a beat (R125): the plan's, or in
the pair's non-holder the holder's (12 R316). -/
def chimeIc (s : State) (p beat : Nat) : Nat :=
  let own := ((s.spec.bursts.filter (fun b => b.pos == p && burstOn b beat)).map (·.ampl)).foldl (fun a b => a + b) 0
  if holder s then own
  else match s.fab.pair.plan with
    | some (b, pl) =>
      if b + 1 = beat then
        match (chainMap s).nodeOf p with
        | some (n, k) => ((pl.ic.find? (fun x => x.1 == addrOf s n && x.2.1 == k)).map (·.2.2)).getD own
        | none => own
      else own
    | none => own

/-- Resistance of sense wire w of a node in mΩ, as read at enumeration; a free value where this module has read none. -/
def wire (s : State) (a w : Nat) : Nat :=
  if (nodeRec s a).senseDone then ((nodeRec s a).sense[w]?).getD 0 else Config.senseWire a w

/-- The correction in µV for local position k of a node (R125): mA × mΩ. -/
def chimeCorr (s : State) (n : NodeMap) (k beat : Nat) : Int :=
  let a := addrOf s n
  let ic := fun k => match n.stringPos k with
    | some p => chimeIc s p beat
    | none => 0
  (ic k * (wire s a k + wire s a (k + 1)) : Nat) - (if k = 0 then 0 else (ic (k - 1) * wire s a k : Nat) : Int) -
    (if 15 ≤ k then 0 else (ic (k + 1) * wire s a (k + 1) : Nat) : Int)

/-- The bin whose dwell a lock-in runs in a beat (06 R157). -/
def LockRun.binAt (beat : Nat) (l : LockRun) : Option Nat :=
  if l.start ≤ beat then (maskBits 40 l.bins)[(beat - l.start) / 1000]? else none

/-- The first beat after a lock-in. -/
def LockRun.stop (l : LockRun) : Nat := l.start + 1000 * popCount 40 l.bins

/-- The bin at which lock-in stimulus runs on a node's local position in a beat: in beats mod 10 = 0 to 7 of a dwell
(06 R157). -/
def lockBin (s : State) (a k beat : Nat) : Option Nat :=
  if beat % 10 < 8 then s.spec.locks.findSome? (fun l => if l.addr == a && l.mask.testBit k then l.binAt beat else none)
  else none

/-- Lock-in stimulus runs at a node's local position in a beat. -/
def lockOn (s : State) (a k beat : Nat) : Bool := (lockBin s a k beat).isSome

/-- BLANKED (R126): lock-in on the position or beside it, or a correction beyond 5 mV. -/
def blanked (s : State) (n : NodeMap) (k beat : Nat) : Bool :=
  let a := addrOf s n
  lockOn s a k beat || (decide (0 < k) && lockOn s a (k - 1) beat) || lockOn s a (k + 1) beat ||
  decide (5000 < (chimeCorr s n k beat).natAbs)

/-- An E8 overrun dropped this beat's samples (02 Table 02-3). -/
def e8Dropped (s : State) : Bool := (engineAt s 8).ovrThisBeat

/-- The code and corrected value of local position k of a node in this beat (R125, R133). -/
def judgePos (s : State) (n : NodeMap) (k : Nat) : Qual × Int :=
  match s.chain.got.find? (fun g => g.addr == addrOf s n) with
  | none => (.missed, 0)
  | some g =>
    let v := (g.vpos[k]?).getD 0 + chimeCorr s n k s.time.beat
    if e8Dropped s then (.missed, 0)
    else if blanked s n k s.time.beat then (.blanked, v)
    else if g.nstat.testBit 3 || g.suspect.testBit k || decide (v < -500000) || decide (5500000 < v) then (.suspect, v)
    else (.valid, v)

/-- A position with its new code (R134): only a VALID sample replaces what it holds. -/
def PosM.commit (now age : Nat) (q : Qual × Int) (p : PosM) : PosM :=
  if q.1 = .valid then { held := q.2, heldBeat := some now, code := .valid, value := q.2 }
  else { p with value := q.2, code := if p.heldBeat.isNone || decide (age < ageOf 255 now p.heldBeat) then .stale else q.1 }

/-- The positions of the beat written, with pairing and the flags of the last beat (R97, R123, R133, R134). -/
def posCommit (s : State) : State :=
  let cm := chainMap s
  let am := ageMax s
  let now := s.time.beat
  let judged : List (Option (Qual × Int)) := (List.range s.meas.pos.length).map (fun p =>
    (cm.nodeOf p).map (fun nk => judgePos s nk.1 nk.2))
  let pos := s.meas.pos.mapIdx (fun i p => match (judged[i]?).join with
    | some q => p.commit now am q
    | none => p)
  let has := fun (c : Qual) => judged.any (fun j => (j.map (·.1)) == some c)
  let pair := match s.meas.alignedE with
    | some a => if a.beat = now then some a else none
    | none => none
  { s with meas := { s.meas with pos := pos, posBeat := now, pair := pair, blankedAny := has .blanked
                                 suspectAny := has .suspect } }

/-! ### Temperatures (R118, R136) -/

/-- The AUX accepted from a node for the beat before. -/
def auxOf (s : State) (a : Nat) : Option AuxBody := (s.chain.gotAux.find? (fun g => g.addr == a)).map (·.body)

/-- Temperature points after a temperature beat: judged at tick 330 of the beat that follows it. -/
def tempCommit (s : State) : State :=
  if s.time.beat % 100 = 1 then
    let temps := s.meas.temps.mapIdx (fun i t =>
      if t.mapped then
        let v := match auxOf s (i / 8) with
          | some b => if b.tflagNew then b.temps[i % 8]? else none
          | none => none
        t.take (s.time.beat - 1) (if e8Dropped s then none else v)
      else t)
    { s with meas := { s.meas with temps := temps } }
  else s

/-- The temperature points that the chain map names, as they stand before T6 (R118, R136); in a pair their addresses are
known once the partner's claim is (04 R100). -/
def mapTemps (s : State) : State :=
  let ns := (chainMap s).nodes
  let temps := (List.range 512).map (fun k =>
    TempPt.start (ns.any (fun n => addrOf s n == k / 8 && n.tempMask.testBit (k % 8))))
  { s with meas := { s.meas with temps := temps } }

/-- The least temperature among the points of a list that have been VALID. -/
def leastHeld (l : List TempPt) : Option Int :=
  l.foldl (fun m t => if t.mapped && t.heldBeat.isSome then
    (match m with
      | some x => some (min x t.held)
      | none => some t.held) else m) none

/-! ### The accord check (R138 to R143) -/

/-- An empty window: nothing yet, and no beat against the cross-check. -/
def AccWin.start : AccWin := { (default : AccWin) with dOk := true }

/-- C's division of `int64_t`: toward zero. -/
def cDiv (a b : Int) : Int := Int.tdiv a b

/-- One beat in the window (R138): usable only when every mapped position and the aligned current and string voltage
are VALID. The current in mA is not rounded by any rule (log 7). -/
def AccWin.add (s : State) (w : AccWin) : AccWin :=
  let closed := mainClosed s
  match s.meas.pair with
  | some a =>
    if s.meas.pos.all (fun p => p.code == .valid) && !a.fe.iBad && !a.fe.strBad && !s.meas.pos.isEmpty then
      let sum := (s.meas.pos.map (·.value)).foldl (fun a b => a + b) 0
      let e := a.fe.vStr * 10 - sum
      let r := e + cDiv (s.meas.acc.rOut * divFree s.freeCtr a.fe.i 100) 1000000
      { n := w.n + 1, e := w.e + e, i := w.i + a.fe.i, ei := w.ei + e * a.fe.i, ii := w.ii + a.fe.i * a.fe.i
        r := w.r + r, v := w.v + a.fe.vStr * 10, d := w.d + (a.fe.vStr - a.fe.vLnk) * 10
        iMin := if w.n = 0 then a.fe.i else min w.iMin a.fe.i, iMax := if w.n = 0 then a.fe.i else max w.iMax a.fe.i
        dOk := w.dOk && closed && decide (a.fe.i.natAbs ≤ 1000000) }
    else { w with dOk := w.dOk && closed }
  | none => { w with dOk := w.dOk && closed }

/-- The accord window takes the committed beat; at a multiple of 1 000 the beats before it stand for evaluation. -/
def accordBeat (s : State) : State :=
  let a := s.meas.acc
  let a := if s.time.beat % 1000 = 0 then { a with winPrev := a.win, win := AccWin.start } else a
  tookFree 1 { s with meas := { s.meas with acc := { a with win := a.win.add s } } }

/-- The mean of a sum over the usable beats. -/
def meanOf (sum : Int) (n : Nat) : Rat := if n = 0 then 0 else (sum : Rat) / (n : Rat)

/-- The least-squares slope of e against the current, in nΩ: µV per 10 µA is 10⁸ nΩ. -/
def AccWin.slope (w : AccWin) : Rat :=
  let n : Int := w.n
  let den := n * w.ii - w.i * w.i
  if den = 0 then 0 else ((n * w.ei - w.e * w.i : Int) : Rat) / (den : Rat) * 100000000

/-- R_out after an evaluation (R139): only when the current spans 20 A; clamped to 0 to 100 mΩ. -/
def learnRout (w : AccWin) (k : Nat) (a : Accord) : Accord :=
  if 2000000 ≤ w.iMax - w.iMin ∧ 0 < w.n then
    let x := ratFree k ((a.rOut : Rat) + (-w.slope - (a.rOut : Rat)) / 64)
    { a with rOut := clampI 0 100000000 x, rOutRange := a.rOutRange || decide (x < 0 ∨ 100000000 < x) }
  else a

/-- The absolute value of a rational. -/
def ratAbs (r : Rat) : Rat := if r < 0 then -r else r

/-- An evaluation has too few usable beats and is skipped (R140). -/
def AccWin.skips (w : AccWin) : Bool := decide (w.n < 500)

/-- The runs and flags of an evaluation (R140 to R142). -/
def judgeAccord (w : AccWin) (nPos k : Nat) (a : Accord) : Accord :=
  if w.skips then
    { a with skipped := satAdd a.skipped 1 255, skipRun := satAdd a.skipRun 1 10
             idle := a.idle || decide (9 ≤ a.skipRun) }
  else
    let rb := meanOf w.r w.n
    let lim : Rat := 5000 + 15 * ratAbs (meanOf w.v w.n) / 1000000 + 30 * (nPos : Rat)
    let above := decide (lim < ratAbs rb)
    let low := decide (ratAbs rb ≤ 8 * lim / 10)
    let bad := decide (2 * lim < ratAbs rb)
    let warnRun := if above then satAdd a.warnRun 1 255 else 0
    let okRun := if low then satAdd a.okRun 1 10 else 0
    let faultRun := if bad then satAdd a.faultRun 1 3 else 0
    let fault := a.fault || decide (3 ≤ faultRun)
    { a with rBar := ratFree k rb, aWarn := ratFree (k + 1) lim, aWarnX := lim, evals := satAdd a.evals 1 65535
             skipRun := 0, idle := false, warnRun := warnRun, okRun := okRun, faultRun := faultRun, fault := fault
             warn := fault || (if a.warn then decide (okRun < 10) else decide (10 ≤ warnRun)) }

/-- The cross-check of R143 above the window. -/
def crossCheck (w : AccWin) (a : Accord) : Accord :=
  if w.dOk && decide (0 < w.n) then
    let d := meanOf w.d w.n
    let old := a.d0
    let a := if a.warn then a else
      { a with d0 := some (match a.d0 with
        | some x => x + (d - x) / 64
        | none => d) }
    if a.fault && !a.classified then
      match old with
      | none => { a with classified := true }
      | some x =>
        let fe := decide (a.aWarnX < ratAbs (d - x))
        { a with classified := true, feDisagree := fe, node := !fe }
    else a
  else a

/-- ACCORD_EVALUATION (R139 to R143): at tick 330 of a multiple of 1 000, over the 1 000 beats before it. -/
def execAccordEvaluation (s : State) : Res :=
  let s := fresh s
  if awake s && s.st.mode.fromArmed && decide (s.time.beat % 1000 = 0) && mayAct .accord 330 s then
    let s := actAt .accord 330 s
    let a := s.meas.acc
    let done := hadTurn .commit s
    let w := if done then a.winPrev else a.win
    let l := if w.skips then a else learnRout w s.freeCtr { a with rOutRange := false }
    let s := setAgainIf (!w.skips && l.rOutRange) 0x8000 (2 ^ 8) s
    let a := crossCheck w (judgeAccord w s.meas.pos.length (s.freeCtr + 1) { l with rOutRange := a.rOutRange || l.rOutRange })
    let a := if done then { a with winPrev := AccWin.start } else { a with win := AccWin.start }
    .next (tookFree 3 { s with meas := { s.meas with acc := a } })
  else .next s

/-! ### Insulation (R130, R131) -/

/-- INS_PERIOD in beats. -/
def insPeriod (s : State) : Nat := (s.cal.map (·.front.insPeriod)).getD 0

/-- The main contactors of a bank member are open: none of K_MAIN is closed. -/
def mainOpen (s : State) : Bool := closedMask s &&& kMain s == 0

/-- A number raised to a multiple of 100. -/
def up100 (n : Nat) : Nat := (n + 99) / 100 * 100

/-- The closed members of the bank by STRING, this module's own among them. -/
def closedMembers (s : State) : List Nat :=
  (s.fab.members.filter (fun m => m.body.connected && !m.mute)).map (fun m => m.string)

/-- BANK of the loaded calibre. -/
def ownBank (s : State) : Nat := (s.cal.map (·.fab.bank)).getD 0

/-- The module of a pair that connects the bridge: the holder (12 R314); before T6, when nothing is sent on the chain, the
higher claim. -/
def insHolder (s : State) : Bool := if s.st.mode.fromArmed then holder s else higherClaim s

/-- This module measures, by Table 05-4. -/
def measuresIns (s : State) : Bool :=
  if !insHolder s then false
  else if ownBank s = 0 || mainOpen s then true
  else
    let own := ownString s
    let list := (closedMembers s).filter (fun x => x != own)
    let m := list.length + 1
    let rank := (list.filter (fun x => decide (x < own))).length
    let tl := up100 (insPeriod s)
    tl != 0 && decide ((s.time.beat / tl) % m = rank)

/-- The next multiple of the period from T4 that comes after this beat. -/
def nextInsDue (s : State) : Nat :=
  let p := insPeriod s
  if p = 0 then s.time.beat + 1
  else if s.time.beat < s.meas.ins.nextDue then s.meas.ins.nextDue
  else s.meas.ins.nextDue + ((s.time.beat - s.meas.ins.nextDue) / p + 1) * p

/-- The bridge opens as soon as Table 05-4 no longer lets this module connect it: a running cycle ends without a result
(R131). -/
def insOpen (s : State) : State :=
  if measuresIns s then s else { s with meas := { s.meas with ins := { s.meas.ins with phase := none } } }

/-- INSULATION_CYCLE_START (R130, R131). -/
def execInsulationCycleStart (s : State) : Res :=
  let s := fresh s
  let s := insOpen s
  if awake s && s.st.mode.fromLoaded && s.meas.ins.phase.isNone && decide (s.meas.ins.nextDue ≤ s.time.beat) &&
    measuresIns s then
    .next { s with meas := { s.meas with ins := { s.meas.ins with phase := some (1, s.time.beat), nextDue := nextInsDue s } } }
  else .next s

/-- INSULATION_PHASE_TIMEOUT (05 Insulation resistance): 10 000 beats without settling end the cycle. -/
def execInsulationPhaseTimeout (s : State) : Res :=
  let s := fresh s
  match s.meas.ins.phase with
  | some (_, b) =>
    if awake s && decide (b + 10000 ≤ s.time.beat) then
      .next { s with meas := { s.meas with ins := { s.meas.ins with phase := none } } }
    else .next s
  | none => .next s

/-- R_iso is below a level in Ω, and R_iso is at or above a multiple (in tenths) of it; without any conductance to
earth measured as resistance the level counts as not reached. -/
def rIsoBelow (rp rn level : Nat) : Bool := rp + rn == 0 || decide (rp * rn < level * (rp + rn))

/-- INS_WARN after a result (R130). -/
def insJudge (rp rn : Nat) (s : State) : State :=
  let lvl := (s.cal.map (·.front.insWarn)).getD 0
  let clear := decide (11 * lvl * (rp + rn) ≤ 10 * rp * rn) && decide (0 < rp + rn)
  let w := if rIsoBelow rp rn lvl then true else if clear then false else s.meas.ins.warn
  { s with meas := { s.meas with ins := { s.meas.ins with warn := w } } }

/-- A settled phase (R130): phase 1 goes over to phase 2; phase 2 gives R_pos and R_neg, the result goes to the fabric
where others need it (12 Table 12-3), and `true` says that a result of this module's own came. -/
def insSettled (v : Int) (s : State) : State × Bool :=
  let s := insOpen s
  match s.meas.ins.phase with
  | some (1, b) =>
    if b + 500 ≤ s.time.beat ∧ s.time.beat ≤ b + 10000 then
      ({ s with meas := { s.meas with ins := { s.meas.ins with phase := some (2, s.time.beat), v1 := v } } }, false)
    else (s, false)
  | some (_, b) =>
    if b + 500 ≤ s.time.beat ∧ s.time.beat ≤ b + 10000 then
      let r := Config.insBridge s.meas.ins.v1 v
      let s := { s with meas := { s.meas with ins := { s.meas.ins with phase := none, result := some r, source := 0
                                                                       endBeat := s.time.beat } } }
      let s := insJudge r.1 r.2 s
      let share := inPair s || ownBank s != 0
      (if share then
        sendFab none 10 0xFFFF s.time.beat none (outPorts 10 0xFFFF s) (leB 4 r.1 ++ leB 4 r.2 ++ leB 4 s.time.beat) s else s, true)
    else (s, false)
  | none => (s, false)

/-- A beat of which the low 32 bits are given: the newest not after now. -/
def beatFrom32 (now lo : Nat) : Nat :=
  let b := now / 2 ^ 32 * 2 ^ 32 + lo % 2 ^ 32
  if b ≤ now then b else b - 2 ^ 32

/-- The sender is a module whose result counts here by Table 05-4: in a pair the partner, the holder; in a bank, with the
main contactors closed, another closed member. -/
def insFrom (src string : Nat) (s : State) : Bool :=
  (!insHolder s && src == (fabCfg s).partnerAddr) ||
  (ownBank s != 0 && !mainOpen s && string != ownString s && (closedMembers s).contains string)

/-- A result from the module that measures (R131). -/
def insReceived (src string rp rn end32 : Nat) (s : State) : State :=
  if s.st.mode.fromLoaded && !measuresIns s && insFrom src string s then
    let s := { s with meas := { s.meas with ins := { s.meas.ins with result := some (rp, rn), source := src
                                                                     endBeat := beatFrom32 s.time.beat end32 } } }
    insJudge rp rn s
  else s

/-! ### Snapshots (R145) -/

/-- What a snapshot of this beat holds is there: the aligned sample of the beat, from LOADED on, and its positions, from
ARMED on (R117, R145). -/
def snapReady (s : State) : Bool :=
  (!s.st.mode.fromLoaded || (s.meas.alignedE.map (·.beat)) == some s.time.beat) &&
  (!s.st.mode.fromArmed || hadTurn .commit s)

/-- SNAPSHOT_CAPTURE (R145). -/
def execSnapshotCapture (s : State) : Res :=
  let s := fresh s
  if awake s && s.meas.snapPending && decide (tickOf s ≤ 330) && snapReady s then
    let s := atTick 330 s
    let m := s.meas
    let fe := (m.alignedE.map (·.fe)).getD default
    let n : Snap :=
      { beat := s.time.beat, fe := fe, iMean := m.iMean, q := chargeUc m, rBar := m.acc.rBar, aWarn := m.acc.aWarn
        rOut := m.acc.rOut, evals := m.acc.evals, warnRun := m.acc.warnRun, skipped := m.acc.skipped
        ins := m.ins.result, insEnd := m.ins.endBeat, insSource := m.ins.source, pos := m.pos, temps := m.temps }
    .next { s with meas := { m with snapPending := false, snapValid := true, snap := some n } }
  else .next s

/-! ### Registers (Tables 05-9 to 05-17) -/

/-- INS_VALID: a result from a cycle that ended within 2 × INS_PERIOD beats. -/
def insValid (s : State) : Bool :=
  s.meas.ins.result.isSome && decide (s.time.beat ≤ s.meas.ins.endBeat + 2 * insPeriod s)

/-- MS_STATUS (Table 05-10). -/
def msStatus (s : State) : Word :=
  let m := s.meas
  toW (bitAt (m.temps.any (fun t => t.mapped && t.codeNow s.time.beat == .stale)) 23 + bitAt m.blankedAny 22 +
    bitAt m.suspectAny 21 + bitAt (m.pos.any (fun p => p.code == .stale)) 20 + bitAt (insValid s) 17 +
    bitAt m.ins.warn 16 + bitAt (m.azStr || m.azLnk) 14 + bitAt m.vlnkOvr 13 + bitAt m.vstrOvr 12 + bitAt m.curOvr 11 +
    bitAt m.acc.idle 9 + bitAt m.acc.rOutRange 8 + bitAt m.acc.feDisagree 7 + bitAt m.acc.node 6 + bitAt m.acc.fault 5 +
    bitAt m.acc.warn 4 + bitAt m.snapPending 1 + bitAt m.snapValid 0)

/-- A resistance as INS_POS and INS_NEG show it. -/
def insWord (r : Nat) : Word := if 50000000 < r then 0x0FFFFFFF else toW r

/-- The age of a position or point that nothing maps: no rule gives it (log 18). -/
def unusedAge (w : Nat) : Nat := (Config.freeInt 0).toNat % 2 ^ w

/-- How many positions of a snapshot bear a code. -/
def tally (n : Snap) (c : Qual) : Nat := (n.pos.filter (fun p => p.code == c)).length

/-- A word of the snapshot for a session's pages. -/
def snapRead (page tpage o : Nat) (n : Snap) : Word :=
  match o with
  | 0x008 => toW n.beat
  | 0x00C => toW (n.beat / 2 ^ 32)
  | 0x010 => intW n.fe.i
  | 0x014 => intW n.fe.vStr
  | 0x018 => intW n.fe.vLnk
  | 0x01C => intW n.iMean
  | 0x020 => intW n.q
  | 0x024 => intW (Int.fdiv n.q (2 ^ 32))
  | 0x028 => toW (fld (feCode n.fe.lnkBad) 8 3 + fld (feCode n.fe.strBad) 4 3 + fld (feCode n.fe.iBad) 0 3)
  | 0x02C => intW n.rBar
  | 0x030 => intW n.aWarn
  | 0x034 => intW n.rOut
  | 0x038 => toW (fld n.evals 16 16 + fld n.warnRun 8 8 + fld n.skipped 0 8)
  | 0x040 => (n.ins.map (fun r => insWord r.1)).getD 0
  | 0x044 => (n.ins.map (fun r => insWord r.2)).getD 0
  | 0x048 => if n.ins.isSome then toW (fld (min 65535 ((n.beat - n.insEnd) / 1000)) 16 16 + fld n.insSource 0 16) else 0
  | 0x050 => toW (fld (tally n .suspect) 16 11 + fld (tally n .valid) 0 11)
  | 0x054 => toW (fld (tally n .blanked) 16 11 + fld (tally n .missed) 0 11)
  | 0x058 =>
    toW (fld (tally n .stale) 16 11 + fld ((n.pos.map (fun p => ageOf 255 n.beat p.heldBeat)).foldl max 0) 0 8)
  | _ =>
    if 0x100 ≤ o ∧ o < 0x300 then
      match n.pos[64 * page + (o - 0x100) / 8]? with
      | some p => if o % 8 = 0 then intW p.held else toW (fld p.code.code 8 3 + fld (ageOf 255 n.beat p.heldBeat) 0 8)
      | none => if o % 8 = 0 then 0 else toW (fld 7 8 3 + fld (unusedAge 8) 0 8)
    else if 0x300 ≤ o ∧ o < 0x400 then
      match n.temps[64 * tpage + (o - 0x300) / 4]? with
      | some t =>
        if t.mapped then
          toW (fld (ageOf 4095 n.beat t.heldBeat) 20 12 + fld (t.codeNow n.beat).code 16 3 + intField t.held 16)
        else toW (fld (unusedAge 12) 20 12 + fld 7 16 3)
      | none => toW (fld (unusedAge 12) 20 12 + fld 7 16 3)
    else 0

/-- The words of the measurement block for a session. -/
def measRead (i : Fin 32) (o : Nat) (s : State) : Word :=
  let x := s.host.sess[i]
  if o = 0 then msStatus s
  else if o = 4 then toW (fld x.tpage 8 4 + fld x.page 0 4)
  else match s.meas.snap with
    | some n => snapRead x.page x.tpage o n
    | none => 0

/-- The words that a read latches (R12). -/
def measLatch (o : Nat) : List Nat := if o = 8 then [0xC] else if o = 0x20 then [0x24] else []

/-- One session changed. -/
def modSess (i : Fin 32) (f : Session → Session) (s : State) : State :=
  { s with host := { s.host with sess := updAt s.host.sess i f } }

/-- TAKE (R145): a pending capture makes a second one idle. -/
def takeSnap (s : State) : State :=
  if s.meas.snapPending then s else { s with meas := { s.meas with snapPending := true, snapValid := false } }

/-- Writes to the measurement block: W1C flags, SNAP_CTRL (Tables 05-10, 05-11). -/
def measWrite (i : Fin 32) (o : Nat) (v : Word) (s : State) : RspCode × State :=
  if o = 0 then
    let m := s.meas
    (.ok, { s with meas := { m with vlnkOvr := m.vlnkOvr && !wBit v 13, vstrOvr := m.vstrOvr && !wBit v 12
                                    curOvr := m.curOvr && !wBit v 11
                                    acc := { m.acc with rOutRange := m.acc.rOutRange && !wBit v 8 } } })
  else if o = 4 then
    if 7 < wBits v 11 8 then (.access, s)
    else
      let s := modSess i (fun x => { x with page := wBits v 3 0, tpage := wBits v 11 8 }) s
      (.ok, if wBit v 31 then takeSnap s else s)
  else (.ok, s)

end Sys2Proof.Machine
end

