-- ==== Sys2Proof/Machine/Model.lean ====
section
/-! DEFINITION. The cell model tables of section 0x06 (07 R174), the bin grid (06 R147, R148), and complex numbers of
FP32 (06 R151). Tables are interpolated exactly; a result becomes FP32 where the rules compute in FP32. -/

namespace Sys2Proof.Machine

/-! ### Tables -/

/-- Place of x on an axis: the lower and upper breakpoint's index and how far between them; the end breakpoint beyond
the axis (R174). -/
def axisAt (bp : List Int) (x : Rat) : Nat × Nat × Rat :=
  match bp with
  | [] => (0, 0, 0)
  | b :: _ =>
    let last := bp.length - 1
    if x ≤ (b : Rat) then (0, 0, 0)
    else
      let i := ((bp.map (fun b => decide ((b : Rat) ≤ x))).takeWhile id).length - 1
      if last ≤ i then (last, last, 0)
      else
        let lo : Rat := ((bp[i]?).getD 0 : Int)
        let hi : Rat := ((bp[i + 1]?).getD 0 : Int)
        (i, i + 1, if hi = lo then 0 else (x - lo) / (hi - lo))

/-- A value between two. -/
def mix (a b f : Rat) : Rat := a + (b - a) * f

/-- A table's value at a grid place: axis 1 runs fastest (03 Table 03-5). -/
def CellTable.at (t : CellTable) (i j k : Nat) : Rat :=
  (((t.vals[i + t.bp1.length * (j + t.bp2.length * k)]?).getD 0 : Int) : Rat)

/-- A table interpolated linearly on each axis (R174). -/
def CellTable.eval (t : CellTable) (x y z : Rat) : Rat :=
  let a := axisAt t.bp1 x
  let b := axisAt t.bp2 y
  let c := axisAt t.bp3 z
  let line := fun j k => mix (t.at a.1 j k) (t.at a.2.1 j k) a.2.2
  let face := fun k => mix (line b.1 k) (line b.2.1 k) b.2.2
  mix (face c.1) (face c.2.1) c.2.2

/-- The table of a KIND and set. -/
def CellModel.table (m : CellModel) (kind set : Nat) : CellTable :=
  (m.tables.find? (fun t => t.kind == kind && t.set == set)).getD default

/-- The cell model of the loaded calibre. -/
def modelOf (s : State) : CellModel := (s.cal.map (·.model)).getD default

/-- SET_MAP of a position. -/
def setOf (s : State) (p : Nat) : Nat := (s.cal.bind (fun c => c.est.setMap[p]?)).getD 0

/-- RATED_Q of a set, mAh. -/
def ratedQ (s : State) (set : Nat) : Nat := ((modelOf s).ratedQ[set]?).getD 0

/-- OCV in µV at a state of charge in ppm and a temperature in 0.01 °C. -/
def ocv (s : State) (set : Nat) (soc t : Rat) : Rat := ((modelOf s).table 1 set).eval soc t 0

/-- The OCV values at the breakpoints of state of charge, at one temperature. -/
def ocvLine (s : State) (set : Nat) (t : Rat) : List (Rat × Rat) :=
  let tab := (modelOf s).table 1 set
  let b := axisAt tab.bp2 t
  tab.bp1.mapIdx (fun i x => ((x : Rat), mix (tab.at i b.1 0) (tab.at i b.2.1 0) b.2.2))

/-- Slope in µV per ppm of the OCV segment that holds a state of charge; beyond the table the value stands still, and
so its slope is 0 (R174, R177; log 21). -/
def ocvSlope (s : State) (set : Nat) (soc t : Rat) : Rat :=
  let rec go : List (Rat × Rat) → Rat
    | (x, v) :: (x', v') :: r =>
      if x ≤ soc ∧ (soc < x' ∨ (soc = x' ∧ r.isEmpty)) then (if x' = x then 0 else (v' - v) / (x' - x)) else go ((x', v') :: r)
    | _ => 0
  go (ocvLine s set t)

/-- The state of charge in ppm at which the OCV has a value; beyond the table no rule gives one (log 8). -/
def ocvInv (s : State) (set : Nat) (v t : Rat) (k : Nat) : Rat :=
  let rec go : List (Rat × Rat) → Rat
    | (x, a) :: (x', b) :: r =>
      if a ≤ v ∧ v ≤ b then (if b = a then x else x + (x' - x) * (v - a) / (b - a)) else go ((x', b) :: r)
    | _ => (Config.freeInt k : Rat)
  go (ocvLine s set t)

/-- The integral of OCV from state of charge 0 to x (as a fraction of full), in volts, exact over the piecewise-linear
table; beyond a breakpoint at an end the value there holds (07 R190). -/
def ocvInt (s : State) (set : Nat) (x t : Rat) : Rat :=
  let l := ocvLine s set t
  let top := x * 1000000
  let val := fun (q : Rat) => ocv s set q t
  let pts := ((l.map (·.1)).filter (fun b => decide (0 < b ∧ b < top))) ++ [top]
  let r := pts.foldl (fun (acc : Rat × Rat) b => (acc.1 + (val acc.2 + val b) / 2 * (b - acc.2), b)) ((0 : Rat), (0 : Rat))
  if 0 ≤ top then r.1 / 1000000 / 1000000 else val 0 * top / 1000000 / 1000000

/-- A table of KIND 2 to 6 at a state of charge, temperature and rate. -/
def param (s : State) (kind set : Nat) (soc t rate : Rat) : Rat := ((modelOf s).table kind set).eval soc t rate

/-- rs(soc, t): the Rs table at its first rate-class breakpoint (06 R166), nΩ. -/
def rsAt (s : State) (set : Nat) (soc t : Rat) : Rat :=
  let tab := (modelOf s).table 2 set
  tab.eval soc t ((tab.bp3.headD 0 : Int) : Rat)

/-- Capacity derating at a temperature and rate, ppm. -/
def derate (s : State) (set : Nat) (t rate : Rat) : Rat := ((modelOf s).table 7 set).eval t rate 0

/-! ### Bins -/

/-- The greatest m below 2^n that meets a condition which holds up to some point, 0 where none does. -/
def greatest (ok : Nat → Bool) : Nat → Nat → Nat
  | 0, m => m
  | n + 1, m => greatest ok n (if ok (m + 2 ^ n) then m + 2 ^ n else m)

/-- f_k × den, the whole number below (R147). -/
def freqFloor (k den : Nat) : Nat := greatest (fun m => decide ((20 * m) ^ 39 ≤ den ^ 39 * 40000 ^ k)) (Nat.log2 den + 12) 0

/-- f_k as FP32: the nearest, by 60 bits beyond the point. -/
def freqF (k : Nat) : F32 := fRound false (2 * freqFloor k (2 ^ 60) + 1) (2 ^ 61)

/-- W_k: the least 80 × 2^j beats that is at least 8 000 / f_k (R148). -/
def winLen (k : Nat) : Nat :=
  let rec go : Nat → Nat → Nat
    | 0, w => w
    | n + 1, w => if cyclesGe k w 1000 8 then w else go n (2 * w)
  go 12 80

/-- H_k. -/
def winHop (k : Nat) : Nat := winLen k / 2

/-! ### Complex numbers of FP32 -/

/-- A complex number. -/
abbrev Cx := F32 × F32

/-- 0. -/
def cZero : Cx := (fZero, fZero)
/-- A sum. -/
def cAdd (a b : Cx) : Cx := (fAdd a.1 b.1, fAdd a.2 b.2)
/-- A difference. -/
def cSub (a b : Cx) : Cx := (fSub a.1 b.1, fSub a.2 b.2)
/-- A product. -/
def cMul (a b : Cx) : Cx := (fSub (fMul a.1 b.1) (fMul a.2 b.2), fAdd (fMul a.1 b.2) (fMul a.2 b.1))
/-- A product with a real number. -/
def cScale (x : F32) (a : Cx) : Cx := (fMul x a.1, fMul x a.2)
/-- The conjugate. -/
def cConj (a : Cx) : Cx := (a.1, fNeg a.2)
/-- The negative. -/
def cNeg (a : Cx) : Cx := (fNeg a.1, fNeg a.2)
/-- A quotient by a real number. -/
def cDivR (a : Cx) (x : F32) : Cx := (fDiv a.1 x, fDiv a.2 x)
/-- A quotient: the product with the conjugate over the squared magnitude. -/
def cQuot (a b : Cx) : Cx := cDivR (cMul a (cConj b)) (fAdd (fMul b.1 b.1) (fMul b.2 b.2))
/-- The magnitude: `cabsf` (log 11). -/
def cAbs (a : Cx) : F32 := Config.cabsf a.1 a.2
/-- The exact squared magnitude. -/
def cSq (a : Cx) : Rat := fToRat a.1 * fToRat a.1 + fToRat a.2 * fToRat a.2

/-- π as FP32. -/
def piF : F32 := 0x40490FDB

end Sys2Proof.Machine
end

