-- ==== Sys2Proof/Machine/Spectra.lean ====
section
/-! DEFINITION. Impedance spectroscopy in service (06): windows, chime, lock-in, the stimulus request, bin codes, the
spectrum store and the derived quantities. -/

namespace Sys2Proof.Machine

/-! ### The plan (section 0x08) -/

/-- The settings in force; without section 0x08 SOURCES is 0b001 and SNAP_MIN is 60. -/
def specCfg (s : State) : SpecCfg :=
  (s.cal.bind (·.spec)).getD { sources := 1, snapMin := 60, chimeI := 0, chimeCyc := 0, reqAmpl := 0, reqBins := 0
                               lockinBins := 0 }

/-- Beats between snapshots. -/
def snapInterval (s : State) : Nat := 60000 * (specCfg s).snapMin

/-- A bin's accumulators before any window. -/
def SpecAcc.start : SpecAcc := { (default : SpecAcc) with n := 0 }

/-- A position's spectroscopy state at T6 (R151, R167). -/
def PosSpec.start : PosSpec :=
  { (default : PosSpec) with amb := List.replicate 31 SpecAcc.start, req := List.replicate 31 SpecAcc.start
                             chime := List.replicate 31 default, lockin := List.replicate 9 default }

/-- One position's spectroscopy state changed. -/
def modSpec (p : Nat) (f : PosSpec → PosSpec) (s : State) : State :=
  { s with spec := { s.spec with pos := updL s.spec.pos p f } }

/-- A position's spectroscopy state. -/
def specAt (s : State) (p : Nat) : PosSpec := (s.spec.pos[p]?).getD default

/-- The node and local position of a string position, with the node's address. -/
def placeOf (s : State) (p : Nat) : Option (NodeMap × Nat × Nat) :=
  ((chainMap s).nodeOf p).map (fun nk => (nk.1, nk.2, addrOf s nk.1))

/-! ### The lock-in waveform (R157) -/

/-- The period of bin k in ps. -/
def periodPs (k : Nat) : Nat := 1000000000000 * 2 ^ 60 / freqFloor k (2 ^ 60)

/-- How much of the first t ps of a square wave its first half-periods are. -/
def squarePs (period t : Nat) : Nat := t / period * (period / 2) + min (t % period) (period / 2)

/-- The bin at which a string position runs lock-in in a beat, and where in its period the slice of that beat began, in
ps. R157 gives the wave's frequency and current and no phase: free in each slice (log 8). -/
def lockWave (s : State) (p beat : Nat) : Option (Nat × Nat) :=
  match placeOf s p with
  | some (_, k, a) => (lockBin s a k beat).map (fun b => (periodPs b, Config.lockPhase p b (beat - beat % 10) % periodPs b))
  | none => none

/-- The charge in nC that lock-in draws from a position in a beat: 100 mA while its wave is high. -/
def lockNc (s : State) (p beat : Nat) : Nat :=
  match lockWave s p beat with
  | some (w, ph) =>
    let t := ph + beat % 10 * 1000000000
    (squarePs w (t + 1000000000) - squarePs w t) / 10000
  | none => 0

/-- The lock-in wave of a position is high at the sample instant of a beat. -/
def lockHigh (s : State) (p beat : Nat) : Bool :=
  match lockWave s p beat with
  | some (w, ph) => decide ((ph + beat % 10 * 1000000000 + 500000000) % w < w / 2)
  | none => false

/-! ### The beats kept for analysis -/

/-- A burst is active in a beat. -/
def Burst.active (b : Burst) (beat : Nat) : Bool := decide (b.start ≤ beat) && decide (beat ≤ b.stop)

/-- The record of the committed beat: the pair, every position's value and code, and for each position with a burst
its current at the sample instant (R123, R125, R150, R156). -/
def beatRec (s : State) : BeatRec :=
  let now := s.time.beat
  let fe : FeSample := match s.meas.pair with
    | some a => a.fe
    | none => { (default : FeSample) with iBad := true, strBad := true, lnkBad := true }
  { beat := now, fe := fe, pos := s.meas.pos.map (fun p => (p.value, p.code))
    ic := ((s.spec.bursts.filter (fun b => b.active now)).map (fun b => (b.pos, chimeIc s b.pos now)))
    lk := if s.spec.locks.isEmpty then [] else (List.range s.meas.pos.length).filterMap (fun p =>
      if lockHigh s p now then some (p, 100) else none) }

/-- How many beats of history are kept: those of the longest window, and all since the first burst that has not ended
began (R148, R156). -/
def histLen (s : State) : Nat := (s.spec.bursts.map (fun b => s.time.beat + 1 - b.start)).foldl max 163841

/-- The record joins the history. -/
def histBeat (s : State) : State :=
  { s with spec := { s.spec with hist := (beatRec s :: s.spec.hist).take (histLen s) } }

/-- The records of the beats from `first`, `len` of them, oldest first; `none` where one is missing. -/
def windowOf (s : State) (first len : Nat) : Option (List BeatRec) :=
  let l := (s.spec.hist.filter (fun r => decide (first ≤ r.beat) && decide (r.beat < first + len))).reverse
  if l.length = len then some l else none

/-! ### Windows (R148 to R151) -/

/-- The values of a window with every sample that is not VALID replaced by linear interpolation between its VALID
neighbours; with a neighbour on one side only no rule gives a value (log 8). -/
def interpolate (k : Nat) (l : List (Int × Bool)) : List Rat :=
  let fwd := (l.foldl (fun (acc : List (Option (Nat × Int)) × Option (Nat × Int) × Nat) x =>
    let c := if x.2 then some (acc.2.2, x.1) else acc.2.1
    (c :: acc.1, c, acc.2.2 + 1)) ([], none, 0)).1.reverse
  let bwd := (l.reverse.foldl (fun (acc : List (Option (Nat × Int)) × Option (Nat × Int) × Nat) x =>
    let c := if x.2 then some (l.length - 1 - acc.2.2, x.1) else acc.2.1
    (c :: acc.1, c, acc.2.2 + 1)) ([], none, 0)).1
  l.mapIdx (fun i x =>
    if x.2 then (x.1 : Rat)
    else match (fwd[i]?).join, (bwd[i]?).join with
      | some a, some b =>
        (a.2 : Rat) + ((b.2 - a.2 : Int) : Rat) * ((i : Rat) - (a.1 : Rat)) / ((b.1 : Rat) - (a.1 : Rat))
      | _, _ => (Config.freeInt (k + i) : Rat))

/-- The Hann weight of sample i of w (R151). -/
def hann (i w : Nat) : F32 :=
  fSub (fC 1 2) (fMul (fC 1 2) (Config.cosf (fDiv (fMul (fMul (fC 2 1) piF) (fOfInt i)) (fOfInt w))))

/-- exp(−j 2π f_k t) at sample i of 1 ms. -/
def expTerm (k i : Nat) : Cx :=
  let a := fMul (fMul (fMul (fMul (fC (-2) 1) piF) (freqF k)) (fOfInt i)) (fC 1 1000)
  (Config.cosf a, Config.sinf a)

/-- The transform of one series at bin k. -/
def transform (k : Nat) (x : List F32) : Cx :=
  let w := x.length
  (x.foldl (fun (acc : Cx × Nat) v => (cAdd acc.1 (cScale (fMul (hann acc.2 w) v) (expTerm k acc.2)), acc.2 + 1))
    (cZero, 0)).1

/-- The currents of a window in A. -/
def currents (l : List BeatRec) : List F32 := l.map (fun r => fOfRat ((r.fe.i : Rat) / 100000))

/-- The peak current amplitude |I_k| in A (R151). -/
def ampOf (xi : Cx) (w : Nat) : F32 := fDiv (fMul (fC 4 1) (cAbs xi)) (fOfInt w)

/-- I_FLOOR in A (R150). -/
def iFloor (s : State) : F32 := if (s.cal.map (·.front.shunt)).getD 1 = 2 then fC 1 4 else fC 1 2

/-- The accumulators after an accepted window (R151). -/
def SpecAcc.add (xv xi : Cx) (beat : Nat) (a : SpecAcc) : SpecAcc :=
  let n := if a.n < 16 then a.n + 1 else 16
  let nf := fOfInt n
  let ai := cAbs xi
  let av := cAbs xv
  let sii := fAdd a.sii (fDiv (fSub (fMul ai ai) a.sii) nf)
  let svv := fAdd a.svv (fDiv (fSub (fMul av av) a.svv) nf)
  let svi := cAdd (a.sviRe, a.sviIm) (cDivR (cSub (cMul xv (cConj xi)) (a.sviRe, a.sviIm)) nf)
  let z := cDivR (cNeg svi) sii
  let m := cAbs svi
  let z1 := cDivR (cNeg (cMul xv (cConj xi))) (fMul ai ai)
  { n := n, sii := sii, svv := svv, sviRe := svi.1, sviIm := svi.2, zRe := z.1, zIm := z.2
    coh := fDiv (fMul m m) (fMul sii svv), last := some beat, recent := (z1 :: a.recent).take 2 }

/-- A window is accepted for a series of codes (R150), its current amplitude apart. -/
def windowOk (codes : List Qual) (chimed : Bool) (l : List BeatRec) : Bool :=
  let v := (codes.filter (fun c => c == .valid)).length
  decide (999 * l.length ≤ 1000 * v) && !codes.any (fun c => c == .blanked) && !chimed && l.all (fun r => !r.fe.iBad)

/-- The series of one position over a window. -/
def posSeries (p : Nat) (l : List BeatRec) : List (Int × Qual) := l.map (fun r => (r.pos[p]?).getD (0, .missed))

/-! ### Bin codes (R160, Table 06-4) -/

/-- The age limit of bins 0 to 30, in beats. -/
def ageLimit (s : State) (k : Nat) : Nat := max (4 * snapInterval s) (8 * winHop k)

/-- A result is no older than its limit. -/
def fresh? (now limit : Nat) (last : Option Nat) : Bool :=
  match last with
  | some b => decide (now - b ≤ limit)
  | none => false

/-- The code of a result by its source (Table 06-4). The table gives no order among OFF and the others; R172 has the VALID
bins of a source that is switched off turn OLD by their age, so a good result reads VALID or OLD, and OFF stands where an
OFF source has no good result (DESIGN CHOICE, log 20). -/
def sourceCode (on good : Bool) (now limit : Nat) (last : Option Nat) (other : Nat) : Nat :=
  if good then (if fresh? now limit last then 0 else 3)
  else if on then other
  else 4

/-- The code of an accumulator (ambient or requested). -/
def accCode (on : Bool) (now limit : Nat) (a : SpecAcc) : Nat :=
  sourceCode on (decide (8 ≤ a.n) && fLe (fC 9 10) a.coh) now limit a.last (if 8 ≤ a.n then 1 else 2)

/-- The mean of burst results. -/
def chimeMean (c : ChimeEst) : Cx := cDivR (c.results.foldl cAdd cZero) (fOfInt c.results.length)

/-- Every burst lies within 5 % of the mean in magnitude. -/
def chimeTight (c : ChimeEst) : Bool :=
  let m := cSq (chimeMean c)
  c.results.all (fun r => decide (m * 9025 ≤ cSq r * 10000) && decide (cSq r * 10000 ≤ m * 11025))

/-- The code of a chime estimate. -/
def chimeCode (on : Bool) (now limit : Nat) (c : ChimeEst) : Nat :=
  sourceCode on (decide (2 ≤ c.results.length) && chimeTight c) now limit c.last (if 2 ≤ c.results.length then 1 else 2)

/-- Lock-in runs at all: AGE_MAX is at least 10 (R158), and section 0x08 names the bin. -/
def lockinOn (s : State) (k : Nat) : Bool :=
  (specCfg s).sources.testBit 1 && (specCfg s).lockinBins.testBit k && decide (10 ≤ ageMax s)

/-- The code of a lock-in bin. -/
def lockCode (s : State) (k : Nat) (x : LockinEst) : Nat :=
  sourceCode (lockinOn s k) x.z.isSome s.time.beat (2 * snapInterval s) x.last 2

/-- A reported bin: code, source, value in µΩ, coherence. -/
structure BinRep where
  code : Nat
  src : Nat
  z : Cx
  coh : Option F32

/-- The reported value of a position's bin (R161): the first VALID of chime, requested, ambient; else ambient. -/
def binRep (s : State) (p k : Nat) : BinRep :=
  let x := specAt s p
  let now := s.time.beat
  let src := (specCfg s).sources
  if k < 31 then
    let lim := ageLimit s k
    let a := (x.amb[k]?).getD default
    let r := (x.req[k]?).getD default
    let c := (x.chime[k]?).getD default
    if chimeCode (src.testBit 1) now lim c = 0 then { code := 0, src := 2, z := chimeMean c, coh := none }
    else if accCode (src.testBit 2) now lim r = 0 then { code := 0, src := 1, z := (r.zRe, r.zIm), coh := some r.coh }
    else { code := accCode (src.testBit 0) now lim a, src := 0, z := (a.zRe, a.zIm), coh := some a.coh }
  else
    let l := (x.lockin[k - 31]?).getD default
    { code := lockCode s k l, src := 3, z := l.z.getD cZero, coh := none }

/-- VALID. -/
def binValid (s : State) (p k : Nat) : Bool := (binRep s p k).code == 0

/-! ### WINDOW_END (R147, R148, R150, R151, R159, R170) -/

/-- The dwell that holds a whole window of its bin. -/
def inDwell (s : State) (k first last : Nat) : Option Dwell :=
  (s.spec.dwell.toList ++ s.spec.dwellOld.toList).find? (fun d =>
    d.bin == k && decide (d.first ≤ first) && decide (last < d.stop))

/-- One series of a window: the accumulators it leaves, ambient and requested, whether it was accepted, and whether as a
requested window (R150, R151, R159). A source that is switched off keeps its accumulators (R172). -/
def takeWindow (s : State) (k : Nat) (l : List BeatRec) (xs : List Rat) (ok : Bool) (xi : Cx) (reqd : Option Dwell)
    (a r : SpecAcc) : SpecAcc × SpecAcc × Bool × Bool :=
  let on := (specCfg s).sources.testBit 0
  let w := l.length
  let amp := ampOf xi w
  if ok && fLe (iFloor s) amp then
    let xv := transform k (xs.map fOfRat)
    let last := ((l.getLast?).map (·.beat)).getD 0
    let hon := reqd.any (fun d => fLe (fMul (fC 1 2) (fOfRat ((d.ampl : Rat) / 100000))) amp)
    (if on then a.add xv xi last else a, if hon then r.add xv xi last else r, on || hon, hon)
  else (a, r, false, false)

/-- The mean of the aligned current over a window, in 10 µA. -/
def windowMean (l : List BeatRec) : Rat := ((l.map (·.fe.i)).foldl (fun a b => a + b) 0 : Int) / (l.length : Rat)

/-- Magnitudes within 2 %. -/
def within2 (a b : Cx) : Bool := decide (cSq b * 9604 ≤ cSq a * 10000) && decide (cSq a * 10000 ≤ cSq b * 10404)

/-- The VALID accumulators of a bin, of the requested or else the ambient source, with coherence at least QA_COH (R170). -/
def qaSource (s : State) (p k : Nat) : Option SpecAcc :=
  let x := specAt s p
  let lim := ageLimit s k
  let qa := fOfRat (((((s.cal.map (·.est.qaCoh)).getD 0) : Nat) : Rat) / 1000000)
  let src := (specCfg s).sources
  let r := (x.req[k]?).getD default
  let a := (x.amb[k]?).getD default
  if accCode (src.testBit 2) s.time.beat lim r == 0 && fLe qa r.coh then some r
  else if accCode (src.testBit 0) s.time.beat lim a == 0 && fLe qa a.coh then some a
  else none

/-- The quasi-anchor of a position at the end of an accepted window of bin 0 (R170); the filter takes it in its next
step (07 R184). Each of its bins is read from the requested source, or else from the ambient one (log 20). -/
def quasiAnchor (p : Nat) (l : List BeatRec) (xs : List Rat) (s : State) : State :=
  let x := specAt s p
  let bins := (List.range 5).all (fun k => (qaSource s p k).isSome)
  let near := (List.range 3).all (fun k => (qaSource s p k).any (fun a =>
    decide (2 ≤ a.recent.length) && a.recent.all (fun z => within2 z (a.zRe, a.zIm))))
  let mean := windowMean l
  let c : Rat := (ratedQ s (setOf s p) : Rat) * 100
  match x.prevMean with
  | some pm =>
    if bins && near && decide (2 * ratAbs mean ≤ c) && decide (50 * ratAbs (mean - pm) ≤ c) then
      let vBar : Rat := xs.foldl (fun a b => a + b) 0 / (xs.length : Rat)
      let drop := fToRat ((qaSource s p 0).getD default).zRe * (mean / 100000)
      let q := modSpec p (fun x => { x with qaV := ratFree s.freeCtr (vBar + drop)
                                            qaU := (ratFree (s.freeCtr + 1) (2000 + ratAbs drop / 5)).toNat
                                            qaBeat := some s.time.beat }) s
      tookFree 2 { q with est := { q.est with filters := updL q.est.filters p (fun f =>
        { f with qaPending := true, qaThisHour := true }) } }
    else s
  | none => s

/-- One position at the end of a window. -/
def windowPos (k p : Nat) (l : List BeatRec) (xi : Cx) (s : State) : State :=
  let ser := posSeries p l
  let chimed := l.any (fun r => r.ic.any (fun x => x.1 == p))
  let ok := windowOk (ser.map (·.2)) chimed l
  let xs := interpolate s.freeCtr (ser.map (fun x => (x.1, x.2 == .valid)))
  let first := ((l.head?).map (·.beat)).getD 0
  let last := ((l.getLast?).map (·.beat)).getD 0
  let x := specAt s p
  let r := takeWindow s k l xs ok xi (inDwell s k first last) ((x.amb[k]?).getD default) ((x.req[k]?).getD default)
  let s := tookFree l.length s
  let s := modSpec p (fun x => { x with amb := x.amb.set k r.1, req := x.req.set k r.2.1 }) s
  let s := if r.2.2.2 then { s with spec := { s.spec with reqHonoured := true } } else s
  if k = 0 then
    let s := if r.2.2.1 then quasiAnchor p l xs s else s
    modSpec p (fun x => { x with prevMean := some (windowMean l) }) s
  else s

/-- The string spectrum at the end of a window (R151): the aligned string voltage in place of v, in µV. -/
def windowStr (k : Nat) (l : List BeatRec) (xi : Cx) (s : State) : State :=
  let ser : List (Int × Qual) := l.map (fun r => (r.fe.vStr * 10, if r.fe.strBad then .suspect else .valid))
  let ok := windowOk (ser.map (·.2)) false l
  let xs := interpolate s.freeCtr (ser.map (fun x => (x.1, x.2 == .valid)))
  let first := ((l.head?).map (·.beat)).getD 0
  let last := ((l.getLast?).map (·.beat)).getD 0
  let r := takeWindow s k l xs ok xi (inDwell s k first last) ((s.spec.str[k]?).getD default)
    ((s.spec.strReq[k]?).getD default)
  tookFree l.length { s with spec := { s.spec with
    str := s.spec.str.set k r.1, strReq := s.spec.strReq.set k r.2.1, reqHonoured := s.spec.reqHonoured || r.2.2.2 } }

/-- WINDOW_END (R147, R148, R150, R151, R159, R170): the window of bin k whose last beat is the one before, by tick 330. The
results of an engine item that was stopped in this beat are not committed (02 R40). -/
def execWindowEnd (k : Fin 31) (s : State) : Res :=
  let s := fresh s
  let w := winLen k.val
  if awake s && s.st.mode.fromArmed && decide (s.time.beat % winHop k.val = 0) && decide (w ≤ s.time.beat) &&
      mayAct (.window k.val) 330 s then
    match windowOf s (s.time.beat - w) w with
    | some l =>
      let xi := transform k.val (currents l)
      let s := takeTurn (.window k.val) s
      .next ((List.range s.spec.pos.length).foldl
        (fun s p => if workStopped .window p s then s else windowPos k.val p l xi s) (windowStr k.val l xi s))
    | none => .next s
  else .next s

/-! ### Chime (R152 to R156) -/

/-- A_p in mA (R153). -/
def chimeAmpl (s : State) (p : Nat) : Nat :=
  match placeOf s p with
  | some (_, k, a) =>
    let r := wire s a k + wire s a (k + 1)
    if r = 0 then (specCfg s).chimeI else min (specCfg s).chimeI (5000 / r)
  | none => 0

/-- CHIME_NA. -/
def chimeNa (s : State) (p : Nat) : Bool := decide (chimeAmpl s p < 20)

/-- A position whose held value lies below V_POS_MIN + 0.2 V at planning is left out (R153). -/
def tooLow (s : State) (p : Nat) : Bool :=
  decide (((s.meas.pos[p]?).map (·.held)).getD 0 < (s.saf.copyA.map (·.vPosMin)).getD 0 + 200000)

/-- A number raised to a multiple of m. -/
def upTo (m n : Nat) : Nat := (n + m - 1) / m * m

/-- The module plans stimulus: E8 runs, not in SAFE, this module is the holder, SOURCES[1]. -/
def plansStim (s : State) : Bool :=
  e8On s && s.st.mode.fromArmed && s.st.mode != .safe && holder s && (specCfg s).sources.testBit 1

/-- The bursts of round r that start at beat b (R154). -/
def roundBursts (s : State) (r b : Nat) : List Burst :=
  let par := r % 2
  let sub := r / 2 % 2
  let k := 30 - r / 4 % 31
  let src := (specCfg s).sources
  let cyc := (specCfg s).chimeCyc
  (List.range s.spec.pos.length).filterMap (fun p =>
    match placeOf s p with
    | some (_, l, _) =>
      let x := specAt s p
      let lim := ageLimit s k
      let known := accCode (src.testBit 0) s.time.beat lim ((x.amb[k]?).getD default) == 0 ||
        accCode (src.testBit 2) s.time.beat lim ((x.req[k]?).getD default) == 0
      if l % 2 == par && l / 8 == sub && !chimeNa s p && !tooLow s p && !known then
        some { pos := p, bin := k, ampl := chimeAmpl s p, cycles := cyc, start := b, stop := b + burstBeats k cyc }
      else none
    | none => none)

/-- A campaign can overlap the beats from `b` to `e`. -/
def campaignMeets (s : State) (b e : Nat) : Bool :=
  let n := 1000 * popCount 40 (specCfg s).lockinBins
  s.spec.campaigns.any (fun c => decide (c.2 ≤ e) && decide (b < c.2 + n)) ||
  s.spec.running.any (fun c => decide (c.2.1 ≤ e) && decide (b < c.2.2))

/-- CHIME_ROUND_START (R153 to R155): the module fixes the next round, 50 beats or more before the multiple of 100 at
which its bursts start, so that their commands go out in the 50 beats before (log 19). -/
def execChimeRoundStart (s : State) : Res :=
  let s := fresh s
  let x := s.spec
  if plansStim s && x.toSend.isEmpty && decide (x.nextRound ≤ s.time.beat + 100) then
    let b := upTo 100 (max x.nextRound (s.time.beat + 50))
    let l := roundBursts s x.round b
    let stop := (l.map (·.stop)).foldl max b
    if l.isEmpty then .next { s with spec := { x with round := x.round + 1, nextRound := b + 100 } }
    else if campaignMeets s b stop then .next { s with spec := { x with nextRound := b + 100 } }
    else .next { s with spec := { x with round := x.round + 1, toSend := l, nextRound := upTo 100 (stop + 100) } }
  else .next s

/-- CHIME (Table 04-8; R152, R155): a burst of the planned round is commanded, in the 50 beats before its start. -/
def execChime (node : Fin 64) (pos bin ampl cycles start : Nat) (s : State) : Res :=
  let s := fresh s
  let a := node.val
  let hit := s.spec.toSend.find? (fun b => b.bin == bin && b.ampl == ampl && b.cycles == cycles &&
    b.start % 65536 == start && decide (s.time.beat < b.start) && decide (b.start ≤ s.time.beat + 50) &&
    (match placeOf s b.pos with
      | some (_, k, ad) => ad == a && k == pos
      | none => false))
  match hit with
  | some b =>
    if cmdFree (a / 16) s && holder s then
      let c : NodeChime :=
        { pos := pos, bin := bin, ampl := ampl, cycles := cycles, start := beatNext16 s.time.beat (start % 65536) }
      let s := command a 9 ([pos, bin] ++ argB 2 ampl ++ argB 2 cycles ++ argB 2 start) (chimeCmd s.time.beat c) s
      .next { s with spec := { s.spec with toSend := s.spec.toSend.erase b, bursts := s.spec.bursts ++ [b] } }
    else .next s
  | none => .next s

/-- The result of a burst over its beats (R156). -/
def burstResult (b : Burst) (l : List BeatRec) : Cx :=
  let xv := transform b.bin ((posSeries b.pos l).map (fun x => fOfInt x.1))
  let xi := transform b.bin (currents l)
  let xc := transform b.bin (l.map (fun r =>
    fOfRat ((((r.ic.filter (fun x => x.1 == b.pos)).map (·.2)).foldl (fun a b => a + b) 0 : Nat) / (1000 : Rat))))
  cNeg (cQuot xv (cAdd xi xc))

/-- BURST_END (R155, R156): the burst of a position that ended with the beat before or earlier. -/
def execBurstEnd (pos : Fin 1024) (s : State) : Res :=
  let s := fresh s
  match s.spec.bursts.find? (fun b => b.pos == pos.val && decide (b.stop < s.time.beat)) with
  | some b =>
    if awake s && s.st.mode.fromArmed then
      let s := { s with spec := { s.spec with bursts := s.spec.bursts.erase b } }
      match windowOf s b.start (b.stop + 1 - b.start) with
      | some l =>
        if (posSeries b.pos l).all (fun x => x.2 == .valid) && l.all (fun r => !r.fe.iBad) then
          .next (modSpec b.pos (fun x => { x with chime := updL x.chime b.bin (fun c =>
            { results := (burstResult b l :: c.results).take 4, last := some b.stop }) }) s)
        else .next s
      | none => .next s
    else .next s
  | none => .next s

/-- The module's stimulus on a line is over: its nodes have been told to stop, and its bursts give no result. -/
def dropStim (l : Nat) (s : State) : State :=
  let on := fun p => match placeOf s p with
    | some (n, _, _) => n.line == l
    | none => false
  { s with spec := { s.spec with bursts := s.spec.bursts.filter (fun b => !on b.pos)
                                 locks := s.spec.locks.filter (fun k => k.addr / 16 != l) } }

/-- STIM_STOP (Table 04-8, R172): broadcast in the first CMD window once the module has stopped its stimulus. -/
def execStimStop (line : Fin 4) (s : State) : Res :=
  let s := fresh s
  let l := line.val
  if cmdFree l s && s.spec.stimStop.testBit l then
    let s := dropStim l (broadcast l (cmdEnd s l 0xFF) 12 [] (.plain NodeS.stopStim) s)
    .next { s with spec := { s.spec with stimStop := s.spec.stimStop - 2 ^ l } }
  else .next s

/-! ### Lock-in (R157, R158) -/

/-- The campaign's masks: on each node the mapped local positions of the parity that R153 does not exclude. -/
def lockRuns (s : State) (par start : Nat) : List LockRun :=
  (chainMap s).nodes.filterMap (fun n =>
    let m := maskOf (n.locals.filter (fun k => k % 2 == par &&
      (match n.stringPos k with
        | some p => !tooLow s p && !chimeNa s p
        | none => false)))
    if m = 0 then none else some { addr := addrOf s n, bins := (specCfg s).lockinBins, mask := m, start := start })

/-- LOCKIN_CAMPAIGN_START (R158): the campaign that comes next is fixed and its commands are to be sent before its
beat; a chime round still running moves it to the next multiple of 1 000 after the round's last burst, and it follows the
campaign before it without a gap (log 19). -/
def execLockinCampaignStart (s : State) : Res :=
  let s := fresh s
  match s.spec.campaigns with
  | (par, c0) :: rest =>
    if plansStim s && decide (s.spec.running.length ≤ 1) && decide (c0 ≤ s.time.beat + 100) && decide (10 ≤ ageMax s) then
      let busy := ((s.spec.bursts ++ s.spec.toSend).map (fun (b : Burst) => b.stop + 1) ++ s.spec.running.map (fun x => x.2.2)).foldl max 0
      let c := upTo 1000 (max (max c0 busy) (s.time.beat + 1))
      let n := popCount 40 (specCfg s).lockinBins
      .next { s with spec := { s.spec with campaigns := rest, running := s.spec.running ++ [(par, c, c + 1000 * n)]
                                           lockToSend := s.spec.lockToSend ++ lockRuns s par c } }
    else .next s
  | [] => .next s

/-- LOCKIN_START (Table 04-8; R157, R158): a command of the campaign, before its beat. -/
def execLockinStart (node : Fin 64) (bins posMask start : Nat) (s : State) : Res :=
  let s := fresh s
  let a := node.val
  match s.spec.lockToSend.find? (fun r => r.addr == a && r.bins == bins && r.mask == posMask && r.start % 65536 == start) with
  | some r =>
    if cmdFree (a / 16) s && holder s && decide (s.time.beat < r.start) then
      let s := command a 10 (argB 8 bins ++ argB 2 posMask ++ argB 2 start)
        (lockinCmd bins posMask (beatNext16 (s.time.beat + 1) (start % 65536))) s
      .next { s with spec := { s.spec with lockToSend := s.spec.lockToSend.erase r, locks := s.spec.locks ++ [r] } }
    else .next s
  | none => .next s

/-- LOCKIN_CAMPAIGN_END (R157, R158): the campaign's last dwell has ended; its results are read from now. Commands of it
that were never sent are dropped. -/
def execLockinCampaignEnd (s : State) : Res :=
  let s := fresh s
  match s.spec.running with
  | (_, _, c1) :: rest =>
    if awake s && decide (c1 ≤ s.time.beat) then
      .next { s with spec := { s.spec with
        running := rest
        lockToSend := s.spec.lockToSend.filter (fun r => decide (s.time.beat < r.stop))
        locks := s.spec.locks.filter (fun r => decide (s.time.beat < r.stop)) } }
    else .next s
  | [] => .next s

/-- LOCKIN_READ (Table 04-8, R158): between campaigns. -/
def execLockinRead (node : Fin 64) (pos bin : Nat) (s : State) : Res :=
  let s := fresh s
  let a := node.val
  if cmdFree (a / 16) s && holder s && s.st.mode.fromArmed && (nodeRec s a).found && decide (pos < 16) &&
    decide (31 ≤ bin ∧ bin ≤ 39) then
    .next (command a 11 [pos, bin, 0, 0] (lockinReadCmd s.time.beat pos bin s.freeCtr) (tookFree 4 s))
  else .next s

/-- A lock-in result (R158): Z = −V/I, nV over µA, in µΩ; a current below 50 mA gives no value. -/
def lockResult (vRe vIm iRe iIm : Int) : Option Cx :=
  let m := iRe * iRe + iIm * iIm
  if m < 2500000000 then none
  else
    let re : Rat := ((vRe * iRe + vIm * iIm : Int) : Rat) / (m : Rat) * 1000
    let im : Rat := ((vIm * iRe - vRe * iIm : Int) : Rat) / (m : Rat) * 1000
    some (fOfRat (-re), fOfRat (-im))

/-- What a reply of LOCKIN_READ brings: the bin keeps its value where it brings none (R158, R172). -/
def takeLockin (c : CmdOut) (a : Nat) (d : ReplyData) (s : State) : State :=
  match d with
  | .lockin done vRe vIm iRe iIm =>
    let pos := (c.args[0]?).getD 0
    let bin := (c.args[1]?).getD 0
    match (mapNode s a).bind (fun n => n.stringPos pos), (if done then lockResult vRe vIm iRe iIm else none) with
    | some p, some z =>
      modSpec p (fun x => { x with lockin := updL x.lockin (bin - 31) (fun _ => { z := some z, last := some s.time.beat }) }) s
    | _, _ => s
  | _ => s

/-- REPLY (04 R88, R98, R100, R106, R415; R158). -/
def execReply (h : ChainHdr) (op status : Nat) (d : ReplyData) (s : State) : Res :=
  let s := fresh s
  let t := takeReply h op status d s
  if hears h s && frameOk 6 h (replyBytes op status d) && op == 11 && status == 0 then
    match answered h op status s with
    | some c => .next (takeLockin c h.addr d t)
    | none => .next t
  else .next t

/-! ### The stimulus request (R159) -/

/-- The next bin of REQ_BINS after the last one, in ascending order, starting over. -/
def nextReqBin (bins : Nat) (last : Option Nat) : Option Nat :=
  let l := maskBits 31 bins
  match last with
  | some b => ((l.find? (fun k => decide (b < k))).orElse (fun _ => l.head?))
  | none => l.head?

/-- The module keeps a stimulus request. -/
def requests (s : State) : Bool :=
  let c := specCfg s
  awake s && s.st.mode == .run && c.sources.testBit 2 && decide (0 < c.reqAmpl) && c.reqBins != 0 && holder s

/-- REQUEST_DWELL_START (R159). -/
def execRequestDwellStart (s : State) : Res :=
  let s := fresh s
  if requests s then
    match nextReqBin (specCfg s).reqBins s.spec.lastBin with
    | some k =>
      let free := s.spec.dwell.all (fun d => decide (d.stop ≤ s.time.beat))
      if free && decide (s.time.beat % winHop k = 0) then
        let d : Dwell := { bin := k, first := s.time.beat, stop := s.time.beat + 2 * winLen k, ampl := (specCfg s).reqAmpl }
        .next { s with spec := { s.spec with dwell := some d, dwellOld := s.spec.dwell, lastBin := some k } }
      else .next s
    | none => .next s
  else .next s

/-- A dwell runs now: in RUN, in the module that keeps the request; it finishes with the settings it began with (R159,
R172). -/
def dwellNow (s : State) : Option Dwell :=
  if awake s && s.st.mode == .run && holder s then
    s.spec.dwell.filter (fun d => decide (d.first ≤ s.time.beat) && decide (s.time.beat < d.stop))
  else none

/-- The stimulus request record (Table 06-3): FREQ to the nearest mHz. -/
def requestRecord (s : State) : List Byte :=
  match dwellNow s with
  | some d =>
    leB 1 1 ++ leB 1 d.bin ++ leB 2 0 ++ leB 4 ((2 * freqFloor d.bin 1000000 + 1000) / 2000) ++ leB 4 d.ampl ++
      leB 4 d.first ++ leB 4 d.stop ++ leB 4 0
  | none => List.replicate 24 0

/-! ### Captures (R162 to R164, R169, 07 R192) -/

/-- A number as a signed 32-bit field: no rule says what a value beyond it shows, so its low bits stand (log 20). -/
def zBytes (k : Nat) (x : F32) : List Byte := leI 4 (ratFree k (fToRat x * 1000))

/-- COH: coherence × 250, rounded down. -/
def cohByte (c : Option F32) : List Byte :=
  match c with
  | some x => leB 1 (min 250 (fToRat x * 250).floor.toNat)
  | none => leB 1 0xFF

/-- TAP_COUNT of a position. -/
def tapCount (s : State) (p : Nat) : Nat := ((s.cal.bind (fun c => c.taps[p]?)).getD []).length

/-- PAR_REF (R169). -/
def parRef (s : State) (p : Nat) : Nat := if 0 < tapCount s p then tapCount s p else (chainMap s).parMax

/-- The plating level as it reads: 3 while PLATE_UNK is set (R168). -/
def PosSpec.plateRead (x : PosSpec) : Nat := if x.plateUnk then 3 else x.plate

/-- The position record (Table 06-6). -/
def specRecord (s : State) (p : Nat) : List Byte :=
  let x := specAt s p
  let reps := (List.range 40).map (binRep s p)
  let nv := (reps.filter (fun r => r.code == 0)).length
  let qaAge := match x.qaBeat with
    | some b => min 0xFFFFFFFF ((s.time.beat - b) / 1000)
    | none => 0xFFFFFFFF
  leB 1 1 ++ leB 1 nv ++ leB 1 (x.plateRead % 4 + bitAt x.plateUnk 7) ++
  leB 1 (bitAt x.tIntValid 0 + bitAt x.parLow 1 + bitAt x.qaBeat.isSome 2 + bitAt (chimeNa s p) 3) ++
  leI 2 x.tInt ++ leB 2 x.tIntU ++ leB 2 (x.parEst.getD 0) ++ leB 2 (parRef s p) ++ leI 4 x.rCt ++ leI 4 x.rOhm ++ leI 4 x.qaV ++
  leB 4 qaAge ++ leB 4 x.qaU ++ leB 2 (chimeAmpl s p) ++ leB 1 (x.kHi.getD 0xFF) ++ leB 1 (x.kLo.getD 0xFF) ++
  List.replicate 44 0 ++
  ((reps.mapIdx (fun i r => zBytes (s.freeCtr + 2 * i) r.z.1 ++ zBytes (s.freeCtr + 2 * i + 1) r.z.2)).flatten) ++
  (reps.flatMap (fun r => leB 1 (r.code + r.src * 8))) ++ (reps.flatMap (fun r => cohByte r.coh))

/-- The reported string bin: requested where VALID, else ambient; beyond bin 30 UNUSED (R161, Table 06-4). -/
def strRep (s : State) (k : Nat) : BinRep :=
  if k < 31 then
    let lim := ageLimit s k
    let a := (s.spec.str[k]?).getD default
    let r := (s.spec.strReq[k]?).getD default
    if accCode ((specCfg s).sources.testBit 2) s.time.beat lim r = 0 then
      { code := 0, src := 1, z := (r.zRe, r.zIm), coh := some r.coh }
    else { code := accCode ((specCfg s).sources.testBit 0) s.time.beat lim a, src := 0, z := (a.zRe, a.zIm), coh := some a.coh }
  else { code := 7, src := 0, z := cZero, coh := none }

/-- The slot header (Table 06-5); STATE stands beside it in the slot. -/
def specHeader (s : State) (seq : Nat) : List Byte :=
  let reps := (List.range 40).map (strRep s)
  leB 4 seq ++ leB 1 0 ++ leB 1 (specCfg s).sources ++ leB 2 (chainMap s).nPos ++ leB 8 s.time.beat ++
  leB 2 (specCfg s).snapMin ++ leB 2 0 ++ leB 4 ((s.cal.map (·.calId)).getD 0) ++
  leB 4 (bitAt (decide (ageMax s < 10)) 0 + bitAt s.spec.reqHonoured 1) ++ List.replicate 36 0 ++
  ((reps.mapIdx (fun i r => zBytes (s.freeCtr + 2 * i) r.z.1 ++ zBytes (s.freeCtr + 2 * i + 1) r.z.2)).flatten) ++
  (reps.flatMap (fun r => leB 1 (r.code + r.src * 8))) ++ (reps.flatMap (fun r => cohByte r.coh))

/-- PAR_LOW after a snapshot (R169); without any PAR_EST the condition does not hold. -/
def parJudge (ref : Nat) (x : PosSpec) : PosSpec :=
  let low := x.parEst.any (fun e => decide ((e : Rat) / 100 ≤ (ref : Rat) - max 1 ((ref : Rat) * 15 / 1000)))
  let lowRun := if low then satAdd x.parLowRun 1 3 else 0
  let okRun := if low then 0 else satAdd x.parOkRun 1 3
  { x with parLowRun := lowRun, parOkRun := okRun, parLow := if x.parLow then decide (okRun < 3) else decide (3 ≤ lowRun) }

/-- The reference spectrum and drift of a position at a snapshot (07 R192): the first snapshot with 30 VALID bins is
the reference, from which it does not drift; the drift is computed while T_p lies within 2 °C of the reference's. The root of the mean square is
correctly rounded in FP32 and shown in 0.01 %. -/
def driftJudge (s : State) (p : Nat) (f : Filter) : Filter :=
  let bins : List (Option Cx) := (List.range 40).map (fun k =>
    let r := binRep s p k
    if r.code = 0 then some r.z else none)
  match f.refSpec with
  | none => if 30 ≤ (bins.filter (·.isSome)).length then { f with refSpec := some (bins, f.tP), drift := 0 } else f
  | some (ref, t) =>
    if ratAbs (f.tP - t) ≤ 200 then
      let sq := (ref.zip bins).filterMap (fun x => match x with
        | (some a, some b) => if cSq a = 0 then none else some (cSq (cSub b a) / cSq a)
        | _ => none)
      if sq.isEmpty then f
      else
        let ms := sq.foldl (fun a b => a + b) 0 / (sq.length : Rat)
        { f with drift := min 65535 (ratFree s.freeCtr (fToRat (fSqrt (fOfRat ms)) * 10000)).toNat }
    else f

/-- SPECTRUM_CAPTURE (R158, R160 to R162, R169; 07 R192). -/
def execSpectrumCapture (s : State) : Res :=
  let s := fresh s
  if awake s && s.st.mode.fromArmed && decide (s.time.beat % snapInterval s = 0) && mayAct .spectrum 330 s then
    let s := actAt .spectrum 330 s
    let seq := s.spec.seq + 1
    let n := s.spec.pos.length
    let pos := s.spec.pos.mapIdx (fun p x => parJudge (parRef s p) x)
    let s := { s with spec := { s.spec with pos := pos } }
    let slot : Slot := { seq := seq, st := 1, header := specHeader s seq, recs := (List.range n).map (specRecord s) }
    let filters := s.est.filters.mapIdx (fun p f => driftJudge s p f)
    let nlb := popCount 40 (specCfg s).lockinBins
    let camps := if decide (10 ≤ ageMax s) && decide (0 < nlb) && (specCfg s).sources.testBit 1 then
        [(0, s.time.beat + 1000), (1, s.time.beat + 1000 * (1 + nlb))] else []
    let spec := { s.spec with seq := seq, slots := s.spec.slots.set (seq % 16) slot
                              reqHonoured := false, campaigns := camps }
    .next (tookFree 80 { s with spec := spec, est := { s.est with filters := filters } })
  else .next s

/-- The words of a byte list, little-endian. -/
def wordsOf (l : List Byte) : List Word :=
  (List.range (l.length / 4)).map (fun i =>
    let b := fun j => ((l[4 * i + j]?).getD 0).toNat
    toW (b 0 + b 1 * 2 ^ 8 + b 2 * 2 ^ 16 + b 3 * 2 ^ 24))

/-- An item of content 4 (R164): SEQ, the position, and its record. -/
def specItem (seq p : Nat) (rec : List Byte) : List Word := toW seq :: toW p :: wordsOf rec

/-- SLOT_COMPLETE (R162, R164): at most 200 beats after the capture. -/
def execSlotComplete (s : State) : Res :=
  let s := fresh s
  let k := s.spec.seq % 16
  match s.spec.slots[k]? with
  | some x =>
    if awake s && x.st == 1 && x.seq == s.spec.seq then
      let s := { s with spec := { s.spec with slots := s.spec.slots.set k { x with st := 2 } } }
      .next ((List.range 8).foldl (fun s q =>
        let c := queueCfg s q
        if c.content = 4 ∧ c.decim ≠ 0 ∧ x.seq % c.decim = 0 then
          modQueue q (fun u => { u with building := u.building ++ x.recs.mapIdx (fun p r => specItem x.seq p r) }) s
        else s) s)
    else .next s
  | none => .next s

/-- A word of the spectrum window (R163). -/
def specWindow (o : Nat) (s : State) : Word :=
  match s.spec.slots[o / 0x80000]? with
  | some x =>
    if x.seq = 0 then 0
    else
      let i := o % 0x80000
      if i = 4 then (wordsOf (x.header.drop 4)).headD 0 ||| toW x.st
      else if i < 0x1D0 then (wordsOf (x.header.drop (i / 4 * 4))).headD 0
      else if 0x8000 ≤ i then
        match x.recs[(i - 0x8000) / 480]? with
        | some r => (wordsOf (r.drop ((i - 0x8000) % 480))).headD 0
        | none => 0
      else 0
  | none => 0

/-! ### Derived quantities (R165 to R169) -/

/-- Reported state of charge of a position, in ppm (07 R178). -/
def socPpm (s : State) (p : Nat) : Rat :=
  let f : Filter := (s.est.filters[p]?).getD default
  max 0 (min 1000000 ((f.s : Rat) / 1000000))

/-- The VALID temperature points of a position's node. -/
def nodeTemps (s : State) (p : Nat) : List Int :=
  match placeOf s p with
  | some (_, _, a) =>
    (List.range 8).filterMap (fun t => match s.meas.temps[tempIdx a t]? with
      | some x => if x.mapped && x.codeNow s.time.beat == .valid then some x.held else none
      | none => none)
  | none => []

/-- A mean. -/
def meanList (l : List Int) : Option Rat :=
  if l.isEmpty then none else some ((l.foldl (fun a b => a + b) 0 : Int) / (l.length : Rat))

/-- The temperature at which g × rs equals R_OHM, by linear interpolation between the table's temperature breakpoints,
with the slope there; `none` outside the table (R166). -/
def solveT (s : State) (set : Nat) (soc g rOhm : Rat) : Option (Rat × Rat) :=
  let tab := (modelOf s).table 2 set
  let pts := tab.bp2.map (fun t => ((t : Rat), g * rsAt s set soc (t : Rat)))
  let rec go : List (Rat × Rat) → Option (Rat × Rat)
    | (t, a) :: (t', b) :: r =>
      if (a ≤ rOhm ∧ rOhm ≤ b) ∨ (b ≤ rOhm ∧ rOhm ≤ a) then
        (if a = b then some (t, 0) else some (t + (t' - t) * (rOhm - a) / (b - a), ratAbs ((t' - t) / (b - a))))
      else go ((t', b) :: r)
    | _ => none
  go pts

/-- The magnitude error of Table 06-7 at R_OHM, nΩ: 20 µΩ for a chime result, else 2 µΩ, or 0.5 %. -/
def magErr (src : Nat) (rOhm : Rat) : Rat := max (ratAbs rOhm / 200) (if src = 2 then 20000 else 2000)

/-- K_HI: the highest VALID lock-in bin, else bin 30, else none (R165). -/
def kHiOf (s : State) (p : Nat) : Option Nat :=
  match ((List.range 9).reverse.map (· + 31)).find? (binValid s p) with
  | some k => some k
  | none => if binValid s p 30 then some 30 else none

/-- Re Z of a bin in nΩ. -/
def reZ (s : State) (p k : Nat) : Rat := fToRat (binRep s p k).z.1 * 1000

/-- Learning of g (R167): once in a rest of 7 200 s, with the node's points within 1.0 °C. -/
def learnG (s : State) (p : Nat) (x : PosSpec) : PosSpec :=
  if !s.est.rest then { x with gLearntRest := false }
  else
    let t := nodeTemps s p
    match meanList t, x.kHi with
    | some m, some _ =>
      let rs := rsAt s (setOf s p) (socPpm s p) m
      if decide (7200000 ≤ s.est.restBeats) && !x.gLearntRest && decide (t.foldl max (t.headD 0) - t.foldl min (t.headD 0) ≤ 100) &&
        decide (rs ≠ 0) then
        let n : Rat := (x.rOhm : Rat) / rs
        { x with gLearntRest := true, g := some (match x.g with
          | some g => g + (n - g) / 4
          | none => n) }
      else x
    | _, _ => x

/-- T_INT (R166). -/
def tInt (s : State) (p k : Nat) (x : PosSpec) : PosSpec :=
  match x.kHi, x.g with
  | some kh, some g =>
    match (if 28 ≤ kh then solveT s (setOf s p) (socPpm s p) g (x.rOhm : Rat) else none) with
    | some (t, slope) =>
      let u := slope * magErr (binRep s p kh).src (x.rOhm : Rat) + 50
      { x with tInt := ratFree k t, tIntU := min 65535 (ratFree (k + 1) u).toNat, tIntValid := true }
    | none => { x with tIntValid := false }
  | _, _ => { x with tIntValid := false }

/-- The called plating level and η in µV at a beat's current (10 µA), with whether charge runs cold (R168). A position
without any VALID point and without T_INT counts as below 15 °C (log 20). -/
def plateCall (s : State) (p : Nat) (i : Int) (x : PosSpec) : Nat × Rat × Bool :=
  let t : Option Int := if x.tIntValid then some x.tInt else
    let l := nodeTemps s p
    if l.isEmpty then none else some (l.foldl min (l.headD 0))
  let warm := match t with
    | some t => decide (1500 ≤ t)
    | none => false
  let eta : Rat := (i.natAbs : Rat) / 100000 * (x.rCt : Rat) / 1000
  let lvl := if decide (0 ≤ i) || warm then 0
    else if eta < 20000 then 0 else if eta < 40000 then 1 else if eta < 60000 then 2 else 3
  (lvl, eta, decide (i < 0) && !warm)

/-- The plating level after an evaluation (R168). While it reads 3 for want of a bin, the level by η stands still. -/
def plateStep (call : Nat × Rat × Bool) (x : PosSpec) : PosSpec :=
  let known := x.kLo.isSome && x.kHi.isSome
  if call.2.2 && !known then { x with plateUnk := true, plateFall := 0 }
  else if x.plate < call.1 then { x with plate := call.1, plateUnk := false, plateFall := 0 }
  else
    let low : Rat := 20000 * (x.plate : Rat)
    if 0 < x.plate ∧ call.2.1 < low - 5000 then
      if 99 ≤ x.plateFall then { x with plate := x.plate - 1, plateUnk := false, plateFall := 0 }
      else { x with plateUnk := false, plateFall := x.plateFall + 1 }
    else { x with plateUnk := false, plateFall := 0 }

/-- The middle of a list of numbers; of an even count, the mean of the two middle ones. -/
def median (l : List Rat) : Option Rat :=
  let m := l.mergeSort (fun a b => decide (a ≤ b))
  if m.isEmpty then none
  else if m.length % 2 = 1 then m[m.length / 2]?
  else some (((m[m.length / 2 - 1]?).getD 0 + (m[m.length / 2]?).getD 0) / 2)

/-- rs at 25 °C and at the node's temperature. -/
def rsPair (s : State) (p : Nat) : Option (Rat × Rat) :=
  match meanList (nodeTemps s p) with
  | some t =>
    let a := rsAt s (setOf s p) (socPpm s p) 2500
    let b := rsAt s (setOf s p) (socPpm s p) t
    if a = 0 ∨ b = 0 then none else some (a, b)
  | none => none

/-- The resistance of one cell referred to 25 °C (R169). -/
def parR (s : State) (p : Nat) : Option Rat :=
  match (specAt s p).kHi, rsPair s p with
  | some _, some (a, b) => some (((specAt s p).rOhm : Rat) * (parRef s p : Rat) * a / b)
  | _, _ => none

/-- PAR_EST in 0.01 cell (R169). -/
def parEst (s : State) (p k : Nat) (x : PosSpec) : PosSpec :=
  let same := (List.range s.spec.pos.length).filter (fun q => setOf s q == setOf s p)
  match median (same.filterMap (parR s)), rsPair s p with
  | some r, some (a, b) =>
    if x.rOhm = 0 ∨ x.kHi.isNone then x
    else { x with parEst := some (min 65535 (ratFree k (r * b / (a * (x.rOhm : Rat)) * 100)).toNat) }
  | _, _ => x

/-- DERIVED_UPDATE (R165 to R169): in the beat after a multiple of 100, by tick 330; not where the engine item of the
position was stopped in this beat (02 R40). -/
def execDerivedUpdate (s : State) : Res :=
  let s := fresh s
  if awake s && s.st.mode.fromArmed && decide (s.time.beat % 100 = 1) && mayAct .derived 330 s then
    let s := takeTurn .derived s
    let i := ((s.spec.hist.find? (fun r => r.beat + 1 == s.time.beat)).map (·.fe.i)).getD 0
    let n := s.spec.pos.length
    let s := (List.range n).foldl (fun s p =>
      let kh := kHiOf s p
      let kl := if binValid s p 12 then some 12 else none
      let s := if workStopped .derived p s then s else modSpec p (fun x =>
        let r := match kh with
          | some k => ratFree s.freeCtr (reZ s p k)
          | none => x.rOhm
        let c := match kh, kl with
          | some h, some l => max 0 (ratFree (s.freeCtr + 1) (reZ s p l - reZ s p h))
          | _, _ => x.rCt
        let x := { x with kHi := kh, kLo := kl, rOhm := r, rCt := c }
        let x := tInt s p (s.freeCtr + 2) (learnG s p x)
        plateStep (plateCall s p i x) x) s
      tookFree 4 s) s
    let s' := (List.range n).foldl (fun t p => if workStopped .derived p s then t else modSpec p (parEst s p (s.freeCtr + p)) t) s
    .next (tookFree n s')
  else .next s

end Sys2Proof.Machine
end

