-- ==== Sys2Proof/Machine/Estimate.lean ====
section
/-! DEFINITION. State of charge, capacity and health (07): rest, the filters, anchors, capacity, the two sources, early
warnings, the summary, seeds, and the estimation registers. Conversions between exact tables and the filter's FP32 are
rounded to nearest (log 12). -/

namespace Sys2Proof.Machine

/-! ### Settings with their defaults (03 R69, Table 03-5; R178, R191) -/

/-- Section 0x07. -/
def estCfg (s : State) : EstCfg := (s.cal.map (·.est)).getD default

/-- A setting, or its default where it is written as 0. -/
def orDef (n d : Nat) : Nat := if n = 0 then d else n

/-- A noise term, or its default where it is written as 0.0. -/
def orDefF (x : F32) (d : Int) : F32 := if fIsZero x then fC d 1 else x

/-- The least RATED_Q of the model sets in use. -/
def ratedMin (s : State) : Nat :=
  let l := (List.range s.est.filters.length).map (fun p => ratedQ s (setOf s p))
  l.foldl min (l.headD 0)

/-- A current of n LSB of 10 µA lies within REST_I of a rated capacity in mAh (R181). -/
def withinRest (s : State) (i : Int) (rated : Nat) : Bool :=
  decide (i.natAbs * 10000 ≤ orDef (estCfg s).restI 5000 * rated)

/-- STARVE_H. -/
def starveH (s : State) : Nat := orDef (estCfg s).starveH 168

/-- One filter changed. -/
def modFilter (p : Nat) (f : Filter → Filter) (s : State) : State :=
  { s with est := { s.est with filters := updL s.est.filters p f } }

/-- A position's filter. -/
def filterAt (s : State) (p : Nat) : Filter := (s.est.filters[p]?).getD default

/-! ### Rest (R181) -/

/-- The rest run after a beat's I_MEAN, from T6 onward. -/
def restJudge (s : State) : State :=
  if s.st.mode.fromArmed && s.est.running then
    let e := s.est
    if withinRest s s.meas.iMean (ratedMin s) then
      let n := e.restBeats + 1
      { s with est := { e with restBeats := n, restStart := some (e.restStart.getD (s.time.beat - 1))
                               rest := decide (orDef (estCfg s).restT 120 * 1000 ≤ n) } }
    else { s with est := { e with restBeats := 0, restStart := none, rest := false } }
  else s

/-- q_p of a position as it stands (R176): what its filter has counted, the charge counter's change since, and the bleed and
stimulus charge not yet added. -/
def Filter.charge (s : State) (f : Filter) : Int := f.q + (chargeUc s.meas - f.qSeen) + f.qExtra / 1000

/-- One beat of the rest run at a position, with its sample (R181, R182): the seconds of the run, each with the position's
own mean current and the mean of its VALID samples. They are counted in every beat, whether or not a filter step is taken
in it. -/
def restBeat (s : State) (p : Nat) (v : Int × Qual) (f : Filter) : Filter :=
  let q := f.charge s
  match s.est.restStart with
  | none => { f with beatQ := q, runStart := none, restSecs := [], secDue := false, anchored := false, restOk := false }
  | some b0 =>
    let f := if f.runStart == some b0 then f else
      { f with runStart := some b0, restOk := true, secQ := f.beatQ, secSum := 0, secN := 0, restSecs := [], secDue := false
               anchored := false }
    let f := if v.2 = .valid then { f with secSum := f.secSum + v.1, secN := f.secN + 1 } else f
    let f := { f with beatQ := q }
    let rel := s.time.beat - 1 - b0
    if rel % 1000 = 999 then
      -- µC in one second is µA; the limit compares in LSB of 10 µA
      let ok := decide ((q - f.secQ).natAbs * 1000 ≤ orDef (estCfg s).restI 5000 * ratedQ s (setOf s p))
      let sec : RestSec := { t := rel / 1000, mean := meanOf f.secSum f.secN, n := f.secN }
      { f with restOk := f.restOk && ok, secQ := q, secSum := 0, secN := 0, restSecs := sec :: f.restSecs, secDue := true }
    else f

/-- The record of the beat before this one, which E0 to E7 process in this beat (02 Table 02-1). -/
def lastRec (s : State) : Option BeatRec :=
  match s.spec.hist.head? with
  | some r => if r.beat + 1 = s.time.beat then some r else none
  | none => none

/-- The value and code of a position in the beat before this one. -/
def lastPos (s : State) (p : Nat) : Int × Qual :=
  (((lastRec s).map (fun r => (r.pos[p]?).getD (0, .missed)))).getD (0, .missed)

/-- The rest run at every position after a beat (R181). -/
def restPositions (s : State) : State :=
  if s.st.mode.fromArmed && s.est.running then
    { s with est := { s.est with filters := s.est.filters.mapIdx (fun p f => restBeat s p (lastPos s p) f) } }
  else s

/-! ### Charge of bleed and stimulus (R176, 06 R152, R157, 09 R229) -/

/-- The time of the m-th half-period edge of bin k after the burst's start, in ns; an edge between 25 µs before and
after a sample instant is taken at the window's end. The burst starts 750 µs into its first beat. -/
def edgeNs (k m : Nat) : Nat :=
  let t := m * 1000000000 * 2 ^ 60 / (2 * freqFloor k (2 ^ 60)) + 750000
  let o := t % 1000000
  if 475000 ≤ o ∧ o < 525000 then t - o + 525000 else t

/-- How long the chime switch of a burst is closed in a beat, in ns. -/
def onNs (b : Burst) (beat : Nat) : Nat :=
  if b.start ≤ beat then
    let t0 := (beat - b.start) * 1000000
    let t1 := t0 + 1000000
    let h := halfPeriods b.bin (t0 / 1000 - 750) 1000000 (2 * b.cycles)
    let ms := (List.range 4).map (fun j => h - 1 + j)
    (ms.map (fun m =>
      if m % 2 = 0 ∧ m < 2 * b.cycles then
        min t1 (edgeNs b.bin (m + 1)) - max t0 (edgeNs b.bin m)
      else 0)).foldl (fun a b => a + b) 0
  else 0

/-- The charge in nC that stimulus draws from a position in a beat: 1 mA for 1 µs is 1 nC. -/
def stimNc (s : State) (p beat : Nat) : Nat :=
  ((s.spec.bursts.filter (fun b => b.pos == p && b.active beat)).map (fun b =>
    b.ampl * onNs b beat / 1000)).foldl (fun a b => a + b) (lockNc s p beat)

/-- The stimulus charge of the committed beat joins each filter. -/
def stimBeat (s : State) : State :=
  let filters := s.est.filters.mapIdx (fun p f => { f with qExtra := f.qExtra + stimNc s p s.time.beat })
  { s with est := { s.est with filters := filters } }

/-! ### The filter step (R175 to R179) -/

/-- T_p after a look at its sources (R175). -/
def tempOf (s : State) (p : Nat) (f : Filter) : Filter :=
  if (specAt s p).tIntValid then { f with tP := ((specAt s p).tInt : Rat), tempDefault := false }
  else match meanList (nodeTemps s p) with
    | some t => { f with tP := t, tempDefault := false }
    | none => f

/-- r_p in ppm of RATED_Q per hour: the mean current over the last 10 000 beats, or over the beats since T6 where they
are fewer (log 22). µC per beat is mA. -/
def rateOf (s : State) (p : Nat) (f : Filter) : Rat :=
  match f.rate.head?, f.rate.getLast? with
  | some (b, q), some (b0, q0) =>
    let r := ratedQ s (setOf s p)
    if b = b0 ∨ r = 0 then 0 else ((q - q0 : Int) : Rat) / (((b - b0 : Nat) : Rat)) / (r : Rat) * 1000000
  | _, _ => 0

/-- Division of a charge by Q_p with its remainder carried: change of state of charge in 10⁻⁶ ppm and what is left. -/
def socDelta (dq : Int) (qCap : F32) (rem : Rat) : Int × Rat :=
  let d : Rat := fToRat qCap * 3600000
  let n : Rat := (dq : Rat) * 1000000000000 + rem
  if d = 0 then (0, rem)
  else
    let q := ratTrunc (n / d)
    (q, n - (q : Rat) * d)

/-- A 3 × 3 matrix of FP32 in rows. -/
def matAt (m : List F32) (i j : Nat) : F32 := (m[3 * i + j]?).getD fZero

/-- The prediction's covariance: f P fᵀ + diag. -/
def covPredict (a1 a2 q1 q2 q3 : F32) (m : List F32) : List F32 :=
  let f := [fOne, a1, a2]
  let q := [q1, q2, q3]
  (List.range 9).map (fun n =>
    let i := n / 3
    let j := n % 3
    let x := fMul (fMul ((f[i]?).getD fZero) (matAt m i j)) ((f[j]?).getD fZero)
    if i = j then fAdd x ((q[i]?).getD fZero) else x)

/-- One update with measurement residual y, h = [h0, h1, h2] and variance r (R177, R184). -/
def kalman (h0 h1 h2 y r : F32) (k : Nat) (f : Filter) : Filter :=
  let h := [h0, h1, h2]
  let ph := (List.range 3).map (fun i =>
    (List.range 3).foldl (fun acc j => fAdd acc (fMul (matAt f.cov i j) ((h[j]?).getD fZero))) fZero)
  let hph := (List.range 3).foldl (fun acc i => fAdd acc (fMul ((h[i]?).getD fZero) ((ph[i]?).getD fZero))) fZero
  let g := ph.map (fun x => fDiv x (fAdd hph r))
  let gy := g.map (fun x => fMul x y)
  let cov := (List.range 9).map (fun n =>
    let i := n / 3
    let j := n % 3
    (List.range 3).foldl (fun acc l =>
      let e := if i = l then fOne else fZero
      fAdd acc (fMul (fSub e (fMul ((g[i]?).getD fZero) ((h[l]?).getD fZero))) (matAt f.cov l j))) fZero)
  { f with s := f.s + ratFree k (fToRat ((gy[0]?).getD fZero) * 1000000)
           v1 := fAdd f.v1 ((gy[1]?).getD fZero), v2 := fAdd f.v2 ((gy[2]?).getD fZero), cov := cov }

/-- State of charge of a filter in ppm, exact. -/
def Filter.soc (f : Filter) : Rat := (f.s : Rat) / 1000000

/-- The prediction of a step from its last beat to beat b (R177, first part), with the charge dq in µC. -/
def predict (s : State) (p b : Nat) (dq : Int) (f : Filter) : Filter :=
  let set := setOf s p
  let c := estCfg s
  let dt := fMul (fOfInt ((b - f.lastBeat : Nat) : Int)) (fC 1 1000)
  let im := fDiv (fMul (fOfInt dq) (fC 1 1000000)) dt
  let d := socDelta dq f.qCap f.sRem
  let cc := socDelta dq f.qCap f.ccRem
  let f := { f with s := f.s - d.1, sRem := d.2, sCC := f.sCC - cc.1
                    ccRem := cc.2, gross := f.gross + dq.natAbs }
  let r := rateOf s p f
  let q := fun (kind : Nat) (den : Nat) => fOfRat (param s kind set f.soc f.tP r / (den : Rat))
  let ra := q 3 1000000000
  let ca := q 4 10
  let rb := q 5 1000000000
  let cb := q 6 10
  let a1 := Config.expf (fDiv (fNeg dt) (fMul ra ca))
  let a2 := Config.expf (fDiv (fNeg dt) (fMul rb cb))
  let step := fun (a v r : F32) => fAdd (fMul a v) (fMul (fMul (fMul (fSub fOne a) im) r) (fC 1000000 1))
  { f with v1 := step a1 f.v1 ra, v2 := step a2 f.v2 rb, lastBeat := b
           cov := covPredict a1 a2 (fMul (orDefF c.qSoc 1) dt) (fMul (orDefF c.qV1 4) dt) (fMul (orDefF c.qV2 4) dt) f.cov }

/-- i_a of a beat in A: aligned string current and the chime and lock-in currents at the instant, where no bleed runs
(R176, 04 R94). -/
def posCurrent (p : Nat) (r : BeatRec) : F32 :=
  let ic : Nat := (((r.ic ++ r.lk).filter (fun x => x.1 == p)).map (·.2)).foldl (fun a b => a + b) 0
  fOfRat ((r.fe.i : Rat) / 100000 + (ic : Rat) / 1000)

/-- The update with the sample of a beat (R177, second part), and its s_V (R187). -/
def sampleUpdate (s : State) (p : Nat) (v : Int) (ia : F32) (f : Filter) : Filter :=
  let set := setOf s p
  let rs := fOfRat (param s 2 set f.soc f.tP (rateOf s p f) / 1000000000)
  let drop := fMul (fMul ia rs) (fC 1000000 1)
  let h0 := fOfRat (ocvSlope s set f.soc f.tP)
  let pred := fSub (fSub (fSub (fOfRat (ocv s set f.soc f.tP)) drop) f.v1) f.v2
  let y := fSub (fOfInt v) pred
  let f := kalman h0 (fC (-1) 1) (fC (-1) 1) y (orDefF (estCfg s).rMeas 225) s.freeCtr f
  let vo := fToRat (fAdd (fAdd (fAdd (fOfInt v) drop) f.v1) f.v2)
  let sv := ocvInv s set vo f.tP (s.freeCtr + 1)
  { f with svSum := f.svSum + sv, svN := f.svN + 1 }

/-- The start at the first VALID sample (R180). The variances of v1 and v2 at the start are not given: free (log 8). -/
def filterStart (s : State) (p b : Nat) (v : Int) (f : Filter) : Filter :=
  let set := setOf s p
  let s0 := ratFree (s.freeCtr + 2) (ocvInv s set (v : Rat) f.tP (s.freeCtr + 1) * 1000000)
  let fv := fun k => fAbs (BitVec.ofInt 32 (Config.freeInt (s.freeCtr + k)))
  let z := fZero
  let rated := fOfInt (ratedQ s set : Nat)
  { f with started := true, s := s0, sRem := 0, sCC := s0, ccRem := 0, v1 := z, v2 := z, qCap := rated
           uQ := fMul rated (fC 1 10), lastBeat := b, h := starveH s
           cov := [fC 2500000000 1, z, z, z, fv 3, z, z, z, fv 4] }

/-! ### Relaxation and anchors (R182 to R186) -/

/-- A determinant of up to three rows. -/
def det3 (m : List (List Rat)) : Rat :=
  let a := fun i j => (((m[i]?).getD [])[j]?).getD 0
  match m.length with
  | 1 => a 0 0
  | 2 => a 0 0 * a 1 1 - a 0 1 * a 1 0
  | _ => a 0 0 * (a 1 1 * a 2 2 - a 1 2 * a 2 1) - a 0 1 * (a 1 0 * a 2 2 - a 1 2 * a 2 0) +
      a 0 2 * (a 1 0 * a 2 1 - a 1 1 * a 2 0)

/-- Linear least squares over two or three basis functions; `none` where the equations have no single solution. -/
def lsq (rows : List (List Rat)) (ys : List Rat) : Option (List Rat) :=
  let n := (rows.headD []).length
  let at' := fun (r : List Rat) j => (r[j]?).getD 0
  let m := (List.range n).map (fun i => (List.range n).map (fun j =>
    (rows.map (fun r => at' r i * at' r j)).foldl (fun a b => a + b) 0))
  let v := (List.range n).map (fun i => ((rows.zip ys).map (fun x => at' x.1 i * x.2)).foldl (fun a b => a + b) 0)
  let d := det3 m
  if d = 0 then none
  else some ((List.range n).map (fun c => det3 (m.mapIdx (fun i r => r.set c ((v[i]?).getD 0))) / d))

/-- A bin of a position in the newest complete snapshot: its Z in nΩ where it was reported VALID. -/
def snapBin (s : State) (p k : Nat) : Option (Int × Int) :=
  let done := s.spec.slots.filter (fun x => x.st == 2)
  match (done.mergeSort (fun a b => decide (b.seq ≤ a.seq))).head? with
  | some sl =>
    match sl.recs[p]? with
    | some r =>
      let byte := fun i => ((r[i]?).getD 0).toNat
      let w := fun i => signed (byte i + byte (i + 1) * 2 ^ 8 + byte (i + 2) * 2 ^ 16 + byte (i + 3) * 2 ^ 24) 32
      if byte (0x190 + k) % 8 = 0 ∧ byte 0 = 1 then some (w (0x50 + 8 * k), w (0x54 + 8 * k)) else none
    | none => none
  | none => none

/-- τ_s of R182 in seconds, as FP32: from the bin among 5 to 30 with the largest −Im Z. -/
def tauS (s : State) (p : Nat) : Option F32 :=
  let l := (List.range 26).filterMap (fun i => (snapBin s p (i + 5)).map (fun z => (i + 5, -z.2)))
  let best := l.foldl (fun (m : Option (Nat × Int)) x => match m with
    | some y => if y.2 < x.2 then some x else some y
    | none => some x) none
  best.map (fun x => fDiv fOne (fMul (fMul (fC 2 1) piF) (freqF x.1)))

/-- Bins 0 to 4 are VALID in the snapshot and Re Z falls strictly from bin 0 to bin 4 (R182). -/
def diffusionShaped (s : State) (p : Nat) : Bool :=
  let l := (List.range 5).filterMap (fun k => (snapBin s p k).map (·.1))
  l.length == 5 && (List.range 4).all (fun i => decide ((l[i + 1]?).getD 0 < (l[i]?).getD 0))

/-- The basis of the fit at time t: 1, −e^(−t/τ), −t^(−1/2). Each second's mean stands for the middle of its second
(log 22). -/
def relaxRow (tau : Option F32) (t : Rat) : List Rat :=
  let b := -(1 / fToRat (fSqrt (fOfRat t)))
  match tau with
  | some x => [1, -(fToRat (Config.expf (fDiv (fNeg (fOfRat t)) x))), b]
  | none => [1, b]

/-- What an anchor is made of: its voltage and one standard deviation, µV. -/
structure AnchorV where
  v : Rat
  u : Rat

/-- Seconds of the run with 900 VALID samples are at least 90 %. -/
def denseRun (f : Filter) : Bool :=
  decide (9 * f.restSecs.length ≤ 10 * (f.restSecs.filter (fun x => decide (900 ≤ x.n))).length)

/-- The extrapolated anchor (R182, R183, Table 07-2). -/
def fitAnchor (s : State) (p : Nat) (f : Filter) : Option AnchorV :=
  let tau := tauS s p
  let pts := (f.restSecs.reverse.filter (fun x => decide (10 ≤ x.t) && decide (0 < x.n))).map (fun x => ((x.t : Rat) + 1 / 2, x.mean))
  let rows := pts.map (fun x => relaxRow tau x.1)
  if !diffusionShaped s p || pts.length < 3 then none
  else match lsq rows (pts.map (·.2)) with
    | some c =>
      let val := fun (r : List Rat) => ((r.zip c).map (fun x => x.1 * x.2)).foldl (fun a b => a + b) 0
      let sq : Rat := ((rows.zip pts).map (fun x => (x.2.2 - val x.1) * (x.2.2 - val x.1))).foldl (fun a b => a + b) 0
      let ms : Rat := sq / (pts.length : Rat)
      let vInf := c.headD 0
      let rest := ratAbs (val (relaxRow tau (((f.restSecs.headD default).t : Rat) + 1 / 2)) - vInf)
      if ms ≤ 1600 ∧ rest ≤ 10000 then
        some { v := vInf, u := 150 + rest / 5 + 2 * fToRat (fSqrt (fOfRat ms)) }
      else none
    | none => none

/-- The fallback anchor (Table 07-2): after 1 800 s, the mean of the VALID samples of the last 60 s. -/
def fallbackAnchor (f : Filter) : Option AnchorV :=
  let l := f.restSecs.take 60
  let n : Nat := (l.map (·.n)).foldl (fun a b => a + b) 0
  if 1800 ≤ f.restSecs.length ∧ 0 < n then
    let t : Rat := (l.map (fun x => x.mean * (x.n : Rat))).foldl (fun a b => a + b) 0
    some { v := t / (n : Rat), u := 500 }
  else none

/-- An anchor applied to the filter (R184): variance U_A² / w, w = 1/den. -/
def anchorUpdate (s : State) (p : Nat) (a : AnchorV) (wDen : Nat) (f : Filter) : Filter :=
  let set := setOf s p
  let h0 := fOfRat (ocvSlope s set f.soc f.tP)
  let y := fSub (fOfRat a.v) (fOfRat (ocv s set f.soc f.tP))
  kalman h0 fZero fZero y (fOfRat (a.u * a.u * (wDen : Rat))) (s.freeCtr + 5) f

/-- Charge in mAh from µC. -/
def toMah (q : Int) : Rat := (q : Rat) / 3600000

/-- Learning from a pair of anchors (R186): the filter, and Q_meas with whether it was rejected. -/
def learnCap (rated : Nat) (a1 a2 : Anchor) (f : Filter) : Filter × F32 × Bool :=
  let dq := fOfRat (toMah (a2.q - a1.q))
  let qm := fDiv dq (fMul (fOfRat (a1.s - a2.s)) (fC 1 1000000))
  let um := fDiv (fMul qm (fSqrt (fAdd (fMul (fOfRat a1.u) (fOfRat a1.u)) (fMul (fOfRat a2.u) (fOfRat a2.u)))))
    (fOfRat (ratAbs (a1.s - a2.s)))
  let rq := fOfInt (rated : Nat)
  if fLt qm (fMul (fC 1 2) rq) || fLt (fMul (fC 6 5) rq) qm then ({ f with capReject := true }, qm, true)
  else if f.capSuspect then
    ({ f with qCap := qm, uQ := um, capSuspect := false, capReject := false, a1 := some a2, gross := 0 }, qm, false)
  else
    let k := fDiv (fMul f.uQ f.uQ) (fAdd (fMul f.uQ f.uQ) (fMul um um))
    ({ f with qCap := fAdd f.qCap (fMul k (fSub qm f.qCap)), uQ := fSqrt (fMul (fMul (fSub fOne k) f.uQ) f.uQ)
              capReject := false, a1 := some a2, gross := 0 }, qm, false)

/-- A true anchor and the capacity it may teach (R184 to R186, R195 order: anchor, s_CC, capacity). -/
def trueAnchor (p : Nat) (a : AnchorV) (s : State) : State :=
  let set := setOf s p
  let f := anchorUpdate s p a 1 (filterAt s p)
  let sA := ocvInv s set a.v f.tP (s.freeCtr + 6)
  let h0 := ocvSlope s set sA f.tP
  let f := { f with h := 0, g := 0, anchored := true, sCC := ratFree (s.freeCtr + 7) (sA * 1000000), ccRem := 0 }
  let s := setAgain 0x9000 (2 ^ 7) { s with est := { s.est with anchorTrue := true, trueCount := satAdd s.est.trueCount 1 65535 } }
  if h0 < 2 / 100 then modFilter p (fun _ => f) s
  else
    let a2 : Anchor := { s := sA, u := a.u / h0, q := f.q }
    match f.a1 with
    | none => modFilter p (fun _ => { f with a1 := some a2, gross := 0 }) s
    | some a1 =>
      if 300000 ≤ ratAbs (a2.s - a1.s) ∧ f.gross ≤ 4 * ((a2.q - a1.q).natAbs : Int) then
        let r := learnCap (ratedQ s set) a1 a2 f
        let s := modFilter p (fun _ => r.1) s
        let qm := intW (ratFree (s.freeCtr + 8) (fToRat r.2.1))
        if r.2.2 then
          jnl 10 0xFF [beatLo s, toW p, qm] (setAgain 0x9000 (2 ^ 9) { s with est := { s.est with capRejectSeen := true } })
        else
          jnl 9 0xFF [beatLo s, toW p, qm, intW (ratFree (s.freeCtr + 9) (fToRat r.1.qCap))]
            (setAgain 0x9000 (2 ^ 8) { s with est := { s.est with capLearnt := true } })
      else if 2 * fToRat f.qCap < toMah f.gross then modFilter p (fun _ => { f with a1 := some a2, gross := 0 }) s
      else modFilter p (fun _ => f) s

/-- The position is at rest (R181). -/
def posRest (s : State) (f : Filter) : Bool := s.est.rest && f.restOk && s.est.restStart.isSome && f.runStart == s.est.restStart

/-- The anchor step of a position (R183, R184, R195): a true anchor once per rest run at the first second that meets
Table 07-2, else a waiting quasi-anchor, which rest makes idle. -/
def anchorStep (p : Nat) (second : Bool) (s : State) : State :=
  let f := filterAt s p
  let atRest := posRest s f
  if second && atRest && !f.anchored && denseRun f && decide (orDef (estCfg s).restT 120 ≤ f.restSecs.length) then
    match (fitAnchor s p f).orElse (fun _ => fallbackAnchor f) with
    | some a => trueAnchor p a (modFilter p (fun f => { f with qaPending := false }) s)
    | none => modFilter p (fun f => { f with qaPending := false }) s
  else if f.qaPending then
    let x := specAt s p
    let f := { f with qaPending := false }
    modFilter p (fun _ => if atRest then f else anchorUpdate s p { v := (x.qaV : Rat), u := (x.qaU : Rat) } 4 f) s
  else s

/-- After every step the internal s lies within −50 000 ppm to 1 050 000 ppm (R178). -/
def Filter.bound (f : Filter) : Filter := { f with s := clampI (-50000000000) 1050000000000 f.s }

/-- A filter step may be taken now: E0 to E7 process the beat before in ticks 0 to 330 (02 R36), once its charge is
counted, before this beat's commit and before the judgements that follow the steps (R195); not in a beat in which
die-temperature throttling skips the estimators (09 R228) or the item of the position was stopped (02 R40, R43). -/
def stepOpen (p : Nat) (s : State) : Bool :=
  awake s && s.st.mode.fromArmed && s.est.running && s.lim.estRuns && decide (tickOf s ≤ 330) && hadTurn .charge s &&
  !hadTurn .commit s && !hadTurn .second s && !hadTurn .warning s && !workStopped .filter p s

/-- The charge and temperature of a step taken in: the filter, and the change of q_p since the step before. -/
def takeCharge (s : State) (p : Nat) (f : Filter) : Filter × Int :=
  let f := tempOf s p f
  let now := chargeUc s.meas
  let add := now - f.qSeen + f.qExtra / 1000
  ({ f with q := f.q + add, qSeen := now, qExtra := f.qExtra % 1000 }, add)

/-- The step of a position that has started, on the record of its beat (R177 to R187, R195 order). -/
def filterOn (p : Nat) (r : BeatRec) (add : Int) (f : Filter) (s : State) : State :=
  let v := (r.pos[p]?).getD (0, .missed)
  let f := { f with rate := ((r.beat, f.q) :: f.rate).filter (fun x => decide (r.beat ≤ x.1 + 10000)) }
  let f := predict s p r.beat add f
  let f := if v.2 = .valid then sampleUpdate s p v.1 (posCurrent p r) f else f
  let second := f.secDue
  modFilter p Filter.bound (anchorStep p second (modFilter p (fun _ => { f with secDue := false }) s))

/-- FILTER_STEP (R173, R175 to R187, R195): from the last beat stepped to the beat before this one. -/
def execFilterStep (pos : Fin 1024) (s : State) : Res :=
  let s := fresh s
  let p := pos.val
  match lastRec s, s.est.filters[p]? with
  | some r, some f =>
    if stepOpen p s then
      let x := takeCharge s p f
      let v := (r.pos[p]?).getD (0, .missed)
      if !f.started then
        let f := if v.2 = .valid then { filterStart s p r.beat v.1 x.1 with rate := [(r.beat, x.1.q)] } else x.1
        .next (tookFree 5 (modFilter p (fun _ => f) s))
      else if f.lastBeat < r.beat then .next (tookFree 10 (filterOn p r x.2 x.1 s))
      else .next s
    else .next s
  | _, _ => .next s

/-! ### Once a second, once an hour (R187 to R189) -/

/-- A filter after the second's judgement (R187, R188). -/
def judgeSecond (s : State) (p : Nat) (f : Filter) : Filter :=
  if f.svN = 0 then f
  else
    let sv := f.svSum / (f.svN : Rat)
    let f := { f with svSum := 0, svN := 0, sV := some sv }
    if ocvSlope s (setOf s p) sv f.tP < 2 / 100 then f
    else
      let c := estCfg s
      let d := ratAbs ((f.sCC : Rat) / 1000000 - sv)
      let band : Rat := (orDef c.band 50000 : Nat)
      let t := orDef c.bandT 60
      let above := decide (band < d)
      let below := decide (2 * d ≤ band)
      let dr := if above then satAdd f.disRun 1 65535 else 0
      let ar := if below then satAdd f.agreeRun 1 65535 else 0
      let set := !f.disagree && decide (t ≤ dr)
      let clear := f.disagree && decide (t ≤ ar)
      { f with disRun := dr, agreeRun := ar, disagree := if set then true else if clear then false else f.disagree
               capSuspect := f.capSuspect || set }

/-- A second of a position whose item was stopped in this beat is not judged (02 R40). -/
def secondOf (s : State) (p : Nat) (f : Filter) : Filter :=
  if workStopped .filter p s then { f with svSum := 0, svN := 0 } else judgeSecond s p f

/-- SECOND_JUDGEMENT (R187, R188): after the steps of the last beat of each whole second. -/
def execSecondJudgement (s : State) : Res :=
  let s := fresh s
  if awake s && s.st.mode.fromArmed && s.est.running && decide (s.time.beat % 1000 = 0) && mayAct .second 330 s &&
      !hadTurn .warning s then
    let s := takeTurn .second s
    .next { s with est := { s.est with filters := s.est.filters.mapIdx (secondOf s) } }
  else .next s

/-- One hour of a filter that has started (R189): H_p and, beyond STARVE_H, G_p. -/
def hourStep (starve : Nat) (f : Filter) : Filter :=
  let h := satAdd f.h 1 65535
  if !f.started then f
  else { f with h := h, qaThisHour := false
                g := if starve < h then satAdd f.g (if f.qaThisHour then 100 else 400) 500000 else f.g }

/-- ANCHOR_HOUR (R189): at every whole hour since T6. -/
def execAnchorHour (s : State) : Res :=
  let s := fresh s
  let d := s.time.beat - s.est.t6Beat
  if awake s && s.st.mode.fromArmed && s.est.running && decide (0 < d ∧ d % 3600000 = 0) && !hadTurn .hour s then
    let s := takeTurn .hour s
    .next { s with est := { s.est with filters := s.est.filters.map (hourStep (starveH s)) } }
  else .next s

/-- U_p in ppm (R189). -/
def uncert (k : Nat) (f : Filter) : Nat :=
  let p := fMul (fC 2 1) (fSqrt (matAt f.cov 0 0))
  let g := fOfInt (f.g : Int)
  min 1000000 (ratFree k (fToRat (fSqrt (fAdd (fMul p p) (fMul g g))))).toNat

/-! ### Usable energy and early warnings (R190, R191, R193) -/

/-- One position as R190 reads it: state of charge as a fraction, Q_p in Ah, set, T_p, derating as a fraction. -/
structure WinPos where
  soc : Rat
  q : Rat
  set : Nat
  t : Rat
  d : Rat

/-- What R190 computes: qd and qc in Ah, e_dis and e_chg in Wh. -/
structure Window where
  qd : Rat
  qc : Rat
  eDis : Rat
  eChg : Rat

/-- The least of a list. -/
def leastR (l : List Rat) : Rat := l.foldl min (l.headD 0)

/-- The usable window of the string (R190). -/
def windowR (s : State) (l : List WinPos) : Window :=
  let qd := leastR (l.map (fun x => max 0 (x.soc - (1 - x.d)) * x.q))
  let qc := leastR (l.map (fun x => (1 - x.soc) * x.q))
  let f := fun (x : WinPos) y => ocvInt s x.set y x.t
  let sum := fun (g : WinPos → Rat) => (l.map g).foldl (fun a b => a + b) 0
  { qd := qd, qc := qc
    eDis := sum (fun x => if x.q = 0 then 0 else x.q * (f x x.soc - f x (x.soc - qd / x.q)))
    eChg := sum (fun x => if x.q = 0 then 0 else x.q * (f x (x.soc + qc / x.q) - f x x.soc)) }

/-- eps_dis and eps_chg in ppm. -/
def Window.eps (w : Window) : Rat × Rat :=
  let t := w.eDis + w.eChg
  if t = 0 then (0, 0) else (w.eDis / t * 1000000, w.eChg / t * 1000000)

/-- The positions by one source of state of charge in ppm; a position without a value of that source takes no part
(log 22). -/
def winPositions (s : State) (soc : Filter → Option Rat) : List WinPos :=
  (s.est.filters.mapIdx (fun p f => (p, f))).filterMap (fun x =>
    let f := x.2
    let set := setOf s x.1
    if f.started then
      (soc f).map (fun v => { soc := v / 1000000, q := fToRat f.qCap / 1000, set := set, t := f.tP
                              d := derate s set f.tP (rateOf s x.1 f) / 1000000 })
    else none)

/-- The warning level Wk, k = 0 to 2, of a direction. -/
def warnLevel (l : List Nat) (k : Nat) : Nat := orDef ((l[k]?).getD 0) (([100000, 50000, 20000][k]?).getD 0)

/-- One live bit after an evaluation (R191): set when a source meets the level, cleared when all are 1 % above. -/
def liveBit (lvl : Nat) (eps : List Rat) (was : Bool) : Bool :=
  if eps.any (fun e => decide (e ≤ (lvl : Rat))) then true
  else if eps.all (fun e => decide ((lvl : Rat) + 10000 ≤ e)) then false else was

/-- The live bits, latches and SRC after an evaluation; `eps` lists (dis, chg) of fused, coulomb and voltage. -/
def judgeWarn (s : State) (eps : List (Option (Rat × Rat))) : State :=
  let c := estCfg s
  let e := s.est
  (List.range 6).foldl (fun s b =>
    let dis := decide (b < 3)
    let lvl := warnLevel (if dis then c.wDis else c.wChg) (b % 3)
    let all : List (Option Rat) := eps.map (fun x => x.map (fun y => if dis then y.1 else y.2))
    let was := e.live.testBit b
    let is := liveBit lvl (all.filterMap id) was
    let s := { s with est := { s.est with live := if is then s.est.live ||| 2 ^ b else s.est.live &&& (63 ^^^ 2 ^ b) } }
    if is && !was then
      let src := (all.map (fun x => (x.map (fun y => decide (y ≤ (lvl : Rat)))).getD false)).findIdx id
      setAgain 0x902C (2 ^ (8 + b)) { s with est := { s.est with latch := s.est.latch ||| 2 ^ b, src := src % 3 } }
    else s) s

/-- A value and its position: the least or the greatest by an order. -/
def bestBy (lt : Rat → Rat → Bool) (l : List (Nat × Rat)) : Nat × Rat :=
  match l with
  | [] => (0, 0)
  | x :: r => r.foldl (fun m y => if lt y.2 m.2 then y else m) x

/-- Reported state of charge. -/
def repSoc (f : Filter) : Rat := max 0 (min 1000000 f.soc)

/-- The eight words of a position (Table 07-10). No rule rounds them (log 7). -/
def posWords (s : State) (p k : Nat) (f : Filter) : List Word :=
  let r20 := fun j (x : Rat) => (clampI 0 50000 (ratFree (k + j) (x / 20))).toNat
  let rated : Rat := ratedQ s (setOf s p)
  let ratio := if rated = 0 then 0 else fToRat f.qCap / rated * 10000
  let g := (specAt s p).g
  let rg := (g.map (fun g => clampI (-32768) 32767 (ratFree (k + 5) ((g - 1) * 10000)))).getD 0
  let qaMin := match (specAt s p).qaBeat with
    | some b => min 65535 ((s.time.beat - b) / 60000)
    | none => 65535
  [ toW (ratFree k (repSoc f)).toNat,
    toW (fld (min 50000 ((uncert (k + 1) f) / 20)) 16 16 + fld (f.g / 10) 0 16),
    toW (fld (r20 2 ((f.sCC : Rat) / 1000000)) 16 16 + fld ((f.sV.map (r20 3)).getD 0) 0 16),
    intW (ratFree (k + 4) (fToRat f.qCap)),
    toW (fld (min 65535 (ratFree (k + 6) (2 * fToRat f.uQ / 10)).toNat) 16 16 +
      fld (min 65535 (ratFree (k + 7) ratio).toNat) 0 16),
    toW (fld (intField rg 16) 16 16 + fld f.drift 0 16),
    toW (bitAt true 31 + bitAt f.seeded 7 + bitAt f.tempDefault 6 + bitAt (decide (starveH s ≤ f.h)) 5 + bitAt f.a1.isSome 4 +
      bitAt f.capReject 3 + bitAt f.capSuspect 2 + bitAt f.disagree 1 + bitAt (posRest s f) 0),
    toW (fld f.h 16 16 + fld qaMin 0 16) ]

/-- The summary of R193 with the registers of Table 07-8. -/
def summary (s : State) (w : Window) (eps : Option Rat × Option Rat) : EstSum :=
  let fs := (s.est.filters.mapIdx (fun p f => (p, f))).filter (fun x => x.2.started)
  let k := s.freeCtr
  let socs := fs.map (fun x => (x.1, repSoc x.2))
  let lo := bestBy (fun a b => decide (a < b)) socs
  let hi := bestBy (fun a b => decide (b < a)) socs
  let caps := fs.map (fun x =>
    let r : Rat := ratedQ s (setOf s x.1)
    (x.1, if r = 0 then 0 else fToRat x.2.qCap / r * 10000))
  let cap := bestBy (fun a b => decide (a < b)) caps
  let rgs := fs.map (fun x => (x.1, (((specAt s x.1).g.map (fun g => (g - 1) * 10000)).getD 0)))
  let rg := bestBy (fun a b => decide (b < a)) rgs
  let t := w.qd + w.qc
  let nat := fun j (x : Rat) => (ratFree (k + j) x).toNat
  let secs := s.est.restBeats / 1000
  { beat := s.time.beat, socStr := if t = 0 then 0 else nat 0 (w.qd / t * 1000000)
    socStrU := (fs.map (fun x => uncert (k + 1) x.2)).foldl max 0, eDis := nat 2 w.eDis, eChg := nat 3 w.eChg
    qStr := nat 4 (t * 1000), socMin := (lo.1, nat 5 lo.2), socMax := (hi.1, nat 6 hi.2), capMin := (cap.1, nat 7 cap.2)
    rgMax := (rg.1, ratFree (k + 8) rg.2)
    restWord := toW (bitAt s.est.rest 31 + fld (min 16777215 secs) 0 24)
    anchorWord := toW (fld ((s.est.filters.map (·.h)).foldl max 0) 16 16 + fld s.est.trueCount 0 16)
    disagree := (s.est.filters.filter (·.disagree)).length, suspect := (s.est.filters.filter (·.capSuspect)).length
    pages := s.est.filters.mapIdx (fun p f => posWords s p (k + 10 + 8 * p) f), epsDis := eps.1, epsChg := eps.2 }

/-- WARNING_EVALUATION (R190, R191, R193): at tick 330 of every multiple of 100. -/
def execWarningEvaluation (s : State) : Res :=
  let s := fresh s
  if awake s && s.st.mode.fromArmed && s.est.running && decide (s.time.beat % 100 = 0) && mayAct .warning 330 s &&
      !workStopped .warning 0 s then
    let s := actAt .warning 330 s
    let one := fun (soc : Filter → Option Rat) =>
      let l := winPositions s soc
      if l.isEmpty then none else some (windowR s l)
    let fused := one (fun f => some f.soc)
    let ws : List (Option Window) :=
      [fused, one (fun f => some ((f.sCC : Rat) / 1000000)), one (fun f => f.sV)]
    let eps := ws.map (fun w => w.map Window.eps)
    let all := eps.filterMap id
    let s := judgeWarn s eps
    let least := fun (f : Rat × Rat → Rat) => if all.isEmpty then none else some (leastR (all.map f))
    let sum := summary s (fused.getD { qd := 0, qc := 0, eDis := 0, eChg := 0 }) (least (·.1), least (·.2))
    .next (tookFree (10 + 8 * s.est.filters.length)
      { s with est := { s.est with sumNext := some sum } })
  else .next s

/-- At tick 330 of the beat after it the summary is shown (07 Registers). -/
def summaryShow (s : State) : State :=
  match s.est.sumNext with
  | some x => if x.beat < s.time.beat then { s with est := { s.est with sum := x, sumNext := none } } else s
  | none => s

/-! ### Seeds and the start at T6 (R180, R194) -/

/-- A filter at T6. q_p counts from 0 at T6, the start of a beat: the charge of the beat before, which the counter takes in at
tick 20, is no part of it, and the first step begins at the end of that beat (DEDUCED, log 22). -/
def filterT6 (s : State) (p : Nat) : Filter :=
  let f : Filter :=
    { (default : Filter) with tP := 2500, tempDefault := true, h := starveH s, lastBeat := s.time.beat - 1
                              qSeen := chargeUc (chargeCommit s).meas, qCap := fOfInt (ratedQ s (setOf s p) : Nat) }
  match s.est.seeds.find? (fun x => x.pos == p) with
  | some x =>
    let z := fZero
    let u : Rat := (x.socU : Rat) / 2
    let fv := fun k => fAbs (BitVec.ofInt 32 (Config.freeInt (s.freeCtr + 2 * p + k)))
    { f with started := true, seeded := true, s := (x.soc : Int) * 1000000, sCC := (x.soc : Int) * 1000000, v1 := z, v2 := z
             qCap := fOfInt (x.q : Nat), uQ := fOfRat ((x.qU : Rat) / 2), h := x.hours
             g := min 500000 (400 * (x.hours - starveH s)), capSuspect := x.suspect
             cov := [fOfRat (u * u), z, z, z, fv 0, z, z, z, fv 1], rate := [(s.time.beat - 1, 0)] }
  | none => f

/-- T6: one filter for every mapped position, and the spectroscopy states (R173, R180, R194; 06 R151, R167). -/
def estStart (s : State) : State :=
  let n := s.meas.pos.length
  let filters := (List.range n).map (filterT6 s)
  let est := { s.est with running := true, filters := filters, t6Beat := s.time.beat, restStart := none, restBeats := 0
                          rest := false, live := 0, trueCount := 0 }
  let spec : Spectra :=
    { (default : Spectra) with pos := List.replicate n PosSpec.start, str := List.replicate 31 SpecAcc.start
                               strReq := List.replicate 31 SpecAcc.start, slots := List.replicate 16 default
                               nextRound := upTo 100 (s.time.beat + 50) }
  let acc : Accord := { (default : Accord) with win := AccWin.start, winPrev := AccWin.start }
  tookFree (2 * n) { s with est := est, spec := spec, meas := { s.meas with acc := acc } }

/-- A seed's values pass for a position (R194). -/
def seedOk (s : State) (p : Nat) : Bool :=
  let e := s.est
  let r := ratedQ s (setOf s p)
  decide (e.seedSoc ≤ 1000000) && decide (1 ≤ e.seedSocU ∧ e.seedSocU ≤ 1000000) &&
  decide (r ≤ 2 * e.seedQ ∧ 10 * e.seedQ ≤ 12 * r) && decide (0 < e.seedQU)

/-- A seed stored for a position; a later one replaces it. -/
def putSeed (p : Nat) (e : Est) : Est :=
  let x : Seed := { pos := p, soc := e.seedSoc, socU := e.seedSocU, q := e.seedQ, qU := e.seedQU
                    hours := wBits e.seedAge 31 16, suspect := wBit e.seedAge 0 }
  { e with seeds := e.seeds.filter (fun y => y.pos != p) ++ [x] }

/-- SEED_CTRL (R194, Table 07-11). -/
def seedCtrlWrite (v : Word) (s : State) : State :=
  let res := fun n (s : State) => { s with est := { s.est with seedResult := n } }
  if !wBit v 31 then s
  else if s.st.mode != .loaded then res 2 s
  else
    let n := s.meas.pos.length
    let l := if wBit v 30 then List.range n else [wBits v 9 0]
    if l.any (fun p => decide (n ≤ p)) then res 3 s
    else if !l.all (seedOk s) then res 1 s
    else res 0 { s with est := l.foldl (fun e p => putSeed p e) s.est }

/-- REF_RESET drops every reference spectrum (R192). -/
def refReset (s : State) : State :=
  { s with est := { s.est with filters := s.est.filters.map (fun f => { f with refSpec := none }) } }

/-! ### Registers (Tables 07-5 to 07-11) -/

/-- EST_STATUS (Table 07-6). -/
def estStatus (s : State) : Word :=
  let e := s.est
  let any := fun (f : Filter → Bool) => e.filters.any f
  toW (bitAt (any (fun f => decide (starveH s ≤ f.h))) 12 + bitAt (any (·.disagree)) 11 + bitAt (any (·.capSuspect)) 10 +
    bitAt e.capRejectSeen 9 + bitAt e.capLearnt 8 + bitAt e.anchorTrue 7 + bitAt (any (·.tempDefault)) 6 +
    bitAt (e.running && decide (s.lim.fDie < 1000000)) 5 + bitAt (estLag s) 4 + bitAt e.rest 3 + bitAt (any (·.seeded)) 2 +
    bitAt e.running 0)

/-- The words of the estimation block for a session. -/
def estRead (i : Fin 32) (o : Nat) (s : State) : Word :=
  let e := s.est
  let m := e.sum
  let pv := fun (x : Nat × Nat) => toW (fld x.1 20 10 + fld x.2 0 20)
  match o with
  | 0x000 => estStatus s
  | 0x004 => toW (fld s.host.sess[i].estPage 0 4)
  | 0x008 => toW m.beat
  | 0x00C => toW (m.beat / 2 ^ 32)
  | 0x010 => toW (fld m.socStr 0 20)
  | 0x014 => toW (fld m.socStrU 0 20)
  | 0x018 => toW m.eDis
  | 0x01C => toW m.eChg
  | 0x020 => toW m.qStr
  | 0x024 => pv m.socMin
  | 0x028 => pv m.socMax
  | 0x02C => toW (fld e.src 20 2 + fld e.latch 8 6 + fld e.live 0 6)
  | 0x030 => m.restWord
  | 0x034 => m.anchorWord
  | 0x038 => toW (fld m.capMin.2 16 16 + intField m.rgMax.2 16)
  | 0x03C => toW (fld m.capMin.1 16 10 + fld m.rgMax.1 0 10)
  | 0x040 => toW (fld m.disagree 16 11 + fld m.suspect 0 11)
  | 0xA04 => toW e.seedSoc
  | 0xA08 => toW e.seedSocU
  | 0xA0C => toW e.seedQ
  | 0xA10 => toW e.seedQU
  | 0xA14 => e.seedAge
  | 0xA18 => toW (fld e.seedResult 24 8 + fld e.seeds.length 0 11)
  | _ =>
    if 0x100 ≤ o ∧ o < 0x900 then
      match m.pages[64 * s.host.sess[i].estPage + (o - 0x100) / 32]? with
      | some l => (l[(o - 0x100) % 32 / 4]?).getD 0
      | none => 0
    else 0

/-- An RWA value: refused from ARMED on where it would change (00 R9, Table 00-9). -/
def rwa (s : State) (old new : Nat) (f : State → State) : RspCode × State :=
  if s.st.mode.fromArmed && old != new then (.access, s) else (.ok, f s)

/-- Writes to the estimation block. -/
def estWrite (i : Fin 32) (o : Nat) (v : Word) (s : State) : RspCode × State :=
  let e := s.est
  match o with
  | 0x000 =>
    (.ok, { s with est := { e with capRejectSeen := e.capRejectSeen && !wBit v 9, capLearnt := e.capLearnt && !wBit v 8
                                   anchorTrue := e.anchorTrue && !wBit v 7 } })
  | 0x004 =>
    let s := modSess i (fun x => { x with estPage := wBits v 3 0 }) s
    (.ok, if wBit v 31 then refReset s else s)
  | 0x02C => (.ok, { s with est := { e with latch := e.latch &&& (63 ^^^ wBits v 13 8) } })
  | 0xA00 => (.ok, seedCtrlWrite v s)
  | 0xA04 => rwa s e.seedSoc (wBits v 19 0) (fun s => { s with est := { e with seedSoc := wBits v 19 0 } })
  | 0xA08 => rwa s e.seedSocU (wBits v 19 0) (fun s => { s with est := { e with seedSocU := wBits v 19 0 } })
  | 0xA0C => rwa s e.seedQ v.toNat (fun s => { s with est := { e with seedQ := v.toNat } })
  | 0xA10 => rwa s e.seedQU v.toNat (fun s => { s with est := { e with seedQU := v.toNat } })
  | 0xA14 =>
    let w := v &&& 0xFFFF0001
    rwa s e.seedAge.toNat w.toNat (fun s => { s with est := { e with seedAge := w } })
  | _ => (.ok, s)

end Sys2Proof.Machine
end

