-- ==== Sys2Proof/Machine/Cells.lean ====
section
/-! DEFINITION. Cell-resolved supervision of parallel groups (08): tap commits, the round's update of every cell record,
its findings, their effects, and the cell record window with the cell summary area. Shares are FP32 like the code of
R200 (log 12). -/

namespace Sys2Proof.Machine

/-- Supervision runs: the states of R173 with section 0x04 present (R199). -/
def cellRun (s : State) : Bool :=
  s.est.running && s.st.mode.fromArmed && ((s.cal.bind (·.payload 4)).isSome)

/-- A tap at T6 (R201, R202, R208). -/
def Tap.start (p j : Nat) (c : TapRec) : Tap :=
  { (default : Tap) with pos := p, tap := j, cfg := c, tq := .stale, age := 255 }

/-- Cell index of a tap (00 R7). -/
def Tap.cell (t : Tap) : Nat := t.pos * 256 + t.tap

/-- T6: one record for each tap in ascending cell index, κ 1.0 and every tap live (R197, R201). -/
def cellsStart (s : State) : State :=
  let l := (s.cal.map (·.taps)).getD []
  let taps := (l.mapIdx (fun p ts => ts.mapIdx (fun j c => Tap.start p j c))).flatten
  let pos := l.map (fun ts => ({ (default : CellPos) with kappa := fOne, nLive := ts.length, nLiveNext := ts.length } : CellPos))
  { s with cells := { (default : Cells) with taps := taps, pos := pos } }

/-! ### Tap commits (05 R119, R137; 04 R96) -/

/-- The taps of a node in the order of its plan, as (position, tap). -/
def planTaps (s : State) (n : NodeMap) : List (Nat × Nat) :=
  (((n.locals.filterMap n.stringPos).flatMap (fun p => (List.range (tapCount s p)).map (fun j => (p, j))))).take n.tapCh

/-- What the beat m brought of a tap, from the AUX accepted for it. -/
def tapNow (s : State) (m p : Nat) (e : TapEntry) : Option TapNow :=
  match s.spec.hist.find? (fun r => r.beat == m) with
  | some r => some { drop := e.drop, code := if e.tq = 0 then .valid else .suspect, ia := posCurrent p r
                     tp := if s.cells.tps.1 = m then (s.cells.tps.2[p]?).getD 2500 else (filterAt s p).tP }
  | none => none

/-- The node's plan was complete before the round that a beat lies in began (R213, 04 R114). -/
def planStands (s : State) (m a : Nat) : Bool :=
  let r := nodeRec s a
  decide ((tapPlanOf s a).length ≤ r.planNext) && decide (r.planBeat < m - m % 1000)

/-- T_p of every position, as in force at this beat's instant (R200). -/
def tapTemps (s : State) : State :=
  { s with cells := { s.cells with tps := (s.time.beat, s.est.filters.map (·.tP)) } }

/-- At tick 330 of a beat the taps converted in the beat before are committed; a new round starts with none. -/
def tapCommit (s : State) : State :=
  let m := s.time.beat - 1
  let b := m % 1000
  let taps := if b = 0 then s.cells.taps.map (fun t => { t with now := none }) else s.cells.taps
  if !cellRun s || decide (820 ≤ b) || e8Dropped s then { s with cells := { s.cells with taps := taps } }
  else
    let got : List (Nat × Nat × TapEntry) := (chainMap s).nodes.flatMap (fun n =>
      match (if planStands s m (addrOf s n) then auxOf s (addrOf s n) else none) with
      | some a => (((planTaps s n).drop (5 * b)).take 5).filterMap (fun x =>
          let mux := (((s.cal.bind (fun c => c.taps[x.1]?)).getD [])[x.2]?).map (·.mux)
          (a.taps.find? (fun e => some e.mux == mux)).map (fun e => (x.1, x.2, e)))
      | none => [])
    let taps := taps.map (fun t => match got.find? (fun g => g.1 == t.pos && g.2.1 == t.tap) with
      | some g => { t with now := tapNow s m t.pos g.2.2 }
      | none => t)
    { s with cells := { s.cells with taps := taps } }

/-! ### The round's update (R200 to R208) -/

/-- The code of the round (05 R137). -/
def Tap.code (t : Tap) : Qual := (t.now.map (·.code)).getD .missed

/-- r_t in Ω, i_raw and ρ of R200 for what the round brought. -/
def fuseR (c : TapRec) (x : TapNow) : F32 :=
  fMul (fMul (fOfInt c.rfuse) (fC 1 1000000000))
    (fAdd fOne (fMul (fMul (fOfInt c.ftc) (fC 1 1000000)) (fSub (fOfRat (x.tp / 100)) (fC 25 1))))

/-- i_raw of R200. -/
def rawI (c : TapRec) (x : TapNow) : F32 := fDiv (fMul (fOfInt x.drop) (fC 1 10000000)) (fuseR c x)

/-- ρ of R200. -/
def rho (c : TapRec) (x : TapNow) : F32 := fDiv (rawI c x) x.ia

/-- The position was at rest in every second of the present round, up to now (R206): the string's rest and the
position's began before the round did. -/
def restRoundAt (s : State) (p : Nat) : Bool :=
  posRest s (filterAt s p) &&
  decide (orDef (estCfg s).restT 120 * 1000 + s.time.beat % 1000 ≤ s.est.restBeats + 1)

/-- A share round for the tap (R200). -/
def Tap.shares (rest : Bool) (rated : Nat) (t : Tap) : Bool :=
  match t.now with
  | some x => !rest && x.code == .valid && decide ((rated : Rat) ≤ ratAbs (fToRat x.ia) * 20000)
  | none => false

/-- κ after the round (R201). -/
def kappaStep (complete : Bool) (sum : F32) (c : CellPos) : CellPos :=
  if !complete || c.noCal then c
  else
    let k := fDiv fOne sum
    if fLe (fC 8 10) k && fLe k (fC 125 100) then
      { c with kappa := fAdd c.kappa (fDiv (fSub k c.kappa) (fC 64 1)), kappaValid := true, bad := 0 }
    else { c with bad := c.bad + 1, noCal := decide (10 ≤ c.bad + 1) }

/-- Code and age of the round (R208), and what a VALID drop gives (R200), with the scale in force before the round's
update. `k` numbers the free roundings. -/
def Tap.convert (kappa : F32) (k r : Nat) (t : Tap) : Tap :=
  let t := { t with round := r, shareRound := false, restRound := false }
  match t.now with
  | some x =>
    if x.code = .valid then
      let rt := fuseR t.cfg x
      let ic := ratFree k (fToRat (fMul kappa (rawI t.cfg x)) * 100000)
      { t with tq := .valid, age := 0, everValid := true, drop := x.drop, iCell := ic, tFuse := ratFree k x.tp
               rFuseT := (ratFree k (fToRat rt * 1000000000)).toNat
               iMin := if t.everValid then min t.iMin ic else ic, iMax := if t.everValid then max t.iMax ic else ic
               qAbs := t.qAbs + 10 * ic.natAbs }
    else
      let age := if t.everValid then satAdd t.age 1 255 else 255
      { t with age := age, tq := if age > 10 then .stale else x.code }
  | none =>
    let age := if t.everValid then satAdd t.age 1 255 else 255
    { t with age := age, tq := if age > 10 then .stale else .missed }

/-- Shares and the findings they make (R202 to R205). -/
def Tap.shareStep (nLive r : Nat) (kappa : F32) (t : Tap) : Tap :=
  match t.now with
  | none => t
  | some x =>
    let sh := fMul (fMul (fMul (fOfInt nLive) kappa) (rho t.cfg x)) (fC 1000000 1)
    let shareF := if t.shareN = 0 then sh else fAdd t.shareF (fDiv (fSub sh t.shareF) (fC 16 1))
    let n := satAdd t.shareN 1 65535
    let base := if t.shareN = 599 then shareF else t.shareBase
    let drift := if 600 ≤ n then fSub shareF base else fZero
    let low := if fLt sh (fC 50000 1) then satAdd t.lowRun 1 65535 else 0
    let inter := if t.opened && fLe (fC 500000 1) sh then satAdd t.interRun 1 65535 else 0
    let weak := decide (600 ≤ n) && (fLe (fC 50000 1) (fAbs drift) || fLe (fC 150000 1) (fAbs (fSub shareF (fC 1000000 1))))
    let opens := !t.opened && decide (3 ≤ low)
    { t with share := sh, shareF := shareF, shareN := n, shareBase := base, drift := drift
             lowRun := low, interRun := inter, intermittent := t.intermittent || decide (10 ≤ inter)
             weak := t.weak || weak, weakRound := if weak && !t.weak then r else t.weakRound
             opened := t.opened || opens, openRound := if opens then r else t.openRound }

/-- The judgement of a rest round (R206, R207): 60 rounds fill the mean, and the dwell counts the rounds after them. -/
def Tap.restStep (nLive k r : Nat) (kappa : F32) (t0 : Tap) : Tap :=
  let t := t0
  match t.now with
  | none => t
  | some x =>
    let xc := fSub (fDiv x.ia (fOfInt nLive)) (fMul kappa (rawI t.cfg x))
    let xs := (xc :: t.xs).take 60
    let sum : Rat := (xs.map fToRat).foldl (fun a b => a + b) 0
    let m : Rat := sum / 60
    let t := { t with restRound := true, xs := xs, iRest := ratFree k (fToRat xc * 100000) }
    if xs.length < 60 then t
    else if t0.xs.length < 60 then { t with mC := m }
    else if m < 5 / 1000 then { t with mC := m, dwell := 0 }
    else
      let dwell := satAdd t.dwell 1 65535
      let m0 := if t.dwell = 0 then m else t.mStart
      let sets := decide (dwell = 600) && decide (7 / 10 * m0 ≤ m)
      { t with mC := m, mStart := m0, dwell := if dwell = 600 ∧ sets = false ∧ t.short = false then 0 else dwell
               short := t.short || sets, shortRound := if sets && !t.short then r else t.shortRound }

/-- SHARE_HIST at a round whose number is a multiple of 3 600 (Table 08-2). -/
def Tap.histStep (k r : Nat) (t : Tap) : Tap :=
  if r % 3600 = 0 then
    { t with hist := (clampI (-32767) 32767 (ratFree k ((fToRat t.shareF - 1000000) / 100)) :: t.hist).take 32 }
  else t

/-- The group of one position through the round: its record and its taps. -/
def groupRound (s : State) (r p : Nat) (c : CellPos) (ts : List Tap) : CellPos × List Tap :=
  let rest := restRoundAt s p
  let rated := ratedQ s (setOf s p)
  let k := s.freeCtr + p * 256
  let live := ts.filter (fun t => !t.opened)
  let complete := !live.isEmpty && live.all (Tap.shares rest rated)
  let sum := live.foldl (fun a t => match t.now with
    | some x => fAdd a (rho t.cfg x)
    | none => a) fZero
  let c' := kappaStep complete sum c
  let ts := ts.map (fun t =>
    let wasLive := !t.opened
    let t' := { t.convert c.kappa (k + t.tap) r with shareRound := t.shares rest rated }
    let t' := if t.shares rest rated && !c'.noCal then t'.shareStep c.nLive r c'.kappa else t'
    let t' :=
      if !rest then { t' with xs := [], dwell := 0 }
      else if wasLive && t.code == .valid then t'.restStep c.nLive (k + t.tap) r c'.kappa
      else t'
    t'.histStep (k + t.tap) r)
  ({ c' with restRound := rest, nLiveNext := (ts.filter (fun t => !t.opened)).length }, ts)

/-! ### Findings (R212) -/

/-- The findings of a tap between its states before and after. -/
def tapFindings (k nLive : Nat) (a b : Tap) : List Finding :=
  let sf := intW (ratFree k (fToRat b.shareF))
  let one := fun (on : Bool) (kind : Nat) (v : Word) =>
    if on then [({ kind := kind, cell := b.cell, value := v, nLive := nLive } : Finding)] else []
  one (b.weak && !a.weak) 1 sf ++ one (b.opened && !a.opened) 2 sf ++
  one (b.short && !a.short) 3 (intW (ratFree k (b.mC * 100000))) ++ one (b.intermittent && !a.intermittent) 4 sf

/-- The four words of a cell event item (Table 08-3). -/
def Finding.words (r : Nat) (f : Finding) : List Word :=
  [toW (fld f.kind 29 3 + fld f.cell 0 18), toW r, f.value, toW (fld f.nLive 16 9)]

/-- A finding entered in the journal and in the queues, with CS_LAST and the NEW_ bits. -/
def enterFinding (r : Nat) (s : State) (f : Finding) : State :=
  let s := offerContent 5 (f.words r) (jnl 0x0B 0xFF (f.words r) s)
  let s := setAgainIf (decide (1 ≤ f.kind ∧ f.kind ≤ 3)) 0x14000000 (2 ^ f.kind) s
  let c := s.cells
  { s with cells := { c with lastKind := f.kind, lastCell := f.cell, newWeak := c.newWeak || f.kind == 1
                             newOpen := c.newOpen || f.kind == 2, newShort := c.newShort || f.kind == 3 } }

/-- Groups and taps after round r, from those before it, with the findings in ascending cell index (R209, R212). -/
def roundGroups (r : Nat) (pos : List CellPos) (taps : List Tap) (s : State) : List (CellPos × List Tap) × List Finding :=
  let k := s.freeCtr
  let groups := pos.mapIdx (fun p c => groupRound s r p c (taps.filter (fun t => t.pos == p)))
  let finds := (groups.mapIdx (fun p g =>
    let was := (pos[p]?).getD default
    let n := g.1.nLiveNext
    let noCal : List Finding :=
      if g.1.noCal && !was.noCal then
        [{ kind := 5, cell := p * 256, value := intW (ratFree (k + p) (fToRat g.1.kappa * 65536)), nLive := n }]
      else []
    noCal ++ ((taps.filter (fun t => t.pos == p)).zip g.2).flatMap (fun x =>
      tapFindings (k + p * 256 + x.2.tap) n x.1 x.2))).flatten
  (groups, finds)

/-- The records of round r rewritten whole from what stood before it (R209). -/
def cellUpdate (r : Nat) (pos : List CellPos) (taps : List Tap) (s : State) : State :=
  let g := roundGroups r pos taps s
  tookFree (256 * pos.length)
    { s with cells := { s.cells with taps := g.1.flatMap (·.2), pos := g.1.map (·.1), round := some r, findings := g.2
                                     before := some (pos, taps) } }

/-- The findings of the newest round are entered, and its update stands (R212). -/
def cellSettle (s : State) : State :=
  let c := s.cells
  c.findings.foldl (enterFinding (c.round.getD 0)) { s with cells := { c with findings := [], before := none } }

/-- A group whose newest round counts as a rest round is no longer at rest in it. -/
def restEnded (s : State) : Bool := s.cells.pos.zipIdx.any (fun x => x.1.restRound && !restRoundAt s x.2)

/-- At the charge commit of a beat: a rest that ends within the round makes its update anew, as no rest round (R213); in
beat 999, whose tick 330 completes the records (R209), the update stands. -/
def cellReview (s : State) : State :=
  match s.cells.before with
  | some b =>
    let r := s.cells.round.getD 0
    if s.time.beat / 1000 = r then
      let s := if restEnded s then cellUpdate r b.1 b.2 s else s
      if s.time.beat % 1000 = 999 then cellSettle s else s
    else cellSettle s
  | none => s

/-- CELL_ROUND_UPDATE (R199 to R209, R211 to R213): from the beat after the last tap commit of the round to tick 330 of
beat 999. The rest of a round is judged by the beats whose charge is counted by then (DEDUCED, log 23): while a group is
at rest the round's findings wait for beat 999. An overrun of the item leaves the round's records uncommitted. -/
def execCellRoundUpdate (s : State) : Res :=
  let s := fresh s
  let r := s.time.beat / 1000
  let b := s.time.beat % 1000
  if awake s && cellRun s && decide (821 ≤ b) && (b != 999 || decide (tickOf s ≤ 330)) && s.cells.round != some r &&
      s.cells.lost != some r then
    if workStopped .cells 0 s then .next { s with cells := { s.cells with lost := some r } }
    else
      let s := cellUpdate r s.cells.pos s.cells.taps s
      .next (if b = 999 || !s.cells.pos.any (·.restRound) then cellSettle s else s)
  else .next s

/-- The effects of a round's findings (R210): one scaling of Q_p for all the taps of a position that opened; and
the values offered to the loops (R211). -/
def roundEffects (s : State) : State :=
  let s := s.cells.pos.zipIdx.foldl (fun s x =>
    if x.1.nLiveNext = x.1.nLive then s
    else modFilter x.2 (fun f => { f with
      qCap := fOfRat (fToRat f.qCap * (x.1.nLiveNext : Rat) / (x.1.nLive : Rat)), capSuspect := true }) s) s
  let live := (s.cells.taps.filter (fun t => !t.opened)).map (fun t => fToRat t.shareF)
  let top : Option Rat := match live with
    | [] => none
    | x :: l => some (l.foldl max x)
  { s with cells := { s.cells with pos := s.cells.pos.map (fun c => { c with nLive := c.nLiveNext }), offered := true
                                   shareMax := top } }

/-- ROUND_EFFECT (R209, R210): at tick 0 of the first beat of the next round. -/
def execRoundEffect (s : State) : Res :=
  let s := fresh s
  if awake s && cellRun s && decide (s.time.beat % 1000 = 0) && decide (s.time.ns = 0) && s.cells.round.isSome then
    .next (roundEffects (cellSettle s))
  else .next s

/-! ### The cell record window and the summary area (Tables 08-2, 08-6 to 08-10) -/

/-- STATE of a cell record (Table 08-1). -/
def Tap.state (noCal : Bool) (t : Tap) : Nat :=
  if t.short then 5 else if t.opened then 4 else if t.weak then 3 else if noCal then 6
  else if t.shareN < 600 then 1 else 2

/-- Two 16-bit halves as a word, low half first. -/
def halves (lo hi : Nat) : Word := toW (fld lo 0 16 + fld hi 16 16)

/-- A share register in ppm (log 7). -/
def shareWord (k : Nat) (x : F32) : Word := intW (ratFree k (fToRat x))

/-- SHARE_HIST entry j as 16 bits. -/
def Tap.histAt (t : Tap) (j : Nat) : Nat := intField ((t.hist[j]?).getD 0) 16

/-- One word of a cell record. -/
def Tap.word (c : CellPos) (w : Nat) (t : Tap) : Word :=
  match w with
  | 0 => toW t.cell
  | 1 => toW (fld t.pos 0 16 + fld t.tap 16 8 + fld (t.state c.noCal) 24 8)
  | 2 => halves t.cfg.mux (intField t.cfg.ftc 16)
  | 3 => toW t.cfg.rfuse
  | 4 => toW t.round
  | 5 => toW (fld t.tq.code 0 8 + fld t.age 8 8 + bitAt t.weak 16 + bitAt t.opened 17 + bitAt t.short 18 +
      bitAt t.intermittent 19 + bitAt c.noCal 20 + bitAt t.shareRound 21 + bitAt t.restRound 22)
  | 6 => intW t.drop
  | 7 => intW t.iCell
  | 8 => toW (intField t.tFuse 16)
  | 9 => toW t.rFuseT
  | 10 => shareWord t.round t.share
  | 11 => shareWord t.round t.shareF
  | 12 => shareWord t.round t.shareBase
  | 13 => shareWord t.round t.drift
  | 14 => halves t.shareN t.lowRun
  | 15 => intW t.iRest
  | 16 => intW (ratFree t.round (t.mC * 100000))
  | 17 => toW (fld t.dwell 0 16)
  | 18 => intW t.iMin
  | 19 => intW t.iMax
  | 20 => toW t.qAbs
  | 21 => toW (t.qAbs / 2 ^ 32)
  | 22 => toW t.openRound
  | 23 => toW t.weakRound
  | 24 => toW t.shortRound
  | 25 => toW t.hist.length
  | _ => if 26 ≤ w ∧ w < 42 then halves (t.histAt (2 * (w - 26))) (t.histAt (2 * (w - 26) + 1)) else 0

/-- The cell record window (00 R28, R197): zero where no tap has the cell index. -/
def cellWindow (o : Nat) (s : State) : Word :=
  match s.cells.taps.find? (fun t => t.cell == o / 256) with
  | some t => t.word ((s.cells.pos[t.pos]?).getD default) (o % 256 / 4)
  | none => 0

/-- The least live fraction with its position, in ppm (R211, Table 08-9); of equals the lowest position. -/
def liveMin (s : State) (live : CellPos → Nat) : Option (Nat × Rat) :=
  (s.cells.pos.zipIdx.filterMap (fun x => if tapCount s x.2 = 0 then none
    else some (x.2, (live x.1 : Rat) / (tapCount s x.2 : Rat) * 1000000))).foldl (fun m x => match m with
      | some y => if x.2 < y.2 then some x else m
      | none => some x) none

/-- The words of the cell summary area. -/
def cellSum (o : Nat) (s : State) : Word :=
  let c := s.cells
  let count := fun (f : Tap → Bool) => (c.taps.filter f).length
  match o with
  | 0x000 => toW (bitAt (c.pos.any (·.noCal)) 7 + bitAt (c.taps.any (·.short)) 6 + bitAt (c.taps.any (·.opened)) 5 +
      bitAt (c.taps.any (·.weak)) 4 + bitAt c.newShort 3 + bitAt c.newOpen 2 + bitAt c.newWeak 1 + bitAt (cellRun s) 0)
  | 0x004 => toW (c.round.getD 0)
  | 0x008 => toW c.taps.length
  | 0x00C => toW (count (·.opened))
  | 0x010 => toW (fld (min 65535 (count (·.short))) 16 16 + fld (min 65535 (count (·.weak))) 0 16)
  | 0x014 => toW (fld c.lastKind 29 3 + fld c.lastCell 0 18)
  | 0x018 => match c.round, liveMin s (·.nLiveNext) with
    | some r, some (p, f) => toW (fld p 20 10 + fld (ratFree r f).toNat 0 20)
    | _, _ => 0
  | _ =>
    match arrIdx o 0x100 8 1024, arrIdx o 0x104 8 1024 with
    | some p, _ => match c.pos[p]? with
      | some x => toW (fld x.nLiveNext 16 9 + fld (tapCount s p) 0 9)
      | none => 0
    | none, some p => match c.pos[p]? with
      | some x =>
        let any := fun (f : Tap → Bool) => c.taps.any (fun t => t.pos == p && f t)
        toW (fld (ratFree (c.round.getD 0) (fToRat x.kappa * 32768)).toNat 16 16 + bitAt x.kappaValid 5 +
          bitAt x.restRound 4 + bitAt (any (·.short)) 3 + bitAt (any (·.opened)) 2 + bitAt (any (·.weak)) 1 + bitAt x.noCal 0)
      | none => 0
    | none, none => 0

/-- Writes to the summary area: the NEW_ bits (00 R11). -/
def cellSumWrite (o : Nat) (v : Word) (s : State) : State :=
  if o = 0 then
    let c := s.cells
    { s with cells := { c with newShort := c.newShort && !wBit v 3, newOpen := c.newOpen && !wBit v 2
                               newWeak := c.newWeak && !wBit v 1 } }
  else s

end Sys2Proof.Machine
end

