-- ==== Sys2Proof/Machine/Jobs.lean ====
section
/-! DEFINITION. The job table (13 R330 to R332, Tables 13-7, 13-14, 13-15): a slot's start, end and words. -/

namespace Sys2Proof.Machine

/-- JOBj_STAT.STATE (Table 13-15). -/
def JobSt.code : JobSt → Nat
  | .idle => 0 | .running => 1 | .completed => 2 | .aborted => 3 | .failed => 4 | .refused => 5

/-- One slot changed. -/
def modJob (j : Nat) (f : Job → Job) (s : State) : State :=
  { s with host := { s.host with jobs := updNat s.host.jobs j f } }

/-- A slot. -/
def jobAt (s : State) (j : Nat) : Job := getNat s.host.jobs j

/-- The job has ended and is not cleared. -/
def Job.hasEnded (j : Job) : Bool := j.st != .idle && j.st != .running

/-- A start that runs: the slot holds the job from now (R330). -/
def jobStart (i : Fin 32) (j kind : Nat) (s : State) : State :=
  modJob j (fun x => { x with st := .running, abortLate := false, committed := false, session := i.val, kind := kind
                              detail := 0, start := s.time.beat, commit := 0, ended := 0, abortReq := false }) s

/-- A job that ends with a state and a DETAIL. -/
def jobEnd (j : Nat) (st : JobSt) (detail : Nat) (s : State) : State :=
  modJob j (fun x => { x with st := st, detail := detail, ended := s.time.beat, abortReq := false }) s

/-- A start refused: the job ends REFUSED at once (R330). -/
def jobRefuse (i : Fin 32) (j kind detail : Nat) (s : State) : State :=
  modJob j (fun x => { x with st := .refused, abortLate := false, committed := false, session := i.val, kind := kind
                              detail := detail, start := s.time.beat, commit := 0, ended := s.time.beat
                              abortReq := false }) s

/-- The commit point of a job has passed. -/
def jobCommitted (j : Nat) (s : State) : State :=
  modJob j (fun x => { x with committed := true, commit := s.time.beat }) s

/-- A contactor job is RUNNING (R330): PRECHARGE or CLOSE_MAIN. -/
def contactorJob (s : State) : Bool :=
  (List.range 8).any (fun j => (jobAt s j).st == .running && ((jobAt s j).kind == 1 || (jobAt s j).kind == 2))

/-- The RUNNING jobs of a KIND, by slot. -/
def runningOf (kind : Nat) (s : State) : List Nat :=
  (List.range 8).filter (fun j => (jobAt s j).st == .running && (jobAt s j).kind == kind)

/-- The RUNNING job of a KIND that started first. -/
def oldestOf (kind : Nat) (s : State) : Option Nat :=
  (runningOf kind s).foldl (fun b j => match b with
    | some i => if (jobAt s j).start < (jobAt s i).start then some j else b
    | none => some j) none

/-- A KIND of Table 13-7 and Table 16-7. -/
def kindOk (k : Nat) : Bool := k == 1 || k == 2 || k == 0x10 || k == 0x11 || k == 0x12

/-- CLEAR returns an ended slot to IDLE; of a RUNNING job it is refused (R332). -/
def jobClearWrite (j : Nat) (s : State) : RspCode × State :=
  match (jobAt s j).st with
  | .running => (.access, s)
  | .idle => (.ok, s)
  | _ => (.ok, modJob j (fun x => { (default : Job) with arg := x.arg }) s)

/-- JOBj_STAT. -/
def Job.statWord (j : Job) : Word :=
  if j.st = .idle then 0
  else toW (fld j.st.code 29 3 + bitAt j.abortLate 28 + bitAt j.committed 27 + fld j.session 16 5 + fld j.kind 8 8 +
    fld j.detail 0 8)

/-- The words of the job table. -/
def jobsRead (o : Nat) (s : State) : Word :=
  if o = 0 then
    toW (maskIf 8 (fun j => (jobAt s j).hasEnded) * 2 ^ 16 + maskIf 8 (fun j => (jobAt s j).st == .running))
  else if 0x40 ≤ o ∧ o < 0x140 then
    let j := jobAt s ((o - 0x40) / 0x20)
    match (o - 0x40) % 0x20 with
    | 4 => j.arg
    | 8 => j.statWord
    | 12 => toW j.start
    | 16 => toW j.commit
    | 20 => toW j.ended
    | _ => 0
  else 0

/-- A write of JOBj_ARG: refused while RUNNING. -/
def jobArgWrite (j : Nat) (v : Word) (s : State) : RspCode × State :=
  if (jobAt s j).st = .running then (.access, s) else (.ok, modJob j (fun x => { x with arg := v }) s)

end Sys2Proof.Machine
end

