-- ==== Sys2Proof/Machine/Limits.lean ====
section
/-! DEFINITION. Limits, loops, balancing and heat (09): loop inputs and arithmetic, gain scheduling, selection and
publication, thermal classes, balancing with the BEAT frame that carries its bits (04 R91), and the registers of the
block. -/

namespace Sys2Proof.Machine

/-- The loop engine runs (R219): from T6 onward. -/
def loopsOn (s : State) : Bool := awake s && s.st.mode.fromArmed && s.est.running

/-- The limits block at T6: every loop from its record, no T_eff, no plan (R218, R224, R232). -/
def limStart (s : State) : State :=
  match s.cal with
  | none => s
  | some c =>
    let loops := c.loops.map (fun x => ({ (default : LoopSt) with cfg := x, coefs := x.coefs } : LoopSt))
    let therm := c.therm.map (fun _ => ({ (default : ThermSt) with factor := 1000000 } : ThermSt))
    let n := s.lim
    { s with lim := { n with loops := loops, groups := List.replicate c.groups.length default, therm := therm
                             fTherm := 1000000, fDie := 1000000, plate := 0, plan := [], bleed := [], refPos := 0
                             bleedNc := 0, schedSwitch := false, envClamp := false, chgCold := false } }

/-! ### Inputs (Table 09-3, R217) -/

/-- The greatest or least of a list. -/
def extreme (most : Bool) (l : List Int) : Option Int :=
  match l with
  | [] => none
  | x :: r => some (r.foldl (if most then max else min) x)

/-- The held values of the mapped positions, none while one of them reads STALE. -/
def posInput (s : State) (most : Bool) : Option Int :=
  let l := s.meas.pos.filter (fun p => p.code != .unused)
  if l.any (fun p => p.code == .stale) then none else extreme most (l.map (·.held))

/-- The newest VALID values of the mapped temperature points, none while one of them reads STALE. -/
def tempInput (s : State) (most : Bool) : Option Int :=
  let l := s.meas.temps.filter (·.mapped)
  if l.any (fun t => t.codeNow s.time.beat == .stale) then none else extreme most (l.map (·.held))

/-- A value of the newest summary, none before the first. -/
def sumInput (s : State) (v : Nat) : Option Int := if s.est.sum.beat = 0 then none else some (v : Int)

/-- A loop input, none when it is STALE. -/
def loopInput (s : State) (sel : Nat) : Option Int :=
  let k := s.freeCtr
  match sel with
  | 0x0001 => posInput s false
  | 0x0002 => posInput s true
  | 0x0003 => tempInput s true
  | 0x0004 => tempInput s false
  | 0x0005 => some s.meas.iMean
  | 0x0006 => s.meas.alignedE.map (fun a => a.fe.vStr)
  | 0x0007 => extreme true ((s.spec.pos.filter (·.tIntValid)).map (·.tInt))
  | 0x0010 => sumInput s s.est.sum.eDis
  | 0x0011 => sumInput s s.est.sum.eChg
  | 0x0012 => sumInput s s.est.sum.socMin.2
  | 0x0013 => sumInput s s.est.sum.socMax.2
  | 0x0014 => s.est.sum.epsDis.map (ratFree k)
  | 0x0015 => s.est.sum.epsChg.map (ratFree k)
  | 0x0020 => if cellRun s && s.cells.offered then (liveMin s (·.nLive)).map (fun x => ratFree k x.2) else none
  | 0x0021 => if cellRun s then s.cells.shareMax.map (ratFree k) else none
  | _ =>
    if 0x1000 ≤ sel ∧ sel ≤ 0x13FF ∧ s.cells.offered = true ∧ tapCount s (sel - 0x1000) ≠ 0 then
      (s.cells.pos[sel - 0x1000]?).map (fun c =>
        ratFree k ((c.nLive : Rat) / (tapCount s (sel - 0x1000) : Rat) * 1000000))
    else none

/-! ### Gain scheduling (R220, R221) -/

/-- The region that a variable lies in, by the breakpoints after the first. -/
def regionOf (bp : List Int) (x : Rat) : Nat := ((bp.drop 1).filter (fun b => decide ((b : Rat) ≤ x))).length

/-- The region after a look at its variable: it changes only when the variable lies beyond an edge of the present
region by the margin. -/
def regionStep (bp : List Int) (margin : Rat) (begun : Bool) (now : Nat) (x : Rat) : Nat :=
  let above := match bp[now + 1]? with
    | some b => decide ((b : Rat) + margin ≤ x)
    | none => false
  let below := decide (0 < now) && (match bp[now]? with
    | some b => decide (x ≤ (b : Rat) - margin)
    | none => false)
  if !begun || above || below then regionOf bp x else now

/-- T_S, the mean of T_p over the mapped positions, in 0.01 °C. -/
def schedT (s : State) : Rat :=
  let l := s.est.filters.map (·.tP)
  if l.isEmpty then 0 else l.foldl (fun a b => a + b) 0 / (l.length : Rat)

/-- The loop's state at the snapshot of its period: input, regions and the coefficients in use. A FIXED loop uses no
schedule (Table 09-2). -/
def loopSnap (s : State) (c : LoopCfg) (x : LoopSt) : LoopSt × Bool :=
  let sched := (s.cal.map (·.scheds)).getD []
  let inp := loopInput s c.inSel
  match (if c.sched = 0xFF ∨ c.kind = 2 then none else sched[c.sched]?) with
  | none =>
    ({ x with cfg := c, coefs := c.coefs, begun := true, x := inp.getD x.x, stale := inp.isNone, regT := 0, regS := 0, lost := false
              transfer := x.transfer || (x.begun && x.coefs != c.coefs) }, false)
  | some g =>
    let i := regionStep g.tBp 50 x.begun x.regT (schedT s)
    let j := regionStep (g.socBp.map (fun n => (n : Int))) 5000 x.begun x.regS (s.est.sum.socStr : Nat)
    let co := (g.regions[i * g.socBp.length + j]?).getD default
    let moved := x.begun && (i != x.regT || j != x.regS)
    ({ x with cfg := c, coefs := co, begun := true, x := inp.getD x.x, stale := inp.isNone, regT := i, regS := j, lost := false
              transfer := x.transfer || moved || (x.begun && x.coefs != co) }, moved)

/-- LOOP_SNAPSHOT (R217, R220, R221): at tick 40 of the first beat of the loop's period. -/
def execLoopSnapshot (id : Fin 64) (s : State) : Res :=
  let s := fresh s
  match s.cal.bind (fun c => c.loops.findIdx? (fun l => l.id == id.val)) with
  | none => .next s
  | some k =>
    match s.cal.bind (fun c => c.loops[k]?) with
    | none => .next s
    | some c =>
      if loopsOn s && decide (s.time.beat % c.period = 0) && decide (tickOf s ≤ 40) then
        let s := atTick 40 s
        let (x, moved) := loopSnap s c ((s.lim.loops[k]?).getD default)
        .next (setAgainIf moved 0xA000 (2 ^ 8)
          (tookFree 1 { s with lim := { s.lim with loops := updL s.lim.loops k (fun _ => x)
                                                   schedSwitch := s.lim.schedSwitch || moved } }))
      else .next s

/-! ### Loop arithmetic (R218) -/

/-- A shift that rounds half up; none at 0. -/
def shr (v : Int) (n : Nat) : Int := if n = 0 then v else (v + 2 ^ (n - 1)) / 2 ^ n

/-- SHIFT s of a coefficient set. -/
def Coefs.sh (c : Coefs) (k : Nat) : Nat := (c.shift[k]?).getD 0

/-- u clamped to the loop's bounds, with its saturation bits. -/
def LoopSt.clampU (x : LoopSt) (u : Int) : LoopSt :=
  { x with u := clampI x.cfg.outMin x.cfg.outMax u, satHi := decide (x.cfg.outMax < u), satLo := decide (u < x.cfg.outMin) }

/-- A period of a PID loop with an input: a transfer sets i_state so that u joins the previous period's (R221). -/
def LoopSt.pid (x : LoopSt) : LoopSt :=
  let c := x.coefs
  let e := x.x - x.cfg.setpoint
  let p := shr (c.kp * e) (c.sh 0)
  let inc := shr (c.ki * e) (c.sh 1)
  let d := shr (c.kd * (e - x.ePrev.getD e)) (c.sh 2)
  let f := shr (c.kf * x.x) (c.sh 3)
  let i := if x.transfer then x.u + inc - p - d - f else x.iState + inc
  let u := p + i + d + f
  let y := x.clampU u
  { y with iState := i - (u - y.u), ePrev := some e, transfer := false }

/-- A loop's output at the end of its period (Table 09-2, R217, R218). -/
def LoopSt.period (x : LoopSt) : LoopSt :=
  let x := { x with due := true, tracking := false, inputStale := x.stale && x.cfg.kind != 2 }
  if x.cfg.kind = 2 then x.clampU x.cfg.setpoint
  else if x.stale then { x with u := x.cfg.outMin, satHi := false, satLo := false }
  else if x.cfg.kind = 3 then x.clampU (x.cfg.setpoint + x.coefs.kf * x.x / 2 ^ (x.coefs.sh 3))
  else x.pid

/-- LOOP_PERIOD_END (R218, R221, Table 02-3): at tick 360 of the last beat of the period the output is written, unless
E10 has overrun in a beat of the period. -/
def execLoopPeriodEnd (id : Fin 64) (s : State) : Res :=
  let s := fresh s
  match s.lim.loops.findIdx? (fun x => x.cfg.id == id.val) with
  | none => .next s
  | some k =>
    match s.lim.loops[k]? with
    | none => .next s
    | some x =>
      if loopsOn s && x.begun && decide ((s.time.beat + 1) % x.cfg.period = 0) && mayAct (.loopEnd id.val) 360 s &&
          !hadTurn .publish s && !(engineAt s 10).ovrThisBeat && !x.lost then
        let s := actAt (.loopEnd id.val) 360 s
        .next { s with lim := { s.lim with loops := updL s.lim.loops k LoopSt.period } }
      else .next s

/-! ### Selection (R222) -/

/-- The better of two candidates: the lesser u, then the lower SLOT. -/
def betterLoop (a b : LoopSt) : LoopSt :=
  if b.u < a.u ∨ (b.u = a.u ∧ b.cfg.slot < a.cfg.slot) then b else a

/-- The winner of a group. -/
def winnerOf (g : Nat) (l : List LoopSt) : Option LoopSt :=
  match l.filter (fun x => x.cfg.group == g) with
  | [] => none
  | x :: r => some (r.foldl betterLoop x)

/-- What selection does to a loop of a group with a winner: a PID loop that is due, lost, and tracks takes its u. -/
def LoopSt.select (w : Option LoopSt) (x : LoopSt) : LoopSt :=
  match w with
  | none => { x with winner := false, due := false }
  | some w =>
    let won := w.cfg.slot == x.cfg.slot
    if !won && x.due && x.cfg.kind == 1 && x.cfg.track == 1 then
      { x with iState := x.iState + (w.u - x.u), u := w.u, tracking := true, winner := false, due := false }
    else { x with winner := won, due := false }

/-- Every group's winner, and the loops after selection. -/
def selection (s : State) : State :=
  let l := s.lim.loops
  let ws := (List.range s.lim.groups.length).map (fun g => winnerOf g l)
  let groups := ws.map (fun w => match w with
    | some x => ({ found := true, u := x.u, slot := x.cfg.slot, loop := x.cfg.id } : GroupSt)
    | none => default)
  { s with lim := { s.lim with loops := l.map (fun x => x.select (ws[x.cfg.group]?).join), groups := groups } }

/-! ### Publication (R223 to R227) -/

/-- The condition of CHG_FORBID (10 R245): the least held VALID temperature lies below T_CHG_MIN, or a mapped point has
not yet been VALID since T6. -/
def coldCharge (s : State) : Bool :=
  let l := s.meas.temps.filter (·.mapped)
  let seen := l.filter (fun t => (t.heldBeat.map (fun b => decide (s.est.t6Beat ≤ b))).getD false)
  match s.saf.copyA with
  | some b => decide (seen.length < l.length) || seen.any (fun t => decide (t.held < b.tChgMin))
  | none => false

/-- The winner of a direction and horizon; a missing one takes the next longer. -/
def horizon (s : State) (dir h : Nat) : Nat :=
  let at_ := fun (h : Nat) =>
    (((s.cal.map (·.groups)).getD []).zip s.lim.groups).find? (fun x =>
      x.1.target % 2 == dir && bitsOf x.1.target 2 1 == h && x.2.found)
  match ((List.range 4).filter (fun k => h ≤ k)).findSome? at_ with
  | some x => x.2.u.toNat
  | none => 0

/-- The limits of one direction, formed and ordered, and whether the envelope lowered one. -/
def direction (s : State) (dir : Nat) (fTherm fPlate : Nat) (cold : Bool) : List Nat × Bool :=
  let env := match s.saf.copyA with
    | some b => if dir = 1 then b.iChgEnv else b.iDisEnv
    | none => 0
  let raw := (List.range 4).map (horizon s dir)
  let one := fun w =>
    let l := min w env * fTherm / 1000000
    if dir = 1 then (if cold then 0 else l * fPlate / 1000000) else l
  let l := raw.map one
  let l1 := min ((l[1]?).getD 0) ((l[0]?).getD 0)
  let l2 := min ((l[2]?).getD 0) l1
  let l3 := min ((l[3]?).getD 0) l2
  ([(l[0]?).getD 0, l1, l2, l3], raw.any (fun w => decide (env < w)))

/-- The greatest plating level over the mapped positions (R227). -/
def plateMax (s : State) : Nat := (s.spec.pos.map PosSpec.plateRead).foldl max 0

/-- f_plate (R227). -/
def plateFactor (l : Nat) : Nat := match l with
  | 0 => 1000000
  | 1 => 500000
  | 2 => 200000
  | _ => 0

/-- Every published limit zero. -/
def zeroLimits (s : State) : State := { s with lim := { s.lim with lim := Vector.replicate 8 0 } }

/-- The eight published limits of this beat (R223), formed in every beat; zero outside RUN and while LOOP_HOLD holds (01 R24, Table 02-3). -/
def publishLimits (s : State) : State :=
  let s := selection s
  let level := plateMax s
  let cold := coldCharge s
  let (dis, e0) := direction s 0 s.lim.fTherm (plateFactor level) cold
  let (chg, e1) := direction s 1 s.lim.fTherm (plateFactor level) cold
  let n := s.lim
  let on := s.st.mode == .run && !s.time.loopHold
  let all := dis ++ chg
  setAgainIf (e0 || e1) 0xA000 (2 ^ 7)
    { s with lim := { n with lim := Vector.ofFn (fun k => if on then (all[k.val]?).getD 0 else 0)
                             limBeat := s.time.beat, plate := level, chgCold := cold
                             envClamp := n.envClamp || e0 || e1 } }

/-- LIMIT_PUBLICATION (R222 to R227): at tick 360 of every beat. -/
def execLimitPublication (s : State) : Res :=
  let s := fresh s
  if loopsOn s && mayAct .publish 360 s then .next (publishLimits (actAt .publish 360 s)) else .next s

/-! ### Heat (R224 to R228) -/

/-- The judged temperature of a class in this beat, and whether a sensor of it reads STALE. -/
def judgedTemp (s : State) (dieT : Int) (c : ThermCfg) : Option Int × Bool :=
  match c.cls with
  | 0 =>
    let l := s.meas.temps.filter (·.mapped)
    (extreme true ((l.filter (·.heldBeat.isSome)).map (·.held)), l.any (fun t => t.codeNow s.time.beat == .stale))
  | 1 => (extreme true ((s.spec.pos.filter (·.tIntValid)).map (·.tInt)), false)
  | 2 =>
    let l := (maskBits 6 c.sensors).map (fun k => getNat s.fio.th k)
    (extreme true ((l.filter (·.heldBeat.isSome)).map (·.held)), l.any (fun t => t.codeTh s.time.beat == .stale))
  | _ => (some dieT, false)

/-- The level of T_eff (R225). -/
def thermLevel (c : ThermCfg) (t : Int) : Nat :=
  if c.shut ≤ t then 3 else if c.throttle ≤ t then 2 else if c.warn ≤ t then 1 else 0

/-- The factor of T_eff (R226). -/
def thermFactor (c : ThermCfg) (t : Int) : Nat :=
  if c.shut ≤ c.throttle then (if c.shut ≤ t then 0 else 1000000)
  else (clampI 0 1000000 (Int.tdiv ((c.shut - t) * 1000000) (c.shut - c.throttle))).toNat

/-- T_eff with its backlash (R225). -/
def tEffStep (hyst : Nat) (was : Option Int) (t : Int) : Int :=
  match was with
  | none => t
  | some e => if e < t then t else if t < e - hyst then t + hyst else e

/-- One class judged (R224 to R226). -/
def thermStep (s : State) (dieT : Int) (c : ThermCfg) (x : ThermSt) : ThermSt :=
  let (j, stale) := judgedTemp s dieT c
  let e := match j with
    | some t => some (tEffStep c.hyst x.tEff t)
    | none => x.tEff
  match e with
  | some t => { t := j.getD x.t, tEff := some t, level := thermLevel c t, stale := stale && j.isSome, factor := thermFactor c t }
  | none => { x with stale := false, factor := 1000000 }

/-- THERMAL_JUDGEMENT (R224 to R228): at tick 40 of every beat. -/
def execThermalJudgement (dieT : Int) (s : State) : Res :=
  let s := fresh s
  let cfg := (s.cal.map (·.therm)).getD []
  if loopsOn s && mayAct .thermal 40 s then
    let s := actAt .thermal 40 s
    let th := (cfg.zip s.lim.therm).map (fun x => thermStep s dieT x.1 x.2)
    let factor := fun (die : Bool) =>
      ((cfg.zip th).filter (fun x => (x.1.cls == 3) == die)).foldl (fun m x => min m x.2.factor) 1000000
    .next { s with lim := { s.lim with therm := th, fTherm := factor false, fDie := factor true } }
  else .next s

/-- The die gate of a beat (R228): whether the estimator steps of the beat run. -/
def dieGate (s : State) : State :=
  let a := s.lim.dieAcc + max s.lim.fDie 10000
  if 1000000 ≤ a then { s with lim := { s.lim with dieAcc := a - 1000000, estRuns := true } }
  else { s with lim := { s.lim with dieAcc := a, estRuns := false } }

/-! ### Balancing (R229 to R231) -/

/-- V_POS_MIN + 0.2 V in µV. -/
def bleedFloor (s : State) : Int := (s.saf.copyA.map (·.vPosMin)).getD 0 + 200000

/-- The newest sample of a position is VALID and not below the floor. -/
def sampleOk (s : State) (p : Nat) : Bool :=
  match s.meas.pos[p]? with
  | some x => x.code == .valid && decide (bleedFloor s ≤ x.held)
  | none => false

/-- The position's node has a point at or above the THROTTLE level of class 0. -/
def nodeHot (s : State) (p : Nat) : Bool :=
  match (((s.cal.map (·.therm)).getD []).find? (fun c => c.cls == 0)), placeOf s p with
  | some c, some (_, _, a) => (List.range 8).any (fun t => match s.meas.temps[tempIdx a t]? with
      | some x => x.mapped && x.heldBeat.isSome && decide (c.throttle ≤ x.held)
      | none => false)
  | _, _ => false

/-- A position may bleed (R230). -/
def eligible (s : State) (p : Nat) : Bool :=
  let f := filterAt s p
  f.started && decide (uncert s.freeCtr f ≤ 30000) && !f.capSuspect && sampleOk s p && !nodeHot s p

/-- Position a bleeds before position b: the larger s_p, then the lower number. -/
def bleedsBefore (s : State) (a b : Nat) : Bool :=
  decide ((filterAt s b).soc < (filterAt s a).soc) || (decide ((filterAt s b).soc = (filterAt s a).soc) && decide (a < b))

/-- The plan of R230. -/
def balancePlan (s : State) : State :=
  let el := (List.range s.meas.pos.length).filter (eligible s)
  match el with
  | [] => { s with lim := { s.lim with plan := [] } }
  | p0 :: _ =>
    let ref := el.foldl (fun m p => if (filterAt s p).soc < (filterAt s m).soc then p else m) p0
    let sRef := (filterAt s ref).soc
    let db : Rat := (s.lim.deadband : Nat)
    let want := el.filter (fun p =>
      let d := (filterAt s p).soc - sRef
      decide (db < d) || (s.lim.plan.contains p && decide (db / 2 < d)))
    let node := fun (p : Nat) => (placeOf s p).map (fun x => x.2.2)
    let plan := want.filter (fun p =>
      decide (((want.filter (fun q => node q == node p && bleedsBefore s q p)).length) < s.lim.maxNode))
    { s with lim := { s.lim with plan := plan, refPos := ref } }

/-- BALANCE_PLAN (R230): at tick 330 of the beat after a multiple of 100. -/
def execBalancePlan (s : State) : Res :=
  let s := fresh s
  let m := s.st.mode
  if loopsOn s && (m == .armed || m == .run || m == .stop) && decide (s.time.beat % 100 = 1) && mayAct .balance 330 s then
    .next (tookFree 1 (balancePlan (actAt .balance 330 s)))
  else .next s

/-- The position is in the POS_MASK of a running lock-in campaign. -/
def lockMasked (s : State) (p : Nat) : Bool :=
  match placeOf s p with
  | some (_, k, a) => s.spec.locks.any (fun r =>
      r.addr == a && r.mask.testBit k && decide (r.start ≤ s.time.beat) && decide (s.time.beat < r.stop))
  | none => false

/-- The positions of a plan whose BLEED bit stands in this beat's frame (R231). -/
def bleedOf (s : State) (plan : List Nat) : List Nat :=
  let m := s.st.mode
  if s.lim.balEnable && (m == .armed || m == .run || m == .stop) then
    plan.filter (fun p => sampleOk s p && !lockMasked s p)
  else []

/-- The sixteen BLEED words of a line (Table 04-5). -/
def bleedWords (s : State) (l : Nat) (ps : List Nat) : List Nat :=
  (List.range 16).map (fun h => maskOf (ps.filterMap (fun p => match placeOf s p with
    | some (_, k, a) => if a = nodeAddr l h then some k else none
    | none => none)))

/-- BEAT payload (Table 04-5, R91). -/
def beatPayload (s : State) (l : Nat) (primary : Bool) (ps : List Nat) : List Byte :=
  let n := s.time.beat
  beatBytes n 1479500 primary (decide ((n + 1) % 100 = 0)) (decide ((n + 1) % 1000 = 0)) (bleedWords s l ps)

/-- The positions that the holder's PLAN of the beat before bleeds, in a pair's non-holder (12 R316). -/
def partnerBleed (s : State) : Option (List Nat) :=
  match s.fab.pair.plan with
  | some (b, pl) =>
    if inPair s && !holder s && b + 1 == s.time.beat then
      some ((List.range s.meas.pos.length).filter (fun p => match placeOf s p with
        | some (_, k, a) => (pl.bleed.getD a 0).testBit k
        | none => false))
    else none
  | none => none

/-- BEAT_FRAME (04 R89 to R91; R229, R231; 12 R314): the frame leaves at 20 500 ns by every end from which this module sends; the
bits it carries are counted as bleed charge. A bit that R231 clears for its position's sample waits for the next plan. -/
def execBeatFrame (s : State) : Res :=
  let s := fresh s
  if e8On s && decide (s.time.ns ≤ 20500) && !hadTurn .beatFrame s then
    let s := takeTurn .beatFrame (atNs 20500 s)
    let ps := if s.est.running then bleedOf s ((partnerBleed s).getD s.lim.plan) else []
    let plan := s.lim.plan.filter (sampleOk s)
    let s := { s with
      lim := { s.lim with bleed := ps, plan := plan, bleedNc := s.lim.bleedNc + 288000 * ps.length }
      est := { s.est with filters := s.est.filters.mapIdx (fun p f =>
        if ps.contains p then { f with qExtra := f.qExtra + 288000 } else f) } }
    .next (takeOver ((List.range 4).foldl (fun s l =>
      if lineUsed s l then
        (beatEnds s l).foldl (fun s d =>
          modLine l (fun x => { x with slept := false })
            (sendChain l d 1 0xFF (s.time.beat % 65536) (beatPayload s l (d == primaryEnd s l) ps) s)) s
      else s) s))
  else .next s

/-! ### Registers (Tables 09-6 to 09-13) -/

/-- LL_STATUS (Table 09-7). -/
def llStatus (s : State) : Word :=
  let n := s.lim
  let cfg := (s.cal.map (·.therm)).getD []
  let cur := (cfg.zip n.therm).filter (fun x => x.1.cls != 3)
  let die := (cfg.zip n.therm).filter (fun x => x.1.cls == 3)
  toW (bitAt (n.therm.any (·.stale)) 12 + bitAt (die.any (fun x => x.2.level == 3)) 11 + bitAt (s.est.running && coldCharge s) 10 +
    bitAt (!n.bleed.isEmpty) 9 + bitAt n.schedSwitch 8 + bitAt n.envClamp 7 + bitAt (n.loops.any (·.inputStale)) 6 +
    bitAt (cur.any (fun x => x.2.level == 3)) 5 + bitAt (cur.any (fun x => decide (x.2.factor < 1000000))) 4 +
    bitAt (n.therm.any (fun x => decide (1 ≤ x.level))) 3 + bitAt s.time.loopHold 2 +
    bitAt (s.st.mode == .run && s.est.running) 0)

/-- GRPg_INFO: a group of the loaded calibre is VALID, before T6 with no winner. -/
def groupInfo (s : State) (g : Nat) : Word :=
  match s.cal.bind (fun c => c.groups[g]?) with
  | some c =>
    let x := (s.lim.groups[g]?).getD default
    toW (bitAt true 31 + fld c.target 16 3 + fld x.slot 8 4 + fld x.loop 0 6)
  | none => 0

/-- THCc_STAT: a record of the loaded calibre is VALID; without a value its factor is 1 000 000 (R224). -/
def thermWord (s : State) (c : Nat) : Word :=
  match s.cal.bind (fun k => k.therm[c]?) with
  | some k =>
    let x := (s.lim.therm[c]?).getD { (default : ThermSt) with factor := 1000000 }
    toW (bitAt true 31 + fld k.cls 24 4 + fld x.level 22 2 + bitAt x.stale 21 + fld x.factor 0 20)
  | none => 0

/-- LOOPk_STAT: a loop of the loaded calibre is VALID, before T6 without a state. -/
def loopWord (s : State) (id : Nat) : Word :=
  match s.lim.loops.find? (fun x => x.cfg.id == id) with
  | some x => toW (bitAt true 31 + fld x.regT 12 4 + fld x.regS 8 4 + bitAt x.inputStale 4 + bitAt x.tracking 3 +
      bitAt x.winner 2 + bitAt x.satHi 1 + bitAt x.satLo 0)
  | none => toW (bitAt ((s.cal.map (fun c => c.loops.any (fun l => l.id == id))).getD false) 31)

/-- The words of the limits block. -/
def limRead (o : Nat) (s : State) : Word :=
  let n := s.lim
  match o with
  | 0x000 => llStatus s
  | 0x004 => toW (bitAt n.balEnable 31 + fld n.maxNode 16 5 + fld n.deadband 0 16)
  | 0x008 => toW n.limBeat
  | 0x00C => toW (n.limBeat / 2 ^ 32)
  | 0x030 => toW (fld n.plate 28 2 + fld n.fTherm 0 20)
  | 0x034 => toW (fld n.fDie 0 20)
  | 0x038 => toW (fld n.refPos 11 11 + fld n.bleed.length 0 11)
  | 0x03C => toW (n.bleedNc / 1000)
  | 0x040 => toW (n.bleedNc / 1000 / 2 ^ 32)
  | _ =>
    if 0x010 ≤ o ∧ o < 0x030 then toW (getNat n.lim ((o - 0x010) / 4))
    else if 0x080 ≤ o ∧ o < 0x0C0 then
      let g := (o - 0x080) / 8
      if o % 8 = 0 then intW ((n.groups[g]?.map (·.u)).getD 0) else groupInfo s g
    else if 0x100 ≤ o ∧ o < 0x140 then
      let c := (o - 0x100) / 8
      if o % 8 = 0 then thermWord s c
      else match n.therm[c]? with
        | some x => toW (fld (intField x.t 16) 16 16 + fld (intField (x.tEff.getD 0) 16) 0 16)
        | none => 0
    else if 0x200 ≤ o ∧ o < 0x280 then
      let w := (o - 0x200) / 4
      toW (maskIf 32 (fun b => n.bleed.contains (32 * w + b)))
    else if 0x400 ≤ o ∧ o < 0x600 then
      let k := (o - 0x400) / 8
      if o % 8 = 0 then intW (((n.loops.find? (fun x => x.cfg.id == k)).map (·.u)).getD 0) else loopWord s k
    else 0

/-- The high words that a low word latches. -/
def limLatch (o : Nat) : List Nat := if o = 8 then [0x00C] else if o = 0x03C then [0x040] else []

/-- Writes to the limits block. -/
def limWrite (o : Nat) (v : Word) (s : State) : RspCode × State :=
  let n := s.lim
  match o with
  | 0x000 => (.ok, { s with lim := { n with schedSwitch := n.schedSwitch && !wBit v 8, envClamp := n.envClamp && !wBit v 7 } })
  | 0x004 =>
    let m := wBits v 20 16
    if m = 0 ∨ 16 < m ∨ wBits v 15 0 < 1000 then (.access, s)
    else (.ok, { s with lim := { n with balEnable := wBit v 31, maxNode := m, deadband := wBits v 15 0 } })
  | _ => (.ok, s)

end Sys2Proof.Machine
end

