-- ==== Sys2Proof/Machine/SafetyFn.lean ====
section
/-! DEFINITION. Safety functions (10): latching and SAFE, channel A's evaluation, contactor requests, channel B at the
TOGGLE edge, tests, safety inputs, the contactor jobs, and the safety block's registers. -/

namespace Sys2Proof.Machine

/-! ### Causes and latches (R235, R269, Table 10-7) -/

/-- The code of Table 10-7. -/
def Cause.code : Cause → Nat
  | .posOv => 1 | .posUv => 2 | .strOv => 3 | .strUv => 4 | .tempOt => 5 | .tempUt => 6 | .posAge => 7 | .tempAge => 8
  | .feAge => 9 | .i2tDis => 10 | .i2tChg => 11 | .fastOc => 12 | .direction => 13 | .insulation => 14 | .accord => 15
  | .sbCorrupt => 16 | .internal => 17 | .toggle => 18 | .bAlive => 19 | .testHs => 20 | .testLs => 21 | .coil => 22

/-- CHANNEL of SF_CAUSE and CHAN of a record. -/
def Chan.num : Chan → Nat
  | .a => 0
  | .b => 1

/-- The aligned current, LSB 10 µA; 0 before the first. -/
def alignedI (s : State) : Int := (s.meas.aligned.map (·.fe.i)).getD 0

/-- One contactor changed. -/
def modK (k : Nat) (f : Contactor → Contactor) (s : State) : State :=
  { s with saf := { s.saf with k := updNat s.saf.k k f } }

/-- Every contactor changed. -/
def allK (f : Nat → Contactor → Contactor) (s : State) : State :=
  { s with saf := { s.saf with k := mapAll s.saf.k f } }

/-- Channel A turns off HS and asks no longer for LS. -/
def Contactor.offA (c : Contactor) : Contactor :=
  { c with hs := false, closeReq := false, pulseOpened := c.pulseOpened || c.pulse.isSome }

/-- Channel B turns off LS. -/
def Contactor.offB (c : Contactor) : Contactor := { c with ls := false, pulseOpened := c.pulseOpened || c.pulse.isSome }

/-- Both switches off, and no request holds. -/
def Contactor.offBoth (c : Contactor) : Contactor := { c.offA.offB with req := false }

/-- The contactor job is over: it fails or ends, and what it asked to close is asked to open at the next tick 350
(R258). -/
def jobFail (detail : Nat) (s : State) : State :=
  match s.saf.job with
  | none => s
  | some j =>
    let s := allK (fun k c => if j.asked.testBit k then { c with openReq := true } else c) s
    let s := modJob j.slot.val (fun x => { x with committed := false, commit := 0, abortLate := false }) s
    jobEnd j.slot.val .failed detail { s with saf := { s.saf with job := none } }

/-- A contactor that opens while |I| exceeds 10 A sets OPEN_LOAD and is recorded (R269). -/
def noteOpens (before s : State) : State :=
  let opened := maskBits 4 (closedMask before) |>.filter (fun k => !kClosed s k)
  if 1000000 < (alignedI s).natAbs then
    opened.foldl (fun s k =>
      recEvent 0x20 0 [toW k, beatLo s, intW (alignedI s), toW s.st.mode.code]
        (setAgain 0xB000 (2 ^ 7) { s with saf := { s.saf with openLoad := true } })) s
  else s

/-- A job without its commit point whose contactors open by anything but its own steps fails (R258). -/
def jobWatch (before s : State) : State :=
  match s.saf.job with
  | some j =>
    if j.commit.isNone && j.asked &&& closedMask before &&& (15 ^^^ closedMask s) != 0 then jobFail 6 s else s
  | none => s

/-- A change of switches with what follows from an opening. -/
def switching (f : State → State) (s : State) : State := jobWatch s (noteOpens s (f s))

/-- SF_CAUSE (Table 10-11). -/
def causeWord (s : State) : Word :=
  match s.saf.cause with
  | some (ch, c, info) => toW (bitAt true 31 + fld ch.num 30 1 + fld c.code 16 8 + fld info 0 16)
  | none => 0

/-- T11 (01 Table 01-4, R23, R24): SAFE, at once; stimulus is dropped and stops, the limits read zero. -/
def enterSafe (s : State) : State :=
  match s.st.mode with
  | .armed | .run | .stop | .service =>
    let s := toMode .safe 11 s
    let s := jnl 0x15 0xFF [beatLo s, causeWord s] s
    let s := { s with host := { s.host with sess := mapAll s.host.sess (fun _ x => { x with inService := false }) } }
    zeroLimits { s with spec := { s.spec with toSend := [], lockToSend := [], campaigns := [], dwell := none, stimStop := 15 } }
  | _ => s

/-- A cause latches in a channel (R235, R269): recorded, kept as the first where it is that, every switch of the channel
off, SAFE entered. A cause that has latched in the channel does not latch again. -/
def latch (ch : Chan) (c : Cause) (info : Nat) (s : State) : State :=
  if !s.saf.monitor || s.saf.latched.contains (ch, c) then s
  else
    let was := if s.st.mode = .safe then s.st.prev else s.st.mode.code
    let first : Bool := match s.saf.cause with
      | none => true
      | some (.a, _, _) => ch == .b && s.saf.causeTick == absTick s
      | some _ => false
    let s := recEvent c.code ch.num [toW info, beatLo s, intW (alignedI s), toW was] s
    let x := s.saf
    let s := { s with saf := { x with
      latched := x.latched ++ [(ch, c)], latchA := x.latchA || ch == .a, latchB := x.latchB || ch == .b
      cause := if first then some (ch, c, info) else x.cause, causeTick := if first then absTick s else x.causeTick } }
    switching (allK (fun _ k => match ch with
      | .a => { k.offA with req := false }
      | .b => { k.offB with req := false })) (enterSafe s)

/-- Causes found in one evaluation latch in ascending code (R269). -/
def latchAll (ch : Chan) (l : List (Cause × Nat)) (s : State) : State :=
  (List.range 23).foldl (fun s n => match l.find? (fun x => x.1.code == n) with
    | some x => latch ch x.1 x.2 s
    | none => s) s

/-! ### T6 and the start of judging (R237, R242, R250) -/

/-- Both channels begin to judge with their working copies (03 R71 to R73). No mapped temperature point has been VALID since
T6, so CHG_FORBID is held where there is one (R245). -/
def safStart (blk : SafetyBlock) (raw : List Byte) (s : State) : State :=
  let crc := crc32c (raw.take 0xFC)
  let pins := s.saf.sin
  { s with saf := { (default : Saf) with
      monitor := true, copyA := some blk, copyB := some blk, rawA := raw, rawB := raw, crcA := crc, crcB := crc, accA := crc
      accB := crc, posW := s.meas.pos.map (fun _ => default), tempW := s.meas.temps.map (fun _ => default)
      sin := mapAll pins (fun _ p => { (default : SafeIn) with pinA := p.pinA, pinB := p.pinB })
      chgForbid := s.meas.temps.any (·.mapped), noToggle := true, alive := s.saf.alive, overI := s.saf.overI, tp := Vector.replicate 2 true } }

/-! ### Safety inputs (R264 to R266, Table 10-5) -/

/-- S_CFGs of channel A's copy. -/
def sinCfg (s : State) (i : Nat) : SInCfg := (s.saf.copyA.bind (fun b => b.sCfg[i]?)).getD default

/-- Pin A asks. -/
def asksA (s : State) (i : Nat) : Bool :=
  ((sinCfg s i).mode == 1 || (sinCfg s i).mode == 2) && !(getNat s.saf.sin i).pinA

/-- S_CFGs of channel B's copy. -/
def sinCfgB (s : State) (i : Nat) : SInCfg := (s.saf.copyB.bind (fun b => b.sCfg[i]?)).getD default

/-- Pin B asks. -/
def asksB (s : State) (i : Nat) : Bool :=
  match (sinCfgB s i).mode with
  | 1 => !(getNat s.saf.sin i).pinB
  | 2 => (getNat s.saf.sin i).pinB
  | _ => false

/-- A demand stands on an input. -/
def demand (s : State) (i : Nat) : Bool := asksA s i || asksB s i

/-- A used input with contactor k in its K_MASK. -/
def masks (s : State) (i k : Nat) : Bool := (sinCfg s i).mode != 0 && (sinCfg s i).kMask.testBit k

/-- A demand holds contactor k. -/
def demanded (s : State) (k : Nat) : Bool := (List.range 4).any (fun i => masks s i k && demand s i)

/-- Condition 4 of R253 for channel A. -/
def holdA (s : State) (k : Nat) : Bool :=
  demanded s k || (List.range 4).any (fun i =>
    masks s i k && ((getNat s.saf.sin i).a.disc || (getNat s.saf.sin i).a.tpFault))

/-- Condition 4 of R254 for channel B. -/
def holdB (s : State) (k : Nat) : Bool :=
  demanded s k || (List.range 4).any (fun i =>
    masks s i k && ((getNat s.saf.sin i).b.disc || (getNat s.saf.sin i).b.tpFault))

/-- A channel turns off its switches of the contactors of an input. -/
def inputOpens (i : Nat) (ch : Chan) (cancel : Bool) (s : State) : State :=
  switching (fun s => allK (fun k c =>
    if masks s i k then
      let c := if cancel then { c with req := false, blocked := true, lockout := true } else c
      match ch with
      | .a => c.offA
      | .b => c.offB
    else c) s) s

/-- SAFETY_INPUT_CHANGE (R264): a pin's filtered state changes; where it asks, its channel opens K_MASK at once and every
close request for it is cancelled. -/
def execSafetyInputChange (i : Fin 4) (pinB level : Bool) (s : State) : Res :=
  let s := fresh s
  if awake s then
    let s := { s with saf := { s.saf with sin := updAt s.saf.sin i (fun x =>
      if pinB then { x with pinB := level } else { x with pinA := level }) } }
    let asks := if pinB then asksB s i.val else asksA s i.val
    .next (if s.saf.monitor && asks then inputOpens i.val (if pinB then .b else .a) true s else s)
  else .next s

/-- PIN_FOLLOW (R264): a channel sees the other's pin ask and turns off its switches of K_MASK. -/
def execPinFollow (i : Fin 4) (channelB : Bool) (s : State) : Res :=
  let s := fresh s
  let asks := if channelB then asksA s i.val else asksB s i.val
  .next (if awake s && s.saf.monitor && asks then inputOpens i.val (if channelB then .b else .a) true s else s)

/-- One channel's judgement of an input (R265): disagreeing beats and the clearing of its faults; `true` when DISC_FAULT
is set by it. -/
def judgeDisc (c : SInCfg) (a b : Bool) (x : SafeCh) : SafeCh × Bool :=
  if c.mode = 0 then (x, false)
  else if a && b then ({ (default : SafeCh) with count := 0 }, false)
  else if a != b then
    let n := satAdd x.count 1 65535
    let sets := decide (c.discT ≤ n) && !x.disc
    ({ x with count := n, disc := x.disc || sets }, sets)
  else ({ x with count := 0 }, false)

/-- A channel judges every input; a DISC_FAULT is recorded and opens the channel's switches (R265, 16 Table 16-3). -/
def discJudge (ch : Chan) (s : State) : State :=
  (List.range 4).foldl (fun s i =>
    let x := getNat s.saf.sin i
    let (y, sets) := judgeDisc (sinCfg s i) (asksA s i) (asksB s i) (match ch with
      | .a => x.a
      | .b => x.b)
    let s := { s with saf := { s.saf with sin := updNat s.saf.sin i (fun x => match ch with
      | .a => { x with a := y }
      | .b => { x with b := y }) } }
    if sets then
      inputOpens i ch false (recEvent 0x22 ch.num [toW i, beatLo s, toW (sinCfg s i).kMask, 0] s)
    else s) s

/-- One channel's judgement of a pulse at its pin (R266); `true` when TP_FAULT is set by it. -/
def judgePulse (high : Bool) (lows : Nat) (x : SafeCh) : SafeCh × Bool :=
  if !high then (x, false)
  else if 2 ≤ lows then ({ x with tpMiss := 0 }, false)
  else
    let sets := decide (2 ≤ x.tpMiss + 1) && !x.tpFault
    ({ x with tpMiss := satAdd x.tpMiss 1 255, tpFault := x.tpFault || sets }, sets)

/-- TEST_PULSE (R266): TP0 in beats 25, TP1 in beats 75 of each hundred, from tick 100. `lowReads` gives the low samples
at pins A and B of S0 to S3 in turn. -/
def execTestPulse (tp : Fin 2) (lowReads : List Nat) (s : State) : Res :=
  let s := fresh s
  if awake s && s.saf.monitor && decide (s.time.beat % 100 = 25 + 50 * tp.val) && mayAct (.testPulse tp.val) 100 s then
    let s := put (.tpPulse tp.val) (actAt (.testPulse tp.val) 100 s)
    .next ((List.range 4).foldl (fun s i =>
      if (sinCfg s i).mode != 0 && (sinCfg s i).test == tp.val + 1 then
        let x := getNat s.saf.sin i
        let (a, fa) := judgePulse x.pinA ((lowReads[2 * i]?).getD 0) x.a
        let (b, fb) := judgePulse x.pinB ((lowReads[2 * i + 1]?).getD 0) x.b
        let s := { s with saf := { s.saf with sin := updNat s.saf.sin i (fun x => { x with a := a, b := b }) } }
        let note := fun (ch : Chan) (s : State) =>
          inputOpens i ch false (recEvent 0x23 ch.num [toW i, beatLo s, toW tp.val, 0] s)
        let s := if fa then note .a s else s
        if fb then note .b s else s
      else s) s)
  else .next s

/-! ### Readiness (Table 10-12, R242) -/

/-- Bits [6:0] of SF_READY. -/
def readyBits (s : State) : Nat :=
  let x := s.saf
  let wait := fun (on : List Bool) (w : List Watched) => (on.zip w).any (fun p => p.1 && !p.2.seen)
  let alive := match x.aliveReads with
    | a :: b :: _ => a == b
    | _ => true
  bitAt x.noToggle 6 + bitAt alive 5 + bitAt (x.latchA || x.latchB) 4 + bitAt (x.iHeld.isNone || x.strHeld.isNone) 3 +
    bitAt (wait (s.meas.temps.map (·.mapped)) x.tempW) 2 +
    bitAt (wait (s.meas.pos.map (fun p => p.code != .unused)) x.posW) 1 + bitAt x.copyA.isNone 0

/-- A_READY. -/
def aReady (s : State) : Bool := s.saf.monitor && readyBits s % 64 == 0

/-- B_READY. -/
def bReady (s : State) : Bool := s.saf.monitor && !(readyBits s).testBit 6 && !(readyBits s).testBit 4

/-! ### Channel A's evaluation (R238 to R247, R251, R263) -/

/-- Step 3 of the precharge job and condition 6 of R253: the aligned samples of the present beat are VALID and within
PRE_DV. -/
def dvOk (s : State) : Bool :=
  match s.meas.aligned, s.saf.copyA with
  | some a, some b => a.beat == s.time.beat && !a.fe.strBad && !a.fe.lnkBad && decide ((a.fe.vStr - a.fe.vLnk).natAbs ≤ b.preDv)
  | _, _ => false

/-- R238 for one value: the count after the sample, and whether it latches high or low. -/
def rangeCount (lo hi v : Int) (valid : Bool) (w : Watched) : Watched × Option Bool :=
  if !valid then (w, none)
  else if lo ≤ v ∧ v ≤ hi then ({ seen := true, count := 0 }, none)
  else ({ seen := true, count := satAdd w.count 1 2 }, if 1 ≤ w.count then some (decide (hi < v)) else none)

/-- The first index at which a list of optional findings holds a value. -/
def firstAt {α : Type} [DecidableEq α] (l : List (Option α)) (x : α) : Option Nat := l.findIdx? (fun y => decide (y = some x))

/-- Positions (R238, R241, R242). -/
def evalPos (b : SafetyBlock) (s : State) : State × List (Cause × Nat) :=
  let now := s.meas.posBeat == s.time.beat
  let l := (s.meas.pos.zip s.saf.posW).map (fun x =>
    rangeCount b.vPosMin b.vPosMax x.1.value (now && x.1.code == .valid) x.2)
  let ages := (s.meas.pos.zip s.saf.posW).map (fun x => if x.1.code = .stale ∧ x.2.seen = true then some () else none)
  let out := l.map (·.2)
  let one := fun (c : Cause) (i : Option Nat) => (i.map (fun n => (c, n))).toList
  ({ s with saf := { s.saf with posW := l.map (·.1) } },
    one .posOv (firstAt out true) ++ one .posUv (firstAt out false) ++ one .posAge (firstAt ages ()))

/-- A value not VALID and older than AGE_MAX reads STALE (05 R134). -/
def staleNow (s : State) (held : Option Nat) : Bool :=
  match held with
  | some h => decide (ageMax s < s.time.beat - h)
  | none => false

/-- The front end's aligned current and string voltage (R239, R241, R242). -/
def evalFe (b : SafetyBlock) (s : State) : State × List (Cause × Nat) :=
  let fe : Option FeSample := match s.meas.aligned with
    | some a => if a.beat = s.time.beat then some a.fe else none
    | none => none
  let iOk := (fe.map (fun f => !f.iBad)).getD false
  let sOk := (fe.map (fun f => !f.strBad)).getD false
  let v := (fe.map (·.vStr)).getD 0
  let (w, hit) := rangeCount b.vStrMin b.vStrMax v sOk s.saf.strW
  let iHeld := if iOk then some s.time.beat else s.saf.iHeld
  let sHeld := if sOk then some s.time.beat else s.saf.strHeld
  ({ s with saf := { s.saf with strW := w, iHeld := iHeld, strHeld := sHeld } },
    (match hit with
      | some true => [(Cause.strOv, 0)]
      | some false => [(.strUv, 0)]
      | none => []) ++ (if staleNow s iHeld || staleNow s sHeld then [(.feAge, 0)] else []))

/-- Temperature points (R240 to R242). -/
def evalTemp (b : SafetyBlock) (s : State) : State × List (Cause × Nat) :=
  let codes := s.meas.temps.map (fun t => (t, t.codeNow s.time.beat))
  let judged := s.time.beat % 100 == 1
  let out := codes.map (fun x =>
    if judged && x.2 == .valid then
      (if b.tMax < x.1.held then some true else if x.1.held < b.tMin then some false else none)
    else none)
  let ages := (codes.zip s.saf.tempW).map (fun x => if x.1.2 = .stale ∧ x.2.seen = true then some () else none)
  let seen := (codes.zip s.saf.tempW).map (fun x => ({ x.2 with seen := x.2.seen || x.1.2 == .valid } : Watched))
  let one := fun (c : Cause) (i : Option Nat) => (i.map (fun n => (c, n))).toList
  ({ s with saf := { s.saf with tempW := seen } },
    one .tempOt (firstAt out true) ++ one .tempUt (firstAt out false) ++ one .tempAge (firstAt ages ()))

/-- The stream samples held at tick 340: tick 350 of the beat before and ticks 0 to 300 of this one (R243). -/
def heldStream (s : State) : List FeSample :=
  (getNat s.meas.prevStream 7).toList ++ (List.range 7).filterMap (fun k => getNat s.meas.stream k)

/-- One accumulator step of R243. -/
def i2tStep (env : F32) (acc i : F32) : F32 :=
  let a := fAdd acc (fMul (fSub (fMul i i) (fMul env env)) (fC 125 1000000))
  if fLt a fZero then fZero else a

/-- I²t in both directions (R243): accumulators after the samples, and whether each has reached its value at one. -/
def evalI2t (b : SafetyBlock) (s : State) : State × List (Cause × Nat) :=
  let amp := fun (n : Nat) => fOfRat ((n : Rat) / 100000)
  let ed := amp b.iDisEnv
  let ec := amp b.iChgEnv
  let td := fOfInt (b.i2tDis : Nat)
  let tc := fOfInt (b.i2tChg : Nat)
  let r := (heldStream s).foldl (fun (x : F32 × F32 × Bool × Bool) f =>
    let i := fOfRat ((f.i : Rat) / 100000)
    let d := i2tStep ed x.1 (if 0 < f.i then i else fZero)
    let c := i2tStep ec x.2.1 (if f.i < 0 then fNeg i else fZero)
    let hit := fun (t a e j : F32) => fLe t a && (!fIsZero t || fLt e j)
    (d, c, x.2.2.1 || hit td d ed (if 0 < f.i then i else fZero),
      x.2.2.2 || hit tc c ec (if f.i < 0 then fNeg i else fZero))) (s.saf.i2tDis, s.saf.i2tChg, false, false)
  ({ s with saf := { s.saf with i2tDis := r.1, i2tChg := r.2.1 } },
    (if r.2.2.1 then [(Cause.i2tDis, 0)] else []) ++ (if r.2.2.2 then [(.i2tChg, 0)] else []))

/-- Safe direction (R245). -/
def evalDir (b : SafetyBlock) (s : State) : State × List (Cause × Nat) :=
  let cold := coldCharge s
  let l := (heldStream s).map (·.i)
  let sum := l.foldl (fun a b => a + b) 0
  let charging := decide (sum < -((b.dirTolI : Int) * l.length)) && !l.isEmpty
  let n := if cold && charging then satAdd s.saf.dirCount 1 65535 else 0
  ({ s with saf := { s.saf with chgForbid := cold, dirCount := n } }, if b.dirTolT ≤ n then [(.direction, 0)] else [])

/-- A reading of R263 lies outside its bounds. `mine` and `other` are the two switches, `pulse` that a pulse runs, and
`otherPulse` that it runs on the other side. -/
def coilBad (mine other pulse otherPulse : Bool) (ma : Nat) : Bool :=
  if mine && other then !pulse && !(decide (100 ≤ ma) && decide (ma ≤ 2500))
  else !mine && !otherPulse && decide (50 ≤ ma)

/-- Channel A's readings of the HS currents (R263). -/
def evalHs (ma : List Nat) (s : State) : State × List (Cause × Nat) :=
  let k := mapAll s.saf.k (fun i c =>
    let m := (ma[i]?).getD 0
    let bad := coilBad c.hs c.ls c.pulse.isSome (c.pulse == some false) m
    { c with hsMa := min m 65535, coilOk := !bad, badHs := if bad then satAdd c.badHs 1 2 else 0 })
  let f := (List.range 4).find? (fun i => decide ((getNat k i).badHs = 2))
  ({ s with saf := { s.saf with k := k } }, (f.map (fun i => (Cause.coil, i))).toList)

/-- ALIVE and the accord fault (R247, R251). -/
def evalOther (s : State) : State × List (Cause × Nat) :=
  let reads := (s.saf.alive :: s.saf.aliveReads).take 3
  let stuck := decide (reads.length = 3) && reads.all (fun x => x == s.saf.alive)
  ({ s with saf := { s.saf with aliveReads := reads } },
    (if s.meas.acc.fault then [(Cause.accord, 0)] else []) ++ (if stuck then [(.bAlive, 0)] else []))

/-- Step 3 of the precharge job (R255). -/
def jobTest (s : State) : State :=
  match s.saf.job with
  | some j =>
    match j.precharge, j.s, j.commit with
    | true, some b, none =>
      if b < s.time.beat then
        let n := if dvOk s then j.passRun + 1 else 0
        { s with saf := { s.saf with job := some { j with
            passRun := n, cBeat := if 10 ≤ n ∧ j.cBeat.isNone = true then some (s.time.beat + 1) else j.cBeat } } }
      else s
    | _, _, _ => s
  | none => s

/-- Conditions 1 to 3 of R253. -/
def permitBase (s : State) : Bool := s.st.mode == .run && !s.saf.latchA && !s.saf.latchB && aReady s

/-- Channel A turns off at once the HS of every contactor that it no longer permits (R234, R253). -/
def dropA (s : State) : State :=
  switching (fun s => allK (fun k c => if (c.hs || c.closeReq) && !(permitBase s && !holdA s k) then c.offA else c) s) s

/-- CHANNEL_A_EVALUATION (R234, R238 to R247, R251, R255, R263, R265): at tick 340 of every beat. `hsMa` gives the currents
through K0 HS to K3 HS. -/
def execChannelAEvaluation (hsMa : List Nat) (s : State) : Res :=
  let s := fresh s
  match s.saf.copyA with
  | some b =>
    if awake s && s.saf.monitor && decide (tickOf s ≤ 340) && s.saf.evalBeat != some s.time.beat then
      let s := atTick 340 s
      let (s, c1) := evalPos b s
      let (s, c2) := evalFe b s
      let (s, c3) := evalTemp b s
      let (s, c4) := evalI2t b s
      let (s, c5) := evalDir b s
      let (s, c6) := evalOther s
      let (s, c7) := evalHs hsMa s
      let s := dropA (latchAll .a (c1 ++ c2 ++ c3 ++ c4 ++ c5 ++ c6 ++ c7) (discJudge .a (jobTest s)))
      .next { s with saf := { s.saf with evalBeat := some s.time.beat } }
    else .next s
  | none => .next s

/-- CRC_RECHECK (R248): at tick 340 of every multiple of 1 000. -/
def execCrcRecheck (s : State) : Res :=
  let s := fresh s
  if awake s && s.saf.monitor && decide (s.time.beat % 1000 = 0) && mayAct .recheck 340 s then
    let s := actAt .recheck 340 s
    let a := crc32c (s.saf.rawA.take 0xFC)
    let b := crc32c (s.saf.rawB.take 0xFC)
    let s := { s with saf := { s.saf with crcA := a, crcB := b } }
    let s := if b ≠ s.saf.accB then latch .b .sbCorrupt 0 s else s
    .next (if a ≠ s.saf.accA ∨ b ≠ s.saf.accA then latch .a .sbCorrupt 0 s else s)
  else .next s

/-- SELF_TEST (R249): a failure latches INTERNAL. -/
def execSelfTest (passed : Bool) (s : State) : Res :=
  let s := fresh s
  .next (if awake s && s.saf.monitor && decide (tickOf s ≤ 330) && !passed then latch .a .internal 0 s else s)

/-- INSULATION_PHASE_SETTLED (05 R130; 10 R246): own results in a row below INS_MIN latch INSULATION. -/
def execInsulationPhaseSettled (v : Int) (s : State) : Res :=
  let s := fresh s
  if awake s then
    let (s, own) := insSettled v s
    match own, s.meas.ins.result, s.saf.copyA with
    | true, some (rp, rn), some b =>
      if s.saf.monitor && measuresIns s then
        let n := if rIsoBelow rp rn b.insMin then satAdd s.saf.insLow 1 2 else 0
        let s := { s with saf := { s.saf with insLow := n } }
        .next (if n = 2 then latch .a .insulation 0 s else s)
      else .next s
    | _, _, _ => .next s
  else .next s

/-! ### Requests at tick 350 (R252, R253, R255 to R258) -/

/-- The contactor job is completed. -/
def jobDone (s : State) : State :=
  match s.saf.job with
  | some j => jobEnd j.slot.val .completed 0 { s with saf := { s.saf with job := none } }
  | none => s

/-- What the contactor job asks at tick 350: contactors to close, contactors to open, and the state after. An abort latched
in the tick of CLOSE_MAIN's commit point comes too late (R256, R271). -/
def jobStep (s : State) : Nat × Nat × State :=
  match s.saf.job with
  | none => (0, 0, s)
  | some j =>
    let set := fun (x : JobRun) (s : State) => { s with saf := { s.saf with job := some x } }
    let tick := if j.precharge then absTick s + 1 else s.time.beat * 400 + 350
    if j.abortAt.any (fun t => decide (t < tick)) && j.commit.isNone then
      (0, j.asked, jobEnd j.slot.val .aborted 0 { s with saf := { s.saf with job := none } })
    else if s.time.beat < j.start ∨ j.s.isSome = true then (j.now, 0, s)
    else if j.precharge then
      let m := kPre s ||| j.first
      (m, 0, set { j with s := some s.time.beat, asked := m, now := m } s)
    else
      let m := kMain s
      (m, 0, modJob j.slot.val (fun x => { x with abortLate := x.abortLate || j.abortAt.isSome }) <| jobCommitted j.slot.val
        (set { j with s := some s.time.beat, asked := m, now := m, commit := some s.time.beat } s))

/-- What is asked at this tick 350 (R252, Table 10-4), the job's requests being `jc` and `jo`: contactors to open, where a
program bit of 0 asks for every contactor, and contactors to close. An auxiliary contactor closes by a bit that reads 1
after 0 (R264). -/
def requestMasks (jc jo : Nat) (s : State) : Nat × Nat :=
  let mp := kMain s ||| kPre s
  let at_ := fun (k : Nat) => getNat s.saf.k k
  (maskIf 4 (fun k => (at_ k).openReq || jo.testBit k || !(at_ k).progBit),
    jc ||| maskIf 4 (fun k => !mp.testBit k && (at_ k).progBit && !(at_ k).progSeen && !(at_ k).blocked))

/-- The contactors with both switches on. -/
def bothOn (s : State) : Nat := maskIf 4 (fun k => (getNat s.saf.k k).hs && (getNat s.saf.k k).ls)

/-- Channel A applies the requests of this tick 350; `jc` and `jo` are the job's. A job that was started before a demand
ended closes none of its contactors: that close counts as refused (R264; DESIGN CHOICE, log 26). -/
def applyK (jc jo : Nat) (s : State) : State :=
  let at_ := fun (k : Nat) => getNat s.saf.k k
  let shutNow := closedMask s
  let on := bothOn s
  let (opens, closes) := requestMasks jc jo s
  let barred := maskIf 4 (fun k => jc.testBit k && (at_ k).lockout)
  let req := maskIf 4 (fun k => !opens.testBit k && !demanded s k && !barred.testBit k && (closes.testBit k || (at_ k).req))
  let may := maskIf 4 (fun k => permitBase s && req.testBit k && !holdA s k)
  let fresh := may &&& kMain s &&& (15 ^^^ maskIf 4 (fun k => (at_ k).closeReq))
  let last := fresh != 0 && (shutNow ||| fresh) &&& kMain s == kMain s
  let dv := last && !dvOk s
  let permit := if dv then may &&& (15 ^^^ fresh) else may
  let refused := maskIf 4 (fun k => !opens.testBit k && (closes.testBit k || (at_ k).req) && !permit.testBit k && !(at_ k).closeReq)
  let drives := (sides s).testBit 0
  let s := allK (fun k c =>
    let c := { c with openReq := false, progSeen := c.progBit, req := req.testBit k
                      blocked := c.blocked || demanded s k, lockout := c.lockout || demanded s k }
    if permit.testBit k then
      let on := drives && c.pulse != some true
      { c with closeReq := true, hs := c.hs || on, nextLs := c.nextLs && (c.hs || c.pulse.isSome) }
    else c.offA) s
  let x := s.saf
  let s := setAgain 0xB000 (bitAt dv 10 + bitAt (refused != 0) 9)
    { s with saf := { x with dvRefused := x.dvRefused || dv, closeRefused := x.closeRefused || refused != 0
                             applied := some (s.time.beat, opens ||| closes), onBefore := on } }
  match s.saf.job with
  | some j =>
    if j.now &&& refused ≠ 0 then jobFail 7 s
    else if j.commit.isNone && j.now &&& opens != 0 then jobFail 6 s
    else s
  | none => s

/-- REQUEST_APPLICATION (R250, R252, R253, R255 to R258): at tick 350 of every beat; TOGGLE changes only after this
beat's evaluation. -/
def execRequestApplication (s : State) : Res :=
  let s := fresh s
  if awake s && s.saf.monitor && decide (tickOf s ≤ 350) && (s.saf.applied.map (·.1)) != some s.time.beat then
    let s := atTick 350 s
    let (jc, jo, s) := jobStep s
    let s := switching (applyK jc jo) s
    if s.saf.evalBeat = some s.time.beat then
      .next { s with saf := { s.saf with toggle := !s.saf.toggle, edgePending := true } }
    else
      -- channel B takes nothing without an edge: what channel A did not refuse stands
      match s.saf.job with
      | some j => .next (if j.precharge then { s with saf := { s.saf with job := some { j with now := 0 } } }
                         else if j.commit.isSome then jobDone s else s)
      | none => .next s
  else .next s

/-! ### Channel B (R233, R235, R244, R250, R254, R263, R265) -/

/-- Channel B's readings of the LS currents (R263). -/
def evalLs (ma : List Nat) (s : State) : State × List (Cause × Nat) :=
  let k := mapAll s.saf.k (fun i c =>
    let m := (ma[i]?).getD 0
    let bad := coilBad c.ls c.hs c.pulse.isSome (c.pulse == some true) m
    { c with lsMa := min m 65535, coilOk := !bad, badLs := if bad then satAdd c.badLs 1 2 else 0 })
  let f := (List.range 4).find? (fun i => decide ((getNat k i).badLs = 2))
  ({ s with saf := { s.saf with k := k } }, (f.map (fun i => (Cause.coil, i))).toList)

/-- Channel B permits Kk to be closed (R236, R254). -/
def permitB (s : State) (k : Nat) (c : Contactor) : Bool :=
  (sides s).testBit 1 && c.closeReq && !s.saf.latchA && !s.saf.latchB && s.saf.toggleOk && !holdB s k

/-- One contactor's LS at the edge (R254, R259, R260): on where channel B permits it, off where it does not; a test asked
for by LS_TEST begins its pulse. In a pulse of its own LS stays off, and an opening in it stands at its end (R262). -/
def Contactor.edge (ok : Bool) (c : Contactor) : Contactor :=
  if c.pulse == some false then { c with lsTest := false, pulseOpened := c.pulseOpened || !ok }
  else if !ok then { (if c.ls then c.offB else c) with lsTest := false }
  else if c.lsTest && c.ls && c.pulse.isNone then { c with lsTest := false, ls := false, pulse := some false, pulseOpened := false }
  else { c with lsTest := false, ls := true, nextLs := c.nextLs && c.ls }

/-- Channel B switches LS at the edge (R254, R236). -/
def switchLs (s : State) : State :=
  let drives := (sides s).testBit 1
  let ok := permitB s
  let refused := maskIf 4 (fun k =>
    let c := getNat s.saf.k k
    drives && c.closeReq && !c.ls && c.pulse != some false && !ok k c)
  let s := allK (fun k c => c.edge (ok k c)) s
  let s := setAgainIf (refused != 0) 0xB000 (2 ^ 9)
    { s with saf := { s.saf with closeRefused := s.saf.closeRefused || refused != 0 } }
  match s.saf.job with
  | some j =>
    if j.now &&& refused ≠ 0 then jobFail 7 s
    else if !j.precharge && j.commit.isSome then jobDone s
    else { s with saf := { s.saf with job := some { j with now := 0 } } }
  | none => s

/-- TOGGLE_EDGE (R250, R254, R263, R265): channel B receives the edge `intervalUs` of its clock after the one before;
`lsMa` gives the currents through K0 LS to K3 LS. -/
def execToggleEdge (intervalUs : Nat) (lsMa : List Nat) (s : State) : Res :=
  let s := fresh s
  if awake s && s.saf.monitor && s.saf.edgePending then
    let x := s.saf
    let early := x.edgeSeen && decide (intervalUs < 750)
    let good := x.edgeSeen && x.missing == 0 && decide (750 ≤ intervalUs) && decide (intervalUs ≤ 1250)
    let run := if good then satAdd x.goodRun 1 2 else 0
    let s := { s with saf := { x with edgePending := false, edgeSeen := true, missing := 0, goodRun := run, toggleOk := good
                                      noToggle := x.noToggle && decide (run < 2) } }
    let (s, c) := evalLs lsMa s
    let s := latchAll .b ((if early then [(Cause.toggle, 0)] else []) ++ c) (discJudge .b s)
    .next (switching switchLs s)
  else .next s

/-- TOGGLE_MISSING (R250): 1.25 ms, then 2.25 ms without an edge; the second missing edge latches TOGGLE. -/
def execToggleMissing (s : State) : Res :=
  let s := fresh s
  if awake s && s.saf.monitor && s.saf.edgeSeen then
    let n := s.saf.missing + 1
    let s := { s with saf := { s.saf with missing := n, goodRun := 0, toggleOk := false } }
    .next (if 2 ≤ n then latch .b .toggle 0 s else s)
  else .next s

/-- ALIVE_ADVANCE (R233): every 250 µs of channel B's clock. -/
def execAliveAdvance (s : State) : Res :=
  let s := fresh s
  .next (if awake s then { s with saf := { s.saf with alive := (s.saf.alive + 1) % 16 } } else s)

/-- LATCH_A (R235): channel B turns off every LS. -/
def execLatchA (s : State) : Res :=
  let s := fresh s
  .next (if s.saf.latchA then switching (allK (fun _ c => { c.offB with req := false })) s else s)

/-- LATCH_B (R235): channel A turns off every HS. -/
def execLatchB (s : State) : Res :=
  let s := fresh s
  .next (if s.saf.latchB then switching (allK (fun _ c => { c.offA with req := false })) s else s)

/-- OVERCURRENT_ONSET (R244): the comparator sees |I| above I_FAST. -/
def execOvercurrentOnset (s : State) : Res :=
  let s := fresh s
  .next (if awake s then { s with saf := { s.saf with overI := true } } else s)

/-- OVERCURRENT_END (R244): |I| falls back before 10 µs have passed. -/
def execOvercurrentEnd (s : State) : Res :=
  let s := fresh s
  .next { s with saf := { s.saf with overI := false } }

/-- FAST_OC (R244): 10 µs above I_FAST without a break. -/
def execFastOc (s : State) : Res :=
  let s := fresh s
  .next (if awake s && s.saf.monitor && s.saf.overI then latch .b .fastOc 0 s else s)

/-! ### Contactor tests (R259 to R262) -/

/-- The contactors that a step of the job still to come at this tick 350 asks to open: K_PRE at step 5, all it has asked to
close at the timeout (R255). -/
def jobWillOpen (s : State) : Nat :=
  match s.saf.job, s.saf.copyA with
  | some j, some b =>
    if !j.precharge then 0
    else match j.s, j.commit with
      | _, some c => if c + 20 ≤ s.time.beat then kPre s else 0
      | some s0, none => if s0 + b.preTmax + 1 ≤ s.time.beat then j.asked else 0
      | none, none => 0
  | _, _ => 0

/-- A close or open request for Kk falls at this beat's tick 350 (R261): one that has acted there, or one that will. -/
def requestedNow (s : State) (k : Nat) : Bool :=
  if (s.saf.applied.map (·.1)) = some s.time.beat then (s.saf.applied.map (·.2)).any (fun m => m.testBit k)
  else
    let j := jobStep s
    let m := requestMasks j.1 (j.2.1 ||| jobWillOpen s) s
    (m.1 ||| m.2).testBit k

/-- Both switches of Kk are on as tick 350 begins (R259). -/
def testable (s : State) (k : Nat) : Bool :=
  if (s.saf.applied.map (·.1)) = some s.time.beat then s.saf.onBefore.testBit k else (bothOn s).testBit k

/-- This beat's TOGGLE edge is still to come to channel B (R250, R261). -/
def edgeAhead (s : State) : Bool :=
  s.saf.evalBeat == some s.time.beat && ((s.saf.applied.map (·.1)) != some s.time.beat || s.saf.edgePending)

/-- OFF_PULSE_TEST (R259 to R261): the slot of Kk at tick 350 of beats 100 + 200 k of each thousand. An HS test begins at
once; for an LS test channel A raises LS_TEST, which channel B takes at the edge. -/
def execOffPulseTest (k : Fin 4) (s : State) : Res :=
  let s := fresh s
  let c := s.saf.k[k]
  if awake s && s.saf.monitor && decide (s.time.beat % 1000 = 100 + 200 * k.val) && decide (tickOf s ≤ 350) &&
      testable s k.val && c.pulse.isNone && c.slotBeat != some s.time.beat then
    let s := atTick 350 s
    if requestedNow s k.val || (c.nextLs && !edgeAhead s) then
      let n := satAdd c.postponed 1 15
      let sets := decide (8 ≤ n) && !c.overdue
      let s := modK k.val (fun c => { c with postponed := n, overdue := c.overdue || sets, slotBeat := some s.time.beat }) s
      .next (if sets then recEvent 0x24 0 [toW k.val, beatLo s, toW n, 0] s else s)
    else if !(c.hs && c.ls) then .next s
    else
      .next (modK k.val (fun c =>
        if c.nextLs then { c with slotBeat := some s.time.beat, lsTest := true }
        else { c with slotBeat := some s.time.beat, pulse := some true, pulseOpened := false, hs := false }) s)
  else .next s

/-- OFF_PULSE_END (R234, R260 to R262): the switch is turned on again only where its channel still permits it. `maxMa` is the greatest current through the switch under test from 30 µs after the pulse
began. -/
def execOffPulseEnd (k : Fin 4) (maxMa : Nat) (s : State) : Res :=
  let s := fresh s
  let c := s.saf.k[k]
  match c.pulse with
  | none => .next s
  | some hsSide =>
    if !s.saf.monitor then .next s
    else
      let pass := decide (maxMa < 50)
      let may := if hsSide then permitBase s && c.req && !holdA s k.val else permitB s k.val c
      let on := pass && !c.pulseOpened && may
      let f := fun (c : Contactor) =>
        { c with pulse := none, pulseOpened := false, lastPass := pass, hs := c.hs || (hsSide && on), ls := c.ls || (!hsSide && on)
                 postponed := if pass then 0 else c.postponed, overdue := c.overdue && !pass
                 nextLs := if pass then hsSide else c.nextLs }
      let s := switching (modK k.val f) s
      .next (if pass then s else if hsSide then latch .a .testHs k.val s else latch .b .testLs k.val s)

/-! ### The contactor jobs (R255 to R258, 13 R330, R331) -/

/-- The DETAIL of the first start condition of a contactor job that fails (R330). -/
def contactorDetail (j kind : Nat) (s : State) : Option Nat :=
  let first := wBits (jobAt s j).arg 3 0
  if s.st.mode ≠ .run then some 1
  else if contactorJob s then some 4
  else if kind = 1 ∧ kPre s = 0 then some 9
  else if kind = 1 ∧ (first = 0 ∨ first &&& kMain s ≠ first ∨ first = kMain s) then some 2
  else if closedMask s &&& (kMain s ||| if kind = 1 then kPre s else 0) ≠ 0 then some 3
  else none

/-- A START of PRECHARGE or CLOSE_MAIN in an IDLE slot. A job started anew may close what no demand holds (R264). -/
def contactorStart (i : Fin 32) (j : Fin 8) (kind : Nat) (s : State) : State :=
  match contactorDetail j.val kind s with
  | some d => jobRefuse i j.val kind d s
  | none =>
    let late := decide (350 ≤ tickOf s) || (s.saf.applied.map (·.1)) == some s.time.beat
    let run : JobRun :=
      { (default : JobRun) with slot := j, precharge := kind == 1, first := wBits (jobAt s j.val).arg 3 0
                                start := if kind = 1 ∨ late = true then s.time.beat + 1 else s.time.beat }
    let s := allK (fun k c => { c with lockout := c.lockout && demanded s k }) s
    jobStart i j.val kind { s with saf := { s.saf with job := some run } }

/-- Tick 350 of this beat has not passed. -/
def beforeRequests (s : State) : Bool :=
  s.saf.monitor && decide (tickOf s ≤ 350) && (s.saf.applied.map (·.1)) != some s.time.beat

/-- PRECHARGE_COMMIT (R255 step 4, R256): at tick 350 of the beat after ten passing ones, not later than PRE_TMAX, and not
where an abort was latched before that tick. -/
def execPrechargeCommit (s : State) : Res :=
  let s := fresh s
  match s.saf.job, s.saf.copyA with
  | some j, some b =>
    match j.precharge, j.s, j.commit, j.cBeat with
    | true, some s0, none, some c =>
      let aborted := (j.abortAt.map (fun t => decide (t < s.time.beat * 400 + 350))).getD false
      if awake s && beforeRequests s && decide (c ≤ s.time.beat) && decide (s.time.beat ≤ s0 + b.preTmax) && !aborted then
        let s := atTick 350 s
        let rest := kMain s &&& (15 ^^^ j.first)
        let s := jobCommitted j.slot.val s
        let s := if j.abortAt.isSome then modJob j.slot.val (fun x => { x with abortLate := true }) s else s
        .next { s with saf := { s.saf with job := some { j with commit := some s.time.beat, asked := j.asked ||| rest, now := rest } } }
      else .next s
    | _, _, _, _ => .next s
  | _, _ => .next s

/-- PRECHARGE_END (R255 step 5): at tick 350 of the twentieth beat after the commit point. -/
def execPrechargeEnd (s : State) : Res :=
  let s := fresh s
  match s.saf.job with
  | some j =>
    match j.precharge, j.commit with
    | true, some c =>
      if awake s && beforeRequests s && decide (c + 20 ≤ s.time.beat) then
        let s := atTick 350 s
        let pre := kPre s
        .next (jobDone (allK (fun k x => if pre.testBit k then { x with openReq := true } else x) s))
      else .next s
    | _, _ => .next s
  | none => .next s

/-- PRECHARGE_TIMEOUT (R255): no commit point within PRE_TMAX beats of step 2. -/
def execPrechargeTimeout (s : State) : Res :=
  let s := fresh s
  match s.saf.job, s.saf.copyA with
  | some j, some b =>
    match j.precharge, j.s, j.commit with
    | true, some s0, none =>
      if awake s && beforeRequests s && decide (s0 + b.preTmax + 1 ≤ s.time.beat) && j.abortAt.isNone then
        let s := atTick 350 s
        .next (jobFail 5 (setAgain 0xB000 (2 ^ 8) { s with saf := { s.saf with preTimeout := true } }))
      else .next s
    | _, _, _ => .next s
  | _, _ => .next s

/-- An abort of the running contactor job (R256, R331): latched in its tick; from the commit point on ABORT_LATE. -/
def contactorAbort (s : State) : State :=
  match s.saf.job with
  | some j =>
    if j.commit.isSome then modJob j.slot.val (fun x => { x with abortLate := true }) s
    else modJob j.slot.val (fun x => { x with abortReq := true })
      { s with saf := { s.saf with job := some { j with abortAt := some (j.abortAt.getD (absTick s)) } } }
  | none => s

/-- K_CMD (Table 10-14): open requests for the next tick 350. -/
def kCmdWrite (v : Word) (s : State) : State :=
  if s.saf.monitor then allK (fun k c => if wBit v k then { c with openReq := true } else c) s else s

/-- Both channels open every contactor and refuse closing: the module leaves RUN (T8, R234). -/
def openAll (s : State) : State := switching (allK (fun _ c => c.offBoth)) s

/-! ### Registers (Tables 10-9 to 10-17) -/

/-- SF_STATUS. -/
def sfStatus (s : State) : Word :=
  let x := s.saf
  let any := fun (f : Nat → Bool) => (List.range 4).any f
  let fault := fun i => let y := getNat x.sin i; y.a.disc || y.a.tpFault || y.b.disc || y.b.tpFault
  if !x.monitor then 0
  else toW (bitAt (measuresIns s) 11 + bitAt x.dvRefused 10 + bitAt x.closeRefused 9 + bitAt x.preTimeout 8 +
    bitAt x.openLoad 7 + bitAt (any (fun k => (getNat x.k k).overdue)) 6 + bitAt (any fault) 5 + bitAt (any (demand s)) 4 +
    bitAt x.chgForbid 3 + bitAt x.latchB 2 + bitAt x.latchA 1 + bitAt true 0)

/-- K_STATE. -/
def kState (s : State) : Word :=
  toW (((List.range 4).map (fun k =>
    let c := getNat s.saf.k k
    let on := s.saf.monitor
    (bitAt c.hs 0 + bitAt c.ls 1 + bitAt (on && c.req) 2 + bitAt (on && (holdA s k || holdB s k)) 3 +
      bitAt (decide (50 ≤ c.hsMa)) 4 + bitAt (decide (50 ≤ c.lsMa)) 5 + bitAt c.coilOk 6) * 256 ^ k)).foldl (· + ·) 0)

/-- TEST_STAT. -/
def testStat (s : State) : Word :=
  toW (((List.range 4).map (fun k =>
    let c := getNat s.saf.k k
    (bitAt c.overdue 7 + bitAt c.lastPass 6 + bitAt c.nextLs 5 + fld c.postponed 0 4) * 256 ^ k)).foldl (· + ·) 0)

/-- SIN_STAT. -/
def sinStat (s : State) : Word :=
  toW (((List.range 4).map (fun i =>
    let y := getNat s.saf.sin i
    (fld (sinCfg s i).mode 6 2 + bitAt (y.a.tpFault || y.b.tpFault) 5 + bitAt (y.a.disc || y.b.disc) 4 + bitAt (demand s i) 2 +
      bitAt (asksB s i) 1 + bitAt (asksA s i) 0) * 256 ^ i)).foldl (· + ·) 0)

/-- An accumulator in units of 0.01 % of its I²t value. -/
def i2tLevel (k : Nat) (acc : F32) (full : Nat) : Nat :=
  let r := fToRat acc * 10000
  (clampI 0 10000 (divFree k r.num (r.den * full))).toNat

/-- The words of the safety block: zero before T6, but for K_STATE. -/
def safRead (o : Nat) (s : State) : Word :=
  let x := s.saf
  let cnt := fun i => fld (getNat x.sin i).a.count 0 16
  if o = 0x00C then kState s
  else if !x.monitor then 0
  else match o with
    | 0x000 => sfStatus s
    | 0x004 => causeWord s
    | 0x008 => toW (bitAt (aReady s) 31 + bitAt (bReady s) 30 + readyBits s)
    | 0x014 => testStat s
    | 0x018 => sinStat s
    | 0x01C => toW (cnt 1 * 65536 + cnt 0)
    | 0x020 => toW (cnt 3 * 65536 + cnt 2)
    | 0x024 =>
      let f := fun (g : SafetyBlock → Nat) => (x.copyA.map g).getD 0
      toW (i2tLevel s.time.beat x.i2tChg (f (·.i2tChg)) * 65536 + i2tLevel s.time.beat x.i2tDis (f (·.i2tDis)))
    | 0x028 => toW (bitAt x.chgForbid 31 + fld x.dirCount 0 16)
    | 0x02C => toW x.crcA
    | 0x030 => toW x.crcB
    | _ =>
      match arrIdx o 0x40 4 4 with
      | some k => let c := getNat x.k k; toW (fld c.lsMa 16 16 + fld c.hsMa 0 16)
      | none => 0

/-- Writes to the safety block. -/
def safWrite (o : Nat) (v : Word) (s : State) : State :=
  let x := s.saf
  match o with
  | 0x000 => { s with saf := { x with dvRefused := x.dvRefused && !wBit v 10, closeRefused := x.closeRefused && !wBit v 9
                                      preTimeout := x.preTimeout && !wBit v 8, openLoad := x.openLoad && !wBit v 7 } }
  | 0x010 => kCmdWrite v s
  | _ => s

end Sys2Proof.Machine
end

