-- ==== Sys2Proof/Machine/Fabric.lean ====
section
/-! DEFINITION. The fabric (12 R296 to R310): ports, duplicate discard, routing, discovery, addresses, and the banks with
their limits. -/

namespace Sys2Proof.Machine

/-! ### Ports and frames that arrive (R297 to R299, R304) -/

/-- The fabric block changed. -/
def modFab (f : Fab → Fab) (s : State) : State := { s with fab := f s.fab }

/-- One port changed. -/
def modPort (p : Fin 3) (f : PortSt → PortSt) (s : State) : State :=
  modFab (fun x => { x with port := updAt x.port p f }) s

/-- A frame discarded for an error (Table 12-10). -/
def badFrame (p : Fin 3) (s : State) : State := modPort p (fun x => { x with err := satAdd x.err 1 (2 ^ 32 - 1) }) s

/-- A duplicate discarded. -/
def dupFrame (p : Fin 3) (s : State) : State := modPort p (fun x => { x with dup := satAdd x.dup 1 (2 ^ 32 - 1) }) s

/-- This module's MAC address. -/
def ownMac : Nat := Config.mac.toNat

/-- Something seen in a beat is not yet 400 ms old. -/
def recent (now b : Nat) : Bool := decide (now ≤ b + 400)

/-- Bytes of a frame on the line: Ethernet header, the HSR tag on the ring, the header of Table 12-2, what follows it, and
the check sequence. -/
def lineBytes (h : FabHdr) : Nat := 14 + (if h.port.val < 2 then 6 else 0) + 24 + h.size + 4

/-- A frame reaches a port: counted; discarded with an error when it is longer than 1 522 bytes or tagged for a VLAN;
discarded when it comes back to its sender or is the second HSR copy; its sender joins the node table, or on P2 of a RedBox
the proxies (R297). `true` lets it go on. -/
def fabArrive (h : FabHdr) (s : State) : Bool × State :=
  let s := modPort h.port (fun x => { x with rx := satAdd x.rx 1 (2 ^ 32 - 1) }) s
  let now := s.time.beat
  if h.tagged || decide (1522 < lineBytes h) then (false, badFrame h.port s)
  else if h.mac = ownMac then (false, s)
  else if h.port.val < 2 then
    if s.fab.hsrSeen.any (fun x => x.1 == h.mac && x.2.1 == h.hsrSeq && recent now x.2.2) then (false, dupFrame h.port s)
    else
      let others := s.fab.nodeTable.filter (fun x => x.1 != h.mac)
      (true, modFab (fun x => { x with hsrSeen := x.hsrSeen ++ [(h.mac, h.hsrSeq, now)]
                                       nodeTable := if others.length < 128 then others ++ [(h.mac, now)] else others }) s)
  else if (fabCfg s).role ≠ 2 ∧ s.fab.proxies.contains h.mac = false ∧ s.fab.proxies.length < 16 then
    (true, modFab (fun x => { x with proxies := x.proxies ++ [h.mac] }) s)
  else (true, s)

/-- A frame of the module's own protocol (R298). -/
def ownProto (h : FabHdr) : Bool := h.etherType == 0x88B5

/-- A frame addressed to this module alone: by its address, or by MAC only (R298, R301). -/
def mine (h : FabHdr) (s : State) : Bool :=
  ownProto h && ((h.dst == 0 && h.ethDst == ownMac) || (h.dst != 0 && s.fab.addrValid && h.dst == s.fab.addr))

/-- A frame that is for this module: addressed to it alone, or for all (R298, R301). -/
def forMe (h : FabHdr) (s : State) : Bool := mine h s || (ownProto h && h.dst == 0xFFFF)

/-- What the ring hands out at P2: in a bridge by R304; else, with an end node on P2, what is for all and what is not for
this module, a frame by MAC only to the end node it names (log 27). -/
def outP2 (h : FabHdr) (s : State) : Bool :=
  let c := fabCfg s
  if c.role = 2 then
    ownProto h && (if h.dst = 0xFFFF then h.kind == 5 || h.kind == 8 || h.kind == 10
              else h.dst != 0 && c.routes.any (fun r => r.1 == h.dst / 1024))
  else if ownProto h && h.dst == 0 then s.fab.proxies.contains h.ethDst
  else !s.fab.proxies.isEmpty

/-- A bridge places the DST of a frame from P2 in its own ring: its prefix is the ring's, or a route record of another bridge
of the ring names it (R304). -/
def intoRing (h : FabHdr) (s : State) : Bool :=
  ownProto h && h.dst != 0 && (h.dst / 1024 == (fabCfg s).ring || Config.ringRoutes (h.dst / 1024))

/-- The ports by which a frame goes on, and whether the bridge cannot place it (R297, R304). -/
def onward (h : FabHdr) (s : State) : Nat × Bool :=
  if mine h s || (ownProto h && h.kind == 9) then (0, false)
  else if h.port.val < 2 then ((if h.port.val = 0 then 2 else 1) + (if outP2 h s then 4 else 0), false)
  else if (fabCfg s).role = 2 then
    if ownProto h ∧ h.dst = 0xFFFF then (if h.kind = 1 then 0 else 3, false)
    else if intoRing h s then (3, false)
    else (0, true)
  else (3, false)

/-- Two payload frames are one and the same: (SRC, KIND, SEQ), for STATION (SRC, DST, SEQ) (R299). -/
def samePay (h : FabHdr) (x : Nat × Nat × Nat × Nat × Nat) : Bool :=
  x.1 == h.src && x.2.1 == h.kind && x.2.2.1 == h.seq && (h.kind != 7 || x.2.2.2.1 == h.dst)

/-- What R298 asks of a frame: VER as FORMATS.FABRIC_PROTO, a KIND that is not reserved, and LEN as the frame has it, a
multiple of 4 up to 1 472; `fits` says the same of LEN against the payload that KIND lays down. -/
def headerOk (fits : Bool) (h : FabHdr) : Bool :=
  h.ver == 1 && h.kind != 0 && decide (h.kind ≤ 10) && h.len == h.size && h.len % 4 == 0 && decide (h.len ≤ 1472) && fits

/-- A frame for this module: discarded with an error by R298, or as a copy by R299; otherwise accepted. -/
def fabAccept (fits : Bool) (h : FabHdr) (s : State) : Bool × State :=
  if !headerOk fits h then (false, badFrame h.port s)
  else if s.fab.paySeen.any (fun x => samePay h x && recent s.time.beat x.2.2.2.2) then (false, dupFrame h.port s)
  else (true, modFab (fun x => { x with paySeen := x.paySeen ++ [(h.src, h.kind, h.seq, h.dst, s.time.beat)] }) s)

/-- A frame from a port to its delivery: `true` when this module accepts it. -/
def fabIn (fits : Bool) (h : FabHdr) (s : State) : Bool × State :=
  match fabArrive h s with
  | (false, s) => (false, s)
  | (true, s) =>
    let (ports, drop) := onward h s
    let s := if ports = 0 then s else put (.forward h.kind h.dst ports) s
    let s := if drop then modFab (fun x => { x with routeDrop := true }) (setAgain 0xD000 (2 ^ 4) s) else s
    if forMe h s && !drop then fabAccept fits h s else (false, s)

/-- A frame of one kind with a payload of `len` bytes, received and taken on by `f` where it is accepted. -/
def onFrame (kind len : Nat) (h : FabHdr) (f : State → State) (s : State) : State :=
  if awake s && h.kind == kind then
    match fabIn (h.len == len) h s with
    | (true, s) => f s
    | (false, s) => s
  else s

/-- HSR_FRAME_RECEIVE (R297 to R299, R304): any frame that brings this block no content of its own. -/
def execHsrFrameReceive (h : FabHdr) (s : State) : Res :=
  let s := fresh s
  .next (if awake s then (fabIn true h s).2 else s)

/-- SUPERVISION_FRAME (R297): every 2 000 ms the frames of this interval leave; those of the last one returned, or not, on
P0 and P1. -/
def execSupervisionFrame (backP0 backP1 : Bool) (s : State) : Res :=
  let s := fresh s
  if awake s && s.fab.supBeat.all (fun b => decide (b + 2000 ≤ s.time.beat)) then
    let one := s.fab.supBeat.isSome && backP0 != backP1
    let run := if one then satAdd s.fab.supRun 1 3 else 0
    .next (put .supervision (modFab (fun x => { x with supRun := run, supBeat := some s.time.beat
                                                       ringOpen := one && (x.ringOpen || run == 3) }) s))
  else .next s

/-- PORT_LINK_CHANGE (Table 12-10; 02 R60, R53): a port without a link has no path delay. -/
def execPortLinkChange (p : Fin 3) (up : Bool) (s : State) : Res :=
  let s := modPort p (fun x => { x with link := up }) (fresh s)
  .next (if up then s else { s with time := { s.time with pdelay := s.time.pdelay.set p 0 } })

/-! ### Discovery and addresses (R301 to R303) -/

/-- IDENT (00 Table 00-4). -/
def identWord : Word := 0x4800

/-- REVISION (00 Table 00-5). -/
def revisionWord (s : State) : Word :=
  toW (fld 1 24 8 + fld Config.hwMinor.toNat 16 8 + fld 1 8 8 + fld (fwMinorOf s s.upd.active) 0 8)

/-- DISCOVER payload (Table 12-14). -/
def discoverBytes (s : State) : List Byte :=
  let c := fabCfg s
  leB 6 ownMac ++ leB 2 0 ++ leB 4 identWord.toNat ++ leB 4 (revisionWord s).toNat ++ leB 1 s.st.mode.code ++
    leB 1 (bitAt s.fab.addrValid 0 + bitAt s.fab.addrConflict 1) ++ leB 2 0 ++ leB 2 (ownAddr s) ++ leB 1 c.role ++
    leB 1 0 ++ leB 2 c.bank ++ leB 2 c.claim ++ leB 4 ((s.cal.map (·.calId)).getD 0)

/-- An address that a module has shown, in a DISCOVER or a claim, each with the beat that showed it last. -/
def putPeer (p : Peer) (s : State) : State :=
  modFab (fun x => { x with
    peers := x.peers.filter (fun q => q.mac != p.mac || q.addr != p.addr || q.discovered != p.discovered) ++ [p] }) s

/-- The candidate of a dynamic address meets another module's address or claim: the module with the lower MAC address
keeps it, the other starts again (R302 step 3). -/
def candidateMet (mac addr : Nat) (s : State) : State :=
  if !s.fab.addrValid && decide (0 < s.fab.claims) && addr == s.fab.candidate && decide (mac < ownMac) then
    modFab (fun x => { x with claims := 0 }) s
  else s

/-- A taken address meets another module's: ADDR_CONFLICT, and the higher MAC address falls silent (R302). -/
def addressMet (mac addr : Nat) (s : State) : State :=
  if s.fab.addrValid && addr == s.fab.addr then
    modFab (fun x => { x with addrConflict := true, silenced := x.silenced || decide (mac < ownMac) }) s
  else s

/-- A DISCOVER received from the ring. -/
def takeDiscover (h : FabHdr) (b : DiscoverBody) (s : State) : State :=
  if h.port.val < 2 then
    let s := putPeer { mac := b.mac, addr := if b.addrValid then b.addr else 0, role := b.role, bank := b.bank
                       beat := s.time.beat, discovered := true } s
    if b.addrValid then addressMet b.mac b.addr (candidateMet b.mac b.addr s) else s
  else s

/-- DISCOVER (R301, R302): sent at tick 100 of beats ending in 500, or received. -/
def execDiscover (rx : Option (FabHdr × DiscoverBody)) (s : State) : Res :=
  let s := fresh s
  match rx with
  | some (h, b) => .next (onFrame 1 32 h (takeDiscover h b) s)
  | none =>
    if awake s && decide (s.time.beat % 1000 = 500) && mayAct .discover 100 s then
      let s := actAt .discover 100 s
      .next (sendFab none 1 0xFFFF s.time.beat none (outPorts 1 0xFFFF s) (discoverBytes s) s)
    else .next s

/-- The module looks for a dynamic address: a calibre with ADDR 0, and none taken (R302). -/
def claiming (s : State) : Bool :=
  awake s && s.st.mode.fromLoaded && (fabCfg s).addr == 0 && !s.fab.addrValid

/-- The lowest station number that the ring has not shown within the last 2 000 beats (R302 step 1). -/
def freeStation (s : State) : Nat :=
  let base := (fabCfg s).ring * 1024
  let shown := (s.fab.peers.filter (fun p => decide (s.time.beat ≤ p.beat + 2000))).map (·.addr)
  let n := ((List.range 1022).map (· + 1)).find? (fun k => !shown.contains (base + k))
  base + n.getD 1022

/-- An ADDR_CLAIM received from the ring. -/
def takeClaim (h : FabHdr) (addr : Nat) (s : State) : State :=
  if h.port.val < 2 then
    candidateMet h.mac addr (putPeer { mac := h.mac, addr := addr, role := 0, bank := 0, beat := s.time.beat
                                       discovered := false } s)
  else s

/-- ADDR_CLAIM (R302): sent at multiples of 100 beats, three times in a row, or received. -/
def execAddrClaim (rx : Option (FabHdr × Nat)) (s : State) : Res :=
  let s := fresh s
  match rx with
  | some (h, addr) =>
    .next (onFrame 2 8 h (takeClaim h addr) s)
  | none =>
    let f := s.fab
    let due := decide (s.time.beat % 100 = 0) && (f.claims == 0 || decide (f.claimBeat + 100 ≤ s.time.beat))
    if claiming s && due && decide (f.claims < 3) then
      let cand := if f.claims = 0 then freeStation s else f.candidate
      let s := modFab (fun x => { x with candidate := cand, claims := x.claims + 1, claimBeat := s.time.beat }) s
      .next (sendFab none 2 0xFFFF s.time.beat none (outPorts 2 0xFFFF s)
        (leB 2 cand ++ leB 2 0 ++ leB 1 (f.claims + 1) ++ leB 3 0) s)
    else .next s

/-- ADDRESS_TAKEN (R302 step 4). -/
def execAddressTaken (s : State) : Res :=
  let s := fresh s
  if claiming s && s.fab.claims == 3 && decide (s.fab.claimBeat + 100 ≤ s.time.beat) then
    .next (modFab (fun x => { x with addr := x.candidate, addrValid := true, dynamic := true, claims := 0 }) s)
  else .next s

/-- INS_RESULT (Table 12-3; 05 R131). -/
def execInsResult (h : FabHdr) (rPos rNeg endBeat : Nat) (s : State) : Res :=
  .next (onFrame 10 12 h (insReceived h.src h.string rPos rNeg endBeat) (fresh s))

/-! ### Banks (R306 to R310) -/

/-- BANK_RUN (Table 12-12): BANK ≠ 0 and the module is ARMED or beyond. -/
def bankRun (s : State) : Bool := awake s && (fabCfg s).bank != 0 && s.st.mode.fromArmed

/-- CONNECTED of Table 12-4. -/
def connected (s : State) : Bool :=
  s.st.mode == .run && (maskBits 4 (kMain s)).all (fun k => (getNat s.saf.k k).hs && (getNat s.saf.k k).ls)

/-- The BANK_STATE of this beat. -/
def bankBody (s : State) : BankBody :=
  let fe : FeSample := (s.meas.aligned.map (·.fe)).getD default
  { state := s.st.mode.code, connected := connected s, pair := inPair s, bank := (fabCfg s).bank
    dvJoin := (fabCfg s).dvJoin, vStr := fe.vStr, vLnk := fe.vLnk, iEpoch := divFree s.freeCtr s.fab.iEpoch 100
    epoch := intField ((s.time.beat / 100 : Nat) - 1) 32, lim := s.lim.lim.toList }

/-- BANK_STATE payload (Table 12-4). -/
def bankBytes (b : BankBody) : List Byte :=
  leB 1 b.state ++ leB 1 (bitAt b.connected 0 + bitAt b.pair 1) ++ leB 2 b.bank ++ leB 4 b.dvJoin ++ leI 4 b.vStr ++
    leI 4 b.vLnk ++ leI 4 b.iEpoch ++ leB 4 b.epoch ++ (padTo 0 8 b.lim).flatMap (leB 4)

/-- A BANK_STATE kept for its computation: one per STRING and beat, of a pair the higher CLAIM (R307). -/
def keepBank (f : BankFrame) (s : State) : State :=
  let same := fun (x : BankFrame) => x.string == f.string && x.beat == f.beat
  if s.fab.bankIn.any (fun x => same x && decide (f.claim ≤ x.claim)) then s
  else modFab (fun x => { x with bankIn := x.bankIn.filter (fun y => !same y) ++ [f] }) s

/-- A BANK_STATE received at a tick (R307, R308, Table 12-8): one of the beat before that comes at tick 340 or later is
too late for the computation that uses it. -/
def takeBank (h : FabHdr) (tick : Nat) (b : BankBody) (s : State) : State :=
  if bankRun s && b.bank == (fabCfg s).bank then
    let fb := beatFrom32 s.time.beat h.beat
    if fb = s.time.beat ∨ (fb + 1 = s.time.beat ∧ tick < 340) then
      keepBank { string := h.string, claim := h.claim, beat := fb, body := b } s
    else modFab (fun x => { x with lateRx := true }) (setAgain 0xD000 (2 ^ 5) s)
  else s

/-- BANK_STATE (R306, R307): sent at tick 360, or received. -/
def execBankState (rx : Option (FabHdr × Nat × BankBody)) (s : State) : Res :=
  let s := fresh s
  match rx with
  | some (h, tick, b) => .next (onFrame 5 56 h (takeBank h tick b) s)
  | none =>
    if bankRun s && mayAct .bankState 360 s then
      let s := actAt .bankState 360 s
      let b := bankBody s
      let s := keepBank { string := ownString s, claim := ownClaim s, beat := s.time.beat, body := b } s
      .next (tookFree 1 (sendFab none 5 0xFFFF s.time.beat none (outPorts 5 0xFFFF s) (bankBytes b) s))
    else .next s

/-- A member after the frames of the beat before (R308): with a frame its miss count is 0 and it is no longer MUTE;
without one the count rises. -/
def memberStep (frames : List BankFrame) (m : Member) : Member :=
  match frames.find? (fun f => f.string == m.string) with
  | some f => { m with body := f.body, claim := f.claim, beat := f.beat, miss := 0, mute := false }
  | none => { m with miss := min 3 (m.miss + 1) }

/-- Members in ascending STRING. -/
def insertMember (m : Member) : List Member → List Member
  | [] => [m]
  | x :: r => if m.string < x.string then m :: x :: r else x :: insertMember m r

/-- Step 1 of R308: exclusion. -/
def excludeStep (m : Member) : Member :=
  if m.included && (!m.body.connected || m.miss == 3) then
    { m with included := false, share := 0, mute := m.mute || m.miss == 3 }
  else m

/-- A candidate for admission. -/
def Member.candidate (got : Nat → Bool) (m : Member) : Bool :=
  !m.included && got m.string && m.body.connected && m.miss == 0

/-- V_bus over some members, exactly. -/
def meanLnk (l : List Member) : Rat :=
  (((l.map (·.body.vLnk)).foldl (fun a b => a + b) 0 : Int) : Rat) / ((l.length : Nat) : Rat)

/-- Step 2 of R308: admission against one V_bus. -/
def admitStep (got : Nat → Bool) (vb : Rat) (m : Member) : Member :=
  if m.candidate got && decide (ratAbs ((m.body.vStr : Rat) - vb) ≤ ((m.body.dvJoin : Nat) : Rat)) then
    { m with included := true }
  else m

/-- Σ of R309. -/
def epochSum (l : List Member) : Int :=
  ((l.filter (·.included)).map (·.body.iEpoch)).foldl (fun a b => a + b) 0

/-- Step 3 of R308: the shares of R309. -/
def shareStep (sum : Int) (m : Nat) (x : Member) : Member :=
  if !x.included then { x with share := 0 }
  else if 100000 * m ≤ sum.natAbs then
    { x with share := (max (Int.fdiv (x.body.iEpoch * 1000000) sum) 10000).toNat }
  else { x with share := 1000000 / m }

/-- One bank limit (R310); `after1` tells the STRINGs included after step 1 of R308. -/
def bankLimit (after1 : Nat → Bool) (l : List Member) (i : Nat) : Nat :=
  let inc := l.filter (·.included)
  let sIn := ((inc.filter (fun m => after1 m.string)).map (·.share)).foldl (fun a b => a + b) 0
  match inc.map (fun m => (m.body.lim.getD i 0) * sIn / m.share) with
  | [] => 0
  | v :: r => min (r.foldl min v) (2 ^ 32 - 1)

/-- The epoch evaluation: admission and shares, with what the registers keep of it. -/
def epochEval (got : Nat → Bool) (l : List Member) (s : State) : List Member × State :=
  let inc := l.filter (·.included)
  let cand := l.filter (fun m => m.candidate got)
  let base := if inc.isEmpty then cand else inc
  let vb := meanLnk base
  let l' := l.map (admitStep got vb)
  let sum := epochSum l'
  let m := (l'.filter (·.included)).length
  let own := ownString s
  let refused := l'.any (fun x => x.string == own && x.candidate got)
  let equal := decide (sum.natAbs < 100000 * m)
  let s := setAgainIf (decide (inc.length < m)) 0xD0C0 (2 ^ 4) (setAgainIf refused 0xD0C0 (2 ^ 6) s)
  (l'.map (shareStep sum m),
    tookFree 1 (modFab (fun x => { x with
      joined := x.joined || decide (inc.length < m), joinRefused := x.joinRefused || refused, shareEqual := equal
      vBus := if base.isEmpty then x.vBus else ratFree s.freeCtr vb
      bankSum := sum, bankEpoch := intField (((s.time.beat - 1) / 100 : Nat) - 1) 32 }) s))

/-- The computation of R308. -/
def bankCompute (s : State) : State :=
  let n := s.time.beat
  let frames := s.fab.bankIn.filter (fun f => f.beat + 1 == n)
  let known := s.fab.members.map (memberStep frames)
  let news := frames.filter (fun f => known.all (fun m => m.string != f.string))
  let all := news.foldl (fun l f => insertMember { string := f.string, body := f.body, claim := f.claim, beat := f.beat
                                                   miss := 0, included := false, mute := false, share := 0 } l) known
  let ex := all.map excludeStep
  let gone := all.any (fun m => m.included && !(excludeStep m).included)
  let s := modFab (fun x => { x with left := x.left || gone, bankIn := x.bankIn.filter (fun f => decide (n ≤ f.beat)) })
    (setAgainIf gone 0xD0C0 (2 ^ 5) s)
  let (l, s) := if n % 100 = 1 then epochEval (fun st => frames.any (fun f => f.string == st)) ex s else (ex, s)
  let after1 := fun (st : Nat) => ex.any (fun m => m.string == st && m.included)
  modFab (fun x => { x with members := l, bankCalc := Vector.ofFn (fun i : Fin 8 => bankLimit after1 l i.val) }) s

/-- BANK_COMPUTATION (R308 to R310): at tick 360. -/
def execBankComputation (s : State) : Res :=
  let s := fresh s
  if bankRun s && mayAct .bankCalc 360 s then .next (bankCompute (actAt .bankCalc 360 s)) else .next s

/-! ### Per beat -/

/-- What a new beat forgets on the fabric: entries past their time (R297, R299, R318, Table 12-1). -/
def fabricBeat (s : State) : State :=
  let now := s.time.beat
  modFab (fun x => { x with
    hsrSeen := x.hsrSeen.filter (fun e => recent now e.2.2), paySeen := x.paySeen.filter (fun e => recent now e.2.2.2.2)
    nodeTable := x.nodeTable.filter (fun e => decide (now ≤ e.2 + 60000))
    peers := x.peers.filter (fun p => decide (now ≤ p.beat + 2000))
    held := x.held.filter (fun e => decide (now ≤ e.2.2 + 3)) }) s

/-! ### Registers (Tables 12-7 to 12-13) -/

/-- FB_STATUS. -/
def fbStatus (s : State) : Word :=
  let x := s.fab
  toW (bitAt x.lateRx 5 + bitAt x.routeDrop 4 + bitAt x.claimLowRx 3 + bitAt x.addrConflict 2 + bitAt x.ringOpen 1 +
    bitAt x.addrValid 0)

/-- FB_PEERS. -/
def peerCount (s : State) : Nat :=
  min 31 (((s.fab.peers.filter (fun p => p.discovered && decide (s.time.beat ≤ p.beat + 2000))).map (·.mac)).eraseDups.length)

/-- PairSt codes (Table 12-11). -/
def PairSt.code : PairSt → Nat
  | .none => 0 | .waiting => 1 | .formed => 2 | .lost => 3

/-- BANK_STATUS. -/
def bankStatus (s : State) : Word :=
  let x := s.fab
  let own := x.members.any (fun m => m.string == ownString s && m.included)
  toW (bitAt (!x.members.any (·.included)) 7 * b2n (bankRun s) + bitAt x.joinRefused 6 + bitAt x.left 5 +
    bitAt x.joined 4 + bitAt (x.members.any (·.mute)) 3 + bitAt x.shareEqual 2 + bitAt own 1 + bitAt (bankRun s) 0)

/-- MEMBj_A and MEMBj_B. -/
def memberWord (s : State) (j : Nat) (b : Bool) : Word :=
  match s.fab.members[j]? with
  | some m =>
    if b then toW (fld m.share 0 20)
    else toW (bitAt true 31 + bitAt m.included 30 + bitAt m.mute 29 + bitAt m.body.connected 28 + bitAt m.body.pair 27 +
      fld m.miss 16 2 + fld m.string 0 16)
  | none => 0

/-- The words of the fabric and partner block. -/
def fabricRead (o : Nat) (s : State) : Word :=
  let x := s.fab
  let p := x.pair
  match o with
  | 0x000 => fbStatus s
  | 0x004 => toW (bitAt x.dynamic 18 + fld (fabCfg s).role 16 2 + fld (ownAddr s) 0 16)
  | 0x008 => toW ownMac
  | 0x00C => toW (ownMac / 2 ^ 32)
  | 0x010 => toW (peerCount s)
  | 0x080 =>
    toW (bitAt p.stepMismatch 6 + bitAt p.configBad 5 + bitAt p.yielded 4 + bitAt (inPair s && p.holder) 3 + p.st.code)
  | 0x088 =>
    if p.st = .none then 0
    else toW (fld (fabCfg s).partnerAddr 16 16 + fld ((p.partner.map (·.claim)).getD 0) 0 16)
  | 0x08C => toW (fld p.exchMiss 16 16 + fld p.statusMiss 0 16)
  | 0x0C0 => bankStatus s
  | 0x0C4 => toW x.bankEpoch
  | 0x0C8 => intW x.vBus
  | 0x0CC => intW x.bankSum
  | _ =>
    match arrIdx o 0x100 4 8, arrIdx o 0x120 4 8, arrIdx o 0x200 4 128 with
    | some i, _, _ => toW (getNat x.bankCalc i)
    | none, some i, _ => if s.st.mode = .run then toW (getNat x.bankCalc i) else 0
    | none, none, some i => memberWord s (i / 2) (i % 2 = 1)
    | none, none, none =>
      if 0x020 ≤ o ∧ o < 0x050 then
        let q := getNat x.port ((o - 0x020) / 16)
        match o % 16 with
        | 0 => toW (bitAt q.link 31)
        | 4 => toW q.rx
        | 8 => toW q.dup
        | _ => toW q.err
      else 0

/-- The words that reading a fabric register latches (R12). -/
def fabricLatch (o : Nat) : List Nat := if o = 0x008 then [0x00C] else []

end Sys2Proof.Machine
end

