-- ==== Sys2Proof/Machine/Pair.lean ====
section
/-! DEFINITION. Partner pairs (12 R311 to R320): STATUS and the forming and loss of a pair, the exchange of results,
front-end values, plans and delays, the holder, and the swap test. -/

namespace Sys2Proof.Machine

/-- The pair changed. -/
def modPair (f : Pair → Pair) (s : State) : State := modFab (fun x => { x with pair := f x.pair }) s

/-- The partner's fabric address. -/
def partnerAddr (s : State) : Nat := (fabCfg s).partnerAddr

/-- A PARTNER_X frame to the partner, the module's ring neighbour (Table 12-16). -/
def sendX (sub : Nat) (body : List Byte) (s : State) : State :=
  sendFab none 6 (partnerAddr s) s.time.beat none 3 (leB 1 sub ++ leB 3 0 ++ body) s

/-- A PARTNER_X frame with a payload of `len` bytes (R315), accepted, in a module of a pair. -/
def onExchange (len : Nat) (h : FabHdr) (f : State → State) (s : State) : State :=
  onFrame 6 len h (fun s => if inPair s && s.st.mode.fromLoaded then f s else s) s

/-- The same of the partner alone. -/
def onPartner (len : Nat) (h : FabHdr) (f : State → State) (s : State) : State :=
  onExchange len h (fun s => if h.src == partnerAddr s then f s else s) s

/-- A frame of the present beat. -/
def thisBeat (h : FabHdr) (s : State) : Bool := beatFrom32 s.time.beat h.beat == s.time.beat

/-! ### STATUS, forming and losing the pair (R311, R313, R317, R319) -/

/-- The pair digest of R311: CRC-32C over the payloads named, section 0x03 last with OWN_END as 0x00. -/
def pairDigest (s : State) : Nat :=
  match s.cal with
  | none => 0
  | some c =>
    let chain := ((c.payload 0x03).getD []).mapIdx (fun i b => if i = 7 then 0 else b)
    crc32c (([0x04, 0x06, 0x07, 0x08, 0x09, 0x0A, 0x0B, 0x0E].flatMap (fun t => (c.payload t).getD [])) ++ chain)

/-- LIM_CRC of Table 12-16. -/
def limCrc (s : State) : Nat := crc32c (s.lim.lim.toList.flatMap (leB 4))

/-- SIDES of the loaded calibre's safety block. -/
def sidesWord (s : State) : Nat := (s.saf.copyA.map (·.sides)).getD 0

/-- This module's STATUS. -/
def ownStatus (s : State) : StatusBody :=
  let c := fabCfg s
  let m := chainMap s
  { state := s.st.mode.code, holder := s.fab.pair.holder, yielded := s.fab.pair.yielded, aLatch := s.saf.latchA
    bLatch := s.saf.latchB, sides := sidesWord s, ownEnd := m.ownEnd, claim := c.claim, digest := pairDigest s
    limCrc := limCrc s, partnerAddr := c.partnerAddr, bank := c.bank, ends := m.ends, lines := m.lines, role := c.role }

/-- STATUS after SUB (Table 12-16). -/
def statusBytes (b : StatusBody) : List Byte :=
  leB 1 b.state ++ leB 1 (bitAt b.holder 0 + bitAt b.yielded 1 + bitAt b.aLatch 2 + bitAt b.bLatch 3) ++ leB 1 b.sides ++
    leB 1 b.ownEnd ++ leB 2 b.claim ++ leB 2 0 ++ leB 4 b.digest ++ leB 4 b.limCrc

/-- The two modules own complementary ends of every line, and every line has both ends in use (R311). -/
def endsMatch (a b : StatusBody) : Bool :=
  a.lines == b.lines && (maskBits 4 a.lines).all (fun l =>
    let f := fun (x : Nat) => x / 4 ^ l % 4
    f a.ends == 3 && f b.ends == 3 && f a.ownEnd + f b.ownEnd == 3 && f a.ownEnd != 0 && f b.ownEnd != 0)

/-- The configuration that R311 asks for. -/
def pairConfig (src : Nat) (a b : StatusBody) (own : Nat) : Bool :=
  a.role == 1 && b.role == 1 && a.partnerAddr == src && b.partnerAddr == own && a.claim != b.claim && a.bank == b.bank &&
    endsMatch a b && ((a.sides == 1 && b.sides == 2) || (a.sides == 2 && b.sides == 1)) && a.digest == b.digest

/-- A STATUS (R311, R313, R317): one counts for each beat; after LOST none does. One that comes from another module than
the one PARTNER_ADDR names breaks the second item of R311 and does nothing else. When the partner's claim becomes known
before ARMED, the positions are mapped anew (04 R100). -/
def takeStatus (h : FabHdr) (b : StatusBody) (s : State) : State :=
  let p := s.fab.pair
  if p.st = .none ∨ p.st = .lost then s
  else if h.src ≠ partnerAddr s then modPair (fun p => { p with configBad := true }) s
  else
    let remap := (p.partner.map (·.claim)) != some b.claim && !s.st.mode.fromArmed
    (fun t => if remap then mapTemps t else t) <|
    let ok := pairConfig h.src (ownStatus s) b (ownAddr s)
    let run := if !ok then 0 else if p.gotNow then p.goodRun else satAdd p.goodRun 1 3
    let diff := decide (b.limCrc ≠ limCrc s)
    let mis := if !diff then 0 else if p.gotNow then p.mismatchRun else satAdd p.mismatchRun 1 10
    modPair (fun p => { p with
      partner := some b, gotNow := true, missRun := 0, goodRun := run, configBad := p.configBad || !ok
      st := if p.st = .waiting ∧ run = 3 then .formed else p.st
      mismatchRun := mis, stepMismatch := p.stepMismatch || mis == 10 }) s

/-- A pair exists on this module's side: ROLE 1, from T4 on. -/
def pairOn (s : State) : Bool := awake s && inPair s && s.st.mode.fromLoaded

/-- STATUS (R313, Table 12-5): sent at tick 370, or received. -/
def execStatus (rx : Option (FabHdr × StatusBody)) (s : State) : Res :=
  let s := fresh s
  match rx with
  | some (h, b) => .next (onExchange 20 h (takeStatus h b) s)
  | none =>
    if pairOn s && mayAct .status 370 s then
      let s := actAt .status 370 s
      .next (sendX 7 (statusBytes (ownStatus s)) s)
    else .next s

/-- PAIR_LOST (R319): no STATUS in 3 consecutive beats, judged at tick 330. -/
def execPairLost (s : State) : Res :=
  let s := fresh s
  if pairOn s && s.fab.pair.st == .formed && decide (3 ≤ s.fab.pair.missRun) && decide (tickOf s ≤ 330) then
    .next (modPair (fun p => { p with st := .lost }) (atTick 330 s))
  else .next s

/-! ### The exchange (R313 to R316) -/

/-- The module takes part in the exchange of the beat: from T6 on. -/
def exchOn (s : State) : Bool := pairOn s && s.st.mode.fromArmed

/-- The node follows the other module's end. -/
def followsOther (s : State) (a : Nat) (w : Bool) : Bool := !hasEnd (ownBits s (a / 16)) (if w then .w else .e)

/-- RESULT_FWD (R316): taken as if this module's E8 had accepted it. -/
def execResultFwd (h : FabHdr) (node : Fin 64) (seq tick : Nat) (b : ResultBody) (s : State) : Res :=
  .next (onPartner 60 h (fun s =>
    let a := node.val
    if exchOn s && decide (210 ≤ tick ∧ tick ≤ 330 ∧ tickOf s ≤ 330) && seq == s.time.beat % 65536 &&
        (nodeRec s a).found && followsOther s a (b.nstat.testBit 2) then
      takeResult a b (modRec a (fun r => { r with followW := b.nstat.testBit 2 }) s)
    else s) (fresh s))

/-- AUX_FWD (R316). -/
def execAuxFwd (h : FabHdr) (node : Fin 64) (seq tick : Nat) (b : AuxBody) (s : State) : Res :=
  .next (onPartner 60 h (fun s =>
    let a := node.val
    if exchOn s && decide (20 ≤ tick ∧ tick ≤ 140 ∧ tickOf s ≤ 140) && (seq + 1) % 65536 == s.time.beat % 65536 &&
        (nodeRec s a).found && followsOther s a (nodeRec s a).followW then
      takeAux a b s
    else s) (fresh s))

/-- FRONT after SUB (Table 12-16). -/
def frontBytes (fe : FeSample) : List Byte :=
  leI 4 fe.i ++ leI 4 fe.vStr ++ leI 4 fe.vLnk ++ leB 4 (feCode fe.iBad + 16 * feCode fe.strBad + 256 * feCode fe.lnkBad)

/-- FRONT in the non-holder: the holder's values stand for the estimators' (R316). -/
def takeFront (b : FrontBody) (s : State) : State :=
  let fe : FeSample := { i := b.i, vStr := b.vStr, vLnk := b.vLnk, iBad := b.iCode != 0, strBad := b.strCode != 0
                         lnkBad := b.lnkCode != 0 }
  { modPair (fun p => { p with front := some (s.time.beat, b) }) s with
    meas := { s.meas with alignedE := some { beat := s.time.beat, fe := fe } } }

/-- FRONT (R314, R316): sent by the holder at tick 242, or received by the other. -/
def execFront (rx : Option (FabHdr × FrontBody)) (s : State) : Res :=
  let s := fresh s
  match rx with
  | some (h, b) => .next (onPartner 20 h (fun s => if exchOn s && !holder s && thisBeat h s then takeFront b s else s) s)
  | none =>
    match s.meas.aligned with
    | some a =>
      if exchOn s && holder s && a.beat == s.time.beat && mayAct .front 242 s then
        let s := actAt .front 242 s
        .next (sendX 3 (frontBytes a.fe) s)
      else .next s
    | none => .next s

/-- STREAM after SUB (Table 12-16): a sample that the front end did not deliver is sent as 0 and SUSPECT. -/
def streamBytes (s : State) : List Byte :=
  let l := s.meas.prevStream.toList
  l.flatMap (fun x => leI 4 ((x.map (·.i)).getD 0)) ++ leI 4 s.meas.iMean ++
    leB 4 (maskIf 8 (fun k => match (l[k]?).join with
      | some x => x.iBad
      | none => true)) ++ leI 8 s.meas.ownDq

/-- STREAM in the non-holder: the holder's mean and charge stand in place of its own (R316). -/
def takeStream (b : StreamBody) (s : State) : State :=
  let d := b.iMean - s.meas.iMean
  let f := if s.time.beat % 100 = 0 then { s.fab with iEpoch := s.fab.iEpoch + d } else { s.fab with epochAcc := s.fab.epochAcc + d }
  { modPair (fun p => { p with stream := some (s.time.beat, b) }) { s with fab := f } with
    meas := { s.meas with iMean := b.iMean, qSum := s.meas.qSum - s.meas.ownDq + b.dq, ownDq := b.dq } }

/-- STREAM (R314, R316): sent by the holder at tick 22, or received by the other. -/
def execStreamX (rx : Option (FabHdr × StreamBody)) (s : State) : Res :=
  let s := fresh s
  match rx with
  | some (h, b) => .next (onPartner 52 h (fun s => if exchOn s && !holder s && thisBeat h s then takeStream b s else s) s)
  | none =>
    if exchOn s && holder s && mayAct .stream 22 s then
      let s := actAt .stream 22 s
      .next (sendX 4 (streamBytes s) s)
    else .next s

/-- The CHIME and lock-in commands sent in this beat. -/
def stimCmds (s : State) : List CmdOut := (s.chain.cmdsOut.filter (fun c => c.op == 9 || c.op == 10)).take 16

/-- The chime currents at the next sample instant: node address, local position, mA. -/
def nextIc (s : State) : List (Nat × Nat × Nat) :=
  ((List.range s.meas.pos.length).filterMap (fun p => match placeOf s p with
    | some (_, k, a) => let ic := chimeIc s p (s.time.beat + 1)
                        if 0 < ic then some (a, k, ic) else none
    | none => none)).take 256

/-- PLAN after SUB (Table 12-16): the BLEED words are those of the beat that comes. -/
def planBytes (s : State) : List Byte :=
  let next := { s with time := { s.time with beat := s.time.beat + 1 } }
  let ps := if s.est.running then bleedOf next s.lim.plan else []
  let ic := nextIc s
  (List.range 4).flatMap (fun l => (bleedWords s l ps).flatMap (leB 2)) ++ leB 1 (stimCmds s).length ++ leB 1 0 ++
    leB 2 ic.length ++
    (stimCmds s).flatMap (fun c => leB 1 c.line ++ leB 1 c.addr ++ leB 1 c.op ++ leB 1 0 ++
      (padTo 0 12 c.args).flatMap (leB 1)) ++
    ic.flatMap (fun x => leB 1 x.1 ++ leB 1 x.2.1 ++ leB 2 x.2.2)

/-- A number from argument bytes. -/
def argNum (l : List Nat) : Nat := l.foldr (fun b n => b + 256 * n) 0

/-- One stimulus command of the holder joins this module's plan, so that R125 and R156 apply alike (R316; 06 Table
06-9). -/
def takeStim (s : State) (c : Nat × Nat × Nat × List Nat) : State :=
  let addr := c.2.1
  let a := c.2.2.2
  let n := s.time.beat
  if c.2.2.1 = 9 then
    let p := (List.range s.meas.pos.length).find? (fun p => match placeOf s p with
      | some (_, k, ad) => ad == addr && k == a.getD 0 0
      | none => false)
    match p with
    | none => s
    | some p =>
      let start := beatNext16 n (argNum ((a.drop 6).take 2))
      let cyc := argNum ((a.drop 4).take 2)
      let b : Burst := { pos := p, bin := a.getD 1 0, ampl := argNum ((a.drop 2).take 2), cycles := cyc, start := start
                         stop := start + burstBeats (a.getD 1 0) cyc }
      { s with spec := { s.spec with bursts := s.spec.bursts ++ [b]
                                     toSend := s.spec.toSend.filter (fun x => !(x.pos == p && x.start == start)) } }
  else
    let start := beatNext16 n (argNum ((a.drop 10).take 2))
    let r : LockRun := { addr := addr, bins := argNum (a.take 8), mask := argNum ((a.drop 8).take 2), start := start }
    { s with spec := { s.spec with locks := s.spec.locks.filter (fun x => decide (n < x.stop)) ++ [r]
                                   lockToSend := s.spec.lockToSend.filter (fun x => !(x.addr == addr && x.start == start)) } }

/-- PLAN (R314, R316): sent by the holder at tick 370, or received by the other. -/
def execPlan (rx : Option (FabHdr × PlanBody)) (s : State) : Res :=
  let s := fresh s
  match rx with
  | some (h, b) =>
    .next (onPartner (136 + 16 * b.cmds.length + 4 * b.ic.length) h (fun s =>
      if exchOn s && !holder s && thisBeat h s then
        b.cmds.foldl takeStim (modPair (fun p => { p with plan := some (s.time.beat, b) }) s)
      else s) s)
  | none =>
    if exchOn s && holder s && mayAct .plan 370 s then
      let s := actAt .plan 370 s
      .next (sendX 5 (planBytes s) s)
    else .next s

/-- DELAYS (R313): the lower claim sends a delay from its end after each set, and the higher one has it written. -/
def execDelays (rx : Option (FabHdr × Fin 64 × End × Nat)) (s : State) : Res :=
  let s := fresh s
  match rx with
  | some (h, node, d, v) =>
    .next (onPartner 8 h (fun s =>
      if higherClaim s && (nodeRec s node.val).found then
        let old := (nodeRec s node.val).dOf d
        if s.st.mode.fromArmed = true ∧ ((v : Int) - old).natAbs < 2 then s else modRec node.val (NodeM.withNew d v) s
      else s) s)
  | none =>
    match s.fab.pair.delays with
    | (a, w, v) :: r =>
      if pairOn s then
        .next (sendX 6 (leB 1 a ++ leB 1 (b2n w) ++ leB 2 v) (modPair (fun p => { p with delays := r }) s))
      else .next s
    | [] => .next s

/-! ### The holder's swap test (R320) and what a beat does -/

/-- A write of PAIR_CTRL (R320): YIELD, then RECLAIM. -/
def pairCtrlWrite (v : Word) (s : State) : RspCode × State :=
  let p := s.fab.pair
  let stop := s.st.mode == .stop
  if wBit v 31 && !(stop && inPair s && p.holder && p.st == .formed && !p.yielded) then (.access, s)
  else if wBit v 30 && !(stop && inPair s && p.yielded) then (.access, s)
  else
    let s := if wBit v 31 then modPair (fun p => { p with yieldNext := true }) s else s
    (.ok, if wBit v 30 then modPair (fun p => { p with reclaimAt := some ((s.time.beat / 1000 + 1) * 1000) }) s else s)

/-- A beat with FRONT or STREAM missing in the non-holder is counted (R316), at tick 330. -/
def exchJudge (s : State) : State :=
  let n := s.time.beat
  let got := (s.fab.pair.front.map (·.1)) == some n && (s.fab.pair.stream.map (·.1)) == some n
  if exchOn s && !holder s && !got then modPair (fun p => { p with exchMiss := satAdd p.exchMiss 1 65535 }) s else s

/-- The start of a beat for the pair: the STATUS of the beat before is counted as come or missing (R313, R319), and YIELD
and RECLAIM act (R320). -/
def pairBeat (s : State) : State :=
  if pairOn s then
    let n := s.time.beat
    modPair (fun p =>
      let p := if p.gotNow then p else { p with missRun := satAdd p.missRun 1 3, goodRun := 0, mismatchRun := 0
                                                statusMiss := satAdd p.statusMiss 1 65535 }
      let p := { p with gotNow := false }
      let p := if p.yieldNext then { p with yielded := true, yieldNext := false, holder := false } else p
      match p.reclaimAt with
      | some b => if b ≤ n then { p with yielded := false, reclaimAt := none, holder := true } else p
      | none => p) s
  else s

end Sys2Proof.Machine
end

