-- ==== Sys2Proof/Machine/Commit.lean ====
section
/-! DEFINITION. The commits of ticks 20 and 330 (05 R121, R122, 04 R97): positions, temperatures, taps, absences, the accord window, the window
history, the stimulus charge and the shown summary, in one step. -/

namespace Sys2Proof.Machine

/-- CHARGE_COMMIT (05 R121, R122, 07 R176, R181, 08 R213): at tick 20 of every beat. -/
def execChargeCommit (s : State) : Res :=
  let s := fresh s
  if awake s && s.st.mode.fromLoaded && mayAct .charge 20 s then
    .next (cellReview (restPositions (restJudge (epochBeat (chargeCommit (actAt .charge 20 s))))))
  else .next s

/-- CHAIN_COMMIT (04 R97, R108, R112; 05 R118, R123, R125, R126, R132 to R138; 07 R176, R189; 12 R316). -/
def chainCommit (s : State) : State :=
  let s := exchJudge s
  let s := posCommit s
  let s := tempCommit s
  let s := tapCommit s
  let s := judgeAbsent s
  let s := accordBeat s
  let s := histBeat s
  let s := tapTemps (stimBeat s)
  summaryShow s

/-- CHAIN_COMMIT: once in a beat, from ARMED on. -/
def execChainCommit (s : State) : Res :=
  let s := fresh s
  if awake s && s.st.mode.fromArmed && s.est.running && mayAct .commit 330 s then
    .next (chainCommit (actAt .commit 330 s))
  else .next s

end Sys2Proof.Machine
end

