-- ==== Sys2Proof/Machine/FieldIo.lean ====
section
/-! DEFINITION. The field channels and temperature inputs (14 R357 to R364): filters, counters, outputs with their
faults, the silence watch, conversions, and their registers. -/

namespace Sys2Proof.Machine

/-- The I/O personality of the loaded calibre. -/
def ioPers (s : State) : IoPers := (s.cal.map (·.io)).getD default

/-- The IO record of channel k. -/
def ioCfg (s : State) (k : Nat) : IoCfg := ((ioPers s).io[k]?).getD { mode := 0, filter := 0, safe := false, wb := false }

/-- The personality that channel k has now: off before T6 (Table 14-5). -/
def ioMode (s : State) (k : Nat) : Nat := if s.fio.live then (ioCfg s k).mode else 0

/-- One channel changed. -/
def modIo (k : Nat) (f : IoCh → IoCh) (s : State) : State := { s with fio := { s.fio with io := updNat s.fio.io k f } }

/-- A channel. -/
def ioAt (s : State) (k : Nat) : IoCh := getNat s.fio.io k

/-- The value driven after hold-off (FIO_OUT). -/
def IoCh.out (c : IoCh) : Bool := c.driven && !c.overload && !c.overtemp

/-- The filtered state of an input: 0 while its wire is broken (Table 14-6). -/
def IoCh.level (c : IoCh) : Bool := c.filtered && !c.openWire

/-- A live fault bit stands (R360). -/
def IoCh.fault (c : IoCh) : Bool := c.overload || c.overtemp || c.readback || c.openWire

/-- A live fault bit is set: FAULT_SEEN and FAULT_SEEN_ANY with it. -/
def setFault (k : Nat) (f : IoCh → IoCh) (s : State) : State :=
  let s := modIo k (fun c => { f c with seen := true }) (setAgain 0xF000 1 (setAgain (0xF040 + 4 * k) 1 s))
  { s with fio := { s.fio with faultSeenAny := true } }

/-- Input word 0 and input word 1 (11 Table 11-3). -/
def inWord0 (s : State) : Nat := maskIf 16 (fun k => ioMode s k == 1 && (ioAt s k).level)
/-- Bit k of input word 1 is the OR of the live fault bits of IOk. -/
def inWord1 (s : State) : Nat := maskIf 16 (fun k => (ioAt s k).fault)

/-! ### Inputs (R357, R358) -/

/-- INPUT_FILTER_CHANGE (R357). -/
def execInputFilterChange (k : Fin 16) (level : Bool) (s : State) : Res :=
  let s := fresh s
  .next (if awake s && ioMode s k.val == 1 then modIo k.val (fun c => { c with filtered := level }) s else s)

/-- COUNTER_EDGE (R358): a count wraps. -/
def execCounterEdge (k : Fin 4) (s : State) : Res :=
  let s := fresh s
  .next (if awake s && ioMode s k.val == 3 then
    { s with fio := { s.fio with cnt := updAt s.fio.cnt k (fun n => (n + 1) % 2 ^ 32) } } else s)

/-- A write of CNT_CLR (R358). -/
def cntClear (v : Word) (s : State) : State :=
  { s with fio := { s.fio with cnt := mapAll s.fio.cnt (fun k n => if wBit v k then 0 else n) } }

/-! ### Outputs (R359 to R361) -/

/-- OVERLOAD (R360): only a switch that is on meets its current limit. -/
def execOverload (k : Fin 16) (s : State) : Res :=
  let s := fresh s
  .next (if awake s && ioMode s k.val == 2 && (ioAt s k.val).out then
    setFault k.val (fun c => { c with overload := true }) s else s)

/-- OVERTEMP (R360): above 150 °C the switch is held off; below 130 °C it has cooled. -/
def execOvertemp (k : Fin 16) (tempC : Int) (s : State) : Res :=
  let s := fresh s
  if awake s && ioMode s k.val == 2 then
    if 150 < tempC then
      .next (if (ioAt s k.val).overtemp then modIo k.val (fun c => { c with cool := false }) s
        else setFault k.val (fun c => { c with overtemp := true, cool := false }) s)
    else if tempC < 130 then .next (modIo k.val (fun c => { c with cool := true }) s)
    else .next s
  else .next s

/-- READBACK (R360): the terminal has disagreed with the driven value for 1 ms. -/
def execReadback (k : Fin 16) (s : State) : Res :=
  let s := fresh s
  let c := ioAt s k.val
  .next (if awake s && ioMode s k.val == 2 && !c.overload && !c.overtemp && !c.readback then
    setFault k.val (fun c => { c with readback := true }) s else s)

/-- READBACK_CLEAR (R360). -/
def execReadbackClear (k : Fin 16) (s : State) : Res :=
  let s := fresh s
  .next (if awake s && ioMode s k.val == 2 then modIo k.val (fun c => { c with readback := false }) s else s)

/-- A wire break is judged on a channel: an output that is driven 1, or an input with WB = 1. -/
def wireJudged (s : State) (k : Nat) : Bool :=
  (ioMode s k == 2 && (ioAt s k).driven) || (ioMode s k == 1 && (ioCfg s k).wb)

/-- OPEN_WIRE (R360). -/
def execOpenWire (k : Fin 16) (s : State) : Res :=
  let s := fresh s
  .next (if awake s && wireJudged s k.val && !(ioAt s k.val).openWire then
    setFault k.val (fun c => { c with openWire := true }) s else s)

/-- OPEN_WIRE_CLEAR (R360). -/
def execOpenWireClear (k : Fin 16) (s : State) : Res :=
  let s := fresh s
  .next (if awake s && s.fio.live then modIo k.val (fun c => { c with openWire := false }) s else s)

/-- A channel under an output phase that drives a value (Table 14-6): a driven 0 ends OVERLOAD, OVERTEMP of a switch
that has cooled, and an output's OPEN_WIRE. -/
def IoCh.drive (v : Bool) (c : IoCh) : IoCh :=
  if v then { c with driven := true }
  else { c with driven := false, overload := false, overtemp := c.overtemp && !c.cool, openWire := false }

/-- An output phase reaches the block (R359, R361): it arms the silence watch, restarts it and clears SILENT. -/
def drivePhase (vals : Nat → Bool) (s : State) : State :=
  if s.fio.live then
    let io : Vector IoCh 16 := mapAll s.fio.io (fun k c => if ioMode s k = 2 then c.drive (vals k) else c)
    { s with fio := { s.fio with io := io, armed := true, since := 0, phaseNs := s.time.ns, silent := false } }
  else s

/-- Nanoseconds since the watch restarted (R361). -/
def silentNs (s : State) : Nat := s.fio.since * 1000000 + s.time.ns - s.fio.phaseNs

/-- SILENCE_EXPIRY (R361): no output phase for SILENCE ms. -/
def execSilenceExpiry (s : State) : Res :=
  let s := fresh s
  if awake s && s.fio.live && s.fio.armed && !s.fio.silent && decide ((ioPers s).silence * 1000000 ≤ silentNs s) then
    let io : Vector IoCh 16 := mapAll s.fio.io (fun k c =>
      if ioMode s k = 2 then { c with driven := (ioCfg s k).safe, openWire := c.openWire && (ioCfg s k).safe } else c)
    let s := setAgain 0xF000 2 s
    .next { s with fio := { s.fio with io := io, silent := true, tripSeen := true, trips := satAdd s.fio.trips 1 65535 } }
  else .next s

/-- T6: the personality takes effect, counts start at 0, and the watch waits for the first output phase. -/
def fioStart (s : State) : State :=
  { s with fio := { (default : Fio) with live := true, th := s.fio.th, faultSeenAny := s.fio.faultSeenAny
                                         tripSeen := s.fio.tripSeen } }

/-- Outputs off and the watch disarmed (R362). -/
def fioOff (s : State) : State := { s with fio := Fio.reset }

/-- A beat of the silence watch. -/
def fioBeat (s : State) : State :=
  if s.fio.armed then { s with fio := { s.fio with since := satAdd s.fio.since 1 65535 } } else s

/-! ### Temperature inputs (R363, R364) -/

/-- Series of 2 atanh z in units of 2⁻¹⁰⁰, for z in the same units. -/
def atanhTwice (z : Nat) : Nat :=
  let one := 2 ^ 100
  let rec go (fuel k p acc : Nat) : Nat :=
    match fuel with
    | 0 => acc
    | f + 1 => go f (k + 2) (p * z / one * z / one) (acc + p / k)
  2 * go 48 1 z 0

/-- ln (n / d) to about 2⁻⁹⁰, as a rational: n / d is brought into 1 to 2 by a power of two (DEDUCED, log 28). -/
def lnRat (n d : Nat) : Rat :=
  let one := 2 ^ 100
  let e : Int := (Nat.log2 (n * 2 ^ 64 / d) : Int) - 64
  let (a, b) := if 0 ≤ e then (n, d * 2 ^ e.toNat) else (n * 2 ^ (-e).toNat, d)
  let m := atanhTwice ((a - b) * one / (a + b))
  let l2 := atanhTwice (one / 3)
  (((m : Int) + e * l2 : Int) : Rat) / (one : Nat)

/-- To the nearest 0.01 °C, as the example of R364 is stored (DEDUCED, log 28). -/
def centi (k : Nat) (kelvin : Rat) : Int :=
  let x := (kelvin - 5463 / 20) * 100
  nearFree k x.num x.den

/-- Temperature of a TH input in 0.01 °C from the measured resistance in mΩ, or the ΔV in nV (R364); `none` for a reading
that gives no temperature. -/
def thTemp (k : Nat) (c : ThCfg) (raw : Nat) : Option Int :=
  if raw = 0 then none
  else if c.kind = 1 then
    let x : Rat := 100 / 29815 + lnRat raw 10000000 / ((c.beta : Nat) : Rat)
    if x ≤ 0 then none else some (centi k (1 / x))
  else
    let n : Rat := ((1000000 + c.beta : Nat) : Rat) / 1000000
    some (centi k (((raw : Nat) : Rat) / 1000000000 * (16021766340 / 1380649) / (n * lnRat 10 1)))

/-- A TH value with its code (R363). -/
def TempPt.takeTh (beat : Nat) (v : Option Int) (t : TempPt) : TempPt :=
  match v with
  | some x => if -4000 ≤ x ∧ x ≤ 15000 then { t with held := x, heldBeat := some beat, code := .valid }
              else { t with code := .suspect }
  | none => { t with code := .suspect }

/-- TH_CONVERSION (R363): at tick 200 of beats that are multiples of 10, from T4 on; committed at tick 330. -/
def execThConversion (raw : List Nat) (s : State) : Res :=
  let s := fresh s
  if awake s && s.st.mode.fromLoaded && decide (s.time.beat % 10 = 0) && mayAct .thermistors 330 s then
    let s := actAt .thermistors 330 s
    let th : Vector TempPt 6 := mapAll s.fio.th (fun t x =>
      if x.mapped then
        x.takeTh s.time.beat (thTemp (s.freeCtr + t) (((ioPers s).th[t]?).getD default) (raw.getD t 0))
      else x)
    .next (tookFree 6 { s with fio := { s.fio with th := th } })
  else .next s

/-- T4: every TH input with KIND ≠ 0 holds 0 and reads STALE. -/
def thStart (s : State) : State :=
  { s with fio := { s.fio with th := Vector.ofFn (fun t : Fin 6 =>
      TempPt.start ((((ioPers s).th[t.val]?).getD default).kind != 0)) } }

/-! ### Registers (Tables 14-13 to 14-15) -/

/-- FIO_STATUS. -/
def fioStatus (s : State) : Word :=
  let x := s.fio
  toW (bitAt (x.th.toList.any (fun t => t.mapped && t.codeTh s.time.beat == .stale)) 3 + bitAt x.silent 2 +
    bitAt x.tripSeen 1 + bitAt x.faultSeenAny 0)

/-- The terminal of a channel at 11 V or more, as far as the spec's events tell it: an output's terminal disagrees with
its value exactly while READBACK stands, an input's is its filtered state (DESIGN CHOICE, log 28). -/
def terminal (s : State) (k : Nat) : Bool :=
  let c := ioAt s k
  match ioMode s k with
  | 1 => c.filtered
  | 2 => c.out != c.readback
  | _ => false

/-- IOk_STAT. -/
def ioStat (s : State) (k : Nat) : Word :=
  let c := ioAt s k
  toW (fld (ioMode s k) 24 2 + bitAt (s.fio.live && (ioCfg s k).safe) 16 + bitAt c.overtemp 4 + bitAt c.overload 3 +
    bitAt c.openWire 2 + bitAt c.readback 1 + bitAt c.seen 0)

/-- THt. -/
def thWord (s : State) (t : Nat) : Word :=
  let x := getNat s.fio.th t
  let now := s.time.beat
  if x.mapped then toW (fld (ageOf 4095 now x.heldBeat) 20 12 + fld (x.codeTh now).code 16 3 + intField x.held 16)
  else if s.cal.isSome then toW (fld (unusedAge 12) 20 12 + fld 7 16 3) else 0

/-- The words of the field I/O block. -/
def fioRead (o : Nat) (s : State) : Word :=
  let x := s.fio
  match o with
  | 0x000 => fioStatus s
  | 0x008 => toW (inWord0 s)
  | 0x00C => toW (maskIf 16 (fun k => ioMode s k == 2 && (ioAt s k).out))
  | 0x010 => toW (maskIf 16 (terminal s))
  | 0x014 => toW (inWord1 s)
  | 0x018 => toW (fld x.trips 16 16 + fld (if x.armed then min (silentNs s / 1000000) 255 else 0) 0 8)
  | _ =>
    match arrIdx o 0x40 4 16, arrIdx o 0x80 4 4, arrIdx o 0xA0 4 6 with
    | some k, _, _ => ioStat s k
    | none, some k, _ => toW (getNat x.cnt k)
    | none, none, some t => thWord s t
    | none, none, none => 0

/-- Writes to the field I/O block. -/
def fioWrite (o : Nat) (v : Word) (s : State) : State :=
  match o with
  | 0x000 => { s with fio := { s.fio with tripSeen := s.fio.tripSeen && !wBit v 1
                                          faultSeenAny := s.fio.faultSeenAny && !wBit v 0 } }
  | 0x004 => cntClear v s
  | _ =>
    match arrIdx o 0x40 4 16 with
    | some k => modIo k (fun c => { c with seen := c.seen && !wBit v 0 }) s
    | none => s

end Sys2Proof.Machine
end

