-- ==== Sys2Proof/Machine/CalCheck.lean ====
section
/-! DEFINITION. The checks of a calibre image in the order of 03 R414: reception checks at the points words reach, then
the post-reception checks, each with its code of Table 03-8 and the place it names. The tunable fields of Table 03-5
and the checks of an online batch (R80, R81) stand at the end. -/

namespace Sys2Proof.Machine

/-- Loader error codes (Table 03-8). -/
inductive LdErr where
  | magic | format | device | length | directory | sectionHead | sectionCrc | overflow | imageCrc | missing | range
  | crossRef | ledger | logicFit | safetyTwin | sigMissing | sigBad | timeout | aborted
  deriving DecidableEq, Repr

/-- The code of Table 03-8. -/
def LdErr.code : LdErr → Nat
  | .magic => 1 | .format => 2 | .device => 3 | .length => 4 | .directory => 5 | .sectionHead => 6
  | .sectionCrc => 7 | .overflow => 8 | .imageCrc => 9 | .missing => 10 | .range => 11 | .crossRef => 12
  | .ledger => 13 | .logicFit => 14 | .safetyTwin => 15 | .sigMissing => 16 | .sigBad => 17 | .timeout => 18
  | .aborted => 19

/-- A failed check: its code, DETAIL, the section and the place; `none` where no rule says which (log 14). -/
structure Fail where
  err : LdErr
  detail : Nat := 0
  sect : Nat := 0
  place : Option Nat := some 0
  deriving DecidableEq, Repr

/-- The place of a condition that must hold, where it fails. -/
def must (c : Bool) (o : Nat) : List Nat := if c then [] else [o]

/-- A number within limits. -/
def within (lo hi x : Nat) : Bool := decide (lo ≤ x ∧ x ≤ hi)
/-- A signed number within limits. -/
def withinI (lo hi x : Int) : Bool := decide (lo ≤ x ∧ x ≤ hi)
/-- A divisor of m. -/
def divides (d m : Nat) : Bool := d != 0 && m % d == 0

/-- The places of bytes in [a, b) that are not zero (R62). -/
def zeros (p : Bytes) (a b : Nat) : List Nat :=
  ((List.range (b - a)).map (· + a)).filter (fun o => p.getD o 0 != 0)

/-- The least of a list of places. -/
def firstOf (l : List Nat) : Option Nat :=
  l.foldl (fun m o => match m with | none => some o | some x => some (min x o)) none

/-- Something for each index below n. -/
def each (n : Nat) (f : Nat → List Nat) : List Nat := (List.range n).flatMap f

/-- No two entries of a list agree: the indices of those that repeat an earlier one. -/
def repeats {α : Type} [DecidableEq α] (l : List α) : List Nat :=
  (List.range l.length).filter (fun j => match l[j]? with
    | some x => (l.take j).contains x
    | none => false)

/-- Strictly rising: the indices of entries not above the one before. -/
def notRising (l : List Int) : List Nat :=
  (List.range l.length).filter (fun j => j != 0 && decide (l.getD j 0 ≤ l.getD (j - 1) 0))

/-! ### Point 4: LENGTH against a section's own counts -/

/-- The length the counts of a payload give; for FORM 1 of section 0x0E the least length (R414). -/
def countLen (t : Nat) (p : Bytes) : Nat :=
  match t with
  | 2 => 8 + 16 * rU16 p 2
  | 3 => 0x20 + 24 * rU8 p 4
  | 4 => tapBase p + 8 * (rdTapCounts p).foldl (· + ·) 0
  | 6 => (rdTables p (rU16 p 2) 0x24).2
  | 9 => 4 + 48 * rU8 p 0 + 4 * rU8 p 1
  | 10 => (rdScheds p (rU8 p 0) 4).2
  | 11 => 4 + 16 * rU8 p 0
  | 14 => lgCodeBase p + (if rU8 p 0 = 1 then 0 else 4 * rU16 p 2)
  | 16 => 64 + 12 * (canNPub p 0 + canNPub p 1)
  | 17 => 0x30 + 4 * rU16 p 0x2C
  | 18 => 0x24 + up4 (rU16 p 0x20)
  | 19 => streamB p + 4 + 4 * rU16 p (streamB p)
  | _ => p.size

/-- A LENGTH that disagrees with the counts of its payload; the place is where payload and counts part (log 14). -/
def countFail (t : Nat) (p : Bytes) : Option Fail :=
  let n := countLen t p
  let ok := if t = 14 ∧ rU8 p 0 = 1 then decide (n ≤ p.size) else n == p.size
  if ok then none else some { err := .sectionHead, sect := t, place := some (min n p.size) }

/-! ### RANGE: the places in each payload where a field lies outside its limits (Table 03-3 to Table 03-6) -/

/-- Header payload: reserved places only; the fields have checks of their own. -/
def rangeHeader (p : Bytes) : List Nat :=
  zeros p 0x1A 0x1C ++ must (rU8 p 0x1E < 2) 0x1E ++ zeros p 0x1F 0x20 ++
    each (rU16 p 0x1C) (fun k => zeros p (0x21 + 8 * k) (0x24 + 8 * k))

/-- Section 0x02 (R66: N_ITEMS, FLAGS, BUDGET and reserved bytes). -/
def rangeLedger (p : Bytes) : List Nat :=
  must (within 1 1024 (rU16 p 2)) 2 ++ zeros p 4 8 ++
    each (rU16 p 2) (fun i =>
      let o := 8 + 16 * i
      must (rU8 p (o + 1) < 4) (o + 1) ++ must (within 1 396000 (rU32 p (o + 8))) (o + 8))

/-- Section 0x03; `role` is ROLE of section 0x11: outside a partner pair OWN_END is 0b00 for every line (Table 03-4). -/
def rangeChain (role : Nat) (p : Bytes) : List Nat :=
  must (within 1 1024 (rU16 p 0)) 0 ++ must (within 1 256 (rU16 p 2)) 2 ++ must (within 1 64 (rU8 p 4)) 4 ++
    must (rU8 p 5 < 16) 5 ++
    each 4 (fun l => must (!(rU8 p 5).testBit l || rU8 p 6 / 4 ^ l % 4 != 0) 6) ++
    each 4 (fun l => must (rU8 p 7 / 4 ^ l % 4 != 3) 7) ++ must (role == 1 || rU8 p 7 == 0) 7 ++ zeros p 12 0x20 ++
    each (rU8 p 4) (fun j =>
      let o := 0x20 + 24 * j
      must (rU8 p o < 4) o ++ must (rU8 p (o + 1) < 16) (o + 1) ++ must (rU8 p (o + 2) < 2) (o + 2) ++
        zeros p (o + 3) (o + 4) ++ zeros p (o + 17) (o + 18) ++ must (rU16 p (o + 18) ≤ 4096) (o + 18) ++
        zeros p (o + 20) (o + 24))

/-- Section 0x04 (R68, R197). -/
def rangeTaps (p : Bytes) : List Nat :=
  let n := rU16 p 0
  let total := (rdTapCounts p).foldl (· + ·) 0
  zeros p 2 4 ++ each n (fun i => must (rU16 p (4 + 2 * i) ≤ 256) (4 + 2 * i)) ++ must (total ≤ 131072) 4 ++
    zeros p (4 + 2 * n) (tapBase p) ++
    each total (fun k => must (within 1 100000000 (rdTap p k).rfuse) (tapBase p + 8 * k + 4))

/-- Section 0x05. DESIGN CHOICE (log 37): Table 03-5 gives no limit for LNK_USE beyond its meaning for 1; a value above 1
is refused. -/
def rangeFront (p : Bytes) : List Nat :=
  must (within 1 2 (rU8 p 0)) 0 ++ must (rU8 p 1 ≤ 5 || rU8 p 1 == 0xFF) 1 ++ zeros p 2 4 ++
    must (withinI (-5000) 5000 (rI32 p 4)) 4 ++ must (withinI (-100000) 100000 (rI32 p 8)) 8 ++
    must (within 10000 50000000 (rU32 p 12)) 12 ++ must (within 1000 60000 (rU16 p 16)) 16 ++
    must (rU8 p 18 ≤ 1) 18 ++ zeros p 19 p.size

/-- Whether Table 07-1 names axis 1, 2, 3 for a KIND; `none` for a reserved KIND. -/
def axesOf (kind : Nat) : Option (Bool × Bool × Bool) :=
  match kind with
  | 1 => some (true, true, false)
  | 2 | 3 | 4 | 5 | 6 => some (true, true, true)
  | 7 => some (true, true, false)
  | _ => none

/-- One axis: 2 to 32 breakpoints rising strictly where it is named, one breakpoint of zero where it is not (R174).
`oN` is the place of its count, `oB` of its breakpoints. -/
def rangeAxis (named : Bool) (l : List Int) (oN oB : Nat) : List Nat :=
  if named then must (within 2 32 l.length) oN ++ (notRising l).map (fun j => oB + 4 * j)
  else must (l.length == 1) oN ++ (if l.length = 1 then must (l.getD 0 0 == 0) oB else [])

/-- One table of section 0x06 at its place. -/
def rangeTable (p : Bytes) (o : Nat) (t : CellTable) : List Nat :=
  let b := o + 8
  let b2 := b + 4 * t.bp1.length
  let b3 := b2 + 4 * t.bp2.length
  let v := b3 + 4 * t.bp3.length
  zeros p (o + 5) (o + 8) ++
  match axesOf t.kind with
  | none => [o]
  | some (a1, a2, a3) =>
    rangeAxis a1 t.bp1 (o + 2) b ++ rangeAxis a2 t.bp2 (o + 3) b2 ++ rangeAxis a3 t.bp3 (o + 4) b3 ++
      (if 2 ≤ t.kind ∧ t.kind ≤ 6 then
        ((List.range t.vals.length).filter (fun j => decide (t.vals.getD j 0 ≤ 0))).map (fun j => v + 4 * j) else []) ++
      (if t.kind = 1 then
        each t.bp2.length (fun r =>
          (notRising ((t.vals.drop (r * t.bp1.length)).take t.bp1.length)).map (fun j => v + 4 * (r * t.bp1.length + j)))
       else [])

/-- Section 0x06. -/
def rangeModel (p : Bytes) : List Nat :=
  must (within 1 8 (rU8 p 0)) 0 ++ zeros p 1 2 ++
    (rdTables p (rU16 p 2) 0x24).1.flatMap (fun x => rangeTable p x.1 x.2)

/-- The warning levels in force: each 0 replaced by its default (R191). -/
def warnLevels (l : List Nat) : Nat × Nat × Nat :=
  let f := fun i d => if l.getD i 0 = 0 then d else l.getD i 0
  (f 0 100000, f 1 50000, f 2 20000)

/-- Levels that fall strictly; the place of the first that does not. -/
def levelsFall (l : List Nat) (o : Nat) : List Nat :=
  let (a, b, c) := warnLevels l
  must (b < a) (o + 4) ++ must (c < b) (o + 8)

/-- Section 0x07. -/
def rangeEst (nPos : Nat) (p : Bytes) : List Nat :=
  zeros p 6 8 ++ levelsFall (rU32s p 0x20 3) 0x20 ++ levelsFall (rU32s p 0x2C 3) 0x2C ++
    must (within 950000 999999 (rU32 p 0x38)) 0x38 ++ zeros p (0x3C + nPos) p.size

/-- Section 0x08 (R149). -/
def rangeSpec (p : Bytes) : List Nat :=
  must (rU8 p 0 < 8) 0 ++ zeros p 1 2 ++ must (within 1 10080 (rU16 p 2)) 2 ++ must (within 1 300 (rU16 p 4)) 4 ++
    must (within 4 1024 (rU16 p 6)) 6 ++ must (rU64 p 12 % 2 ^ 40 / 2 ^ 31 == 0) 12 ++ zeros p 17 20 ++
    must (rU64 p 20 % 2 ^ 31 == 0) 20 ++ zeros p 25 28

/-- IN_SEL names an input of Table 09-3. -/
def inSelOk (x : Nat) : Bool :=
  within 1 7 x || within 0x10 0x15 x || within 0x20 0x21 x || within 0x1000 0x13FF x

/-- SHIFT[4], each 0 to 31. -/
def rangeShift (p : Bytes) (o : Nat) : List Nat := each 4 (fun j => must (rU8 p (o + j) ≤ 31) (o + j))

/-- Section 0x09 (R216). -/
def rangeLoops (p : Bytes) : List Nat :=
  let loops := rdLoops p
  must (within 1 64 (rU8 p 0)) 0 ++ must (within 1 8 (rU8 p 1)) 1 ++ zeros p 2 4 ++
    each (rU8 p 0) (fun i =>
      let o := 4 + 48 * i
      let l := rdLoop p i
      must (l.id < 64) o ++ must (within 1 3 l.kind) (o + 1) ++
        must (within 1 100 l.period && divides l.period 1000) (o + 2) ++ must (inSelOk l.inSel) (o + 4) ++
        must (l.slot < 16) (o + 7) ++ rangeShift p (o + 28) ++ must (decide (0 ≤ l.outMin)) (o + 32) ++
        must (decide (l.outMin ≤ l.outMax ∧ l.outMax ≤ 300000000)) (o + 36) ++ must (l.track ≤ 1) (o + 40) ++
        zeros p (o + 41) (o + 48)) ++
    each (rU8 p 1) (fun g =>
      let o := groupBase p + 4 * g
      must (rU8 p o < 8) o ++
        must (rU8 p (o + 1) ≤ 16 && rU8 p (o + 1) == (loops.filter (fun l => l.group == g)).length) (o + 1) ++
        zeros p (o + 2) (o + 4))

/-- Section 0x0A (R220). -/
def rangeScheds (p : Bytes) : List Nat :=
  must (within 1 16 (rU8 p 0)) 0 ++ zeros p 1 4 ++
    (rdScheds p (rU8 p 0) 4).1.flatMap (fun x =>
      let o := x.1
      let nt := rU8 p o
      let ns := rU8 p (o + 1)
      must (within 1 8 nt) o ++ must (within 1 8 ns) (o + 1) ++ zeros p (o + 2) (o + 4) ++
        (notRising x.2.tBp).map (fun j => o + 4 + 2 * j) ++ zeros p (o + 4 + 2 * nt) (o + 0x14) ++
        (notRising (x.2.socBp.map Int.ofNat)).map (fun j => o + 0x14 + 4 * j) ++ zeros p (o + 0x14 + 4 * ns) (o + 0x34) ++
        each (nt * ns) (fun k => rangeShift p (o + 0x34 + 20 * k + 16)))

/-- Section 0x0B (R224); `io` is section 0x0F. -/
def rangeTherm (io : Bytes) (p : Bytes) : List Nat :=
  must (within 1 8 (rU8 p 0)) 0 ++ zeros p 1 4 ++
    each (rU8 p 0) (fun i =>
      let o := 4 + 16 * i
      let c := rU8 p o
      let s := rU8 p (o + 1)
      must (c ≤ 3) o ++
        must (if c = 2 then within 1 63 s && (maskBits 6 s).all (fun t => rU8 io (0x84 + 8 * t) != 0) else s == 0) (o + 1) ++
        zeros p (o + 2) (o + 4) ++ must (decide (rI16 p (o + 4) ≤ rI16 p (o + 6))) (o + 4) ++
        must (decide (rI16 p (o + 6) < rI16 p (o + 8))) (o + 6) ++ must (within 10 1000 (rU16 p (o + 10))) (o + 10) ++
        zeros p (o + 12) (o + 16))

/-- The reserved bytes of section 0x0C or 0x0D; `flip` is 0xFF for the inverted copy (R62). -/
def safetyReserved (flip : Byte) (p : Bytes) : List Nat :=
  let q := p.map (· ^^^ flip)
  zeros q 0x0F 0x10 ++ zeros q 0x4A 0x4C ++ each 4 (fun s => zeros q (0x53 + 4 * s) (0x54 + 4 * s)) ++ zeros q 0x60 0xFC

/-- The fields of S_CFGs of an input in use lie within their limits (Table 03-6). -/
def sinLimits (c : SInCfg) : Bool :=
  decide (c.mode ≤ 2) && (c.mode == 0 || (within 5 500 c.discT && decide (c.test ≤ 2)))

/-- Section 0x0C: the places of the fields that lie outside the limits of Table 03-6, and the reserved bytes. `h` is the
header's payload. The channels judge the limits again at T6 (R71, R72). -/
def rangeSafety (h p : Bytes) : List Nat :=
  let b := rdSafety p
  must (b.calId == rU32 h 12) 0 ++ must (b.calVersion == rU32 h 16) 4 ++ must (b.sbFormat == 1) 8 ++
    must (b.kMain < 16) 12 ++ must ((b.kPre == 0 || b.kPre == 1 || b.kPre == 2 || b.kPre == 4 || b.kPre == 8) &&
      b.kMain &&& b.kPre == 0) 13 ++ must (b.sides ≤ 2) 14 ++ must (withinI 500000 4000000 b.vPosMin) 0x10 ++
    must (withinI (b.vPosMin + 100000) 5000000 b.vPosMax) 0x14 ++ must (withinI (-6000) 0 b.tMin) 0x18 ++
    must (withinI 2000 9000 b.tMax) 0x1A ++ must (within 1 100 b.ageMax) 0x1C ++
    must (withinI b.tMin b.tMax b.tChgMin) 0x1E ++ must (b.iDisEnv < b.iFast && b.iChgEnv < b.iFast) 0x30 ++
    must (within 1 1000 b.dirTolT) 0x38 ++ must (within 50 300 b.offPulse) 0x3A ++ must (b.vStrMax ≤ 180000000) 0x3C ++
    must (b.vStrMin < b.vStrMax) 0x40 ++ must (within 10000 50000000 b.insMin) 0x44 ++
    must (within 100 30000 b.preTmax) 0x48 ++
    each 4 (fun s => must (sinLimits (rdSIn (rU32 p (0x50 + 4 * s)))) (0x50 + 4 * s)) ++ safetyReserved 0 p

/-- A section 0x0E in FORM 0: one task followed from its entry (R282). Answers the failing place, or the number of
instructions to END. -/
def followBits (p : Bytes) (nInstr entryPlace : Nat) : Nat → Nat → List Unit → Nat → Sum Nat Nat
  | 0, _, _, _ => .inl entryPlace
  | fuel + 1, i, stack, n =>
    if nInstr ≤ i then .inl entryPlace
    else
      let o := lgCodeBase p + 4 * i
      let w := rU32 p o
      let nc := rU16 p 4
      match bitOpOf (w / 2 ^ 24) with
      | none => .inl o
      | some op =>
        let go := fun st => followBits p nInstr entryPlace fuel (i + 1) st (n + 1)
        match op with
        | .ld _ | .comb _ _ => if bitReadOk nc w then go stack else .inl o
        | .st _ | .set | .rst => if bitWriteOk nc w then go stack else .inl o
        | .not => if w % 2 ^ 24 = 0 then go stack else .inl o
        | .push _ => if bitReadOk nc w && decide (stack.length < 8) then go (() :: stack) else .inl o
        | .pop => match stack with
          | [] => .inl o
          | _ :: r => go r
        | .endTask => match stack with
          | [] => .inr (n + 1)
          | _ :: _ => .inl o

/-- One framed call of FORM 1: its place, BLOCK, INST and instance words. -/
structure Call where
  place : Nat
  block : Nat
  inst : Nat
  words : Nat
  deriving DecidableEq, Repr

/-- What framing a FORM 1 program gives: the calls framed, the places that fail RANGE, and whether framing reached the
end of the program (R283). -/
structure Framed where
  calls : List Call
  bad : List Nat
  whole : Bool

/-- Operands in order from a place: the places that break R278. -/
def rangeOperands (p : Bytes) (nc : Nat) (ins outs : List OpKind) (o : Nat) : List Nat :=
  each (ins.length + outs.length) (fun j =>
    let w := rU32 p (o + 4 * j)
    let ok := match ins[j]? with
      | some .bit => bitReadOk nc w
      | some .word => wordReadOk nc w
      | none => match outs.getD (j - ins.length) .bit with
        | .bit => bitWriteOk nc w
        | .word => wordWriteOk nc w
    must (ok && decide (w < 2 ^ 24)) (o + 4 * j))

/-- Framing of the calls in list order (R283). -/
def frameCalls (p : Bytes) : Nat → Nat → Framed
  | 0, o => { calls := [], bad := must (o == p.size) o, whole := true }
  | n + 1, o =>
    if p.size < o + 4 then { calls := [], bad := [p.size], whole := true }
    else
      let w := rU32 p o
      let block := bitsOf w 31 24
      let k := bitsOf w 23 20
      match blockForm block k with
      | none => { calls := [], bad := [o], whole := false }
      | some (ins, outs, iw) =>
        if !blockNOk block k then { calls := [], bad := [o], whole := false }
        else
          let e := o + 4 + 4 * (ins.length + outs.length)
          if p.size < e then { calls := [], bad := [p.size], whole := true }
          else
            let inst := bitsOf w 15 0
            let r := frameCalls p n e
            { calls := { place := o, block := block, inst := inst, words := iw } :: r.calls
              bad := must (bitsOf w 19 16 == 0) o ++
                must (iw == 0 || decide (inst + iw ≤ rU16 p 6)) o ++ rangeOperands p (rU16 p 4) ins outs (o + 4) ++ r.bad
              whole := r.whole }

/-- Section 0x0E (R272, R278, R281 to R283). -/
def rangeLogic (p : Bytes) : List Nat :=
  let nT := rU8 p 1
  must (rU8 p 0 ≤ 1) 0 ++ must (within 1 8 nT) 1 ++
    must (decide (rU16 p 2 ≤ (if rU8 p 0 = 0 then 2048 else 16384))) 2 ++
    each nT (fun t =>
      let o := 8 + 12 * t
      must (within 1 1000 (rU16 p o) && divides (rU16 p o) 1000) o ++ must (rU8 p (o + 2) ≤ 1) (o + 2) ++
        zeros p (o + 6) (o + 8)) ++
    must (lgNStn p ≤ 16) (lgStnBase p) ++ zeros p (lgStnBase p + 2) (lgStnBase p + 4) ++
    each (lgNStn p) (fun s =>
      let o := lgStnBase p + 4 + 12 * s
      let c := rU16 p (o + 2)
      must (divides c 1000) (o + 2) ++ must (within (2 * c) 10000 (rU16 p (o + 4))) (o + 4) ++
        must (rU8 p (o + 6) ≤ 16) (o + 6) ++ must (rU8 p (o + 7) ≤ 16) (o + 7) ++ zeros p (o + 8) (o + 12)) ++
    (if rU8 p 0 = 0 then
      each nT (fun t =>
        let o := 8 + 12 * t
        match followBits p (rU16 p 2) (o + 4) (rU16 p 2 + 1) (rU16 p (o + 4)) [] 0 with
        | .inl e => [e]
        | .inr n => must (decide (200 + 8 * n ≤ rU32 p (o + 8))) (o + 8))
    else
      let f := frameCalls p (rU16 p 2) (lgCodeBase p)
      f.bad ++ (if f.whole then
        each nT (fun t =>
          let o := 8 + 12 * t
          must ((f.calls.drop (rU16 p (o + 4))).any (fun c => c.block == 0)) (o + 4)) else []))

/-- Section 0x0F (R364). DESIGN CHOICE (log 37): a WB above 1 is refused. -/
def rangeIo (p : Bytes) : List Nat :=
  must (2 ≤ rU8 p 0) 0 ++ zeros p 1 4 ++
    each 16 (fun k =>
      let o := 4 + 8 * k
      must (decide (rU8 p o ≤ (if k < 4 then 3 else 2))) o ++ must (rU8 p (o + 1) ≤ 20) (o + 1) ++
        must (rU8 p (o + 2) ≤ 1) (o + 2) ++ must (rU8 p (o + 3) ≤ 1) (o + 3) ++ zeros p (o + 4) (o + 8)) ++
    each 6 (fun t =>
      let o := 0x84 + 8 * t
      must (rU8 p o ≤ 2) o ++ zeros p (o + 1) (o + 4) ++
        must (rU8 p o != 1 || within 1000 10000 (rU16 p (o + 4))) (o + 4) ++ zeros p (o + 6) (o + 8))

/-- Section 0x10 (R344, R354). DESIGN CHOICE (log 37): an ACCESS above 1 is refused. -/
def rangeCan (p : Bytes) : List Nat :=
  each 2 (fun c =>
    let o := 32 * c
    let r := rdCanCh p c
    let qn := r.nbrp * (1 + r.ntseg1 + r.ntseg2)
    let qd := r.dbrp * (1 + r.dtseg1 + r.dtseg2)
    must (within 1 32 r.nbrp && within 80 640 qn) o ++ must (1 ≤ r.ntseg1) (o + 1) ++
      must (within 1 128 r.ntseg2) (o + 2) ++ must (within 1 r.ntseg2 r.nsjw) (o + 3) ++
      must (within 1 32 r.dbrp && within 10 qn qd) (o + 4) ++ must (within 1 31 r.dtseg1) (o + 5) ++
      must (within 1 16 r.dtseg2) (o + 6) ++ must (within 1 r.dtseg2 r.dsjw) (o + 7) ++
      must (r.txOrder ≤ 1) (o + 8) ++ must (rU8 p (o + 9) ≤ 1) (o + 9) ++ zeros p (o + 10) (o + 12) ++
      must (bitsOf r.accId 30 29 == 0) (o + 15) ++ must (canNPub p c ≤ 32) (o + 16) ++ zeros p (o + 18) (o + 32)) ++
  each (canNPub p 0 + canNPub p 1) (fun i =>
    let o := 64 + 12 * i
    let r := rdPub p i
    must (rU8 p (o + 1) ≤ 1) (o + 1) ++ must (divides r.period 1000) (o + 2) ++ must (within 1 5 r.content) (o + 8) ++
      zeros p (o + 10) (o + 12))

/-- Section 0x11 (R302, R304). DESIGN CHOICE (log 37): an AUTO_SWITCH above 1 is refused. -/
def rangeFab (p : Bytes) : List Nat :=
  let f := rdFab p
  must (f.addr == 0 || (f.addr / 1024 == f.ring && within 1 1022 (f.addr % 1024))) 0 ++ must (f.ring ≤ 63) 2 ++
    must (f.role ≤ 2) 4 ++ must (rU8 p 5 ≤ 1) 5 ++
    each 2 (fun d => must (rU8 p (0x12 + 6 * d) ≤ 1) (0x12 + 6 * d)) ++
    must (withinI (-5) 0 f.logSync) 0x1C ++ must (withinI (-3) 3 f.logPdelay) 0x1D ++ zeros p 0x1E 0x20 ++
    must (rU16 p 0x2C ≤ 64) 0x2C ++ zeros p 0x2E 0x30 ++
    each (rU16 p 0x2C) (fun r =>
      let o := 0x30 + 4 * r
      must (rU16 p o ≤ 63) o ++ must (rU8 p (o + 2) == 2) (o + 2) ++ zeros p (o + 3) (o + 4))

/-- Section 0x12 (15 R372). -/
def rangeWatch (nodeAddrs : List Nat) (p : Bytes) : List Nat :=
  let w := rdWatch p
  must (w.period == 0 || within 10 3600 w.period) 0 ++ must (rU8 p 2 < 16) 2 ++ zeros p 3 4 ++
    must (w.vStrLo < w.vStrHi) 4 ++ must (w.vStrHi ≤ 180000000) 8 ++ must (decide (w.vPosLo < w.vPosHi)) 12 ++
    must (decide (w.vPosHi ≤ 5500000)) 16 ++ zeros p 0x16 0x18 ++ must (within 10000 50000000 w.insLo) 0x18 ++
    must (w.nodes.length ≤ 64) 0x20 ++ zeros p 0x22 0x24 ++
    each w.nodes.length (fun i =>
      must (decide (w.nodes.getD i 0 ≤ 63) && nodeAddrs.contains (w.nodes.getD i 0) &&
        !(w.nodes.take i).contains (w.nodes.getD i 0)) (0x24 + i)) ++
    zeros p (0x24 + w.nodes.length) p.size

/-- Words of the longest item of a CONTENT, its header included (Table 13-8, R164, Table 08-3, R387, R340). -/
def longestItem (c : StreamCfg) (content : Nat) : Nat :=
  match content with
  | 1 => 18 | 2 => 17 | 3 => 19 | 4 => 123 | 5 => 5 | 6 => 17
  | 7 => 1 + c.listA.length
  | _ => 1 + c.listB.length

/-- Section 0x13 (R333, R340). -/
def rangeStream (p : Bytes) : List Nat :=
  let c := rdStream p
  each 8 (fun q =>
    let o := 8 * q
    let content := rU8 p o
    must (content ≤ 8) o ++
      (if content = 0 then [] else
        must (within 1 100 (rU8 p (o + 1))) (o + 1) ++
          must (64 ≤ rU16 p (o + 2) && decide (2 + 2 * longestItem c content ≤ rU16 p (o + 2))) (o + 2)) ++
      zeros p (o + 4) (o + 8)) ++
  must (streamNA p ≤ 64) 64 ++ zeros p 66 68 ++ each c.listA.length (fun i => must (addrOk (rU32 p (68 + 4 * i))) (68 + 4 * i)) ++
  (let b := streamB p
   must (c.listB.length ≤ 64) b ++ zeros p (b + 2) (b + 4) ++
     each c.listB.length (fun i => must (addrOk (rU32 p (b + 4 + 4 * i))) (b + 4 + 4 * i)))

/-- Section 0x14 (R74, R75). -/
def rangeSig (p : Bytes) : List Nat := must (rU16 p 0 == 1) 0 ++ zeros p 2 4 ++ must (rU32 p 4 ≤ 3) 4

/-- The failing places of one section, with the other sections at hand. -/
def rangeOf (ss : List Section) (t : Nat) (p : Bytes) : List Nat :=
  match t with
  | 1 => rangeHeader p
  | 2 => rangeLedger p
  | 3 => rangeChain (rU8 (payReq ss 17) 4) p
  | 4 => rangeTaps p
  | 5 => rangeFront p
  | 6 => rangeModel p
  | 7 => rangeEst (rU16 (payReq ss 3) 0) p
  | 8 => rangeSpec p
  | 9 => rangeLoops p
  | 10 => rangeScheds p
  | 11 => rangeTherm (payReq ss 15) p
  | 12 => rangeSafety (payReq ss 1) p
  | 13 => safetyReserved 0xFF p
  | 14 => rangeLogic p
  | 15 => rangeIo p
  | 16 => rangeCan p
  | 17 => rangeFab p
  | 18 => rangeWatch ((rdChain (payReq ss 3)).nodes.map (fun n => nodeAddr n.line n.hop)) p
  | 19 => rangeStream p
  | 20 => rangeSig p
  | _ => []

/-! ### CROSS_REF -/

/-- The chain map's rules (R67): the failing places in section 0x03. -/
def crossChain (p : Bytes) : List Nat :=
  let c := rdChain p
  let place := fun (j k : Nat) => 0x20 + 24 * j + k
  let own := fun (l : Nat) => c.ownEnd / 4 ^ l % 4
  let ends := fun (l : Nat) => c.ends / 4 ^ l % 4
  let ns := c.nodes
  let mapped := fun (n : NodeMap) => n.locals.filterMap n.stringPos
  let all := ns.flatMap mapped
  -- a position mapped beyond the string, or mapped by an earlier node
  each ns.length (fun j => match ns[j]? with
    | none => []
    | some n =>
      let earlier := (ns.take j).flatMap mapped
      must ((mapped n).all (fun q => decide (q < c.nPos) && !earlier.contains q)) (place j 12) ++
        must (c.lines.testBit n.line && (if own n.line = 0 then ends n.line != 0 else ends n.line &&& own n.line != 0))
          (place j 0) ++
        must (n.hop == 0 || ns.any (fun m => m.line == n.line && m.hop + 1 == n.hop)) (place j 1)) ++
  (repeats (ns.map (fun n => (n.line, n.hop)))).map (fun j => place j 0) ++
  must ((List.range c.nPos).all (fun q => all.contains q)) 0

/-- The tap map's rules (R68): the failing places in section 0x04. -/
def crossTaps (c : ChainMap) (p : Bytes) : List Nat :=
  let taps := rdTaps p
  let base := fun q => ((taps.take q).map List.length).foldl (· + ·) 0
  let place := fun q i => tapBase p + 8 * (base q + i)
  must (rU16 p 0 == c.nPos) 0 ++
  c.nodes.flatMap (fun n =>
    let ps := n.locals.filterMap n.stringPos
    let mine := ps.flatMap (fun q => (List.range (taps.getD q []).length).map (fun i => (q, i)))
    let mux : List Nat := mine.map (fun x => ((taps.getD x.1 []).getD x.2 default).mux)
    ((List.range mine.length).filter (fun j => decide (n.tapCh ≤ mux.getD j 0) || (mux.take j).contains (mux.getD j 0))).map
        (fun j => let x := mine.getD j (0, 0); place x.1 x.2) ++
      must (mine.length ≤ n.tapCh) (4 + 2 * ps.headD 0))

/-- Section 0x06: SET below N_SETS, exactly one table of each kind for each set; the places. -/
def crossModel (p : Bytes) : List Nat :=
  let ts := (rdTables p (rU16 p 2) 0x24).1
  let keys := ts.map (fun x => (x.2.kind, x.2.set))
  ts.flatMap (fun x => must (x.2.set < rU8 p 0) (x.1 + 1)) ++
    (repeats keys).map (fun j => (ts.getD j default).1) ++
    must ((List.range (rU8 p 0)).all (fun s => (List.range 7).all (fun k => keys.contains (k + 1, s)))) 2

/-- Section 0x07: one SET_MAP byte a position (the count is the chain map's), each below N_SETS. -/
def crossEst (nPos nSets : Nat) (p : Bytes) : List Nat :=
  must (p.size == 0x3C + up4 nPos) (min p.size (0x3C + up4 nPos)) ++
    each nPos (fun i => must (rU8 p (0x3C + i) < nSets) (0x3C + i))

/-- Section 0x09 (R216). -/
def crossLoops (nPos : Nat) (taps : List (List TapRec)) (nSched : Nat) (p : Bytes) : List Nat :=
  let ls := rdLoops p
  let gs := rdGroups p
  let place := fun (i k : Nat) => 4 + 48 * i + k
  each ls.length (fun i => match ls[i]? with
    | none => []
    | some l =>
      must (l.group < gs.length) (place i 3) ++
        must (!(within 0x1000 0x13FF l.inSel) || (l.inSel - 0x1000 < nPos && (taps.getD (l.inSel - 0x1000) []) != [])) (place i 4) ++
        must (l.sched == 0xFF || l.sched < nSched) (place i 6) ++
        must (!(ls.take i).any (fun m => m.id == l.id)) (place i 0) ++
        must (!(ls.take i).any (fun m => m.group == l.group && m.slot == l.slot)) (place i 7)) ++
  (repeats (gs.map (·.target))).map (fun g => groupBase p + 4 * g) ++
  must (gs.any (fun g => g.target == 6) && gs.any (fun g => g.target == 7)) 1

/-- Section 0x0E: station addresses unique (R281), instance ranges apart (R283). -/
def crossLogic (p : Bytes) : List Nat :=
  (repeats (recs (lgNStn p) (fun s => rU16 p (lgStnBase p + 4 + 12 * s)))).map (fun s => lgStnBase p + 4 + 12 * s) ++
    (if rU8 p 0 = 1 then
      let cs := (frameCalls p (rU16 p 2) (lgCodeBase p)).calls.filter (fun c => c.words != 0)
      (List.range cs.length).flatMap (fun j => match cs[j]? with
        | none => []
        | some c => must (!(cs.take j).any (fun d => decide (d.inst < c.inst + c.words ∧ c.inst < d.inst + d.words))) c.place)
    else [])

/-- Section 0x10: CH of the publication records (R344). -/
def crossCan (p : Bytes) : List Nat :=
  each (canNPub p 0 + canNPub p 1) (fun i =>
    must (rU8 p (64 + 12 * i) == (if i < canNPub p 0 then 0 else 1)) (64 + 12 * i))

/-- Section 0x11 (R304, R311). -/
def crossFab (c : ChainMap) (p : Bytes) : List Nat :=
  let f := rdFab p
  must (f.role == 2 || f.routes.isEmpty) 0x2C ++
    must (f.role != 1 || (maskBits 4 c.lines).all (fun l =>
      c.ends / 4 ^ l % 4 == 3 && within 1 2 (c.ownEnd / 4 ^ l % 4))) 4

/-- The failing places of CROSS_REF in one section. -/
def crossOf (ss : List Section) (t : Nat) (p : Bytes) : List Nat :=
  let c := rdChain (payReq ss 3)
  match t with
  | 3 => crossChain p
  | 4 => crossTaps c p
  | 6 => crossModel p
  | 7 => crossEst c.nPos (rU8 (payReq ss 6) 0) p
  | 9 => crossLoops c.nPos ((payOf ss 4).map rdTaps |>.getD []) (((payOf ss 10).map (fun q => rU8 q 0)).getD 0) p
  | 11 => (repeats (recs (rU8 p 0) (fun i => rU8 p (4 + 16 * i)))).map (fun i => 4 + 16 * i)
  | 12 => must (rU16 p 10 == c.nPos) 10
  | 14 => crossLogic p
  | 16 => crossCan p
  | 17 => crossFab c p
  | _ => []

/-- The failure at the lowest image offset, over sections in image order. -/
def lowestFail (e : LdErr) (f : Nat → Bytes → List Nat) (ss : List Section) : Option Fail :=
  ss.findSome? (fun s => (firstOf (f s.typ s.payload)).map (fun o => { err := e, sect := s.typ, place := some o }))

/-! ### LEDGER (02 Table 02-2, 03 R66) -/

/-- PLACE of a ledger failure (Table 03-15). -/
def ledgerPlace (engine slot item : Nat) : Nat := engine * 2 ^ 20 + slot * 2 ^ 10 + item

/-- The least of the ledger places of one check, in the order engine, slot, item index. -/
def ledgerFirst (detail : Nat) (l : List (Nat × Nat × Nat)) : Option Fail :=
  (firstOf (l.map (fun x => ledgerPlace x.1 x.2.1 x.2.2))).map
    (fun o => { err := .ledger, detail := detail, sect := 2, place := some o })

/-- The engine an item's failure names: 0xF where ENGINE is not 0 to 10. -/
def itemEngine (i : LedgerItem) : Nat := if i.engine ≤ 10 then i.engine else 15

/-- Items that break a rule of their own. -/
def itemsBad (items : List LedgerItem) (bad : LedgerItem → Bool) : List (Nat × Nat × Nat) :=
  (List.range items.length).filterMap (fun k => match items[k]? with
    | some i => if bad i then some (itemEngine i, 0x3FF, k) else none
    | none => none)

/-- An item runs in a slot. -/
def LedgerItem.runsIn (i : LedgerItem) (slot : Nat) : Bool := i.period != 0 && slot % i.period == i.phase

/-- Engines and slots where the items that run there break a rule. -/
def slotsBad (items : List LedgerItem) (len : Nat) (bad : List LedgerItem → Bool) : List (Nat × Nat × Nat) :=
  (List.range 11).flatMap (fun e =>
    let mine := (List.range items.length).filterMap (fun k => match items[k]? with
      | some i => if i.engine = e then some (k, i) else none
      | none => none)
    (List.range len).filterMap (fun s =>
      let run := mine.filter (fun x => x.2.runsIn s)
      if bad (run.map (·.2)) then some (e, s, (run.map (·.1)).headD 0) else none))

/-- Sum of budgets. -/
def budgets (l : List LedgerItem) : Nat := (l.map (·.budget)).foldl (· + ·) 0

/-- The interval-demand rule broken for some pair of ticks. -/
def demandBad (l : List LedgerItem) : Bool :=
  l.any (fun x => l.any (fun y =>
    decide (x.release < y.deadline) &&
      decide ((y.deadline - x.release) * 990 <
        budgets (l.filter (fun i => decide (x.release ≤ i.release ∧ i.deadline ≤ y.deadline))))))

/-- The windows rule broken by one item, R66's flags included. -/
def windowBad (i : LedgerItem) : Bool :=
  (i.prev && (8 ≤ i.engine || decide (330 < i.deadline))) ||
    (i.out && !(i.engine == 10 && decide (i.deadline ≤ 360)) && !(i.engine == 9 && decide (i.deadline ≤ 380)))

/-- An entry of the function catalogue: FUNC, REQUIRED, ENGINE, MIN_BUDGET. -/
abbrev CatEntry := Nat × Bool × Nat × Nat

/-- Entries with a FUNC that an earlier entry names are left out (R413). -/
def distinctFuncs (l : List (Nat × Bool × Nat)) : List (Nat × Bool × Nat) :=
  l.foldl (fun m e => if m.any (fun x => x.1 == e.1) then m else m ++ [e]) []

/-- The catalogue of a minor version of the firmware (R413): each version keeps the entries before it, adds entries that
are not REQUIRED and raises no MIN_BUDGET; at most 64 entries, each with a FUNC of its own and an ENGINE from 0 to 10. -/
def catalogueAt (minor : Nat) : List CatEntry :=
  let added := (List.range minor).flatMap (fun m => (Config.catalogueAdded (m + 1)).map (fun e => (e.1, false, e.2)))
  let valid := (Config.catalogueBase ++ added).filter (fun e => decide (e.1 < 65536 ∧ e.2.2 ≤ 10))
  ((distinctFuncs valid).take 64).map (fun e =>
    (e.1, e.2.1, e.2.2, (List.range minor).foldl (fun b m => min b (Config.minBudget e.1 (m + 1) % 2048))
      (Config.minBudget e.1 0 % 2048)))

/-- The catalogue of the firmware that runs. -/
def catalogueNow (s : State) : List CatEntry := catalogueAt (fwMinorOf s s.upd.active)

/-- The ledger check, with a catalogue of functions. -/
def ledgerFail (cat : List CatEntry) (len : Nat) (items : List LedgerItem) : Option Fail :=
  let entry := fun (i : LedgerItem) => cat.find? (fun c => c.1 == i.func)
  if !divides len 1000 then some { err := .ledger, detail := 1, sect := 2, place := some (ledgerPlace 0 0x3FF 0) }
  else
    (ledgerFirst 1 (itemsBad items (fun i => !divides i.period len || decide (i.period ≤ i.phase)))).orElse fun _ =>
    (ledgerFirst 2 (itemsBad items (fun i => decide (10 < i.engine)))).orElse fun _ =>
    (ledgerFirst 3 (itemsBad items (fun i => decide (399 < i.release ∨ i.deadline ≤ i.release ∨ 400 < i.deadline)))).orElse fun _ =>
    (ledgerFirst 4 (slotsBad items len (fun l => decide (32 < l.length)))).orElse fun _ =>
    (ledgerFirst 5 (itemsBad items windowBad)).orElse fun _ =>
    (ledgerFirst 6 (slotsBad items len (fun l => decide (396000 < budgets l)))).orElse fun _ =>
    (ledgerFirst 7 (slotsBad items len demandBad)).orElse fun _ =>
    (ledgerFirst 8 (itemsBad items (fun i => match entry i with
      | some c => c.2.2.1 != i.engine
      | none => true))).orElse fun _ =>
    (ledgerFirst 9 (itemsBad items (fun i => match entry i with
      | some c => decide (i.budget < 256 * c.2.2.2)
      | none => false))).orElse fun _ =>
    ledgerFirst 10 ((List.range cat.length).filterMap (fun j => match cat[j]? with
      | some c => if c.2.1 && !items.any (fun i => i.func == c.1) then some (c.2.2.1, 0x3FF, j) else none
      | none => none))

/-! ### LOGIC_FIT, SAFETY_TWIN and the signature -/

/-- Some beat's due tasks need more cycles than the E9 items of its slot have (11 R276). -/
def fitBad (len : Nat) (items : List LedgerItem) (l : LogicCfg) : Bool :=
  (List.range 1000).any (fun n =>
    decide (budgets (items.filter (fun i => i.engine == 9 && i.runsIn (n % len))) <
      ((l.tasks.filter (fun t => n % t.cycle == 0)).map (·.wcet)).foldl (· + ·) 0))

/-- LOGIC_FIT; no rule says which place it names (log 14). -/
def logicFitFail (len : Nat) (items : List LedgerItem) (l : Option LogicCfg) : Option Fail :=
  match l with
  | some l => if fitBad len items l then some { err := .logicFit, sect := 14, place := none } else none
  | none => none

/-- The CRC-32C of a safety copy as stored (R70). -/
def sbCrcOk (p : Bytes) : Bool := crc32c ((p.toList).take 0xFC) == rU32 p 0xFC

/-- The two copies are complements in bytes 0x000 to 0x0FB (R70). -/
def sbTwins (p q : Bytes) : Bool := (List.range 0xFC).all (fun i => p.getD i 0 == ~~~ (q.getD i 0))

/-- SAFETY_TWIN; no rule says which place it names (log 14). -/
def twinFail (c d : Bytes) : Option Fail :=
  if !sbCrcOk c then some { err := .safetyTwin, sect := 0x0C, place := some 0xFC }
  else if !sbCrcOk d then some { err := .safetyTwin, sect := 0x0D, place := some 0xFC }
  else if !sbTwins c d then some { err := .safetyTwin, sect := 0x0D, place := none }
  else none

/-- The signature checks (R75): `keys` are the owner keys that are valid, by slot; `owned` says that one is provisioned. -/
def sigFail (owned : Bool) (keys : Nat → Option (Nat × Nat)) (img : Bytes) (ss : List Section) : Option Fail :=
  if !owned then none
  else match payOf ss 0x14 with
    | none => some { err := .sigMissing, sect := 0x14 }
    | some p =>
      let off := (imgDir img (imgSectCount img - 1)).2
      let ok := match keys (rU32 p 4) with
        | some k => ecdsaOk k (sha256 (img.toList.take off)) (rU256 p 8) (rU256 p 40)
        | none => false
      if ok then none else some { err := .sigBad, sect := 0x14, place := none }

/-! ### The points of R414 -/

/-- Fixed payload lengths (R62). -/
def fixedLen (t : Nat) : Option Nat :=
  match t with
  | 5 => some 64 | 8 => some 28 | 12 => some 256 | 13 => some 256 | 15 => some 180 | 20 => some 72
  | _ => none

/-- Point 1, at image byte 48. -/
def point1 (img : Bytes) : Option Fail :=
  let sc := imgSectCount img
  if rU32 img 16 ≠ 0x4C414354 ∨ rU8 img 0 ≠ 1 then some { err := .magic, sect := 1 }
  else if rU8 img 20 ≠ 1 then some { err := .format, sect := 1, place := some 4 }
  else if 0 < rU8 img 21 then some { err := .format, sect := 1, place := some 5 }
  else if rU16 img 22 ≠ 0x4800 then some { err := .device, sect := 1, place := some 6 }
  else if 8388608 < imgTotal img ∨ imgTotal img % 4 ≠ 0 ∨ imgTotal img < 52 + 8 * sc then
    some { err := .length, sect := 1, place := some 8 }
  else if sc < 1 ∨ 20 < sc then some { err := .directory, sect := 1, place := some 0x1C }
  else if rU8 img 1 ≠ 1 ∨ rU16 img 2 ≠ 0 ∨ imgLen img 0 ≠ 32 + 8 * sc ∨ rU16 img 12 ≠ 0 ∨ rU16 img 14 ≠ 0 then
    some { err := .sectionHead, sect := 1 }
  else none

/-- SECT_CRC of the section whose head stands at an offset. -/
def sectCrcOk (img : Bytes) (o : Nat) : Bool :=
  crc32 (slice img (o + 16) (imgLen img o)).toList == rU32 img (o + 8)

/-- The directory's own rules (R61, R63): the place in the header payload of the first TYPE or OFFSET that breaks one. -/
def dirBad (img : Bytes) : Option Nat :=
  let sc := imgSectCount img
  (List.range sc).findSome? (fun k =>
    let d := imgDir img k
    let b := imgDir img (k - 1)
    let typeOk := if k = 0 then d.1 == 1 else decide (b.1 < d.1) && !(d.1 == 0x0D && b.1 != 0x0C) && b.1 != 0x14
    let offOk := if k = 0 then d.2 == 0
      else (if k = 1 then d.2 == 48 + 8 * sc else decide (b.2 + 16 ≤ d.2)) && decide (d.2 + 16 ≤ imgTotal img - 4)
    if !typeOk then some (0x20 + 8 * k) else if !offOk then some (0x24 + 8 * k) else none)

/-- Point 2, at the end of the header payload. -/
def point2 (img : Bytes) : Option Fail :=
  let sc := imgSectCount img
  let has14 := (List.range sc).any (fun k => (imgDir img k).1 == 0x14)
  if !sectCrcOk img 0 then some { err := .sectionCrc, sect := 1, place := none }
  else match dirBad img with
    | some o => some { err := .directory, sect := 1, place := some o }
    | none => if (rU8 img 0x2E).testBit 0 != has14 then some { err := .directory, sect := 1, place := some 0x1E } else none

/-- Where the section of entry k ends: the next entry's OFFSET, or the image CRC. -/
def sectEnd (img : Bytes) (k : Nat) : Nat :=
  if k + 1 < imgSectCount img then (imgDir img (k + 1)).2 else imgTotal img - 4

/-- Point 3, at the head of entry k. -/
def point3 (img : Bytes) (k : Nat) : Option Fail :=
  let d := imgDir img k
  let o := d.2
  let len := imgLen img o
  let fixed := match fixedLen d.1 with
    | some n => len == n
    | none => true
  if rU8 img o = d.1 ∧ 1 ≤ d.1 ∧ d.1 ≤ 0x14 ∧ rU8 img (o + 1) = 1 ∧ rU16 img (o + 2) = 0 ∧ rU16 img (o + 12) = k ∧
      rU16 img (o + 14) = 0 ∧ len % 4 = 0 ∧ fixed = true ∧ o + 16 + len = sectEnd img k then none
  else some { err := .sectionHead, sect := d.1 }

/-- Point 4, at the end of the payload of entry k. -/
def point4 (img : Bytes) (k : Nat) : Option Fail :=
  let d := imgDir img k
  if !sectCrcOk img d.2 then some { err := .sectionCrc, sect := d.1, place := none }
  else countFail d.1 (slice img (d.2 + 16) (imgLen img d.2))

/-- The checks that a word ending at byte n reaches (R414 points 1 to 4 and OVERFLOW). -/
def receptionFail (img : Bytes) (n : Nat) : Option Fail :=
  let sc := imgSectCount img
  let hdr := 48 + 8 * sc
  if n < 48 then none
  else if n = 48 then point1 img
  else if n = hdr then point2 img
  else if n < hdr then none
  else if imgTotal img < n then some { err := .overflow }
  else
    (List.range sc).findSome? (fun k =>
      if k = 0 then none
      else
        let o := (imgDir img k).2
        if n = o + 16 then
          (point3 img k).orElse (fun _ => if imgLen img o = 0 then point4 img k else none)
        else if n = o + 16 + imgLen img o ∧ o + 16 < n then point4 img k
        else none)

/-- The required sections (R65). -/
def required : List Nat := [1, 2, 3, 5, 6, 7, 9, 0x0B, 0x0C, 0x0D, 0x0F, 0x11]

/-- Point 5, after the word at TOTAL_LEN − 4. -/
def point5 (cat : List CatEntry) (owned : Bool) (keys : Nat → Option (Nat × Nat)) (img : Bytes) : Option Fail :=
  let n := imgTotal img
  let ss := imgSections img
  let led := payReq ss 2
  (if crc32 (img.toList.take (n - 4)) == rU32 img (n - 4) then none else some { err := .imageCrc : Fail }).orElse fun _ =>
  ((required.find? (fun t => (payOf ss t).isNone)).map (fun t => { err := .missing, sect := t : Fail })).orElse fun _ =>
  (lowestFail .range (rangeOf ss) ss).orElse fun _ =>
  (lowestFail .crossRef (crossOf ss) ss).orElse fun _ =>
  (ledgerFail cat (rU16 led 0) (rdItems led)).orElse fun _ =>
  (logicFitFail (rU16 led 0) (rdItems led) ((payOf ss 14).map rdLogic)).orElse fun _ =>
  (twinFail (payReq ss 0x0C) (payReq ss 0x0D)).orElse fun _ =>
  sigFail owned keys img ss

/-! ### A replacement of section 0x0E (R84) -/

/-- The INDEX a replacement's head must carry. -/
def replaceIndex (c : Calibre) : Nat := (c.payloads.filter (fun p => p.1 < 14)).length

/-- The head of a replacement, at its byte 16. -/
def replaceHead (c : Calibre) (img : Bytes) : Option Fail :=
  if rU8 img 0 = 14 ∧ rU8 img 1 = 1 ∧ rU16 img 2 = 0 ∧ rU16 img 12 = replaceIndex c ∧ rU16 img 14 = 0 ∧
      imgLen img 0 % 4 = 0 then none
  else some { err := .sectionHead, sect := 14 }

/-- The payload of a replacement, once whole: CRC and counts. -/
def replacePayload (img : Bytes) : Option Fail :=
  if !sectCrcOk img 0 then some { err := .sectionCrc, sect := 14, place := none }
  else countFail 14 (slice img 16 (imgLen img 0))

/-- RANGE, CROSS_REF and LOGIC_FIT of a replacement. -/
def replaceChecks (c : Calibre) (p : Bytes) : Option Fail :=
  ((firstOf (rangeLogic p)).map (fun o => { err := .range, sect := 14, place := some o : Fail })).orElse fun _ =>
  ((firstOf (crossLogic p)).map (fun o => { err := .crossRef, sect := 14, place := some o : Fail })).orElse fun _ =>
  logicFitFail c.ledgerLen c.items (some (rdLogic p))

/-! ### Online changes (R80, R81) -/

/-- The mask of one word whose bytes from `o` on are tunable where `f` says so. -/
def byteMask (o : Nat) (f : Nat → Bool) : Nat :=
  ((List.range 4).map (fun j => if f (o + j) then 255 * 256 ^ j else 0)).foldl (· + ·) 0

/-- The bits of the word at offset o of a section's payload that belong to tunable fields (Table 03-5). -/
def tunableMask (t : Nat) (p : Bytes) (o : Nat) : Nat :=
  match t with
  | 5 => byteMask o (fun b => within 12 15 b)
  | 6 => byteMask o (fun b => (rdTables p (rU16 p 2) 0x24).1.any (fun x =>
      let v := x.1 + 8 + 4 * (x.2.bp1.length + x.2.bp2.length + x.2.bp3.length)
      decide (v ≤ b ∧ b < v + 4 * x.2.vals.length)))
  | 7 => byteMask o (fun b => within 0 5 b || within 8 0x3B b)
  | 8 =>
    let m := byteMask o (fun b => within 2 5 b || within 8 11 b || within 12 16 b || within 20 24 b)
    if o = 0 then m + 7 else m
  | 9 => byteMask o (fun b => decide (4 ≤ b ∧ b < groupBase p) && within 8 39 ((b - 4) % 48))
  | 10 => byteMask o (fun b => (rdScheds p (rU8 p 0) 4).1.any (fun x =>
      decide (x.1 + 0x34 ≤ b ∧ b < x.1 + 0x34 + 20 * x.2.regions.length)))
  | 11 => byteMask o (fun b => decide (4 ≤ b) && within 4 11 ((b - 4) % 16))
  | 14 => byteMask o (fun b => decide (lgConstBase p ≤ b ∧ b < lgStnBase p))
  | 15 => byteMask o (fun b => b == 0 || (within 4 0x83 b && within 1 2 ((b - 4) % 8)))
  | 16 =>
    if o < 64 then 0
    else
      let k := (o - 64) % 12
      if k = 0 then 0xFFFF0100 else 0
  | 18 => byteMask o (fun b => within 0 1 b || within 4 0x15 b || within 0x18 0x1F b)
  | 19 => byteMask o (fun b => decide (b < 64) && b % 8 == 1)
  | _ => 0

/-- A payload with words put in. DESIGN CHOICE (log 37): of two entries that name one word, the later one stands. -/
def putWords (p : List Byte) (es : List (Nat × Word)) : List Byte :=
  es.foldl (fun q e => q.take e.1 ++ leBytes 4 e.2.toNat ++ q.drop (e.1 + 4)) p

/-- ON_STATUS.RESULT codes (Table 03-17). -/
inductive OnRes where
  | ok | notTunable | range | mixed | busy | state | align | cancelled | crossRef
  deriving DecidableEq, Repr

/-- The code of Table 03-17. -/
def OnRes.code : OnRes → Nat
  | .ok => 0 | .notTunable => 1 | .range => 2 | .mixed => 3 | .busy => 4 | .state => 5 | .align => 6
  | .cancelled => 7 | .crossRef => 8

/-- The payload of a section with the first k entries of a batch put in; entries of another section, or out of place, are
left out. -/
def batchPayload (t : Nat) (old : List Byte) (es : List (Nat × Nat × Word)) (k : Nat) : Bytes :=
  (putWords old (((es.take k).filter (fun e => e.1 == t && e.2.1 % 4 == 0 && decide (e.2.1 + 4 ≤ old.length))).map
    (·.2))).toArray

/-- Entry k fails the places of `bad` where the whole batch fails one that the entries up to k bring about. -/
def entryFails (bad : Bytes → List Nat) (t : Nat) (old : List Byte) (es : List (Nat × Nat × Word)) (k : Nat) : Bool :=
  let whole := bad (batchPayload t old es es.length)
  (bad (batchPayload t old es (k + 1))).any (fun o => whole.contains o)

/-- The judgement of entry k alone (R80, R81). DESIGN CHOICE (log 37): no code is given for an entry that leaves a word
without tunable bits at its loaded value; it is NOT_TUNABLE. -/
def entryResult (c : Calibre) (t : Nat) (old : List Byte) (es : List (Nat × Nat × Word)) (k : Nat)
    (e : Nat × Nat × Word) : Option OnRes :=
  let p := old.toArray
  let after := fun (q : Bytes) => c.sections.map (fun s => if s.typ = t then { s with payload := q } else s)
  let m := tunableMask t p e.2.1
  if e.1 ≠ t then some .mixed
  else if e.2.1 % 4 ≠ 0 ∨ p.size < e.2.1 + 4 then some .align
  else if ((toW (rU32 p e.2.1) ^^^ e.2.2).toNat &&& (2 ^ 32 - 1 - m)) ≠ 0 ∨ m = 0 then some .notTunable
  else if entryFails (fun q => rangeOf (after q) t q) t old es k then some .range
  else if entryFails (fun q => crossOf (after q) t q) t old es k then some .crossRef
  else none

/-- The entries of a batch judged in ascending order against the loaded calibre (R81): section, then entries as
(section, offset, value). The first entry that fails gives the RESULT. DESIGN CHOICE (log 37): no code is given for an
entry that names an absent section; it is NOT_TUNABLE. -/
def batchResult (c : Calibre) (es : List (Nat × Nat × Word)) : OnRes :=
  let t := (es.headD (0, 0, 0)).1
  match c.payload t with
  | none => .notTunable
  | some old => (es.mapIdx (fun k e => entryResult c t old es k e)).findSome? id |>.getD .ok

end Sys2Proof.Machine
end

