-- ==== Sys2Proof/Machine/Logic.lean ====
section
/-! DEFINITION. The cyclic logic program (11): its two forms and their blocks, tasks and overruns, the phases of a beat,
remote stations, forces, host writes and the registers of the logic engine block. -/

namespace Sys2Proof.Machine

/-- The logic block changed. -/
def modLg (f : Logic → Logic) (s : State) : State := { s with lg := f s.lg }

/-- Section 0x0E of the loaded calibre. -/
def lgCfg (s : State) : Option LogicCfg := s.cal.bind (·.logic)

/-- The task records. -/
def taskCfgs (s : State) : List TaskCfg := ((lgCfg s).map (·.tasks)).getD []

/-- The station records. -/
def stationCfgs (s : State) : List StationCfg := ((lgCfg s).map (·.stations)).getD []

/-! ### Operands (R278) -/

/-- The memory area, output image and instance data of a running task before it commits (R274), with the number of the
next free value. -/
structure Shadow where
  q : List (Nat × Word)
  m : List (Nat × Word)
  inst : List (Nat × Word)
  k : Nat

/-- Constant i as task t has it (R293). -/
def constFor (s : State) (t i : Nat) : Int :=
  match s.lg.taskConsts.find? (fun x => x.1 == t && x.2.1 == i) with
  | some x => x.2.2
  | none => (s.lg.consts[i]?).getD 0

/-- A word of an area. -/
def areaWord (s : State) (t : Nat) (x : Shadow) (area i : Nat) : Word :=
  match area with
  | 1 => wordAt s.lg.input i
  | 2 => wordAt x.q i
  | 3 => wordAt x.m i
  | 4 => intW (constFor s t i)
  | _ => 0

/-- A word operand's value; a literal is its INDEX, signed. -/
def wordOp (s : State) (t : Nat) (x : Shadow) (w : Nat) : Int :=
  if opArea w = 5 then signed (opIndex w) 20 else (areaWord s t x (opArea w) (opIndex w)).toInt

/-- A bit operand's value. -/
def bitOp (s : State) (t : Nat) (x : Shadow) (w : Nat) : Bool :=
  wBit (areaWord s t x (opArea w) (opIndex w / 32)) (opIndex w % 32)

/-- A word written to area Q or M. -/
def Shadow.putWord (w : Nat) (v : Word) (x : Shadow) : Shadow :=
  match opArea w with
  | 2 => { x with q := wordPut x.q (opIndex w) v }
  | 3 => { x with m := wordPut x.m (opIndex w) v }
  | _ => x

/-- A word with one bit set to a value. -/
def withBit (u : Word) (k : Nat) (v : Bool) : Word := if v then u ||| toW (2 ^ k) else u &&& ~~~(toW (2 ^ k))

/-- A bit written to area Q or M. -/
def Shadow.putBit (w : Nat) (v : Bool) (x : Shadow) : Shadow :=
  let i := opIndex w / 32
  let k := opIndex w % 32
  match opArea w with
  | 2 => { x with q := wordPut x.q i (withBit (wordAt x.q i) k v) }
  | 3 => { x with m := wordPut x.m i (withBit (wordAt x.m i) k v) }
  | _ => x

/-! ### The bit-logic form (Table 11-5) -/

/-- Instructions run from the first of a list to an END, with ACC and the stack of entries. -/
def runBits (s : State) (t : Nat) : List Word → Bool → List (Bool × Nat) → Shadow → Shadow
  | [], _, _, x => x
  | w :: r, acc, st, x =>
    let o := w.toNat
    match bitOpOf (o / 2 ^ 24) with
    | none => x
    | some .endTask => x
    | some (.ld neg) => runBits s t r (bitOp s t x o != neg) st x
    | some (.comb op neg) => runBits s t r (bitComb op acc (bitOp s t x o != neg)) st x
    | some (.st neg) => runBits s t r acc st (x.putBit o (acc != neg))
    | some .set => runBits s t r acc st (if acc then x.putBit o true else x)
    | some .rst => runBits s t r acc st (if acc then x.putBit o false else x)
    | some .not => runBits s t r (!acc) st x
    | some (.push op) => runBits s t r (bitOp s t x o) ((acc, op) :: st) x
    | some .pop =>
      match st with
      | e :: st' => runBits s t r (bitComb e.2 e.1 acc) st' x
      | [] => x

/-! ### The function-block form (Table 11-6, R284, R294) -/

/-- The i32 limits. -/
def sat32 (v : Int) : Int := clampI (-2147483648) 2147483647 v

/-- (beat − start) mod 2³² (R284). -/
def elapsed (now start : Nat) : Nat := (now % 2 ^ 32 + 2 ^ 32 - start) % 2 ^ 32

/-- What a timer or counter gives: Q, the word output and its two instance words. -/
structure BlkOut where
  q : Bool
  v : Int
  a : Nat
  b : Nat

/-- TON: instance word 0 is the start beat, word 1 is 1 while it runs. -/
def blkTon (now : Nat) (inp : Bool) (pt : Int) (a b : Nat) : BlkOut :=
  if inp then
    let st := if b = 1 then a else now % 2 ^ 32
    let e : Int := elapsed now st
    ⟨decide (pt ≤ e), min e pt, st, 1⟩
  else ⟨false, 0, 0, 0⟩

/-- TOF: instance word 1 is 1 while IN holds, 2 while it runs, 3 once it has ended. -/
def blkTof (now : Nat) (inp : Bool) (pt : Int) (a b : Nat) : BlkOut :=
  if inp then ⟨true, 0, 0, 1⟩
  else if b = 0 then ⟨false, 0, 0, 0⟩
  else if b = 3 then ⟨false, pt, a, 3⟩
  else
    let st := if b = 1 then now % 2 ^ 32 else a
    let e : Int := elapsed now st
    if pt ≤ e then ⟨false, pt, st, 3⟩ else ⟨true, e, st, 2⟩

/-- TP: bit 0 of instance word 1 is the edge memory; bits [2:1] are 1 while the pulse runs and 2 once it has ended. -/
def blkTp (now : Nat) (first inp : Bool) (pt : Int) (a b : Nat) : BlkOut :=
  let mem := if first then inp else b % 2 == 1
  let ph := if b / 2 = 1 ∧ pt ≤ elapsed now a then 2 else b / 2
  let begins := inp && !mem && ph != 1
  let ph := if begins then 1 else ph
  let st := if begins then now % 2 ^ 32 else a
  let e : Int := elapsed now st
  if ph = 1 ∧ e < pt then ⟨true, e, st, 2 + b2n inp⟩
  else if ph ≠ 0 ∧ inp then ⟨false, pt, st, 4 + b2n inp⟩
  else ⟨false, 0, 0, b2n inp⟩

/-- CTU: instance word 0 is CV, word 1 the edge memory. -/
def blkCtu (first cu r : Bool) (pv : Int) (a b : Nat) : BlkOut :=
  let mem := if first then cu else b == 1
  let cv := signed a 32
  let cv := if r then 0 else if cu && !mem then sat32 (cv + 1) else cv
  ⟨decide (pv ≤ cv), cv, intField cv 32, b2n cu⟩

/-- CTD: instance word 0 is CV, word 1 the edge memory. -/
def blkCtd (first cd ld : Bool) (pv : Int) (a b : Nat) : BlkOut :=
  let mem := if first then cd else b == 1
  let cv := signed a 32
  let cv := if ld then pv else if cd && !mem then sat32 (cv - 1) else cv
  ⟨decide (cv ≤ 0), cv, intField cv 32, b2n cd⟩

/-- KHOLD: bit 0 of instance word 1 is Q, bit 1 says that Q has fallen since the first scan, and the beat of that fall
stands in word 0 and bits [31:2] of word 1. -/
def blkKhold (now : Nat) (req : Bool) (toff : Int) (a b : Nat) : BlkOut :=
  let q := b % 2 == 1
  let fall : Nat := a + b / 4 * 2 ^ 32
  let may := b / 2 % 2 == 0 || decide (toff ≤ (now : Int) - fall)
  let q' := req && (q || may)
  if q && !req then ⟨false, 0, now % 2 ^ 32, 2 + 4 * (now / 2 ^ 32 % 2 ^ 30)⟩
  else ⟨q', 0, a, b / 2 * 2 + b2n q'⟩

/-- DERATE. -/
def derateOut (x x0 x1 : Int) : Int :=
  if x1 ≤ x0 then (if x1 ≤ x then 0 else 1000000)
  else if x ≤ x0 then 1000000
  else if x1 ≤ x then 0
  else (1000000 * (x1 - x)) / (x1 - x0)

/-- RAMP. -/
def rampOut (inp rate old : Int) : Int :=
  if rate ≤ 0 then inp
  else if old < inp then min inp (old + rate)
  else max inp (old - rate)

/-- One call: its header, its operands, and whether this is a first scan. -/
def evalCall (s : State) (t : Nat) (first : Bool) (hd : Nat) (ops : List Word) (x : Shadow) : Shadow :=
  let now := s.time.beat
  let block := hd / 2 ^ 24
  let n := bitsOf hd 23 20
  let base := hd % 65536
  let o := fun (i : Nat) => ((ops[i]?).getD 0).toNat
  let b := fun (i : Nat) => bitOp s t x (o i)
  let w := fun (i : Nat) => wordOp s t x (o i)
  let a0 := (wordAt x.inst base).toNat
  let a1 := (wordAt x.inst (base + 1)).toNat
  let keep := fun (v : Nat) (y : Shadow) => { y with inst := wordPut y.inst base (toW v) }
  let two := fun (i : Nat) (r : BlkOut) (y : Shadow) =>
    { ((y.putBit (o i) r.q).putWord (o (i + 1)) (intW r.v)) with
      inst := wordPut (wordPut y.inst base (toW r.a)) (base + 1) (toW r.b) }
  match block with
  | 0x01 => x.putBit (o n) ((List.range n).all b)
  | 0x02 => x.putBit (o n) ((List.range n).any b)
  | 0x03 => x.putBit (o 2) (b 0 != b 1)
  | 0x04 => x.putBit (o 1) (!b 0)
  | 0x05 => x.putWord (o 1) (intW (w 0))
  | 0x06 => x.putWord (o 2) (intW (sat32 (w 0 + w 1)))
  | 0x07 => x.putWord (o 2) (intW (sat32 (w 0 - w 1)))
  | 0x08 => x.putWord (o 2) (intW (sat32 (w 0 * w 1)))
  | 0x09 => x.putBit (o 2) (decide (w 1 < w 0))
  | 0x0A => x.putBit (o 2) (decide (w 1 ≤ w 0))
  | 0x0B => x.putBit (o 2) (decide (w 0 = w 1))
  | 0x0C => x.putWord (o 3) (intW (if b 0 then w 2 else w 1))
  | 0x0D =>
    -- MN above MX leaves "clamped to MN to MX" open: a free value (log 29)
    if w 0 ≤ w 2 then x.putWord (o 3) (intW (clampI (w 0) (w 2) (w 1)))
    else { x.putWord (o 3) (intW (Config.freeInt x.k)) with k := x.k + 1 }
  | 0x10 => two 2 (blkTon now (b 0) (w 1) a0 a1) x
  | 0x11 => two 2 (blkTof now (b 0) (w 1) a0 a1) x
  | 0x12 => two 2 (blkTp now first (b 0) (w 1) a0 a1) x
  | 0x13 => two 3 (blkCtu first (b 0) (b 1) (w 2) a0 a1) x
  | 0x14 => two 3 (blkCtd first (b 0) (b 1) (w 2) a0 a1) x
  | 0x15 =>
    let mem := if first then b 0 else a0 == 1
    keep (b2n (b 0)) (x.putBit (o 1) (b 0 && !mem))
  | 0x16 =>
    let mem := if first then b 0 else a0 == 1
    keep (b2n (b 0)) (x.putBit (o 1) (mem && !b 0))
  | 0x17 =>
    let q := b 0 || (!b 1 && a0 == 1)
    keep (b2n q) (x.putBit (o 2) q)
  | 0x18 =>
    let q := !b 1 && (b 0 || a0 == 1)
    keep (b2n q) (x.putBit (o 2) q)
  | 0x20 =>
    -- at or above HI and at or below LO at once: the table states both, so Q is free (log 29)
    let up := decide (w 1 ≤ w 0)
    let down := decide (w 0 ≤ w 2)
    let q := if up && down then Config.roundUp x.k else up || (!down && a0 == 1)
    keep (b2n q) { x.putBit (o 3) q with k := x.k + 1 }
  | 0x21 =>
    let v := rampOut (w 0) (w 1) (signed a0 32)
    keep (intField v 32) (x.putWord (o 2) (intW v))
  | 0x22 => x.putWord (o 3) (intW (derateOut (w 0) (w 1) (w 2)))
  | 0x23 =>
    let r := blkKhold now (b 0) (w 1) a0 a1
    { x.putBit (o 2) r.q with inst := wordPut (wordPut x.inst base (toW r.a)) (base + 1) (toW r.b) }
  | _ => x

/-- Operand words that follow a header. -/
def callLen (hd : Nat) : Nat :=
  match blockForm (hd / 2 ^ 24) (bitsOf hd 23 20) with
  | some (i, o, _) => i.length + o.length
  | none => 0

/-- The code from call n on. -/
def dropCalls : Nat → List Word → List Word
  | 0, l => l
  | _ + 1, [] => []
  | n + 1, w :: r => dropCalls n (r.drop (callLen w.toNat))

/-- Calls run in list order to an END call. -/
def runCalls (s : State) (t : Nat) (first : Bool) : Nat → List Word → Shadow → Shadow
  | 0, _, x => x
  | _ + 1, [], x => x
  | f + 1, w :: r, x =>
    if w.toNat / 2 ^ 24 = 0 then x
    else
      let n := callLen w.toNat
      runCalls s t first f (r.drop n) (evalCall s t first w.toNat (r.take n) x)

/-! ### Tasks (R272 to R274, R277) -/

/-- Task t of the program. -/
def taskCfg (s : State) (t : Nat) : Option TaskCfg := (taskCfgs s)[t]?

/-- Task t is due in this beat, and has neither run nor overrun in it yet. -/
def taskDue (s : State) (t : Nat) : Bool :=
  match taskCfg s t with
  | some c => s.time.beat % c.cycle == 0 && !s.lg.ranNow.contains t
  | none => false

/-- The task that runs next: ascending PRIO, then ascending index. -/
def nextTask (s : State) : Option Nat :=
  let prio := fun (t : Nat) => ((taskCfg s t).map (·.prio)).getD 0
  ((List.range 8).filter (taskDue s)).foldl (fun b t => match b with
    | some u => if prio t < prio u then some t else b
    | none => some t) none

/-- One task's record changed. -/
def modTask (t : Nat) (f : TaskSt → TaskSt) (s : State) : State :=
  modLg (fun x => { x with tasks := updNat x.tasks t f }) s

/-- A pending batch is in effect (03 R82, R83): its words stand in the section, it is counted and entered in the
journal. -/
def batchDone (b : Batch) (s : State) : State :=
  let n := satAdd s.ldr.onCount 1 65535
  let s := { s with
    cal := s.cal.map (fun c => c.withPayload b.sect (putWords ((c.payload b.sect).getD []) b.entries))
    ldr := { s.ldr with batch := none, onCount := n, onApplied := true } }
  jnl 3 b.session [beatLo s, toW b.sect, toW b.entries.length, toW n] (setAgain 0x5040 4 s)

/-- The constants of a batch that wait for task t apply to it; what every task has taken is the constant itself
(R293). -/
def applyConsts (t : Nat) (s : State) : State :=
  if !s.lg.pendingConsts.any (fun p => p.1 == t) then s
  else
    let s := modLg (fun x =>
      let mine := x.pendingConsts.filter (fun p => p.1 == t)
      let left := x.pendingConsts.filter (fun p => p.1 != t)
      let own := x.taskConsts.filter (fun p => !(p.1 == t && mine.any (fun q => q.2.1 == p.2.1))) ++ mine
      let done := mine.filter (fun p => left.all (fun q => q.2.1 != p.2.1))
      { x with pendingConsts := left
               consts := done.foldl (fun l p => l.set p.2.1 p.2.2) x.consts
               taskConsts := own.filter (fun p => done.all (fun q => q.2.1 != p.2.1)) }) s
    match s.ldr.batch with
    | some b => if b.sect = 14 ∧ s.lg.pendingConsts.isEmpty = true then batchDone b s else s
    | none => s

/-- Task t reads constant i. -/
def taskUses (p : LogicCfg) (t i : Nat) : Bool :=
  let entry := ((p.tasks[t]?).map (·.entry)).getD 0
  if p.form = 0 then
    ((p.code.drop entry).takeWhile (fun w => bitOpOf (w.toNat / 2 ^ 24) != some .endTask)).any
      (fun w => opArea w.toNat == 4 && opIndex w.toNat / 32 == i)
  else
    let rec calls : Nat → List Word → Bool
      | 0, _ => false
      | _ + 1, [] => false
      | f + 1, w :: r =>
        if w.toNat / 2 ^ 24 = 0 then false
        else
          let kinds := match blockForm (w.toNat / 2 ^ 24) (bitsOf w.toNat 23 20) with
            | some (a, b, _) => a ++ b
            | none => []
          (kinds.zip r).any (fun x => opArea x.2.toNat == 4 &&
            (if x.1 = .bit then opIndex x.2.toNat / 32 else opIndex x.2.toNat) == i) || calls f (r.drop kinds.length)
    calls p.code.length (dropCalls entry p.code)

/-- A pending batch of constants is handed to every task that reads one of them (R293); without such a task it is in
effect at once. -/
def constsPending (b : Batch) (s : State) : State :=
  match lgCfg s, (s.cal.bind (fun c => c.payload 14)) with
  | some p, some pay =>
    let base := lgConstBase pay.toArray
    let es := b.entries.map (fun e => ((e.1 - base) / 4, e.2.toInt))
    let ts := (List.range p.tasks.length).filter (fun t => es.any (fun e => taskUses p t e.1))
    if ts.isEmpty then
      batchDone b (modLg (fun x => { x with consts := es.foldl (fun l e => l.set e.1 e.2) x.consts }) s)
    else modLg (fun x => { x with pendingConsts := ts.flatMap (fun t => es.map (fun e => (t, e.1, e.2))) }) s
  | _, _ => s

/-- An overrun of task t, with the cycles it used, and the reaction of Table 11-1. -/
def taskOver (t : Nat) (c : TaskCfg) (cycles : Nat) (s : State) : State :=
  let s := modTask t (fun x => { x with ovr := satAdd x.ovr 1 255, lastOvr := true, peak := max x.peak (min cycles (2 ^ 19 - 1)) }) s
  let s := modLg (fun x => { x with ranNow := x.ranNow ++ [t] }) s
  let s := if (engineAt s 9).ovrThisBeat then modEngine 9 (fun e => { e with ovr := true }) (setAgain 0x6060 (2 ^ 9) s)
           else overrun 9 none s
  if c.cls = 0 then
    jnl 6 0xFF [beatLo s, toW t]
      (setAgain 0xC000 (2 ^ 4) (modLg (fun x => { x with protOvr := true, protNow := true, t8Pending := true }) s))
  else setAgain 0xC000 (2 ^ 5) (modLg (fun x => { x with svcOvr := true }) s)

/-- A task runs to its end and commits (R274). -/
def taskCommit (t : Nat) (c : TaskCfg) (p : LogicCfg) (cycles : Nat) (s : State) : State :=
  let first := (getNat s.lg.tasks t).firstScan
  let x : Shadow := { q := s.lg.output, m := s.lg.mem, inst := s.lg.inst, k := s.freeCtr }
  let x := if p.form = 0 then runBits s t (p.code.drop c.entry) false [] x
           else runCalls s t first p.code.length (dropCalls c.entry p.code) x
  let s := { modLg (fun l => { l with output := x.q, mem := x.m, inst := x.inst, ranNow := l.ranNow ++ [t] }) s with
    freeCtr := x.k }
  modTask t (fun y => { y with lastOvr := false, firstScan := false, peak := max y.peak (min cycles (2 ^ 19 - 1)) }) s

/-- E9 runs a released item that has not met its deadline: its due tasks run in it (R276). -/
def e9Runs (s : State) : Bool :=
  (engineAt s 9).released.any (fun x => (itemAt s x.1).any (fun i => decide (tickOf s ≤ i.deadline)))

/-- An item of E9 is still released, or is still to be released in this beat. -/
def e9Ahead (s : State) : Bool :=
  !(engineAt s 9).released.isEmpty ||
  ((s.cal.map (·.items)).getD []).zipIdx.any (fun x =>
    decide (x.1.engine = 9) && itemDue s x.1 && !hadTurn (.release x.2) s && decide (tickOf s ≤ x.1.release))

/-- A due task overruns; no command brings the cycles it used: a free number of at most its WCET (log 29). -/
def taskStopped (t : Nat) (s : State) : State :=
  match taskCfg s t with
  | some c => taskOver t c ((Config.freeInt s.freeCtr).toNat % (c.wcet + 1)) (tookFree 1 s)
  | none => s

/-- TASK_RUN (R272 to R274, R276 to R278, R284, R293, R294): between the input and the output phase, in an item of E9 that
runs, the next due task of this beat runs to its end within its WCET, or is stopped at its WCET. -/
def execTaskRun (t : Fin 8) (cycles : Nat) (s : State) : Res :=
  let s := fresh s
  match lgCfg s, taskCfg s t.val with
  | some p, some c =>
    if awake s && s.st.mode == .run && nextTask s == some t.val && hadTurn .input s && !hadTurn .output s && e9Runs s then
      let s := applyConsts t.val s
      if c.wcet < cycles then .next (taskOver t.val c c.wcet s) else .next (taskCommit t.val c p cycles s)
    else .next s
  | _, _ => .next s

/-- TASK_OVERRUN (R277): the escapement stops the item of a due task before its end, or before it has started. -/
def execTaskOverrun (t : Fin 8) (s : State) : Res :=
  let s := fresh s
  match taskCfg s t.val with
  | some _ => .next (if awake s && s.st.mode == .run && taskDue s t.val then taskStopped t.val s else s)
  | none => .next s

/-! ### Stops of E9's items (R276, R277) -/

/-- An item of E9 was stopped: the task it ran overruns, and where E9 has no item left in the beat, every due task that
has not run does (R277). -/
def stopTasks (s : State) : State :=
  if s.st.mode = .run then
    match nextTask s with
    | some t =>
      let s := taskStopped t s
      if e9Ahead s then s else ((List.range 8).filter (taskDue s)).foldl (fun s t => taskStopped t s) s
    | none => s
  else s

/-- A stop of an item, with the tasks that it ran (R40, R43, R277). -/
def stopWork (k cycles : Nat) (s : State) : State :=
  let e9 := (itemAt s k).any (fun i => i.engine == 9) && (engineAt s 9).released.any (fun x => x.1 == k)
  let s := stopItem k cycles s
  if e9 then stopTasks s else s

/-- At the end of a beat in which an item of E9 was stopped, the due tasks that have not run have overrun (R277). -/
def lateTasks (s : State) : State :=
  if s.time.itemOvrNow.any (fun k => (itemAt s k).any (fun i => i.engine == 9)) then stopTasks s else s

/-- ITEM_BUDGET_EXPIRY (R40, R43): the item that runs has used its whole budget. -/
def execItemBudgetExpiry (e : Fin 11) (s : State) : Res :=
  let s := fresh s
  match s.time.engines[e].released with
  | [] => .next s
  | (k, b) :: _ => .next (stopWork k b s)

/-- ITEM_DEADLINE_EXPIRY (R40, R43): an item still released at its deadline tick. -/
def execItemDeadlineExpiry (item cycles : Nat) (s : State) : Res :=
  let s := fresh s
  match itemAt s item with
  | some i =>
    .next (if (engineAt s i.engine).released.any (fun x => x.1 == item) then
      stopWork item cycles (if i.deadline < 400 then atNs (i.deadline * 2500) s else s) else s)
  | none => .next s

/-! ### Remote stations (R285 to R288) -/

/-- One station changed. -/
def modStn (i : Nat) (f : StationSt → StationSt) (s : State) : State :=
  modLg (fun x => { x with stations := updNat x.stations i f }) s

/-- A station. -/
def stnAt (s : State) (i : Nat) : StationSt := getNat s.lg.stations i

/-- GOOD stations whose timeout has passed become LOST (R286). -/
def stnJudge (s : State) : State :=
  let now := absTick s
  modLg (fun x => { x with stations := mapAll x.stations (fun i y =>
    match (stationCfgs s)[i]? with
    | some c =>
      if y.good && decide (y.arrival + c.timeout * 400 ≤ now) then
        { y with good := false, run := 0, pairAt := none, losses := satAdd y.losses 1 65535 }
      else y
    | none => y) }) s

/-- The words of the newest good frame that had arrived before tick 20 of this beat. -/
def StationSt.before (t20 : Nat) (y : StationSt) : List Word := if y.arrival < t20 then y.newest else y.prior

/-- LOST stations that meet R287 are admitted. -/
def stnAdmit (s : State) : State :=
  let t20 := s.time.beat * 400 + 20
  modLg (fun x => { x with stations := mapAll x.stations (fun i y =>
    match (stationCfgs s)[i]? with
    | some c =>
      if !y.good && s.time.beat % c.cycle == 0 && y.pairAt.any (fun t => decide (t < t20)) then { y with good := true } else y
    | none => y) }) s

/-- The claim rule for STATION frames (R318). -/
def stnClaim (h : FabHdr) (s : State) : Bool × State :=
  let held := ((s.fab.held.find? (fun x => x.1 == h.string)).map (·.2.1)).getD 0
  if h.claim < held then (false, modFab (fun x => { x with claimLowRx := true }) (setAgain 0xD000 (2 ^ 3) s))
  else
    (true, modFab (fun x => { x with
      held := x.held.filter (fun y => y.1 != h.string) ++ [(h.string, h.claim, s.time.beat)] }) s)

/-- S is later than the sequence number before (R285). -/
def seqLater (x before : Nat) : Bool :=
  let d := (x % 2 ^ 32 + 2 ^ 32 - before) % 2 ^ 32
  decide (1 ≤ d ∧ d < 2 ^ 31)

/-- A frame of station i: kept if it is good (R285). -/
def stnFrame (i : Nat) (q : Nat) (words : List Word) (s : State) : State :=
  modStn i (fun y =>
    match y.lastSeq with
    | some p =>
      if seqLater q p then
        let next := decide ((q % 2 ^ 32 + 2 ^ 32 - p) % 2 ^ 32 = 1) && decide (1 ≤ y.run)
        { y with lastSeq := some q, arrival := absTick s, newest := words
                 prior := if y.arrival = absTick s then y.prior else y.newest
                 run := if next then satAdd y.run 1 255 else 1
                 pairAt := if next && (y.pairAt.isNone || y.good) then some (absTick s) else y.pairAt }
      else y
    | none => { y with lastSeq := some q, arrival := absTick s, newest := words, prior := y.newest, run := 1 }) s

/-- A STATION frame accepted at the port (R300). -/
def stnTake (h : FabHdr) (dir n : Nat) (words : List Word) (s : State) : State :=
  match (stationCfgs s).findIdx? (fun c => c.addr == h.src) with
  | none => if dir = 1 then s else badFrame h.port s
  | some i =>
    if dir != 1 || n != (((stationCfgs s)[i]?).map (·.nIn)).getD 0 then badFrame h.port s
    else
      match stnClaim h s with
      | (false, s) => s
      | (true, s) => if s.st.mode.fromArmed then stnFrame i h.seq (padTo 0 n words) s else s

/-- STATION (R285, R300, R318). -/
def execStation (h : FabHdr) (dir n _sflags : Nat) (words : List Word) (s : State) : Res :=
  .next (onFrame 7 (4 + 4 * n) h (stnTake h dir n words) (fresh s))

/-- STATION_LOST (R286): the judgement at tick 20 or tick 380. -/
def execStationLost (i : Fin 16) (s : State) : Res :=
  let s := fresh s
  if awake s && s.st.mode.fromArmed && decide (i.val < (stationCfgs s).length) && decide (tickOf s ≤ 380) then
    .next (stnJudge (atTick (if tickOf s ≤ 20 then 20 else 380) s))
  else .next s

/-! ### Forces (R289 to R291) -/

/-- What a force makes of its word. -/
def Force.apply (f : Force) (u : Word) : Word := if f.word then f.val else withBit u (f.index % 32) (wBit f.val 0)

/-- The word a force names. -/
def Force.at (f : Force) : Nat := if f.word then f.index else f.index / 32

/-- An image under the forces of its area. The quality bits of the stations stay as they are (R290). -/
def forced (area : Nat) (img : List (Nat × Word)) (s : State) : List (Nat × Word) :=
  s.lg.forces.toList.foldl (fun l f =>
    if f.enable && f.area == area && decide (f.at < 288) then
      let u := wordAt l f.at
      let v := f.apply u
      wordPut l f.at (if area == 1 && (f.at == 28 || f.at == 29) then (v &&& 0xFFFF0000) ||| (u &&& 0xFFFF) else v)
    else l) img

/-- Of a bit force, bits [31:1] of FORCEf_VAL are reserved: they read 0 and a write leaves them (Table 11-14, 00 R10).
DEDUCED (log 29): a slot is a bit force once it is enabled with WORD 0; before that its value may be that of a word. -/
def Force.clean (f : Force) : Force := if f.enable && !f.word then { f with val := f.val &&& 1 } else f

/-- A force would put a 1 on a contactor output bit. -/
def Force.closes (f : Force) : Bool :=
  f.area == 2 && f.at == 1 && (if f.word then wBits f.val 3 0 != 0 else decide (f.index % 32 < 4) && wBit f.val 0)

/-- A change of force f, with its journal record. -/
def putForce (i : Fin 32) (f : Nat) (x : Force) (s : State) : State :=
  if getNat s.lg.forces f = x then s
  else
    let sel := fld (b2n x.enable) 31 1 + fld (b2n x.word) 30 1 + fld x.area 20 4 + fld x.index 0 20
    jnl 0x0C i.val [beatLo s, toW f, toW sel, x.val] (modLg (fun y => { y with forces := updNat y.forces f (fun _ => x) }) s)

/-- A write of FORCEf_SEL (R289). -/
def forceSelWrite (i : Fin 32) (f : Nat) (v : Word) (s : State) : RspCode × State :=
  let x : Force := Force.clean { enable := wBit v 31, word := wBit v 30, area := wBits v 23 20, index := wBits v 19 0
                                 val := (getNat s.lg.forces f).val }
  if x.enable && (!s.host.sess[i].crown || (x.area != 1 && x.area != 2) || x.closes) then
    (.access, setAgain 0xC000 (2 ^ 7) (modLg (fun y => { y with forceRefused := true }) s))
  else (.ok, putForce i f x s)

/-- A write of FORCEf_VAL; of an enabled force, one that would put a 1 on a contactor output bit is refused like the
write that enables it (log 29). -/
def forceValWrite (i : Fin 32) (f : Nat) (v : Word) (s : State) : RspCode × State :=
  let x := Force.clean { getNat s.lg.forces f with val := v }
  if x.enable && x.closes then (.access, setAgain 0xC000 (2 ^ 7) (modLg (fun y => { y with forceRefused := true }) s))
  else (.ok, putForce i f x s)

/-! ### The phases of a beat (R273, R275, R279, R280) -/

/-- Words put one after another. -/
def putAll (l : List (Nat × Word)) (img : List (Nat × Word)) : List (Nat × Word) :=
  l.foldl (fun m p => wordPut m p.1 p.2) img

/-- I_MEAN of the beat before, from its own samples (05 R121). -/
def meanBefore (s : State) : Int := divNear ((prevCurrents s).foldl (fun a b => a + b) 0) 8

/-- Word 12 of the input image. -/
def inWord12 (s : State) : Nat :=
  let fired := maskIf 4 (fun k => (getNat s.time.trg k).fired)
  let closed := maskIf 4 (fun k => (getNat s.saf.k k).hs && (getNat s.saf.k k).ls)
  let ll := (llStatus s).toNat
  fld fired 0 4 + fld closed 8 4 + bitAt s.saf.chgForbid 12 + bitAt ((List.range 4).any (demand s)) 13 +
    bitAt s.est.rest 14 + bitAt ((estStatus s).toNat.testBit 12) 15 + fld (s.est.live % 8) 16 3 +
    fld (s.est.live / 8) 19 3 + bitAt (s.cells.taps.any (·.short)) 22 + bitAt (s.cells.taps.any (·.opened)) 23 +
    bitAt s.meas.acc.warn 24 + bitAt s.meas.ins.warn 25 + bitAt (ll.testBit 4) 26 + bitAt (ll.testBit 3) 27

/-- The input words of the stations: a GOOD one shows its newest good frame, a LOST one keeps its words. -/
def stnWords (s : State) : List (Nat × Word) :=
  let t20 := s.time.beat * 400 + 20
  (List.range (stationCfgs s).length).flatMap (fun i =>
    let y := stnAt s i
    if y.good then ((padTo 0 16 (y.before t20)).mapIdx (fun j w => (32 + 16 * i + j, w))) else [])

/-- The input image of Table 11-3 before forces. -/
def inputImage (s : State) : List (Nat × Word) :=
  let n := (stationCfgs s).length
  let base := [(0, toW (inWord0 s)), (1, toW (inWord1 s))] ++
    (List.range 4).map (fun k => (2 + k, toW (getNat s.fio.cnt k))) ++
    (List.range 6).map (fun t => (6 + t, intW (getNat s.fio.th t).held)) ++
    [(12, toW (inWord12 s)), (13, intW (meanBefore s)), (14, intW ((s.meas.aligned.map (·.fe.vStr)).getD 0)),
     (15, toW s.est.sum.socStr)] ++
    (List.range 8).map (fun i => (16 + i, toW (getNat s.lim.lim i))) ++
    [(24, 0), (25, 0), (26, 0), (27, 0), (30, 0), (31, 0), (28, toW (maskIf n (fun i => (stnAt s i).good))), (29, toW (maskIf n (fun i => !(stnAt s i).good)))]
  putAll (base ++ stnWords s) s.lg.rawInput

/-- INPUT_PHASE (R273, R275, R279, R286, R287, R290, R292): at tick 20, from ARMED onward. -/
def execInputPhase (s : State) : Res :=
  let s := fresh s
  if awake s && s.st.mode.fromArmed && mayAct .input 20 s then
    let s := stnAdmit (stnJudge (actAt .input 20 s))
    let img := inputImage s
    .next (modLg (fun x => { x with mem := putAll x.varWrites x.mem, varWrites := [], rawInput := img
                                    input := forced 1 img s }) s)
  else .next s

/-- The output frame of station i (R288, Table 12-15): both modules of a pair count it, the holder sends it (R318). -/
def stnSend (img : List (Nat × Word)) (i : Nat) (s : State) : State :=
  match (stationCfgs s)[i]? with
  | some c =>
    let y := stnAt s i
    if y.good && s.time.beat % c.cycle == 0 then
      let words := (List.range c.nOut).map (fun j => wordAt img (32 + 16 * i + j))
      let s := modStn i (fun y => { y with outSeq := (y.outSeq + 1) % 2 ^ 32 }) s
      if holder s then
        emitFab none 7 c.addr y.outSeq s.time.beat none (outPorts 7 c.addr s)
          (leB 1 2 ++ leB 1 c.nOut ++ leB 1 1 ++ leB 1 0 ++ words.flatMap (fun w => leB 4 w.toNat)) s
      else s
    else s
  | none => s

/-- OUTPUT_PHASE (R273, R275, R280, R286, R288, R290, R359): at tick 380, from ARMED onward. -/
def execOutputPhase (s : State) : Res :=
  let s := fresh s
  if awake s && s.st.mode.fromArmed && mayAct .output 380 s then
    let s := stnJudge (actAt .output 380 s)
    let drive := s.st.mode == .run && !s.lg.protNow
    let img := forced 2 s.lg.output s
    let s := drivePhase (fun k => if drive then wBit (wordAt img 0) k else (ioCfg s k).safe) s
    let s := allK (fun k c =>
      let v := drive && wBit (wordAt img 1) k
      { c with progBit := v, blocked := c.blocked && (v || demanded s k) }) s
    .next (if s.st.mode = .run then (List.range 16).foldl (fun s i => stnSend img i s) s else s)
  else .next s

/-! ### T6, T7 and T14 (R278, R286, R294, Table 11-8) -/

/-- T6: memory, images and instance data start at zero, a VAR_WR accepted in LOADED still waits for its input phase (R292), the
constants are those of the calibre, and every station waits
for its first frame. -/
def lgStart (s : State) : State :=
  modLg (fun x => { (default : Logic) with
    consts := ((lgCfg s).map (·.consts)).getD [], forces := x.forces, varWrites := x.varWrites, pendingConsts := x.pendingConsts
    forceRefused := x.forceRefused, varRefused := x.varRefused, svcOvr := x.svcOvr, protOvr := x.protOvr }) s

/-- T7: every task's first cycle is a first scan and every station is LOST. -/
def lgRun (s : State) : State :=
  modLg (fun x => { x with inst := [], tasks := x.tasks.map (fun t => { t with firstScan := true })
                           stations := x.stations.map (fun y => { y with good := false, run := 0, pairAt := none }) }) s

/-- A new beat: nothing has run in it. -/
def lgBeat (s : State) : State := modLg (fun x => { x with ranNow := [], protNow := false }) s

/-- A replaced program (R84, R294): the memory area is zero, and what belongs to the old program's tasks and stations
starts again; a batch of constants that still waits for the old one is cancelled (log 29). -/
def lgReplace (s : State) : State :=
  let mine := (s.ldr.batch.map (fun b => b.sect == 14)).getD false
  let s := if mine then { s with ldr := { s.ldr with batch := none, onResult := 7 } } else s
  modLg (fun x => { x with consts := ((lgCfg s).map (·.consts)).getD [], mem := [], inst := [], output := []
                           tasks := Vector.replicate 8 default, stations := Vector.replicate 16 default
                           pendingConsts := [], taskConsts := [] }) s

/-! ### Registers (Tables 11-9 to 11-15) -/

/-- At least one force is enabled: FORCED and the FORCE output (R291). -/
def forcing (s : State) : Bool := s.lg.forces.toList.any (·.enable)

/-- LG_STATUS. -/
def lgStatus (s : State) : Word :=
  let x := s.lg
  let on := s.st.mode == .run
  toW (bitAt (!x.pendingConsts.isEmpty) 10 +
    bitAt (s.st.mode.fromArmed && (List.range (stationCfgs s).length).any (fun i => !(stnAt s i).good)) 9 +
    bitAt (forcing s) 8 + bitAt x.forceRefused 7 + bitAt x.varRefused 6 + bitAt x.svcOvr 5 + bitAt x.protOvr 4 +
    bitAt s.st.mode.fromArmed 2 + bitAt (lgCfg s).isSome 1 + bitAt on 0)

/-- VAR_RD. -/
def varRead (sel : Nat) (s : State) : Word :=
  let i := opIndex sel
  match opArea sel with
  | 1 => wordAt s.lg.input i
  | 2 => wordAt s.lg.output i
  | 3 => wordAt s.lg.mem i
  | 4 => intW ((s.lg.consts[i]?).getD 0)
  | _ => 0

/-- A write of VAR_WR (R292). -/
def varWrite (i : Fin 32) (v : Word) (s : State) : RspCode × State :=
  let sel := s.host.sess[i].varSel.toNat
  if opArea sel = 3 ∧ opIndex sel < 4096 ∧ (lgCfg s).isSome = true then
    (.ok, modLg (fun x => { x with varWrites := x.varWrites ++ [(opIndex sel, v)] }) s)
  else (.access, setAgain 0xC000 (2 ^ 6) (modLg (fun x => { x with varRefused := true }) s))

/-- LG_CTRL.CLR_COUNTS. -/
def lgClear (s : State) : State :=
  modLg (fun x => { x with tasks := x.tasks.map (fun t => { t with ovr := 0, peak := 0 })
                           stations := x.stations.map (fun y => { y with losses := 0 }) }) s

/-- LG_CLR_COUNTS is this write. -/
def lgCtrlWrite (v : Word) (s : State) : State := if wBit v 31 then lgClear s else s

/-- FORCEf_SEL. -/
def Force.selWord (f : Force) : Word := toW (bitAt f.enable 31 + bitAt f.word 30 + fld f.area 20 4 + fld f.index 0 20)

/-- STNs_STAT. -/
def stnStat (s : State) (i : Nat) : Word :=
  match (stationCfgs s)[i]? with
  | some c =>
    let y := stnAt s i
    let qual := if s.st.mode.fromArmed then (if y.good then 1 else 2) else 0
    toW (bitAt true 31 + fld qual 29 2 + fld y.run 16 8 + fld c.addr 0 16)
  | none => 0

/-- STNs_INFO: before any good frame AGE stands at its end (log 29). -/
def stnInfo (s : State) (i : Nat) : Word :=
  if i < (stationCfgs s).length then
    let y := stnAt s i
    let age := if y.lastSeq.isSome then min 65535 (s.time.beat - y.arrival / 400) else 65535
    toW (fld y.losses 16 16 + fld age 0 16)
  else 0

/-- The words of the logic engine block for a session. -/
def lgRead (i : Fin 32) (o : Nat) (s : State) : Word :=
  match o with
  | 0x000 => lgStatus s
  | 0x008 =>
    let c := lgCfg s
    toW (fld ((c.map (·.form)).getD 0) 24 1 + fld (taskCfgs s).length 16 4 + fld (stationCfgs s).length 8 5 +
      fld ((s.lg.forces.toList.filter (·.enable)).length) 0 6)
  | 0x010 => s.host.sess[i].varSel
  | 0x014 => varRead s.host.sess[i].varSel.toNat s
  | _ =>
    match arrIdx o 0x40 8 8, arrIdx o 0x44 8 8, arrIdx o 0x100 4 64, arrIdx o 0x300 4 32 with
    | some t, _, _, _ => match taskCfg s t with
      | some c =>
        let y := getNat s.lg.tasks t
        toW (bitAt true 31 + fld c.cls 30 1 + bitAt y.lastOvr 29 + fld c.cycle 16 10 + fld y.ovr 8 8 + fld c.prio 0 8)
      | none => 0
    | none, some t, _, _ => if (taskCfg s t).isSome then toW (fld (getNat s.lg.tasks t).peak 0 19) else 0
    | none, none, some f, _ =>
      let x := getNat s.lg.forces (f / 2)
      if f % 2 = 0 then x.selWord else x.val
    | none, none, none, some j => if j % 2 = 0 then stnStat s (j / 2) else stnInfo s (j / 2)
    | none, none, none, none => 0

/-- Writes to the logic engine block. -/
def lgWrite (i : Fin 32) (o : Nat) (v : Word) (s : State) : RspCode × State :=
  match o with
  | 0x000 =>
    (.ok, modLg (fun x => { x with forceRefused := x.forceRefused && !wBit v 7, varRefused := x.varRefused && !wBit v 6
                                   svcOvr := x.svcOvr && !wBit v 5, protOvr := x.protOvr && !wBit v 4 }) s)
  | 0x004 => (.ok, lgCtrlWrite v s)
  | 0x010 => (.ok, modSess i (fun x => { x with varSel := v &&& 0x00FFFFFF }) s)
  | 0x018 => varWrite i v s
  | _ =>
    match arrIdx o 0x100 4 64 with
    | some f => if f % 2 = 0 then forceSelWrite i (f / 2) v s else forceValWrite i (f / 2) v s
    | none => (.ok, s)

end Sys2Proof.Machine
end

