-- ==== Sys2Proof/Machine/Records.lean ====
section
/-! DEFINITION. Hardware recorder, journal, freeze, clear and crown lock (16 R382 to R392), with the owner-key checks of
15 R380 that they share. -/

namespace Sys2Proof.Machine

/-! ### Owner keys and NONCE (15 R380) -/

/-- The value of NONCE. -/
def nonceOf (s : State) : BitVec 64 := Config.nonce s.pw.nonceCtr

/-- NONCE changes. -/
def bumpNonce (s : State) : State := { s with pw := { s.pw with nonceCtr := s.pw.nonceCtr + 1 } }

/-- The key of a slot, if the slot is valid: written and not revoked. -/
def validKey (s : State) (slot : Nat) : Option (Nat × Nat) :=
  let k := getNat s.pw.keys slot
  if slot < 4 ∧ k.revoked = false then k.key else none

/-- Words a to a + 7 of LC_DATA as a number, least significant byte first. -/
def lcNum (s : State) (a : Nat) : Nat :=
  leNat (wordsBytes ((List.range 8).map (fun k => getNat s.pw.lcData (a + k))))

/-- The signature in LC_DATA16 to LC_DATA31 verifies over NONCE and a message with the key of a slot. -/
def signedBy (s : State) (slot : Nat) (msg : List Byte) : Bool :=
  match validKey s slot with
  | some k => ecdsaOk k (sha256 (leBytes 8 (nonceOf s).toNat ++ msg)) (lcNum s 16) (lcNum s 24)
  | none => false

/-- One byte of a message. -/
def byte (n : Nat) : Byte := BitVec.ofNat 8 n

/-! ### Storing records (R383, R384, R386, R387) -/

/-- The eight words of recorder record i (Table 16-2). -/
def recWords (i : Nat) (e : RecEvent) : List Word :=
  let head := [toW (fld e.code 0 8 + fld e.chan 8 8 + fld i 16 16), toW e.opSec, toW e.pcycle]
  let tail := (List.range 4).map (fun k => e.p.getD k 0)
  head ++ [toW (crc32c (wordsBytes (head ++ tail)))] ++ tail

/-- A recorder record stored at the next index, or lost because the store is full (R384). -/
def storeRec (e : RecEvent) (s : State) : State :=
  let n := s.rcd.recs.length
  if n < 4096 then
    setAgain 0x11000 1 { s with rcd := { s.rcd with recs := s.rcd.recs ++ [recWords n e], newRecord := true } }
  else { s with rcd := { s.rcd with recLost := satAdd s.rcd.recLost 1 (2 ^ 32 - 1), rrFull := true } }

/-- A recorder record that is formed: held while a freeze holds (R388), stored otherwise. -/
def formRec (e : RecEvent) (s : State) : State :=
  if s.rcd.freeze.isNone then storeRec e s
  else if s.rcd.holdRec.length < 16 then { s with rcd := { s.rcd with holdRec := s.rcd.holdRec ++ [e] } }
  else { s with rcd := { s.rcd with recLost := satAdd s.rcd.recLost 1 (2 ^ 32 - 1) } }

/-- The sixteen words of a journal record (Table 16-4); `notStored` is FLAGS[0] of a mirror copy. -/
def jnlWords (seq : Nat) (e : JnlEvent) (notStored : Bool) : List Word :=
  let body := [toW seq, toW (seq / 2 ^ 32),
      toW (fld e.code 0 8 + fld e.payload.length 8 8 + bitAt notStored 16 + fld e.session 24 8)] ++
    (List.range 12).map (fun k => e.payload.getD k 0)
  body ++ [toW (crc32c (wordsBytes body))]

/-- A journal record stored, or lost because the store is full (R387). -/
def storeJnl (w : List Word) (s : State) : State :=
  if s.rcd.jnls.length < 65536 then { s with rcd := { s.rcd with jnls := s.rcd.jnls ++ [w] } }
  else { s with rcd := { s.rcd with jnlLost := satAdd s.rcd.jnlLost 1 (2 ^ 32 - 1), jrFull := true } }

/-- Firmware forms a journal record: it takes the next SEQ, is stored or held, and is offered to the queues of
content 6 (R387, R388). -/
def formJnl (e : JnlEvent) (s : State) : State :=
  let seq := satAdd s.rcd.jnlSeq 1 (2 ^ 64 - 1)
  let s := { s with rcd := { s.rcd with jnlSeq := seq } }
  let w := jnlWords seq e false
  if s.rcd.freeze.isNone then
    offerContent 6 (jnlWords seq e (decide (65536 ≤ s.rcd.jnls.length))) (storeJnl w s)
  else if s.rcd.holdJnl.length < 64 then
    offerContent 6 (jnlWords seq e (decide (65536 ≤ s.rcd.jnls.length + s.rcd.holdJnl.length)))
      { s with rcd := { s.rcd with holdJnl := s.rcd.holdJnl ++ [w] } }
  else
    offerContent 6 (jnlWords seq e true)
      { s with rcd := { s.rcd with jnlLost := satAdd s.rcd.jnlLost 1 (2 ^ 32 - 1) } }

/-- The held records are written in order and the freeze is over (R388). -/
def flushHeld (s : State) : State :=
  let r := s.rcd.holdRec
  let j := s.rcd.holdJnl
  let s := { s with rcd := { s.rcd with freeze := none, frozenBeats := 0, holdRec := [], holdJnl := [] } }
  j.foldl (fun s w => storeJnl w s) (r.foldl (fun s e => storeRec e s) s)

/-- The end of a freeze, entered in the journal with the number of records held back (Table 16-5). -/
def freezeEnd (s : State) : State :=
  match s.rcd.freeze with
  | none => s
  | some i =>
    let n := s.rcd.holdRec.length + s.rcd.holdJnl.length
    jnl 0x0E i.val [beatLo s, 0, toW n] (flushHeld s)

/-- FREEZE by a session (R388). -/
def freezeStart (i : Fin 32) (s : State) : RspCode × State :=
  match s.rcd.freeze with
  | some j => if i = j then (.ok, s) else (.access, s)
  | none =>
    (.ok, jnl 0x0E i.val [beatLo s, 1, 0] { s with rcd := { s.rcd with freeze := some i, frozenBeats := 0 } })

/-- A write of RC_CTRL: FREEZE, then UNFREEZE. -/
def rcCtrlWrite (i : Fin 32) (v : Word) (s : State) : RspCode × State :=
  let (c, s) := if wBit v 31 then freezeStart i s else (.ok, s)
  if c ≠ .ok then (c, s)
  else if wBit v 30 && s.rcd.freeze == some i then (.ok, freezeEnd s)
  else (.ok, s)

/-! ### Crown lock (R392) -/

/-- The crown lock of a session becomes released or set, with its journal record. -/
def setCrown (i : Fin 32) (released : Bool) (signer : Nat) (s : State) : State :=
  let s' := { s with host := { s.host with sess := updAt s.host.sess i (fun x => { x with crown := released }) } }
  if s.host.sess[i].crown = released then s'
  else jnl 0x0D i.val [beatLo s, toW (b2n released), toW signer] s'

/-- RELEASE is permitted: unsigned before PROVISION and after RETURN, signed in OWNED, never in SCRAPPED. -/
def crownAllowed (i : Fin 32) (signer : Nat) (s : State) : Bool :=
  match s.pw.lc with
  | .scrapped => false
  | .owned => signedBy s signer [byte 0x20, byte i.val, 0, 0]
  | _ => true

/-- A write of CROWN_CTRL: RELEASE, then LOCK. A write of RELEASE changes NONCE whatever its outcome. -/
def crownWrite (i : Fin 32) (v : Word) (s : State) : RspCode × State :=
  let signer := wBits v 9 8
  if wBit v 31 && !crownAllowed i signer s then
    (.access, bumpNonce (setAgain 0x11000 (2 ^ 6) { s with rcd := { s.rcd with crownRefused := true } }))
  else
    let s := if wBit v 31 then bumpNonce (setCrown i true (if s.pw.lc = .owned then signer else 0xFF) s) else s
    (.ok, if wBit v 30 then setCrown i false 0xFF s else s)

/-! ### CLEAR_RECORDS (R390) -/

/-- The start conditions of a CLEAR_RECORDS job in their order, as the DETAIL of the first that fails (R390, R330). -/
def clearDetail (arg : Word) (s : State) : Option Nat :=
  let slot := wBits arg 9 8
  if s.pw.lc ≠ .owned then some 1
  else if contactorJob s then some 4
  else if !signedBy s slot [byte 0x10, byte (wBits arg 7 0), 0, 0] then some 0x15
  else if s.rcd.freeze.isSome then some 0x16
  else none

/-- The start of a CLEAR_RECORDS job in an IDLE slot; it changes NONCE whatever its outcome. The erase starts with the
job, so its commit point passes here (log 15). -/
def clearStart (i : Fin 32) (j : Fin 8) (s : State) : State :=
  let arg := (jobAt s j.val).arg
  match clearDetail arg s with
  | some d => bumpNonce (jobRefuse i j.val 0x10 d s)
  | none => bumpNonce (jobCommitted j.val (jobStart i j.val 0x10 s))

/-- The recorder erased, with RECORDER_CLEARED as its record 0. -/
def clearRecorder (slot : Nat) (s : State) : State :=
  let lost := s.rcd.recLost
  storeRec { code := 0x25, chan := 0, opSec := s.rcd.opSec, pcycle := s.rcd.pcycle, tick := absTick s
             p := [toW slot, beatLo s, toW lost, 0] }
    { s with rcd := { s.rcd with recs := [], recLost := 0, rrFull := false } }

/-- The journal erased, with its journal-cleared record as record 0. -/
def clearJournal (session slot : Nat) (s : State) : State :=
  let lost := s.rcd.jnlLost
  let f := s.rcd.freeze
  let s := formJnl { code := 0x0F, session := session, payload := [beatLo s, toW slot, toW lost] }
    { s with rcd := { s.rcd with jnls := [], jnlLost := 0, jrFull := false, freeze := none } }
  { s with rcd := { s.rcd with freeze := f } }

/-- The erase of the CLEAR_RECORDS job that started first is done: stores emptied, counts zero, first records written,
job COMPLETED. -/
def clearDone (s : State) : State :=
  match oldestOf 0x10 s with
  | none => s
  | some j =>
    let arg := (jobAt s j).arg.toNat
    let slot := bitsOf arg 9 8
    let sess := (jobAt s j).session
    let s := if arg.testBit 0 then clearRecorder slot s else s
    let s := if arg.testBit 1 then clearJournal sess slot s else s
    jobEnd j .completed 0 s

/-! ### Registers (Tables 16-13, 16-14) -/

/-- A stored record's CHK fails on reading (R389). -/
def recChkBad (w : List Word) : Bool := w.getD 3 0 != toW (crc32c (wordsBytes (w.take 3 ++ w.drop 4)))
/-- The same for a journal record. -/
def jnlChkBad (w : List Word) : Bool := w.getD 15 0 != toW (crc32c (wordsBytes (w.take 15)))

/-- RC_STATUS as a session reads it. -/
def rcStatus (i : Fin 32) (s : State) : Word :=
  let x := s.host.sess[i]
  toW (bitAt s.rcd.crownRefused 6 + bitAt ((s.rcd.jnls[x.jrSel]?.map jnlChkBad).getD false) 5 +
    bitAt ((s.rcd.recs[x.rrSel]?.map recChkBad).getD false) 4 + bitAt s.rcd.freeze.isSome 3 + bitAt s.rcd.jrFull 2 +
    bitAt s.rcd.rrFull 1 + bitAt s.rcd.newRecord 0)

/-- The words of the records block. -/
def recordsRead (i : Fin 32) (o : Nat) (s : State) : Word :=
  let x := s.host.sess[i]
  match o with
  | 0x000 => rcStatus i s
  | 0x008 => toW (fld (min s.rcd.recLost 65535) 16 16 + fld s.rcd.recs.length 0 13)
  | 0x00C => toW (fld s.rcd.jnls.length 0 17)
  | 0x010 => toW s.rcd.jnlLost
  | 0x014 => toW s.rcd.jnlSeq
  | 0x018 => toW (s.rcd.jnlSeq / 2 ^ 32)
  | 0x01C => toW s.rcd.opSec
  | 0x020 => toW s.rcd.pcycle
  | 0x024 => toW x.rrSel
  | 0x028 => toW x.jrSel
  | 0x034 => toW (b2n x.crown)
  | _ =>
    match arrIdx o 0x40 4 8, arrIdx o 0x80 4 16 with
    | some w, _ => (s.rcd.recs.getD x.rrSel []).getD w 0
    | none, some w => (s.rcd.jnls.getD x.jrSel []).getD w 0
    | none, none => 0

/-- Writes to the records block. -/
def recordsWrite (i : Fin 32) (o : Nat) (v : Word) (s : State) : RspCode × State :=
  let sel := fun (f : Session → Session) => { s with host := { s.host with sess := updAt s.host.sess i f } }
  match o with
  | 0x000 => (.ok, { s with rcd := { s.rcd with crownRefused := s.rcd.crownRefused && !wBit v 6
                                                newRecord := s.rcd.newRecord && !wBit v 0 } })
  | 0x004 => rcCtrlWrite i v s
  | 0x024 => (.ok, sel (fun x => { x with rrSel := wBits v 11 0 }))
  | 0x028 => (.ok, sel (fun x => { x with jrSel := wBits v 15 0 }))
  | 0x030 => crownWrite i v s
  | _ => (.ok, s)

/-! ### Commands -/

/-- RECORDER_COMMIT (R382 to R385): the oldest waiting event is recorded. -/
def execRecorderCommit (s : State) : Res :=
  let s := fresh s
  match s.rcd.recQ with
  | [] => .next s
  | e :: r => .next (formRec e { s with rcd := { s.rcd with recQ := r } })

/-- JOURNAL_COMMIT (R386, R387): the oldest waiting event is formed and stored. -/
def execJournalCommit (s : State) : Res :=
  let s := fresh s
  match s.rcd.jnlQ with
  | [] => .next s
  | e :: r => .next (formJnl e { s with rcd := { s.rcd with jnlQ := r } })

/-- FREEZE_TIMEOUT (R388): a freeze ends 600 000 beats after it began. -/
def execFreezeTimeout (s : State) : Res :=
  let s := fresh s
  .next (if s.rcd.freeze.isSome ∧ 600000 ≤ s.rcd.frozenBeats then freezeEnd s else s)

/-- CLEAR_RECORDS_DONE (R382, R390). -/
def execClearRecordsDone (s : State) : Res := .next (clearDone (fresh s))

end Sys2Proof.Machine
end

