-- ==== Sys2Proof/Machine/States.lean ====
section
/-! DEFINITION. Responses, jobs that are aborted, the close of a session, starts from reset, and the transitions of
01 Table 01-4 with what they do (01 R19 to R25, 13 R323, R331, 15 R369 to R378, R381, 16 R402). -/

namespace Sys2Proof.Machine

/-! ### Responses (13 Tables 13-2, 13-4, R324, R327) -/

/-- Response codes (Table 13-4). -/
def RspCode.code : RspCode → Nat
  | .ok => 0 | .align => 1 | .address => 2 | .access => 3 | .state => 4 | .session => 5 | .full => 6 | .busy => 7
  | .format => 8

/-- A response on the CAN access profile (R327). -/
def Rsp.canBytes (r : Rsp) : List Byte :=
  leB 1 r.session ++ leB 1 r.op ++ leB 1 r.tag ++ leB 1 r.code.code ++ leB 1 r.done ++ leB 3 0 ++
    r.data.flatMap (fun w => leB 4 w.toNat)

/-- The ACCESS_RSP payload (Table 13-2). -/
def Rsp.fabricBytes (r : Rsp) : List Byte :=
  leB 1 r.session ++ leB 1 r.op ++ leB 2 r.tag ++ leB 1 r.code.code ++ leB 1 0 ++ leB 2 r.done ++ leB 4 r.addr ++
    r.data.flatMap (fun w => leB 4 w.toNat)

/-- A response leaves: it is put out; on the fabric it is an ACCESS_RSP frame to the request's SRC, or to its source MAC address where SRC is 0 (12 Table 12-3), and
on CAN it waits for TXB0. -/
def respond (r : Rsp) (s : State) : State :=
  let s := put (.rsp r) s
  match r.dest with
  | some (.fabric mac src) =>
    sendFab (if src = 0 then some mac else none) 4 src s.time.beat r.stamp (outPorts 4 src s) r.fabricBytes s
  | some (.can c) => canRespond c.val r.canBytes s
  | none => s

/-- The response to a request of a session: stored with its TAG (R324), and sent. -/
def answer (i : Fin 32) (r : Rsp) (s : State) : State :=
  respond r (if s.host.sess[i].isOpen then modSess i (fun x => { x with lastTag := some (r.tag, r), outstanding := false }) s
             else s)

/-! ### Jobs and sessions (13 R323, R331) -/

/-- An abort of job j is latched now (R331). In the tick in which TRG3 fires an ACTIVATE job is judged first (16
Table 16-12). -/
def abortJob (j : Nat) (s : State) : State :=
  let x := jobAt s j
  match x.st with
  | .running =>
    if x.kind = 1 ∨ x.kind = 2 then contactorAbort s
    else if x.kind = 0x12 ∧ tickOf s = 0 ∧ trigDue 3 s = true then s
    else if x.committed then modJob j (fun y => { y with abortLate := true }) s
    else
      let s := jobEnd j .aborted 0 s
      if x.kind = 0x12 then { s with time := { s.time with trg := updNat s.time.trg 3 (fun t => { t with arm := false }) } }
      else s
  | .completed => modJob j (fun y => { y with abortLate := true }) s
  | _ => s

/-- T5 (03 R77, R78): the load ends with a code; the calibre area is wiped, and what a transition into BLANK clears of what
BLANK and LOADING can hold: forces (11 R289), port counts (12 Table 12-10), AZ_FAIL and a snapshot (05 Table 05-8), and the
CAN and field channels (14 R362, Table 14-7). -/
def loadEnd (f : Fail) (s : State) : State :=
  let s := toMode .blank 5 s
  let l := s.ldr
  let fab := { s.fab with port := s.fab.port.map (fun p => { p with rx := 0, dup := 0, err := 0 }) }
  { s with
    ldr := { l with err := f.err.code, detail := f.detail, errSect := f.sect, errPlace := f.place.getD ((Config.freeInt s.freeCtr).toNat % 2 ^ 24)
                    checking := false, receiving := false, owner := none, words := [], idleBeats := 0, passed := none }
    cal := none, lg := default, fab := fab, meas := State.reset.meas, can := State.reset.can, fio := State.reset.fio
    freeCtr := s.freeCtr + 1 }

/-- A replacement ends without a new program (03 R84). -/
def replaceEnd (f : Fail) (s : State) : State :=
  { s with
    ldr := { s.ldr with err := f.err.code, detail := f.detail, errSect := f.sect
                        errPlace := f.place.getD ((Config.freeInt s.freeCtr).toNat % 2 ^ 24)
                        checking := false, receiving := false, owner := none, repl := none, idleBeats := 0 }
    freeCtr := s.freeCtr + 1 }

/-- The load or replacement that a session owns is aborted (03 R78, R84). -/
def loadAbort (i : Fin 32) (s : State) : State :=
  if s.ldr.owner = some i then
    if s.st.mode = .loading then loadEnd { err := .aborted } s
    else if s.ldr.repl.isSome then replaceEnd { err := .aborted, sect := 14 } s
    else s
  else s

/-- A state command that arrives ends a replacement (03 R84). -/
def replaceStop (s : State) : State := if s.ldr.repl.isSome then replaceEnd { err := .aborted, sect := 14 } s else s

/-- T10: service functions end. -/
def leaveService (s : State) : State :=
  toMode .stop 10 { s with host := { s.host with sess := s.host.sess.map (fun x => { x with inService := false }) } }

/-- A session closes (R323): everything it holds is let go in this beat. -/
def closeSession (i : Fin 32) (s : State) : State :=
  let s := loadAbort i s
  let s := if s.st.mode = .service ∧ s.host.sess[i].inService = true then leaveService s else s
  let s := (List.range 8).foldl (fun s j =>
    if (jobAt s j).st = .running ∧ (jobAt s j).session = i.val then abortJob j s else s) s
  let s := releaseClaims i s
  let s := if s.rcd.freeze = some i then freezeEnd s else s
  let s := setCrown i false 0xFF s
  { s with host := { s.host with sess := s.host.sess.set i default } }

/-! ### Starts from reset (15 R378, R381, R382, Table 15-8; 16 R402) -/

/-- The state with every volatile store wiped: what is kept are the record store and the counters, firmware slots,
fuses and keys, the always-on domain, the supplies, the links and nodes outside, and what waits to be recorded. -/
def wiped (s : State) : State :=
  let r := s.rcd
  let u := s.upd
  { State.reset with
    rcd := { r with newRecord := false, crownRefused := false, freeze := none, frozenBeats := 0, holdRec := [], holdJnl := [] }
    upd := { u with sess := Upd.reset.sess, actSec := 0 }
    pw := { s.pw with vsupDip := false, lcRefused := false, watch := none, resReadable := false, held := false
                      lcResult := 0, lcData := default, wakeInAlso := false }
    fab := { State.reset.fab with port := s.fab.port.map (fun p => { p with rx := 0, dup := 0, err := 0 }) }
    nodes := s.nodes, pending := s.pending, mark := s.mark, sent := s.sent, freeCtr := s.freeCtr }

/-- Every released crown lock is set again (16 R392), a freeze ends (16 R388), and the volatile stores are wiped. -/
def powerDown (s : State) : State :=
  wiped (freezeEnd ((List.finRange 32).foldl (fun s i => setCrown i false 0xFF s) s))

/-- The whole record store is wiped (R378). -/
def wipeRecords (s : State) : State :=
  { s with rcd := { s.rcd with recs := [], jnls := [], recQ := [], jnlQ := [], rrFull := false, jrFull := false } }

/-- FW version of a slot as the journal shows it: FW_MAJOR and FW_MINOR as REVISION holds them. -/
def fwVersion (slot : Nat) (s : State) : Word := toW (256 + fwMinorOf s slot)

/-- The module falls back to the former slot (16 R402). -/
def fallBack (reason : Nat) (s : State) : State :=
  let u := s.upd
  let s := jnl 0x14 0xFF [toW reason, toW u.trialSec, fwVersion u.active s] s
  { s with
    upd := { u with active := 1 - u.active, phase := .rejected, fellBack := true, starts := 0, trialSec := 0, expired := false }
    pw := { s.pw with wakeCause := 8 } }

/-- A start in TRIAL is counted; one that would be the fourth boots the former slot (16 R402). -/
def trialStart (s : State) : State :=
  if s.upd.phase = .trial then
    if 3 ≤ s.upd.starts then fallBack 1 s else { s with upd := { s.upd with starts := s.upd.starts + 1 } }
  else s

/-- A start from reset with its WAKE_CAUSE: a freeze ends (16 R388), stores are wiped, an unfinished life-cycle wipe is
repeated (R381), PCYCLE counts a power-up (16 Table 16-1), NONCE changes (R380), and a start in TRIAL is counted. -/
def startUp (cause : Nat) (s : State) : State :=
  let s := powerDown s
  let s := if s.pw.entered && !s.pw.wiped then
      wipeRecords { s with pw := { s.pw with wiped := true } } else s
  let s := bumpNonce { s with
    pw := { s.pw with wakeCause := cause }
    rcd := { s.rcd with pcycle := if cause = 1 then satAdd s.rcd.pcycle 1 (2 ^ 32 - 1) else s.rcd.pcycle } }
  trialStart s

/-- Contactor switches, field outputs, TP0 and TP1 turn off. -/
def allOutputsOff (s : State) : State :=
  let s := fioOff (openAll s)
  { s with saf := { s.saf with tp := default } }

/-- T14 with its cause: every contactor opens, and the module starts from reset. -/
def resetBy (cause : Nat) (s : State) : State := startUp cause (toMode .blank 14 (allOutputsOff s))

/-! ### STORAGE and WATCH (15 R369, R373, R376, R377) -/

/-- T2 (R369). -/
def enterStorage (s : State) : State :=
  let s := sleepAll s
  let s := toMode .storage 2 (allOutputsOff s)
  let s := powerDown s
  { s with st := { s.st with mode := .storage }, pw := { s.pw with wakeTrip := false, wakeHold := false } }

/-- A listed node as it is copied into retention memory (R373). -/
def watchNode (s : State) (a : Nat) : WatchNode :=
  let d : WatchNode := default
  match mapNode s a with
  | none => { d with addr := a, line := a / 16 }
  | some n =>
    let w := primaryEnd s n.line == .w
    let taps := n.locals.flatMap (fun k => match n.stringPos k with
      | some p => (s.cal.bind (fun c => c.taps[p]?)).getD []
      | none => [])
    let least := taps.foldl (fun (b : Option TapRec) t => match b with
      | some x => if t.rfuse < x.rfuse then some t else b
      | none => some t) none
    { d with addr := a, line := n.line, d := if w then (nodeRec s a).dW else (nodeRec s a).dE, posBase := n.posBase
             posMask := n.posMask, tempMask := n.tempMask, taps := (tapPlanOf s a).length
             rfuse := (least.map (·.rfuse)).getD 0, ftc := (least.map (·.ftc)).getD 0
             sums := n.locals.map (fun _ => (0, 0)), fromW := w }

/-- The plan in retention memory at T12 (R373). -/
def watchPlan (s : State) : WatchRun :=
  let loaded := s.st.mode == .loaded
  let plan := s.cal.bind (·.watch)
  let found := (List.range 64).filter (fun a => (nodeRec s a).found)
  let list := match plan with
    | some p => if loaded then [] else if p.nodes.isEmpty then found else p.nodes
    | none => []
  { (default : WatchRun) with
    plan := plan, nodes := list.map (watchNode s), thOn := (ioPers s).th.map (fun t => t.kind != 0)
    fromLoaded := loaded, notHigher := inPair s && !higherClaim s, claim := ownClaim s }

/-- A batch of section 0x12 applies at the entry into WATCH (03 Table 03-10). -/
def watchBatch (s : State) : State :=
  match s.ldr.batch with
  | some b => if b.sect = 18 ∧ b.beat ≠ s.time.beat then batchDone b s else s
  | none => s

/-- T12 (R373). -/
def enterWatch (s : State) : State :=
  let s := sleepAll (watchBatch s)
  let w := watchPlan s
  let s := toMode .watch 12 (fioOff s)
  let s := powerDown s
  let sk := if w.plan.isNone then 0 else if w.fromLoaded then 10 else 0
  { s with
    st := { s.st with mode := .watch }
    pw := { s.pw with wakeTrip := false, wakeHold := false, watch := some w
                      res := { (default : WatchRes) with skipped := sk &&& ((w.plan.map (·.checks)).getD 0) } } }

/-- T13: the module resets, and the retained result is readable from BLANK (R376). -/
def leaveWatch (cause : Nat) (also trip : Bool) (s : State) : State :=
  let r := s.pw.res
  let s := startUp cause (toMode .blank 13 s)
  { s with pw := { s.pw with res := r, resReadable := true, wakeInAlso := also, wakeTrip := s.pw.wakeTrip || trip } }

/-! ### The other transitions -/

/-- T6 begins (03 R79, 04 R100; 12 R313): in a pair, enumeration waits until the pair is FORMED and the partner has taken
ARM too. -/
def armEnum (s : State) : State :=
  if s.chain.arming.isSome && !s.chain.enumOn &&
      (!inPair s || (s.fab.pair.st == .formed && Config.partnerArmed s.time.beat)) then enumStart s else s

/-- ARM takes effect: ARM_ERR and ENUM_RESULT are cleared. -/
def armStart (s : State) : State :=
  armEnum { s with
    ldr := { s.ldr with armErr := 0 }
    chain := { s.chain with arming := some s.time.beat, enumOn := false, enumErr := 0, enumLine := 0, enumEnd := .e
                            enumHop := 0, enumDetail := 0 } }

/-- T7. -/
def enterRun (s : State) : State := lgRun (toMode .run 7 s)

/-- T8: both channels open every contactor and refuse closing, and the limits read zero (R24). -/
def enterStop (s : State) : State := zeroLimits (toMode .stop 8 (openAll s))

/-- T9. -/
def enterService (i : Fin 32) (s : State) : State := modSess i (fun x => { x with inService := true }) (toMode .service 9 s)

/-- A state command judged against the present state (R20, R22, Table 01-4; 13 R328). -/
def stateCmd (i : Fin 32) (code : Nat) (s : State) : RspCode × State :=
  let m := s.st.mode
  match code with
  | 1 => if m = .blank ∨ m = .loaded then (.ok, enterStorage s) else (.state, s)
  | 2 => if m = .loaded ∧ s.chain.arming.isNone = true then (.ok, armStart s) else (.state, s)
  | 3 =>
    if (m = .armed ∨ m = .stop) ∧ (lgCfg s).isSome = true ∧ aReady s = true ∧ bReady s = true then (.ok, enterRun s)
    else (.state, s)
  | 4 =>
    if m = .run ∨ m = .armed then (.ok, enterStop s)
    else if m = .service then (.ok, leaveService s)
    else (.state, s)
  | 5 => if m = .stop ∧ s.host.sess[i].crown = true then (.ok, enterService i s) else (.state, s)
  | 6 =>
    if closedMask s = 0 ∧ (m = .loaded ∨ (m = .run ∧ (s.cal.bind (·.watch)).isSome = true)) then (.ok, enterWatch s)
    else (.state, s)
  | 7 => (.ok, resetBy 6 s)
  | _ => (.format, s)

end Sys2Proof.Machine
end

