-- ==== Sys2Proof/Machine/Watch.lean ====
section
/-! DEFINITION. The watch checks (15 R373 to R377, Tables 15-6, 15-7). -/

namespace Sys2Proof.Machine

/-! ### The plan (R372, R373) -/

/-- PERIOD; 0 selects 60. -/
def WatchRun.period (r : WatchRun) : Nat :=
  match r.plan with
  | some p => if p.period = 0 then 60 else p.period
  | none => 60

/-- A check bit of the plan. -/
def WatchRun.has (r : WatchRun) (k : Nat) : Bool := (r.plan.map (fun p => p.checks.testBit k)).getD false

/-- Checks [1] and [3] run: not from LOADED, and in a pair only in the module with the higher claim (R373). -/
def WatchRun.nodesDue (r : WatchRun) (k : Nat) : Bool := r.has k && !r.fromLoaded && !r.notHigher

/-- Check [2] runs in every tenth check (R374). -/
def WatchRun.insDue (r : WatchRun) : Bool := r.has 2 && !r.notHigher && r.checks % 10 == 0

/-- The last check beat: 102, or 1 822 with check [3]. -/
def WatchRun.last (r : WatchRun) : Nat := if r.nodesDue 3 then 1822 else 102

/-- The check's work at beat c is over (R374). -/
def WatchRun.over' (r : WatchRun) (c : Nat) : Bool :=
  decide (r.last ≤ c) && (!r.insDue || r.insDone || decide (20000 ≤ c))

/-! ### One check beat -/

/-- The BEAT frame of check beat c on a line (R89, R91, Tables 04-2, 04-5). -/
def watchFrame (claim l : Nat) (d : End) (c : Nat) (s : State) : State :=
  put (.chain l d (mkFrame 1 0xFF claim (c % 65536)
    (beatBytes c 1479500 true (decide ((c + 1) % 100 = 0)) (decide ((c + 1) % 1000 = 0)) []))) s

/-- BEAT frames leave on every line that holds a listed node, from its primary end. -/
def watchFrames (r : WatchRun) (c : Nat) (s : State) : State :=
  if (r.nodesDue 1 || r.nodesDue 3) && decide (c ≤ r.last) then
    (List.range 4).foldl (fun s l => match r.nodes.find? (fun n => n.line == l) with
      | some n => watchFrame r.claim l (if n.fromW then .w else .e) c s
      | none => s) s
  else s

/-- The local positions of a listed node. -/
def WatchNode.locals (n : WatchNode) : List Nat := maskBits 16 n.posMask

/-- The string position of a local position. -/
def WatchNode.stringPos (n : WatchNode) (k : Nat) : Nat := n.posBase + popCount k n.posMask

/-- What a beat of 10 to 19 adds for a listed node: its VALID position values, or a RESULT that is missing. -/
def WatchNode.addBeat (d : WatchData) (n : WatchNode) : WatchNode :=
  let got := d.nodes.find? (fun x => x.1 == n.addr && x.2.1)
  let vals : List (Nat × Int) := (got.map (fun x => x.2.2)).getD []
  { n with
    missed := if got.isNone then n.missed + 1 else n.missed
    sums := (n.locals.zip n.sums).map (fun x => match vals.find? (fun v => v.1 == x.1) with
      | some v => (x.2.1 + v.2, x.2.2 + 1)
      | none => x.2) }

/-- A VALID point of the listed node, by its TEMP_MASK. -/
def WatchNode.takeTemps (d : WatchData) (n : WatchNode) : WatchNode :=
  { n with temps := n.temps ++ (d.temps.filter (fun t => t.1 == n.addr && n.tempMask.testBit t.2.1)).map (fun t => t.2.2) }

/-- i_c of R200 with κ = 1 and the node's RFUSE_W and FTC_W, in A (R375). -/
def WatchNode.tapI (n : WatchNode) (e : TapEntry) : Rat :=
  let tp : Rat := (n.temps.foldl (· + ·) 0 : Int) / (max 1 n.temps.length : Nat)
  fToRat (rawI { mux := e.mux, ftc := n.ftc, rfuse := n.rfuse }
    { drop := e.drop, code := .valid, ia := fC 0 1, tp := tp })

/-- A tap with TQ = 0 whose −i_c reaches ISHORT is kept, the greatest first found (R375). -/
def WatchNode.takeTaps (lim k : Nat) (d : WatchData) (n : WatchNode) : WatchNode :=
  if n.temps.isEmpty then n
  else d.taps.foldl (fun n x =>
    let i := -(n.tapI x.2)
    if x.1 = n.addr ∧ x.2.tq = 0 ∧ (lim : Rat) ≤ i * 100000 ∧ n.hit = none then
      { n with hit := some (x.2.mux, (ratFree k (i * 1000)).toNat) }
    else n) n

/-- The dwell count after the taps of a check (R375). -/
def WatchNode.dwellStep (n : WatchNode) : WatchNode :=
  if n.temps.isEmpty then n else { n with dwell := if n.hit.isSome then n.dwell + 1 else 0 }

/-- ISHORT; 0 selects 500. -/
def ishort (p : WatchCfg) : Nat := if p.iShort = 0 then 500 else p.iShort

/-- What the check beat brings, added to the run: voltages in beats 10 to 19, temperatures at beat 100 (whose AUX frames
come in beat 101), taps from beat 1 000 on, and the dwell counts at 1 822. -/
def watchTake (k c : Nat) (d : WatchData) (r : WatchRun) : WatchRun :=
  let r := { r with insDone := r.insDone || (r.insDue && d.ins.isSome) }
  if 10 ≤ c ∧ c ≤ 19 then
    let r := match d.vStr with
      | some v => { r with strSum := r.strSum + v, strN := r.strN + 1 }
      | none => r
    if r.nodesDue 1 then { r with nodes := r.nodes.map (·.addBeat d) } else r
  else if c = 100 ∨ c = 101 then { r with nodes := r.nodes.map (·.takeTemps d) }
  else if 1000 ≤ c ∧ c ≤ 1820 ∧ r.nodesDue 3 = true then
    { r with nodes := r.nodes.map (fun n => n.takeTaps ((r.plan.map ishort).getD 500) k d) }
  else if c = 1822 ∧ r.nodesDue 3 = true then { r with nodes := r.nodes.map (·.dwellStep) }
  else r

/-- The mean of each judged position with at least one VALID sample: position, sum and number in µV. -/
def WatchRun.means (r : WatchRun) : List (Nat × Int × Nat) :=
  r.nodes.flatMap (fun n => ((n.locals.zip n.sums).filter (fun x => x.2.2 != 0)).map (fun x => (n.stringPos x.1, x.2)))

/-- The least or greatest by a comparison of means; the first one found wins. -/
def bestMean (less : Rat → Rat → Bool) (l : List (Nat × Int × Nat)) : Option (Nat × Rat) :=
  l.foldl (fun b x =>
    let m : Rat := (x.2.1 : Rat) / (x.2.2 : Nat)
    match b with
    | some y => if less m y.2 then some (x.1, m) else b
    | none => some (x.1, m)) none

/-- The VALID temperatures of this beat: index (a TH input is 512 + t) and value. -/
def WatchRun.tempsOf (r : WatchRun) (d : WatchData) : List (Nat × Int) :=
  (d.temps.filter (fun t => r.nodes.any (fun n => n.addr == t.1 && n.tempMask.testBit t.2.1))).map
      (fun t => (tempIdx t.1 t.2.1, t.2.2)) ++
    (d.th.filter (fun t => r.thOn.getD t.1 false)).map (fun t => (512 + t.1, t.2))

/-- What the result registers show after this beat (Table 15-16): extremes of the newest check that formed them
(log 30). -/
def watchShow (k c : Nat) (d : WatchData) (r : WatchRun) (x : WatchRes) : WatchRes :=
  if c = 19 then
    let lo := bestMean (fun a b => decide (a < b)) r.means
    let hi := bestMean (fun a b => decide (b < a)) r.means
    { x with
      vStr := if r.strN = 0 then x.vStr else divFree k r.strSum r.strN
      vMin := lo.map (fun p => (p.1, ratFree k (p.2 / 10)))
      vMax := hi.map (fun p => (p.1, ratFree k (p.2 / 10))) }
  else if c = 100 ∨ c = 101 then
    (r.tempsOf d).foldl (fun x t => match x.tMax with
      | some m => if m.2 < t.2 then { x with tMax := some t } else x
      | none => { x with tMax := some t }) (if c = 100 then { x with tMax := none } else x)
  else match d.ins with
    | some v => if r.insDue then { x with ins := v } else x
    | none => x

/-- The trips of this check beat, in the order of Table 15-7: check and cause. -/
def watchTrips (c : Nat) (d : WatchData) (r : WatchRun) : List (Nat × Nat) :=
  match r.plan with
  | none => []
  | some p =>
    let at19 := decide (c = 19)
    let strBad := r.strN == 0 || decide (r.strSum < p.vStrLo * r.strN) || decide (p.vStrHi * r.strN < r.strSum)
    let posBad := r.means.any (fun x => decide (x.2.1 < p.vPosLo * x.2.2) || decide (p.vPosHi * x.2.2 < x.2.1))
    let hot := (c == 100 || c == 101) && (r.tempsOf d).any (fun t => decide (p.tHi < t.2))
    (if r.has 0 && at19 && strBad then [(0, 1)] else []) ++
    (if r.nodesDue 1 && at19 && posBad then [(1, 2)] else []) ++
    (if r.nodesDue 1 && hot then [(1, 3)] else []) ++
    (if r.nodesDue 1 && at19 && r.nodes.any (fun n => decide (5 ≤ n.missed)) then [(1, 4)] else []) ++
    (if r.insDue && (d.ins.map (fun x => decide (x < p.insLo))).getD false then [(2, 5)] else []) ++
    (if r.nodesDue 3 && decide (c = 1822) && r.nodes.any (fun n => decide (3 ≤ n.dwell) && n.hit.isSome) then [(3, 6)] else [])

/-- Whole seconds from T12 to beat c of check j. -/
def WatchRun.secs (r : WatchRun) (c : Nat) : Nat := min (2 ^ 32 - 1) (r.checks * r.period + c / 1000)

/-- The block in WATCH with the run changed. -/
def setWatch (r : WatchRun) (s : State) : State := { s with pw := { s.pw with watch := some r } }

/-- The result that T13 leaves. -/
def watchEnd (r : WatchRun) (sec : Nat) (s : State) : State :=
  { s with pw := { s.pw with res := { s.pw.res with count := min 65535 r.checks, sec := sec } } }

/-- A trip (R376): the result is kept, WAKE_OUT rises and the module makes T13. -/
def watchTrip (r : WatchRun) (c : Nat) (t : List (Nat × Nat)) (s : State) : State :=
  let s := watchEnd r (r.secs c) s
  let bad := r.nodes.find? (fun n => decide (3 ≤ n.dwell) && n.hit.isSome)
  let short := if t.any (fun x => x.1 == 3) then
      (bad.map (fun n => (n.addr, n.hit.getD (0, 0)))).getD (0, 0, 0) else s.pw.res.short
  let x := { s.pw.res with tripped := maskOf (t.map (·.1)), cause := ((t.head?).map (·.2)).getD 0, short := short }
  leaveWatch 4 r.wakeIn true { s with pw := { s.pw with res := x } }

/-! ### Commands -/

/-- WATCH_CHECK_START (R374): check j starts. -/
def execWatchCheckStart (s : State) : Res :=
  let s := fresh s
  match s.pw.watch with
  | some r =>
    if s.st.mode = .watch ∧ s.pw.held = false ∧ r.beat = none ∧ r.plan.isSome = true then
      .next (setWatch { r with
        checks := r.checks + 1, beat := some 0, insDone := false, wakeIn := false, strSum := 0, strN := 0
        nodes := r.nodes.map (fun n => { n with missed := 0, sums := n.locals.map (fun _ => (0, 0)), temps := [], hit := none }) } s)
    else .next s
  | none => .next s

/-- WATCH_CHECK_BEAT (R374 to R376, Tables 15-6, 15-7): the next check beat with what the front end and nodes bring. -/
def execWatchCheckBeat (d : WatchData) (s : State) : Res :=
  let s := fresh s
  match s.pw.watch with
  | some r =>
    match r.beat with
    | some c =>
      if s.st.mode = .watch ∧ s.pw.held = false then
        let k := s.freeCtr
        let s := tookFree 1 (watchFrames r c s)
        let r := watchTake k c d r
        let s := setWatch { r with beat := some (c + 1) } { s with pw := { s.pw with res := watchShow k c d r s.pw.res } }
        let t := watchTrips c d r
        if !t.isEmpty then .next (watchTrip r c t s)
        else if r.wakeIn then .next (leaveWatch 5 false false (watchEnd r (r.secs c) s))
        else .next s
      else .next s
    | none => .next s
  | none => .next s

/-- WATCH_CHECK_END (R374): everything that was awake for the check switches off again. -/
def execWatchCheckEnd (s : State) : Res :=
  let s := fresh s
  match s.pw.watch with
  | some r =>
    match r.beat with
    | some c =>
      if s.st.mode = .watch ∧ s.pw.held = false ∧ r.over' c = true then
        if r.wakeIn then .next (leaveWatch 5 false false (watchEnd r (r.secs c) s))
        else .next (setWatch { r with beat := none } s)
      else .next s
    | none => .next s
  | none => .next s

end Sys2Proof.Machine
end

