-- ==== Sys2Proof/Machine/Power.lean ====
section
/-! DEFINITION. Supplies, power fail and restart, wakes, life cycle, and the power and watch block's registers
(15 R366 to R371, R376 to R381). -/

namespace Sys2Proof.Machine

/-! ### Supplies (R366, Table 15-1) -/

/-- The power block changed. -/
def modPw (f : Pw → Pw) (s : State) : State := { s with pw := f s.pw }

/-- A low-supply flag: set below 16.0 V, cleared at 16.5 V or above. -/
def lowFlag (mv : Nat) (b : Bool) : Bool := if mv < 16000 then true else if 16500 ≤ mv then false else b

/-- VSUP_HIGH: set above 32.0 V, cleared at 31.5 V or below. -/
def highFlag (mv : Nat) (b : Bool) : Bool := if 32000 < mv then true else if mv ≤ 31500 then false else b

/-- VSUP has a new value. -/
def setVsup (mv : Nat) (s : State) : State :=
  modPw (fun p =>
    let low := lowFlag mv p.vsupLow
    { p with vsup := mv, vsupLow := low, vsupHigh := highFlag mv p.vsupHigh
             vsupDip := p.vsupDip || (awake s && low && !p.vsupLow && decide (12000 ≤ mv)) })
    (setAgainIf (awake s && lowFlag mv s.pw.vsupLow && !s.pw.vsupLow && decide (12000 ≤ mv)) 0x10000 (2 ^ 5) s)

/-- VSUP_LOW (Table 15-1). -/
def execVsupLow (mv : Nat) (s : State) : Res := .next (setVsup mv (fresh s))

/-- VSUP_HIGH (Table 15-1). -/
def execVsupHigh (mv : Nat) (s : State) : Res := .next (setVsup mv (fresh s))

/-- VLOAD_LOW (Table 15-1). -/
def execVloadLow (mv : Nat) (s : State) : Res :=
  .next (modPw (fun p => { p with vload := mv, vloadLow := lowFlag mv p.vloadLow }) (fresh s))

/-! ### Power fail and restart (R370, R371) -/

/-- The records of Table 15-4: a freeze ends first, then POWER_FAIL; every output turns off, an OPEN_LOAD record for each
contactor that opened under load; one journal record. -/
def powerFailRecords (mv : Nat) (s : State) : State :=
  let s := freezeEnd s
  let i := (s.meas.aligned.map (fun a => a.fe.i)).getD 0
  let s := recEvent 0x21 2 [toW mv, beatLo s, intW i, toW s.st.mode.code] s
  let q := intField (chargeUc s.meas) 64
  let s := jnl 5 0xFF [toW s.st.mode.code, beatLo s, beatHi s, toW q, toW (q / 2 ^ 32), sfStatus s] s
  allOutputsOff s

/-- POWER_FAIL (R370): VSUP has fallen below 12.0 V. -/
def execPowerFail (mv : Nat) (s : State) : Res :=
  let s := fresh s
  if s.st.mode = .storage ∨ s.pw.held = true ∨ 12000 ≤ mv then .next s
  else
    let s := if awake s then powerFailRecords mv s else s
    .next (modPw (fun p => { p with held := true, wakeTrip := false, wakeHold := false }) s)

/-- RESTART (R371): the start from reset that ends a power fail. Records not committed by then are lost with the reserve. -/
def execRestart (s : State) : Res :=
  let s := fresh s
  if s.pw.held then
    let s := { s with
      rcd := { s.rcd with recQ := [], jnlQ := [] }, host := default
      pw := { s.pw with vsup := 0, vload := 0, vsupLow := false, vsupHigh := false, vloadLow := false } }
    .next (startUp 1 (if s.st.mode = .watch then s else toMode .blank 14 s))
  else .next s

/-- INTERNAL_WATCHDOG (T14). -/
def execInternalWatchdog (s : State) : Res :=
  let s := fresh s
  .next (if awake s then resetBy 7 s else s)

/-- WAKE_IN (R369, R376): T1 from STORAGE, T13 from WATCH. While a check runs, T13 comes with the check's next beat, so
that a trip of that beat is the cause (log 30). -/
def execWakeIn (s : State) : Res :=
  let s := fresh s
  if s.pw.held then .next s
  else match s.st.mode with
    | .storage => .next (startUp 2 (toMode .blank 1 s))
    | .watch =>
      match s.pw.watch with
      | some r =>
        if r.beat.isSome then .next (setWatch { r with wakeIn := true } s)
        else
          let sec := r.checks * r.period + (Config.freeInt s.freeCtr).toNat % r.period
          .next (leaveWatch 5 false false (watchEnd r (min (2 ^ 32 - 1) sec) (tookFree 1 s)))
      | none => .next (leaveWatch 5 false false s)
    | _ => .next s

/-- VSUP_RETURN (R369): T1 from STORAGE. -/
def execVsupReturn (s : State) : Res :=
  let s := fresh s
  .next (if s.st.mode = .storage ∧ s.pw.held = false then startUp 3 (toMode .blank 1 s) else s)

/-! ### Life cycle (R379 to R381) -/

/-- The key words of LC_DATA: x and y. -/
def lcKey (s : State) : Nat × Nat := (lcNum s 0, lcNum s 8)

/-- The signed message of an LC_CMD word: CMD, TARGET, two zero bytes, and the key for ADD_KEY (R380). -/
def lcMessage (v : Word) (s : State) : List Byte :=
  [byte (wBits v 31 24), byte (wBits v 17 16), 0, 0] ++
    (if wBits v 31 24 = 3 then wordsBytes ((List.range 16).map (fun k => getNat s.pw.lcData k)) else [])

/-- The state allows the command (Table 15-11). -/
def lcAllowed (cmd : Nat) (l : LcSt) : Bool :=
  match cmd with
  | 2 => l == .shipped
  | 3 => l == .owned
  | 4 => l == .owned
  | 5 => l == .owned
  | 6 => l == .shipped || l == .returned || l == .owned
  | _ => false

/-- The command must carry a signature. -/
def lcSigned (cmd : Nat) (l : LcSt) : Bool := cmd == 3 || cmd == 4 || cmd == 5 || (cmd == 6 && l == .owned)

/-- TARGET and SIGNER name the slots they must. -/
def lcSlots (v : Word) (s : State) : Bool :=
  let cmd := wBits v 31 24
  let t := wBits v 17 16
  let signer := wBits v 9 8
  let k := getNat s.pw.keys t
  (match cmd with
   | 2 => t == 0
   | 3 => t != 0 && k.key.isNone && !k.revoked
   | 4 => (validKey s t).isSome && t != signer
   | _ => true) &&
  (!lcSigned cmd s.pw.lc || (validKey s signer).isSome)

/-- The RESULT of an LC_CMD word that is refused (R380); 0 when it is carried out. SHIP draws STATE always (text under
Table 15-10). -/
def lcRefusal (v : Word) (s : State) : Nat :=
  let cmd := wBits v 31 24
  if s.st.mode ≠ .blank ∨ cmd = 1 then 1
  else if s.pw.vsup < 20000 then 2
  else if !lcAllowed cmd s.pw.lc then 1
  else if !lcSlots v s then 5
  else if (cmd = 2 ∨ cmd = 3) ∧ ecOn (lcKey s).1 (lcKey s).2 = false then 4
  else if lcSigned cmd s.pw.lc && !signedBy s (wBits v 9 8) (lcMessage v s) then 3
  else 0

/-- A change of state (R381): ENTERED is blown, the records are wiped, WIPED is blown, and T14 follows. -/
def lcChange (l : LcSt) (revoke : Bool) (s : State) : State :=
  let s := modPw (fun p => { p with lc := l, entered := true, wiped := false
                                    keys := if revoke then p.keys.map (fun k => { k with revoked := true }) else p.keys })
    (freezeEnd s)
  resetBy 9 (modPw (fun p => { p with wiped := true }) (wipeRecords s))

/-- The effect of a command that is carried out (Table 15-11). -/
def lcEffect (v : Word) (s : State) : State :=
  let t := wBits v 17 16
  match wBits v 31 24 with
  | 2 => lcChange .owned false (modPw (fun p => { p with keys := updNat p.keys 0 (fun k => { k with key := some (lcKey s) }) }) s)
  | 3 => modPw (fun p => { p with keys := updNat p.keys t (fun k => { k with key := some (lcKey s) }) }) s
  | 4 => modPw (fun p => { p with keys := updNat p.keys t (fun k => { k with revoked := true }) }) s
  | 5 => lcChange .returned true s
  | _ => lcChange .scrapped true s

/-- A write of LC_CMD (R380): NONCE changes after it, whatever its outcome. -/
def lcCmdWrite (v : Word) (s : State) : State :=
  let c := lcRefusal v s
  if c ≠ 0 then bumpNonce (modPw (fun p => { p with lcRefused := true, lcResult := c }) (setAgain 0x10000 (2 ^ 6) s))
  else bumpNonce (lcEffect v (modPw (fun p => { p with lcResult := 0 }) s))

/-! ### Registers (Tables 15-12 to 15-17) -/

/-- LC_STATE.STATE (Table 15-10). -/
def LcSt.code : LcSt → Nat
  | .factory => 0 | .shipped => 1 | .owned => 2 | .returned => 3 | .scrapped => 4

/-- WAKE_OUT is on (R377). -/
def wakeOut (s : State) : Bool := s.pw.wakeTrip || s.pw.wakeHold

/-- PW_STATUS. -/
def pwStatus (s : State) : Word :=
  let p := s.pw
  toW (bitAt p.lcRefused 6 + bitAt p.vsupDip 5 + bitAt p.vloadLow 4 + bitAt p.vsupHigh 3 + bitAt p.vsupLow 2 +
    bitAt (wakeOut s) 1 + bitAt p.resReadable 0)

/-- LC_STATE. -/
def lcState (s : State) : Word :=
  toW (fld s.pw.lcResult 16 8 + fld (maskIf 4 (fun k => (validKey s k).isSome)) 12 4 +
    fld (maskIf 4 (fun k => (getNat s.pw.keys k).revoked)) 8 4 + s.pw.lc.code)

/-- An index in the upper bits and a signed value in the lower `w`; 0 where there is none. -/
def idxWord (w : Nat) (x : Option (Nat × Int)) : Word :=
  match x with
  | some (i, v) => toW (fld i w (32 - w) + intField v w)
  | none => 0

/-- The words of the watch result; zero unless WATCH_RESULT is 1. -/
def watchWord (o : Nat) (s : State) : Word :=
  let r := s.pw.res
  if s.pw.resReadable then
    match o with
    | 0x010 => toW (fld r.count 16 16 + fld r.tripped 12 4 + fld r.skipped 8 4 + fld r.cause 0 8)
    | 0x014 => intW r.vStr
    | 0x018 => idxWord 22 r.vMin
    | 0x01C => idxWord 22 r.vMax
    | 0x020 => idxWord 16 r.tMax
    | 0x024 => insWord r.ins
    | 0x028 => toW (fld r.short.1 26 6 + fld r.short.2.1 14 12 + fld (min 16383 r.short.2.2) 0 14)
    | 0x02C => toW r.sec
    | _ => 0
  else 0

/-- The words of the power and watch block. -/
def powerRead (o : Nat) (s : State) : Word :=
  match o with
  | 0x000 => pwStatus s
  | 0x004 => toW (b2n s.pw.wakeHold)
  | 0x008 => toW (fld (min s.pw.vload 65535) 16 16 + fld (min s.pw.vsup 65535) 0 16)
  | 0x00C => toW (bitAt s.pw.wakeInAlso 8 + fld s.pw.wakeCause 0 8)
  | 0x040 => lcState s
  | 0x048 => toW (nonceOf s).toNat
  | 0x04C => toW ((nonceOf s).toNat / 2 ^ 32)
  | _ =>
    match arrIdx o 0x80 4 32 with
    | some w => getNat s.pw.lcData w
    | none => watchWord o s

/-- Writes to the power and watch block. -/
def powerWrite (o : Nat) (v : Word) (s : State) : State :=
  match o with
  | 0x000 => modPw (fun p => { p with lcRefused := p.lcRefused && !wBit v 6, vsupDip := p.vsupDip && !wBit v 5 }) s
  | 0x004 => modPw (fun p => { p with wakeTrip := p.wakeTrip && !wBit v 31, wakeHold := wBit v 0 }) s
  | 0x044 => lcCmdWrite v s
  | _ =>
    match arrIdx o 0x80 4 32 with
    | some w => modPw (fun p => { p with lcData := updNat p.lcData w (fun _ => v) }) s
    | none => s

end Sys2Proof.Machine
end

