-- ==== Sys2Proof/Machine/Loader.lean ====
section
/-! DEFINITION. The calibre loader (03 R76 to R84, R414): reception, acceptance, the replacement of section 0x0E, online
batches, and the loader block's registers. -/

namespace Sys2Proof.Machine

/-- The loader changed. -/
def modLdr (f : Ldr → Ldr) (s : State) : State := { s with ldr := f s.ldr }

/-! ### Loading (R76 to R78) -/

/-- One image word arrives (R77, R414 points 1 to 4). -/
def loadWord (v : Word) (s : State) : State :=
  let words := s.ldr.words ++ [v]
  let n := 4 * words.length
  let s := modLdr (fun l => { l with words := words, count := n, idleBeats := 0 }) s
  let img : Bytes := (wordsBytes words).toArray
  match receptionFail img n with
  | some f => loadEnd f s
  | none =>
    if 48 ≤ n ∧ n = imgTotal img then modLdr (fun l => { l with receiving := false, checking := true }) s else s

/-- T3: the calibre area is cleared, and the session becomes the owner. -/
def loadStart (i : Fin 32) (v : Word) (s : State) : State :=
  loadWord v (modLdr (fun l =>
    { l with err := 0, detail := 0, errSect := 0, errPlace := 0, sigUnchecked := false, checking := false, receiving := true
             count := 0, owner := some i, words := [], idleBeats := 0, passed := none }) (toMode .loading 3 s))

/-- One word of a replacement arrives (R84). -/
def replaceWord (v : Word) (w : List Word) (s : State) : State :=
  let words := w ++ [v]
  let n := 4 * words.length
  let s := modLdr (fun l => { l with repl := some words, count := n, idleBeats := 0 }) s
  let img : Bytes := (wordsBytes words).toArray
  let endHere := decide (16 ≤ n) && decide (n = 16 + imgLen img 0)
  let head := if n = 16 then s.cal.bind (fun c => replaceHead c img) else none
  match head.orElse (fun _ => if endHere then replacePayload img else none) with
  | some f => replaceEnd f s
  | none => if endHere then modLdr (fun l => { l with receiving := false, checking := true }) s else s

/-- A write of LD_DATA (R76, R379). -/
def ldDataWrite (i : Fin 32) (v : Word) (s : State) : RspCode × State :=
  match s.st.mode with
  | .blank => if s.pw.lc = .scrapped then (.access, s) else (.ok, loadStart i v s)
  | .loading => if s.ldr.owner = some i then (.ok, loadWord v s) else (.access, s)
  | .stop =>
    match s.ldr.repl with
    | some w => if s.ldr.owner = some i ∧ s.ldr.receiving = true then (.ok, replaceWord v w s) else (.access, s)
    | none => (.access, s)
  | _ => (.access, s)

/-- REPLACE_LOGIC (R84): only in STOP, and only while no replacement is owned. -/
def replaceStart (i : Fin 32) (s : State) : RspCode × State :=
  if s.st.mode = .stop ∧ s.ldr.repl = none then
    (.ok, modLdr (fun l => { l with err := 0, detail := 0, errSect := 0, errPlace := 0, count := 0, owner := some i
                                    repl := some [], receiving := true, checking := false, idleBeats := 0 }) s)
  else (.access, s)

/-- A write of LD_CTRL: ABORT, then REPLACE_LOGIC; refused as a whole (00 R9). -/
def ldCtrlWrite (i : Fin 32) (v : Word) (s : State) : RspCode × State :=
  let t := if wBit v 31 then loadAbort i s else s
  if wBit v 30 then
    let r := replaceStart i t
    if r.1 = .ok then r else (r.1, s)
  else (.ok, t)

/-- POST_RECEPTION_CHECKS_DONE (R77, R414 point 5). -/
def execPostReceptionChecksDone (s : State) : Res :=
  let s := fresh s
  if awake s && s.st.mode == .loading && s.ldr.checking && s.ldr.passed.isNone then
    let img : Bytes := (wordsBytes s.ldr.words).toArray
    let owned := s.pw.lc == .owned
    match point5 (catalogueNow s) owned (validKey s) img with
    | some f => .next (loadEnd f s)
    | none => .next (modLdr (fun l => { l with passed := some s.time.beat }) s)
  else .next s

/-- What LOADED begins with: the charge counter at 0, every mapped position and point STALE, the snapshot and a TAKE that
waits as they were, insulation due, the settings of fabric time, and the address (02 R51, R53; 05 R122, R130, R135, R136,
R145; 12 R302, R311; 14 R363). DESIGN CHOICE (log 37): R130 gives a cycle every INS_PERIOD beats from T4; the first is due
at T4 itself. -/
def loadedStart (c : Calibre) (s : State) : State :=
  let m : Meas := { (default : Meas) with
    pos := List.replicate c.chain.nPos PosM.start
    snapPending := s.meas.snapPending, snapValid := s.meas.snapValid, snap := s.meas.snap }
  let static := c.fab.addr != 0
  thStart <| mapTemps <| judgeSync { s with
    cal := some c
    meas := { m with ins := { m.ins with nextDue := s.time.beat } }
    time := { s.time with autoSwitch := c.fab.autoSwitch, asym := Vector.ofFn (fun p => (c.fab.asym[p.val]?).getD 0) }
    fab := { s.fab with
      addr := if static then c.fab.addr else s.fab.addr, addrValid := static, dynamic := false
      pair := { s.fab.pair with st := if c.fab.role = 1 then .waiting else .none } } }

/-- LOAD_ACCEPT (T4, R78): at the first beat boundary after the last check has passed. SIG_UNCHECKED is set with the
acceptance (R75). -/
def execLoadAccept (s : State) : Res :=
  let s := fresh s
  match s.ldr.passed with
  | none => .next s
  | some b =>
    if awake s && s.st.mode == .loading && b != s.time.beat && decide (tickOf s = 0) then
      let c := calibreOf (wordsBytes s.ldr.words).toArray
      let session := (s.ldr.owner.map Fin.val).getD 0xFF
      let s := loadedStart c (toMode .loaded 4 s)
      let unchecked := (c.payload 0x14).isSome && s.pw.lc != .owned
      let s := modLdr (fun l => { l with checking := false, owner := none, words := [], passed := none, onCount := 0
                                         sigUnchecked := unchecked }) s
      .next (jnl 2 session [beatLo s, toW c.calId, toW c.calVersion, toW c.crc, toW c.len] s)
    else .next s

/-- LOAD_TIMEOUT (Table 03-8): 10 000 beats without a word. -/
def execLoadTimeout (s : State) : Res :=
  let s := fresh s
  if awake s && decide (10000 ≤ s.ldr.idleBeats) then
    if s.st.mode = .loading then .next (loadEnd { err := .timeout } s)
    else if s.ldr.repl.isSome then .next (replaceEnd { err := .timeout, sect := 14 } s)
    else .next s
  else .next s

/-- The new program is taken (R84). -/
def replaceTake (p : List Byte) (s : State) : State :=
  let session := (s.ldr.owner.map Fin.val).getD 0xFF
  let s := lgReplace { s with cal := s.cal.map (fun c => c.withPayload 14 p) }
  let s := modLdr (fun l => { l with checking := false, owner := none, repl := none, idleBeats := 0, replaced := true })
    (setAgain 0x5000 16 s)
  jnl 4 session [beatLo s, toW p.length] s

/-- REPLACEMENT_CHECKS_DONE (R84). DESIGN CHOICE (log 37): SAFE entered by T11 is not among the endings of R84; the
replacement goes on, and its program is taken in SAFE where its checks pass. -/
def execReplacementChecksDone (s : State) : Res :=
  let s := fresh s
  match s.ldr.repl, s.cal with
  | some w, some c =>
    if awake s && s.ldr.checking then
      let img : Bytes := (wordsBytes w).toArray
      let p := slice img 16 (imgLen img 0)
      match replaceChecks c p with
      | some f => .next (replaceEnd f s)
      | none => .next (replaceTake p.toList s)
    else .next s
  | _, _ => .next s

/-! ### Online batches (R80 to R83) -/

/-- Entry k of a batch as ON_SELk and ON_VALk name it. -/
def onEntry (s : State) (k : Nat) : Nat × Nat × Word :=
  let sel := s.ldr.onSel.getD k 0
  (wBits sel 31 24, wBits sel 23 0, s.ldr.onVal.getD k 0)

/-- The RESULT of a GO (R81), in its order. -/
def goResult (n : Nat) (s : State) : OnRes :=
  if !(s.st.mode == .loaded || s.st.mode == .armed || s.st.mode == .run || s.st.mode == .stop || s.st.mode == .service) then
    .state
  else if n = 0 ∨ 16 < n then .range
  else if (s.ldr.batch.map (·.atBoundary)).getD false then .busy
  else match s.cal with
    | some c => batchResult c ((List.range n).map (onEntry s))
    | none => .state

/-- GO (R80, R81). DESIGN CHOICE (log 37): a batch becomes pending at the next beat boundary (R82), so a second accepted
GO of the same beat is not refused with BUSY; its batch takes the place of the first. -/
def goWrite (i : Fin 32) (n : Nat) (s : State) : State :=
  let r := goResult n s
  let es := (List.range n).map (onEntry s)
  let b : Batch := { sect := (es.headD (0, 0, 0)).1, entries := es.map (·.2), atBoundary := false, session := i.val
                     beat := s.time.beat }
  modLdr (fun l => { l with onResult := r.code, batch := if r = .ok then some b else l.batch }) s

/-- CANCEL (R82): a batch that no task has taken a part of is discarded. -/
def cancelBatch (s : State) : State :=
  if s.ldr.batch.isSome && s.lg.taskConsts.isEmpty then
    modLg (fun x => { x with pendingConsts := [] }) (modLdr (fun l => { l with batch := none, onResult := 7 }) s)
  else s

/-- A write of ON_CTRL: GO, then CANCEL. -/
def onCtrlWrite (i : Fin 32) (v : Word) (s : State) : State :=
  let s := if wBit v 31 then goWrite i (wBits v 4 0) s else s
  if wBit v 30 then cancelBatch s else s

/-- BATCH_PENDING (R82): at the first beat boundary after GO. -/
def execBatchPending (s : State) : Res :=
  let s := fresh s
  match s.ldr.batch with
  | some b =>
    if awake s && !b.atBoundary && b.beat != s.time.beat && decide (tickOf s = 0) then
      let b := { b with atBoundary := true }
      let s := modLdr (fun l => { l with batch := some b }) s
      .next (if b.sect = 14 then constsPending b s else s)
    else .next s
  | none => .next s

/-- The periods of the loops that a batch of section 0x09 or 0x0A concerns (Table 03-10). -/
def batchPeriods (b : Batch) (c : Calibre) : List Nat :=
  if b.sect = 9 then b.entries.filterMap (fun e => (c.loops[(e.1 - 4) / 48]?).map (·.period))
  else
    let p : Bytes := ((c.payload 10).getD []).toArray
    let tabs := (rdScheds p (rU8 p 0) 4).1.mapIdx (fun k x => (k, x.1 + 0x34, x.1 + 0x34 + 20 * x.2.regions.length))
    let used := tabs.filter (fun t => b.entries.any (fun e => decide (t.2.1 ≤ e.1 ∧ e.1 < t.2.2)))
    (c.loops.filter (fun l => used.any (fun t => t.1 == l.sched))).map (·.period)

/-- The effect point of Table 03-10 falls at this beat boundary: for loops, a period of a loop concerned begins; each
other loop takes the new values at its own next period (log 30). -/
def effectNow (b : Batch) (s : State) : Bool :=
  match b.sect with
  | 14 => false
  | 18 => false
  | 9 | 10 =>
    let l := (s.cal.map (batchPeriods b)).getD []
    !s.st.mode.fromArmed || l.isEmpty || l.any (fun p => p == 0 || s.time.beat % p == 0)
  | _ => true

/-- What an applied batch does beside its words: a record of section 0x10 that becomes disabled loses its pending
content, and a new SILENCE restarts the watch (14 R354, Table 14-7). -/
def batchSide (old : State) (s : State) : State :=
  let s := if (ioPers s).silence = (ioPers old).silence then s else { s with fio := { s.fio with since := 0, phaseNs := s.time.ns } }
  { s with can := mapAll s.can (fun c x =>
      { x with pubs := x.pubs.filter (fun p => ((pubsOf s c)[p.index]?.map (·.enable)).getD false) }) }

/-- BATCH_APPLY (R82, R83). -/
def execBatchApply (s : State) : Res :=
  let s := fresh s
  match s.ldr.batch with
  | some b =>
    if awake s && b.atBoundary && decide (tickOf s = 0) && effectNow b s then .next (batchSide s (batchDone b s)) else .next s
  | none => .next s

/-- CONSTANT_APPLY (11 R293): at a cycle boundary of the task. -/
def execConstantApply (t : Fin 8) (s : State) : Res :=
  let s := fresh s
  match taskCfg s t.val with
  | some c => .next (if awake s && s.st.mode == .run && s.time.beat % c.cycle == 0 then applyConsts t.val s else s)
  | none => .next s

/-! ### Registers (Tables 03-11 to 03-20) -/

/-- LD_STATUS. -/
def ldStatus (s : State) : Word :=
  let l := s.ldr
  toW (fld l.err 24 8 + fld l.detail 16 8 + fld l.armErr 12 4 + bitAt l.sigUnchecked 5 + bitAt l.replaced 4 +
    bitAt l.checking 3 + bitAt l.receiving 2)

/-- ON_STATUS. -/
def onStatus (s : State) : Word :=
  let l := s.ldr
  toW (fld l.onCount 16 16 + fld l.onResult 8 8 + bitAt l.onApplied 2 +
    bitAt ((l.batch.map (·.atBoundary)).getD false) 1)

/-- A catalogue entry as FUNC_CATj shows it. -/
def catWord (e : CatEntry) : Word := toW (fld e.1 16 16 + bitAt e.2.1 15 + fld e.2.2.1 11 4 + fld e.2.2.2 0 11)

/-- The words of the loader block. -/
def loaderRead (o : Nat) (s : State) : Word :=
  let l := s.ldr
  let calW := fun (f : Calibre → Nat) => toW ((s.cal.map f).getD 0)
  match o with
  | 0x000 => ldStatus s
  | 0x008 => toW l.count
  | 0x00C => toW (fld l.errSect 24 8 + fld l.errPlace 0 24)
  | 0x014 => toW (bitAt l.owner.isSome 31 + (l.owner.map Fin.val).getD 0)
  | 0x020 => calW (·.calId)
  | 0x024 => calW (·.calVersion)
  | 0x028 => calW (·.crc)
  | 0x02C => calW (·.len)
  | 0x040 => onStatus s
  | 0x100 => toW (catalogueNow s).length
  | _ =>
    match arrIdx o 0x80 8 16, arrIdx o 0x84 8 16, arrIdx o 0x104 4 64 with
    | some k, _, _ => l.onSel.getD k 0
    | none, some k, _ => l.onVal.getD k 0
    | none, none, some j => (((catalogueNow s)[j]?).map catWord).getD 0
    | none, none, none => 0

/-- Writes to the loader block. -/
def loaderWrite (i : Fin 32) (o : Nat) (v : Word) (s : State) : RspCode × State :=
  match o with
  | 0x000 => (.ok, modLdr (fun l => { l with replaced := l.replaced && !wBit v 4 }) s)
  | 0x004 => ldCtrlWrite i v s
  | 0x010 => ldDataWrite i v s
  | 0x040 => (.ok, modLdr (fun l => { l with onApplied := l.onApplied && !wBit v 2 }) s)
  | 0x044 => (.ok, onCtrlWrite i v s)
  | _ =>
    match arrIdx o 0x80 8 16, arrIdx o 0x84 8 16 with
    | some k, _ => (.ok, modLdr (fun l => { l with onSel := updL l.onSel k (fun _ => v) }) s)
    | none, some k => (.ok, modLdr (fun l => { l with onVal := updL l.onVal k (fun _ => v) }) s)
    | none, none => (.ok, s)

end Sys2Proof.Machine
end

