-- ==== Sys2Proof/Machine/Update.lean ====
section
/-! DEFINITION. Firmware update (16 R393 to R402): manifest and image pieces, the checks over them, activation, trial
and fallback, the operating seconds, and the update block's registers. -/

namespace Sys2Proof.Machine

/-- The update block changed. -/
def modUpd (f : Upd → Upd) (s : State) : State := { s with upd := f s.upd }

/-- What a session holds for its pieces, changed. -/
def modUpSess (i : Fin 32) (f : UpSess → UpSess) (s : State) : State :=
  modUpd (fun u => { u with sess := updAt u.sess i f }) s

/-- UP_RESULT of a session. -/
def upResult (i : Fin 32) (code : Nat) (s : State) : State := modUpSess i (fun x => { x with result := code, piece := none }) s

/-! ### The manifest (R394, R395) -/

/-- A little-endian field of a manifest. -/
def manField (m : List Byte) (o n : Nat) : Nat := leNat ((m.drop o).take n)

/-- MAN_LEN, IMAGE_LEN and N_PIECES of a manifest. -/
def manLen (m : List Byte) : Nat := manField m 0x10 4
/-- IMAGE_LEN. -/
def imageLen (m : List Byte) : Nat := manField m 0x14 4
/-- N_PIECES. -/
def nPieces (m : List Byte) : Nat := manField m 0x18 4
/-- SVN. -/
def manSvn (m : List Byte) : Nat := manField m 0x0C 2

/-- Manifest pieces by MAN_LEN. -/
def manPieces (m : List Byte) : Nat := (manLen m + 1023) / 1024

/-- The header limits of Table 16-10, but for SVN. -/
def manRange (m : List Byte) : Bool :=
  manField m 0 4 == 0x4D574654 && manField m 4 2 == 1 && manField m 6 2 == 0x4800 && manField m 8 1 == 1 &&
  decide (manField m 9 1 ≤ Config.hwMinor.toNat) && manField m 0xA 1 == 1 && decide (manField m 0xE 1 < 2) &&
  manField m 0xF 1 == 0 && decide (1 ≤ imageLen m ∧ imageLen m ≤ 15728640) &&
  nPieces m == (imageLen m + 1023) / 1024 && manLen m == 192 + 32 * nPieces m && manField m 0x40 64 == 0

/-- The signature of the manifest by the vendor key that UKEY names. -/
def manSigned (m : List Byte) : Bool :=
  let n := manLen m
  ecdsaOk (Config.vendorKey (manField m 0xE 1)) (sha256 (m.take (n - 64))) (manField m (n - 64) 32) (manField m (n - 32) 32)

/-- The failure of a complete manifest as its UP_RESULT code, if there is one. -/
def manFault (m : List Byte) (s : State) : Option Nat :=
  if !manRange m then some 6
  else if manSvn m < s.upd.svnMin then some 8
  else if !manSigned m then some 7
  else none

/-! ### Pieces (R395 to R397) -/

/-- A manifest piece k of a session: stored when it is the next one; the last one waits for its check. -/
def manifestWrite (i : Fin 32) (k : Nat) (s : State) : State :=
  let u := s.upd
  if u.phase ≠ .empty ∧ u.phase ≠ .manifest then upResult i 5 s
  else if k ≠ u.slot.next then upResult i 4 s
  else if u.manCheck.isSome then upResult i 6 s
  else
    let man := u.slot.man ++ wordsBytes u.sess[i].buf
    let last := decide (manPieces man ≤ k + 1)
    let s := modUpd (fun u => { u with phase := .manifest, slot := { u.slot with man := man, next := k + 1 }
                                       manCheck := if last then some i else none }) s
    upResult i (if last then 1 else 0) s

/-- An image piece k of a session: it waits to be judged. -/
def imageWrite (i : Fin 32) (k : Nat) (s : State) : State :=
  if s.upd.phase ≠ .receiving then upResult i 5 s
  else if nPieces s.upd.slot.man ≤ k then upResult i 6 s
  else modUpSess i (fun x => { x with result := 1, piece := some k }) s

/-- The 256 words of piece k with zero bytes beyond IMAGE_LEN. -/
def paddedPiece (m : List Byte) (k : Nat) (w : List Word) : List Word :=
  let keep := imageLen m - 1024 * k
  bytesWords ((wordsBytes w).mapIdx (fun j b => if j < keep then b else 0))

/-- Hash k of the manifest, its bytes in the order of SHA-256. -/
def pieceHash (m : List Byte) (k : Nat) : Nat := beNat ((m.drop (128 + 32 * k)).take 32)

/-- A piece in its place among those received, by index. -/
def insertPiece (k : Nat) (w : List Word) : List (Nat × List Word) → List (Nat × List Word)
  | [] => [(k, w)]
  | (j, v) :: r => if k < j then (k, w) :: (j, v) :: r else (j, v) :: insertPiece k w r

/-- The waiting piece of a session is judged (R396, R397). -/
def judgePiece (i : Fin 32) (k : Nat) (s : State) : State :=
  let u := s.upd
  let w := paddedPiece u.slot.man k u.sess[i].buf
  if u.phase ≠ .receiving then upResult i 5 s
  else if u.slot.pieces.any (fun p => p.1 == k) then upResult i 2 s
  else if sha256 (wordsBytes w) != pieceHash u.slot.man k then upResult i 3 s
  else
    let pieces := insertPiece k w u.slot.pieces
    upResult i 0 (modUpd (fun u =>
      { u with slot := { u.slot with pieces := pieces }
               imgCheck := if pieces.length = nPieces u.slot.man then some i else u.imgCheck }) s)

/-- IMAGE_HASH matches the image in the slot. -/
def imageMatches (f : FwSlot) : Bool :=
  sha256 ((f.pieces.flatMap (fun p => wordsBytes p.2)).take (imageLen f.man)) == beNat ((f.man.drop 0x20).take 32)

/-! ### CONFIRM (R401) -/

/-- CONFIRM in TRIAL: the new slot is active for good, the former one is empty and SVN_MIN rises. -/
def confirm (i : Fin 32) (s : State) : State :=
  let u := s.upd
  let svn := max u.svnMin (manSvn u.slot.man)
  let s := jnl 0x13 i.val [beatLo s, fwVersion u.active s, toW svn] s
  modUpd (fun u => { u with phase := .empty, slot := default, svnMin := svn, starts := 0, trialSec := 0, expired := false
                            manCheck := none, imgCheck := none }) s

/-- A write of UP_CMD (Table 16-16): refused while the session's piece is PENDING, and in SCRAPPED; a reserved OP does
nothing. -/
def upCmdWrite (i : Fin 32) (v : Word) (s : State) : RspCode × State :=
  if s.upd.sess[i].result = 1 then (.access, s)
  else match wBits v 31 28 with
    | 1 => if s.pw.lc = .scrapped then (.access, s) else (.ok, manifestWrite i (wBits v 13 0) s)
    | 2 => if s.pw.lc = .scrapped then (.access, s) else (.ok, imageWrite i (wBits v 13 0) s)
    | 3 => if s.upd.phase = .trial ∧ s.host.sess[i].crown = true then (.ok, confirm i s) else (.access, s)
    | _ => (.ok, s)

/-! ### Jobs DISCARD_SLOT and ACTIVATE (R398 to R400) -/

/-- The start of a DISCARD_SLOT job in an IDLE slot. The erase starts with the job, so its commit point passes here
(log 15). -/
def discardStart (i : Fin 32) (j : Nat) (s : State) : State :=
  if contactorJob s then jobRefuse i j 0x11 4 s
  else if s.upd.phase = .trial then jobRefuse i j 0x11 0x17 s
  else jobCommitted j (jobStart i j 0x11 s)

/-- The slot erase ends: EMPTY. -/
def discardDone (s : State) : State :=
  match oldestOf 0x11 s with
  | none => s
  | some j =>
    let s := modUpd (fun u => { u with phase := .empty, slot := default, manCheck := none, imgCheck := none }) s
    jobEnd j .completed 0 s

/-- Target of ACT_SEC in nanoseconds. -/
def actNs (s : State) : Nat := s.upd.actSec * 1000000000

/-- The start of an ACTIVATE job in an IDLE slot: TRG3 is armed with the target second and 0 ns, its flags cleared. -/
def activateStart (i : Fin 32) (j : Nat) (s : State) : State :=
  if contactorJob s then jobRefuse i j 0x12 4 s
  else if s.upd.phase ≠ .ready then jobRefuse i j 0x12 0x17 s
  else if actNs s < fabNs s + 2000000000 then jobRefuse i j 0x12 2 s
  else
    let t : Trig := { ns := 0, secLo := s.upd.actSec % 2 ^ 32, secHi := s.upd.actSec / 2 ^ 32, target := actNs s
                      arm := true, armedNow := true, fired := false, late := false }
    jobStart i j 0x12 { s with time := { s.time with trg := s.time.trg.set 3 t } }

/-- No switch of K0 to K3 is on (row 0x11 of Table 16-11). -/
def noSwitchOn (s : State) : Bool := s.saf.k.toList.all (fun k => !k.hs && !k.ls)

/-- |I| at most 1 A at the newest aligned sample; in BLANK and LOADING it holds (row 0x12). -/
def lowCurrent (s : State) : Bool :=
  s.st.mode == .blank || s.st.mode == .loading ||
  (match s.meas.aligned with
   | some a => decide (a.fe.i.natAbs ≤ 100000)
   | none => false)

/-- The DETAIL of the first activation condition that fails (Table 16-11). -/
def activationFault (j : Nat) (s : State) : Option Nat :=
  if s.time.trg[(3 : Fin 4)].late then some 0x10
  else if !noSwitchOn s then some 0x11
  else if !lowCurrent s then some 0x12
  else if s.pw.vsup < 20000 ∨ s.upd.reserveLow = true then some 0x13
  else if !(getNat s.host.sess (jobAt s j).session).crown then some 0x14
  else none

/-- The new slot starts in TRIAL (R400). -/
def activateNow (session : Nat) (s : State) : State :=
  let u := s.upd
  let s := modUpd (fun u => { u with phase := .trial, active := 1 - u.active, starts := 0, trialSec := 0, expired := false
                                     slotMan := updNat u.slotMan (1 - u.active) (fun _ => u.slot.man) }) s
  resetBy 8 (jnl 0x11 session [toW u.actSec, toW (u.actSec / 2 ^ 32), fwVersion (1 - u.active) s] s)

/-- TRG3 has fired: every ACTIVATE job is judged, in slot order (R400). -/
def judgeActivate (s : State) : State :=
  (runningOf 0x12 s).foldl (fun s j =>
    if (jobAt s j).st ≠ .running then s
    else match activationFault j s with
      | none => activateNow (jobAt s j).session s
      | some d => jnl 0x12 (jobAt s j).session [beatLo s, toW d] (jobEnd j .failed d s)) s

/-! ### Registers (Tables 16-15, 16-16) -/

/-- UP_STATUS.PHASE (Table 16-9). -/
def UpPhase.code : UpPhase → Nat
  | .empty => 0 | .manifest => 1 | .receiving => 2 | .ready => 3 | .trial => 4 | .rejected => 5

/-- UP_STATUS. -/
def upStatus (s : State) : Word :=
  toW (bitAt s.upd.reserveLow 6 + bitAt s.upd.expired 5 + bitAt s.upd.fellBack 4 + s.upd.phase.code)

/-- The words of the update block. -/
def updateRead (i : Fin 32) (o : Nat) (s : State) : Word :=
  let u := s.upd
  let m := u.slot.man
  match o with
  | 0x000 => upStatus s
  | 0x008 => toW (u.sess[i].result)
  | 0x00C => toW (fld u.active 8 1 + fld u.starts 0 2)
  | 0x010 => toW (fld (min (manPieces m) 65535) 16 16 + fld u.slot.next 0 16)
  | 0x014 => toW (fld (min (nPieces m) 65535) 16 16 + fld u.slot.pieces.length 0 16)
  | 0x018 => toW (fld (manSvn m) 16 16 + fld (manField m 0xA 1) 8 8 + fld (manField m 0xB 1) 0 8)
  | 0x01C => toW (fld u.svnMin 0 16)
  | 0x020 => toW u.actSec
  | 0x024 => toW (u.actSec / 2 ^ 32)
  | 0x028 => if u.phase = .trial then toW u.trialSec else 0
  | _ =>
    match arrIdx o 0x400 4 256, arrIdx o 0x800 4 480 with
    | some w, _ => u.sess[i].buf.getD w 0
    | none, some w => toW (maskIf 32 (fun b => u.slot.pieces.any (fun p => p.1 == 32 * w + b)))
    | none, none => 0

/-- Writes to the update block. -/
def updateWrite (i : Fin 32) (o : Nat) (v : Word) (s : State) : RspCode × State :=
  match o with
  | 0x000 => (.ok, modUpd (fun u => { u with fellBack := u.fellBack && !wBit v 4 }) s)
  | 0x004 => upCmdWrite i v s
  | 0x020 =>
    if (runningOf 0x12 s).isEmpty then (.ok, modUpd (fun u => { u with actSec := u.actSec / 2 ^ 32 * 2 ^ 32 + v.toNat }) s)
    else (.access, s)
  | 0x024 =>
    if (runningOf 0x12 s).isEmpty then
      (.ok, modUpd (fun u => { u with actSec := u.actSec % 2 ^ 32 + wBits v 15 0 * 2 ^ 32 }) s)
    else (.access, s)
  | _ =>
    match arrIdx o 0x400 4 256 with
    | some w =>
      if s.upd.sess[i].result = 1 ∨ s.pw.lc = .scrapped then (.access, s)
      else (.ok, modUpSess i (fun x => { x with buf := updL x.buf w (fun _ => v) }) s)
    | none => (.ok, s)

/-! ### Commands -/

/-- MANIFEST_VERIFY_DONE (R394, R395). -/
def execManifestVerifyDone (s : State) : Res :=
  let s := fresh s
  match s.upd.manCheck with
  | none => .next s
  | some i =>
    let m := s.upd.slot.man
    if !awake s then .next s
    else match manFault m s with
      | some c => .next (upResult i c (modUpd (fun u => { u with phase := .rejected, manCheck := none }) s))
      | none =>
        .next (upResult i 0 (jnl 0x10 i.val [toW (manField m 0xA 1), toW (manField m 0xB 1), toW (manSvn m),
          toW (manField m 0x1C 4), toW (nPieces m)] (modUpd (fun u => { u with phase := .receiving, manCheck := none }) s)))

/-- PIECE_JUDGED (R396, R397). -/
def execPieceJudged (i : Fin 32) (s : State) : Res :=
  let s := fresh s
  match s.upd.sess[i].piece with
  | some k => .next (if awake s then judgePiece i k s else s)
  | none => .next s

/-- IMAGE_HASH_CHECK_DONE (R396). -/
def execImageHashCheckDone (s : State) : Res :=
  let s := fresh s
  match s.upd.imgCheck with
  | none => .next s
  | some i =>
    if !awake s then .next s
    else if imageMatches s.upd.slot then .next (modUpd (fun u => { u with phase := .ready, imgCheck := none }) s)
    else .next (upResult i 9 (modUpd (fun u => { u with phase := .rejected, imgCheck := none }) s))

/-- DISCARD_DONE (R398). -/
def execDiscardDone (s : State) : Res := .next (discardDone (fresh s))

/-- OP_SEC (16 Table 16-1, R402): a whole second of operation; in TRIAL it counts there too. -/
def execOpSec (s : State) : Res :=
  let s := fresh s
  if awake s then
    .next (modUpd (fun u => { u with trialSec := if u.phase = .trial then satAdd u.trialSec 1 (2 ^ 32 - 1) else u.trialSec })
      { s with rcd := { s.rcd with opSec := satAdd s.rcd.opSec 1 (2 ^ 32 - 1) } })
  else .next s

/-- RESERVE_LOW (Table 16-16): the power reserve can or cannot hold 25 ms. -/
def execReserveLow (low : Bool) (s : State) : Res := .next (modUpd (fun u => { u with reserveLow := low }) (fresh s))

/-- TRIAL_EXPIRY (R402). -/
def execTrialExpiry (s : State) : Res :=
  let s := fresh s
  if s.upd.phase = .trial ∧ 3600 ≤ s.upd.trialSec ∧ awake s = true then .next (modUpd (fun u => { u with expired := true }) s)
  else .next s

/-- TRIAL_FALLBACK (R402): T14 into the former slot. -/
def execTrialFallback (s : State) : Res :=
  let s := fresh s
  if s.upd.phase = .trial ∧ s.upd.expired = true ∧ awake s = true ∧ tickOf s = 0 ∧ noSwitchOn s = true ∧
      lowCurrent s = true then
    .next (resetBy 8 (fallBack 2 s))
  else .next s

/-- TRIGGER_FIRE (02 R54, R55; 16 R400): at a beat boundary. -/
def execTriggerFire (k : Fin 4) (s : State) : Res :=
  let s := fresh s
  if awake s && trigDue k s && decide (tickOf s = 0) then
    let s := fireTrig k s
    .next (if k = 3 then judgeActivate s else s)
  else .next s

end Sys2Proof.Machine
end

