-- ==== Sys2Proof/Machine/Judge.lean ====
section
/-! DEFINITION. The beat boundary (02 R32, R33), the judgement of state commands (01 R22, R23, 13 R326, R328), and the end
of T6 (03 R71 to R73, R79). -/

namespace Sys2Proof.Machine

/-! ### Beat boundary -/

/-- What a new beat does to sessions, loads and a freeze: their idle times count (13 R323, 03 Table 03-8, 16 R388). -/
def idleBeat (s : State) : State :=
  { s with
    host := { s.host with sess := s.host.sess.map (fun x => if x.isOpen then { x with idle := satAdd x.idle 1 16383 } else x) }
    ldr := { s.ldr with idleBeats := if s.ldr.owner.isSome then s.ldr.idleBeats + 1 else 0 }
    rcd := { s.rcd with frozenBeats := if s.rcd.freeze.isSome then s.rcd.frozenBeats + 1 else 0 } }

/-- The stream samples of the beat that ended stand as those of the beat before (05 R120). -/
def streamBeat (s : State) : State :=
  { s with meas := { s.meas with prevStream := s.meas.stream, stream := Vector.replicate 8 none } }

/-- T8 by a protection-task overrun (11 Table 11-1), at the beat boundary after it. -/
def overrunStop (s : State) : State :=
  if s.lg.t8Pending then
    let s := modLg (fun x => { x with t8Pending := false }) s
    if s.st.mode = .run then enterStop s else s
  else s

/-- The next beat begins: number, tick 0, and what each block does then. -/
def nextBeat (s : State) : State :=
  let s := escapementBeat (lateTasks (stopReleased s))
  let s := { s with time := { s.time with beat := s.time.beat + 1, ns := 0 } }
  let s := overrunStop (lgBeat (fioBeat (canBeat (fabricBeat (pairBeat (chainBeat s))))))
  let s := insOpen (dieGate (streamBeat (idleBeat s)))
  releaseAtZero (armEnum s)

/-- BEAT_BOUNDARY (02 R32). -/
def execBeatBoundary (s : State) : Res :=
  let s := fresh s
  .next (if awake s then nextBeat s else s)

/-! ### State commands -/

/-- The response to a judged state command: of a longer WRITE the words around STATE_CMD change nothing, so OK covers
them all (13 R325, R326). -/
def cmdRsp (c : PendCmd) (code : RspCode) : Rsp :=
  match c.req with
  | some (r, n, k) =>
    { dest := some r.source, stamp := r.stamp, session := c.sess.val, op := 4, tag := r.tag, code := code
      done := if code = .ok then n else k, addr := if code = .ok then 0x10 + 4 * (n - 1) - 4 * k else 0x10, data := [] }
  | none =>
    { dest := none, stamp := none, session := c.sess.val, op := 4, tag := 0, code := code
      done := if code = .ok then 1 else 0, addr := 0x10, data := [] }

/-- CMD_STATUS of a session after a state command. -/
def setCmdStatus (i : Fin 32) (code : Nat) (r : RspCode) (s : State) : State :=
  if s.host.sess[i].isOpen then modSess i (fun x => { x with cmdValid := true, cmdCode := code, cmdResult := r.code }) s else s

/-- SAFE was entered in the beat in which the command came (R23). -/
def safeSame (c : PendCmd) (s : State) : Bool := s.st.mode == .safe && s.saf.causeTick / 400 == c.beat

/-- One pending command judged against the present state. -/
def judgeCmd (c : PendCmd) (s : State) : State :=
  let (r, s) := if safeSame c s then (RspCode.state, s) else stateCmd c.sess c.code s
  let s := setCmdStatus c.sess c.code r s
  match c.req with
  | some _ => answer c.sess (cmdRsp c r) s
  | none => respond (cmdRsp c r) (if s.host.sess[c.sess].isOpen then modSess c.sess (fun x => { x with outstanding := false }) s
                                  else s)

/-- The pending commands of earlier beats, in order of arrival, each against the state that the one before left. -/
def judgeAll : Nat → State → State
  | 0, s => s
  | n + 1, s =>
    match s.host.cmds with
    | [] => s
    | c :: r =>
      if c.beat = s.time.beat then s
      else judgeAll n (judgeCmd c { s with host := { s.host with cmds := r } })

/-- STATE_CMD_JUDGE (01 R22): at the beat boundary after they came. -/
def execStateCmdJudge (s : State) : Res :=
  let s := fresh s
  .next (if awake s && decide (tickOf s = 0) then judgeAll s.host.cmds.length s else s)

/-! ### The end of T6 -/

/-- I_FAST lies above both envelopes. -/
def fastLimit (b : SafetyBlock) : Bool := decide (b.iDisEnv < b.iFast) && decide (b.iChgEnv < b.iFast)

/-- The limits of Table 03-6 as channel A judges them (R71). -/
def limitsA (c : Calibre) (b : SafetyBlock) : Bool :=
  b.calId == c.calId && b.calVersion == c.calVersion && b.sbFormat == 1 && b.nPos == c.chain.nPos &&
  decide (b.kMain < 16) && (b.kPre == 0 || b.kPre == 1 || b.kPre == 2 || b.kPre == 4 || b.kPre == 8) &&
  b.kMain &&& b.kPre == 0 && decide (b.sides ≤ 2) &&
  withinI 500000 4000000 b.vPosMin && withinI (b.vPosMin + 100000) 5000000 b.vPosMax &&
  withinI (-6000) 0 b.tMin && withinI 2000 9000 b.tMax && within 1 100 b.ageMax && withinI b.tMin b.tMax b.tChgMin &&
  fastLimit b && within 1 1000 b.dirTolT && within 50 300 b.offPulse && decide (b.vStrMax ≤ 180000000) &&
  decide (b.vStrMin < b.vStrMax) && within 10000 50000000 b.insMin && within 100 30000 b.preTmax &&
  b.sCfg.all sinLimits

/-- The limits that channel B judges in its own logic (R72). -/
def limitsB (b : SafetyBlock) : Bool :=
  fastLimit b && within 50 300 b.offPulse && decide (b.sides ≤ 2) && b.sCfg.all sinLimits

/-- The CRCs of both copies and their complement, as each channel checks them for itself. -/
def copiesOk (p q : Bytes) : Bool := sbCrcOk p && sbCrcOk q && sbTwins p q

/-- The copy that channel B takes: section 0x0D inverted, in plain form. -/
def plainOf (q : Bytes) : Bytes := q.map (fun b => ~~~ b)

/-- ARM_ERR of the two channels' judgement; 0 where both accept and agree (R71 to R73). -/
def safetyArmErr (c : Calibre) : Nat :=
  let p : Bytes := ((c.payload 0x0C).getD []).toArray
  let q : Bytes := ((c.payload 0x0D).getD []).toArray
  let a := copiesOk p q && limitsA c (rdSafety p)
  let b := copiesOk p q && limitsB (rdSafety (plainOf q))
  if !a && !b then 4
  else if !a then 2
  else if !b then 3
  else if (p.toList.take 0xFC) = ((plainOf q).toList.take 0xFC) then 0
  else 5

/-- Lines read from one end pass when their nodes have; the far end of the others shows it (04 R100 step 5). -/
def passSingles (s : State) : State :=
  (List.range 4).foldl (fun s l =>
    if lineUsed s l && (lineAt s l).step == .checking && !farOwned s l && nodesDone s l then linePass l s else s) s

/-- Every line in use has passed. -/
def linesPassed (s : State) : Bool :=
  s.chain.enumOn && (List.range 4).all (fun l => !lineUsed s l || (lineAt s l).step == .passed)

/-- T6 ends without ARMED: ARM_ERR. -/
def armFail (n : Nat) (s : State) : State :=
  { s with ldr := { s.ldr with armErr := n }, chain := { s.chain with arming := none, enumOn := false } }

/-- T6 completes: ARMED, and every function that starts there. -/
def armDone (c : Calibre) (s : State) : State :=
  let raw := (c.payload 0x0C).getD []
  let s := toMode .armed 6 s
  let s := { s with
    chain := { s.chain with arming := none, enumOn := false, enumDone := true }
    fab := { s.fab with pair := { s.fab.pair with holder := higherClaim s } } }
  lgStart (canStart (fioStart (limStart (cellsStart (estStart (safStart (rdSafety raw.toArray) raw s))))))

/-- ARM_RESULT (03 R71 to R73, R79; 04 R100, R101): enumeration and both channels' judgement complete, or 3 000 beats have
passed. -/
def execArmResult (s : State) : Res :=
  let s := fresh s
  match s.chain.arming, s.cal with
  | some b, some c =>
    if awake s && s.st.mode == .loaded then
      if s.chain.enumErr ≠ 0 then .next (armFail 1 s)
      else
        let s := passSingles s
        if b + 3000 < s.time.beat then .next (armFail 1 s)
        else if linesPassed s then
          match safetyArmErr c with
          | 0 => .next (armDone c s)
          | n => .next (armFail n s)
        else if b + 3000 ≤ s.time.beat then .next (armFail 1 s)
        else .next s
    else .next s
  | _, _ => .next s

end Sys2Proof.Machine
end

