-- ==== Sys2Proof/Machine/Regs.lean ====
section
/-! DEFINITION. The host address space as one register file (00 R1, R8 to R13, 01 R21, 13 R326 to R332, R337): the blocks
of Table 00-10 joined, the identity, status board, session and job blocks' own words, the latches of R12, and the
single read and the single write of a session. -/

namespace Sys2Proof.Machine

/-! ### Identity and state (Tables 00-3 to 00-6, 13-10, 13-11) -/

/-- STATE. -/
def stateWord (s : State) : Word := toW (fld s.st.changes 16 16 + fld s.st.prev 4 4 + fld s.st.mode.code 0 4)

/-- CMD_STATUS of a session. -/
def cmdStatus (x : Session) : Word :=
  if x.cmdValid then toW (bitAt true 31 + fld x.cmdCode 8 8 + fld x.cmdResult 0 8) else 0

/-- The words of the identity and state block. -/
def identRead (i : Fin 32) (o : Nat) (s : State) : Word :=
  match o with
  | 0x000 => identWord
  | 0x004 => revisionWord s
  | 0x008 => 0x01000101
  | 0x00C => stateWord s
  | 0x014 => cmdStatus s.host.sess[i]
  | 0x018 => toW Config.serial.toNat
  | 0x01C => toW (Config.serial.toNat / 2 ^ 32)
  | _ => 0

/-! ### Sessions and subscriptions (Tables 13-16, 13-17) -/

/-- SESSs_INFO. -/
def Session.info (x : Session) : Word :=
  if x.isOpen then
    let t := match x.source with
      | .fabric _ _ => 1
      | .can c => 2 + c.val
    toW (fld t 30 2 + fld x.idle 0 14)
  else 0

/-- SESSs_SRC. -/
def Session.srcWord (x : Session) : Word :=
  if x.isOpen then
    match x.source with
    | .fabric mac src => toW (fld mac 16 16 + fld src 0 16)
    | .can _ => 0
  else 0

/-- SESS_STATUS as session i reads it. -/
def sessStatus (i : Fin 32) (s : State) : Word :=
  toW (bitAt s.host.timeoutSeen 9 + bitAt s.host.fullSeen 8 + fld i.val 0 5)

/-- The words of the sessions block. -/
def sessionsRead (i : Fin 32) (o : Nat) (s : State) : Word :=
  let h := s.host
  match o with
  | 0x000 => sessStatus i s
  | 0x004 => toW (maskIf 32 (fun k => (getNat h.sess k).isOpen))
  | _ =>
    match arrIdx o 0x100 8 32, arrIdx o 0x104 8 32, arrIdx o 0x400 8 64, arrIdx o 0x404 8 64 with
    | some k, _, _, _ => (getNat h.sess k).info
    | none, some k, _, _ => (getNat h.sess k).srcWord
    | none, none, some j, _ => let b := getNat h.subs j; toW (bitAt b.enable 31 + fld b.addr 0 16)
    | none, none, none, some j => let b := getNat h.subs j; toW (fld b.content 16 16 + fld b.period 0 16)
    | none, none, none, none => 0

/-- A subscription changed. -/
def modSub (j : Nat) (f : Sub → Sub) (s : State) : State :=
  { s with host := { s.host with subs := updNat s.host.subs j f } }

/-- A PERIOD that divides 1 000 and a CONTENT of Table 13-9 (R341). -/
def subCfgOk (v : Word) : Bool :=
  let p := wBits v 15 0
  let c := wBits v 31 16
  p != 0 && 1000 % p == 0 && decide (1 ≤ c ∧ c ≤ 5)

/-- Writes to the sessions block. -/
def sessionsWrite (o : Nat) (v : Word) (s : State) : RspCode × State :=
  if o = 0 then
    (.ok, { s with host := { s.host with timeoutSeen := s.host.timeoutSeen && !wBit v 9
                                         fullSeen := s.host.fullSeen && !wBit v 8 } })
  else match arrIdx o 0x400 8 64, arrIdx o 0x404 8 64 with
    | some j, _ => (.ok, modSub j (fun b => { b with enable := wBit v 31, addr := wBits v 15 0 }) s)
    | none, some j =>
      if subCfgOk v then (.ok, modSub j (fun b => { b with content := wBits v 31 16, period := wBits v 15 0 }) s)
      else (.access, s)
    | none, none => (.ok, s)

/-! ### Jobs (R330 to R332) -/

/-- START in an IDLE slot, by KIND. -/
def jobStartKind (i : Fin 32) (j : Fin 8) (kind : Nat) (s : State) : RspCode × State :=
  match kind with
  | 1 | 2 => (.ok, contactorStart i j kind s)
  | 0x10 => (.ok, clearStart i j s)
  | 0x11 => if s.host.sess[i].crown then (.ok, discardStart i j.val s) else (.access, s)
  | 0x12 => if s.host.sess[i].crown then (.ok, activateStart i j.val s) else (.access, s)
  | _ => (.ok, jobRefuse i j.val kind 8 s)

/-- START: in a slot that is not IDLE the write is refused. -/
def jobStartWrite (i : Fin 32) (j : Fin 8) (kind : Nat) (s : State) : RspCode × State :=
  if s.host.jobs[j].st = .idle then jobStartKind i j kind s else (.access, s)

/-- A write of JOBj_CTRL: START, then ABORT, then CLEAR; refused as a whole (00 R9). -/
def jobCtrlWrite (i : Fin 32) (j : Fin 8) (v : Word) (s : State) : RspCode × State :=
  let r := if wBit v 31 then jobStartWrite i j (wBits v 7 0) s else (.ok, s)
  if r.1 ≠ .ok then (r.1, s)
  else
    let t := if wBit v 30 then abortJob j.val r.2 else r.2
    if wBit v 29 then
      let c := jobClearWrite j.val t
      if c.1 = .ok then c else (c.1, s)
    else (.ok, t)

/-- Writes to the job table. -/
def jobsWrite (i : Fin 32) (o : Nat) (v : Word) (s : State) : RspCode × State :=
  if h : 0x40 ≤ o ∧ o < 0x140 then
    let j : Fin 8 := ⟨(o - 0x40) / 0x20, by omega⟩
    match (o - 0x40) % 0x20 with
    | 0 => jobCtrlWrite i j v s
    | 4 => jobArgWrite j.val v s
    | _ => (.ok, s)
  else (.ok, s)

/-! ### Fabric and partner -/

/-- Writes to the fabric and partner block: the W1C bits and PAIR_CTRL (Tables 12-7, 12-8, 12-12). -/
def fabricWrite (o : Nat) (v : Word) (s : State) : RspCode × State :=
  match o with
  | 0x000 =>
    (.ok, modFab (fun x => { x with lateRx := x.lateRx && !wBit v 5, routeDrop := x.routeDrop && !wBit v 4
                                    claimLowRx := x.claimLowRx && !wBit v 3 }) s)
  | 0x084 => pairCtrlWrite v s
  | 0x0C0 =>
    (.ok, modFab (fun x => { x with joinRefused := x.joinRefused && !wBit v 6, left := x.left && !wBit v 5
                                    joined := x.joined && !wBit v 4 }) s)
  | _ => (.ok, s)

/-! ### The status board (R329, Table 13-6) -/

/-- A W1C bit of a register is set. -/
def w1cAny (a : Nat) (s : State) : Bool := ((w1cTable.find? (fun r => r.1 == a)).map (fun r => r.2 s)).getD 0 != 0

/-- The register mirrored for source k. -/
def mirror (i : Fin 32) (k : Nat) (s : State) : Word :=
  match k with
  | 0 => timeStatus s
  | 1 => ldStatus s
  | 2 => chStatus s
  | 3 => msStatus s
  | 4 => estStatus s
  | 5 => cellSum 0 s
  | 6 => llStatus s
  | 7 => safRead 0 s
  | 8 => lgStatus s
  | 9 => fbStatus s
  | 10 => canRead 0 0 s
  | 11 => canRead 1 0 s
  | 12 => fioStatus s
  | 13 => pwStatus s
  | 14 => rcStatus i s
  | 15 => upStatus s
  | 16 => jobsRead 0 s
  | 17 => queuesRead 0x100 s
  | 18 => sessStatus i s
  | _ => 0

/-- Address of the register of source k. -/
def mirrorAddr (k : Nat) : Nat :=
  [0x6000, 0x5000, 0x7000, 0x8000, 0x9000, 0x14000000, 0xA000, 0xB000, 0xC000, 0xD000, 0xE000, 0xE400, 0xF000, 0x10000,
   0x11000, 0x12000, 0x2000, 0x4100, 0x3000].getD k 0

/-- The fields of a source's register, beside its W1C bits, that Table 13-6 names: TIME_FAULT, TSQ_OVF, LEDGER_OVR,
TRG_LATE; BREAK, SILENT, ABSENT_ANY; ACCORD_WARN, AZ_FAIL, INS_WARN, STALE_ANY; DISAGREE_ANY, ANCHOR_STARVED; SHORT_ANY;
LOOP_HOLD, SHUT_ANY, DIE_SHUT; A_LATCH, B_LATCH, INPUT_FAULT_ANY, TEST_OVERDUE_ANY; FORCED, STN_LOST_ANY; RING_OPEN,
ADDR_CONFLICT. -/
def attnBits (k : Nat) : Word :=
  match k with
  | 0 => 0x78000
  | 2 => 0x4F0F0
  | 3 => 0x114010
  | 4 => 0x1800
  | 5 => 0x40
  | 6 => 0x824
  | 7 => 0x66
  | 8 => 0x300
  | 9 => 0x6
  | _ => 0

/-- Attention bit k (Table 13-6). -/
def attn (i : Fin 32) (k : Nat) (s : State) : Bool :=
  let named := mirror i k s &&& attnBits k != 0
  match k with
  | 1 => s.ldr.err != 0 || s.ldr.armErr != 0 || s.ldr.replaced || s.ldr.onApplied
  | 4 => named || w1cAny 0x9000 s || s.est.latch % 64 != 0
  | 9 => named || w1cAny 0xD000 s || w1cAny 0xD0C0 s || s.fab.pair.stepMismatch || s.fab.pair.configBad ||
      s.fab.pair.st == .lost
  | 16 => (List.range 8).any (fun j => (jobAt s j).hasEnded)
  | 17 => s.host.queues.toList.any (fun q => q.underrun || q.ovf || q.flushed)
  | _ => named || w1cAny (mirrorAddr k) s

/-- SB_SUMMARY. -/
def summaryWord (i : Fin 32) (s : State) : Word :=
  toW (fld s.st.mode.code 28 4 + fld (maskIf 8 (fun q => !(getNat s.host.queues q).words.isEmpty)) 20 8 +
    maskIf 19 (fun k => attn i k s))

/-- The words of the status board. -/
def boardRead (i : Fin 32) (o : Nat) (s : State) : Word :=
  if o = 0 then summaryWord i s
  else match arrIdx o 0x40 4 19 with
    | some k => mirror i k s
    | none => 0

/-! ### Reading -/

/-- The word at a host address as a session reads it live, but for the heads of the queues (00 R8, R13). -/
def regRead (i : Fin 32) (a : Nat) (s : State) : Word :=
  match blockOf a with
  | none => 0
  | some (b, o) =>
    match b with
    | .ident => identRead i o s
    | .board => boardRead i o s
    | .jobs => jobsRead o s
    | .sessions => sessionsRead i o s
    | .queues => queuesRead o s
    | .loader => loaderRead o s
    | .time => timeRead o s
    | .chain => chainRead o s
    | .meas => measRead i o s
    | .est => estRead i o s
    | .limits => limRead o s
    | .safety => safRead o s
    | .logic => lgRead i o s
    | .fabric => fabricRead o s
    | .can0 => canRead 0 o s
    | .can1 => canRead 1 o s
    | .canRest => 0
    | .fio => fioRead o s
    | .power => powerRead o s
    | .records => recordsRead i o s
    | .update => updateRead i o s
    | .cellWin => cellWindow o s
    | .cellSum => cellSum o s
    | .specWin => specWindow o s

/-- An offset in a slot of the spectrum store holds the lower word of a pair: BEAT, and the real part of an impedance in the
header or in a position record (06 Tables 06-5, 06-6). -/
def specPair (i : Nat) : Bool :=
  i == 0x008 || (decide (0x040 ≤ i ∧ i < 0x180) && i % 8 == 0) ||
  (decide (0x8000 ≤ i) && decide (0x050 ≤ (i - 0x8000) % 480 ∧ (i - 0x8000) % 480 < 0x190) && (i - 0x8000) % 480 % 8 == 0)

/-- The words that a read of the lowest word of a multi-word quantity latches (R12): those that the register tables name,
and the upper words of the other quantities of two words: a trigger's or the activation's second, Q_ABS of a cell record,
and the pairs of the spectrum store (DEDUCED, log 31). -/
def latchOf (a : Nat) : List Nat :=
  match blockOf a with
  | some (.ident, 0x018) => [a + 4]
  | some (.time, o) =>
    if o = 0x008 then [a + 4, a + 8]
    else if o = 0x014 ∨ o = 0x028 ∨ o = 0x030 ∨ (arrIdx o 0x0C4 0x10 4).isSome = true then [a + 4]
    else if (arrIdx o 0x104 0x20 3).isSome then [a + 4, a + 8, a + 12]
    else []
  | some (.chain, o) => (chainLatch o).map (· + 0x7000)
  | some (.meas, o) => (measLatch o).map (· + 0x8000)
  | some (.est, 0x008) => [a + 4]
  | some (.limits, o) => (limLatch o).map (· + 0xA000)
  | some (.fabric, o) => (fabricLatch o).map (· + 0xD000)
  | some (.power, 0x048) => [a + 4]
  | some (.update, 0x020) => [a + 4]
  | some (.cellWin, o) => if o % 256 = 0x050 then [a + 4] else []
  | some (.specWin, o) => if specPair (o % 0x80000) then [a + 4] else []
  | some (.records, o) =>
    if o = 0x014 then [a + 4]
    else if o = 0x040 then (List.range 7).map (fun w => a + 4 + 4 * w)
    else if o = 0x080 then (List.range 15).map (fun w => a + 4 + 4 * w)
    else []
  | _ => []

/-- The queue whose head stands at a host address: QqDATA and CANc_RXDATA. -/
def headAt (a : Nat) : Option QueueId :=
  if h : 0x4000 ≤ a ∧ a < 0x4100 then
    if a % 0x20 = 0 then some (.q ⟨(a - 0x4000) / 0x20, by omega⟩) else none
  else if a = 0xE010 then some (.can 0)
  else if a = 0xE410 then some (.can 1)
  else none

/-- A queue by its name. -/
def queueAt (q : QueueId) (s : State) : Queue :=
  match q with
  | .q k => s.host.queues[k]
  | .can c => s.can[c].rx

/-- A queue changed. -/
def setQueue (q : QueueId) (x : Queue) (s : State) : State :=
  match q with
  | .q k => modQueue k.val (fun _ => x) s
  | .can c => modCan c.val (fun y => { y with rx := x }) s

/-- The address of a queue's STAT register. -/
def queueStatAt : QueueId → Nat
  | .q k => 0x4004 + 0x20 * k.val
  | .can c => 0xE014 + 0x400 * c.val

/-- A read of a queue head (R337). -/
def headRead (i : Fin 32) (q : QueueId) (s : State) : RspCode × Word × State :=
  let x := queueAt q s
  if x.readable i then (.ok, x.pop.1, setQueue q x.pop.2 (setAgainIf x.words.isEmpty (queueStatAt q) (2 ^ 18) s))
  else (.access, 0, s)

/-- What a session reads: the value it has latched, else the live one (R12). -/
def sessionRead (i : Fin 32) (a : Nat) (s : State) : Word :=
  match s.host.sess[i].latches.find? (fun p => p.1 == a) with
  | some p => p.2
  | none => regRead i a s

/-- The latches that a read at `a` takes, in place of those of the same quantity. -/
def takeLatch (i : Fin 32) (a : Nat) (s : State) : State :=
  let t := latchOf a
  if t.isEmpty then s
  else modSess i (fun x => { x with latches := x.latches.filter (fun p => !t.contains p.1) ++ t.map (fun b => (b, regRead i b s)) }) s

/-- One word read by a session (R8, R12, R337). -/
def readWord (i : Fin 32) (a : Nat) (s : State) : RspCode × Word × State :=
  if a % 4 ≠ 0 then (.align, 0, s)
  else if (blockOf a).isNone then (.address, 0, s)
  else match headAt a with
    | some q => headRead i q s
    | none => (.ok, sessionRead i a s, takeLatch i a s)

/-! ### Writing -/

/-- The slot of JOBj_CTRL at a host address. -/
def jobCtrlAt (a : Nat) : Option Nat := arrIdx a 0x2040 0x20 8

/-- A write that SAFE accepts (01 R21). A write of 1 to a W1C bit of TRGk_CTRL is taken when the word's ARM bit keeps its
value (DEDUCED, log 31). -/
def safeOk (a : Nat) (v : Word) (s : State) : Bool :=
  a == 0x10 || a == 0xB010 || a == 0x11004 || a == 0x8004 || (a == 0x9004 && !wBit v 31) || a == 0xC010 ||
  a == 0x11024 || a == 0x11028 || a == 0x10004 || a == 0xE018 || a == 0xE418 || (arrIdx a 0x4008 0x20 8).isSome ||
  ((jobCtrlAt a).isSome && !wBit v 31 && (wBit v 30 || wBit v 29)) ||
  (v.toNat &&& w1cMask a != 0 &&
    (match arrIdx a 0x60CC 0x10 4 with
     | some k => wBit v 0 == (getNat s.time.trg k).arm
     | none => true))

/-- A state command reaches the module (13 R328, 01 R22): it waits for the beat boundary, and its response with it. Its
arrival ends a replacement (03 R84). -/
def stateCmdWrite (i : Fin 32) (req : Option (Req × Nat × Nat)) (v : Word) (s : State) : RspCode × State :=
  let code := wBits v 7 0
  if 1 ≤ code ∧ code ≤ 7 then
    let s := replaceStop s
    let s := modSess i (fun x => { x with outstanding := true, cmdValid := true, cmdCode := code, cmdResult := 0 }) s
    (.ok, { s with host := { s.host with cmds := s.host.cmds ++ [{ sess := i, req := req, code := code, beat := s.time.beat }] } })
  else (.format, setCmdStatus i code .format s)

/-- A write to an assigned or unassigned word of a block (00 R8 to R10, R13). -/
def blockWrite (i : Fin 32) (req : Option (Req × Nat × Nat)) (b : Blk) (o : Nat) (v : Word) (s : State) : RspCode × State :=
  match b with
  | .ident => if o = 0x010 then stateCmdWrite i req v s else (.ok, s)
  | .board => (.ok, s)
  | .jobs => jobsWrite i o v s
  | .sessions => sessionsWrite o v s
  | .queues => queuesWrite i o v s
  | .loader => loaderWrite i o v s
  | .time => timeWrite o v s
  | .chain => (.ok, (chainWrite o v s).getD s)
  | .meas => measWrite i o v s
  | .est => estWrite i o v s
  | .limits => limWrite o v s
  | .safety => (.ok, safWrite o v s)
  | .logic => lgWrite i o v s
  | .fabric => fabricWrite o v s
  | .can0 => canWrite 0 o v s
  | .can1 => canWrite 1 o v s
  | .canRest => (.ok, s)
  | .fio => (.ok, fioWrite o v s)
  | .power => (.ok, powerWrite o v s)
  | .records => recordsWrite i o v s
  | .update => updateWrite i o v s
  | .cellWin => (.ok, s)
  | .cellSum => (.ok, cellSumWrite o v s)
  | .specWin => (.ok, s)

/-- One word written by a session (00 R8, R9, R11, 01 R21). -/
def writeWord (i : Fin 32) (req : Option (Req × Nat × Nat)) (a : Nat) (v : Word) (s : State) : RspCode × State :=
  if a % 4 ≠ 0 then (.align, s)
  else match blockOf a with
    | none => (.address, s)
    | some (b, o) =>
      if s.st.mode = .safe ∧ safeOk a v s = false then (.access, s)
      else blockWrite i req b o (keepFresh a v s) s

end Sys2Proof.Machine
end

