-- ==== Sys2Proof/Machine/Publish.lean ====
section
/-! DEFINITION. What the module produces for hosts without being asked: the items of the stream queues and their commit
(13 R334 to R340, Table 13-8), PUBLISH frames (R341, Table 13-9), and CAN publications (14 R354, R355). -/

namespace Sys2Proof.Machine

/-! ### Stream items (Table 13-8) -/

/-- The newest aligned sample, zeros before any. -/
def alignedNow (s : State) : FeSample :=
  match s.meas.alignedE with
  | some a => a.fe
  | none => default

/-- The best of the held values under an order, with its position; of equals the lowest (log 31). -/
def bestHeld (better : Int → Int → Bool) (s : State) : Int × Nat :=
  ((s.meas.pos.zipIdx).foldl (fun (m : Option (Int × Nat)) x => match m with
    | some y => if better x.1.held y.1 then some (x.1.held, x.2) else m
    | none => some (x.1.held, x.2)) none).getD (0, 0)

/-- FLAGS of a top item. -/
def topFlags (s : State) : Nat :=
  let m := msStatus s
  let fe := alignedNow s
  fld s.st.mode.code 0 4 + bitAt s.saf.latchA 4 + bitAt s.saf.latchB 5 + bitAt s.saf.chgForbid 6 + bitAt (wBit m 20) 7 +
    bitAt (wBit m 21) 8 + bitAt (wBit m 22) 9 + bitAt (wBit m 4) 10 + fld (feCode fe.iBad) 16 3 +
    fld (feCode fe.strBad) 20 3

/-- The 17 words of a top item: the limits are those of the beat before, since this beat's come at tick 360. -/
def topItem (s : State) : List Word :=
  let fe := alignedNow s
  let lo := bestHeld (fun x y => decide (x < y)) s
  let hi := bestHeld (fun x y => decide (y < x)) s
  [toW s.time.beat, intW fe.i, intW fe.vStr, intW fe.vLnk, intW s.meas.iMean, intW lo.1, intW hi.1,
   toW (fld lo.2 0 10 + fld hi.2 16 10), toW (topFlags s)] ++ s.lim.lim.toList.map toW

/-- The best VALID string temperature under an order as [24:16] index and [15:0] value; free without any (log 31). -/
def bestTemp (better : Int → Int → Bool) (k : Nat) (s : State) : Word :=
  match (s.meas.temps.zipIdx).foldl (fun (m : Option (Int × Nat)) x =>
      if x.1.mapped && x.1.codeNow s.time.beat == .valid then
        match m with
        | some y => if better x.1.held y.1 then some (x.1.held, x.2) else m
        | none => some (x.1.held, x.2)
      else m) none with
  | some (t, i) => toW (fld i 16 9 + intField t 16)
  | none => intW (Config.freeInt k)

/-- The 16 words of a heart item. -/
def heartItem (s : State) : List Word :=
  let e := fun o => estRead 0 o s
  let q := chargeUc s.meas
  [e 0x008, e 0x010, e 0x014, e 0x018, e 0x01C, e 0x020, e 0x024, e 0x028, e 0x02C, limRead 0x030 s,
   bestTemp (fun x y => decide (y < x)) s.freeCtr s, bestTemp (fun x y => decide (x < y)) (s.freeCtr + 1) s,
   intW q, intW (Int.fdiv q (2 ^ 32)), estStatus s, msStatus s]

/-- The 18 words of a base item, with the newest insulation and accord results (log 31). -/
def baseItem (s : State) : List Word :=
  let m := s.meas
  let ins := m.ins.result
  let info := if ins.isSome then
      toW (fld (min 65535 ((s.time.beat - m.ins.endBeat) / 1000)) 16 16 + fld m.ins.source 0 16) else 0
  [toW s.time.beat, (ins.map (fun r => insWord r.1)).getD 0, (ins.map (fun r => insWord r.2)).getD 0, info,
   intW m.acc.rBar, intW m.acc.rOut, cellSum 0x004 s, cellSum 0x00C s, cellSum 0x010 s, cellSum 0x018 s,
   estRead 0 0x038 s, estRead 0 0x03C s, estRead 0 0x034 s, safRead 0 s, kState s, fabricRead 0x10C s,
   fabricRead 0x11C s, timeStatus s]

/-- A register whose word depends on the reading session, or a queue head, whose read removes a word: what a host stream
takes there no rule says (log 31). -/
def perSession (a : Nat) : Bool :=
  (headAt a).isSome || a == 0x14 || a == 0x1078 || a == 0x1088 || a == 0x3000 || a == 0x8004 || a == 0x9004 ||
  decide (0x8100 ≤ a ∧ a < 0x8400) || decide (0x9100 ≤ a ∧ a < 0x9900) || a == 0xC010 || a == 0xC014 || a == 0x11000 ||
  a == 0x11024 || a == 0x11028 || a == 0x11034 || decide (0x11040 ≤ a ∧ a < 0x110C0) || a == 0x12008 ||
  decide (0x12400 ≤ a ∧ a < 0x12800)

/-- The word a host stream takes for a selector at its tick (R340). -/
def selectorWord (k a : Nat) (s : State) : Word :=
  if perSession a then intW (Config.freeInt k) else regRead 0 a s

/-- The item of a host stream list. -/
def hostItem (l : List Word) (s : State) : List Word :=
  l.mapIdx (fun j w => selectorWord (s.freeCtr + j) w.toNat s)

/-- Every DECIM-th of the beats that bear an item: those whose running number is a multiple of DECIM (log 31). -/
def decimDue (decim n : Nat) : Bool := decim != 0 && n % decim == 0

/-- The item that a queue's content brings in this beat at tick 340. -/
def streamItem (c : QueueCfg) (s : State) : Option (List Word) :=
  let n := s.time.beat
  match c.content with
  | 1 => if decimDue c.decim n then some (topItem s) else none
  | 2 => if n % 100 = 1 ∧ decimDue c.decim (n / 100) = true then some (heartItem s) else none
  | 3 => if n % 1000 = 999 ∧ decimDue c.decim (n / 1000) = true then some (baseItem s) else none
  | 7 => if decimDue c.decim n then (s.cal.bind (·.stream)).map (fun p => hostItem p.listA s) else none
  | 8 => if decimDue c.decim n then (s.cal.bind (·.stream)).map (fun p => hostItem p.listB s) else none
  | _ => none

/-- STREAM_ITEM (R339, R340): at tick 340 the item is written into the queue's body. -/
def execStreamItem (q : Fin 8) (s : State) : Res :=
  let s := fresh s
  if awake s && s.st.mode.fromArmed && mayAct (.item q.val) 340 s then
    let s := actAt (.item q.val) 340 s
    match streamItem (queueCfg s q.val) s with
    | some w => .next (tookFree w.length (modQueue q.val (·.offer w) s))
    | none => .next s
  else .next s

/-- Engines whose items are the sources of a content: E8 for the top stream, E0 to E7 for what the estimators give. -/
def sourceEngines (content : Nat) : List Nat :=
  match content with
  | 1 => [8]
  | 2 | 3 | 4 | 5 => List.range 8
  | _ => []

/-- The item's source is not committed in this beat (R335, 02 Table 02-3): one of its engines has overrun in the beat, and
the item that overran is the source. No catalogue says which item that is: a free bit (log 31). -/
def sourceLost (content : Nat) (s : State) : Bool :=
  (sourceEngines content).any (fun e => (getNat s.time.engines e).ovrThisBeat) && Config.roundUp s.freeCtr

/-- QUEUE_ITEM_COMMIT (R335, R336): the oldest item written becomes visible, or is dropped. -/
def execQueueItemCommit (q : QueueId) (ecc : Bool) (s : State) : Res :=
  let s := fresh s
  match q with
  | .q k =>
    let c := queueCfg s k.val
    let lost := ecc || sourceLost c.content s
    .next (tookFree 1 (modQueue k.val (·.commit c.content c.depth lost)
      (setAgainIf ((getNat s.host.queues k.val).dropsNow c.depth lost) (0x4004 + 0x20 * k.val) (2 ^ 17) s)))
  | .can c => .next (canCommit c.val ecc s)

/-! ### Publications (R341, Table 13-9) -/

/-- The words of a publication content. -/
def pubWords (content : Nat) (s : State) : List Word :=
  match content with
  | 1 => s.lim.lim.toList.map toW
  | 2 => (List.range 8).map (fun k => fabricRead (0x120 + 4 * k) s)
  | 3 => wordsOf (requestRecord s)
  | 4 => [stateWord s, safRead 0 s, kState s, summaryWord 0 s]
  | 5 => [intW s.meas.iMean, intW (alignedNow s).vStr, estRead 0 0x010 s, estRead 0 0x018 s, estRead 0 0x01C s]
  | _ => []

/-- The bytes of a word list. -/
def wordsLe (l : List Word) : List Byte := l.flatMap (fun w => leB 4 w.toNat)

/-- A subscription is due in a beat. -/
def Sub.due (b : Sub) (beat : Nat) : Bool := b.enable && b.period != 0 && beat % b.period == 0

/-- The PUBLISH frame of a subscription. -/
def publishOne (b : Sub) (s : State) : State :=
  sendFab none 8 b.addr s.time.beat none (outPorts 8 b.addr s) (leB 2 b.content ++ leB 2 0 ++ wordsLe (pubWords b.content s)) s

/-- PUBLISH (R341): at tick 370, in the order of the subscriptions. -/
def execPublish (s : State) : Res :=
  let s := fresh s
  if awake s && s.st.mode.fromArmed && mayAct .publishFab 370 s then
    .next ((s.host.subs.toList.filter (fun b => b.due s.time.beat)).foldl (fun s b => publishOne b s)
      (actAt .publishFab 370 s))
  else .next s

/-- The data of a CAN publication (14 R355). -/
def canPubData (content : Nat) (s : State) : List Byte :=
  leB 1 content ++ leB 1 (bitAt (inPair s && s.fab.pair.holder) 0 + bitAt (inPair s) 1) ++ leB 2 s.time.beat ++
    wordsLe (pubWords content s)

/-- A record falls due: pending with its content; still pending, it takes the new content and PUB_SKIP rises (14 R354). -/
def CanCh.due (p : PubPend) (x : CanCh) : CanCh :=
  if x.pubs.any (fun q => q.index == p.index) then
    { x with pubs := x.pubs.map (fun q => if q.index == p.index then p else q), pubSkip := satAdd x.pubSkip 1 65535 }
  else { x with pubs := x.pubs ++ [p] }

/-- PUBLICATION_DUE (14 R354, R355): at tick 370 of its period. -/
def execPublicationDue (c : Fin 2) (k : Fin 32) (s : State) : Res :=
  let s := fresh s
  match (pubsOf s c.val)[k.val]? with
  | some p =>
    if awake s && s.st.mode.fromArmed && p.enable && p.period != 0 && decide (s.time.beat % p.period = 0) &&
        mayAct (.pubCan c.val k.val) 370 s then
      let s := actAt (.pubCan c.val k.val) 370 s
      .next (modCan c.val (CanCh.due { index := k.val, canId := p.canId, data := canPubData p.content s }) s)
    else .next s
  | none => .next s

end Sys2Proof.Machine
end

