-- ==== Sys2Proof/Machine/Host.lean ====
section
/-! DEFINITION. Requests (13 R322 to R327) and the single host accesses that have a row of their own: each is one read or
one write by a session at the register its rule names. -/

namespace Sys2Proof.Machine

/-! ### Single accesses -/

/-- The response to a single host access; no request head comes with it. -/
def directRsp (i : Fin 32) (op : Nat) (code : RspCode) (a : Nat) (data : List Word) : Rsp :=
  { dest := none, stamp := none, session := i.val, op := op, tag := 0, code := code, done := if code = .ok then 1 else 0
    addr := a, data := data }

/-- A single access of a session: answered with SESSION or BUSY, or carried out as an accepted one (R322 to R324). -/
def access (i : Fin 32) (op a : Nat) (f : State → State) (s : State) : State :=
  if !awake s then s
  else if !s.host.sess[i].isOpen then respond (directRsp i op .session a []) s
  else if s.host.sess[i].outstanding then respond (directRsp i op .busy a []) s
  else f (modSess i (fun x => { x with idle := 0 }) s)

/-- One word written by a session; a state command's response waits (R326). -/
def hostWrite (i : Fin 32) (a : Nat) (v : Word) (s : State) : State :=
  access i 4 a (fun s =>
    let r := writeWord i none a v s
    if r.2.host.sess[i].outstanding then r.2 else respond (directRsp i 4 r.1 a []) r.2) s

/-- One word read by a session. -/
def hostRead (i : Fin 32) (a : Nat) (s : State) : State :=
  access i 3 a (fun s =>
    let r := readWord i a s
    respond (directRsp i 3 r.1 a (if r.1 = .ok then [r.2.1] else [])) r.2.2) s

/-- A single write as a command. -/
def writeCmd (i : Fin 32) (a : Nat) (v : Word) (s : State) : Res := .next (hostWrite i a v (fresh s))

/-- Bit 31, where most control registers hold their act. -/
def b31 : Word := 0x80000000
/-- Bit 30. -/
def b30 : Word := 0x40000000
/-- Bit 29. -/
def b29 : Word := 0x20000000

/-! ### Requests -/

/-- A request reaches the module: on CAN where the channel has the access profile (R327), on the fabric in a frame of its
KIND that is accepted there (12 R297 to R299, R301). `true` where it is to be answered. -/
def heard (r : Req) (s : State) : Bool × State :=
  match r.via with
  | .can c _ => (s.can[c].cfg.access && s.can[c].hears false, s)
  | .fabric h => if h.kind == 3 then fabIn true h s else (false, s)

/-- The session that a request names, when it is open and belongs to the request's source (R322). -/
def sessionOf (r : Req) (s : State) : Option (Fin 32) :=
  if h : r.session < 32 then
    let x := s.host.sess[(⟨r.session, h⟩ : Fin 32)]
    if x.isOpen && x.source == r.source then some ⟨r.session, h⟩ else none
  else none

/-- A response to a request. -/
def reply (r : Req) (op : Nat) (code : RspCode) (done addr : Nat) (data : List Word) : Rsp :=
  { dest := some r.source, stamp := r.stamp, session := r.session, op := op, tag := r.tag, code := code, done := done
    addr := addr, data := data }

/-- The ADDR of a response to a request that names no word: no rule gives it (log 31). -/
def noAddr (s : State) : Nat := (Config.freeInt s.freeCtr).toNat % 2 ^ 32

/-- A request that has been admitted (R322 to R324): refused with SESSION or BUSY, its stored response sent again where it
bears the TAG of the last one answered, else carried out. -/
def serve (r : Req) (op addr : Nat) (f : Fin 32 → State → State) (s : State) : State :=
  match sessionOf r s with
  | none => respond (reply r op .session 0 addr []) s
  | some i =>
    if s.host.sess[i].outstanding then respond (reply r op .busy 0 addr []) s
    else
      let s := modSess i (fun x => { x with idle := 0 }) s
      match s.host.sess[i].lastTag with
      | some p => if p.1 = r.tag then respond { p.2 with dest := some r.source, stamp := r.stamp } s else f i s
      | none => f i s

/-- A request that names a session. -/
def request (r : Req) (op addr : Nat) (f : Fin 32 → State → State) (s : State) : State :=
  if awake s then
    match heard r s with
    | (true, s) => serve r op addr f (atNs r.atNs s)
    | (false, s) => s
  else s

/-- The words that the least CAN frame with room for n words after the head can carry: its data field is 8, 12, 16, 20, 24,
32, 48 or 64 bytes long (14 Table 14-4). -/
def canRoom (n : Nat) : Nat := if n ≤ 4 then n else if n ≤ 6 then 6 else if n ≤ 10 then 10 else 14

/-- COUNT of a READ, READ_FIXED or WRITE is in its range, and the frame is as long as COUNT says (Table 13-1, R327,
Table 13-4): data words in a WRITE only, on CAN in the least frame that holds them (DEDUCED, log 31). -/
def sizeOk (r : Req) (count : Nat) (isWrite : Bool) : Bool :=
  match r.via with
  | .fabric _ => decide (1 ≤ count ∧ count ≤ 256) && r.words == (if isWrite then count else 0)
  | .can _ _ => decide (1 ≤ count ∧ count ≤ 14) && r.words == (if isWrite then canRoom count else 0)

/-- The same of OPEN, CLOSE and NOP: COUNT 0 and no data on the fabric, and on CAN one data word in OPEN; what COUNT is
there no rule says (log 31). -/
def plainOk (r : Req) (opens : Bool) : Bool :=
  match r.via with
  | .fabric _ => r.plainCount == 0 && r.words == 0
  | .can _ _ => r.words == b2n opens

/-- Words read one after the other until one draws an error: code, the address of the failing or of the last word, the
words, and the state (R325). -/
def readAll (i : Fin 32) (step : Nat) : Nat → Nat → State → RspCode × Nat × List Word × State
  | 0, a, s => (.ok, a - step, [], s)
  | n + 1, a, s =>
    let w := readWord i a s
    if w.1 = .ok then
      let r := readAll i step n (a + step) w.2.2
      (r.1, r.2.1, w.2.1 :: r.2.2.1, r.2.2.2)
    else (w.1, a, [], w.2.2)

/-- Words written one after the other until one draws an error: code, the address of the failing or of the last word, how
many took effect, and the state (R325). After a word that reset the module the session is not open. -/
def writeAll (i : Fin 32) (r : Req) (count : Nat) : List Word → Nat → Nat → State → RspCode × Nat × Nat × State
  | [], k, a, s => (.ok, a - 4, k, s)
  | v :: l, k, a, s =>
    let w := if s.host.sess[i].isOpen then writeWord i (some (r, count, k)) a v s else (.session, s)
    if w.1 = .ok then writeAll i r count l (k + 1) (a + 4) w.2 else (w.1, a, k, w.2)

/-- READ or READ_FIXED by an accepted session. -/
def readReq (r : Req) (op count step addr : Nat) (i : Fin 32) (s : State) : State :=
  if sizeOk r count false then
    let x := readAll i step count addr s
    answer i (reply r op x.1 x.2.2.1.length x.2.1 x.2.2.1) x.2.2.2
  else answer i (reply r op .format 0 addr []) s

/-- Commands of session i that wait and were to answer a request: the request has been answered, since a later word of it
drew an error (log 31). -/
def dropReq (i : Fin 32) (s : State) : State :=
  { s with host := { s.host with cmds := s.host.cmds.map (fun c => if c.sess = i then { c with req := none } else c) } }

/-- WRITE by an accepted session; with a state command among its words the response waits (R326). -/
def writeReq (r : Req) (count addr : Nat) (data : List Word) (i : Fin 32) (s : State) : State :=
  if sizeOk r count true then
    let x := writeAll i r count (data.take count) 0 addr s
    if x.2.2.2.host.sess[i].outstanding then
      if x.1 = .ok then x.2.2.2 else answer i (reply r 4 x.1 x.2.2.1 x.2.1 []) (dropReq i x.2.2.2)
    else answer i (reply r 4 x.1 x.2.2.1 x.2.1 []) x.2.2.2
  else answer i (reply r 4 .format 0 addr []) s

/-- The sessions that are not open. -/
def closedSessions (s : State) : List (Fin 32) := (List.finRange 32).filter (fun i => !s.host.sess[i].isOpen)

/-- The session an OPEN is given: one that is not open; no rule says which (log 31). -/
def openChoice (k : Nat) (l : List (Fin 32)) : Option (Fin 32) := l[(Config.freeInt k).toNat % l.length]?

/-- The words of an OPEN's response: on CAN the host's word goes before the number (R327). -/
def openData (r : Req) (word : Word) (i : Fin 32) : List Word :=
  match r.source with
  | .fabric _ _ => [toW i.val]
  | .can _ => [word, toW i.val]

/-- An OPEN (R322). -/
def openReq (r : Req) (word : Word) (s : State) : State :=
  let addr := noAddr s
  if !plainOk r true then respond (reply r 1 .format 0 addr []) (tookFree 1 s)
  else match openChoice (s.freeCtr + 1) (closedSessions s) with
  | none =>
    respond (reply r 1 .full 0 addr []) (tookFree 2 (setAgain 0x3000 (2 ^ 8) { s with host := { s.host with fullSeen := true } }))
  | some i =>
    let x : Session := { (default : Session) with isOpen := true, source := r.source }
    let s := { s with host := { s.host with sess := s.host.sess.set i x } }
    respond { reply r 1 .ok 0 addr (openData r word i) with session := i.val } (tookFree 2 s)

/-- OPEN. -/
def execOpenReq (r : Req) (word : Word) (s : State) : Res :=
  let s := fresh s
  if awake s then
    match heard r s with
    | (true, s) => .next (openReq r word (atNs r.atNs s))
    | (false, s) => .next s
  else .next s

/-- CLOSE (R323): the session closes and its answer leaves. -/
def execCloseReq (r : Req) (s : State) : Res :=
  let s := fresh s
  let addr := noAddr s
  .next (request r 2 addr (fun i s => if plainOk r false then respond (reply r 2 .ok 0 addr []) (closeSession i s)
                                      else answer i (reply r 2 .format 0 addr []) s) (tookFree 1 s))

/-- READ (R325). -/
def execRead (r : Req) (count : Nat) (addr : Word) (s : State) : Res :=
  .next (request r 3 addr.toNat (readReq r 3 count 4 addr.toNat) (fresh s))

/-- WRITE (R325). -/
def execWrite (r : Req) (count : Nat) (addr : Word) (data : List Word) (s : State) : Res :=
  .next (request r 4 addr.toNat (writeReq r count addr.toNat data) (fresh s))

/-- READ_FIXED (R325). -/
def execReadFixed (r : Req) (count : Nat) (addr : Word) (s : State) : Res :=
  .next (request r 5 addr.toNat (readReq r 5 count 0 addr.toNat) (fresh s))

/-- NOP: no access (R323). -/
def execNop (r : Req) (s : State) : Res :=
  let s := fresh s
  let addr := noAddr s
  .next (request r 6 addr (fun i s => answer i (reply r 6 (if plainOk r false then .ok else .format) 0 addr []) s)
    (tookFree 1 s))

/-- RESERVED_OP_REQUEST: FORMAT (Table 13-4). -/
def execReservedOpRequest (r : Req) (op : Nat) (s : State) : Res :=
  let s := fresh s
  let addr := noAddr s
  .next (request r op addr (fun i s => answer i (reply r op .format 0 addr []) s) (tookFree 1 s))

/-- SESSION_TIMEOUT (R323): 10 000 beats without an accepted request. -/
def execSessionTimeout (i : Fin 32) (s : State) : Res :=
  let s := fresh s
  if awake s && s.host.sess[i].isOpen && decide (10000 ≤ s.host.sess[i].idle) then
    let s := closeSession i s
    .next (setAgain 0x3000 (2 ^ 9) { s with host := { s.host with timeoutSeen := true } })
  else .next s

/-! ### Rows of single accesses -/

/-- HOST_WRITE (00 R9): any register. -/
def execHostWrite (i : Fin 32) (addr value : Word) (s : State) : Res := writeCmd i addr.toNat value s
/-- LATCHING_READ (00 R12). -/
def execLatchingRead (i : Fin 32) (addr : Word) (s : State) : Res := .next (hostRead i addr.toNat (fresh s))

/-- ENTER_STORAGE written to STATE_CMD (R328). -/
def execEnterStorage (i : Fin 32) (s : State) : Res := writeCmd i 0x10 1 s
/-- ARM (R328). -/
def execArm (i : Fin 32) (s : State) : Res := writeCmd i 0x10 2 s
/-- RUN (R328). -/
def execRun (i : Fin 32) (s : State) : Res := writeCmd i 0x10 3 s
/-- STOP (R328). -/
def execStop (i : Fin 32) (s : State) : Res := writeCmd i 0x10 4 s
/-- SERVICE (R328). -/
def execService (i : Fin 32) (s : State) : Res := writeCmd i 0x10 5 s
/-- WATCH (R328). -/
def execWatch (i : Fin 32) (s : State) : Res := writeCmd i 0x10 6 s
/-- RESET (R328). -/
def execResetCmd (i : Fin 32) (s : State) : Res := writeCmd i 0x10 7 s

/-- STEER in TIME_CTRL (02 R51). -/
def execSteer (i : Fin 32) (value : Word) (s : State) : Res := writeCmd i 0x6004 value s
/-- ARM in TRGk_CTRL (02 R57). -/
def execTriggerArm (i : Fin 32) (k : Fin 4) (value : Word) (s : State) : Res :=
  writeCmd i (0x60CC + 0x10 * k.val) (value ||| 1) s
/-- TSQp_POP (02 R59). -/
def execTsqPop (i : Fin 32) (p : Fin 3) (value : Word) (s : State) : Res := writeCmd i (0x6114 + 0x20 * p.val) value s
/-- GO in PROBE (02 R60). -/
def execProbe (i : Fin 32) (value : Word) (s : State) : Res := writeCmd i 0x6160 (value ||| b31) s
/-- CLEAR in ENG_LOADe (02 R43). -/
def execEngLoadClear (i : Fin 32) (e : Fin 11) (value : Word) (s : State) : Res :=
  writeCmd i (0x6080 + 4 * e.val) (value ||| b31) s

/-- LD_DATA (03 R76, R77). -/
def execLdData (i : Fin 32) (word : Word) (s : State) : Res := writeCmd i 0x5010 word s
/-- ABORT in LD_CTRL (03 R78). -/
def execLdCtrlAbort (i : Fin 32) (s : State) : Res := writeCmd i 0x5004 b31 s
/-- REPLACE_LOGIC in LD_CTRL (03 R84). -/
def execReplaceLogic (i : Fin 32) (s : State) : Res := writeCmd i 0x5004 b30 s
/-- GO in ON_CTRL (03 R80, R81). -/
def execOnCtrlGo (i : Fin 32) (n : Fin 32) (s : State) : Res := writeCmd i 0x5044 (b31 ||| toW n.val) s
/-- CANCEL in ON_CTRL (03 R82). -/
def execCancel (i : Fin 32) (s : State) : Res := writeCmd i 0x5044 b30 s

/-- CLR_COUNTS in CH_CTRL (04 R99). -/
def execChClrCounts (i : Fin 32) (s : State) : Res := writeCmd i 0x7004 b31 s
/-- TAKE in SNAP_CTRL (05 R145). -/
def execTake (i : Fin 32) (value : Word) (s : State) : Res := writeCmd i 0x8004 (value ||| b31) s
/-- REF_RESET in EST_CTRL with the session's PAGE kept (07 R192). -/
def execRefReset (i : Fin 32) (s : State) : Res := writeCmd i 0x9004 (b31 ||| toW s.host.sess[i].estPage) s
/-- GO in SEED_CTRL (07 R194). -/
def execSeedCtrlGo (i : Fin 32) (value : Word) (s : State) : Res := writeCmd i 0x9A00 (value ||| b31) s

/-- K_CMD (10 R252). -/
def execKCmd (i : Fin 32) (value : Word) (s : State) : Res := writeCmd i 0xB010 value s
/-- START of PRECHARGE (10 R255). -/
def execPrecharge (i : Fin 32) (j : Fin 8) (s : State) : Res := writeCmd i (0x2040 + 0x20 * j.val) (b31 ||| 0x01) s
/-- START of CLOSE_MAIN (10 R257). -/
def execCloseMain (i : Fin 32) (j : Fin 8) (s : State) : Res := writeCmd i (0x2040 + 0x20 * j.val) (b31 ||| 0x02) s
/-- ABORT of a job (R331). -/
def execJobAbort (i : Fin 32) (j : Fin 8) (s : State) : Res := writeCmd i (0x2040 + 0x20 * j.val) b30 s
/-- CLEAR of a job (R332). -/
def execJobClear (i : Fin 32) (j : Fin 8) (s : State) : Res := writeCmd i (0x2040 + 0x20 * j.val) b29 s

/-- FORCEf_SEL with ENABLE set (11 R289). -/
def execForceEnable (i : Fin 32) (f : Fin 32) (value : Word) (s : State) : Res :=
  writeCmd i (0xC100 + 8 * f.val) (value ||| b31) s
/-- FORCEf_SEL with ENABLE clear (11 R289). -/
def execForceClear (i : Fin 32) (f : Fin 32) (value : Word) (s : State) : Res :=
  writeCmd i (0xC100 + 8 * f.val) (value &&& 0x7FFFFFFF) s
/-- VAR_WR (11 R292). -/
def execVarWr (i : Fin 32) (value : Word) (s : State) : Res := writeCmd i 0xC018 value s
/-- CLR_COUNTS in LG_CTRL (11 R277). -/
def execLgClrCounts (i : Fin 32) (s : State) : Res := writeCmd i 0xC004 b31 s

/-- YIELD in PAIR_CTRL (12 R320). -/
def execYieldCmd (i : Fin 32) (s : State) : Res := writeCmd i 0xD084 b31 s
/-- RECLAIM in PAIR_CTRL (12 R320). -/
def execReclaim (i : Fin 32) (s : State) : Res := writeCmd i 0xD084 b30 s

/-- Host address of a queue's head. -/
def headAddr (q : QueueId) : Nat :=
  match q with
  | .q k => 0x4000 + 0x20 * k.val
  | .can c => 0xE010 + 0x400 * c.val

/-- Host address of a queue's control register. -/
def queueCtrlAddr (q : QueueId) : Nat :=
  match q with
  | .q k => 0x4008 + 0x20 * k.val
  | .can c => 0xE018 + 0x400 * c.val

/-- QDATA_READ (R337). -/
def execQdataRead (i : Fin 32) (q : QueueId) (s : State) : Res := .next (hostRead i (headAddr q) (fresh s))
/-- FLUSH (R338). -/
def execFlush (i : Fin 32) (q : QueueId) (s : State) : Res := writeCmd i (queueCtrlAddr q) b31 s
/-- CLAIM (R337). -/
def execClaim (i : Fin 32) (q : Fin 8) (s : State) : Res := writeCmd i (0x4008 + 0x20 * q.val) b30 s
/-- RELEASE in QqCTRL (R337). -/
def execQueueRelease (i : Fin 32) (q : Fin 8) (s : State) : Res := writeCmd i (0x4008 + 0x20 * q.val) b29 s

/-- Host address of TXBb_CMD. -/
def txbCmdAddr (c : Fin 2) (b : Fin 3) : Nat := 0xE108 + 0x400 * c.val + 0x60 * b.val
/-- REQ in TXBb_CMD (14 R348). -/
def execReq (i : Fin 32) (c : Fin 2) (b : Fin 3) (s : State) : Res := writeCmd i (txbCmdAddr c b) b31 s
/-- ABORT in TXBb_CMD (14 R349). -/
def execTxbAbort (i : Fin 32) (c : Fin 2) (b : Fin 3) (s : State) : Res := writeCmd i (txbCmdAddr c b) b30 s
/-- LOOP in CANc_CTRL (14 R351). -/
def execLoop (i : Fin 32) (c : Fin 2) (value : Word) (s : State) : Res := writeCmd i (0xE004 + 0x400 * c.val) value s
/-- CNT_CLR (14 R358). -/
def execCntClr (i : Fin 32) (value : Word) (s : State) : Res := writeCmd i 0xF004 value s

/-- WAKE_OUT_CLR in PW_CTRL with HOLD kept (15 R377). -/
def execWakeOutClr (i : Fin 32) (s : State) : Res := writeCmd i 0x10004 (b31 ||| toW (b2n s.pw.wakeHold)) s
/-- WAKE_OUT_HOLD in PW_CTRL (15 R377). -/
def execWakeOutHold (i : Fin 32) (hold : Bool) (s : State) : Res := writeCmd i 0x10004 (toW (b2n hold)) s

/-- A word of LC_CMD with a command code (15 Table 15-11). -/
def lcWord (code : Nat) (value : Word) : Word := (value &&& 0x00FFFFFF) ||| toW (code * 2 ^ 24)
/-- SHIP (15 R379). -/
def execShip (i : Fin 32) (value : Word) (s : State) : Res := writeCmd i 0x10044 (lcWord 1 value) s
/-- PROVISION. -/
def execProvision (i : Fin 32) (value : Word) (s : State) : Res := writeCmd i 0x10044 (lcWord 2 value) s
/-- ADD_KEY. -/
def execAddKey (i : Fin 32) (value : Word) (s : State) : Res := writeCmd i 0x10044 (lcWord 3 value) s
/-- REVOKE. -/
def execRevoke (i : Fin 32) (value : Word) (s : State) : Res := writeCmd i 0x10044 (lcWord 4 value) s
/-- RETURN. -/
def execReturnCmd (i : Fin 32) (value : Word) (s : State) : Res := writeCmd i 0x10044 (lcWord 5 value) s
/-- SCRAP. -/
def execScrap (i : Fin 32) (value : Word) (s : State) : Res := writeCmd i 0x10044 (lcWord 6 value) s

/-- FREEZE in RC_CTRL (16 R388). -/
def execFreeze (i : Fin 32) (s : State) : Res := writeCmd i 0x11004 b31 s
/-- UNFREEZE (16 R388). -/
def execUnfreeze (i : Fin 32) (s : State) : Res := writeCmd i 0x11004 b30 s
/-- START of CLEAR_RECORDS (16 R390). -/
def execClearRecords (i : Fin 32) (j : Fin 8) (s : State) : Res := writeCmd i (0x2040 + 0x20 * j.val) (b31 ||| 0x10) s
/-- RELEASE in CROWN_CTRL (16 R392). -/
def execCrownRelease (i : Fin 32) (value : Word) (s : State) : Res := writeCmd i 0x11030 (value ||| b31) s
/-- LOCK in CROWN_CTRL (16 R392). -/
def execLock (i : Fin 32) (s : State) : Res := writeCmd i 0x11030 b30 s
/-- A manifest piece through UP_CMD (16 R395). -/
def execManifestPiece (i : Fin 32) (index : Nat) (s : State) : Res := writeCmd i 0x12004 (toW (2 ^ 28 + fld index 0 14)) s
/-- An image piece through UP_CMD (16 R396). -/
def execImagePiece (i : Fin 32) (index : Nat) (s : State) : Res := writeCmd i 0x12004 (toW (2 * 2 ^ 28 + fld index 0 14)) s
/-- CONFIRM through UP_CMD (16 R401). -/
def execConfirm (i : Fin 32) (s : State) : Res := writeCmd i 0x12004 (toW (3 * 2 ^ 28)) s
/-- START of DISCARD_SLOT (16 R398). -/
def execDiscardSlot (i : Fin 32) (j : Fin 8) (s : State) : Res := writeCmd i (0x2040 + 0x20 * j.val) (b31 ||| 0x11) s
/-- START of ACTIVATE (16 R399). -/
def execActivate (i : Fin 32) (j : Fin 8) (s : State) : Res := writeCmd i (0x2040 + 0x20 * j.val) (b31 ||| 0x12) s
/-- START with a reserved KIND (R330). -/
def execReservedKindStart (i : Fin 32) (j : Fin 8) (kind : Nat) (s : State) : Res :=
  writeCmd i (0x2040 + 0x20 * j.val) (b31 ||| toW (fld kind 0 8)) s

end Sys2Proof.Machine
end

