-- ==== Sys2Proof/Machine/Dispatch.lean ====
section
/-! DEFINITION. One arm per command: each calls its meaning. -/

namespace Sys2Proof.Machine

/-- The effect of a command on everything but the queue. -/
def exec (i : Instr) (s : State) : Host.Outcome State Fault Refusal :=
  match i with
  | .hostWrite sess addr value => Sys2Proof.Machine.execHostWrite sess addr value s
  | .latchingRead sess addr => Sys2Proof.Machine.execLatchingRead sess addr s
  | .openReq r word => Sys2Proof.Machine.execOpenReq r word s
  | .closeReq r => Sys2Proof.Machine.execCloseReq r s
  | .read r count addr => Sys2Proof.Machine.execRead r count addr s
  | .write r count addr data => Sys2Proof.Machine.execWrite r count addr data s
  | .readFixed r count addr => Sys2Proof.Machine.execReadFixed r count addr s
  | .nop r => Sys2Proof.Machine.execNop r s
  | .sessionTimeout sess => Sys2Proof.Machine.execSessionTimeout sess s
  | .enterStorage sess => Sys2Proof.Machine.execEnterStorage sess s
  | .arm sess => Sys2Proof.Machine.execArm sess s
  | .run sess => Sys2Proof.Machine.execRun sess s
  | .stop sess => Sys2Proof.Machine.execStop sess s
  | .service sess => Sys2Proof.Machine.execService sess s
  | .watch sess => Sys2Proof.Machine.execWatch sess s
  | .resetCmd sess => Sys2Proof.Machine.execResetCmd sess s
  | .stateCmdJudge => Sys2Proof.Machine.execStateCmdJudge s
  | .wakeIn => Sys2Proof.Machine.execWakeIn s
  | .vsupReturn => Sys2Proof.Machine.execVsupReturn s
  | .powerFail vsupMv => Sys2Proof.Machine.execPowerFail vsupMv s
  | .restart => Sys2Proof.Machine.execRestart s
  | .internalWatchdog => Sys2Proof.Machine.execInternalWatchdog s
  | .vsupLow vsupMv => Sys2Proof.Machine.execVsupLow vsupMv s
  | .vsupHigh vsupMv => Sys2Proof.Machine.execVsupHigh vsupMv s
  | .vloadLow vloadMv => Sys2Proof.Machine.execVloadLow vloadMv s
  | .beatBoundary => Sys2Proof.Machine.execBeatBoundary s
  | .itemRelease item => Sys2Proof.Machine.execItemRelease item s
  | .itemComplete engine cycles => Sys2Proof.Machine.execItemComplete engine cycles s
  | .itemBudgetExpiry engine => Sys2Proof.Machine.execItemBudgetExpiry engine s
  | .itemDeadlineExpiry item cycles => Sys2Proof.Machine.execItemDeadlineExpiry item cycles s
  | .syncReceive domain port rawOffset gm => Sys2Proof.Machine.execSyncReceive domain port rawOffset gm s
  | .gptpAnnounceReceive domain port v => Sys2Proof.Machine.execGptpAnnounceReceive domain port v s
  | .syncSend domain port => Sys2Proof.Machine.execSyncSend domain port s
  | .pdelayExchange port meanNs => Sys2Proof.Machine.execPdelayExchange port meanNs s
  | .syncReceiptTimeout domain => Sys2Proof.Machine.execSyncReceiptTimeout domain s
  | .domainSwitch => Sys2Proof.Machine.execDomainSwitch s
  | .steer sess value => Sys2Proof.Machine.execSteer sess value s
  | .triggerArm sess k value => Sys2Proof.Machine.execTriggerArm sess k value s
  | .triggerFire k => Sys2Proof.Machine.execTriggerFire k s
  | .txTimestamp port id fabricNs => Sys2Proof.Machine.execTxTimestamp port id fabricNs s
  | .tsqPop sess port value => Sys2Proof.Machine.execTsqPop sess port value s
  | .probe sess value => Sys2Proof.Machine.execProbe sess value s
  | .engLoadClear sess e value => Sys2Proof.Machine.execEngLoadClear sess e value s
  | .ldData sess word => Sys2Proof.Machine.execLdData sess word s
  | .postReceptionChecksDone => Sys2Proof.Machine.execPostReceptionChecksDone s
  | .loadAccept => Sys2Proof.Machine.execLoadAccept s
  | .loadTimeout => Sys2Proof.Machine.execLoadTimeout s
  | .ldCtrlAbort sess => Sys2Proof.Machine.execLdCtrlAbort sess s
  | .replaceLogic sess => Sys2Proof.Machine.execReplaceLogic sess s
  | .replacementChecksDone => Sys2Proof.Machine.execReplacementChecksDone s
  | .onCtrlGo sess n => Sys2Proof.Machine.execOnCtrlGo sess n s
  | .cancel sess => Sys2Proof.Machine.execCancel sess s
  | .batchPending => Sys2Proof.Machine.execBatchPending s
  | .batchApply => Sys2Proof.Machine.execBatchApply s
  | .constantApply task => Sys2Proof.Machine.execConstantApply task s
  | .beatFrame => Sys2Proof.Machine.execBeatFrame s
  | .passThroughCheck line seen => Sys2Proof.Machine.execPassThroughCheck line seen s
  | .lineReturnWhole line => Sys2Proof.Machine.execLineReturnWhole line s
  | .enumReset line => Sys2Proof.Machine.execEnumReset line s
  | .enumAssign line => Sys2Proof.Machine.execEnumAssign line s
  | .enumLineEnd line => Sys2Proof.Machine.execEnumLineEnd line s
  | .reassign line addr => Sys2Proof.Machine.execReassign line addr s
  | .readId node => Sys2Proof.Machine.execReadId node s
  | .setDelay node => Sys2Proof.Machine.execSetDelay node s
  | .setTapPlan node => Sys2Proof.Machine.execSetTapPlan node s
  | .measSense node => Sys2Proof.Machine.execMeasSense node s
  | .readSense node => Sys2Proof.Machine.execReadSense node s
  | .chime node pos bin ampl cycles start => Sys2Proof.Machine.execChime node pos bin ampl cycles start s
  | .lockinStart node bins posMask start => Sys2Proof.Machine.execLockinStart node bins posMask start s
  | .lockinRead node pos bin => Sys2Proof.Machine.execLockinRead node pos bin s
  | .stimStop line => Sys2Proof.Machine.execStimStop line s
  | .readDiag node => Sys2Proof.Machine.execReadDiag node s
  | .clearDiag node => Sys2Proof.Machine.execClearDiag node s
  | .sleep line => Sys2Proof.Machine.execSleep line s
  | .probeFrame => Sys2Proof.Machine.execProbeFrame s
  | .echo h payload rttNs => Sys2Proof.Machine.execEcho h payload rttNs s
  | .result h b => Sys2Proof.Machine.execResult h b s
  | .aux h b => Sys2Proof.Machine.execAux h b s
  | .reply h op status d => Sys2Proof.Machine.execReply h op status d s
  | .announce h uid nodeType proto => Sys2Proof.Machine.execAnnounce h uid nodeType proto s
  | .armResult => Sys2Proof.Machine.execArmResult s
  | .chainCommit => Sys2Proof.Machine.execChainCommit s
  | .nodeBeatReceive line hop f => Sys2Proof.Machine.execNodeBeatReceive line hop f s
  | .nodeSample line hop marks vpos temps taps => Sys2Proof.Machine.execNodeSample line hop marks vpos temps taps s
  | .nodeResultSend line hop => Sys2Proof.Machine.execNodeResultSend line hop s
  | .nodeAuxSend line hop => Sys2Proof.Machine.execNodeAuxSend line hop s
  | .nodeClaimRelease line hop => Sys2Proof.Machine.execNodeClaimRelease line hop s
  | .nodeStimulusFallback line hop => Sys2Proof.Machine.execNodeStimulusFallback line hop s
  | .nodeSleep line hop => Sys2Proof.Machine.execNodeSleep line hop s
  | .nodeWake line hop => Sys2Proof.Machine.execNodeWake line hop s
  | .nodeAnnounceSend line hop => Sys2Proof.Machine.execNodeAnnounceSend line hop s
  | .streamSample k shuntPv vStr vLnk => Sys2Proof.Machine.execStreamSample k shuntPv vStr vLnk s
  | .alignedSample => Sys2Proof.Machine.execAlignedSample s
  | .chargeCommit => Sys2Proof.Machine.execChargeCommit s
  | .gainCheck devStr devLnk => Sys2Proof.Machine.execGainCheck devStr devLnk s
  | .insulationCycleStart => Sys2Proof.Machine.execInsulationCycleStart s
  | .insulationPhaseSettled v => Sys2Proof.Machine.execInsulationPhaseSettled v s
  | .insulationPhaseTimeout => Sys2Proof.Machine.execInsulationPhaseTimeout s
  | .insResult h rPos rNeg endBeat => Sys2Proof.Machine.execInsResult h rPos rNeg endBeat s
  | .accordEvaluation => Sys2Proof.Machine.execAccordEvaluation s
  | .take sess value => Sys2Proof.Machine.execTake sess value s
  | .snapshotCapture => Sys2Proof.Machine.execSnapshotCapture s
  | .windowEnd bin => Sys2Proof.Machine.execWindowEnd bin s
  | .chimeRoundStart => Sys2Proof.Machine.execChimeRoundStart s
  | .burstEnd pos => Sys2Proof.Machine.execBurstEnd pos s
  | .lockinCampaignStart => Sys2Proof.Machine.execLockinCampaignStart s
  | .lockinCampaignEnd => Sys2Proof.Machine.execLockinCampaignEnd s
  | .requestDwellStart => Sys2Proof.Machine.execRequestDwellStart s
  | .spectrumCapture => Sys2Proof.Machine.execSpectrumCapture s
  | .slotComplete => Sys2Proof.Machine.execSlotComplete s
  | .derivedUpdate => Sys2Proof.Machine.execDerivedUpdate s
  | .filterStep pos => Sys2Proof.Machine.execFilterStep pos s
  | .secondJudgement => Sys2Proof.Machine.execSecondJudgement s
  | .anchorHour => Sys2Proof.Machine.execAnchorHour s
  | .warningEvaluation => Sys2Proof.Machine.execWarningEvaluation s
  | .refReset sess => Sys2Proof.Machine.execRefReset sess s
  | .seedCtrlGo sess value => Sys2Proof.Machine.execSeedCtrlGo sess value s
  | .cellRoundUpdate => Sys2Proof.Machine.execCellRoundUpdate s
  | .roundEffect => Sys2Proof.Machine.execRoundEffect s
  | .thermalJudgement dieT => Sys2Proof.Machine.execThermalJudgement dieT s
  | .loopSnapshot id => Sys2Proof.Machine.execLoopSnapshot id s
  | .loopPeriodEnd id => Sys2Proof.Machine.execLoopPeriodEnd id s
  | .limitPublication => Sys2Proof.Machine.execLimitPublication s
  | .balancePlan => Sys2Proof.Machine.execBalancePlan s
  | .channelAEvaluation hsMa => Sys2Proof.Machine.execChannelAEvaluation hsMa s
  | .crcRecheck => Sys2Proof.Machine.execCrcRecheck s
  | .selfTest passed => Sys2Proof.Machine.execSelfTest passed s
  | .requestApplication => Sys2Proof.Machine.execRequestApplication s
  | .toggleEdge intervalUs lsMa => Sys2Proof.Machine.execToggleEdge intervalUs lsMa s
  | .toggleMissing => Sys2Proof.Machine.execToggleMissing s
  | .aliveAdvance => Sys2Proof.Machine.execAliveAdvance s
  | .latchA => Sys2Proof.Machine.execLatchA s
  | .latchB => Sys2Proof.Machine.execLatchB s
  | .overcurrentOnset => Sys2Proof.Machine.execOvercurrentOnset s
  | .fastOc => Sys2Proof.Machine.execFastOc s
  | .safetyInputChange i0 pinB level => Sys2Proof.Machine.execSafetyInputChange i0 pinB level s
  | .pinFollow i0 channelB => Sys2Proof.Machine.execPinFollow i0 channelB s
  | .testPulse tp lowReads => Sys2Proof.Machine.execTestPulse tp lowReads s
  | .offPulseTest k => Sys2Proof.Machine.execOffPulseTest k s
  | .offPulseEnd k maxMa => Sys2Proof.Machine.execOffPulseEnd k maxMa s
  | .kCmd sess value => Sys2Proof.Machine.execKCmd sess value s
  | .precharge sess j => Sys2Proof.Machine.execPrecharge sess j s
  | .prechargeCommit => Sys2Proof.Machine.execPrechargeCommit s
  | .prechargeEnd => Sys2Proof.Machine.execPrechargeEnd s
  | .prechargeTimeout => Sys2Proof.Machine.execPrechargeTimeout s
  | .closeMain sess j => Sys2Proof.Machine.execCloseMain sess j s
  | .jobAbort sess j => Sys2Proof.Machine.execJobAbort sess j s
  | .jobClear sess j => Sys2Proof.Machine.execJobClear sess j s
  | .inputPhase => Sys2Proof.Machine.execInputPhase s
  | .taskRun t cycles => Sys2Proof.Machine.execTaskRun t cycles s
  | .taskOverrun t => Sys2Proof.Machine.execTaskOverrun t s
  | .outputPhase => Sys2Proof.Machine.execOutputPhase s
  | .station h dir n sflags words => Sys2Proof.Machine.execStation h dir n sflags words s
  | .stationLost i0 => Sys2Proof.Machine.execStationLost i0 s
  | .forceEnable sess f value => Sys2Proof.Machine.execForceEnable sess f value s
  | .forceClear sess f value => Sys2Proof.Machine.execForceClear sess f value s
  | .varWr sess value => Sys2Proof.Machine.execVarWr sess value s
  | .lgClrCounts sess => Sys2Proof.Machine.execLgClrCounts sess s
  | .chClrCounts sess => Sys2Proof.Machine.execChClrCounts sess s
  | .hsrFrameReceive h => Sys2Proof.Machine.execHsrFrameReceive h s
  | .supervisionFrame backP0 backP1 => Sys2Proof.Machine.execSupervisionFrame backP0 backP1 s
  | .discover rx => Sys2Proof.Machine.execDiscover rx s
  | .addrClaim rx => Sys2Proof.Machine.execAddrClaim rx s
  | .addressTaken => Sys2Proof.Machine.execAddressTaken s
  | .bankState rx => Sys2Proof.Machine.execBankState rx s
  | .bankComputation => Sys2Proof.Machine.execBankComputation s
  | .resultFwd h node seq tick b => Sys2Proof.Machine.execResultFwd h node seq tick b s
  | .auxFwd h node seq tick b => Sys2Proof.Machine.execAuxFwd h node seq tick b s
  | .front rx => Sys2Proof.Machine.execFront rx s
  | .streamX rx => Sys2Proof.Machine.execStreamX rx s
  | .plan rx => Sys2Proof.Machine.execPlan rx s
  | .delays rx => Sys2Proof.Machine.execDelays rx s
  | .status rx => Sys2Proof.Machine.execStatus rx s
  | .pairLost => Sys2Proof.Machine.execPairLost s
  | .yieldCmd sess => Sys2Proof.Machine.execYieldCmd sess s
  | .reclaim sess => Sys2Proof.Machine.execReclaim sess s
  | .publish => Sys2Proof.Machine.execPublish s
  | .streamItem q => Sys2Proof.Machine.execStreamItem q s
  | .queueItemCommit q ecc => Sys2Proof.Machine.execQueueItemCommit q ecc s
  | .qdataRead sess q => Sys2Proof.Machine.execQdataRead sess q s
  | .flush sess q => Sys2Proof.Machine.execFlush sess q s
  | .claim sess q => Sys2Proof.Machine.execClaim sess q s
  | .queueRelease sess q => Sys2Proof.Machine.execQueueRelease sess q s
  | .req sess c b => Sys2Proof.Machine.execReq sess c b s
  | .txbAbort sess c b => Sys2Proof.Machine.execTxbAbort sess c b s
  | .canFrameSent c => Sys2Proof.Machine.execCanFrameSent c s
  | .canAckError c => Sys2Proof.Machine.execCanAckError c s
  | .canFrameReceived c f => Sys2Proof.Machine.execCanFrameReceived c f s
  | .loop sess c value => Sys2Proof.Machine.execLoop sess c value s
  | .busOffRecovery c => Sys2Proof.Machine.execBusOffRecovery c s
  | .publicationDue c i0 => Sys2Proof.Machine.execPublicationDue c i0 s
  | .txb1Load c => Sys2Proof.Machine.execTxb1Load c s
  | .inputFilterChange k level => Sys2Proof.Machine.execInputFilterChange k level s
  | .counterEdge k => Sys2Proof.Machine.execCounterEdge k s
  | .cntClr sess value => Sys2Proof.Machine.execCntClr sess value s
  | .overload k => Sys2Proof.Machine.execOverload k s
  | .overtemp k tempC => Sys2Proof.Machine.execOvertemp k tempC s
  | .readback k => Sys2Proof.Machine.execReadback k s
  | .openWire k => Sys2Proof.Machine.execOpenWire k s
  | .silenceExpiry => Sys2Proof.Machine.execSilenceExpiry s
  | .thConversion raw => Sys2Proof.Machine.execThConversion raw s
  | .watchCheckStart => Sys2Proof.Machine.execWatchCheckStart s
  | .watchCheckBeat d => Sys2Proof.Machine.execWatchCheckBeat d s
  | .watchCheckEnd => Sys2Proof.Machine.execWatchCheckEnd s
  | .wakeOutClr sess => Sys2Proof.Machine.execWakeOutClr sess s
  | .wakeOutHold sess hold => Sys2Proof.Machine.execWakeOutHold sess hold s
  | .ship sess value => Sys2Proof.Machine.execShip sess value s
  | .provision sess value => Sys2Proof.Machine.execProvision sess value s
  | .addKey sess value => Sys2Proof.Machine.execAddKey sess value s
  | .revoke sess value => Sys2Proof.Machine.execRevoke sess value s
  | .returnCmd sess value => Sys2Proof.Machine.execReturnCmd sess value s
  | .scrap sess value => Sys2Proof.Machine.execScrap sess value s
  | .recorderCommit => Sys2Proof.Machine.execRecorderCommit s
  | .journalCommit => Sys2Proof.Machine.execJournalCommit s
  | .freeze sess => Sys2Proof.Machine.execFreeze sess s
  | .unfreeze sess => Sys2Proof.Machine.execUnfreeze sess s
  | .freezeTimeout => Sys2Proof.Machine.execFreezeTimeout s
  | .clearRecords sess j => Sys2Proof.Machine.execClearRecords sess j s
  | .clearRecordsDone => Sys2Proof.Machine.execClearRecordsDone s
  | .crownRelease sess value => Sys2Proof.Machine.execCrownRelease sess value s
  | .lock sess => Sys2Proof.Machine.execLock sess s
  | .manifestPiece sess index => Sys2Proof.Machine.execManifestPiece sess index s
  | .manifestVerifyDone => Sys2Proof.Machine.execManifestVerifyDone s
  | .imagePiece sess index => Sys2Proof.Machine.execImagePiece sess index s
  | .pieceJudged sess => Sys2Proof.Machine.execPieceJudged sess s
  | .imageHashCheckDone => Sys2Proof.Machine.execImageHashCheckDone s
  | .confirm sess => Sys2Proof.Machine.execConfirm sess s
  | .discardSlot sess j => Sys2Proof.Machine.execDiscardSlot sess j s
  | .discardDone => Sys2Proof.Machine.execDiscardDone s
  | .activate sess j => Sys2Proof.Machine.execActivate sess j s
  | .trialExpiry => Sys2Proof.Machine.execTrialExpiry s
  | .trialFallback => Sys2Proof.Machine.execTrialFallback s
  | .portLinkChange p up => Sys2Proof.Machine.execPortLinkChange p up s
  | .nodeReset line hop ident => Sys2Proof.Machine.execNodeReset line hop ident s
  | .probeLost line => Sys2Proof.Machine.execProbeLost line s
  | .overcurrentEnd => Sys2Proof.Machine.execOvercurrentEnd s
  | .canBusError c transmitting => Sys2Proof.Machine.execCanBusError c transmitting s
  | .canArbitrationLost c => Sys2Proof.Machine.execCanArbitrationLost c s
  | .readbackClear k => Sys2Proof.Machine.execReadbackClear k s
  | .openWireClear k => Sys2Proof.Machine.execOpenWireClear k s
  | .reserveLow low => Sys2Proof.Machine.execReserveLow low s
  | .opSec => Sys2Proof.Machine.execOpSec s
  | .reservedOpRequest r op => Sys2Proof.Machine.execReservedOpRequest r op s
  | .reservedKindStart sess j kind => Sys2Proof.Machine.execReservedKindStart sess j kind s

end Sys2Proof.Machine
end

