-- ==== Sys2Proof/Safety.lean ====
section
/-! DEFINITION. The terms claims use: a command that is carried out, a session that may access the module, the responses
put out, and what counts as a safe state: when contactor switches may be on and when a limit may be published. -/

namespace Sys2Proof

open Sys2Proof.Machine

/-- Command c is carried out in s, and P holds of the state it leaves. -/
def Does (c : Instr) (s : State) (P : State → Prop) : Prop := ∃ t, exec c s = .next t ∧ P t

/-- Session i may access the module: the module is awake, the session is open and no request of it waits (13 R322 to
R326). -/
def MayAccess (i : Fin 32) (s : State) : Prop :=
  awake s = true ∧ s.host.sess[i].isOpen = true ∧ s.host.sess[i].outstanding = false

/-- The same for a write outside SAFE. -/
def MayWrite (i : Fin 32) (s : State) : Prop := MayAccess i s ∧ s.st.mode ≠ .safe

/-- A request that the module carries out for session i: it is admitted, names the session of its source, no request waits,
and its TAG is not that of the last one answered (13 R322 to R327). -/
def Accepted (r : Req) (i : Fin 32) (s : State) : Prop :=
  awake s = true ∧ (heard r (fresh s)).1 = true ∧ sessionOf r s = some i ∧ s.host.sess[i].outstanding = false ∧
  ∀ p, s.host.sess[i].lastTag = some p → p.1 ≠ r.tag

/-- The responses that the newest command put out. -/
def said (s : State) : List Rsp := s.sent.filterMap (fun e => match e with
  | .rsp r => some r
  | _ => none)

/-- Some switch of contactor k is on. -/
def kOn (s : State) (k : Nat) : Bool := (getNat s.saf.k k).hs || (getNat s.saf.k k).ls

/-- Every switch of every contactor is off. -/
def allOff (s : State) : Bool := (List.range 4).all (fun k => !kOn s k)

/-- An output is a REPLY frame of a node on line l (04 Table 04-3). -/
def IsReply (l : Nat) (e : Emit) : Prop := ∃ hop d ns f, e = .node l hop d ns f ∧ f.typ = 6

/-- One CMD frame leaves on line l for an address, by end d, with this module's claim, this OP and these arguments, under the
next SEQ, and after it at most REPLY frames of nodes of that line; the state, the safety functions and the calibre stay as
they are (04 R87, R98, Tables 04-2, 04-8). -/
def SentCmd (l : Nat) (d : End) (addr op : Nat) (args : List Nat) (s t : State) : Prop :=
  (∃ r, t.sent = .chain l d (mkFrame 2 addr (ownClaim s) s.chain.cmdSeq
      (leB 1 op ++ leB 1 (nextSlot l s) ++ leB 2 0 ++ args.map (fun n => BitVec.ofNat 8 n))) :: r ∧ ∀ e ∈ r, IsReply l e) ∧
  t.chain.cmdSeq = (s.chain.cmdSeq + 1) % 65536 ∧
  t.chain.cmdsOut = s.chain.cmdsOut ++
    [{ seq := s.chain.cmdSeq, line := l, addr := addr, op := op, args := args, done := false }] ∧
  t.st = s.st ∧ t.saf = s.saf ∧ t.cal = s.cal

/-- A cause has latched in a channel: it stands among the latched ones, the channel's switches are off, and a module that
was in ARMED, RUN, STOP or SERVICE is in SAFE with every published limit zero (10 R235, R269; 01 R24, Table 01-4). -/
def LatchedNow (ch : Chan) (c : Cause) (s t : State) : Prop :=
  (ch, c) ∈ t.saf.latched ∧
  (ch = .a → t.saf.latchA = true ∧ ∀ k < 4, (getNat t.saf.k k).hs = false) ∧
  (ch = .b → t.saf.latchB = true ∧ ∀ k < 4, (getNat t.saf.k k).ls = false) ∧
  ((s.st.mode = .armed ∨ s.st.mode = .run ∨ s.st.mode = .stop ∨ s.st.mode = .service) →
    t.st.mode = .safe ∧ t.lim.lim = Vector.replicate 8 0)

/-- A fabric frame of one kind, with the payload length that its kind lays down, reaches its block: the module is awake, and
R297 to R299 let the frame through to it. -/
def Taken (h : FabHdr) (kind len : Nat) (s : State) : Prop :=
  awake s = true ∧ h.kind = kind ∧ h.len = len ∧ (fabIn true h (fresh s)).1 = true

/-- A frame of the partner reaches the partner block: R311 to R316 take frames from the partner's address only. -/
def FromPartner (h : FabHdr) (len : Nat) (s : State) : Prop :=
  Taken h 6 len s ∧ inPair s = true ∧ s.st.mode.fromLoaded = true ∧ h.src = partnerAddr s

/-- One payload frame of a KIND leaves with a payload, under the next SEQ of its KIND, unless R302 has silenced the module
and the KIND is one that falls silent; the state and the safety functions stay as they are (12 Table 12-2). -/
def SentFab (kind dst ports : Nat) (payload : List Byte) (s t : State) : Prop :=
  t.sent = (if s.fab.silenced && kind != 1 && kind != 4 then [] else
    [.fabric none kind (ownAddr s) dst (ownString s) (if (fabCfg s).role = 1 then (fabCfg s).claim else 0)
      (getNat s.fab.seq kind) s.time.beat none ports payload]) ∧
  t.fab.seq = updNat s.fab.seq kind (fun x => (x + 1) % 2 ^ 32) ∧ t.st = s.st ∧ t.saf = s.saf ∧ t.lim = s.lim

/-! ### What every step keeps -/

/-- Every published limit is zero outside RUN (01 R24). -/
def LimitsOnlyInRun (s : State) : Prop := s.st.mode ≠ .run → s.lim.lim = Vector.replicate 8 0

/-- Channel A holds a contactor open: HS is off, nothing is asked of channel B, and a pulse that runs will not turn a switch
on again at its end. -/
def HeldByA (c : Contactor) : Prop := c.hs = false ∧ c.closeReq = false ∧ (c.pulse = none ∨ c.pulseOpened = true)

/-- Channel B holds a contactor open: LS is off, and a pulse that runs will not turn a switch on again at its end. -/
def HeldByB (c : Contactor) : Prop := c.ls = false ∧ (c.pulse = none ∨ c.pulseOpened = true)

/-- Contactors are held open (01 R25, Tables 01-3 and 01-4; 10 R235): a latched channel holds all its switches off, in SAFE a
channel has latched, and outside RUN and SAFE both channels hold every contactor open. -/
def ContactorsHeld (s : State) : Prop :=
  (s.saf.latchA = true → ∀ k < 4, HeldByA (getNat s.saf.k k)) ∧
  (s.saf.latchB = true → ∀ k < 4, HeldByB (getNat s.saf.k k)) ∧
  (s.st.mode = .safe → s.saf.latchA = true ∨ s.saf.latchB = true) ∧
  (s.st.mode ≠ .run → s.st.mode ≠ .safe → ∀ k < 4, HeldByA (getNat s.saf.k k) ∧ HeldByB (getNat s.saf.k k))

/-- The transitions of Table 01-4; every state reaches BLANK, by T1, T5, T13 or T14. -/
def tableMove : Mode → Mode → Bool
  | _, .blank => true
  | .blank, .storage | .loaded, .storage => true
  | .blank, .loading => true
  | .loading, .loaded => true
  | .loaded, .armed => true
  | .armed, .run | .stop, .run => true
  | .run, .stop | .armed, .stop | .service, .stop => true
  | .stop, .service => true
  | .armed, .safe | .run, .safe | .stop, .safe | .service, .safe => true
  | .run, .watch | .loaded, .watch => true
  | _, _ => false

/-- What a command makes of the state: it stays, or one transition of the table is made; the commands that wait for one beat
boundary are judged one after the other (01 R22), so that between ARMED, RUN, STOP and SERVICE, and on to WATCH, two or more
transitions may follow each other there. -/
def Moves (c : Instr) (m n : Mode) : Prop :=
  n = m ∨ tableMove m n = true ∨
  (c = .stateCmdJudge ∧ ((m = .armed ∧ n = .service) ∨ (m = .run ∧ n = .service) ∨ (m = .service ∧ n = .run) ∨
    ((m = .armed ∨ m = .stop ∨ m = .service) ∧ n = .watch)))

/-- A state command's code names a transition from a state (Table 01-4). -/
def namesMove : Nat → Mode → Bool
  | 1, m => m == .blank || m == .loaded
  | 2, m => m == .loaded
  | 3, m => m == .armed || m == .stop
  | 4, m => m == .run || m == .armed || m == .service
  | 5, m => m == .stop
  | 6, m => m == .loaded || m == .run
  | 7, _ => true
  | _, _ => false

end Sys2Proof
end

