-- ==== Sys2Proof/Certificates/Slice0/Obligations.lean ====
section
/-! DEFINITION. The statements for the provers, one per rule group of the spec; each docstring names the rules it follows. -/

open Sys2Proof Sys2Proof.Machine

/-- A step carries out the command at the front of the queue, with the rest of the queue behind it; on an empty queue the
block idles (the model's choice, log 1). -/
def Obligations.StepRunsFront : Prop :=
  (∀ (c : Instr) (rest : List Instr) (s : State),
    step { s with pending := c :: rest } = exec c { s with pending := rest }) ∧
  (∀ s : State, s.pending = [] → step s = .next s)

/-- Every command is carried out from every state and leaves the queue alone, and every step takes exactly the front of
the queue: nothing that the table lists stops the machine. -/
def Obligations.EveryStep : Prop :=
  (∀ (c : Instr) (s : State), ∃ t, exec c s = .next t ∧ t.pending = s.pending) ∧
  (∀ s : State, ∃ t, step s = .next t ∧ t.pending = s.pending.tail)

/-- What reset leaves, of the values that the spec gives: BLANK, no calibre, fabric time 0 in FREE, no trigger armed, no
session open, no state command and no job, every stream queue empty, no contactor switch on and no channel latched, no
limit published; and what every step keeps holds there. -/
def Obligations.ResetState : Prop :=
  State.reset.st.mode = .blank ∧ State.reset.cal = none ∧ fabNs State.reset = 0 ∧ State.reset.time.syncState = .free ∧
  (∀ k : Fin 4, State.reset.time.trg[k].arm = false) ∧ (∀ i : Fin 32, State.reset.host.sess[i].isOpen = false) ∧
  State.reset.host.cmds = [] ∧ (∀ j : Fin 8, State.reset.host.jobs[j].st = .idle) ∧
  (∀ q : Fin 8, State.reset.host.queues[q].words = [] ∧ State.reset.host.queues[q].claim = none) ∧
  allOff State.reset = true ∧ State.reset.saf.latchA = false ∧ State.reset.saf.latchB = false ∧
  (∀ k : Fin 8, State.reset.lim.lim[k] = 0) ∧ LimitsOnlyInRun State.reset ∧ ContactorsHeld State.reset

/-- In every state except RUN every published current limit is zero, in both directions and for all four horizons: every
step keeps it (01 R24). -/
def Obligations.LimitsZeroOutsideRun : Prop :=
  ∀ s t : State, LimitsOnlyInRun s → step s = .next t → LimitsOnlyInRun t

/-- In BLANK, LOADING and LOADED both channels hold every contactor switch open, and so in every other state but RUN and
SAFE; in SAFE a latched channel holds its switches off: every step keeps it (01 R25). -/
def Obligations.ContactorsStayOpen : Prop :=
  ∀ s t : State, ContactorsHeld s → step s = .next t → ContactorsHeld t ∧
    (t.st.mode = .blank ∨ t.st.mode = .loading ∨ t.st.mode = .loaded → ∀ k < 4,
      (getNat t.saf.k k).hs = false ∧ (getNat t.saf.k k).ls = false)

/-- The module enters no state except by a transition of Table 01-4, so that SAFE is left for BLANK only; and a state
command that names no transition from the present state is refused with a state error and leaves the state as it is
(01 R20). -/
def Obligations.OnlyTableTransitions : Prop :=
  (∀ (c : Instr) (rest : List Instr) (s t : State), s.pending = c :: rest → step s = .next t → Moves c s.st.mode t.st.mode) ∧
  (∀ (i : Fin 32) (n b : Nat) (s : State), awake s = true → tickOf s = 0 → b ≠ s.time.beat → 1 ≤ n → n ≤ 7 →
    s.host.sess[i].isOpen = true → s.host.cmds = [{ sess := i, req := none, code := n, beat := b }] →
    namesMove n s.st.mode = false → Does .stateCmdJudge s (fun t => t.st = s.st ∧ t.saf = s.saf ∧ t.cal = s.cal ∧
      t.host.sess[i].cmdResult = 4 ∧ t.host.sess[i].outstanding = false ∧ ∃ r ∈ said t, r.code = .state))

/-- OPEN takes a closed session for the request's source and leaves every other session as it is; CLOSE leaves its session
closed; an accepted NOP answers OK, or FORMAT where its COUNT or its length is wrong, and a reserved OP draws FORMAT,
and each starts the idle time again and changes neither the state, nor the safety functions, nor the calibre (13 R322,
R323, Table 13-4). A session that has been idle for 10 000 beats closes, and TIMEOUT_SEEN is set; the other sessions
stay as they are but for what the close itself ends (13 R323). -/
def Obligations.Sessions : Prop :=
  ((∀ (r : Req) (w : Word) (s : State), awake s = true → (heard r (fresh s)).1 = true → plainOk r true = true →
     closedSessions s ≠ [] →
     Does (.openReq r w) s (fun t => ∃ i : Fin 32, s.host.sess[i].isOpen = false ∧ t.host.sess[i].isOpen = true ∧
       t.host.sess[i].source = r.source ∧ (∀ j : Fin 32, j ≠ i → t.host.sess[j] = s.host.sess[j]) ∧
       t.st = s.st ∧ t.saf = s.saf ∧ t.cal = s.cal)) ∧
   (∀ (r : Req) (i : Fin 32) (s : State), Accepted r i s → plainOk r false = true →
     Does (.closeReq r) s (fun t => t.host.sess[i].isOpen = false ∧ t.host.sess[i].latches = [] ∧
       t.host.sess[i].crown = false)) ∧
   (∀ (r : Req) (i : Fin 32) (s : State), Accepted r i s →
     Does (.nop r) s (fun t => t.host.sess[i].idle = 0 ∧
       (∃ p, t.host.sess[i].lastTag = some (r.tag, p) ∧ p.code = if plainOk r false then .ok else .format) ∧
       t.st = s.st ∧ t.saf = s.saf ∧ t.cal = s.cal)) ∧
   (∀ (r : Req) (op : Nat) (i : Fin 32) (s : State), Accepted r i s →
     Does (.reservedOpRequest r op) s (fun t => t.host.sess[i].idle = 0 ∧
       (∃ p, t.host.sess[i].lastTag = some (r.tag, p) ∧ p.code = .format) ∧ t.st = s.st ∧ t.saf = s.saf ∧ t.cal = s.cal))) ∧
  (∀ (i : Fin 32) (s : State), awake s = true → s.host.sess[i].isOpen = true → 10000 ≤ s.host.sess[i].idle →
     Does (.sessionTimeout i) s (fun t => t.host.sess[i].isOpen = false ∧ t.host.timeoutSeen = true ∧
       ∀ j : Fin 32, j ≠ i → t.host.sess[j].isOpen = s.host.sess[j].isOpen))

/-- An accepted READ and READ_FIXED answer with as many words as were read before the first error, and store the response
with their TAG; one whose COUNT or length is wrong draws FORMAT and reads nothing; a READ_FIXED at the head of a
readable queue takes its words from the front, in order (13 R324, R325, R337). An accepted WRITE writes its words in
rising address order up to the first that draws an error; unless a state command among them makes the response wait,
it answers with the code and the count of the words that took effect (13 R325). -/
def Obligations.AccessRequests : Prop :=
  ((∀ (r : Req) (n : Nat) (a : Word) (i : Fin 32) (s : State), Accepted r i s → sizeOk r n false = true →
     Does (.read r n a) s (fun t => t.host.sess[i].idle = 0 ∧ ∃ p, t.host.sess[i].lastTag = some (r.tag, p) ∧
       p ∈ said t ∧ p.op = 3 ∧ p.done = p.data.length ∧ p.data.length ≤ n ∧
       (p.code = .ok → p.data.length = n) ∧
       (headAt a.toNat = none → a.toNat % 4 = 0 → (blockOf a.toNat).isSome = true →
         p.data.head? = some (sessionRead i a.toNat
           (modSess i (fun x => { x with idle := 0 }) (atNs r.atNs (heard r (fresh s)).2)))))) ∧
   (∀ (r : Req) (n : Nat) (a : Word) (i : Fin 32) (q : Fin 8) (s : State), Accepted r i s → sizeOk r n false = true →
     a.toNat = 0x4000 + 0x20 * q.val → s.host.queues[q].readable i = true →
     n ≤ s.host.queues[q].words.length →
     Does (.readFixed r n a) s (fun t => t.host.queues[q].words = s.host.queues[q].words.drop n ∧
       ∃ p, t.host.sess[i].lastTag = some (r.tag, p) ∧ p.code = .ok ∧ p.data = s.host.queues[q].words.take n)) ∧
   (∀ (r : Req) (n : Nat) (a : Word) (i : Fin 32) (s : State), Accepted r i s → sizeOk r n false = false →
     let refused := fun (c : Instr) => Does c s (fun t => t.host.queues = s.host.queues ∧
       ∃ p, t.host.sess[i].lastTag = some (r.tag, p) ∧ p.code = .format ∧ p.data = [])
     refused (.read r n a) ∧ refused (.readFixed r n a))) ∧
  (∀ (r : Req) (n : Nat) (a : Word) (l : List Word) (i : Fin 32) (s : State), Accepted r i s → sizeOk r n true = true →
     n ≤ l.length →
     let x := writeAll i r n (l.take n) 0 a.toNat
       (modSess i (fun x => { x with idle := 0 }) (atNs r.atNs (heard r (fresh s)).2))
     (x.1 = .ok → x.2.2.1 = n) ∧ x.2.2.1 ≤ n ∧
     (x.2.2.2.host.sess[i].outstanding = false →
       Does (.write r n a l) s (fun t => t.st = x.2.2.2.st ∧ t.saf = x.2.2.2.saf ∧ t.cal = x.2.2.2.cal ∧
         ∃ p ∈ said t, p.op = 4 ∧ p.tag = r.tag ∧ p.code = x.1 ∧ p.done = x.2.2.1)))

/-- A single host access: unaligned it draws ALIGN, outside every block ADDRESS, and in SAFE a write that R21 does not
list draws ACCESS; none of these changes anything but the idle time. Otherwise a write does what its register does and
answers with its code, and a read answers with the word and takes the latches of a multi-word quantity (00 R8, R12, 01
R21). The words of a multi-word quantity that a read of its lowest word latches are those of the same moment, and a
later read of one of them gives that value, whatever has happened since (00 R12). -/
def Obligations.SingleAccess : Prop :=
  ((∀ (i : Fin 32) (a v : Word) (s : State), MayAccess i s →
     let b := modSess i (fun x => { x with idle := 0 }) (fresh s)
     (a.toNat % 4 ≠ 0 →
       exec (.hostWrite i a v) s = .next (put (.rsp (directRsp i 4 .align a.toNat [])) b) ∧
       exec (.latchingRead i a) s = .next (put (.rsp (directRsp i 3 .align a.toNat [])) b)) ∧
     (a.toNat % 4 = 0 → blockOf a.toNat = none →
       exec (.hostWrite i a v) s = .next (put (.rsp (directRsp i 4 .address a.toNat [])) b) ∧
       exec (.latchingRead i a) s = .next (put (.rsp (directRsp i 3 .address a.toNat [])) b)) ∧
     (a.toNat % 4 = 0 → (blockOf a.toNat).isSome = true → s.st.mode = .safe → safeOk a.toNat v s = false →
       exec (.hostWrite i a v) s = .next (put (.rsp (directRsp i 4 .access a.toNat [])) b)) ∧
     (∀ k o, a.toNat % 4 = 0 → blockOf a.toNat = some (k, o) → (s.st.mode = .safe → safeOk a.toNat v s = true) →
       let w := blockWrite i none k o (keepFresh a.toNat v b) b
       w.2.host.sess[i].outstanding = false →
       exec (.hostWrite i a v) s = .next (put (.rsp (directRsp i 4 w.1 a.toNat [])) w.2)) ∧
     (a.toNat % 4 = 0 → (blockOf a.toNat).isSome = true → headAt a.toNat = none →
       exec (.latchingRead i a) s =
         .next (put (.rsp (directRsp i 3 .ok a.toNat [sessionRead i a.toNat b])) (takeLatch i a.toNat b))))) ∧
  ((∀ (i : Fin 32) (a b : Nat) (s : State), b ∈ latchOf a →
     (b, regRead i b s) ∈ (takeLatch i a s).host.sess[i].latches ∧
     ∀ x, (b, x) ∈ (takeLatch i a s).host.sess[i].latches → x = regRead i b s) ∧
   (∀ (i : Fin 32) (b : Nat) (s u : State), u.host.sess[i].latches = s.host.sess[i].latches →
     (s.host.sess[i].latches.find? (fun p => p.1 == b)).isSome = true → sessionRead i b u = sessionRead i b s))

/-- A state command written to STATE_CMD waits: its session has a request outstanding, the command joins the end of those
that wait, nothing is answered yet, and the state stays (13 R326, R328; 01 R22). -/
def Obligations.StateCommandWaits : Prop :=
  ∀ (i : Fin 32) (s : State), MayAccess i s →
    let waits := fun (c : Instr) (n : Nat) => Does c s (fun t => t.host.sess[i].outstanding = true ∧
      t.host.sess[i].cmdCode = n ∧ said t = [] ∧ t.st = s.st ∧ t.saf = s.saf ∧
      t.host.cmds = s.host.cmds ++ [{ sess := i, req := none, code := n, beat := s.time.beat }])
    waits (.enterStorage i) 1 ∧ waits (.arm i) 2 ∧ waits (.run i) 3 ∧ waits (.stop i) 4 ∧ waits (.service i) 5 ∧
      waits (.watch i) 6 ∧ waits (.resetCmd i) 7

/-- One waiting command is judged at the beat boundary after it came, against Table 01-4: each transition of the table
that a host command starts leads to its state, and what the table does not name leaves the state alone and draws STATE
(01 R20, R22). The start of T6 by ARM leaves the module in LOADED, with enumeration under way. -/
def Obligations.StateCommandJudged : Prop :=
  ∀ (i : Fin 32) (n b : Nat) (s : State), awake s = true → tickOf s = 0 → b ≠ s.time.beat → s.st.mode ≠ .safe →
    s.host.sess[i].isOpen = true → s.host.cmds = [{ sess := i, req := none, code := n, beat := b }] →
    let m := s.st.mode
    let to_ := fun (x : Mode) => Does .stateCmdJudge s (fun t => t.st.mode = x)
    (n = 1 → (m = .blank ∨ m = .loaded) → to_ .storage) ∧
    (n = 2 → m = .loaded → s.chain.arming = none →
      Does .stateCmdJudge s (fun t => t.st.mode = .loaded ∧ t.chain.arming = some s.time.beat ∧ t.ldr.armErr = 0)) ∧
    (n = 3 → (m = .armed ∨ m = .stop) → (lgCfg s).isSome = true → aReady s = true → bReady s = true → to_ .run) ∧
    (n = 4 → (m = .run ∨ m = .armed) → Does .stateCmdJudge s (fun t => t.st.mode = .stop ∧ allOff t = true)) ∧
    (n = 4 → m = .service → to_ .stop) ∧
    (n = 5 → m = .stop → s.host.sess[i].crown = true → to_ .service) ∧
    (n = 6 → closedMask s = 0 → (m = .loaded ∨ (m = .run ∧ (s.cal.bind (·.watch)).isSome = true)) → to_ .watch) ∧
    (n = 7 → Does .stateCmdJudge s (fun t => t.st.mode = .blank ∧ t.cal = none ∧ allOff t = true)) ∧
    ((stateCmd i n (fresh { s with host := { s.host with cmds := [] } })).1 = .state →
      Does .stateCmdJudge s (fun t => t.st = s.st ∧ t.saf = s.saf ∧ t.cal = s.cal ∧ t.host.cmds = [] ∧
        t.host.sess[i].cmdResult = 4 ∧ t.host.sess[i].outstanding = false))

/-- T6 ends: with every line passed and both channels' acceptance the module is ARMED, its channels judge, and no switch
is on; a chain check that failed, a refusal of a channel, or more than 3 000 beats, leaves LOADED with ARM_ERR, and no
T6 is under way any more (03 R71 to R73, R79; 04 R101). -/
def Obligations.ArmEnds : Prop :=
  ∀ (b : Nat) (c : Calibre) (s : State), awake s = true → s.st.mode = .loaded → s.chain.arming = some b → s.cal = some c →
    (s.chain.enumErr ≠ 0 →
      Does .armResult s (fun t => t.st.mode = .loaded ∧ t.ldr.armErr = 1 ∧ t.chain.arming = none)) ∧
    (s.chain.enumErr = 0 → s.time.beat ≤ b + 3000 → linesPassed (passSingles (fresh s)) = true → safetyArmErr c ≠ 0 →
      Does .armResult s (fun t => t.st.mode = .loaded ∧ t.ldr.armErr = safetyArmErr c ∧ t.chain.arming = none)) ∧
    (s.chain.enumErr = 0 → s.time.beat ≤ b + 3000 → linesPassed (passSingles (fresh s)) = true → safetyArmErr c = 0 →
      Does .armResult s (fun t => t.st.mode = .armed ∧ t.saf.monitor = true ∧ allOff t = true ∧ t.chain.enumDone = true)) ∧
    (s.chain.enumErr = 0 → (b + 3000 < s.time.beat ∨
        (b + 3000 ≤ s.time.beat ∧ linesPassed (passSingles (fresh s)) = false)) →
      Does .armResult s (fun t => t.st.mode = .loaded ∧ t.ldr.armErr = 1 ∧ t.chain.arming = none))

/-- VSUP and VLOAD: the flags follow their two levels, with the band between them leaving a flag as it is; a fall of VSUP
below 16 V that stays at 12 V or more sets VSUP_DIP, which nothing here clears; and nothing else changes but the
values themselves (15 R366, Tables 15-1, 15-12). -/
def Obligations.SupplyFlags : Prop :=
  ∀ (mv : Nat) (s : State),
    let vsup := fun (c : Instr) => Does c s (fun t => t.pw.vsup = mv ∧ (mv < 16000 → t.pw.vsupLow = true) ∧
      (16500 ≤ mv → t.pw.vsupLow = false) ∧ (16000 ≤ mv → mv < 16500 → t.pw.vsupLow = s.pw.vsupLow) ∧
      (32000 < mv → t.pw.vsupHigh = true) ∧ (mv ≤ 31500 → t.pw.vsupHigh = false) ∧
      (31500 < mv → mv ≤ 32000 → t.pw.vsupHigh = s.pw.vsupHigh) ∧
      t.pw.vsupDip = (s.pw.vsupDip || (awake s && !s.pw.vsupLow && decide (12000 ≤ mv ∧ mv < 16000))) ∧
      t = { fresh s with mark := t.mark, pw := { s.pw with
        vsup := mv, vsupLow := t.pw.vsupLow, vsupHigh := t.pw.vsupHigh, vsupDip := t.pw.vsupDip } })
    vsup (.vsupLow mv) ∧ vsup (.vsupHigh mv) ∧
    Does (.vloadLow mv) s (fun t => (mv < 16000 → t.pw.vloadLow = true) ∧ (16500 ≤ mv → t.pw.vloadLow = false) ∧
      (16000 ≤ mv → mv < 16500 → t.pw.vloadLow = s.pw.vloadLow) ∧
      t = { fresh s with pw := { s.pw with vload := mv, vloadLow := t.pw.vloadLow } })

/-- A power fail turns every contactor switch off and holds the module; the restart after it, an internal watchdog, and a
wake from STORAGE or from a WATCH between its checks leave BLANK with no calibre, every session closed, every switch
off and, outside a trial of new firmware, the wake cause of Table 15-13 (15 R369 to R371, R376; 01 Table 01-4). -/
def Obligations.StartsFromReset : Prop :=
  ∀ (s : State),
    let starts := fun (c : Instr) (n : Nat) => Does c s (fun t => t.st.mode = .blank ∧ t.cal = none ∧ allOff t = true ∧
      t.pw.held = false ∧ (∀ i : Fin 32, t.host.sess[i].isOpen = false) ∧ (s.upd.phase ≠ .trial → t.pw.wakeCause = n))
    (∀ mv, awake s = true → mv < 12000 →
      Does (.powerFail mv) s (fun t => t.pw.held = true ∧ allOff t = true ∧ t.st = s.st ∧ awake t = false)) ∧
    (s.pw.held = true → starts .restart 1) ∧
    (awake s = true → starts .internalWatchdog 7) ∧
    (s.pw.held = false → s.st.mode = .storage → starts .wakeIn 2) ∧
    (s.pw.held = false → s.st.mode = .storage → starts .vsupReturn 3) ∧
    (s.pw.held = false → s.st.mode = .watch → (∀ r, s.pw.watch = some r → r.beat = none) → starts .wakeIn 5)

/-- A beat boundary makes the next beat begin at tick 0; every open session's idle time counts, saturating, and no closed
one changes (02 R32, R33; 13 R323). -/
def Obligations.BeatBegins : Prop :=
  ∀ (s : State), awake s = true → Does .beatBoundary s (fun t => t.time.beat = s.time.beat + 1 ∧ t.time.ns = 0 ∧
    tickOf t = 0 ∧ fabNs t = (s.time.beat + 1) * 1000000 ∧
    ∀ i : Fin 32, t.host.sess[i].idle = if s.host.sess[i].isOpen then min 16383 (s.host.sess[i].idle + 1)
      else s.host.sess[i].idle)

/-- The escapement: a due item is released with its whole budget and starts its engine's clock; the item that runs and
ends within its budget leaves, and the clock stops with the last one; an item that uses up its budget or meets its
deadline is stopped, counted, and sets the engine's overrun bit (02 R38 to R40, R43). Writing 1 to CLEAR of ENG_LOADe
sets PEAK and COUNT of that engine to zero and leaves every other engine as it is (02 Table 02-16). -/
def Obligations.Escapement : Prop :=
  ((∀ (k : Nat) (it : LedgerItem) (s : State), awake s = true → s.st.mode.fromArmed = true → itemAt s k = some it →
     it.engine < 11 → itemDue s it = true → tickOf s ≤ it.release →
     (engineAt s it.engine).released.any (fun x => x.1 == k) = false → hadTurn (.release k) s = false →
     Does (.itemRelease k) s (fun t => (k, it.budget) ∈ (engineAt t it.engine).released ∧
       (engineAt t it.engine).clock = true ∧ tickOf t = it.release ∧ (∀ e, e ≠ it.engine → engineAt t e = engineAt s e))) ∧
   (∀ (e : Fin 11) (c k b : Nat) (r : List (Nat × Nat)) (s : State), s.time.engines[e].released = (k, b) :: r → c ≤ b →
     Does (.itemComplete e c) s (fun t => t.time.engines[e].released = r ∧ t.time.engines[e].clock = !r.isEmpty ∧
       t.time.engines[e].ovr = s.time.engines[e].ovr ∧ t.time.engines[e].count = s.time.engines[e].count ∧
       (∀ f : Fin 11, f ≠ e → t.time.engines[f] = s.time.engines[f]) ∧
       t = { fresh s with time := { s.time with engines := t.time.engines } })) ∧
   (∀ (e : Fin 11) (k b : Nat) (r : List (Nat × Nat)) (it : LedgerItem) (s : State),
     s.time.engines[e].released = (k, b) :: r → itemAt s k = some it → it.engine = e.val →
     let stopped := fun (t : State) => t.time.engines[e].released = ((k, b) :: r).filter (fun x => x.1 != k) ∧
       t.time.engines[e].ovr = true ∧ t.time.engines[e].count = min 255 (s.time.engines[e].count + 1)
     Does (.itemBudgetExpiry e) s stopped ∧ ∀ c, Does (.itemDeadlineExpiry k c) s stopped)) ∧
  (∀ (i : Fin 32) (e : Fin 11) (v : Word) (s : State), MayWrite i s →
     Does (.engLoadClear i e v) s (fun t => t.time.engines[e].peak = 0 ∧ t.time.engines[e].count = 0 ∧
       (∀ f : Fin 11, f ≠ e → t.time.engines[f] = s.time.engines[f]) ∧ t.st = s.st ∧ t.saf = s.saf))

/-- A Sync from ARMED onward: the offset of its domain is the raw offset less the port's asymmetry, the clock is never
stepped, the rate correction stays within 200 ppm where it is set anew, and an offset of more than 10 ms on the
steering domain sets TIME_FAULT and HOLDOVER (02 R45, R46, R49, R50). A Sync before ARMED on the steering domain with
an offset of more than 1 µs steps the clock by that offset, sets STEPPED, and leaves no offset (02 R48). -/
def Obligations.SyncReceives : Prop :=
  (∀ (d : Fin 2) (p : Fin 3) (raw : Int) (gm : Nat) (s : State), awake s = true → s.time.dom[d].self = false →
     s.st.mode.fromArmed = true →
     let off := raw - s.time.asymUsed[p]
     Does (.syncReceive d p raw gm) s (fun t => t.time.dom[d].offset = off ∧ t.time.dom[d].receipt = true ∧
       t.time.dom[d].gm = some gm ∧ (∀ e : Fin 2, e ≠ d → t.time.dom[e] = s.time.dom[e]) ∧
       t.time.beat = s.time.beat ∧ t.time.ns = s.time.ns ∧ t.time.stepped = s.time.stepped ∧
       (t.time.rateAdj = s.time.rateAdj ∨ t.time.rateAdj.natAbs ≤ 20000000) ∧
       (s.time.steer = d → 10000000 < off.natAbs → t.time.timeFault = true ∧ t.time.syncState = .holdover) ∧
       t = { fresh s with time := t.time })) ∧
  (∀ (d : Fin 2) (p : Fin 3) (raw : Int) (gm : Nat) (s : State), awake s = true → s.time.dom[d].self = false →
     s.st.mode.fromArmed = false → s.time.timeFault = false → s.time.steer = d →
     let off := raw - s.time.asymUsed[p]
     1000 < off.natAbs →
     Does (.syncReceive d p raw gm) s (fun t => fabNs t = ((fabNs s : Int) - off).toNat ∧ t.time.stepped = true ∧
       t.time.dom[d].offset = 0 ∧ t.st = s.st ∧ t.saf = s.saf ∧ t.cal = s.cal ∧ t.meas = s.meas ∧ t.lim = s.lim ∧ t.fab = s.fab))

/-- gPTP beside the Sync: an Announce is kept for its port; a domain whose Syncs stay away loses lock and grandmaster; the
module sends its Sync on a port with a link; a path-delay computation takes the asymmetry that stands; at a beat
boundary the steering domain changes only to a locked one; else a switch that a host asked for sets SWITCH_REFUSED (02
R45, R46, R51, R53). A write of STEER with the automatic switch kept: to a locked domain it waits for the beat
boundary, to one that is not locked it sets SWITCH_REFUSED, and the steering domain itself does not change (02 R51,
Table 02-9). -/
def Obligations.TimeDomains : Prop :=
  ((∀ (d : Fin 2) (p : Fin 3) (v : PrioVec) (s : State), awake s = true →
     Does (.gptpAnnounceReceive d p v) s (fun t => (p.val, v) ∈ t.time.dom[d].best ∧
       t.time.dom[d].best.filter (fun x => x.1 != p.val) = s.time.dom[d].best.filter (fun x => x.1 != p.val) ∧
       (∀ e : Fin 2, e ≠ d → t.time.dom[e] = s.time.dom[e]) ∧ t = { fresh s with time := t.time })) ∧
   (∀ (d : Fin 2) (s : State), awake s = true → s.time.dom[d].self = false →
     Does (.syncReceiptTimeout d) s (fun t => t.time.dom[d].locked = false ∧ t.time.dom[d].receipt = false ∧
       t.time.dom[d].gm = none ∧ (∀ e : Fin 2, e ≠ d → t.time.dom[e] = s.time.dom[e]) ∧
       t = { fresh s with time := t.time })) ∧
   (∀ (d : Fin 2) (p : Fin 3) (s : State), awake s = true → (s.time.dom[d].self = true ∨ s.time.dom[d].receipt = true) →
     s.fab.port[p].link = true → exec (.syncSend d p) s = .next { fresh s with sent := [.sync d.val p.val] }) ∧
   (∀ (p : Fin 3) (ns : Nat) (s : State), awake s = true →
     Does (.pdelayExchange p ns) s (fun t => t.time.pdelay = s.time.pdelay.set p ns ∧
       t.time.asymUsed = s.time.asymUsed.set p s.time.asym[p] ∧
       t = { fresh s with time := { s.time with pdelay := t.time.pdelay, asymUsed := t.time.asymUsed } })) ∧
   (∀ (d : Fin 2) (s : State), awake s = true → tickOf s = 0 → s.time.switchTo = some d → s.time.steer ≠ d →
     (s.time.switchAuto = true ∨ s.time.switchBeat ≠ s.time.beat) →
     (s.time.dom[d].locked = true → Does .domainSwitch s (fun t => t.time.steer = d ∧ t.time.switched = true ∧
       t.time.switchTo = none)) ∧
     (s.time.dom[d].locked = false → Does .domainSwitch s (fun t => t.time.steer = s.time.steer ∧
       t.time.switchRefused = (s.time.switchRefused || !s.time.switchAuto) ∧ t.time.switchTo = none)))) ∧
  (∀ (i : Fin 32) (v : Word) (s : State), MayWrite i s → wBit v 1 = s.time.autoSwitch →
     let d : Fin 2 := if wBit v 0 then 1 else 0
     s.time.steer ≠ d →
     (s.time.dom[d].locked = true → Does (.steer i v) s (fun t => t.time.switchTo = some d ∧ t.time.steerReq = d ∧
       t.time.steer = s.time.steer)) ∧
     (s.time.dom[d].locked = false → Does (.steer i v) s (fun t => t.time.switchRefused = true ∧
       t.time.steerReq = s.time.steerReq ∧ t.time.steer = s.time.steer)))

/-- A trigger that the host arms takes its target from its words; at a beat boundary that has reached its target a trigger
armed before the boundary fires: FIRED is set, ARM clears, and LATE is set too when the beat begins more than 1 000
000 ns after the target; one that is not armed does nothing (02 R54 to R57). The transmit-stamp queues: a stamp joins
the tail of a queue with fewer than 8 entries, and into a full one it is discarded, OVF set and LOST counted, with the
entries kept; a write of the oldest identifier takes that entry, any other sets POP_MISS; a probe leaves by each
selected port with a link and by no other (02 R58 to R60). -/
def Obligations.TriggersAndStamps : Prop :=
  ((∀ (i : Fin 32) (k : Fin 4) (v : Word) (s : State), MayWrite i s → k ≠ 3 → s.time.trg[k].arm = false →
     Does (.triggerArm i k v) s (fun t => t.time.trg[k].arm = true ∧ t.time.trg[k].target = s.time.trg[k].words ∧
       t.time.trg[k].armedNow = true ∧ (∀ j : Fin 4, j ≠ k → t.time.trg[j] = s.time.trg[j]) ∧ t.st = s.st ∧
       t.saf = s.saf)) ∧
   (∀ (k : Fin 4) (s : State), awake s = true → tickOf s = 0 → s.time.trg[k].arm = true →
     s.time.trg[k].armedNow = false → s.time.trg[k].target ≤ s.time.beat * 1000000 → k ≠ 3 →
     let x : Trig := { s.time.trg[k] with
       arm := false, fired := true, late := s.time.trg[k].late || decide (1000000 < s.time.beat * 1000000 - s.time.trg[k].target) }
     Does (.triggerFire k) s (fun t =>
       t = { fresh s with mark := t.mark, time := { s.time with trg := s.time.trg.set k x } })) ∧
   (∀ (s : State), awake s = true → tickOf s = 0 → s.time.trg[(3 : Fin 4)].arm = true →
     s.time.trg[(3 : Fin 4)].armedNow = false → s.time.trg[(3 : Fin 4)].target ≤ s.time.beat * 1000000 →
     runningOf 0x12 s = [] →
     Does (.triggerFire 3) s (fun t => t.time.trg[(3 : Fin 4)].fired = true ∧ t.time.trg[(3 : Fin 4)].arm = false ∧
       t.time.trg[(3 : Fin 4)].late = (s.time.trg[(3 : Fin 4)].late ||
         decide (1000000 < s.time.beat * 1000000 - s.time.trg[(3 : Fin 4)].target)) ∧ t.st = s.st ∧ t.saf = s.saf)) ∧
   (∀ (k : Fin 4) (s : State), s.time.trg[k].arm = false → exec (.triggerFire k) s = .next (fresh s))) ∧
  ((∀ (p : Fin 3) (id ns : Nat) (s : State), awake s = true →
     let q := s.time.tsq[p]
     let x : Stamp := { id := id % 65536, ns := ns % 1000000000, sec := ns / 1000000000 % 2 ^ 48 }
     (q.items.length < 8 → exec (.txTimestamp p id ns) s =
       .next { fresh s with time := { s.time with tsq := s.time.tsq.set p { q with items := q.items ++ [x] } } }) ∧
     (8 ≤ q.items.length →
       let y : Tsq := { q with ovf := true, lost := min 65535 (q.lost + 1) }
       Does (.txTimestamp p id ns) s (fun t =>
         t = { fresh s with mark := t.mark, time := { s.time with tsq := s.time.tsq.set p y } }))) ∧
   (∀ (i : Fin 32) (p : Fin 3) (v : Word) (s : State), MayWrite i s →
     let q := s.time.tsq[p]
     (∀ x r, q.items = x :: r → x.id = v.toNat % 65536 → Does (.tsqPop i p v) s (fun t =>
       t.time.tsq = s.time.tsq.set p { q with items := r })) ∧
     ((∀ x r, q.items = x :: r → x.id ≠ v.toNat % 65536) → Does (.tsqPop i p v) s (fun t =>
       t.time.tsq = s.time.tsq.set p { q with popMiss := true }))) ∧
   (∀ (i : Fin 32) (v : Word) (s : State), MayWrite i s →
     Does (.probe i v) s (fun t => t.time.tsq = s.time.tsq ∧ ∀ p < 3,
       let left := t.sent.any (fun e => match e with
         | .fabric _ k _ _ _ _ _ _ st ports _ => k == 9 && ports == 2 ^ p && st == some (v.toNat % 65536)
         | _ => false)
       ((getNat s.fab.port p).link = false → left = false) ∧
       (s.fab.silenced = false → (left = true ↔ (wBit v (16 + p) = true ∧ (getNat s.fab.port p).link = true))))))

/-- Loading: in BLANK an image word begins a load that its session owns; in LOADING each word of the owner joins the image
while its head is not yet whole, and a word of another session is refused and changes nothing of the load; an ABORT of
the owner, and 10 000 beats without a word, end the load in BLANK with their code, and an ABORT of any other session
changes nothing of it (03 R76 to R78, Table 03-8). -/
def Obligations.ImageWords : Prop :=
  ∀ (i : Fin 32) (w : Word) (s : State), MayWrite i s →
    (s.st.mode = .blank → s.pw.lc ≠ .scrapped → Does (.ldData i w) s (fun t => t.st.mode = .loading ∧
      t.ldr.owner = some i ∧ t.ldr.words = [w] ∧ t.ldr.count = 4 ∧ t.ldr.receiving = true ∧ t.ldr.err = 0)) ∧
    (s.st.mode = .loading → s.ldr.owner = some i → s.ldr.words.length < 11 → Does (.ldData i w) s (fun t =>
      t.st = s.st ∧ t.ldr = { s.ldr with words := s.ldr.words ++ [w], count := 4 * (s.ldr.words.length + 1),
                                         idleBeats := 0 })) ∧
    (s.st.mode = .loading → s.ldr.owner ≠ some i → Does (.ldData i w) s (fun t => t.st = s.st ∧ t.ldr = s.ldr ∧
      said t = [directRsp i 4 .access 0x5010 []]) ∧ Does (.ldCtrlAbort i) s (fun t => t.st = s.st ∧ t.ldr = s.ldr)) ∧
    (s.st.mode = .loading → s.ldr.owner = some i → Does (.ldCtrlAbort i) s (fun t => t.st.mode = .blank ∧
      t.ldr.owner = none ∧ t.ldr.err = 0x13 ∧ t.ldr.words = [] ∧ t.ldr.receiving = false)) ∧
    (s.st.mode = .loading → 10000 ≤ s.ldr.idleBeats → Does .loadTimeout s (fun t => t.st.mode = .blank ∧
      t.ldr.owner = none ∧ t.ldr.err = 0x12 ∧ t.cal = none))

/-- The end of a load: the checks of a whole image end in BLANK with the code of the first failure, or pass; T4 follows at
the first beat boundary after they passed, and loads the calibre with no switch on changed (03 R77, R78, R414). -/
def Obligations.LoadEnds : Prop :=
  ∀ (s : State), awake s = true → s.st.mode = .loading →
    (s.ldr.checking = true → s.ldr.passed = none → Does .postReceptionChecksDone s (fun t =>
      match point5 (catalogueNow s) (s.pw.lc == .owned) (validKey s) (wordsBytes s.ldr.words).toArray with
      | some f => t.st.mode = .blank ∧ t.ldr.err = f.err.code ∧ t.ldr.owner = none ∧ t.cal = none
      | none => t.st = s.st ∧ t.ldr.passed = some s.time.beat ∧ t.ldr.words = s.ldr.words)) ∧
    (∀ b, s.ldr.passed = some b → b ≠ s.time.beat → tickOf s = 0 → Does .loadAccept s (fun t => t.st.mode = .loaded ∧
      t.cal = some (calibreOf (wordsBytes s.ldr.words).toArray) ∧ t.ldr.owner = none ∧ t.ldr.checking = false ∧
      t.saf = s.saf))

/-- The replacement of the logic section: in STOP REPLACE_LOGIC begins one that its session owns, in any other state the
write is refused and changes nothing; its checks end it, and only where they find nothing does the section change,
with REPLACED set and every other section kept (03 R84). Online batches: a GO that is accepted makes the batch of its
first entries wait and answers APPLIED's code, one that is refused leaves the batch that waits; a CANCEL before a task
took a part of it discards the batch; at the first beat boundary after the GO it becomes pending, and a batch of a
section other than 0x0E changes the calibre at its effect point (03 R80 to R83). -/
def Obligations.SectionChanges : Prop :=
  ((∀ (i : Fin 32) (s : State), MayWrite i s →
     (s.st.mode = .stop → s.ldr.repl = none → Does (.replaceLogic i) s (fun t => t.ldr.repl = some [] ∧
       t.ldr.owner = some i ∧ t.ldr.receiving = true ∧ t.ldr.count = 0 ∧ t.st = s.st ∧ t.cal = s.cal)) ∧
     (s.st.mode ≠ .stop → Does (.replaceLogic i) s (fun t => t.ldr = s.ldr ∧ t.st = s.st ∧ t.cal = s.cal ∧
       said t = [directRsp i 4 .access 0x5004 []]))) ∧
   (∀ (w : List Word) (c : Calibre) (s : State), awake s = true → s.ldr.repl = some w → s.cal = some c →
     s.ldr.checking = true →
     let img : Bytes := (wordsBytes w).toArray
     let p := slice img 16 (imgLen img 0)
     Does .replacementChecksDone s (fun t => t.ldr.repl = none ∧ t.ldr.owner = none ∧ t.st = s.st ∧
       match replaceChecks c p with
       | some f => t.ldr.err = f.err.code ∧ t.cal = some c
       | none => t.ldr.replaced = true ∧ t.cal = some (c.withPayload 14 p.toList)))) ∧
  ((∀ (i n : Fin 32) (s : State), MayWrite i s → Does (.onCtrlGo i n) s (fun t =>
     t.ldr.onResult = (goResult n.val s).code ∧ t.cal = s.cal ∧ t.st = s.st ∧
     (goResult n.val s = .ok → ∃ b, t.ldr.batch = some b ∧ b.session = i.val ∧ b.beat = s.time.beat ∧
       b.atBoundary = false ∧ b.entries.length = n.val) ∧
     (goResult n.val s ≠ .ok → t.ldr.batch = s.ldr.batch))) ∧
   (∀ (i : Fin 32) (b : Batch) (s : State), MayWrite i s → s.ldr.batch = some b → s.lg.taskConsts = [] →
     Does (.cancel i) s (fun t => t.ldr.batch = none ∧ t.ldr.onResult = 7 ∧ t.lg.pendingConsts = [] ∧ t.cal = s.cal ∧
       t.st = s.st)) ∧
   (∀ (b : Batch) (s : State), awake s = true → s.ldr.batch = some b → b.atBoundary = false → b.beat ≠ s.time.beat →
     tickOf s = 0 → b.sect ≠ 14 → exec .batchPending s =
       .next { fresh s with ldr := { s.ldr with batch := some { b with atBoundary := true } } }) ∧
   (∀ (b : Batch) (s : State), awake s = true → s.ldr.batch = some b → b.atBoundary = true → tickOf s = 0 →
     effectNow b s = true → Does .batchApply s (fun t => t.ldr.batch = none ∧ t.ldr.onApplied = true ∧
       t.ldr.onCount = min 65535 (s.ldr.onCount + 1) ∧ t.st = s.st ∧
       t.cal = s.cal.map (fun c => c.withPayload b.sect (putWords ((c.payload b.sect).getD []) b.entries)))) ∧
   (∀ (k : Fin 8) (c : TaskCfg) (s : State), awake s = true → s.st.mode = .run → taskCfg s k.val = some c →
     s.time.beat % c.cycle = 0 → Does (.constantApply k) s (fun t =>
       t.lg.pendingConsts = s.lg.pendingConsts.filter (fun p => p.1 != k.val) ∧ t.st = s.st)))

/-- The commands that the module sends on a line: each leaves as one CMD frame with the OP and the arguments of Table
04-8, by the end its rule names, and brings what its rule says it brings at the module; of a command that E8 may send
in this window and that its rule asks for (04 R89, R98 to R100, R103, R114; 06 R155, R158, R172). The RSLOT of each
command is the model's choice (log 17). -/
def Obligations.ChainCommands : Prop :=
  ∀ (s : State),
    (∀ l : Fin 4, cmdFree l.val s = true →
      ((lineAt s l.val).step = .waiting → 3 ≤ (lineAt s l.val).waited → Does (.enumReset l) s (fun t =>
        SentCmd l.val (primaryEnd s l.val) 0xFF 1 [] s t ∧ (lineAt t l.val).step = .assigning ∧
        (lineAt t l.val).nextHop = 0)) ∧
      ((lineAt s l.val).step = .assigning → (lineAt s l.val).cmds = 0 → (lineAt s l.val).nextHop < 16 →
        Does (.enumAssign l) s (fun t => SentCmd l.val (primaryEnd s l.val) 0xFF 2
          [nodeAddr l.val (lineAt s l.val).nextHop, 0, 0, 0] s t ∧ (lineAt t l.val).cmds = 4)) ∧
      (∀ a : Fin 64, a.val / 16 = l.val → (nodeRec s a.val).assign = true → (lineAt s l.val).cmds = 0 →
        Does (.reassign l a) s (fun t =>
          SentCmd l.val (cmdEnd s l.val a.val) 0xFF 3 ([a.val, 0, 0, 0] ++ argB 8 (nodeRec s a.val).uid) s t ∧
          (nodeRec t a.val).assign = false)) ∧
      (s.spec.stimStop.testBit l.val = true → Does (.stimStop l) s (fun t =>
        SentCmd l.val (cmdEnd s l.val 0xFF) 0xFF 12 [] s t ∧ t.spec.stimStop = s.spec.stimStop - 2 ^ l.val ∧
        ∀ k ∈ t.spec.locks, k.addr / 16 ≠ l.val))) ∧
    (∀ a : Fin 64, cmdFree (a.val / 16) s = true →
      let r := nodeRec s a.val
      let sends := fun (op : Nat) (args : List Nat) (t : State) =>
        SentCmd (a.val / 16) (cmdEnd s (a.val / 16) a.val) a.val op args s t
      (checkingNode s a.val = true → r.idRead = false → Does (.readId a) s (sends 4 [])) ∧
      (checkingNode s a.val = true → r.idRead = true → ownDelays s a.val = true → r.senseDone = false →
        Does (.measSense a) s (fun t => sends 7 [] t ∧ (nodeRec t a.val).senseSent = true)) ∧
      (checkingNode s a.val = true → r.senseSent = true → r.senseDone = false → Does (.readSense a) s (sends 8 [])) ∧
      (r.found = true → r.assign = false →
        (r.diagBeat.map (fun b => b / 1000) ≠ some (s.time.beat / 1000) → Does (.readDiag a) s (fun t =>
          sends 13 [] t ∧ (nodeRec t a.val).diagBeat = some s.time.beat)) ∧ Does (.clearDiag a) s (sends 14 [])) ∧
      (checked s a.val = true → (r.newE.isSome = true ∨ r.newW.isSome = true) →
        Does (.setDelay a) s (fun t => sends 5 (argB 2 (delayE r) ++ argB 2 (delayW r)) t ∧
          (nodeRec t a.val).dE = delayE r ∧ (nodeRec t a.val).dW = delayW r ∧
          (nodeRec t a.val).newE = none ∧ (nodeRec t a.val).newW = none)) ∧
      (let mux := ((tapPlanOf s a.val).drop r.planNext).take 120
       checked s a.val = true → r.newE = none → r.newW = none → mux ≠ [] → Does (.setTapPlan a) s (fun t =>
        sends 6 (argB 2 r.planNext ++ argB 2 mux.length ++ mux.flatMap (argB 2)) t ∧
        (nodeRec t a.val).planNext = r.planNext + mux.length)) ∧
      (∀ pos bin : Nat, holder s = true → s.st.mode.fromArmed = true → r.found = true → pos < 16 →
        31 ≤ bin → bin ≤ 39 → Does (.lockinRead a pos bin) s (sends 11 [pos, bin, 0, 0])) ∧
      (∀ (pos bin ampl cycles start : Nat) (b : Burst), holder s = true → b ∈ s.spec.toSend →
        b.bin = bin → b.ampl = ampl → b.cycles = cycles → b.start % 65536 = start → s.time.beat < b.start →
        b.start ≤ s.time.beat + 50 → (∃ n, placeOf s b.pos = some (n, pos, a.val)) →
        Does (.chime a pos bin ampl cycles start) s (fun t =>
          sends 9 ([pos, bin] ++ argB 2 ampl ++ argB 2 cycles ++ argB 2 start) t ∧
          ∃ x ∈ s.spec.toSend, x.bin = bin ∧ x.ampl = ampl ∧ x.cycles = cycles ∧ x.start % 65536 = start ∧
            (∃ n, placeOf s x.pos = some (n, pos, a.val)) ∧ t.spec.toSend = s.spec.toSend.erase x ∧
            t.spec.bursts = s.spec.bursts ++ [x])) ∧
      (∀ (bins mask start : Nat), holder s = true → (∃ k ∈ s.spec.lockToSend, k.addr = a.val ∧ k.bins = bins ∧
          k.mask = mask ∧ k.start % 65536 = start) →
        (∀ k ∈ s.spec.lockToSend, k.addr = a.val → s.time.beat < k.start) →
        Does (.lockinStart a bins mask start) s (fun t =>
          sends 10 (argB 8 bins ++ argB 2 mask ++ argB 2 start) t ∧
          ∃ k ∈ s.spec.lockToSend, k.addr = a.val ∧ k.bins = bins ∧ k.mask = mask ∧ k.start % 65536 = start ∧
            t.spec.lockToSend = s.spec.lockToSend.erase k ∧ t.spec.locks = s.spec.locks ++ [k])))

/-- The beat on the chain: a BEAT frame leaves at 20 500 ns, once in a beat, by every end from which this module sends on
each line in use, and nothing else; SLEEP, which waits for ENTER_STORAGE or WATCH, leaves on its line; at tick 144,
once in a beat, a PROBE goes out on every line in use that has a probe due, the next of the rotation, and on no other
(04 R89 to R91, R102, R103, R107). -/
def Obligations.ChainFrames : Prop :=
  ∀ (s : State),
    (e8On s = true → s.time.ns ≤ 20500 → hadTurn .beatFrame s = false → Does .beatFrame s (fun t =>
      t.time.ns = 20500 ∧ hadTurn .beatFrame t = true ∧ t.st = s.st ∧ t.saf = s.saf ∧
      t.sent = (List.range 4).flatMap (fun l => if lineUsed s l then (beatEnds s l).map (fun d =>
        .chain l d (mkFrame 1 0xFF (ownClaim s) (s.time.beat % 65536)
          (beatPayload s l (d == primaryEnd s l) t.lim.bleed))) else []))) ∧
    (∀ l : Fin 4, awake s = true → s.host.cmds.any (fun c => c.code == 1 || c.code == 6) = true →
      windowFree l.val s = true → (lineAt s l.val).slept = false →
      Does (.sleep l) s (fun t => SentCmd l.val (sleepEnd s l.val) 0xFF 15 [] s t ∧ (lineAt t l.val).slept = true)) ∧
    (e8On s = true → (inPair s && s.fab.pair.yielded) = false → tickOf s ≤ 144 → hadTurn .probeFrame s = false →
      let next := fun l => if lineUsed s l then (probesDue s l)[(lineAt s l).probeIdx % max 1 (probesDue s l).length]?
        else none
      Does .probeFrame s (fun t => tickOf t = 144 ∧ hadTurn .probeFrame t = true ∧ t.st = s.st ∧
        t.sent.filter (fun e => match e with
          | .chain .. => true
          | _ => false) = (List.range 4).filterMap (fun l => (next l).map (fun p =>
            .chain l p.2 (mkFrame 3 p.1 (ownClaim s) 0 []))) ∧
        ∀ l < 4, (next l = none → lineAt t l = lineAt s l) ∧ ∀ p, next l = some p → (lineAt t l).probe = some p ∧
          (lineAt t l).probeIdx = ((lineAt s l).probeIdx + 1) % max 1 (probesDue s l).length))

/-- What a line shows: the end of a line's enumeration, by the number of nodes found against the calibre's; from ARMED
onward the pass-through seen or not, two misses in beats that follow each other making the line SPLIT with frames from
its far end; its return to WHOLE at a beat that is a multiple of 1 000; the ECHO of a probe, and its loss (04 R100 to
R103, R109, R111). -/
def Obligations.LineEvents : Prop :=
  ∀ (l : Fin 4) (s : State), e8On s = true →
    (let x := lineAt s l.val
     let n := ((chainMap s).onLine l.val).length
     let next := x.checkBeat == some (s.time.beat - 1)
     let missed := if next then x.missRun else 0
     (x.step = .assigning → (10 ≤ x.waited ∨ 16 ≤ x.nextHop) → Does (.enumLineEnd l) s (fun t =>
       (lineAt t l.val).nodes = x.nextHop ∧ t.st = s.st ∧
       (0 < x.nextHop → x.nextHop = n → (lineAt t l.val).step = .checking ∧ t.chain.enumErr = s.chain.enumErr) ∧
       (x.nextHop = 0 ∨ x.nextHop ≠ n → (lineAt t l.val).step = .failed ∧ (s.chain.enumErr = 0 → t.chain.enumErr =
         if x.nextHop = 0 then 12 else if x.nextHop < n then 1 else 2)))) ∧
     (farOwned s l.val = true → s.st.mode.fromArmed = true → tickOf s ≤ 16 → hadTurn (.passCheck l.val) s = false →
       (∀ h, Does (.passThroughCheck l (some h)) s (fun t => (lineAt t l.val).pass = true ∧ (lineAt t l.val).missRun = 0 ∧
         (lineAt t l.val).passRun = min 1000 ((if next then x.passRun else 0) + 1) ∧
         (lineAt t l.val).checkBeat = some s.time.beat ∧ (lineAt t l.val).split = x.split ∧ tickOf t = 16 ∧
         t.st = s.st)) ∧
       Does (.passThroughCheck l none) s (fun t => (lineAt t l.val).pass = false ∧ (lineAt t l.val).passRun = 0 ∧
         (lineAt t l.val).missRun = min 2 (missed + 1) ∧ (lineAt t l.val).checkBeat = some s.time.beat ∧
         (lineAt t l.val).passMiss = min 65535 (x.passMiss + 1) ∧ (missed = 0 → (lineAt t l.val).split = x.split) ∧
         (1 ≤ missed → (lineAt t l.val).split = true ∧ (lineAt t l.val).brk = true ∧
           (lineAt t l.val).secondary = true ∧ (lineAt t l.val).mode = .split) ∧ tickOf t = 16 ∧ t.st = s.st)) ∧
     (x.split = true → 1000 ≤ x.passRun → next = true → s.time.beat % 1000 = 0 → tickOf s ≤ 8 →
       hadTurn .beatFrame s = false → Does (.lineReturnWhole l) s (fun t =>
       lineAt t l.val = { x with split := false, brk := false, secondary := false, mode := .whole
                                 wholes := min 65535 (x.wholes + 1) } ∧
       t = { fresh s with chain := { s.chain with line := t.chain.line } })) ∧
     (∀ (h : ChainHdr) (p : List Byte) (rtt : Nat), h.line = l → hears h s = true → frameOk 7 h p = true → h.addr < 64 →
       x.probe = some (h.addr, h.fromEnd) → h.tick ≤ 152 → tickOf s ≤ 152 → Does (.echo h p rtt) s (fun t =>
         (lineAt t l.val).probe = none ∧ t.st = s.st ∧
         (((nodeRec s h.addr).setOf h.fromEnd).n < 63 → (nodeRec t h.addr).setOf h.fromEnd =
           ((nodeRec s h.addr).setOf h.fromEnd).add rtt) ∧
         (63 ≤ ((nodeRec s h.addr).setOf h.fromEnd).n → (nodeRec t h.addr).setOf h.fromEnd = ProbeSet.empty))) ∧
     (∀ (h : ChainHdr) (p : List Byte) (rtt : Nat), h.line = l → hears h s = true → frameOk 7 h p = false → Does (.echo h p rtt) s (fun t =>
       lineAt t l.val = { x with crc := min 4294967295 (x.crc + 1) } ∧ t.chain.node = s.chain.node ∧ t.st = s.st)) ∧
     (∀ (a : Fin 64) (d : End), x.probe = some (a.val, d) →
       (s.st.mode.fromArmed = true → Does (.probeLost l) s (fun t => (lineAt t l.val).probe = none ∧ t.st = s.st ∧
         (((nodeRec s a.val).setOf d).n < 63 → ((nodeRec t a.val).setOf d).lost = true ∧
           ((nodeRec t a.val).setOf d).n = ((nodeRec s a.val).setOf d).n + 1) ∧
         (63 ≤ ((nodeRec s a.val).setOf d).n → (nodeRec t a.val).setOf d = ProbeSet.empty))) ∧
       (s.st.mode.fromArmed = false → Does (.probeLost l) s (fun t => (lineAt t l.val).probe = none ∧
         (lineAt t l.val).step = .failed ∧ (s.chain.enumErr = 0 → t.chain.enumErr = 10) ∧ t.st = s.st))))

/-- Frames that arrive on the chain: one that is not intact is counted on its line and brings nothing; an intact one with
a claim above this module's sets CLAIM_HIGHER; a RESULT in its window, of this beat, from a known node at the end it
follows is the node's sample of the beat, the first alone; an AUX the same for the beat before; one outside these
conditions brings nothing; an ANNOUNCE in its window that matches a node rejoins it, and any other sets UNKNOWN_NODE
with its UID (04 R88, R97, R106, R114). REPLY: one that is not intact is counted and brings nothing; one that answers
no command of this beat on this line brings nothing; one of status OK brings what its command asked for: ENUM_ASSIGN's
counts the node found and keeps its identity, READ_ID's keeps the identity and the inputs, READ_SENSE's the wires once
they are done, READ_DIAG's the node's count of discarded frames, and LOCKIN_READ's the value of its bin where it
brings one; a write that a node refuses while its line is enumerated ends that with CLAIM (04 R88, R98 to R101, R415,
Table 04-8; 06 R158). The commit of a beat, once, at tick 330 from ARMED on: the positions are those of this beat,
paired with the aligned sample only where that is of the same beat, and neither the state nor the safety functions
change (04 R97; 05 R118, R123). -/
def Obligations.ChainReceives : Prop :=
  (∀ (h : ChainHdr) (s : State), hears h s = true →
     let crc := fun (t : State) =>
       (lineAt t h.line.val).crc = min 4294967295 ((lineAt s h.line.val).crc + 1) ∧ t.chain.claimHigher = s.chain.claimHigher
     let claim := fun (t : State) => t.chain.claimHigher = (s.chain.claimHigher || decide (ownClaim s < h.claim))
     (∀ b, let whole := frameOk 4 h (resultBytes b)
       (whole = false → Does (.result h b) s (fun t => crc t ∧ t.chain.got = s.chain.got)) ∧
       (whole = true → resultOk h b s = false → Does (.result h b) s (fun t => claim t ∧ t.chain.got = s.chain.got ∧
         t.chain.line = s.chain.line ∧ t.chain.node = s.chain.node)) ∧
       (whole = true → resultOk h b s = true → Does (.result h b) s (fun t => claim t ∧ t.chain.got =
         (if s.chain.got.any (fun g => g.addr == h.addr) then s.chain.got
          else s.chain.got ++ [{ addr := h.addr, nstat := b.nstat, suspect := b.suspect, vpos := b.vpos }]) ∧
         (nodeRec t h.addr).followW = b.nstat.testBit 2 ∧ (nodeRec t h.addr).hops = h.hops ∧ t.st = s.st ∧
         t.saf = s.saf))) ∧
     (∀ b, let whole := frameOk 5 h (auxBytes b)
       (whole = false → Does (.aux h b) s (fun t => crc t ∧ t.chain.gotAux = s.chain.gotAux)) ∧
       (whole = true → auxOk h s = false → Does (.aux h b) s (fun t => claim t ∧ t.chain.gotAux = s.chain.gotAux ∧
         t.chain.line = s.chain.line)) ∧
       (whole = true → auxOk h s = true → Does (.aux h b) s (fun t => claim t ∧ t.chain.gotAux =
         (if s.chain.gotAux.any (fun g => g.addr == h.addr) then s.chain.gotAux
          else s.chain.gotAux ++ [{ addr := h.addr, body := b }]) ∧ t.st = s.st ∧ t.saf = s.saf))) ∧
     (∀ u n p, let whole := frameOk 8 h (announceBytes u n p)
       (whole = false → Does (.announce h u n p) s (fun t => crc t ∧ t.chain.unkUid = s.chain.unkUid ∧
         t.chain.node = s.chain.node)) ∧
       (whole = true → s.st.mode.fromArmed = true → 160 ≤ h.tick → h.tick ≤ 186 →
         (∀ a, announced h u s = some a → a < 64 → Does (.announce h u n p) s (fun t => claim t ∧
           (nodeRec t a).assign = true ∧ (nodeRec t a).rejoined = true ∧ (nodeRec t a).planNext = 0 ∧
           t.chain.nodeRejoined = true ∧ t.st = s.st)) ∧
         (announced h u s = none → Does (.announce h u n p) s (fun t => claim t ∧ t.chain.unknownNode = true ∧
           t.chain.unkUid = u ∧ t.chain.unkLine = h.line.val ∧ t.chain.unkEnd = h.fromEnd ∧ t.chain.unkHops = h.hops ∧
           t.chain.node = s.chain.node ∧ t.st = s.st))))) ∧
  (∀ (h : ChainHdr) (op status : Nat) (d : ReplyData) (s : State), hears h s = true → h.addr < 64 →
     let whole := frameOk 6 h (replyBytes op status d)
     let r := Instr.reply h op status d
     (whole = false → Does r s (fun t => (lineAt t h.line.val).crc = min 4294967295 ((lineAt s h.line.val).crc + 1) ∧
       t.chain.node = s.chain.node ∧ t.spec = s.spec)) ∧
     (whole = true → answered h op status s = none → Does r s (fun t => t.chain.node = s.chain.node ∧
       t.chain.line = s.chain.line ∧ t.spec = s.spec)) ∧
     (∀ c, whole = true → answered h op status s = some c →
       (status = 0 → op = 2 → c.addr = 0xFF → (lineAt s c.line).step = .assigning → ∀ uid ty pr caps lk,
         d = .assign uid ty pr caps lk → Does r s (fun t =>
           (lineAt t c.line).nextHop = (lineAt s c.line).nextHop + 1 ∧ (lineAt t c.line).waited = 0 ∧
           (nodeRec t h.addr).found = true ∧ (nodeRec t h.addr).uid = uid ∧ (nodeRec t h.addr).nodeType = ty ∧
           t.st = s.st ∧ t.saf = s.saf)) ∧
       (status = 0 → op = 4 → ∀ uid ty pr caps lk pp tp, d = .id uid ty pr caps lk pp tp → Does r s (fun t =>
         (nodeRec t h.addr).uid = uid ∧ (nodeRec t h.addr).nodeType = ty ∧ (nodeRec t h.addr).inputs = pp ∧
         (nodeRec t h.addr).tInputs = tp ∧ (nodeRec t h.addr).idRead = true ∧ t.st = s.st ∧ t.saf = s.saf)) ∧
       (status = 0 → op = 8 → ∀ w, d = .sense true w → Does r s (fun t => (nodeRec t h.addr).sense = w ∧
         (nodeRec t h.addr).senseDone = true ∧ t.st = s.st ∧ t.saf = s.saf)) ∧
       (status = 0 → op = 13 → ∀ n x1 x2 x3 x4, d = .diag n x1 x2 x3 x4 → Does r s (fun t =>
         (nodeRec t h.addr).crc = min n 65535 ∧ t.chain.line = s.chain.line ∧ t.st = s.st ∧ t.saf = s.saf)) ∧
       (status = 0 → op = 11 → ∀ done v1 v2 i1 i2, d = .lockin done v1 v2 i1 i2 → Does r s (fun t =>
         t.st = s.st ∧ t.saf = s.saf ∧ ((done = false ∨ lockResult v1 v2 i1 i2 = none) → t.spec = s.spec) ∧
         (∀ z n p, done = true → lockResult v1 v2 i1 i2 = some z → mapNode s h.addr = some n →
           n.stringPos ((c.args[0]?).getD 0) = some p →
           let acc : LockinEst := { z := some z, last := some s.time.beat }
           t = modSpec p (fun x => { x with lockin := updL x.lockin ((c.args[1]?).getD 0 - 31) (fun _ => acc) })
             { t with spec := s.spec }))) ∧
       (status = 1 → ((lineAt s c.line).step = .checking ∨ (op = 2 ∧ (lineAt s c.line).step = .assigning)) →
         Does r s (fun t => (lineAt t c.line).step = .failed ∧ (s.chain.enumErr = 0 → t.chain.enumErr = 11 ∧
           t.chain.enumDetail = min h.claim 65535) ∧ t.st = s.st ∧ t.saf = s.saf)))) ∧
  (∀ (s : State), awake s = true → s.st.mode.fromArmed = true → s.est.running = true → tickOf s ≤ 330 →
     (hadTurn .commit s = false → Does .chainCommit s (fun t => t.meas.posBeat = s.time.beat ∧ tickOf t = 330 ∧
       hadTurn .commit t = true ∧ t.meas.pos.length = s.meas.pos.length ∧
       (∀ a, t.meas.pair = some a → s.meas.alignedE = some a ∧ a.beat = s.time.beat) ∧ t.st = s.st ∧ t.saf = s.saf)) ∧
     (hadTurn .commit s = true → exec .chainCommit s = .next (fresh s)))

/-- What a node does of itself: an intact BEAT frame raises HELD to its claim and brings the bleed word only where no
higher claim is held, one that is not intact is counted alone, and a sleeping node takes nothing from it but begins to
wake; after 3 ms without a frame that carries HELD its claim is released, 5 ms after the last BEAT frame its stimulus
and bleeding fall back, 2 000 ms after it it sleeps; it wakes, and a reset leaves it without an address, its gate open
and nothing held (04 R88, R91, R92, R104, R105, R107, R114). What a node sends: it samples once in a beat, with an
address and the frames of this beat and of the beat before, at the instant that their arrivals and its delay give,
with new temperatures only in a temperature beat; the RESULT of this beat's sample and the AUX of the last beat's
leave once each, in the node's slot, towards the end it follows; only a node without an address that has reset by
itself sends an ANNOUNCE, once every 1 000 beats, in its window (04 R87, R90, R92 to R96, R114). -/
def Obligations.Nodes : Prop :=
  ((∀ (l : Fin 4) (k : Fin 16) (n : NodeS) (s : State), nodeAt s l.val k.val = some n →
     let at_ := fun (t : State) => nodeAt t l.val k.val
     (∀ f, n.asleep = false → beatIntact f = true → Does (.nodeBeatReceive l k f) s (fun t => ∃ m, at_ t = some m ∧
       m.held = max n.held f.claim ∧ m.addr = n.addr ∧ m.beatAt = fabNs s ∧
       m.heldAt = (if n.held ≤ f.claim then (fabNs s : Int) else n.heldAt) ∧
       (f.claim < n.held → m.bleeds = n.bleeds) ∧
       (n.held ≤ f.claim → m.followW = (f.fromEnd == .w) →
         m.bleeds = ((f.beat, n.ownBleed f.bleed) :: n.bleeds).take 2))) ∧
     (∀ f, n.asleep = false → beatIntact f = false → Does (.nodeBeatReceive l k f) s (fun t =>
       at_ t = some { n with crcErr := min 4294967295 (n.crcErr + 1) })) ∧
     (∀ f, n.asleep = true → Does (.nodeBeatReceive l k f) s (fun t => at_ t = some { n with waking := true })) ∧
     (if (spanEnd n.heldAt 3000000 s).isSome then
       Does (.nodeClaimRelease l k) s (fun t => at_ t = some { n with held := 0 })
      else exec (.nodeClaimRelease l k) s = .next (fresh s)) ∧
     (if (spanEnd n.beatAt 5000000 s).isSome then
       Does (.nodeStimulusFallback l k) s (fun t => at_ t = some { n with chimes := [], lockin := [], bleeds := [] })
      else exec (.nodeStimulusFallback l k) s = .next (fresh s)) ∧
     (if (spanEnd n.beatAt 2000000000 s).isSome then
       Does (.nodeSleep l k) s (fun t => at_ t = some { n with
         chimes := [], lockin := [], bleeds := [], held := 0, asleep := true, waking := false })
      else exec (.nodeSleep l k) s = .next (fresh s)) ∧
     Does (.nodeWake l k) s (fun t => at_ t = some (if n.asleep && n.waking then
       { n with asleep := false, waking := false, beatAt := fabNs s, heldAt := fabNs s } else n))) ∧
   (∀ (l : Fin 4) (k : Fin 16) (i : NodeIdent) (s : State), Does (.nodeReset l k i) s (fun t =>
     (∃ m, nodeAt t l.val k.val = some m ∧ m.addr = none ∧ m.held = 0 ∧ m.gate = true ∧ m.ident = i ∧ m.tapPlan = [] ∧
       m.chimes = [] ∧ m.lockin = [] ∧ m.bleeds = [] ∧ m.resetSelf = true) ∧
     ∀ l2 k2 : Nat, (l2, k2) ≠ (l.val, k.val) → nodeAt t l2 k2 = nodeAt s l2 k2))) ∧
  (∀ (l : Fin 4) (k : Fin 16) (n : NodeS) (s : State), nodeAt s l.val k.val = some n → n.asleep = false →
     (tickOf s ≤ 200 → hadTurn (.sample l.val k.val) s = false →
       (∀ mk vp te ta, (n.addr = none ∨ n.pair s.time.beat = none) → Does (.nodeSample l k mk vp te ta) s (fun t =>
         nodeAt t l.val k.val = some n ∧ tickOf t = 200)) ∧
       (∀ mk vp te ta a x y, n.addr = some a → n.pair s.time.beat = some (x, y) →
         Does (.nodeSample l k mk vp te ta) s (fun t => tickOf t = 200 ∧
         ∃ m c, nodeAt t l.val k.val = some m ∧ m.taken = some c ∧ c.beat = s.time.beat ∧ c.instant = n.sampleInstant x y ∧
           c.vpos = vp ∧ c.suspect = mk.suspect ∧ c.warn = mk.warn ∧ c.tempNew = y.tempNext ∧ c.resultSent = false ∧
           c.auxSent = false ∧ m.temps = (if y.tempNext then te else n.temps) ∧ m.addr = n.addr))) ∧
     (∀ a c, n.addr = some a → n.taken = some c →
       (c.resultSent = false → c.beat = s.time.beat → slotFree n.resultNs s = true → Does (.nodeResultSend l k) s (fun t =>
         t.sent = [.node l.val k.val n.toEnd n.resultNs (mkFrame 4 a n.held (c.beat % 65536)
           (resultBytes { nstat := n.nstat c.beat (n.resultNs / 2500) c.warn, suspect := c.suspect, vpos := c.vpos }))] ∧
         nodeAt t l.val k.val = some { n with taken := some { c with resultSent := true } })) ∧
       (c.auxSent = false → c.beat + 1 = s.time.beat → slotFree n.auxNs s = true → Does (.nodeAuxSend l k) s (fun t =>
         t.sent = [.node l.val k.val n.toEnd n.auxNs (mkFrame 5 a n.held (c.beat % 65536)
           (auxBytes { tflagNew := c.tempNew, taps := c.taps, temps := n.temps }))] ∧
         nodeAt t l.val k.val = some { n with taken := some { c with auxSent := true } })) ∧
       ((c.resultSent = true ∨ c.beat ≠ s.time.beat ∨ slotFree n.resultNs s = false) →
         exec (.nodeResultSend l k) s = .next (fresh s)) ∧
       ((c.auxSent = true ∨ c.beat + 1 ≠ s.time.beat ∨ slotFree n.auxNs s = false) →
         exec (.nodeAuxSend l k) s = .next (fresh s))) ∧
     (let due := n.announced.map (fun b => b / 1000) ≠ some (s.time.beat / 1000)
      (n.addr = none → n.resetSelf = true → n.inStep s.time.beat = true → due → tickOf s ≤ 186 →
       Does (.nodeAnnounceSend l k) s (fun t => t.sent = [.node l.val k.val n.toEnd (max s.time.ns 400000)
           (mkFrame 8 0xFE n.held 0 (announceBytes n.ident.uid n.ident.nodeType n.ident.proto))] ∧
         nodeAt t l.val k.val = some { n with announced := some s.time.beat })) ∧
      ((n.addr ≠ none ∨ n.resetSelf = false ∨ ¬ due ∨ 186 < tickOf s) → exec (.nodeAnnounceSend l k) s = .next (fresh s))))

/-- The front end: each stream sample is stored under its place, its current within the range and marked where it lies
outside, the voltages within theirs, in a gain beat those of tick 300 repeating tick 250; the sample of tick 200 is
the aligned one of its beat; the gain check sets its flag where a gain deviates by more than 200 ppm; at tick 20, once
in a beat, the charge counter takes the currents of the beat before (05 R117, R120 to R122, R128, R129). -/
def Obligations.FrontEnd : Prop :=
  ∀ (s : State), awake s = true → s.st.mode.fromLoaded = true →
    (∀ (k : Fin 8) (pv vs vl : Int), Does (.streamSample k pv vs vl) s (fun t => ∃ x, t.meas.stream[k] = some x ∧
      -currentRange s ≤ x.i ∧ x.i ≤ currentRange s ∧ (x.iBad = false → x.i = shuntCurrent pv s) ∧
      (x.iBad = true → t.meas.curOvr = true) ∧ x.vStr ≤ 180000000 ∧ -5000000 ≤ x.vLnk ∧ x.vLnk ≤ 180000000 ∧
      ((gainBeat s = false ∨ k ≠ 6) → x.vStr = min vs 180000000 ∧ x.vLnk = clampI (-5000000) 180000000 vl) ∧
      (∀ y, gainBeat s = true → k = 6 → s.meas.stream[(5 : Fin 8)] = some y →
        x.vStr = min y.vStr 180000000 ∧ x.vLnk = clampI (-5000000) 180000000 y.vLnk) ∧
      (∀ j : Fin 8, j ≠ k → t.meas.stream[j] = s.meas.stream[j]) ∧ t.st = s.st ∧ t.saf = s.saf)) ∧
    (∀ x, s.meas.stream[(4 : Fin 8)] = some x → Does .alignedSample s (fun t =>
      t.meas.aligned = some { beat := s.time.beat, fe := x } ∧ t.meas.alignedE = t.meas.aligned ∧
      t = { fresh s with meas := { s.meas with aligned := t.meas.aligned, alignedE := t.meas.alignedE } })) ∧
    (∀ a b : Int, gainBeat s = true → Does (.gainCheck a b) s (fun t =>
      t.meas.azStr = (s.meas.azStr || decide (200 < a.natAbs)) ∧ t.meas.azLnk = (s.meas.azLnk || decide (200 < b.natAbs)) ∧
      t.st = s.st ∧ t.saf = s.saf)) ∧
    (hadTurn .charge s = true → exec .chargeCommit s = .next (fresh s)) ∧
    (tickOf s ≤ 20 → hadTurn .charge s = false → Does .chargeCommit s (fun t => tickOf t = 20 ∧ hadTurn .charge t = true ∧
      t.meas.qSum = s.meas.qSum + (prevCurrents s).foldl (fun a b => a + b) 0 ∧
      t.meas.iMean = divNear ((prevCurrents s).foldl (fun a b => a + b) 0) 8 ∧ t.st = s.st ∧ t.saf = s.saf))

/-- The accord check at a multiple of 1 000 beats, once in the beat, over the window that ended with the beat before:
fewer than 500 usable beats are a skipped evaluation and leave R_out and the verdicts alone; otherwise the evaluation
counts, and ACCORD_FAULT, once set, stays and brings ACCORD_WARN with it (05 R139 to R142). Insulation and snapshots:
a due cycle begins with phase 1, a settled phase 1 goes over to phase 2 and keeps its reading, a settled phase 2 ends
the cycle with the result of both, 10 000 beats without settling end it without one, and so does the turn of another
module; TAKE asks for a snapshot, which is taken whole at tick 330, once what it holds is there (05 R130, R131, R145).
The result of a cycle is a free function of its two readings (log 10). -/
def Obligations.AccordAndInsulation : Prop :=
  (∀ (s : State), awake s = true → s.st.mode.fromArmed = true → s.time.beat % 1000 = 0 → tickOf s ≤ 330 →
     (hadTurn .accord s = true → exec .accordEvaluation s = .next (fresh s)) ∧
     (let w := if hadTurn .commit s then s.meas.acc.winPrev else s.meas.acc.win
      hadTurn .accord s = false →
      Does .accordEvaluation s (fun t => tickOf t = 330 ∧ t.st = s.st ∧ t.saf = s.saf ∧
       (if hadTurn .commit s then t.meas.acc.winPrev else t.meas.acc.win) = AccWin.start ∧
       (w.n < 500 → t.meas.acc.skipped = min 255 (s.meas.acc.skipped + 1) ∧ t.meas.acc.rOut = s.meas.acc.rOut ∧
         t.meas.acc.evals = s.meas.acc.evals ∧ t.meas.acc.warn = s.meas.acc.warn ∧ t.meas.acc.fault = s.meas.acc.fault) ∧
       (500 ≤ w.n → t.meas.acc.evals = min 65535 (s.meas.acc.evals + 1) ∧ t.meas.acc.skipRun = 0 ∧
         (s.meas.acc.fault = true → t.meas.acc.fault = true) ∧ (t.meas.acc.fault = true → t.meas.acc.warn = true))))) ∧
  (∀ (s : State), awake s = true →
     (s.st.mode.fromLoaded = true → s.meas.ins.phase = none → s.meas.ins.nextDue ≤ s.time.beat → measuresIns s = true →
       Does .insulationCycleStart s (fun t => t.meas.ins.phase = some (1, s.time.beat) ∧
         t.meas.ins.result = s.meas.ins.result ∧ t.st = s.st ∧ t.saf = s.saf)) ∧
     (∀ v : Int, measuresIns s = false → Does (.insulationPhaseSettled v) s (fun t => t.meas.ins.phase = none ∧
       t.meas.ins.result = s.meas.ins.result ∧ t.st = s.st ∧ t.saf = s.saf)) ∧
     (∀ (v : Int) (b : Nat), measuresIns s = true → b + 500 ≤ s.time.beat → s.time.beat ≤ b + 10000 →
       (s.meas.ins.phase = some (1, b) → Does (.insulationPhaseSettled v) s (fun t =>
         t.meas.ins.phase = some (2, s.time.beat) ∧ t.meas.ins.v1 = v ∧ t.meas.ins.result = s.meas.ins.result ∧
         t.st = s.st ∧ t.saf = s.saf)) ∧
       (s.meas.ins.phase = some (2, b) → Does (.insulationPhaseSettled v) s (fun t => t.meas.ins.phase = none ∧
         t.meas.ins.result = some (Config.insBridge s.meas.ins.v1 v) ∧ t.meas.ins.endBeat = s.time.beat ∧
         t.meas.ins.source = 0))) ∧
     (∀ p b, s.meas.ins.phase = some (p, b) → b + 10000 ≤ s.time.beat → exec .insulationPhaseTimeout s =
       .next { fresh s with meas := { s.meas with ins := { s.meas.ins with phase := none } } }) ∧
     (∀ (i : Fin 32) (v : Word), MayWrite i s → wBits (v ||| b31) 11 8 ≤ 7 → s.meas.snapPending = false →
       Does (.take i v) s (fun t => t.meas = { s.meas with snapPending := true, snapValid := false } ∧ t.st = s.st ∧
         t.saf = s.saf)) ∧
     (s.meas.snapPending = true → tickOf s ≤ 330 → snapReady s = true → Does .snapshotCapture s (fun t => t.meas.snapPending = false ∧
       t.meas.snapValid = true ∧ tickOf t = 330 ∧ (∃ n, t.meas.snap = some n ∧ n.beat = s.time.beat ∧
         n.pos = s.meas.pos ∧ n.temps = s.meas.temps ∧ n.iMean = s.meas.iMean ∧ n.q = chargeUc s.meas) ∧ t.st = s.st ∧
       t.saf = s.saf)))

/-- The end of a window of a bin, once in a beat by tick 330: every position's ambient and requested results of that bin
take the window by R148 to R151 and R159, but those of a position whose engine item was stopped in this beat stay; no
other bin, no chime and no lock-in result changes; where a beat of the window is missing, nothing does; a burst that
has ended leaves the plan, and gives its result only where every sample of it was VALID (02 R40; 06 R147 to R151,
R155, R156, R159). -/
def Obligations.SpectrumWindows : Prop :=
  ∀ (s : State), awake s = true → s.st.mode.fromArmed = true →
    (∀ k : Fin 31, s.time.beat % winHop k.val = 0 → winLen k.val ≤ s.time.beat → tickOf s ≤ 330 →
      ((hadTurn (.window k.val) s = true ∨ windowOf s (s.time.beat - winLen k.val) (winLen k.val) = none) →
        exec (.windowEnd k) s = .next (fresh s)) ∧
      (∀ l, hadTurn (.window k.val) s = false → windowOf s (s.time.beat - winLen k.val) (winLen k.val) = some l →
        Does (.windowEnd k) s (fun t =>
        t.spec.pos.length = s.spec.pos.length ∧ hadTurn (.window k.val) t = true ∧ t.st = s.st ∧ t.saf = s.saf ∧
        t.meas = s.meas ∧ ∀ p < s.spec.pos.length,
          (workStopped .window p s = true → specAt t p = specAt s p) ∧
          (∀ j ≠ k.val, (specAt t p).amb[j]? = (specAt s p).amb[j]? ∧ (specAt t p).req[j]? = (specAt s p).req[j]?) ∧
          (specAt t p).chime = (specAt s p).chime ∧ (specAt t p).lockin = (specAt s p).lockin ∧
          (workStopped .window p s = false → ∃ n,
            let r := takeWindow s k.val l (interpolate n ((posSeries p l).map (fun x => (x.1, x.2 == .valid))))
              (windowOk ((posSeries p l).map (·.2)) (l.any (fun r => r.ic.any (fun x => x.1 == p))) l)
              (transform k.val (currents l))
              (inDwell s k.val (((l.head?).map (·.beat)).getD 0) (((l.getLast?).map (·.beat)).getD 0))
              (((specAt s p).amb[k.val]?).getD default) (((specAt s p).req[k.val]?).getD default)
            (k.val < (specAt s p).amb.length → (specAt t p).amb[k.val]? = some r.1) ∧
            (k.val < (specAt s p).req.length → (specAt t p).req[k.val]? = some r.2.1))))) ∧
    (∀ (p : Fin 1024) (b : Burst),
      s.spec.bursts.find? (fun b => b.pos == p.val && decide (b.stop < s.time.beat)) = some b →
      Does (.burstEnd p) s (fun t => t.spec.bursts = s.spec.bursts.erase b ∧ t.st = s.st ∧ t.saf = s.saf ∧
        (windowOf s b.start (b.stop + 1 - b.start) = none → t.spec.pos = s.spec.pos) ∧
        (∀ l, windowOf s b.start (b.stop + 1 - b.start) = some l →
          if (posSeries p.val l).all (fun x => x.2 == .valid) && l.all (fun r => !r.fe.iBad) then
            p.val < s.spec.pos.length → b.bin < (specAt s p.val).chime.length →
            ((specAt t p.val).chime[b.bin]?).map (·.results) = some ((burstResult b l ::
              (((specAt s p.val).chime[b.bin]?).getD default).results).take 4)
          else t.spec.pos = s.spec.pos)))

/-- The stimulus plan: a chime round is fixed or passed over; a campaign begins, after those that run, with the commands
of its parity, and ends by its last beat; a dwell of a request begins at a hop of its bin, with the settings of now;
each changes nothing but the spectroscopy state (06 R153 to R155, R157 to R159, R172). Spectrum snapshots and derived
quantities: a capture at tick 330, once in a beat, takes the next SEQ into slot SEQ mod 16 with one record per
position; the slot then completes; the derived update, once in a beat by tick 330, sets K_HI and K_LO of every
position from its VALID bins, and leaves a position alone whose engine item was stopped in this beat (02 R40; 06 R158,
R160 to R166). -/
def Obligations.StimulusAndSlots : Prop :=
  (∀ (s : State),
     (plansStim s = true → s.spec.toSend = [] → s.spec.nextRound ≤ s.time.beat + 100 → Does .chimeRoundStart s (fun t =>
       let b := upTo 100 (max s.spec.nextRound (s.time.beat + 50))
       let l := roundBursts s s.spec.round b
       s.time.beat < t.spec.nextRound ∧ t = { fresh s with spec := t.spec } ∧
       (l = [] → t.spec.toSend = [] ∧ t.spec.round = s.spec.round + 1) ∧
       (l ≠ [] → campaignMeets s b ((l.map (·.stop)).foldl max b) = true → t.spec.toSend = [] ∧
         t.spec.round = s.spec.round) ∧
       (l ≠ [] → campaignMeets s b ((l.map (·.stop)).foldl max b) = false → t.spec.toSend = l ∧
         t.spec.round = s.spec.round + 1))) ∧
     (∀ par c0 r, plansStim s = true → s.spec.campaigns = (par, c0) :: r → s.spec.running.length ≤ 1 →
       c0 ≤ s.time.beat + 100 → 10 ≤ ageMax s → Does .lockinCampaignStart s (fun t => t.spec.campaigns = r ∧
         ∃ c, c0 ≤ c ∧ s.time.beat < c ∧ c % 1000 = 0 ∧ (∀ x ∈ s.spec.running, x.2.2 ≤ c) ∧
           t.spec.lockToSend = s.spec.lockToSend ++ lockRuns s par c ∧
           t.spec.running = s.spec.running ++ [(par, c, c + 1000 * popCount 40 (specCfg s).lockinBins)] ∧
           t = { fresh s with spec := t.spec })) ∧
     (∀ x y c1 r, awake s = true → s.spec.running = (x, y, c1) :: r → c1 ≤ s.time.beat → Does .lockinCampaignEnd s (fun t =>
       t.spec.running = r ∧ (∀ k ∈ t.spec.lockToSend, s.time.beat < k.stop) ∧
       (∀ k ∈ t.spec.locks, s.time.beat < k.stop) ∧ t = { fresh s with spec := t.spec })) ∧
     (∀ k, requests s = true → nextReqBin (specCfg s).reqBins s.spec.lastBin = some k →
       (∀ d, s.spec.dwell = some d → d.stop ≤ s.time.beat) → s.time.beat % winHop k = 0 →
       let x : Dwell := { bin := k, first := s.time.beat, stop := s.time.beat + 2 * winLen k, ampl := (specCfg s).reqAmpl }
       exec .requestDwellStart s =
         .next { fresh s with spec := { s.spec with dwellOld := s.spec.dwell, lastBin := some k, dwell := some x } })) ∧
  (∀ (s : State), awake s = true →
     (s.st.mode.fromArmed = true → s.time.beat % snapInterval s = 0 → tickOf s ≤ 330 → hadTurn .spectrum s = false →
       s.spec.slots.length = 16 →
       Does .spectrumCapture s (fun t => t.spec.seq = s.spec.seq + 1 ∧ tickOf t = 330 ∧ hadTurn .spectrum t = true ∧
         t.spec.reqHonoured = false ∧
         t.st = s.st ∧ t.saf = s.saf ∧ (∃ x, t.spec.slots[(s.spec.seq + 1) % 16]? = some x ∧ x.seq = s.spec.seq + 1 ∧
           x.st = 1 ∧ x.recs.length = s.spec.pos.length) ∧
         ∀ j, j ≠ (s.spec.seq + 1) % 16 → t.spec.slots[j]? = s.spec.slots[j]?)) ∧
     (∀ x, s.spec.slots[s.spec.seq % 16]? = some x → x.st = 1 → x.seq = s.spec.seq → Does .slotComplete s (fun t =>
       t.spec.slots = s.spec.slots.set (s.spec.seq % 16) { x with st := 2 } ∧ t.st = s.st ∧ t.saf = s.saf)) ∧
     (s.st.mode.fromArmed = true → s.time.beat % 100 = 1 → tickOf s ≤ 330 → hadTurn .derived s = false →
       Does .derivedUpdate s (fun t =>
       t.spec.pos.length = s.spec.pos.length ∧ hadTurn .derived t = true ∧ t.st = s.st ∧ t.saf = s.saf ∧
       ∀ p < s.spec.pos.length, (workStopped .derived p s = true → specAt t p = specAt s p) ∧
         (workStopped .derived p s = false →
           (specAt t p).kHi = kHiOf s p ∧ (specAt t p).kLo = (if binValid s p 12 then some 12 else none) ∧
           (kHiOf s p = none → (specAt t p).rOhm = (specAt s p).rOhm)))))

/-- A filter's step, from the last beat stepped to the beat before this one, while E0 to E7 may take it: the charge that
passed since joins the filter; it starts at its first VALID sample and not before; a step that is not due, or that an
overrun or throttling keeps from being taken, does nothing; no other filter changes (02 R36, R40; 07 R173, R176, R179,
R180, R195). The estimator's other times: the second's judgement takes the mean of each filter's voltage estimates and
begins a new one, but for a position whose engine item was stopped in this beat; the hour counts the starvation of
every filter that has started; a warning that comes up is latched, and no latch clears; each once in its beat;
REF_RESET drops every reference spectrum and changes nothing else of the filters (07 R187 to R193). -/
def Obligations.Estimator : Prop :=
  ((∀ (p : Fin 1024) (s : State), stepOpen p.val s = false → exec (.filterStep p) s = .next (fresh s)) ∧
   ∀ (p : Fin 1024) (r : BeatRec) (f : Filter) (s : State), stepOpen p.val s = true → lastRec s = some r →
     s.est.filters[p.val]? = some f →
     let q := f.q + (chargeUc s.meas - f.qSeen + f.qExtra / 1000)
     (f.started = false → Does (.filterStep p) s (fun t => (filterAt t p.val).q = q ∧
       (filterAt t p.val).qSeen = chargeUc s.meas ∧
       (filterAt t p.val).started = (((r.pos[p.val]?).getD (0, .missed)).2 == .valid) ∧
       (∀ j ≠ p.val, t.est.filters[j]? = s.est.filters[j]?) ∧ t.st = s.st ∧ t.saf = s.saf)) ∧
     (f.started = true → f.lastBeat < r.beat → Does (.filterStep p) s (fun t => (filterAt t p.val).q = q ∧
       (filterAt t p.val).started = true ∧ (filterAt t p.val).lastBeat = r.beat ∧
       (∀ j ≠ p.val, t.est.filters[j]? = s.est.filters[j]?) ∧ t.st = s.st ∧ t.saf = s.saf)) ∧
     (f.started = true → r.beat ≤ f.lastBeat → exec (.filterStep p) s = .next (fresh s))) ∧
  ((∀ s : State, awake s = true → s.st.mode.fromArmed = true → s.est.running = true →
     (hadTurn .second s = true → exec .secondJudgement s = .next (fresh s)) ∧
     (hadTurn .hour s = true → exec .anchorHour s = .next (fresh s)) ∧
     (hadTurn .warning s = true → exec .warningEvaluation s = .next (fresh s)) ∧
     (s.time.beat % 1000 = 0 → tickOf s ≤ 330 → hadTurn .second s = false → hadTurn .warning s = false →
       Does .secondJudgement s (fun t => t.st = s.st ∧ t.saf = s.saf ∧ hadTurn .second t = true ∧
       ∀ p f, s.est.filters[p]? = some f →
         (workStopped .filter p s = true → t.est.filters[p]? = some { f with svSum := 0, svN := 0 }) ∧
         (workStopped .filter p s = false → f.svN = 0 → t.est.filters[p]? = some f) ∧
         (workStopped .filter p s = false → f.svN ≠ 0 → (filterAt t p).svSum = 0 ∧ (filterAt t p).svN = 0 ∧
           (filterAt t p).sV = some (f.svSum / (f.svN : Rat))))) ∧
     (s.est.t6Beat < s.time.beat → (s.time.beat - s.est.t6Beat) % 3600000 = 0 → hadTurn .hour s = false →
       Does .anchorHour s (fun t =>
       t.st = s.st ∧ t.saf = s.saf ∧ hadTurn .hour t = true ∧ ∀ p f, s.est.filters[p]? = some f →
         (f.started = false → t.est.filters[p]? = some f) ∧
         (f.started = true → (filterAt t p).h = min 65535 (f.h + 1) ∧ (filterAt t p).qaThisHour = false ∧
           (filterAt t p).g = if min 65535 (f.h + 1) ≤ starveH s then f.g
             else min 500000 (f.g + if f.qaThisHour then 100 else 400)))) ∧
     (s.time.beat % 100 = 0 → tickOf s ≤ 330 → hadTurn .warning s = false → workStopped .warning 0 s = false → Does .warningEvaluation s (fun t => tickOf t = 330 ∧
       (∀ b < 6, s.est.latch.testBit b = true → t.est.latch.testBit b = true) ∧
       (∀ b < 6, t.est.live.testBit b = true → s.est.live.testBit b = false → t.est.latch.testBit b = true) ∧
       t.est.sumNext.isSome = true ∧ t.est.filters = s.est.filters ∧ t.st = s.st ∧ t.saf = s.saf))) ∧
   (∀ (i : Fin 32) (s : State), MayWrite i s → Does (.refReset i) s (fun t =>
     t.est = { s.est with filters := s.est.filters.map (fun f => { f with refSpec := none }) } ∧ t.st = s.st ∧ t.saf = s.saf)))

/-- GO in SEED_CTRL for one position or for all: outside LOADED its RESULT is 2, for a position that is not mapped 3, for
values out of range 1, and none of these stores a seed; an accepted one stores the staged values for every position it
names in place of an earlier seed of it, and changes no other seed (07 R194, Table 07-11). -/
def Obligations.SeedResults : Prop :=
  ∀ (i : Fin 32) (v : Word) (s : State), MayWrite i s →
    let n := s.meas.pos.length
    let l := if wBit (v ||| b31) 30 then List.range n else [wBits (v ||| b31) 9 0]
    (s.st.mode ≠ .loaded → Does (.seedCtrlGo i v) s (fun t => t.est = { s.est with seedResult := 2 } ∧ t.st = s.st)) ∧
    (s.st.mode = .loaded → (∃ p ∈ l, n ≤ p) → Does (.seedCtrlGo i v) s (fun t =>
      t.est = { s.est with seedResult := 3 } ∧ t.st = s.st)) ∧
    (s.st.mode = .loaded → (∀ p ∈ l, p < n) → (∃ p ∈ l, seedOk s p = false) → Does (.seedCtrlGo i v) s (fun t =>
      t.est = { s.est with seedResult := 1 } ∧ t.st = s.st)) ∧
    (s.st.mode = .loaded → (∀ p ∈ l, p < n ∧ seedOk s p = true) → Does (.seedCtrlGo i v) s (fun t =>
      t.est.seedResult = 0 ∧ t.st = s.st ∧
      (∀ p ∈ l, ∃ x ∈ t.est.seeds, x.pos = p ∧ x.soc = s.est.seedSoc ∧ x.socU = s.est.seedSocU ∧ x.q = s.est.seedQ ∧
        x.qU = s.est.seedQU) ∧
      (∀ x, x.pos ∉ l → (x ∈ t.est.seeds ↔ x ∈ s.est.seeds)) ∧ t.est.filters = s.est.filters))

/-- Cell supervision: the records of a round are rewritten once, from the beat after its last tap commit to tick 330 of
beat 999, or, where the engine item was stopped in this beat, not at all; its effects come at tick 0 of the first beat
of the next round: the counts of live cells take over, and a position that lost one has its capacity marked suspect
(02 R40; 08 R199, R209, R210). Heat and balance: every judged class has the level and the factor of its T_eff, and
f_therm and f_die are no greater than any factor of theirs; each once in its beat; a plan holds eligible positions
only, and at most the calibre's number on one node (09 R224 to R226, R228, R230). -/
def Obligations.CellsHeatAndBalance : Prop :=
  (∀ s : State, awake s = true → cellRun s = true →
     (821 ≤ s.time.beat % 1000 → (s.time.beat % 1000 = 999 → tickOf s ≤ 330) →
       s.cells.round ≠ some (s.time.beat / 1000) → s.cells.lost ≠ some (s.time.beat / 1000) →
       (workStopped .cells 0 s = true → exec .cellRoundUpdate s =
         .next { fresh s with cells := { s.cells with lost := some (s.time.beat / 1000) } }) ∧
       (workStopped .cells 0 s = false → Does .cellRoundUpdate s (fun t =>
       t.cells.round = some (s.time.beat / 1000) ∧ t.cells.pos.length = s.cells.pos.length ∧
       (s.cells.newWeak = true → t.cells.newWeak = true) ∧ (s.cells.newOpen = true → t.cells.newOpen = true) ∧
       (s.cells.newShort = true → t.cells.newShort = true) ∧ t.st = s.st ∧ t.saf = s.saf))) ∧
     ((s.cells.round = some (s.time.beat / 1000) ∨ s.cells.lost = some (s.time.beat / 1000)) → exec .cellRoundUpdate s = .next (fresh s)) ∧
     (s.time.beat % 1000 = 0 → s.time.ns = 0 → s.cells.round.isSome = true → Does .roundEffect s (fun t =>
       t.cells.pos = s.cells.pos.map (fun c => { c with nLive := c.nLiveNext }) ∧ t.cells.taps = s.cells.taps ∧
       (∀ p c f, s.cells.pos[p]? = some c → s.est.filters[p]? = some f →
         (c.nLiveNext = c.nLive → t.est.filters[p]? = some f) ∧
         (c.nLiveNext ≠ c.nLive → (filterAt t p).capSuspect = true)) ∧ t.st = s.st ∧ t.saf = s.saf))) ∧
  (∀ s : State, loopsOn s = true →
     (∀ die : Int, hadTurn .thermal s = true → exec (.thermalJudgement die) s = .next (fresh s)) ∧
     (hadTurn .balance s = true → exec .balancePlan s = .next (fresh s)) ∧
     (∀ die : Int, tickOf s ≤ 40 → hadTurn .thermal s = false → Does (.thermalJudgement die) s (fun t => tickOf t = 40 ∧ t.lim.lim = s.lim.lim ∧
       t.st = s.st ∧ t.saf = s.saf ∧ ∀ (k : Nat) (c : ThermCfg) (x : ThermSt),
         (((s.cal.map (·.therm)).getD [])[k]?) = some c → t.lim.therm[k]? = some x →
         (∀ e, x.tEff = some e → x.level = thermLevel c e ∧ x.factor = thermFactor c e) ∧
         (c.cls ≠ 3 → t.lim.fTherm ≤ x.factor) ∧ (c.cls = 3 → t.lim.fDie ≤ x.factor))) ∧
     ((s.st.mode = .armed ∨ s.st.mode = .run ∨ s.st.mode = .stop) → s.time.beat % 100 = 1 → tickOf s ≤ 330 →
       hadTurn .balance s = false → Does .balancePlan s (fun t => tickOf t = 330 ∧ t.st = s.st ∧ t.saf = s.saf ∧ ∀ p ∈ t.lim.plan,
         p < s.meas.pos.length ∧ eligible s p = true ∧
         (t.lim.plan.filter (fun q => (placeOf s q).map (fun x => x.2.2) == (placeOf s p).map (fun x => x.2.2) &&
           bleedsBefore s q p)).length < s.lim.maxNode)))

/-- The loops: a snapshot at tick 40 of the first beat of a loop's period takes its input and leaves its output; at tick
360 of the last beat the output is written, once, within the loop's bounds, the low bound where its input is STALE,
the setpoint where its kind is 2, unless E10 has overrun in a beat of the period; no other loop changes (02 R43; 09
R217, R218). -/
def Obligations.LoopPeriods : Prop :=
  ∀ (id : Fin 64) (k : Nat) (s : State), loopsOn s = true →
    (∀ (c : LoopCfg) (x : LoopSt), s.cal.bind (fun c => c.loops.findIdx? (fun l => l.id == id.val)) = some k →
      s.cal.bind (fun c => c.loops[k]?) = some c → s.lim.loops[k]? = some x → s.time.beat % c.period = 0 → tickOf s ≤ 40 →
      Does (.loopSnapshot id) s (fun t => tickOf t = 40 ∧ (∃ y, t.lim.loops[k]? = some y ∧ y.cfg = c ∧ y.begun = true ∧
        y.u = x.u ∧ y.stale = (loopInput s c.inSel).isNone) ∧ (∀ j ≠ k, t.lim.loops[j]? = s.lim.loops[j]?) ∧
        t.lim.lim = s.lim.lim ∧ t.st = s.st ∧ t.saf = s.saf)) ∧
    (∀ x : LoopSt, s.lim.loops.findIdx? (fun x => x.cfg.id == id.val) = some k → s.lim.loops[k]? = some x →
      x.begun = true → (s.time.beat + 1) % x.cfg.period = 0 → tickOf s ≤ 360 →
      hadTurn (.loopEnd id.val) s = false → hadTurn .publish s = false →
      (((engineAt s 10).ovrThisBeat = true ∨ x.lost = true) → exec (.loopPeriodEnd id) s = .next (fresh s)) ∧
      ((engineAt s 10).ovrThisBeat = false → x.lost = false → Does (.loopPeriodEnd id) s (fun t => tickOf t = 360 ∧ (∃ y, t.lim.loops[k]? = some y ∧
        (x.cfg.outMin ≤ x.cfg.outMax → x.cfg.outMin ≤ y.u ∧ y.u ≤ x.cfg.outMax) ∧
        (x.cfg.kind = 2 → y.u = clampI x.cfg.outMin x.cfg.outMax x.cfg.setpoint) ∧
        (x.cfg.kind ≠ 2 → x.stale = true → y.u = x.cfg.outMin)) ∧ (∀ j ≠ k, t.lim.loops[j]? = s.lim.loops[j]?) ∧
        t.lim.lim = s.lim.lim ∧ t.st = s.st ∧ t.saf = s.saf)))

/-- Publication, at tick 360 and once in a beat: outside RUN, or while the loops hold, every limit is 0; in RUN no limit
of a direction exceeds that of a shorter horizon, none exceeds its envelope, and the charge limits are 0 while charge
is forbidden (09 R222 to R227; 10 R245). -/
def Obligations.LimitsPublished : Prop :=
  ∀ s : State, loopsOn s = true → tickOf s ≤ 360 →
   (hadTurn .publish s = true → exec .limitPublication s = .next (fresh s)) ∧
   (hadTurn .publish s = false → Does .limitPublication s (fun t => tickOf t = 360 ∧
    t.lim.limBeat = s.time.beat ∧ t.st = s.st ∧ t.saf = s.saf ∧ t.lim.chgCold = coldCharge s ∧
    (s.st.mode ≠ .run ∨ s.time.loopHold = true → t.lim.lim = Vector.replicate 8 0) ∧
    (∀ d < 2, ∀ h < 3, getNat t.lim.lim (4 * d + h + 1) ≤ getNat t.lim.lim (4 * d + h)) ∧
    (∀ b, s.saf.copyA = some b → s.lim.fTherm ≤ 1000000 → ∀ h < 4, getNat t.lim.lim h ≤ b.iDisEnv ∧
      getNat t.lim.lim (4 + h) ≤ b.iChgEnv) ∧
    (coldCharge s = true → ∀ h < 4, getNat t.lim.lim (4 + h) = 0)))

/-- What latches: a failed self test, an overcurrent that has lasted, the second missing edge, and a working copy whose
CRC no longer agrees latch their cause in their channel; a latch of one channel turns off the switches of the other;
the comparator's state follows the current (10 R235, R244, R248 to R250). -/
def Obligations.SafetyLatches : Prop :=
  ∀ s : State,
    (awake s = true → s.saf.monitor = true →
      (tickOf s ≤ 330 → (Chan.a, Cause.internal) ∉ s.saf.latched → Does (.selfTest false) s (LatchedNow .a .internal s)) ∧
      (s.saf.overI = true → (Chan.b, Cause.fastOc) ∉ s.saf.latched → Does .fastOc s (LatchedNow .b .fastOc s)) ∧
      (s.saf.edgeSeen = true → 1 ≤ s.saf.missing → (Chan.b, Cause.toggle) ∉ s.saf.latched →
        Does .toggleMissing s (LatchedNow .b .toggle s)) ∧
      (s.saf.edgeSeen = true → s.saf.missing = 0 → Does .toggleMissing s (fun t => t.saf.missing = 1 ∧
        t.saf.toggleOk = false ∧ t.saf.latched = s.saf.latched ∧ t.st = s.st)) ∧
      (hadTurn .recheck s = true → exec .crcRecheck s = .next (fresh s)) ∧
      (s.time.beat % 1000 = 0 → tickOf s ≤ 340 → hadTurn .recheck s = false → Does .crcRecheck s (fun t => tickOf t = 340 ∧
        t.saf.crcA = crc32c (s.saf.rawA.take 0xFC) ∧ t.saf.crcB = crc32c (s.saf.rawB.take 0xFC) ∧
        (t.saf.crcB ≠ s.saf.accB → (Chan.b, Cause.sbCorrupt) ∈ t.saf.latched) ∧
        (t.saf.crcA ≠ s.saf.accA ∨ t.saf.crcB ≠ s.saf.accA → (Chan.a, Cause.sbCorrupt) ∈ t.saf.latched) ∧
        (t.saf.crcA = s.saf.accA → t.saf.crcB = s.saf.accA → t.saf.crcB = s.saf.accB →
          t.saf.latched = s.saf.latched ∧ t.st = s.st)))) ∧
    (awake s = true → tickOf s ≤ 330 → exec (.selfTest true) s = .next (fresh s)) ∧
    (s.saf.latchA = true → Does .latchA s (fun t => t.st = s.st ∧ ∀ k < 4, (getNat t.saf.k k).ls = false)) ∧
    (s.saf.latchB = true → Does .latchB s (fun t => t.st = s.st ∧ ∀ k < 4, (getNat t.saf.k k).hs = false)) ∧
    (awake s = true → exec .overcurrentOnset s = .next { fresh s with saf := { s.saf with overI := true } }) ∧
    exec .overcurrentEnd s = .next { fresh s with saf := { s.saf with overI := false } }

/-- The channels' beat: channel A's evaluation keeps what has latched and latches a position whose second VALID sample in
a row lies above V_POS_MAX, and an accord fault; requests apply at tick 350, after an evaluation TOGGLE changes, and
outside RUN every high-side switch is off; at the edge no low-side switch stays on while a channel has latched; ALIVE
counts (10 R233, R235, R238, R247, R250, R252 to R254). -/
def Obligations.ChannelsEachBeat : Prop :=
  ∀ s : State, awake s = true →
    (s.saf.monitor = true →
      (∀ (l : List Nat) (b : SafetyBlock), s.saf.copyA = some b → tickOf s ≤ 340 → s.saf.evalBeat ≠ some s.time.beat →
        Does (.channelAEvaluation l) s (fun t => t.saf.evalBeat = some s.time.beat ∧ tickOf t = 340 ∧
          (∀ x ∈ s.saf.latched, x ∈ t.saf.latched) ∧
          (s.meas.acc.fault = true → (Chan.a, Cause.accord) ∈ t.saf.latched) ∧
          (∀ (p : Nat) (x : PosM) (w : Watched), s.meas.posBeat = s.time.beat → s.meas.pos[p]? = some x →
            s.saf.posW[p]? = some w → x.code = .valid → b.vPosMax < x.value → 1 ≤ w.count →
            (Chan.a, Cause.posOv) ∈ t.saf.latched))) ∧
      (tickOf s ≤ 350 → (∀ x, s.saf.applied = some x → x.1 ≠ s.time.beat) → Does .requestApplication s (fun t =>
        tickOf t = 350 ∧ (t.saf.applied.map (·.1)) = some s.time.beat ∧ t.st = s.st ∧
        (s.saf.evalBeat = some s.time.beat → t.saf.toggle = !s.saf.toggle ∧ t.saf.edgePending = true) ∧
        (s.saf.evalBeat ≠ some s.time.beat → t.saf.toggle = s.saf.toggle) ∧
        (s.st.mode ≠ .run → ∀ k < 4, (getNat t.saf.k k).hs = false ∧ (getNat t.saf.k k).closeReq = false))) ∧
      (∀ (us : Nat) (l : List Nat), s.saf.edgePending = true → Does (.toggleEdge us l) s (fun t =>
        t.saf.edgePending = false ∧ t.saf.edgeSeen = true ∧ t.saf.missing = 0 ∧
        (t.saf.toggleOk = true ↔ s.saf.edgeSeen = true ∧ s.saf.missing = 0 ∧ 750 ≤ us ∧ us ≤ 1250) ∧
        (s.saf.latchA = true ∨ s.saf.latchB = true → ∀ k < 4, (getNat s.saf.k k).pulse ≠ some false →
          (getNat t.saf.k k).ls = false)))) ∧
    exec .aliveAdvance s = .next { fresh s with saf := { s.saf with alive := (s.saf.alive + 1) % 16 } } ∧
    (∀ (i : Fin 32) (v : Word), MayWrite i s → s.saf.monitor = true → Does (.kCmd i v) s (fun t => t.st = s.st ∧
      t.saf = { s.saf with k := t.saf.k } ∧ ∀ k < 4, getNat t.saf.k k =
        { getNat s.saf.k k with openReq := (getNat s.saf.k k).openReq || wBit v k }))

/-- Safety inputs: a pin that asks opens the contactors of its mask in its channel at once and cancels their requests; a
pin that does not ask changes only its state; the other channel follows; a test pulse leaves at tick 100 of its beat,
and a pin that is high without the pulse's two low samples counts, the second time setting TP_FAULT (10 R264, R266).
Contactor tests: in its slot a closed contactor with no request is tested on the side that is next, HS at once and LS
by LS_TEST, which channel B takes at the edge, and the other side stays on; with a request, or for LS without an edge
to come, the test is postponed and counted; a pulse that passes ends with the switch on again where its channel still
permits it, and the sides in turn, and one that does not pass latches the cause of its side (10 R234, R259 to R262). -/
def Obligations.SafetyInputsAndTests : Prop :=
  (∀ s : State, awake s = true →
     (∀ (i : Fin 4) (b lv : Bool), Does (.safetyInputChange i b lv) s (fun t => t.st = s.st ∧
         (b = true → t.saf.sin[i].pinB = lv ∧ t.saf.sin[i].pinA = s.saf.sin[i].pinA) ∧
         (b = false → t.saf.sin[i].pinA = lv ∧ t.saf.sin[i].pinB = s.saf.sin[i].pinB))) ∧
     (s.saf.monitor = true → ∀ (i : Fin 4),
       (((sinCfg s i.val).mode = 1 ∨ (sinCfg s i.val).mode = 2) → Does (.safetyInputChange i false false) s (fun t =>
         ∀ k < 4, masks s i.val k = true → (getNat t.saf.k k).hs = false ∧ (getNat t.saf.k k).req = false)) ∧
       ((sinCfgB s i.val).mode = 1 → Does (.safetyInputChange i true false) s (fun t =>
         ∀ k < 4, masks s i.val k = true → (getNat t.saf.k k).ls = false ∧ (getNat t.saf.k k).req = false)) ∧
       ((sinCfgB s i.val).mode = 2 → Does (.safetyInputChange i true true) s (fun t =>
         ∀ k < 4, masks s i.val k = true → (getNat t.saf.k k).ls = false ∧ (getNat t.saf.k k).req = false)) ∧
       (asksB s i.val = true → Does (.pinFollow i false) s (fun t => t.st = s.st ∧ ∀ k < 4, masks s i.val k = true →
         (getNat t.saf.k k).hs = false)) ∧
       (asksA s i.val = true → Does (.pinFollow i true) s (fun t => t.st = s.st ∧ ∀ k < 4, masks s i.val k = true →
         (getNat t.saf.k k).ls = false))) ∧
     (∀ (tp : Fin 2) (l : List Nat), s.saf.monitor = true → s.time.beat % 100 = 25 + 50 * tp.val → tickOf s ≤ 100 →
       hadTurn (.testPulse tp.val) s = false →
       Does (.testPulse tp l) s (fun t => t.sent = [.tpPulse tp.val] ∧ tickOf t = 100 ∧ t.st = s.st ∧
         ∀ i < 4, (sinCfg s i).mode ≠ 0 → (sinCfg s i).test = tp.val + 1 → (getNat s.saf.sin i).pinA = true →
           (2 ≤ (l[2 * i]?).getD 0 → (getNat t.saf.sin i).a.tpMiss = 0) ∧
           ((l[2 * i]?).getD 0 < 2 → (getNat t.saf.sin i).a.tpMiss = min 255 ((getNat s.saf.sin i).a.tpMiss + 1) ∧
             (1 ≤ (getNat s.saf.sin i).a.tpMiss → (getNat t.saf.sin i).a.tpFault = true))))) ∧
  (∀ (k : Fin 4) (s : State), s.saf.monitor = true →
     (awake s = true → s.time.beat % 1000 = 100 + 200 * k.val → tickOf s ≤ 350 → testable s k.val = true →
       s.saf.k[k].pulse = none → s.saf.k[k].slotBeat ≠ some s.time.beat →
       let postpone := requestedNow (atTick 350 s) k.val || (s.saf.k[k].nextLs && !edgeAhead s)
       (postpone = true → Does (.offPulseTest k) s (fun t => t.saf.k[k].postponed = min 15 (s.saf.k[k].postponed + 1) ∧
         t.saf.k[k].hs = s.saf.k[k].hs ∧ t.saf.k[k].ls = s.saf.k[k].ls ∧ t.saf.k[k].pulse = none ∧
         (7 ≤ s.saf.k[k].postponed → t.saf.k[k].overdue = true) ∧ t.st = s.st)) ∧
       (postpone = false → s.saf.k[k].hs = true → s.saf.k[k].ls = true → Does (.offPulseTest k) s (fun t =>
         t.saf.k[k].ls = true ∧
         (s.saf.k[k].nextLs = false → t.saf.k[k].hs = false ∧ t.saf.k[k].pulse = some true) ∧
         (s.saf.k[k].nextLs = true → t.saf.k[k].hs = true ∧ t.saf.k[k].pulse = none ∧ t.saf.k[k].lsTest = true) ∧
         (∀ j : Fin 4, j ≠ k → t.saf.k[j] = s.saf.k[j]) ∧ tickOf t = 350 ∧ t.st = s.st))) ∧
     (∀ (us : Nat) (l : List Nat), awake s = true → s.saf.edgePending = true → Does (.toggleEdge us l) s (fun t =>
       t.saf.k[k].lsTest = false ∧
       (s.saf.k[k].pulse = none → t.saf.k[k].pulse = some false → s.saf.k[k].lsTest = true ∧ t.saf.k[k].ls = false))) ∧
     (∀ (b : Bool) (ma : Nat), s.saf.k[k].pulse = some b →
       let may := if b then permitBase s && s.saf.k[k].req && !holdA s k.val else permitB s k.val s.saf.k[k]
       (ma < 50 → Does (.offPulseEnd k ma) s (fun t => t.saf.k[k].pulse = none ∧
         t.saf.k[k].lastPass = true ∧ t.saf.k[k].nextLs = b ∧ t.saf.k[k].postponed = 0 ∧ t.saf.k[k].overdue = false ∧
         t.saf.k[k].hs = (s.saf.k[k].hs || (b && !s.saf.k[k].pulseOpened && may)) ∧
         t.saf.k[k].ls = (s.saf.k[k].ls || (!b && !s.saf.k[k].pulseOpened && may)) ∧ t.st = s.st)) ∧
       (50 ≤ ma → b = true → (Chan.a, Cause.testHs) ∉ s.saf.latched →
         Does (.offPulseEnd k ma) s (LatchedNow .a .testHs s)) ∧
       (50 ≤ ma → b = false → (Chan.b, Cause.testLs) ∉ s.saf.latched →
         Does (.offPulseEnd k ma) s (LatchedNow .b .testLs s))))

/-- The contactor jobs: a START whose conditions hold runs from an IDLE slot, one whose conditions do not is refused with
the DETAIL of the first that fails and changes nothing else, and a slot that is not IDLE refuses the write; the
precharge job commits at tick 350 after ten passing beats, ends twenty beats later with K_PRE asked to open, and
without a commit point fails with DETAIL 5 (10 R255 to R257; 13 R330). The other acts on a slot: ABORT of a RUNNING
contactor job before its commit point is latched in its tick; of another RUNNING job before it ends it ABORTED, but of
an ACTIVATE in the tick in which its trigger fires; and later than the commit point it only sets ABORT_LATE; CLEAR
returns an ended slot to IDLE with its argument kept, and of a RUNNING job is refused; a START with a reserved KIND is
refused with DETAIL 8 (10 R256; 13 R330 to R332; 16 Table 16-12). -/
def Obligations.Jobs : Prop :=
  ((∀ (i : Fin 32) (j : Fin 8) (s : State), MayWrite i s →
     let starts := fun (c : Instr) (kind : Nat) =>
       (s.host.jobs[j].st = .idle → contactorDetail j.val kind s = none → Does c s (fun t => t.host.jobs[j].st = .running ∧
         t.host.jobs[j].kind = kind ∧ t.host.jobs[j].session = i.val ∧ t.host.jobs[j].start = s.time.beat ∧
         (∃ x, t.saf.job = some x ∧ x.slot = j ∧ x.precharge = (kind == 1) ∧ x.commit = none) ∧
         (∀ k < 4, getNat t.saf.k k =
           { getNat s.saf.k k with lockout := (getNat s.saf.k k).lockout && demanded s k }) ∧
         t.st = s.st)) ∧
       (∀ d, s.host.jobs[j].st = .idle → contactorDetail j.val kind s = some d → Does c s (fun t =>
         t.host.jobs[j].st = .refused ∧ t.host.jobs[j].detail = d ∧ t.saf = s.saf ∧ t.st = s.st)) ∧
       (s.host.jobs[j].st ≠ .idle → Does c s (fun t => t.host.jobs = s.host.jobs ∧ t.saf = s.saf ∧ t.st = s.st ∧
         said t = [directRsp i 4 .access (0x2040 + 0x20 * j.val) []]))
     starts (.precharge i j) 1 ∧ starts (.closeMain i j) 2) ∧
   (∀ (x : JobRun) (b : SafetyBlock) (s : State), awake s = true → beforeRequests s = true → s.saf.job = some x →
     s.saf.copyA = some b → x.precharge = true →
     (∀ s0 c, x.s = some s0 → x.commit = none → x.cBeat = some c → x.abortAt = none → c ≤ s.time.beat →
       s.time.beat ≤ s0 + b.preTmax → Does .prechargeCommit s (fun t => tickOf t = 350 ∧ t.host.jobs[x.slot].committed = true ∧
         t.host.jobs[x.slot].commit = s.time.beat ∧ (t.saf.job.bind (·.commit)) = some s.time.beat ∧ t.saf.k = s.saf.k ∧
         t.st = s.st)) ∧
     (∀ c, x.commit = some c → c + 20 ≤ s.time.beat → Does .prechargeEnd s (fun t => tickOf t = 350 ∧ t.saf.job = none ∧
       t.host.jobs[x.slot].st = .completed ∧ t.st = s.st ∧ ∀ k < 4, getNat t.saf.k k =
         { getNat s.saf.k k with openReq := (getNat s.saf.k k).openReq || (kPre s).testBit k })) ∧
     (∀ s0, x.s = some s0 → x.commit = none → x.abortAt = none → s0 + b.preTmax + 1 ≤ s.time.beat →
       Does .prechargeTimeout s (fun t => tickOf t = 350 ∧ t.saf.job = none ∧ t.saf.preTimeout = true ∧
         t.host.jobs[x.slot].st = .failed ∧ t.host.jobs[x.slot].detail = 5 ∧ t.st = s.st)))) ∧
  (∀ (i : Fin 32) (j : Fin 8) (s : State), MayWrite i s →
     let x := s.host.jobs[j]
     let firing := x.kind = 0x12 ∧ tickOf s = 0 ∧ trigDue 3 s = true
     (∀ r, x.st = .running → (x.kind = 1 ∨ x.kind = 2) → s.saf.job = some r → r.slot = j → r.commit = none →
       Does (.jobAbort i j) s (fun t => t.host.jobs[j] = { x with abortReq := true } ∧ t.saf = { s.saf with job := some { r with
         abortAt := some (r.abortAt.getD (absTick s)) } } ∧ t.st = s.st)) ∧
     (∀ r c, x.st = .running → (x.kind = 1 ∨ x.kind = 2) → s.saf.job = some r → r.slot = j → r.commit = some c →
       Does (.jobAbort i j) s (fun t => t.host.jobs[j] = { x with abortLate := true } ∧ t.saf = s.saf ∧ t.st = s.st)) ∧
     (x.st = .running → firing → Does (.jobAbort i j) s (fun t => t.host.jobs = s.host.jobs ∧ t.saf = s.saf ∧
       t.time.trg = s.time.trg ∧ t.st = s.st)) ∧
     (x.st = .running → x.kind ≠ 1 → x.kind ≠ 2 → ¬ firing → x.committed = false → Does (.jobAbort i j) s (fun t =>
       t.host.jobs[j].st = .aborted ∧ t.saf = s.saf ∧ t.st = s.st)) ∧
     (x.st = .running → x.kind ≠ 1 → x.kind ≠ 2 → ¬ firing → x.committed = true → Does (.jobAbort i j) s (fun t =>
       t.host.jobs[j] = { x with abortLate := true } ∧ t.saf = s.saf ∧ t.st = s.st)) ∧
     (x.st = .completed → Does (.jobAbort i j) s (fun t => t.host.jobs[j] = { x with abortLate := true } ∧ t.saf = s.saf)) ∧
     (x.st = .idle → Does (.jobAbort i j) s (fun t => t.host.jobs = s.host.jobs ∧ t.saf = s.saf)) ∧
     (x.st ≠ .running → x.st ≠ .idle → Does (.jobClear i j) s (fun t =>
       t.host.jobs[j] = { (default : Job) with arg := x.arg } ∧ (∀ m : Fin 8, m ≠ j → t.host.jobs[m] = s.host.jobs[m]) ∧
       t.saf = s.saf ∧ t.st = s.st)) ∧
     (x.st = .running → Does (.jobClear i j) s (fun t => t.host.jobs = s.host.jobs ∧ t.saf = s.saf ∧
       said t = [directRsp i 4 .access (0x2040 + 0x20 * j.val) []])) ∧
     (∀ kind : Nat, x.st = .idle → kindOk (kind % 256) = false → Does (.reservedKindStart i j kind) s (fun t =>
       t.host.jobs[j].st = .refused ∧ t.host.jobs[j].detail = 8 ∧ t.host.jobs[j].kind = kind % 256 ∧ t.saf = s.saf ∧
       t.st = s.st)))

/-- The phases of a beat, each once in it: at tick 20 the host's writes enter the memory area, and the input image is
words 0 to 31 of Table 11-3 beside the stations' words, under the forces, in RUN and outside it; at tick 380 the
contactor output bits are those of the forced output image in RUN and 0 elsewhere or after a protection overrun, and
the image itself stays (11 R273, R275, R279, R280, R286, R290, R292). A task: the next due task of a beat, between the
input and the output phase and in an item of E9 that runs, commits its shadow copy as a whole where it ends within its
WCET; one that does not, by its own length or because the escapement stops it, leaves memory, output image and
instance data, is counted with the cycles it used, and a protection task asks for STOP (11 R273, R274, R276, R277,
Table 11-1). What an overrun of a first scan leaves is the model's reading (log 29). -/
def Obligations.LogicTimes : Prop :=
  (∀ s : State, awake s = true → s.st.mode.fromArmed = true →
     (hadTurn .input s = true → exec .inputPhase s = .next (fresh s)) ∧
     (hadTurn .output s = true → exec .outputPhase s = .next (fresh s)) ∧
     (tickOf s ≤ 20 → hadTurn .input s = false → Does .inputPhase s (fun t => tickOf t = 20 ∧ hadTurn .input t = true ∧
       t.lg.mem = putAll s.lg.varWrites s.lg.mem ∧
       t.lg.varWrites = [] ∧ t.lg.output = s.lg.output ∧ t.lg.inst = s.lg.inst ∧ t.lg.forces = s.lg.forces ∧
       (let w := wordAt t.lg.rawInput
        let n := (stationCfgs s).length
        w 0 = toW (inWord0 s) ∧ w 1 = toW (inWord1 s) ∧ (∀ k < 4, w (2 + k) = toW (getNat s.fio.cnt k)) ∧
        (∀ k < 6, w (6 + k) = intW (getNat s.fio.th k).held) ∧ w 12 = toW (inWord12 s) ∧ w 13 = intW (meanBefore s) ∧
        w 14 = intW ((s.meas.aligned.map (·.fe.vStr)).getD 0) ∧ w 15 = toW s.est.sum.socStr ∧
        (∀ k < 8, w (16 + k) = toW (getNat s.lim.lim k)) ∧ (∀ k ∈ [24, 25, 26, 27, 30, 31], w k = 0) ∧
        w 28 = toW (maskIf n (fun i => (stnAt t i).good)) ∧ w 29 = toW (maskIf n (fun i => !(stnAt t i).good))) ∧
       t.lg.input = forced 1 t.lg.rawInput s ∧
       (∀ f : Fin 32, s.lg.forces[f].enable = true → s.lg.forces[f].word = true → s.lg.forces[f].area = 1 →
         s.lg.forces[f].index < 288 → s.lg.forces[f].index ≠ 28 → s.lg.forces[f].index ≠ 29 →
         (∀ g : Fin 32, f < g → s.lg.forces[g].enable = false) →
         wordAt t.lg.input s.lg.forces[f].index = s.lg.forces[f].val) ∧ t.st = s.st ∧ t.saf = s.saf)) ∧
     (tickOf s ≤ 380 → hadTurn .output s = false → Does .outputPhase s (fun t => tickOf t = 380 ∧
       hadTurn .output t = true ∧ t.lg.output = s.lg.output ∧ t.lg.mem = s.lg.mem ∧
       t.st = s.st ∧ ∀ k < 4, (getNat t.saf.k k).hs = (getNat s.saf.k k).hs ∧ (getNat t.saf.k k).ls = (getNat s.saf.k k).ls ∧
         (getNat t.saf.k k).progBit = (s.st.mode == .run && !s.lg.protNow && wBit (wordAt (forced 2 s.lg.output s) 1) k)))) ∧
  (∀ (tk : Fin 8) (c : TaskCfg) (p : LogicCfg) (s : State), lgCfg s = some p → taskCfg s tk = some c → awake s = true →
     s.st.mode = .run →
     let runs := nextTask s = some tk.val ∧ hadTurn .input s = true ∧ hadTurn .output s = false ∧ e9Runs s = true
     let overran := fun (t : State) => t.lg.mem = s.lg.mem ∧ t.lg.output = s.lg.output ∧ t.lg.inst = s.lg.inst ∧
       (∃ n ≤ c.wcet, getNat t.lg.tasks tk = { getNat s.lg.tasks tk with
         ovr := satAdd (getNat s.lg.tasks tk).ovr 1 255, lastOvr := true
         peak := max (getNat s.lg.tasks tk).peak (min n 524287) }) ∧
       taskDue t tk = false ∧ (engineAt t 9).ovr = true ∧ t.st = s.st ∧ t.saf = s.saf ∧
       (c.cls = 0 → t.lg.protOvr = true ∧ t.lg.protNow = true ∧ t.lg.t8Pending = true) ∧
       (c.cls ≠ 0 → t.lg.svcOvr = true ∧ t.lg.protOvr = s.lg.protOvr ∧ t.lg.t8Pending = s.lg.t8Pending)
     (∀ cycles, ¬ runs → exec (.taskRun tk cycles) s = .next (fresh s)) ∧
     (∀ cycles, runs → cycles ≤ c.wcet → Does (.taskRun tk cycles) s (fun t =>
       ∃ x : Shadow, t.lg.output = x.q ∧ t.lg.mem = x.m ∧ t.lg.inst = x.inst ∧
         (s.lg.pendingConsts = [] →
           let x0 : Shadow := { q := s.lg.output, m := s.lg.mem, inst := s.lg.inst, k := s.freeCtr }
           x = if p.form = 0 then runBits s tk (p.code.drop c.entry) false [] x0
             else runCalls s tk (getNat s.lg.tasks tk).firstScan p.code.length (dropCalls c.entry p.code) x0) ∧
         (getNat t.lg.tasks tk).lastOvr = false ∧ (getNat t.lg.tasks tk).firstScan = false ∧
         (getNat t.lg.tasks tk).ovr = (getNat s.lg.tasks tk).ovr ∧
         (getNat t.lg.tasks tk).peak = max (getNat s.lg.tasks tk).peak (min cycles 524287) ∧
         taskDue t tk = false ∧ t.lg.input = s.lg.input ∧ t.st = s.st ∧ t.saf = s.saf)) ∧
     (∀ cycles, runs → c.wcet < cycles → Does (.taskRun tk cycles) s overran) ∧
     (taskDue s tk = true → Does (.taskOverrun tk) s overran))

/-- Remote stations: a frame of the station's own address, its length, a claim not below the one held and a later sequence
number is kept with its arrival, and the second of two in sequence makes a LOST one ready to be admitted; any other
frame leaves the stations as they are; each GOOD station whose timeout has passed at tick 20 or tick 380 becomes LOST
and counts it, and no other changes (11 R285 to R287; 12 R318). -/
def Obligations.RemoteStations : Prop :=
  (∀ (h : FabHdr) (n sf i : Nat) (words : List Word) (c : StationCfg) (s : State), Taken h 7 (4 + 4 * n) s →
    s.st.mode.fromArmed = true → (stationCfgs s).findIdx? (fun c => c.addr == h.src) = some i →
    (stationCfgs s)[i]? = some c → i < 16 →
    let y := stnAt s i
    let claimOk := ((s.fab.held.find? (fun e => e.1 == h.string)).map (·.2.1)).getD 0 ≤ h.claim
    (∀ q, claimOk → y.lastSeq = some q → seqLater h.seq q = true → n = c.nIn →
      let next := decide ((h.seq % 2 ^ 32 + 2 ^ 32 - q) % 2 ^ 32 = 1) && decide (1 ≤ y.run)
      Does (.station h 1 n sf words) s (fun t => stnAt t i = { y with
        lastSeq := some h.seq, arrival := absTick s, newest := padTo 0 n words
        prior := if y.arrival = absTick s then y.prior else y.newest
        run := if next then min 255 (y.run + 1) else 1
        pairAt := if next && (y.pairAt.isNone || y.good) then some (absTick s) else y.pairAt } ∧
      (∀ j ≠ i, stnAt t j = stnAt s j) ∧ t.st = s.st ∧ t.saf = s.saf)) ∧
    (∀ q dir, (dir ≠ 1 ∨ n ≠ c.nIn ∨ ¬ claimOk ∨ (y.lastSeq = some q ∧ seqLater h.seq q = false)) →
      Does (.station h dir n sf words) s (fun t => t.lg = s.lg ∧ t.st = s.st ∧ t.saf = s.saf))) ∧
  (∀ (i : Fin 16) (s : State), awake s = true → s.st.mode.fromArmed = true → i.val < (stationCfgs s).length →
    tickOf s ≤ 380 → Does (.stationLost i) s (fun t => tickOf t = (if tickOf s ≤ 20 then 20 else 380) ∧ t.st = s.st ∧
      t.saf = s.saf ∧ ∀ j < 16, ∀ c, (stationCfgs s)[j]? = some c → stnAt t j =
        (if (stnAt s j).good = true ∧ (stnAt s j).arrival + c.timeout * 400 ≤ absTick t then
          { stnAt s j with good := false, run := 0, pairAt := none, losses := satAdd (stnAt s j).losses 1 65535 }
         else stnAt s j)))

/-- The registers of the logic engine: a force is enabled in a crown session on areas I and Q only, and never where it
would close a contactor, and of a bit force only bit 0 of its value stands; clearing one keeps its value; VAR_WR waits
for the next input phase, in area M only; the counts clear (11 R277, R289, R292; 04 Table 04-17). -/
def Obligations.LogicRegisters : Prop :=
  ∀ (i : Fin 32) (s : State), MayWrite i s →
    (∀ (f : Fin 32) (v : Word),
      let named := fun (on : Bool) => ({ enable := on, word := wBit v 30, area := wBits v 23 20, index := wBits v 19 0
                                         val := s.lg.forces[f].val } : Force)
      let x := (named true).clean
      (s.host.sess[i].crown = true → (x.area = 1 ∨ x.area = 2) → x.closes = false → Does (.forceEnable i f v) s (fun t =>
        t.lg = { s.lg with forces := s.lg.forces.set f x } ∧ t.st = s.st ∧ t.saf = s.saf)) ∧
      (s.host.sess[i].crown = false ∨ (x.area ≠ 1 ∧ x.area ≠ 2) ∨ x.closes = true → Does (.forceEnable i f v) s (fun t =>
        t.lg = { s.lg with forceRefused := true } ∧ t.st = s.st ∧ t.saf = s.saf ∧
        said t = [directRsp i 4 .access (0xC100 + 8 * f.val) []])) ∧
      Does (.forceClear i f v) s (fun t => t.lg = { s.lg with forces := s.lg.forces.set f (named false) } ∧
        t.st = s.st ∧ t.saf = s.saf)) ∧
    (∀ v : Word,
      let sel := s.host.sess[i].varSel.toNat
      (opArea sel = 3 → opIndex sel < 4096 → (lgCfg s).isSome = true → Does (.varWr i v) s (fun t =>
        t.lg = { s.lg with varWrites := s.lg.varWrites ++ [(opIndex sel, v)] } ∧ t.st = s.st ∧ t.saf = s.saf)) ∧
      (opArea sel ≠ 3 ∨ (lgCfg s).isSome = false → Does (.varWr i v) s (fun t => t.lg = { s.lg with varRefused := true } ∧
        said t = [directRsp i 4 .access 0xC018 []]))) ∧
    Does (.lgClrCounts i) s (fun t => t.lg.output = s.lg.output ∧ t.lg.mem = s.lg.mem ∧ t.st = s.st ∧ t.saf = s.saf ∧
      (∀ k < 8, getNat t.lg.tasks k = { getNat s.lg.tasks k with ovr := 0, peak := 0 }) ∧
      ∀ k < 16, stnAt t k = { stnAt s k with losses := 0 }) ∧
    Does (.chClrCounts i) s (fun t => t.st = s.st ∧ t.saf = s.saf ∧ t.lg = s.lg ∧
      (∀ l < 4, lineAt t l = { lineAt s l with crc := 0, passMiss := 0, resultMiss := 0, wholes := 0, splits := 0 }) ∧
      ∀ a < 64, nodeRec t a = { nodeRec s a with rejoined := false, crc := 0 })

/-- Ports and supervision: a frame that a VLAN tags or that is longer than 1 522 bytes is discarded as an error, the
second HSR copy and the second copy of a payload frame as duplicates, and a frame whose header does not fit as an
error, each counted at its port; a frame by MAC for this module alone does not go on, one for another module goes on
round the ring; supervision frames leave every 2 000 beats, and three times in a row back on one port only they open
the ring; a port that goes down loses its path delay (12 R297 to R299, Table 12-10). Discovery and addresses: DISCOVER
leaves once at tick 100 of the beats that end in 500; one received enters its sender's address beside those it showed
before, restarts a candidate that a lower MAC address holds, and with this module's address is a conflict that
silences the higher MAC address; a claim leaves every hundred beats, three times, for a station number that the ring
has not shown, a claim heard from the ring meets a lower MAC address by starting again, one from P2 means nothing, and
the address is taken a hundred beats after the third frame (12 R301, R302). The 400 ms for which a copy is known count
in beats, the model's choice (log 27). -/
def Obligations.FabricPortsAndAddresses : Prop :=
  ((∀ (h : FabHdr) (s : State), awake s = true →
     let p := s.fab.port[h.port]
     let now := fun (q : PortSt) => { fresh s with fab := { s.fab with port := s.fab.port.set h.port q } }
     (h.tagged = true ∨ 1522 < lineBytes h → Does (.hsrFrameReceive h) s (fun t =>
       t = now { p with rx := satAdd p.rx 1 (2 ^ 32 - 1), err := satAdd p.err 1 (2 ^ 32 - 1) })) ∧
     (h.tagged = false → lineBytes h ≤ 1522 → h.mac ≠ ownMac →
       (∀ b, h.port.val < 2 → (h.mac, h.hsrSeq, b) ∈ s.fab.hsrSeen → s.time.beat ≤ b + 400 →
         Does (.hsrFrameReceive h) s (fun t =>
           t = now { p with rx := satAdd p.rx 1 (2 ^ 32 - 1), dup := satAdd p.dup 1 (2 ^ 32 - 1) })) ∧
       ((∀ x ∈ s.fab.hsrSeen, ¬(x.1 = h.mac ∧ x.2.1 = h.hsrSeq)) → ownProto h = true → h.dst = 0 →
         (h.ethDst ≠ ownMac → h.kind ≠ 9 → h.port.val < 2 → Does (.hsrFrameReceive h) s (fun t =>
           (∃ ports, t.sent = [.forward h.kind h.dst ports] ∧ ports % 4 = (if h.port.val = 0 then 2 else 1)) ∧
           t.fab.paySeen = s.fab.paySeen ∧ t.fab.port[h.port].rx = satAdd p.rx 1 (2 ^ 32 - 1) ∧
           t.fab.port[h.port].err = p.err ∧ t.fab.port[h.port].dup = p.dup ∧ t.st = s.st ∧ t.saf = s.saf)) ∧
         (h.ethDst = ownMac → headerOk true h = false → Does (.hsrFrameReceive h) s (fun t => t.sent = [] ∧
           t.fab.paySeen = s.fab.paySeen ∧ t.fab.port[h.port].err = satAdd p.err 1 (2 ^ 32 - 1) ∧ t.st = s.st ∧
           t.saf = s.saf)) ∧
         (h.ethDst = ownMac → headerOk true h = true → Does (.hsrFrameReceive h) s (fun t => t.sent = [] ∧ t.st = s.st ∧
           t.saf = s.saf ∧ t.fab.port[h.port].rx = satAdd p.rx 1 (2 ^ 32 - 1) ∧ t.fab.port[h.port].err = p.err ∧
           (∀ b, (h.src, h.kind, h.seq, h.dst, b) ∈ s.fab.paySeen → s.time.beat ≤ b + 400 →
             t.fab.paySeen = s.fab.paySeen ∧ t.fab.port[h.port].dup = satAdd p.dup 1 (2 ^ 32 - 1)) ∧
           (s.fab.paySeen.all (fun x => !samePay h x) = true → t.fab.port[h.port].dup = p.dup ∧
             t.fab.paySeen = s.fab.paySeen ++ [(h.src, h.kind, h.seq, h.dst, s.time.beat)])))))) ∧
   (∀ (a b : Bool) (s : State), awake s = true →
     (s.fab.supBeat.all (fun n => decide (n + 2000 ≤ s.time.beat)) = true → Does (.supervisionFrame a b) s (fun t =>
       t.sent = [.supervision] ∧ t.fab.supBeat = some s.time.beat ∧ t.st = s.st ∧ t.saf = s.saf ∧
       (a = b ∨ s.fab.supBeat = none → t.fab.ringOpen = false ∧ t.fab.supRun = 0) ∧
       (a ≠ b → s.fab.supBeat ≠ none → t.fab.supRun = satAdd s.fab.supRun 1 3 ∧ (2 ≤ s.fab.supRun → t.fab.ringOpen = true) ∧
         (s.fab.supRun < 2 → t.fab.ringOpen = s.fab.ringOpen)))) ∧
     (∀ n, s.fab.supBeat = some n → s.time.beat < n + 2000 → exec (.supervisionFrame a b) s = .next (fresh s))) ∧
   (∀ (p : Fin 3) (up : Bool) (s : State), Does (.portLinkChange p up) s (fun t => t.fab.port[p].link = up ∧
     (up = false → t.time.pdelay[p] = 0) ∧
     (∀ q : Fin 3, q ≠ p → t.fab.port[q] = s.fab.port[q] ∧ t.time.pdelay[q] = s.time.pdelay[q]) ∧
     t.st = s.st ∧ t.saf = s.saf))) ∧
  ((∀ s : State, awake s = true →
     (s.time.beat % 1000 = 500 → tickOf s ≤ 100 →
       (hadTurn .discover s = false → Does (.discover none) s (fun t => tickOf t = 100 ∧ hadTurn .discover t = true ∧
         SentFab 1 0xFFFF (outPorts 1 0xFFFF s) (discoverBytes s) s t)) ∧
       (hadTurn .discover s = true → exec (.discover none) s = .next (fresh s))) ∧
     (claiming s = true → s.time.beat % 100 = 0 →
       (s.fab.claims = 0 → Does (.addrClaim none) s (fun t =>
         t.fab.candidate = freeStation s ∧ t.fab.claims = 1 ∧ t.fab.claimBeat = s.time.beat ∧
         SentFab 2 0xFFFF (outPorts 2 0xFFFF s) (leB 2 (freeStation s) ++ leB 2 0 ++ leB 1 1 ++ leB 3 0) s t ∧
         ((∃ n, 1 ≤ n ∧ n ≤ 1022 ∧ ∀ p ∈ s.fab.peers, p.addr ≠ (fabCfg s).ring * 1024 + n) →
           ∀ p ∈ s.fab.peers, s.time.beat ≤ p.beat + 2000 → p.addr ≠ t.fab.candidate))) ∧
       (0 < s.fab.claims → s.fab.claims < 3 → s.fab.claimBeat + 100 ≤ s.time.beat → Does (.addrClaim none) s (fun t =>
         t.fab.candidate = s.fab.candidate ∧ t.fab.claims = s.fab.claims + 1 ∧ t.fab.claimBeat = s.time.beat ∧
         SentFab 2 0xFFFF (outPorts 2 0xFFFF s)
           (leB 2 s.fab.candidate ++ leB 2 0 ++ leB 1 (s.fab.claims + 1) ++ leB 3 0) s t)) ∧
       (0 < s.fab.claims → s.time.beat < s.fab.claimBeat + 100 → exec (.addrClaim none) s = .next (fresh s))) ∧
     (claiming s = true → s.fab.claims = 3 → s.fab.claimBeat + 100 ≤ s.time.beat → Does .addressTaken s (fun t =>
       t.fab = { s.fab with addr := s.fab.candidate, addrValid := true, dynamic := true, claims := 0 } ∧ t.st = s.st ∧
       t.saf = s.saf ∧ t.sent = []))) ∧
   (∀ (h : FabHdr) (b : DiscoverBody) (s : State), Taken h 1 32 s → h.port.val < 2 →
     Does (.discover (some (h, b))) s (fun t =>
       let a := if b.addrValid then b.addr else 0
       (∃ p ∈ t.fab.peers, p.mac = b.mac ∧ p.discovered = true ∧ p.beat = s.time.beat ∧ p.addr = a) ∧
       (∀ q ∈ s.fab.peers, q.mac ≠ b.mac ∨ q.addr ≠ a ∨ q.discovered = false → q ∈ t.fab.peers) ∧
       (b.addrValid = true → s.fab.addrValid = true → b.addr = s.fab.addr → t.fab.addrConflict = true ∧
         t.fab.silenced = (s.fab.silenced || decide (b.mac < ownMac))) ∧
       (b.addrValid = true → s.fab.addrValid = false → 0 < s.fab.claims → b.addr = s.fab.candidate → b.mac < ownMac →
         t.fab.claims = 0) ∧
       t.fab.addr = s.fab.addr ∧ t.fab.addrValid = s.fab.addrValid ∧ t.st = s.st ∧ t.saf = s.saf)) ∧
   (∀ (h : FabHdr) (a : Nat) (s : State), Taken h 2 8 s → Does (.addrClaim (some (h, a))) s (fun t => t.st = s.st ∧
     t.saf = s.saf ∧ t.fab.addrValid = s.fab.addrValid ∧
     (h.port.val < 2 → (∃ p ∈ t.fab.peers, p.mac = h.mac ∧ p.addr = a ∧ p.beat = s.time.beat ∧ p.discovered = false) ∧
       (s.fab.addrValid = false → 0 < s.fab.claims → a = s.fab.candidate → h.mac < ownMac → t.fab.claims = 0) ∧
       (ownMac ≤ h.mac ∨ a ≠ s.fab.candidate → t.fab.claims = s.fab.claims)) ∧
     (2 ≤ h.port.val → t.fab.peers = s.fab.peers ∧ t.fab.claims = s.fab.claims))))

/-- Banks: the own BANK_STATE leaves once in a beat, at tick 360, and joins the frames of its beat; one received of this
bank waits for its computation, of a pair the higher CLAIM, unless it is late; the computation, once in a beat at tick
360, takes the frames of the beat before, excludes who is not CONNECTED or missed three beats, admits only at an
epoch, and the bank limits are those of R310 over the shares of those included before the admission; an INS_RESULT
from the module that may measure stands for the own one where this module does not (12 R307 to R310; 05 R131). -/
def Obligations.Banks : Prop :=
  (∀ s : State, bankRun s = true → tickOf s ≤ 360 →
    (hadTurn .bankState s = false → Does (.bankState none) s (fun t => tickOf t = 360 ∧ hadTurn .bankState t = true ∧
      SentFab 5 0xFFFF (outPorts 5 0xFFFF s) (bankBytes (bankBody s)) s t ∧
      (∃ f ∈ t.fab.bankIn, f.string = ownString s ∧ f.beat = s.time.beat ∧ ownClaim s ≤ f.claim) ∧
      t.fab.members = s.fab.members ∧ t.fab.bankCalc = s.fab.bankCalc)) ∧
    (hadTurn .bankState s = true → exec (.bankState none) s = .next (fresh s)) ∧
    (hadTurn .bankCalc s = true → exec .bankComputation s = .next (fresh s)) ∧
    (hadTurn .bankCalc s = false → Does .bankComputation s (fun t => tickOf t = 360 ∧ t.st = s.st ∧ t.saf = s.saf ∧
      t.lim = s.lim ∧
      (let frames := s.fab.bankIn.filter (fun f => f.beat + 1 == s.time.beat)
        let after1 := fun (st : Nat) =>
          s.fab.members.any (fun m => m.string == st && (excludeStep (memberStep frames m)).included)
        ∀ i < 8, getNat t.fab.bankCalc i = bankLimit after1 t.fab.members i) ∧
      (∀ m ∈ s.fab.members, ∃ m2 ∈ t.fab.members, m2.string = m.string ∧
        (m2.miss = 0 ∨ m2.miss = min 3 (m.miss + 1)) ∧ (m2.miss = 3 → m2.included = false)) ∧
      (∀ m ∈ t.fab.members, m.included = true → m.body.connected = true ∧ m.miss < 3) ∧
      (s.time.beat % 100 ≠ 1 → ∀ m ∈ t.fab.members, m.included = true →
        ∃ m0 ∈ s.fab.members, m0.string = m.string ∧ m0.included = true ∧ m0.share = m.share)))) ∧
  (∀ (h : FabHdr) (tick : Nat) (b : BankBody) (s : State), Taken h 5 56 s → bankRun s = true → b.bank = (fabCfg s).bank →
    let fb := beatFrom32 s.time.beat h.beat
    Does (.bankState (some (h, tick, b))) s (fun t => t.st = s.st ∧ t.saf = s.saf ∧ t.fab.members = s.fab.members ∧
      (fb = s.time.beat ∨ (fb + 1 = s.time.beat ∧ tick < 340) → t.fab.lateRx = s.fab.lateRx ∧
        ∃ f ∈ t.fab.bankIn, f.string = h.string ∧ f.beat = fb ∧ h.claim ≤ f.claim) ∧
      (fb ≠ s.time.beat → (fb + 1 ≠ s.time.beat ∨ 340 ≤ tick) → t.fab.lateRx = true ∧ t.fab.bankIn = s.fab.bankIn))) ∧
  (∀ (h : FabHdr) (rp rn eb : Nat) (s : State), Taken h 10 12 s → s.st.mode.fromLoaded = true →
    (measuresIns s = false → insFrom h.src h.string s = true → Does (.insResult h rp rn eb) s (fun t =>
      t.meas.ins.result = some (rp, rn) ∧ t.meas.ins.source = h.src ∧
      t.meas.ins.endBeat = beatFrom32 s.time.beat eb ∧ t.st = s.st ∧ t.saf = s.saf)) ∧
    (measuresIns s = true ∨ insFrom h.src h.string s = false → Does (.insResult h rp rn eb) s (fun t =>
      t.meas = s.meas ∧ t.st = s.st ∧ t.saf = s.saf)))

/-- What the partner sends: a RESULT or AUX of a node that follows its end is taken as if this module had heard it, in its
window and for its beat; FRONT and STREAM of the holder replace the values the estimators use; a PLAN is kept; a delay
from the other end waits to be written (12 R313, R316). What the module sends its partner, each once in a beat: STREAM
at tick 22, FRONT at tick 242 and PLAN at tick 370 as the holder from ARMED on, STATUS at tick 370 from LOADED on; and
the oldest delay that waits (12 R313, R314, Table 12-16). -/
def Obligations.PartnerFrames : Prop :=
  ((∀ (h : FabHdr) (nd : Fin 64) (q tick : Nat) (s : State), FromPartner h 60 s → s.st.mode.fromArmed = true →
     (nodeRec s nd.val).found = true →
     (∀ b : ResultBody, 210 ≤ tick → tick ≤ 330 → tickOf s ≤ 330 → q = s.time.beat % 65536 →
       followsOther s nd.val (b.nstat.testBit 2) = true → s.chain.got.any (fun g => g.addr == nd.val) = false →
       Does (.resultFwd h nd q tick b) s (fun t =>
         t.chain.got = s.chain.got ++ [{ addr := nd.val, nstat := b.nstat, suspect := b.suspect, vpos := b.vpos }] ∧
         (nodeRec t nd.val).followW = b.nstat.testBit 2 ∧ t.st = s.st ∧ t.saf = s.saf)) ∧
     (∀ b : AuxBody, 20 ≤ tick → tick ≤ 140 → tickOf s ≤ 140 → (q + 1) % 65536 = s.time.beat % 65536 →
       followsOther s nd.val (nodeRec s nd.val).followW = true → s.chain.gotAux.any (fun g => g.addr == nd.val) = false →
       Does (.auxFwd h nd q tick b) s (fun t => t.chain.gotAux = s.chain.gotAux ++ [{ addr := nd.val, body := b }] ∧
         t.st = s.st ∧ t.saf = s.saf))) ∧
   (∀ (h : FabHdr) (s : State), s.st.mode.fromArmed = true → holder s = false → thisBeat h s = true →
     (∀ b, FromPartner h 20 s → Does (.front (some (h, b))) s (fun t =>
       (t.meas.alignedE.map (fun a => (a.beat, a.fe.i, a.fe.vStr, a.fe.vLnk))) = some (s.time.beat, b.i, b.vStr, b.vLnk) ∧
       t.meas.aligned = s.meas.aligned ∧ t.st = s.st ∧ t.saf = s.saf)) ∧
     (∀ b, FromPartner h 52 s → Does (.streamX (some (h, b))) s (fun t => t.meas.iMean = b.iMean ∧
       t.meas.qSum = s.meas.qSum - s.meas.ownDq + b.dq ∧ t.st = s.st ∧ t.saf = s.saf)) ∧
     (∀ b, FromPartner h (136 + 4 * b.ic.length) s → b.cmds = [] → Does (.plan (some (h, b))) s (fun t =>
       t.fab.pair.plan = some (s.time.beat, b) ∧ t.spec = s.spec ∧ t.st = s.st ∧ t.saf = s.saf))) ∧
   (∀ (h : FabHdr) (nd : Fin 64) (d : End) (v : Nat) (s : State), FromPartner h 8 s → higherClaim s = true →
     (nodeRec s nd.val).found = true →
     (s.st.mode.fromArmed = false ∨ 2 ≤ ((v : Int) - (nodeRec s nd.val).dOf d).natAbs) →
     Does (.delays (some (h, nd, d, v))) s (fun t => nodeRec t nd.val = NodeM.withNew d v (nodeRec s nd.val) ∧ t.st = s.st ∧
       t.saf = s.saf))) ∧
  (∀ s : State, pairOn s = true →
     let frame := fun (x : Turn) (tk sub : Nat) (body : List Byte) (t : State) =>
       tickOf t = tk ∧ hadTurn x t = true ∧ SentFab 6 (partnerAddr s) 3 (leB 1 sub ++ leB 3 0 ++ body) s t
     (tickOf s ≤ 370 → hadTurn .status s = false →
       Does (.status none) s (frame .status 370 7 (statusBytes (ownStatus s)))) ∧
     (s.st.mode.fromArmed = true → holder s = true →
       (tickOf s ≤ 22 → hadTurn .stream s = false → Does (.streamX none) s (frame .stream 22 4 (streamBytes s))) ∧
       (∀ a, tickOf s ≤ 242 → hadTurn .front s = false → s.meas.aligned = some a → a.beat = s.time.beat →
         Does (.front none) s (frame .front 242 3 (frontBytes a.fe))) ∧
       (tickOf s ≤ 370 → hadTurn .plan s = false → Does (.plan none) s (frame .plan 370 5 (planBytes s)))) ∧
     (hadTurn .status s = true → exec (.status none) s = .next (fresh s)) ∧
     (hadTurn .stream s = true → exec (.streamX none) s = .next (fresh s)) ∧
     (hadTurn .front s = true → exec (.front none) s = .next (fresh s)) ∧
     (hadTurn .plan s = true → exec (.plan none) s = .next (fresh s)) ∧
     (∀ a w v r, s.fab.pair.delays = (a, w, v) :: r → Does (.delays none) s (fun t => t.fab.pair.delays = r ∧
       SentFab 6 (partnerAddr s) 3 (leB 1 6 ++ leB 3 0 ++ (leB 1 a ++ leB 1 (b2n w) ++ leB 2 v)) s t)))

/-- The pair: three good STATUS frames in a row form it, one with a wrong configuration starts the count again, and one
from another address than PARTNER_ADDR is a wrong configuration and nothing else; a beat without one counts, and three
of them in a row lose a formed pair for good; a holder in STOP yields from the next beat, and takes the plan back at a
multiple of a thousand beats (12 R311, R313, R319, R320). -/
def Obligations.PairLife : Prop :=
  (∀ (h : FabHdr) (b : StatusBody) (s : State), Taken h 6 20 s → inPair s = true → s.st.mode.fromLoaded = true →
    (h.src = partnerAddr s → s.fab.pair.st = .waiting → s.fab.pair.gotNow = false →
      Does (.status (some (h, b))) s (fun t => t.st = s.st ∧ t.saf = s.saf ∧ t.fab.pair.gotNow = true ∧
        t.fab.pair.missRun = 0 ∧ t.fab.pair.partner = some b ∧
        (pairConfig h.src (ownStatus s) b (ownAddr s) = true → t.fab.pair.goodRun = satAdd s.fab.pair.goodRun 1 3 ∧
          t.fab.pair.configBad = s.fab.pair.configBad ∧
          t.fab.pair.st = (if 2 ≤ s.fab.pair.goodRun then .formed else .waiting)) ∧
        (pairConfig h.src (ownStatus s) b (ownAddr s) = false → t.fab.pair.goodRun = 0 ∧ t.fab.pair.configBad = true ∧
          t.fab.pair.st = .waiting))) ∧
    (h.src ≠ partnerAddr s → s.fab.pair.st = .waiting ∨ s.fab.pair.st = .formed → Does (.status (some (h, b))) s (fun t =>
      t.fab.pair = { s.fab.pair with configBad := true } ∧ t.st = s.st ∧ t.saf = s.saf)) ∧
    (s.fab.pair.st = .lost → Does (.status (some (h, b))) s (fun t => t.fab.pair = s.fab.pair))) ∧
  (∀ s : State, pairOn s = true →
    (s.fab.pair.st = .formed → 3 ≤ s.fab.pair.missRun → tickOf s ≤ 330 → Does .pairLost s (fun t => tickOf t = 330 ∧
      t.fab = { s.fab with pair := { s.fab.pair with st := .lost } } ∧ t.st = s.st ∧ t.saf = s.saf)) ∧
    (s.fab.pair.gotNow = false → (pairBeat s).fab.pair.missRun = satAdd s.fab.pair.missRun 1 3 ∧
      (pairBeat s).fab.pair.goodRun = 0) ∧
    (s.fab.pair.reclaimAt = none → s.fab.pair.yieldNext = true → (pairBeat s).fab.pair.yielded = true ∧
      (pairBeat s).fab.pair.holder = false) ∧
    (∀ n, s.fab.pair.reclaimAt = some n → n ≤ s.time.beat → (pairBeat s).fab.pair.yielded = false ∧
      (pairBeat s).fab.pair.holder = true)) ∧
  (∀ (i : Fin 32) (s : State), MayWrite i s → s.st.mode = .stop → inPair s = true →
    (s.fab.pair.holder = true → s.fab.pair.st = .formed → s.fab.pair.yielded = false → Does (.yieldCmd i) s (fun t =>
      t.fab.pair = { s.fab.pair with yieldNext := true } ∧ t.st = s.st ∧ t.saf = s.saf)) ∧
    (s.fab.pair.yielded = true → Does (.reclaim i) s (fun t =>
      t.fab.pair = { s.fab.pair with reclaimAt := some ((s.time.beat / 1000 + 1) * 1000) } ∧ t.st = s.st ∧ t.saf = s.saf)) ∧
    (s.fab.pair.yielded = false → Does (.reclaim i) s (fun t => t.fab.pair = s.fab.pair ∧
      said t = [directRsp i 4 .access 0xD084 []])))

/-- The host's side of a queue: a read takes the oldest word and nothing else, on an empty queue repeats the last word
with UNDERRUN set, and of a queue that another session claims is refused; FLUSH empties it with its pending gap; CLAIM
and RELEASE (13 R337, R338, Table 13-19). -/
def Obligations.QueueReads : Prop :=
  ∀ (i : Fin 32) (s : State),
    (∀ q : QueueId, (wBit (queueAt q s).stat 16 = true ↔ (queueAt q s).words = []) ∧
      ((queueAt q s).claim = none → (queueAt q s).readable i = true) ∧
      (∀ j, (queueAt q s).claim = some j → ((queueAt q s).readable i = true ↔ j = i))) ∧
    (∀ (q : QueueId), MayAccess i s → (queueAt q s).readable i = true →
      (∀ w r, (queueAt q s).words = w :: r → Does (.qdataRead i q) s (fun t => queueAt q t = { queueAt q s with words := r, last := w } ∧
        said t = [directRsp i 3 .ok (headAddr q) [w]] ∧ (∀ p, p ≠ q → queueAt p t = queueAt p s) ∧ t.st = s.st ∧ t.saf = s.saf)) ∧
      ((queueAt q s).words = [] → Does (.qdataRead i q) s (fun t => queueAt q t = { queueAt q s with underrun := true } ∧
        said t = [directRsp i 3 .ok (headAddr q) [(queueAt q s).last]] ∧ t.st = s.st ∧ t.saf = s.saf))) ∧
    (∀ (q : QueueId), MayAccess i s → (queueAt q s).readable i = false → Does (.qdataRead i q) s (fun t =>
      queueAt q t = queueAt q s ∧ said t = [directRsp i 3 .access (headAddr q) []])) ∧
    (MayWrite i s →
      (∀ q : QueueId, Does (.flush i q) s (fun t => queueAt q t = { queueAt q s with words := [], drops := 0, flushed := true } ∧
        (∀ p, p ≠ q → queueAt p t = queueAt p s) ∧ t.st = s.st ∧ t.saf = s.saf)) ∧
      ∀ q : Fin 8,
        (s.host.queues[q].readable i = true → Does (.claim i q) s (fun t =>
          t.host.queues = s.host.queues.set q { s.host.queues[q] with claim := some i } ∧ t.st = s.st ∧ t.saf = s.saf)) ∧
        (s.host.queues[q].readable i = false → Does (.claim i q) s (fun t => t.host.queues = s.host.queues ∧
          said t = [directRsp i 4 .access (0x4008 + 0x20 * q.val) []])) ∧
        (s.host.queues[q].claim = some i → Does (.queueRelease i q) s (fun t =>
          t.host.queues = s.host.queues.set q { s.host.queues[q] with claim := none } ∧ t.st = s.st ∧ t.saf = s.saf)) ∧
        (s.host.queues[q].claim ≠ some i → Does (.queueRelease i q) s (fun t => t.host.queues = s.host.queues ∧
          said t = [directRsp i 4 .ok (0x4008 + 0x20 * q.val) []])))

/-- The module's side: at tick 340, once in a beat, a content that is due brings its item; a committed item that fits
stands in the queue behind a pending gap marker, under the next SEQ, and one that does not fit or whose words are bad
is dropped with OVF and counted; nothing else of the queue changes (13 R335, R336, R339). -/
def Obligations.QueueItems : Prop :=
  (∀ (q : Fin 8) (s : State), awake s = true → s.st.mode.fromArmed = true → tickOf s ≤ 340 →
    (hadTurn (.item q.val) s = false →
      let s1 := actAt (.item q.val) 340 (fresh s)
      (∀ w, streamItem (queueCfg s q) s1 = some w → Does (.streamItem q) s (fun t =>
        tickOf t = 340 ∧ hadTurn (.item q.val) t = true ∧
        t.host.queues = s.host.queues.set q { s.host.queues[q] with building := s.host.queues[q].building ++ [w] } ∧
        t.st = s.st ∧ t.saf = s.saf)) ∧
      (streamItem (queueCfg s q) s1 = none → exec (.streamItem q) s = .next s1)) ∧
    (hadTurn (.item q.val) s = true → exec (.streamItem q) s = .next (fresh s))) ∧
  (∀ (q : Fin 8) (item : List Word) (rest : List (List Word)) (s : State), s.host.queues[q].building = item :: rest →
    let x := s.host.queues[q]
    let need := x.words.length + (if x.drops = 0 then 0 else 2) + 1 + item.length
    (sourceLost (queueCfg s q).content s = false → need ≤ (queueCfg s q).depth → Does (.queueItemCommit (.q q) false) s (fun t =>
      t.host.queues = s.host.queues.set q { x with
        building := rest, drops := 0, seq := (x.seq + 1) % 65536
        words := x.words ++ (if x.drops = 0 then [] else [itemHeader 0xFF 1 x.firstDrop, toW x.drops]) ++
          itemHeader (queueCfg s q).content item.length x.seq :: item } ∧ t.st = s.st ∧ t.saf = s.saf)) ∧
    (∀ ecc, ecc = true ∨ (queueCfg s q).depth < need → Does (.queueItemCommit (.q q) ecc) s (fun t =>
      t.host.queues = s.host.queues.set q { x with
        building := rest, drops := satAdd x.drops 1 65535, firstDrop := if x.drops = 0 then x.seq else x.firstDrop
        total := satAdd x.total 1 65535, ovf := true, seq := (x.seq + 1) % 65536 } ∧ t.st = s.st ∧ t.saf = s.saf)))

/-- Publications: at tick 370, once in a beat, every enabled subscription whose period divides the beat, and no other,
sends its content to its address, in order, unless the module is silenced; a CAN record that is due waits with its
newest content, a skip counted where the old one still waited, and TXB1 takes the lowest record that waits (13 R341;
14 R354, R355). The words of a publication are those of the newest values, the model's reading (log 31). -/
def Obligations.Publications : Prop :=
  (∀ s : State, awake s = true → s.st.mode.fromArmed = true → tickOf s ≤ 370 →
    (hadTurn .publishFab s = true → exec .publish s = .next (fresh s)) ∧
    (hadTurn .publishFab s = false → Does .publish s (fun t => tickOf t = 370 ∧ hadTurn .publishFab t = true ∧ t.st = s.st ∧
      t.saf = s.saf ∧ (s.fab.silenced = true → t.sent = []) ∧ (s.fab.silenced = false →
      t.sent.map (fun e => match e with
        | .fabric _ k _ d _ _ _ _ _ _ p => (k, d, p)
        | _ => (0, 0, [])) =
      (s.host.subs.toList.filter (fun b => b.enable && b.period != 0 && s.time.beat % b.period == 0)).map (fun b =>
        (8, b.addr, leB 2 b.content ++ leB 2 0 ++ wordsLe (pubWords b.content (actAt .publishFab 370 (fresh s))))))))) ∧
  (∀ (c : Fin 2) (k : Fin 32) (p : PubCfg) (s : State), awake s = true → s.st.mode.fromArmed = true → tickOf s ≤ 370 →
    hadTurn (.pubCan c.val k.val) s = false → (pubsOf s c.val)[k.val]? = some p → p.enable = true → 0 < p.period → s.time.beat % p.period = 0 →
    let x := s.can[c]
    let y : PubPend := { index := k.val, canId := p.canId, data := canPubData p.content (actAt (.pubCan c.val k.val) 370 (fresh s)) }
    ((∀ q ∈ x.pubs, q.index ≠ k.val) → Does (.publicationDue c k) s (fun t => tickOf t = 370 ∧
      t.can = s.can.set c { x with pubs := x.pubs ++ [y] } ∧ t.st = s.st ∧ t.saf = s.saf)) ∧
    ((∃ q ∈ x.pubs, q.index = k.val) → Does (.publicationDue c k) s (fun t => tickOf t = 370 ∧
      t.can = s.can.set c { x with pubs := x.pubs.map (fun q => if q.index == k.val then y else q)
                                   pubSkip := satAdd x.pubSkip 1 65535 } ∧ t.st = s.st ∧ t.saf = s.saf))) ∧
  (∀ (c : Fin 2) (p : PubPend) (s : State), awake s = true → 0 < s.can[c].nPub → s.can[c].txb[(1 : Fin 3)].st ≠ .pending →
    p ∈ s.can[c].pubs → (∀ q ∈ s.can[c].pubs, q = p ∨ p.index < q.index) → Does (.txb1Load c) s (fun t =>
      t.can[c].txb[(1 : Fin 3)] = Txb.load p.canId p.data s.can[c].txb[(1 : Fin 3)] ∧
      t.can[c].pubs = s.can[c].pubs.filter (fun q => q.index != p.index) ∧ t.st = s.st ∧ t.saf = s.saf))

/-- The ACK run: each ACK error of a transmission adds 1 to it, a transmission that receives its ACK sets it to 0; NO_ACK
stands from a run of 16 until the run returns to 0, and NO_ACK_SEEN latches each setting (14 R350). -/
def Obligations.CanAckRun : Prop :=
  ∀ (c : Fin 2) (s : State), awake s = true → s.can[c].offered.isSome = true →
    let x := s.can[c]
    let run := satAdd x.ackRun 1 255
    Does (.canAckError c) s (fun t => t.can[c].ackRun = run ∧ t.can[c].noAck = decide (16 ≤ run) ∧
      t.can[c].noAckSeen = (x.noAckSeen || (decide (16 ≤ run) && !x.noAck)) ∧ t.st = s.st ∧ t.saf = s.saf ∧
      ∀ d : Fin 2, d ≠ c → t.can[d] = s.can[d]) ∧
    Does (.canFrameSent c) s (fun t => t.can[c].ackRun = 0 ∧ t.can[c].noAck = false ∧
      t.can[c].noAckSeen = x.noAckSeen ∧ t.st = s.st ∧ t.saf = s.saf ∧ ∀ d : Fin 2, d ≠ c → t.can[d] = s.can[d])

/-- The end of the attempt on the bus: a frame with its ACK is DONE; an ACK error, a bus error and lost arbitration end
the attempt, and the buffer is ABORTED where an abort waits; an error-passive transmitter does not count an ACK error;
and the error state follows the counters: bus-off from 256, passive from 128, active below (14 R343, R348 to R350).
Receiving and recovery: a receiver's bus error raises its counter by one; a frame that a filter lets in, another
node's or in a loop-back mode the channel's own, joins the receive queue from ARMED on, any other is discarded; a
bus-off channel recovers with its counters 0 (14 R343, R352, R353). The counting of bus errors is taken from ISO
11898-1, which the spec names without quoting it (log 28). -/
def Obligations.CanFrames : Prop :=
  (∀ (c : Fin 2) (b : Fin 3) (s : State), awake s = true → s.can[c].offered = some b → s.can[c].rspQ = [] →
     (s.can[c].errSt = .active ∨ s.can[c].errSt = .passive) →
     let x := s.can[c]
     let y := x.txb[b]
     let judged := fun (z : CanCh) =>
       (256 ≤ z.tec → z.errSt = .busOff ∧ z.busoff = satAdd x.busoff 1 255) ∧
       (z.tec < 256 → (128 ≤ z.tec ∨ 128 ≤ z.recCnt) → z.errSt = .passive) ∧
       (z.tec < 128 → z.recCnt < 128 → z.errSt = .active)
     let ended := fun (z : CanCh) => z.txb[b] = { y with
       attempts := satAdd y.attempts 1 255, st := if y.abortReq then .aborted else y.st, abortReq := false }
     (y.st = .pending → Does (.canFrameSent c) s (fun t => t.can[c].txb[b] = { y with
         st := .done, attempts := satAdd y.attempts 1 255, abortLate := y.abortReq, abortReq := false } ∧
       t.can[c].tec = x.tec - 1 ∧ t.can[c].recCnt = x.recCnt ∧ t.can[c].ackRun = 0 ∧ t.can[c].noAck = false ∧
       t.can[c].txOk = (x.txOk + 1) % 2 ^ 24 ∧ judged t.can[c] ∧ t.st = s.st ∧ t.saf = s.saf)) ∧
     Does (.canAckError c) s (fun t => ended t.can[c] ∧ t.can[c].ackRun = satAdd x.ackRun 1 255 ∧
       t.can[c].noAck = decide (16 ≤ satAdd x.ackRun 1 255) ∧
       t.can[c].tec = (if x.errSt = .passive then x.tec else x.tec + 8) ∧ t.can[c].recCnt = x.recCnt ∧ judged t.can[c] ∧
       t.st = s.st ∧ t.saf = s.saf) ∧
     Does (.canBusError c true) s (fun t => ended t.can[c] ∧ t.can[c].tec = x.tec + 8 ∧ t.can[c].recCnt = x.recCnt ∧
       judged t.can[c] ∧ t.st = s.st ∧ t.saf = s.saf) ∧
     Does (.canArbitrationLost c) s (fun t => ended t.can[c] ∧ t.can[c].offered = none ∧ t.can[c].busy = true ∧
       t.can[c].tec = x.tec ∧ t.can[c].errSt = x.errSt ∧ t.st = s.st ∧ t.saf = s.saf)) ∧
  (∀ (c : Fin 2) (s : State), awake s = true →
     let x := s.can[c]
     (x.errSt = .active ∨ x.errSt = .passive →
       Does (.canBusError c false) s (fun t => t.can[c].recCnt = satAdd x.recCnt 1 255 ∧ t.can[c].tec = x.tec ∧
         t.st = s.st ∧ t.saf = s.saf) ∧
       (∀ (f : CanFrame), f.own = false → x.loop ≠ 1 →
         (∀ k, f.remote = false → x.isAccess f = false → s.st.mode.fromArmed = true → x.filterOf f = some k →
           Does (.canFrameReceived c f) s (fun t => t.can[c].rx = { x.rx with building := x.rx.building ++ [rxItem s.time.beat k f] } ∧
             t.can[c].busy = false ∧ t.can[c].tec = x.tec ∧ (x.recCnt ≤ 127 → t.can[c].recCnt = x.recCnt - 1) ∧
             t.st = s.st ∧ t.saf = s.saf)) ∧
         (f.remote = true ∨ x.isAccess f = true ∨ s.st.mode.fromArmed = false ∨ x.filterOf f = none →
           Does (.canFrameReceived c f) s (fun t => t.can[c].rx = x.rx ∧ t.st = s.st ∧ t.saf = s.saf))) ∧
       (∀ (f : CanFrame) (k : Nat), f.own = true → x.loop ≠ 0 → f.remote = false → x.isAccess f = false →
         s.st.mode.fromArmed = true → x.filterOf f = some k → Does (.canFrameReceived c f) s (fun t =>
           t.can[c].rx = { x.rx with building := x.rx.building ++ [rxItem s.time.beat k f] } ∧ t.can[c].recCnt = x.recCnt ∧
           t.can[c].tec = x.tec ∧ t.st = s.st ∧ t.saf = s.saf))) ∧
     (∀ (f : CanFrame), x.hears f.own = false → exec (.canFrameReceived c f) s = .next (fresh s)) ∧
     (x.errSt = .busOff → Does (.busOffRecovery c) s (fun t => t.can[c].errSt = .active ∧ t.can[c].tec = 0 ∧
       t.can[c].recCnt = 0 ∧ t.can[c].rx = x.rx ∧ t.st = s.st ∧ t.saf = s.saf)) ∧
     (∀ d : Fin 2, d ≠ c → Does (.busOffRecovery c) s (fun t => t.can[d] = s.can[d])))

/-- The host's side: REQ makes a buffer PENDING that the module does not use and the host may not request one it does use;
ABORT ends a PENDING buffer at once, or after its attempt on the bus; loop-back changes in STOP and SERVICE only, with
no buffer PENDING, and the channel then integrates (14 R347 to R349, R351). -/
def Obligations.CanBuffers : Prop :=
  ∀ (i : Fin 32) (c : Fin 2) (s : State), MayWrite i s →
    let x := s.can[c]
    (∀ b : Fin 3, x.moduleUses b = false →
      (x.txb[b].st ≠ .pending → x.rspQ = [] → Does (.req i c b) s (fun t => t.can[c].txb[b] = { x.txb[b] with
        st := .pending, abortLate := false, attempts := 0, abortReq := false } ∧
        (∀ d : Fin 3, d ≠ b → t.can[c].txb[d] = x.txb[d]) ∧ t.st = s.st ∧ t.saf = s.saf)) ∧
      (x.txb[b].st = .pending → x.offered ≠ some b → Does (.txbAbort i c b) s (fun t =>
        t.can[c] = { x with txb := x.txb.set b { x.txb[b] with st := .aborted } } ∧ t.st = s.st ∧ t.saf = s.saf)) ∧
      (x.txb[b].st = .pending → x.offered = some b → Does (.txbAbort i c b) s (fun t =>
        t.can[c] = { x with txb := x.txb.set b { x.txb[b] with abortReq := true } } ∧ t.st = s.st ∧ t.saf = s.saf))) ∧
    (∀ b : Fin 3, x.moduleUses b = true → Does (.req i c b) s (fun t => t.can = s.can ∧
      said t = [directRsp i 4 .access (txbCmdAddr c b) []])) ∧
    (∀ v : Word, wBits v 1 0 ≠ 3 → (∀ b : Fin 3, x.txb[b].st ≠ .pending) → wBits v 1 0 ≠ x.loop →
      (s.st.mode = .stop ∨ s.st.mode = .service → Does (.loop i c v) s (fun t => t.can = s.can.set c { x with
        loop := wBits v 1 0, busy := false, errSt := if x.errSt = .busOff then .busOff else .integrating } ∧
        t.st = s.st ∧ t.saf = s.saf)) ∧
      (s.st.mode ≠ .stop → s.st.mode ≠ .service → Does (.loop i c v) s (fun t => t.can = s.can ∧
        said t = [directRsp i 4 .access (0xE004 + 0x400 * c.val) []])))

/-- Inputs, counters and conversions: a filtered level and a count change on a channel that has that personality and on no
other; CNT_CLR clears what it names; once at tick 330 of every tenth beat each mapped temperature input takes its
conversion, in range or as SUSPECT (14 R357, R358, R363). Outputs and their faults: an overload of a switch that is on
and a temperature above 150 °C hold it off, a terminal that disagrees and a broken wire are shown, and each sets
FAULT_SEEN; the last two end by themselves, and OVERTEMP does not end before the switch has cooled; a silence of the
logic drives every output to its SAFE value and counts a trip (14 R360, R361). -/
def Obligations.FieldChannels : Prop :=
  (∀ s : State, awake s = true →
     (∀ (k : Fin 16) (l : Bool), Does (.inputFilterChange k l) s (fun t => t.st = s.st ∧ t.saf = s.saf ∧
       (ioMode s k.val = 1 → (ioAt t k.val) = { ioAt s k.val with filtered := l } ∧ ∀ j : Nat, j ≠ k.val → ioAt t j = ioAt s j) ∧
       (ioMode s k.val ≠ 1 → t.fio = s.fio))) ∧
     (∀ k : Fin 4, Does (.counterEdge k) s (fun t => t.st = s.st ∧ t.saf = s.saf ∧
       (ioMode s k.val = 3 → t.fio = { s.fio with cnt := s.fio.cnt.set k ((s.fio.cnt[k] + 1) % 2 ^ 32) }) ∧
       (ioMode s k.val ≠ 3 → t.fio = s.fio))) ∧
     (∀ (i : Fin 32) (v : Word), MayWrite i s → Does (.cntClr i v) s (fun t => t.st = s.st ∧ t.saf = s.saf ∧ t.fio.io = s.fio.io ∧
       ∀ k : Fin 4, t.fio.cnt[k] = if wBit v k.val then 0 else s.fio.cnt[k])) ∧
     (∀ raw : List Nat, s.st.mode.fromLoaded = true → s.time.beat % 10 = 0 → tickOf s ≤ 330 →
       (hadTurn .thermistors s = true → exec (.thConversion raw) s = .next (fresh s)) ∧
       (hadTurn .thermistors s = false → Does (.thConversion raw) s (fun t => tickOf t = 330 ∧
         hadTurn .thermistors t = true ∧ t.st = s.st ∧ t.saf = s.saf ∧ ∀ k : Fin 6,
         (s.fio.th[k].mapped = false → t.fio.th[k] = s.fio.th[k]) ∧
         (s.fio.th[k].mapped = true → (t.fio.th[k].code = .valid ∧ -4000 ≤ t.fio.th[k].held ∧ t.fio.th[k].held ≤ 15000 ∧
             t.fio.th[k].heldBeat = some s.time.beat) ∨
           (t.fio.th[k].code = .suspect ∧ t.fio.th[k].held = s.fio.th[k].held ∧ t.fio.th[k].heldBeat = s.fio.th[k].heldBeat)) ∧
         (s.fio.th[k].mapped = true → raw.getD k.val 0 = 0 → t.fio.th[k].code = .suspect))))) ∧
  (∀ (k : Fin 16) (s : State), awake s = true →
     let c := ioAt s k.val
     let fault := fun (x : IoCh) (t : State) => ioAt t k.val = x ∧ t.fio.faultSeenAny = true ∧ t.st = s.st ∧ t.saf = s.saf ∧
       ∀ j : Nat, j ≠ k.val → ioAt t j = ioAt s j
     (ioMode s k.val = 2 →
       (c.out = true → Does (.overload k) s (fault { c with overload := true, seen := true })) ∧
       (∀ x : Int, 150 < x → c.overtemp = false → Does (.overtemp k x) s (fault { c with overtemp := true, cool := false, seen := true })) ∧
       (∀ x : Int, 150 < x → c.overtemp = true → Does (.overtemp k x) s (fun t => ioAt t k.val = { c with cool := false } ∧
         t.fio.faultSeenAny = s.fio.faultSeenAny ∧ t.st = s.st ∧ t.saf = s.saf)) ∧
       (∀ x : Int, 130 ≤ x → x ≤ 150 → exec (.overtemp k x) s = .next (fresh s)) ∧
       (∀ x : Int, x < 130 → Does (.overtemp k x) s (fun t => ioAt t k.val = { c with cool := true } ∧ t.st = s.st ∧ t.saf = s.saf)) ∧
       (c.overload = false → c.overtemp = false → c.readback = false → Does (.readback k) s (fault { c with readback := true, seen := true })) ∧
       Does (.readbackClear k) s (fun t => ioAt t k.val = { c with readback := false } ∧ t.st = s.st ∧ t.saf = s.saf) ∧
       (c.overtemp = true → c.cool = false → (IoCh.drive false c).out = false ∧ (IoCh.drive true c).out = false)) ∧
     (wireJudged s k.val = true → c.openWire = false → Does (.openWire k) s (fault { c with openWire := true, seen := true })) ∧
     (s.fio.live = true → Does (.openWireClear k) s (fun t => ioAt t k.val = { c with openWire := false } ∧ t.st = s.st ∧ t.saf = s.saf)) ∧
     (s.fio.live = true → s.fio.armed = true → s.fio.silent = false → (ioPers s).silence * 1000000 ≤ silentNs s →
       Does .silenceExpiry s (fun t => t.fio.silent = true ∧ t.fio.tripSeen = true ∧ t.fio.trips = satAdd s.fio.trips 1 65535 ∧
         t.fio.cnt = s.fio.cnt ∧ t.st = s.st ∧ t.saf = s.saf ∧ ∀ j < 16, (ioMode s j = 2 → (ioAt t j).driven = (ioCfg s j).safe) ∧
           (ioMode s j ≠ 2 → ioAt t j = ioAt s j))))

/-- A check of WATCH: it starts counted and from nothing; a check beat without a trip goes over to the next one; a trip
raises WAKE_OUT, keeps its checks and the cause of the first, and makes T13; the end switches everything off again, or
makes T13 where WAKE_IN waits (15 R374 to R377). -/
def Obligations.WatchChecks : Prop :=
  ∀ (r : WatchRun) (s : State), s.st.mode = .watch → s.pw.held = false → s.pw.watch = some r →
    (r.beat = none → r.plan.isSome = true → Does .watchCheckStart s (fun t => t.st = s.st ∧ t.pw.res = s.pw.res ∧
      ∃ x, t.pw.watch = some x ∧ x.beat = some 0 ∧ x.checks = r.checks + 1 ∧ x.strN = 0 ∧ x.strSum = 0 ∧ x.wakeIn = false ∧
        ∀ n ∈ x.nodes, n.missed = 0 ∧ n.hit = none)) ∧
    (∀ (c : Nat) (d : WatchData), r.beat = some c →
      let x := watchTake s.freeCtr c d r
      (watchTrips c d x = [] → r.wakeIn = false → Does (.watchCheckBeat d) s (fun t => t.st = s.st ∧
        t.pw.watch = some { x with beat := some (c + 1) } ∧ t.pw.wakeTrip = s.pw.wakeTrip)) ∧
      (∀ a l, watchTrips c d x = a :: l → Does (.watchCheckBeat d) s (fun t => t.st.mode = .blank ∧ t.pw.watch = none ∧
        t.pw.wakeTrip = true ∧ t.pw.resReadable = true ∧ t.pw.res.cause = a.2 ∧ t.pw.res.tripped.testBit a.1 = true ∧
        t.pw.wakeInAlso = r.wakeIn)) ∧
      (∀ p, r.plan = some p → p.checks.testBit 0 = true → c = 19 → d.vStr = none → 0 < r.strN → r.strSum < p.vStrLo * r.strN →
        watchTrips c d x ≠ [])) ∧
    (∀ c, r.beat = some c → r.over' c = true →
      (r.wakeIn = false → Does .watchCheckEnd s (fun t => t.st = s.st ∧ t.pw.watch = some { r with beat := none } ∧
        t.pw.res = s.pw.res)) ∧
      (r.wakeIn = true → Does .watchCheckEnd s (fun t => t.st.mode = .blank ∧ t.pw.watch = none ∧ t.pw.resReadable = true ∧
        t.pw.res.cause = s.pw.res.cause)))

/-- WAKE_OUT and the life cycle: WAKE_OUT_CLR clears the trip, HOLD drives it; a life-cycle command changes NONCE whatever
its outcome; refused it leaves state and keys and shows its RESULT, STATE outside BLANK and for SHIP always, SUPPLY
below 20 V; carried out it writes or revokes its key, or moves the state on, with the records wiped and the module
started anew (15 R377, R379 to R381, Table 15-11). The order in which several reasons for a refusal are judged is the
model's choice (log 30). -/
def Obligations.LifeCycle : Prop :=
  ∀ (i : Fin 32) (s : State), MayWrite i s →
    Does (.wakeOutClr i) s (fun t => t.pw = { s.pw with wakeTrip := false } ∧ t.st = s.st ∧ t.saf = s.saf) ∧
    (∀ h, Does (.wakeOutHold i h) s (fun t => t.pw = { s.pw with wakeHold := h } ∧ t.st = s.st ∧ t.saf = s.saf)) ∧
    ∀ v : Word,
      let runs := fun (c : Instr) (k : Nat) (P : State → Prop) =>
        let n := lcRefusal (lcWord k v) s
        Does c s (fun t => s.pw.nonceCtr < t.pw.nonceCtr ∧
          (n ≠ 0 → t.pw = { s.pw with lcRefused := true, lcResult := n, nonceCtr := s.pw.nonceCtr + 1 } ∧ t.rcd = s.rcd ∧
            t.st = s.st ∧ t.saf = s.saf) ∧ (n = 0 → P t))
      let moved := fun (l : LcSt) (t : State) => t.pw.lc = l ∧ t.pw.entered = true ∧ t.pw.wiped = true ∧ t.rcd.recs = [] ∧
        t.rcd.jnls = [] ∧ t.st.mode = .blank ∧ t.cal = none ∧ ∀ j : Fin 32, t.host.sess[j].isOpen = false
      let slot : Fin 4 := ⟨wBits v 17 16 % 4, Nat.mod_lt _ (by decide)⟩
      runs (.ship i v) 1 (fun _ => False) ∧ lcRefusal (lcWord 1 v) s = 1 ∧
      runs (.provision i v) 2 (fun t => moved .owned t ∧ t.pw.keys = s.pw.keys.set 0 { s.pw.keys[(0 : Fin 4)] with key := some (lcKey s) }) ∧
      runs (.addKey i v) 3 (fun t => t.pw.lc = .owned ∧ t.st = s.st ∧ t.rcd = s.rcd ∧
        t.pw.keys = s.pw.keys.set slot { s.pw.keys[slot] with key := some (lcKey s) }) ∧
      runs (.revoke i v) 4 (fun t => t.pw.lc = .owned ∧ t.st = s.st ∧ t.rcd = s.rcd ∧
        t.pw.keys = s.pw.keys.set slot { s.pw.keys[slot] with revoked := true }) ∧
      runs (.returnCmd i v) 5 (fun t => moved .returned t ∧ ∀ k : Fin 4, t.pw.keys[k] = { s.pw.keys[k] with revoked := true }) ∧
      runs (.scrap i v) 6 (moved .scrapped) ∧
      (∀ k, s.st.mode ≠ .blank → lcRefusal (lcWord k v) s = 1) ∧
      (∀ k, s.st.mode = .blank → s.pw.vsup < 20000 → k % 256 ≠ 1 → lcRefusal (lcWord k v) s = 2)

/-- The record stores: the oldest event that waits is recorded under the next index, and the oldest journal event under
the next SEQ; into a full store it is lost and counted, and while a freeze holds it is held back; an operating second
counts, in TRIAL there too (16 R382 to R388, Table 16-1). -/
def Obligations.RecordStores : Prop :=
  ∀ s : State,
    (∀ e r, s.rcd.recQ = e :: r → Does .recorderCommit s (fun t => t.rcd.recQ = r ∧ t.rcd.jnls = s.rcd.jnls ∧ t.st = s.st ∧
      t.saf = s.saf ∧
      (s.rcd.freeze = none → s.rcd.recs.length < 4096 → t.rcd.recs = s.rcd.recs ++ [recWords s.rcd.recs.length e] ∧
        t.rcd.newRecord = true ∧ t.rcd.recLost = s.rcd.recLost) ∧
      (s.rcd.freeze = none → 4096 ≤ s.rcd.recs.length → t.rcd.recs = s.rcd.recs ∧ t.rcd.rrFull = true ∧
        t.rcd.recLost = satAdd s.rcd.recLost 1 (2 ^ 32 - 1)) ∧
      (s.rcd.freeze ≠ none → t.rcd.recs = s.rcd.recs ∧ (s.rcd.holdRec.length < 16 → t.rcd.holdRec = s.rcd.holdRec ++ [e])))) ∧
    (∀ e r, s.rcd.jnlQ = e :: r → Does .journalCommit s (fun t => t.rcd.jnlQ = r ∧ t.rcd.recs = s.rcd.recs ∧ t.st = s.st ∧
      t.saf = s.saf ∧ t.rcd.jnlSeq = satAdd s.rcd.jnlSeq 1 (2 ^ 64 - 1) ∧
      (s.rcd.freeze = none → s.rcd.jnls.length < 65536 → t.rcd.jnls = s.rcd.jnls ++ [jnlWords t.rcd.jnlSeq e false]) ∧
      (s.rcd.freeze = none → 65536 ≤ s.rcd.jnls.length → t.rcd.jnls = s.rcd.jnls ∧ t.rcd.jrFull = true ∧
        t.rcd.jnlLost = satAdd s.rcd.jnlLost 1 (2 ^ 32 - 1)) ∧
      (s.rcd.freeze ≠ none → t.rcd.jnls = s.rcd.jnls ∧ (s.rcd.holdJnl.length < 64 →
        t.rcd.holdJnl = s.rcd.holdJnl ++ [jnlWords t.rcd.jnlSeq e false])))) ∧
    (awake s = true → Does .opSec s (fun t => t.rcd = { s.rcd with opSec := satAdd s.rcd.opSec 1 (2 ^ 32 - 1) } ∧
      t.upd = { s.upd with trialSec := if s.upd.phase = .trial then satAdd s.upd.trialSec 1 (2 ^ 32 - 1) else s.upd.trialSec } ∧
      t.st = s.st ∧ t.saf = s.saf))

/-- Freezes: FREEZE begins one that no other session may begin again; UNFREEZE by its session, and 600 000 beats, end it:
what was held back is stored, as far as there is room, and the journal takes the end (16 R388). Clearing records and
the crown lock: a START of CLEAR_RECORDS changes NONCE whatever its outcome, and runs where no start condition fails;
its end empties the stores it names, each with its own record of the erase as the first; RELEASE opens the crown lock
where the life cycle allows it, and LOCK sets it (16 R390, R392). -/
def Obligations.FreezesAndClears : Prop :=
  (∀ (i : Fin 32) (s : State),
     let ended := fun (t : State) => t.rcd.freeze = none ∧ t.rcd.holdRec = [] ∧ t.rcd.holdJnl = [] ∧ t.st = s.st ∧ t.saf = s.saf ∧
       (s.rcd.recs.length + s.rcd.holdRec.length ≤ 4096 → t.rcd.recs.length = s.rcd.recs.length + s.rcd.holdRec.length ∧
         t.rcd.recs.take s.rcd.recs.length = s.rcd.recs) ∧
       (s.rcd.jnls.length + s.rcd.holdJnl.length ≤ 65536 → t.rcd.jnls = s.rcd.jnls ++ s.rcd.holdJnl) ∧
       t.rcd.jnlQ.length = s.rcd.jnlQ.length + 1
     (MayWrite i s →
       (s.rcd.freeze = none → Does (.freeze i) s (fun t => t.rcd = { s.rcd with
         freeze := some i, frozenBeats := 0
         jnlQ := s.rcd.jnlQ ++ [{ code := 0x0E, session := i.val, payload := [beatLo s, 1, 0] }] } ∧ t.st = s.st ∧ t.saf = s.saf)) ∧
       (∀ j : Fin 32, s.rcd.freeze = some j → j ≠ i →
         Does (.freeze i) s (fun t => t.rcd = s.rcd ∧ said t = [directRsp i 4 .access 0x11004 []]) ∧
         Does (.unfreeze i) s (fun t => t.rcd = s.rcd ∧ said t = [directRsp i 4 .ok 0x11004 []])) ∧
       (s.rcd.freeze = some i → Does (.unfreeze i) s ended)) ∧
     (s.rcd.freeze.isSome = true → 600000 ≤ s.rcd.frozenBeats → Does .freezeTimeout s ended) ∧
     (s.rcd.frozenBeats < 600000 → exec .freezeTimeout s = .next (fresh s))) ∧
  ((∀ (i : Fin 32) (j : Fin 8) (s : State), MayWrite i s → s.host.jobs[j].st = .idle → Does (.clearRecords i j) s (fun t =>
     t.pw = { s.pw with nonceCtr := s.pw.nonceCtr + 1 } ∧ t.rcd = s.rcd ∧ t.st = s.st ∧ t.saf = s.saf ∧
     (∀ d, clearDetail s.host.jobs[j].arg s = some d → t.host.jobs[j].st = .refused ∧ t.host.jobs[j].detail = d) ∧
     (clearDetail s.host.jobs[j].arg s = none → t.host.jobs[j].st = .running ∧ t.host.jobs[j].kind = 0x10 ∧
       t.host.jobs[j].committed = true))) ∧
   (∀ (j : Nat) (s : State), oldestOf 0x10 s = some j → Does .clearRecordsDone s (fun t =>
     (jobAt t j).st = .completed ∧ t.st = s.st ∧ t.saf = s.saf ∧ (∀ k ≠ j, jobAt t k = jobAt s k) ∧
     ((jobAt s j).arg.toNat.testBit 0 = true → ∃ w, t.rcd.recs = [w] ∧ t.rcd.recLost = 0 ∧ t.rcd.rrFull = false) ∧
     ((jobAt s j).arg.toNat.testBit 0 = false → t.rcd.recs = s.rcd.recs) ∧
     ((jobAt s j).arg.toNat.testBit 1 = true → ∃ w, t.rcd.jnls = [w] ∧ t.rcd.jnlLost = 0 ∧ t.rcd.jrFull = false) ∧
     ((jobAt s j).arg.toNat.testBit 1 = false → t.rcd.jnls = s.rcd.jnls))) ∧
   (∀ (i : Fin 32) (v : Word) (s : State), MayWrite i s →
     (crownAllowed i (wBits v 9 8) s = true → wBit v 30 = false → Does (.crownRelease i v) s (fun t =>
       t.host.sess[i].crown = true ∧ t.pw = { s.pw with nonceCtr := s.pw.nonceCtr + 1 } ∧ t.st = s.st ∧ t.saf = s.saf ∧
       t.rcd.crownRefused = s.rcd.crownRefused)) ∧
     (crownAllowed i (wBits v 9 8) s = false → Does (.crownRelease i v) s (fun t =>
       t.host.sess[i].crown = s.host.sess[i].crown ∧ t.pw = { s.pw with nonceCtr := s.pw.nonceCtr + 1 } ∧
       t.rcd = { s.rcd with crownRefused := true } ∧ said t = [directRsp i 4 .access 0x11030 []])) ∧
     (s.pw.lc = .scrapped → crownAllowed i (wBits v 9 8) s = false) ∧
     (s.pw.lc ≠ .scrapped → s.pw.lc ≠ .owned → crownAllowed i (wBits v 9 8) s = true) ∧
     Does (.lock i) s (fun t => t.host.sess[i].crown = false ∧ t.pw = s.pw ∧ t.st = s.st ∧ t.saf = s.saf)))

/-- Firmware pieces: the next manifest piece is stored, and one out of turn leaves the slot and gives RESULT 4; an image
piece of RECEIVING waits to be judged; a piece whose hash agrees is stored and one whose hash does not leaves the slot
(16 R395 to R397). The checks over a whole manifest and a whole image: a manifest without fault leads to RECEIVING and
one with a fault to REJECTED, with its code as the RESULT; a matching image leads to READY and another to REJECTED (16
R394 to R396). The hash is the one of the standard that the spec names (log 13). -/
def Obligations.FirmwarePieces : Prop :=
  ((∀ (i : Fin 32) (k : Nat) (s : State), MayWrite i s → k < 16384 → s.upd.sess[i].result ≠ 1 → s.pw.lc ≠ .scrapped →
     (s.upd.phase = .empty ∨ s.upd.phase = .manifest) →
     (k = s.upd.slot.next → s.upd.manCheck = none → Does (.manifestPiece i k) s (fun t => t.upd.phase = .manifest ∧
       t.upd.slot.man = s.upd.slot.man ++ wordsBytes s.upd.sess[i].buf ∧ t.upd.slot.next = k + 1 ∧
       t.upd.active = s.upd.active ∧ t.upd.svnMin = s.upd.svnMin)) ∧
     (k ≠ s.upd.slot.next → Does (.manifestPiece i k) s (fun t => t.upd.slot = s.upd.slot ∧
       t.upd.sess[i].result = 4 ∧ t.upd.phase = s.upd.phase))) ∧
   (∀ (i : Fin 32) (k : Nat) (s : State), MayWrite i s → k < 16384 → s.upd.sess[i].result ≠ 1 → s.pw.lc ≠ .scrapped →
     s.upd.phase = .receiving → k < nPieces s.upd.slot.man →
     Does (.imagePiece i k) s (fun t => t.upd.sess[i].piece = some k ∧ t.upd.sess[i].result = 1 ∧
       t.upd.slot = s.upd.slot)) ∧
   (∀ (i : Fin 32) (k : Nat) (s : State), awake s = true → s.upd.sess[i].piece = some k → s.upd.phase = .receiving →
     s.upd.slot.pieces.any (fun p => p.1 == k) = false →
     let w := paddedPiece s.upd.slot.man k s.upd.sess[i].buf
     Does (.pieceJudged i) s (fun t =>
       if sha256 (wordsBytes w) = pieceHash s.upd.slot.man k then
         (k, w) ∈ t.upd.slot.pieces ∧ t.upd.slot.pieces.length = s.upd.slot.pieces.length + 1 ∧ t.upd.sess[i].result = 0
       else t.upd.slot = s.upd.slot ∧ t.upd.sess[i].result = 3 ∧ t.upd.phase = .receiving))) ∧
  ((∀ (i : Fin 32) (s : State), awake s = true → s.upd.manCheck = some i →
     Does .manifestVerifyDone s (fun t => t.upd.manCheck = none ∧ match manFault s.upd.slot.man s with
       | none => t.upd.phase = .receiving ∧ t.upd.sess[i].result = 0 ∧ t.upd.slot = s.upd.slot
       | some c => t.upd.phase = .rejected ∧ t.upd.sess[i].result = c)) ∧
   (∀ (i : Fin 32) (s : State), awake s = true → s.upd.imgCheck = some i →
     Does .imageHashCheckDone s (fun t => t.upd.imgCheck = none ∧ t.upd.slot = s.upd.slot ∧
       if imageMatches s.upd.slot then t.upd.phase = .ready
       else t.upd.phase = .rejected ∧ t.upd.sess[i].result = 9)))

/-- The slots: CONFIRM in TRIAL keeps the new slot, empties the former one and never lowers SVN_MIN; DISCARD_SLOT erases
the inactive slot to EMPTY; an ACTIVATE from READY with its target at least 2 s ahead arms TRG3 for that second; a
trial of 3 600 s expires, and an expired one falls back at a beat boundary where no switch is on, by a start from
reset (16 R398 to R402). -/
def Obligations.FirmwareSlots : Prop :=
  (∀ (i : Fin 32) (s : State), MayWrite i s → s.upd.sess[i].result ≠ 1 → s.upd.phase = .trial →
    s.host.sess[i].crown = true → Does (.confirm i) s (fun t => t.upd.phase = .empty ∧ t.upd.slot = default ∧
      t.upd.active = s.upd.active ∧ s.upd.svnMin ≤ t.upd.svnMin ∧ manSvn s.upd.slot.man ≤ t.upd.svnMin)) ∧
  (∀ (i : Fin 32) (j : Fin 8) (s : State), MayWrite i s → s.host.sess[i].crown = true → (jobAt s j.val).st = .idle →
    contactorJob s = false → s.upd.phase ≠ .trial → Does (.discardSlot i j) s (fun t => (jobAt t j.val).st = .running ∧
      (jobAt t j.val).kind = 0x11 ∧ (jobAt t j.val).session = i.val)) ∧
  (∀ (j : Nat) (s : State), j < 8 → oldestOf 0x11 s = some j → Does .discardDone s (fun t => t.upd.phase = .empty ∧
    t.upd.slot = default ∧ t.upd.active = s.upd.active ∧ (jobAt t j).st = .completed)) ∧
  (∀ (i : Fin 32) (j : Fin 8) (s : State), MayWrite i s → s.host.sess[i].crown = true → (jobAt s j.val).st = .idle →
    contactorJob s = false → s.upd.phase = .ready → fabNs s + 2000000000 ≤ actNs s →
    Does (.activate i j) s (fun t => (jobAt t j.val).st = .running ∧ (jobAt t j.val).kind = 0x12 ∧
      t.time.trg[(3 : Fin 4)].arm = true ∧ t.time.trg[(3 : Fin 4)].target = s.upd.actSec * 1000000000 ∧
      t.upd.phase = .ready)) ∧
  (∀ (s : State), awake s = true → s.upd.phase = .trial → 3600 ≤ s.upd.trialSec →
    exec .trialExpiry s = .next { fresh s with upd := { s.upd with expired := true } }) ∧
  (∀ (s : State), awake s = true → s.upd.phase = .trial → s.upd.expired = true → tickOf s = 0 → noSwitchOn s = true →
    lowCurrent s = true → Does .trialFallback s (fun t => t.upd.active = 1 - s.upd.active ∧ t.upd.phase = .rejected ∧
      t.upd.fellBack = true ∧ t.st.mode = .blank ∧ t.cal = none ∧ t.pw.wakeCause = 8)) ∧
  (∀ (low : Bool) (s : State), exec (.reserveLow low) s = .next { fresh s with upd := { s.upd with reserveLow := low } })
end

