-- ==== Sys2Proof/Laws/Base.lean ====
section
/-! SUPPORT. Folds that leave a part of the state alone. -/

namespace Sys2Proof.Machine

/-- A fold whose steps leave the queue alone leaves it alone. -/
theorem foldl_pending {α : Type} (g : State → α → State) (h : ∀ s x, (g s x).pending = s.pending) (l : List α)
    (s : State) : (l.foldl g s).pending = s.pending := by
  induction l generalizing s with
  | nil => rfl
  | cons x r ih => exact (ih (g s x)).trans (h s x)

/-- A fold whose steps leave STATE alone leaves it alone. -/
theorem foldl_st {α : Type} (g : State → α → State) (h : ∀ s x, (g s x).st = s.st) (l : List α) (s : State) :
    (l.foldl g s).st = s.st := by
  induction l generalizing s with
  | nil => rfl
  | cons x r ih => exact (ih (g s x)).trans (h s x)

/-- A fold whose steps leave the safety block alone leaves it alone. -/
theorem foldl_saf {α : Type} (g : State → α → State) (h : ∀ s x, (g s x).saf = s.saf) (l : List α) (s : State) :
    (l.foldl g s).saf = s.saf := by
  induction l generalizing s with
  | nil => rfl
  | cons x r ih => exact (ih (g s x)).trans (h s x)

/-- A fold whose steps leave the published limits alone leaves them alone. -/
theorem foldl_limits {α : Type} (g : State → α → State) (h : ∀ s x, (g s x).lim.lim = s.lim.lim) (l : List α) (s : State) :
    (l.foldl g s).lim.lim = s.lim.lim := by
  induction l generalizing s with
  | nil => rfl
  | cons x r ih => exact (ih (g s x)).trans (h s x)

end Sys2Proof.Machine
end

