-- ==== Sys2Proof/Laws/FrameState.lean ====
section
/-! SUPPORT. One lemma per operation of the machine about the state of 01 (mode, the one before, the count of changes), where an operation leaves it alone. -/

namespace Sys2Proof.Machine

/-! ### Ops -/

@[simp] theorem markTick_st (s : State) : (markTick s).st = s.st := by rfl
@[simp] theorem setAgain_st (a bits : Nat) (s : State) : (setAgain a bits s).st = s.st := by rfl
@[simp] theorem setAgainIf_st (c : Bool) (a bits : Nat) (s : State) : (setAgainIf c a bits s).st = s.st := by
  unfold setAgainIf
  (repeat' split) <;> rfl
@[simp] theorem fresh_st (s : State) : (fresh s).st = s.st := by rfl
@[simp] theorem put_st (e : Emit) (s : State) : (put e s).st = s.st := by rfl
@[simp] theorem emitFab_st (mac : Option Nat) (kind dst seq beat : Nat) (stamp : Option Nat) (ports : Nat) (payload :
    List Byte) (s : State) : (emitFab mac kind dst seq beat stamp ports payload s).st = s.st := by
  unfold emitFab
  (repeat' split) <;> rfl
@[simp] theorem sendFab_st (mac : Option Nat) (kind dst beat : Nat) (stamp : Option Nat) (ports : Nat) (payload : List
    Byte) (s : State) : (sendFab mac kind dst beat stamp ports payload s).st = s.st := by simp [sendFab]
@[simp] theorem tookFree_st (k : Nat) (s : State) : (tookFree k s).st = s.st := by rfl
@[simp] theorem takeTurn_st (x : Turn) (s : State) : (takeTurn x s).st = s.st := by rfl
@[simp] theorem atTick_st (t : Nat) (s : State) : (atTick t s).st = s.st := by rfl
@[simp] theorem actAt_st (x : Turn) (t : Nat) (s : State) : (actAt x t s).st = s.st := by rfl
@[simp] theorem atNs_st (ns : Nat) (s : State) : (atNs ns s).st = s.st := by rfl
@[simp] theorem recEvent_st (code chan : Nat) (p : List Word) (s : State) : (recEvent code chan p s).st = s.st := by rfl
@[simp] theorem jnl_st (code session : Nat) (payload : List Word) (s : State) : (jnl code session payload s).st = s.st
    := by rfl

/-! ### Queues -/

@[simp] theorem modQueue_st (q : Nat) (f : Queue → Queue) (s : State) : (modQueue q f s).st = s.st := by rfl
@[simp] theorem offerContent_st (content : Nat) (words : List Word) (s : State) : (offerContent content words s).st =
    s.st := by
  unfold offerContent
  repeat' split
  all_goals first
    | rfl
    | exact foldl_st _ (fun s _ => by (repeat' split) <;> first | rfl | simp) _ _
    | (refine (foldl_st _ (fun s _ => by (repeat' split) <;> first | rfl | simp) _ _).trans ?_; simp)
    | simp
@[simp] theorem queueCtrl_st (i : Fin 32) (q : Nat) (v : Word) (s : State) : (queueCtrl i q v s).2.st = s.st := by
  unfold queueCtrl
  repeat' split
  all_goals first
    | rfl
    | exact foldl_st _ (fun s _ => by (repeat' split) <;> first | rfl | simp) _ _
    | (refine (foldl_st _ (fun s _ => by (repeat' split) <;> first | rfl | simp) _ _).trans ?_; simp)
    | simp
@[simp] theorem queuesWrite_st (i : Fin 32) (o : Nat) (v : Word) (s : State) : (queuesWrite i o v s).2.st = s.st := by
  unfold queuesWrite
  repeat' split
  all_goals first | rfl | simp
@[simp] theorem releaseClaims_st (i : Fin 32) (s : State) : (releaseClaims i s).st = s.st := by rfl

/-! ### Jobs -/

@[simp] theorem modJob_st (j : Nat) (f : Job → Job) (s : State) : (modJob j f s).st = s.st := by rfl
@[simp] theorem jobStart_st (i : Fin 32) (j kind : Nat) (s : State) : (jobStart i j kind s).st = s.st := by rfl
@[simp] theorem jobEnd_st (j : Nat) (st : JobSt) (detail : Nat) (s : State) : (jobEnd j st detail s).st = s.st := by rfl
@[simp] theorem jobRefuse_st (i : Fin 32) (j kind detail : Nat) (s : State) : (jobRefuse i j kind detail s).st = s.st
    := by
    rfl
@[simp] theorem jobCommitted_st (j : Nat) (s : State) : (jobCommitted j s).st = s.st := by rfl
@[simp] theorem jobClearWrite_st (j : Nat) (s : State) : (jobClearWrite j s).2.st = s.st := by
  unfold jobClearWrite
  (repeat' split) <;> rfl
@[simp] theorem jobArgWrite_st (j : Nat) (v : Word) (s : State) : (jobArgWrite j v s).2.st = s.st := by
  unfold jobArgWrite
  (repeat' split) <;> rfl

/-! ### Records -/

@[simp] theorem bumpNonce_st (s : State) : (bumpNonce s).st = s.st := by rfl
@[simp] theorem storeRec_st (e : RecEvent) (s : State) : (storeRec e s).st = s.st := by
  unfold storeRec
  dsimp only
  (repeat' split) <;> first | rfl | (simp; done)
@[simp] theorem formRec_st (e : RecEvent) (s : State) : (formRec e s).st = s.st := by
  unfold formRec
  dsimp only
  (repeat' split) <;> first | rfl | (simp; done)
@[simp] theorem storeJnl_st (w : List Word) (s : State) : (storeJnl w s).st = s.st := by
  unfold storeJnl
  (repeat' split) <;> rfl
@[simp] theorem formJnl_st (e : JnlEvent) (s : State) : (formJnl e s).st = s.st := by
  unfold formJnl
  dsimp only
  (repeat' split) <;> first | rfl | (simp; done)
@[simp] theorem flushHeld_st (s : State) : (flushHeld s).st = s.st := by
  unfold flushHeld
  dsimp only
  refine (foldl_st _ (fun s _ => by simp) _ _).trans ?_
  exact (foldl_st _ (fun s _ => by simp) _ _).trans rfl
@[simp] theorem freezeEnd_st (s : State) : (freezeEnd s).st = s.st := by
  unfold freezeEnd
  dsimp only
  (repeat' split) <;> first | rfl | (simp; done)
@[simp] theorem freezeStart_st (i : Fin 32) (s : State) : (freezeStart i s).2.st = s.st := by
  unfold freezeStart
  (repeat' split) <;> rfl
@[simp] theorem rcCtrlWrite_st (i : Fin 32) (v : Word) (s : State) : (rcCtrlWrite i v s).2.st = s.st := by
  unfold rcCtrlWrite
  dsimp only
  (repeat' split) <;> first | rfl | (simp; done)
@[simp] theorem setCrown_st (i : Fin 32) (released : Bool) (signer : Nat) (s : State) : (setCrown i released signer
    s).st = s.st := by
  unfold setCrown
  (repeat' split) <;> rfl
@[simp] theorem crownWrite_st (i : Fin 32) (v : Word) (s : State) : (crownWrite i v s).2.st = s.st := by
  unfold crownWrite
  dsimp only
  (repeat' split) <;> first | rfl | (simp; done)
@[simp] theorem clearStart_st (i : Fin 32) (j : Fin 8) (s : State) : (clearStart i j s).st = s.st := by
  unfold clearStart
  dsimp only
  (repeat' split) <;> first | rfl | (simp; done)
@[simp] theorem clearRecorder_st (slot : Nat) (s : State) : (clearRecorder slot s).st = s.st := by rfl
@[simp] theorem clearJournal_st (session slot : Nat) (s : State) : (clearJournal session slot s).st = s.st := by simp
    [clearJournal]
@[simp] theorem clearDone_st (s : State) : (clearDone s).st = s.st := by
  unfold clearDone
  dsimp only
  (repeat' split) <;> first | rfl | (simp; done)
@[simp] theorem recordsWrite_st (i : Fin 32) (o : Nat) (v : Word) (s : State) : (recordsWrite i o v s).2.st = s.st :=
    by
  unfold recordsWrite
  dsimp only
  (repeat' split) <;> first | rfl | (simp; done)

/-! ### Timing -/

@[simp] theorem modEngine_st (e : Nat) (f : Engine → Engine) (s : State) : (modEngine e f s).st = s.st := by rfl
@[simp] theorem releaseItem_st (k : Nat) (s : State) : (releaseItem k s).st = s.st := by
  unfold releaseItem
  (repeat' split) <;> rfl
@[simp] theorem overrun_st (e : Nat) (item : Option Nat) (s : State) : (overrun e item s).st = s.st := by
  unfold overrun
  dsimp only
  (repeat' split) <;> first | rfl | (simp; done)
@[simp] theorem stopItem_st (k cycles : Nat) (s : State) : (stopItem k cycles s).st = s.st := by
  unfold stopItem
  repeat' split
  all_goals first
    | rfl
    | exact foldl_st _ (fun s _ => by (repeat' split) <;> first | rfl | simp) _ _
    | (refine (foldl_st _ (fun s _ => by (repeat' split) <;> first | rfl | simp) _ _).trans ?_; simp)
    | simp
@[simp] theorem stopLate_st (s : State) (x : Nat × Nat) : (stopLate s x).st = s.st := by simp [stopLate]
@[simp] theorem stopReleased_st (s : State) : (stopReleased s).st = s.st := by
  unfold stopReleased
  repeat' split
  all_goals first
    | rfl
    | exact foldl_st _ (fun s _ => by (repeat' split) <;> first | rfl | simp) _ _
    | (refine (foldl_st _ (fun s _ => by (repeat' split) <;> first | rfl | simp) _ _).trans ?_; simp)
    | simp
@[simp] theorem escapementBeat_st (s : State) : (escapementBeat s).st = s.st := by
  unfold escapementBeat
  (repeat' split) <;> rfl
@[simp] theorem releaseAtZero_st (s : State) : (releaseAtZero s).st = s.st := by
  unfold releaseAtZero
  repeat' split
  all_goals first
    | rfl
    | exact foldl_st _ (fun s _ => by (repeat' split) <;> first | rfl | simp) _ _
    | (refine (foldl_st _ (fun s _ => by (repeat' split) <;> first | rfl | simp) _ _).trans ?_; simp)
    | simp
@[simp] theorem modDom_st (d : Fin 2) (f : Dom → Dom) (s : State) : (modDom d f s).st = s.st := by rfl
@[simp] theorem judgeSync_st (s : State) : (judgeSync s).st = s.st := by rfl
@[simp] theorem nodesShift_st (d : Int) (s : State) : (nodesShift d s).st = s.st := by rfl
@[simp] theorem rebeat_st (b b' : Nat) (s : State) : (rebeat b b' s).st = s.st := by rfl
@[simp] theorem stepClock_st (offset : Int) (s : State) : (stepClock offset s).st = s.st := by rfl
@[simp] theorem correct_st (s : State) : (correct s).st = s.st := by
  unfold correct
  dsimp only
  (repeat' split) <;> first | rfl | (simp; done)
@[simp] theorem syncMeasured_st (d : Fin 2) (off : Int) (gm : Nat) (s : State) : (syncMeasured d off gm s).st = s.st
    := by
    rfl
@[simp] theorem selectGm_st (d : Fin 2) (s : State) : (selectGm d s).st = s.st := by rfl
@[simp] theorem endSwitch_st (s : State) : (endSwitch s).st = s.st := by rfl
@[simp] theorem steerTo_st (d : Fin 2) (s : State) : (steerTo d s).st = s.st := by simp [steerTo]
@[simp] theorem fireTrig_st (k : Fin 4) (s : State) : (fireTrig k s).st = s.st := by rfl
@[simp] theorem trigWrite_st (k : Fin 4) (w : Nat) (v : Word) (s : State) : (trigWrite k w v s).2.st = s.st := by
  unfold trigWrite
  dsimp only
  (repeat' split) <;> first | rfl | (simp; done)
@[simp] theorem modTsq_st (p : Fin 3) (f : Tsq → Tsq) (s : State) : (modTsq p f s).st = s.st := by rfl
@[simp] theorem probeWrite_st (v : Word) (s : State) : (probeWrite v s).st = s.st := by
  unfold probeWrite
  repeat' split
  all_goals first
    | rfl
    | exact foldl_st _ (fun s _ => by (repeat' split) <;> first | rfl | simp) _ _
    | (refine (foldl_st _ (fun s _ => by (repeat' split) <;> first | rfl | simp) _ _).trans ?_; simp)
    | simp
@[simp] theorem timeCtrlWrite_st (v : Word) (s : State) : (timeCtrlWrite v s).2.st = s.st := by
  unfold timeCtrlWrite
  dsimp only
  (repeat' split) <;> first | rfl | (simp; done)
@[simp] theorem timeWrite_st (o : Nat) (v : Word) (s : State) : (timeWrite o v s).2.st = s.st := by
  unfold timeWrite
  dsimp only
  (repeat' split) <;> first | rfl | (simp; done)

/-! ### Nodes -/

@[simp] theorem modNode_st (line hop : Nat) (f : NodeS → NodeS) (s : State) : (modNode line hop f s).st = s.st := by rfl
@[simp] theorem applyReached_st (line : Nat) (d : End) (f : NodeS → NodeS) (s : State) : (applyReached line d f s).st
    = s.st := by rfl
@[simp] theorem nodeCommand_st (line : Nat) (d : End) (addr claim : Nat) (c : NodeCmd) (s : State) : (nodeCommand line
    d addr claim c s).st = s.st := by rfl
@[simp] theorem nodeBroadcast_st (line : Nat) (d : End) (claim : Nat) (c : NodeCmd) (s : State) : (nodeBroadcast line
    d claim c s).st = s.st := by rfl
@[simp] theorem nodesAssign_st (line : Nat) (d : End) (claim addr : Nat) (s : State) : (nodesAssign line d claim addr
    s).st = s.st := by
  unfold nodesAssign
  (repeat' split) <;> rfl
@[simp] theorem nodesReassign_st (line : Nat) (d : End) (claim addr uid : Nat) (s : State) : (nodesReassign line d
    claim addr uid s).st = s.st := by rfl
@[simp] theorem afterSpan_st (line hop : Nat) (mark : NodeS → Int) (span : Nat) (f : NodeS → NodeS) (s : State) :
    (afterSpan line hop mark span f s).st = s.st := by
  unfold afterSpan
  (repeat' split) <;> rfl

/-! ### Chain -/

@[simp] theorem modLine_st (l : Nat) (f : Line → Line) (s : State) : (modLine l f s).st = s.st := by rfl
@[simp] theorem modRec_st (a : Nat) (f : NodeM → NodeM) (s : State) : (modRec a f s).st = s.st := by rfl
@[simp] theorem sendChain_st (l : Nat) (d : End) (typ addr seq : Nat) (payload : List Byte) (s : State) : (sendChain l
    d typ addr seq payload s).st = s.st := by rfl
@[simp] theorem sendCmd_st (l : Nat) (d : End) (addr op : Nat) (args : List Nat) (s : State) : (sendCmd l d addr op
    args s).st = s.st := by rfl
@[simp] theorem putReply_st (op seq rslot claim : Nat) (c : NodeCmd) (n : Option NodeS) (s : State) : (putReply op seq
    rslot claim c n s).st = s.st := by
  unfold putReply
  (repeat' split) <;> rfl
@[simp] theorem command_st (addr op : Nat) (args : List Nat) (c : NodeCmd) (s : State) : (command addr op args c s).st
    = s.st := by simp [command]
@[simp] theorem broadcast_st (l : Nat) (d : End) (op : Nat) (args : List Nat) (c : NodeCmd) (s : State) : (broadcast l
    d op args c s).st = s.st := by rfl
@[simp] theorem enumFail_st (l err : Nat) (d : End) (hop detail : Nat) (s : State) : (enumFail l err d hop detail
    s).st = s.st := by
  unfold enumFail
  dsimp only
  (repeat' split) <;> first | rfl | (simp; done)
@[simp] theorem sleepLine_st (l : Nat) (s : State) : (sleepLine l s).st = s.st := by rfl
@[simp] theorem sleepAll_st (s : State) : (sleepAll s).st = s.st := by
  unfold sleepAll
  repeat' split
  all_goals first
    | rfl
    | exact foldl_st _ (fun s _ => by (repeat' split) <;> first | rfl | simp) _ _
    | (refine (foldl_st _ (fun s _ => by (repeat' split) <;> first | rfl | simp) _ _).trans ?_; simp)
    | simp
@[simp] theorem sendProbe_st (l : Nat) (d : End) (a : Nat) (s : State) : (sendProbe l d a s).st = s.st := by
  unfold sendProbe
  dsimp only
  (repeat' split) <;> first | rfl | (simp; done)
@[simp] theorem probeLine_st (l : Nat) (s : State) : (probeLine l s).st = s.st := by
  unfold probeLine
  dsimp only
  (repeat' split) <;> first | rfl | (simp; done)
@[simp] theorem sendDelays_st (a : Nat) (d : End) (v : Nat) (s : State) : (sendDelays a d v s).st = s.st := by
  unfold sendDelays
  (repeat' split) <;> rfl
@[simp] theorem closeSet_st (a : Nat) (d : End) (s : State) : (closeSet a d s).st = s.st := by
  unfold closeSet
  dsimp only
  (repeat' split) <;> first | rfl | (simp; done)
@[simp] theorem probeLost_st (l : Nat) (s : State) : (probeLost l s).st = s.st := by
  unfold probeLost
  dsimp only
  (repeat' split) <;> first | rfl | (simp; done)
@[simp] theorem inbound_st (h : ChainHdr) (whole : Bool) (s : State) : (inbound h whole s).st = s.st := by
  unfold inbound
  (repeat' split) <;> rfl
@[simp] theorem forwardPair_st (sub a seq : Nat) (body : List Byte) (s : State) : (forwardPair sub a seq body s).st =
    s.st := by
  unfold forwardPair
  repeat' split
  all_goals first | rfl | simp
@[simp] theorem takeResult_st (a : Nat) (b : ResultBody) (s : State) : (takeResult a b s).st = s.st := by
  unfold takeResult
  (repeat' split) <;> rfl
@[simp] theorem takeAux_st (a : Nat) (b : AuxBody) (s : State) : (takeAux a b s).st = s.st := by
  unfold takeAux
  (repeat' split) <;> rfl
@[simp] theorem checkId_st (a : Nat) (s : State) : (checkId a s).st = s.st := by
  unfold checkId
  dsimp only
  (repeat' split) <;> first | rfl | (simp; done)
@[simp] theorem checkSense_st (a : Nat) (s : State) : (checkSense a s).st = s.st := by
  unfold checkSense
  dsimp only
  (repeat' split) <;> first | rfl | (simp; done)
@[simp] theorem keepIdent_st (a uid nodeType proto caps : Nat) (lockin : Bool) (s : State) : (keepIdent a uid nodeType
    proto caps lockin s).st = s.st := by rfl
@[simp] theorem replyOk_st (c : CmdOut) (a : Nat) (d : ReplyData) (s : State) : (replyOk c a d s).st = s.st := by
  unfold replyOk
  dsimp only
  (repeat' split) <;> first | rfl | (simp; done)
@[simp] theorem markDone_st (c : CmdOut) (s : State) : (markDone c s).st = s.st := by rfl
@[simp] theorem takeReply_st (h : ChainHdr) (op status : Nat) (d : ReplyData) (s : State) : (takeReply h op status d
    s).st = s.st := by
  unfold takeReply
  dsimp only
  (repeat' split) <;> first | rfl | (simp; done)
@[simp] theorem rejoin_st (a : Nat) (s : State) : (rejoin a s).st = s.st := by rfl
@[simp] theorem unknownSeen_st (h : ChainHdr) (uid : Nat) (s : State) : (unknownSeen h uid s).st = s.st := by rfl
@[simp] theorem linePass_st (l : Nat) (s : State) : (linePass l s).st = s.st := by
  unfold linePass
  exact foldl_st _ (fun s _ => by (repeat' split) <;> first | rfl | simp) _ _
@[simp] theorem setHolder_st (b : Bool) (s : State) : (setHolder b s).st = s.st := by rfl
@[simp] theorem takeOver_st (s : State) : (takeOver s).st = s.st := by
  unfold takeOver
  (repeat' split) <;> rfl
@[simp] theorem loseHold_st (s : State) : (loseHold s).st = s.st := by
  unfold loseHold
  (repeat' split) <;> rfl
@[simp] theorem passEnum_st (l : Nat) (seen : Option Nat) (s : State) : (passEnum l seen s).st = s.st := by
  unfold passEnum
  dsimp only
  (repeat' split) <;> first | rfl | (simp; done)
@[simp] theorem judgeAbsent_st (s : State) : (judgeAbsent s).st = s.st := by
  unfold judgeAbsent
  dsimp only
  refine (foldl_st _ ?_ _ _).trans ?_
  · intro s x; (repeat' split) <;> first | rfl | (simp; done)
  · refine (foldl_st _ ?_ _ _).trans rfl; intro s x; (repeat' split) <;> first | rfl | (simp; done)
@[simp] theorem chainBeat_st (s : State) : (chainBeat s).st = s.st := by
  unfold chainBeat
  repeat' split
  all_goals first
    | rfl
    | exact foldl_st _ (fun s _ => by (repeat' split) <;> first | rfl | simp) _ _
    | (refine (foldl_st _ (fun s _ => by (repeat' split) <;> first | rfl | simp) _ _).trans ?_; simp)
    | simp
@[simp] theorem enumStart_st (s : State) : (enumStart s).st = s.st := by rfl
@[simp] theorem chClear_st (s : State) : (chClear s).st = s.st := by rfl

/-! ### Measure -/

@[simp] theorem chargeCommit_st (s : State) : (chargeCommit s).st = s.st := by rfl
@[simp] theorem epochBeat_st (s : State) : (epochBeat s).st = s.st := by rfl
@[simp] theorem posCommit_st (s : State) : (posCommit s).st = s.st := by rfl
@[simp] theorem tempCommit_st (s : State) : (tempCommit s).st = s.st := by
  unfold tempCommit
  (repeat' split) <;> rfl
@[simp] theorem mapTemps_st (s : State) : (mapTemps s).st = s.st := by unfold mapTemps; (repeat' split) <;> rfl
@[simp] theorem accordBeat_st (s : State) : (accordBeat s).st = s.st := by rfl
@[simp] theorem insOpen_st (s : State) : (insOpen s).st = s.st := by unfold insOpen; (repeat' split) <;> rfl
@[simp] theorem insJudge_st (rp rn : Nat) (s : State) : (insJudge rp rn s).st = s.st := by rfl
@[simp] theorem insSettled_st (v : Int) (s : State) : (insSettled v s).1.st = s.st := by
  unfold insSettled
  dsimp only
  (repeat' split) <;> first | rfl | (simp; done)
@[simp] theorem insReceived_st (src string rp rn end32 : Nat) (s : State) : (insReceived src string rp rn end32 s).st
    = s.st := by
  unfold insReceived
  (repeat' split) <;> rfl
@[simp] theorem modSess_st (i : Fin 32) (f : Session → Session) (s : State) : (modSess i f s).st = s.st := by rfl
@[simp] theorem takeSnap_st (s : State) : (takeSnap s).st = s.st := by
  unfold takeSnap
  (repeat' split) <;> rfl
@[simp] theorem measWrite_st (i : Fin 32) (o : Nat) (v : Word) (s : State) : (measWrite i o v s).2.st = s.st := by
  unfold measWrite
  dsimp only
  (repeat' split) <;> first | rfl | (simp; done)

/-! ### Spectra -/

@[simp] theorem modSpec_st (p : Nat) (f : PosSpec → PosSpec) (s : State) : (modSpec p f s).st = s.st := by rfl
@[simp] theorem histBeat_st (s : State) : (histBeat s).st = s.st := by rfl
@[simp] theorem quasiAnchor_st (p : Nat) (l : List BeatRec) (xs : List Rat) (s : State) : (quasiAnchor p l xs s).st =
    s.st := by
  unfold quasiAnchor
  dsimp only
  (repeat' split) <;> first | rfl | (simp; done)
@[simp] theorem windowPos_st (k p : Nat) (l : List BeatRec) (xi : Cx) (s : State) : (windowPos k p l xi s).st = s.st
    := by
    unfold windowPos; dsimp only; (repeat' split) <;> first | rfl | (simp; done)
@[simp] theorem windowStr_st (k : Nat) (l : List BeatRec) (xi : Cx) (s : State) : (windowStr k l xi s).st = s.st := by
    rfl
@[simp] theorem dropStim_st (l : Nat) (s : State) : (dropStim l s).st = s.st := by rfl
@[simp] theorem takeLockin_st (c : CmdOut) (a : Nat) (d : ReplyData) (s : State) : (takeLockin c a d s).st = s.st :=
    by
  unfold takeLockin
  dsimp only
  (repeat' split) <;> first | rfl | (simp; done)

/-! ### Estimate -/

@[simp] theorem modFilter_st (p : Nat) (f : Filter → Filter) (s : State) : (modFilter p f s).st = s.st := by rfl
@[simp] theorem restJudge_st (s : State) : (restJudge s).st = s.st := by
  unfold restJudge
  (repeat' split) <;> rfl
@[simp] theorem restPositions_st (s : State) : (restPositions s).st = s.st := by
  unfold restPositions
  (repeat' split) <;> rfl
@[simp] theorem stimBeat_st (s : State) : (stimBeat s).st = s.st := by rfl
@[simp] theorem trueAnchor_st (p : Nat) (a : AnchorV) (s : State) : (trueAnchor p a s).st = s.st := by
  unfold trueAnchor
  dsimp only
  (repeat' split) <;> first | rfl | (simp; done)
@[simp] theorem anchorStep_st (p : Nat) (second : Bool) (s : State) : (anchorStep p second s).st = s.st := by
  unfold anchorStep
  dsimp only
  (repeat' split) <;> first | rfl | (simp; done)
@[simp] theorem filterOn_st (p : Nat) (r : BeatRec) (add : Int) (f : Filter) (s : State) : (filterOn p r add f s).st =
    s.st := by simp [filterOn]
@[simp] theorem judgeWarn_st (s : State) (eps : List (Option (Rat × Rat))) : (judgeWarn s eps).st = s.st := by
  unfold judgeWarn
  dsimp only
  refine (foldl_st _ (fun s _ => ?_) _ _).trans ?_
  · (repeat' split) <;> first | rfl | simp
  · (repeat' split) <;> first | rfl | simp
@[simp] theorem summaryShow_st (s : State) : (summaryShow s).st = s.st := by
  unfold summaryShow
  (repeat' split) <;> rfl
@[simp] theorem estStart_st (s : State) : (estStart s).st = s.st := by rfl
@[simp] theorem seedCtrlWrite_st (v : Word) (s : State) : (seedCtrlWrite v s).st = s.st := by
  unfold seedCtrlWrite
  dsimp only
  (repeat' split) <;> first | rfl | (simp; done)
@[simp] theorem refReset_st (s : State) : (refReset s).st = s.st := by rfl
@[simp] theorem rwa_st (s : State) (old new : Nat) (f : State → State) (hf : ∀ s, (f s).st = s.st) : (rwa s old new
    f).2.st = s.st := by
  unfold rwa
  split <;> simp [hf]
@[simp] theorem estWrite_st (i : Fin 32) (o : Nat) (v : Word) (s : State) : (estWrite i o v s).2.st = s.st := by
  unfold estWrite; dsimp only; split <;> first | rfl | (simp; done) | (split <;> first | rfl | (simp; done)) | (apply rwa_st; intro s; rfl)

/-! ### Cells -/

@[simp] theorem cellsStart_st (s : State) : (cellsStart s).st = s.st := by rfl
@[simp] theorem tapTemps_st (s : State) : (tapTemps s).st = s.st := by rfl
@[simp] theorem tapCommit_st (s : State) : (tapCommit s).st = s.st := by
  unfold tapCommit
  dsimp only
  (repeat' split) <;> first | rfl | (simp; done)
@[simp] theorem enterFinding_st (r : Nat) (s : State) (f : Finding) : (enterFinding r s f).st = s.st := by simp
    [enterFinding]
@[simp] theorem cellUpdate_st (r : Nat) (pos : List CellPos) (taps : List Tap) (s : State) : (cellUpdate r pos taps
    s).st = s.st := by rfl
@[simp] theorem cellSettle_st (s : State) : (cellSettle s).st = s.st := by
  unfold cellSettle
  repeat' split
  all_goals first
    | rfl
    | exact foldl_st _ (fun s _ => by (repeat' split) <;> first | rfl | simp) _ _
    | (refine (foldl_st _ (fun s _ => by (repeat' split) <;> first | rfl | simp) _ _).trans ?_; simp)
    | simp
@[simp] theorem cellReview_st (s : State) : (cellReview s).st = s.st := by
  unfold cellReview
  dsimp only
  (repeat' split) <;> first | rfl | (simp; done)
@[simp] theorem roundEffects_st (s : State) : (roundEffects s).st = s.st := by
  unfold roundEffects
  exact foldl_st _ (fun s _ => by (repeat' split) <;> first | rfl | simp) _ _
@[simp] theorem cellSumWrite_st (o : Nat) (v : Word) (s : State) : (cellSumWrite o v s).st = s.st := by
  unfold cellSumWrite
  (repeat' split) <;> rfl

/-! ### Limits -/

@[simp] theorem limStart_st (s : State) : (limStart s).st = s.st := by
  unfold limStart
  (repeat' split) <;> rfl
@[simp] theorem selection_st (s : State) : (selection s).st = s.st := by rfl
@[simp] theorem zeroLimits_st (s : State) : (zeroLimits s).st = s.st := by rfl
@[simp] theorem publishLimits_st (s : State) : (publishLimits s).st = s.st := by simp [publishLimits]
@[simp] theorem dieGate_st (s : State) : (dieGate s).st = s.st := by
  unfold dieGate
  dsimp only
  (repeat' split) <;> first | rfl | (simp; done)
@[simp] theorem balancePlan_st (s : State) : (balancePlan s).st = s.st := by
  unfold balancePlan
  dsimp only
  (repeat' split) <;> first | rfl | (simp; done)
@[simp] theorem limWrite_st (o : Nat) (v : Word) (s : State) : (limWrite o v s).2.st = s.st := by
  unfold limWrite
  dsimp only
  (repeat' split) <;> first | rfl | (simp; done)

/-! ### SafetyFn -/

@[simp] theorem modK_st (k : Nat) (f : Contactor → Contactor) (s : State) : (modK k f s).st = s.st := by rfl
@[simp] theorem allK_st (f : Nat → Contactor → Contactor) (s : State) : (allK f s).st = s.st := by rfl
@[simp] theorem jobFail_st (detail : Nat) (s : State) : (jobFail detail s).st = s.st := by
  unfold jobFail
  (repeat' split) <;> rfl
@[simp] theorem noteOpens_st (before s : State) : (noteOpens before s).st = s.st := by
  unfold noteOpens
  repeat' split
  all_goals first
    | rfl
    | exact foldl_st _ (fun s _ => by (repeat' split) <;> first | rfl | simp) _ _
    | (refine (foldl_st _ (fun s _ => by (repeat' split) <;> first | rfl | simp) _ _).trans ?_; simp)
    | simp
@[simp] theorem jobWatch_st (before s : State) : (jobWatch before s).st = s.st := by
  unfold jobWatch
  split
  · split
    · exact jobFail_st 6 s
    · rfl
  · rfl
@[simp] theorem switching_st (f : State → State) (s : State) (hf : ∀ s, (f s).st = s.st) : (switching f s).st = s.st
    := by
  unfold switching
  simp [hf]
@[simp] theorem safStart_st (blk : SafetyBlock) (raw : List Byte) (s : State) : (safStart blk raw s).st = s.st := by rfl
@[simp] theorem inputOpens_st (i : Nat) (ch : Chan) (cancel : Bool) (s : State) : (inputOpens i ch cancel s).st = s.st
    := by simp [inputOpens]
@[simp] theorem discJudge_st (ch : Chan) (s : State) : (discJudge ch s).st = s.st := by
  unfold discJudge
  dsimp only
  refine (foldl_st _ (fun s _ => ?_) _ _).trans ?_
  · (repeat' split) <;> first | rfl | simp
  · (repeat' split) <;> first | rfl | simp
@[simp] theorem evalPos_st (b : SafetyBlock) (s : State) : (evalPos b s).1.st = s.st := by rfl
@[simp] theorem evalFe_st (b : SafetyBlock) (s : State) : (evalFe b s).1.st = s.st := by rfl
@[simp] theorem evalTemp_st (b : SafetyBlock) (s : State) : (evalTemp b s).1.st = s.st := by rfl
@[simp] theorem evalI2t_st (b : SafetyBlock) (s : State) : (evalI2t b s).1.st = s.st := by rfl
@[simp] theorem evalDir_st (b : SafetyBlock) (s : State) : (evalDir b s).1.st = s.st := by rfl
@[simp] theorem evalHs_st (ma : List Nat) (s : State) : (evalHs ma s).1.st = s.st := by rfl
@[simp] theorem evalOther_st (s : State) : (evalOther s).1.st = s.st := by rfl
@[simp] theorem jobTest_st (s : State) : (jobTest s).st = s.st := by
  unfold jobTest
  (repeat' split) <;> rfl
@[simp] theorem dropA_st (s : State) : (dropA s).st = s.st := switching_st _ _ (fun _ => rfl)
@[simp] theorem jobDone_st (s : State) : (jobDone s).st = s.st := by
  unfold jobDone
  (repeat' split) <;> rfl
@[simp] theorem jobStep_st (s : State) : (jobStep s).2.2.st = s.st := by
  unfold jobStep
  dsimp only
  (repeat' split) <;> first | rfl | (simp; done)
@[simp] theorem applyK_st (jc jo : Nat) (s : State) : (applyK jc jo s).st = s.st := by
  unfold applyK
  dsimp only
  (repeat' split) <;> first | rfl | (simp; done)
@[simp] theorem evalLs_st (ma : List Nat) (s : State) : (evalLs ma s).1.st = s.st := by rfl
@[simp] theorem switchLs_st (s : State) : (switchLs s).st = s.st := by
  unfold switchLs
  dsimp only
  (repeat' split) <;> first | rfl | (simp; done)
@[simp] theorem contactorStart_st (i : Fin 32) (j : Fin 8) (kind : Nat) (s : State) : (contactorStart i j kind s).st =
    s.st := by
  unfold contactorStart
  (repeat' split) <;> rfl
@[simp] theorem contactorAbort_st (s : State) : (contactorAbort s).st = s.st := by
  unfold contactorAbort
  (repeat' split) <;> rfl
@[simp] theorem kCmdWrite_st (v : Word) (s : State) : (kCmdWrite v s).st = s.st := by
  unfold kCmdWrite
  (repeat' split) <;> rfl
@[simp] theorem openAll_st (s : State) : (openAll s).st = s.st := by simp [openAll]
@[simp] theorem safWrite_st (o : Nat) (v : Word) (s : State) : (safWrite o v s).st = s.st := by
  unfold safWrite
  dsimp only
  (repeat' split) <;> first | rfl | (simp; done)

/-! ### Fabric -/

@[simp] theorem modFab_st (f : Fab → Fab) (s : State) : (modFab f s).st = s.st := by rfl
@[simp] theorem modPort_st (p : Fin 3) (f : PortSt → PortSt) (s : State) : (modPort p f s).st = s.st := by rfl
@[simp] theorem badFrame_st (p : Fin 3) (s : State) : (badFrame p s).st = s.st := by rfl
@[simp] theorem dupFrame_st (p : Fin 3) (s : State) : (dupFrame p s).st = s.st := by rfl
@[simp] theorem fabArrive_st (h : FabHdr) (s : State) : (fabArrive h s).2.st = s.st := by
  unfold fabArrive
  dsimp only
  (repeat' split) <;> first | rfl | (simp; done)
@[simp] theorem fabAccept_st (fits : Bool) (h : FabHdr) (s : State) : (fabAccept fits h s).2.st = s.st := by
  unfold fabAccept
  (repeat' split) <;> rfl
@[simp] theorem fabIn_st (fits : Bool) (h : FabHdr) (s : State) : (fabIn fits h s).2.st = s.st := by
  unfold fabIn
  split
  · rename_i heq
    have h2 := fabArrive_st h s
    rw [heq] at h2
    exact h2
  · rename_i heq
    have h2 := fabArrive_st h s
    rw [heq] at h2
    dsimp only
    (repeat' split) <;> simpa using h2
@[simp] theorem onFrame_st (kind len : Nat) (h : FabHdr) (f : State → State) (s : State) (hf : ∀ s, (f s).st = s.st) :
    (onFrame kind len h f s).st = s.st := by
  unfold onFrame; split
  · split
    · rename_i s' heq; have h2 := fabIn_st (h.len == len) h s; rw [heq] at h2; simpa [hf] using h2
    · rename_i s' heq; have h2 := fabIn_st (h.len == len) h s; rw [heq] at h2; simpa using h2
  · rfl
@[simp] theorem putPeer_st (p : Peer) (s : State) : (putPeer p s).st = s.st := by rfl
@[simp] theorem candidateMet_st (mac addr : Nat) (s : State) : (candidateMet mac addr s).st = s.st := by
  unfold candidateMet
  (repeat' split) <;> rfl
@[simp] theorem addressMet_st (mac addr : Nat) (s : State) : (addressMet mac addr s).st = s.st := by
  unfold addressMet
  (repeat' split) <;> rfl
@[simp] theorem takeDiscover_st (h : FabHdr) (b : DiscoverBody) (s : State) : (takeDiscover h b s).st = s.st := by
  unfold takeDiscover
  dsimp only
  (repeat' split) <;> first | rfl | (simp; done)
@[simp] theorem takeClaim_st (h : FabHdr) (addr : Nat) (s : State) : (takeClaim h addr s).st = s.st := by
  unfold takeClaim
  repeat' split
  all_goals first
    | rfl
    | exact foldl_st _ (fun s _ => by (repeat' split) <;> first | rfl | simp) _ _
    | (refine (foldl_st _ (fun s _ => by (repeat' split) <;> first | rfl | simp) _ _).trans ?_; simp)
    | simp
@[simp] theorem keepBank_st (f : BankFrame) (s : State) : (keepBank f s).st = s.st := by
  unfold keepBank
  dsimp only
  (repeat' split) <;> first | rfl | (simp; done)
@[simp] theorem takeBank_st (h : FabHdr) (tick : Nat) (b : BankBody) (s : State) : (takeBank h tick b s).st = s.st :=
    by
  unfold takeBank
  dsimp only
  (repeat' split) <;> first | rfl | (simp; done)
@[simp] theorem epochEval_st (got : Nat → Bool) (l : List Member) (s : State) : (epochEval got l s).2.st = s.st := by
    simp [epochEval]
@[simp] theorem bankCompute_st (s : State) : (bankCompute s).st = s.st := by
  unfold bankCompute
  dsimp only
  (repeat' split) <;> first | rfl | (simp; done)
@[simp] theorem fabricBeat_st (s : State) : (fabricBeat s).st = s.st := by rfl

/-! ### Pair -/

@[simp] theorem modPair_st (f : Pair → Pair) (s : State) : (modPair f s).st = s.st := by rfl
@[simp] theorem sendX_st (sub : Nat) (body : List Byte) (s : State) : (sendX sub body s).st = s.st := by simp [sendX]
@[simp] theorem onExchange_st (len : Nat) (h : FabHdr) (f : State → State) (s : State) (hf : ∀ s, (f s).st = s.st) :
    (onExchange len h f s).st = s.st := by
  unfold onExchange; apply onFrame_st; intro s; split
  · exact hf s
  · rfl
@[simp] theorem onPartner_st (len : Nat) (h : FabHdr) (f : State → State) (s : State) (hf : ∀ s, (f s).st = s.st) :
    (onPartner len h f s).st = s.st := by
  unfold onPartner; apply onExchange_st; intro s; split
  · exact hf s
  · rfl
@[simp] theorem takeStatus_st (h : FabHdr) (b : StatusBody) (s : State) : (takeStatus h b s).st = s.st := by
  unfold takeStatus
  extract_lets p
  split
  · rfl
  · split
    · rfl
    · beta_reduce
      split
      · exact (mapTemps_st _).trans rfl
      · rfl
@[simp] theorem takeFront_st (b : FrontBody) (s : State) : (takeFront b s).st = s.st := by rfl
@[simp] theorem takeStream_st (b : StreamBody) (s : State) : (takeStream b s).st = s.st := by rfl
@[simp] theorem takeStim_st (s : State) (c : Nat × Nat × Nat × List Nat) : (takeStim s c).st = s.st := by
  unfold takeStim
  dsimp only
  (repeat' split) <;> first | rfl | (simp; done)
@[simp] theorem pairCtrlWrite_st (v : Word) (s : State) : (pairCtrlWrite v s).2.st = s.st := by
  unfold pairCtrlWrite
  dsimp only
  (repeat' split) <;> first | rfl | (simp; done)
@[simp] theorem exchJudge_st (s : State) : (exchJudge s).st = s.st := by
  unfold exchJudge
  dsimp only
  (repeat' split) <;> first | rfl | (simp; done)
@[simp] theorem pairBeat_st (s : State) : (pairBeat s).st = s.st := by
  unfold pairBeat
  (repeat' split) <;> rfl

/-! ### Commit -/

@[simp] theorem chainCommit_st (s : State) : (chainCommit s).st = s.st := by simp [chainCommit]

/-! ### CanIo -/

@[simp] theorem modCan_st (c : Nat) (f : CanCh → CanCh) (s : State) : (modCan c f s).st = s.st := by simp [modCan]
@[simp] theorem canOffer_st (c : Nat) (s : State) : (canOffer c s).st = s.st := by
  unfold canOffer
  dsimp only
  (repeat' split) <;> first | rfl | (simp; done)
@[simp] theorem canRespond_st (c : Nat) (data : List Byte) (s : State) : (canRespond c data s).st = s.st := by simp
    [canRespond]
@[simp] theorem canBeat_st (s : State) : (canBeat s).st = s.st := by
  unfold canBeat
  repeat' split
  all_goals first
    | rfl
    | exact foldl_st _ (fun s _ => by (repeat' split) <;> first | rfl | simp) _ _
    | (refine (foldl_st _ (fun s _ => by (repeat' split) <;> first | rfl | simp) _ _).trans ?_; simp)
    | simp
@[simp] theorem canCommit_st (c : Nat) (lost : Bool) (s : State) : (canCommit c lost s).st = s.st := by simp [canCommit]
@[simp] theorem canStart_st (s : State) : (canStart s).st = s.st := by
  unfold canStart
  (repeat' split) <;> rfl
@[simp] theorem txbCmd_st (c b : Nat) (v : Word) (s : State) : (txbCmd c b v s).2.st = s.st := by
  unfold txbCmd
  dsimp only
  (repeat' split) <;> first | rfl | (simp; done)
@[simp] theorem txbWrite_st (c b w : Nat) (v : Word) (s : State) : (txbWrite c b w v s).2.st = s.st := by
  unfold txbWrite
  dsimp only
  (repeat' split) <;> first | rfl | (simp; done)
@[simp] theorem loopWrite_st (c : Nat) (v : Word) (s : State) : (loopWrite c v s).2.st = s.st := by
  unfold loopWrite
  dsimp only
  (repeat' split) <;> first | rfl | (simp; done)
@[simp] theorem filtWrite_st (c k : Nat) (mask : Bool) (v : Word) (s : State) : (filtWrite c k mask v s).st = s.st :=
    by simp [filtWrite]
@[simp] theorem canWrite_st (c o : Nat) (v : Word) (s : State) : (canWrite c o v s).2.st = s.st := by
  unfold canWrite
  dsimp only
  (repeat' split) <;> first | rfl | (simp; done)

/-! ### FieldIo -/

@[simp] theorem modIo_st (k : Nat) (f : IoCh → IoCh) (s : State) : (modIo k f s).st = s.st := by rfl
@[simp] theorem setFault_st (k : Nat) (f : IoCh → IoCh) (s : State) : (setFault k f s).st = s.st := by rfl
@[simp] theorem cntClear_st (v : Word) (s : State) : (cntClear v s).st = s.st := by rfl
@[simp] theorem drivePhase_st (vals : Nat → Bool) (s : State) : (drivePhase vals s).st = s.st := by
  unfold drivePhase
  (repeat' split) <;> rfl
@[simp] theorem fioStart_st (s : State) : (fioStart s).st = s.st := by rfl
@[simp] theorem fioOff_st (s : State) : (fioOff s).st = s.st := by rfl
@[simp] theorem fioBeat_st (s : State) : (fioBeat s).st = s.st := by
  unfold fioBeat
  (repeat' split) <;> rfl
@[simp] theorem thStart_st (s : State) : (thStart s).st = s.st := by rfl
@[simp] theorem fioWrite_st (o : Nat) (v : Word) (s : State) : (fioWrite o v s).st = s.st := by
  unfold fioWrite
  (repeat' split) <;> rfl

/-! ### Logic -/

@[simp] theorem modLg_st (f : Logic → Logic) (s : State) : (modLg f s).st = s.st := by rfl
@[simp] theorem modTask_st (t : Nat) (f : TaskSt → TaskSt) (s : State) : (modTask t f s).st = s.st := by rfl
@[simp] theorem batchDone_st (b : Batch) (s : State) : (batchDone b s).st = s.st := by rfl
@[simp] theorem applyConsts_st (t : Nat) (s : State) : (applyConsts t s).st = s.st := by
  unfold applyConsts
  dsimp only
  (repeat' split) <;> first | rfl | (simp; done)
@[simp] theorem constsPending_st (b : Batch) (s : State) : (constsPending b s).st = s.st := by
  unfold constsPending
  dsimp only
  (repeat' split) <;> first | rfl | (simp; done)
@[simp] theorem taskOver_st (t : Nat) (c : TaskCfg) (cycles : Nat) (s : State) : (taskOver t c cycles s).st = s.st :=
    by
  unfold taskOver
  extract_lets s1 s2 s3
  have h3 : s3.st = s.st := by
    unfold s3; split <;> simp [s2, s1]
  split <;> simp [h3]
@[simp] theorem taskCommit_st (t : Nat) (c : TaskCfg) (p : LogicCfg) (cycles : Nat) (s : State) : (taskCommit t c p
    cycles s).st = s.st := by rfl
@[simp] theorem taskStopped_st (t : Nat) (s : State) : (taskStopped t s).st = s.st := by
  unfold taskStopped
  repeat' split
  all_goals first
    | rfl
    | exact foldl_st _ (fun s _ => by (repeat' split) <;> first | rfl | simp) _ _
    | (refine (foldl_st _ (fun s _ => by (repeat' split) <;> first | rfl | simp) _ _).trans ?_; simp)
    | simp
@[simp] theorem stopTasks_st (s : State) : (stopTasks s).st = s.st := by
  unfold stopTasks
  dsimp only
  (repeat' split) <;> first
    | rfl
    | (simp; done)
    | (refine (foldl_st _ (fun s _ => by simp) _ _).trans ?_; simp)
@[simp] theorem stopWork_st (k cycles : Nat) (s : State) : (stopWork k cycles s).st = s.st := by
  unfold stopWork
  dsimp only
  (repeat' split) <;> first | rfl | (simp; done)
@[simp] theorem lateTasks_st (s : State) : (lateTasks s).st = s.st := by
  unfold lateTasks
  repeat' split
  all_goals first
    | rfl
    | exact foldl_st _ (fun s _ => by (repeat' split) <;> first | rfl | simp) _ _
    | (refine (foldl_st _ (fun s _ => by (repeat' split) <;> first | rfl | simp) _ _).trans ?_; simp)
    | simp
@[simp] theorem modStn_st (i : Nat) (f : StationSt → StationSt) (s : State) : (modStn i f s).st = s.st := by rfl
@[simp] theorem stnJudge_st (s : State) : (stnJudge s).st = s.st := by rfl
@[simp] theorem stnAdmit_st (s : State) : (stnAdmit s).st = s.st := by rfl
@[simp] theorem stnClaim_st (h : FabHdr) (s : State) : (stnClaim h s).2.st = s.st := by
  unfold stnClaim
  dsimp only
  (repeat' split) <;> first | rfl | (simp; done)
@[simp] theorem stnFrame_st (i : Nat) (q : Nat) (words : List Word) (s : State) : (stnFrame i q words s).st = s.st :=
    by rfl
@[simp] theorem stnTake_st (h : FabHdr) (dir n : Nat) (words : List Word) (s : State) : (stnTake h dir n words s).st =
    s.st := by
  unfold stnTake
  split
  · split
    · rfl
    · simp
  · split
    · simp
    · split
      · rename_i heq
        have h2 := stnClaim_st h s
        rw [heq] at h2
        exact h2
      · rename_i heq
        have h2 := stnClaim_st h s
        rw [heq] at h2
        split
        · rw [stnFrame_st]
          exact h2
        · exact h2
@[simp] theorem putForce_st (i : Fin 32) (f : Nat) (x : Force) (s : State) : (putForce i f x s).st = s.st := by
  unfold putForce
  (repeat' split) <;> rfl
@[simp] theorem forceSelWrite_st (i : Fin 32) (f : Nat) (v : Word) (s : State) : (forceSelWrite i f v s).2.st = s.st
    := by
    unfold forceSelWrite; dsimp only; (repeat' split) <;> first | rfl | (simp; done)
@[simp] theorem forceValWrite_st (i : Fin 32) (f : Nat) (v : Word) (s : State) : (forceValWrite i f v s).2.st = s.st
    := by
    unfold forceValWrite; dsimp only; (repeat' split) <;> first | rfl | (simp; done)
@[simp] theorem stnSend_st (img : List (Nat × Word)) (i : Nat) (s : State) : (stnSend img i s).st = s.st := by
  unfold stnSend
  dsimp only
  (repeat' split) <;> first | rfl | (simp; done)
@[simp] theorem lgStart_st (s : State) : (lgStart s).st = s.st := by rfl
@[simp] theorem lgRun_st (s : State) : (lgRun s).st = s.st := by rfl
@[simp] theorem lgBeat_st (s : State) : (lgBeat s).st = s.st := by rfl
@[simp] theorem lgReplace_st (s : State) : (lgReplace s).st = s.st := by
  unfold lgReplace
  dsimp only
  (repeat' split) <;> first | rfl | (simp; done)
@[simp] theorem varWrite_st (i : Fin 32) (v : Word) (s : State) : (varWrite i v s).2.st = s.st := by
  unfold varWrite
  dsimp only
  (repeat' split) <;> first | rfl | (simp; done)
@[simp] theorem lgClear_st (s : State) : (lgClear s).st = s.st := by rfl
@[simp] theorem lgCtrlWrite_st (v : Word) (s : State) : (lgCtrlWrite v s).st = s.st := by
  unfold lgCtrlWrite
  (repeat' split) <;> rfl
@[simp] theorem lgWrite_st (i : Fin 32) (o : Nat) (v : Word) (s : State) : (lgWrite i o v s).2.st = s.st := by
  unfold lgWrite
  split
  · rfl
  · exact lgCtrlWrite_st ..
  · rfl
  · exact varWrite_st ..
  · split
    · split
      · exact forceSelWrite_st ..
      · exact forceValWrite_st ..
    · rfl

/-! ### States -/

@[simp] theorem respond_st (r : Rsp) (s : State) : (respond r s).st = s.st := by
  unfold respond
  dsimp only
  (repeat' split) <;> first | rfl | (simp; done)
@[simp] theorem answer_st (i : Fin 32) (r : Rsp) (s : State) : (answer i r s).st = s.st := by
  unfold answer
  rw [respond_st]
  split <;> rfl
@[simp] theorem abortJob_st (j : Nat) (s : State) : (abortJob j s).st = s.st := by
  unfold abortJob
  dsimp only
  (repeat' split) <;> first | rfl | (simp; done)
@[simp] theorem replaceEnd_st (f : Fail) (s : State) : (replaceEnd f s).st = s.st := by rfl
@[simp] theorem replaceStop_st (s : State) : (replaceStop s).st = s.st := by
  unfold replaceStop
  (repeat' split) <;> rfl
@[simp] theorem wipeRecords_st (s : State) : (wipeRecords s).st = s.st := by rfl
@[simp] theorem fallBack_st (reason : Nat) (s : State) : (fallBack reason s).st = s.st := by rfl
@[simp] theorem trialStart_st (s : State) : (trialStart s).st = s.st := by
  unfold trialStart
  (repeat' split) <;> rfl
@[simp] theorem allOutputsOff_st (s : State) : (allOutputsOff s).st = s.st := by simp [allOutputsOff]
@[simp] theorem watchBatch_st (s : State) : (watchBatch s).st = s.st := by
  unfold watchBatch
  (repeat' split) <;> rfl
@[simp] theorem armEnum_st (s : State) : (armEnum s).st = s.st := by
  unfold armEnum
  (repeat' split) <;> rfl
@[simp] theorem armStart_st (s : State) : (armStart s).st = s.st := by simp [armStart]

/-! ### Update -/

@[simp] theorem modUpd_st (f : Upd → Upd) (s : State) : (modUpd f s).st = s.st := by rfl
@[simp] theorem modUpSess_st (i : Fin 32) (f : UpSess → UpSess) (s : State) : (modUpSess i f s).st = s.st := by rfl
@[simp] theorem upResult_st (i : Fin 32) (code : Nat) (s : State) : (upResult i code s).st = s.st := by rfl
@[simp] theorem manifestWrite_st (i : Fin 32) (k : Nat) (s : State) : (manifestWrite i k s).st = s.st := by
  unfold manifestWrite
  dsimp only
  (repeat' split) <;> first | rfl | (simp; done)
@[simp] theorem imageWrite_st (i : Fin 32) (k : Nat) (s : State) : (imageWrite i k s).st = s.st := by
  unfold imageWrite
  (repeat' split) <;> rfl
@[simp] theorem judgePiece_st (i : Fin 32) (k : Nat) (s : State) : (judgePiece i k s).st = s.st := by
  unfold judgePiece
  dsimp only
  (repeat' split) <;> first | rfl | (simp; done)
@[simp] theorem confirm_st (i : Fin 32) (s : State) : (confirm i s).st = s.st := by rfl
@[simp] theorem upCmdWrite_st (i : Fin 32) (v : Word) (s : State) : (upCmdWrite i v s).2.st = s.st := by
  unfold upCmdWrite
  split
  · rfl
  · split
    · split
      · rfl
      · exact manifestWrite_st ..
    · split
      · rfl
      · exact imageWrite_st ..
    · split
      · exact confirm_st ..
      · rfl
    · rfl
@[simp] theorem discardStart_st (i : Fin 32) (j : Nat) (s : State) : (discardStart i j s).st = s.st := by
  unfold discardStart
  (repeat' split) <;> rfl
@[simp] theorem discardDone_st (s : State) : (discardDone s).st = s.st := by
  unfold discardDone
  (repeat' split) <;> rfl
@[simp] theorem activateStart_st (i : Fin 32) (j : Nat) (s : State) : (activateStart i j s).st = s.st := by
  unfold activateStart
  (repeat' split) <;> rfl
@[simp] theorem updateWrite_st (i : Fin 32) (o : Nat) (v : Word) (s : State) : (updateWrite i o v s).2.st = s.st := by
  unfold updateWrite
  split
  · exact modUpd_st ..
  · exact upCmdWrite_st ..
  · split
    · exact modUpd_st ..
    · rfl
  · split
    · exact modUpd_st ..
    · rfl
  · split
    · split
      · rfl
      · exact modUpSess_st ..
    · rfl

/-! ### Watch -/

@[simp] theorem watchFrame_st (claim l : Nat) (d : End) (c : Nat) (s : State) : (watchFrame claim l d c s).st = s.st
    := by rfl
@[simp] theorem watchFrames_st (r : WatchRun) (c : Nat) (s : State) : (watchFrames r c s).st = s.st := by
  unfold watchFrames
  split
  · refine foldl_st _ (fun s l => ?_) _ _
    split
    · exact watchFrame_st ..
    · rfl
  · rfl
@[simp] theorem setWatch_st (r : WatchRun) (s : State) : (setWatch r s).st = s.st := by rfl
@[simp] theorem watchEnd_st (r : WatchRun) (sec : Nat) (s : State) : (watchEnd r sec s).st = s.st := by rfl

/-! ### Power -/

@[simp] theorem modPw_st (f : Pw → Pw) (s : State) : (modPw f s).st = s.st := by rfl
@[simp] theorem setVsup_st (mv : Nat) (s : State) : (setVsup mv s).st = s.st := by simp [setVsup]
@[simp] theorem powerFailRecords_st (mv : Nat) (s : State) : (powerFailRecords mv s).st = s.st := by simp
    [powerFailRecords]

/-! ### Loader -/

@[simp] theorem modLdr_st (f : Ldr → Ldr) (s : State) : (modLdr f s).st = s.st := by rfl
@[simp] theorem replaceWord_st (v : Word) (w : List Word) (s : State) : (replaceWord v w s).st = s.st := by
  unfold replaceWord
  dsimp only
  (repeat' split) <;> first | rfl | (simp; done)
@[simp] theorem replaceStart_st (i : Fin 32) (s : State) : (replaceStart i s).2.st = s.st := by
  unfold replaceStart
  (repeat' split) <;> rfl
@[simp] theorem loadedStart_st (c : Calibre) (s : State) : (loadedStart c s).st = s.st := by rfl
@[simp] theorem replaceTake_st (p : List Byte) (s : State) : (replaceTake p s).st = s.st := by simp [replaceTake]
@[simp] theorem goWrite_st (i : Fin 32) (n : Nat) (s : State) : (goWrite i n s).st = s.st := by rfl
@[simp] theorem cancelBatch_st (s : State) : (cancelBatch s).st = s.st := by
  unfold cancelBatch
  (repeat' split) <;> rfl
@[simp] theorem onCtrlWrite_st (i : Fin 32) (v : Word) (s : State) : (onCtrlWrite i v s).st = s.st := by
  unfold onCtrlWrite
  dsimp only
  (repeat' split) <;> first | rfl | (simp; done)
@[simp] theorem batchSide_st (old : State) (s : State) : (batchSide old s).st = s.st := by
  unfold batchSide
  (repeat' split) <;> rfl

/-! ### Judge -/

@[simp] theorem idleBeat_st (s : State) : (idleBeat s).st = s.st := by rfl
@[simp] theorem streamBeat_st (s : State) : (streamBeat s).st = s.st := by rfl
@[simp] theorem setCmdStatus_st (i : Fin 32) (code : Nat) (r : RspCode) (s : State) : (setCmdStatus i code r s).st =
    s.st := by
  unfold setCmdStatus
  (repeat' split) <;> rfl
@[simp] theorem passSingles_st (s : State) : (passSingles s).st = s.st := by
  unfold passSingles
  refine foldl_st _ (fun s l => ?_) _ _
  split
  · exact linePass_st ..
  · rfl
@[simp] theorem armFail_st (n : Nat) (s : State) : (armFail n s).st = s.st := by rfl

/-! ### Regs -/

@[simp] theorem modSub_st (j : Nat) (f : Sub → Sub) (s : State) : (modSub j f s).st = s.st := by rfl
@[simp] theorem sessionsWrite_st (o : Nat) (v : Word) (s : State) : (sessionsWrite o v s).2.st = s.st := by
  unfold sessionsWrite
  (repeat' split) <;> rfl
@[simp] theorem jobStartKind_st (i : Fin 32) (j : Fin 8) (kind : Nat) (s : State) : (jobStartKind i j kind s).2.st =
    s.st := by
  unfold jobStartKind
  split
  · exact contactorStart_st ..
  · exact contactorStart_st ..
  · exact clearStart_st ..
  · split
    · exact discardStart_st ..
    · rfl
  · split
    · exact activateStart_st ..
    · rfl
  · exact jobRefuse_st ..
@[simp] theorem jobStartWrite_st (i : Fin 32) (j : Fin 8) (kind : Nat) (s : State) : (jobStartWrite i j kind s).2.st =
    s.st := by
  unfold jobStartWrite
  split
  · exact jobStartKind_st ..
  · rfl
@[simp] theorem jobCtrlWrite_st (i : Fin 32) (j : Fin 8) (v : Word) (s : State) : (jobCtrlWrite i j v s).2.st = s.st
    := by
    unfold jobCtrlWrite; dsimp only; (repeat' split) <;> first | rfl | (simp; done)
@[simp] theorem jobsWrite_st (i : Fin 32) (o : Nat) (v : Word) (s : State) : (jobsWrite i o v s).2.st = s.st := by
  unfold jobsWrite
  split
  · dsimp only
    split
    · exact jobCtrlWrite_st ..
    · exact jobArgWrite_st ..
    · rfl
  · rfl
@[simp] theorem fabricWrite_st (o : Nat) (v : Word) (s : State) : (fabricWrite o v s).2.st = s.st := by
  unfold fabricWrite
  split
  · rfl
  · exact pairCtrlWrite_st ..
  · rfl
  · rfl
@[simp] theorem setQueue_st (q : QueueId) (x : Queue) (s : State) : (setQueue q x s).st = s.st := by
  unfold setQueue
  repeat' split
  all_goals first
    | rfl
    | exact foldl_st _ (fun s _ => by (repeat' split) <;> first | rfl | simp) _ _
    | (refine (foldl_st _ (fun s _ => by (repeat' split) <;> first | rfl | simp) _ _).trans ?_; simp)
    | simp
@[simp] theorem headRead_st (i : Fin 32) (q : QueueId) (s : State) : (headRead i q s).2.2.st = s.st := by
  unfold headRead
  dsimp only
  (repeat' split) <;> first | rfl | (simp; done)
@[simp] theorem takeLatch_st (i : Fin 32) (a : Nat) (s : State) : (takeLatch i a s).st = s.st := by
  unfold takeLatch
  dsimp only
  (repeat' split) <;> first | rfl | (simp; done)
@[simp] theorem readWord_st (i : Fin 32) (a : Nat) (s : State) : (readWord i a s).2.2.st = s.st := by
  unfold readWord
  split
  · rfl
  · split
    · rfl
    · split
      · exact headRead_st ..
      · exact takeLatch_st ..
@[simp] theorem stateCmdWrite_st (i : Fin 32) (req : Option (Req × Nat × Nat)) (v : Word) (s : State) : (stateCmdWrite
    i req v s).2.st = s.st := by
  unfold stateCmdWrite
  dsimp only
  (repeat' split) <;> first | rfl | (simp; done)

/-! ### Publish -/

@[simp] theorem publishOne_st (b : Sub) (s : State) : (publishOne b s).st = s.st := by simp [publishOne]

/-! ### Host -/

@[simp] theorem access_st (i : Fin 32) (op a : Nat) (f : State → State) (s : State) (hf : ∀ s, (f s).st = s.st) :
    (access i op a f s).st = s.st := by
  unfold access; (repeat' split) <;> simp [hf]
@[simp] theorem hostRead_st (i : Fin 32) (a : Nat) (s : State) : (hostRead i a s).st = s.st := by
  unfold hostRead
  refine access_st _ _ _ _ _ (fun s => ?_)
  have h := readWord_st i a s
  dsimp only
  rw [respond_st]
  exact h
@[simp] theorem heard_st (r : Req) (s : State) : (heard r s).2.st = s.st := by
  unfold heard
  repeat' split
  all_goals first
    | rfl
    | exact foldl_st _ (fun s _ => by (repeat' split) <;> first | rfl | simp) _ _
    | (refine (foldl_st _ (fun s _ => by (repeat' split) <;> first | rfl | simp) _ _).trans ?_; simp)
    | simp
@[simp] theorem serve_st (r : Req) (op addr : Nat) (f : Fin 32 → State → State) (s : State) (hf : ∀ i s, (f i s).st =
    s.st) : (serve r op addr f s).st = s.st := by
  unfold serve
  (repeat' split) <;> first | rfl | (simp [hf]; done) | (dsimp only; (repeat' split) <;> simp [hf])
@[simp] theorem request_st (r : Req) (op addr : Nat) (f : Fin 32 → State → State) (s : State) (hf : ∀ i s, (f i s).st
    = s.st) : (request r op addr f s).st = s.st := by
  unfold request; split
  · split
    · rename_i s' heq; have h2 := heard_st r s; rw [heq] at h2; simpa [hf] using h2
    · rename_i s' heq; have h2 := heard_st r s; rw [heq] at h2; simpa using h2
  · rfl
@[simp] theorem readAll_st (i : Fin 32) (step : Nat) (a0 : Nat) (a1 : Nat) (w2 : State) : (readAll i step a0 a1
    w2).2.2.2.st = w2.st := by
  induction a0 generalizing a1 w2 with
  | zero => rfl
  | succ n ih =>
    have h := readWord_st i a1 w2
    unfold readAll
    dsimp only
    split
    · exact (ih ..).trans h
    · exact h
@[simp] theorem readReq_st (r : Req) (op count step addr : Nat) (i : Fin 32) (s : State) :
    (readReq r op count step addr i s).st =
    s.st := by
  unfold readReq
  split
  · dsimp only
    rw [answer_st]
    exact readAll_st ..
  · exact answer_st ..
@[simp] theorem dropReq_st (i : Fin 32) (s : State) : (dropReq i s).st = s.st := by rfl
@[simp] theorem openReq_st (r : Req) (word : Word) (s : State) : (openReq r word s).st = s.st := by
  unfold openReq
  dsimp only
  (repeat' split) <;> first | rfl | (simp; done)

end Sys2Proof.Machine
end

