-- ==== Sys2Proof/Laws/State.lean ====
section
/-! SUPPORT. What each plain update of the state leaves alone, and what it changes, field by field. The fields st, saf and
pending have their lemmas in FrameState, FrameSafety and FramePending. -/

namespace Sys2Proof.Machine

@[simp] theorem fresh_time (s : State) : (fresh s).time = s.time := rfl
@[simp] theorem fresh_ldr (s : State) : (fresh s).ldr = s.ldr := rfl
@[simp] theorem fresh_cal (s : State) : (fresh s).cal = s.cal := rfl
@[simp] theorem fresh_chain (s : State) : (fresh s).chain = s.chain := rfl
@[simp] theorem fresh_nodes (s : State) : (fresh s).nodes = s.nodes := rfl
@[simp] theorem fresh_meas (s : State) : (fresh s).meas = s.meas := rfl
@[simp] theorem fresh_spec (s : State) : (fresh s).spec = s.spec := rfl
@[simp] theorem fresh_est (s : State) : (fresh s).est = s.est := rfl
@[simp] theorem fresh_cells (s : State) : (fresh s).cells = s.cells := rfl
@[simp] theorem fresh_lim (s : State) : (fresh s).lim = s.lim := rfl
@[simp] theorem fresh_lg (s : State) : (fresh s).lg = s.lg := rfl
@[simp] theorem fresh_fab (s : State) : (fresh s).fab = s.fab := rfl
@[simp] theorem fresh_host (s : State) : (fresh s).host = s.host := rfl
@[simp] theorem fresh_can (s : State) : (fresh s).can = s.can := rfl
@[simp] theorem fresh_fio (s : State) : (fresh s).fio = s.fio := rfl
@[simp] theorem fresh_pw (s : State) : (fresh s).pw = s.pw := rfl
@[simp] theorem fresh_rcd (s : State) : (fresh s).rcd = s.rcd := rfl
@[simp] theorem fresh_upd (s : State) : (fresh s).upd = s.upd := rfl
@[simp] theorem fresh_freeCtr (s : State) : (fresh s).freeCtr = s.freeCtr := rfl
@[simp] theorem put_time (e : Emit) (s : State) : (put e s).time = s.time := rfl
@[simp] theorem put_ldr (e : Emit) (s : State) : (put e s).ldr = s.ldr := rfl
@[simp] theorem put_cal (e : Emit) (s : State) : (put e s).cal = s.cal := rfl
@[simp] theorem put_chain (e : Emit) (s : State) : (put e s).chain = s.chain := rfl
@[simp] theorem put_nodes (e : Emit) (s : State) : (put e s).nodes = s.nodes := rfl
@[simp] theorem put_meas (e : Emit) (s : State) : (put e s).meas = s.meas := rfl
@[simp] theorem put_spec (e : Emit) (s : State) : (put e s).spec = s.spec := rfl
@[simp] theorem put_est (e : Emit) (s : State) : (put e s).est = s.est := rfl
@[simp] theorem put_cells (e : Emit) (s : State) : (put e s).cells = s.cells := rfl
@[simp] theorem put_lim (e : Emit) (s : State) : (put e s).lim = s.lim := rfl
@[simp] theorem put_lg (e : Emit) (s : State) : (put e s).lg = s.lg := rfl
@[simp] theorem put_fab (e : Emit) (s : State) : (put e s).fab = s.fab := rfl
@[simp] theorem put_host (e : Emit) (s : State) : (put e s).host = s.host := rfl
@[simp] theorem put_can (e : Emit) (s : State) : (put e s).can = s.can := rfl
@[simp] theorem put_fio (e : Emit) (s : State) : (put e s).fio = s.fio := rfl
@[simp] theorem put_pw (e : Emit) (s : State) : (put e s).pw = s.pw := rfl
@[simp] theorem put_rcd (e : Emit) (s : State) : (put e s).rcd = s.rcd := rfl
@[simp] theorem put_upd (e : Emit) (s : State) : (put e s).upd = s.upd := rfl
@[simp] theorem put_mark (e : Emit) (s : State) : (put e s).mark = s.mark := rfl
@[simp] theorem put_freeCtr (e : Emit) (s : State) : (put e s).freeCtr = s.freeCtr := rfl
@[simp] theorem setAgain_time (a bits : Nat) (s : State) : (setAgain a bits s).time = s.time := rfl
@[simp] theorem setAgain_ldr (a bits : Nat) (s : State) : (setAgain a bits s).ldr = s.ldr := rfl
@[simp] theorem setAgain_cal (a bits : Nat) (s : State) : (setAgain a bits s).cal = s.cal := rfl
@[simp] theorem setAgain_chain (a bits : Nat) (s : State) : (setAgain a bits s).chain = s.chain := rfl
@[simp] theorem setAgain_nodes (a bits : Nat) (s : State) : (setAgain a bits s).nodes = s.nodes := rfl
@[simp] theorem setAgain_meas (a bits : Nat) (s : State) : (setAgain a bits s).meas = s.meas := rfl
@[simp] theorem setAgain_spec (a bits : Nat) (s : State) : (setAgain a bits s).spec = s.spec := rfl
@[simp] theorem setAgain_est (a bits : Nat) (s : State) : (setAgain a bits s).est = s.est := rfl
@[simp] theorem setAgain_cells (a bits : Nat) (s : State) : (setAgain a bits s).cells = s.cells := rfl
@[simp] theorem setAgain_lim (a bits : Nat) (s : State) : (setAgain a bits s).lim = s.lim := rfl
@[simp] theorem setAgain_lg (a bits : Nat) (s : State) : (setAgain a bits s).lg = s.lg := rfl
@[simp] theorem setAgain_fab (a bits : Nat) (s : State) : (setAgain a bits s).fab = s.fab := rfl
@[simp] theorem setAgain_host (a bits : Nat) (s : State) : (setAgain a bits s).host = s.host := rfl
@[simp] theorem setAgain_can (a bits : Nat) (s : State) : (setAgain a bits s).can = s.can := rfl
@[simp] theorem setAgain_fio (a bits : Nat) (s : State) : (setAgain a bits s).fio = s.fio := rfl
@[simp] theorem setAgain_pw (a bits : Nat) (s : State) : (setAgain a bits s).pw = s.pw := rfl
@[simp] theorem setAgain_rcd (a bits : Nat) (s : State) : (setAgain a bits s).rcd = s.rcd := rfl
@[simp] theorem setAgain_upd (a bits : Nat) (s : State) : (setAgain a bits s).upd = s.upd := rfl
@[simp] theorem setAgain_freeCtr (a bits : Nat) (s : State) : (setAgain a bits s).freeCtr = s.freeCtr := rfl
@[simp] theorem setAgain_sent (a bits : Nat) (s : State) : (setAgain a bits s).sent = s.sent := rfl
@[simp] theorem setAgainIf_time (c : Bool) (a bits : Nat) (s : State) : (setAgainIf c a bits s).time = s.time := by
  unfold setAgainIf; split <;> rfl
@[simp] theorem setAgainIf_ldr (c : Bool) (a bits : Nat) (s : State) : (setAgainIf c a bits s).ldr = s.ldr := by
  unfold setAgainIf; split <;> rfl
@[simp] theorem setAgainIf_cal (c : Bool) (a bits : Nat) (s : State) : (setAgainIf c a bits s).cal = s.cal := by
  unfold setAgainIf; split <;> rfl
@[simp] theorem setAgainIf_chain (c : Bool) (a bits : Nat) (s : State) : (setAgainIf c a bits s).chain = s.chain := by
  unfold setAgainIf; split <;> rfl
@[simp] theorem setAgainIf_nodes (c : Bool) (a bits : Nat) (s : State) : (setAgainIf c a bits s).nodes = s.nodes := by
  unfold setAgainIf; split <;> rfl
@[simp] theorem setAgainIf_meas (c : Bool) (a bits : Nat) (s : State) : (setAgainIf c a bits s).meas = s.meas := by
  unfold setAgainIf; split <;> rfl
@[simp] theorem setAgainIf_spec (c : Bool) (a bits : Nat) (s : State) : (setAgainIf c a bits s).spec = s.spec := by
  unfold setAgainIf; split <;> rfl
@[simp] theorem setAgainIf_est (c : Bool) (a bits : Nat) (s : State) : (setAgainIf c a bits s).est = s.est := by
  unfold setAgainIf; split <;> rfl
@[simp] theorem setAgainIf_cells (c : Bool) (a bits : Nat) (s : State) : (setAgainIf c a bits s).cells = s.cells := by
  unfold setAgainIf; split <;> rfl
@[simp] theorem setAgainIf_lim (c : Bool) (a bits : Nat) (s : State) : (setAgainIf c a bits s).lim = s.lim := by
  unfold setAgainIf; split <;> rfl
@[simp] theorem setAgainIf_lg (c : Bool) (a bits : Nat) (s : State) : (setAgainIf c a bits s).lg = s.lg := by
  unfold setAgainIf; split <;> rfl
@[simp] theorem setAgainIf_fab (c : Bool) (a bits : Nat) (s : State) : (setAgainIf c a bits s).fab = s.fab := by
  unfold setAgainIf; split <;> rfl
@[simp] theorem setAgainIf_host (c : Bool) (a bits : Nat) (s : State) : (setAgainIf c a bits s).host = s.host := by
  unfold setAgainIf; split <;> rfl
@[simp] theorem setAgainIf_can (c : Bool) (a bits : Nat) (s : State) : (setAgainIf c a bits s).can = s.can := by
  unfold setAgainIf; split <;> rfl
@[simp] theorem setAgainIf_fio (c : Bool) (a bits : Nat) (s : State) : (setAgainIf c a bits s).fio = s.fio := by
  unfold setAgainIf; split <;> rfl
@[simp] theorem setAgainIf_pw (c : Bool) (a bits : Nat) (s : State) : (setAgainIf c a bits s).pw = s.pw := by
  unfold setAgainIf; split <;> rfl
@[simp] theorem setAgainIf_rcd (c : Bool) (a bits : Nat) (s : State) : (setAgainIf c a bits s).rcd = s.rcd := by
  unfold setAgainIf; split <;> rfl
@[simp] theorem setAgainIf_upd (c : Bool) (a bits : Nat) (s : State) : (setAgainIf c a bits s).upd = s.upd := by
  unfold setAgainIf; split <;> rfl
@[simp] theorem setAgainIf_freeCtr (c : Bool) (a bits : Nat) (s : State) : (setAgainIf c a bits s).freeCtr = s.freeCtr := by
  unfold setAgainIf; split <;> rfl
@[simp] theorem setAgainIf_sent (c : Bool) (a bits : Nat) (s : State) : (setAgainIf c a bits s).sent = s.sent := by
  unfold setAgainIf; split <;> rfl
@[simp] theorem takeTurn_ldr (x : Turn) (s : State) : (takeTurn x s).ldr = s.ldr := rfl
@[simp] theorem takeTurn_cal (x : Turn) (s : State) : (takeTurn x s).cal = s.cal := rfl
@[simp] theorem takeTurn_chain (x : Turn) (s : State) : (takeTurn x s).chain = s.chain := rfl
@[simp] theorem takeTurn_nodes (x : Turn) (s : State) : (takeTurn x s).nodes = s.nodes := rfl
@[simp] theorem takeTurn_meas (x : Turn) (s : State) : (takeTurn x s).meas = s.meas := rfl
@[simp] theorem takeTurn_spec (x : Turn) (s : State) : (takeTurn x s).spec = s.spec := rfl
@[simp] theorem takeTurn_est (x : Turn) (s : State) : (takeTurn x s).est = s.est := rfl
@[simp] theorem takeTurn_cells (x : Turn) (s : State) : (takeTurn x s).cells = s.cells := rfl
@[simp] theorem takeTurn_lim (x : Turn) (s : State) : (takeTurn x s).lim = s.lim := rfl
@[simp] theorem takeTurn_lg (x : Turn) (s : State) : (takeTurn x s).lg = s.lg := rfl
@[simp] theorem takeTurn_fab (x : Turn) (s : State) : (takeTurn x s).fab = s.fab := rfl
@[simp] theorem takeTurn_host (x : Turn) (s : State) : (takeTurn x s).host = s.host := rfl
@[simp] theorem takeTurn_can (x : Turn) (s : State) : (takeTurn x s).can = s.can := rfl
@[simp] theorem takeTurn_fio (x : Turn) (s : State) : (takeTurn x s).fio = s.fio := rfl
@[simp] theorem takeTurn_pw (x : Turn) (s : State) : (takeTurn x s).pw = s.pw := rfl
@[simp] theorem takeTurn_rcd (x : Turn) (s : State) : (takeTurn x s).rcd = s.rcd := rfl
@[simp] theorem takeTurn_upd (x : Turn) (s : State) : (takeTurn x s).upd = s.upd := rfl
@[simp] theorem takeTurn_freeCtr (x : Turn) (s : State) : (takeTurn x s).freeCtr = s.freeCtr := rfl
@[simp] theorem takeTurn_sent (x : Turn) (s : State) : (takeTurn x s).sent = s.sent := rfl
@[simp] theorem takeTurn_mark (x : Turn) (s : State) : (takeTurn x s).mark = s.mark := rfl
@[simp] theorem actAt_ldr (x : Turn) (t : Nat) (s : State) : (actAt x t s).ldr = s.ldr := rfl
@[simp] theorem actAt_cal (x : Turn) (t : Nat) (s : State) : (actAt x t s).cal = s.cal := rfl
@[simp] theorem actAt_chain (x : Turn) (t : Nat) (s : State) : (actAt x t s).chain = s.chain := rfl
@[simp] theorem actAt_nodes (x : Turn) (t : Nat) (s : State) : (actAt x t s).nodes = s.nodes := rfl
@[simp] theorem actAt_meas (x : Turn) (t : Nat) (s : State) : (actAt x t s).meas = s.meas := rfl
@[simp] theorem actAt_spec (x : Turn) (t : Nat) (s : State) : (actAt x t s).spec = s.spec := rfl
@[simp] theorem actAt_est (x : Turn) (t : Nat) (s : State) : (actAt x t s).est = s.est := rfl
@[simp] theorem actAt_cells (x : Turn) (t : Nat) (s : State) : (actAt x t s).cells = s.cells := rfl
@[simp] theorem actAt_lim (x : Turn) (t : Nat) (s : State) : (actAt x t s).lim = s.lim := rfl
@[simp] theorem actAt_lg (x : Turn) (t : Nat) (s : State) : (actAt x t s).lg = s.lg := rfl
@[simp] theorem actAt_fab (x : Turn) (t : Nat) (s : State) : (actAt x t s).fab = s.fab := rfl
@[simp] theorem actAt_host (x : Turn) (t : Nat) (s : State) : (actAt x t s).host = s.host := rfl
@[simp] theorem actAt_can (x : Turn) (t : Nat) (s : State) : (actAt x t s).can = s.can := rfl
@[simp] theorem actAt_fio (x : Turn) (t : Nat) (s : State) : (actAt x t s).fio = s.fio := rfl
@[simp] theorem actAt_pw (x : Turn) (t : Nat) (s : State) : (actAt x t s).pw = s.pw := rfl
@[simp] theorem actAt_rcd (x : Turn) (t : Nat) (s : State) : (actAt x t s).rcd = s.rcd := rfl
@[simp] theorem actAt_upd (x : Turn) (t : Nat) (s : State) : (actAt x t s).upd = s.upd := rfl
@[simp] theorem actAt_freeCtr (x : Turn) (t : Nat) (s : State) : (actAt x t s).freeCtr = s.freeCtr := rfl
@[simp] theorem actAt_sent (x : Turn) (t : Nat) (s : State) : (actAt x t s).sent = s.sent := rfl
@[simp] theorem actAt_mark (x : Turn) (t : Nat) (s : State) : (actAt x t s).mark = s.mark := rfl
@[simp] theorem setAgain_again (a bits : Nat) (s : State) :
    (setAgain a bits s).mark.again = (absTick s, a, bits) :: s.mark.again := rfl
@[simp] theorem takeTurn_beat (x : Turn) (s : State) : (takeTurn x s).time.beat = s.time.beat := rfl
@[simp] theorem takeTurn_ns (x : Turn) (s : State) : (takeTurn x s).time.ns = s.time.ns := rfl
@[simp] theorem takeTurn_turns (x : Turn) (s : State) : (takeTurn x s).time.turns = x :: s.time.turns := rfl
@[simp] theorem actAt_beat (x : Turn) (t : Nat) (s : State) : (actAt x t s).time.beat = s.time.beat := rfl
@[simp] theorem tickOf_actAt (x : Turn) (t : Nat) (s : State) : tickOf (actAt x t s) = t := by
  simp [tickOf, actAt, atTick]
@[simp] theorem hadTurn_actAt (x y : Turn) (t : Nat) (s : State) : hadTurn y (actAt x t s) = (y == x || hadTurn y s) := by
  rfl
@[simp] theorem hadTurn_fresh (x : Turn) (s : State) : hadTurn x (fresh s) = hadTurn x s := rfl
@[simp] theorem mayAct_fresh (x : Turn) (t : Nat) (s : State) : mayAct x t (fresh s) = mayAct x t s := rfl

/-- A turn is there to be taken before its tick, once in a beat. -/
theorem mayAct_iff (x : Turn) (t : Nat) (s : State) : mayAct x t s = true ↔ tickOf s ≤ t ∧ hadTurn x s = false := by
  simp [mayAct]

@[simp] theorem tookFree_time (k : Nat) (s : State) : (tookFree k s).time = s.time := rfl
@[simp] theorem tookFree_ldr (k : Nat) (s : State) : (tookFree k s).ldr = s.ldr := rfl
@[simp] theorem tookFree_cal (k : Nat) (s : State) : (tookFree k s).cal = s.cal := rfl
@[simp] theorem tookFree_chain (k : Nat) (s : State) : (tookFree k s).chain = s.chain := rfl
@[simp] theorem tookFree_nodes (k : Nat) (s : State) : (tookFree k s).nodes = s.nodes := rfl
@[simp] theorem tookFree_meas (k : Nat) (s : State) : (tookFree k s).meas = s.meas := rfl
@[simp] theorem tookFree_spec (k : Nat) (s : State) : (tookFree k s).spec = s.spec := rfl
@[simp] theorem tookFree_est (k : Nat) (s : State) : (tookFree k s).est = s.est := rfl
@[simp] theorem tookFree_cells (k : Nat) (s : State) : (tookFree k s).cells = s.cells := rfl
@[simp] theorem tookFree_lim (k : Nat) (s : State) : (tookFree k s).lim = s.lim := rfl
@[simp] theorem tookFree_lg (k : Nat) (s : State) : (tookFree k s).lg = s.lg := rfl
@[simp] theorem tookFree_fab (k : Nat) (s : State) : (tookFree k s).fab = s.fab := rfl
@[simp] theorem tookFree_host (k : Nat) (s : State) : (tookFree k s).host = s.host := rfl
@[simp] theorem tookFree_can (k : Nat) (s : State) : (tookFree k s).can = s.can := rfl
@[simp] theorem tookFree_fio (k : Nat) (s : State) : (tookFree k s).fio = s.fio := rfl
@[simp] theorem tookFree_pw (k : Nat) (s : State) : (tookFree k s).pw = s.pw := rfl
@[simp] theorem tookFree_rcd (k : Nat) (s : State) : (tookFree k s).rcd = s.rcd := rfl
@[simp] theorem tookFree_upd (k : Nat) (s : State) : (tookFree k s).upd = s.upd := rfl
@[simp] theorem tookFree_mark (k : Nat) (s : State) : (tookFree k s).mark = s.mark := rfl
@[simp] theorem tookFree_sent (k : Nat) (s : State) : (tookFree k s).sent = s.sent := rfl
@[simp] theorem atTick_ldr (t : Nat) (s : State) : (atTick t s).ldr = s.ldr := rfl
@[simp] theorem atTick_cal (t : Nat) (s : State) : (atTick t s).cal = s.cal := rfl
@[simp] theorem atTick_chain (t : Nat) (s : State) : (atTick t s).chain = s.chain := rfl
@[simp] theorem atTick_nodes (t : Nat) (s : State) : (atTick t s).nodes = s.nodes := rfl
@[simp] theorem atTick_meas (t : Nat) (s : State) : (atTick t s).meas = s.meas := rfl
@[simp] theorem atTick_spec (t : Nat) (s : State) : (atTick t s).spec = s.spec := rfl
@[simp] theorem atTick_est (t : Nat) (s : State) : (atTick t s).est = s.est := rfl
@[simp] theorem atTick_cells (t : Nat) (s : State) : (atTick t s).cells = s.cells := rfl
@[simp] theorem atTick_lim (t : Nat) (s : State) : (atTick t s).lim = s.lim := rfl
@[simp] theorem atTick_lg (t : Nat) (s : State) : (atTick t s).lg = s.lg := rfl
@[simp] theorem atTick_fab (t : Nat) (s : State) : (atTick t s).fab = s.fab := rfl
@[simp] theorem atTick_host (t : Nat) (s : State) : (atTick t s).host = s.host := rfl
@[simp] theorem atTick_can (t : Nat) (s : State) : (atTick t s).can = s.can := rfl
@[simp] theorem atTick_fio (t : Nat) (s : State) : (atTick t s).fio = s.fio := rfl
@[simp] theorem atTick_pw (t : Nat) (s : State) : (atTick t s).pw = s.pw := rfl
@[simp] theorem atTick_rcd (t : Nat) (s : State) : (atTick t s).rcd = s.rcd := rfl
@[simp] theorem atTick_upd (t : Nat) (s : State) : (atTick t s).upd = s.upd := rfl
@[simp] theorem atTick_mark (t : Nat) (s : State) : (atTick t s).mark = s.mark := rfl
@[simp] theorem atTick_sent (t : Nat) (s : State) : (atTick t s).sent = s.sent := rfl
@[simp] theorem atTick_freeCtr (t : Nat) (s : State) : (atTick t s).freeCtr = s.freeCtr := rfl
@[simp] theorem atNs_ldr (ns : Nat) (s : State) : (atNs ns s).ldr = s.ldr := rfl
@[simp] theorem atNs_cal (ns : Nat) (s : State) : (atNs ns s).cal = s.cal := rfl
@[simp] theorem atNs_chain (ns : Nat) (s : State) : (atNs ns s).chain = s.chain := rfl
@[simp] theorem atNs_nodes (ns : Nat) (s : State) : (atNs ns s).nodes = s.nodes := rfl
@[simp] theorem atNs_meas (ns : Nat) (s : State) : (atNs ns s).meas = s.meas := rfl
@[simp] theorem atNs_spec (ns : Nat) (s : State) : (atNs ns s).spec = s.spec := rfl
@[simp] theorem atNs_est (ns : Nat) (s : State) : (atNs ns s).est = s.est := rfl
@[simp] theorem atNs_cells (ns : Nat) (s : State) : (atNs ns s).cells = s.cells := rfl
@[simp] theorem atNs_lim (ns : Nat) (s : State) : (atNs ns s).lim = s.lim := rfl
@[simp] theorem atNs_lg (ns : Nat) (s : State) : (atNs ns s).lg = s.lg := rfl
@[simp] theorem atNs_fab (ns : Nat) (s : State) : (atNs ns s).fab = s.fab := rfl
@[simp] theorem atNs_host (ns : Nat) (s : State) : (atNs ns s).host = s.host := rfl
@[simp] theorem atNs_can (ns : Nat) (s : State) : (atNs ns s).can = s.can := rfl
@[simp] theorem atNs_fio (ns : Nat) (s : State) : (atNs ns s).fio = s.fio := rfl
@[simp] theorem atNs_pw (ns : Nat) (s : State) : (atNs ns s).pw = s.pw := rfl
@[simp] theorem atNs_rcd (ns : Nat) (s : State) : (atNs ns s).rcd = s.rcd := rfl
@[simp] theorem atNs_upd (ns : Nat) (s : State) : (atNs ns s).upd = s.upd := rfl
@[simp] theorem atNs_mark (ns : Nat) (s : State) : (atNs ns s).mark = s.mark := rfl
@[simp] theorem atNs_sent (ns : Nat) (s : State) : (atNs ns s).sent = s.sent := rfl
@[simp] theorem atNs_freeCtr (ns : Nat) (s : State) : (atNs ns s).freeCtr = s.freeCtr := rfl
@[simp] theorem recEvent_time (code chan : Nat) (p : List Word) (s : State) : (recEvent code chan p s).time = s.time := rfl
@[simp] theorem recEvent_ldr (code chan : Nat) (p : List Word) (s : State) : (recEvent code chan p s).ldr = s.ldr := rfl
@[simp] theorem recEvent_cal (code chan : Nat) (p : List Word) (s : State) : (recEvent code chan p s).cal = s.cal := rfl
@[simp] theorem recEvent_chain (code chan : Nat) (p : List Word) (s : State) : (recEvent code chan p s).chain = s.chain
    := rfl
@[simp] theorem recEvent_nodes (code chan : Nat) (p : List Word) (s : State) : (recEvent code chan p s).nodes = s.nodes
    := rfl
@[simp] theorem recEvent_meas (code chan : Nat) (p : List Word) (s : State) : (recEvent code chan p s).meas = s.meas := rfl
@[simp] theorem recEvent_spec (code chan : Nat) (p : List Word) (s : State) : (recEvent code chan p s).spec = s.spec := rfl
@[simp] theorem recEvent_est (code chan : Nat) (p : List Word) (s : State) : (recEvent code chan p s).est = s.est := rfl
@[simp] theorem recEvent_cells (code chan : Nat) (p : List Word) (s : State) : (recEvent code chan p s).cells = s.cells
    := rfl
@[simp] theorem recEvent_lim (code chan : Nat) (p : List Word) (s : State) : (recEvent code chan p s).lim = s.lim := rfl
@[simp] theorem recEvent_lg (code chan : Nat) (p : List Word) (s : State) : (recEvent code chan p s).lg = s.lg := rfl
@[simp] theorem recEvent_fab (code chan : Nat) (p : List Word) (s : State) : (recEvent code chan p s).fab = s.fab := rfl
@[simp] theorem recEvent_host (code chan : Nat) (p : List Word) (s : State) : (recEvent code chan p s).host = s.host := rfl
@[simp] theorem recEvent_can (code chan : Nat) (p : List Word) (s : State) : (recEvent code chan p s).can = s.can := rfl
@[simp] theorem recEvent_fio (code chan : Nat) (p : List Word) (s : State) : (recEvent code chan p s).fio = s.fio := rfl
@[simp] theorem recEvent_pw (code chan : Nat) (p : List Word) (s : State) : (recEvent code chan p s).pw = s.pw := rfl
@[simp] theorem recEvent_upd (code chan : Nat) (p : List Word) (s : State) : (recEvent code chan p s).upd = s.upd := rfl
@[simp] theorem recEvent_mark (code chan : Nat) (p : List Word) (s : State) : (recEvent code chan p s).mark = s.mark := rfl
@[simp] theorem recEvent_sent (code chan : Nat) (p : List Word) (s : State) : (recEvent code chan p s).sent = s.sent := rfl
@[simp] theorem recEvent_freeCtr (code chan : Nat) (p : List Word) (s : State) : (recEvent code chan p s).freeCtr =
    s.freeCtr := rfl
@[simp] theorem jnl_time (code session : Nat) (payload : List Word) (s : State) : (jnl code session payload s).time =
    s.time := rfl
@[simp] theorem jnl_ldr (code session : Nat) (payload : List Word) (s : State) : (jnl code session payload s).ldr = s.ldr
    := rfl
@[simp] theorem jnl_cal (code session : Nat) (payload : List Word) (s : State) : (jnl code session payload s).cal = s.cal
    := rfl
@[simp] theorem jnl_chain (code session : Nat) (payload : List Word) (s : State) : (jnl code session payload s).chain =
    s.chain := rfl
@[simp] theorem jnl_nodes (code session : Nat) (payload : List Word) (s : State) : (jnl code session payload s).nodes =
    s.nodes := rfl
@[simp] theorem jnl_meas (code session : Nat) (payload : List Word) (s : State) : (jnl code session payload s).meas =
    s.meas := rfl
@[simp] theorem jnl_spec (code session : Nat) (payload : List Word) (s : State) : (jnl code session payload s).spec =
    s.spec := rfl
@[simp] theorem jnl_est (code session : Nat) (payload : List Word) (s : State) : (jnl code session payload s).est = s.est
    := rfl
@[simp] theorem jnl_cells (code session : Nat) (payload : List Word) (s : State) : (jnl code session payload s).cells =
    s.cells := rfl
@[simp] theorem jnl_lim (code session : Nat) (payload : List Word) (s : State) : (jnl code session payload s).lim = s.lim
    := rfl
@[simp] theorem jnl_lg (code session : Nat) (payload : List Word) (s : State) : (jnl code session payload s).lg = s.lg := rfl
@[simp] theorem jnl_fab (code session : Nat) (payload : List Word) (s : State) : (jnl code session payload s).fab = s.fab
    := rfl
@[simp] theorem jnl_host (code session : Nat) (payload : List Word) (s : State) : (jnl code session payload s).host =
    s.host := rfl
@[simp] theorem jnl_can (code session : Nat) (payload : List Word) (s : State) : (jnl code session payload s).can = s.can
    := rfl
@[simp] theorem jnl_fio (code session : Nat) (payload : List Word) (s : State) : (jnl code session payload s).fio = s.fio
    := rfl
@[simp] theorem jnl_pw (code session : Nat) (payload : List Word) (s : State) : (jnl code session payload s).pw = s.pw := rfl
@[simp] theorem jnl_upd (code session : Nat) (payload : List Word) (s : State) : (jnl code session payload s).upd = s.upd
    := rfl
@[simp] theorem jnl_mark (code session : Nat) (payload : List Word) (s : State) : (jnl code session payload s).mark =
    s.mark := rfl
@[simp] theorem jnl_sent (code session : Nat) (payload : List Word) (s : State) : (jnl code session payload s).sent =
    s.sent := rfl
@[simp] theorem jnl_freeCtr (code session : Nat) (payload : List Word) (s : State) : (jnl code session payload s).freeCtr
    = s.freeCtr := rfl
@[simp] theorem toMode_time (m : Mode) (tno : Nat) (s : State) : (toMode m tno s).time = s.time := rfl
@[simp] theorem toMode_ldr (m : Mode) (tno : Nat) (s : State) : (toMode m tno s).ldr = s.ldr := rfl
@[simp] theorem toMode_cal (m : Mode) (tno : Nat) (s : State) : (toMode m tno s).cal = s.cal := rfl
@[simp] theorem toMode_chain (m : Mode) (tno : Nat) (s : State) : (toMode m tno s).chain = s.chain := rfl
@[simp] theorem toMode_nodes (m : Mode) (tno : Nat) (s : State) : (toMode m tno s).nodes = s.nodes := rfl
@[simp] theorem toMode_meas (m : Mode) (tno : Nat) (s : State) : (toMode m tno s).meas = s.meas := rfl
@[simp] theorem toMode_spec (m : Mode) (tno : Nat) (s : State) : (toMode m tno s).spec = s.spec := rfl
@[simp] theorem toMode_est (m : Mode) (tno : Nat) (s : State) : (toMode m tno s).est = s.est := rfl
@[simp] theorem toMode_cells (m : Mode) (tno : Nat) (s : State) : (toMode m tno s).cells = s.cells := rfl
@[simp] theorem toMode_lim (m : Mode) (tno : Nat) (s : State) : (toMode m tno s).lim = s.lim := rfl
@[simp] theorem toMode_lg (m : Mode) (tno : Nat) (s : State) : (toMode m tno s).lg = s.lg := rfl
@[simp] theorem toMode_fab (m : Mode) (tno : Nat) (s : State) : (toMode m tno s).fab = s.fab := rfl
@[simp] theorem toMode_host (m : Mode) (tno : Nat) (s : State) : (toMode m tno s).host = s.host := rfl
@[simp] theorem toMode_can (m : Mode) (tno : Nat) (s : State) : (toMode m tno s).can = s.can := rfl
@[simp] theorem toMode_fio (m : Mode) (tno : Nat) (s : State) : (toMode m tno s).fio = s.fio := rfl
@[simp] theorem toMode_pw (m : Mode) (tno : Nat) (s : State) : (toMode m tno s).pw = s.pw := rfl
@[simp] theorem toMode_upd (m : Mode) (tno : Nat) (s : State) : (toMode m tno s).upd = s.upd := rfl
@[simp] theorem toMode_mark (m : Mode) (tno : Nat) (s : State) : (toMode m tno s).mark = s.mark := rfl
@[simp] theorem toMode_sent (m : Mode) (tno : Nat) (s : State) : (toMode m tno s).sent = s.sent := rfl
@[simp] theorem toMode_freeCtr (m : Mode) (tno : Nat) (s : State) : (toMode m tno s).freeCtr = s.freeCtr := rfl
@[simp] theorem modSess_time (i : Fin 32) (f : Session → Session) (s : State) : (modSess i f s).time = s.time := rfl
@[simp] theorem modSess_ldr (i : Fin 32) (f : Session → Session) (s : State) : (modSess i f s).ldr = s.ldr := rfl
@[simp] theorem modSess_cal (i : Fin 32) (f : Session → Session) (s : State) : (modSess i f s).cal = s.cal := rfl
@[simp] theorem modSess_chain (i : Fin 32) (f : Session → Session) (s : State) : (modSess i f s).chain = s.chain := rfl
@[simp] theorem modSess_nodes (i : Fin 32) (f : Session → Session) (s : State) : (modSess i f s).nodes = s.nodes := rfl
@[simp] theorem modSess_meas (i : Fin 32) (f : Session → Session) (s : State) : (modSess i f s).meas = s.meas := rfl
@[simp] theorem modSess_spec (i : Fin 32) (f : Session → Session) (s : State) : (modSess i f s).spec = s.spec := rfl
@[simp] theorem modSess_est (i : Fin 32) (f : Session → Session) (s : State) : (modSess i f s).est = s.est := rfl
@[simp] theorem modSess_cells (i : Fin 32) (f : Session → Session) (s : State) : (modSess i f s).cells = s.cells := rfl
@[simp] theorem modSess_lim (i : Fin 32) (f : Session → Session) (s : State) : (modSess i f s).lim = s.lim := rfl
@[simp] theorem modSess_lg (i : Fin 32) (f : Session → Session) (s : State) : (modSess i f s).lg = s.lg := rfl
@[simp] theorem modSess_fab (i : Fin 32) (f : Session → Session) (s : State) : (modSess i f s).fab = s.fab := rfl
@[simp] theorem modSess_can (i : Fin 32) (f : Session → Session) (s : State) : (modSess i f s).can = s.can := rfl
@[simp] theorem modSess_fio (i : Fin 32) (f : Session → Session) (s : State) : (modSess i f s).fio = s.fio := rfl
@[simp] theorem modSess_pw (i : Fin 32) (f : Session → Session) (s : State) : (modSess i f s).pw = s.pw := rfl
@[simp] theorem modSess_rcd (i : Fin 32) (f : Session → Session) (s : State) : (modSess i f s).rcd = s.rcd := rfl
@[simp] theorem modSess_upd (i : Fin 32) (f : Session → Session) (s : State) : (modSess i f s).upd = s.upd := rfl
@[simp] theorem modSess_mark (i : Fin 32) (f : Session → Session) (s : State) : (modSess i f s).mark = s.mark := rfl
@[simp] theorem modSess_sent (i : Fin 32) (f : Session → Session) (s : State) : (modSess i f s).sent = s.sent := rfl
@[simp] theorem modSess_freeCtr (i : Fin 32) (f : Session → Session) (s : State) : (modSess i f s).freeCtr = s.freeCtr := rfl
@[simp] theorem modJob_time (j : Nat) (f : Job → Job) (s : State) : (modJob j f s).time = s.time := rfl
@[simp] theorem modJob_ldr (j : Nat) (f : Job → Job) (s : State) : (modJob j f s).ldr = s.ldr := rfl
@[simp] theorem modJob_cal (j : Nat) (f : Job → Job) (s : State) : (modJob j f s).cal = s.cal := rfl
@[simp] theorem modJob_chain (j : Nat) (f : Job → Job) (s : State) : (modJob j f s).chain = s.chain := rfl
@[simp] theorem modJob_nodes (j : Nat) (f : Job → Job) (s : State) : (modJob j f s).nodes = s.nodes := rfl
@[simp] theorem modJob_meas (j : Nat) (f : Job → Job) (s : State) : (modJob j f s).meas = s.meas := rfl
@[simp] theorem modJob_spec (j : Nat) (f : Job → Job) (s : State) : (modJob j f s).spec = s.spec := rfl
@[simp] theorem modJob_est (j : Nat) (f : Job → Job) (s : State) : (modJob j f s).est = s.est := rfl
@[simp] theorem modJob_cells (j : Nat) (f : Job → Job) (s : State) : (modJob j f s).cells = s.cells := rfl
@[simp] theorem modJob_lim (j : Nat) (f : Job → Job) (s : State) : (modJob j f s).lim = s.lim := rfl
@[simp] theorem modJob_lg (j : Nat) (f : Job → Job) (s : State) : (modJob j f s).lg = s.lg := rfl
@[simp] theorem modJob_fab (j : Nat) (f : Job → Job) (s : State) : (modJob j f s).fab = s.fab := rfl
@[simp] theorem modJob_can (j : Nat) (f : Job → Job) (s : State) : (modJob j f s).can = s.can := rfl
@[simp] theorem modJob_fio (j : Nat) (f : Job → Job) (s : State) : (modJob j f s).fio = s.fio := rfl
@[simp] theorem modJob_pw (j : Nat) (f : Job → Job) (s : State) : (modJob j f s).pw = s.pw := rfl
@[simp] theorem modJob_rcd (j : Nat) (f : Job → Job) (s : State) : (modJob j f s).rcd = s.rcd := rfl
@[simp] theorem modJob_upd (j : Nat) (f : Job → Job) (s : State) : (modJob j f s).upd = s.upd := rfl
@[simp] theorem modJob_mark (j : Nat) (f : Job → Job) (s : State) : (modJob j f s).mark = s.mark := rfl
@[simp] theorem modJob_sent (j : Nat) (f : Job → Job) (s : State) : (modJob j f s).sent = s.sent := rfl
@[simp] theorem modJob_freeCtr (j : Nat) (f : Job → Job) (s : State) : (modJob j f s).freeCtr = s.freeCtr := rfl
@[simp] theorem jobStart_time (i : Fin 32) (j kind : Nat) (s : State) : (jobStart i j kind s).time = s.time := rfl
@[simp] theorem jobStart_ldr (i : Fin 32) (j kind : Nat) (s : State) : (jobStart i j kind s).ldr = s.ldr := rfl
@[simp] theorem jobStart_cal (i : Fin 32) (j kind : Nat) (s : State) : (jobStart i j kind s).cal = s.cal := rfl
@[simp] theorem jobStart_chain (i : Fin 32) (j kind : Nat) (s : State) : (jobStart i j kind s).chain = s.chain := rfl
@[simp] theorem jobStart_nodes (i : Fin 32) (j kind : Nat) (s : State) : (jobStart i j kind s).nodes = s.nodes := rfl
@[simp] theorem jobStart_meas (i : Fin 32) (j kind : Nat) (s : State) : (jobStart i j kind s).meas = s.meas := rfl
@[simp] theorem jobStart_spec (i : Fin 32) (j kind : Nat) (s : State) : (jobStart i j kind s).spec = s.spec := rfl
@[simp] theorem jobStart_est (i : Fin 32) (j kind : Nat) (s : State) : (jobStart i j kind s).est = s.est := rfl
@[simp] theorem jobStart_cells (i : Fin 32) (j kind : Nat) (s : State) : (jobStart i j kind s).cells = s.cells := rfl
@[simp] theorem jobStart_lim (i : Fin 32) (j kind : Nat) (s : State) : (jobStart i j kind s).lim = s.lim := rfl
@[simp] theorem jobStart_lg (i : Fin 32) (j kind : Nat) (s : State) : (jobStart i j kind s).lg = s.lg := rfl
@[simp] theorem jobStart_fab (i : Fin 32) (j kind : Nat) (s : State) : (jobStart i j kind s).fab = s.fab := rfl
@[simp] theorem jobStart_can (i : Fin 32) (j kind : Nat) (s : State) : (jobStart i j kind s).can = s.can := rfl
@[simp] theorem jobStart_fio (i : Fin 32) (j kind : Nat) (s : State) : (jobStart i j kind s).fio = s.fio := rfl
@[simp] theorem jobStart_pw (i : Fin 32) (j kind : Nat) (s : State) : (jobStart i j kind s).pw = s.pw := rfl
@[simp] theorem jobStart_rcd (i : Fin 32) (j kind : Nat) (s : State) : (jobStart i j kind s).rcd = s.rcd := rfl
@[simp] theorem jobStart_upd (i : Fin 32) (j kind : Nat) (s : State) : (jobStart i j kind s).upd = s.upd := rfl
@[simp] theorem jobStart_mark (i : Fin 32) (j kind : Nat) (s : State) : (jobStart i j kind s).mark = s.mark := rfl
@[simp] theorem jobStart_sent (i : Fin 32) (j kind : Nat) (s : State) : (jobStart i j kind s).sent = s.sent := rfl
@[simp] theorem jobStart_freeCtr (i : Fin 32) (j kind : Nat) (s : State) : (jobStart i j kind s).freeCtr = s.freeCtr := rfl
@[simp] theorem jobEnd_time (j : Nat) (st : JobSt) (detail : Nat) (s : State) : (jobEnd j st detail s).time = s.time := rfl
@[simp] theorem jobEnd_ldr (j : Nat) (st : JobSt) (detail : Nat) (s : State) : (jobEnd j st detail s).ldr = s.ldr := rfl
@[simp] theorem jobEnd_cal (j : Nat) (st : JobSt) (detail : Nat) (s : State) : (jobEnd j st detail s).cal = s.cal := rfl
@[simp] theorem jobEnd_chain (j : Nat) (st : JobSt) (detail : Nat) (s : State) : (jobEnd j st detail s).chain = s.chain
    := rfl
@[simp] theorem jobEnd_nodes (j : Nat) (st : JobSt) (detail : Nat) (s : State) : (jobEnd j st detail s).nodes = s.nodes
    := rfl
@[simp] theorem jobEnd_meas (j : Nat) (st : JobSt) (detail : Nat) (s : State) : (jobEnd j st detail s).meas = s.meas := rfl
@[simp] theorem jobEnd_spec (j : Nat) (st : JobSt) (detail : Nat) (s : State) : (jobEnd j st detail s).spec = s.spec := rfl
@[simp] theorem jobEnd_est (j : Nat) (st : JobSt) (detail : Nat) (s : State) : (jobEnd j st detail s).est = s.est := rfl
@[simp] theorem jobEnd_cells (j : Nat) (st : JobSt) (detail : Nat) (s : State) : (jobEnd j st detail s).cells = s.cells
    := rfl
@[simp] theorem jobEnd_lim (j : Nat) (st : JobSt) (detail : Nat) (s : State) : (jobEnd j st detail s).lim = s.lim := rfl
@[simp] theorem jobEnd_lg (j : Nat) (st : JobSt) (detail : Nat) (s : State) : (jobEnd j st detail s).lg = s.lg := rfl
@[simp] theorem jobEnd_fab (j : Nat) (st : JobSt) (detail : Nat) (s : State) : (jobEnd j st detail s).fab = s.fab := rfl
@[simp] theorem jobEnd_can (j : Nat) (st : JobSt) (detail : Nat) (s : State) : (jobEnd j st detail s).can = s.can := rfl
@[simp] theorem jobEnd_fio (j : Nat) (st : JobSt) (detail : Nat) (s : State) : (jobEnd j st detail s).fio = s.fio := rfl
@[simp] theorem jobEnd_pw (j : Nat) (st : JobSt) (detail : Nat) (s : State) : (jobEnd j st detail s).pw = s.pw := rfl
@[simp] theorem jobEnd_rcd (j : Nat) (st : JobSt) (detail : Nat) (s : State) : (jobEnd j st detail s).rcd = s.rcd := rfl
@[simp] theorem jobEnd_upd (j : Nat) (st : JobSt) (detail : Nat) (s : State) : (jobEnd j st detail s).upd = s.upd := rfl
@[simp] theorem jobEnd_mark (j : Nat) (st : JobSt) (detail : Nat) (s : State) : (jobEnd j st detail s).mark = s.mark := rfl
@[simp] theorem jobEnd_sent (j : Nat) (st : JobSt) (detail : Nat) (s : State) : (jobEnd j st detail s).sent = s.sent := rfl
@[simp] theorem jobEnd_freeCtr (j : Nat) (st : JobSt) (detail : Nat) (s : State) : (jobEnd j st detail s).freeCtr =
    s.freeCtr := rfl
@[simp] theorem jobRefuse_time (i : Fin 32) (j kind detail : Nat) (s : State) : (jobRefuse i j kind detail s).time =
    s.time := rfl
@[simp] theorem jobRefuse_ldr (i : Fin 32) (j kind detail : Nat) (s : State) : (jobRefuse i j kind detail s).ldr = s.ldr
    := rfl
@[simp] theorem jobRefuse_cal (i : Fin 32) (j kind detail : Nat) (s : State) : (jobRefuse i j kind detail s).cal = s.cal
    := rfl
@[simp] theorem jobRefuse_chain (i : Fin 32) (j kind detail : Nat) (s : State) : (jobRefuse i j kind detail s).chain =
    s.chain := rfl
@[simp] theorem jobRefuse_nodes (i : Fin 32) (j kind detail : Nat) (s : State) : (jobRefuse i j kind detail s).nodes =
    s.nodes := rfl
@[simp] theorem jobRefuse_meas (i : Fin 32) (j kind detail : Nat) (s : State) : (jobRefuse i j kind detail s).meas =
    s.meas := rfl
@[simp] theorem jobRefuse_spec (i : Fin 32) (j kind detail : Nat) (s : State) : (jobRefuse i j kind detail s).spec =
    s.spec := rfl
@[simp] theorem jobRefuse_est (i : Fin 32) (j kind detail : Nat) (s : State) : (jobRefuse i j kind detail s).est = s.est
    := rfl
@[simp] theorem jobRefuse_cells (i : Fin 32) (j kind detail : Nat) (s : State) : (jobRefuse i j kind detail s).cells =
    s.cells := rfl
@[simp] theorem jobRefuse_lim (i : Fin 32) (j kind detail : Nat) (s : State) : (jobRefuse i j kind detail s).lim = s.lim
    := rfl
@[simp] theorem jobRefuse_lg (i : Fin 32) (j kind detail : Nat) (s : State) : (jobRefuse i j kind detail s).lg = s.lg := rfl
@[simp] theorem jobRefuse_fab (i : Fin 32) (j kind detail : Nat) (s : State) : (jobRefuse i j kind detail s).fab = s.fab
    := rfl
@[simp] theorem jobRefuse_can (i : Fin 32) (j kind detail : Nat) (s : State) : (jobRefuse i j kind detail s).can = s.can
    := rfl
@[simp] theorem jobRefuse_fio (i : Fin 32) (j kind detail : Nat) (s : State) : (jobRefuse i j kind detail s).fio = s.fio
    := rfl
@[simp] theorem jobRefuse_pw (i : Fin 32) (j kind detail : Nat) (s : State) : (jobRefuse i j kind detail s).pw = s.pw := rfl
@[simp] theorem jobRefuse_rcd (i : Fin 32) (j kind detail : Nat) (s : State) : (jobRefuse i j kind detail s).rcd = s.rcd
    := rfl
@[simp] theorem jobRefuse_upd (i : Fin 32) (j kind detail : Nat) (s : State) : (jobRefuse i j kind detail s).upd = s.upd
    := rfl
@[simp] theorem jobRefuse_mark (i : Fin 32) (j kind detail : Nat) (s : State) : (jobRefuse i j kind detail s).mark =
    s.mark := rfl
@[simp] theorem jobRefuse_sent (i : Fin 32) (j kind detail : Nat) (s : State) : (jobRefuse i j kind detail s).sent =
    s.sent := rfl
@[simp] theorem jobRefuse_freeCtr (i : Fin 32) (j kind detail : Nat) (s : State) : (jobRefuse i j kind detail s).freeCtr
    = s.freeCtr := rfl
@[simp] theorem jobCommitted_time (j : Nat) (s : State) : (jobCommitted j s).time = s.time := rfl
@[simp] theorem jobCommitted_ldr (j : Nat) (s : State) : (jobCommitted j s).ldr = s.ldr := rfl
@[simp] theorem jobCommitted_cal (j : Nat) (s : State) : (jobCommitted j s).cal = s.cal := rfl
@[simp] theorem jobCommitted_chain (j : Nat) (s : State) : (jobCommitted j s).chain = s.chain := rfl
@[simp] theorem jobCommitted_nodes (j : Nat) (s : State) : (jobCommitted j s).nodes = s.nodes := rfl
@[simp] theorem jobCommitted_meas (j : Nat) (s : State) : (jobCommitted j s).meas = s.meas := rfl
@[simp] theorem jobCommitted_spec (j : Nat) (s : State) : (jobCommitted j s).spec = s.spec := rfl
@[simp] theorem jobCommitted_est (j : Nat) (s : State) : (jobCommitted j s).est = s.est := rfl
@[simp] theorem jobCommitted_cells (j : Nat) (s : State) : (jobCommitted j s).cells = s.cells := rfl
@[simp] theorem jobCommitted_lim (j : Nat) (s : State) : (jobCommitted j s).lim = s.lim := rfl
@[simp] theorem jobCommitted_lg (j : Nat) (s : State) : (jobCommitted j s).lg = s.lg := rfl
@[simp] theorem jobCommitted_fab (j : Nat) (s : State) : (jobCommitted j s).fab = s.fab := rfl
@[simp] theorem jobCommitted_can (j : Nat) (s : State) : (jobCommitted j s).can = s.can := rfl
@[simp] theorem jobCommitted_fio (j : Nat) (s : State) : (jobCommitted j s).fio = s.fio := rfl
@[simp] theorem jobCommitted_pw (j : Nat) (s : State) : (jobCommitted j s).pw = s.pw := rfl
@[simp] theorem jobCommitted_rcd (j : Nat) (s : State) : (jobCommitted j s).rcd = s.rcd := rfl
@[simp] theorem jobCommitted_upd (j : Nat) (s : State) : (jobCommitted j s).upd = s.upd := rfl
@[simp] theorem jobCommitted_mark (j : Nat) (s : State) : (jobCommitted j s).mark = s.mark := rfl
@[simp] theorem jobCommitted_sent (j : Nat) (s : State) : (jobCommitted j s).sent = s.sent := rfl
@[simp] theorem jobCommitted_freeCtr (j : Nat) (s : State) : (jobCommitted j s).freeCtr = s.freeCtr := rfl
@[simp] theorem modQueue_time (q : Nat) (f : Queue → Queue) (s : State) : (modQueue q f s).time = s.time := rfl
@[simp] theorem modQueue_ldr (q : Nat) (f : Queue → Queue) (s : State) : (modQueue q f s).ldr = s.ldr := rfl
@[simp] theorem modQueue_cal (q : Nat) (f : Queue → Queue) (s : State) : (modQueue q f s).cal = s.cal := rfl
@[simp] theorem modQueue_chain (q : Nat) (f : Queue → Queue) (s : State) : (modQueue q f s).chain = s.chain := rfl
@[simp] theorem modQueue_nodes (q : Nat) (f : Queue → Queue) (s : State) : (modQueue q f s).nodes = s.nodes := rfl
@[simp] theorem modQueue_meas (q : Nat) (f : Queue → Queue) (s : State) : (modQueue q f s).meas = s.meas := rfl
@[simp] theorem modQueue_spec (q : Nat) (f : Queue → Queue) (s : State) : (modQueue q f s).spec = s.spec := rfl
@[simp] theorem modQueue_est (q : Nat) (f : Queue → Queue) (s : State) : (modQueue q f s).est = s.est := rfl
@[simp] theorem modQueue_cells (q : Nat) (f : Queue → Queue) (s : State) : (modQueue q f s).cells = s.cells := rfl
@[simp] theorem modQueue_lim (q : Nat) (f : Queue → Queue) (s : State) : (modQueue q f s).lim = s.lim := rfl
@[simp] theorem modQueue_lg (q : Nat) (f : Queue → Queue) (s : State) : (modQueue q f s).lg = s.lg := rfl
@[simp] theorem modQueue_fab (q : Nat) (f : Queue → Queue) (s : State) : (modQueue q f s).fab = s.fab := rfl
@[simp] theorem modQueue_can (q : Nat) (f : Queue → Queue) (s : State) : (modQueue q f s).can = s.can := rfl
@[simp] theorem modQueue_fio (q : Nat) (f : Queue → Queue) (s : State) : (modQueue q f s).fio = s.fio := rfl
@[simp] theorem modQueue_pw (q : Nat) (f : Queue → Queue) (s : State) : (modQueue q f s).pw = s.pw := rfl
@[simp] theorem modQueue_rcd (q : Nat) (f : Queue → Queue) (s : State) : (modQueue q f s).rcd = s.rcd := rfl
@[simp] theorem modQueue_upd (q : Nat) (f : Queue → Queue) (s : State) : (modQueue q f s).upd = s.upd := rfl
@[simp] theorem modQueue_mark (q : Nat) (f : Queue → Queue) (s : State) : (modQueue q f s).mark = s.mark := rfl
@[simp] theorem modQueue_sent (q : Nat) (f : Queue → Queue) (s : State) : (modQueue q f s).sent = s.sent := rfl
@[simp] theorem modQueue_freeCtr (q : Nat) (f : Queue → Queue) (s : State) : (modQueue q f s).freeCtr = s.freeCtr := rfl
@[simp] theorem modSub_time (j : Nat) (f : Sub → Sub) (s : State) : (modSub j f s).time = s.time := rfl
@[simp] theorem modSub_ldr (j : Nat) (f : Sub → Sub) (s : State) : (modSub j f s).ldr = s.ldr := rfl
@[simp] theorem modSub_cal (j : Nat) (f : Sub → Sub) (s : State) : (modSub j f s).cal = s.cal := rfl
@[simp] theorem modSub_chain (j : Nat) (f : Sub → Sub) (s : State) : (modSub j f s).chain = s.chain := rfl
@[simp] theorem modSub_nodes (j : Nat) (f : Sub → Sub) (s : State) : (modSub j f s).nodes = s.nodes := rfl
@[simp] theorem modSub_meas (j : Nat) (f : Sub → Sub) (s : State) : (modSub j f s).meas = s.meas := rfl
@[simp] theorem modSub_spec (j : Nat) (f : Sub → Sub) (s : State) : (modSub j f s).spec = s.spec := rfl
@[simp] theorem modSub_est (j : Nat) (f : Sub → Sub) (s : State) : (modSub j f s).est = s.est := rfl
@[simp] theorem modSub_cells (j : Nat) (f : Sub → Sub) (s : State) : (modSub j f s).cells = s.cells := rfl
@[simp] theorem modSub_lim (j : Nat) (f : Sub → Sub) (s : State) : (modSub j f s).lim = s.lim := rfl
@[simp] theorem modSub_lg (j : Nat) (f : Sub → Sub) (s : State) : (modSub j f s).lg = s.lg := rfl
@[simp] theorem modSub_fab (j : Nat) (f : Sub → Sub) (s : State) : (modSub j f s).fab = s.fab := rfl
@[simp] theorem modSub_can (j : Nat) (f : Sub → Sub) (s : State) : (modSub j f s).can = s.can := rfl
@[simp] theorem modSub_fio (j : Nat) (f : Sub → Sub) (s : State) : (modSub j f s).fio = s.fio := rfl
@[simp] theorem modSub_pw (j : Nat) (f : Sub → Sub) (s : State) : (modSub j f s).pw = s.pw := rfl
@[simp] theorem modSub_rcd (j : Nat) (f : Sub → Sub) (s : State) : (modSub j f s).rcd = s.rcd := rfl
@[simp] theorem modSub_upd (j : Nat) (f : Sub → Sub) (s : State) : (modSub j f s).upd = s.upd := rfl
@[simp] theorem modSub_mark (j : Nat) (f : Sub → Sub) (s : State) : (modSub j f s).mark = s.mark := rfl
@[simp] theorem modSub_sent (j : Nat) (f : Sub → Sub) (s : State) : (modSub j f s).sent = s.sent := rfl
@[simp] theorem modSub_freeCtr (j : Nat) (f : Sub → Sub) (s : State) : (modSub j f s).freeCtr = s.freeCtr := rfl
@[simp] theorem modEngine_ldr (e : Nat) (f : Engine → Engine) (s : State) : (modEngine e f s).ldr = s.ldr := rfl
@[simp] theorem modEngine_cal (e : Nat) (f : Engine → Engine) (s : State) : (modEngine e f s).cal = s.cal := rfl
@[simp] theorem modEngine_chain (e : Nat) (f : Engine → Engine) (s : State) : (modEngine e f s).chain = s.chain := rfl
@[simp] theorem modEngine_nodes (e : Nat) (f : Engine → Engine) (s : State) : (modEngine e f s).nodes = s.nodes := rfl
@[simp] theorem modEngine_meas (e : Nat) (f : Engine → Engine) (s : State) : (modEngine e f s).meas = s.meas := rfl
@[simp] theorem modEngine_spec (e : Nat) (f : Engine → Engine) (s : State) : (modEngine e f s).spec = s.spec := rfl
@[simp] theorem modEngine_est (e : Nat) (f : Engine → Engine) (s : State) : (modEngine e f s).est = s.est := rfl
@[simp] theorem modEngine_cells (e : Nat) (f : Engine → Engine) (s : State) : (modEngine e f s).cells = s.cells := rfl
@[simp] theorem modEngine_lim (e : Nat) (f : Engine → Engine) (s : State) : (modEngine e f s).lim = s.lim := rfl
@[simp] theorem modEngine_lg (e : Nat) (f : Engine → Engine) (s : State) : (modEngine e f s).lg = s.lg := rfl
@[simp] theorem modEngine_fab (e : Nat) (f : Engine → Engine) (s : State) : (modEngine e f s).fab = s.fab := rfl
@[simp] theorem modEngine_host (e : Nat) (f : Engine → Engine) (s : State) : (modEngine e f s).host = s.host := rfl
@[simp] theorem modEngine_can (e : Nat) (f : Engine → Engine) (s : State) : (modEngine e f s).can = s.can := rfl
@[simp] theorem modEngine_fio (e : Nat) (f : Engine → Engine) (s : State) : (modEngine e f s).fio = s.fio := rfl
@[simp] theorem modEngine_pw (e : Nat) (f : Engine → Engine) (s : State) : (modEngine e f s).pw = s.pw := rfl
@[simp] theorem modEngine_rcd (e : Nat) (f : Engine → Engine) (s : State) : (modEngine e f s).rcd = s.rcd := rfl
@[simp] theorem modEngine_upd (e : Nat) (f : Engine → Engine) (s : State) : (modEngine e f s).upd = s.upd := rfl
@[simp] theorem modEngine_mark (e : Nat) (f : Engine → Engine) (s : State) : (modEngine e f s).mark = s.mark := rfl
@[simp] theorem modEngine_sent (e : Nat) (f : Engine → Engine) (s : State) : (modEngine e f s).sent = s.sent := rfl
@[simp] theorem modEngine_freeCtr (e : Nat) (f : Engine → Engine) (s : State) : (modEngine e f s).freeCtr = s.freeCtr := rfl
@[simp] theorem modDom_ldr (d : Fin 2) (f : Dom → Dom) (s : State) : (modDom d f s).ldr = s.ldr := rfl
@[simp] theorem modDom_cal (d : Fin 2) (f : Dom → Dom) (s : State) : (modDom d f s).cal = s.cal := rfl
@[simp] theorem modDom_chain (d : Fin 2) (f : Dom → Dom) (s : State) : (modDom d f s).chain = s.chain := rfl
@[simp] theorem modDom_nodes (d : Fin 2) (f : Dom → Dom) (s : State) : (modDom d f s).nodes = s.nodes := rfl
@[simp] theorem modDom_meas (d : Fin 2) (f : Dom → Dom) (s : State) : (modDom d f s).meas = s.meas := rfl
@[simp] theorem modDom_spec (d : Fin 2) (f : Dom → Dom) (s : State) : (modDom d f s).spec = s.spec := rfl
@[simp] theorem modDom_est (d : Fin 2) (f : Dom → Dom) (s : State) : (modDom d f s).est = s.est := rfl
@[simp] theorem modDom_cells (d : Fin 2) (f : Dom → Dom) (s : State) : (modDom d f s).cells = s.cells := rfl
@[simp] theorem modDom_lim (d : Fin 2) (f : Dom → Dom) (s : State) : (modDom d f s).lim = s.lim := rfl
@[simp] theorem modDom_lg (d : Fin 2) (f : Dom → Dom) (s : State) : (modDom d f s).lg = s.lg := rfl
@[simp] theorem modDom_fab (d : Fin 2) (f : Dom → Dom) (s : State) : (modDom d f s).fab = s.fab := rfl
@[simp] theorem modDom_host (d : Fin 2) (f : Dom → Dom) (s : State) : (modDom d f s).host = s.host := rfl
@[simp] theorem modDom_can (d : Fin 2) (f : Dom → Dom) (s : State) : (modDom d f s).can = s.can := rfl
@[simp] theorem modDom_fio (d : Fin 2) (f : Dom → Dom) (s : State) : (modDom d f s).fio = s.fio := rfl
@[simp] theorem modDom_pw (d : Fin 2) (f : Dom → Dom) (s : State) : (modDom d f s).pw = s.pw := rfl
@[simp] theorem modDom_rcd (d : Fin 2) (f : Dom → Dom) (s : State) : (modDom d f s).rcd = s.rcd := rfl
@[simp] theorem modDom_upd (d : Fin 2) (f : Dom → Dom) (s : State) : (modDom d f s).upd = s.upd := rfl
@[simp] theorem modDom_mark (d : Fin 2) (f : Dom → Dom) (s : State) : (modDom d f s).mark = s.mark := rfl
@[simp] theorem modDom_sent (d : Fin 2) (f : Dom → Dom) (s : State) : (modDom d f s).sent = s.sent := rfl
@[simp] theorem modDom_freeCtr (d : Fin 2) (f : Dom → Dom) (s : State) : (modDom d f s).freeCtr = s.freeCtr := rfl
@[simp] theorem modTsq_ldr (p : Fin 3) (f : Tsq → Tsq) (s : State) : (modTsq p f s).ldr = s.ldr := rfl
@[simp] theorem modTsq_cal (p : Fin 3) (f : Tsq → Tsq) (s : State) : (modTsq p f s).cal = s.cal := rfl
@[simp] theorem modTsq_chain (p : Fin 3) (f : Tsq → Tsq) (s : State) : (modTsq p f s).chain = s.chain := rfl
@[simp] theorem modTsq_nodes (p : Fin 3) (f : Tsq → Tsq) (s : State) : (modTsq p f s).nodes = s.nodes := rfl
@[simp] theorem modTsq_meas (p : Fin 3) (f : Tsq → Tsq) (s : State) : (modTsq p f s).meas = s.meas := rfl
@[simp] theorem modTsq_spec (p : Fin 3) (f : Tsq → Tsq) (s : State) : (modTsq p f s).spec = s.spec := rfl
@[simp] theorem modTsq_est (p : Fin 3) (f : Tsq → Tsq) (s : State) : (modTsq p f s).est = s.est := rfl
@[simp] theorem modTsq_cells (p : Fin 3) (f : Tsq → Tsq) (s : State) : (modTsq p f s).cells = s.cells := rfl
@[simp] theorem modTsq_lim (p : Fin 3) (f : Tsq → Tsq) (s : State) : (modTsq p f s).lim = s.lim := rfl
@[simp] theorem modTsq_lg (p : Fin 3) (f : Tsq → Tsq) (s : State) : (modTsq p f s).lg = s.lg := rfl
@[simp] theorem modTsq_fab (p : Fin 3) (f : Tsq → Tsq) (s : State) : (modTsq p f s).fab = s.fab := rfl
@[simp] theorem modTsq_host (p : Fin 3) (f : Tsq → Tsq) (s : State) : (modTsq p f s).host = s.host := rfl
@[simp] theorem modTsq_can (p : Fin 3) (f : Tsq → Tsq) (s : State) : (modTsq p f s).can = s.can := rfl
@[simp] theorem modTsq_fio (p : Fin 3) (f : Tsq → Tsq) (s : State) : (modTsq p f s).fio = s.fio := rfl
@[simp] theorem modTsq_pw (p : Fin 3) (f : Tsq → Tsq) (s : State) : (modTsq p f s).pw = s.pw := rfl
@[simp] theorem modTsq_rcd (p : Fin 3) (f : Tsq → Tsq) (s : State) : (modTsq p f s).rcd = s.rcd := rfl
@[simp] theorem modTsq_upd (p : Fin 3) (f : Tsq → Tsq) (s : State) : (modTsq p f s).upd = s.upd := rfl
@[simp] theorem modTsq_mark (p : Fin 3) (f : Tsq → Tsq) (s : State) : (modTsq p f s).mark = s.mark := rfl
@[simp] theorem modTsq_sent (p : Fin 3) (f : Tsq → Tsq) (s : State) : (modTsq p f s).sent = s.sent := rfl
@[simp] theorem modTsq_freeCtr (p : Fin 3) (f : Tsq → Tsq) (s : State) : (modTsq p f s).freeCtr = s.freeCtr := rfl
@[simp] theorem modNode_time (line hop : Nat) (f : NodeS → NodeS) (s : State) : (modNode line hop f s).time = s.time := rfl
@[simp] theorem modNode_ldr (line hop : Nat) (f : NodeS → NodeS) (s : State) : (modNode line hop f s).ldr = s.ldr := rfl
@[simp] theorem modNode_cal (line hop : Nat) (f : NodeS → NodeS) (s : State) : (modNode line hop f s).cal = s.cal := rfl
@[simp] theorem modNode_chain (line hop : Nat) (f : NodeS → NodeS) (s : State) : (modNode line hop f s).chain = s.chain
    := rfl
@[simp] theorem modNode_meas (line hop : Nat) (f : NodeS → NodeS) (s : State) : (modNode line hop f s).meas = s.meas := rfl
@[simp] theorem modNode_spec (line hop : Nat) (f : NodeS → NodeS) (s : State) : (modNode line hop f s).spec = s.spec := rfl
@[simp] theorem modNode_est (line hop : Nat) (f : NodeS → NodeS) (s : State) : (modNode line hop f s).est = s.est := rfl
@[simp] theorem modNode_cells (line hop : Nat) (f : NodeS → NodeS) (s : State) : (modNode line hop f s).cells = s.cells
    := rfl
@[simp] theorem modNode_lim (line hop : Nat) (f : NodeS → NodeS) (s : State) : (modNode line hop f s).lim = s.lim := rfl
@[simp] theorem modNode_lg (line hop : Nat) (f : NodeS → NodeS) (s : State) : (modNode line hop f s).lg = s.lg := rfl
@[simp] theorem modNode_fab (line hop : Nat) (f : NodeS → NodeS) (s : State) : (modNode line hop f s).fab = s.fab := rfl
@[simp] theorem modNode_host (line hop : Nat) (f : NodeS → NodeS) (s : State) : (modNode line hop f s).host = s.host := rfl
@[simp] theorem modNode_can (line hop : Nat) (f : NodeS → NodeS) (s : State) : (modNode line hop f s).can = s.can := rfl
@[simp] theorem modNode_fio (line hop : Nat) (f : NodeS → NodeS) (s : State) : (modNode line hop f s).fio = s.fio := rfl
@[simp] theorem modNode_pw (line hop : Nat) (f : NodeS → NodeS) (s : State) : (modNode line hop f s).pw = s.pw := rfl
@[simp] theorem modNode_rcd (line hop : Nat) (f : NodeS → NodeS) (s : State) : (modNode line hop f s).rcd = s.rcd := rfl
@[simp] theorem modNode_upd (line hop : Nat) (f : NodeS → NodeS) (s : State) : (modNode line hop f s).upd = s.upd := rfl
@[simp] theorem modNode_mark (line hop : Nat) (f : NodeS → NodeS) (s : State) : (modNode line hop f s).mark = s.mark := rfl
@[simp] theorem modNode_sent (line hop : Nat) (f : NodeS → NodeS) (s : State) : (modNode line hop f s).sent = s.sent := rfl
@[simp] theorem modNode_freeCtr (line hop : Nat) (f : NodeS → NodeS) (s : State) : (modNode line hop f s).freeCtr =
    s.freeCtr := rfl
@[simp] theorem modLine_time (l : Nat) (f : Line → Line) (s : State) : (modLine l f s).time = s.time := rfl
@[simp] theorem modLine_ldr (l : Nat) (f : Line → Line) (s : State) : (modLine l f s).ldr = s.ldr := rfl
@[simp] theorem modLine_cal (l : Nat) (f : Line → Line) (s : State) : (modLine l f s).cal = s.cal := rfl
@[simp] theorem modLine_nodes (l : Nat) (f : Line → Line) (s : State) : (modLine l f s).nodes = s.nodes := rfl
@[simp] theorem modLine_meas (l : Nat) (f : Line → Line) (s : State) : (modLine l f s).meas = s.meas := rfl
@[simp] theorem modLine_spec (l : Nat) (f : Line → Line) (s : State) : (modLine l f s).spec = s.spec := rfl
@[simp] theorem modLine_est (l : Nat) (f : Line → Line) (s : State) : (modLine l f s).est = s.est := rfl
@[simp] theorem modLine_cells (l : Nat) (f : Line → Line) (s : State) : (modLine l f s).cells = s.cells := rfl
@[simp] theorem modLine_lim (l : Nat) (f : Line → Line) (s : State) : (modLine l f s).lim = s.lim := rfl
@[simp] theorem modLine_lg (l : Nat) (f : Line → Line) (s : State) : (modLine l f s).lg = s.lg := rfl
@[simp] theorem modLine_fab (l : Nat) (f : Line → Line) (s : State) : (modLine l f s).fab = s.fab := rfl
@[simp] theorem modLine_host (l : Nat) (f : Line → Line) (s : State) : (modLine l f s).host = s.host := rfl
@[simp] theorem modLine_can (l : Nat) (f : Line → Line) (s : State) : (modLine l f s).can = s.can := rfl
@[simp] theorem modLine_fio (l : Nat) (f : Line → Line) (s : State) : (modLine l f s).fio = s.fio := rfl
@[simp] theorem modLine_pw (l : Nat) (f : Line → Line) (s : State) : (modLine l f s).pw = s.pw := rfl
@[simp] theorem modLine_rcd (l : Nat) (f : Line → Line) (s : State) : (modLine l f s).rcd = s.rcd := rfl
@[simp] theorem modLine_upd (l : Nat) (f : Line → Line) (s : State) : (modLine l f s).upd = s.upd := rfl
@[simp] theorem modLine_mark (l : Nat) (f : Line → Line) (s : State) : (modLine l f s).mark = s.mark := rfl
@[simp] theorem modLine_sent (l : Nat) (f : Line → Line) (s : State) : (modLine l f s).sent = s.sent := rfl
@[simp] theorem modLine_freeCtr (l : Nat) (f : Line → Line) (s : State) : (modLine l f s).freeCtr = s.freeCtr := rfl
@[simp] theorem modRec_time (a : Nat) (f : NodeM → NodeM) (s : State) : (modRec a f s).time = s.time := rfl
@[simp] theorem modRec_ldr (a : Nat) (f : NodeM → NodeM) (s : State) : (modRec a f s).ldr = s.ldr := rfl
@[simp] theorem modRec_cal (a : Nat) (f : NodeM → NodeM) (s : State) : (modRec a f s).cal = s.cal := rfl
@[simp] theorem modRec_nodes (a : Nat) (f : NodeM → NodeM) (s : State) : (modRec a f s).nodes = s.nodes := rfl
@[simp] theorem modRec_meas (a : Nat) (f : NodeM → NodeM) (s : State) : (modRec a f s).meas = s.meas := rfl
@[simp] theorem modRec_spec (a : Nat) (f : NodeM → NodeM) (s : State) : (modRec a f s).spec = s.spec := rfl
@[simp] theorem modRec_est (a : Nat) (f : NodeM → NodeM) (s : State) : (modRec a f s).est = s.est := rfl
@[simp] theorem modRec_cells (a : Nat) (f : NodeM → NodeM) (s : State) : (modRec a f s).cells = s.cells := rfl
@[simp] theorem modRec_lim (a : Nat) (f : NodeM → NodeM) (s : State) : (modRec a f s).lim = s.lim := rfl
@[simp] theorem modRec_lg (a : Nat) (f : NodeM → NodeM) (s : State) : (modRec a f s).lg = s.lg := rfl
@[simp] theorem modRec_fab (a : Nat) (f : NodeM → NodeM) (s : State) : (modRec a f s).fab = s.fab := rfl
@[simp] theorem modRec_host (a : Nat) (f : NodeM → NodeM) (s : State) : (modRec a f s).host = s.host := rfl
@[simp] theorem modRec_can (a : Nat) (f : NodeM → NodeM) (s : State) : (modRec a f s).can = s.can := rfl
@[simp] theorem modRec_fio (a : Nat) (f : NodeM → NodeM) (s : State) : (modRec a f s).fio = s.fio := rfl
@[simp] theorem modRec_pw (a : Nat) (f : NodeM → NodeM) (s : State) : (modRec a f s).pw = s.pw := rfl
@[simp] theorem modRec_rcd (a : Nat) (f : NodeM → NodeM) (s : State) : (modRec a f s).rcd = s.rcd := rfl
@[simp] theorem modRec_upd (a : Nat) (f : NodeM → NodeM) (s : State) : (modRec a f s).upd = s.upd := rfl
@[simp] theorem modRec_mark (a : Nat) (f : NodeM → NodeM) (s : State) : (modRec a f s).mark = s.mark := rfl
@[simp] theorem modRec_sent (a : Nat) (f : NodeM → NodeM) (s : State) : (modRec a f s).sent = s.sent := rfl
@[simp] theorem modRec_freeCtr (a : Nat) (f : NodeM → NodeM) (s : State) : (modRec a f s).freeCtr = s.freeCtr := rfl
@[simp] theorem modSpec_time (p : Nat) (f : PosSpec → PosSpec) (s : State) : (modSpec p f s).time = s.time := rfl
@[simp] theorem modSpec_ldr (p : Nat) (f : PosSpec → PosSpec) (s : State) : (modSpec p f s).ldr = s.ldr := rfl
@[simp] theorem modSpec_cal (p : Nat) (f : PosSpec → PosSpec) (s : State) : (modSpec p f s).cal = s.cal := rfl
@[simp] theorem modSpec_chain (p : Nat) (f : PosSpec → PosSpec) (s : State) : (modSpec p f s).chain = s.chain := rfl
@[simp] theorem modSpec_nodes (p : Nat) (f : PosSpec → PosSpec) (s : State) : (modSpec p f s).nodes = s.nodes := rfl
@[simp] theorem modSpec_meas (p : Nat) (f : PosSpec → PosSpec) (s : State) : (modSpec p f s).meas = s.meas := rfl
@[simp] theorem modSpec_est (p : Nat) (f : PosSpec → PosSpec) (s : State) : (modSpec p f s).est = s.est := rfl
@[simp] theorem modSpec_cells (p : Nat) (f : PosSpec → PosSpec) (s : State) : (modSpec p f s).cells = s.cells := rfl
@[simp] theorem modSpec_lim (p : Nat) (f : PosSpec → PosSpec) (s : State) : (modSpec p f s).lim = s.lim := rfl
@[simp] theorem modSpec_lg (p : Nat) (f : PosSpec → PosSpec) (s : State) : (modSpec p f s).lg = s.lg := rfl
@[simp] theorem modSpec_fab (p : Nat) (f : PosSpec → PosSpec) (s : State) : (modSpec p f s).fab = s.fab := rfl
@[simp] theorem modSpec_host (p : Nat) (f : PosSpec → PosSpec) (s : State) : (modSpec p f s).host = s.host := rfl
@[simp] theorem modSpec_can (p : Nat) (f : PosSpec → PosSpec) (s : State) : (modSpec p f s).can = s.can := rfl
@[simp] theorem modSpec_fio (p : Nat) (f : PosSpec → PosSpec) (s : State) : (modSpec p f s).fio = s.fio := rfl
@[simp] theorem modSpec_pw (p : Nat) (f : PosSpec → PosSpec) (s : State) : (modSpec p f s).pw = s.pw := rfl
@[simp] theorem modSpec_rcd (p : Nat) (f : PosSpec → PosSpec) (s : State) : (modSpec p f s).rcd = s.rcd := rfl
@[simp] theorem modSpec_upd (p : Nat) (f : PosSpec → PosSpec) (s : State) : (modSpec p f s).upd = s.upd := rfl
@[simp] theorem modSpec_mark (p : Nat) (f : PosSpec → PosSpec) (s : State) : (modSpec p f s).mark = s.mark := rfl
@[simp] theorem modSpec_sent (p : Nat) (f : PosSpec → PosSpec) (s : State) : (modSpec p f s).sent = s.sent := rfl
@[simp] theorem modSpec_freeCtr (p : Nat) (f : PosSpec → PosSpec) (s : State) : (modSpec p f s).freeCtr = s.freeCtr := rfl
@[simp] theorem modFilter_time (p : Nat) (f : Filter → Filter) (s : State) : (modFilter p f s).time = s.time := rfl
@[simp] theorem modFilter_ldr (p : Nat) (f : Filter → Filter) (s : State) : (modFilter p f s).ldr = s.ldr := rfl
@[simp] theorem modFilter_cal (p : Nat) (f : Filter → Filter) (s : State) : (modFilter p f s).cal = s.cal := rfl
@[simp] theorem modFilter_chain (p : Nat) (f : Filter → Filter) (s : State) : (modFilter p f s).chain = s.chain := rfl
@[simp] theorem modFilter_nodes (p : Nat) (f : Filter → Filter) (s : State) : (modFilter p f s).nodes = s.nodes := rfl
@[simp] theorem modFilter_meas (p : Nat) (f : Filter → Filter) (s : State) : (modFilter p f s).meas = s.meas := rfl
@[simp] theorem modFilter_spec (p : Nat) (f : Filter → Filter) (s : State) : (modFilter p f s).spec = s.spec := rfl
@[simp] theorem modFilter_cells (p : Nat) (f : Filter → Filter) (s : State) : (modFilter p f s).cells = s.cells := rfl
@[simp] theorem modFilter_lim (p : Nat) (f : Filter → Filter) (s : State) : (modFilter p f s).lim = s.lim := rfl
@[simp] theorem modFilter_lg (p : Nat) (f : Filter → Filter) (s : State) : (modFilter p f s).lg = s.lg := rfl
@[simp] theorem modFilter_fab (p : Nat) (f : Filter → Filter) (s : State) : (modFilter p f s).fab = s.fab := rfl
@[simp] theorem modFilter_host (p : Nat) (f : Filter → Filter) (s : State) : (modFilter p f s).host = s.host := rfl
@[simp] theorem modFilter_can (p : Nat) (f : Filter → Filter) (s : State) : (modFilter p f s).can = s.can := rfl
@[simp] theorem modFilter_fio (p : Nat) (f : Filter → Filter) (s : State) : (modFilter p f s).fio = s.fio := rfl
@[simp] theorem modFilter_pw (p : Nat) (f : Filter → Filter) (s : State) : (modFilter p f s).pw = s.pw := rfl
@[simp] theorem modFilter_rcd (p : Nat) (f : Filter → Filter) (s : State) : (modFilter p f s).rcd = s.rcd := rfl
@[simp] theorem modFilter_upd (p : Nat) (f : Filter → Filter) (s : State) : (modFilter p f s).upd = s.upd := rfl
@[simp] theorem modFilter_mark (p : Nat) (f : Filter → Filter) (s : State) : (modFilter p f s).mark = s.mark := rfl
@[simp] theorem modFilter_sent (p : Nat) (f : Filter → Filter) (s : State) : (modFilter p f s).sent = s.sent := rfl
@[simp] theorem modFilter_freeCtr (p : Nat) (f : Filter → Filter) (s : State) : (modFilter p f s).freeCtr = s.freeCtr := rfl
@[simp] theorem modK_time (k : Nat) (f : Contactor → Contactor) (s : State) : (modK k f s).time = s.time := rfl
@[simp] theorem modK_ldr (k : Nat) (f : Contactor → Contactor) (s : State) : (modK k f s).ldr = s.ldr := rfl
@[simp] theorem modK_cal (k : Nat) (f : Contactor → Contactor) (s : State) : (modK k f s).cal = s.cal := rfl
@[simp] theorem modK_chain (k : Nat) (f : Contactor → Contactor) (s : State) : (modK k f s).chain = s.chain := rfl
@[simp] theorem modK_nodes (k : Nat) (f : Contactor → Contactor) (s : State) : (modK k f s).nodes = s.nodes := rfl
@[simp] theorem modK_meas (k : Nat) (f : Contactor → Contactor) (s : State) : (modK k f s).meas = s.meas := rfl
@[simp] theorem modK_spec (k : Nat) (f : Contactor → Contactor) (s : State) : (modK k f s).spec = s.spec := rfl
@[simp] theorem modK_est (k : Nat) (f : Contactor → Contactor) (s : State) : (modK k f s).est = s.est := rfl
@[simp] theorem modK_cells (k : Nat) (f : Contactor → Contactor) (s : State) : (modK k f s).cells = s.cells := rfl
@[simp] theorem modK_lim (k : Nat) (f : Contactor → Contactor) (s : State) : (modK k f s).lim = s.lim := rfl
@[simp] theorem modK_lg (k : Nat) (f : Contactor → Contactor) (s : State) : (modK k f s).lg = s.lg := rfl
@[simp] theorem modK_fab (k : Nat) (f : Contactor → Contactor) (s : State) : (modK k f s).fab = s.fab := rfl
@[simp] theorem modK_host (k : Nat) (f : Contactor → Contactor) (s : State) : (modK k f s).host = s.host := rfl
@[simp] theorem modK_can (k : Nat) (f : Contactor → Contactor) (s : State) : (modK k f s).can = s.can := rfl
@[simp] theorem modK_fio (k : Nat) (f : Contactor → Contactor) (s : State) : (modK k f s).fio = s.fio := rfl
@[simp] theorem modK_pw (k : Nat) (f : Contactor → Contactor) (s : State) : (modK k f s).pw = s.pw := rfl
@[simp] theorem modK_rcd (k : Nat) (f : Contactor → Contactor) (s : State) : (modK k f s).rcd = s.rcd := rfl
@[simp] theorem modK_upd (k : Nat) (f : Contactor → Contactor) (s : State) : (modK k f s).upd = s.upd := rfl
@[simp] theorem modK_mark (k : Nat) (f : Contactor → Contactor) (s : State) : (modK k f s).mark = s.mark := rfl
@[simp] theorem modK_sent (k : Nat) (f : Contactor → Contactor) (s : State) : (modK k f s).sent = s.sent := rfl
@[simp] theorem modK_freeCtr (k : Nat) (f : Contactor → Contactor) (s : State) : (modK k f s).freeCtr = s.freeCtr := rfl
@[simp] theorem allK_time (f : Nat → Contactor → Contactor) (s : State) : (allK f s).time = s.time := rfl
@[simp] theorem allK_ldr (f : Nat → Contactor → Contactor) (s : State) : (allK f s).ldr = s.ldr := rfl
@[simp] theorem allK_cal (f : Nat → Contactor → Contactor) (s : State) : (allK f s).cal = s.cal := rfl
@[simp] theorem allK_chain (f : Nat → Contactor → Contactor) (s : State) : (allK f s).chain = s.chain := rfl
@[simp] theorem allK_nodes (f : Nat → Contactor → Contactor) (s : State) : (allK f s).nodes = s.nodes := rfl
@[simp] theorem allK_meas (f : Nat → Contactor → Contactor) (s : State) : (allK f s).meas = s.meas := rfl
@[simp] theorem allK_spec (f : Nat → Contactor → Contactor) (s : State) : (allK f s).spec = s.spec := rfl
@[simp] theorem allK_est (f : Nat → Contactor → Contactor) (s : State) : (allK f s).est = s.est := rfl
@[simp] theorem allK_cells (f : Nat → Contactor → Contactor) (s : State) : (allK f s).cells = s.cells := rfl
@[simp] theorem allK_lim (f : Nat → Contactor → Contactor) (s : State) : (allK f s).lim = s.lim := rfl
@[simp] theorem allK_lg (f : Nat → Contactor → Contactor) (s : State) : (allK f s).lg = s.lg := rfl
@[simp] theorem allK_fab (f : Nat → Contactor → Contactor) (s : State) : (allK f s).fab = s.fab := rfl
@[simp] theorem allK_host (f : Nat → Contactor → Contactor) (s : State) : (allK f s).host = s.host := rfl
@[simp] theorem allK_can (f : Nat → Contactor → Contactor) (s : State) : (allK f s).can = s.can := rfl
@[simp] theorem allK_fio (f : Nat → Contactor → Contactor) (s : State) : (allK f s).fio = s.fio := rfl
@[simp] theorem allK_pw (f : Nat → Contactor → Contactor) (s : State) : (allK f s).pw = s.pw := rfl
@[simp] theorem allK_rcd (f : Nat → Contactor → Contactor) (s : State) : (allK f s).rcd = s.rcd := rfl
@[simp] theorem allK_upd (f : Nat → Contactor → Contactor) (s : State) : (allK f s).upd = s.upd := rfl
@[simp] theorem allK_mark (f : Nat → Contactor → Contactor) (s : State) : (allK f s).mark = s.mark := rfl
@[simp] theorem allK_sent (f : Nat → Contactor → Contactor) (s : State) : (allK f s).sent = s.sent := rfl
@[simp] theorem allK_freeCtr (f : Nat → Contactor → Contactor) (s : State) : (allK f s).freeCtr = s.freeCtr := rfl
@[simp] theorem zeroLimits_time (s : State) : (zeroLimits s).time = s.time := rfl
@[simp] theorem zeroLimits_ldr (s : State) : (zeroLimits s).ldr = s.ldr := rfl
@[simp] theorem zeroLimits_cal (s : State) : (zeroLimits s).cal = s.cal := rfl
@[simp] theorem zeroLimits_chain (s : State) : (zeroLimits s).chain = s.chain := rfl
@[simp] theorem zeroLimits_nodes (s : State) : (zeroLimits s).nodes = s.nodes := rfl
@[simp] theorem zeroLimits_meas (s : State) : (zeroLimits s).meas = s.meas := rfl
@[simp] theorem zeroLimits_spec (s : State) : (zeroLimits s).spec = s.spec := rfl
@[simp] theorem zeroLimits_est (s : State) : (zeroLimits s).est = s.est := rfl
@[simp] theorem zeroLimits_cells (s : State) : (zeroLimits s).cells = s.cells := rfl
@[simp] theorem zeroLimits_lg (s : State) : (zeroLimits s).lg = s.lg := rfl
@[simp] theorem zeroLimits_fab (s : State) : (zeroLimits s).fab = s.fab := rfl
@[simp] theorem zeroLimits_host (s : State) : (zeroLimits s).host = s.host := rfl
@[simp] theorem zeroLimits_can (s : State) : (zeroLimits s).can = s.can := rfl
@[simp] theorem zeroLimits_fio (s : State) : (zeroLimits s).fio = s.fio := rfl
@[simp] theorem zeroLimits_pw (s : State) : (zeroLimits s).pw = s.pw := rfl
@[simp] theorem zeroLimits_rcd (s : State) : (zeroLimits s).rcd = s.rcd := rfl
@[simp] theorem zeroLimits_upd (s : State) : (zeroLimits s).upd = s.upd := rfl
@[simp] theorem zeroLimits_mark (s : State) : (zeroLimits s).mark = s.mark := rfl
@[simp] theorem zeroLimits_sent (s : State) : (zeroLimits s).sent = s.sent := rfl
@[simp] theorem zeroLimits_freeCtr (s : State) : (zeroLimits s).freeCtr = s.freeCtr := rfl
@[simp] theorem modFab_time (f : Fab → Fab) (s : State) : (modFab f s).time = s.time := rfl
@[simp] theorem modFab_ldr (f : Fab → Fab) (s : State) : (modFab f s).ldr = s.ldr := rfl
@[simp] theorem modFab_cal (f : Fab → Fab) (s : State) : (modFab f s).cal = s.cal := rfl
@[simp] theorem modFab_chain (f : Fab → Fab) (s : State) : (modFab f s).chain = s.chain := rfl
@[simp] theorem modFab_nodes (f : Fab → Fab) (s : State) : (modFab f s).nodes = s.nodes := rfl
@[simp] theorem modFab_meas (f : Fab → Fab) (s : State) : (modFab f s).meas = s.meas := rfl
@[simp] theorem modFab_spec (f : Fab → Fab) (s : State) : (modFab f s).spec = s.spec := rfl
@[simp] theorem modFab_est (f : Fab → Fab) (s : State) : (modFab f s).est = s.est := rfl
@[simp] theorem modFab_cells (f : Fab → Fab) (s : State) : (modFab f s).cells = s.cells := rfl
@[simp] theorem modFab_lim (f : Fab → Fab) (s : State) : (modFab f s).lim = s.lim := rfl
@[simp] theorem modFab_lg (f : Fab → Fab) (s : State) : (modFab f s).lg = s.lg := rfl
@[simp] theorem modFab_host (f : Fab → Fab) (s : State) : (modFab f s).host = s.host := rfl
@[simp] theorem modFab_can (f : Fab → Fab) (s : State) : (modFab f s).can = s.can := rfl
@[simp] theorem modFab_fio (f : Fab → Fab) (s : State) : (modFab f s).fio = s.fio := rfl
@[simp] theorem modFab_pw (f : Fab → Fab) (s : State) : (modFab f s).pw = s.pw := rfl
@[simp] theorem modFab_rcd (f : Fab → Fab) (s : State) : (modFab f s).rcd = s.rcd := rfl
@[simp] theorem modFab_upd (f : Fab → Fab) (s : State) : (modFab f s).upd = s.upd := rfl
@[simp] theorem modFab_mark (f : Fab → Fab) (s : State) : (modFab f s).mark = s.mark := rfl
@[simp] theorem modFab_sent (f : Fab → Fab) (s : State) : (modFab f s).sent = s.sent := rfl
@[simp] theorem modFab_freeCtr (f : Fab → Fab) (s : State) : (modFab f s).freeCtr = s.freeCtr := rfl
@[simp] theorem modPort_time (p : Fin 3) (f : PortSt → PortSt) (s : State) : (modPort p f s).time = s.time := rfl
@[simp] theorem modPort_ldr (p : Fin 3) (f : PortSt → PortSt) (s : State) : (modPort p f s).ldr = s.ldr := rfl
@[simp] theorem modPort_cal (p : Fin 3) (f : PortSt → PortSt) (s : State) : (modPort p f s).cal = s.cal := rfl
@[simp] theorem modPort_chain (p : Fin 3) (f : PortSt → PortSt) (s : State) : (modPort p f s).chain = s.chain := rfl
@[simp] theorem modPort_nodes (p : Fin 3) (f : PortSt → PortSt) (s : State) : (modPort p f s).nodes = s.nodes := rfl
@[simp] theorem modPort_meas (p : Fin 3) (f : PortSt → PortSt) (s : State) : (modPort p f s).meas = s.meas := rfl
@[simp] theorem modPort_spec (p : Fin 3) (f : PortSt → PortSt) (s : State) : (modPort p f s).spec = s.spec := rfl
@[simp] theorem modPort_est (p : Fin 3) (f : PortSt → PortSt) (s : State) : (modPort p f s).est = s.est := rfl
@[simp] theorem modPort_cells (p : Fin 3) (f : PortSt → PortSt) (s : State) : (modPort p f s).cells = s.cells := rfl
@[simp] theorem modPort_lim (p : Fin 3) (f : PortSt → PortSt) (s : State) : (modPort p f s).lim = s.lim := rfl
@[simp] theorem modPort_lg (p : Fin 3) (f : PortSt → PortSt) (s : State) : (modPort p f s).lg = s.lg := rfl
@[simp] theorem modPort_host (p : Fin 3) (f : PortSt → PortSt) (s : State) : (modPort p f s).host = s.host := rfl
@[simp] theorem modPort_can (p : Fin 3) (f : PortSt → PortSt) (s : State) : (modPort p f s).can = s.can := rfl
@[simp] theorem modPort_fio (p : Fin 3) (f : PortSt → PortSt) (s : State) : (modPort p f s).fio = s.fio := rfl
@[simp] theorem modPort_pw (p : Fin 3) (f : PortSt → PortSt) (s : State) : (modPort p f s).pw = s.pw := rfl
@[simp] theorem modPort_rcd (p : Fin 3) (f : PortSt → PortSt) (s : State) : (modPort p f s).rcd = s.rcd := rfl
@[simp] theorem modPort_upd (p : Fin 3) (f : PortSt → PortSt) (s : State) : (modPort p f s).upd = s.upd := rfl
@[simp] theorem modPort_mark (p : Fin 3) (f : PortSt → PortSt) (s : State) : (modPort p f s).mark = s.mark := rfl
@[simp] theorem modPort_sent (p : Fin 3) (f : PortSt → PortSt) (s : State) : (modPort p f s).sent = s.sent := rfl
@[simp] theorem modPort_freeCtr (p : Fin 3) (f : PortSt → PortSt) (s : State) : (modPort p f s).freeCtr = s.freeCtr := rfl
@[simp] theorem modPair_time (f : Pair → Pair) (s : State) : (modPair f s).time = s.time := rfl
@[simp] theorem modPair_ldr (f : Pair → Pair) (s : State) : (modPair f s).ldr = s.ldr := rfl
@[simp] theorem modPair_cal (f : Pair → Pair) (s : State) : (modPair f s).cal = s.cal := rfl
@[simp] theorem modPair_chain (f : Pair → Pair) (s : State) : (modPair f s).chain = s.chain := rfl
@[simp] theorem modPair_nodes (f : Pair → Pair) (s : State) : (modPair f s).nodes = s.nodes := rfl
@[simp] theorem modPair_meas (f : Pair → Pair) (s : State) : (modPair f s).meas = s.meas := rfl
@[simp] theorem modPair_spec (f : Pair → Pair) (s : State) : (modPair f s).spec = s.spec := rfl
@[simp] theorem modPair_est (f : Pair → Pair) (s : State) : (modPair f s).est = s.est := rfl
@[simp] theorem modPair_cells (f : Pair → Pair) (s : State) : (modPair f s).cells = s.cells := rfl
@[simp] theorem modPair_lim (f : Pair → Pair) (s : State) : (modPair f s).lim = s.lim := rfl
@[simp] theorem modPair_lg (f : Pair → Pair) (s : State) : (modPair f s).lg = s.lg := rfl
@[simp] theorem modPair_host (f : Pair → Pair) (s : State) : (modPair f s).host = s.host := rfl
@[simp] theorem modPair_can (f : Pair → Pair) (s : State) : (modPair f s).can = s.can := rfl
@[simp] theorem modPair_fio (f : Pair → Pair) (s : State) : (modPair f s).fio = s.fio := rfl
@[simp] theorem modPair_pw (f : Pair → Pair) (s : State) : (modPair f s).pw = s.pw := rfl
@[simp] theorem modPair_rcd (f : Pair → Pair) (s : State) : (modPair f s).rcd = s.rcd := rfl
@[simp] theorem modPair_upd (f : Pair → Pair) (s : State) : (modPair f s).upd = s.upd := rfl
@[simp] theorem modPair_mark (f : Pair → Pair) (s : State) : (modPair f s).mark = s.mark := rfl
@[simp] theorem modPair_sent (f : Pair → Pair) (s : State) : (modPair f s).sent = s.sent := rfl
@[simp] theorem modPair_freeCtr (f : Pair → Pair) (s : State) : (modPair f s).freeCtr = s.freeCtr := rfl
@[simp] theorem modCan_time (c : Nat) (f : CanCh → CanCh) (s : State) : (modCan c f s).time = s.time := by
  unfold modCan setAgainIf; split <;> rfl
@[simp] theorem modCan_ldr (c : Nat) (f : CanCh → CanCh) (s : State) : (modCan c f s).ldr = s.ldr := by
  unfold modCan setAgainIf; split <;> rfl
@[simp] theorem modCan_cal (c : Nat) (f : CanCh → CanCh) (s : State) : (modCan c f s).cal = s.cal := by
  unfold modCan setAgainIf; split <;> rfl
@[simp] theorem modCan_chain (c : Nat) (f : CanCh → CanCh) (s : State) : (modCan c f s).chain = s.chain := by
  unfold modCan setAgainIf; split <;> rfl
@[simp] theorem modCan_nodes (c : Nat) (f : CanCh → CanCh) (s : State) : (modCan c f s).nodes = s.nodes := by
  unfold modCan setAgainIf; split <;> rfl
@[simp] theorem modCan_meas (c : Nat) (f : CanCh → CanCh) (s : State) : (modCan c f s).meas = s.meas := by
  unfold modCan setAgainIf; split <;> rfl
@[simp] theorem modCan_spec (c : Nat) (f : CanCh → CanCh) (s : State) : (modCan c f s).spec = s.spec := by
  unfold modCan setAgainIf; split <;> rfl
@[simp] theorem modCan_est (c : Nat) (f : CanCh → CanCh) (s : State) : (modCan c f s).est = s.est := by
  unfold modCan setAgainIf; split <;> rfl
@[simp] theorem modCan_cells (c : Nat) (f : CanCh → CanCh) (s : State) : (modCan c f s).cells = s.cells := by
  unfold modCan setAgainIf; split <;> rfl
@[simp] theorem modCan_lim (c : Nat) (f : CanCh → CanCh) (s : State) : (modCan c f s).lim = s.lim := by
  unfold modCan setAgainIf; split <;> rfl
@[simp] theorem modCan_lg (c : Nat) (f : CanCh → CanCh) (s : State) : (modCan c f s).lg = s.lg := by
  unfold modCan setAgainIf; split <;> rfl
@[simp] theorem modCan_fab (c : Nat) (f : CanCh → CanCh) (s : State) : (modCan c f s).fab = s.fab := by
  unfold modCan setAgainIf; split <;> rfl
@[simp] theorem modCan_host (c : Nat) (f : CanCh → CanCh) (s : State) : (modCan c f s).host = s.host := by
  unfold modCan setAgainIf; split <;> rfl
@[simp] theorem modCan_fio (c : Nat) (f : CanCh → CanCh) (s : State) : (modCan c f s).fio = s.fio := by
  unfold modCan setAgainIf; split <;> rfl
@[simp] theorem modCan_pw (c : Nat) (f : CanCh → CanCh) (s : State) : (modCan c f s).pw = s.pw := by
  unfold modCan setAgainIf; split <;> rfl
@[simp] theorem modCan_rcd (c : Nat) (f : CanCh → CanCh) (s : State) : (modCan c f s).rcd = s.rcd := by
  unfold modCan setAgainIf; split <;> rfl
@[simp] theorem modCan_upd (c : Nat) (f : CanCh → CanCh) (s : State) : (modCan c f s).upd = s.upd := by
  unfold modCan setAgainIf; split <;> rfl
@[simp] theorem modCan_sent (c : Nat) (f : CanCh → CanCh) (s : State) : (modCan c f s).sent = s.sent := by
  unfold modCan setAgainIf; split <;> rfl
@[simp] theorem modCan_freeCtr (c : Nat) (f : CanCh → CanCh) (s : State) : (modCan c f s).freeCtr = s.freeCtr := by
  unfold modCan setAgainIf; split <;> rfl
@[simp] theorem modIo_time (k : Nat) (f : IoCh → IoCh) (s : State) : (modIo k f s).time = s.time := rfl
@[simp] theorem modIo_ldr (k : Nat) (f : IoCh → IoCh) (s : State) : (modIo k f s).ldr = s.ldr := rfl
@[simp] theorem modIo_cal (k : Nat) (f : IoCh → IoCh) (s : State) : (modIo k f s).cal = s.cal := rfl
@[simp] theorem modIo_chain (k : Nat) (f : IoCh → IoCh) (s : State) : (modIo k f s).chain = s.chain := rfl
@[simp] theorem modIo_nodes (k : Nat) (f : IoCh → IoCh) (s : State) : (modIo k f s).nodes = s.nodes := rfl
@[simp] theorem modIo_meas (k : Nat) (f : IoCh → IoCh) (s : State) : (modIo k f s).meas = s.meas := rfl
@[simp] theorem modIo_spec (k : Nat) (f : IoCh → IoCh) (s : State) : (modIo k f s).spec = s.spec := rfl
@[simp] theorem modIo_est (k : Nat) (f : IoCh → IoCh) (s : State) : (modIo k f s).est = s.est := rfl
@[simp] theorem modIo_cells (k : Nat) (f : IoCh → IoCh) (s : State) : (modIo k f s).cells = s.cells := rfl
@[simp] theorem modIo_lim (k : Nat) (f : IoCh → IoCh) (s : State) : (modIo k f s).lim = s.lim := rfl
@[simp] theorem modIo_lg (k : Nat) (f : IoCh → IoCh) (s : State) : (modIo k f s).lg = s.lg := rfl
@[simp] theorem modIo_fab (k : Nat) (f : IoCh → IoCh) (s : State) : (modIo k f s).fab = s.fab := rfl
@[simp] theorem modIo_host (k : Nat) (f : IoCh → IoCh) (s : State) : (modIo k f s).host = s.host := rfl
@[simp] theorem modIo_can (k : Nat) (f : IoCh → IoCh) (s : State) : (modIo k f s).can = s.can := rfl
@[simp] theorem modIo_pw (k : Nat) (f : IoCh → IoCh) (s : State) : (modIo k f s).pw = s.pw := rfl
@[simp] theorem modIo_rcd (k : Nat) (f : IoCh → IoCh) (s : State) : (modIo k f s).rcd = s.rcd := rfl
@[simp] theorem modIo_upd (k : Nat) (f : IoCh → IoCh) (s : State) : (modIo k f s).upd = s.upd := rfl
@[simp] theorem modIo_mark (k : Nat) (f : IoCh → IoCh) (s : State) : (modIo k f s).mark = s.mark := rfl
@[simp] theorem modIo_sent (k : Nat) (f : IoCh → IoCh) (s : State) : (modIo k f s).sent = s.sent := rfl
@[simp] theorem modIo_freeCtr (k : Nat) (f : IoCh → IoCh) (s : State) : (modIo k f s).freeCtr = s.freeCtr := rfl
@[simp] theorem modLg_time (f : Logic → Logic) (s : State) : (modLg f s).time = s.time := rfl
@[simp] theorem modLg_ldr (f : Logic → Logic) (s : State) : (modLg f s).ldr = s.ldr := rfl
@[simp] theorem modLg_cal (f : Logic → Logic) (s : State) : (modLg f s).cal = s.cal := rfl
@[simp] theorem modLg_chain (f : Logic → Logic) (s : State) : (modLg f s).chain = s.chain := rfl
@[simp] theorem modLg_nodes (f : Logic → Logic) (s : State) : (modLg f s).nodes = s.nodes := rfl
@[simp] theorem modLg_meas (f : Logic → Logic) (s : State) : (modLg f s).meas = s.meas := rfl
@[simp] theorem modLg_spec (f : Logic → Logic) (s : State) : (modLg f s).spec = s.spec := rfl
@[simp] theorem modLg_est (f : Logic → Logic) (s : State) : (modLg f s).est = s.est := rfl
@[simp] theorem modLg_cells (f : Logic → Logic) (s : State) : (modLg f s).cells = s.cells := rfl
@[simp] theorem modLg_lim (f : Logic → Logic) (s : State) : (modLg f s).lim = s.lim := rfl
@[simp] theorem modLg_fab (f : Logic → Logic) (s : State) : (modLg f s).fab = s.fab := rfl
@[simp] theorem modLg_host (f : Logic → Logic) (s : State) : (modLg f s).host = s.host := rfl
@[simp] theorem modLg_can (f : Logic → Logic) (s : State) : (modLg f s).can = s.can := rfl
@[simp] theorem modLg_fio (f : Logic → Logic) (s : State) : (modLg f s).fio = s.fio := rfl
@[simp] theorem modLg_pw (f : Logic → Logic) (s : State) : (modLg f s).pw = s.pw := rfl
@[simp] theorem modLg_rcd (f : Logic → Logic) (s : State) : (modLg f s).rcd = s.rcd := rfl
@[simp] theorem modLg_upd (f : Logic → Logic) (s : State) : (modLg f s).upd = s.upd := rfl
@[simp] theorem modLg_mark (f : Logic → Logic) (s : State) : (modLg f s).mark = s.mark := rfl
@[simp] theorem modLg_sent (f : Logic → Logic) (s : State) : (modLg f s).sent = s.sent := rfl
@[simp] theorem modLg_freeCtr (f : Logic → Logic) (s : State) : (modLg f s).freeCtr = s.freeCtr := rfl
@[simp] theorem modTask_time (t : Nat) (f : TaskSt → TaskSt) (s : State) : (modTask t f s).time = s.time := rfl
@[simp] theorem modTask_ldr (t : Nat) (f : TaskSt → TaskSt) (s : State) : (modTask t f s).ldr = s.ldr := rfl
@[simp] theorem modTask_cal (t : Nat) (f : TaskSt → TaskSt) (s : State) : (modTask t f s).cal = s.cal := rfl
@[simp] theorem modTask_chain (t : Nat) (f : TaskSt → TaskSt) (s : State) : (modTask t f s).chain = s.chain := rfl
@[simp] theorem modTask_nodes (t : Nat) (f : TaskSt → TaskSt) (s : State) : (modTask t f s).nodes = s.nodes := rfl
@[simp] theorem modTask_meas (t : Nat) (f : TaskSt → TaskSt) (s : State) : (modTask t f s).meas = s.meas := rfl
@[simp] theorem modTask_spec (t : Nat) (f : TaskSt → TaskSt) (s : State) : (modTask t f s).spec = s.spec := rfl
@[simp] theorem modTask_est (t : Nat) (f : TaskSt → TaskSt) (s : State) : (modTask t f s).est = s.est := rfl
@[simp] theorem modTask_cells (t : Nat) (f : TaskSt → TaskSt) (s : State) : (modTask t f s).cells = s.cells := rfl
@[simp] theorem modTask_lim (t : Nat) (f : TaskSt → TaskSt) (s : State) : (modTask t f s).lim = s.lim := rfl
@[simp] theorem modTask_fab (t : Nat) (f : TaskSt → TaskSt) (s : State) : (modTask t f s).fab = s.fab := rfl
@[simp] theorem modTask_host (t : Nat) (f : TaskSt → TaskSt) (s : State) : (modTask t f s).host = s.host := rfl
@[simp] theorem modTask_can (t : Nat) (f : TaskSt → TaskSt) (s : State) : (modTask t f s).can = s.can := rfl
@[simp] theorem modTask_fio (t : Nat) (f : TaskSt → TaskSt) (s : State) : (modTask t f s).fio = s.fio := rfl
@[simp] theorem modTask_pw (t : Nat) (f : TaskSt → TaskSt) (s : State) : (modTask t f s).pw = s.pw := rfl
@[simp] theorem modTask_rcd (t : Nat) (f : TaskSt → TaskSt) (s : State) : (modTask t f s).rcd = s.rcd := rfl
@[simp] theorem modTask_upd (t : Nat) (f : TaskSt → TaskSt) (s : State) : (modTask t f s).upd = s.upd := rfl
@[simp] theorem modTask_mark (t : Nat) (f : TaskSt → TaskSt) (s : State) : (modTask t f s).mark = s.mark := rfl
@[simp] theorem modTask_sent (t : Nat) (f : TaskSt → TaskSt) (s : State) : (modTask t f s).sent = s.sent := rfl
@[simp] theorem modTask_freeCtr (t : Nat) (f : TaskSt → TaskSt) (s : State) : (modTask t f s).freeCtr = s.freeCtr := rfl
@[simp] theorem modStn_time (i : Nat) (f : StationSt → StationSt) (s : State) : (modStn i f s).time = s.time := rfl
@[simp] theorem modStn_ldr (i : Nat) (f : StationSt → StationSt) (s : State) : (modStn i f s).ldr = s.ldr := rfl
@[simp] theorem modStn_cal (i : Nat) (f : StationSt → StationSt) (s : State) : (modStn i f s).cal = s.cal := rfl
@[simp] theorem modStn_chain (i : Nat) (f : StationSt → StationSt) (s : State) : (modStn i f s).chain = s.chain := rfl
@[simp] theorem modStn_nodes (i : Nat) (f : StationSt → StationSt) (s : State) : (modStn i f s).nodes = s.nodes := rfl
@[simp] theorem modStn_meas (i : Nat) (f : StationSt → StationSt) (s : State) : (modStn i f s).meas = s.meas := rfl
@[simp] theorem modStn_spec (i : Nat) (f : StationSt → StationSt) (s : State) : (modStn i f s).spec = s.spec := rfl
@[simp] theorem modStn_est (i : Nat) (f : StationSt → StationSt) (s : State) : (modStn i f s).est = s.est := rfl
@[simp] theorem modStn_cells (i : Nat) (f : StationSt → StationSt) (s : State) : (modStn i f s).cells = s.cells := rfl
@[simp] theorem modStn_lim (i : Nat) (f : StationSt → StationSt) (s : State) : (modStn i f s).lim = s.lim := rfl
@[simp] theorem modStn_fab (i : Nat) (f : StationSt → StationSt) (s : State) : (modStn i f s).fab = s.fab := rfl
@[simp] theorem modStn_host (i : Nat) (f : StationSt → StationSt) (s : State) : (modStn i f s).host = s.host := rfl
@[simp] theorem modStn_can (i : Nat) (f : StationSt → StationSt) (s : State) : (modStn i f s).can = s.can := rfl
@[simp] theorem modStn_fio (i : Nat) (f : StationSt → StationSt) (s : State) : (modStn i f s).fio = s.fio := rfl
@[simp] theorem modStn_pw (i : Nat) (f : StationSt → StationSt) (s : State) : (modStn i f s).pw = s.pw := rfl
@[simp] theorem modStn_rcd (i : Nat) (f : StationSt → StationSt) (s : State) : (modStn i f s).rcd = s.rcd := rfl
@[simp] theorem modStn_upd (i : Nat) (f : StationSt → StationSt) (s : State) : (modStn i f s).upd = s.upd := rfl
@[simp] theorem modStn_mark (i : Nat) (f : StationSt → StationSt) (s : State) : (modStn i f s).mark = s.mark := rfl
@[simp] theorem modStn_sent (i : Nat) (f : StationSt → StationSt) (s : State) : (modStn i f s).sent = s.sent := rfl
@[simp] theorem modStn_freeCtr (i : Nat) (f : StationSt → StationSt) (s : State) : (modStn i f s).freeCtr = s.freeCtr := rfl
@[simp] theorem modPw_time (f : Pw → Pw) (s : State) : (modPw f s).time = s.time := rfl
@[simp] theorem modPw_ldr (f : Pw → Pw) (s : State) : (modPw f s).ldr = s.ldr := rfl
@[simp] theorem modPw_cal (f : Pw → Pw) (s : State) : (modPw f s).cal = s.cal := rfl
@[simp] theorem modPw_chain (f : Pw → Pw) (s : State) : (modPw f s).chain = s.chain := rfl
@[simp] theorem modPw_nodes (f : Pw → Pw) (s : State) : (modPw f s).nodes = s.nodes := rfl
@[simp] theorem modPw_meas (f : Pw → Pw) (s : State) : (modPw f s).meas = s.meas := rfl
@[simp] theorem modPw_spec (f : Pw → Pw) (s : State) : (modPw f s).spec = s.spec := rfl
@[simp] theorem modPw_est (f : Pw → Pw) (s : State) : (modPw f s).est = s.est := rfl
@[simp] theorem modPw_cells (f : Pw → Pw) (s : State) : (modPw f s).cells = s.cells := rfl
@[simp] theorem modPw_lim (f : Pw → Pw) (s : State) : (modPw f s).lim = s.lim := rfl
@[simp] theorem modPw_lg (f : Pw → Pw) (s : State) : (modPw f s).lg = s.lg := rfl
@[simp] theorem modPw_fab (f : Pw → Pw) (s : State) : (modPw f s).fab = s.fab := rfl
@[simp] theorem modPw_host (f : Pw → Pw) (s : State) : (modPw f s).host = s.host := rfl
@[simp] theorem modPw_can (f : Pw → Pw) (s : State) : (modPw f s).can = s.can := rfl
@[simp] theorem modPw_fio (f : Pw → Pw) (s : State) : (modPw f s).fio = s.fio := rfl
@[simp] theorem modPw_rcd (f : Pw → Pw) (s : State) : (modPw f s).rcd = s.rcd := rfl
@[simp] theorem modPw_upd (f : Pw → Pw) (s : State) : (modPw f s).upd = s.upd := rfl
@[simp] theorem modPw_mark (f : Pw → Pw) (s : State) : (modPw f s).mark = s.mark := rfl
@[simp] theorem modPw_sent (f : Pw → Pw) (s : State) : (modPw f s).sent = s.sent := rfl
@[simp] theorem modPw_freeCtr (f : Pw → Pw) (s : State) : (modPw f s).freeCtr = s.freeCtr := rfl
@[simp] theorem bumpNonce_time (s : State) : (bumpNonce s).time = s.time := rfl
@[simp] theorem bumpNonce_ldr (s : State) : (bumpNonce s).ldr = s.ldr := rfl
@[simp] theorem bumpNonce_cal (s : State) : (bumpNonce s).cal = s.cal := rfl
@[simp] theorem bumpNonce_chain (s : State) : (bumpNonce s).chain = s.chain := rfl
@[simp] theorem bumpNonce_nodes (s : State) : (bumpNonce s).nodes = s.nodes := rfl
@[simp] theorem bumpNonce_meas (s : State) : (bumpNonce s).meas = s.meas := rfl
@[simp] theorem bumpNonce_spec (s : State) : (bumpNonce s).spec = s.spec := rfl
@[simp] theorem bumpNonce_est (s : State) : (bumpNonce s).est = s.est := rfl
@[simp] theorem bumpNonce_cells (s : State) : (bumpNonce s).cells = s.cells := rfl
@[simp] theorem bumpNonce_lim (s : State) : (bumpNonce s).lim = s.lim := rfl
@[simp] theorem bumpNonce_lg (s : State) : (bumpNonce s).lg = s.lg := rfl
@[simp] theorem bumpNonce_fab (s : State) : (bumpNonce s).fab = s.fab := rfl
@[simp] theorem bumpNonce_host (s : State) : (bumpNonce s).host = s.host := rfl
@[simp] theorem bumpNonce_can (s : State) : (bumpNonce s).can = s.can := rfl
@[simp] theorem bumpNonce_fio (s : State) : (bumpNonce s).fio = s.fio := rfl
@[simp] theorem bumpNonce_rcd (s : State) : (bumpNonce s).rcd = s.rcd := rfl
@[simp] theorem bumpNonce_upd (s : State) : (bumpNonce s).upd = s.upd := rfl
@[simp] theorem bumpNonce_mark (s : State) : (bumpNonce s).mark = s.mark := rfl
@[simp] theorem bumpNonce_sent (s : State) : (bumpNonce s).sent = s.sent := rfl
@[simp] theorem bumpNonce_freeCtr (s : State) : (bumpNonce s).freeCtr = s.freeCtr := rfl
@[simp] theorem setWatch_time (r : WatchRun) (s : State) : (setWatch r s).time = s.time := rfl
@[simp] theorem setWatch_ldr (r : WatchRun) (s : State) : (setWatch r s).ldr = s.ldr := rfl
@[simp] theorem setWatch_cal (r : WatchRun) (s : State) : (setWatch r s).cal = s.cal := rfl
@[simp] theorem setWatch_chain (r : WatchRun) (s : State) : (setWatch r s).chain = s.chain := rfl
@[simp] theorem setWatch_nodes (r : WatchRun) (s : State) : (setWatch r s).nodes = s.nodes := rfl
@[simp] theorem setWatch_meas (r : WatchRun) (s : State) : (setWatch r s).meas = s.meas := rfl
@[simp] theorem setWatch_spec (r : WatchRun) (s : State) : (setWatch r s).spec = s.spec := rfl
@[simp] theorem setWatch_est (r : WatchRun) (s : State) : (setWatch r s).est = s.est := rfl
@[simp] theorem setWatch_cells (r : WatchRun) (s : State) : (setWatch r s).cells = s.cells := rfl
@[simp] theorem setWatch_lim (r : WatchRun) (s : State) : (setWatch r s).lim = s.lim := rfl
@[simp] theorem setWatch_lg (r : WatchRun) (s : State) : (setWatch r s).lg = s.lg := rfl
@[simp] theorem setWatch_fab (r : WatchRun) (s : State) : (setWatch r s).fab = s.fab := rfl
@[simp] theorem setWatch_host (r : WatchRun) (s : State) : (setWatch r s).host = s.host := rfl
@[simp] theorem setWatch_can (r : WatchRun) (s : State) : (setWatch r s).can = s.can := rfl
@[simp] theorem setWatch_fio (r : WatchRun) (s : State) : (setWatch r s).fio = s.fio := rfl
@[simp] theorem setWatch_rcd (r : WatchRun) (s : State) : (setWatch r s).rcd = s.rcd := rfl
@[simp] theorem setWatch_upd (r : WatchRun) (s : State) : (setWatch r s).upd = s.upd := rfl
@[simp] theorem setWatch_mark (r : WatchRun) (s : State) : (setWatch r s).mark = s.mark := rfl
@[simp] theorem setWatch_sent (r : WatchRun) (s : State) : (setWatch r s).sent = s.sent := rfl
@[simp] theorem setWatch_freeCtr (r : WatchRun) (s : State) : (setWatch r s).freeCtr = s.freeCtr := rfl
@[simp] theorem modUpd_time (f : Upd → Upd) (s : State) : (modUpd f s).time = s.time := rfl
@[simp] theorem modUpd_ldr (f : Upd → Upd) (s : State) : (modUpd f s).ldr = s.ldr := rfl
@[simp] theorem modUpd_cal (f : Upd → Upd) (s : State) : (modUpd f s).cal = s.cal := rfl
@[simp] theorem modUpd_chain (f : Upd → Upd) (s : State) : (modUpd f s).chain = s.chain := rfl
@[simp] theorem modUpd_nodes (f : Upd → Upd) (s : State) : (modUpd f s).nodes = s.nodes := rfl
@[simp] theorem modUpd_meas (f : Upd → Upd) (s : State) : (modUpd f s).meas = s.meas := rfl
@[simp] theorem modUpd_spec (f : Upd → Upd) (s : State) : (modUpd f s).spec = s.spec := rfl
@[simp] theorem modUpd_est (f : Upd → Upd) (s : State) : (modUpd f s).est = s.est := rfl
@[simp] theorem modUpd_cells (f : Upd → Upd) (s : State) : (modUpd f s).cells = s.cells := rfl
@[simp] theorem modUpd_lim (f : Upd → Upd) (s : State) : (modUpd f s).lim = s.lim := rfl
@[simp] theorem modUpd_lg (f : Upd → Upd) (s : State) : (modUpd f s).lg = s.lg := rfl
@[simp] theorem modUpd_fab (f : Upd → Upd) (s : State) : (modUpd f s).fab = s.fab := rfl
@[simp] theorem modUpd_host (f : Upd → Upd) (s : State) : (modUpd f s).host = s.host := rfl
@[simp] theorem modUpd_can (f : Upd → Upd) (s : State) : (modUpd f s).can = s.can := rfl
@[simp] theorem modUpd_fio (f : Upd → Upd) (s : State) : (modUpd f s).fio = s.fio := rfl
@[simp] theorem modUpd_pw (f : Upd → Upd) (s : State) : (modUpd f s).pw = s.pw := rfl
@[simp] theorem modUpd_rcd (f : Upd → Upd) (s : State) : (modUpd f s).rcd = s.rcd := rfl
@[simp] theorem modUpd_mark (f : Upd → Upd) (s : State) : (modUpd f s).mark = s.mark := rfl
@[simp] theorem modUpd_sent (f : Upd → Upd) (s : State) : (modUpd f s).sent = s.sent := rfl
@[simp] theorem modUpd_freeCtr (f : Upd → Upd) (s : State) : (modUpd f s).freeCtr = s.freeCtr := rfl
@[simp] theorem modUpSess_time (i : Fin 32) (f : UpSess → UpSess) (s : State) : (modUpSess i f s).time = s.time := rfl
@[simp] theorem modUpSess_ldr (i : Fin 32) (f : UpSess → UpSess) (s : State) : (modUpSess i f s).ldr = s.ldr := rfl
@[simp] theorem modUpSess_cal (i : Fin 32) (f : UpSess → UpSess) (s : State) : (modUpSess i f s).cal = s.cal := rfl
@[simp] theorem modUpSess_chain (i : Fin 32) (f : UpSess → UpSess) (s : State) : (modUpSess i f s).chain = s.chain := rfl
@[simp] theorem modUpSess_nodes (i : Fin 32) (f : UpSess → UpSess) (s : State) : (modUpSess i f s).nodes = s.nodes := rfl
@[simp] theorem modUpSess_meas (i : Fin 32) (f : UpSess → UpSess) (s : State) : (modUpSess i f s).meas = s.meas := rfl
@[simp] theorem modUpSess_spec (i : Fin 32) (f : UpSess → UpSess) (s : State) : (modUpSess i f s).spec = s.spec := rfl
@[simp] theorem modUpSess_est (i : Fin 32) (f : UpSess → UpSess) (s : State) : (modUpSess i f s).est = s.est := rfl
@[simp] theorem modUpSess_cells (i : Fin 32) (f : UpSess → UpSess) (s : State) : (modUpSess i f s).cells = s.cells := rfl
@[simp] theorem modUpSess_lim (i : Fin 32) (f : UpSess → UpSess) (s : State) : (modUpSess i f s).lim = s.lim := rfl
@[simp] theorem modUpSess_lg (i : Fin 32) (f : UpSess → UpSess) (s : State) : (modUpSess i f s).lg = s.lg := rfl
@[simp] theorem modUpSess_fab (i : Fin 32) (f : UpSess → UpSess) (s : State) : (modUpSess i f s).fab = s.fab := rfl
@[simp] theorem modUpSess_host (i : Fin 32) (f : UpSess → UpSess) (s : State) : (modUpSess i f s).host = s.host := rfl
@[simp] theorem modUpSess_can (i : Fin 32) (f : UpSess → UpSess) (s : State) : (modUpSess i f s).can = s.can := rfl
@[simp] theorem modUpSess_fio (i : Fin 32) (f : UpSess → UpSess) (s : State) : (modUpSess i f s).fio = s.fio := rfl
@[simp] theorem modUpSess_pw (i : Fin 32) (f : UpSess → UpSess) (s : State) : (modUpSess i f s).pw = s.pw := rfl
@[simp] theorem modUpSess_rcd (i : Fin 32) (f : UpSess → UpSess) (s : State) : (modUpSess i f s).rcd = s.rcd := rfl
@[simp] theorem modUpSess_mark (i : Fin 32) (f : UpSess → UpSess) (s : State) : (modUpSess i f s).mark = s.mark := rfl
@[simp] theorem modUpSess_sent (i : Fin 32) (f : UpSess → UpSess) (s : State) : (modUpSess i f s).sent = s.sent := rfl
@[simp] theorem modUpSess_freeCtr (i : Fin 32) (f : UpSess → UpSess) (s : State) : (modUpSess i f s).freeCtr = s.freeCtr
    := rfl
@[simp] theorem modLdr_time (f : Ldr → Ldr) (s : State) : (modLdr f s).time = s.time := rfl
@[simp] theorem modLdr_cal (f : Ldr → Ldr) (s : State) : (modLdr f s).cal = s.cal := rfl
@[simp] theorem modLdr_chain (f : Ldr → Ldr) (s : State) : (modLdr f s).chain = s.chain := rfl
@[simp] theorem modLdr_nodes (f : Ldr → Ldr) (s : State) : (modLdr f s).nodes = s.nodes := rfl
@[simp] theorem modLdr_meas (f : Ldr → Ldr) (s : State) : (modLdr f s).meas = s.meas := rfl
@[simp] theorem modLdr_spec (f : Ldr → Ldr) (s : State) : (modLdr f s).spec = s.spec := rfl
@[simp] theorem modLdr_est (f : Ldr → Ldr) (s : State) : (modLdr f s).est = s.est := rfl
@[simp] theorem modLdr_cells (f : Ldr → Ldr) (s : State) : (modLdr f s).cells = s.cells := rfl
@[simp] theorem modLdr_lim (f : Ldr → Ldr) (s : State) : (modLdr f s).lim = s.lim := rfl
@[simp] theorem modLdr_lg (f : Ldr → Ldr) (s : State) : (modLdr f s).lg = s.lg := rfl
@[simp] theorem modLdr_fab (f : Ldr → Ldr) (s : State) : (modLdr f s).fab = s.fab := rfl
@[simp] theorem modLdr_host (f : Ldr → Ldr) (s : State) : (modLdr f s).host = s.host := rfl
@[simp] theorem modLdr_can (f : Ldr → Ldr) (s : State) : (modLdr f s).can = s.can := rfl
@[simp] theorem modLdr_fio (f : Ldr → Ldr) (s : State) : (modLdr f s).fio = s.fio := rfl
@[simp] theorem modLdr_pw (f : Ldr → Ldr) (s : State) : (modLdr f s).pw = s.pw := rfl
@[simp] theorem modLdr_rcd (f : Ldr → Ldr) (s : State) : (modLdr f s).rcd = s.rcd := rfl
@[simp] theorem modLdr_upd (f : Ldr → Ldr) (s : State) : (modLdr f s).upd = s.upd := rfl
@[simp] theorem modLdr_mark (f : Ldr → Ldr) (s : State) : (modLdr f s).mark = s.mark := rfl
@[simp] theorem modLdr_sent (f : Ldr → Ldr) (s : State) : (modLdr f s).sent = s.sent := rfl
@[simp] theorem modLdr_freeCtr (f : Ldr → Ldr) (s : State) : (modLdr f s).freeCtr = s.freeCtr := rfl

@[simp] theorem fresh_sent (s : State) : (fresh s).sent = [] := rfl
@[simp] theorem put_sent (e : Emit) (s : State) : (put e s).sent = s.sent ++ [e] := rfl
@[simp] theorem tookFree_freeCtr (k : Nat) (s : State) : (tookFree k s).freeCtr = s.freeCtr + k := rfl
@[simp] theorem atTick_time (t : Nat) (s : State) : (atTick t s).time = { s.time with ns := t * 2500 } := rfl
@[simp] theorem modLg_lg (f : Logic → Logic) (s : State) : (modLg f s).lg = f s.lg := rfl
@[simp] theorem modFab_fab (f : Fab → Fab) (s : State) : (modFab f s).fab = f s.fab := rfl
@[simp] theorem modPw_pw (f : Pw → Pw) (s : State) : (modPw f s).pw = f s.pw := rfl
@[simp] theorem modUpd_upd (f : Upd → Upd) (s : State) : (modUpd f s).upd = f s.upd := rfl
@[simp] theorem modLdr_ldr (f : Ldr → Ldr) (s : State) : (modLdr f s).ldr = f s.ldr := rfl
@[simp] theorem modCan_can (c : Nat) (f : CanCh → CanCh) (s : State) : (modCan c f s).can = updNat s.can c f := by
  unfold modCan setAgainIf; split <;> rfl
@[simp] theorem modPair_fab (f : Pair → Pair) (s : State) : (modPair f s).fab = { s.fab with pair := f s.fab.pair } := rfl
@[simp] theorem toMode_st (m : Mode) (n : Nat) (s : State) :
    (toMode m n s).st = { mode := m, prev := s.st.mode.code, changes := satAdd s.st.changes 1 65535 } := rfl

/-! ### Vectors by number -/

theorem updNat_of_lt {α : Type} {n : Nat} (v : Vector α n) {i : Nat} (h : i < n) (f : α → α) :
    updNat v i f = v.set i (f v[i]) := by
  simp [updNat, updAt, h]
theorem updNat_of_ge {α : Type} {n : Nat} (v : Vector α n) {i : Nat} (h : n ≤ i) (f : α → α) : updNat v i f = v := by
  simp [updNat, Nat.not_lt.mpr h]
theorem getNat_of_lt {α : Type} [Inhabited α] {n : Nat} (v : Vector α n) {i : Nat} (h : i < n) : getNat v i = v[i] := by
  simp [getNat, h]
theorem getNat_updNat_same {α : Type} [Inhabited α] {n : Nat} (v : Vector α n) {i : Nat} (h : i < n) (f : α → α) :
    getNat (updNat v i f) i = f (getNat v i) := by
  simp [updNat, updAt, getNat, h]
theorem getNat_updNat_other {α : Type} [Inhabited α] {n : Nat} (v : Vector α n) {i j : Nat} (h : j ≠ i) (f : α → α) :
    getNat (updNat v i f) j = getNat v j := by
  by_cases hi : i < n <;> by_cases hj : j < n <;> simp [updNat, updAt, getNat, hi, hj, Vector.getElem_set, Ne.symm h]
theorem getNat_mapAll {α β : Type} [Inhabited α] [Inhabited β] {n : Nat} (v : Vector α n) (f : Nat → α → β) {i : Nat}
    (h : i < n) : getNat (mapAll v f) i = f i (getNat v i) := by
  simp [mapAll, getNat, h]

end Sys2Proof.Machine
end

