-- ==== Sys2Proof/Laws/Access.lean ====
section
/-! SUPPORT. What one host access does: a single write that a session may make is the write of its register's block and
one response. -/

namespace Sys2Proof.Machine

/-- The state a single access of a session works on: the output list is empty and the session's idle time is 0. -/
def accessed (i : Fin 32) (s : State) : State := modSess i (fun x => { x with idle := 0 }) (fresh s)

theorem accessed_eq (i : Fin 32) (s : State) : accessed i s = modSess i (fun x => { x with idle := 0 }) (fresh s) := rfl

@[simp] theorem awake_fresh (s : State) : awake (fresh s) = awake s := rfl

/-- A single access of a session that may make it is its function on the accessed state. -/
theorem access_of_may {i : Fin 32} {s : State} (h : MayAccess i s) (op a : Nat) (f : State → State) :
    access i op a f (fresh s) = f (accessed i s) := by
  obtain ⟨h1, h2, h3⟩ := h
  simp only [access, awake_fresh, h1, fresh_host, h2, h3, accessed]
  simp

/-- A word for a register without W1C bits stays as it is. -/
theorem keepFresh_of_none {a : Nat} (h : w1cTable.findIdx? (fun r => r.1 == a) = none) (v : Word) (s : State) :
    keepFresh a v s = v := by
  simp only [keepFresh, setThisTick, h, toW]
  exact BitVec.and_allOnes

/-- A single write outside SAFE is its block's write, and its response follows unless a state command makes it wait. -/
theorem writeCmd_of_may {i : Fin 32} {s : State} (h : MayWrite i s) {a : Nat} {b : Blk} {o : Nat} (h4 : a % 4 = 0)
    (hb : blockOf a = some (b, o)) (v : Word) :
    writeCmd i a v s =
      let w := blockWrite i none b o (keepFresh a v (accessed i s)) (accessed i s)
      .next (if w.2.host.sess[i].outstanding then w.2 else respond (directRsp i 4 w.1 a []) w.2) := by
  have hm : ¬ ((accessed i s).st.mode = .safe ∧ safeOk a v (accessed i s) = false) := fun hx => h.2 hx.1
  simp only [writeCmd, hostWrite, access_of_may h.1, writeWord, h4, hb]
  simp only [ne_eq, not_true_eq_false, if_false, hm]

/-- The same, where the block's write is known and leaves no request outstanding. -/
theorem writes_of_may {i : Fin 32} {s x : State} {P : State → Prop} (h : MayWrite i s) {a : Nat} {b : Blk} {o : Nat}
    (h4 : a % 4 = 0) (hb : blockOf a = some (b, o)) {v : Word} {c : RspCode}
    (hw : blockWrite i none b o (keepFresh a v (accessed i s)) (accessed i s) = (c, x))
    (ho : x.host.sess[i].outstanding = false) (hp : P (put (.rsp (directRsp i 4 c a [])) x)) :
    ∃ t, writeCmd i a v s = .next t ∧ P t := by
  refine ⟨_, writeCmd_of_may h h4 hb v, ?_⟩
  rw [hw]
  simp only [ho, Bool.false_eq_true, if_false]
  exact hp

end Sys2Proof.Machine
end

