-- ==== Sys2Proof/Laws/FramePending.lean ====
section
/-! SUPPORT. One lemma per operation of the machine about the queue of commands that wait: no shared operation touches it. -/

namespace Sys2Proof.Machine

/-! ### Ops -/

@[simp] theorem markTick_pending (s : State) : (markTick s).pending = s.pending := by rfl
@[simp] theorem setAgain_pending (a bits : Nat) (s : State) : (setAgain a bits s).pending = s.pending := by rfl
@[simp] theorem setAgainIf_pending (c : Bool) (a bits : Nat) (s : State) : (setAgainIf c a bits s).pending = s.pending
    := by
  unfold setAgainIf
  (repeat' split) <;> rfl
@[simp] theorem fresh_pending (s : State) : (fresh s).pending = s.pending := by rfl
@[simp] theorem put_pending (e : Emit) (s : State) : (put e s).pending = s.pending := by rfl
@[simp] theorem emitFab_pending (mac : Option Nat) (kind dst seq beat : Nat) (stamp : Option Nat) (ports : Nat)
    (payload : List Byte) (s : State) : (emitFab mac kind dst seq beat stamp ports payload s).pending = s.pending :=
    by
  unfold emitFab
  (repeat' split) <;> rfl
@[simp] theorem sendFab_pending (mac : Option Nat) (kind dst beat : Nat) (stamp : Option Nat) (ports : Nat) (payload :
    List Byte) (s : State) : (sendFab mac kind dst beat stamp ports payload s).pending = s.pending := by simp
    [sendFab]
@[simp] theorem tookFree_pending (k : Nat) (s : State) : (tookFree k s).pending = s.pending := by rfl
@[simp] theorem takeTurn_pending (x : Turn) (s : State) : (takeTurn x s).pending = s.pending := by rfl
@[simp] theorem atTick_pending (t : Nat) (s : State) : (atTick t s).pending = s.pending := by rfl
@[simp] theorem actAt_pending (x : Turn) (t : Nat) (s : State) : (actAt x t s).pending = s.pending := by rfl
@[simp] theorem atNs_pending (ns : Nat) (s : State) : (atNs ns s).pending = s.pending := by rfl
@[simp] theorem recEvent_pending (code chan : Nat) (p : List Word) (s : State) : (recEvent code chan p s).pending =
    s.pending := by rfl
@[simp] theorem jnl_pending (code session : Nat) (payload : List Word) (s : State) : (jnl code session payload
    s).pending = s.pending := by rfl
@[simp] theorem toMode_pending (m : Mode) (tno : Nat) (s : State) : (toMode m tno s).pending = s.pending := by rfl

/-! ### Queues -/

@[simp] theorem modQueue_pending (q : Nat) (f : Queue → Queue) (s : State) : (modQueue q f s).pending = s.pending :=
    by rfl
@[simp] theorem offerContent_pending (content : Nat) (words : List Word) (s : State) : (offerContent content words
    s).pending = s.pending := by
  unfold offerContent
  repeat' split
  all_goals first
    | rfl
    | exact foldl_pending _ (fun s _ => by (repeat' split) <;> first | rfl | simp) _ _
    | (refine (foldl_pending _ (fun s _ => by (repeat' split) <;> first | rfl | simp) _ _).trans ?_; simp)
    | simp
@[simp] theorem queueCtrl_pending (i : Fin 32) (q : Nat) (v : Word) (s : State) : (queueCtrl i q v s).2.pending =
    s.pending := by
  unfold queueCtrl
  repeat' split
  all_goals first
    | rfl
    | exact foldl_pending _ (fun s _ => by (repeat' split) <;> first | rfl | simp) _ _
    | (refine (foldl_pending _ (fun s _ => by (repeat' split) <;> first | rfl | simp) _ _).trans ?_; simp)
    | simp
@[simp] theorem queuesWrite_pending (i : Fin 32) (o : Nat) (v : Word) (s : State) : (queuesWrite i o v s).2.pending =
    s.pending := by
  unfold queuesWrite
  repeat' split
  all_goals first | rfl | simp
@[simp] theorem releaseClaims_pending (i : Fin 32) (s : State) : (releaseClaims i s).pending = s.pending := by rfl

/-! ### Jobs -/

@[simp] theorem modJob_pending (j : Nat) (f : Job → Job) (s : State) : (modJob j f s).pending = s.pending := by rfl
@[simp] theorem jobStart_pending (i : Fin 32) (j kind : Nat) (s : State) : (jobStart i j kind s).pending = s.pending
    := by
    rfl
@[simp] theorem jobEnd_pending (j : Nat) (st : JobSt) (detail : Nat) (s : State) : (jobEnd j st detail s).pending =
    s.pending := by rfl
@[simp] theorem jobRefuse_pending (i : Fin 32) (j kind detail : Nat) (s : State) : (jobRefuse i j kind detail
    s).pending = s.pending := by rfl
@[simp] theorem jobCommitted_pending (j : Nat) (s : State) : (jobCommitted j s).pending = s.pending := by rfl
@[simp] theorem jobClearWrite_pending (j : Nat) (s : State) : (jobClearWrite j s).2.pending = s.pending := by
  unfold jobClearWrite
  (repeat' split) <;> rfl
@[simp] theorem jobArgWrite_pending (j : Nat) (v : Word) (s : State) : (jobArgWrite j v s).2.pending = s.pending := by
  unfold jobArgWrite
  (repeat' split) <;> rfl

/-! ### Records -/

@[simp] theorem bumpNonce_pending (s : State) : (bumpNonce s).pending = s.pending := by rfl
@[simp] theorem storeRec_pending (e : RecEvent) (s : State) : (storeRec e s).pending = s.pending := by
  unfold storeRec
  dsimp only
  (repeat' split) <;> first | rfl | (simp; done)
@[simp] theorem formRec_pending (e : RecEvent) (s : State) : (formRec e s).pending = s.pending := by
  unfold formRec
  dsimp only
  (repeat' split) <;> first | rfl | (simp; done)
@[simp] theorem storeJnl_pending (w : List Word) (s : State) : (storeJnl w s).pending = s.pending := by
  unfold storeJnl
  (repeat' split) <;> rfl
@[simp] theorem formJnl_pending (e : JnlEvent) (s : State) : (formJnl e s).pending = s.pending := by
  unfold formJnl
  dsimp only
  (repeat' split) <;> first | rfl | (simp; done)
@[simp] theorem flushHeld_pending (s : State) : (flushHeld s).pending = s.pending := by
  unfold flushHeld
  dsimp only
  refine (foldl_pending _ (fun s _ => by simp) _ _).trans ?_
  exact (foldl_pending _ (fun s _ => by simp) _ _).trans rfl
@[simp] theorem freezeEnd_pending (s : State) : (freezeEnd s).pending = s.pending := by
  unfold freezeEnd
  dsimp only
  (repeat' split) <;> first | rfl | (simp; done)
@[simp] theorem freezeStart_pending (i : Fin 32) (s : State) : (freezeStart i s).2.pending = s.pending := by
  unfold freezeStart
  (repeat' split) <;> rfl
@[simp] theorem rcCtrlWrite_pending (i : Fin 32) (v : Word) (s : State) : (rcCtrlWrite i v s).2.pending = s.pending :=
    by
    unfold rcCtrlWrite; dsimp only; (repeat' split) <;> first | rfl | (simp; done)
@[simp] theorem setCrown_pending (i : Fin 32) (released : Bool) (signer : Nat) (s : State) : (setCrown i released
    signer s).pending = s.pending := by
  unfold setCrown
  (repeat' split) <;> rfl
@[simp] theorem crownWrite_pending (i : Fin 32) (v : Word) (s : State) : (crownWrite i v s).2.pending = s.pending :=
    by
  unfold crownWrite
  dsimp only
  (repeat' split) <;> first | rfl | (simp; done)
@[simp] theorem clearStart_pending (i : Fin 32) (j : Fin 8) (s : State) : (clearStart i j s).pending = s.pending := by
  unfold clearStart
  dsimp only
  (repeat' split) <;> first | rfl | (simp; done)
@[simp] theorem clearRecorder_pending (slot : Nat) (s : State) : (clearRecorder slot s).pending = s.pending := by rfl
@[simp] theorem clearJournal_pending (session slot : Nat) (s : State) : (clearJournal session slot s).pending =
    s.pending := by simp [clearJournal]
@[simp] theorem clearDone_pending (s : State) : (clearDone s).pending = s.pending := by
  unfold clearDone
  dsimp only
  (repeat' split) <;> first | rfl | (simp; done)
@[simp] theorem recordsWrite_pending (i : Fin 32) (o : Nat) (v : Word) (s : State) : (recordsWrite i o v s).2.pending
    = s.pending := by
  unfold recordsWrite
  dsimp only
  (repeat' split) <;> first | rfl | (simp; done)

/-! ### Timing -/

@[simp] theorem modEngine_pending (e : Nat) (f : Engine → Engine) (s : State) : (modEngine e f s).pending = s.pending
    := by
    rfl
@[simp] theorem releaseItem_pending (k : Nat) (s : State) : (releaseItem k s).pending = s.pending := by
  unfold releaseItem
  (repeat' split) <;> rfl
@[simp] theorem overrun_pending (e : Nat) (item : Option Nat) (s : State) : (overrun e item s).pending = s.pending :=
    by
  unfold overrun
  dsimp only
  (repeat' split) <;> first | rfl | (simp; done)
@[simp] theorem stopItem_pending (k cycles : Nat) (s : State) : (stopItem k cycles s).pending = s.pending := by
  unfold stopItem
  repeat' split
  all_goals first
    | rfl
    | exact foldl_pending _ (fun s _ => by (repeat' split) <;> first | rfl | simp) _ _
    | (refine (foldl_pending _ (fun s _ => by (repeat' split) <;> first | rfl | simp) _ _).trans ?_; simp)
    | simp
@[simp] theorem stopLate_pending (s : State) (x : Nat × Nat) : (stopLate s x).pending = s.pending := by simp [stopLate]
@[simp] theorem stopReleased_pending (s : State) : (stopReleased s).pending = s.pending := by
  unfold stopReleased
  repeat' split
  all_goals first
    | rfl
    | exact foldl_pending _ (fun s _ => by (repeat' split) <;> first | rfl | simp) _ _
    | (refine (foldl_pending _ (fun s _ => by (repeat' split) <;> first | rfl | simp) _ _).trans ?_; simp)
    | simp
@[simp] theorem escapementBeat_pending (s : State) : (escapementBeat s).pending = s.pending := by
  unfold escapementBeat
  (repeat' split) <;> rfl
@[simp] theorem releaseAtZero_pending (s : State) : (releaseAtZero s).pending = s.pending := by
  unfold releaseAtZero
  repeat' split
  all_goals first
    | rfl
    | exact foldl_pending _ (fun s _ => by (repeat' split) <;> first | rfl | simp) _ _
    | (refine (foldl_pending _ (fun s _ => by (repeat' split) <;> first | rfl | simp) _ _).trans ?_; simp)
    | simp
@[simp] theorem modDom_pending (d : Fin 2) (f : Dom → Dom) (s : State) : (modDom d f s).pending = s.pending := by rfl
@[simp] theorem judgeSync_pending (s : State) : (judgeSync s).pending = s.pending := by rfl
@[simp] theorem nodesShift_pending (d : Int) (s : State) : (nodesShift d s).pending = s.pending := by rfl
@[simp] theorem rebeat_pending (b b' : Nat) (s : State) : (rebeat b b' s).pending = s.pending := by rfl
@[simp] theorem stepClock_pending (offset : Int) (s : State) : (stepClock offset s).pending = s.pending := by rfl
@[simp] theorem correct_pending (s : State) : (correct s).pending = s.pending := by
  unfold correct
  dsimp only
  (repeat' split) <;> first | rfl | (simp; done)
@[simp] theorem syncMeasured_pending (d : Fin 2) (off : Int) (gm : Nat) (s : State) : (syncMeasured d off gm
    s).pending = s.pending := by rfl
@[simp] theorem selectGm_pending (d : Fin 2) (s : State) : (selectGm d s).pending = s.pending := by rfl
@[simp] theorem endSwitch_pending (s : State) : (endSwitch s).pending = s.pending := by rfl
@[simp] theorem steerTo_pending (d : Fin 2) (s : State) : (steerTo d s).pending = s.pending := by simp [steerTo]
@[simp] theorem fireTrig_pending (k : Fin 4) (s : State) : (fireTrig k s).pending = s.pending := by rfl
@[simp] theorem trigWrite_pending (k : Fin 4) (w : Nat) (v : Word) (s : State) : (trigWrite k w v s).2.pending =
    s.pending := by
  unfold trigWrite
  dsimp only
  (repeat' split) <;> first | rfl | (simp; done)
@[simp] theorem modTsq_pending (p : Fin 3) (f : Tsq → Tsq) (s : State) : (modTsq p f s).pending = s.pending := by rfl
@[simp] theorem probeWrite_pending (v : Word) (s : State) : (probeWrite v s).pending = s.pending := by
  unfold probeWrite
  repeat' split
  all_goals first
    | rfl
    | exact foldl_pending _ (fun s _ => by (repeat' split) <;> first | rfl | simp) _ _
    | (refine (foldl_pending _ (fun s _ => by (repeat' split) <;> first | rfl | simp) _ _).trans ?_; simp)
    | simp
@[simp] theorem timeCtrlWrite_pending (v : Word) (s : State) : (timeCtrlWrite v s).2.pending = s.pending := by
  unfold timeCtrlWrite
  dsimp only
  (repeat' split) <;> first | rfl | (simp; done)
@[simp] theorem timeWrite_pending (o : Nat) (v : Word) (s : State) : (timeWrite o v s).2.pending = s.pending := by
  unfold timeWrite
  dsimp only
  (repeat' split) <;> first | rfl | (simp; done)

/-! ### Nodes -/

@[simp] theorem modNode_pending (line hop : Nat) (f : NodeS → NodeS) (s : State) : (modNode line hop f s).pending =
    s.pending := by rfl
@[simp] theorem applyReached_pending (line : Nat) (d : End) (f : NodeS → NodeS) (s : State) : (applyReached line d f
    s).pending = s.pending := by rfl
@[simp] theorem nodeCommand_pending (line : Nat) (d : End) (addr claim : Nat) (c : NodeCmd) (s : State) : (nodeCommand
    line d addr claim c s).pending = s.pending := by rfl
@[simp] theorem nodeBroadcast_pending (line : Nat) (d : End) (claim : Nat) (c : NodeCmd) (s : State) : (nodeBroadcast
    line d claim c s).pending = s.pending := by rfl
@[simp] theorem nodesAssign_pending (line : Nat) (d : End) (claim addr : Nat) (s : State) : (nodesAssign line d claim
    addr s).pending = s.pending := by
  unfold nodesAssign
  (repeat' split) <;> rfl
@[simp] theorem nodesReassign_pending (line : Nat) (d : End) (claim addr uid : Nat) (s : State) : (nodesReassign line
    d claim addr uid s).pending = s.pending := by rfl
@[simp] theorem afterSpan_pending (line hop : Nat) (mark : NodeS → Int) (span : Nat) (f : NodeS → NodeS) (s : State) :
    (afterSpan line hop mark span f s).pending = s.pending := by
  unfold afterSpan
  (repeat' split) <;> rfl

/-! ### Chain -/

@[simp] theorem modLine_pending (l : Nat) (f : Line → Line) (s : State) : (modLine l f s).pending = s.pending := by rfl
@[simp] theorem modRec_pending (a : Nat) (f : NodeM → NodeM) (s : State) : (modRec a f s).pending = s.pending := by rfl
@[simp] theorem sendChain_pending (l : Nat) (d : End) (typ addr seq : Nat) (payload : List Byte) (s : State) :
    (sendChain l d typ addr seq payload s).pending = s.pending := by rfl
@[simp] theorem sendCmd_pending (l : Nat) (d : End) (addr op : Nat) (args : List Nat) (s : State) : (sendCmd l d addr
    op args s).pending = s.pending := by rfl
@[simp] theorem putReply_pending (op seq rslot claim : Nat) (c : NodeCmd) (n : Option NodeS) (s : State) : (putReply
    op seq rslot claim c n s).pending = s.pending := by
  unfold putReply
  (repeat' split) <;> rfl
@[simp] theorem command_pending (addr op : Nat) (args : List Nat) (c : NodeCmd) (s : State) : (command addr op args c
    s).pending = s.pending := by simp [command]
@[simp] theorem broadcast_pending (l : Nat) (d : End) (op : Nat) (args : List Nat) (c : NodeCmd) (s : State) :
    (broadcast l d op args c s).pending = s.pending := by rfl
@[simp] theorem enumFail_pending (l err : Nat) (d : End) (hop detail : Nat) (s : State) : (enumFail l err d hop detail
    s).pending = s.pending := by
  unfold enumFail
  dsimp only
  (repeat' split) <;> first | rfl | (simp; done)
@[simp] theorem sleepLine_pending (l : Nat) (s : State) : (sleepLine l s).pending = s.pending := by rfl
@[simp] theorem sleepAll_pending (s : State) : (sleepAll s).pending = s.pending := by
  unfold sleepAll
  repeat' split
  all_goals first
    | rfl
    | exact foldl_pending _ (fun s _ => by (repeat' split) <;> first | rfl | simp) _ _
    | (refine (foldl_pending _ (fun s _ => by (repeat' split) <;> first | rfl | simp) _ _).trans ?_; simp)
    | simp
@[simp] theorem sendProbe_pending (l : Nat) (d : End) (a : Nat) (s : State) : (sendProbe l d a s).pending = s.pending
    := by
  unfold sendProbe
  dsimp only
  (repeat' split) <;> first | rfl | (simp; done)
@[simp] theorem probeLine_pending (l : Nat) (s : State) : (probeLine l s).pending = s.pending := by
  unfold probeLine
  dsimp only
  (repeat' split) <;> first | rfl | (simp; done)
@[simp] theorem sendDelays_pending (a : Nat) (d : End) (v : Nat) (s : State) : (sendDelays a d v s).pending =
    s.pending := by
  unfold sendDelays
  (repeat' split) <;> rfl
@[simp] theorem closeSet_pending (a : Nat) (d : End) (s : State) : (closeSet a d s).pending = s.pending := by
  unfold closeSet
  dsimp only
  (repeat' split) <;> first | rfl | (simp; done)
@[simp] theorem probeLost_pending (l : Nat) (s : State) : (probeLost l s).pending = s.pending := by
  unfold probeLost
  dsimp only
  (repeat' split) <;> first | rfl | (simp; done)
@[simp] theorem inbound_pending (h : ChainHdr) (whole : Bool) (s : State) : (inbound h whole s).pending = s.pending :=
    by
  unfold inbound
  (repeat' split) <;> rfl
@[simp] theorem forwardPair_pending (sub a seq : Nat) (body : List Byte) (s : State) : (forwardPair sub a seq body
    s).pending = s.pending := by
  unfold forwardPair
  repeat' split
  all_goals first | rfl | simp
@[simp] theorem takeResult_pending (a : Nat) (b : ResultBody) (s : State) : (takeResult a b s).pending = s.pending :=
    by
  unfold takeResult
  (repeat' split) <;> rfl
@[simp] theorem takeAux_pending (a : Nat) (b : AuxBody) (s : State) : (takeAux a b s).pending = s.pending := by
  unfold takeAux
  (repeat' split) <;> rfl
@[simp] theorem checkId_pending (a : Nat) (s : State) : (checkId a s).pending = s.pending := by
  unfold checkId
  dsimp only
  (repeat' split) <;> first | rfl | (simp; done)
@[simp] theorem checkSense_pending (a : Nat) (s : State) : (checkSense a s).pending = s.pending := by
  unfold checkSense
  dsimp only
  (repeat' split) <;> first | rfl | (simp; done)
@[simp] theorem keepIdent_pending (a uid nodeType proto caps : Nat) (lockin : Bool) (s : State) : (keepIdent a uid
    nodeType proto caps lockin s).pending = s.pending := by rfl
@[simp] theorem replyOk_pending (c : CmdOut) (a : Nat) (d : ReplyData) (s : State) : (replyOk c a d s).pending =
    s.pending := by
  unfold replyOk
  dsimp only
  (repeat' split) <;> first | rfl | (simp; done)
@[simp] theorem markDone_pending (c : CmdOut) (s : State) : (markDone c s).pending = s.pending := by rfl
@[simp] theorem takeReply_pending (h : ChainHdr) (op status : Nat) (d : ReplyData) (s : State) : (takeReply h op
    status d s).pending = s.pending := by
  unfold takeReply
  dsimp only
  (repeat' split) <;> first | rfl | (simp; done)
@[simp] theorem rejoin_pending (a : Nat) (s : State) : (rejoin a s).pending = s.pending := by rfl
@[simp] theorem unknownSeen_pending (h : ChainHdr) (uid : Nat) (s : State) : (unknownSeen h uid s).pending = s.pending
    := by rfl
@[simp] theorem linePass_pending (l : Nat) (s : State) : (linePass l s).pending = s.pending := by
  unfold linePass
  exact foldl_pending _ (fun s _ => by (repeat' split) <;> first | rfl | simp) _ _
@[simp] theorem setHolder_pending (b : Bool) (s : State) : (setHolder b s).pending = s.pending := by rfl
@[simp] theorem takeOver_pending (s : State) : (takeOver s).pending = s.pending := by
  unfold takeOver
  (repeat' split) <;> rfl
@[simp] theorem loseHold_pending (s : State) : (loseHold s).pending = s.pending := by
  unfold loseHold
  (repeat' split) <;> rfl
@[simp] theorem passEnum_pending (l : Nat) (seen : Option Nat) (s : State) : (passEnum l seen s).pending = s.pending
    := by
  unfold passEnum
  dsimp only
  (repeat' split) <;> first | rfl | (simp; done)
@[simp] theorem judgeAbsent_pending (s : State) : (judgeAbsent s).pending = s.pending := by
  unfold judgeAbsent
  dsimp only
  refine (foldl_pending _ ?_ _ _).trans ?_
  · intro s x; (repeat' split) <;> first | rfl | (simp; done)
  · refine (foldl_pending _ ?_ _ _).trans rfl; intro s x; (repeat' split) <;> first | rfl | (simp; done)
@[simp] theorem chainBeat_pending (s : State) : (chainBeat s).pending = s.pending := by
  unfold chainBeat
  repeat' split
  all_goals first
    | rfl
    | exact foldl_pending _ (fun s _ => by (repeat' split) <;> first | rfl | simp) _ _
    | (refine (foldl_pending _ (fun s _ => by (repeat' split) <;> first | rfl | simp) _ _).trans ?_; simp)
    | simp
@[simp] theorem enumStart_pending (s : State) : (enumStart s).pending = s.pending := by rfl
@[simp] theorem chClear_pending (s : State) : (chClear s).pending = s.pending := by rfl

/-! ### Measure -/

@[simp] theorem chargeCommit_pending (s : State) : (chargeCommit s).pending = s.pending := by rfl
@[simp] theorem epochBeat_pending (s : State) : (epochBeat s).pending = s.pending := by rfl
@[simp] theorem posCommit_pending (s : State) : (posCommit s).pending = s.pending := by rfl
@[simp] theorem tempCommit_pending (s : State) : (tempCommit s).pending = s.pending := by
  unfold tempCommit
  (repeat' split) <;> rfl
@[simp] theorem mapTemps_pending (s : State) : (mapTemps s).pending = s.pending := by
  unfold mapTemps
  (repeat' split) <;> rfl
@[simp] theorem accordBeat_pending (s : State) : (accordBeat s).pending = s.pending := by rfl
@[simp] theorem insOpen_pending (s : State) : (insOpen s).pending = s.pending := by
  unfold insOpen
  (repeat' split) <;> rfl
@[simp] theorem insJudge_pending (rp rn : Nat) (s : State) : (insJudge rp rn s).pending = s.pending := by rfl
@[simp] theorem insSettled_pending (v : Int) (s : State) : (insSettled v s).1.pending = s.pending := by
  unfold insSettled
  dsimp only
  (repeat' split) <;> first | rfl | (simp; done)
@[simp] theorem insReceived_pending (src string rp rn end32 : Nat) (s : State) : (insReceived src string rp rn end32
    s).pending = s.pending := by
  unfold insReceived
  (repeat' split) <;> rfl
@[simp] theorem modSess_pending (i : Fin 32) (f : Session → Session) (s : State) : (modSess i f s).pending = s.pending
    := by rfl
@[simp] theorem takeSnap_pending (s : State) : (takeSnap s).pending = s.pending := by
  unfold takeSnap
  (repeat' split) <;> rfl
@[simp] theorem measWrite_pending (i : Fin 32) (o : Nat) (v : Word) (s : State) : (measWrite i o v s).2.pending =
    s.pending := by
  unfold measWrite
  dsimp only
  (repeat' split) <;> first | rfl | (simp; done)

/-! ### Spectra -/

@[simp] theorem modSpec_pending (p : Nat) (f : PosSpec → PosSpec) (s : State) : (modSpec p f s).pending = s.pending :=
    by rfl
@[simp] theorem histBeat_pending (s : State) : (histBeat s).pending = s.pending := by rfl
@[simp] theorem quasiAnchor_pending (p : Nat) (l : List BeatRec) (xs : List Rat) (s : State) : (quasiAnchor p l xs
    s).pending = s.pending := by
  unfold quasiAnchor
  dsimp only
  (repeat' split) <;> first | rfl | (simp; done)
@[simp] theorem windowPos_pending (k p : Nat) (l : List BeatRec) (xi : Cx) (s : State) : (windowPos k p l xi
    s).pending = s.pending := by
  unfold windowPos
  dsimp only
  (repeat' split) <;> first | rfl | (simp; done)
@[simp] theorem windowStr_pending (k : Nat) (l : List BeatRec) (xi : Cx) (s : State) : (windowStr k l xi s).pending =
    s.pending := by rfl
@[simp] theorem dropStim_pending (l : Nat) (s : State) : (dropStim l s).pending = s.pending := by rfl
@[simp] theorem takeLockin_pending (c : CmdOut) (a : Nat) (d : ReplyData) (s : State) : (takeLockin c a d s).pending =
    s.pending := by
  unfold takeLockin
  dsimp only
  (repeat' split) <;> first | rfl | (simp; done)

/-! ### Estimate -/

@[simp] theorem modFilter_pending (p : Nat) (f : Filter → Filter) (s : State) : (modFilter p f s).pending = s.pending
    := by
    rfl
@[simp] theorem restJudge_pending (s : State) : (restJudge s).pending = s.pending := by
  unfold restJudge
  (repeat' split) <;> rfl
@[simp] theorem restPositions_pending (s : State) : (restPositions s).pending = s.pending := by
  unfold restPositions
  (repeat' split) <;> rfl
@[simp] theorem stimBeat_pending (s : State) : (stimBeat s).pending = s.pending := by rfl
@[simp] theorem trueAnchor_pending (p : Nat) (a : AnchorV) (s : State) : (trueAnchor p a s).pending = s.pending := by
  unfold trueAnchor
  dsimp only
  (repeat' split) <;> first | rfl | (simp; done)
@[simp] theorem anchorStep_pending (p : Nat) (second : Bool) (s : State) : (anchorStep p second s).pending = s.pending
    := by
  unfold anchorStep
  dsimp only
  (repeat' split) <;> first | rfl | (simp; done)
@[simp] theorem filterOn_pending (p : Nat) (r : BeatRec) (add : Int) (f : Filter) (s : State) : (filterOn p r add f
    s).pending = s.pending := by simp [filterOn]
@[simp] theorem judgeWarn_pending (s : State) (eps : List (Option (Rat × Rat))) : (judgeWarn s eps).pending =
    s.pending := by
  unfold judgeWarn
  dsimp only
  refine (foldl_pending _ (fun s _ => ?_) _ _).trans ?_
  · (repeat' split) <;> first | rfl | simp
  · (repeat' split) <;> first | rfl | simp
@[simp] theorem summaryShow_pending (s : State) : (summaryShow s).pending = s.pending := by
  unfold summaryShow
  (repeat' split) <;> rfl
@[simp] theorem estStart_pending (s : State) : (estStart s).pending = s.pending := by rfl
@[simp] theorem seedCtrlWrite_pending (v : Word) (s : State) : (seedCtrlWrite v s).pending = s.pending := by
  unfold seedCtrlWrite
  dsimp only
  (repeat' split) <;> first | rfl | (simp; done)
@[simp] theorem refReset_pending (s : State) : (refReset s).pending = s.pending := by rfl
@[simp] theorem rwa_pending (s : State) (old new : Nat) (f : State → State) (hf : ∀ s, (f s).pending = s.pending) :
    (rwa s old new f).2.pending = s.pending := by
  unfold rwa
  split <;> simp [hf]
@[simp] theorem estWrite_pending (i : Fin 32) (o : Nat) (v : Word) (s : State) : (estWrite i o v s).2.pending =
    s.pending := by
  unfold estWrite; dsimp only; split <;> first | rfl | (simp; done) | (split <;> first | rfl | (simp; done)) | (apply rwa_pending; intro s; rfl)

/-! ### Cells -/

@[simp] theorem cellsStart_pending (s : State) : (cellsStart s).pending = s.pending := by rfl
@[simp] theorem tapTemps_pending (s : State) : (tapTemps s).pending = s.pending := by rfl
@[simp] theorem tapCommit_pending (s : State) : (tapCommit s).pending = s.pending := by
  unfold tapCommit
  dsimp only
  (repeat' split) <;> first | rfl | (simp; done)
@[simp] theorem enterFinding_pending (r : Nat) (s : State) (f : Finding) : (enterFinding r s f).pending = s.pending :=
    by
    simp [enterFinding]
@[simp] theorem cellUpdate_pending (r : Nat) (pos : List CellPos) (taps : List Tap) (s : State) : (cellUpdate r pos
    taps s).pending = s.pending := by rfl
@[simp] theorem cellSettle_pending (s : State) : (cellSettle s).pending = s.pending := by
  unfold cellSettle
  repeat' split
  all_goals first
    | rfl
    | exact foldl_pending _ (fun s _ => by (repeat' split) <;> first | rfl | simp) _ _
    | (refine (foldl_pending _ (fun s _ => by (repeat' split) <;> first | rfl | simp) _ _).trans ?_; simp)
    | simp
@[simp] theorem cellReview_pending (s : State) : (cellReview s).pending = s.pending := by
  unfold cellReview
  dsimp only
  (repeat' split) <;> first | rfl | (simp; done)
@[simp] theorem roundEffects_pending (s : State) : (roundEffects s).pending = s.pending := by
  unfold roundEffects
  exact foldl_pending _ (fun s _ => by (repeat' split) <;> first | rfl | simp) _ _
@[simp] theorem cellSumWrite_pending (o : Nat) (v : Word) (s : State) : (cellSumWrite o v s).pending = s.pending := by
  unfold cellSumWrite
  (repeat' split) <;> rfl

/-! ### Limits -/

@[simp] theorem limStart_pending (s : State) : (limStart s).pending = s.pending := by
  unfold limStart
  (repeat' split) <;> rfl
@[simp] theorem selection_pending (s : State) : (selection s).pending = s.pending := by rfl
@[simp] theorem zeroLimits_pending (s : State) : (zeroLimits s).pending = s.pending := by rfl
@[simp] theorem publishLimits_pending (s : State) : (publishLimits s).pending = s.pending := by simp [publishLimits]
@[simp] theorem dieGate_pending (s : State) : (dieGate s).pending = s.pending := by
  unfold dieGate
  dsimp only
  (repeat' split) <;> first | rfl | (simp; done)
@[simp] theorem balancePlan_pending (s : State) : (balancePlan s).pending = s.pending := by
  unfold balancePlan
  dsimp only
  (repeat' split) <;> first | rfl | (simp; done)
@[simp] theorem limWrite_pending (o : Nat) (v : Word) (s : State) : (limWrite o v s).2.pending = s.pending := by
  unfold limWrite
  dsimp only
  (repeat' split) <;> first | rfl | (simp; done)

/-! ### SafetyFn -/

@[simp] theorem modK_pending (k : Nat) (f : Contactor → Contactor) (s : State) : (modK k f s).pending = s.pending :=
    by rfl
@[simp] theorem allK_pending (f : Nat → Contactor → Contactor) (s : State) : (allK f s).pending = s.pending := by rfl
@[simp] theorem jobFail_pending (detail : Nat) (s : State) : (jobFail detail s).pending = s.pending := by
  unfold jobFail
  (repeat' split) <;> rfl
@[simp] theorem noteOpens_pending (before s : State) : (noteOpens before s).pending = s.pending := by
  unfold noteOpens
  repeat' split
  all_goals first
    | rfl
    | exact foldl_pending _ (fun s _ => by (repeat' split) <;> first | rfl | simp) _ _
    | (refine (foldl_pending _ (fun s _ => by (repeat' split) <;> first | rfl | simp) _ _).trans ?_; simp)
    | simp
@[simp] theorem jobWatch_pending (before s : State) : (jobWatch before s).pending = s.pending := by
  unfold jobWatch
  split
  · split
    · exact jobFail_pending 6 s
    · rfl
  · rfl
@[simp] theorem switching_pending (f : State → State) (s : State) (hf : ∀ s, (f s).pending = s.pending) : (switching f
    s).pending = s.pending := by
  unfold switching
  simp [hf]
@[simp] theorem enterSafe_pending (s : State) : (enterSafe s).pending = s.pending := by
  unfold enterSafe
  (repeat' split) <;> rfl
@[simp] theorem latch_pending (ch : Chan) (c : Cause) (info : Nat) (s : State) : (latch ch c info s).pending =
    s.pending := by
  unfold latch
  dsimp only
  (repeat' split) <;> first | rfl | (simp; done)
@[simp] theorem latchAll_pending (ch : Chan) (l : List (Cause × Nat)) (s : State) : (latchAll ch l s).pending =
    s.pending := by
  unfold latchAll
  apply foldl_pending
  intro s n
  split
  · exact latch_pending ..
  · rfl
@[simp] theorem safStart_pending (blk : SafetyBlock) (raw : List Byte) (s : State) : (safStart blk raw s).pending =
    s.pending := by rfl
@[simp] theorem inputOpens_pending (i : Nat) (ch : Chan) (cancel : Bool) (s : State) : (inputOpens i ch cancel
    s).pending = s.pending := by simp [inputOpens]
@[simp] theorem discJudge_pending (ch : Chan) (s : State) : (discJudge ch s).pending = s.pending := by
  unfold discJudge
  dsimp only
  refine (foldl_pending _ (fun s _ => ?_) _ _).trans ?_
  · (repeat' split) <;> first | rfl | simp
  · (repeat' split) <;> first | rfl | simp
@[simp] theorem evalPos_pending (b : SafetyBlock) (s : State) : (evalPos b s).1.pending = s.pending := by rfl
@[simp] theorem evalFe_pending (b : SafetyBlock) (s : State) : (evalFe b s).1.pending = s.pending := by rfl
@[simp] theorem evalTemp_pending (b : SafetyBlock) (s : State) : (evalTemp b s).1.pending = s.pending := by rfl
@[simp] theorem evalI2t_pending (b : SafetyBlock) (s : State) : (evalI2t b s).1.pending = s.pending := by rfl
@[simp] theorem evalDir_pending (b : SafetyBlock) (s : State) : (evalDir b s).1.pending = s.pending := by rfl
@[simp] theorem evalHs_pending (ma : List Nat) (s : State) : (evalHs ma s).1.pending = s.pending := by rfl
@[simp] theorem evalOther_pending (s : State) : (evalOther s).1.pending = s.pending := by rfl
@[simp] theorem jobTest_pending (s : State) : (jobTest s).pending = s.pending := by
  unfold jobTest
  (repeat' split) <;> rfl
@[simp] theorem dropA_pending (s : State) : (dropA s).pending = s.pending := switching_pending _ _ (fun _ => rfl)
@[simp] theorem jobDone_pending (s : State) : (jobDone s).pending = s.pending := by
  unfold jobDone
  (repeat' split) <;> rfl
@[simp] theorem jobStep_pending (s : State) : (jobStep s).2.2.pending = s.pending := by
  unfold jobStep
  dsimp only
  (repeat' split) <;> first | rfl | (simp; done)
@[simp] theorem applyK_pending (jc jo : Nat) (s : State) : (applyK jc jo s).pending = s.pending := by
  unfold applyK
  dsimp only
  (repeat' split) <;> first | rfl | (simp; done)
@[simp] theorem evalLs_pending (ma : List Nat) (s : State) : (evalLs ma s).1.pending = s.pending := by rfl
@[simp] theorem switchLs_pending (s : State) : (switchLs s).pending = s.pending := by
  unfold switchLs
  dsimp only
  (repeat' split) <;> first | rfl | (simp; done)
@[simp] theorem contactorStart_pending (i : Fin 32) (j : Fin 8) (kind : Nat) (s : State) : (contactorStart i j kind
    s).pending = s.pending := by
  unfold contactorStart
  (repeat' split) <;> rfl
@[simp] theorem contactorAbort_pending (s : State) : (contactorAbort s).pending = s.pending := by
  unfold contactorAbort
  (repeat' split) <;> rfl
@[simp] theorem kCmdWrite_pending (v : Word) (s : State) : (kCmdWrite v s).pending = s.pending := by
  unfold kCmdWrite
  (repeat' split) <;> rfl
@[simp] theorem openAll_pending (s : State) : (openAll s).pending = s.pending := by simp [openAll]
@[simp] theorem safWrite_pending (o : Nat) (v : Word) (s : State) : (safWrite o v s).pending = s.pending := by
  unfold safWrite
  dsimp only
  (repeat' split) <;> first | rfl | (simp; done)

/-! ### Fabric -/

@[simp] theorem modFab_pending (f : Fab → Fab) (s : State) : (modFab f s).pending = s.pending := by rfl
@[simp] theorem modPort_pending (p : Fin 3) (f : PortSt → PortSt) (s : State) : (modPort p f s).pending = s.pending :=
    by rfl
@[simp] theorem badFrame_pending (p : Fin 3) (s : State) : (badFrame p s).pending = s.pending := by rfl
@[simp] theorem dupFrame_pending (p : Fin 3) (s : State) : (dupFrame p s).pending = s.pending := by rfl
@[simp] theorem fabArrive_pending (h : FabHdr) (s : State) : (fabArrive h s).2.pending = s.pending := by
  unfold fabArrive
  dsimp only
  (repeat' split) <;> first | rfl | (simp; done)
@[simp] theorem fabAccept_pending (fits : Bool) (h : FabHdr) (s : State) : (fabAccept fits h s).2.pending = s.pending
    := by
  unfold fabAccept
  (repeat' split) <;> rfl
@[simp] theorem fabIn_pending (fits : Bool) (h : FabHdr) (s : State) : (fabIn fits h s).2.pending = s.pending := by
  unfold fabIn
  split
  · rename_i heq
    have h2 := fabArrive_pending h s
    rw [heq] at h2
    exact h2
  · rename_i heq
    have h2 := fabArrive_pending h s
    rw [heq] at h2
    dsimp only
    (repeat' split) <;> simpa using h2
@[simp] theorem onFrame_pending (kind len : Nat) (h : FabHdr) (f : State → State) (s : State) (hf : ∀ s, (f s).pending
    = s.pending) : (onFrame kind len h f s).pending = s.pending := by
  unfold onFrame; split
  · split
    · rename_i s' heq; have h2 := fabIn_pending (h.len == len) h s; rw [heq] at h2; simpa [hf] using h2
    · rename_i s' heq; have h2 := fabIn_pending (h.len == len) h s; rw [heq] at h2; simpa using h2
  · rfl
@[simp] theorem putPeer_pending (p : Peer) (s : State) : (putPeer p s).pending = s.pending := by rfl
@[simp] theorem candidateMet_pending (mac addr : Nat) (s : State) : (candidateMet mac addr s).pending = s.pending :=
    by
  unfold candidateMet
  (repeat' split) <;> rfl
@[simp] theorem addressMet_pending (mac addr : Nat) (s : State) : (addressMet mac addr s).pending = s.pending := by
  unfold addressMet
  (repeat' split) <;> rfl
@[simp] theorem takeDiscover_pending (h : FabHdr) (b : DiscoverBody) (s : State) : (takeDiscover h b s).pending =
    s.pending := by
  unfold takeDiscover
  dsimp only
  (repeat' split) <;> first | rfl | (simp; done)
@[simp] theorem takeClaim_pending (h : FabHdr) (addr : Nat) (s : State) : (takeClaim h addr s).pending = s.pending :=
    by
  unfold takeClaim
  repeat' split
  all_goals first
    | rfl
    | exact foldl_pending _ (fun s _ => by (repeat' split) <;> first | rfl | simp) _ _
    | (refine (foldl_pending _ (fun s _ => by (repeat' split) <;> first | rfl | simp) _ _).trans ?_; simp)
    | simp
@[simp] theorem keepBank_pending (f : BankFrame) (s : State) : (keepBank f s).pending = s.pending := by
  unfold keepBank
  dsimp only
  (repeat' split) <;> first | rfl | (simp; done)
@[simp] theorem takeBank_pending (h : FabHdr) (tick : Nat) (b : BankBody) (s : State) : (takeBank h tick b s).pending
    = s.pending := by
  unfold takeBank
  dsimp only
  (repeat' split) <;> first | rfl | (simp; done)
@[simp] theorem epochEval_pending (got : Nat → Bool) (l : List Member) (s : State) : (epochEval got l s).2.pending =
    s.pending := by simp [epochEval]
@[simp] theorem bankCompute_pending (s : State) : (bankCompute s).pending = s.pending := by
  unfold bankCompute
  dsimp only
  (repeat' split) <;> first | rfl | (simp; done)
@[simp] theorem fabricBeat_pending (s : State) : (fabricBeat s).pending = s.pending := by rfl

/-! ### Pair -/

@[simp] theorem modPair_pending (f : Pair → Pair) (s : State) : (modPair f s).pending = s.pending := by rfl
@[simp] theorem sendX_pending (sub : Nat) (body : List Byte) (s : State) : (sendX sub body s).pending = s.pending :=
    by simp [sendX]
@[simp] theorem onExchange_pending (len : Nat) (h : FabHdr) (f : State → State) (s : State) (hf : ∀ s, (f s).pending =
    s.pending) : (onExchange len h f s).pending = s.pending := by
  unfold onExchange; apply onFrame_pending; intro s; split
  · exact hf s
  · rfl
@[simp] theorem onPartner_pending (len : Nat) (h : FabHdr) (f : State → State) (s : State) (hf : ∀ s, (f s).pending =
    s.pending) : (onPartner len h f s).pending = s.pending := by
  unfold onPartner; apply onExchange_pending; intro s; split
  · exact hf s
  · rfl
@[simp] theorem takeStatus_pending (h : FabHdr) (b : StatusBody) (s : State) : (takeStatus h b s).pending = s.pending
    := by
  unfold takeStatus
  extract_lets p
  split
  · rfl
  · split
    · rfl
    · beta_reduce
      split
      · exact (mapTemps_pending _).trans rfl
      · rfl
@[simp] theorem takeFront_pending (b : FrontBody) (s : State) : (takeFront b s).pending = s.pending := by rfl
@[simp] theorem takeStream_pending (b : StreamBody) (s : State) : (takeStream b s).pending = s.pending := by rfl
@[simp] theorem takeStim_pending (s : State) (c : Nat × Nat × Nat × List Nat) : (takeStim s c).pending = s.pending :=
    by
  unfold takeStim
  dsimp only
  (repeat' split) <;> first | rfl | (simp; done)
@[simp] theorem pairCtrlWrite_pending (v : Word) (s : State) : (pairCtrlWrite v s).2.pending = s.pending := by
  unfold pairCtrlWrite
  dsimp only
  (repeat' split) <;> first | rfl | (simp; done)
@[simp] theorem exchJudge_pending (s : State) : (exchJudge s).pending = s.pending := by
  unfold exchJudge
  dsimp only
  (repeat' split) <;> first | rfl | (simp; done)
@[simp] theorem pairBeat_pending (s : State) : (pairBeat s).pending = s.pending := by
  unfold pairBeat
  (repeat' split) <;> rfl

/-! ### Commit -/

@[simp] theorem chainCommit_pending (s : State) : (chainCommit s).pending = s.pending := by simp [chainCommit]

/-! ### CanIo -/

@[simp] theorem modCan_pending (c : Nat) (f : CanCh → CanCh) (s : State) : (modCan c f s).pending = s.pending := by
    simp [modCan]
@[simp] theorem canOffer_pending (c : Nat) (s : State) : (canOffer c s).pending = s.pending := by
  unfold canOffer
  dsimp only
  (repeat' split) <;> first | rfl | (simp; done)
@[simp] theorem canRespond_pending (c : Nat) (data : List Byte) (s : State) : (canRespond c data s).pending =
    s.pending := by simp [canRespond]
@[simp] theorem canBeat_pending (s : State) : (canBeat s).pending = s.pending := by
  unfold canBeat
  repeat' split
  all_goals first
    | rfl
    | exact foldl_pending _ (fun s _ => by (repeat' split) <;> first | rfl | simp) _ _
    | (refine (foldl_pending _ (fun s _ => by (repeat' split) <;> first | rfl | simp) _ _).trans ?_; simp)
    | simp
@[simp] theorem canCommit_pending (c : Nat) (lost : Bool) (s : State) : (canCommit c lost s).pending = s.pending := by
    simp [canCommit]
@[simp] theorem canStart_pending (s : State) : (canStart s).pending = s.pending := by
  unfold canStart
  (repeat' split) <;> rfl
@[simp] theorem txbCmd_pending (c b : Nat) (v : Word) (s : State) : (txbCmd c b v s).2.pending = s.pending := by
  unfold txbCmd
  dsimp only
  (repeat' split) <;> first | rfl | (simp; done)
@[simp] theorem txbWrite_pending (c b w : Nat) (v : Word) (s : State) : (txbWrite c b w v s).2.pending = s.pending :=
    by
  unfold txbWrite
  dsimp only
  (repeat' split) <;> first | rfl | (simp; done)
@[simp] theorem loopWrite_pending (c : Nat) (v : Word) (s : State) : (loopWrite c v s).2.pending = s.pending := by
  unfold loopWrite
  dsimp only
  (repeat' split) <;> first | rfl | (simp; done)
@[simp] theorem filtWrite_pending (c k : Nat) (mask : Bool) (v : Word) (s : State) : (filtWrite c k mask v s).pending
    = s.pending := by simp [filtWrite]
@[simp] theorem canWrite_pending (c o : Nat) (v : Word) (s : State) : (canWrite c o v s).2.pending = s.pending := by
  unfold canWrite
  dsimp only
  (repeat' split) <;> first | rfl | (simp; done)

/-! ### FieldIo -/

@[simp] theorem modIo_pending (k : Nat) (f : IoCh → IoCh) (s : State) : (modIo k f s).pending = s.pending := by rfl
@[simp] theorem setFault_pending (k : Nat) (f : IoCh → IoCh) (s : State) : (setFault k f s).pending = s.pending := by
    rfl
@[simp] theorem cntClear_pending (v : Word) (s : State) : (cntClear v s).pending = s.pending := by rfl
@[simp] theorem drivePhase_pending (vals : Nat → Bool) (s : State) : (drivePhase vals s).pending = s.pending := by
  unfold drivePhase
  (repeat' split) <;> rfl
@[simp] theorem fioStart_pending (s : State) : (fioStart s).pending = s.pending := by rfl
@[simp] theorem fioOff_pending (s : State) : (fioOff s).pending = s.pending := by rfl
@[simp] theorem fioBeat_pending (s : State) : (fioBeat s).pending = s.pending := by
  unfold fioBeat
  (repeat' split) <;> rfl
@[simp] theorem thStart_pending (s : State) : (thStart s).pending = s.pending := by rfl
@[simp] theorem fioWrite_pending (o : Nat) (v : Word) (s : State) : (fioWrite o v s).pending = s.pending := by
  unfold fioWrite
  (repeat' split) <;> rfl

/-! ### Logic -/

@[simp] theorem modLg_pending (f : Logic → Logic) (s : State) : (modLg f s).pending = s.pending := by rfl
@[simp] theorem modTask_pending (t : Nat) (f : TaskSt → TaskSt) (s : State) : (modTask t f s).pending = s.pending :=
    by rfl
@[simp] theorem batchDone_pending (b : Batch) (s : State) : (batchDone b s).pending = s.pending := by rfl
@[simp] theorem applyConsts_pending (t : Nat) (s : State) : (applyConsts t s).pending = s.pending := by
  unfold applyConsts
  dsimp only
  (repeat' split) <;> first | rfl | (simp; done)
@[simp] theorem constsPending_pending (b : Batch) (s : State) : (constsPending b s).pending = s.pending := by
  unfold constsPending
  dsimp only
  (repeat' split) <;> first | rfl | (simp; done)
@[simp] theorem taskOver_pending (t : Nat) (c : TaskCfg) (cycles : Nat) (s : State) : (taskOver t c cycles s).pending
    = s.pending := by
  unfold taskOver
  extract_lets s1 s2 s3
  have h3 : s3.pending = s.pending := by
    unfold s3; split <;> simp [s2, s1]
  split <;> simp [h3]
@[simp] theorem taskCommit_pending (t : Nat) (c : TaskCfg) (p : LogicCfg) (cycles : Nat) (s : State) : (taskCommit t c
    p cycles s).pending = s.pending := by rfl
@[simp] theorem taskStopped_pending (t : Nat) (s : State) : (taskStopped t s).pending = s.pending := by
  unfold taskStopped
  repeat' split
  all_goals first
    | rfl
    | exact foldl_pending _ (fun s _ => by (repeat' split) <;> first | rfl | simp) _ _
    | (refine (foldl_pending _ (fun s _ => by (repeat' split) <;> first | rfl | simp) _ _).trans ?_; simp)
    | simp
@[simp] theorem stopTasks_pending (s : State) : (stopTasks s).pending = s.pending := by
  unfold stopTasks
  dsimp only
  (repeat' split) <;> first
    | rfl
    | (simp; done)
    | (refine (foldl_pending _ (fun s _ => by simp) _ _).trans ?_; simp)
@[simp] theorem stopWork_pending (k cycles : Nat) (s : State) : (stopWork k cycles s).pending = s.pending := by
  unfold stopWork
  dsimp only
  (repeat' split) <;> first | rfl | (simp; done)
@[simp] theorem lateTasks_pending (s : State) : (lateTasks s).pending = s.pending := by
  unfold lateTasks
  repeat' split
  all_goals first
    | rfl
    | exact foldl_pending _ (fun s _ => by (repeat' split) <;> first | rfl | simp) _ _
    | (refine (foldl_pending _ (fun s _ => by (repeat' split) <;> first | rfl | simp) _ _).trans ?_; simp)
    | simp
@[simp] theorem modStn_pending (i : Nat) (f : StationSt → StationSt) (s : State) : (modStn i f s).pending = s.pending
    := by
    rfl
@[simp] theorem stnJudge_pending (s : State) : (stnJudge s).pending = s.pending := by rfl
@[simp] theorem stnAdmit_pending (s : State) : (stnAdmit s).pending = s.pending := by rfl
@[simp] theorem stnClaim_pending (h : FabHdr) (s : State) : (stnClaim h s).2.pending = s.pending := by
  unfold stnClaim
  dsimp only
  (repeat' split) <;> first | rfl | (simp; done)
@[simp] theorem stnFrame_pending (i : Nat) (q : Nat) (words : List Word) (s : State) : (stnFrame i q words s).pending
    = s.pending := by rfl
@[simp] theorem stnTake_pending (h : FabHdr) (dir n : Nat) (words : List Word) (s : State) : (stnTake h dir n words
    s).pending = s.pending := by
  unfold stnTake
  split
  · split
    · rfl
    · simp
  · split
    · simp
    · split
      · rename_i heq
        have h2 := stnClaim_pending h s
        rw [heq] at h2
        exact h2
      · rename_i heq
        have h2 := stnClaim_pending h s
        rw [heq] at h2
        split
        · rw [stnFrame_pending]
          exact h2
        · exact h2
@[simp] theorem putForce_pending (i : Fin 32) (f : Nat) (x : Force) (s : State) : (putForce i f x s).pending =
    s.pending := by
  unfold putForce
  (repeat' split) <;> rfl
@[simp] theorem forceSelWrite_pending (i : Fin 32) (f : Nat) (v : Word) (s : State) : (forceSelWrite i f v
    s).2.pending = s.pending := by
  unfold forceSelWrite
  dsimp only
  (repeat' split) <;> first | rfl | (simp; done)
@[simp] theorem forceValWrite_pending (i : Fin 32) (f : Nat) (v : Word) (s : State) : (forceValWrite i f v
    s).2.pending = s.pending := by
  unfold forceValWrite
  dsimp only
  (repeat' split) <;> first | rfl | (simp; done)
@[simp] theorem stnSend_pending (img : List (Nat × Word)) (i : Nat) (s : State) : (stnSend img i s).pending =
    s.pending := by
  unfold stnSend
  dsimp only
  (repeat' split) <;> first | rfl | (simp; done)
@[simp] theorem lgStart_pending (s : State) : (lgStart s).pending = s.pending := by rfl
@[simp] theorem lgRun_pending (s : State) : (lgRun s).pending = s.pending := by rfl
@[simp] theorem lgBeat_pending (s : State) : (lgBeat s).pending = s.pending := by rfl
@[simp] theorem lgReplace_pending (s : State) : (lgReplace s).pending = s.pending := by
  unfold lgReplace
  dsimp only
  (repeat' split) <;> first | rfl | (simp; done)
@[simp] theorem varWrite_pending (i : Fin 32) (v : Word) (s : State) : (varWrite i v s).2.pending = s.pending := by
  unfold varWrite
  dsimp only
  (repeat' split) <;> first | rfl | (simp; done)
@[simp] theorem lgClear_pending (s : State) : (lgClear s).pending = s.pending := by rfl
@[simp] theorem lgCtrlWrite_pending (v : Word) (s : State) : (lgCtrlWrite v s).pending = s.pending := by
  unfold lgCtrlWrite
  (repeat' split) <;> rfl
@[simp] theorem lgWrite_pending (i : Fin 32) (o : Nat) (v : Word) (s : State) : (lgWrite i o v s).2.pending =
    s.pending := by
  unfold lgWrite
  split
  · rfl
  · exact lgCtrlWrite_pending ..
  · rfl
  · exact varWrite_pending ..
  · split
    · split
      · exact forceSelWrite_pending ..
      · exact forceValWrite_pending ..
    · rfl

/-! ### States -/

@[simp] theorem respond_pending (r : Rsp) (s : State) : (respond r s).pending = s.pending := by
  unfold respond
  dsimp only
  (repeat' split) <;> first | rfl | (simp; done)
@[simp] theorem answer_pending (i : Fin 32) (r : Rsp) (s : State) : (answer i r s).pending = s.pending := by
  unfold answer
  rw [respond_pending]
  split <;> rfl
@[simp] theorem abortJob_pending (j : Nat) (s : State) : (abortJob j s).pending = s.pending := by
  unfold abortJob
  dsimp only
  (repeat' split) <;> first | rfl | (simp; done)
@[simp] theorem loadEnd_pending (f : Fail) (s : State) : (loadEnd f s).pending = s.pending := by rfl
@[simp] theorem replaceEnd_pending (f : Fail) (s : State) : (replaceEnd f s).pending = s.pending := by rfl
@[simp] theorem loadAbort_pending (i : Fin 32) (s : State) : (loadAbort i s).pending = s.pending := by
  unfold loadAbort
  (repeat' split) <;> rfl
@[simp] theorem replaceStop_pending (s : State) : (replaceStop s).pending = s.pending := by
  unfold replaceStop
  (repeat' split) <;> rfl
@[simp] theorem leaveService_pending (s : State) : (leaveService s).pending = s.pending := by rfl
@[simp] theorem closeSession_pending (i : Fin 32) (s : State) : (closeSession i s).pending = s.pending := by
  have h1 : ∀ t : State, ((List.range 8).foldl (fun s j =>
      if (jobAt s j).st = .running ∧ (jobAt s j).session = i.val then abortJob j s else s) t).pending = t.pending := fun t =>
    foldl_pending _ (by intro s j; split <;> simp) _ _
  unfold closeSession
  simp only [apply_ite State.pending, setCrown_pending, freezeEnd_pending, releaseClaims_pending, h1, leaveService_pending, loadAbort_pending, ite_self]
@[simp] theorem wiped_pending (s : State) : (wiped s).pending = s.pending := by rfl
@[simp] theorem powerDown_pending (s : State) : (powerDown s).pending = s.pending := by
  unfold powerDown
  rw [wiped_pending, freezeEnd_pending]
  exact foldl_pending _ (fun s i => setCrown_pending i false 0xFF s) _ _
@[simp] theorem wipeRecords_pending (s : State) : (wipeRecords s).pending = s.pending := by rfl
@[simp] theorem fallBack_pending (reason : Nat) (s : State) : (fallBack reason s).pending = s.pending := by rfl
@[simp] theorem trialStart_pending (s : State) : (trialStart s).pending = s.pending := by
  unfold trialStart
  (repeat' split) <;> rfl
@[simp] theorem startUp_pending (cause : Nat) (s : State) : (startUp cause s).pending = s.pending := by
  have hp := powerDown_pending s
  unfold startUp
  generalize powerDown s = p at hp ⊢
  rw [trialStart_pending, bumpNonce_pending, ← hp]
  cases h : (p.pw.entered && !p.pw.wiped) <;> simp only [h] <;> rfl
@[simp] theorem allOutputsOff_pending (s : State) : (allOutputsOff s).pending = s.pending := by simp [allOutputsOff]
@[simp] theorem resetBy_pending (cause : Nat) (s : State) : (resetBy cause s).pending = s.pending := by
  unfold resetBy
  rw [startUp_pending, toMode_pending, allOutputsOff_pending]
@[simp] theorem enterStorage_pending (s : State) : (enterStorage s).pending = s.pending := by simp [enterStorage]
@[simp] theorem watchBatch_pending (s : State) : (watchBatch s).pending = s.pending := by
  unfold watchBatch
  (repeat' split) <;> rfl
@[simp] theorem enterWatch_pending (s : State) : (enterWatch s).pending = s.pending := by simp [enterWatch]
@[simp] theorem leaveWatch_pending (cause : Nat) (also trip : Bool) (s : State) : (leaveWatch cause also trip
    s).pending = s.pending := by
  have hp := startUp_pending cause (toMode .blank 13 s)
  rw [toMode_pending] at hp
  unfold leaveWatch
  generalize startUp cause (toMode .blank 13 s) = p at hp ⊢
  exact hp
@[simp] theorem armEnum_pending (s : State) : (armEnum s).pending = s.pending := by
  unfold armEnum
  (repeat' split) <;> rfl
@[simp] theorem armStart_pending (s : State) : (armStart s).pending = s.pending := by simp [armStart]
@[simp] theorem enterRun_pending (s : State) : (enterRun s).pending = s.pending := by rfl
@[simp] theorem enterStop_pending (s : State) : (enterStop s).pending = s.pending := by simp [enterStop]
@[simp] theorem enterService_pending (i : Fin 32) (s : State) : (enterService i s).pending = s.pending := by rfl
@[simp] theorem stateCmd_pending (i : Fin 32) (code : Nat) (s : State) : (stateCmd i code s).2.pending = s.pending :=
    by
  unfold stateCmd
  dsimp only
  split
  · split
    · exact enterStorage_pending s
    · rfl
  · split
    · exact armStart_pending s
    · rfl
  · split
    · exact enterRun_pending s
    · rfl
  · split
    · exact enterStop_pending s
    · split
      · exact leaveService_pending s
      · rfl
  · split
    · exact enterService_pending i s
    · rfl
  · split
    · exact enterWatch_pending s
    · rfl
  · exact resetBy_pending 6 s
  · rfl

/-! ### Update -/

@[simp] theorem modUpd_pending (f : Upd → Upd) (s : State) : (modUpd f s).pending = s.pending := by rfl
@[simp] theorem modUpSess_pending (i : Fin 32) (f : UpSess → UpSess) (s : State) : (modUpSess i f s).pending =
    s.pending := by rfl
@[simp] theorem upResult_pending (i : Fin 32) (code : Nat) (s : State) : (upResult i code s).pending = s.pending := by
    rfl
@[simp] theorem manifestWrite_pending (i : Fin 32) (k : Nat) (s : State) : (manifestWrite i k s).pending = s.pending
    := by
    unfold manifestWrite; dsimp only; (repeat' split) <;> first | rfl | (simp; done)
@[simp] theorem imageWrite_pending (i : Fin 32) (k : Nat) (s : State) : (imageWrite i k s).pending = s.pending := by
  unfold imageWrite
  (repeat' split) <;> rfl
@[simp] theorem judgePiece_pending (i : Fin 32) (k : Nat) (s : State) : (judgePiece i k s).pending = s.pending := by
  unfold judgePiece
  dsimp only
  (repeat' split) <;> first | rfl | (simp; done)
@[simp] theorem confirm_pending (i : Fin 32) (s : State) : (confirm i s).pending = s.pending := by rfl
@[simp] theorem upCmdWrite_pending (i : Fin 32) (v : Word) (s : State) : (upCmdWrite i v s).2.pending = s.pending :=
    by
  unfold upCmdWrite
  split
  · rfl
  · split
    · split
      · rfl
      · exact manifestWrite_pending ..
    · split
      · rfl
      · exact imageWrite_pending ..
    · split
      · exact confirm_pending ..
      · rfl
    · rfl
@[simp] theorem discardStart_pending (i : Fin 32) (j : Nat) (s : State) : (discardStart i j s).pending = s.pending :=
    by
  unfold discardStart
  (repeat' split) <;> rfl
@[simp] theorem discardDone_pending (s : State) : (discardDone s).pending = s.pending := by
  unfold discardDone
  (repeat' split) <;> rfl
@[simp] theorem activateStart_pending (i : Fin 32) (j : Nat) (s : State) : (activateStart i j s).pending = s.pending
    := by
    unfold activateStart; (repeat' split) <;> rfl
@[simp] theorem activateNow_pending (session : Nat) (s : State) : (activateNow session s).pending = s.pending := by
    simp [activateNow]
@[simp] theorem judgeActivate_pending (s : State) : (judgeActivate s).pending = s.pending := by
  unfold judgeActivate
  refine foldl_pending _ (fun s j => ?_) _ _
  split
  · rfl
  · split
    · exact activateNow_pending ..
    · rw [jnl_pending, jobEnd_pending]
@[simp] theorem updateWrite_pending (i : Fin 32) (o : Nat) (v : Word) (s : State) : (updateWrite i o v s).2.pending =
    s.pending := by
  unfold updateWrite
  split
  · exact modUpd_pending ..
  · exact upCmdWrite_pending ..
  · split
    · exact modUpd_pending ..
    · rfl
  · split
    · exact modUpd_pending ..
    · rfl
  · split
    · split
      · rfl
      · exact modUpSess_pending ..
    · rfl

/-! ### Watch -/

@[simp] theorem watchFrame_pending (claim l : Nat) (d : End) (c : Nat) (s : State) : (watchFrame claim l d c
    s).pending = s.pending := by rfl
@[simp] theorem watchFrames_pending (r : WatchRun) (c : Nat) (s : State) : (watchFrames r c s).pending = s.pending :=
    by
  unfold watchFrames
  split
  · refine foldl_pending _ (fun s l => ?_) _ _
    split
    · exact watchFrame_pending ..
    · rfl
  · rfl
@[simp] theorem setWatch_pending (r : WatchRun) (s : State) : (setWatch r s).pending = s.pending := by rfl
@[simp] theorem watchEnd_pending (r : WatchRun) (sec : Nat) (s : State) : (watchEnd r sec s).pending = s.pending := by
    rfl
@[simp] theorem watchTrip_pending (r : WatchRun) (c : Nat) (t : List (Nat × Nat)) (s : State) : (watchTrip r c t
    s).pending = s.pending := by simp [watchTrip]

/-! ### Power -/

@[simp] theorem modPw_pending (f : Pw → Pw) (s : State) : (modPw f s).pending = s.pending := by rfl
@[simp] theorem setVsup_pending (mv : Nat) (s : State) : (setVsup mv s).pending = s.pending := by simp [setVsup]
@[simp] theorem powerFailRecords_pending (mv : Nat) (s : State) : (powerFailRecords mv s).pending = s.pending := by
    simp [powerFailRecords]
@[simp] theorem lcChange_pending (l : LcSt) (revoke : Bool) (s : State) : (lcChange l revoke s).pending = s.pending :=
    by
    simp [lcChange]
@[simp] theorem lcEffect_pending (v : Word) (s : State) : (lcEffect v s).pending = s.pending := by
  unfold lcEffect
  dsimp only
  split
  · exact lcChange_pending ..
  · rfl
  · rfl
  · exact lcChange_pending ..
  · exact lcChange_pending ..
@[simp] theorem lcCmdWrite_pending (v : Word) (s : State) : (lcCmdWrite v s).pending = s.pending := by
  unfold lcCmdWrite
  dsimp only
  split
  · rfl
  · rw [bumpNonce_pending]
    exact lcEffect_pending ..
@[simp] theorem powerWrite_pending (o : Nat) (v : Word) (s : State) : (powerWrite o v s).pending = s.pending := by
  unfold powerWrite
  split
  · rfl
  · rfl
  · exact lcCmdWrite_pending ..
  · split <;> rfl

/-! ### Loader -/

@[simp] theorem modLdr_pending (f : Ldr → Ldr) (s : State) : (modLdr f s).pending = s.pending := by rfl
@[simp] theorem loadWord_pending (v : Word) (s : State) : (loadWord v s).pending = s.pending := by
  unfold loadWord
  dsimp only
  (repeat' split) <;> first | rfl | (simp; done)
@[simp] theorem loadStart_pending (i : Fin 32) (v : Word) (s : State) : (loadStart i v s).pending = s.pending := by rfl
@[simp] theorem replaceWord_pending (v : Word) (w : List Word) (s : State) : (replaceWord v w s).pending = s.pending
    := by
    unfold replaceWord; dsimp only; (repeat' split) <;> first | rfl | (simp; done)
@[simp] theorem ldDataWrite_pending (i : Fin 32) (v : Word) (s : State) : (ldDataWrite i v s).2.pending = s.pending :=
    by
  unfold ldDataWrite
  split
  · split
    · rfl
    · exact loadStart_pending ..
  · split
    · exact loadWord_pending ..
    · rfl
  · split
    · split
      · exact replaceWord_pending ..
      · rfl
    · rfl
  · rfl
@[simp] theorem replaceStart_pending (i : Fin 32) (s : State) : (replaceStart i s).2.pending = s.pending := by
  unfold replaceStart
  (repeat' split) <;> rfl
@[simp] theorem ldCtrlWrite_pending (i : Fin 32) (v : Word) (s : State) : (ldCtrlWrite i v s).2.pending = s.pending :=
    by
    unfold ldCtrlWrite; dsimp only; (repeat' split) <;> first | rfl | (simp; done)
@[simp] theorem loadedStart_pending (c : Calibre) (s : State) : (loadedStart c s).pending = s.pending := by rfl
@[simp] theorem replaceTake_pending (p : List Byte) (s : State) : (replaceTake p s).pending = s.pending := by simp
    [replaceTake]
@[simp] theorem goWrite_pending (i : Fin 32) (n : Nat) (s : State) : (goWrite i n s).pending = s.pending := by rfl
@[simp] theorem cancelBatch_pending (s : State) : (cancelBatch s).pending = s.pending := by
  unfold cancelBatch
  (repeat' split) <;> rfl
@[simp] theorem onCtrlWrite_pending (i : Fin 32) (v : Word) (s : State) : (onCtrlWrite i v s).pending = s.pending :=
    by
  unfold onCtrlWrite
  dsimp only
  (repeat' split) <;> first | rfl | (simp; done)
@[simp] theorem batchSide_pending (old : State) (s : State) : (batchSide old s).pending = s.pending := by
  unfold batchSide
  (repeat' split) <;> rfl
@[simp] theorem loaderWrite_pending (i : Fin 32) (o : Nat) (v : Word) (s : State) : (loaderWrite i o v s).2.pending =
    s.pending := by
  unfold loaderWrite
  split
  · rfl
  · exact ldCtrlWrite_pending ..
  · exact ldDataWrite_pending ..
  · rfl
  · exact onCtrlWrite_pending ..
  · split <;> rfl

/-! ### Judge -/

@[simp] theorem idleBeat_pending (s : State) : (idleBeat s).pending = s.pending := by rfl
@[simp] theorem streamBeat_pending (s : State) : (streamBeat s).pending = s.pending := by rfl
@[simp] theorem overrunStop_pending (s : State) : (overrunStop s).pending = s.pending := by
  unfold overrunStop
  dsimp only
  (repeat' split) <;> first | rfl | (simp; done)
@[simp] theorem nextBeat_pending (s : State) : (nextBeat s).pending = s.pending := by simp [nextBeat]
@[simp] theorem setCmdStatus_pending (i : Fin 32) (code : Nat) (r : RspCode) (s : State) : (setCmdStatus i code r
    s).pending = s.pending := by
  unfold setCmdStatus
  (repeat' split) <;> rfl
@[simp] theorem judgeCmd_pending (c : PendCmd) (s : State) : (judgeCmd c s).pending = s.pending := by
  unfold judgeCmd
  dsimp only
  (repeat' split) <;> first | rfl | (simp; done)
@[simp] theorem judgeAll_pending (a0 : Nat) (w1 : State) : (judgeAll a0 w1).pending = w1.pending := by
  induction a0 generalizing w1 with
  | zero => rfl
  | succ n ih =>
    unfold judgeAll
    split
    · rfl
    · split
      · rfl
      · rw [ih]
        exact judgeCmd_pending ..
@[simp] theorem passSingles_pending (s : State) : (passSingles s).pending = s.pending := by
  unfold passSingles
  refine foldl_pending _ (fun s l => ?_) _ _
  split
  · exact linePass_pending ..
  · rfl
@[simp] theorem armFail_pending (n : Nat) (s : State) : (armFail n s).pending = s.pending := by rfl
@[simp] theorem armDone_pending (c : Calibre) (s : State) : (armDone c s).pending = s.pending := by simp [armDone]

/-! ### Regs -/

@[simp] theorem modSub_pending (j : Nat) (f : Sub → Sub) (s : State) : (modSub j f s).pending = s.pending := by rfl
@[simp] theorem sessionsWrite_pending (o : Nat) (v : Word) (s : State) : (sessionsWrite o v s).2.pending = s.pending
    := by
    unfold sessionsWrite; (repeat' split) <;> rfl
@[simp] theorem jobStartKind_pending (i : Fin 32) (j : Fin 8) (kind : Nat) (s : State) : (jobStartKind i j kind
    s).2.pending = s.pending := by
  unfold jobStartKind
  split
  · exact contactorStart_pending ..
  · exact contactorStart_pending ..
  · exact clearStart_pending ..
  · split
    · exact discardStart_pending ..
    · rfl
  · split
    · exact activateStart_pending ..
    · rfl
  · exact jobRefuse_pending ..
@[simp] theorem jobStartWrite_pending (i : Fin 32) (j : Fin 8) (kind : Nat) (s : State) : (jobStartWrite i j kind
    s).2.pending = s.pending := by
  unfold jobStartWrite
  split
  · exact jobStartKind_pending ..
  · rfl
@[simp] theorem jobCtrlWrite_pending (i : Fin 32) (j : Fin 8) (v : Word) (s : State) : (jobCtrlWrite i j v
    s).2.pending = s.pending := by
  unfold jobCtrlWrite
  dsimp only
  (repeat' split) <;> first | rfl | (simp; done)
@[simp] theorem jobsWrite_pending (i : Fin 32) (o : Nat) (v : Word) (s : State) : (jobsWrite i o v s).2.pending =
    s.pending := by
  unfold jobsWrite
  split
  · dsimp only
    split
    · exact jobCtrlWrite_pending ..
    · exact jobArgWrite_pending ..
    · rfl
  · rfl
@[simp] theorem fabricWrite_pending (o : Nat) (v : Word) (s : State) : (fabricWrite o v s).2.pending = s.pending := by
  unfold fabricWrite
  split
  · rfl
  · exact pairCtrlWrite_pending ..
  · rfl
  · rfl
@[simp] theorem setQueue_pending (q : QueueId) (x : Queue) (s : State) : (setQueue q x s).pending = s.pending := by
  unfold setQueue
  repeat' split
  all_goals first
    | rfl
    | exact foldl_pending _ (fun s _ => by (repeat' split) <;> first | rfl | simp) _ _
    | (refine (foldl_pending _ (fun s _ => by (repeat' split) <;> first | rfl | simp) _ _).trans ?_; simp)
    | simp
@[simp] theorem headRead_pending (i : Fin 32) (q : QueueId) (s : State) : (headRead i q s).2.2.pending = s.pending :=
    by
  unfold headRead
  dsimp only
  (repeat' split) <;> first | rfl | (simp; done)
@[simp] theorem takeLatch_pending (i : Fin 32) (a : Nat) (s : State) : (takeLatch i a s).pending = s.pending := by
  unfold takeLatch
  dsimp only
  (repeat' split) <;> first | rfl | (simp; done)
@[simp] theorem readWord_pending (i : Fin 32) (a : Nat) (s : State) : (readWord i a s).2.2.pending = s.pending := by
  unfold readWord
  split
  · rfl
  · split
    · rfl
    · split
      · exact headRead_pending ..
      · exact takeLatch_pending ..
@[simp] theorem stateCmdWrite_pending (i : Fin 32) (req : Option (Req × Nat × Nat)) (v : Word) (s : State) :
    (stateCmdWrite i req v s).2.pending = s.pending := by
  unfold stateCmdWrite
  dsimp only
  (repeat' split) <;> first | rfl | (simp; done)
@[simp] theorem blockWrite_pending (i : Fin 32) (req : Option (Req × Nat × Nat)) (b : Blk) (o : Nat) (v : Word) (s :
    State) : (blockWrite i req b o v s).2.pending = s.pending := by
  have hc : ∀ t, chainWrite o v s = some t → t.pending = s.pending := by
    intro t ht
    unfold chainWrite at ht
    split at ht
    · cases ht; rfl
    · split at ht
      · cases ht
        split
        · exact chClear_pending ..
        · rfl
      · cases ht
  unfold blockWrite
  split
  · split
    · exact stateCmdWrite_pending ..
    · rfl
  · rfl
  · exact jobsWrite_pending ..
  · exact sessionsWrite_pending ..
  · exact queuesWrite_pending ..
  · exact loaderWrite_pending ..
  · exact timeWrite_pending ..
  · cases h : chainWrite o v s with
    | none => rfl
    | some t => exact hc t h
  · exact measWrite_pending ..
  · exact estWrite_pending ..
  · exact limWrite_pending ..
  · exact safWrite_pending ..
  · exact lgWrite_pending ..
  · exact fabricWrite_pending ..
  · exact canWrite_pending ..
  · exact canWrite_pending ..
  · rfl
  · exact fioWrite_pending ..
  · exact powerWrite_pending ..
  · exact recordsWrite_pending ..
  · exact updateWrite_pending ..
  · rfl
  · exact cellSumWrite_pending ..
  · rfl
@[simp] theorem writeWord_pending (i : Fin 32) (req : Option (Req × Nat × Nat)) (a : Nat) (v : Word) (s : State) :
    (writeWord i req a v s).2.pending = s.pending := by
  unfold writeWord
  split
  · rfl
  · split
    · rfl
    · split
      · rfl
      · exact blockWrite_pending ..

/-! ### Publish -/

@[simp] theorem publishOne_pending (b : Sub) (s : State) : (publishOne b s).pending = s.pending := by simp [publishOne]

/-! ### Host -/

@[simp] theorem access_pending (i : Fin 32) (op a : Nat) (f : State → State) (s : State) (hf : ∀ s, (f s).pending =
    s.pending) : (access i op a f s).pending = s.pending := by
  unfold access; (repeat' split) <;> simp [hf]
@[simp] theorem hostWrite_pending (i : Fin 32) (a : Nat) (v : Word) (s : State) : (hostWrite i a v s).pending =
    s.pending := by
  unfold hostWrite
  refine access_pending _ _ _ _ _ (fun s => ?_)
  have h := writeWord_pending i none a v s
  dsimp only
  split
  · exact h
  · rw [respond_pending]
    exact h
@[simp] theorem hostRead_pending (i : Fin 32) (a : Nat) (s : State) : (hostRead i a s).pending = s.pending := by
  unfold hostRead
  refine access_pending _ _ _ _ _ (fun s => ?_)
  have h := readWord_pending i a s
  dsimp only
  rw [respond_pending]
  exact h
@[simp] theorem heard_pending (r : Req) (s : State) : (heard r s).2.pending = s.pending := by
  unfold heard
  repeat' split
  all_goals first
    | rfl
    | exact foldl_pending _ (fun s _ => by (repeat' split) <;> first | rfl | simp) _ _
    | (refine (foldl_pending _ (fun s _ => by (repeat' split) <;> first | rfl | simp) _ _).trans ?_; simp)
    | simp
@[simp] theorem serve_pending (r : Req) (op addr : Nat) (f : Fin 32 → State → State) (s : State) (hf : ∀ i s, (f i
    s).pending = s.pending) : (serve r op addr f s).pending = s.pending := by
  unfold serve
  (repeat' split) <;> first | rfl | (simp [hf]; done) | (dsimp only; (repeat' split) <;> simp [hf])
@[simp] theorem request_pending (r : Req) (op addr : Nat) (f : Fin 32 → State → State) (s : State) (hf : ∀ i s, (f i
    s).pending = s.pending) : (request r op addr f s).pending = s.pending := by
  unfold request; split
  · split
    · rename_i s' heq; have h2 := heard_pending r s; rw [heq] at h2; simpa [hf] using h2
    · rename_i s' heq; have h2 := heard_pending r s; rw [heq] at h2; simpa using h2
  · rfl
@[simp] theorem readAll_pending (i : Fin 32) (step : Nat) (a0 : Nat) (a1 : Nat) (w2 : State) : (readAll i step a0 a1
    w2).2.2.2.pending = w2.pending := by
  induction a0 generalizing a1 w2 with
  | zero => rfl
  | succ n ih =>
    have h := readWord_pending i a1 w2
    unfold readAll
    dsimp only
    split
    · exact (ih ..).trans h
    · exact h
@[simp] theorem writeAll_pending (i : Fin 32) (r : Req) (count : Nat) (a0 : List Word) (a1 : Nat) (a2 : Nat) (w3 :
    State) : (writeAll i r count a0 a1 a2 w3).2.2.2.pending = w3.pending := by
  induction a0 generalizing a1 a2 w3 with
  | nil => rfl
  | cons v l ih =>
    have h : (if w3.host.sess[i].isOpen then writeWord i (some (r, count, a1)) a2 v w3 else (.session, w3)).2.pending = w3.pending := by
      split
      · exact writeWord_pending ..
      · rfl
    unfold writeAll
    generalize (if w3.host.sess[i].isOpen then writeWord i (some (r, count, a1)) a2 v w3 else (.session, w3)) = x at h ⊢
    dsimp only
    split
    · exact (ih ..).trans h
    · exact h
@[simp] theorem readReq_pending (r : Req) (op count step addr : Nat) (i : Fin 32) (s : State) :
    (readReq r op count step addr i
    s).pending = s.pending := by
  unfold readReq
  split
  · dsimp only
    rw [answer_pending]
    exact readAll_pending ..
  · exact answer_pending ..
@[simp] theorem dropReq_pending (i : Fin 32) (s : State) : (dropReq i s).pending = s.pending := by rfl
@[simp] theorem writeReq_pending (r : Req) (count addr : Nat) (data : List Word) (i : Fin 32) (s : State) :
    (writeReq r count addr data i s).pending = s.pending := by
  unfold writeReq
  dsimp only
  (repeat' split) <;> first | rfl | (simp; done)
@[simp] theorem openReq_pending (r : Req) (word : Word) (s : State) : (openReq r word s).pending = s.pending := by
  unfold openReq
  dsimp only
  (repeat' split) <;> first | rfl | (simp; done)

end Sys2Proof.Machine
end

