-- ==== Sys2Proof/Laws/Commands.lean ====
section
/-! SUPPORT. Every command's meaning answers a next state and leaves the queue of waiting commands alone. -/

namespace Sys2Proof.Machine

theorem execCanFrameSent_pending (c : Fin 2) (s : State) : ∃ s', execCanFrameSent c s = .next s' ∧ s'.pending =
    s.pending := by
  unfold execCanFrameSent
  dsimp only
  repeat' split
  all_goals exact ⟨_, rfl, by simp⟩
theorem execCanAckError_pending (c : Fin 2) (s : State) : ∃ s', execCanAckError c s = .next s' ∧ s'.pending =
    s.pending := by
  unfold execCanAckError
  dsimp only
  repeat' split
  all_goals exact ⟨_, rfl, by simp⟩
theorem execCanBusError_pending (c : Fin 2) (transmitting : Bool) (s : State) : ∃ s', execCanBusError c transmitting s
    = .next s' ∧ s'.pending = s.pending := by
  unfold execCanBusError
  dsimp only
  repeat' split
  all_goals exact ⟨_, rfl, by simp⟩
theorem execCanArbitrationLost_pending (c : Fin 2) (s : State) : ∃ s', execCanArbitrationLost c s = .next s' ∧
    s'.pending = s.pending := by
  unfold execCanArbitrationLost
  dsimp only
  repeat' split
  all_goals exact ⟨_, rfl, by simp⟩
theorem execBusOffRecovery_pending (c : Fin 2) (s : State) : ∃ s', execBusOffRecovery c s = .next s' ∧ s'.pending =
    s.pending := by
  unfold execBusOffRecovery
  dsimp only
  repeat' split
  all_goals exact ⟨_, rfl, by simp⟩
theorem execCanFrameReceived_pending (c : Fin 2) (f : CanFrame) (s : State) : ∃ s', execCanFrameReceived c f s = .next
    s' ∧ s'.pending = s.pending := by
  unfold execCanFrameReceived
  dsimp only
  repeat' split
  all_goals exact ⟨_, rfl, by simp⟩
theorem execTxb1Load_pending (c : Fin 2) (s : State) : ∃ s', execTxb1Load c s = .next s' ∧ s'.pending = s.pending :=
    by
  unfold execTxb1Load
  dsimp only
  repeat' split
  all_goals exact ⟨_, rfl, by simp⟩
theorem execCellRoundUpdate_pending (s : State) : ∃ s', execCellRoundUpdate s = .next s' ∧ s'.pending = s.pending :=
    by
  unfold execCellRoundUpdate
  dsimp only
  repeat' split
  all_goals exact ⟨_, rfl, by simp⟩
theorem execRoundEffect_pending (s : State) : ∃ s', execRoundEffect s = .next s' ∧ s'.pending = s.pending := by
  unfold execRoundEffect
  dsimp only
  repeat' split
  all_goals exact ⟨_, rfl, by simp⟩
theorem execEnumReset_pending (line : Fin 4) (s : State) : ∃ s', execEnumReset line s = .next s' ∧ s'.pending =
    s.pending := by
  unfold execEnumReset
  dsimp only
  repeat' split
  all_goals exact ⟨_, rfl, by simp⟩
theorem execEnumAssign_pending (line : Fin 4) (s : State) : ∃ s', execEnumAssign line s = .next s' ∧ s'.pending =
    s.pending := by
  unfold execEnumAssign
  dsimp only
  repeat' split
  all_goals exact ⟨_, rfl, by simp⟩
theorem execEnumLineEnd_pending (line : Fin 4) (s : State) : ∃ s', execEnumLineEnd line s = .next s' ∧ s'.pending =
    s.pending := by
  unfold execEnumLineEnd
  dsimp only
  repeat' split
  all_goals exact ⟨_, rfl, by simp⟩
theorem execReadId_pending (node : Fin 64) (s : State) : ∃ s', execReadId node s = .next s' ∧ s'.pending = s.pending
    := by
  unfold execReadId
  dsimp only
  repeat' split
  all_goals exact ⟨_, rfl, by simp⟩
theorem execMeasSense_pending (node : Fin 64) (s : State) : ∃ s', execMeasSense node s = .next s' ∧ s'.pending =
    s.pending := by
  unfold execMeasSense
  dsimp only
  repeat' split
  all_goals exact ⟨_, rfl, by simp⟩
theorem execReadSense_pending (node : Fin 64) (s : State) : ∃ s', execReadSense node s = .next s' ∧ s'.pending =
    s.pending := by
  unfold execReadSense
  dsimp only
  repeat' split
  all_goals exact ⟨_, rfl, by simp⟩
theorem execSetDelay_pending (node : Fin 64) (s : State) : ∃ s', execSetDelay node s = .next s' ∧ s'.pending =
    s.pending := by
  unfold execSetDelay
  dsimp only
  repeat' split
  all_goals exact ⟨_, rfl, by simp⟩
theorem execSetTapPlan_pending (node : Fin 64) (s : State) : ∃ s', execSetTapPlan node s = .next s' ∧ s'.pending =
    s.pending := by
  unfold execSetTapPlan
  dsimp only
  repeat' split
  all_goals exact ⟨_, rfl, by simp⟩
theorem execReassign_pending (line : Fin 4) (addr : Fin 64) (s : State) : ∃ s', execReassign line addr s = .next s' ∧
    s'.pending = s.pending := by
  unfold execReassign
  dsimp only
  repeat' split
  all_goals exact ⟨_, rfl, by simp⟩
theorem execReadDiag_pending (node : Fin 64) (s : State) : ∃ s', execReadDiag node s = .next s' ∧ s'.pending =
    s.pending := by
  unfold execReadDiag
  dsimp only
  repeat' split
  all_goals exact ⟨_, rfl, by simp⟩
theorem execClearDiag_pending (node : Fin 64) (s : State) : ∃ s', execClearDiag node s = .next s' ∧ s'.pending =
    s.pending := by
  unfold execClearDiag
  dsimp only
  repeat' split
  all_goals exact ⟨_, rfl, by simp⟩
theorem execSleep_pending (line : Fin 4) (s : State) : ∃ s', execSleep line s = .next s' ∧ s'.pending = s.pending :=
    by
  unfold execSleep
  dsimp only
  repeat' split
  all_goals exact ⟨_, rfl, by simp⟩
theorem execProbeFrame_pending (s : State) : ∃ s', execProbeFrame s = .next s' ∧ s'.pending = s.pending := by
  unfold execProbeFrame
  dsimp only
  split
  · exact ⟨_, rfl, (foldl_pending _ (fun s l => probeLine_pending l s) _ _).trans rfl⟩
  · exact ⟨_, rfl, rfl⟩
theorem execEcho_pending (h : ChainHdr) (payload : List Byte) (rttNs : Nat) (s : State) :
    ∃ s', execEcho h payload rttNs s = .next s' ∧ s'.pending = s.pending := by
  unfold execEcho
  dsimp only
  repeat' split
  all_goals exact ⟨_, rfl, by simp⟩
theorem execProbeLost_pending (line : Fin 4) (s : State) : ∃ s', execProbeLost line s = .next s' ∧ s'.pending =
    s.pending := by
  unfold execProbeLost
  dsimp only
  repeat' split
  all_goals exact ⟨_, rfl, by simp⟩
theorem execResult_pending (h : ChainHdr) (b : ResultBody) (s : State) : ∃ s', execResult h b s = .next s' ∧
    s'.pending = s.pending := by
  unfold execResult
  dsimp only
  repeat' split
  all_goals exact ⟨_, rfl, by simp⟩
theorem execAux_pending (h : ChainHdr) (b : AuxBody) (s : State) : ∃ s', execAux h b s = .next s' ∧ s'.pending =
    s.pending := by
  unfold execAux
  dsimp only
  repeat' split
  all_goals exact ⟨_, rfl, by simp⟩
theorem execAnnounce_pending (h : ChainHdr) (uid nodeType proto : Nat) (s : State) : ∃ s', execAnnounce h uid nodeType
    proto s = .next s' ∧ s'.pending = s.pending := by
  unfold execAnnounce
  dsimp only
  repeat' split
  all_goals exact ⟨_, rfl, by simp⟩
theorem execPassThroughCheck_pending (line : Fin 4) (seen : Option Nat) (s : State) : ∃ s', execPassThroughCheck line
    seen s = .next s' ∧ s'.pending = s.pending := by
  unfold execPassThroughCheck
  dsimp only
  repeat' split
  all_goals exact ⟨_, rfl, by simp⟩
theorem execLineReturnWhole_pending (line : Fin 4) (s : State) : ∃ s', execLineReturnWhole line s = .next s' ∧
    s'.pending = s.pending := by
  unfold execLineReturnWhole
  dsimp only
  repeat' split
  all_goals exact ⟨_, rfl, by simp⟩
theorem execChainCommit_pending (s : State) : ∃ s', execChainCommit s = .next s' ∧ s'.pending = s.pending := by
  unfold execChainCommit
  dsimp only
  repeat' split
  all_goals exact ⟨_, rfl, by simp⟩
theorem execChargeCommit_pending (s : State) : ∃ s', execChargeCommit s = .next s' ∧ s'.pending = s.pending := by
  unfold execChargeCommit
  dsimp only
  repeat' split
  all_goals exact ⟨_, rfl, by simp⟩
theorem execFilterStep_pending (pos : Fin 1024) (s : State) : ∃ s', execFilterStep pos s = .next s' ∧ s'.pending =
    s.pending := by
  unfold execFilterStep
  dsimp only
  repeat' split
  all_goals exact ⟨_, rfl, by simp⟩
theorem execSecondJudgement_pending (s : State) : ∃ s', execSecondJudgement s = .next s' ∧ s'.pending = s.pending :=
    by
  unfold execSecondJudgement
  dsimp only
  repeat' split
  all_goals exact ⟨_, rfl, by simp⟩
theorem execAnchorHour_pending (s : State) : ∃ s', execAnchorHour s = .next s' ∧ s'.pending = s.pending := by
  unfold execAnchorHour
  dsimp only
  repeat' split
  all_goals exact ⟨_, rfl, by simp⟩
theorem execWarningEvaluation_pending (s : State) : ∃ s', execWarningEvaluation s = .next s' ∧ s'.pending = s.pending
    := by
  unfold execWarningEvaluation
  dsimp only
  repeat' split
  all_goals exact ⟨_, rfl, by simp⟩
theorem execHsrFrameReceive_pending (h : FabHdr) (s : State) : ∃ s', execHsrFrameReceive h s = .next s' ∧ s'.pending =
    s.pending := by
  unfold execHsrFrameReceive
  dsimp only
  repeat' split
  all_goals exact ⟨_, rfl, by simp⟩
theorem execSupervisionFrame_pending (backP0 backP1 : Bool) (s : State) : ∃ s', execSupervisionFrame backP0 backP1 s =
    .next s' ∧ s'.pending = s.pending := by
  unfold execSupervisionFrame
  dsimp only
  repeat' split
  all_goals exact ⟨_, rfl, by simp⟩
theorem execPortLinkChange_pending (p : Fin 3) (up : Bool) (s : State) : ∃ s', execPortLinkChange p up s = .next s' ∧
    s'.pending = s.pending := by
  unfold execPortLinkChange
  dsimp only
  repeat' split
  all_goals exact ⟨_, rfl, by simp⟩
theorem execDiscover_pending (rx : Option (FabHdr × DiscoverBody)) (s : State) : ∃ s', execDiscover rx s = .next s' ∧
    s'.pending = s.pending := by
  unfold execDiscover
  dsimp only
  repeat' split
  all_goals exact ⟨_, rfl, by simp⟩
theorem execAddrClaim_pending (rx : Option (FabHdr × Nat)) (s : State) : ∃ s', execAddrClaim rx s = .next s' ∧
    s'.pending = s.pending := by
  unfold execAddrClaim
  dsimp only
  repeat' split
  all_goals exact ⟨_, rfl, by simp⟩
theorem execAddressTaken_pending (s : State) : ∃ s', execAddressTaken s = .next s' ∧ s'.pending = s.pending := by
  unfold execAddressTaken
  dsimp only
  repeat' split
  all_goals exact ⟨_, rfl, by simp⟩
theorem execInsResult_pending (h : FabHdr) (rPos rNeg endBeat : Nat) (s : State) : ∃ s', execInsResult h rPos rNeg
    endBeat s = .next s' ∧ s'.pending = s.pending := by
  unfold execInsResult
  exact ⟨_, rfl, by simp⟩
theorem execBankState_pending (rx : Option (FabHdr × Nat × BankBody)) (s : State) : ∃ s', execBankState rx s = .next
    s' ∧ s'.pending = s.pending := by
  unfold execBankState
  dsimp only
  repeat' split
  all_goals exact ⟨_, rfl, by simp⟩
theorem execBankComputation_pending (s : State) : ∃ s', execBankComputation s = .next s' ∧ s'.pending = s.pending :=
    by
  unfold execBankComputation
  dsimp only
  repeat' split
  all_goals exact ⟨_, rfl, by simp⟩
theorem execInputFilterChange_pending (k : Fin 16) (level : Bool) (s : State) : ∃ s', execInputFilterChange k level s
    = .next s' ∧ s'.pending = s.pending := by
  unfold execInputFilterChange
  dsimp only
  repeat' split
  all_goals exact ⟨_, rfl, by simp⟩
theorem execCounterEdge_pending (k : Fin 4) (s : State) : ∃ s', execCounterEdge k s = .next s' ∧ s'.pending =
    s.pending := by
  unfold execCounterEdge
  dsimp only
  repeat' split
  all_goals exact ⟨_, rfl, by simp⟩
theorem execOverload_pending (k : Fin 16) (s : State) : ∃ s', execOverload k s = .next s' ∧ s'.pending = s.pending :=
    by
  unfold execOverload
  dsimp only
  repeat' split
  all_goals exact ⟨_, rfl, by simp⟩
theorem execOvertemp_pending (k : Fin 16) (tempC : Int) (s : State) : ∃ s', execOvertemp k tempC s = .next s' ∧
    s'.pending = s.pending := by
  unfold execOvertemp
  dsimp only
  repeat' split
  all_goals exact ⟨_, rfl, by simp⟩
theorem execReadback_pending (k : Fin 16) (s : State) : ∃ s', execReadback k s = .next s' ∧ s'.pending = s.pending :=
    by
  unfold execReadback
  dsimp only
  repeat' split
  all_goals exact ⟨_, rfl, by simp⟩
theorem execReadbackClear_pending (k : Fin 16) (s : State) : ∃ s', execReadbackClear k s = .next s' ∧ s'.pending =
    s.pending := by
  unfold execReadbackClear
  dsimp only
  repeat' split
  all_goals exact ⟨_, rfl, by simp⟩
theorem execOpenWire_pending (k : Fin 16) (s : State) : ∃ s', execOpenWire k s = .next s' ∧ s'.pending = s.pending :=
    by
  unfold execOpenWire
  dsimp only
  repeat' split
  all_goals exact ⟨_, rfl, by simp⟩
theorem execOpenWireClear_pending (k : Fin 16) (s : State) : ∃ s', execOpenWireClear k s = .next s' ∧ s'.pending =
    s.pending := by
  unfold execOpenWireClear
  dsimp only
  repeat' split
  all_goals exact ⟨_, rfl, by simp⟩
theorem execSilenceExpiry_pending (s : State) : ∃ s', execSilenceExpiry s = .next s' ∧ s'.pending = s.pending := by
  unfold execSilenceExpiry
  dsimp only
  repeat' split
  all_goals exact ⟨_, rfl, by simp⟩
theorem execThConversion_pending (raw : List Nat) (s : State) : ∃ s', execThConversion raw s = .next s' ∧ s'.pending =
    s.pending := by
  unfold execThConversion
  dsimp only
  repeat' split
  all_goals exact ⟨_, rfl, by simp⟩
theorem execOpenReq_pending (r : Req) (word : Word) (s : State) : ∃ s', execOpenReq r word s = .next s' ∧ s'.pending =
    s.pending := by
  unfold execOpenReq
  dsimp only
  split
  · have h := heard_pending r (fresh s)
    split <;> rename_i heq <;> rw [heq] at h <;> exact ⟨_, rfl, by simpa using h⟩
  · exact ⟨_, rfl, rfl⟩
theorem execCloseReq_pending (r : Req) (s : State) : ∃ s', execCloseReq r s = .next s' ∧ s'.pending = s.pending := by
  unfold execCloseReq
  dsimp only
  repeat' split
  all_goals exact ⟨_, rfl, by simp⟩
theorem execRead_pending (r : Req) (count : Nat) (addr : Word) (s : State) :
    ∃ s', execRead r count addr s = .next s' ∧ s'.pending = s.pending := by
  unfold execRead
  exact ⟨_, rfl, by simp⟩
theorem execWrite_pending (r : Req) (count : Nat) (addr : Word) (data : List Word) (s : State) :
    ∃ s', execWrite r count addr data s = .next s' ∧ s'.pending = s.pending := by
  unfold execWrite
  exact ⟨_, rfl, by simp⟩
theorem execReadFixed_pending (r : Req) (count : Nat) (addr : Word) (s : State) :
    ∃ s', execReadFixed r count addr s = .next s' ∧
    s'.pending = s.pending := by
  unfold execReadFixed
  exact ⟨_, rfl, by simp⟩
theorem execNop_pending (r : Req) (s : State) : ∃ s', execNop r s = .next s' ∧ s'.pending = s.pending := by
  unfold execNop
  exact ⟨_, rfl, by simp⟩
theorem execReservedOpRequest_pending (r : Req) (op : Nat) (s : State) : ∃ s', execReservedOpRequest r op s = .next s'
    ∧ s'.pending = s.pending := by
  unfold execReservedOpRequest
  exact ⟨_, rfl, by simp⟩
theorem execSessionTimeout_pending (i : Fin 32) (s : State) : ∃ s', execSessionTimeout i s = .next s' ∧ s'.pending =
    s.pending := by
  unfold execSessionTimeout
  dsimp only
  repeat' split
  all_goals exact ⟨_, rfl, by simp⟩
theorem execHostWrite_pending (i : Fin 32) (addr value : Word) (s : State) : ∃ s', execHostWrite i addr value s =
    .next s' ∧ s'.pending = s.pending := by
  exact ⟨_, rfl, hostWrite_pending ..⟩
theorem execLatchingRead_pending (i : Fin 32) (addr : Word) (s : State) : ∃ s', execLatchingRead i addr s = .next s' ∧
    s'.pending = s.pending := by
  unfold execLatchingRead
  exact ⟨_, rfl, by simp⟩
theorem execEnterStorage_pending (i : Fin 32) (s : State) : ∃ s', execEnterStorage i s = .next s' ∧ s'.pending =
    s.pending := by
  exact ⟨_, rfl, hostWrite_pending ..⟩
theorem execArm_pending (i : Fin 32) (s : State) : ∃ s', execArm i s = .next s' ∧ s'.pending = s.pending := by
  exact ⟨_, rfl, hostWrite_pending ..⟩
theorem execRun_pending (i : Fin 32) (s : State) : ∃ s', execRun i s = .next s' ∧ s'.pending = s.pending := by
  exact ⟨_, rfl, hostWrite_pending ..⟩
theorem execStop_pending (i : Fin 32) (s : State) : ∃ s', execStop i s = .next s' ∧ s'.pending = s.pending := by
  exact ⟨_, rfl, hostWrite_pending ..⟩
theorem execService_pending (i : Fin 32) (s : State) : ∃ s', execService i s = .next s' ∧ s'.pending = s.pending := by
  exact ⟨_, rfl, hostWrite_pending ..⟩
theorem execWatch_pending (i : Fin 32) (s : State) : ∃ s', execWatch i s = .next s' ∧ s'.pending = s.pending := by
  exact ⟨_, rfl, hostWrite_pending ..⟩
theorem execResetCmd_pending (i : Fin 32) (s : State) : ∃ s', execResetCmd i s = .next s' ∧ s'.pending = s.pending :=
    by
  exact ⟨_, rfl, hostWrite_pending ..⟩
theorem execSteer_pending (i : Fin 32) (value : Word) (s : State) : ∃ s', execSteer i value s = .next s' ∧ s'.pending
    = s.pending := by
  exact ⟨_, rfl, hostWrite_pending ..⟩
theorem execTriggerArm_pending (i : Fin 32) (k : Fin 4) (value : Word) (s : State) : ∃ s', execTriggerArm i k value s
    = .next s' ∧ s'.pending = s.pending := by
  exact ⟨_, rfl, hostWrite_pending ..⟩
theorem execTsqPop_pending (i : Fin 32) (p : Fin 3) (value : Word) (s : State) : ∃ s', execTsqPop i p value s = .next
    s' ∧ s'.pending = s.pending := by
  exact ⟨_, rfl, hostWrite_pending ..⟩
theorem execProbe_pending (i : Fin 32) (value : Word) (s : State) : ∃ s', execProbe i value s = .next s' ∧ s'.pending
    = s.pending := by
  exact ⟨_, rfl, hostWrite_pending ..⟩
theorem execEngLoadClear_pending (i : Fin 32) (e : Fin 11) (value : Word) (s : State) : ∃ s', execEngLoadClear i e
    value s = .next s' ∧ s'.pending = s.pending := by
  exact ⟨_, rfl, hostWrite_pending ..⟩
theorem execLdData_pending (i : Fin 32) (word : Word) (s : State) : ∃ s', execLdData i word s = .next s' ∧ s'.pending
    = s.pending := by
  exact ⟨_, rfl, hostWrite_pending ..⟩
theorem execLdCtrlAbort_pending (i : Fin 32) (s : State) : ∃ s', execLdCtrlAbort i s = .next s' ∧ s'.pending =
    s.pending := by
  exact ⟨_, rfl, hostWrite_pending ..⟩
theorem execReplaceLogic_pending (i : Fin 32) (s : State) : ∃ s', execReplaceLogic i s = .next s' ∧ s'.pending =
    s.pending := by
  exact ⟨_, rfl, hostWrite_pending ..⟩
theorem execOnCtrlGo_pending (i : Fin 32) (n : Fin 32) (s : State) : ∃ s', execOnCtrlGo i n s = .next s' ∧ s'.pending
    = s.pending := by
  exact ⟨_, rfl, hostWrite_pending ..⟩
theorem execCancel_pending (i : Fin 32) (s : State) : ∃ s', execCancel i s = .next s' ∧ s'.pending = s.pending := by
  exact ⟨_, rfl, hostWrite_pending ..⟩
theorem execChClrCounts_pending (i : Fin 32) (s : State) : ∃ s', execChClrCounts i s = .next s' ∧ s'.pending =
    s.pending := by
  exact ⟨_, rfl, hostWrite_pending ..⟩
theorem execTake_pending (i : Fin 32) (value : Word) (s : State) : ∃ s', execTake i value s = .next s' ∧ s'.pending =
    s.pending := by
  exact ⟨_, rfl, hostWrite_pending ..⟩
theorem execRefReset_pending (i : Fin 32) (s : State) : ∃ s', execRefReset i s = .next s' ∧ s'.pending = s.pending :=
    by
  exact ⟨_, rfl, hostWrite_pending ..⟩
theorem execSeedCtrlGo_pending (i : Fin 32) (value : Word) (s : State) : ∃ s', execSeedCtrlGo i value s = .next s' ∧
    s'.pending = s.pending := by
  exact ⟨_, rfl, hostWrite_pending ..⟩
theorem execKCmd_pending (i : Fin 32) (value : Word) (s : State) : ∃ s', execKCmd i value s = .next s' ∧ s'.pending =
    s.pending := by
  exact ⟨_, rfl, hostWrite_pending ..⟩
theorem execPrecharge_pending (i : Fin 32) (j : Fin 8) (s : State) : ∃ s', execPrecharge i j s = .next s' ∧ s'.pending
    = s.pending := by
  exact ⟨_, rfl, hostWrite_pending ..⟩
theorem execCloseMain_pending (i : Fin 32) (j : Fin 8) (s : State) : ∃ s', execCloseMain i j s = .next s' ∧ s'.pending
    = s.pending := by
  exact ⟨_, rfl, hostWrite_pending ..⟩
theorem execJobAbort_pending (i : Fin 32) (j : Fin 8) (s : State) : ∃ s', execJobAbort i j s = .next s' ∧ s'.pending =
    s.pending := by
  exact ⟨_, rfl, hostWrite_pending ..⟩
theorem execJobClear_pending (i : Fin 32) (j : Fin 8) (s : State) : ∃ s', execJobClear i j s = .next s' ∧ s'.pending =
    s.pending := by
  exact ⟨_, rfl, hostWrite_pending ..⟩
theorem execForceEnable_pending (i : Fin 32) (f : Fin 32) (value : Word) (s : State) : ∃ s', execForceEnable i f value
    s = .next s' ∧ s'.pending = s.pending := by
  exact ⟨_, rfl, hostWrite_pending ..⟩
theorem execForceClear_pending (i : Fin 32) (f : Fin 32) (value : Word) (s : State) : ∃ s', execForceClear i f value s
    = .next s' ∧ s'.pending = s.pending := by
  exact ⟨_, rfl, hostWrite_pending ..⟩
theorem execVarWr_pending (i : Fin 32) (value : Word) (s : State) : ∃ s', execVarWr i value s = .next s' ∧ s'.pending
    = s.pending := by
  exact ⟨_, rfl, hostWrite_pending ..⟩
theorem execLgClrCounts_pending (i : Fin 32) (s : State) : ∃ s', execLgClrCounts i s = .next s' ∧ s'.pending =
    s.pending := by
  exact ⟨_, rfl, hostWrite_pending ..⟩
theorem execYieldCmd_pending (i : Fin 32) (s : State) : ∃ s', execYieldCmd i s = .next s' ∧ s'.pending = s.pending :=
    by
  exact ⟨_, rfl, hostWrite_pending ..⟩
theorem execReclaim_pending (i : Fin 32) (s : State) : ∃ s', execReclaim i s = .next s' ∧ s'.pending = s.pending := by
  exact ⟨_, rfl, hostWrite_pending ..⟩
theorem execQdataRead_pending (i : Fin 32) (q : QueueId) (s : State) : ∃ s', execQdataRead i q s = .next s' ∧
    s'.pending = s.pending := by
  unfold execQdataRead
  exact ⟨_, rfl, by simp⟩
theorem execFlush_pending (i : Fin 32) (q : QueueId) (s : State) : ∃ s', execFlush i q s = .next s' ∧ s'.pending =
    s.pending := by
  exact ⟨_, rfl, hostWrite_pending ..⟩
theorem execClaim_pending (i : Fin 32) (q : Fin 8) (s : State) : ∃ s', execClaim i q s = .next s' ∧ s'.pending =
    s.pending := by
  exact ⟨_, rfl, hostWrite_pending ..⟩
theorem execQueueRelease_pending (i : Fin 32) (q : Fin 8) (s : State) : ∃ s', execQueueRelease i q s = .next s' ∧
    s'.pending = s.pending := by
  exact ⟨_, rfl, hostWrite_pending ..⟩
theorem execReq_pending (i : Fin 32) (c : Fin 2) (b : Fin 3) (s : State) : ∃ s', execReq i c b s = .next s' ∧
    s'.pending = s.pending := by
  exact ⟨_, rfl, hostWrite_pending ..⟩
theorem execTxbAbort_pending (i : Fin 32) (c : Fin 2) (b : Fin 3) (s : State) : ∃ s', execTxbAbort i c b s = .next s'
    ∧ s'.pending = s.pending := by
  exact ⟨_, rfl, hostWrite_pending ..⟩
theorem execLoop_pending (i : Fin 32) (c : Fin 2) (value : Word) (s : State) : ∃ s', execLoop i c value s = .next s' ∧
    s'.pending = s.pending := by
  exact ⟨_, rfl, hostWrite_pending ..⟩
theorem execCntClr_pending (i : Fin 32) (value : Word) (s : State) : ∃ s', execCntClr i value s = .next s' ∧
    s'.pending = s.pending := by
  exact ⟨_, rfl, hostWrite_pending ..⟩
theorem execWakeOutClr_pending (i : Fin 32) (s : State) : ∃ s', execWakeOutClr i s = .next s' ∧ s'.pending = s.pending
    := by
  exact ⟨_, rfl, hostWrite_pending ..⟩
theorem execWakeOutHold_pending (i : Fin 32) (hold : Bool) (s : State) : ∃ s', execWakeOutHold i hold s = .next s' ∧
    s'.pending = s.pending := by
  exact ⟨_, rfl, hostWrite_pending ..⟩
theorem execShip_pending (i : Fin 32) (value : Word) (s : State) : ∃ s', execShip i value s = .next s' ∧ s'.pending =
    s.pending := by
  exact ⟨_, rfl, hostWrite_pending ..⟩
theorem execProvision_pending (i : Fin 32) (value : Word) (s : State) : ∃ s', execProvision i value s = .next s' ∧
    s'.pending = s.pending := by
  exact ⟨_, rfl, hostWrite_pending ..⟩
theorem execAddKey_pending (i : Fin 32) (value : Word) (s : State) : ∃ s', execAddKey i value s = .next s' ∧
    s'.pending = s.pending := by
  exact ⟨_, rfl, hostWrite_pending ..⟩
theorem execRevoke_pending (i : Fin 32) (value : Word) (s : State) : ∃ s', execRevoke i value s = .next s' ∧
    s'.pending = s.pending := by
  exact ⟨_, rfl, hostWrite_pending ..⟩
theorem execReturnCmd_pending (i : Fin 32) (value : Word) (s : State) : ∃ s', execReturnCmd i value s = .next s' ∧
    s'.pending = s.pending := by
  exact ⟨_, rfl, hostWrite_pending ..⟩
theorem execScrap_pending (i : Fin 32) (value : Word) (s : State) : ∃ s', execScrap i value s = .next s' ∧ s'.pending
    = s.pending := by
  exact ⟨_, rfl, hostWrite_pending ..⟩
theorem execFreeze_pending (i : Fin 32) (s : State) : ∃ s', execFreeze i s = .next s' ∧ s'.pending = s.pending := by
  exact ⟨_, rfl, hostWrite_pending ..⟩
theorem execUnfreeze_pending (i : Fin 32) (s : State) : ∃ s', execUnfreeze i s = .next s' ∧ s'.pending = s.pending :=
    by
  exact ⟨_, rfl, hostWrite_pending ..⟩
theorem execClearRecords_pending (i : Fin 32) (j : Fin 8) (s : State) : ∃ s', execClearRecords i j s = .next s' ∧
    s'.pending = s.pending := by
  exact ⟨_, rfl, hostWrite_pending ..⟩
theorem execCrownRelease_pending (i : Fin 32) (value : Word) (s : State) : ∃ s', execCrownRelease i value s = .next s'
    ∧ s'.pending = s.pending := by
  exact ⟨_, rfl, hostWrite_pending ..⟩
theorem execLock_pending (i : Fin 32) (s : State) : ∃ s', execLock i s = .next s' ∧ s'.pending = s.pending := by
  exact ⟨_, rfl, hostWrite_pending ..⟩
theorem execManifestPiece_pending (i : Fin 32) (index : Nat) (s : State) : ∃ s', execManifestPiece i index s = .next
    s' ∧ s'.pending = s.pending := by
  exact ⟨_, rfl, hostWrite_pending ..⟩
theorem execImagePiece_pending (i : Fin 32) (index : Nat) (s : State) : ∃ s', execImagePiece i index s = .next s' ∧
    s'.pending = s.pending := by
  exact ⟨_, rfl, hostWrite_pending ..⟩
theorem execConfirm_pending (i : Fin 32) (s : State) : ∃ s', execConfirm i s = .next s' ∧ s'.pending = s.pending := by
  exact ⟨_, rfl, hostWrite_pending ..⟩
theorem execDiscardSlot_pending (i : Fin 32) (j : Fin 8) (s : State) : ∃ s', execDiscardSlot i j s = .next s' ∧
    s'.pending = s.pending := by
  exact ⟨_, rfl, hostWrite_pending ..⟩
theorem execActivate_pending (i : Fin 32) (j : Fin 8) (s : State) : ∃ s', execActivate i j s = .next s' ∧ s'.pending =
    s.pending := by
  exact ⟨_, rfl, hostWrite_pending ..⟩
theorem execReservedKindStart_pending (i : Fin 32) (j : Fin 8) (kind : Nat) (s : State) : ∃ s', execReservedKindStart
    i j kind s = .next s' ∧ s'.pending = s.pending := by
  exact ⟨_, rfl, hostWrite_pending ..⟩
theorem execBeatBoundary_pending (s : State) : ∃ s', execBeatBoundary s = .next s' ∧ s'.pending = s.pending := by
  unfold execBeatBoundary
  dsimp only
  repeat' split
  all_goals exact ⟨_, rfl, by simp⟩
theorem execStateCmdJudge_pending (s : State) : ∃ s', execStateCmdJudge s = .next s' ∧ s'.pending = s.pending := by
  unfold execStateCmdJudge
  dsimp only
  repeat' split
  all_goals exact ⟨_, rfl, by simp⟩
theorem execArmResult_pending (s : State) : ∃ s', execArmResult s = .next s' ∧ s'.pending = s.pending := by
  unfold execArmResult
  dsimp only
  repeat' split
  all_goals exact ⟨_, rfl, by simp⟩
theorem execLoopSnapshot_pending (id : Fin 64) (s : State) : ∃ s', execLoopSnapshot id s = .next s' ∧ s'.pending =
    s.pending := by
  unfold execLoopSnapshot
  dsimp only
  repeat' split
  all_goals exact ⟨_, rfl, by simp⟩
theorem execLoopPeriodEnd_pending (id : Fin 64) (s : State) : ∃ s', execLoopPeriodEnd id s = .next s' ∧ s'.pending =
    s.pending := by
  unfold execLoopPeriodEnd
  dsimp only
  repeat' split
  all_goals exact ⟨_, rfl, by simp⟩
theorem execLimitPublication_pending (s : State) : ∃ s', execLimitPublication s = .next s' ∧ s'.pending = s.pending :=
    by
  unfold execLimitPublication
  dsimp only
  repeat' split
  all_goals exact ⟨_, rfl, by simp⟩
theorem execThermalJudgement_pending (dieT : Int) (s : State) : ∃ s', execThermalJudgement dieT s = .next s' ∧
    s'.pending = s.pending := by
  unfold execThermalJudgement
  dsimp only
  repeat' split
  all_goals exact ⟨_, rfl, by simp⟩
theorem execBalancePlan_pending (s : State) : ∃ s', execBalancePlan s = .next s' ∧ s'.pending = s.pending := by
  unfold execBalancePlan
  dsimp only
  repeat' split
  all_goals exact ⟨_, rfl, by simp⟩
theorem execBeatFrame_pending (s : State) : ∃ s', execBeatFrame s = .next s' ∧ s'.pending = s.pending := by
  unfold execBeatFrame
  dsimp only
  split
  · refine ⟨_, rfl, ?_⟩
    rw [takeOver_pending]
    refine (foldl_pending _ (fun s l => ?_) _ _).trans rfl
    split
    · exact foldl_pending _ (fun s d => (modLine_pending ..).trans (sendChain_pending ..)) _ _
    · rfl
  · exact ⟨_, rfl, rfl⟩
theorem execPostReceptionChecksDone_pending (s : State) : ∃ s', execPostReceptionChecksDone s = .next s' ∧ s'.pending
    = s.pending := by
  unfold execPostReceptionChecksDone
  dsimp only
  repeat' split
  all_goals exact ⟨_, rfl, by simp⟩
theorem execLoadAccept_pending (s : State) : ∃ s', execLoadAccept s = .next s' ∧ s'.pending = s.pending := by
  unfold execLoadAccept
  dsimp only
  repeat' split
  all_goals exact ⟨_, rfl, by simp⟩
theorem execLoadTimeout_pending (s : State) : ∃ s', execLoadTimeout s = .next s' ∧ s'.pending = s.pending := by
  unfold execLoadTimeout
  dsimp only
  repeat' split
  all_goals exact ⟨_, rfl, by simp⟩
theorem execReplacementChecksDone_pending (s : State) : ∃ s', execReplacementChecksDone s = .next s' ∧ s'.pending =
    s.pending := by
  unfold execReplacementChecksDone
  dsimp only
  repeat' split
  all_goals exact ⟨_, rfl, by simp⟩
theorem execBatchPending_pending (s : State) : ∃ s', execBatchPending s = .next s' ∧ s'.pending = s.pending := by
  unfold execBatchPending
  dsimp only
  repeat' split
  all_goals exact ⟨_, rfl, by simp⟩
theorem execBatchApply_pending (s : State) : ∃ s', execBatchApply s = .next s' ∧ s'.pending = s.pending := by
  unfold execBatchApply
  dsimp only
  repeat' split
  all_goals exact ⟨_, rfl, by simp⟩
theorem execConstantApply_pending (t : Fin 8) (s : State) : ∃ s', execConstantApply t s = .next s' ∧ s'.pending =
    s.pending := by
  unfold execConstantApply
  dsimp only
  split
  · refine ⟨_, rfl, ?_⟩
    split
    · exact (applyConsts_pending ..).trans rfl
    · rfl
  · exact ⟨_, rfl, rfl⟩
theorem execTaskRun_pending (t : Fin 8) (cycles : Nat) (s : State) : ∃ s', execTaskRun t cycles s = .next s' ∧
    s'.pending = s.pending := by
  unfold execTaskRun
  dsimp only
  split
  · split
    · split
      · exact ⟨_, rfl, (taskOver_pending ..).trans (applyConsts_pending ..)⟩
      · exact ⟨_, rfl, (taskCommit_pending ..).trans (applyConsts_pending ..)⟩
    · exact ⟨_, rfl, rfl⟩
  · exact ⟨_, rfl, rfl⟩
theorem execTaskOverrun_pending (t : Fin 8) (s : State) : ∃ s', execTaskOverrun t s = .next s' ∧ s'.pending =
    s.pending := by
  unfold execTaskOverrun
  dsimp only
  repeat' split
  all_goals exact ⟨_, rfl, by simp⟩
theorem execStation_pending (h : FabHdr) (dir n _sflags : Nat) (words : List Word) (s : State) : ∃ s', execStation h
    dir n _sflags words s = .next s' ∧ s'.pending = s.pending := by
  unfold execStation
  exact ⟨_, rfl, by simp⟩
theorem execStationLost_pending (i : Fin 16) (s : State) : ∃ s', execStationLost i s = .next s' ∧ s'.pending =
    s.pending := by
  unfold execStationLost
  dsimp only
  repeat' split
  all_goals exact ⟨_, rfl, by simp⟩
theorem execInputPhase_pending (s : State) : ∃ s', execInputPhase s = .next s' ∧ s'.pending = s.pending := by
  unfold execInputPhase
  dsimp only
  repeat' split
  all_goals exact ⟨_, rfl, by simp⟩
theorem execOutputPhase_pending (s : State) : ∃ s', execOutputPhase s = .next s' ∧ s'.pending = s.pending := by
  unfold execOutputPhase
  dsimp only
  split
  · refine ⟨_, rfl, (apply_ite State.pending _ _ _).trans ?_⟩
    rw [foldl_pending _ (fun s i => stnSend_pending _ i s), ite_self, allK_pending, drivePhase_pending, stnJudge_pending]
    rfl
  · exact ⟨_, rfl, rfl⟩
theorem execStreamSample_pending (k : Fin 8) (shuntPv vStr vLnk : Int) (s : State) : ∃ s', execStreamSample k shuntPv
    vStr vLnk s = .next s' ∧ s'.pending = s.pending := by
  unfold execStreamSample
  dsimp only
  repeat' split
  all_goals exact ⟨_, rfl, by simp⟩
theorem execAlignedSample_pending (s : State) : ∃ s', execAlignedSample s = .next s' ∧ s'.pending = s.pending := by
  unfold execAlignedSample
  dsimp only
  repeat' split
  all_goals exact ⟨_, rfl, by simp⟩
theorem execGainCheck_pending (devStr devLnk : Int) (s : State) : ∃ s', execGainCheck devStr devLnk s = .next s' ∧
    s'.pending = s.pending := by
  unfold execGainCheck
  dsimp only
  repeat' split
  all_goals exact ⟨_, rfl, by simp⟩
theorem execAccordEvaluation_pending (s : State) : ∃ s', execAccordEvaluation s = .next s' ∧ s'.pending = s.pending :=
    by
  unfold execAccordEvaluation
  dsimp only
  repeat' split
  all_goals exact ⟨_, rfl, by simp⟩
theorem execInsulationCycleStart_pending (s : State) : ∃ s', execInsulationCycleStart s = .next s' ∧ s'.pending =
    s.pending := by
  unfold execInsulationCycleStart
  dsimp only
  repeat' split
  all_goals exact ⟨_, rfl, by simp⟩
theorem execInsulationPhaseTimeout_pending (s : State) : ∃ s', execInsulationPhaseTimeout s = .next s' ∧ s'.pending =
    s.pending := by
  unfold execInsulationPhaseTimeout
  dsimp only
  repeat' split
  all_goals exact ⟨_, rfl, by simp⟩
theorem execSnapshotCapture_pending (s : State) : ∃ s', execSnapshotCapture s = .next s' ∧ s'.pending = s.pending :=
    by
  unfold execSnapshotCapture
  dsimp only
  repeat' split
  all_goals exact ⟨_, rfl, by simp⟩
theorem execNodeBeatReceive_pending (line : Fin 4) (hop : Fin 16) (f : NodeBeat) (s : State) : ∃ s',
    execNodeBeatReceive line hop f s = .next s' ∧ s'.pending = s.pending := by
  unfold execNodeBeatReceive
  exact ⟨_, rfl, by simp⟩
theorem execNodeSample_pending (line : Fin 4) (hop : Fin 16) (marks : SampleMarks) (vpos temps : List Int)
    (taps : List TapEntry) (s : State) : ∃ s', execNodeSample line hop marks vpos temps taps s = .next s' ∧
    s'.pending = s.pending := by
  unfold execNodeSample
  dsimp only
  repeat' split
  all_goals exact ⟨_, rfl, by simp⟩
theorem execNodeResultSend_pending (line : Fin 4) (hop : Fin 16) (s : State) : ∃ s', execNodeResultSend line hop s =
    .next s' ∧ s'.pending = s.pending := by
  unfold execNodeResultSend
  dsimp only
  repeat' split
  all_goals exact ⟨_, rfl, by simp⟩
theorem execNodeAuxSend_pending (line : Fin 4) (hop : Fin 16) (s : State) : ∃ s', execNodeAuxSend line hop s = .next
    s' ∧ s'.pending = s.pending := by
  unfold execNodeAuxSend
  dsimp only
  repeat' split
  all_goals exact ⟨_, rfl, by simp⟩
theorem execNodeClaimRelease_pending (line : Fin 4) (hop : Fin 16) (s : State) : ∃ s', execNodeClaimRelease line hop s
    = .next s' ∧ s'.pending = s.pending := by
  unfold execNodeClaimRelease
  exact ⟨_, rfl, by simp⟩
theorem execNodeStimulusFallback_pending (line : Fin 4) (hop : Fin 16) (s : State) : ∃ s', execNodeStimulusFallback
    line hop s = .next s' ∧ s'.pending = s.pending := by
  unfold execNodeStimulusFallback
  exact ⟨_, rfl, by simp⟩
theorem execNodeSleep_pending (line : Fin 4) (hop : Fin 16) (s : State) : ∃ s', execNodeSleep line hop s = .next s' ∧
    s'.pending = s.pending := by
  unfold execNodeSleep
  exact ⟨_, rfl, by simp⟩
theorem execNodeWake_pending (line : Fin 4) (hop : Fin 16) (s : State) : ∃ s', execNodeWake line hop s = .next s' ∧
    s'.pending = s.pending := by
  unfold execNodeWake
  exact ⟨_, rfl, by simp⟩
theorem execNodeAnnounceSend_pending (line : Fin 4) (hop : Fin 16) (s : State) : ∃ s', execNodeAnnounceSend line hop s
    = .next s' ∧ s'.pending = s.pending := by
  unfold execNodeAnnounceSend
  dsimp only
  repeat' split
  all_goals exact ⟨_, rfl, by simp⟩
theorem execNodeReset_pending (line : Fin 4) (hop : Fin 16) (i : NodeIdent) (s : State) : ∃ s', execNodeReset line hop
    i s = .next s' ∧ s'.pending = s.pending := by
  unfold execNodeReset
  dsimp only
  repeat' split
  all_goals exact ⟨_, rfl, by simp⟩
theorem execStatus_pending (rx : Option (FabHdr × StatusBody)) (s : State) : ∃ s', execStatus rx s = .next s' ∧
    s'.pending = s.pending := by
  unfold execStatus
  dsimp only
  repeat' split
  all_goals exact ⟨_, rfl, by simp⟩
theorem execPairLost_pending (s : State) : ∃ s', execPairLost s = .next s' ∧ s'.pending = s.pending := by
  unfold execPairLost
  dsimp only
  repeat' split
  all_goals exact ⟨_, rfl, by simp⟩
theorem execResultFwd_pending (h : FabHdr) (node : Fin 64) (seq tick : Nat) (b : ResultBody) (s : State) : ∃ s',
    execResultFwd h node seq tick b s = .next s' ∧ s'.pending = s.pending := by
  unfold execResultFwd
  refine ⟨_, rfl, ?_⟩
  exact (onPartner_pending _ _ _ _ (fun s => by dsimp only; (repeat' split) <;> first | rfl | (simp; done))).trans rfl
theorem execAuxFwd_pending (h : FabHdr) (node : Fin 64) (seq tick : Nat) (b : AuxBody) (s : State) : ∃ s', execAuxFwd
    h node seq tick b s = .next s' ∧ s'.pending = s.pending := by
  unfold execAuxFwd
  refine ⟨_, rfl, ?_⟩
  exact (onPartner_pending _ _ _ _ (fun s => by dsimp only; (repeat' split) <;> first | rfl | simp)).trans rfl
theorem execFront_pending (rx : Option (FabHdr × FrontBody)) (s : State) : ∃ s', execFront rx s = .next s' ∧
    s'.pending = s.pending := by
  unfold execFront
  dsimp only
  split
  · refine ⟨_, rfl, ?_⟩
    exact (onPartner_pending _ _ _ _ (fun s => by (repeat' split) <;> first | rfl | simp)).trans rfl
  · split
    · split
      · exact ⟨_, rfl, by simp⟩
      · exact ⟨_, rfl, rfl⟩
    · exact ⟨_, rfl, rfl⟩
theorem execStreamX_pending (rx : Option (FabHdr × StreamBody)) (s : State) : ∃ s', execStreamX rx s = .next s' ∧
    s'.pending = s.pending := by
  unfold execStreamX
  dsimp only
  split
  · refine ⟨_, rfl, ?_⟩
    exact (onPartner_pending _ _ _ _ (fun s => by (repeat' split) <;> first | rfl | simp)).trans rfl
  · split
    · exact ⟨_, rfl, by simp⟩
    · exact ⟨_, rfl, rfl⟩
theorem execPlan_pending (rx : Option (FabHdr × PlanBody)) (s : State) : ∃ s', execPlan rx s = .next s' ∧ s'.pending =
    s.pending := by
  unfold execPlan
  dsimp only
  split
  · refine ⟨_, rfl, ?_⟩
    refine (onPartner_pending _ _ _ _ (fun s => ?_)).trans rfl
    split
    · exact (foldl_pending _ (fun s c => takeStim_pending s c) _ _).trans rfl
    · rfl
  · split
    · exact ⟨_, rfl, by simp⟩
    · exact ⟨_, rfl, rfl⟩
theorem execDelays_pending (rx : Option (FabHdr × Fin 64 × End × Nat)) (s : State) : ∃ s', execDelays rx s = .next s'
    ∧ s'.pending = s.pending := by
  unfold execDelays
  dsimp only
  split
  · refine ⟨_, rfl, ?_⟩
    exact (onPartner_pending _ _ _ _ (fun s => by (repeat' split) <;> first | rfl | simp)).trans rfl
  · split
    · split
      · exact ⟨_, rfl, by simp⟩
      · exact ⟨_, rfl, rfl⟩
    · exact ⟨_, rfl, rfl⟩
theorem execVsupLow_pending (mv : Nat) (s : State) : ∃ s', execVsupLow mv s = .next s' ∧ s'.pending = s.pending := by
  unfold execVsupLow
  exact ⟨_, rfl, by simp⟩
theorem execVsupHigh_pending (mv : Nat) (s : State) : ∃ s', execVsupHigh mv s = .next s' ∧ s'.pending = s.pending :=
    by
  unfold execVsupHigh
  exact ⟨_, rfl, by simp⟩
theorem execVloadLow_pending (mv : Nat) (s : State) : ∃ s', execVloadLow mv s = .next s' ∧ s'.pending = s.pending :=
    by
  unfold execVloadLow
  exact ⟨_, rfl, by simp⟩
theorem execPowerFail_pending (mv : Nat) (s : State) : ∃ s', execPowerFail mv s = .next s' ∧ s'.pending = s.pending :=
    by
  unfold execPowerFail
  dsimp only
  repeat' split
  all_goals exact ⟨_, rfl, by simp⟩
theorem execRestart_pending (s : State) : ∃ s', execRestart s = .next s' ∧ s'.pending = s.pending := by
  unfold execRestart
  dsimp only
  repeat' split
  all_goals exact ⟨_, rfl, by simp⟩
theorem execInternalWatchdog_pending (s : State) : ∃ s', execInternalWatchdog s = .next s' ∧ s'.pending = s.pending :=
    by
  unfold execInternalWatchdog
  dsimp only
  repeat' split
  all_goals exact ⟨_, rfl, by simp⟩
theorem execWakeIn_pending (s : State) : ∃ s', execWakeIn s = .next s' ∧ s'.pending = s.pending := by
  unfold execWakeIn
  dsimp only
  repeat' split
  all_goals exact ⟨_, rfl, by simp⟩
theorem execVsupReturn_pending (s : State) : ∃ s', execVsupReturn s = .next s' ∧ s'.pending = s.pending := by
  unfold execVsupReturn
  dsimp only
  repeat' split
  all_goals exact ⟨_, rfl, by simp⟩
theorem execStreamItem_pending (q : Fin 8) (s : State) : ∃ s', execStreamItem q s = .next s' ∧ s'.pending = s.pending
    := by
  unfold execStreamItem
  dsimp only
  repeat' split
  all_goals exact ⟨_, rfl, by simp⟩
theorem execQueueItemCommit_pending (q : QueueId) (ecc : Bool) (s : State) : ∃ s', execQueueItemCommit q ecc s = .next
    s' ∧ s'.pending = s.pending := by
  unfold execQueueItemCommit
  dsimp only
  repeat' split
  all_goals exact ⟨_, rfl, by simp⟩
theorem execPublish_pending (s : State) : ∃ s', execPublish s = .next s' ∧ s'.pending = s.pending := by
  unfold execPublish
  dsimp only
  split
  · exact ⟨_, rfl, (foldl_pending _ (fun s b => publishOne_pending b s) _ _).trans rfl⟩
  · exact ⟨_, rfl, rfl⟩
theorem execPublicationDue_pending (c : Fin 2) (k : Fin 32) (s : State) : ∃ s', execPublicationDue c k s = .next s' ∧
    s'.pending = s.pending := by
  unfold execPublicationDue
  dsimp only
  repeat' split
  all_goals exact ⟨_, rfl, by simp⟩
theorem execRecorderCommit_pending (s : State) : ∃ s', execRecorderCommit s = .next s' ∧ s'.pending = s.pending := by
  unfold execRecorderCommit
  dsimp only
  repeat' split
  all_goals exact ⟨_, rfl, by simp⟩
theorem execJournalCommit_pending (s : State) : ∃ s', execJournalCommit s = .next s' ∧ s'.pending = s.pending := by
  unfold execJournalCommit
  dsimp only
  repeat' split
  all_goals exact ⟨_, rfl, by simp⟩
theorem execFreezeTimeout_pending (s : State) : ∃ s', execFreezeTimeout s = .next s' ∧ s'.pending = s.pending := by
  unfold execFreezeTimeout
  dsimp only
  repeat' split
  all_goals exact ⟨_, rfl, by simp⟩
theorem execClearRecordsDone_pending (s : State) : ∃ s', execClearRecordsDone s = .next s' ∧ s'.pending = s.pending :=
    by
  unfold execClearRecordsDone
  exact ⟨_, rfl, by simp⟩
theorem execSafetyInputChange_pending (i : Fin 4) (pinB level : Bool) (s : State) : ∃ s', execSafetyInputChange i pinB
    level s = .next s' ∧ s'.pending = s.pending := by
  unfold execSafetyInputChange
  dsimp only
  repeat' split
  all_goals exact ⟨_, rfl, by simp⟩
theorem execPinFollow_pending (i : Fin 4) (channelB : Bool) (s : State) : ∃ s', execPinFollow i channelB s = .next s'
    ∧ s'.pending = s.pending := by
  unfold execPinFollow
  dsimp only
  repeat' split
  all_goals exact ⟨_, rfl, by simp⟩
theorem execTestPulse_pending (tp : Fin 2) (lowReads : List Nat) (s : State) : ∃ s', execTestPulse tp lowReads s =
    .next s' ∧ s'.pending = s.pending := by
  unfold execTestPulse
  dsimp only
  split
  · refine ⟨_, rfl, (foldl_pending _ (fun s i => ?_) _ _).trans rfl⟩
    split
    · repeat' split
      all_goals simp
    · rfl
  · exact ⟨_, rfl, rfl⟩
theorem execChannelAEvaluation_pending (hsMa : List Nat) (s : State) : ∃ s', execChannelAEvaluation hsMa s = .next s'
    ∧ s'.pending = s.pending := by
  unfold execChannelAEvaluation
  dsimp only
  repeat' split
  all_goals exact ⟨_, rfl, by simp⟩
theorem execCrcRecheck_pending (s : State) : ∃ s', execCrcRecheck s = .next s' ∧ s'.pending = s.pending := by
  unfold execCrcRecheck
  dsimp only
  repeat' split
  all_goals exact ⟨_, rfl, by simp⟩
theorem execSelfTest_pending (passed : Bool) (s : State) : ∃ s', execSelfTest passed s = .next s' ∧ s'.pending =
    s.pending := by
  unfold execSelfTest
  dsimp only
  repeat' split
  all_goals exact ⟨_, rfl, by simp⟩
theorem execInsulationPhaseSettled_pending (v : Int) (s : State) : ∃ s', execInsulationPhaseSettled v s = .next s' ∧
    s'.pending = s.pending := by
  unfold execInsulationPhaseSettled
  dsimp only
  repeat' split
  all_goals exact ⟨_, rfl, by simp⟩
theorem execRequestApplication_pending (s : State) : ∃ s', execRequestApplication s = .next s' ∧ s'.pending =
    s.pending := by
  unfold execRequestApplication
  dsimp only
  repeat' split
  all_goals exact ⟨_, rfl, by simp⟩
theorem execToggleEdge_pending (intervalUs : Nat) (lsMa : List Nat) (s : State) : ∃ s', execToggleEdge intervalUs lsMa
    s = .next s' ∧ s'.pending = s.pending := by
  unfold execToggleEdge
  dsimp only
  repeat' split
  all_goals exact ⟨_, rfl, by simp⟩
theorem execToggleMissing_pending (s : State) : ∃ s', execToggleMissing s = .next s' ∧ s'.pending = s.pending := by
  unfold execToggleMissing
  dsimp only
  repeat' split
  all_goals exact ⟨_, rfl, by simp⟩
theorem execAliveAdvance_pending (s : State) : ∃ s', execAliveAdvance s = .next s' ∧ s'.pending = s.pending := by
  unfold execAliveAdvance
  dsimp only
  repeat' split
  all_goals exact ⟨_, rfl, by simp⟩
theorem execLatchA_pending (s : State) : ∃ s', execLatchA s = .next s' ∧ s'.pending = s.pending := by
  unfold execLatchA
  dsimp only
  repeat' split
  all_goals exact ⟨_, rfl, by simp⟩
theorem execLatchB_pending (s : State) : ∃ s', execLatchB s = .next s' ∧ s'.pending = s.pending := by
  unfold execLatchB
  dsimp only
  repeat' split
  all_goals exact ⟨_, rfl, by simp⟩
theorem execOvercurrentOnset_pending (s : State) : ∃ s', execOvercurrentOnset s = .next s' ∧ s'.pending = s.pending :=
    by
  unfold execOvercurrentOnset
  dsimp only
  repeat' split
  all_goals exact ⟨_, rfl, by simp⟩
theorem execOvercurrentEnd_pending (s : State) : ∃ s', execOvercurrentEnd s = .next s' ∧ s'.pending = s.pending := by
  unfold execOvercurrentEnd
  exact ⟨_, rfl, by simp⟩
theorem execFastOc_pending (s : State) : ∃ s', execFastOc s = .next s' ∧ s'.pending = s.pending := by
  unfold execFastOc
  dsimp only
  repeat' split
  all_goals exact ⟨_, rfl, by simp⟩
theorem execOffPulseTest_pending (k : Fin 4) (s : State) : ∃ s', execOffPulseTest k s = .next s' ∧ s'.pending =
    s.pending := by
  unfold execOffPulseTest
  dsimp only
  repeat' split
  all_goals exact ⟨_, rfl, by simp⟩
theorem execOffPulseEnd_pending (k : Fin 4) (maxMa : Nat) (s : State) : ∃ s', execOffPulseEnd k maxMa s = .next s' ∧
    s'.pending = s.pending := by
  unfold execOffPulseEnd
  dsimp only
  repeat' split
  all_goals exact ⟨_, rfl, by simp⟩
theorem execPrechargeCommit_pending (s : State) : ∃ s', execPrechargeCommit s = .next s' ∧ s'.pending = s.pending :=
    by
  unfold execPrechargeCommit
  dsimp only
  repeat' split
  all_goals exact ⟨_, rfl, by simp⟩
theorem execPrechargeEnd_pending (s : State) : ∃ s', execPrechargeEnd s = .next s' ∧ s'.pending = s.pending := by
  unfold execPrechargeEnd
  dsimp only
  repeat' split
  all_goals exact ⟨_, rfl, by simp⟩
theorem execPrechargeTimeout_pending (s : State) : ∃ s', execPrechargeTimeout s = .next s' ∧ s'.pending = s.pending :=
    by
  unfold execPrechargeTimeout
  dsimp only
  repeat' split
  all_goals exact ⟨_, rfl, by simp⟩
theorem execWindowEnd_pending (k : Fin 31) (s : State) : ∃ s', execWindowEnd k s = .next s' ∧ s'.pending = s.pending
    := by
  unfold execWindowEnd
  dsimp only
  split
  · split
    · refine ⟨_, rfl, (foldl_pending _ (fun s p => ?_) _ _).trans ((windowStr_pending ..).trans rfl)⟩
      split
      · rfl
      · exact windowPos_pending ..
    · exact ⟨_, rfl, rfl⟩
  · exact ⟨_, rfl, rfl⟩
theorem execChimeRoundStart_pending (s : State) : ∃ s', execChimeRoundStart s = .next s' ∧ s'.pending = s.pending :=
    by
  unfold execChimeRoundStart
  dsimp only
  repeat' split
  all_goals exact ⟨_, rfl, by simp⟩
theorem execChime_pending (node : Fin 64) (pos bin ampl cycles start : Nat) (s : State) : ∃ s', execChime node pos bin
    ampl cycles start s = .next s' ∧ s'.pending = s.pending := by
  unfold execChime
  dsimp only
  repeat' split
  all_goals exact ⟨_, rfl, by simp⟩
theorem execBurstEnd_pending (pos : Fin 1024) (s : State) : ∃ s', execBurstEnd pos s = .next s' ∧ s'.pending =
    s.pending := by
  unfold execBurstEnd
  dsimp only
  repeat' split
  all_goals exact ⟨_, rfl, by simp⟩
theorem execStimStop_pending (line : Fin 4) (s : State) : ∃ s', execStimStop line s = .next s' ∧ s'.pending =
    s.pending := by
  unfold execStimStop
  dsimp only
  repeat' split
  all_goals exact ⟨_, rfl, by simp⟩
theorem execLockinCampaignStart_pending (s : State) : ∃ s', execLockinCampaignStart s = .next s' ∧ s'.pending =
    s.pending := by
  unfold execLockinCampaignStart
  dsimp only
  repeat' split
  all_goals exact ⟨_, rfl, by simp⟩
theorem execLockinStart_pending (node : Fin 64) (bins posMask start : Nat) (s : State) : ∃ s', execLockinStart node
    bins posMask start s = .next s' ∧ s'.pending = s.pending := by
  unfold execLockinStart
  dsimp only
  repeat' split
  all_goals exact ⟨_, rfl, by simp⟩
theorem execLockinCampaignEnd_pending (s : State) : ∃ s', execLockinCampaignEnd s = .next s' ∧ s'.pending = s.pending
    := by
  unfold execLockinCampaignEnd
  dsimp only
  repeat' split
  all_goals exact ⟨_, rfl, by simp⟩
theorem execLockinRead_pending (node : Fin 64) (pos bin : Nat) (s : State) : ∃ s', execLockinRead node pos bin s =
    .next s' ∧ s'.pending = s.pending := by
  unfold execLockinRead
  dsimp only
  repeat' split
  all_goals exact ⟨_, rfl, by simp⟩
theorem execReply_pending (h : ChainHdr) (op status : Nat) (d : ReplyData) (s : State) : ∃ s', execReply h op status d
    s = .next s' ∧ s'.pending = s.pending := by
  unfold execReply
  dsimp only
  repeat' split
  all_goals exact ⟨_, rfl, by simp⟩
theorem execRequestDwellStart_pending (s : State) : ∃ s', execRequestDwellStart s = .next s' ∧ s'.pending = s.pending
    := by
  unfold execRequestDwellStart
  dsimp only
  repeat' split
  all_goals exact ⟨_, rfl, by simp⟩
theorem execSpectrumCapture_pending (s : State) : ∃ s', execSpectrumCapture s = .next s' ∧ s'.pending = s.pending :=
    by
  unfold execSpectrumCapture
  dsimp only
  repeat' split
  all_goals exact ⟨_, rfl, by simp⟩
theorem execSlotComplete_pending (s : State) : ∃ s', execSlotComplete s = .next s' ∧ s'.pending = s.pending := by
  unfold execSlotComplete
  dsimp only
  split
  · split
    · refine ⟨_, rfl, (foldl_pending _ (fun s q => ?_) _ _).trans rfl⟩
      split <;> rfl
    · exact ⟨_, rfl, rfl⟩
  · exact ⟨_, rfl, rfl⟩
theorem execDerivedUpdate_pending (s : State) : ∃ s', execDerivedUpdate s = .next s' ∧ s'.pending = s.pending := by
  unfold execDerivedUpdate
  dsimp only
  split
  · refine ⟨_, rfl, (tookFree_pending ..).trans ((foldl_pending _ (fun t p => ?_) _ _).trans
      ((foldl_pending _ (fun t p => (tookFree_pending ..).trans ?_) _ _).trans rfl))⟩
    · split
      · rfl
      · exact modSpec_pending ..
    · split
      · rfl
      · exact modSpec_pending ..
  · exact ⟨_, rfl, rfl⟩
theorem execItemRelease_pending (item : Nat) (s : State) : ∃ s', execItemRelease item s = .next s' ∧ s'.pending =
    s.pending := by
  unfold execItemRelease
  dsimp only
  repeat' split
  all_goals exact ⟨_, rfl, by simp⟩
theorem execItemComplete_pending (e : Fin 11) (cycles : Nat) (s : State) : ∃ s', execItemComplete e cycles s = .next
    s' ∧ s'.pending = s.pending := by
  unfold execItemComplete
  dsimp only
  repeat' split
  all_goals exact ⟨_, rfl, by simp⟩
theorem execItemBudgetExpiry_pending (e : Fin 11) (s : State) : ∃ s', execItemBudgetExpiry e s = .next s' ∧ s'.pending
    = s.pending := by
  unfold execItemBudgetExpiry
  dsimp only
  repeat' split
  all_goals exact ⟨_, rfl, by simp⟩
theorem execItemDeadlineExpiry_pending (item cycles : Nat) (s : State) : ∃ s', execItemDeadlineExpiry item cycles s =
    .next s' ∧ s'.pending = s.pending := by
  unfold execItemDeadlineExpiry
  dsimp only
  repeat' split
  all_goals exact ⟨_, rfl, by simp⟩
theorem execSyncReceive_pending (d : Fin 2) (port : Fin 3) (rawOffset : Int) (gm : Nat) (s : State) : ∃ s',
    execSyncReceive d port rawOffset gm s = .next s' ∧ s'.pending = s.pending := by
  unfold execSyncReceive
  dsimp only
  repeat' split
  all_goals exact ⟨_, rfl, by simp⟩
theorem execSyncReceiptTimeout_pending (d : Fin 2) (s : State) : ∃ s', execSyncReceiptTimeout d s = .next s' ∧
    s'.pending = s.pending := by
  unfold execSyncReceiptTimeout
  dsimp only
  repeat' split
  all_goals exact ⟨_, rfl, by simp⟩
theorem execGptpAnnounceReceive_pending (d : Fin 2) (port : Fin 3) (v : PrioVec) (s : State) : ∃ s',
    execGptpAnnounceReceive d port v s = .next s' ∧ s'.pending = s.pending := by
  unfold execGptpAnnounceReceive
  dsimp only
  repeat' split
  all_goals exact ⟨_, rfl, by simp⟩
theorem execSyncSend_pending (d : Fin 2) (port : Fin 3) (s : State) : ∃ s', execSyncSend d port s = .next s' ∧
    s'.pending = s.pending := by
  unfold execSyncSend
  dsimp only
  repeat' split
  all_goals exact ⟨_, rfl, by simp⟩
theorem execPdelayExchange_pending (port : Fin 3) (meanNs : Nat) (s : State) : ∃ s', execPdelayExchange port meanNs s
    = .next s' ∧ s'.pending = s.pending := by
  unfold execPdelayExchange
  dsimp only
  repeat' split
  all_goals exact ⟨_, rfl, by simp⟩
theorem execDomainSwitch_pending (s : State) : ∃ s', execDomainSwitch s = .next s' ∧ s'.pending = s.pending := by
  unfold execDomainSwitch
  dsimp only
  repeat' split
  all_goals exact ⟨_, rfl, by simp⟩
theorem execTxTimestamp_pending (port : Fin 3) (id fabricNs : Nat) (s : State) : ∃ s', execTxTimestamp port id
    fabricNs s = .next s' ∧ s'.pending = s.pending := by
  unfold execTxTimestamp
  dsimp only
  repeat' split
  all_goals exact ⟨_, rfl, by simp⟩
theorem execManifestVerifyDone_pending (s : State) : ∃ s', execManifestVerifyDone s = .next s' ∧ s'.pending =
    s.pending := by
  unfold execManifestVerifyDone
  dsimp only
  repeat' split
  all_goals exact ⟨_, rfl, by simp⟩
theorem execPieceJudged_pending (i : Fin 32) (s : State) : ∃ s', execPieceJudged i s = .next s' ∧ s'.pending =
    s.pending := by
  unfold execPieceJudged
  dsimp only
  repeat' split
  all_goals exact ⟨_, rfl, by simp⟩
theorem execImageHashCheckDone_pending (s : State) : ∃ s', execImageHashCheckDone s = .next s' ∧ s'.pending =
    s.pending := by
  unfold execImageHashCheckDone
  dsimp only
  repeat' split
  all_goals exact ⟨_, rfl, by simp⟩
theorem execDiscardDone_pending (s : State) : ∃ s', execDiscardDone s = .next s' ∧ s'.pending = s.pending := by
  unfold execDiscardDone
  exact ⟨_, rfl, by simp⟩
theorem execOpSec_pending (s : State) : ∃ s', execOpSec s = .next s' ∧ s'.pending = s.pending := by
  unfold execOpSec
  dsimp only
  repeat' split
  all_goals exact ⟨_, rfl, by simp⟩
theorem execReserveLow_pending (low : Bool) (s : State) : ∃ s', execReserveLow low s = .next s' ∧ s'.pending =
    s.pending := by
  unfold execReserveLow
  exact ⟨_, rfl, by simp⟩
theorem execTrialExpiry_pending (s : State) : ∃ s', execTrialExpiry s = .next s' ∧ s'.pending = s.pending := by
  unfold execTrialExpiry
  dsimp only
  repeat' split
  all_goals exact ⟨_, rfl, by simp⟩
theorem execTrialFallback_pending (s : State) : ∃ s', execTrialFallback s = .next s' ∧ s'.pending = s.pending := by
  unfold execTrialFallback
  dsimp only
  repeat' split
  all_goals exact ⟨_, rfl, by simp⟩
theorem execTriggerFire_pending (k : Fin 4) (s : State) : ∃ s', execTriggerFire k s = .next s' ∧ s'.pending =
    s.pending := by
  unfold execTriggerFire
  dsimp only
  repeat' split
  all_goals exact ⟨_, rfl, by simp⟩
theorem execWatchCheckStart_pending (s : State) : ∃ s', execWatchCheckStart s = .next s' ∧ s'.pending = s.pending :=
    by
  unfold execWatchCheckStart
  dsimp only
  repeat' split
  all_goals exact ⟨_, rfl, by simp⟩
theorem execWatchCheckBeat_pending (d : WatchData) (s : State) : ∃ s', execWatchCheckBeat d s = .next s' ∧ s'.pending
    = s.pending := by
  unfold execWatchCheckBeat
  dsimp only
  repeat' split
  all_goals exact ⟨_, rfl, by simp⟩
theorem execWatchCheckEnd_pending (s : State) : ∃ s', execWatchCheckEnd s = .next s' ∧ s'.pending = s.pending := by
  unfold execWatchCheckEnd
  dsimp only
  repeat' split
  all_goals exact ⟨_, rfl, by simp⟩

end Sys2Proof.Machine
end

