-- ==== Sys2Proof/Laws/FrameLimits.lean ====
section
/-! SUPPORT. One lemma per operation of the machine about the published limits (09), where an operation leaves them alone. -/

namespace Sys2Proof.Machine

/-! ### Ops -/

@[simp] theorem markTick_limits (s : State) : (markTick s).lim.lim = s.lim.lim := by rfl
@[simp] theorem setAgain_limits (a bits : Nat) (s : State) : (setAgain a bits s).lim.lim = s.lim.lim := by rfl
@[simp] theorem setAgainIf_limits (c : Bool) (a bits : Nat) (s : State) : (setAgainIf c a bits s).lim.lim = s.lim.lim
    := by
  unfold setAgainIf
  (repeat' split) <;> rfl
@[simp] theorem fresh_limits (s : State) : (fresh s).lim.lim = s.lim.lim := by rfl
@[simp] theorem put_limits (e : Emit) (s : State) : (put e s).lim.lim = s.lim.lim := by rfl
@[simp] theorem emitFab_limits (mac : Option Nat) (kind dst seq beat : Nat) (stamp : Option Nat) (ports : Nat)
    (payload : List Byte) (s : State) : (emitFab mac kind dst seq beat stamp ports payload s).lim.lim = s.lim.lim :=
    by
  unfold emitFab
  (repeat' split) <;> rfl
@[simp] theorem sendFab_limits (mac : Option Nat) (kind dst beat : Nat) (stamp : Option Nat) (ports : Nat) (payload :
    List Byte) (s : State) : (sendFab mac kind dst beat stamp ports payload s).lim.lim = s.lim.lim := by simp
    [sendFab]
@[simp] theorem tookFree_limits (k : Nat) (s : State) : (tookFree k s).lim.lim = s.lim.lim := by rfl
@[simp] theorem takeTurn_limits (x : Turn) (s : State) : (takeTurn x s).lim.lim = s.lim.lim := by rfl
@[simp] theorem atTick_limits (t : Nat) (s : State) : (atTick t s).lim.lim = s.lim.lim := by rfl
@[simp] theorem actAt_limits (x : Turn) (t : Nat) (s : State) : (actAt x t s).lim.lim = s.lim.lim := by rfl
@[simp] theorem atNs_limits (ns : Nat) (s : State) : (atNs ns s).lim.lim = s.lim.lim := by rfl
@[simp] theorem recEvent_limits (code chan : Nat) (p : List Word) (s : State) : (recEvent code chan p s).lim.lim =
    s.lim.lim := by rfl
@[simp] theorem jnl_limits (code session : Nat) (payload : List Word) (s : State) : (jnl code session payload
    s).lim.lim = s.lim.lim := by rfl
@[simp] theorem toMode_limits (m : Mode) (tno : Nat) (s : State) : (toMode m tno s).lim.lim = s.lim.lim := by rfl

/-! ### Queues -/

@[simp] theorem modQueue_limits (q : Nat) (f : Queue → Queue) (s : State) : (modQueue q f s).lim.lim = s.lim.lim := by
    rfl
@[simp] theorem offerContent_limits (content : Nat) (words : List Word) (s : State) : (offerContent content words
    s).lim.lim = s.lim.lim := by
  unfold offerContent
  repeat' split
  all_goals first
    | rfl
    | exact foldl_limits _ (fun s _ => by (repeat' split) <;> first | rfl | simp) _ _
    | (refine (foldl_limits _ (fun s _ => by (repeat' split) <;> first | rfl | simp) _ _).trans ?_; simp)
    | simp
@[simp] theorem queueCtrl_limits (i : Fin 32) (q : Nat) (v : Word) (s : State) : (queueCtrl i q v s).2.lim.lim =
    s.lim.lim := by
  unfold queueCtrl
  repeat' split
  all_goals first
    | rfl
    | exact foldl_limits _ (fun s _ => by (repeat' split) <;> first | rfl | simp) _ _
    | (refine (foldl_limits _ (fun s _ => by (repeat' split) <;> first | rfl | simp) _ _).trans ?_; simp)
    | simp
@[simp] theorem queuesWrite_limits (i : Fin 32) (o : Nat) (v : Word) (s : State) : (queuesWrite i o v s).2.lim.lim =
    s.lim.lim := by
  unfold queuesWrite
  repeat' split
  all_goals first | rfl | simp
@[simp] theorem releaseClaims_limits (i : Fin 32) (s : State) : (releaseClaims i s).lim.lim = s.lim.lim := by rfl

/-! ### Jobs -/

@[simp] theorem modJob_limits (j : Nat) (f : Job → Job) (s : State) : (modJob j f s).lim.lim = s.lim.lim := by rfl
@[simp] theorem jobStart_limits (i : Fin 32) (j kind : Nat) (s : State) : (jobStart i j kind s).lim.lim = s.lim.lim :=
    by rfl
@[simp] theorem jobEnd_limits (j : Nat) (st : JobSt) (detail : Nat) (s : State) : (jobEnd j st detail s).lim.lim =
    s.lim.lim := by rfl
@[simp] theorem jobRefuse_limits (i : Fin 32) (j kind detail : Nat) (s : State) : (jobRefuse i j kind detail
    s).lim.lim = s.lim.lim := by rfl
@[simp] theorem jobCommitted_limits (j : Nat) (s : State) : (jobCommitted j s).lim.lim = s.lim.lim := by rfl
@[simp] theorem jobClearWrite_limits (j : Nat) (s : State) : (jobClearWrite j s).2.lim.lim = s.lim.lim := by
  unfold jobClearWrite
  (repeat' split) <;> rfl
@[simp] theorem jobArgWrite_limits (j : Nat) (v : Word) (s : State) : (jobArgWrite j v s).2.lim.lim = s.lim.lim := by
  unfold jobArgWrite
  (repeat' split) <;> rfl

/-! ### Records -/

@[simp] theorem bumpNonce_limits (s : State) : (bumpNonce s).lim.lim = s.lim.lim := by rfl
@[simp] theorem storeRec_limits (e : RecEvent) (s : State) : (storeRec e s).lim.lim = s.lim.lim := by
  unfold storeRec
  dsimp only
  (repeat' split) <;> first | rfl | (simp; done)
@[simp] theorem formRec_limits (e : RecEvent) (s : State) : (formRec e s).lim.lim = s.lim.lim := by
  unfold formRec
  dsimp only
  (repeat' split) <;> first | rfl | (simp; done)
@[simp] theorem storeJnl_limits (w : List Word) (s : State) : (storeJnl w s).lim.lim = s.lim.lim := by
  unfold storeJnl
  (repeat' split) <;> rfl
@[simp] theorem formJnl_limits (e : JnlEvent) (s : State) : (formJnl e s).lim.lim = s.lim.lim := by
  unfold formJnl
  dsimp only
  (repeat' split) <;> first | rfl | (simp; done)
@[simp] theorem flushHeld_limits (s : State) : (flushHeld s).lim.lim = s.lim.lim := by
  unfold flushHeld
  dsimp only
  refine (foldl_limits _ (fun s _ => by simp) _ _).trans ?_
  exact (foldl_limits _ (fun s _ => by simp) _ _).trans rfl
@[simp] theorem freezeEnd_limits (s : State) : (freezeEnd s).lim.lim = s.lim.lim := by
  unfold freezeEnd
  dsimp only
  (repeat' split) <;> first | rfl | (simp; done)
@[simp] theorem freezeStart_limits (i : Fin 32) (s : State) : (freezeStart i s).2.lim.lim = s.lim.lim := by
  unfold freezeStart
  (repeat' split) <;> rfl
@[simp] theorem rcCtrlWrite_limits (i : Fin 32) (v : Word) (s : State) : (rcCtrlWrite i v s).2.lim.lim = s.lim.lim :=
    by
  unfold rcCtrlWrite
  dsimp only
  (repeat' split) <;> first | rfl | (simp; done)
@[simp] theorem setCrown_limits (i : Fin 32) (released : Bool) (signer : Nat) (s : State) : (setCrown i released
    signer s).lim.lim = s.lim.lim := by
  unfold setCrown
  (repeat' split) <;> rfl
@[simp] theorem crownWrite_limits (i : Fin 32) (v : Word) (s : State) : (crownWrite i v s).2.lim.lim = s.lim.lim := by
  unfold crownWrite
  dsimp only
  (repeat' split) <;> first | rfl | (simp; done)
@[simp] theorem clearStart_limits (i : Fin 32) (j : Fin 8) (s : State) : (clearStart i j s).lim.lim = s.lim.lim := by
  unfold clearStart
  dsimp only
  (repeat' split) <;> first | rfl | (simp; done)
@[simp] theorem clearRecorder_limits (slot : Nat) (s : State) : (clearRecorder slot s).lim.lim = s.lim.lim := by rfl
@[simp] theorem clearJournal_limits (session slot : Nat) (s : State) : (clearJournal session slot s).lim.lim =
    s.lim.lim := by
    simp [clearJournal]
@[simp] theorem clearDone_limits (s : State) : (clearDone s).lim.lim = s.lim.lim := by
  unfold clearDone
  dsimp only
  (repeat' split) <;> first | rfl | (simp; done)
@[simp] theorem recordsWrite_limits (i : Fin 32) (o : Nat) (v : Word) (s : State) : (recordsWrite i o v s).2.lim.lim =
    s.lim.lim := by
  unfold recordsWrite
  dsimp only
  (repeat' split) <;> first | rfl | (simp; done)

/-! ### Timing -/

@[simp] theorem modEngine_limits (e : Nat) (f : Engine → Engine) (s : State) : (modEngine e f s).lim.lim = s.lim.lim
    := by rfl
@[simp] theorem releaseItem_limits (k : Nat) (s : State) : (releaseItem k s).lim.lim = s.lim.lim := by
  unfold releaseItem
  (repeat' split) <;> rfl
@[simp] theorem escapementBeat_limits (s : State) : (escapementBeat s).lim.lim = s.lim.lim := by
  unfold escapementBeat
  (repeat' split) <;> rfl
@[simp] theorem releaseAtZero_limits (s : State) : (releaseAtZero s).lim.lim = s.lim.lim := by
  unfold releaseAtZero
  repeat' split
  all_goals first
    | rfl
    | exact foldl_limits _ (fun s _ => by (repeat' split) <;> first | rfl | simp) _ _
    | (refine (foldl_limits _ (fun s _ => by (repeat' split) <;> first | rfl | simp) _ _).trans ?_; simp)
    | simp
@[simp] theorem modDom_limits (d : Fin 2) (f : Dom → Dom) (s : State) : (modDom d f s).lim.lim = s.lim.lim := by rfl
@[simp] theorem judgeSync_limits (s : State) : (judgeSync s).lim.lim = s.lim.lim := by rfl
@[simp] theorem nodesShift_limits (d : Int) (s : State) : (nodesShift d s).lim.lim = s.lim.lim := by rfl
@[simp] theorem rebeat_limits (b b' : Nat) (s : State) : (rebeat b b' s).lim.lim = s.lim.lim := by rfl
@[simp] theorem stepClock_limits (offset : Int) (s : State) : (stepClock offset s).lim.lim = s.lim.lim := by rfl
@[simp] theorem correct_limits (s : State) : (correct s).lim.lim = s.lim.lim := by
  unfold correct
  dsimp only
  (repeat' split) <;> first | rfl | (simp; done)
@[simp] theorem syncMeasured_limits (d : Fin 2) (off : Int) (gm : Nat) (s : State) : (syncMeasured d off gm s).lim.lim
    = s.lim.lim := by rfl
@[simp] theorem selectGm_limits (d : Fin 2) (s : State) : (selectGm d s).lim.lim = s.lim.lim := by rfl
@[simp] theorem endSwitch_limits (s : State) : (endSwitch s).lim.lim = s.lim.lim := by rfl
@[simp] theorem steerTo_limits (d : Fin 2) (s : State) : (steerTo d s).lim.lim = s.lim.lim := by simp [steerTo]
@[simp] theorem fireTrig_limits (k : Fin 4) (s : State) : (fireTrig k s).lim.lim = s.lim.lim := by rfl
@[simp] theorem trigWrite_limits (k : Fin 4) (w : Nat) (v : Word) (s : State) : (trigWrite k w v s).2.lim.lim =
    s.lim.lim := by
  unfold trigWrite
  dsimp only
  (repeat' split) <;> first | rfl | (simp; done)
@[simp] theorem modTsq_limits (p : Fin 3) (f : Tsq → Tsq) (s : State) : (modTsq p f s).lim.lim = s.lim.lim := by rfl
@[simp] theorem probeWrite_limits (v : Word) (s : State) : (probeWrite v s).lim.lim = s.lim.lim := by
  unfold probeWrite
  repeat' split
  all_goals first
    | rfl
    | exact foldl_limits _ (fun s _ => by (repeat' split) <;> first | rfl | simp) _ _
    | (refine (foldl_limits _ (fun s _ => by (repeat' split) <;> first | rfl | simp) _ _).trans ?_; simp)
    | simp
@[simp] theorem timeCtrlWrite_limits (v : Word) (s : State) : (timeCtrlWrite v s).2.lim.lim = s.lim.lim := by
  unfold timeCtrlWrite
  dsimp only
  (repeat' split) <;> first | rfl | (simp; done)
@[simp] theorem timeWrite_limits (o : Nat) (v : Word) (s : State) : (timeWrite o v s).2.lim.lim = s.lim.lim := by
  unfold timeWrite
  dsimp only
  (repeat' split) <;> first | rfl | (simp; done)

/-! ### Nodes -/

@[simp] theorem modNode_limits (line hop : Nat) (f : NodeS → NodeS) (s : State) : (modNode line hop f s).lim.lim =
    s.lim.lim := by rfl
@[simp] theorem applyReached_limits (line : Nat) (d : End) (f : NodeS → NodeS) (s : State) : (applyReached line d f
    s).lim.lim = s.lim.lim := by rfl
@[simp] theorem nodeCommand_limits (line : Nat) (d : End) (addr claim : Nat) (c : NodeCmd) (s : State) : (nodeCommand
    line d addr claim c s).lim.lim = s.lim.lim := by rfl
@[simp] theorem nodeBroadcast_limits (line : Nat) (d : End) (claim : Nat) (c : NodeCmd) (s : State) : (nodeBroadcast
    line d claim c s).lim.lim = s.lim.lim := by rfl
@[simp] theorem nodesAssign_limits (line : Nat) (d : End) (claim addr : Nat) (s : State) : (nodesAssign line d claim
    addr s).lim.lim = s.lim.lim := by
  unfold nodesAssign
  (repeat' split) <;> rfl
@[simp] theorem nodesReassign_limits (line : Nat) (d : End) (claim addr uid : Nat) (s : State) : (nodesReassign line d
    claim addr uid s).lim.lim = s.lim.lim := by rfl
@[simp] theorem afterSpan_limits (line hop : Nat) (mark : NodeS → Int) (span : Nat) (f : NodeS → NodeS) (s : State) :
    (afterSpan line hop mark span f s).lim.lim = s.lim.lim := by
  unfold afterSpan
  (repeat' split) <;> rfl

/-! ### Chain -/

@[simp] theorem modLine_limits (l : Nat) (f : Line → Line) (s : State) : (modLine l f s).lim.lim = s.lim.lim := by rfl
@[simp] theorem modRec_limits (a : Nat) (f : NodeM → NodeM) (s : State) : (modRec a f s).lim.lim = s.lim.lim := by rfl
@[simp] theorem sendChain_limits (l : Nat) (d : End) (typ addr seq : Nat) (payload : List Byte) (s : State) :
    (sendChain l d typ addr seq payload s).lim.lim = s.lim.lim := by rfl
@[simp] theorem sendCmd_limits (l : Nat) (d : End) (addr op : Nat) (args : List Nat) (s : State) : (sendCmd l d addr
    op args s).lim.lim = s.lim.lim := by rfl
@[simp] theorem putReply_limits (op seq rslot claim : Nat) (c : NodeCmd) (n : Option NodeS) (s : State) : (putReply op
    seq rslot claim c n s).lim.lim = s.lim.lim := by
  unfold putReply
  (repeat' split) <;> rfl
@[simp] theorem command_limits (addr op : Nat) (args : List Nat) (c : NodeCmd) (s : State) : (command addr op args c
    s).lim.lim = s.lim.lim := by simp [command]
@[simp] theorem broadcast_limits (l : Nat) (d : End) (op : Nat) (args : List Nat) (c : NodeCmd) (s : State) :
    (broadcast l d op args c s).lim.lim = s.lim.lim := by rfl
@[simp] theorem enumFail_limits (l err : Nat) (d : End) (hop detail : Nat) (s : State) : (enumFail l err d hop detail
    s).lim.lim = s.lim.lim := by
  unfold enumFail
  dsimp only
  (repeat' split) <;> first | rfl | (simp; done)
@[simp] theorem sleepLine_limits (l : Nat) (s : State) : (sleepLine l s).lim.lim = s.lim.lim := by rfl
@[simp] theorem sleepAll_limits (s : State) : (sleepAll s).lim.lim = s.lim.lim := by
  unfold sleepAll
  repeat' split
  all_goals first
    | rfl
    | exact foldl_limits _ (fun s _ => by (repeat' split) <;> first | rfl | simp) _ _
    | (refine (foldl_limits _ (fun s _ => by (repeat' split) <;> first | rfl | simp) _ _).trans ?_; simp)
    | simp
@[simp] theorem sendProbe_limits (l : Nat) (d : End) (a : Nat) (s : State) : (sendProbe l d a s).lim.lim = s.lim.lim
    := by
  unfold sendProbe
  dsimp only
  (repeat' split) <;> first | rfl | (simp; done)
@[simp] theorem probeLine_limits (l : Nat) (s : State) : (probeLine l s).lim.lim = s.lim.lim := by
  unfold probeLine
  dsimp only
  (repeat' split) <;> first | rfl | (simp; done)
@[simp] theorem sendDelays_limits (a : Nat) (d : End) (v : Nat) (s : State) : (sendDelays a d v s).lim.lim = s.lim.lim
    := by
    unfold sendDelays; (repeat' split) <;> rfl
@[simp] theorem closeSet_limits (a : Nat) (d : End) (s : State) : (closeSet a d s).lim.lim = s.lim.lim := by
  unfold closeSet
  dsimp only
  (repeat' split) <;> first | rfl | (simp; done)
@[simp] theorem probeLost_limits (l : Nat) (s : State) : (probeLost l s).lim.lim = s.lim.lim := by
  unfold probeLost
  dsimp only
  (repeat' split) <;> first | rfl | (simp; done)
@[simp] theorem inbound_limits (h : ChainHdr) (whole : Bool) (s : State) : (inbound h whole s).lim.lim = s.lim.lim :=
    by
  unfold inbound
  (repeat' split) <;> rfl
@[simp] theorem forwardPair_limits (sub a seq : Nat) (body : List Byte) (s : State) : (forwardPair sub a seq body
    s).lim.lim = s.lim.lim := by
  unfold forwardPair
  repeat' split
  all_goals first | rfl | simp
@[simp] theorem takeResult_limits (a : Nat) (b : ResultBody) (s : State) : (takeResult a b s).lim.lim = s.lim.lim :=
    by
  unfold takeResult
  (repeat' split) <;> rfl
@[simp] theorem takeAux_limits (a : Nat) (b : AuxBody) (s : State) : (takeAux a b s).lim.lim = s.lim.lim := by
  unfold takeAux
  (repeat' split) <;> rfl
@[simp] theorem checkId_limits (a : Nat) (s : State) : (checkId a s).lim.lim = s.lim.lim := by
  unfold checkId
  dsimp only
  (repeat' split) <;> first | rfl | (simp; done)
@[simp] theorem checkSense_limits (a : Nat) (s : State) : (checkSense a s).lim.lim = s.lim.lim := by
  unfold checkSense
  dsimp only
  (repeat' split) <;> first | rfl | (simp; done)
@[simp] theorem keepIdent_limits (a uid nodeType proto caps : Nat) (lockin : Bool) (s : State) : (keepIdent a uid
    nodeType proto caps lockin s).lim.lim = s.lim.lim := by rfl
@[simp] theorem replyOk_limits (c : CmdOut) (a : Nat) (d : ReplyData) (s : State) : (replyOk c a d s).lim.lim =
    s.lim.lim := by
  unfold replyOk
  dsimp only
  (repeat' split) <;> first | rfl | (simp; done)
@[simp] theorem markDone_limits (c : CmdOut) (s : State) : (markDone c s).lim.lim = s.lim.lim := by rfl
@[simp] theorem takeReply_limits (h : ChainHdr) (op status : Nat) (d : ReplyData) (s : State) : (takeReply h op status
    d s).lim.lim = s.lim.lim := by
  unfold takeReply
  dsimp only
  (repeat' split) <;> first | rfl | (simp; done)
@[simp] theorem rejoin_limits (a : Nat) (s : State) : (rejoin a s).lim.lim = s.lim.lim := by rfl
@[simp] theorem unknownSeen_limits (h : ChainHdr) (uid : Nat) (s : State) : (unknownSeen h uid s).lim.lim = s.lim.lim
    := by rfl
@[simp] theorem linePass_limits (l : Nat) (s : State) : (linePass l s).lim.lim = s.lim.lim := by
  unfold linePass
  exact foldl_limits _ (fun s _ => by (repeat' split) <;> first | rfl | simp) _ _
@[simp] theorem setHolder_limits (b : Bool) (s : State) : (setHolder b s).lim.lim = s.lim.lim := by rfl
@[simp] theorem takeOver_limits (s : State) : (takeOver s).lim.lim = s.lim.lim := by
  unfold takeOver
  (repeat' split) <;> rfl
@[simp] theorem loseHold_limits (s : State) : (loseHold s).lim.lim = s.lim.lim := by
  unfold loseHold
  (repeat' split) <;> rfl
@[simp] theorem passEnum_limits (l : Nat) (seen : Option Nat) (s : State) : (passEnum l seen s).lim.lim = s.lim.lim :=
    by
  unfold passEnum
  dsimp only
  (repeat' split) <;> first | rfl | (simp; done)
@[simp] theorem judgeAbsent_limits (s : State) : (judgeAbsent s).lim.lim = s.lim.lim := by
  unfold judgeAbsent
  dsimp only
  refine (foldl_limits _ ?_ _ _).trans ?_
  · intro s x; (repeat' split) <;> first | rfl | (simp; done)
  · refine (foldl_limits _ ?_ _ _).trans rfl; intro s x; (repeat' split) <;> first | rfl | (simp; done)
@[simp] theorem chainBeat_limits (s : State) : (chainBeat s).lim.lim = s.lim.lim := by
  unfold chainBeat
  repeat' split
  all_goals first
    | rfl
    | exact foldl_limits _ (fun s _ => by (repeat' split) <;> first | rfl | simp) _ _
    | (refine (foldl_limits _ (fun s _ => by (repeat' split) <;> first | rfl | simp) _ _).trans ?_; simp)
    | simp
@[simp] theorem enumStart_limits (s : State) : (enumStart s).lim.lim = s.lim.lim := by rfl
@[simp] theorem chClear_limits (s : State) : (chClear s).lim.lim = s.lim.lim := by rfl

/-! ### Measure -/

@[simp] theorem chargeCommit_limits (s : State) : (chargeCommit s).lim.lim = s.lim.lim := by rfl
@[simp] theorem epochBeat_limits (s : State) : (epochBeat s).lim.lim = s.lim.lim := by rfl
@[simp] theorem posCommit_limits (s : State) : (posCommit s).lim.lim = s.lim.lim := by rfl
@[simp] theorem tempCommit_limits (s : State) : (tempCommit s).lim.lim = s.lim.lim := by
  unfold tempCommit
  (repeat' split) <;> rfl
@[simp] theorem mapTemps_limits (s : State) : (mapTemps s).lim.lim = s.lim.lim := by rfl
@[simp] theorem accordBeat_limits (s : State) : (accordBeat s).lim.lim = s.lim.lim := by rfl
@[simp] theorem insOpen_limits (s : State) : (insOpen s).lim.lim = s.lim.lim := by
  unfold insOpen
  (repeat' split) <;> rfl
@[simp] theorem insJudge_limits (rp rn : Nat) (s : State) : (insJudge rp rn s).lim.lim = s.lim.lim := by rfl
@[simp] theorem insSettled_limits (v : Int) (s : State) : (insSettled v s).1.lim.lim = s.lim.lim := by
  unfold insSettled
  dsimp only
  (repeat' split) <;> first | rfl | (simp; done)
@[simp] theorem insReceived_limits (src string rp rn end32 : Nat) (s : State) : (insReceived src string rp rn end32
    s).lim.lim = s.lim.lim := by
  unfold insReceived
  (repeat' split) <;> rfl
@[simp] theorem modSess_limits (i : Fin 32) (f : Session → Session) (s : State) : (modSess i f s).lim.lim = s.lim.lim
    := by rfl
@[simp] theorem takeSnap_limits (s : State) : (takeSnap s).lim.lim = s.lim.lim := by
  unfold takeSnap
  (repeat' split) <;> rfl
@[simp] theorem measWrite_limits (i : Fin 32) (o : Nat) (v : Word) (s : State) : (measWrite i o v s).2.lim.lim =
    s.lim.lim := by
  unfold measWrite
  dsimp only
  (repeat' split) <;> first | rfl | (simp; done)

/-! ### Spectra -/

@[simp] theorem modSpec_limits (p : Nat) (f : PosSpec → PosSpec) (s : State) : (modSpec p f s).lim.lim = s.lim.lim :=
    by rfl
@[simp] theorem histBeat_limits (s : State) : (histBeat s).lim.lim = s.lim.lim := by rfl
@[simp] theorem quasiAnchor_limits (p : Nat) (l : List BeatRec) (xs : List Rat) (s : State) : (quasiAnchor p l xs
    s).lim.lim = s.lim.lim := by
  unfold quasiAnchor
  dsimp only
  (repeat' split) <;> first | rfl | (simp; done)
@[simp] theorem windowPos_limits (k p : Nat) (l : List BeatRec) (xi : Cx) (s : State) : (windowPos k p l xi s).lim.lim
    = s.lim.lim := by
  unfold windowPos
  dsimp only
  (repeat' split) <;> first | rfl | (simp; done)
@[simp] theorem windowStr_limits (k : Nat) (l : List BeatRec) (xi : Cx) (s : State) : (windowStr k l xi s).lim.lim =
    s.lim.lim := by rfl
@[simp] theorem dropStim_limits (l : Nat) (s : State) : (dropStim l s).lim.lim = s.lim.lim := by rfl
@[simp] theorem takeLockin_limits (c : CmdOut) (a : Nat) (d : ReplyData) (s : State) : (takeLockin c a d s).lim.lim =
    s.lim.lim := by
  unfold takeLockin
  dsimp only
  (repeat' split) <;> first | rfl | (simp; done)

/-! ### Estimate -/

@[simp] theorem modFilter_limits (p : Nat) (f : Filter → Filter) (s : State) : (modFilter p f s).lim.lim = s.lim.lim
    := by rfl
@[simp] theorem restJudge_limits (s : State) : (restJudge s).lim.lim = s.lim.lim := by
  unfold restJudge
  (repeat' split) <;> rfl
@[simp] theorem restPositions_limits (s : State) : (restPositions s).lim.lim = s.lim.lim := by
  unfold restPositions
  (repeat' split) <;> rfl
@[simp] theorem stimBeat_limits (s : State) : (stimBeat s).lim.lim = s.lim.lim := by rfl
@[simp] theorem trueAnchor_limits (p : Nat) (a : AnchorV) (s : State) : (trueAnchor p a s).lim.lim = s.lim.lim := by
  unfold trueAnchor
  dsimp only
  (repeat' split) <;> first | rfl | (simp; done)
@[simp] theorem anchorStep_limits (p : Nat) (second : Bool) (s : State) : (anchorStep p second s).lim.lim = s.lim.lim
    := by
  unfold anchorStep
  dsimp only
  (repeat' split) <;> first | rfl | (simp; done)
@[simp] theorem filterOn_limits (p : Nat) (r : BeatRec) (add : Int) (f : Filter) (s : State) : (filterOn p r add f
    s).lim.lim = s.lim.lim := by simp [filterOn]
@[simp] theorem judgeWarn_limits (s : State) (eps : List (Option (Rat × Rat))) : (judgeWarn s eps).lim.lim = s.lim.lim
    := by
  unfold judgeWarn
  dsimp only
  refine (foldl_limits _ (fun s _ => ?_) _ _).trans ?_
  · (repeat' split) <;> first | rfl | simp
  · (repeat' split) <;> first | rfl | simp
@[simp] theorem summaryShow_limits (s : State) : (summaryShow s).lim.lim = s.lim.lim := by
  unfold summaryShow
  (repeat' split) <;> rfl
@[simp] theorem estStart_limits (s : State) : (estStart s).lim.lim = s.lim.lim := by rfl
@[simp] theorem seedCtrlWrite_limits (v : Word) (s : State) : (seedCtrlWrite v s).lim.lim = s.lim.lim := by
  unfold seedCtrlWrite
  dsimp only
  (repeat' split) <;> first | rfl | (simp; done)
@[simp] theorem refReset_limits (s : State) : (refReset s).lim.lim = s.lim.lim := by rfl
@[simp] theorem rwa_limits (s : State) (old new : Nat) (f : State → State) (hf : ∀ s, (f s).lim.lim = s.lim.lim) :
    (rwa s old new f).2.lim.lim = s.lim.lim := by
  unfold rwa
  split <;> simp [hf]
@[simp] theorem estWrite_limits (i : Fin 32) (o : Nat) (v : Word) (s : State) : (estWrite i o v s).2.lim.lim =
    s.lim.lim := by
  unfold estWrite; dsimp only; split <;> first | rfl | (simp; done) | (split <;> first | rfl | (simp; done)) | (apply rwa_limits; intro s; rfl)

/-! ### Cells -/

@[simp] theorem cellsStart_limits (s : State) : (cellsStart s).lim.lim = s.lim.lim := by rfl
@[simp] theorem tapTemps_limits (s : State) : (tapTemps s).lim.lim = s.lim.lim := by rfl
@[simp] theorem tapCommit_limits (s : State) : (tapCommit s).lim.lim = s.lim.lim := by
  unfold tapCommit
  dsimp only
  (repeat' split) <;> first | rfl | (simp; done)
@[simp] theorem enterFinding_limits (r : Nat) (s : State) (f : Finding) : (enterFinding r s f).lim.lim = s.lim.lim :=
    by simp [enterFinding]
@[simp] theorem cellUpdate_limits (r : Nat) (pos : List CellPos) (taps : List Tap) (s : State) : (cellUpdate r pos
    taps s).lim.lim = s.lim.lim := by rfl
@[simp] theorem cellSettle_limits (s : State) : (cellSettle s).lim.lim = s.lim.lim := by
  unfold cellSettle
  repeat' split
  all_goals first
    | rfl
    | exact foldl_limits _ (fun s _ => by (repeat' split) <;> first | rfl | simp) _ _
    | (refine (foldl_limits _ (fun s _ => by (repeat' split) <;> first | rfl | simp) _ _).trans ?_; simp)
    | simp
@[simp] theorem cellReview_limits (s : State) : (cellReview s).lim.lim = s.lim.lim := by
  unfold cellReview
  dsimp only
  (repeat' split) <;> first | rfl | (simp; done)
@[simp] theorem roundEffects_limits (s : State) : (roundEffects s).lim.lim = s.lim.lim := by
  unfold roundEffects
  exact foldl_limits _ (fun s _ => by (repeat' split) <;> first | rfl | simp) _ _
@[simp] theorem cellSumWrite_limits (o : Nat) (v : Word) (s : State) : (cellSumWrite o v s).lim.lim = s.lim.lim := by
  unfold cellSumWrite
  (repeat' split) <;> rfl

/-! ### Limits -/

@[simp] theorem limStart_limits (s : State) : (limStart s).lim.lim = s.lim.lim := by
  unfold limStart
  (repeat' split) <;> rfl
@[simp] theorem selection_limits (s : State) : (selection s).lim.lim = s.lim.lim := by rfl
@[simp] theorem balancePlan_limits (s : State) : (balancePlan s).lim.lim = s.lim.lim := by
  unfold balancePlan
  dsimp only
  (repeat' split) <;> first | rfl | (simp; done)
@[simp] theorem limWrite_limits (o : Nat) (v : Word) (s : State) : (limWrite o v s).2.lim.lim = s.lim.lim := by
  unfold limWrite
  dsimp only
  (repeat' split) <;> first | rfl | (simp; done)

/-! ### SafetyFn -/

@[simp] theorem modK_limits (k : Nat) (f : Contactor → Contactor) (s : State) : (modK k f s).lim.lim = s.lim.lim := by
    rfl
@[simp] theorem allK_limits (f : Nat → Contactor → Contactor) (s : State) : (allK f s).lim.lim = s.lim.lim := by rfl
@[simp] theorem jobFail_limits (detail : Nat) (s : State) : (jobFail detail s).lim.lim = s.lim.lim := by
  unfold jobFail
  (repeat' split) <;> rfl
@[simp] theorem noteOpens_limits (before s : State) : (noteOpens before s).lim.lim = s.lim.lim := by
  unfold noteOpens
  repeat' split
  all_goals first
    | rfl
    | exact foldl_limits _ (fun s _ => by (repeat' split) <;> first | rfl | simp) _ _
    | (refine (foldl_limits _ (fun s _ => by (repeat' split) <;> first | rfl | simp) _ _).trans ?_; simp)
    | simp
@[simp] theorem jobWatch_limits (before s : State) : (jobWatch before s).lim.lim = s.lim.lim := by
  unfold jobWatch
  split
  · split
    · exact jobFail_limits 6 s
    · rfl
  · rfl
@[simp] theorem switching_limits (f : State → State) (s : State) (hf : ∀ s, (f s).lim.lim = s.lim.lim) : (switching f
    s).lim.lim = s.lim.lim := by
  unfold switching
  simp [hf]
@[simp] theorem safStart_limits (blk : SafetyBlock) (raw : List Byte) (s : State) : (safStart blk raw s).lim.lim =
    s.lim.lim := by rfl
@[simp] theorem inputOpens_limits (i : Nat) (ch : Chan) (cancel : Bool) (s : State) : (inputOpens i ch cancel
    s).lim.lim = s.lim.lim := switching_limits _ _ (fun _ => rfl)
@[simp] theorem discJudge_limits (ch : Chan) (s : State) : (discJudge ch s).lim.lim = s.lim.lim := by
  unfold discJudge
  dsimp only
  refine (foldl_limits _ (fun s _ => ?_) _ _).trans ?_
  · (repeat' split) <;> first | rfl | simp
  · (repeat' split) <;> first | rfl | simp
@[simp] theorem evalPos_limits (b : SafetyBlock) (s : State) : (evalPos b s).1.lim.lim = s.lim.lim := by rfl
@[simp] theorem evalFe_limits (b : SafetyBlock) (s : State) : (evalFe b s).1.lim.lim = s.lim.lim := by rfl
@[simp] theorem evalTemp_limits (b : SafetyBlock) (s : State) : (evalTemp b s).1.lim.lim = s.lim.lim := by rfl
@[simp] theorem evalI2t_limits (b : SafetyBlock) (s : State) : (evalI2t b s).1.lim.lim = s.lim.lim := by rfl
@[simp] theorem evalDir_limits (b : SafetyBlock) (s : State) : (evalDir b s).1.lim.lim = s.lim.lim := by rfl
@[simp] theorem evalHs_limits (ma : List Nat) (s : State) : (evalHs ma s).1.lim.lim = s.lim.lim := by rfl
@[simp] theorem evalOther_limits (s : State) : (evalOther s).1.lim.lim = s.lim.lim := by rfl
@[simp] theorem jobTest_limits (s : State) : (jobTest s).lim.lim = s.lim.lim := by
  unfold jobTest
  (repeat' split) <;> rfl
@[simp] theorem dropA_limits (s : State) : (dropA s).lim.lim = s.lim.lim := switching_limits _ _ (fun _ => rfl)
@[simp] theorem jobDone_limits (s : State) : (jobDone s).lim.lim = s.lim.lim := by
  unfold jobDone
  (repeat' split) <;> rfl
@[simp] theorem jobStep_limits (s : State) : (jobStep s).2.2.lim.lim = s.lim.lim := by
  unfold jobStep
  dsimp only
  (repeat' split) <;> first | rfl | (simp; done)
@[simp] theorem applyK_limits (jc jo : Nat) (s : State) : (applyK jc jo s).lim.lim = s.lim.lim := by
  unfold applyK
  dsimp only
  (repeat' split) <;> first | rfl | (simp; done)
@[simp] theorem evalLs_limits (ma : List Nat) (s : State) : (evalLs ma s).1.lim.lim = s.lim.lim := by rfl
@[simp] theorem switchLs_limits (s : State) : (switchLs s).lim.lim = s.lim.lim := by
  unfold switchLs
  dsimp only
  (repeat' split) <;> first | rfl | (simp; done)
@[simp] theorem contactorStart_limits (i : Fin 32) (j : Fin 8) (kind : Nat) (s : State) : (contactorStart i j kind
    s).lim.lim = s.lim.lim := by
  unfold contactorStart
  (repeat' split) <;> rfl
@[simp] theorem contactorAbort_limits (s : State) : (contactorAbort s).lim.lim = s.lim.lim := by
  unfold contactorAbort
  (repeat' split) <;> rfl
@[simp] theorem kCmdWrite_limits (v : Word) (s : State) : (kCmdWrite v s).lim.lim = s.lim.lim := by
  unfold kCmdWrite
  (repeat' split) <;> rfl
@[simp] theorem openAll_limits (s : State) : (openAll s).lim.lim = s.lim.lim := switching_limits _ _ (fun _ => rfl)
@[simp] theorem safWrite_limits (o : Nat) (v : Word) (s : State) : (safWrite o v s).lim.lim = s.lim.lim := by
  unfold safWrite
  dsimp only
  (repeat' split) <;> first | rfl | (simp; done)

/-! ### Fabric -/

@[simp] theorem modFab_limits (f : Fab → Fab) (s : State) : (modFab f s).lim.lim = s.lim.lim := by rfl
@[simp] theorem modPort_limits (p : Fin 3) (f : PortSt → PortSt) (s : State) : (modPort p f s).lim.lim = s.lim.lim :=
    by rfl
@[simp] theorem badFrame_limits (p : Fin 3) (s : State) : (badFrame p s).lim.lim = s.lim.lim := by rfl
@[simp] theorem dupFrame_limits (p : Fin 3) (s : State) : (dupFrame p s).lim.lim = s.lim.lim := by rfl
@[simp] theorem fabArrive_limits (h : FabHdr) (s : State) : (fabArrive h s).2.lim.lim = s.lim.lim := by
  unfold fabArrive
  dsimp only
  (repeat' split) <;> first | rfl | (simp; done)
@[simp] theorem fabAccept_limits (fits : Bool) (h : FabHdr) (s : State) : (fabAccept fits h s).2.lim.lim = s.lim.lim
    := by
  unfold fabAccept
  (repeat' split) <;> rfl
@[simp] theorem fabIn_limits (fits : Bool) (h : FabHdr) (s : State) : (fabIn fits h s).2.lim.lim = s.lim.lim := by
  unfold fabIn
  split
  · rename_i heq
    have h2 := fabArrive_limits h s
    rw [heq] at h2
    exact h2
  · rename_i heq
    have h2 := fabArrive_limits h s
    rw [heq] at h2
    dsimp only
    (repeat' split) <;> simpa using h2
@[simp] theorem onFrame_limits (kind len : Nat) (h : FabHdr) (f : State → State) (s : State) (hf : ∀ s, (f s).lim.lim
    = s.lim.lim) : (onFrame kind len h f s).lim.lim = s.lim.lim := by
  unfold onFrame; split
  · split
    · rename_i s' heq; have h2 := fabIn_limits (h.len == len) h s; rw [heq] at h2; simpa [hf] using h2
    · rename_i s' heq; have h2 := fabIn_limits (h.len == len) h s; rw [heq] at h2; simpa using h2
  · rfl
@[simp] theorem putPeer_limits (p : Peer) (s : State) : (putPeer p s).lim.lim = s.lim.lim := by rfl
@[simp] theorem candidateMet_limits (mac addr : Nat) (s : State) : (candidateMet mac addr s).lim.lim = s.lim.lim := by
  unfold candidateMet
  (repeat' split) <;> rfl
@[simp] theorem addressMet_limits (mac addr : Nat) (s : State) : (addressMet mac addr s).lim.lim = s.lim.lim := by
  unfold addressMet
  (repeat' split) <;> rfl
@[simp] theorem takeDiscover_limits (h : FabHdr) (b : DiscoverBody) (s : State) : (takeDiscover h b s).lim.lim =
    s.lim.lim := by
  unfold takeDiscover
  dsimp only
  (repeat' split) <;> first | rfl | (simp; done)
@[simp] theorem takeClaim_limits (h : FabHdr) (addr : Nat) (s : State) : (takeClaim h addr s).lim.lim = s.lim.lim :=
    by
  unfold takeClaim
  repeat' split
  all_goals first
    | rfl
    | exact foldl_limits _ (fun s _ => by (repeat' split) <;> first | rfl | simp) _ _
    | (refine (foldl_limits _ (fun s _ => by (repeat' split) <;> first | rfl | simp) _ _).trans ?_; simp)
    | simp
@[simp] theorem keepBank_limits (f : BankFrame) (s : State) : (keepBank f s).lim.lim = s.lim.lim := by
  unfold keepBank
  dsimp only
  (repeat' split) <;> first | rfl | (simp; done)
@[simp] theorem takeBank_limits (h : FabHdr) (tick : Nat) (b : BankBody) (s : State) : (takeBank h tick b s).lim.lim =
    s.lim.lim := by
  unfold takeBank
  dsimp only
  (repeat' split) <;> first | rfl | (simp; done)
@[simp] theorem epochEval_limits (got : Nat → Bool) (l : List Member) (s : State) : (epochEval got l s).2.lim.lim =
    s.lim.lim := by simp [epochEval]
@[simp] theorem bankCompute_limits (s : State) : (bankCompute s).lim.lim = s.lim.lim := by
  unfold bankCompute
  dsimp only
  (repeat' split) <;> first | rfl | (simp; done)
@[simp] theorem fabricBeat_limits (s : State) : (fabricBeat s).lim.lim = s.lim.lim := by rfl

/-! ### Pair -/

@[simp] theorem modPair_limits (f : Pair → Pair) (s : State) : (modPair f s).lim.lim = s.lim.lim := by rfl
@[simp] theorem sendX_limits (sub : Nat) (body : List Byte) (s : State) : (sendX sub body s).lim.lim = s.lim.lim := by
    simp [sendX]
@[simp] theorem onExchange_limits (len : Nat) (h : FabHdr) (f : State → State) (s : State) (hf : ∀ s, (f s).lim.lim =
    s.lim.lim) : (onExchange len h f s).lim.lim = s.lim.lim := by
  unfold onExchange; apply onFrame_limits; intro s; split
  · exact hf s
  · rfl
@[simp] theorem onPartner_limits (len : Nat) (h : FabHdr) (f : State → State) (s : State) (hf : ∀ s, (f s).lim.lim =
    s.lim.lim) : (onPartner len h f s).lim.lim = s.lim.lim := by
  unfold onPartner; apply onExchange_limits; intro s; split
  · exact hf s
  · rfl
@[simp] theorem takeStatus_limits (h : FabHdr) (b : StatusBody) (s : State) : (takeStatus h b s).lim.lim = s.lim.lim
    := by
  unfold takeStatus
  extract_lets p
  split
  · rfl
  · split
    · rfl
    · beta_reduce
      split
      · exact (mapTemps_limits _).trans rfl
      · rfl
@[simp] theorem takeFront_limits (b : FrontBody) (s : State) : (takeFront b s).lim.lim = s.lim.lim := by rfl
@[simp] theorem takeStream_limits (b : StreamBody) (s : State) : (takeStream b s).lim.lim = s.lim.lim := by rfl
@[simp] theorem takeStim_limits (s : State) (c : Nat × Nat × Nat × List Nat) : (takeStim s c).lim.lim = s.lim.lim :=
    by
  unfold takeStim
  dsimp only
  (repeat' split) <;> first | rfl | (simp; done)
@[simp] theorem pairCtrlWrite_limits (v : Word) (s : State) : (pairCtrlWrite v s).2.lim.lim = s.lim.lim := by
  unfold pairCtrlWrite
  dsimp only
  (repeat' split) <;> first | rfl | (simp; done)
@[simp] theorem exchJudge_limits (s : State) : (exchJudge s).lim.lim = s.lim.lim := by
  unfold exchJudge
  dsimp only
  (repeat' split) <;> first | rfl | (simp; done)
@[simp] theorem pairBeat_limits (s : State) : (pairBeat s).lim.lim = s.lim.lim := by
  unfold pairBeat
  (repeat' split) <;> rfl

/-! ### Commit -/

@[simp] theorem chainCommit_limits (s : State) : (chainCommit s).lim.lim = s.lim.lim := by simp [chainCommit]

/-! ### CanIo -/

@[simp] theorem modCan_limits (c : Nat) (f : CanCh → CanCh) (s : State) : (modCan c f s).lim.lim = s.lim.lim := by
    simp [modCan]
@[simp] theorem canOffer_limits (c : Nat) (s : State) : (canOffer c s).lim.lim = s.lim.lim := by
  unfold canOffer
  dsimp only
  (repeat' split) <;> first | rfl | (simp; done)
@[simp] theorem canRespond_limits (c : Nat) (data : List Byte) (s : State) : (canRespond c data s).lim.lim = s.lim.lim
    := by
    simp [canRespond]
@[simp] theorem canBeat_limits (s : State) : (canBeat s).lim.lim = s.lim.lim := by
  unfold canBeat
  repeat' split
  all_goals first
    | rfl
    | exact foldl_limits _ (fun s _ => by (repeat' split) <;> first | rfl | simp) _ _
    | (refine (foldl_limits _ (fun s _ => by (repeat' split) <;> first | rfl | simp) _ _).trans ?_; simp)
    | simp
@[simp] theorem canCommit_limits (c : Nat) (lost : Bool) (s : State) : (canCommit c lost s).lim.lim = s.lim.lim := by
    simp [canCommit]
@[simp] theorem canStart_limits (s : State) : (canStart s).lim.lim = s.lim.lim := by
  unfold canStart
  (repeat' split) <;> rfl
@[simp] theorem txbCmd_limits (c b : Nat) (v : Word) (s : State) : (txbCmd c b v s).2.lim.lim = s.lim.lim := by
  unfold txbCmd
  dsimp only
  (repeat' split) <;> first | rfl | (simp; done)
@[simp] theorem txbWrite_limits (c b w : Nat) (v : Word) (s : State) : (txbWrite c b w v s).2.lim.lim = s.lim.lim :=
    by
  unfold txbWrite
  dsimp only
  (repeat' split) <;> first | rfl | (simp; done)
@[simp] theorem loopWrite_limits (c : Nat) (v : Word) (s : State) : (loopWrite c v s).2.lim.lim = s.lim.lim := by
  unfold loopWrite
  dsimp only
  (repeat' split) <;> first | rfl | (simp; done)
@[simp] theorem filtWrite_limits (c k : Nat) (mask : Bool) (v : Word) (s : State) : (filtWrite c k mask v s).lim.lim =
    s.lim.lim := by simp [filtWrite]
@[simp] theorem canWrite_limits (c o : Nat) (v : Word) (s : State) : (canWrite c o v s).2.lim.lim = s.lim.lim := by
  unfold canWrite
  dsimp only
  (repeat' split) <;> first | rfl | (simp; done)

/-! ### FieldIo -/

@[simp] theorem modIo_limits (k : Nat) (f : IoCh → IoCh) (s : State) : (modIo k f s).lim.lim = s.lim.lim := by rfl
@[simp] theorem setFault_limits (k : Nat) (f : IoCh → IoCh) (s : State) : (setFault k f s).lim.lim = s.lim.lim := by rfl
@[simp] theorem cntClear_limits (v : Word) (s : State) : (cntClear v s).lim.lim = s.lim.lim := by rfl
@[simp] theorem drivePhase_limits (vals : Nat → Bool) (s : State) : (drivePhase vals s).lim.lim = s.lim.lim := by
  unfold drivePhase
  (repeat' split) <;> rfl
@[simp] theorem fioStart_limits (s : State) : (fioStart s).lim.lim = s.lim.lim := by rfl
@[simp] theorem fioOff_limits (s : State) : (fioOff s).lim.lim = s.lim.lim := by rfl
@[simp] theorem fioBeat_limits (s : State) : (fioBeat s).lim.lim = s.lim.lim := by
  unfold fioBeat
  (repeat' split) <;> rfl
@[simp] theorem thStart_limits (s : State) : (thStart s).lim.lim = s.lim.lim := by rfl
@[simp] theorem fioWrite_limits (o : Nat) (v : Word) (s : State) : (fioWrite o v s).lim.lim = s.lim.lim := by
  unfold fioWrite
  (repeat' split) <;> rfl

/-! ### Logic -/

@[simp] theorem modLg_limits (f : Logic → Logic) (s : State) : (modLg f s).lim.lim = s.lim.lim := by rfl
@[simp] theorem modTask_limits (t : Nat) (f : TaskSt → TaskSt) (s : State) : (modTask t f s).lim.lim = s.lim.lim := by
    rfl
@[simp] theorem batchDone_limits (b : Batch) (s : State) : (batchDone b s).lim.lim = s.lim.lim := by rfl
@[simp] theorem applyConsts_limits (t : Nat) (s : State) : (applyConsts t s).lim.lim = s.lim.lim := by
  unfold applyConsts
  dsimp only
  (repeat' split) <;> first | rfl | (simp; done)
@[simp] theorem constsPending_limits (b : Batch) (s : State) : (constsPending b s).lim.lim = s.lim.lim := by
  unfold constsPending
  dsimp only
  (repeat' split) <;> first | rfl | (simp; done)
@[simp] theorem taskOver_limits (t : Nat) (c : TaskCfg) (cycles : Nat) (s : State) : (taskOver t c cycles s).lim.lim =
    s.lim.lim := by
  unfold taskOver
  dsimp only
  (repeat' split) <;> first | rfl | (simp; done)
@[simp] theorem taskCommit_limits (t : Nat) (c : TaskCfg) (p : LogicCfg) (cycles : Nat) (s : State) : (taskCommit t c
    p cycles s).lim.lim = s.lim.lim := by rfl
@[simp] theorem taskStopped_limits (t : Nat) (s : State) : (taskStopped t s).lim.lim = s.lim.lim := by
  unfold taskStopped
  repeat' split
  all_goals first
    | rfl
    | exact foldl_limits _ (fun s _ => by (repeat' split) <;> first | rfl | simp) _ _
    | (refine (foldl_limits _ (fun s _ => by (repeat' split) <;> first | rfl | simp) _ _).trans ?_; simp)
    | simp
@[simp] theorem stopTasks_limits (s : State) : (stopTasks s).lim.lim = s.lim.lim := by
  unfold stopTasks
  dsimp only
  (repeat' split) <;> first
    | rfl
    | (simp; done)
    | (refine (foldl_limits _ (fun s _ => by simp) _ _).trans ?_; simp)
@[simp] theorem lateTasks_limits (s : State) : (lateTasks s).lim.lim = s.lim.lim := by
  unfold lateTasks
  repeat' split
  all_goals first
    | rfl
    | exact foldl_limits _ (fun s _ => by (repeat' split) <;> first | rfl | simp) _ _
    | (refine (foldl_limits _ (fun s _ => by (repeat' split) <;> first | rfl | simp) _ _).trans ?_; simp)
    | simp
@[simp] theorem modStn_limits (i : Nat) (f : StationSt → StationSt) (s : State) : (modStn i f s).lim.lim = s.lim.lim
    := by rfl
@[simp] theorem stnJudge_limits (s : State) : (stnJudge s).lim.lim = s.lim.lim := by rfl
@[simp] theorem stnAdmit_limits (s : State) : (stnAdmit s).lim.lim = s.lim.lim := by rfl
@[simp] theorem stnClaim_limits (h : FabHdr) (s : State) : (stnClaim h s).2.lim.lim = s.lim.lim := by
  unfold stnClaim
  dsimp only
  (repeat' split) <;> first | rfl | (simp; done)
@[simp] theorem stnFrame_limits (i : Nat) (q : Nat) (words : List Word) (s : State) : (stnFrame i q words s).lim.lim =
    s.lim.lim := by rfl
@[simp] theorem stnTake_limits (h : FabHdr) (dir n : Nat) (words : List Word) (s : State) : (stnTake h dir n words
    s).lim.lim = s.lim.lim := by
  unfold stnTake
  split
  · split
    · rfl
    · simp
  · split
    · simp
    · split
      · rename_i heq
        have h2 := stnClaim_limits h s
        rw [heq] at h2
        exact h2
      · rename_i heq
        have h2 := stnClaim_limits h s
        rw [heq] at h2
        split
        · rw [stnFrame_limits]
          exact h2
        · exact h2
@[simp] theorem putForce_limits (i : Fin 32) (f : Nat) (x : Force) (s : State) : (putForce i f x s).lim.lim =
    s.lim.lim := by
    unfold putForce; (repeat' split) <;> rfl
@[simp] theorem forceSelWrite_limits (i : Fin 32) (f : Nat) (v : Word) (s : State) : (forceSelWrite i f v s).2.lim.lim
    = s.lim.lim := by
  unfold forceSelWrite
  dsimp only
  (repeat' split) <;> first | rfl | (simp; done)
@[simp] theorem forceValWrite_limits (i : Fin 32) (f : Nat) (v : Word) (s : State) : (forceValWrite i f v s).2.lim.lim
    = s.lim.lim := by
  unfold forceValWrite
  dsimp only
  (repeat' split) <;> first | rfl | (simp; done)
@[simp] theorem stnSend_limits (img : List (Nat × Word)) (i : Nat) (s : State) : (stnSend img i s).lim.lim = s.lim.lim
    := by
    unfold stnSend; dsimp only; (repeat' split) <;> first | rfl | (simp; done)
@[simp] theorem lgStart_limits (s : State) : (lgStart s).lim.lim = s.lim.lim := by rfl
@[simp] theorem lgRun_limits (s : State) : (lgRun s).lim.lim = s.lim.lim := by rfl
@[simp] theorem lgBeat_limits (s : State) : (lgBeat s).lim.lim = s.lim.lim := by rfl
@[simp] theorem lgReplace_limits (s : State) : (lgReplace s).lim.lim = s.lim.lim := by
  unfold lgReplace
  dsimp only
  (repeat' split) <;> first | rfl | (simp; done)
@[simp] theorem varWrite_limits (i : Fin 32) (v : Word) (s : State) : (varWrite i v s).2.lim.lim = s.lim.lim := by
  unfold varWrite
  dsimp only
  (repeat' split) <;> first | rfl | (simp; done)
@[simp] theorem lgClear_limits (s : State) : (lgClear s).lim.lim = s.lim.lim := by rfl
@[simp] theorem lgCtrlWrite_limits (v : Word) (s : State) : (lgCtrlWrite v s).lim.lim = s.lim.lim := by
  unfold lgCtrlWrite
  (repeat' split) <;> rfl
@[simp] theorem lgWrite_limits (i : Fin 32) (o : Nat) (v : Word) (s : State) : (lgWrite i o v s).2.lim.lim = s.lim.lim
    := by
  unfold lgWrite
  split
  · rfl
  · exact lgCtrlWrite_limits ..
  · rfl
  · exact varWrite_limits ..
  · split
    · split
      · exact forceSelWrite_limits ..
      · exact forceValWrite_limits ..
    · rfl

/-! ### States -/

@[simp] theorem respond_limits (r : Rsp) (s : State) : (respond r s).lim.lim = s.lim.lim := by
  unfold respond
  dsimp only
  (repeat' split) <;> first | rfl | (simp; done)
@[simp] theorem answer_limits (i : Fin 32) (r : Rsp) (s : State) : (answer i r s).lim.lim = s.lim.lim := by
  unfold answer
  rw [respond_limits]
  split <;> rfl
@[simp] theorem abortJob_limits (j : Nat) (s : State) : (abortJob j s).lim.lim = s.lim.lim := by
  unfold abortJob
  dsimp only
  (repeat' split) <;> first | rfl | (simp; done)
@[simp] theorem loadEnd_limits (f : Fail) (s : State) : (loadEnd f s).lim.lim = s.lim.lim := by rfl
@[simp] theorem replaceEnd_limits (f : Fail) (s : State) : (replaceEnd f s).lim.lim = s.lim.lim := by rfl
@[simp] theorem loadAbort_limits (i : Fin 32) (s : State) : (loadAbort i s).lim.lim = s.lim.lim := by
  unfold loadAbort
  (repeat' split) <;> rfl
@[simp] theorem replaceStop_limits (s : State) : (replaceStop s).lim.lim = s.lim.lim := by
  unfold replaceStop
  (repeat' split) <;> rfl
@[simp] theorem leaveService_limits (s : State) : (leaveService s).lim.lim = s.lim.lim := by rfl
@[simp] theorem wipeRecords_limits (s : State) : (wipeRecords s).lim.lim = s.lim.lim := by rfl
@[simp] theorem fallBack_limits (reason : Nat) (s : State) : (fallBack reason s).lim.lim = s.lim.lim := by rfl
@[simp] theorem trialStart_limits (s : State) : (trialStart s).lim.lim = s.lim.lim := by
  unfold trialStart
  (repeat' split) <;> rfl
@[simp] theorem allOutputsOff_limits (s : State) : (allOutputsOff s).lim.lim = s.lim.lim := by simp [allOutputsOff]
@[simp] theorem watchBatch_limits (s : State) : (watchBatch s).lim.lim = s.lim.lim := by
  unfold watchBatch
  (repeat' split) <;> rfl
@[simp] theorem armEnum_limits (s : State) : (armEnum s).lim.lim = s.lim.lim := by
  unfold armEnum
  (repeat' split) <;> rfl
@[simp] theorem armStart_limits (s : State) : (armStart s).lim.lim = s.lim.lim := by simp [armStart]
@[simp] theorem enterRun_limits (s : State) : (enterRun s).lim.lim = s.lim.lim := by rfl
@[simp] theorem enterService_limits (i : Fin 32) (s : State) : (enterService i s).lim.lim = s.lim.lim := by rfl

/-! ### Update -/

@[simp] theorem modUpd_limits (f : Upd → Upd) (s : State) : (modUpd f s).lim.lim = s.lim.lim := by rfl
@[simp] theorem modUpSess_limits (i : Fin 32) (f : UpSess → UpSess) (s : State) : (modUpSess i f s).lim.lim =
    s.lim.lim := by
    rfl
@[simp] theorem upResult_limits (i : Fin 32) (code : Nat) (s : State) : (upResult i code s).lim.lim = s.lim.lim := by
    rfl
@[simp] theorem manifestWrite_limits (i : Fin 32) (k : Nat) (s : State) : (manifestWrite i k s).lim.lim = s.lim.lim :=
    by
  unfold manifestWrite
  dsimp only
  (repeat' split) <;> first | rfl | (simp; done)
@[simp] theorem imageWrite_limits (i : Fin 32) (k : Nat) (s : State) : (imageWrite i k s).lim.lim = s.lim.lim := by
  unfold imageWrite
  (repeat' split) <;> rfl
@[simp] theorem judgePiece_limits (i : Fin 32) (k : Nat) (s : State) : (judgePiece i k s).lim.lim = s.lim.lim := by
  unfold judgePiece
  dsimp only
  (repeat' split) <;> first | rfl | (simp; done)
@[simp] theorem confirm_limits (i : Fin 32) (s : State) : (confirm i s).lim.lim = s.lim.lim := by rfl
@[simp] theorem upCmdWrite_limits (i : Fin 32) (v : Word) (s : State) : (upCmdWrite i v s).2.lim.lim = s.lim.lim := by
  unfold upCmdWrite
  split
  · rfl
  · split
    · split
      · rfl
      · exact manifestWrite_limits ..
    · split
      · rfl
      · exact imageWrite_limits ..
    · split
      · exact confirm_limits ..
      · rfl
    · rfl
@[simp] theorem discardStart_limits (i : Fin 32) (j : Nat) (s : State) : (discardStart i j s).lim.lim = s.lim.lim :=
    by
  unfold discardStart
  (repeat' split) <;> rfl
@[simp] theorem discardDone_limits (s : State) : (discardDone s).lim.lim = s.lim.lim := by
  unfold discardDone
  (repeat' split) <;> rfl
@[simp] theorem activateStart_limits (i : Fin 32) (j : Nat) (s : State) : (activateStart i j s).lim.lim = s.lim.lim :=
    by
  unfold activateStart
  (repeat' split) <;> rfl
@[simp] theorem updateWrite_limits (i : Fin 32) (o : Nat) (v : Word) (s : State) : (updateWrite i o v s).2.lim.lim =
    s.lim.lim := by
  unfold updateWrite
  split
  · exact modUpd_limits ..
  · exact upCmdWrite_limits ..
  · split
    · exact modUpd_limits ..
    · rfl
  · split
    · exact modUpd_limits ..
    · rfl
  · split
    · split
      · rfl
      · exact modUpSess_limits ..
    · rfl

/-! ### Watch -/

@[simp] theorem watchFrame_limits (claim l : Nat) (d : End) (c : Nat) (s : State) : (watchFrame claim l d c s).lim.lim
    = s.lim.lim := by rfl
@[simp] theorem watchFrames_limits (r : WatchRun) (c : Nat) (s : State) : (watchFrames r c s).lim.lim = s.lim.lim :=
    by
  unfold watchFrames
  split
  · refine foldl_limits _ (fun s l => ?_) _ _
    split
    · exact watchFrame_limits ..
    · rfl
  · rfl
@[simp] theorem setWatch_limits (r : WatchRun) (s : State) : (setWatch r s).lim.lim = s.lim.lim := by rfl
@[simp] theorem watchEnd_limits (r : WatchRun) (sec : Nat) (s : State) : (watchEnd r sec s).lim.lim = s.lim.lim := by
    rfl

/-! ### Power -/

@[simp] theorem modPw_limits (f : Pw → Pw) (s : State) : (modPw f s).lim.lim = s.lim.lim := by rfl
@[simp] theorem setVsup_limits (mv : Nat) (s : State) : (setVsup mv s).lim.lim = s.lim.lim := by simp [setVsup]
@[simp] theorem powerFailRecords_limits (mv : Nat) (s : State) : (powerFailRecords mv s).lim.lim = s.lim.lim := by
    simp [powerFailRecords]

/-! ### Loader -/

@[simp] theorem modLdr_limits (f : Ldr → Ldr) (s : State) : (modLdr f s).lim.lim = s.lim.lim := by rfl
@[simp] theorem loadWord_limits (v : Word) (s : State) : (loadWord v s).lim.lim = s.lim.lim := by
  unfold loadWord
  dsimp only
  (repeat' split) <;> first | rfl | (simp; done)
@[simp] theorem loadStart_limits (i : Fin 32) (v : Word) (s : State) : (loadStart i v s).lim.lim = s.lim.lim := by rfl
@[simp] theorem replaceWord_limits (v : Word) (w : List Word) (s : State) : (replaceWord v w s).lim.lim = s.lim.lim :=
    by
  unfold replaceWord
  dsimp only
  (repeat' split) <;> first | rfl | (simp; done)
@[simp] theorem ldDataWrite_limits (i : Fin 32) (v : Word) (s : State) : (ldDataWrite i v s).2.lim.lim = s.lim.lim :=
    by
  unfold ldDataWrite
  split
  · split
    · rfl
    · exact loadStart_limits ..
  · split
    · exact loadWord_limits ..
    · rfl
  · split
    · split
      · exact replaceWord_limits ..
      · rfl
    · rfl
  · rfl
@[simp] theorem replaceStart_limits (i : Fin 32) (s : State) : (replaceStart i s).2.lim.lim = s.lim.lim := by
  unfold replaceStart
  (repeat' split) <;> rfl
@[simp] theorem ldCtrlWrite_limits (i : Fin 32) (v : Word) (s : State) : (ldCtrlWrite i v s).2.lim.lim = s.lim.lim :=
    by
  unfold ldCtrlWrite
  dsimp only
  (repeat' split) <;> first | rfl | (simp; done)
@[simp] theorem loadedStart_limits (c : Calibre) (s : State) : (loadedStart c s).lim.lim = s.lim.lim := by rfl
@[simp] theorem replaceTake_limits (p : List Byte) (s : State) : (replaceTake p s).lim.lim = s.lim.lim := by simp
    [replaceTake]
@[simp] theorem goWrite_limits (i : Fin 32) (n : Nat) (s : State) : (goWrite i n s).lim.lim = s.lim.lim := by rfl
@[simp] theorem cancelBatch_limits (s : State) : (cancelBatch s).lim.lim = s.lim.lim := by
  unfold cancelBatch
  (repeat' split) <;> rfl
@[simp] theorem onCtrlWrite_limits (i : Fin 32) (v : Word) (s : State) : (onCtrlWrite i v s).lim.lim = s.lim.lim := by
  unfold onCtrlWrite
  dsimp only
  (repeat' split) <;> first | rfl | (simp; done)
@[simp] theorem batchSide_limits (old : State) (s : State) : (batchSide old s).lim.lim = s.lim.lim := by
  unfold batchSide
  (repeat' split) <;> rfl
@[simp] theorem loaderWrite_limits (i : Fin 32) (o : Nat) (v : Word) (s : State) : (loaderWrite i o v s).2.lim.lim =
    s.lim.lim := by
  unfold loaderWrite
  split
  · rfl
  · exact ldCtrlWrite_limits ..
  · exact ldDataWrite_limits ..
  · rfl
  · exact onCtrlWrite_limits ..
  · split <;> rfl

/-! ### Judge -/

@[simp] theorem idleBeat_limits (s : State) : (idleBeat s).lim.lim = s.lim.lim := by rfl
@[simp] theorem streamBeat_limits (s : State) : (streamBeat s).lim.lim = s.lim.lim := by rfl
@[simp] theorem setCmdStatus_limits (i : Fin 32) (code : Nat) (r : RspCode) (s : State) : (setCmdStatus i code r
    s).lim.lim = s.lim.lim := by
  unfold setCmdStatus
  (repeat' split) <;> rfl
@[simp] theorem passSingles_limits (s : State) : (passSingles s).lim.lim = s.lim.lim := by
  unfold passSingles
  refine foldl_limits _ (fun s l => ?_) _ _
  split
  · exact linePass_limits ..
  · rfl
@[simp] theorem armFail_limits (n : Nat) (s : State) : (armFail n s).lim.lim = s.lim.lim := by rfl
@[simp] theorem armDone_limits (c : Calibre) (s : State) : (armDone c s).lim.lim = s.lim.lim := by simp [armDone]

/-! ### Regs -/

@[simp] theorem modSub_limits (j : Nat) (f : Sub → Sub) (s : State) : (modSub j f s).lim.lim = s.lim.lim := by rfl
@[simp] theorem sessionsWrite_limits (o : Nat) (v : Word) (s : State) : (sessionsWrite o v s).2.lim.lim = s.lim.lim :=
    by
  unfold sessionsWrite
  (repeat' split) <;> rfl
@[simp] theorem jobStartKind_limits (i : Fin 32) (j : Fin 8) (kind : Nat) (s : State) : (jobStartKind i j kind
    s).2.lim.lim = s.lim.lim := by
  unfold jobStartKind
  split
  · exact contactorStart_limits ..
  · exact contactorStart_limits ..
  · exact clearStart_limits ..
  · split
    · exact discardStart_limits ..
    · rfl
  · split
    · exact activateStart_limits ..
    · rfl
  · exact jobRefuse_limits ..
@[simp] theorem jobStartWrite_limits (i : Fin 32) (j : Fin 8) (kind : Nat) (s : State) : (jobStartWrite i j kind
    s).2.lim.lim = s.lim.lim := by
  unfold jobStartWrite
  split
  · exact jobStartKind_limits ..
  · rfl
@[simp] theorem jobCtrlWrite_limits (i : Fin 32) (j : Fin 8) (v : Word) (s : State) : (jobCtrlWrite i j v s).2.lim.lim
    = s.lim.lim := by
  unfold jobCtrlWrite
  dsimp only
  (repeat' split) <;> first | rfl | (simp; done)
@[simp] theorem jobsWrite_limits (i : Fin 32) (o : Nat) (v : Word) (s : State) : (jobsWrite i o v s).2.lim.lim =
    s.lim.lim := by
  unfold jobsWrite
  split
  · dsimp only
    split
    · exact jobCtrlWrite_limits ..
    · exact jobArgWrite_limits ..
    · rfl
  · rfl
@[simp] theorem fabricWrite_limits (o : Nat) (v : Word) (s : State) : (fabricWrite o v s).2.lim.lim = s.lim.lim := by
  unfold fabricWrite
  split
  · rfl
  · exact pairCtrlWrite_limits ..
  · rfl
  · rfl
@[simp] theorem setQueue_limits (q : QueueId) (x : Queue) (s : State) : (setQueue q x s).lim.lim = s.lim.lim := by
  unfold setQueue
  repeat' split
  all_goals first
    | rfl
    | exact foldl_limits _ (fun s _ => by (repeat' split) <;> first | rfl | simp) _ _
    | (refine (foldl_limits _ (fun s _ => by (repeat' split) <;> first | rfl | simp) _ _).trans ?_; simp)
    | simp
@[simp] theorem headRead_limits (i : Fin 32) (q : QueueId) (s : State) : (headRead i q s).2.2.lim.lim = s.lim.lim :=
    by
  unfold headRead
  dsimp only
  (repeat' split) <;> first | rfl | (simp; done)
@[simp] theorem takeLatch_limits (i : Fin 32) (a : Nat) (s : State) : (takeLatch i a s).lim.lim = s.lim.lim := by
  unfold takeLatch
  dsimp only
  (repeat' split) <;> first | rfl | (simp; done)
@[simp] theorem readWord_limits (i : Fin 32) (a : Nat) (s : State) : (readWord i a s).2.2.lim.lim = s.lim.lim := by
  unfold readWord
  split
  · rfl
  · split
    · rfl
    · split
      · exact headRead_limits ..
      · exact takeLatch_limits ..
@[simp] theorem stateCmdWrite_limits (i : Fin 32) (req : Option (Req × Nat × Nat)) (v : Word) (s : State) :
    (stateCmdWrite i req v s).2.lim.lim = s.lim.lim := by
  unfold stateCmdWrite
  dsimp only
  (repeat' split) <;> first | rfl | (simp; done)

/-! ### Publish -/

@[simp] theorem publishOne_limits (b : Sub) (s : State) : (publishOne b s).lim.lim = s.lim.lim := by simp [publishOne]

/-! ### Host -/

@[simp] theorem access_limits (i : Fin 32) (op a : Nat) (f : State → State) (s : State) (hf : ∀ s, (f s).lim.lim =
    s.lim.lim) : (access i op a f s).lim.lim = s.lim.lim := by
  unfold access; (repeat' split) <;> simp [hf]
@[simp] theorem hostRead_limits (i : Fin 32) (a : Nat) (s : State) : (hostRead i a s).lim.lim = s.lim.lim := by
  unfold hostRead
  refine access_limits _ _ _ _ _ (fun s => ?_)
  have h := readWord_limits i a s
  dsimp only
  rw [respond_limits]
  exact h
@[simp] theorem heard_limits (r : Req) (s : State) : (heard r s).2.lim.lim = s.lim.lim := by
  unfold heard
  repeat' split
  all_goals first
    | rfl
    | exact foldl_limits _ (fun s _ => by (repeat' split) <;> first | rfl | simp) _ _
    | (refine (foldl_limits _ (fun s _ => by (repeat' split) <;> first | rfl | simp) _ _).trans ?_; simp)
    | simp
@[simp] theorem serve_limits (r : Req) (op addr : Nat) (f : Fin 32 → State → State) (s : State) (hf : ∀ i s, (f i
    s).lim.lim = s.lim.lim) : (serve r op addr f s).lim.lim = s.lim.lim := by
  unfold serve
  (repeat' split) <;> first | rfl | (simp [hf]; done) | (dsimp only; (repeat' split) <;> simp [hf])
@[simp] theorem request_limits (r : Req) (op addr : Nat) (f : Fin 32 → State → State) (s : State) (hf : ∀ i s, (f i
    s).lim.lim = s.lim.lim) : (request r op addr f s).lim.lim = s.lim.lim := by
  unfold request; split
  · split
    · rename_i s' heq; have h2 := heard_limits r s; rw [heq] at h2; simpa [hf] using h2
    · rename_i s' heq; have h2 := heard_limits r s; rw [heq] at h2; simpa using h2
  · rfl
@[simp] theorem readAll_limits (i : Fin 32) (step : Nat) (a0 : Nat) (a1 : Nat) (w2 : State) : (readAll i step a0 a1
    w2).2.2.2.lim.lim = w2.lim.lim := by
  induction a0 generalizing a1 w2 with
  | zero => rfl
  | succ n ih =>
    have h := readWord_limits i a1 w2
    unfold readAll
    dsimp only
    split
    · exact (ih ..).trans h
    · exact h
@[simp] theorem readReq_limits (r : Req) (op count step addr : Nat) (i : Fin 32) (s : State) :
    (readReq r op count step addr i
    s).lim.lim = s.lim.lim := by
  unfold readReq
  split
  · dsimp only
    rw [answer_limits]
    exact readAll_limits ..
  · exact answer_limits ..
@[simp] theorem dropReq_limits (i : Fin 32) (s : State) : (dropReq i s).lim.lim = s.lim.lim := by rfl
@[simp] theorem openReq_limits (r : Req) (word : Word) (s : State) : (openReq r word s).lim.lim = s.lim.lim := by
  unfold openReq
  dsimp only
  (repeat' split) <;> first | rfl | (simp; done)

/-! ### Operations that may set every limit to zero -/

/-- An overrun leaves the published limits alone, or zeroes them all as LOOP_HOLD sets (02 R43). -/
theorem overrun_limits_or (e : Nat) (item : Option Nat) (s : State) :
    (overrun e item s).lim.lim = s.lim.lim ∨ (overrun e item s).lim.lim = Vector.replicate 8 0 := by
  unfold overrun
  dsimp only
  split
  · exact .inr rfl
  · exact .inl rfl

/-- So does the stop of an item (02 R40, R43). -/
theorem stopItem_limits_or (k cycles : Nat) (s : State) :
    (stopItem k cycles s).lim.lim = s.lim.lim ∨ (stopItem k cycles s).lim.lim = Vector.replicate 8 0 := by
  unfold stopItem
  split
  · exact .inl rfl
  · split
    · exact overrun_limits_or ..
    · exact .inl rfl

/-- So does the end of a beat with items still released (02 R38, R40). -/
theorem stopReleased_limits_or (s : State) :
    (stopReleased s).lim.lim = s.lim.lim ∨ (stopReleased s).lim.lim = Vector.replicate 8 0 := by
  unfold stopReleased
  generalize s.time.engines.toList.flatMap (·.released) = l
  induction l generalizing s with
  | nil => exact .inl rfl
  | cons x r ih =>
    rw [List.foldl_cons]
    have h : (stopLate s x).lim.lim = s.lim.lim ∨ (stopLate s x).lim.lim = Vector.replicate 8 0 := by
      unfold stopLate; exact stopItem_limits_or ..
    rcases ih (stopLate s x) with i | i
    · rw [i]; exact h
    · exact .inr i

end Sys2Proof.Machine
end

