-- ==== Sys2Proof/Laws/FrameSafety.lean ====
section
/-! SUPPORT. One lemma per operation of the machine about the safety functions (10), where an operation leaves them alone. -/

namespace Sys2Proof.Machine

/-! ### Ops -/

@[simp] theorem markTick_saf (s : State) : (markTick s).saf = s.saf := by rfl
@[simp] theorem setAgain_saf (a bits : Nat) (s : State) : (setAgain a bits s).saf = s.saf := by rfl
@[simp] theorem setAgainIf_saf (c : Bool) (a bits : Nat) (s : State) : (setAgainIf c a bits s).saf = s.saf := by
  unfold setAgainIf
  (repeat' split) <;> rfl
@[simp] theorem fresh_saf (s : State) : (fresh s).saf = s.saf := by rfl
@[simp] theorem put_saf (e : Emit) (s : State) : (put e s).saf = s.saf := by rfl
@[simp] theorem emitFab_saf (mac : Option Nat) (kind dst seq beat : Nat) (stamp : Option Nat) (ports : Nat) (payload :
    List Byte) (s : State) : (emitFab mac kind dst seq beat stamp ports payload s).saf = s.saf := by
  unfold emitFab
  (repeat' split) <;> rfl
@[simp] theorem sendFab_saf (mac : Option Nat) (kind dst beat : Nat) (stamp : Option Nat) (ports : Nat) (payload :
    List Byte) (s : State) : (sendFab mac kind dst beat stamp ports payload s).saf = s.saf := by simp [sendFab]
@[simp] theorem tookFree_saf (k : Nat) (s : State) : (tookFree k s).saf = s.saf := by rfl
@[simp] theorem takeTurn_saf (x : Turn) (s : State) : (takeTurn x s).saf = s.saf := by rfl
@[simp] theorem atTick_saf (t : Nat) (s : State) : (atTick t s).saf = s.saf := by rfl
@[simp] theorem actAt_saf (x : Turn) (t : Nat) (s : State) : (actAt x t s).saf = s.saf := by rfl
@[simp] theorem atNs_saf (ns : Nat) (s : State) : (atNs ns s).saf = s.saf := by rfl
@[simp] theorem recEvent_saf (code chan : Nat) (p : List Word) (s : State) : (recEvent code chan p s).saf = s.saf :=
    by rfl
@[simp] theorem jnl_saf (code session : Nat) (payload : List Word) (s : State) : (jnl code session payload s).saf =
    s.saf := by rfl
@[simp] theorem toMode_saf (m : Mode) (tno : Nat) (s : State) : (toMode m tno s).saf = s.saf := by rfl

/-! ### Queues -/

@[simp] theorem modQueue_saf (q : Nat) (f : Queue → Queue) (s : State) : (modQueue q f s).saf = s.saf := by rfl
@[simp] theorem offerContent_saf (content : Nat) (words : List Word) (s : State) : (offerContent content words s).saf
    = s.saf := by
  unfold offerContent
  repeat' split
  all_goals first
    | rfl
    | exact foldl_saf _ (fun s _ => by (repeat' split) <;> first | rfl | simp) _ _
    | (refine (foldl_saf _ (fun s _ => by (repeat' split) <;> first | rfl | simp) _ _).trans ?_; simp)
    | simp
@[simp] theorem queueCtrl_saf (i : Fin 32) (q : Nat) (v : Word) (s : State) : (queueCtrl i q v s).2.saf = s.saf := by
  unfold queueCtrl
  repeat' split
  all_goals first
    | rfl
    | exact foldl_saf _ (fun s _ => by (repeat' split) <;> first | rfl | simp) _ _
    | (refine (foldl_saf _ (fun s _ => by (repeat' split) <;> first | rfl | simp) _ _).trans ?_; simp)
    | simp
@[simp] theorem queuesWrite_saf (i : Fin 32) (o : Nat) (v : Word) (s : State) : (queuesWrite i o v s).2.saf = s.saf :=
    by
  unfold queuesWrite
  repeat' split
  all_goals first | rfl | simp
@[simp] theorem releaseClaims_saf (i : Fin 32) (s : State) : (releaseClaims i s).saf = s.saf := by rfl

/-! ### Jobs -/

@[simp] theorem modJob_saf (j : Nat) (f : Job → Job) (s : State) : (modJob j f s).saf = s.saf := by rfl
@[simp] theorem jobStart_saf (i : Fin 32) (j kind : Nat) (s : State) : (jobStart i j kind s).saf = s.saf := by rfl
@[simp] theorem jobEnd_saf (j : Nat) (st : JobSt) (detail : Nat) (s : State) : (jobEnd j st detail s).saf = s.saf :=
    by rfl
@[simp] theorem jobRefuse_saf (i : Fin 32) (j kind detail : Nat) (s : State) : (jobRefuse i j kind detail s).saf =
    s.saf := by rfl
@[simp] theorem jobCommitted_saf (j : Nat) (s : State) : (jobCommitted j s).saf = s.saf := by rfl
@[simp] theorem jobClearWrite_saf (j : Nat) (s : State) : (jobClearWrite j s).2.saf = s.saf := by
  unfold jobClearWrite
  (repeat' split) <;> rfl
@[simp] theorem jobArgWrite_saf (j : Nat) (v : Word) (s : State) : (jobArgWrite j v s).2.saf = s.saf := by
  unfold jobArgWrite
  (repeat' split) <;> rfl

/-! ### Records -/

@[simp] theorem bumpNonce_saf (s : State) : (bumpNonce s).saf = s.saf := by rfl
@[simp] theorem storeRec_saf (e : RecEvent) (s : State) : (storeRec e s).saf = s.saf := by
  unfold storeRec
  dsimp only
  (repeat' split) <;> first | rfl | (simp; done)
@[simp] theorem formRec_saf (e : RecEvent) (s : State) : (formRec e s).saf = s.saf := by
  unfold formRec
  dsimp only
  (repeat' split) <;> first | rfl | (simp; done)
@[simp] theorem storeJnl_saf (w : List Word) (s : State) : (storeJnl w s).saf = s.saf := by
  unfold storeJnl
  (repeat' split) <;> rfl
@[simp] theorem formJnl_saf (e : JnlEvent) (s : State) : (formJnl e s).saf = s.saf := by
  unfold formJnl
  dsimp only
  (repeat' split) <;> first | rfl | (simp; done)
@[simp] theorem flushHeld_saf (s : State) : (flushHeld s).saf = s.saf := by
  unfold flushHeld
  dsimp only
  refine (foldl_saf _ (fun s _ => by simp) _ _).trans ?_
  exact (foldl_saf _ (fun s _ => by simp) _ _).trans rfl
@[simp] theorem freezeEnd_saf (s : State) : (freezeEnd s).saf = s.saf := by
  unfold freezeEnd
  dsimp only
  (repeat' split) <;> first | rfl | (simp; done)
@[simp] theorem freezeStart_saf (i : Fin 32) (s : State) : (freezeStart i s).2.saf = s.saf := by
  unfold freezeStart
  (repeat' split) <;> rfl
@[simp] theorem rcCtrlWrite_saf (i : Fin 32) (v : Word) (s : State) : (rcCtrlWrite i v s).2.saf = s.saf := by
  unfold rcCtrlWrite
  dsimp only
  (repeat' split) <;> first | rfl | (simp; done)
@[simp] theorem setCrown_saf (i : Fin 32) (released : Bool) (signer : Nat) (s : State) : (setCrown i released signer
    s).saf = s.saf := by
  unfold setCrown
  (repeat' split) <;> rfl
@[simp] theorem crownWrite_saf (i : Fin 32) (v : Word) (s : State) : (crownWrite i v s).2.saf = s.saf := by
  unfold crownWrite
  dsimp only
  (repeat' split) <;> first | rfl | (simp; done)
@[simp] theorem clearStart_saf (i : Fin 32) (j : Fin 8) (s : State) : (clearStart i j s).saf = s.saf := by
  unfold clearStart
  dsimp only
  (repeat' split) <;> first | rfl | (simp; done)
@[simp] theorem clearRecorder_saf (slot : Nat) (s : State) : (clearRecorder slot s).saf = s.saf := by rfl
@[simp] theorem clearJournal_saf (session slot : Nat) (s : State) : (clearJournal session slot s).saf = s.saf := by
    simp [clearJournal]
@[simp] theorem clearDone_saf (s : State) : (clearDone s).saf = s.saf := by
  unfold clearDone
  dsimp only
  (repeat' split) <;> first | rfl | (simp; done)
@[simp] theorem recordsWrite_saf (i : Fin 32) (o : Nat) (v : Word) (s : State) : (recordsWrite i o v s).2.saf = s.saf
    := by
    unfold recordsWrite; dsimp only; (repeat' split) <;> first | rfl | (simp; done)

/-! ### Timing -/

@[simp] theorem modEngine_saf (e : Nat) (f : Engine → Engine) (s : State) : (modEngine e f s).saf = s.saf := by rfl
@[simp] theorem releaseItem_saf (k : Nat) (s : State) : (releaseItem k s).saf = s.saf := by
  unfold releaseItem
  (repeat' split) <;> rfl
@[simp] theorem overrun_saf (e : Nat) (item : Option Nat) (s : State) : (overrun e item s).saf = s.saf := by
  unfold overrun
  dsimp only
  (repeat' split) <;> first | rfl | (simp; done)
@[simp] theorem stopItem_saf (k cycles : Nat) (s : State) : (stopItem k cycles s).saf = s.saf := by
  unfold stopItem
  repeat' split
  all_goals first
    | rfl
    | exact foldl_saf _ (fun s _ => by (repeat' split) <;> first | rfl | simp) _ _
    | (refine (foldl_saf _ (fun s _ => by (repeat' split) <;> first | rfl | simp) _ _).trans ?_; simp)
    | simp
@[simp] theorem stopLate_saf (s : State) (x : Nat × Nat) : (stopLate s x).saf = s.saf := by simp [stopLate]
@[simp] theorem stopReleased_saf (s : State) : (stopReleased s).saf = s.saf := by
  unfold stopReleased
  repeat' split
  all_goals first
    | rfl
    | exact foldl_saf _ (fun s _ => by (repeat' split) <;> first | rfl | simp) _ _
    | (refine (foldl_saf _ (fun s _ => by (repeat' split) <;> first | rfl | simp) _ _).trans ?_; simp)
    | simp
@[simp] theorem escapementBeat_saf (s : State) : (escapementBeat s).saf = s.saf := by
  unfold escapementBeat
  (repeat' split) <;> rfl
@[simp] theorem releaseAtZero_saf (s : State) : (releaseAtZero s).saf = s.saf := by
  unfold releaseAtZero
  repeat' split
  all_goals first
    | rfl
    | exact foldl_saf _ (fun s _ => by (repeat' split) <;> first | rfl | simp) _ _
    | (refine (foldl_saf _ (fun s _ => by (repeat' split) <;> first | rfl | simp) _ _).trans ?_; simp)
    | simp
@[simp] theorem modDom_saf (d : Fin 2) (f : Dom → Dom) (s : State) : (modDom d f s).saf = s.saf := by rfl
@[simp] theorem judgeSync_saf (s : State) : (judgeSync s).saf = s.saf := by rfl
@[simp] theorem nodesShift_saf (d : Int) (s : State) : (nodesShift d s).saf = s.saf := by rfl
@[simp] theorem rebeat_saf (b b' : Nat) (s : State) : (rebeat b b' s).saf = s.saf := by rfl
@[simp] theorem stepClock_saf (offset : Int) (s : State) : (stepClock offset s).saf = s.saf := by rfl
@[simp] theorem correct_saf (s : State) : (correct s).saf = s.saf := by
  unfold correct
  dsimp only
  (repeat' split) <;> first | rfl | (simp; done)
@[simp] theorem syncMeasured_saf (d : Fin 2) (off : Int) (gm : Nat) (s : State) : (syncMeasured d off gm s).saf =
    s.saf := by rfl
@[simp] theorem selectGm_saf (d : Fin 2) (s : State) : (selectGm d s).saf = s.saf := by rfl
@[simp] theorem endSwitch_saf (s : State) : (endSwitch s).saf = s.saf := by rfl
@[simp] theorem steerTo_saf (d : Fin 2) (s : State) : (steerTo d s).saf = s.saf := by simp [steerTo]
@[simp] theorem fireTrig_saf (k : Fin 4) (s : State) : (fireTrig k s).saf = s.saf := by rfl
@[simp] theorem trigWrite_saf (k : Fin 4) (w : Nat) (v : Word) (s : State) : (trigWrite k w v s).2.saf = s.saf := by
  unfold trigWrite
  dsimp only
  (repeat' split) <;> first | rfl | (simp; done)
@[simp] theorem modTsq_saf (p : Fin 3) (f : Tsq → Tsq) (s : State) : (modTsq p f s).saf = s.saf := by rfl
@[simp] theorem probeWrite_saf (v : Word) (s : State) : (probeWrite v s).saf = s.saf := by
  unfold probeWrite
  repeat' split
  all_goals first
    | rfl
    | exact foldl_saf _ (fun s _ => by (repeat' split) <;> first | rfl | simp) _ _
    | (refine (foldl_saf _ (fun s _ => by (repeat' split) <;> first | rfl | simp) _ _).trans ?_; simp)
    | simp
@[simp] theorem timeCtrlWrite_saf (v : Word) (s : State) : (timeCtrlWrite v s).2.saf = s.saf := by
  unfold timeCtrlWrite
  dsimp only
  (repeat' split) <;> first | rfl | (simp; done)
@[simp] theorem timeWrite_saf (o : Nat) (v : Word) (s : State) : (timeWrite o v s).2.saf = s.saf := by
  unfold timeWrite
  dsimp only
  (repeat' split) <;> first | rfl | (simp; done)

/-! ### Nodes -/

@[simp] theorem modNode_saf (line hop : Nat) (f : NodeS → NodeS) (s : State) : (modNode line hop f s).saf = s.saf :=
    by rfl
@[simp] theorem applyReached_saf (line : Nat) (d : End) (f : NodeS → NodeS) (s : State) : (applyReached line d f
    s).saf = s.saf := by rfl
@[simp] theorem nodeCommand_saf (line : Nat) (d : End) (addr claim : Nat) (c : NodeCmd) (s : State) : (nodeCommand
    line d addr claim c s).saf = s.saf := by rfl
@[simp] theorem nodeBroadcast_saf (line : Nat) (d : End) (claim : Nat) (c : NodeCmd) (s : State) : (nodeBroadcast line
    d claim c s).saf = s.saf := by rfl
@[simp] theorem nodesAssign_saf (line : Nat) (d : End) (claim addr : Nat) (s : State) : (nodesAssign line d claim addr
    s).saf = s.saf := by
  unfold nodesAssign
  (repeat' split) <;> rfl
@[simp] theorem nodesReassign_saf (line : Nat) (d : End) (claim addr uid : Nat) (s : State) : (nodesReassign line d
    claim addr uid s).saf = s.saf := by rfl
@[simp] theorem afterSpan_saf (line hop : Nat) (mark : NodeS → Int) (span : Nat) (f : NodeS → NodeS) (s : State) :
    (afterSpan line hop mark span f s).saf = s.saf := by
  unfold afterSpan
  (repeat' split) <;> rfl

/-! ### Chain -/

@[simp] theorem modLine_saf (l : Nat) (f : Line → Line) (s : State) : (modLine l f s).saf = s.saf := by rfl
@[simp] theorem modRec_saf (a : Nat) (f : NodeM → NodeM) (s : State) : (modRec a f s).saf = s.saf := by rfl
@[simp] theorem sendChain_saf (l : Nat) (d : End) (typ addr seq : Nat) (payload : List Byte) (s : State) : (sendChain
    l d typ addr seq payload s).saf = s.saf := by rfl
@[simp] theorem sendCmd_saf (l : Nat) (d : End) (addr op : Nat) (args : List Nat) (s : State) : (sendCmd l d addr op
    args s).saf = s.saf := by
    rfl
@[simp] theorem putReply_saf (op seq rslot claim : Nat) (c : NodeCmd) (n : Option NodeS) (s : State) : (putReply op
    seq rslot claim c n s).saf = s.saf := by
  unfold putReply
  (repeat' split) <;> rfl
@[simp] theorem command_saf (addr op : Nat) (args : List Nat) (c : NodeCmd) (s : State) : (command addr op args c
    s).saf = s.saf := by simp [command]
@[simp] theorem broadcast_saf (l : Nat) (d : End) (op : Nat) (args : List Nat) (c : NodeCmd) (s : State) : (broadcast
    l d op args c s).saf = s.saf := by rfl
@[simp] theorem enumFail_saf (l err : Nat) (d : End) (hop detail : Nat) (s : State) : (enumFail l err d hop detail
    s).saf = s.saf := by
  unfold enumFail
  dsimp only
  (repeat' split) <;> first | rfl | (simp; done)
@[simp] theorem sleepLine_saf (l : Nat) (s : State) : (sleepLine l s).saf = s.saf := by rfl
@[simp] theorem sleepAll_saf (s : State) : (sleepAll s).saf = s.saf := by
  unfold sleepAll
  repeat' split
  all_goals first
    | rfl
    | exact foldl_saf _ (fun s _ => by (repeat' split) <;> first | rfl | simp) _ _
    | (refine (foldl_saf _ (fun s _ => by (repeat' split) <;> first | rfl | simp) _ _).trans ?_; simp)
    | simp
@[simp] theorem sendProbe_saf (l : Nat) (d : End) (a : Nat) (s : State) : (sendProbe l d a s).saf = s.saf := by
  unfold sendProbe
  dsimp only
  (repeat' split) <;> first | rfl | (simp; done)
@[simp] theorem probeLine_saf (l : Nat) (s : State) : (probeLine l s).saf = s.saf := by
  unfold probeLine
  dsimp only
  (repeat' split) <;> first | rfl | (simp; done)
@[simp] theorem sendDelays_saf (a : Nat) (d : End) (v : Nat) (s : State) : (sendDelays a d v s).saf = s.saf := by
  unfold sendDelays
  (repeat' split) <;> rfl
@[simp] theorem closeSet_saf (a : Nat) (d : End) (s : State) : (closeSet a d s).saf = s.saf := by
  unfold closeSet
  dsimp only
  (repeat' split) <;> first | rfl | (simp; done)
@[simp] theorem probeLost_saf (l : Nat) (s : State) : (probeLost l s).saf = s.saf := by
  unfold probeLost
  dsimp only
  (repeat' split) <;> first | rfl | (simp; done)
@[simp] theorem inbound_saf (h : ChainHdr) (whole : Bool) (s : State) : (inbound h whole s).saf = s.saf := by
  unfold inbound
  (repeat' split) <;> rfl
@[simp] theorem forwardPair_saf (sub a seq : Nat) (body : List Byte) (s : State) : (forwardPair sub a seq body s).saf
    = s.saf := by
  unfold forwardPair
  repeat' split
  all_goals first | rfl | simp
@[simp] theorem takeResult_saf (a : Nat) (b : ResultBody) (s : State) : (takeResult a b s).saf = s.saf := by
  unfold takeResult
  (repeat' split) <;> rfl
@[simp] theorem takeAux_saf (a : Nat) (b : AuxBody) (s : State) : (takeAux a b s).saf = s.saf := by
  unfold takeAux
  (repeat' split) <;> rfl
@[simp] theorem checkId_saf (a : Nat) (s : State) : (checkId a s).saf = s.saf := by
  unfold checkId
  dsimp only
  (repeat' split) <;> first | rfl | (simp; done)
@[simp] theorem checkSense_saf (a : Nat) (s : State) : (checkSense a s).saf = s.saf := by
  unfold checkSense
  dsimp only
  (repeat' split) <;> first | rfl | (simp; done)
@[simp] theorem keepIdent_saf (a uid nodeType proto caps : Nat) (lockin : Bool) (s : State) : (keepIdent a uid
    nodeType proto caps lockin s).saf = s.saf := by rfl
@[simp] theorem replyOk_saf (c : CmdOut) (a : Nat) (d : ReplyData) (s : State) : (replyOk c a d s).saf = s.saf := by
  unfold replyOk
  dsimp only
  (repeat' split) <;> first | rfl | (simp; done)
@[simp] theorem markDone_saf (c : CmdOut) (s : State) : (markDone c s).saf = s.saf := by rfl
@[simp] theorem takeReply_saf (h : ChainHdr) (op status : Nat) (d : ReplyData) (s : State) : (takeReply h op status d
    s).saf = s.saf := by
  unfold takeReply
  dsimp only
  (repeat' split) <;> first | rfl | (simp; done)
@[simp] theorem rejoin_saf (a : Nat) (s : State) : (rejoin a s).saf = s.saf := by rfl
@[simp] theorem unknownSeen_saf (h : ChainHdr) (uid : Nat) (s : State) : (unknownSeen h uid s).saf = s.saf := by rfl
@[simp] theorem linePass_saf (l : Nat) (s : State) : (linePass l s).saf = s.saf := by
  unfold linePass
  exact foldl_saf _ (fun s _ => by (repeat' split) <;> first | rfl | simp) _ _
@[simp] theorem setHolder_saf (b : Bool) (s : State) : (setHolder b s).saf = s.saf := by rfl
@[simp] theorem takeOver_saf (s : State) : (takeOver s).saf = s.saf := by
  unfold takeOver
  (repeat' split) <;> rfl
@[simp] theorem loseHold_saf (s : State) : (loseHold s).saf = s.saf := by
  unfold loseHold
  (repeat' split) <;> rfl
@[simp] theorem passEnum_saf (l : Nat) (seen : Option Nat) (s : State) : (passEnum l seen s).saf = s.saf := by
  unfold passEnum
  dsimp only
  (repeat' split) <;> first | rfl | (simp; done)
@[simp] theorem judgeAbsent_saf (s : State) : (judgeAbsent s).saf = s.saf := by
  unfold judgeAbsent
  dsimp only
  refine (foldl_saf _ ?_ _ _).trans ?_
  · intro s x; (repeat' split) <;> first | rfl | (simp; done)
  · refine (foldl_saf _ ?_ _ _).trans rfl; intro s x; (repeat' split) <;> first | rfl | (simp; done)
@[simp] theorem chainBeat_saf (s : State) : (chainBeat s).saf = s.saf := by
  unfold chainBeat
  repeat' split
  all_goals first
    | rfl
    | exact foldl_saf _ (fun s _ => by (repeat' split) <;> first | rfl | simp) _ _
    | (refine (foldl_saf _ (fun s _ => by (repeat' split) <;> first | rfl | simp) _ _).trans ?_; simp)
    | simp
@[simp] theorem enumStart_saf (s : State) : (enumStart s).saf = s.saf := by rfl
@[simp] theorem chClear_saf (s : State) : (chClear s).saf = s.saf := by rfl

/-! ### Measure -/

@[simp] theorem chargeCommit_saf (s : State) : (chargeCommit s).saf = s.saf := by rfl
@[simp] theorem epochBeat_saf (s : State) : (epochBeat s).saf = s.saf := by rfl
@[simp] theorem posCommit_saf (s : State) : (posCommit s).saf = s.saf := by rfl
@[simp] theorem tempCommit_saf (s : State) : (tempCommit s).saf = s.saf := by
  unfold tempCommit
  (repeat' split) <;> rfl
@[simp] theorem mapTemps_saf (s : State) : (mapTemps s).saf = s.saf := by unfold mapTemps; (repeat' split) <;> rfl
@[simp] theorem accordBeat_saf (s : State) : (accordBeat s).saf = s.saf := by rfl
@[simp] theorem insOpen_saf (s : State) : (insOpen s).saf = s.saf := by unfold insOpen; (repeat' split) <;> rfl
@[simp] theorem insJudge_saf (rp rn : Nat) (s : State) : (insJudge rp rn s).saf = s.saf := by rfl
@[simp] theorem insSettled_saf (v : Int) (s : State) : (insSettled v s).1.saf = s.saf := by
  unfold insSettled
  dsimp only
  (repeat' split) <;> first | rfl | (simp; done)
@[simp] theorem insReceived_saf (src string rp rn end32 : Nat) (s : State) : (insReceived src string rp rn end32
    s).saf = s.saf := by
  unfold insReceived
  (repeat' split) <;> rfl
@[simp] theorem modSess_saf (i : Fin 32) (f : Session → Session) (s : State) : (modSess i f s).saf = s.saf := by rfl
@[simp] theorem takeSnap_saf (s : State) : (takeSnap s).saf = s.saf := by
  unfold takeSnap
  (repeat' split) <;> rfl
@[simp] theorem measWrite_saf (i : Fin 32) (o : Nat) (v : Word) (s : State) : (measWrite i o v s).2.saf = s.saf := by
  unfold measWrite
  dsimp only
  (repeat' split) <;> first | rfl | (simp; done)

/-! ### Spectra -/

@[simp] theorem modSpec_saf (p : Nat) (f : PosSpec → PosSpec) (s : State) : (modSpec p f s).saf = s.saf := by rfl
@[simp] theorem histBeat_saf (s : State) : (histBeat s).saf = s.saf := by rfl
@[simp] theorem quasiAnchor_saf (p : Nat) (l : List BeatRec) (xs : List Rat) (s : State) : (quasiAnchor p l xs s).saf
    = s.saf := by
  unfold quasiAnchor
  dsimp only
  (repeat' split) <;> first | rfl | (simp; done)
@[simp] theorem windowPos_saf (k p : Nat) (l : List BeatRec) (xi : Cx) (s : State) : (windowPos k p l xi s).saf =
    s.saf := by
  unfold windowPos
  dsimp only
  (repeat' split) <;> first | rfl | (simp; done)
@[simp] theorem windowStr_saf (k : Nat) (l : List BeatRec) (xi : Cx) (s : State) : (windowStr k l xi s).saf = s.saf :=
    by rfl
@[simp] theorem dropStim_saf (l : Nat) (s : State) : (dropStim l s).saf = s.saf := by rfl
@[simp] theorem takeLockin_saf (c : CmdOut) (a : Nat) (d : ReplyData) (s : State) : (takeLockin c a d s).saf = s.saf
    := by
    unfold takeLockin; dsimp only; (repeat' split) <;> first | rfl | (simp; done)

/-! ### Estimate -/

@[simp] theorem modFilter_saf (p : Nat) (f : Filter → Filter) (s : State) : (modFilter p f s).saf = s.saf := by rfl
@[simp] theorem restJudge_saf (s : State) : (restJudge s).saf = s.saf := by
  unfold restJudge
  (repeat' split) <;> rfl
@[simp] theorem restPositions_saf (s : State) : (restPositions s).saf = s.saf := by
  unfold restPositions
  (repeat' split) <;> rfl
@[simp] theorem stimBeat_saf (s : State) : (stimBeat s).saf = s.saf := by rfl
@[simp] theorem trueAnchor_saf (p : Nat) (a : AnchorV) (s : State) : (trueAnchor p a s).saf = s.saf := by
  unfold trueAnchor
  dsimp only
  (repeat' split) <;> first | rfl | (simp; done)
@[simp] theorem anchorStep_saf (p : Nat) (second : Bool) (s : State) : (anchorStep p second s).saf = s.saf := by
  unfold anchorStep
  dsimp only
  (repeat' split) <;> first | rfl | (simp; done)
@[simp] theorem filterOn_saf (p : Nat) (r : BeatRec) (add : Int) (f : Filter) (s : State) : (filterOn p r add f s).saf
    = s.saf := by simp [filterOn]
@[simp] theorem judgeWarn_saf (s : State) (eps : List (Option (Rat × Rat))) : (judgeWarn s eps).saf = s.saf := by
  unfold judgeWarn
  dsimp only
  refine (foldl_saf _ (fun s _ => ?_) _ _).trans ?_
  · (repeat' split) <;> first | rfl | simp
  · (repeat' split) <;> first | rfl | simp
@[simp] theorem summaryShow_saf (s : State) : (summaryShow s).saf = s.saf := by
  unfold summaryShow
  (repeat' split) <;> rfl
@[simp] theorem estStart_saf (s : State) : (estStart s).saf = s.saf := by rfl
@[simp] theorem seedCtrlWrite_saf (v : Word) (s : State) : (seedCtrlWrite v s).saf = s.saf := by
  unfold seedCtrlWrite
  dsimp only
  (repeat' split) <;> first | rfl | (simp; done)
@[simp] theorem refReset_saf (s : State) : (refReset s).saf = s.saf := by rfl
@[simp] theorem rwa_saf (s : State) (old new : Nat) (f : State → State) (hf : ∀ s, (f s).saf = s.saf) : (rwa s old new
    f).2.saf = s.saf := by
  unfold rwa
  split <;> simp [hf]
@[simp] theorem estWrite_saf (i : Fin 32) (o : Nat) (v : Word) (s : State) : (estWrite i o v s).2.saf = s.saf := by
  unfold estWrite; dsimp only; split <;> first | rfl | (simp; done) | (split <;> first | rfl | (simp; done)) | (apply rwa_saf; intro s; rfl)

/-! ### Cells -/

@[simp] theorem cellsStart_saf (s : State) : (cellsStart s).saf = s.saf := by rfl
@[simp] theorem tapTemps_saf (s : State) : (tapTemps s).saf = s.saf := by rfl
@[simp] theorem tapCommit_saf (s : State) : (tapCommit s).saf = s.saf := by
  unfold tapCommit
  dsimp only
  (repeat' split) <;> first | rfl | (simp; done)
@[simp] theorem enterFinding_saf (r : Nat) (s : State) (f : Finding) : (enterFinding r s f).saf = s.saf := by simp
    [enterFinding]
@[simp] theorem cellUpdate_saf (r : Nat) (pos : List CellPos) (taps : List Tap) (s : State) : (cellUpdate r pos taps
    s).saf = s.saf := by rfl
@[simp] theorem cellSettle_saf (s : State) : (cellSettle s).saf = s.saf := by
  unfold cellSettle
  repeat' split
  all_goals first
    | rfl
    | exact foldl_saf _ (fun s _ => by (repeat' split) <;> first | rfl | simp) _ _
    | (refine (foldl_saf _ (fun s _ => by (repeat' split) <;> first | rfl | simp) _ _).trans ?_; simp)
    | simp
@[simp] theorem cellReview_saf (s : State) : (cellReview s).saf = s.saf := by
  unfold cellReview
  dsimp only
  (repeat' split) <;> first | rfl | (simp; done)
@[simp] theorem roundEffects_saf (s : State) : (roundEffects s).saf = s.saf := by
  unfold roundEffects
  exact foldl_saf _ (fun s _ => by (repeat' split) <;> first | rfl | simp) _ _
@[simp] theorem cellSumWrite_saf (o : Nat) (v : Word) (s : State) : (cellSumWrite o v s).saf = s.saf := by
  unfold cellSumWrite
  (repeat' split) <;> rfl

/-! ### Limits -/

@[simp] theorem limStart_saf (s : State) : (limStart s).saf = s.saf := by
  unfold limStart
  (repeat' split) <;> rfl
@[simp] theorem selection_saf (s : State) : (selection s).saf = s.saf := by rfl
@[simp] theorem zeroLimits_saf (s : State) : (zeroLimits s).saf = s.saf := by rfl
@[simp] theorem publishLimits_saf (s : State) : (publishLimits s).saf = s.saf := by simp [publishLimits]
@[simp] theorem dieGate_saf (s : State) : (dieGate s).saf = s.saf := by
  unfold dieGate
  dsimp only
  (repeat' split) <;> first | rfl | (simp; done)
@[simp] theorem balancePlan_saf (s : State) : (balancePlan s).saf = s.saf := by
  unfold balancePlan
  dsimp only
  (repeat' split) <;> first | rfl | (simp; done)
@[simp] theorem limWrite_saf (o : Nat) (v : Word) (s : State) : (limWrite o v s).2.saf = s.saf := by
  unfold limWrite
  dsimp only
  (repeat' split) <;> first | rfl | (simp; done)

/-! ### SafetyFn -/

@[simp] theorem enterSafe_saf (s : State) : (enterSafe s).saf = s.saf := by
  unfold enterSafe
  (repeat' split) <;> rfl

/-! ### Fabric -/

@[simp] theorem modFab_saf (f : Fab → Fab) (s : State) : (modFab f s).saf = s.saf := by rfl
@[simp] theorem modPort_saf (p : Fin 3) (f : PortSt → PortSt) (s : State) : (modPort p f s).saf = s.saf := by rfl
@[simp] theorem badFrame_saf (p : Fin 3) (s : State) : (badFrame p s).saf = s.saf := by rfl
@[simp] theorem dupFrame_saf (p : Fin 3) (s : State) : (dupFrame p s).saf = s.saf := by rfl
@[simp] theorem fabArrive_saf (h : FabHdr) (s : State) : (fabArrive h s).2.saf = s.saf := by
  unfold fabArrive
  dsimp only
  (repeat' split) <;> first | rfl | (simp; done)
@[simp] theorem fabAccept_saf (fits : Bool) (h : FabHdr) (s : State) : (fabAccept fits h s).2.saf = s.saf := by
  unfold fabAccept
  (repeat' split) <;> rfl
@[simp] theorem fabIn_saf (fits : Bool) (h : FabHdr) (s : State) : (fabIn fits h s).2.saf = s.saf := by
  unfold fabIn
  split
  · rename_i heq
    have h2 := fabArrive_saf h s
    rw [heq] at h2
    exact h2
  · rename_i heq
    have h2 := fabArrive_saf h s
    rw [heq] at h2
    dsimp only
    (repeat' split) <;> simpa using h2
@[simp] theorem onFrame_saf (kind len : Nat) (h : FabHdr) (f : State → State) (s : State) (hf : ∀ s, (f s).saf =
    s.saf) : (onFrame kind len h f s).saf = s.saf := by
  unfold onFrame; split
  · split
    · rename_i s' heq; have h2 := fabIn_saf (h.len == len) h s; rw [heq] at h2; simpa [hf] using h2
    · rename_i s' heq; have h2 := fabIn_saf (h.len == len) h s; rw [heq] at h2; simpa using h2
  · rfl
@[simp] theorem putPeer_saf (p : Peer) (s : State) : (putPeer p s).saf = s.saf := by rfl
@[simp] theorem candidateMet_saf (mac addr : Nat) (s : State) : (candidateMet mac addr s).saf = s.saf := by
  unfold candidateMet
  (repeat' split) <;> rfl
@[simp] theorem addressMet_saf (mac addr : Nat) (s : State) : (addressMet mac addr s).saf = s.saf := by
  unfold addressMet
  (repeat' split) <;> rfl
@[simp] theorem takeDiscover_saf (h : FabHdr) (b : DiscoverBody) (s : State) : (takeDiscover h b s).saf = s.saf := by
  unfold takeDiscover
  dsimp only
  (repeat' split) <;> first | rfl | (simp; done)
@[simp] theorem takeClaim_saf (h : FabHdr) (addr : Nat) (s : State) : (takeClaim h addr s).saf = s.saf := by
  unfold takeClaim
  repeat' split
  all_goals first
    | rfl
    | exact foldl_saf _ (fun s _ => by (repeat' split) <;> first | rfl | simp) _ _
    | (refine (foldl_saf _ (fun s _ => by (repeat' split) <;> first | rfl | simp) _ _).trans ?_; simp)
    | simp
@[simp] theorem keepBank_saf (f : BankFrame) (s : State) : (keepBank f s).saf = s.saf := by
  unfold keepBank
  dsimp only
  (repeat' split) <;> first | rfl | (simp; done)
@[simp] theorem takeBank_saf (h : FabHdr) (tick : Nat) (b : BankBody) (s : State) : (takeBank h tick b s).saf = s.saf
    := by
    unfold takeBank; dsimp only; (repeat' split) <;> first | rfl | (simp; done)
@[simp] theorem epochEval_saf (got : Nat → Bool) (l : List Member) (s : State) : (epochEval got l s).2.saf = s.saf :=
    by simp [epochEval]
@[simp] theorem bankCompute_saf (s : State) : (bankCompute s).saf = s.saf := by
  unfold bankCompute
  dsimp only
  (repeat' split) <;> first | rfl | (simp; done)
@[simp] theorem fabricBeat_saf (s : State) : (fabricBeat s).saf = s.saf := by rfl

/-! ### Pair -/

@[simp] theorem modPair_saf (f : Pair → Pair) (s : State) : (modPair f s).saf = s.saf := by rfl
@[simp] theorem sendX_saf (sub : Nat) (body : List Byte) (s : State) : (sendX sub body s).saf = s.saf := by simp [sendX]
@[simp] theorem onExchange_saf (len : Nat) (h : FabHdr) (f : State → State) (s : State) (hf : ∀ s, (f s).saf = s.saf)
    : (onExchange len h f s).saf = s.saf := by
  unfold onExchange; apply onFrame_saf; intro s; split
  · exact hf s
  · rfl
@[simp] theorem onPartner_saf (len : Nat) (h : FabHdr) (f : State → State) (s : State) (hf : ∀ s, (f s).saf = s.saf) :
    (onPartner len h f s).saf = s.saf := by
  unfold onPartner; apply onExchange_saf; intro s; split
  · exact hf s
  · rfl
@[simp] theorem takeStatus_saf (h : FabHdr) (b : StatusBody) (s : State) : (takeStatus h b s).saf = s.saf := by
  unfold takeStatus
  extract_lets p
  split
  · rfl
  · split
    · rfl
    · beta_reduce
      split
      · exact (mapTemps_saf _).trans rfl
      · rfl
@[simp] theorem takeFront_saf (b : FrontBody) (s : State) : (takeFront b s).saf = s.saf := by rfl
@[simp] theorem takeStream_saf (b : StreamBody) (s : State) : (takeStream b s).saf = s.saf := by rfl
@[simp] theorem takeStim_saf (s : State) (c : Nat × Nat × Nat × List Nat) : (takeStim s c).saf = s.saf := by
  unfold takeStim
  dsimp only
  (repeat' split) <;> first | rfl | (simp; done)
@[simp] theorem pairCtrlWrite_saf (v : Word) (s : State) : (pairCtrlWrite v s).2.saf = s.saf := by
  unfold pairCtrlWrite
  dsimp only
  (repeat' split) <;> first | rfl | (simp; done)
@[simp] theorem exchJudge_saf (s : State) : (exchJudge s).saf = s.saf := by
  unfold exchJudge
  dsimp only
  (repeat' split) <;> first | rfl | (simp; done)
@[simp] theorem pairBeat_saf (s : State) : (pairBeat s).saf = s.saf := by
  unfold pairBeat
  (repeat' split) <;> rfl

/-! ### Commit -/

@[simp] theorem chainCommit_saf (s : State) : (chainCommit s).saf = s.saf := by simp [chainCommit]

/-! ### CanIo -/

@[simp] theorem modCan_saf (c : Nat) (f : CanCh → CanCh) (s : State) : (modCan c f s).saf = s.saf := by simp [modCan]
@[simp] theorem canOffer_saf (c : Nat) (s : State) : (canOffer c s).saf = s.saf := by
  unfold canOffer
  dsimp only
  (repeat' split) <;> first | rfl | (simp; done)
@[simp] theorem canRespond_saf (c : Nat) (data : List Byte) (s : State) : (canRespond c data s).saf = s.saf := by simp
    [canRespond]
@[simp] theorem canBeat_saf (s : State) : (canBeat s).saf = s.saf := by
  unfold canBeat
  repeat' split
  all_goals first
    | rfl
    | exact foldl_saf _ (fun s _ => by (repeat' split) <;> first | rfl | simp) _ _
    | (refine (foldl_saf _ (fun s _ => by (repeat' split) <;> first | rfl | simp) _ _).trans ?_; simp)
    | simp
@[simp] theorem canCommit_saf (c : Nat) (lost : Bool) (s : State) : (canCommit c lost s).saf = s.saf := by simp
    [canCommit]
@[simp] theorem canStart_saf (s : State) : (canStart s).saf = s.saf := by
  unfold canStart
  (repeat' split) <;> rfl
@[simp] theorem txbCmd_saf (c b : Nat) (v : Word) (s : State) : (txbCmd c b v s).2.saf = s.saf := by
  unfold txbCmd
  dsimp only
  (repeat' split) <;> first | rfl | (simp; done)
@[simp] theorem txbWrite_saf (c b w : Nat) (v : Word) (s : State) : (txbWrite c b w v s).2.saf = s.saf := by
  unfold txbWrite
  dsimp only
  (repeat' split) <;> first | rfl | (simp; done)
@[simp] theorem loopWrite_saf (c : Nat) (v : Word) (s : State) : (loopWrite c v s).2.saf = s.saf := by
  unfold loopWrite
  dsimp only
  (repeat' split) <;> first | rfl | (simp; done)
@[simp] theorem filtWrite_saf (c k : Nat) (mask : Bool) (v : Word) (s : State) : (filtWrite c k mask v s).saf = s.saf
    := by simp [filtWrite]
@[simp] theorem canWrite_saf (c o : Nat) (v : Word) (s : State) : (canWrite c o v s).2.saf = s.saf := by
  unfold canWrite
  dsimp only
  (repeat' split) <;> first | rfl | (simp; done)

/-! ### FieldIo -/

@[simp] theorem modIo_saf (k : Nat) (f : IoCh → IoCh) (s : State) : (modIo k f s).saf = s.saf := by rfl
@[simp] theorem setFault_saf (k : Nat) (f : IoCh → IoCh) (s : State) : (setFault k f s).saf = s.saf := by rfl
@[simp] theorem cntClear_saf (v : Word) (s : State) : (cntClear v s).saf = s.saf := by rfl
@[simp] theorem drivePhase_saf (vals : Nat → Bool) (s : State) : (drivePhase vals s).saf = s.saf := by
  unfold drivePhase
  (repeat' split) <;> rfl
@[simp] theorem fioStart_saf (s : State) : (fioStart s).saf = s.saf := by rfl
@[simp] theorem fioOff_saf (s : State) : (fioOff s).saf = s.saf := by rfl
@[simp] theorem fioBeat_saf (s : State) : (fioBeat s).saf = s.saf := by
  unfold fioBeat
  (repeat' split) <;> rfl
@[simp] theorem thStart_saf (s : State) : (thStart s).saf = s.saf := by rfl
@[simp] theorem fioWrite_saf (o : Nat) (v : Word) (s : State) : (fioWrite o v s).saf = s.saf := by
  unfold fioWrite
  (repeat' split) <;> rfl

/-! ### Logic -/

@[simp] theorem modLg_saf (f : Logic → Logic) (s : State) : (modLg f s).saf = s.saf := by rfl
@[simp] theorem modTask_saf (t : Nat) (f : TaskSt → TaskSt) (s : State) : (modTask t f s).saf = s.saf := by rfl
@[simp] theorem batchDone_saf (b : Batch) (s : State) : (batchDone b s).saf = s.saf := by rfl
@[simp] theorem applyConsts_saf (t : Nat) (s : State) : (applyConsts t s).saf = s.saf := by
  unfold applyConsts
  dsimp only
  (repeat' split) <;> first | rfl | (simp; done)
@[simp] theorem constsPending_saf (b : Batch) (s : State) : (constsPending b s).saf = s.saf := by
  unfold constsPending
  dsimp only
  (repeat' split) <;> first | rfl | (simp; done)
@[simp] theorem taskOver_saf (t : Nat) (c : TaskCfg) (cycles : Nat) (s : State) : (taskOver t c cycles s).saf = s.saf
    := by
  unfold taskOver
  extract_lets s1 s2 s3
  have h3 : s3.saf = s.saf := by
    unfold s3; split <;> simp [s2, s1]
  split <;> simp [h3]
@[simp] theorem taskCommit_saf (t : Nat) (c : TaskCfg) (p : LogicCfg) (cycles : Nat) (s : State) : (taskCommit t c p
    cycles s).saf = s.saf := by rfl
@[simp] theorem taskStopped_saf (t : Nat) (s : State) : (taskStopped t s).saf = s.saf := by
  unfold taskStopped
  repeat' split
  all_goals first
    | rfl
    | exact foldl_saf _ (fun s _ => by (repeat' split) <;> first | rfl | simp) _ _
    | (refine (foldl_saf _ (fun s _ => by (repeat' split) <;> first | rfl | simp) _ _).trans ?_; simp)
    | simp
@[simp] theorem stopTasks_saf (s : State) : (stopTasks s).saf = s.saf := by
  unfold stopTasks
  dsimp only
  (repeat' split) <;> first
    | rfl
    | (simp; done)
    | (refine (foldl_saf _ (fun s _ => by simp) _ _).trans ?_; simp)
@[simp] theorem stopWork_saf (k cycles : Nat) (s : State) : (stopWork k cycles s).saf = s.saf := by
  unfold stopWork
  dsimp only
  (repeat' split) <;> first | rfl | (simp; done)
@[simp] theorem lateTasks_saf (s : State) : (lateTasks s).saf = s.saf := by
  unfold lateTasks
  repeat' split
  all_goals first
    | rfl
    | exact foldl_saf _ (fun s _ => by (repeat' split) <;> first | rfl | simp) _ _
    | (refine (foldl_saf _ (fun s _ => by (repeat' split) <;> first | rfl | simp) _ _).trans ?_; simp)
    | simp
@[simp] theorem modStn_saf (i : Nat) (f : StationSt → StationSt) (s : State) : (modStn i f s).saf = s.saf := by rfl
@[simp] theorem stnJudge_saf (s : State) : (stnJudge s).saf = s.saf := by rfl
@[simp] theorem stnAdmit_saf (s : State) : (stnAdmit s).saf = s.saf := by rfl
@[simp] theorem stnClaim_saf (h : FabHdr) (s : State) : (stnClaim h s).2.saf = s.saf := by
  unfold stnClaim
  dsimp only
  (repeat' split) <;> first | rfl | (simp; done)
@[simp] theorem stnFrame_saf (i : Nat) (q : Nat) (words : List Word) (s : State) : (stnFrame i q words s).saf = s.saf
    := by
    rfl
@[simp] theorem stnTake_saf (h : FabHdr) (dir n : Nat) (words : List Word) (s : State) : (stnTake h dir n words s).saf
    = s.saf := by
  unfold stnTake
  split
  · split
    · rfl
    · simp
  · split
    · simp
    · split
      · rename_i heq
        have h2 := stnClaim_saf h s
        rw [heq] at h2
        exact h2
      · rename_i heq
        have h2 := stnClaim_saf h s
        rw [heq] at h2
        split
        · rw [stnFrame_saf]
          exact h2
        · exact h2
@[simp] theorem putForce_saf (i : Fin 32) (f : Nat) (x : Force) (s : State) : (putForce i f x s).saf = s.saf := by
  unfold putForce
  (repeat' split) <;> rfl
@[simp] theorem forceSelWrite_saf (i : Fin 32) (f : Nat) (v : Word) (s : State) : (forceSelWrite i f v s).2.saf =
    s.saf := by
  unfold forceSelWrite
  dsimp only
  (repeat' split) <;> first | rfl | (simp; done)
@[simp] theorem forceValWrite_saf (i : Fin 32) (f : Nat) (v : Word) (s : State) : (forceValWrite i f v s).2.saf =
    s.saf := by
  unfold forceValWrite
  dsimp only
  (repeat' split) <;> first | rfl | (simp; done)
@[simp] theorem stnSend_saf (img : List (Nat × Word)) (i : Nat) (s : State) : (stnSend img i s).saf = s.saf := by
  unfold stnSend
  dsimp only
  (repeat' split) <;> first | rfl | (simp; done)
@[simp] theorem lgStart_saf (s : State) : (lgStart s).saf = s.saf := by rfl
@[simp] theorem lgRun_saf (s : State) : (lgRun s).saf = s.saf := by rfl
@[simp] theorem lgBeat_saf (s : State) : (lgBeat s).saf = s.saf := by rfl
@[simp] theorem lgReplace_saf (s : State) : (lgReplace s).saf = s.saf := by
  unfold lgReplace
  dsimp only
  (repeat' split) <;> first | rfl | (simp; done)
@[simp] theorem varWrite_saf (i : Fin 32) (v : Word) (s : State) : (varWrite i v s).2.saf = s.saf := by
  unfold varWrite
  dsimp only
  (repeat' split) <;> first | rfl | (simp; done)
@[simp] theorem lgClear_saf (s : State) : (lgClear s).saf = s.saf := by rfl
@[simp] theorem lgCtrlWrite_saf (v : Word) (s : State) : (lgCtrlWrite v s).saf = s.saf := by
  unfold lgCtrlWrite
  (repeat' split) <;> rfl
@[simp] theorem lgWrite_saf (i : Fin 32) (o : Nat) (v : Word) (s : State) : (lgWrite i o v s).2.saf = s.saf := by
  unfold lgWrite
  split
  · rfl
  · exact lgCtrlWrite_saf ..
  · rfl
  · exact varWrite_saf ..
  · split
    · split
      · exact forceSelWrite_saf ..
      · exact forceValWrite_saf ..
    · rfl

/-! ### States -/

@[simp] theorem respond_saf (r : Rsp) (s : State) : (respond r s).saf = s.saf := by
  unfold respond
  dsimp only
  (repeat' split) <;> first | rfl | (simp; done)
@[simp] theorem answer_saf (i : Fin 32) (r : Rsp) (s : State) : (answer i r s).saf = s.saf := by
  unfold answer
  rw [respond_saf]
  split <;> rfl
@[simp] theorem loadEnd_saf (f : Fail) (s : State) : (loadEnd f s).saf = s.saf := by rfl
@[simp] theorem replaceEnd_saf (f : Fail) (s : State) : (replaceEnd f s).saf = s.saf := by rfl
@[simp] theorem loadAbort_saf (i : Fin 32) (s : State) : (loadAbort i s).saf = s.saf := by
  unfold loadAbort
  (repeat' split) <;> rfl
@[simp] theorem replaceStop_saf (s : State) : (replaceStop s).saf = s.saf := by
  unfold replaceStop
  (repeat' split) <;> rfl
@[simp] theorem leaveService_saf (s : State) : (leaveService s).saf = s.saf := by rfl
@[simp] theorem wipeRecords_saf (s : State) : (wipeRecords s).saf = s.saf := by rfl
@[simp] theorem fallBack_saf (reason : Nat) (s : State) : (fallBack reason s).saf = s.saf := by rfl
@[simp] theorem trialStart_saf (s : State) : (trialStart s).saf = s.saf := by
  unfold trialStart
  (repeat' split) <;> rfl
@[simp] theorem watchBatch_saf (s : State) : (watchBatch s).saf = s.saf := by
  unfold watchBatch
  (repeat' split) <;> rfl
@[simp] theorem armEnum_saf (s : State) : (armEnum s).saf = s.saf := by
  unfold armEnum
  (repeat' split) <;> rfl
@[simp] theorem armStart_saf (s : State) : (armStart s).saf = s.saf := by simp [armStart]
@[simp] theorem enterRun_saf (s : State) : (enterRun s).saf = s.saf := by rfl
@[simp] theorem enterService_saf (i : Fin 32) (s : State) : (enterService i s).saf = s.saf := by rfl

/-! ### Update -/

@[simp] theorem modUpd_saf (f : Upd → Upd) (s : State) : (modUpd f s).saf = s.saf := by rfl
@[simp] theorem modUpSess_saf (i : Fin 32) (f : UpSess → UpSess) (s : State) : (modUpSess i f s).saf = s.saf := by rfl
@[simp] theorem upResult_saf (i : Fin 32) (code : Nat) (s : State) : (upResult i code s).saf = s.saf := by rfl
@[simp] theorem manifestWrite_saf (i : Fin 32) (k : Nat) (s : State) : (manifestWrite i k s).saf = s.saf := by
  unfold manifestWrite
  dsimp only
  (repeat' split) <;> first | rfl | (simp; done)
@[simp] theorem imageWrite_saf (i : Fin 32) (k : Nat) (s : State) : (imageWrite i k s).saf = s.saf := by
  unfold imageWrite
  (repeat' split) <;> rfl
@[simp] theorem judgePiece_saf (i : Fin 32) (k : Nat) (s : State) : (judgePiece i k s).saf = s.saf := by
  unfold judgePiece
  dsimp only
  (repeat' split) <;> first | rfl | (simp; done)
@[simp] theorem confirm_saf (i : Fin 32) (s : State) : (confirm i s).saf = s.saf := by rfl
@[simp] theorem upCmdWrite_saf (i : Fin 32) (v : Word) (s : State) : (upCmdWrite i v s).2.saf = s.saf := by
  unfold upCmdWrite
  split
  · rfl
  · split
    · split
      · rfl
      · exact manifestWrite_saf ..
    · split
      · rfl
      · exact imageWrite_saf ..
    · split
      · exact confirm_saf ..
      · rfl
    · rfl
@[simp] theorem discardStart_saf (i : Fin 32) (j : Nat) (s : State) : (discardStart i j s).saf = s.saf := by
  unfold discardStart
  (repeat' split) <;> rfl
@[simp] theorem discardDone_saf (s : State) : (discardDone s).saf = s.saf := by
  unfold discardDone
  (repeat' split) <;> rfl
@[simp] theorem activateStart_saf (i : Fin 32) (j : Nat) (s : State) : (activateStart i j s).saf = s.saf := by
  unfold activateStart
  (repeat' split) <;> rfl
@[simp] theorem updateWrite_saf (i : Fin 32) (o : Nat) (v : Word) (s : State) : (updateWrite i o v s).2.saf = s.saf :=
    by
  unfold updateWrite
  split
  · exact modUpd_saf ..
  · exact upCmdWrite_saf ..
  · split
    · exact modUpd_saf ..
    · rfl
  · split
    · exact modUpd_saf ..
    · rfl
  · split
    · split
      · rfl
      · exact modUpSess_saf ..
    · rfl

/-! ### Watch -/

@[simp] theorem watchFrame_saf (claim l : Nat) (d : End) (c : Nat) (s : State) : (watchFrame claim l d c s).saf =
    s.saf := by rfl
@[simp] theorem watchFrames_saf (r : WatchRun) (c : Nat) (s : State) : (watchFrames r c s).saf = s.saf := by
  unfold watchFrames
  split
  · refine foldl_saf _ (fun s l => ?_) _ _
    split
    · exact watchFrame_saf ..
    · rfl
  · rfl
@[simp] theorem setWatch_saf (r : WatchRun) (s : State) : (setWatch r s).saf = s.saf := by rfl
@[simp] theorem watchEnd_saf (r : WatchRun) (sec : Nat) (s : State) : (watchEnd r sec s).saf = s.saf := by rfl

/-! ### Power -/

@[simp] theorem modPw_saf (f : Pw → Pw) (s : State) : (modPw f s).saf = s.saf := by rfl
@[simp] theorem setVsup_saf (mv : Nat) (s : State) : (setVsup mv s).saf = s.saf := by simp [setVsup]

/-! ### Loader -/

@[simp] theorem modLdr_saf (f : Ldr → Ldr) (s : State) : (modLdr f s).saf = s.saf := by rfl
@[simp] theorem loadWord_saf (v : Word) (s : State) : (loadWord v s).saf = s.saf := by
  unfold loadWord
  dsimp only
  (repeat' split) <;> first | rfl | (simp; done)
@[simp] theorem loadStart_saf (i : Fin 32) (v : Word) (s : State) : (loadStart i v s).saf = s.saf := by rfl
@[simp] theorem replaceWord_saf (v : Word) (w : List Word) (s : State) : (replaceWord v w s).saf = s.saf := by
  unfold replaceWord
  dsimp only
  (repeat' split) <;> first | rfl | (simp; done)
@[simp] theorem ldDataWrite_saf (i : Fin 32) (v : Word) (s : State) : (ldDataWrite i v s).2.saf = s.saf := by
  unfold ldDataWrite
  split
  · split
    · rfl
    · exact loadStart_saf ..
  · split
    · exact loadWord_saf ..
    · rfl
  · split
    · split
      · exact replaceWord_saf ..
      · rfl
    · rfl
  · rfl
@[simp] theorem replaceStart_saf (i : Fin 32) (s : State) : (replaceStart i s).2.saf = s.saf := by
  unfold replaceStart
  (repeat' split) <;> rfl
@[simp] theorem ldCtrlWrite_saf (i : Fin 32) (v : Word) (s : State) : (ldCtrlWrite i v s).2.saf = s.saf := by
  unfold ldCtrlWrite
  dsimp only
  (repeat' split) <;> first | rfl | (simp; done)
@[simp] theorem loadedStart_saf (c : Calibre) (s : State) : (loadedStart c s).saf = s.saf := by rfl
@[simp] theorem replaceTake_saf (p : List Byte) (s : State) : (replaceTake p s).saf = s.saf := by simp [replaceTake]
@[simp] theorem goWrite_saf (i : Fin 32) (n : Nat) (s : State) : (goWrite i n s).saf = s.saf := by rfl
@[simp] theorem cancelBatch_saf (s : State) : (cancelBatch s).saf = s.saf := by
  unfold cancelBatch
  (repeat' split) <;> rfl
@[simp] theorem onCtrlWrite_saf (i : Fin 32) (v : Word) (s : State) : (onCtrlWrite i v s).saf = s.saf := by
  unfold onCtrlWrite
  dsimp only
  (repeat' split) <;> first | rfl | (simp; done)
@[simp] theorem batchSide_saf (old : State) (s : State) : (batchSide old s).saf = s.saf := by
  unfold batchSide
  (repeat' split) <;> rfl
@[simp] theorem loaderWrite_saf (i : Fin 32) (o : Nat) (v : Word) (s : State) : (loaderWrite i o v s).2.saf = s.saf :=
    by
  unfold loaderWrite
  split
  · rfl
  · exact ldCtrlWrite_saf ..
  · exact ldDataWrite_saf ..
  · rfl
  · exact onCtrlWrite_saf ..
  · split <;> rfl

/-! ### Judge -/

@[simp] theorem idleBeat_saf (s : State) : (idleBeat s).saf = s.saf := by rfl
@[simp] theorem streamBeat_saf (s : State) : (streamBeat s).saf = s.saf := by rfl
@[simp] theorem setCmdStatus_saf (i : Fin 32) (code : Nat) (r : RspCode) (s : State) : (setCmdStatus i code r s).saf =
    s.saf := by
  unfold setCmdStatus
  (repeat' split) <;> rfl
@[simp] theorem passSingles_saf (s : State) : (passSingles s).saf = s.saf := by
  unfold passSingles
  refine foldl_saf _ (fun s l => ?_) _ _
  split
  · exact linePass_saf ..
  · rfl
@[simp] theorem armFail_saf (n : Nat) (s : State) : (armFail n s).saf = s.saf := by rfl

/-! ### Regs -/

@[simp] theorem modSub_saf (j : Nat) (f : Sub → Sub) (s : State) : (modSub j f s).saf = s.saf := by rfl
@[simp] theorem sessionsWrite_saf (o : Nat) (v : Word) (s : State) : (sessionsWrite o v s).2.saf = s.saf := by
  unfold sessionsWrite
  (repeat' split) <;> rfl
@[simp] theorem fabricWrite_saf (o : Nat) (v : Word) (s : State) : (fabricWrite o v s).2.saf = s.saf := by
  unfold fabricWrite
  split
  · rfl
  · exact pairCtrlWrite_saf ..
  · rfl
  · rfl
@[simp] theorem setQueue_saf (q : QueueId) (x : Queue) (s : State) : (setQueue q x s).saf = s.saf := by
  unfold setQueue
  repeat' split
  all_goals first
    | rfl
    | exact foldl_saf _ (fun s _ => by (repeat' split) <;> first | rfl | simp) _ _
    | (refine (foldl_saf _ (fun s _ => by (repeat' split) <;> first | rfl | simp) _ _).trans ?_; simp)
    | simp
@[simp] theorem headRead_saf (i : Fin 32) (q : QueueId) (s : State) : (headRead i q s).2.2.saf = s.saf := by
  unfold headRead
  dsimp only
  (repeat' split) <;> first | rfl | (simp; done)
@[simp] theorem takeLatch_saf (i : Fin 32) (a : Nat) (s : State) : (takeLatch i a s).saf = s.saf := by
  unfold takeLatch
  dsimp only
  (repeat' split) <;> first | rfl | (simp; done)
@[simp] theorem readWord_saf (i : Fin 32) (a : Nat) (s : State) : (readWord i a s).2.2.saf = s.saf := by
  unfold readWord
  split
  · rfl
  · split
    · rfl
    · split
      · exact headRead_saf ..
      · exact takeLatch_saf ..
@[simp] theorem stateCmdWrite_saf (i : Fin 32) (req : Option (Req × Nat × Nat)) (v : Word) (s : State) :
    (stateCmdWrite i req v s).2.saf = s.saf := by
  unfold stateCmdWrite
  dsimp only
  (repeat' split) <;> first | rfl | (simp; done)

/-! ### Publish -/

@[simp] theorem publishOne_saf (b : Sub) (s : State) : (publishOne b s).saf = s.saf := by simp [publishOne]

/-! ### Host -/

@[simp] theorem access_saf (i : Fin 32) (op a : Nat) (f : State → State) (s : State) (hf : ∀ s, (f s).saf = s.saf) :
    (access i op a f s).saf = s.saf := by
  unfold access; (repeat' split) <;> simp [hf]
@[simp] theorem hostRead_saf (i : Fin 32) (a : Nat) (s : State) : (hostRead i a s).saf = s.saf := by
  unfold hostRead
  refine access_saf _ _ _ _ _ (fun s => ?_)
  have h := readWord_saf i a s
  dsimp only
  rw [respond_saf]
  exact h
@[simp] theorem heard_saf (r : Req) (s : State) : (heard r s).2.saf = s.saf := by
  unfold heard
  repeat' split
  all_goals first
    | rfl
    | exact foldl_saf _ (fun s _ => by (repeat' split) <;> first | rfl | simp) _ _
    | (refine (foldl_saf _ (fun s _ => by (repeat' split) <;> first | rfl | simp) _ _).trans ?_; simp)
    | simp
@[simp] theorem serve_saf (r : Req) (op addr : Nat) (f : Fin 32 → State → State) (s : State) (hf : ∀ i s, (f i s).saf
    = s.saf) : (serve r op addr f s).saf = s.saf := by
  unfold serve
  (repeat' split) <;> first | rfl | (simp [hf]; done) | (dsimp only; (repeat' split) <;> simp [hf])
@[simp] theorem request_saf (r : Req) (op addr : Nat) (f : Fin 32 → State → State) (s : State) (hf : ∀ i s, (f i
    s).saf = s.saf) : (request r op addr f s).saf = s.saf := by
  unfold request; split
  · split
    · rename_i s' heq; have h2 := heard_saf r s; rw [heq] at h2; simpa [hf] using h2
    · rename_i s' heq; have h2 := heard_saf r s; rw [heq] at h2; simpa using h2
  · rfl
@[simp] theorem readAll_saf (i : Fin 32) (step : Nat) (a0 : Nat) (a1 : Nat) (w2 : State) : (readAll i step a0 a1
    w2).2.2.2.saf = w2.saf := by
  induction a0 generalizing a1 w2 with
  | zero => rfl
  | succ n ih =>
    have h := readWord_saf i a1 w2
    unfold readAll
    dsimp only
    split
    · exact (ih ..).trans h
    · exact h
@[simp] theorem readReq_saf (r : Req) (op count step addr : Nat) (i : Fin 32) (s : State) :
    (readReq r op count step addr i s).saf
    = s.saf := by
  unfold readReq
  split
  · dsimp only
    rw [answer_saf]
    exact readAll_saf ..
  · exact answer_saf ..
@[simp] theorem dropReq_saf (i : Fin 32) (s : State) : (dropReq i s).saf = s.saf := by rfl
@[simp] theorem openReq_saf (r : Req) (word : Word) (s : State) : (openReq r word s).saf = s.saf := by
  unfold openReq
  dsimp only
  (repeat' split) <;> first | rfl | (simp; done)

end Sys2Proof.Machine
end

