-- ==== Sys2Proof/WellFormed.lean ====
section
/-! DEFINITION. Well-formed commands: every operand lies in the range that the layout of the frame, request or register
gives its field. A meaning does not rely on it: it says which commands can come from outside at all. -/

namespace Sys2Proof

/-- A field of w bits. -/
def inBits (w n : Nat) : Bool := decide (n < 2 ^ w)

/-- A signed field of w bits. -/
def inSigned (w : Nat) (i : Int) : Bool := decide (-(2 ^ (w - 1) : Int) ≤ i ∧ i < 2 ^ (w - 1))

/-- A time in nanoseconds within a beat (02 R32). -/
def inBeat (ns : Nat) : Bool := decide (ns < 1000000)

/-- A source (13 R322): a 48-bit MAC address and a 16-bit fabric address, or a CAN channel. -/
def Source.wf : Source → Bool
  | .fabric mac src => inBits 48 mac && inBits 16 src
  | .can _ => true

/-- A chain frame header with its CRC (04 Table 04-2). -/
def ChainHdr.wf (h : ChainHdr) : Bool :=
  inBits 8 h.typ && inBits 8 h.addr && inBits 8 h.len && inBits 8 h.hops && inBits 16 h.claim && inBits 16 h.seq &&
  inBits 32 h.crc && decide (h.tick < 400)

/-- RESULT: sixteen positions of 24 bits (04 Table 04-6). -/
def ResultBody.wf (b : ResultBody) : Bool :=
  inBits 8 b.nstat && inBits 16 b.suspect && b.vpos.length == 16 && b.vpos.all (inSigned 24)

/-- A tap entry (04 Table 04-7). -/
def TapEntry.wf (t : TapEntry) : Bool := inBits 16 t.mux && inSigned 24 t.drop && inBits 8 t.tq

/-- AUX: at most five tap entries and eight temperatures (04 Table 04-7). -/
def AuxBody.wf (b : AuxBody) : Bool :=
  decide (b.taps.length ≤ 5) && b.taps.all (·.wf) && b.temps.length == 8 && b.temps.all (inSigned 16)

/-- A payload frame header (12 Table 12-2). -/
def FabHdr.wf (h : FabHdr) : Bool :=
  inBits 48 h.ethDst && inBits 48 h.mac && inBits 16 h.hsrSeq && inBits 16 h.etherType && inBits 8 h.ver && inBits 8 h.kind &&
  inBits 16 h.src && inBits 16 h.dst && inBits 16 h.string && inBits 16 h.claim && inBits 32 h.seq && inBits 32 h.beat &&
  inBits 16 h.stampId && inBits 16 h.len

/-- A request head (13 Table 13-1, R327): SESSION a byte, TAG and COUNT 16 bits, on CAN a byte; an ACCESS_REQ frame with room
for its head, or a CAN frame with at most 14 words. -/
def Req.wf (r : Req) : Bool :=
  inBits 8 r.session && inBeat r.atNs &&
  match r.via with
  | .fabric h => h.wf && h.kind == 3 && decide (12 ≤ h.len) && inBits 16 r.tag && inBits 16 r.plainCount
  | .can _ words => decide (words ≤ 14) && inBits 8 r.tag && inBits 8 r.plainCount

/-- COUNT of a READ, WRITE or READ_FIXED (Table 13-1, R327): 16 bits, on CAN a byte. -/
def Req.countWf (r : Req) (count : Nat) : Bool :=
  match r.via with
  | .fabric _ => inBits 16 count
  | .can _ _ => inBits 8 count

/-- BANK_STATE (12 Table 12-4). -/
def BankBody.wf (b : BankBody) : Bool :=
  inBits 8 b.state && inBits 16 b.bank && inBits 32 b.dvJoin && inSigned 32 b.vStr && inSigned 32 b.vLnk &&
  inSigned 32 b.iEpoch && inBits 32 b.epoch && b.lim.length == 8 && b.lim.all (inBits 32)

/-- FRONT (12 Table 12-16). -/
def FrontBody.wf (b : FrontBody) : Bool :=
  inSigned 32 b.i && inSigned 32 b.vStr && inSigned 32 b.vLnk && inBits 3 b.iCode && inBits 3 b.strCode && inBits 3 b.lnkCode

/-- STREAM (12 Table 12-16): eight samples. -/
def StreamBody.wf (b : StreamBody) : Bool :=
  b.i.length == 8 && b.i.all (inSigned 32) && inSigned 32 b.iMean && inBits 8 b.scodes && inSigned 64 b.dq

/-- PLAN (12 Table 12-16): 64 bleed words, at most 16 commands and 256 currents. -/
def PlanBody.wf (b : PlanBody) : Bool :=
  b.bleed.length == 64 && b.bleed.all (inBits 16) && decide (b.cmds.length ≤ 16) && decide (b.ic.length ≤ 256)

/-- STATUS (12 Table 12-16). -/
def StatusBody.wf (b : StatusBody) : Bool :=
  inBits 8 b.state && inBits 8 b.sides && inBits 8 b.ownEnd && inBits 16 b.claim && inBits 32 b.digest && inBits 32 b.limCrc

/-- A CAN frame (14 Table 14-4): an 11-bit or 29-bit identifier and at most 64 bytes. -/
def CanFrame.wf (f : CanFrame) : Bool :=
  inBits (if f.xtd then 29 else 11) f.id && inBits 4 f.dlc && decide (f.data.length ≤ 64) && decide (f.tick < 400)

/-- A BEAT frame at a node (04 Tables 04-2, 04-5). -/
def NodeBeat.wf (f : NodeBeat) : Bool :=
  inBits 16 f.claim && inBits 8 f.hops && inBits 64 f.beat && inBits 32 f.instant && f.bleed.length == 16 &&
  f.bleed.all (inBits 16) && inBits 32 f.crc

/-- The operands of a command. -/
def Instr.wf : Instr → Bool
  | .openReq r _ => r.wf
  | .closeReq r => r.wf
  | .read r n _ => r.wf && r.countWf n
  | .write r n _ data => r.wf && r.countWf n && data.length == r.words
  | .readFixed r n _ => r.wf && r.countWf n
  | .nop r => r.wf
  | .reservedOpRequest r op => r.wf && inBits 8 op && decide (6 < op ∨ op = 0)
  | .reservedKindStart _ _ kind => inBits 8 kind
  | .result h b => h.wf && b.wf
  | .aux h b => h.wf && b.wf
  | .echo h p _ => h.wf && decide (p.length ≤ 256)
  | .reply h op code _ => h.wf && inBits 8 op && inBits 8 code
  | .announce h uid nodeType proto => h.wf && inBits 64 uid && inBits 16 nodeType && inBits 8 proto
  | .nodeBeatReceive _ _ f => f.wf
  | .nodeSample _ _ marks vpos temps taps =>
    inBits 16 marks.suspect && vpos.length == 16 && temps.length == 8 && decide (taps.length ≤ 5)
  | .chime _ pos bin ampl cycles start =>
    inBits 8 pos && inBits 8 bin && inBits 16 ampl && inBits 16 cycles && inBits 16 start
  | .lockinStart _ bins posMask start => inBits 40 bins && inBits 16 posMask && inBits 16 start
  | .insResult h _ _ _ => h.wf
  | .station h dir n sflags words => h.wf && inBits 8 dir && inBits 8 n && inBits 8 sflags && decide (words.length ≤ 16)
  | .hsrFrameReceive h => h.wf
  | .discover (some (h, b)) => h.wf && inBits 48 b.mac
  | .addrClaim (some (h, candidate)) => h.wf && inBits 16 candidate
  | .bankState (some (h, arrival, b)) => h.wf && decide (arrival < 400) && b.wf
  | .resultFwd h _ seq tick b => h.wf && inBits 16 seq && decide (tick < 400) && b.wf
  | .auxFwd h _ seq tick b => h.wf && inBits 16 seq && decide (tick < 400) && b.wf
  | .front (some (h, b)) => h.wf && b.wf
  | .streamX (some (h, b)) => h.wf && b.wf
  | .plan (some (h, b)) => h.wf && b.wf
  | .delays (some (h, _, _, d)) => h.wf && inBits 16 d
  | .status (some (h, b)) => h.wf && b.wf
  | .canFrameReceived _ f => f.wf
  | .manifestPiece _ index => inBits 16 index
  | .imagePiece _ index => inBits 16 index
  | .txTimestamp _ id _ => inBits 16 id
  | _ => true

/-- A well-formed command. -/
def Instr.WellFormed (i : Instr) : Prop := i.wf = true

end Sys2Proof
end

