-- ==== Sys2Proof/Tests/Slice0.lean ====
section
/-! SUPPORT. Tests: ill-formed commands that WellFormed refuses; a concrete state and operands that meet the hypotheses of
each statement, clause by clause; and small checks of one command each against the spec. -/

namespace Sys2Proof.Tests

open Sys2Proof.Machine

set_option Elab.async false

/-! ### Small states -/

/-- Session 0 as given. -/
def sess0 (x : Session) (s : State) : State := { s with host := { s.host with sess := s.host.sess.set 0 x } }

/-- A session that is open for the source of reqOf. -/
def openSess : Session := { (default : Session) with isOpen := true, source := .can 0 }

/-- A beat and a nanosecond of it. -/
def atBeat (beat ns : Nat) (s : State) : State := { s with time := { s.time with beat := beat, ns := ns } }

/-- The module in a state of Table 01-3 with CAN channel 0 for access and session 0 open, all else as after reset. -/
def inMode (m : Mode) : State :=
  let s := sess0 openSess { State.reset with st := { mode := m, prev := 0, changes := 0 } }
  { s with can := s.can.set 0 { s.can[(0 : Fin 2)] with cfg := { s.can[(0 : Fin 2)].cfg with access := true } } }

/-- A CAN request for a session number, with COUNT and so many data words. -/
def reqOf (session : Nat) (words : Nat := 0) : Req :=
  { via := .can 0 words, session := session, tag := 7, plainCount := 0, atNs := 0 }

/-- A frame that port 0 brings for this module alone, by its MAC address, from a module that is not this one. -/
def aFrame (kind len src seq beat : Nat) : FabHdr :=
  { port := 0, ethDst := ownMac, mac := ownMac + 1, hsrSeq := 0, tagged := false, etherType := 0x88B5, ver := 1, kind := kind
    stamp := false, src := src, dst := 0, string := 0, claim := 0, seq := seq, beat := beat, stampId := 0, len := len, size := len }

/-- It is accepted where nothing came before it. -/
theorem in_aFrame {kind len src seq beat : Nat} {s : State} (h : 1 ≤ kind ∧ kind ≤ 10 ∧ len ≤ 1472 ∧ len % 4 = 0 ∧
    s.fab.hsrSeen = [] ∧ s.fab.paySeen = []) : (fabIn true (aFrame kind len src seq beat) s).1 = true := by
  obtain ⟨h2, h3, h6, h7, h4, h5⟩ := h
  have e2 : kind ≠ 0 := by omega
  have e3 : ¬ 1522 < 14 + 6 + 24 + len + 4 := by omega
  simp [fabIn, fabArrive, aFrame, modPort, modFab, onward, mine, forMe, ownProto, fabAccept, headerOk, lineBytes, h3, h4, h5, h6, h7, e2, e3]

/-- A request of a fabric host. -/
def fabReq : Req := { reqOf 0 with via := .fabric (aFrame 3 12 2 0 0) }
/-! ### Hypotheses that can be met -/

/-- A request that nothing answered before. -/
theorem accepted_of_first {r : Req} {i : Fin 32} {s : State} (h : awake s = true ∧ (heard r (fresh s)).1 = true ∧
    sessionOf r s = some i ∧ s.host.sess[i].outstanding = false ∧ s.host.sess[i].lastTag = none) : Accepted r i s :=
  ⟨h.1, h.2.1, h.2.2.1, h.2.2.2.1, fun p e => by rw [h.2.2.2.2] at e; cases e⟩

theorem meets_Sessions :
    (awake State.reset = true ∧ (heard fabReq (fresh State.reset)).1 = true ∧ plainOk fabReq true = true ∧
      closedSessions State.reset ≠ []) ∧
    (Accepted (reqOf 0) 0 (inMode .blank) ∧ plainOk (reqOf 0) false = true) ∧
    (let s := sess0 { openSess with idle := 10000 } (inMode .run)
     awake s = true ∧ s.host.sess[(0 : Fin 32)].isOpen = true ∧ 10000 ≤ s.host.sess[(0 : Fin 32)].idle) := by
  exact ⟨⟨rfl, in_aFrame (by decide +kernel), rfl, by decide +kernel⟩, ⟨accepted_of_first (by decide +kernel), by decide +kernel⟩, by decide +kernel⟩

/-- A queue of two words. -/
def withQueue (m : Mode) : State :=
  let s := inMode m
  let q : Queue := { (default : Queue) with words := [5, 6] }
  { s with host := { s.host with queues := s.host.queues.set 3 q } }

theorem meets_AccessRequests :
    (Accepted (reqOf 0) 0 (withQueue .stop) ∧ sizeOk (reqOf 0) 2 false = true) ∧
    (headAt (0 : Word).toNat = none ∧ (0 : Word).toNat % 4 = 0 ∧ (blockOf (0 : Word).toNat).isSome = true) ∧
    (∃ a : Word, a.toNat = 0x4000 + 0x20 * (3 : Fin 8).val ∧ (withQueue .stop).host.queues[(3 : Fin 8)].readable 0 = true ∧
      2 ≤ (withQueue .stop).host.queues[(3 : Fin 8)].words.length) ∧
    (Accepted (reqOf 0) 0 (withQueue .stop) ∧ sizeOk (reqOf 0) 0 false = false) ∧
    (Accepted (reqOf 0 (canRoom 2)) 0 (withQueue .stop) ∧ sizeOk (reqOf 0 (canRoom 2)) 2 true = true ∧
      2 ≤ ([1, 2] : List Word).length) ∧
    (writeAll 0 (reqOf 0 (canRoom 2)) 2 [1, 2] 0 0x4000 (modSess 0 (fun x => { x with idle := 0 })
      (atNs 0 (heard (reqOf 0 (canRoom 2)) (fresh (withQueue .stop))).2))).2.2.2.host.sess[(0 : Fin 32)].outstanding = false := by
  exact ⟨⟨accepted_of_first (by decide +kernel), by decide +kernel⟩, by decide +kernel, ⟨0x4060, by decide +kernel⟩,
    ⟨accepted_of_first (by decide +kernel), by decide +kernel⟩,
    ⟨accepted_of_first (by decide +kernel), by decide +kernel, by decide +kernel⟩, by decide +kernel⟩

theorem meets_SingleAccess :
    MayAccess 0 (inMode .safe) ∧ (1 : Word).toNat % 4 ≠ 0 ∧ blockOf (0xFFFFFFFC : Word).toNat = none ∧
    ((0x5010 : Word).toNat % 4 = 0 ∧ (blockOf (0x5010 : Word).toNat).isSome = true ∧ safeOk (0x5010 : Word).toNat 1 (inMode .safe) = false) ∧
    MayAccess 0 (inMode .stop) ∧ (∃ k o, blockOf (0x4004 : Word).toNat = some (k, o) ∧
      (blockWrite 0 none k o (keepFresh 0x4004 0 (inMode .stop)) (inMode .stop)).2.host.sess[(0 : Fin 32)].outstanding = false) ∧
    headAt (0x5010 : Word).toNat = none ∧ 0x1C ∈ latchOf 0x18 := by
  unfold MayAccess
  refine ⟨by decide +kernel, by decide +kernel, by decide +kernel, by decide +kernel, by decide +kernel, ?_, by decide +kernel, by decide +kernel⟩
  exact ⟨_, _, rfl, by decide +kernel⟩

theorem meets_StateCommandWaits : MayAccess 0 (inMode .safe) := by unfold MayAccess; decide +kernel

/-- A safety block that both channels accept: no position, K0 and K1 the main contactors, K2 the precharge contactor. -/
def blockC : List Byte :=
  wordsBytes ([0, 0, 1, 0x403, 0x7A120, 0x3D0900, 0x1770F448, 10, 100, 100, 1000, 1000, 200, 10, 0x64000A, 0x5F5E100, 1000,
    0x2710, 100, 1000] ++ List.replicate 43 0 ++ [0xAF6D897B])

/-- Its complement, under its own CRC. -/
def blockD : List Byte := (blockC.take 0xFC).map (fun b => ~~~ b) ++ wordsBytes [0x5FD43CD8]

/-- The block as a channel reads it. -/
def smallBlock : SafetyBlock := rdSafety blockC.toArray

/-- A calibre without positions and lines, with a logic program without tasks, a watch plan, and a safety block. -/
def smallCal : Calibre :=
  { (default : Calibre) with logic := some default, watch := some default, payloads := [(0x0C, blockC), (0x0D, blockD)] }

/-- A module with this calibre, whose channels judge by its block and are ready to close. -/
def working (m : Mode) (beat ns : Nat) : State :=
  let s := atBeat beat ns (inMode m)
  { s with
    cal := some smallCal
    saf := { s.saf with monitor := true, copyA := some smallBlock, copyB := some smallBlock, toggleOk := true
                        aliveReads := [1, 0], iHeld := some beat, strHeld := some beat } }

/-- One state command of session 0 waits, of the beat before. -/
def commanded (n : Nat) (s : State) : State :=
  let s := sess0 { openSess with crown := true } s
  { s with host := { s.host with cmds := [{ sess := 0, req := none, code := n, beat := 4 }] } }

theorem meets_StateCommandJudged :
    (∀ p ∈ [(Mode.blank, 1), (Mode.loaded, 2), (Mode.stop, 3), (Mode.armed, 4), (Mode.service, 4), (Mode.stop, 5),
        (Mode.run, 6), (Mode.loading, 7), (Mode.run, 5)],
      let s := commanded p.2 (working p.1 5 0)
      awake s = true ∧ tickOf s = 0 ∧ 4 ≠ s.time.beat ∧ s.st.mode ≠ .safe ∧ s.host.sess[(0 : Fin 32)].isOpen = true ∧
      s.host.cmds = [{ sess := 0, req := none, code := p.2, beat := 4 }]) ∧
    (commanded 2 (working .loaded 5 0)).chain.arming = none ∧
    (let s := commanded 3 (working .stop 5 0)
     (lgCfg s).isSome = true ∧ aReady s = true ∧ bReady s = true) ∧
    (commanded 5 (working .stop 5 0)).host.sess[(0 : Fin 32)].crown = true ∧
    (let s := commanded 6 (working .run 5 0)
     closedMask s = 0 ∧ (s.cal.bind (·.watch)).isSome = true) ∧
    (let s := commanded 5 (working .run 5 0)
     (stateCmd 0 5 (fresh { s with host := { s.host with cmds := [] } })).1 = .state) := by decide +kernel

/-- The same module in LOADED with T6 under way since beat 2. -/
def arming (enumErr : Nat) (enumOn : Bool) (c : Calibre) (beat : Nat) : State :=
  let s := atBeat beat 0 (inMode .loaded)
  { s with cal := some c, chain := { s.chain with arming := some 2, enumErr := enumErr, enumOn := enumOn } }

theorem meets_ArmEnds :
    (∀ s ∈ [arming 1 true smallCal 5, arming 0 true default 5, arming 0 true smallCal 5, arming 0 true smallCal 3003,
        arming 0 false smallCal 3002],
      awake s = true ∧ s.st.mode = .loaded ∧ s.chain.arming = some 2 ∧ s.cal.isSome = true) ∧
    (arming 1 true smallCal 5).chain.enumErr ≠ 0 ∧
    linesPassed (passSingles (fresh (arming 0 true default 5))) = true ∧ safetyArmErr default ≠ 0 ∧
    linesPassed (passSingles (fresh (arming 0 true smallCal 5))) = true ∧ safetyArmErr smallCal = 0 ∧
    (arming 0 true smallCal 5).time.beat ≤ 2 + 3000 ∧ 2 + 3000 < (arming 0 true smallCal 3003).time.beat ∧
    (linesPassed (passSingles (fresh (arming 0 false smallCal 3002))) = false ∧
      2 + 3000 ≤ (arming 0 false smallCal 3002).time.beat) := by decide +kernel

theorem meets_SupplyFlags : 15999 < 16000 ∧ (16000 ≤ 16000 ∧ 16000 < 16500) ∧ 16500 ≤ 16500 ∧ 32000 < 32001 ∧
    (31500 < 31501 ∧ 31501 ≤ 32000) ∧ 31500 ≤ 31500 := by decide

/-- A module held after a power fail. -/
def held (s : State) : State := { s with pw := { s.pw with held := true } }

theorem meets_StartsFromReset :
    (awake (working .run 5 0) = true ∧ 11999 < 12000) ∧ (held (inMode .run)).pw.held = true ∧
    (inMode .run).upd.phase ≠ .trial ∧
    ((inMode .storage).pw.held = false ∧ (inMode .storage).st.mode = .storage) ∧
    ((inMode .watch).pw.held = false ∧ (inMode .watch).st.mode = .watch ∧
      ∀ r, (inMode .watch).pw.watch = some r → r.beat = none) := by
  refine ⟨by decide, by decide +kernel, by decide, by decide +kernel, by decide +kernel, by decide +kernel, ?_⟩
  intro r h; cases h

theorem meets_BeatBegins : awake (inMode .blank) = true := by decide +kernel

/-- A ledger with one item of engine 3, and the same with that item released. -/
def withItem (released : List (Nat × Nat)) : State :=
  let s := working .run 5 0
  let it : LedgerItem := { (default : LedgerItem) with engine := 3, release := 100, deadline := 300, budget := 50, period := 1, prev := false }
  { s with cal := some { smallCal with items := [it], ledgerLen := 10 }
           time := { s.time with engines := s.time.engines.set 3 { (default : Engine) with released := released, clock := !released.isEmpty } } }

theorem meets_Escapement :
    (let s := withItem []
     awake s = true ∧ s.st.mode.fromArmed = true ∧ ∃ it, itemAt s 0 = some it ∧ it.engine < 11 ∧ itemDue s it = true ∧
      tickOf s ≤ it.release ∧ (engineAt s it.engine).released.any (fun x => x.1 == 0) = false ∧ hadTurn (.release 0) s = false) ∧
    ((withItem [(0, 50)]).time.engines[(3 : Fin 11)].released = (0, 50) :: [] ∧ 50 ≤ 50) ∧
    (∃ it, itemAt (withItem [(0, 50)]) 0 = some it ∧ it.engine = (3 : Fin 11).val) ∧ MayWrite 0 (inMode .stop) := by
  unfold MayWrite MayAccess
  exact ⟨⟨by decide +kernel, by decide +kernel, _, rfl, by decide +kernel⟩, by decide +kernel, ⟨_, rfl, by decide⟩, by decide +kernel⟩

/-! ### Time and loading -/

/-- The steering domain follows another clock, with an offset already removed; `locked` for the other domain. -/
def timed (m : Mode) (locked : Bool) : State :=
  let s := working m 5 0
  let d : Dom := { (default : Dom) with locked := locked }
  { s with time := { s.time with dom := s.time.dom.set 1 d } }

theorem meets_SyncReceives :
    (let s := timed .run false
     awake s = true ∧ s.time.dom[(0 : Fin 2)].self = false ∧ s.st.mode.fromArmed = true ∧ s.time.steer = 0 ∧
      10000000 < (10000001 - s.time.asymUsed[(0 : Fin 3)]).natAbs) ∧
    (let s := timed .loaded false
     awake s = true ∧ s.time.dom[(0 : Fin 2)].self = false ∧ s.st.mode.fromArmed = false ∧ s.time.timeFault = false ∧
      s.time.steer = 0 ∧ 1000 < (1001 - s.time.asymUsed[(0 : Fin 3)]).natAbs) := by decide +kernel

/-- A domain switch to domain 1 waits, and port 0 has a link. -/
def switching (locked : Bool) : State :=
  let s := timed .run locked
  let d : Dom := { s.time.dom[(0 : Fin 2)] with self := true }
  let p : PortSt := { (default : PortSt) with link := true }
  { s with time := { s.time with switchTo := some 1, dom := s.time.dom.set 0 d }, fab := { s.fab with port := s.fab.port.set 0 p } }

theorem meets_TimeDomains :
    (∀ b ∈ [false, true], awake (switching b) = true ∧ (switching b).time.switchTo = some 1 ∧ (switching b).time.steer ≠ 1 ∧
      tickOf (switching b) = 0 ∧ (switching b).time.switchBeat ≠ (switching b).time.beat ∧
      (switching b).time.dom[(1 : Fin 2)].self = false ∧ (switching b).time.dom[(1 : Fin 2)].locked = b) ∧
    (switching true).time.dom[(0 : Fin 2)].self = true ∧ (switching true).fab.port[(0 : Fin 3)].link = true ∧
    (∀ b ∈ [false, true], MayWrite 0 (switching b) ∧ wBit 1 1 = (switching b).time.autoSwitch ∧ wBit 1 0 = true) := by
  unfold MayWrite MayAccess; decide +kernel

/-- Trigger 1 or 3 armed in beat 4 for the start of beat 5, one of two beats later. -/
def armed (k : Fin 4) (beat : Nat) : State :=
  let s := working .run beat 0
  let t : Trig := { (default : Trig) with arm := true, target := 5000000 }
  { s with time := { s.time with trg := s.time.trg.set k t } }

/-- Port 2 holds n stamps. -/
def stamped (n : Nat) : State :=
  let s := working .run 5 0
  let q : Tsq := { (default : Tsq) with items := (List.range n).map (fun i => { id := i, ns := 0, sec := 0 }) }
  { s with time := { s.time with tsq := s.time.tsq.set 2 q } }

theorem meets_TriggersAndStamps :
    (MayWrite 0 (working .run 5 0) ∧ (working .run 5 0).time.trg[(1 : Fin 4)].arm = false) ∧
    (∀ p ∈ [((1 : Fin 4), 5), (3, 5), (1, 7)],
      let s := armed p.1 p.2
      awake s = true ∧ tickOf s = 0 ∧ s.time.trg[p.1].arm = true ∧ s.time.trg[p.1].armedNow = false ∧
      s.time.trg[p.1].target ≤ s.time.beat * 1000000 ∧ runningOf 0x12 s = []) ∧
    (stamped 7).time.tsq[(2 : Fin 3)].items.length < 8 ∧ 8 ≤ (stamped 8).time.tsq[(2 : Fin 3)].items.length ∧
    (∃ x r, (stamped 8).time.tsq[(2 : Fin 3)].items = x :: r ∧ x.id = (0 : Word).toNat % 65536 ∧ x.id ≠ (1 : Word).toNat % 65536) ∧
    (stamped 8).fab.silenced = false := by
  unfold MayWrite MayAccess
  exact ⟨by decide +kernel, by decide +kernel, by decide +kernel, by decide +kernel, ⟨_, _, rfl, by decide⟩, by decide +kernel⟩

/-- A load of n words under way, its newest word `idle` beats ago. -/
def loading (owner : Option (Fin 32)) (n idle : Nat) : State :=
  let s := inMode .loading
  { s with ldr := { s.ldr with owner := owner, words := List.replicate n 0, receiving := true, idleBeats := idle } }

theorem meets_ImageWords :
    (MayWrite 0 (inMode .blank) ∧ (inMode .blank).st.mode = .blank ∧ (inMode .blank).pw.lc ≠ .scrapped) ∧
    (MayWrite 0 (loading (some 0) 10 10000) ∧ (loading (some 0) 10 10000).st.mode = .loading ∧
      (loading (some 0) 10 10000).ldr.owner = some 0 ∧ (loading (some 0) 10 10000).ldr.words.length < 11 ∧
      10000 ≤ (loading (some 0) 10 10000).ldr.idleBeats) ∧
    (MayWrite 0 (loading (some 1) 10 0) ∧ (loading (some 1) 10 0).ldr.owner ≠ some 0) := by
  unfold MayWrite MayAccess; decide +kernel

/-- An image of one section and no more whose checks are under way, or have passed in beat 4. -/
def loadChecked (passed : Option Nat) : State :=
  let s := atBeat 5 0 (inMode .loading)
  { s with ldr := { s.ldr with owner := some 0, words := List.replicate 12 0, checking := true, passed := passed } }

theorem meets_LoadEnds :
    (awake (loadChecked none) = true ∧ (loadChecked none).st.mode = .loading ∧ (loadChecked none).ldr.checking = true ∧
      (loadChecked none).ldr.passed = none) ∧
    (awake (loadChecked (some 4)) = true ∧ (loadChecked (some 4)).st.mode = .loading ∧ (loadChecked (some 4)).ldr.passed = some 4 ∧
      4 ≠ (loadChecked (some 4)).time.beat ∧ tickOf (loadChecked (some 4)) = 0) := by decide +kernel

/-- A module with section 0x0F of four bytes, one entry written for it and a batch that waits, if one is given. -/
def batched (m : Mode) (b : Option Batch) : State :=
  let s := atBeat 5 0 (inMode m)
  { s with
    cal := some { (default : Calibre) with payloads := [(15, [0, 0, 0, 0])], logic := some { (default : LogicCfg) with
      tasks := [{ (default : TaskCfg) with cycle := 1 }] } }
    ldr := { s.ldr with batch := b, onSel := 0x0F000000 :: List.replicate 15 0, onVal := 5 :: List.replicate 15 0 } }

/-- A batch of the beat before. -/
def aBatch (pending : Bool) : Batch := { (default : Batch) with sect := 15, entries := [(0, 5)], atBoundary := pending, beat := 4 }

theorem meets_SectionChanges :
    (MayWrite 0 (inMode .stop) ∧ (inMode .stop).st.mode = .stop ∧ (inMode .stop).ldr.repl = none) ∧
    (MayWrite 0 (inMode .run) ∧ (inMode .run).st.mode ≠ .stop) ∧
    (∃ s : State, awake s = true ∧ s.ldr.repl = some [] ∧ s.cal = some smallCal ∧ s.ldr.checking = true) ∧
    (MayWrite 0 (batched .run none) ∧ goResult (1 : Fin 32).val (batched .run none) = .ok ∧
      goResult (0 : Fin 32).val (batched .run none) ≠ .ok) ∧
    (MayWrite 0 (batched .run (some (aBatch false))) ∧ (batched .run (some (aBatch false))).ldr.batch = some (aBatch false) ∧
      (batched .run (some (aBatch false))).lg.taskConsts = [] ∧ (aBatch false).beat ≠ 5 ∧ (aBatch false).sect ≠ 14 ∧
      tickOf (batched .run (some (aBatch false))) = 0) ∧
    (awake (batched .run (some (aBatch true))) = true ∧ effectNow (aBatch true) (batched .run (some (aBatch true))) = true) ∧
    (∃ c, taskCfg (batched .run none) (0 : Fin 8).val = some c ∧ (batched .run none).time.beat % c.cycle = 0) := by
  unfold MayWrite MayAccess
  refine ⟨by decide +kernel, by decide +kernel, ?_, by decide +kernel, by decide +kernel, by decide +kernel, ⟨_, rfl, by decide +kernel⟩⟩
  exact ⟨{ working .stop 5 0 with ldr := { Ldr.reset with repl := some [], checking := true } }, by decide +kernel, rfl, rfl, rfl⟩

/-! ### The chain -/

/-- One line with one node of one position, one temperature point and one tap, in use from the given ends. -/
def chainCal (ends : Nat) : Calibre :=
  let n : NodeMap := { (default : NodeMap) with posMask := 1, tempMask := 1, tapCh := 4 }
  let m : ChainMap := { (default : ChainMap) with nPos := 1, lines := 1, ends := ends, nodes := [n] }
  { smallCal with chain := m, taps := [[{ mux := 9, ftc := 0, rfuse := 100 }]] }

/-- A module with this chain, its line and the record of its node as given. -/
def chained (m : Mode) (ends beat ns : Nat) (x : Line) (r : NodeM) : State :=
  let s := working m beat ns
  { s with cal := some (chainCal ends), chain := { s.chain with line := s.chain.line.set 0 x, node := s.chain.node.set 0 r } }

/-- A node that is found. -/
def found : NodeM := { (default : NodeM) with found := true, present := true }

/-- A line at a step of its enumeration. -/
def lineStep (e : EnumStep) (waited hop nodes : Nat) : Line :=
  { (default : Line) with step := e, waited := waited, nextHop := hop, nodes := nodes }

/-- A stimulus that waits to be commanded: a burst at position 0, and a lock-in at node 0. -/
def aBurst : Burst := { pos := 0, bin := 31, ampl := 100, cycles := 8, start := 55, stop := 60 }
/-- The lock-in. -/
def aLockin : LockRun := { addr := 0, bins := 0, mask := 1, start := 60 }
/-- Both wait, and a stop of all stimulus of line 0 too. -/
def stimulating : State :=
  let s := chained .run 1 5 0 (lineStep .passed 0 1 1) found
  { s with spec := { s.spec with toSend := [aBurst], lockToSend := [aLockin], stimStop := 1 } }

/-- What R100 asks of a node in step 3, so far: its READ_ID, its delay from end E, its wires. -/
def judged (id delay wires : Bool) : NodeM :=
  { found with idRead := id, newE := if delay then some 5 else none, senseSent := wires, senseDone := wires }

theorem meets_ChainCommands :
    (let s := chained .run 1 5 0 (lineStep .waiting 3 0 0) found
     cmdFree (0 : Fin 4).val s = true ∧ (lineAt s 0).step = .waiting ∧ 3 ≤ (lineAt s 0).waited) ∧
    (let s := chained .run 1 5 0 (lineStep .assigning 0 15 0) { found with assign := true }
     cmdFree (0 : Fin 4).val s = true ∧ (lineAt s 0).step = .assigning ∧ (lineAt s 0).cmds = 0 ∧ (lineAt s 0).nextHop < 16 ∧
      (0 : Fin 64).val / 16 = (0 : Fin 4).val ∧ (nodeRec s 0).assign = true) ∧
    (cmdFree (0 : Fin 4).val stimulating = true ∧ stimulating.spec.stimStop.testBit (0 : Fin 4).val = true) ∧
    (∀ p ∈ [(judged false false false, 0), (judged true true false, 1), ({ judged true true false with senseSent := true }, 2)],
      let s := chained .run 1 5 0 (lineStep .checking 0 1 1) p.1
      let r := nodeRec s (0 : Fin 64).val
      cmdFree ((0 : Fin 64).val / 16) s = true ∧ checkingNode s 0 = true ∧ (p.2 = 0 → r.idRead = false) ∧
      (p.2 = 1 → r.idRead = true ∧ ownDelays s 0 = true ∧ r.senseDone = false) ∧ (p.2 = 2 → r.senseSent = true ∧ r.senseDone = false) ∧
      r.found = true ∧ r.assign = false ∧ r.diagBeat.map (fun b => b / 1000) ≠ some (s.time.beat / 1000)) ∧
    (let s := chained .run 1 5 0 (lineStep .checking 0 1 1) (judged true true true)
     cmdFree ((0 : Fin 64).val / 16) s = true ∧ checked s (0 : Fin 64).val = true ∧ (nodeRec s (0 : Fin 64).val).newE.isSome = true) ∧
    (let s := chained .run 1 5 0 (lineStep .passed 0 1 1) found
     let r := nodeRec s (0 : Fin 64).val
     cmdFree ((0 : Fin 64).val / 16) s = true ∧ checked s (0 : Fin 64).val = true ∧ r.newE = none ∧ r.newW = none ∧
      ((tapPlanOf s 0).drop r.planNext).take 120 ≠ [] ∧ holder s = true ∧ s.st.mode.fromArmed = true ∧ r.found = true) ∧
    (cmdFree ((0 : Fin 64).val / 16) stimulating = true ∧ holder stimulating = true ∧
      aBurst ∈ stimulating.spec.toSend ∧ aBurst.start % 65536 = 55 ∧ stimulating.time.beat < aBurst.start ∧
      aBurst.start ≤ stimulating.time.beat + 50) ∧ (∃ n, placeOf stimulating aBurst.pos = some (n, 0, (0 : Fin 64).val)) ∧
    (∃ k ∈ stimulating.spec.lockToSend, k.addr = (0 : Fin 64).val ∧ k.bins = 0 ∧ k.mask = 1 ∧ k.start % 65536 = 60) ∧
    (∀ k ∈ stimulating.spec.lockToSend, k.addr = (0 : Fin 64).val → stimulating.time.beat < k.start) := by
  refine ⟨by decide +kernel, by decide +kernel, by decide +kernel, by decide +kernel, by decide +kernel, by decide +kernel,
    by decide +kernel, ⟨_, rfl⟩, by decide +kernel, by decide +kernel⟩

/-- ENTER_STORAGE waits. -/
def sleeping : State := commanded 1 (chained .loaded 1 5 0 (lineStep .passed 0 1 1) found)

theorem meets_ChainFrames :
    (let s := chained .run 1 5 20500 (lineStep .passed 0 1 1) found
     e8On s = true ∧ s.time.ns ≤ 20500 ∧ hadTurn .beatFrame s = false ∧ hadTurn .probeFrame s = false ∧
      (inPair s && s.fab.pair.yielded) = false ∧ tickOf s ≤ 144 ∧ lineUsed s 0 = true ∧ lineUsed s 1 = false ∧
      ((probesDue s 0)[(lineAt s 0).probeIdx % max 1 (probesDue s 0).length]?).isSome = true) ∧
    (awake sleeping = true ∧ sleeping.host.cmds.any (fun c => c.code == 1 || c.code == 6) = true ∧
      windowFree (0 : Fin 4).val sleeping = true ∧ (lineAt sleeping (0 : Fin 4).val).slept = false) := by decide +kernel

/-- Enumeration is under way. -/
def enumerating (s : State) : State := { s with chain := { s.chain with enumOn := true } }

/-- The head of a whole frame of a TYPE from node 0, with its CRC. -/
def nodeHead (typ seq tick : Nat) (payload : List Byte) : ChainHdr :=
  { line := 0, fromEnd := .e, tick := tick, typ := typ, addr := 0, len := payload.length / 4, hops := 0, claim := 0, seq := seq
    crc := frameCrc typ 0 (payload.length / 4) 0 seq payload }

/-- An ECHO of it. -/
def anEcho : ChainHdr := nodeHead 7 0 152 []

theorem meets_LineEvents :
    (∀ x ∈ [lineStep .assigning 10 1 0, lineStep .assigning 0 16 0, lineStep .assigning 10 0 0],
      let s := chained .run 1 5 0 x found
      e8On s = true ∧ (lineAt s 0).step = .assigning ∧ (10 ≤ (lineAt s 0).waited ∨ 16 ≤ (lineAt s 0).nextHop)) ∧
    (∀ r ∈ [0, 1], let s := chained .run 3 5 40000 { lineStep .passed 0 1 1 with missRun := r, checkBeat := some 4 } found
     e8On s = true ∧ farOwned s (0 : Fin 4).val = true ∧ s.st.mode.fromArmed = true ∧ tickOf s ≤ 16 ∧
      hadTurn (.passCheck (0 : Fin 4).val) s = false ∧ (lineAt s 0).checkBeat = some (s.time.beat - 1) ∧ (lineAt s 0).missRun = r) ∧
    (let s := chained .run 3 1000 0 { lineStep .passed 0 1 1 with split := true, passRun := 1000, checkBeat := some 999 } found
     e8On s = true ∧ (lineAt s 0).split = true ∧ 1000 ≤ (lineAt s 0).passRun ∧
      ((lineAt s 0).checkBeat == some (s.time.beat - 1)) = true ∧ s.time.beat % 1000 = 0 ∧ tickOf s ≤ 8 ∧
      hadTurn .beatFrame s = false) ∧
    (∀ n ∈ [62, 63],
     let s := chained .run 1 5 380000 { lineStep .passed 0 1 1 with probe := some (0, .e) } { found with setE := { ProbeSet.empty with n := n } }
     e8On s = true ∧ anEcho.line = 0 ∧ hears anEcho s = true ∧ frameOk 7 anEcho [] = true ∧ anEcho.addr < 64 ∧
      (lineAt s 0).probe = some (anEcho.addr, anEcho.fromEnd) ∧ anEcho.tick ≤ 152 ∧ tickOf s ≤ 152 ∧
      ((nodeRec s anEcho.addr).setOf anEcho.fromEnd).n = n ∧ frameOk 7 { anEcho with crc := anEcho.crc + 1 } [] = false ∧
      (lineAt s 0).probe = some ((0 : Fin 64).val, .e) ∧ s.st.mode.fromArmed = true) ∧
    (let s := enumerating (chained .loaded 1 5 380000 { lineStep .checking 0 1 1 with probe := some (0, .e) } found)
     e8On s = true ∧ (lineAt s 0).probe = some ((0 : Fin 64).val, .e) ∧ s.st.mode.fromArmed = false) := by decide +kernel

/-- A command of this beat that a reply may answer. -/
def asked (op addr : Nat) (e : EnumStep) : State :=
  let s := chained .run 1 5 0 (lineStep e 0 0 1) { found with uid := 77 }
  { s with chain := { s.chain with cmdsOut := [{ seq := 3, line := 0, addr := addr, op := op, args := [0], done := false }] } }

/-- The estimators run. -/
def estimating (s : State) : State :=
  { s with est := { s.est with running := true }, lim := { s.lim with estRuns := true } }

/-- A RESULT and an AUX with nothing in them. -/
def noResult : ResultBody := { nstat := 0, suspect := 0, vpos := [] }
/-- The AUX. -/
def noAux : AuxBody := { tflagNew := false, taps := [], temps := [] }

/-- The data of replies of Table 04-8, by OP. -/
def someReply : Nat → ReplyData
  | 2 => .assign 77 1 1 0 true
  | 4 => .id 77 1 1 0 true 1 1
  | 8 => .sense true [1, 2]
  | 13 => .diag 1 2 3 4 5
  | 11 => .lockin true 1 0 50000 0
  | _ => .none

theorem meets_ChainReceives :
    (let s := chained .run 1 5 825000 (lineStep .passed 0 1 1) found
     let h := nodeHead 4 5 210 (resultBytes noResult)
     hears h s = true ∧ frameOk 4 h (resultBytes noResult) = true ∧ resultOk h noResult s = true ∧ resultOk { h with tick := 209 } noResult s = false ∧
      frameOk 4 { h with claim := 1 } (resultBytes noResult) = false) ∧
    (let s := chained .run 1 5 350000 (lineStep .passed 0 1 1) found
     let h := nodeHead 5 4 140 (auxBytes noAux)
     hears h s = true ∧ frameOk 5 h (auxBytes noAux) = true ∧ auxOk h s = true ∧ auxOk { h with fromEnd := .w } s = false ∧
      frameOk 5 { h with len := 1 } (auxBytes noAux) = false) ∧
    (∀ u ∈ [77, 78],
     let s := asked 4 0 .passed
     let h := nodeHead 8 3 160 (announceBytes u 1 1)
     hears h s = true ∧ frameOk 8 h (announceBytes u 1 1) = true ∧ frameOk 8 { h with typ := 9 } (announceBytes u 1 1) = false ∧
      s.st.mode.fromArmed = true ∧ 160 ≤ h.tick ∧ h.tick ≤ 186 ∧ announced h u s = if u = 77 then some 0 else none) ∧
    (∀ p ∈ [(2, 0, 0xFF), (4, 0, 0), (8, 0, 0), (13, 0, 0), (11, 0, 0), (2, 1, 0xFF)],
     let s := asked p.1 p.2.2 .assigning
     let h := nodeHead 6 3 340 (replyBytes p.1 p.2.1 (someReply p.1))
     hears h s = true ∧ h.addr < 64 ∧ frameOk 6 h (replyBytes p.1 p.2.1 (someReply p.1)) = true ∧
      frameOk 6 { h with crc := h.crc + 1 } (replyBytes p.1 p.2.1 (someReply p.1)) = false ∧ answered { h with seq := 4 } p.1 p.2.1 s = none ∧
      ((answered h p.1 p.2.1 s).map (fun c => (c.addr, c.args)) = some (p.2.2, [0])) ∧ (lineAt s 0).step = .assigning) ∧
    (lockResult 1 0 50000 0).isSome = true ∧ (∃ n, mapNode (asked 11 0 .passed) 0 = some n ∧ n.stringPos 0 = some 0) ∧
    (let s := estimating (chained .run 1 5 825000 (lineStep .passed 0 1 1) found)
     awake s = true ∧ s.st.mode.fromArmed = true ∧ s.est.running = true ∧ tickOf s ≤ 330 ∧ hadTurn .commit s = false ∧
      hadTurn .commit (takeTurn .commit s) = true) := by
  refine ⟨by decide +kernel, by decide +kernel, by decide +kernel, by decide +kernel, by decide +kernel, ⟨_, rfl, rfl⟩, by decide +kernel⟩

/-- One node at line 0, hop 0. -/
def withNode (beat ns : Nat) (n : NodeS) : State := { atBeat beat ns State.reset with nodes := [n] }

/-- A sample it has taken. -/
def aSample : NodeTaken := { (default : NodeTaken) with beat := 5 }

/-- A node with an address, the frames of this beat and the last, and a sample. -/
def sampling : NodeS :=
  { (default : NodeS) with
    addr := some 0, prevE := some { (default : HeldBeat) with beat := 4 }, fromE := some { (default : HeldBeat) with beat := 5 }
    taken := some aSample }

/-- A BEAT frame, its CRC as given above what is right. -/
def aBeat (wrong : Nat) : NodeBeat :=
  { (default : NodeBeat) with crc := frameCrc 1 0xFF 12 0 0 (beatBytes 0 0 false false false []) + wrong }

theorem meets_Nodes :
    (nodeAt (withNode 0 0 default) (0 : Fin 4).val (0 : Fin 16).val = some default ∧ (default : NodeS).asleep = false ∧
      beatIntact (aBeat 0) = true ∧ beatIntact (aBeat 1) = false ∧ (default : NodeS).held ≤ (aBeat 0).claim ∧
      (default : NodeS).followW = ((aBeat 0).fromEnd == .w) ∧ (aBeat 0).claim < { (default : NodeS) with held := 1 }.held) ∧
    (nodeAt (withNode 0 0 { (default : NodeS) with asleep := true, waking := true }) 0 0 =
      some { (default : NodeS) with asleep := true, waking := true }) ∧
    (let s := withNode 2000 0 default
     (spanEnd (default : NodeS).heldAt 3000000 s).isSome = true ∧ (spanEnd (default : NodeS).beatAt 5000000 s).isSome = true ∧
      (spanEnd (default : NodeS).beatAt 2000000000 s).isSome = true) ∧
    (let s := withNode 0 0 default
     (spanEnd (default : NodeS).heldAt 3000000 s).isSome = false ∧ (spanEnd (default : NodeS).beatAt 5000000 s).isSome = false ∧
      (spanEnd (default : NodeS).beatAt 2000000000 s).isSome = false) ∧
    (let s := withNode 5 500000 sampling
     nodeAt s (0 : Fin 4).val (0 : Fin 16).val = some sampling ∧ sampling.asleep = false ∧ tickOf s ≤ 200 ∧
      hadTurn (.sample (0 : Fin 4).val (0 : Fin 16).val) s = false ∧ sampling.addr = some 0 ∧
      (sampling.pair s.time.beat).isSome = true ∧ sampling.pair (s.time.beat + 1) = none ∧ sampling.taken = some aSample ∧
      aSample.resultSent = false ∧ aSample.beat = s.time.beat ∧ slotFree sampling.resultNs s = true) ∧
    (let s := withNode 6 20000 sampling
     aSample.auxSent = false ∧ aSample.beat + 1 = s.time.beat ∧ slotFree sampling.auxNs s = true ∧ aSample.beat ≠ s.time.beat) ∧
    (let s := withNode 5 990000 sampling
     slotFree sampling.resultNs s = false ∧ aSample.beat + 1 ≠ s.time.beat) ∧
    (let n := { sampling with addr := none, resetSelf := true }
     let s := withNode 5 400000 n
     n.addr = none ∧ n.resetSelf = true ∧ n.inStep s.time.beat = true ∧
      n.announced.map (fun b => b / 1000) ≠ some (s.time.beat / 1000) ∧ tickOf s ≤ 186) := by decide +kernel

/-! ### Measurement, spectroscopy and estimation -/

theorem meets_FrontEnd :
    (let s := working .loaded 5 0
     awake s = true ∧ s.st.mode.fromLoaded = true ∧ gainBeat s = false ∧ tickOf s ≤ 20 ∧ hadTurn .charge s = false ∧
      hadTurn .charge (takeTurn .charge s) = true) ∧
    gainBeat (working .run 500 0) = true ∧
    (∃ x : FeSample, (let s := working .loaded 5 0
      { s with meas := { s.meas with stream := s.meas.stream.set 4 (some x) } }).meas.stream[(4 : Fin 8)] = some x) := by
  exact ⟨by decide +kernel, by decide +kernel, default, rfl⟩

/-- An accord window of n beats, and an insulation cycle in a phase since a beat. -/
def measuring (beat n : Nat) (phase : Option (Nat × Nat)) (snap : Bool) : State :=
  let s := working .run beat 0
  { s with meas := { s.meas with
      acc := { s.meas.acc with win := { s.meas.acc.win with n := n } }
      ins := { s.meas.ins with phase := phase, nextDue := 5 }, snapPending := snap } }

/-- A fabric identity: ring 1, bank 2, role as given, and its partner. -/
def fabricCal (addr role : Nat) : Calibre :=
  { chainCal 3 with
    chain := { (chainCal 3).chain with ownEnd := 1 }
    fab := { (default : FabCfg) with addr := addr, ring := 1, bank := 2, role := role, claim := 5, partnerAddr := 1030 } }

/-- The module with it, and its fabric block as given. -/
def fabric (m : Mode) (addr role beat ns : Nat) (f : Fab → Fab) : State :=
  let s := chained m 3 beat ns (lineStep .passed 0 1 1) found
  { s with cal := some (fabricCal addr role), fab := f { s.fab with addr := addr, addrValid := addr != 0 } }

theorem meets_AccordAndInsulation :
    (∀ n ∈ [499, 500], let s := measuring 1000 n none false
      awake s = true ∧ s.st.mode.fromArmed = true ∧ s.time.beat % 1000 = 0 ∧ tickOf s ≤ 330 ∧ hadTurn .commit s = false ∧
      hadTurn .accord s = false ∧ hadTurn .accord (takeTurn .accord s) = true ∧ s.meas.acc.win.n = n) ∧
    (let s := measuring 5 0 none false
     awake s = true ∧ s.st.mode.fromLoaded = true ∧ s.meas.ins.phase = none ∧ s.meas.ins.nextDue ≤ s.time.beat ∧ measuresIns s = true) ∧
    (let s := fabric .run 1025 1 102 0 id
     awake s = true ∧ measuresIns s = false) ∧
    (∀ p ∈ [1, 2], let s := measuring 600 0 (some (p, 100)) false
      measuresIns s = true ∧ 100 + 500 ≤ s.time.beat ∧ s.time.beat ≤ 100 + 10000 ∧ s.meas.ins.phase = some (p, 100)) ∧
    (let s := measuring 10100 0 (some (1, 100)) false
     s.meas.ins.phase = some (1, 100) ∧ 100 + 10000 ≤ s.time.beat) ∧
    (MayWrite 0 (measuring 5 0 none false) ∧ wBits ((0x700 : Word) ||| b31) 11 8 ≤ 7 ∧
      (measuring 5 0 none false).meas.snapPending = false) ∧
    (let s := measuring 5 0 none true
     let t := takeTurn .commit { s with meas := { s.meas with alignedE := some { beat := 5, fe := default } } }
     awake t = true ∧ t.meas.snapPending = true ∧ tickOf t ≤ 330 ∧ snapReady t = true) := by
  unfold MayWrite MayAccess; decide +kernel

/-- Eighty beats are kept, of one position that is VALID throughout; a burst has ended with them. -/
def windowed : State :=
  let s := atBeat 80 0 (chained .run 1 80 0 (lineStep .passed 0 1 1) found)
  let r : Nat → BeatRec := fun b => { (default : BeatRec) with beat := b, pos := [(3000000, .valid)] }
  { s with spec := { s.spec with hist := ((List.range 80).map r).reverse, pos := [PosSpec.start], bursts := [{ aBurst with start := 70, stop := 79 }] } }

theorem meets_SpectrumWindows :
    awake windowed = true ∧ windowed.st.mode.fromArmed = true ∧ windowed.time.beat % winHop (30 : Fin 31).val = 0 ∧
    winLen (30 : Fin 31).val ≤ windowed.time.beat ∧
    tickOf windowed ≤ 330 ∧ hadTurn (.window (30 : Fin 31).val) windowed = false ∧ workStopped .window 0 windowed = false ∧
    (windowOf windowed (windowed.time.beat - winLen 30) (winLen 30)).isSome = true ∧ 0 < windowed.spec.pos.length ∧
    windowOf { windowed with spec := { windowed.spec with hist := [] } } (windowed.time.beat - winLen 30) (winLen 30) = none ∧
    (∃ b, windowed.spec.bursts.find? (fun b => b.pos == (0 : Fin 1024).val && decide (b.stop < windowed.time.beat)) = some b ∧
      ((windowOf windowed b.start (b.stop + 1 - b.start)).map (fun l => (posSeries 0 l).all (fun x => x.2 == .valid) && l.all (fun r => !r.fe.iBad))) = some true) := by
  exact ⟨by decide +kernel, by decide +kernel, by decide +kernel, by decide +kernel, by decide +kernel, by decide +kernel, by decide +kernel,
    by decide +kernel, by decide +kernel, by decide +kernel, _, rfl, by decide +kernel⟩

/-- Chime and lock-in are planned, and a stimulus request is kept. -/
def planning (beat ns : Nat) (campaigns : List (Nat × Nat)) (running : List (Nat × Nat × Nat)) : State :=
  let s := chained .run 1 beat ns (lineStep .passed 0 1 1) { found with senseDone := true }
  let c : SpecCfg := { sources := 15, snapMin := 1, chimeI := 100, chimeCyc := 8, reqAmpl := 1, reqBins := 1, lockinBins := 1 }
  { s with
    cal := some { chainCal 1 with spec := some c }
    meas := { s.meas with pos := [{ PosM.start with held := 3000000 }] }
    spec := { s.spec with nextRound := 100, campaigns := campaigns, running := running, pos := [PosSpec.start]
                          slots := List.replicate 16 default } }

theorem meets_StimulusAndSlots :
    (let s := planning 0 0 [] []
     plansStim s = true ∧ s.spec.toSend = [] ∧ s.spec.nextRound ≤ s.time.beat + 100 ∧
      roundBursts s s.spec.round (upTo 100 (max s.spec.nextRound (s.time.beat + 50))) ≠ []) ∧
    (let s := planning 0 0 [] [(0, 0, 1000)]
     let b := upTo 100 (max s.spec.nextRound (s.time.beat + 50))
     campaignMeets s b (((roundBursts s s.spec.round b).map (·.stop)).foldl max b) = true) ∧
    (let s := planning 900 0 [(0, 1000)] []
     plansStim s = true ∧ s.spec.campaigns = (0, 1000) :: [] ∧ s.spec.running.length ≤ 1 ∧ 1000 ≤ s.time.beat + 100 ∧ 10 ≤ ageMax s) ∧
    (let s := planning 2000 0 [] [(0, 1000, 2000)]
     awake s = true ∧ s.spec.running = (0, 1000, 2000) :: [] ∧ 2000 ≤ s.time.beat) ∧
    (let s := planning 0 0 [] []
     requests s = true ∧ nextReqBin (specCfg s).reqBins s.spec.lastBin = some 0 ∧
      s.spec.dwell.all (fun d => decide (d.stop ≤ s.time.beat)) = true ∧ s.time.beat % winHop 0 = 0) ∧
    (let s := planning 60000 825000 [] []
     awake s = true ∧ s.st.mode.fromArmed = true ∧ s.time.beat % snapInterval s = 0 ∧ tickOf s ≤ 330 ∧
      hadTurn .spectrum s = false ∧ s.spec.slots.length = 16) ∧
    (let s := planning 60101 825000 [] []
     s.time.beat % 100 = 1 ∧ tickOf s ≤ 330 ∧ hadTurn .derived s = false ∧ 0 < s.spec.pos.length ∧ workStopped .derived 0 s = false) ∧
    (∃ x : Slot, x.st = 1 ∧ x.seq = 0 ∧ ((planning 0 0 [] []).spec.slots.set 0 x)[0 % 16]? = some x) := by
  refine ⟨by decide +kernel, by decide +kernel, by decide +kernel, by decide +kernel, by decide +kernel, by decide +kernel,
    by decide +kernel, { (default : Slot) with st := 1 }, by decide +kernel⟩

/-- The estimators run over one position whose newest committed beat is given. -/
def filtering (f : Filter) (newest beat ns : Nat) : State :=
  let s := estimating (chained .run 1 beat ns (lineStep .passed 0 1 1) found)
  { s with
    est := { s.est with filters := [f] }
    spec := { s.spec with hist := [{ (default : BeatRec) with beat := newest, pos := [(3000000, .valid)] }] }
    meas := { s.meas with pos := [{ PosM.start with code := .valid }] } }

theorem meets_Estimator :
    stepOpen (0 : Fin 1024).val (filtering default 4 5 0) = false ∧
    (∀ f ∈ [(default : Filter), { (default : Filter) with started := true, lastBeat := 3 },
        { (default : Filter) with started := true, lastBeat := 4 }],
      let s := takeTurn .charge (filtering f 4 5 0)
      stepOpen (0 : Fin 1024).val s = true ∧ (lastRec s).map (·.beat) = some 4 ∧ s.est.filters[(0 : Fin 1024).val]? = some f) ∧
    (let s := filtering { (default : Filter) with svN := 2 } 999 1000 0
     awake s = true ∧ s.st.mode.fromArmed = true ∧ s.est.running = true ∧ s.time.beat % 1000 = 0 ∧ s.time.beat % 100 = 0 ∧
      tickOf s ≤ 330 ∧ hadTurn .second s = false ∧ hadTurn .warning s = false ∧ workStopped .warning 0 s = false ∧
      (∀ x ∈ [Turn.second, .warning, .hour], hadTurn x (takeTurn x s) = true)) ∧
    (let s := filtering default 5 3600000 0
     s.est.t6Beat < s.time.beat ∧ (s.time.beat - s.est.t6Beat) % 3600000 = 0 ∧ hadTurn .hour s = false) ∧
    MayWrite 0 (filtering default 5 5 0) := by
  unfold MayWrite MayAccess; decide +kernel

/-- A seed is staged, in a module with one position. -/
def seeding (m : Mode) (socU : Nat) : State :=
  let s := filtering default 5 5 0
  { s with st := { s.st with mode := m }, est := { s.est with seedSoc := 500000, seedSocU := socU, seedQ := 0, seedQU := 1 } }

theorem meets_SeedResults :
    (∀ s ∈ [seeding .run 1, seeding .loaded 0, seeding .loaded 1], MayWrite 0 s) ∧
    (∀ p ∈ [((0 : Word), [0]), (0x40000000, [0]), (1, [1])], (if wBit (p.1 ||| b31) 30 then
      List.range (seeding .loaded 1).meas.pos.length else [wBits (p.1 ||| b31) 9 0]) = p.2) ∧
    (seeding .run 1).st.mode ≠ .loaded ∧ (∃ p ∈ [1], (seeding .loaded 1).meas.pos.length ≤ p) ∧
    (∀ p ∈ [0], p < (seeding .loaded 1).meas.pos.length ∧ seedOk (seeding .loaded 1) p = true) ∧
    seedOk (seeding .loaded 0) 0 = false := by
  unfold MayWrite MayAccess; decide +kernel

/-! ### Cells, limits and safety -/

/-- Cell supervision runs. -/
def supervising (beat ns : Nat) (round : Option Nat) : State :=
  let s := filtering default 5 beat ns
  { s with
    cal := some { chainCal 1 with payloads := [(0x04, []), (0x0C, blockC)], therm := [{ (default : ThermCfg) with cls := 3 }] }
    cells := { s.cells with round := round, pos := [{ (default : CellPos) with nLive := 2, nLiveNext := 1 }] } }

theorem meets_CellsHeatAndBalance :
    (let s := supervising 1821 0 (some 0)
     awake s = true ∧ cellRun s = true ∧ 821 ≤ s.time.beat % 1000 ∧ s.cells.round ≠ some (s.time.beat / 1000) ∧
      s.cells.lost ≠ some (s.time.beat / 1000) ∧ workStopped .cells 0 s = false) ∧
    (let s := supervising 1999 825000 none
     s.time.beat % 1000 = 999 ∧ tickOf s ≤ 330 ∧ 821 ≤ s.time.beat % 1000) ∧
    (supervising 1821 0 (some 1)).cells.round = some ((supervising 1821 0 (some 1)).time.beat / 1000) ∧
    (let s := supervising 2000 0 (some 1)
     awake s = true ∧ cellRun s = true ∧ s.time.beat % 1000 = 0 ∧ s.time.ns = 0 ∧ s.cells.round.isSome = true ∧
      ∃ c, s.cells.pos[0]? = some c ∧ s.est.filters[0]? = some default ∧ c.nLiveNext ≠ c.nLive) ∧
    (let s := supervising 101 825000 none
     loopsOn s = true ∧ s.st.mode = .run ∧ s.time.beat % 100 = 1 ∧ tickOf s ≤ 330 ∧ hadTurn .balance s = false ∧
      hadTurn .balance (takeTurn .balance s) = true ∧ hadTurn .thermal (takeTurn .thermal s) = true) ∧
    (let s := supervising 5 0 none
     loopsOn s = true ∧ tickOf s ≤ 40 ∧ hadTurn .thermal s = false ∧ ∃ c, (((s.cal.map (·.therm)).getD [])[0]?) = some c ∧ c.cls = 3) := by
  refine ⟨by decide +kernel, by decide +kernel, by decide +kernel, ⟨by decide +kernel, by decide +kernel, by decide +kernel, by decide +kernel,
    by decide +kernel, _, rfl, rfl, by decide⟩, by decide +kernel, by decide +kernel, by decide +kernel, by decide +kernel, _, rfl, rfl⟩

/-- A loop of period 2 with bounds. -/
def aLoop (kind : Nat) : LoopCfg :=
  { (default : LoopCfg) with id := 7, kind := kind, period := 2, inSel := 5, setpoint := 9, outMin := 0, outMax := 8 }

/-- The same in the graph, at a beat and a nanosecond. -/
def looping (kind beat ns : Nat) (stale : Bool) : State :=
  let s := estimating (working .run beat ns)
  { s with
    cal := some { smallCal with loops := [aLoop kind] }
    lim := { s.lim with loops := [{ (default : LoopSt) with cfg := aLoop kind, begun := true, stale := stale }] } }

theorem meets_LoopPeriods :
    (let s := looping 0 4 0 false
     loopsOn s = true ∧ s.cal.bind (fun c => c.loops.findIdx? (fun l => l.id == (7 : Fin 64).val)) = some 0 ∧
      s.cal.bind (fun c => c.loops[0]?) = some (aLoop 0) ∧ s.lim.loops[0]?.isSome = true ∧ s.time.beat % (aLoop 0).period = 0 ∧
      tickOf s ≤ 40) ∧
    (∀ p ∈ [(2, false), (0, true), (0, false)], let s := looping p.1 5 900000 p.2
      loopsOn s = true ∧ s.lim.loops.findIdx? (fun x => x.cfg.id == (7 : Fin 64).val) = some 0 ∧
      (s.lim.loops[0]?).map (fun x => (x.begun, x.lost, x.stale)) = some (true, false, p.2) ∧
      (s.time.beat + 1) % (aLoop p.1).period = 0 ∧ tickOf s ≤ 360 ∧ hadTurn (.loopEnd (7 : Fin 64).val) s = false ∧
      hadTurn .publish s = false ∧ (engineAt s 10).ovrThisBeat = false ∧
      (aLoop p.1).outMin ≤ (aLoop p.1).outMax) ∧
    { (default : LoopSt) with lost := true }.lost = true := by decide +kernel

theorem meets_LimitsPublished :
    (∀ m ∈ [Mode.run, .stop], loopsOn (estimating (working m 5 900000)) = true ∧ tickOf (estimating (working m 5 900000)) ≤ 360 ∧
      hadTurn .publish (estimating (working m 5 900000)) = false) ∧
    hadTurn .publish (takeTurn .publish (estimating (working .run 5 900000))) = true ∧
    (estimating (working .stop 5 0)).st.mode ≠ .run ∧ (working .run 5 0).saf.copyA = some smallBlock ∧
    (estimating (working .run 5 0)).lim.fTherm ≤ 1000000 ∧
    (∃ s : State, coldCharge s = true ∧ loopsOn s = true) := by
  refine ⟨by decide +kernel, by decide +kernel, by decide +kernel, rfl, by decide +kernel, ?_⟩
  exact ⟨{ estimating (working .run 5 0) with meas := { State.reset.meas with temps := [TempPt.start true] } }, by decide +kernel⟩

/-- The safety block changed. -/
def saf (f : Saf → Saf) (s : State) : State := { s with saf := f s.saf }

theorem meets_SafetyLatches :
    (let s := saf (fun x => { x with overI := true, edgeSeen := true, missing := 1 }) (working .run 1000 825000)
     awake s = true ∧ s.saf.monitor = true ∧ tickOf s ≤ 330 ∧ (Chan.a, Cause.internal) ∉ s.saf.latched ∧ s.saf.overI = true ∧
      (Chan.b, Cause.fastOc) ∉ s.saf.latched ∧ s.saf.edgeSeen = true ∧ 1 ≤ s.saf.missing ∧
      (Chan.b, Cause.toggle) ∉ s.saf.latched ∧ s.time.beat % 1000 = 0 ∧ s.st.mode = .run ∧ hadTurn .recheck s = false ∧
      hadTurn .recheck (takeTurn .recheck s) = true) ∧
    (let s := saf (fun x => { x with edgeSeen := true }) (working .run 5 0)
     s.saf.monitor = true ∧ s.saf.edgeSeen = true ∧ s.saf.missing = 0) ∧
    (∃ s, s.saf.latchA = true ∧ s.saf.latchB = true ∧ s = saf (fun x => { x with latchA := true, latchB := true }) (working .safe 5 0)) := by
  exact ⟨by decide +kernel, by decide +kernel, _, rfl, rfl, rfl⟩

/-- One position, VALID and above V_POS_MAX for the second time. -/
def overvolt : State :=
  let s := saf (fun x => { x with posW := [{ seen := true, count := 1 }] }) (working .run 5 850000)
  { s with meas := { s.meas with posBeat := 5, pos := [{ PosM.start with code := .valid, value := 4000001 }] } }

theorem meets_ChannelsEachBeat :
    (awake overvolt = true ∧ overvolt.saf.monitor = true ∧ overvolt.saf.copyA = some smallBlock ∧ tickOf overvolt ≤ 340 ∧
      overvolt.saf.evalBeat ≠ some overvolt.time.beat ∧ overvolt.meas.posBeat = overvolt.time.beat ∧
      ∃ x w, overvolt.meas.pos[0]? = some x ∧ overvolt.saf.posW[0]? = some w ∧ x.code = .valid ∧ smallBlock.vPosMax < x.value ∧
        1 ≤ w.count) ∧
    (∀ m ∈ [Mode.run, .stop], let s := working m 5 875000
      tickOf s ≤ 350 ∧ s.saf.applied = none ∧ s.saf.evalBeat ≠ some s.time.beat) ∧
    (saf (fun x => { x with evalBeat := some 5 }) (working .run 5 875000)).saf.evalBeat = some 5 ∧
    (let s := saf (fun x => { x with edgePending := true, latchA := true }) (working .run 5 0)
     s.saf.edgePending = true ∧ s.saf.latchA = true ∧ (getNat s.saf.k 0).pulse ≠ some false) ∧
    MayWrite 0 (working .run 5 0) := by
  unfold MayWrite MayAccess
  refine ⟨⟨by decide +kernel, by decide +kernel, rfl, by decide +kernel, by decide +kernel, by decide +kernel, _, _, rfl, rfl, rfl,
    by decide +kernel, by decide⟩, by decide +kernel, by decide +kernel, by decide +kernel, by decide +kernel⟩

/-- S0 holds K0 and K1, in a mode of its input and with a test pulse; its pins as given. -/
def guarded (inMode test : Nat) (pinA pinB : Bool) (beat ns : Nat) : State :=
  let b := { smallBlock with sCfg := [{ discT := 10, mode := inMode, test := test, kMask := 3 }] }
  saf (fun x => { x with
    copyA := some b, copyB := some b
    sin := x.sin.set 0 { (default : SafeIn) with pinA := pinA, pinB := pinB, a := { (default : SafeCh) with tpMiss := 1 } } }) (working .run beat ns)

/-- K1 with both switches as given, in its test slot. -/
def slotted (k : Contactor) : State := saf (fun x => { x with k := x.k.set 1 k, evalBeat := some 300 }) (working .run 300 0)

/-- A closed contactor. -/
def closed : Contactor := { (default : Contactor) with hs := true, ls := true, progBit := true }

theorem meets_SafetyInputsAndTests :
    (∀ m ∈ [1, 2], let s := guarded m 1 false (m == 2) 25 0
      awake s = true ∧ s.saf.monitor = true ∧ (sinCfg s (0 : Fin 4).val).mode = m ∧ (sinCfgB s (0 : Fin 4).val).mode = m ∧
      asksA s 0 = true ∧ asksB s 0 = true ∧ masks s 0 0 = true) ∧
    (let s := guarded 1 1 true true 25 0
     s.time.beat % 100 = 25 + 50 * (0 : Fin 2).val ∧ tickOf s ≤ 100 ∧ hadTurn (.testPulse (0 : Fin 2).val) s = false ∧
      (sinCfg s 0).mode ≠ 0 ∧ (sinCfg s 0).test = 0 + 1 ∧ (getNat s.saf.sin 0).pinA = true ∧ 1 ≤ (getNat s.saf.sin 0).a.tpMiss) ∧
    (∀ c ∈ [closed, { closed with openReq := true, postponed := 7 }, { closed with nextLs := true }], let s := slotted c
      awake s = true ∧ s.saf.monitor = true ∧ s.time.beat % 1000 = 100 + 200 * (1 : Fin 4).val ∧ tickOf s ≤ 350 ∧
      testable s (1 : Fin 4).val = true ∧ s.saf.k[(1 : Fin 4)].hs = true ∧ s.saf.k[(1 : Fin 4)].ls = true ∧
      s.saf.k[(1 : Fin 4)].pulse = none ∧ s.saf.k[(1 : Fin 4)].slotBeat ≠ some s.time.beat ∧
      (requestedNow (atTick 350 s) (1 : Fin 4).val || (s.saf.k[(1 : Fin 4)].nextLs && !edgeAhead s)) = c.openReq) ∧
    (let s := saf (fun x => { x with edgePending := true }) (slotted { closed with lsTest := true })
     awake s = true ∧ s.saf.edgePending = true ∧ s.saf.k[(1 : Fin 4)].pulse = none) ∧
    (∀ b ∈ [false, true], let s := slotted { closed with pulse := some b }
      s.saf.k[(1 : Fin 4)].pulse = some b ∧ (Chan.a, Cause.testHs) ∉ s.saf.latched ∧ (Chan.b, Cause.testLs) ∉ s.saf.latched) ∧
    49 < 50 ∧ 50 ≤ 50 := by
  exact ⟨by decide +kernel, by decide +kernel, by decide +kernel, by decide +kernel, by decide +kernel, by decide, by decide⟩

/-- Slot 2 as given, with the run of a contactor job, if there is one. -/
def jobbed (m : Mode) (x : Job) (r : Option JobRun) (beat ns : Nat) : State :=
  let s := saf (fun x => { x with job := r }) (working m beat ns)
  { s with host := { s.host with jobs := s.host.jobs.set 2 x } }

/-- A precharge run in slot 2, step 2 made in beat 10. -/
def aRun : JobRun := { (default : JobRun) with slot := 2, precharge := true, first := 1, s := some 10, asked := 5 }

/-- TRG3 is armed and due. -/
def triggered (s : State) : State :=
  { s with time := { s.time with trg := s.time.trg.set 3 { (default : Trig) with arm := true } } }

theorem meets_Jobs :
    (let s := jobbed .run { (default : Job) with arg := 1 } none 5 0
     MayWrite 0 s ∧ s.host.jobs[(2 : Fin 8)].st = .idle ∧ contactorDetail (2 : Fin 8).val 1 s = none ∧
      contactorDetail (2 : Fin 8).val 2 s = none) ∧
    (let s := jobbed .stop default none 5 0
     MayWrite 0 s ∧ s.host.jobs[(2 : Fin 8)].st = .idle ∧ contactorDetail (2 : Fin 8).val 1 s = some 1 ∧ kindOk (0x7F % 256) = false) ∧
    (∀ x ∈ [{ (default : Job) with st := .running, kind := 0x10 }, { (default : Job) with st := .running, kind := 0x10, committed := true },
        { (default : Job) with st := .completed }, { (default : Job) with st := .refused }],
      MayWrite 0 (jobbed .run x none 5 0) ∧ (jobbed .run x none 5 0).host.jobs[(2 : Fin 8)] = x ∧ x.st ≠ .idle ∧ x.kind ≠ 1 ∧ x.kind ≠ 2) ∧
    (let s := triggered (jobbed .run { (default : Job) with st := .running, kind := 0x12 } none 5 0)
     MayWrite 0 s ∧ s.host.jobs[(2 : Fin 8)].st = .running ∧ s.host.jobs[(2 : Fin 8)].kind = 0x12 ∧ tickOf s = 0 ∧ trigDue 3 s = true) ∧
    (∀ k ∈ [1, 2], ∀ c ∈ [none, some 21],
     let s := jobbed .run { (default : Job) with st := .running, kind := k } (some { aRun with commit := c }) 30 0
     MayWrite 0 s ∧ s.host.jobs[(2 : Fin 8)].st = .running ∧ s.host.jobs[(2 : Fin 8)].kind = k ∧
      s.saf.job = some { aRun with commit := c } ∧ { aRun with commit := c }.slot = (2 : Fin 8)) ∧
    (let s := jobbed .run { (default : Job) with st := .running, kind := 1 } (some { aRun with cBeat := some 21 }) 110 875000
     awake s = true ∧ beforeRequests s = true ∧ s.saf.copyA = some smallBlock ∧ 21 ≤ s.time.beat ∧
      s.time.beat ≤ 10 + smallBlock.preTmax) ∧
    (let s := jobbed .run { (default : Job) with st := .running, kind := 1 } (some { aRun with commit := some 21 }) 41 875000
     beforeRequests s = true ∧ 21 + 20 ≤ s.time.beat) ∧
    (let s := jobbed .run { (default : Job) with st := .running, kind := 1 } (some aRun) 111 875000
     beforeRequests s = true ∧ 10 + smallBlock.preTmax + 1 ≤ s.time.beat) := by
  unfold MayWrite MayAccess; decide +kernel

/-! ### Logic and fabric -/

/-- One task of cycle 1 whose program is empty, one remote station, and host writes and forces as given. -/
def logicCal : Calibre :=
  let t : TaskCfg := { (default : TaskCfg) with cycle := 1, wcet := 1000, cls := 1 }
  let n : StationCfg := { addr := 9, cycle := 1, timeout := 3, nIn := 1, nOut := 0 }
  let i : LedgerItem := { (default : LedgerItem) with engine := 9, deadline := 380 }
  { smallCal with logic := some { (default : LogicCfg) with tasks := [t], stations := [n] }, items := [i] }

/-- The same loaded. -/
def logical (m : Mode) (beat ns : Nat) (f : Logic → Logic) : State :=
  let s := working m beat ns
  { s with cal := some logicCal, lg := f s.lg }

/-- A force on input word 4. -/
def aForce : Force := { enable := true, word := true, area := 1, index := 4, val := 9 }

/-- Item 0 of E9 runs, after the input phase. -/
def inItem (s : State) : State :=
  takeTurn .input { s with time := { s.time with engines := s.time.engines.set 9 { s.time.engines[(9 : Fin 11)] with released := [(0, 1000)] } } }

theorem meets_LogicTimes :
    (let s := logical .run 5 0 (fun x => { x with forces := x.forces.set 31 aForce })
     awake s = true ∧ s.st.mode.fromArmed = true ∧ tickOf s ≤ 20 ∧ hadTurn .input s = false ∧ hadTurn .output s = false ∧
      hadTurn .input (takeTurn .input s) = true ∧ hadTurn .output (takeTurn .output s) = true ∧
      s.lg.forces[(31 : Fin 32)] = aForce ∧ aForce.enable = true ∧
      aForce.word = true ∧ aForce.area = 1 ∧ aForce.index < 288 ∧ aForce.index ≠ 28 ∧ aForce.index ≠ 29 ∧
      (∀ g : Fin 32, 31 < g → s.lg.forces[g].enable = false)) ∧
    (let s := inItem (logical .run 5 0 id)
     (lgCfg s).isSome = true ∧ (taskCfg s (0 : Fin 8)).isSome = true ∧ awake s = true ∧ s.st.mode = .run ∧
      nextTask s = some (0 : Fin 8).val ∧ hadTurn .input s = true ∧ hadTurn .output s = false ∧ e9Runs s = true ∧
      s.lg.pendingConsts = [] ∧ taskDue s (0 : Fin 8) = true ∧
      ((taskCfg s 0).map (fun c => decide (1000 ≤ c.wcet) && decide (c.wcet < 1001))) = some true) ∧
    e9Runs (logical .run 5 0 id) = false := by decide +kernel

/-- An accepted frame of a kind and a length. -/
theorem taken_aFrame {kind len src seq beat : Nat} {s : State} (h : awake s = true ∧ 1 ≤ kind ∧ kind ≤ 10 ∧ len ≤ 1472 ∧
    len % 4 = 0 ∧ s.fab.hsrSeen = [] ∧ s.fab.paySeen = []) : Taken (aFrame kind len src seq beat) kind len s :=
  ⟨h.1, rfl, rfl, in_aFrame h.2⟩

/-- The same frame by port P2. -/
def viaP2 (h : FabHdr) : FabHdr := { h with port := 2 }

/-- It is accepted too. -/
theorem taken_viaP2 {kind len src seq beat : Nat} {s : State} (h : awake s = true ∧ 1 ≤ kind ∧ kind ≤ 10 ∧ len ≤ 1472 ∧
    len % 4 = 0 ∧ s.fab.paySeen = []) : Taken (viaP2 (aFrame kind len src seq beat)) kind len s := by
  obtain ⟨h1, h2, h3, h6, h7, h5⟩ := h
  refine ⟨h1, rfl, rfl, ?_⟩
  have e2 : kind ≠ 0 := by omega
  have e3 : ¬ 1522 < 14 + 24 + len + 4 := by omega
  have f5 : (fresh s).fab.paySeen = [] := h5
  obtain ⟨t, e, et⟩ : ∃ t, fabArrive (viaP2 (aFrame kind len src seq beat)) (fresh s) = (true, t) ∧ t.fab.paySeen = [] := by
    simp only [fabArrive, viaP2, aFrame, lineBytes]
    by_cases c : (fabCfg (fresh s)).role ≠ 2 ∧ (fresh s).fab.proxies.contains (ownMac + 1) = false ∧ (fresh s).fab.proxies.length < 16
    · exact ⟨modFab (fun x => { x with proxies := x.proxies ++ [ownMac + 1] })
        (modPort 2 (fun x => { x with rx := satAdd x.rx 1 (2 ^ 32 - 1) }) (fresh s)), by simp [modPort, modFab, e3] at c ⊢; exact c, h5⟩
    · exact ⟨modPort 2 (fun x => { x with rx := satAdd x.rx 1 (2 ^ 32 - 1) }) (fresh s), by simp [modPort, modFab, e3] at c ⊢; exact c, h5⟩
  rw [fabIn, e]
  simp [viaP2, aFrame, modFab, onward, mine, forMe, ownProto, fabAccept, headerOk, h3, et, h6, h7, e2]

theorem meets_RemoteStations :
    (let s := logical .run 5 0 (fun x => { x with stations := x.stations.set 0 { (default : StationSt) with lastSeq := some 6, run := 1 } })
     let h := aFrame 7 8 9 7 5
     Taken h 7 (4 + 4 * 1) s ∧ s.st.mode.fromArmed = true ∧
      (stationCfgs s).findIdx? (fun c => c.addr == h.src) = some 0 ∧ ((stationCfgs s)[0]?).map (·.nIn) = some 1 ∧ 0 < 16 ∧
      s.fab.held = [] ∧ (stnAt s 0).lastSeq = some 6 ∧ seqLater h.seq 6 = true ∧ seqLater h.seq 7 = false ∧ 2 ≠ 1) ∧
    (let s := logical .run 5 0 (fun x => { x with stations := x.stations.set 0 { (default : StationSt) with good := true, arrival := 808 } })
     awake s = true ∧ s.st.mode.fromArmed = true ∧ (0 : Fin 16).val < (stationCfgs s).length ∧ tickOf s ≤ 380 ∧ (stnAt s 0).good = true ∧
      (stnAt s 0).arrival + 3 * 400 ≤ absTick (atTick 20 s)) := by
  refine ⟨⟨taken_aFrame (by decide +kernel), ?_⟩, by decide +kernel⟩
  unfold aFrame
  exact ⟨by decide +kernel, by decide +kernel, by decide +kernel, by decide +kernel, by decide +kernel, by decide +kernel, by decide +kernel,
    by decide +kernel, by decide⟩

theorem meets_LogicRegisters :
    (let s := sess0 { openSess with crown := true, varSel := 0x300FFF } (logical .run 5 0 id)
     MayWrite 0 s ∧ s.host.sess[(0 : Fin 32)].crown = true ∧ wBits 0x40200000 23 20 = 2 ∧ opArea 0x300FFF = 3 ∧
      opIndex 0x300FFF < 4096 ∧ (lgCfg s).isSome = true ∧ aForce.clean.closes = false ∧
      { aForce with area := 2, index := 1, val := 8 }.closes = true) ∧
    MayWrite 0 (logical .run 5 0 id) ∧ opArea ((logical .run 5 0 id).host.sess[(0 : Fin 32)].varSel.toNat) ≠ 3 := by
  unfold MayWrite MayAccess; decide +kernel

/-- A frame with another destination on the Ethernet. -/
def notMine : FabHdr := { aFrame 8 8 1 1 5 with ethDst := ownMac + 2 }

theorem meets_FabricPortsAndAddresses :
    (let s := inMode .blank
     let h := aFrame 8 8 1 1 5
     awake s = true ∧ h.tagged = false ∧ lineBytes h ≤ 1522 ∧ h.mac ≠ ownMac ∧ h.port.val < 2 ∧
      (∀ x ∈ s.fab.hsrSeen, ¬(x.1 = h.mac ∧ x.2.1 = h.hsrSeq)) ∧ ownProto h = true ∧ h.dst = 0 ∧ h.ethDst = ownMac ∧
      headerOk true h = true ∧ headerOk true { h with ver := 2 } = false ∧ s.fab.paySeen.all (fun x => !samePay h x) = true ∧
      { h with tagged := true }.tagged = true ∧ 1522 < lineBytes { h with size := 1476 }) ∧
    (notMine.tagged = false ∧ notMine.mac ≠ ownMac ∧ ownProto notMine = true ∧ notMine.dst = 0 ∧ notMine.ethDst ≠ ownMac ∧
      notMine.kind ≠ 9 ∧ notMine.port.val < 2) ∧
    (let s := fabric .run 1025 0 400 0 (fun x => { x with paySeen := [(1, 8, 1, 0, 0)], hsrSeen := [(ownMac + 1, 0, 0)] })
     let h := aFrame 8 8 1 1 5
     (h.src, h.kind, h.seq, h.dst, 0) ∈ s.fab.paySeen ∧ (h.mac, h.hsrSeq, 0) ∈ s.fab.hsrSeen ∧ s.time.beat ≤ 0 + 400) ∧
    (∀ b ∈ [none, some 100], let s := fabric .run 1025 0 2100 0 (fun x => { x with supBeat := b })
     awake s = true ∧ s.fab.supBeat.all (fun n => decide (n + 2000 ≤ s.time.beat)) = true) ∧ 2099 < 100 + 2000 ∧
    (let s := fabric .run 1025 0 1500 250000 id
     awake s = true ∧ s.time.beat % 1000 = 500 ∧ tickOf s ≤ 100 ∧ hadTurn .discover s = false ∧
      hadTurn .discover (takeTurn .discover s) = true) ∧
    (∀ n ∈ [0, 1, 3], let s := fabric .loaded 0 0 200 0 (fun x => { x with claims := n, claimBeat := 100 })
     awake s = true ∧ claiming s = true ∧ s.time.beat % 100 = 0 ∧ s.fab.claims = n ∧ s.fab.claimBeat + 100 ≤ s.time.beat) ∧
    (let s := fabric .loaded 0 0 200 0 (fun x => { x with claims := 1, claimBeat := 200 })
     0 < s.fab.claims ∧ s.time.beat < s.fab.claimBeat + 100) ∧
    (Taken (aFrame 1 32 0 1 5) 1 32 (inMode .blank) ∧ (aFrame 1 32 0 1 5).port.val < 2) ∧
    (Taken (aFrame 2 8 0 1 5) 2 8 (inMode .blank) ∧ (aFrame 2 8 0 1 5).port.val < 2 ∧ ownMac ≤ (aFrame 2 8 0 1 5).mac) ∧
    (Taken (viaP2 (aFrame 2 8 0 1 5)) 2 8 (inMode .blank) ∧ 2 ≤ (viaP2 (aFrame 2 8 0 1 5)).port.val) := by
  refine ⟨⟨rfl, rfl, by decide +kernel, ?_, by decide, ?_, rfl, rfl, rfl, rfl, rfl, rfl, rfl, by decide +kernel⟩,
    ⟨rfl, ?_, rfl, rfl, ?_, by decide, by decide⟩, ⟨List.mem_singleton.mpr rfl, List.mem_singleton.mpr rfl, by decide +kernel⟩,
    by decide +kernel, by decide, by decide +kernel, by decide +kernel, by decide +kernel, ⟨taken_aFrame (by decide +kernel), by decide⟩,
    ⟨taken_aFrame (by decide +kernel), by decide, ?_⟩, ⟨taken_viaP2 (by decide +kernel), by decide⟩⟩
  · unfold aFrame; simp
  · intro x hx; cases hx
  · unfold notMine aFrame; simp
  · unfold notMine; simp
  · unfold aFrame; simp

theorem meets_Banks :
    (let s := fabric .run 1025 0 101 900000 id
     bankRun s = true ∧ tickOf s ≤ 360 ∧ hadTurn .bankState s = false ∧ hadTurn .bankCalc s = false ∧
      hadTurn .bankState (takeTurn .bankState s) = true ∧ hadTurn .bankCalc (takeTurn .bankCalc s) = true) ∧
    (let s := fabric .run 1025 0 102 0 id
     Taken (aFrame 5 56 1026 1 101) 5 56 s ∧ bankRun s = true ∧ (fabCfg s).bank = 2 ∧ s.time.beat % 100 ≠ 1 ∧
      beatFrom32 s.time.beat 101 + 1 = s.time.beat ∧ 339 < 340 ∧ 340 ≤ 340) ∧
    (let s := fabric .run 1025 1 102 0 id
     Taken (aFrame 10 12 1030 1 101) 10 12 s ∧ s.st.mode.fromLoaded = true ∧ measuresIns s = false ∧
      insFrom (aFrame 10 12 1030 1 101).src (aFrame 10 12 1030 1 101).string s = true ∧
      insFrom (aFrame 10 12 1031 1 101).src (aFrame 10 12 1031 1 101).string s = false) ∧
    measuresIns (fabric .run 1025 0 102 0 id) = true := by
  exact ⟨by decide +kernel, ⟨taken_aFrame (by decide +kernel), by decide +kernel⟩, ⟨taken_aFrame (by decide +kernel), by decide +kernel⟩,
    by decide +kernel⟩

/-- The partner's STATUS that agrees with this module. -/
def partnerStatus (s : State) : StatusBody :=
  { ownStatus s with partnerAddr := 1025, ownEnd := 2, claim := 4, sides := 3 - (ownStatus s).sides }

/-- A partner's frame that reaches the partner block. -/
theorem from_aFrame {len : Nat} {s : State} (h : awake s = true ∧ len ≤ 1472 ∧ len % 4 = 0 ∧ s.fab.hsrSeen = [] ∧ s.fab.paySeen = [] ∧
    inPair s = true ∧ s.st.mode.fromLoaded = true ∧ partnerAddr s = 1030) : FromPartner (aFrame 6 len 1030 1 5) len s :=
  ⟨taken_aFrame ⟨h.1, by decide, by decide, h.2.1, h.2.2.1, h.2.2.2.1, h.2.2.2.2.1⟩, h.2.2.2.2.2.1, h.2.2.2.2.2.2.1, h.2.2.2.2.2.2.2.symm⟩

/-- The pair in RUN, with its partner's claim known. -/
def paired (ns : Nat) : State :=
  fabric .run 1025 1 5 ns (fun x => { x with pair := { x.pair with partner := some { (default : StatusBody) with claim := 4 } } })

theorem meets_PartnerFrames :
    (let s := paired 525000
     FromPartner (aFrame 6 60 1030 1 5) 60 s ∧ s.st.mode.fromArmed = true ∧ (nodeRec s (0 : Fin 64).val).found = true ∧ tickOf s ≤ 330 ∧
      5 = s.time.beat % 65536 ∧ followsOther s (0 : Fin 64).val (Nat.testBit 4 2) = true ∧
      s.chain.got.any (fun g => g.addr == (0 : Fin 64).val) = false) ∧
    (let s := { paired 0 with chain := { (paired 0).chain with node := Vector.replicate 64 { found with followW := true } } }
     FromPartner (aFrame 6 60 1030 1 5) 60 s ∧ (nodeRec s (0 : Fin 64).val).found = true ∧ tickOf s ≤ 140 ∧ (4 + 1) % 65536 = s.time.beat % 65536 ∧
      followsOther s (0 : Fin 64).val (nodeRec s 0).followW = true ∧ s.chain.gotAux.any (fun g => g.addr == (0 : Fin 64).val) = false) ∧
    (let s := paired 0
     s.st.mode.fromArmed = true ∧ holder s = false ∧ thisBeat (aFrame 6 20 1030 1 5) s = true ∧ FromPartner (aFrame 6 20 1030 1 5) 20 s ∧
      FromPartner (aFrame 6 52 1030 1 5) 52 s ∧ FromPartner (aFrame 6 140 1030 1 5) (136 + 4 * [(0, 0, 0)].length) s ∧
      FromPartner (aFrame 6 8 1030 1 5) 8 s ∧ higherClaim s = true ∧ 2 ≤ ((2 : Nat) - (nodeRec s 0).dOf .w : Int).natAbs) ∧
    (let s := fabric .run 1025 1 5 0 (fun x => { x with pair := { x.pair with holder := true, delays := [(0, false, 7)] } })
     pairOn s = true ∧ tickOf s ≤ 22 ∧ s.st.mode.fromArmed = true ∧ holder s = true ∧ s.fab.pair.delays = (0, false, 7) :: [] ∧
      (∀ x ∈ [Turn.status, .stream, .front, .plan], hadTurn x s = false ∧ hadTurn x (takeTurn x s) = true)) ∧
    (∃ s : State, pairOn s = true ∧ ∃ a, s.meas.aligned = some a ∧ a.beat = s.time.beat) := by
  refine ⟨⟨from_aFrame (by decide +kernel), by decide +kernel⟩, ⟨from_aFrame (by decide +kernel), by decide +kernel⟩,
    ⟨by decide +kernel, by decide +kernel, by unfold aFrame; decide +kernel, from_aFrame (by decide +kernel), from_aFrame (by decide +kernel),
      from_aFrame (by decide +kernel), from_aFrame (by decide +kernel), by decide +kernel, by decide +kernel⟩, by decide +kernel, ?_⟩
  let s := fabric .run 1025 1 5 0 id
  exact ⟨{ s with meas := { s.meas with aligned := some { beat := 5, fe := default } } }, by decide +kernel, _, rfl, rfl⟩

theorem meets_PairLife :
    (∀ good ∈ [0, 2], (let s := fabric .loaded 1025 1 5 0 (fun x => { x with pair := { x.pair with st := .waiting, goodRun := good } })
     Taken (aFrame 6 20 1030 1 5) 6 20 s ∧ inPair s = true ∧ s.st.mode.fromLoaded = true ∧ (aFrame 6 20 1030 1 5).src = partnerAddr s ∧
      s.fab.pair.st = .waiting ∧ s.fab.pair.gotNow = false ∧ Taken (aFrame 6 20 1031 1 5) 6 20 s ∧
      (aFrame 6 20 1031 1 5).src ≠ partnerAddr s)) ∧
    (let s := fabric .loaded 1025 1 5 0 id
     pairConfig 1030 (ownStatus s) { (ownStatus s) with partnerAddr := 1025, claim := 4 } (ownAddr s) = false) ∧
    (let s := fabric .run 1025 1 5 0 (fun x => { x with pair := { x.pair with st := .lost } })
     Taken (aFrame 6 20 1030 1 5) 6 20 s ∧ s.fab.pair.st = .lost) ∧
    (let s := fabric .run 1025 1 5 825000 (fun x => { x with pair := { x.pair with st := .formed, missRun := 3 } })
     pairOn s = true ∧ s.fab.pair.st = .formed ∧ 3 ≤ s.fab.pair.missRun ∧ tickOf s ≤ 330 ∧ s.fab.pair.gotNow = false) ∧
    (let s := fabric .run 1025 1 1000 0 (fun x => { x with pair := { x.pair with yieldNext := true } })
     pairOn s = true ∧ s.fab.pair.reclaimAt = none ∧ s.fab.pair.yieldNext = true) ∧
    (let s := fabric .run 1025 1 1000 0 (fun x => { x with pair := { x.pair with reclaimAt := some 1000 } })
     pairOn s = true ∧ s.fab.pair.reclaimAt = some 1000 ∧ 1000 ≤ s.time.beat) ∧
    (∀ y ∈ [false, true], (let s := fabric .stop 1025 1 5 0 (fun x => { x with pair := { x.pair with st := .formed, holder := true, yielded := y } })
     MayWrite 0 s ∧ s.st.mode = .stop ∧ inPair s = true ∧ s.fab.pair.holder = true ∧ s.fab.pair.st = .formed ∧ s.fab.pair.yielded = y)) := by
  unfold MayWrite MayAccess
  refine ⟨?_, by decide +kernel, ⟨taken_aFrame (by decide +kernel), rfl⟩, by decide +kernel, by decide +kernel, by decide +kernel,
    by decide +kernel⟩
  intro good _
  exact ⟨taken_aFrame ⟨rfl, by decide, by decide, by decide, by decide, rfl, rfl⟩, rfl, rfl, rfl, rfl, rfl,
    taken_aFrame ⟨rfl, by decide, by decide, by decide, by decide, rfl, rfl⟩, (by decide : (1031 : Nat) ≠ 1030)⟩

/-! ### Queues, CAN and field channels -/

/-- Stream queue 3 takes content 3 of every beat, depth 64; the queue itself as given. -/
def streaming (q : Queue) (depth beat ns : Nat) : State :=
  let s := working .run beat ns
  let c : QueueCfg := { content := 1, decim := 1, depth := depth }
  { s with
    cal := some { smallCal with stream := some { queues := List.replicate 8 c, listA := [], listB := [] } }
    host := { s.host with queues := s.host.queues.set 3 q, subs := s.host.subs.set 0 { enable := true, addr := 9, content := 1, period := 1 } } }

/-- A queue with two words and an item of three words to commit. -/
def aQueue (claim : Option (Fin 32)) : Queue :=
  { (default : Queue) with words := [5, 6], building := [[1, 2, 3]], claim := claim }

theorem meets_QueueReads :
    (∀ c ∈ [none, some 0], let s := streaming (aQueue c) 64 5 0
      MayAccess 0 s ∧ MayWrite 0 s ∧ (queueAt (.q 3) s).readable 0 = true ∧ (queueAt (.q 3) s).claim = c ∧
      (queueAt (.q 3) s).words = 5 :: [6]) ∧
    (let s := streaming (aQueue (some 1)) 64 5 0
     MayAccess 0 s ∧ (queueAt (.q 3) s).readable 0 = false ∧ (queueAt (.q 3) s).claim ≠ some 0) ∧
    (MayAccess 0 (streaming default 64 5 0) ∧ (queueAt (.q 3) (streaming default 64 5 0)).words = []) := by
  unfold MayWrite MayAccess; decide +kernel

theorem meets_QueueItems :
    (let s := streaming default 64 5 850000
     awake s = true ∧ s.st.mode.fromArmed = true ∧ tickOf s ≤ 340 ∧ hadTurn (.item (3 : Fin 8).val) s = false ∧
      hadTurn (.item (3 : Fin 8).val) (takeTurn (.item (3 : Fin 8).val) s) = true ∧
      (streamItem (queueCfg s (3 : Fin 8)) (actAt (.item (3 : Fin 8).val) 340 (fresh s))).isSome = true ∧
      streamItem default (actAt (.item (3 : Fin 8).val) 340 (fresh s)) = none) ∧
    (∀ d ∈ [5, 6], let s := streaming (aQueue none) d 5 0
      s.host.queues[(3 : Fin 8)].building = [1, 2, 3] :: [] ∧ sourceLost (queueCfg s (3 : Fin 8)).content s = false ∧
      (queueCfg s (3 : Fin 8)).depth = d ∧ s.host.queues[(3 : Fin 8)].words.length + 0 + 1 + 3 = 6) := by decide +kernel

/-- CAN channel 1 as given, in a module with one publication record of it. -/
def canned (m : Mode) (f : CanCh → CanCh) : State :=
  let s := working m 5 0
  let p : PubCfg := { ch := 1, enable := true, period := 1, canId := 8, content := 1 }
  { s with cal := some { smallCal with can := some ([CanCfg.blank, CanCfg.blank], [p]) }, can := s.can.set 1 (f s.can[(1 : Fin 2)]) }

/-- A record that waits. -/
def aPub : PubPend := { index := 0, canId := 8, data := [] }

theorem meets_Publications :
    (let s := streaming default 64 5 925000
     awake s = true ∧ s.st.mode.fromArmed = true ∧ tickOf s ≤ 370 ∧ s.fab.silenced = false ∧ hadTurn .publishFab s = false ∧
      hadTurn .publishFab (takeTurn .publishFab s) = true) ∧
    (∀ l ∈ [[], [aPub]], let s := canned .run (fun x => { x with pubs := l, nPub := 1 })
      awake s = true ∧ s.st.mode.fromArmed = true ∧ tickOf s ≤ 370 ∧ hadTurn (.pubCan (1 : Fin 2).val (0 : Fin 32).val) s = false ∧ (pubsOf s (1 : Fin 2).val)[(0 : Fin 32).val]?.isSome = true ∧
      ((pubsOf s 1)[0]?.map (fun p => p.enable && decide (0 < p.period) && s.time.beat % p.period == 0)) = some true ∧
      s.can[(1 : Fin 2)].pubs = l) ∧
    (let s := canned .run (fun x => { x with pubs := [aPub], nPub := 1 })
     0 < s.can[(1 : Fin 2)].nPub ∧ s.can[(1 : Fin 2)].txb[(1 : Fin 3)].st ≠ .pending ∧ aPub ∈ s.can[(1 : Fin 2)].pubs ∧
      (∀ q ∈ s.can[(1 : Fin 2)].pubs, q = aPub ∨ aPub.index < q.index)) := by decide +kernel

/-- Buffer 2 waits or is on the bus. -/
def txing (onBus : Bool) (x : CanCh) : CanCh :=
  { x with txb := x.txb.set 2 { Txb.reset with st := .pending }, offered := if onBus then some 2 else none, errSt := .active }

theorem meets_CanAckRun :
    awake (canned .run (txing true)) = true ∧ (canned .run (txing true)).can[(1 : Fin 2)].offered.isSome = true := by decide +kernel

/-- A frame that filter 0 lets in. -/
def aCanFrame (remote own : Bool) : CanFrame := { (default : CanFrame) with id := 3, remote := remote, own := own }

theorem meets_CanFrames :
    (∀ e ∈ [CanSt.active, .passive], let s := canned .run (fun x => { txing true x with errSt := e })
      awake s = true ∧ s.can[(1 : Fin 2)].offered = some 2 ∧ s.can[(1 : Fin 2)].rspQ = [] ∧ s.can[(1 : Fin 2)].errSt = e ∧
      s.can[(1 : Fin 2)].txb[(2 : Fin 3)].st = .pending) ∧
    (∀ own ∈ [false, true],
     let s := canned .run (fun x => { x with
       loop := b2n own, filt := x.filt.set 0 { (default : CanFilter) with enable := true, id := 3, mask := 7 } })
     let f := aCanFrame false own
     awake s = true ∧ s.can[(1 : Fin 2)].errSt = .active ∧ f.own = own ∧ s.can[(1 : Fin 2)].loop = b2n own ∧
      f.remote = false ∧ s.can[(1 : Fin 2)].isAccess f = false ∧ s.st.mode.fromArmed = true ∧
      s.can[(1 : Fin 2)].filterOf f = some 0 ∧ s.can[(1 : Fin 2)].recCnt ≤ 127 ∧ (aCanFrame true own).remote = true ∧
      s.can[(1 : Fin 2)].hears (!own) = false) ∧
    (canned .run (fun x => { x with errSt := .busOff })).can[(1 : Fin 2)].errSt = .busOff := by decide +kernel

theorem meets_CanBuffers :
    (∀ b ∈ [false, true], let s := canned .run (txing b)
      MayWrite 0 s ∧ s.can[(1 : Fin 2)].moduleUses (2 : Fin 3) = false ∧ s.can[(1 : Fin 2)].txb[(2 : Fin 3)].st = .pending ∧
      s.can[(1 : Fin 2)].offered = (if b then some 2 else none)) ∧
    (∀ m ∈ [Mode.run, .stop], let s := canned m id
      MayWrite 0 s ∧ s.can[(1 : Fin 2)].txb[(2 : Fin 3)].st ≠ .pending ∧ s.can[(1 : Fin 2)].rspQ = [] ∧
      s.can[(1 : Fin 2)].moduleUses (0 : Fin 3) = true ∧ wBits (2 : Word) 1 0 ≠ 3 ∧ wBits (2 : Word) 1 0 ≠ s.can[(1 : Fin 2)].loop ∧
      (∀ b : Fin 3, s.can[(1 : Fin 2)].txb[b].st ≠ .pending)) := by
  unfold MayWrite MayAccess; decide +kernel

/-- Field channel 0 is an input, 1 an output, 3 a counter; TH 0 is mapped; channel 1 as given. -/
def fielded (c : IoCh) (beat ns : Nat) : State :=
  let s := working .run beat ns
  let io : Nat → IoCfg := fun m => { mode := m, filter := 0, safe := true, wb := true }
  { s with
    cal := some { smallCal with io := { silence := 2, io := [io 1, io 2, io 0, io 3], th := [{ kind := 2, beta := 0 }] } }
    fio := { s.fio with live := true, armed := true, since := 2, io := s.fio.io.set 1 c, th := s.fio.th.set 0 (TempPt.start true) } }

theorem meets_FieldChannels :
    (let s := fielded { (default : IoCh) with driven := true } 10 825000
     awake s = true ∧ ioMode s (0 : Fin 16).val = 1 ∧ ioMode s (3 : Fin 4).val = 3 ∧ MayWrite 0 s ∧ s.st.mode.fromLoaded = true ∧
      s.time.beat % 10 = 0 ∧ tickOf s ≤ 330 ∧ hadTurn .thermistors s = false ∧
      hadTurn .thermistors (takeTurn .thermistors s) = true ∧ s.fio.th[(0 : Fin 6)].mapped = true ∧ s.fio.th[(1 : Fin 6)].mapped = false ∧
      ioMode s (1 : Fin 16).val = 2 ∧ (ioAt s 1).out = true ∧ (ioAt s 1).overtemp = false ∧ (ioAt s 1).overload = false ∧
      (ioAt s 1).readback = false ∧ wireJudged s (1 : Fin 16).val = true ∧ (ioAt s 1).openWire = false ∧ s.fio.live = true ∧
      s.fio.armed = true ∧ s.fio.silent = false ∧ (ioPers s).silence * 1000000 ≤ silentNs s) ∧
    (let s := fielded { (default : IoCh) with overtemp := true } 10 0
     ioMode s (1 : Fin 16).val = 2 ∧ (ioAt s 1).overtemp = true ∧ (ioAt s 1).cool = false) ∧ (150 : Int) < 151 ∧ (129 : Int) < 130 := by
  unfold MayWrite MayAccess
  exact ⟨by decide +kernel, by decide +kernel, by decide, by decide⟩
/-- A watch plan that judges the string voltage, and its run. -/
def aWatch (beat : Option Nat) (wakeIn : Bool) : WatchRun :=
  { (default : WatchRun) with
    plan := some { (default : WatchCfg) with period := 60, checks := 1, vStrLo := 100, vStrHi := 200 }
    beat := beat, wakeIn := wakeIn, strSum := 90, strN := 1 }

/-- The module in WATCH with a run. -/
def watching (r : WatchRun) : State :=
  let s := inMode .watch
  { s with pw := { s.pw with watch := some r } }

/-- A check beat that brings nothing. -/
def noData : WatchData := { vStr := none, nodes := [], temps := [], th := [], taps := [], ins := none }

theorem meets_WatchChecks :
    (∀ r ∈ [aWatch none false, aWatch (some 18) false, aWatch (some 19) false, aWatch (some 102) false, aWatch (some 102) true],
      let s := watching r
      s.st.mode = .watch ∧ s.pw.held = false ∧ s.pw.watch = some r) ∧
    (aWatch none false).plan.isSome = true ∧
    watchTrips 18 noData (watchTake 0 18 noData (aWatch (some 18) false)) = [] ∧ (aWatch (some 18) false).wakeIn = false ∧
    (∃ a l, watchTrips 19 noData (watchTake 0 19 noData (aWatch (some 19) false)) = a :: l) ∧
    (∃ p, (aWatch (some 19) false).plan = some p ∧ p.checks.testBit 0 = true ∧ noData.vStr = none ∧ 0 < (aWatch (some 19) false).strN ∧
      (aWatch (some 19) false).strSum < p.vStrLo * (aWatch (some 19) false).strN) ∧
    (∀ w ∈ [false, true], (aWatch (some 102) w).over' 102 = true) := by
  exact ⟨by decide +kernel, by decide, by decide +kernel, by decide, List.exists_cons_of_ne_nil (by decide +kernel), ⟨_, rfl, by decide +kernel⟩, by decide +kernel⟩

/-- A module in BLANK with 24 V at VSUP, whose LC_DATA holds the base point of the curve as a key. -/
def fusing (l : LcSt) (vsup : Nat) : State :=
  let s := inMode .blank
  let g : List Word := [0xD898C296, 0xF4A13945, 0x2DEB33A0, 0x77037D81, 0x63A440F2, 0xF8BCE6E5, 0xE12C4247, 0x6B17D1F2,
    0x37BF51F5, 0xCBB64068, 0x6B315ECE, 0x2BCE3357, 0x7C0F9E16, 0x8EE7EB4A, 0xFE1A7F9B, 0x4FE342E2]
  { s with pw := { s.pw with vsup := vsup, lc := l, lcData := Vector.ofFn (fun k => g.getD k.val 0) } }

theorem meets_LifeCycle :
    MayWrite 0 (fusing .shipped 24000) ∧ lcRefusal (lcWord 2 0) (fusing .shipped 24000) = 0 ∧
    lcRefusal (lcWord 6 0) (fusing .returned 24000) = 0 ∧ MayWrite 0 (fusing .returned 24000) ∧
    (∀ k ∈ [3, 4, 5], lcRefusal (lcWord k 0) (fusing .shipped 24000) ≠ 0) ∧
    (MayWrite 0 (inMode .run) ∧ (inMode .run).st.mode ≠ .blank) ∧
    (MayWrite 0 (fusing .shipped 19999) ∧ (fusing .shipped 19999).st.mode = .blank ∧ (fusing .shipped 19999).pw.vsup < 20000) := by
  unfold MayWrite MayAccess; decide +kernel

/-- The records block changed. -/
def recorded (f : Rcd → Rcd) : State :=
  let s := working .run 5 0
  { s with rcd := f s.rcd }

/-- An event of each store waits. -/
def bothWait (recs jnls : List (List Word)) (freeze : Option (Fin 32)) : State :=
  recorded (fun x => { x with recQ := [default], jnlQ := [default], recs := recs, jnls := jnls, freeze := freeze })

theorem meets_RecordStores :
    (∀ f, (bothWait [] [] f).rcd.recQ = default :: [] ∧ (bothWait [] [] f).rcd.jnlQ = default :: [] ∧ (bothWait [] [] f).rcd.freeze = f ∧
      (bothWait [] [] f).rcd.recs.length < 4096 ∧ (bothWait [] [] f).rcd.jnls.length < 65536 ∧
      (bothWait [] [] f).rcd.holdRec.length < 16 ∧ (bothWait [] [] f).rcd.holdJnl.length < 64) ∧
    (let s := bothWait (List.replicate 4096 []) (List.replicate 65536 []) none
     4096 ≤ s.rcd.recs.length ∧ 65536 ≤ s.rcd.jnls.length ∧ s.rcd.freeze = none) ∧
    awake (bothWait [] [] none) = true := by
  have h : ∀ (n : Nat) a b, (bothWait (List.replicate n a) b none).rcd.recs.length = n := fun n a b => List.length_replicate
  have g : ∀ (n : Nat) a b, (bothWait b (List.replicate n a) none).rcd.jnls.length = n := fun n a b => List.length_replicate
  refine ⟨fun f => ⟨rfl, rfl, rfl, Nat.zero_lt_succ _, Nat.zero_lt_succ _, Nat.zero_lt_succ _, Nat.zero_lt_succ _⟩, ?_, by decide +kernel⟩
  exact ⟨Nat.le_of_eq (h _ _ _).symm, Nat.le_of_eq (g _ _ _).symm, rfl⟩

/-- A freeze by a session for so many beats. -/
def frozen (f : Option (Fin 32)) (n : Nat) : State := recorded (fun x => { x with freeze := f, frozenBeats := n })

/-- Slot 2 runs or is idle, in a life-cycle state. -/
def clearing (l : LcSt) (x : Job) : State :=
  let s := jobbed .run x none 5 0
  { s with pw := { s.pw with lc := l } }

/-- Slot 2 erases the stores that its ARG names. -/
def erasing (arg : Word) : State :=
  let x : Job := { (default : Job) with st := .running, kind := 0x10, arg := arg }
  let s := inMode .stop
  { s with host := { s.host with jobs := s.host.jobs.set 2 x } }

theorem meets_FreezesAndClears :
    (∀ f ∈ [none, some 0, some 1], MayWrite 0 (frozen f 0) ∧ (frozen f 0).rcd.freeze = f ∧ (frozen f 0).rcd.frozenBeats < 600000) ∧
    ((frozen (some 0) 600000).rcd.freeze.isSome = true ∧ 600000 ≤ (frozen (some 0) 600000).rcd.frozenBeats) ∧
    (MayWrite 0 (clearing .shipped default) ∧ (clearing .shipped default).host.jobs[(2 : Fin 8)].st = .idle ∧
      clearDetail (clearing .shipped default).host.jobs[(2 : Fin 8)].arg (clearing .shipped default) = some 1) ∧
    oldestOf 0x10 (erasing 0) = some 2 ∧ oldestOf 0x10 (erasing 3) = some 2 ∧
    crownAllowed 0 0 (clearing .shipped default) = true ∧ crownAllowed 0 0 (clearing .scrapped default) = false ∧
    wBit (0x80000000 : Word) 30 = false := by
  unfold MayWrite MayAccess
  exact ⟨by decide +kernel, by decide +kernel, by decide +kernel, by decide +kernel, by decide +kernel, by decide +kernel, by decide +kernel,
    by decide⟩

/-- The update block changed, with the crown lock open in session 0. -/
def updating (m : Mode) (f : Upd → Upd) : State :=
  let s := sess0 { openSess with crown := true } (working m 5 0)
  { s with upd := f s.upd }

/-- A manifest that names one piece of image, of which all bits are 0. -/
def aManifest : List Byte := List.replicate 0x10 0 ++ leB 4 224 ++ leB 4 1024 ++ leB 4 1 ++ List.replicate 0xC4 0

/-- The piece of session 0 waits. -/
def judging : State :=
  updating .stop (fun u => { u with
    phase := .receiving, slot := { (default : FwSlot) with man := aManifest }, sess := u.sess.set 0 { buf := [], result := 1, piece := some 0 } })

theorem meets_FirmwarePieces :
    (∀ p ∈ [UpPhase.empty, .manifest], let s := updating .stop (fun u => { u with phase := p })
      MayWrite 0 s ∧ s.upd.sess[(0 : Fin 32)].result ≠ 1 ∧ s.pw.lc ≠ .scrapped ∧ s.upd.phase = p ∧ s.upd.slot.next = 0 ∧
      s.upd.manCheck = none) ∧
    (let s := updating .stop (fun u => { u with phase := .receiving, slot := { (default : FwSlot) with man := aManifest } })
     MayWrite 0 s ∧ s.upd.sess[(0 : Fin 32)].result ≠ 1 ∧ s.pw.lc ≠ .scrapped ∧ s.upd.phase = .receiving ∧
      0 < nPieces s.upd.slot.man) ∧
    (awake judging = true ∧ judging.upd.sess[(0 : Fin 32)].piece = some 0 ∧ judging.upd.phase = .receiving ∧
      judging.upd.slot.pieces.any (fun p => p.1 == 0) = false) ∧
    (let s := updating .stop (fun u => { u with manCheck := some 0, imgCheck := some 1 })
     awake s = true ∧ s.upd.manCheck = some 0 ∧ s.upd.imgCheck = some 1) := by
  unfold MayWrite MayAccess
  exact ⟨by decide +kernel, by decide +kernel, by decide +kernel, by decide +kernel⟩

/-- Slot 2 runs a job of a kind. -/
def slotRuns (kind : Nat) (s : State) : State :=
  let x : Job := { (default : Job) with st := .running, kind := kind }
  { s with host := { s.host with jobs := s.host.jobs.set 2 x } }

theorem meets_FirmwareSlots :
    (let s := updating .stop (fun u => { u with phase := .trial })
     MayWrite 0 s ∧ s.upd.sess[(0 : Fin 32)].result ≠ 1 ∧ s.upd.phase = .trial ∧ s.host.sess[(0 : Fin 32)].crown = true) ∧
    (let s := updating .stop (fun u => { u with phase := .ready, actSec := 9 })
     MayWrite 0 s ∧ s.host.sess[(0 : Fin 32)].crown = true ∧ (jobAt s (2 : Fin 8).val).st = .idle ∧ contactorJob s = false ∧
      s.upd.phase = .ready ∧ s.upd.phase ≠ .trial ∧ fabNs s + 2000000000 ≤ actNs s) ∧
    oldestOf 0x11 (slotRuns 0x11 (updating .stop id)) = some 2 ∧
    (let s := updating .blank (fun u => { u with phase := .trial, trialSec := 3600, expired := true })
     awake s = true ∧ s.upd.phase = .trial ∧ 3600 ≤ s.upd.trialSec ∧ s.upd.expired = true ∧ tickOf s = 0 ∧
      noSwitchOn s = true ∧ lowCurrent s = true) := by
  unfold MayWrite MayAccess
  exact ⟨by decide +kernel, by decide +kernel, by decide +kernel, by decide +kernel⟩

theorem meets_StepRunsFront : State.reset.pending = [] := by rfl

theorem meets_LimitsZeroOutsideRun : LimitsOnlyInRun State.reset ∧ step State.reset = .next State.reset := by
  exact ⟨fun _ => rfl, rfl⟩

theorem meets_ContactorsStayOpen : ContactorsHeld State.reset ∧ step State.reset = .next State.reset ∧ State.reset.st.mode = .blank ∧
    ContactorsHeld (working .loaded 5 0) ∧ ContactorsHeld (working .run 5 0) := by
  unfold ContactorsHeld HeldByA HeldByB
  exact ⟨⟨by decide +kernel, by decide +kernel, by decide +kernel, by decide +kernel⟩, rfl, rfl,
    ⟨by decide +kernel, by decide +kernel, by decide +kernel, by decide +kernel⟩,
    ⟨by decide +kernel, by decide +kernel, by decide +kernel, by decide +kernel⟩⟩

theorem meets_OnlyTableTransitions :
    (({ State.reset with pending := [.wakeIn] } : State).pending = .wakeIn :: [] ∧
      (match step { State.reset with pending := [.wakeIn] } with | .next _ => true | _ => false) = true) ∧
    (let s := commanded 3 (working .loaded 5 0)
     awake s = true ∧ tickOf s = 0 ∧ 4 ≠ s.time.beat ∧ s.host.sess[(0 : Fin 32)].isOpen = true ∧
      s.host.cmds = [{ sess := 0, req := none, code := 3, beat := 4 }] ∧ namesMove 3 s.st.mode = false) := by
  exact ⟨⟨rfl, by decide +kernel⟩, by decide +kernel⟩

/-! ### Well-formedness -/

/-- A chain header and a fabric header with a field too wide. -/
def wideChain : ChainHdr := { (default : ChainHdr) with seq := 65536 }
def wideFab : FabHdr := { (default : FabHdr) with src := 65536 }

/-- Bodies that fit, to be changed in one place each. -/
def okResult : ResultBody := { nstat := 0, suspect := 0, vpos := List.replicate 16 0 }
def okAux : AuxBody := { tflagNew := false, taps := [], temps := List.replicate 8 0 }
def okBank : BankBody := { (default : BankBody) with lim := List.replicate 8 0 }
def okStream : StreamBody := { (default : StreamBody) with i := List.replicate 8 0 }
def okPlan : PlanBody := { (default : PlanBody) with bleed := List.replicate 64 0 }
def okFrame : CanFrame := default

/-- A request in an ACCESS_REQ frame with one data word. -/
def okReq : Req := { reqOf 0 with via := .fabric { (default : FabHdr) with kind := 3, len := 16 } }

theorem test_wf_requests :
    (∀ c ∈ [Instr.nop { okReq with session := 256 }, .closeReq { okReq with atNs := 1000000 }, .openReq { okReq with tag := 65536 } 0,
        .read okReq 65536 0, .readFixed { okReq with via := .fabric wideFab } 1 0,
        .nop { okReq with via := .fabric { (default : FabHdr) with kind := 4, len := 16 } },
        .nop { okReq with via := .fabric { (default : FabHdr) with kind := 3, len := 11 } },
        .nop (reqOf 0 15), .nop { reqOf 0 with tag := 256 }, .nop { reqOf 0 with plainCount := 256 },
        .write okReq 1 0 [], .write (reqOf 0 2) 2 0 [1], .readFixed (reqOf 0) 256 0, .reservedOpRequest okReq 6, .reservedOpRequest okReq 256,
        .reservedKindStart 0 0 256], c.wf = false) ∧
    (∀ c ∈ [Instr.nop okReq, .write okReq 1 1 [1], .write (reqOf 0 2) 2 0 [1, 2], .reservedOpRequest okReq 7, .reservedOpRequest okReq 0,
        .reservedKindStart 0 0 255], c.wf = true) := by decide +kernel

theorem test_wf_chain :
    (∀ c ∈ [Instr.result wideChain okResult, .result default { okResult with vpos := [] }, .result default { okResult with nstat := 256 },
        .result default { okResult with vpos := List.replicate 16 (2 ^ 23) }, .result { (default : ChainHdr) with tick := 400 } okResult,
        .result { (default : ChainHdr) with addr := 256 } okResult, .result { (default : ChainHdr) with hops := 256 } okResult,
        .result { (default : ChainHdr) with claim := 65536 } okResult, .result default { okResult with suspect := 65536 },
        .echo { (default : ChainHdr) with typ := 256 } [] 0, .echo { (default : ChainHdr) with len := 256 } [] 0,
        .echo { (default : ChainHdr) with crc := 2 ^ 32 } [] 0, .echo default (List.replicate 257 0) 0,
        .aux wideChain okAux, .aux default { okAux with temps := [] }, .aux default { okAux with taps := List.replicate 6 default },
        .aux default { okAux with taps := [{ (default : TapEntry) with mux := 65536 }] }, .aux default { okAux with temps := List.replicate 8 (2 ^ 15) },
        .aux default { okAux with taps := [{ (default : TapEntry) with drop := 2 ^ 23 }] }, .aux default { okAux with taps := [{ (default : TapEntry) with tq := 256 }] },
        .reply wideChain 1 0 .none, .reply default 256 0 .none, .reply default 1 256 .none, .announce wideChain 0 0 0,
        .announce default (2 ^ 64) 0 0, .announce default 0 65536 0, .announce default 0 0 256], c.wf = false) ∧
    (∀ c ∈ [Instr.result default okResult, .aux default { okAux with taps := List.replicate 5 default }, .reply default 255 0 .none,
        .announce default (2 ^ 64 - 1) 1 1], c.wf = true) := by decide +kernel

/-- A BEAT frame with its 16 bleed words. -/
def okBeat : NodeBeat := { (default : NodeBeat) with bleed := List.replicate 16 0 }

theorem test_wf_nodes :
    (∀ c ∈ [Instr.nodeBeatReceive 0 0 { okBeat with claim := 65536 }, .nodeBeatReceive 0 0 { okBeat with hops := 256 },
        .nodeBeatReceive 0 0 { okBeat with bleed := [] }, .nodeBeatReceive 0 0 { okBeat with bleed := List.replicate 16 65536 },
        .nodeBeatReceive 0 0 { okBeat with beat := 2 ^ 64 }, .nodeBeatReceive 0 0 { okBeat with instant := 2 ^ 32 },
        .nodeBeatReceive 0 0 { okBeat with crc := 2 ^ 32 },
        .nodeSample 0 0 ⟨65536, false⟩ okResult.vpos okAux.temps [], .nodeSample 0 0 ⟨0, false⟩ [] okAux.temps [],
        .nodeSample 0 0 ⟨0, true⟩ okResult.vpos [] [], .nodeSample 0 0 ⟨0, false⟩ okResult.vpos okAux.temps (List.replicate 6 default),
        .chime 0 256 0 0 0 0, .chime 0 0 256 0 0 0,
        .chime 0 0 0 65536 0 0, .chime 0 0 0 0 65536 0, .chime 0 0 0 0 0 65536, .lockinStart 0 (2 ^ 40) 0 0, .lockinStart 0 0 65536 0,
        .lockinStart 0 0 0 65536], c.wf = false) ∧
    (∀ c ∈ [Instr.nodeBeatReceive 0 0 okBeat, .nodeSample 0 0 ⟨0, true⟩ okResult.vpos okAux.temps [], .chime 0 5 24 100 8 55,
        .lockinStart 0 (2 ^ 31) 1 60], c.wf = true) := by decide +kernel

theorem test_wf_fabric :
    (∀ c ∈ [Instr.hsrFrameReceive wideFab, .insResult wideFab 0 0 0, .station wideFab 0 0 0 [], .station default 256 0 0 [],
        .station default 0 256 0 [], .station default 0 0 256 [], .station default 0 0 0 (List.replicate 17 0),
        .discover (some (wideFab, default)), .discover (some (default, { (default : DiscoverBody) with mac := 2 ^ 48 })),
        .addrClaim (some (wideFab, 0)), .addrClaim (some (default, 65536)), .bankState (some (wideFab, 0, okBank)),
        .bankState (some (default, 400, okBank)), .bankState (some (default, 0, default)), .bankState (some (default, 0, { okBank with state := 256 })),
        .bankState (some (default, 0, { okBank with vStr := 2 ^ 31 })), .bankState (some (default, 0, { okBank with epoch := 2 ^ 32 })),
        .hsrFrameReceive { (default : FabHdr) with mac := 2 ^ 48 }, .hsrFrameReceive { (default : FabHdr) with ethDst := 2 ^ 48 },
        .hsrFrameReceive { (default : FabHdr) with etherType := 65536 }, .hsrFrameReceive { (default : FabHdr) with ver := 256 },
        .hsrFrameReceive { (default : FabHdr) with kind := 256 }, .hsrFrameReceive { (default : FabHdr) with len := 65536 }, .hsrFrameReceive { (default : FabHdr) with beat := 2 ^ 32 }], c.wf = false) ∧
    (∀ c ∈ [Instr.hsrFrameReceive default, .station default 1 16 0 (List.replicate 16 0), .bankState (some (default, 399, okBank)),
        .bankState none, .discover none, .addrClaim (some (default, 65535))], c.wf = true) := by decide +kernel

theorem test_wf_partner :
    (∀ c ∈ [Instr.resultFwd wideFab 0 0 0 okResult, .resultFwd default 0 65536 0 okResult, .resultFwd default 0 0 400 okResult,
        .resultFwd default 0 0 0 default, .auxFwd wideFab 0 0 0 okAux, .auxFwd default 0 65536 0 okAux, .auxFwd default 0 0 400 okAux,
        .auxFwd default 0 0 0 default, .front (some (wideFab, default)), .front (some (default, { (default : FrontBody) with i := 2 ^ 31 })),
        .front (some (default, { (default : FrontBody) with iCode := 8 })), .streamX (some (wideFab, okStream)), .streamX (some (default, default)),
        .streamX (some (default, { okStream with dq := 2 ^ 63 })), .plan (some (wideFab, okPlan)), .plan (some (default, default)),
        .plan (some (default, { okPlan with cmds := List.replicate 17 default })), .delays (some (wideFab, 0, .e, 0)),
        .delays (some (default, 0, .e, 65536)), .status (some (wideFab, default)), .status (some (default, { (default : StatusBody) with sides := 256 })),
        .status (some (default, { (default : StatusBody) with digest := 2 ^ 32 }))], c.wf = false) ∧
    (∀ c ∈ [Instr.resultFwd default 0 0 0 okResult, .auxFwd default 0 0 0 okAux, .front (some (default, default)), .streamX (some (default, okStream)),
        .plan (some (default, okPlan)), .delays (some (default, 0, .e, 581)), .status (some (default, default)), .status none], c.wf = true) := by
  decide +kernel

theorem test_wf_can_records :
    (∀ c ∈ [Instr.canFrameReceived 0 { okFrame with id := 2048 }, .canFrameReceived 0 { okFrame with xtd := true, id := 2 ^ 29 },
        .canFrameReceived 0 { okFrame with dlc := 16 }, .canFrameReceived 0 { okFrame with data := List.replicate 65 0 },
        .canFrameReceived 0 { okFrame with tick := 400 }, .manifestPiece 0 65536, .imagePiece 0 65536, .txTimestamp 0 65536 0], c.wf = false) ∧
    (∀ c ∈ [Instr.canFrameReceived 0 { okFrame with xtd := true, id := 2048 }, .manifestPiece 0 65535, .imagePiece 0 0, .txTimestamp 0 0 0,
        .beatBoundary], c.wf = true) := by decide +kernel

/-! ### Worked examples of the spec -/

/-- 02, after R35: the beat number and tick of 1 714 000 123.000 200 000. -/
theorem test_beat_and_tick :
    fabNs (atBeat 1714000123000 200000 State.reset) = 1714000123000200000 ∧ tickOf (atBeat 1714000123000 200000 State.reset) = 80 := by
  decide +kernel

/-- 03, after R64: both CRCs over the nine ASCII bytes 123456789. -/
theorem test_crc_values :
    let l : List Byte := [0x31, 0x32, 0x33, 0x34, 0x35, 0x36, 0x37, 0x38, 0x39]
    crc32 l = 0xCBF43926 ∧ crc32c l = 0xE3069283 := by decide +kernel

/-- 01, after R28: tap 9 at position 517 lies in the cell window at 0x0205_0900; 00, Table 00-10: the word before it lies in
no block. -/
theorem test_cell_window :
    blockOf 0x12050900 = some (.cellWin, (517 * 256 + 9) * 0x100) ∧ blockOf 0x0FFFFFFC = none ∧ blockOf 0x14000000 = some (.cellSum, 0) := by
  decide +kernel

/-- 12, the example of R310: three members with shares 333 333, 316 666 and 350 000. -/
theorem test_bank_limit :
    let m : Nat → Int → Nat → Member := fun n i lim =>
      { (default : Member) with string := n, included := true, body := { okBank with iEpoch := i, lim := lim :: List.replicate 7 0 } }
    let l := [m 1 40000000 50000000, m 2 38000000 52000000, m 3 42000000 48000000].map (shareStep 120000000 3)
    l.map (·.share) = [333333, 316666, 350000] ∧ bankLimit (fun _ => true) l 0 = 137142720 ∧
      bankLimit (fun _ => true) (l.map (fun x => if x.string = 3 then { x with included := false } else x)) 0 = 97499947 := by decide +kernel

/-- 09, the worked example: the integral increment and u of loop A. -/
theorem test_loop_period :
    let c : Coefs := { (default : Coefs) with kp := 2621440, ki := 13107, shift := [16, 16, 16, 16] }
    let x : LoopSt := { (default : LoopSt) with
      cfg := { (default : LoopCfg) with setpoint := 3000000, outMin := 0, outMax := 120000000 }
      coefs := c, x := 3212480, iState := 80000000 }
    x.pid.u = 88541695 ∧ x.pid.iState = 80042495 ∧ x.pid.satHi = false := by decide +kernel

/-- 13, the example of R336: 36 dropped items leave one gap marker in front of the next item. -/
theorem test_gap_marker :
    let q : Queue := { (default : Queue) with seq := 0x2A71 }
    let d : Queue := (List.replicate 36 ()).foldl (fun x _ => x.drop) q
    (d.take 1 (List.replicate 17 0)).words.take 3 = [0xFF012A71, 0x24, 0x01112A95] ∧ d.ovf = true ∧ d.total = 36 := by decide +kernel

/-- 16, the example of R394: an image of 9 437 000 bytes has 9 216 pieces, and its manifest 289. -/
theorem test_manifest_pieces :
    let m : List Byte := List.replicate 0x10 0 ++ leB 4 295104 ++ leB 4 9437000 ++ leB 4 9216 ++ List.replicate 0x64 0
    manPieces m = 289 ∧ nPieces m = (imageLen m + 1023) / 1024 ∧ manLen m = 192 + 32 * nPieces m := by decide +kernel


end Sys2Proof.Tests
end

section
/-! SUPPORT AND PROOFS. The two statements of chapter 00: every command answers a next state with the rest of the queue
behind it, and a single host access by its cases (00 R8, R12, 01 R21). -/

namespace Sys2Proof.Machine

/-! ### Every command answers a next state -/

/-- One line per row of the opcode table: its meaning's own lemma (Laws/Commands). -/
theorem exec_pending : ∀ (c : Instr) (s : State), ∃ t, exec c s = .next t ∧ t.pending = s.pending
  | .hostWrite sess addr value, s => execHostWrite_pending sess addr value s
  | .latchingRead sess addr, s => execLatchingRead_pending sess addr s
  | .openReq r word, s => execOpenReq_pending r word s
  | .closeReq r, s => execCloseReq_pending r s
  | .read r count addr, s => execRead_pending r count addr s
  | .write r count addr data, s => execWrite_pending r count addr data s
  | .readFixed r count addr, s => execReadFixed_pending r count addr s
  | .nop r, s => execNop_pending r s
  | .sessionTimeout sess, s => execSessionTimeout_pending sess s
  | .enterStorage sess, s => execEnterStorage_pending sess s
  | .arm sess, s => execArm_pending sess s
  | .run sess, s => execRun_pending sess s
  | .stop sess, s => execStop_pending sess s
  | .service sess, s => execService_pending sess s
  | .watch sess, s => execWatch_pending sess s
  | .resetCmd sess, s => execResetCmd_pending sess s
  | .stateCmdJudge, s => execStateCmdJudge_pending s
  | .wakeIn, s => execWakeIn_pending s
  | .vsupReturn, s => execVsupReturn_pending s
  | .powerFail vsupMv, s => execPowerFail_pending vsupMv s
  | .restart, s => execRestart_pending s
  | .internalWatchdog, s => execInternalWatchdog_pending s
  | .vsupLow vsupMv, s => execVsupLow_pending vsupMv s
  | .vsupHigh vsupMv, s => execVsupHigh_pending vsupMv s
  | .vloadLow vloadMv, s => execVloadLow_pending vloadMv s
  | .beatBoundary, s => execBeatBoundary_pending s
  | .itemRelease item, s => execItemRelease_pending item s
  | .itemComplete engine cycles, s => execItemComplete_pending engine cycles s
  | .itemBudgetExpiry engine, s => execItemBudgetExpiry_pending engine s
  | .itemDeadlineExpiry item cycles, s => execItemDeadlineExpiry_pending item cycles s
  | .syncReceive domain port rawOffset gm, s => execSyncReceive_pending domain port rawOffset gm s
  | .gptpAnnounceReceive domain port v, s => execGptpAnnounceReceive_pending domain port v s
  | .syncSend domain port, s => execSyncSend_pending domain port s
  | .pdelayExchange port meanNs, s => execPdelayExchange_pending port meanNs s
  | .syncReceiptTimeout domain, s => execSyncReceiptTimeout_pending domain s
  | .domainSwitch, s => execDomainSwitch_pending s
  | .steer sess value, s => execSteer_pending sess value s
  | .triggerArm sess k value, s => execTriggerArm_pending sess k value s
  | .triggerFire k, s => execTriggerFire_pending k s
  | .txTimestamp port id fabricNs, s => execTxTimestamp_pending port id fabricNs s
  | .tsqPop sess port value, s => execTsqPop_pending sess port value s
  | .probe sess value, s => execProbe_pending sess value s
  | .engLoadClear sess e value, s => execEngLoadClear_pending sess e value s
  | .ldData sess word, s => execLdData_pending sess word s
  | .postReceptionChecksDone, s => execPostReceptionChecksDone_pending s
  | .loadAccept, s => execLoadAccept_pending s
  | .loadTimeout, s => execLoadTimeout_pending s
  | .ldCtrlAbort sess, s => execLdCtrlAbort_pending sess s
  | .replaceLogic sess, s => execReplaceLogic_pending sess s
  | .replacementChecksDone, s => execReplacementChecksDone_pending s
  | .onCtrlGo sess n, s => execOnCtrlGo_pending sess n s
  | .cancel sess, s => execCancel_pending sess s
  | .batchPending, s => execBatchPending_pending s
  | .batchApply, s => execBatchApply_pending s
  | .constantApply task, s => execConstantApply_pending task s
  | .beatFrame, s => execBeatFrame_pending s
  | .passThroughCheck line seen, s => execPassThroughCheck_pending line seen s
  | .lineReturnWhole line, s => execLineReturnWhole_pending line s
  | .enumReset line, s => execEnumReset_pending line s
  | .enumAssign line, s => execEnumAssign_pending line s
  | .enumLineEnd line, s => execEnumLineEnd_pending line s
  | .reassign line addr, s => execReassign_pending line addr s
  | .readId node, s => execReadId_pending node s
  | .setDelay node, s => execSetDelay_pending node s
  | .setTapPlan node, s => execSetTapPlan_pending node s
  | .measSense node, s => execMeasSense_pending node s
  | .readSense node, s => execReadSense_pending node s
  | .chime node pos bin ampl cycles start, s => execChime_pending node pos bin ampl cycles start s
  | .lockinStart node bins posMask start, s => execLockinStart_pending node bins posMask start s
  | .lockinRead node pos bin, s => execLockinRead_pending node pos bin s
  | .stimStop line, s => execStimStop_pending line s
  | .readDiag node, s => execReadDiag_pending node s
  | .clearDiag node, s => execClearDiag_pending node s
  | .sleep line, s => execSleep_pending line s
  | .probeFrame, s => execProbeFrame_pending s
  | .echo h payload rttNs, s => execEcho_pending h payload rttNs s
  | .result h b, s => execResult_pending h b s
  | .aux h b, s => execAux_pending h b s
  | .reply h op status d, s => execReply_pending h op status d s
  | .announce h uid nodeType proto, s => execAnnounce_pending h uid nodeType proto s
  | .armResult, s => execArmResult_pending s
  | .chainCommit, s => execChainCommit_pending s
  | .nodeBeatReceive line hop f, s => execNodeBeatReceive_pending line hop f s
  | .nodeSample line hop marks vpos temps taps, s => execNodeSample_pending line hop marks vpos temps taps s
  | .nodeResultSend line hop, s => execNodeResultSend_pending line hop s
  | .nodeAuxSend line hop, s => execNodeAuxSend_pending line hop s
  | .nodeClaimRelease line hop, s => execNodeClaimRelease_pending line hop s
  | .nodeStimulusFallback line hop, s => execNodeStimulusFallback_pending line hop s
  | .nodeSleep line hop, s => execNodeSleep_pending line hop s
  | .nodeWake line hop, s => execNodeWake_pending line hop s
  | .nodeAnnounceSend line hop, s => execNodeAnnounceSend_pending line hop s
  | .streamSample k shuntPv vStr vLnk, s => execStreamSample_pending k shuntPv vStr vLnk s
  | .alignedSample, s => execAlignedSample_pending s
  | .chargeCommit, s => execChargeCommit_pending s
  | .gainCheck devStr devLnk, s => execGainCheck_pending devStr devLnk s
  | .insulationCycleStart, s => execInsulationCycleStart_pending s
  | .insulationPhaseSettled v, s => execInsulationPhaseSettled_pending v s
  | .insulationPhaseTimeout, s => execInsulationPhaseTimeout_pending s
  | .insResult h rPos rNeg endBeat, s => execInsResult_pending h rPos rNeg endBeat s
  | .accordEvaluation, s => execAccordEvaluation_pending s
  | .take sess value, s => execTake_pending sess value s
  | .snapshotCapture, s => execSnapshotCapture_pending s
  | .windowEnd bin, s => execWindowEnd_pending bin s
  | .chimeRoundStart, s => execChimeRoundStart_pending s
  | .burstEnd pos, s => execBurstEnd_pending pos s
  | .lockinCampaignStart, s => execLockinCampaignStart_pending s
  | .lockinCampaignEnd, s => execLockinCampaignEnd_pending s
  | .requestDwellStart, s => execRequestDwellStart_pending s
  | .spectrumCapture, s => execSpectrumCapture_pending s
  | .slotComplete, s => execSlotComplete_pending s
  | .derivedUpdate, s => execDerivedUpdate_pending s
  | .filterStep pos, s => execFilterStep_pending pos s
  | .secondJudgement, s => execSecondJudgement_pending s
  | .anchorHour, s => execAnchorHour_pending s
  | .warningEvaluation, s => execWarningEvaluation_pending s
  | .refReset sess, s => execRefReset_pending sess s
  | .seedCtrlGo sess value, s => execSeedCtrlGo_pending sess value s
  | .cellRoundUpdate, s => execCellRoundUpdate_pending s
  | .roundEffect, s => execRoundEffect_pending s
  | .thermalJudgement dieT, s => execThermalJudgement_pending dieT s
  | .loopSnapshot id, s => execLoopSnapshot_pending id s
  | .loopPeriodEnd id, s => execLoopPeriodEnd_pending id s
  | .limitPublication, s => execLimitPublication_pending s
  | .balancePlan, s => execBalancePlan_pending s
  | .channelAEvaluation hsMa, s => execChannelAEvaluation_pending hsMa s
  | .crcRecheck, s => execCrcRecheck_pending s
  | .selfTest passed, s => execSelfTest_pending passed s
  | .requestApplication, s => execRequestApplication_pending s
  | .toggleEdge intervalUs lsMa, s => execToggleEdge_pending intervalUs lsMa s
  | .toggleMissing, s => execToggleMissing_pending s
  | .aliveAdvance, s => execAliveAdvance_pending s
  | .latchA, s => execLatchA_pending s
  | .latchB, s => execLatchB_pending s
  | .overcurrentOnset, s => execOvercurrentOnset_pending s
  | .fastOc, s => execFastOc_pending s
  | .safetyInputChange i0 pinB level, s => execSafetyInputChange_pending i0 pinB level s
  | .pinFollow i0 channelB, s => execPinFollow_pending i0 channelB s
  | .testPulse tp lowReads, s => execTestPulse_pending tp lowReads s
  | .offPulseTest k, s => execOffPulseTest_pending k s
  | .offPulseEnd k maxMa, s => execOffPulseEnd_pending k maxMa s
  | .kCmd sess value, s => execKCmd_pending sess value s
  | .precharge sess j, s => execPrecharge_pending sess j s
  | .prechargeCommit, s => execPrechargeCommit_pending s
  | .prechargeEnd, s => execPrechargeEnd_pending s
  | .prechargeTimeout, s => execPrechargeTimeout_pending s
  | .closeMain sess j, s => execCloseMain_pending sess j s
  | .jobAbort sess j, s => execJobAbort_pending sess j s
  | .jobClear sess j, s => execJobClear_pending sess j s
  | .inputPhase, s => execInputPhase_pending s
  | .taskRun t cycles, s => execTaskRun_pending t cycles s
  | .taskOverrun t, s => execTaskOverrun_pending t s
  | .outputPhase, s => execOutputPhase_pending s
  | .station h dir n sflags words, s => execStation_pending h dir n sflags words s
  | .stationLost i0, s => execStationLost_pending i0 s
  | .forceEnable sess f value, s => execForceEnable_pending sess f value s
  | .forceClear sess f value, s => execForceClear_pending sess f value s
  | .varWr sess value, s => execVarWr_pending sess value s
  | .lgClrCounts sess, s => execLgClrCounts_pending sess s
  | .chClrCounts sess, s => execChClrCounts_pending sess s
  | .hsrFrameReceive h, s => execHsrFrameReceive_pending h s
  | .supervisionFrame backP0 backP1, s => execSupervisionFrame_pending backP0 backP1 s
  | .discover rx, s => execDiscover_pending rx s
  | .addrClaim rx, s => execAddrClaim_pending rx s
  | .addressTaken, s => execAddressTaken_pending s
  | .bankState rx, s => execBankState_pending rx s
  | .bankComputation, s => execBankComputation_pending s
  | .resultFwd h node seq tick b, s => execResultFwd_pending h node seq tick b s
  | .auxFwd h node seq tick b, s => execAuxFwd_pending h node seq tick b s
  | .front rx, s => execFront_pending rx s
  | .streamX rx, s => execStreamX_pending rx s
  | .plan rx, s => execPlan_pending rx s
  | .delays rx, s => execDelays_pending rx s
  | .status rx, s => execStatus_pending rx s
  | .pairLost, s => execPairLost_pending s
  | .yieldCmd sess, s => execYieldCmd_pending sess s
  | .reclaim sess, s => execReclaim_pending sess s
  | .publish, s => execPublish_pending s
  | .streamItem q, s => execStreamItem_pending q s
  | .queueItemCommit q ecc, s => execQueueItemCommit_pending q ecc s
  | .qdataRead sess q, s => execQdataRead_pending sess q s
  | .flush sess q, s => execFlush_pending sess q s
  | .claim sess q, s => execClaim_pending sess q s
  | .queueRelease sess q, s => execQueueRelease_pending sess q s
  | .req sess c b, s => execReq_pending sess c b s
  | .txbAbort sess c b, s => execTxbAbort_pending sess c b s
  | .canFrameSent c, s => execCanFrameSent_pending c s
  | .canAckError c, s => execCanAckError_pending c s
  | .canFrameReceived c f, s => execCanFrameReceived_pending c f s
  | .loop sess c value, s => execLoop_pending sess c value s
  | .busOffRecovery c, s => execBusOffRecovery_pending c s
  | .publicationDue c i0, s => execPublicationDue_pending c i0 s
  | .txb1Load c, s => execTxb1Load_pending c s
  | .inputFilterChange k level, s => execInputFilterChange_pending k level s
  | .counterEdge k, s => execCounterEdge_pending k s
  | .cntClr sess value, s => execCntClr_pending sess value s
  | .overload k, s => execOverload_pending k s
  | .overtemp k tempC, s => execOvertemp_pending k tempC s
  | .readback k, s => execReadback_pending k s
  | .openWire k, s => execOpenWire_pending k s
  | .silenceExpiry, s => execSilenceExpiry_pending s
  | .thConversion raw, s => execThConversion_pending raw s
  | .watchCheckStart, s => execWatchCheckStart_pending s
  | .watchCheckBeat d, s => execWatchCheckBeat_pending d s
  | .watchCheckEnd, s => execWatchCheckEnd_pending s
  | .wakeOutClr sess, s => execWakeOutClr_pending sess s
  | .wakeOutHold sess hold, s => execWakeOutHold_pending sess hold s
  | .ship sess value, s => execShip_pending sess value s
  | .provision sess value, s => execProvision_pending sess value s
  | .addKey sess value, s => execAddKey_pending sess value s
  | .revoke sess value, s => execRevoke_pending sess value s
  | .returnCmd sess value, s => execReturnCmd_pending sess value s
  | .scrap sess value, s => execScrap_pending sess value s
  | .recorderCommit, s => execRecorderCommit_pending s
  | .journalCommit, s => execJournalCommit_pending s
  | .freeze sess, s => execFreeze_pending sess s
  | .unfreeze sess, s => execUnfreeze_pending sess s
  | .freezeTimeout, s => execFreezeTimeout_pending s
  | .clearRecords sess j, s => execClearRecords_pending sess j s
  | .clearRecordsDone, s => execClearRecordsDone_pending s
  | .crownRelease sess value, s => execCrownRelease_pending sess value s
  | .lock sess, s => execLock_pending sess s
  | .manifestPiece sess index, s => execManifestPiece_pending sess index s
  | .manifestVerifyDone, s => execManifestVerifyDone_pending s
  | .imagePiece sess index, s => execImagePiece_pending sess index s
  | .pieceJudged sess, s => execPieceJudged_pending sess s
  | .imageHashCheckDone, s => execImageHashCheckDone_pending s
  | .confirm sess, s => execConfirm_pending sess s
  | .discardSlot sess j, s => execDiscardSlot_pending sess j s
  | .discardDone, s => execDiscardDone_pending s
  | .activate sess j, s => execActivate_pending sess j s
  | .trialExpiry, s => execTrialExpiry_pending s
  | .trialFallback, s => execTrialFallback_pending s
  | .portLinkChange p up, s => execPortLinkChange_pending p up s
  | .nodeReset line hop ident, s => execNodeReset_pending line hop ident s
  | .probeLost line, s => execProbeLost_pending line s
  | .overcurrentEnd, s => execOvercurrentEnd_pending s
  | .canBusError c transmitting, s => execCanBusError_pending c transmitting s
  | .canArbitrationLost c, s => execCanArbitrationLost_pending c s
  | .readbackClear k, s => execReadbackClear_pending k s
  | .openWireClear k, s => execOpenWireClear_pending k s
  | .reserveLow low, s => execReserveLow_pending low s
  | .opSec, s => execOpSec_pending s
  | .reservedOpRequest r op, s => execReservedOpRequest_pending r op s
  | .reservedKindStart sess j kind, s => execReservedKindStart_pending sess j kind s

theorem step_of_pending_nil {s : State} (h : s.pending = []) : step s = .next s := by simp only [step, h]

theorem step_of_pending_cons {s : State} {c : Instr} {rest : List Instr} (h : s.pending = c :: rest) :
    step s = exec c { s with pending := rest } := by simp only [step, h]

theorem step_pending (s : State) : ∃ t, step s = .next t ∧ t.pending = s.pending.tail := by
  cases h : s.pending with
  | nil => exact ⟨s, step_of_pending_nil h, h⟩
  | cons c rest =>
    rw [step_of_pending_cons h]
    exact exec_pending c { s with pending := rest }

/-! ### The state that a single access works on -/

theorem modSess_sess_self (i : Fin 32) (f : Session → Session) (s : State) :
    (modSess i f s).host.sess[i] = f s.host.sess[i] := by
  simp [modSess, updAt]

theorem accessed_outstanding {i : Fin 32} {s : State} (h : MayAccess i s) :
    (accessed i s).host.sess[i].outstanding = false := by
  obtain ⟨-, -, hout⟩ := h
  rw [accessed, modSess_sess_self, fresh_host]
  exact hout

@[simp] theorem accessed_st (i : Fin 32) (s : State) : (accessed i s).st = s.st := rfl

@[simp] theorem safeOk_accessed (i : Fin 32) (a : Nat) (v : Word) (s : State) :
    safeOk a v (accessed i s) = safeOk a v s := rfl

/-- The response to a single access goes to nobody's port: it is one output and nothing else. -/
theorem respond_directRsp (i : Fin 32) (op : Nat) (c : RspCode) (a : Nat) (d : List Word) (s : State) :
    respond (directRsp i op c a d) s = put (.rsp (directRsp i op c a d)) s := rfl

/-! ### One word written or read: a rule per case (00 R8, 01 R21) -/

section
variable {i : Fin 32} {req : Option (Req × Nat × Nat)} {a o : Nat} {b : Blk} {v : Word} {s : State}

theorem writeWord_unaligned (h4 : a % 4 ≠ 0) : writeWord i req a v s = (.align, s) := by
  simp only [writeWord, if_pos h4]

theorem writeWord_outside (h4 : a % 4 = 0) (hb : blockOf a = none) : writeWord i req a v s = (.address, s) := by
  simp only [writeWord, h4, hb, ne_eq, not_true_eq_false, if_false]

theorem writeWord_refused_in_safe (h4 : a % 4 = 0) (hb : (blockOf a).isSome = true) (hm : s.st.mode = .safe)
    (hok : safeOk a v s = false) : writeWord i req a v s = (.access, s) := by
  obtain ⟨⟨b, o⟩, hb⟩ := Option.isSome_iff_exists.mp hb
  simp only [writeWord, h4, hb, hm, hok, ne_eq, not_true_eq_false, if_false, and_self, if_true]

theorem writeWord_taken (h4 : a % 4 = 0) (hb : blockOf a = some (b, o))
    (hok : s.st.mode = .safe → safeOk a v s = true) :
    writeWord i req a v s = blockWrite i req b o (keepFresh a v s) s := by
  have hnot : ¬ (s.st.mode = .safe ∧ safeOk a v s = false) := fun ⟨hm, hf⟩ => by
    rw [hok hm] at hf
    cases hf
  simp only [writeWord, h4, hb, hnot, ne_eq, not_true_eq_false, if_false]

theorem readWord_unaligned (h4 : a % 4 ≠ 0) : readWord i a s = (.align, 0, s) := by
  simp only [readWord, if_pos h4]

theorem readWord_outside (h4 : a % 4 = 0) (hb : blockOf a = none) : readWord i a s = (.address, 0, s) := by
  simp only [readWord, h4, hb, ne_eq, not_true_eq_false, if_false, Option.isNone_none, if_true]

theorem readWord_register (h4 : a % 4 = 0) (hb : (blockOf a).isSome = true) (hh : headAt a = none) :
    readWord i a s = (.ok, sessionRead i a s, takeLatch i a s) := by
  obtain ⟨p, hb⟩ := Option.isSome_iff_exists.mp hb
  simp only [readWord, h4, hb, hh, ne_eq, not_true_eq_false, if_false, Option.isNone_some, Bool.false_eq_true]

end

/-! ### HOST_WRITE and LATCHING_READ by what their word does -/

section
variable {i : Fin 32} {a v w : Word} {c : RspCode} {s x : State}

/-- A write that leaves no request of its session outstanding is answered at once. -/
theorem exec_hostWrite_of_writeWord (h : MayAccess i s) (hw : writeWord i none a.toNat v (accessed i s) = (c, x))
    (hout : x.host.sess[i].outstanding = false) :
    exec (.hostWrite i a v) s = .next (put (.rsp (directRsp i 4 c a.toNat [])) x) := by
  have hx : hostWrite i a.toNat v (fresh s) = put (.rsp (directRsp i 4 c a.toNat [])) x := by
    rw [hostWrite, access_of_may h]
    simp only [hw, hout, Bool.false_eq_true, if_false, respond_directRsp]
  exact congrArg _ hx

/-- A write that is refused leaves the accessed state as it is, and its code is the answer. -/
theorem exec_hostWrite_refused (h : MayAccess i s)
    (hw : writeWord i none a.toNat v (accessed i s) = (c, accessed i s)) :
    exec (.hostWrite i a v) s = .next (put (.rsp (directRsp i 4 c a.toNat [])) (accessed i s)) :=
  exec_hostWrite_of_writeWord h hw (accessed_outstanding h)

theorem exec_latchingRead_of_readWord (h : MayAccess i s) (hr : readWord i a.toNat (accessed i s) = (c, w, x)) :
    exec (.latchingRead i a) s =
      .next (put (.rsp (directRsp i 3 c a.toNat (if c = .ok then [w] else []))) x) := by
  have hx : hostRead i a.toNat (fresh s) =
      put (.rsp (directRsp i 3 c a.toNat (if c = .ok then [w] else []))) x := by
    rw [hostRead, access_of_may h]
    simp only [hr, respond_directRsp]
  exact congrArg _ hx

end

/-! ### Latches (00 R12) -/

/-- A read at `a` leaves, for each word that it latches, the live value of that moment and no other. -/
theorem mem_takeLatch_iff {a b : Nat} (hb : b ∈ latchOf a) (i : Fin 32) (s : State) (x : Word) :
    (b, x) ∈ (takeLatch i a s).host.sess[i].latches ↔ x = regRead i b s := by
  have hne : (latchOf a).isEmpty = false := List.isEmpty_eq_false_iff_exists_mem.mpr ⟨b, hb⟩
  simp only [takeLatch, hne, Bool.false_eq_true, if_false, modSess_sess_self]
  simp [hb, eq_comm]

/-- While a latch of the session covers a word, the session's reads depend on its latches alone. -/
theorem sessionRead_eq_of_latched {i : Fin 32} {b : Nat} {s u : State}
    (hl : u.host.sess[i].latches = s.host.sess[i].latches)
    (hf : (s.host.sess[i].latches.find? (fun p => p.1 == b)).isSome = true) :
    sessionRead i b u = sessionRead i b s := by
  obtain ⟨p, hp⟩ := Option.isSome_iff_exists.mp hf
  simp only [sessionRead, hl, hp]

end Sys2Proof.Machine

namespace Sys2Proof

open Sys2Proof.Machine

/-- Settles O2: each command by its meaning's lemma, and a step by its queue's front. -/
theorem everyStep : Obligations.EveryStep := ⟨exec_pending, step_pending⟩

/-- Settles O9: each clause is one case of a written or read word, carried to the command by the access that a session
may make. -/
theorem singleAccess : Obligations.SingleAccess := by
  refine ⟨fun i a v s h => ⟨fun h4 => ⟨?_, ?_⟩, fun h4 hb => ⟨?_, ?_⟩, fun h4 hb hm hok => ?_,
    fun k o h4 hb hok hout => ?_, fun h4 hb hh => ?_⟩, fun i a b s hb => ⟨?_, fun x hx => ?_⟩,
    fun i b s u hl hf => sessionRead_eq_of_latched hl hf⟩
  · exact exec_hostWrite_refused h (writeWord_unaligned h4)
  · exact exec_latchingRead_of_readWord h (readWord_unaligned h4)
  · exact exec_hostWrite_refused h (writeWord_outside h4 hb)
  · exact exec_latchingRead_of_readWord h (readWord_outside h4 hb)
  · exact exec_hostWrite_refused h (writeWord_refused_in_safe h4 hb (by simpa using hm) (by simpa using hok))
  · exact exec_hostWrite_of_writeWord h (writeWord_taken h4 hb (by simpa using hok)) hout
  · exact exec_latchingRead_of_readWord h (readWord_register h4 hb hh)
  · exact (mem_takeLatch_iff hb i s _).mpr rfl
  · exact (mem_takeLatch_iff hb i s x).mp hx

end Sys2Proof
end

section
/-! SUPPORT AND PROOFS. The statements of chapter 01 about the module in its string. What one command does is told by one
relation, `Lawful`: limits stay zero outside RUN (R24), contactors stay held (R25), and the state changes as a relation on
states says (R20). -/

namespace Sys2Proof.Machine

/-! ### Lawful changes -/

/-- A change from s to t keeps both invariants of chapter 01, and R relates the states before and after. -/
structure Lawful (R : Mode → Mode → Prop) (s t : State) : Prop where
  limits : LimitsOnlyInRun s → LimitsOnlyInRun t
  held : ContactorsHeld s → ContactorsHeld t
  mode : R s.st.mode t.st.mode

/-- The state stays. -/
def Stays (m n : Mode) : Prop := n = m

/-- The state stays, or T11 is made. -/
def Trips (m n : Mode) : Prop := n = m ∨ (n = .safe ∧ (m = .armed ∨ m = .run ∨ m = .stop ∨ m = .service))

/-- The state stays, or a load begins or ends: one WRITE of many words may make T3 and T5 in turn. -/
def Loads (m n : Mode) : Prop := n = m ∨ ((m = .blank ∨ m = .loading) ∧ (n = .blank ∨ n = .loading))

/-- The state stays, or one transition of Table 01-4 is made. -/
def Tabled (m n : Mode) : Prop := n = m ∨ tableMove m n = true

/-- A lawful change that leaves the state as it is. -/
abbrev Steady (s t : State) : Prop := Lawful Stays s t

theorem Trips.trans {m n o : Mode} : Trips m n → Trips n o → Trips m o := by
  rintro (rfl | ⟨rfl, hm⟩) h
  · exact h
  · obtain rfl | ⟨rfl, -⟩ := h
    · exact .inr ⟨rfl, hm⟩
    · exact .inr ⟨rfl, hm⟩

theorem Loads.trans {m n o : Mode} : Loads m n → Loads n o → Loads m o := by
  rintro (rfl | ⟨hm, hn⟩) h
  · exact h
  · obtain rfl | ⟨-, ho⟩ := h
    · exact .inr ⟨hm, hn⟩
    · exact .inr ⟨hm, ho⟩

theorem Trips.tabled {m n : Mode} : Trips m n → Tabled m n := by
  rintro (rfl | ⟨rfl, rfl | rfl | rfl | rfl⟩)
  · exact .inl rfl
  all_goals exact .inr rfl

theorem Loads.tabled {m n : Mode} : Loads m n → Tabled m n := by
  rintro (rfl | ⟨hm, rfl | rfl⟩)
  · exact .inl rfl
  · exact .inr (by cases m <;> rfl)
  · obtain rfl | rfl := hm
    · exact .inr rfl
    · exact .inl rfl

section
variable {R R' : Mode → Mode → Prop} {s t u : State}

theorem Lawful.mono (h : Lawful R s t) (hR : ∀ {m n}, R m n → R' m n) : Lawful R' s t :=
  ⟨h.limits, h.held, hR h.mode⟩

theorem Lawful.trans (hR : ∀ {a b c}, R a b → R b c → R a c) (h : Lawful R s t) (h' : Lawful R t u) : Lawful R s u :=
  ⟨h'.limits ∘ h.limits, h'.held ∘ h.held, hR h.mode h'.mode⟩

theorem Lawful.refl (s : State) : Steady s s := ⟨id, id, rfl⟩

/-- A steady change, then a lawful one. -/
theorem Lawful.then (h : Steady s t) (h' : Lawful R t u) : Lawful R s u :=
  ⟨h'.limits ∘ h.limits, h'.held ∘ h.held, by
    have hm : t.st.mode = s.st.mode := h.mode
    exact hm ▸ h'.mode⟩

/-- A lawful change, then a steady one. -/
theorem Lawful.steady (h : Lawful R s t) (h' : Steady t u) : Lawful R s u :=
  ⟨h'.limits ∘ h.limits, h'.held ∘ h.held, by
    have hm : u.st.mode = t.st.mode := h'.mode
    exact hm ▸ h.mode⟩

theorem Lawful.trips (h : Steady s t) : Lawful Trips s t := h.mono .inl

theorem Lawful.loads (h : Steady s t) : Lawful Loads s t := h.mono .inl

theorem Lawful.tabled (h : Steady s t) : Lawful Tabled s t := h.mono .inl

theorem Lawful.trips_then (h : Lawful Trips s t) (h' : Lawful Trips t u) : Lawful Trips s u := h.trans Trips.trans h'

theorem Lawful.tabled_of_trips (h : Lawful Trips s t) : Lawful Tabled s t := h.mono Trips.tabled

theorem Lawful.tabled_of_loads (h : Lawful Loads s t) : Lawful Tabled s t := h.mono Loads.tabled

end

theorem Lawful.ite {R : Mode → Mode → Prop} {p : Prop} [Decidable p] {s t u : State} (ht : Lawful R s t)
    (hu : Lawful R s u) : Lawful R s (if p then t else u) := by
  split
  · exact ht
  · exact hu

/-- A fold of lawful steps is lawful, for a relation that holds of no change and of one after the other. -/
theorem foldl_lawful {α : Type} {R : Mode → Mode → Prop} (hrefl : ∀ {m}, R m m)
    (htrans : ∀ {a b c}, R a b → R b c → R a c) {g : State → α → State} (h : ∀ s x, Lawful R s (g s x)) (l : List α)
    (s : State) : Lawful R s (l.foldl g s) := by
  induction l generalizing s with
  | nil => exact ⟨id, id, hrefl⟩
  | cons x r ih => exact (h s x).trans htrans (ih (g s x))

theorem foldl_steady {α : Type} {g : State → α → State} (h : ∀ s x, Steady s (g s x)) (l : List α) (s : State) :
    Steady s (l.foldl g s) :=
  foldl_lawful (R := Stays) rfl (fun h h' => h'.trans h) h l s

/-! ### Changes that the invariants do not see -/

/-- What the invariants of chapter 01 speak of is in t as it was in s: STATE, the published limits, the contactors and the
two latches. -/
def Calm (s t : State) : Prop :=
  t.st = s.st ∧ t.lim.lim = s.lim.lim ∧ t.saf.k = s.saf.k ∧ t.saf.latchA = s.saf.latchA ∧ t.saf.latchB = s.saf.latchB

theorem Calm.refl (s : State) : Calm s s := ⟨rfl, rfl, rfl, rfl, rfl⟩

/-- The state of a pair, taken apart. -/
theorem Calm.of_pair {α : Type} {s t : State} {p : State × α} {x : α} (h : Calm s p.1) (hp : p = (t, x)) : Calm s t := by
  subst hp
  exact h

theorem Calm.trans {s t u : State} (h : Calm s t) (h' : Calm t u) : Calm s u := by
  obtain ⟨h1, h2, h3, h4, h5⟩ := h
  obtain ⟨g1, g2, g3, g4, g5⟩ := h'
  exact ⟨g1.trans h1, g2.trans h2, g3.trans h3, g4.trans h4, g5.trans h5⟩

theorem foldl_calm {α : Type} {g : State → α → State} (h : ∀ s x, Calm s (g s x)) (l : List α) (s : State) :
    Calm s (l.foldl g s) := by
  induction l generalizing s with
  | nil => exact Calm.refl s
  | cons x r ih => exact (h s x).trans (ih (g s x))

theorem Calm.steady {s t : State} (h : Calm s t) : Steady s t := by
  obtain ⟨hst, hlim, hk, ha, hb⟩ := h
  refine ⟨?_, ?_, congrArg _ hst⟩
  · rw [LimitsOnlyInRun, LimitsOnlyInRun, hst, hlim]
    exact id
  · rw [ContactorsHeld, ContactorsHeld, hst, hk, ha, hb]
    exact id

theorem Calm.loads {s t : State} (h : Calm s t) : Lawful Loads s t := h.steady.loads

theorem Calm.tabled {s t : State} (h : Calm s t) : Lawful Tabled s t := h.steady.tabled

theorem fresh_calm (s : State) : Calm s (fresh s) := ⟨rfl, rfl, rfl, rfl, rfl⟩

theorem modSess_calm (i : Fin 32) (f : Session → Session) (s : State) : Calm s (modSess i f s) := ⟨rfl, rfl, rfl, rfl, rfl⟩

theorem fresh_steady (s : State) : Steady s (fresh s) := (fresh_calm s).steady

/-! ### Contactors -/

/-- What a channel holds open in c it holds open in d. -/
def KeepsOff (c d : Contactor) : Prop := (HeldByA c → HeldByA d) ∧ (HeldByB c → HeldByB d)

theorem KeepsOff.trans {c d e : Contactor} (h : KeepsOff c d) (h' : KeepsOff d e) : KeepsOff c e :=
  ⟨h'.1 ∘ h.1, h'.2 ∘ h.2⟩

/-- Neither the switches, nor the request to channel B, nor the pulse changes. -/
theorem KeepsOff.of_eq {c d : Contactor} (hhs : d.hs = c.hs) (hls : d.ls = c.ls) (hreq : d.closeReq = c.closeReq)
    (hp : d.pulse = c.pulse) (ho : d.pulseOpened = c.pulseOpened) : KeepsOff c d := by
  simp only [KeepsOff, HeldByA, HeldByB, hhs, hls, hreq, hp, ho, imp_self, and_self]

theorem KeepsOff.refl (c : Contactor) : KeepsOff c c := .of_eq rfl rfl rfl rfl rfl

theorem heldByA_offA (c : Contactor) : HeldByA c.offA := by
  cases hp : c.pulse <;> simp [HeldByA, Contactor.offA, hp]

theorem heldByB_offB (c : Contactor) : HeldByB c.offB := by
  cases hp : c.pulse <;> simp [HeldByB, Contactor.offB, hp]

theorem keepsOff_offA (c : Contactor) : KeepsOff c c.offA := by
  refine ⟨fun _ => heldByA_offA c, fun ⟨hls, hp⟩ => ⟨hls, ?_⟩⟩
  exact hp.imp id (fun ho => by simp [Contactor.offA, ho])

theorem keepsOff_offB (c : Contactor) : KeepsOff c c.offB := by
  refine ⟨fun ⟨hhs, hreq, hp⟩ => ⟨hhs, hreq, ?_⟩, fun _ => heldByB_offB c⟩
  exact hp.imp id (fun ho => by simp [Contactor.offB, ho])

theorem heldByA_offBoth (c : Contactor) : HeldByA c.offBoth :=
  (keepsOff_offB c.offA).1 (heldByA_offA c)

theorem heldByB_offBoth (c : Contactor) : HeldByB c.offBoth := heldByB_offB c.offA

theorem keepsOff_offBoth (c : Contactor) : KeepsOff c c.offBoth :=
  ⟨fun _ => heldByA_offBoth c, fun _ => heldByB_offBoth c⟩

theorem heldByA_default : HeldByA default := ⟨rfl, rfl, .inl rfl⟩

theorem heldByB_default : HeldByB default := ⟨rfl, .inl rfl⟩

/-! ### Where a channel holds every contactor -/

/-- Channel A holds every contactor open: it has latched, or the state is neither RUN nor SAFE. -/
def HoldsA (s : State) : Prop := s.saf.latchA = true ∨ (s.st.mode ≠ .run ∧ s.st.mode ≠ .safe)

/-- The same for channel B. -/
def HoldsB (s : State) : Prop := s.saf.latchB = true ∨ (s.st.mode ≠ .run ∧ s.st.mode ≠ .safe)

/-- A channel may turn a switch on: RUN, and neither channel has latched (10 R253, R254). -/
def MayClose (s : State) : Prop := s.st.mode = .run ∧ s.saf.latchA = false ∧ s.saf.latchB = false

theorem contactorsHeld_iff (s : State) : ContactorsHeld s ↔
    (HoldsA s → ∀ k < 4, HeldByA (getNat s.saf.k k)) ∧ (HoldsB s → ∀ k < 4, HeldByB (getNat s.saf.k k)) ∧
      (s.st.mode = .safe → s.saf.latchA = true ∨ s.saf.latchB = true) := by
  constructor
  · rintro ⟨ha, hb, hsafe, hopen⟩
    refine ⟨fun h => h.elim ha ?_, fun h => h.elim hb ?_, hsafe⟩
    · exact fun ⟨hr, hs⟩ k hk => (hopen hr hs k hk).1
    · exact fun ⟨hr, hs⟩ k hk => (hopen hr hs k hk).2
  · rintro ⟨ha, hb, hsafe⟩
    exact ⟨fun h => ha (.inl h), fun h => hb (.inl h), hsafe,
      fun hr hs k hk => ⟨ha (.inr ⟨hr, hs⟩) k hk, hb (.inr ⟨hr, hs⟩) k hk⟩⟩

theorem HoldsA.not_mayClose {s : State} (h : HoldsA s) : ¬ MayClose s := by
  rintro ⟨hr, ha, -⟩
  obtain h | ⟨h, -⟩ := h
  · simp [ha] at h
  · exact h hr

theorem HoldsB.not_mayClose {s : State} (h : HoldsB s) : ¬ MayClose s := by
  rintro ⟨hr, -, hb⟩
  obtain h | ⟨h, -⟩ := h
  · simp [hb] at h
  · exact h hr

theorem permitBase_mayClose {s : State} (h : permitBase s = true) : MayClose s := by
  simp only [permitBase, Bool.and_eq_true, beq_iff_eq, Bool.not_eq_true'] at h
  obtain ⟨⟨⟨hr, ha⟩, hb⟩, -⟩ := h
  exact ⟨hr, ha, hb⟩

/-- Where no switch may be turned on, channel B permits no contactor: a channel has latched, or nothing is asked of it. -/
theorem permitB_mayClose {s : State} (hs : ContactorsHeld s) {k : Nat} (hk : k < 4)
    (h : permitB s k (getNat s.saf.k k) = true) : MayClose s := by
  simp only [permitB, Bool.and_eq_true, Bool.not_eq_true'] at h
  obtain ⟨⟨⟨⟨⟨-, hreq⟩, hla⟩, hlb⟩, -⟩, -⟩ := h
  obtain ⟨ha, -, hsafe⟩ := (contactorsHeld_iff s).mp hs
  refine ⟨by_contra fun hr => ?_, hla, hlb⟩
  have hns : s.st.mode ≠ .safe := fun h => by simpa [hla, hlb] using hsafe h
  obtain ⟨-, hoff, -⟩ := ha (.inr ⟨hr, hns⟩) k hk
  simp [hoff] at hreq

/-- STATE, limits and latches stay, and unless a switch may be turned on every contactor stays as open as it was. -/
theorem Lawful.of_contactors {s t : State} (hst : t.st = s.st) (hlim : t.lim.lim = s.lim.lim)
    (ha : t.saf.latchA = s.saf.latchA) (hb : t.saf.latchB = s.saf.latchB)
    (hk : ContactorsHeld s → ¬ MayClose s → ∀ k < 4, KeepsOff (getNat s.saf.k k) (getNat t.saf.k k)) : Steady s t := by
  refine ⟨?_, fun h => ?_, congrArg _ hst⟩
  · rw [LimitsOnlyInRun, LimitsOnlyInRun, hst, hlim]
    exact id
  · have hkeep := hk h
    rw [contactorsHeld_iff] at h ⊢
    rw [HoldsA, HoldsB, hst, ha, hb]
    obtain ⟨h1, h2, h3⟩ := h
    exact ⟨fun hA k hk => (hkeep (HoldsA.not_mayClose hA) k hk).1 (h1 hA k hk),
      fun hB k hk => (hkeep (HoldsB.not_mayClose hB) k hk).2 (h2 hB k hk), h3⟩

/-- The same, where one function of number and contactor makes all the changes. -/
theorem Lawful.of_mapAll {s t : State} {f : Nat → Contactor → Contactor} (hst : t.st = s.st)
    (hlim : t.lim.lim = s.lim.lim) (ha : t.saf.latchA = s.saf.latchA) (hb : t.saf.latchB = s.saf.latchB)
    (hk : t.saf.k = mapAll s.saf.k f)
    (h : ContactorsHeld s → ¬ MayClose s → ∀ k < 4, KeepsOff (getNat s.saf.k k) (f k (getNat s.saf.k k))) :
    Steady s t :=
  .of_contactors hst hlim ha hb (fun hs hc k h4 => by
    rw [hk, getNat_mapAll _ _ h4]
    exact h hs hc k h4)

@[simp] theorem allK_k (f : Nat → Contactor → Contactor) (s : State) : (allK f s).saf.k = mapAll s.saf.k f := rfl

theorem allK_steady {f : Nat → Contactor → Contactor} (h : ∀ k c, KeepsOff c (f k c)) (s : State) :
    Steady s (allK f s) :=
  .of_mapAll rfl rfl rfl rfl rfl (fun _ _ k _ => h k _)

theorem modK_steady {k : Nat} {f : Contactor → Contactor} (s : State)
    (h : ContactorsHeld s → ¬ MayClose s → KeepsOff (getNat s.saf.k k) (f (getNat s.saf.k k))) :
    Steady s (modK k f s) := by
  refine .of_contactors rfl rfl rfl rfl (fun hs hc j hj => ?_)
  change KeepsOff _ (getNat (updNat s.saf.k k f) j)
  by_cases hjk : j = k
  · subst hjk
    rw [getNat_updNat_same _ hj]
    exact h hs hc
  · rw [getNat_updNat_other _ hjk]
    exact .refl _

/-- Both channels hold every contactor open. -/
def HeldOpen (s : State) : Prop := ∀ k < 4, HeldByA (getNat s.saf.k k) ∧ HeldByB (getNat s.saf.k k)

theorem contactorsHeld_of_heldOpen {s : State} (h : HeldOpen s) (hm : s.st.mode ≠ .safe) : ContactorsHeld s :=
  ⟨fun _ k hk => (h k hk).1, fun _ k hk => (h k hk).2, fun hs => absurd hs hm, fun _ _ => h⟩

theorem allOff_of_heldOpen {s : State} (h : HeldOpen s) : allOff s = true := by
  refine List.all_eq_true.mpr fun k hk => ?_
  obtain ⟨⟨hhs, -, -⟩, hls, -⟩ := h k (List.mem_range.mp hk)
  simp [kOn, hhs, hls]

theorem HeldOpen.of_calm {s t : State} (h : HeldOpen s) (hst : Calm s t) : HeldOpen t := by
  obtain ⟨-, -, hk, -, -⟩ := hst
  rwa [HeldOpen, hk]

/-- Contactors start open. -/
theorem heldOpen_of_default {t : State} (hk : t.saf.k = default) : HeldOpen t := by
  intro k h4
  have hd : getNat (default : Vector Contactor 4) k = default := by
    rw [getNat_of_lt _ h4]
    exact Vector.getElem_replicate h4
  rw [hk, hd]
  exact ⟨heldByA_default, heldByB_default⟩

theorem contactorsHeld_of_default {t : State} (hk : t.saf.k = default) (hm : t.st.mode ≠ .safe) : ContactorsHeld t :=
  contactorsHeld_of_heldOpen (heldOpen_of_default hk) hm

/-- A start from reset, into a state where nothing runs: nothing is published, no contactor is on and no channel has
latched. -/
theorem Lawful.of_reset {R : Mode → Mode → Prop} {s t : State} (hlim : t.lim.lim = Vector.replicate 8 0)
    (hsaf : t.saf = default) (hm : t.st.mode ≠ .safe) (hR : R s.st.mode t.st.mode) : Lawful R s t := by
  exact ⟨fun _ _ => hlim, fun _ => contactorsHeld_of_default (by rw [hsaf]; rfl) hm, hR⟩

end Sys2Proof.Machine
end

section
/-! SUPPORT AND PROOFS. The queue's front, the state that reset leaves, and a state command that waits for the beat
boundary. -/

namespace Sys2Proof.Machine

/-! ### A state command joins those that wait (13 R326, R328) -/

theorem replaceStop_host (s : State) : (replaceStop s).host = s.host := by
  unfold replaceStop
  split <;> rfl

theorem replaceStop_time (s : State) : (replaceStop s).time = s.time := by
  unfold replaceStop
  split <;> rfl

theorem replaceStop_sent (s : State) : (replaceStop s).sent = s.sent := by
  unfold replaceStop
  split <;> rfl

/-- A session's state command n waits: its request is outstanding, it stands last, and nothing is said yet. -/
structure CommandWaits (i : Fin 32) (n : Nat) (s t : State) : Prop where
  outstanding : t.host.sess[i].outstanding = true
  code : t.host.sess[i].cmdCode = n
  silent : t.sent = s.sent
  st : t.st = s.st
  saf : t.saf = s.saf
  cmds : t.host.cmds = s.host.cmds ++ [{ sess := i, req := none, code := n, beat := s.time.beat }]

theorem stateCmdWrite_waits (i : Fin 32) {v : Word} (h : 1 ≤ wBits v 7 0 ∧ wBits v 7 0 ≤ 7) (s : State) :
    (stateCmdWrite i none v s).1 = .ok ∧ CommandWaits i (wBits v 7 0) s (stateCmdWrite i none v s).2 := by
  simp only [stateCmdWrite, if_pos h, true_and]
  refine ⟨?_, ?_, replaceStop_sent s, replaceStop_st s, replaceStop_saf s, ?_⟩
  · rw [modSess_sess_self]
  · rw [modSess_sess_self]
  · simp only [modSess, replaceStop_host, replaceStop_time]

/-- A write of a command's code to STATE_CMD makes the command wait, in every state (01 R21 allows it in SAFE). -/
theorem writeCmd_stateCmd {i : Fin 32} {s : State} (hs : MayAccess i s) {v : Word}
    (h : 1 ≤ wBits v 7 0 ∧ wBits v 7 0 ≤ 7) :
    ∃ t, writeCmd i 0x10 v s = .next t ∧ CommandWaits i (wBits v 7 0) (accessed i s) t := by
  obtain ⟨-, hw⟩ := stateCmdWrite_waits i h (accessed i s)
  have hword : writeWord i none 0x10 v (accessed i s) = stateCmdWrite i none v (accessed i s) := by
    rw [writeWord_taken (b := .ident) (o := 0x10) (by decide) (by decide) (fun _ => by simp [safeOk]),
      keepFresh_of_none (by decide)]
    rfl
  refine ⟨_, rfl, ?_⟩
  simpa only [hostWrite, access_of_may hs, hword, hw.outstanding, if_true] using hw

end Sys2Proof.Machine

namespace Sys2Proof

open Sys2Proof.Machine

/-- Settles O1: a step by its queue's front. -/
theorem stepRunsFront : Obligations.StepRunsFront := ⟨fun _ _ _ => rfl, fun _ h => step_of_pending_nil h⟩

/-- Settles O3: the values of reset, whose empty vectors are vectors of one value. -/
theorem resetState : Obligations.ResetState := by
  have hlim : ∀ k : Fin 8, State.reset.lim.lim[k] = 0 := fun k => Vector.getElem_replicate k.isLt
  have hheld : ContactorsHeld State.reset := contactorsHeld_of_default rfl (by decide)
  refine ⟨rfl, rfl, rfl, rfl, fun k => ?_, fun i => ?_, rfl, fun j => ?_, fun q => ⟨?_, ?_⟩, by decide, rfl, rfl, hlim,
    fun _ => rfl, hheld⟩
  all_goals exact congrArg _ (Vector.getElem_replicate (Fin.isLt _))

/-- Settles O10: every state command is a write of its code to STATE_CMD. -/
theorem stateCommandWaits : Obligations.StateCommandWaits := by
  intro i s hs waits
  have hwait : ∀ (v : Word), 1 ≤ wBits v 7 0 ∧ wBits v 7 0 ≤ 7 → ∀ c : Instr, exec c s = writeCmd i 0x10 v s →
      waits c (wBits v 7 0) := by
    intro v hv c hc
    obtain ⟨t, ht, hout, hcode, hsent, hst, hsaf, hcmds⟩ := writeCmd_stateCmd hs hv
    exact ⟨t, hc.trans ht, hout, hcode, by rw [said, hsent]; rfl, hst, hsaf, hcmds⟩
  exact ⟨hwait 1 (by decide) _ rfl, hwait 2 (by decide) _ rfl, hwait 3 (by decide) _ rfl, hwait 4 (by decide) _ rfl,
    hwait 5 (by decide) _ rfl, hwait 6 (by decide) _ rfl, hwait 7 (by decide) _ rfl⟩

end Sys2Proof
end

section
/-! SUPPORT AND PROOFS. The safety functions (10) as the invariants of chapter 01 see them: one lemma per operation that
touches a contactor or a latch. -/

namespace Sys2Proof.Machine

/-! ### Openings and jobs (R258, R269) -/

theorem noteOpens_calm (before s : State) : Calm s (noteOpens before s) := by
  unfold noteOpens
  dsimp only
  split
  · refine foldl_calm (fun s k => ?_) _ _
    exact ⟨rfl, rfl, rfl, rfl, rfl⟩
  · exact .refl s

theorem openReq_keepsOff (p : Bool) (c : Contactor) : KeepsOff c (if p then { c with openReq := true } else c) := by
  split
  · exact .of_eq rfl rfl rfl rfl rfl
  · exact .refl c

theorem jobFail_steady (detail : Nat) (s : State) : Steady s (jobFail detail s) := by
  unfold jobFail
  split
  · exact .refl s
  · exact .of_mapAll rfl rfl rfl rfl rfl (fun _ _ k _ => openReq_keepsOff _ _)

theorem jobWatch_steady (before s : State) : Steady s (jobWatch before s) := by
  unfold jobWatch
  split
  · split
    · exact jobFail_steady 6 s
    · exact .refl s
  · exact .refl s

/-- A change of switches is as lawful as what it does to the switches. -/
theorem switching_lawful {R : Mode → Mode → Prop} {f : State → State} {s₀ s : State} (h : Lawful R s₀ (f s)) :
    Lawful R s₀ (switching f s) :=
  (h.steady (noteOpens_calm s (f s)).steady).steady (jobWatch_steady s _)

/-- A change of switches that turns switches off at most. -/
theorem switching_allK_steady {f : Nat → Contactor → Contactor} (h : ∀ k c, KeepsOff c (f k c)) (s : State) :
    Steady s (switching (allK f) s) := switching_lawful (allK_steady h s)

theorem openAll_steady (s : State) : Steady s (openAll s) := switching_allK_steady (fun _ c => keepsOff_offBoth c) s

theorem jobDone_calm (s : State) : Calm s (jobDone s) := by
  unfold jobDone
  split <;> exact ⟨rfl, rfl, rfl, rfl, rfl⟩

theorem jobStep_calm (s : State) : Calm s (jobStep s).2.2 := by
  unfold jobStep
  dsimp only
  (repeat' split) <;> exact ⟨rfl, rfl, rfl, rfl, rfl⟩

theorem contactorStart_steady (i : Fin 32) (j : Fin 8) (kind : Nat) (s : State) :
    Steady s (contactorStart i j kind s) := by
  unfold contactorStart
  split
  · exact Calm.steady ⟨rfl, rfl, rfl, rfl, rfl⟩
  · refine .of_mapAll (f := fun k c => { c with lockout := c.lockout && demanded s k }) rfl rfl rfl rfl rfl
      (fun _ _ k _ => ?_)
    exact .of_eq rfl rfl rfl rfl rfl

theorem contactorAbort_calm (s : State) : Calm s (contactorAbort s) := by
  unfold contactorAbort
  (repeat' split) <;> exact ⟨rfl, rfl, rfl, rfl, rfl⟩

theorem kCmdWrite_steady (v : Word) (s : State) : Steady s (kCmdWrite v s) := by
  unfold kCmdWrite
  split
  · exact allK_steady (fun k c => openReq_keepsOff _ c) s
  · exact .refl s

theorem safWrite_steady (o : Nat) (v : Word) (s : State) : Steady s (safWrite o v s) := by
  unfold safWrite
  split
  · exact Calm.steady ⟨rfl, rfl, rfl, rfl, rfl⟩
  · exact kCmdWrite_steady v s
  · exact .refl s

/-! ### Safety inputs (R264 to R266) -/

theorem inputOpens_steady (i : Nat) (ch : Chan) (cancel : Bool) (s : State) : Steady s (inputOpens i ch cancel s) := by
  refine switching_allK_steady (fun k c => ?_) s
  have hcancel : KeepsOff c (if cancel then { c with req := false, blocked := true, lockout := true } else c) := by
    split
    · exact .of_eq rfl rfl rfl rfl rfl
    · exact .refl c
  split
  · cases ch
    · exact hcancel.trans (keepsOff_offA _)
    · exact hcancel.trans (keepsOff_offB _)
  · exact .refl c

theorem discJudge_steady (ch : Chan) (s : State) : Steady s (discJudge ch s) := by
  refine foldl_steady (fun s i => ?_) _ s
  cases ch
  all_goals
    dsimp only
    split
    · refine Lawful.then (Calm.steady ?_) (inputOpens_steady i _ false _)
      exact ⟨rfl, rfl, rfl, rfl, rfl⟩
    · exact Calm.steady ⟨rfl, rfl, rfl, rfl, rfl⟩

/-! ### Channel A's evaluation (R238 to R247, R253, R263) -/

theorem evalHs_steady (ma : List Nat) (s : State) : Steady s (evalHs ma s).1 := by
  refine .of_contactors rfl rfl rfl rfl (fun _ _ k h4 => ?_)
  unfold evalHs
  dsimp only
  rw [getNat_mapAll _ _ h4]
  exact .of_eq rfl rfl rfl rfl rfl

theorem evalLs_steady (ma : List Nat) (s : State) : Steady s (evalLs ma s).1 := by
  refine .of_contactors rfl rfl rfl rfl (fun _ _ k h4 => ?_)
  unfold evalLs
  dsimp only
  rw [getNat_mapAll _ _ h4]
  exact .of_eq rfl rfl rfl rfl rfl

theorem jobTest_calm (s : State) : Calm s (jobTest s) := by
  unfold jobTest
  (repeat' split) <;> exact ⟨rfl, rfl, rfl, rfl, rfl⟩

theorem dropA_steady (s : State) : Steady s (dropA s) := by
  refine switching_allK_steady (fun k c => ?_) s
  split
  · exact keepsOff_offA c
  · exact .refl c

theorem evalPos_calm (b : SafetyBlock) (s : State) : Calm s (evalPos b s).1 := ⟨rfl, rfl, rfl, rfl, rfl⟩

theorem evalFe_calm (b : SafetyBlock) (s : State) : Calm s (evalFe b s).1 := ⟨rfl, rfl, rfl, rfl, rfl⟩

theorem evalTemp_calm (b : SafetyBlock) (s : State) : Calm s (evalTemp b s).1 := ⟨rfl, rfl, rfl, rfl, rfl⟩

theorem evalI2t_calm (b : SafetyBlock) (s : State) : Calm s (evalI2t b s).1 := ⟨rfl, rfl, rfl, rfl, rfl⟩

theorem evalDir_calm (b : SafetyBlock) (s : State) : Calm s (evalDir b s).1 := ⟨rfl, rfl, rfl, rfl, rfl⟩

theorem evalOther_calm (s : State) : Calm s (evalOther s).1 := ⟨rfl, rfl, rfl, rfl, rfl⟩

/-! ### A latch (R235, R269; T11) -/

/-- The states that a latch leaves for SAFE. -/
theorem enterSafe_cases (s : State) :
    ((s.st.mode = .armed ∨ s.st.mode = .run ∨ s.st.mode = .stop ∨ s.st.mode = .service) ∧
      (enterSafe s).st.mode = .safe ∧ (enterSafe s).lim.lim = Vector.replicate 8 0) ∨
    (s.st.mode ≠ .run ∧ enterSafe s = s) := by
  unfold enterSafe
  split
  case h_5 h1 h2 h3 h4 => exact .inr ⟨h2, rfl⟩
  all_goals exact .inl ⟨by simp_all, rfl, rfl⟩

/-- What a channel's latch makes of a contactor. -/
def Contactor.latched (ch : Chan) (c : Contactor) : Contactor :=
  match ch with
  | .a => { c.offA with req := false }
  | .b => { c.offB with req := false }

theorem latched_keepsOff (ch : Chan) (c : Contactor) : KeepsOff c (c.latched ch) := by
  cases ch
  · exact (keepsOff_offA c).trans (.of_eq rfl rfl rfl rfl rfl)
  · exact (keepsOff_offB c).trans (.of_eq rfl rfl rfl rfl rfl)

/-- A channel's latch, SAFE, and every switch of the channel off. -/
theorem latched_lawful (ch : Chan) {s x : State} (hst : x.st = s.st) (hlim : x.lim.lim = s.lim.lim)
    (hk : x.saf.k = s.saf.k) (ha : x.saf.latchA = (s.saf.latchA || ch == .a))
    (hb : x.saf.latchB = (s.saf.latchB || ch == .b)) :
    Lawful Trips s (allK (fun _ c => c.latched ch) (enterSafe x)) := by
  have hcases : ((s.st.mode = .armed ∨ s.st.mode = .run ∨ s.st.mode = .stop ∨ s.st.mode = .service) ∧
      (enterSafe x).st.mode = .safe ∧ (enterSafe x).lim.lim = Vector.replicate 8 0) ∨
      (s.st.mode ≠ .run ∧ (enterSafe x).st.mode = s.st.mode ∧ (enterSafe x).lim.lim = s.lim.lim) := by
    rw [← hlim, ← hst]
    obtain h | ⟨hr, he⟩ := enterSafe_cases x
    · exact .inl h
    · exact .inr ⟨hr, by rw [he], by rw [he]⟩
  refine ⟨fun hl _ => ?_, fun hs => ?_, ?_⟩
  · change (enterSafe x).lim.lim = _
    obtain ⟨-, -, h0⟩ | ⟨hr, -, h0⟩ := hcases
    · exact h0
    · exact h0.trans (hl hr)
  · rw [contactorsHeld_iff] at hs ⊢
    obtain ⟨hA, hB, -⟩ := hs
    have hkt : ∀ k < 4, getNat (allK (fun _ c => c.latched ch) (enterSafe x)).saf.k k =
        (getNat s.saf.k k).latched ch := fun k h4 => by
      rw [allK_k, getNat_mapAll _ _ h4, enterSafe_saf, hk]
    have hla : (allK (fun _ c => c.latched ch) (enterSafe x)).saf.latchA = (s.saf.latchA || ch == .a) := by
      change (enterSafe x).saf.latchA = _
      rw [enterSafe_saf, ha]
    have hlb : (allK (fun _ c => c.latched ch) (enterSafe x)).saf.latchB = (s.saf.latchB || ch == .b) := by
      change (enterSafe x).saf.latchB = _
      rw [enterSafe_saf, hb]
    have hmode : (enterSafe x).st.mode ≠ .safe → (enterSafe x).st.mode = s.st.mode := fun h =>
      hcases.elim (fun ⟨_, h', _⟩ => absurd h' h) (fun ⟨_, h', _⟩ => h')
    have hopen : ((enterSafe x).st.mode ≠ .run ∧ (enterSafe x).st.mode ≠ .safe) →
        s.st.mode ≠ .run ∧ s.st.mode ≠ .safe := fun ⟨hr, hsf⟩ => hmode hsf ▸ ⟨hr, hsf⟩
    rw [HoldsA, HoldsB, hla, hlb]
    refine ⟨fun h k h4 => ?_, fun h k h4 => ?_, fun _ => ?_⟩
    · rw [hkt k h4]
      cases ch
      · exact heldByA_offA (getNat s.saf.k k)
      · exact (latched_keepsOff .b _).1 (hA (h.imp (by simp) hopen) k h4)
    · rw [hkt k h4]
      cases ch
      · exact (latched_keepsOff .a _).2 (hB (h.imp (by simp) hopen) k h4)
      · exact heldByB_offB (getNat s.saf.k k)
    · cases ch <;> simp
  · change Trips _ (enterSafe x).st.mode
    obtain ⟨hm, h', -⟩ | ⟨-, h', -⟩ := hcases
    · exact .inr ⟨h', hm⟩
    · exact .inl h'

/-- A cause that latches in a channel: the latch, SAFE and the switches of that channel. -/
theorem latch_lawful (ch : Chan) (c : Cause) (info : Nat) (s : State) : Lawful Trips s (latch ch c info s) := by
  unfold latch
  split
  · exact (Lawful.refl s).trips
  · exact switching_lawful (latched_lawful ch rfl rfl rfl rfl rfl)

theorem latchAll_lawful (ch : Chan) (l : List (Cause × Nat)) (s : State) : Lawful Trips s (latchAll ch l s) := by
  refine foldl_lawful (R := Trips) (.inl rfl) Trips.trans (fun s n => ?_) _ s
  split
  · exact latch_lawful ch _ _ s
  · exact (Lawful.refl s).trips

/-! ### Requests at tick 350 and at the edge (R252 to R254) -/

theorem testBit_maskOf {k : Nat} {l : List Nat} : (maskOf l).testBit k = true → k ∈ l := by
  have h : ∀ m : Nat, (l.foldl (fun m k => m ||| 2 ^ k) m).testBit k = true → m.testBit k = true ∨ k ∈ l := by
    induction l with
    | nil => exact fun m h => .inl h
    | cons x r ih =>
      intro m h
      obtain h | h := ih _ h
      · rw [Nat.testBit_or, Bool.or_eq_true, Nat.testBit_two_pow] at h
        exact h.imp id (fun hx => by simp_all)
      · exact .inr (List.mem_cons_of_mem _ h)
  exact fun hk => (h 0 hk).resolve_left (by simp)

theorem testBit_maskIf {n k : Nat} {f : Nat → Bool} (h : (maskIf n f).testBit k = true) : f k = true :=
  (List.mem_filter.mp (testBit_maskOf h)).2

/-- Channel A permits a contactor only where a switch may be turned on; the others it turns off. -/
theorem applyK_steady (jc jo : Nat) (s : State) : Steady s (applyK jc jo s) := by
  unfold applyK
  extract_lets at_ shutNow on barred drives
  split
  extract_lets req may fresh last dv permit refused s₁ x s₂
  have hpermit : ∀ k, permit.testBit k = true → MayClose s := fun k hk => by
    have hmay : may.testBit k = true := by
      by_cases hdv : dv = true
      · simp only [permit, hdv, if_true, Nat.testBit_and, Bool.and_eq_true] at hk
        exact hk.1
      · simpa [permit, hdv] using hk
    have hbase := testBit_maskIf hmay
    simp only [Bool.and_eq_true] at hbase
    exact permitBase_mayClose hbase.1.1
  have hs₂ : Steady s s₂ := by
    refine .of_contactors rfl rfl rfl rfl (fun _ hno k h4 => ?_)
    change KeepsOff _ (getNat (mapAll s.saf.k _) k)
    rw [getNat_mapAll _ _ h4]
    dsimp only
    rw [if_neg (fun h => hno (hpermit k h))]
    exact KeepsOff.trans (.of_eq rfl rfl rfl rfl rfl) (keepsOff_offA _)
  split
  · split
    · exact hs₂.then (jobFail_steady 7 s₂)
    · split
      · exact hs₂.then (jobFail_steady 6 s₂)
      · exact hs₂
  · exact hs₂

/-- Without channel B's permit the edge turns nothing on. -/
theorem edge_keepsOff (c : Contactor) : KeepsOff c (c.edge false) := by
  unfold Contactor.edge
  split
  · refine ⟨fun ⟨hhs, hreq, hp⟩ => ⟨hhs, hreq, hp.imp id ?_⟩, fun ⟨hls, hp⟩ => ⟨hls, hp.imp id ?_⟩⟩ <;> simp_all
  · dsimp only
    rw [if_pos (by rfl)]
    split
    · exact (keepsOff_offB c).trans (.of_eq rfl rfl rfl rfl rfl)
    · exact .of_eq rfl rfl rfl rfl rfl

theorem switchLs_steady (s : State) : Steady s (switchLs s) := by
  unfold switchLs
  extract_lets drives ok refused s₁ x s₂ y
  have hs₁ : Steady s s₁ := by
    refine .of_mapAll (f := fun k c => c.edge (ok k c)) rfl rfl rfl rfl rfl (fun hs hno k h4 => ?_)
    have hok : ok k (getNat s.saf.k k) = false := Bool.eq_false_iff.mpr (fun h => hno (permitB_mayClose hs h4 h))
    rw [hok]
    exact edge_keepsOff _
  have hs₂ : Steady s s₂ := hs₁.then (Calm.steady (by simp [Calm, s₂, x]))
  split
  · split
    · exact hs₂.then (jobFail_steady 7 s₂)
    · split
      · exact hs₂.then (jobDone_calm s₂).steady
      · exact hs₂.then (Calm.steady ⟨rfl, rfl, rfl, rfl, rfl⟩)
  · exact hs₂

/-! ### Tests (R259 to R262) -/

/-- The end of a pulse of Kk: the switch under test comes on again where its channel permits it. -/
def Contactor.pulseEnd (hsSide pass on : Bool) (c : Contactor) : Contactor :=
  { c with pulse := none, pulseOpened := false, lastPass := pass, hs := c.hs || (hsSide && on), ls := c.ls || (!hsSide && on)
           postponed := if pass then 0 else c.postponed, overdue := c.overdue && !pass
           nextLs := if pass then hsSide else c.nextLs }

theorem pulseEnd_keepsOff (hsSide pass : Bool) (c : Contactor) : KeepsOff c (c.pulseEnd hsSide pass false) := by
  constructor
  · exact fun ⟨hhs, hreq, _⟩ => ⟨by simp [Contactor.pulseEnd, hhs], hreq, .inl rfl⟩
  · exact fun ⟨hls, _⟩ => ⟨by simp [Contactor.pulseEnd, hls], .inl rfl⟩

end Sys2Proof.Machine
end

section
/-! SUPPORT AND PROOFS. The commands whose meaning touches nothing that the invariants of chapter 01 speak of: they answer a
next state in which STATE, the published limits, the contactors and the latches are as they were. -/

namespace Sys2Proof.Machine

/-! ### Frames and folds -/

theorem onFrame_calm (kind len : Nat) (h : FabHdr) {f : State → State} (hf : ∀ s, Calm s (f s)) (s : State) :
    Calm s (onFrame kind len h f s) := by
  have hin : Calm s (fabIn (h.len == len) h s).2 := by simp [Calm]
  unfold onFrame
  split
  · split <;> rename_i heq <;> rw [heq] at hin
    · exact hin.trans (hf _)
    · exact hin
  · exact .refl s

theorem onPartner_calm (len : Nat) (h : FabHdr) {f : State → State} (hf : ∀ s, Calm s (f s)) (s : State) :
    Calm s (onPartner len h f s) := by
  refine onFrame_calm _ _ _ (fun s => ?_) s
  dsimp only
  split
  · split
    · exact hf s
    · exact .refl s
  · exact .refl s

theorem takeOver_calm (s : State) : Calm s (takeOver s) := by simp [Calm]

/-! ### One lemma per command -/

theorem execNodeBeatReceive_calm (line : Fin 4) (hop : Fin 16) (f : NodeBeat) (s : State) : ∃ t, execNodeBeatReceive
    line hop f s = .next t ∧ Calm s t := by
  unfold execNodeBeatReceive
  exact ⟨_, rfl, by simp [Calm]⟩

theorem execNodeSample_calm (line : Fin 4) (hop : Fin 16) (marks : SampleMarks) (vpos temps : List Int) (taps : List
    TapEntry) (s : State) : ∃ t, execNodeSample line hop marks vpos temps taps s = .next t ∧ Calm s t := by
  unfold execNodeSample
  dsimp only
  (repeat' split) <;> exact ⟨_, rfl, by simp [Calm]⟩

theorem execNodeResultSend_calm (line : Fin 4) (hop : Fin 16) (s : State) : ∃ t, execNodeResultSend line hop s =
    .next t ∧ Calm s t := by
  unfold execNodeResultSend
  dsimp only
  (repeat' split) <;> exact ⟨_, rfl, by simp [Calm]⟩

theorem execNodeAuxSend_calm (line : Fin 4) (hop : Fin 16) (s : State) : ∃ t, execNodeAuxSend line hop s = .next t ∧
    Calm s t := by
  unfold execNodeAuxSend
  dsimp only
  (repeat' split) <;> exact ⟨_, rfl, by simp [Calm]⟩

theorem execNodeClaimRelease_calm (line : Fin 4) (hop : Fin 16) (s : State) : ∃ t, execNodeClaimRelease line hop s =
    .next t ∧ Calm s t := by
  unfold execNodeClaimRelease
  exact ⟨_, rfl, by simp [Calm]⟩

theorem execNodeStimulusFallback_calm (line : Fin 4) (hop : Fin 16) (s : State) : ∃ t, execNodeStimulusFallback line
    hop s = .next t ∧ Calm s t := by
  unfold execNodeStimulusFallback
  exact ⟨_, rfl, by simp [Calm]⟩

theorem execNodeSleep_calm (line : Fin 4) (hop : Fin 16) (s : State) : ∃ t, execNodeSleep line hop s = .next t ∧
    Calm s t := by
  unfold execNodeSleep
  exact ⟨_, rfl, by simp [Calm]⟩

theorem execNodeWake_calm (line : Fin 4) (hop : Fin 16) (s : State) : ∃ t, execNodeWake line hop s = .next t ∧ Calm
    s t := by
  unfold execNodeWake
  exact ⟨_, rfl, by simp [Calm]⟩

theorem execNodeAnnounceSend_calm (line : Fin 4) (hop : Fin 16) (s : State) : ∃ t, execNodeAnnounceSend line hop s =
    .next t ∧ Calm s t := by
  unfold execNodeAnnounceSend
  dsimp only
  (repeat' split) <;> exact ⟨_, rfl, by simp [Calm]⟩

theorem execNodeReset_calm (line : Fin 4) (hop : Fin 16) (i : NodeIdent) (s : State) : ∃ t, execNodeReset line hop i
    s = .next t ∧ Calm s t := by
  unfold execNodeReset
  dsimp only
  (repeat' split) <;> exact ⟨_, rfl, by simp [Calm]⟩

theorem execCanFrameSent_calm (c : Fin 2) (s : State) : ∃ t, execCanFrameSent c s = .next t ∧ Calm s t := by
  unfold execCanFrameSent
  dsimp only
  (repeat' split) <;> exact ⟨_, rfl, by simp [Calm]⟩

theorem execCanAckError_calm (c : Fin 2) (s : State) : ∃ t, execCanAckError c s = .next t ∧ Calm s t := by
  unfold execCanAckError
  dsimp only
  (repeat' split) <;> exact ⟨_, rfl, by simp [Calm]⟩

theorem execCanBusError_calm (c : Fin 2) (transmitting : Bool) (s : State) : ∃ t, execCanBusError c transmitting s =
    .next t ∧ Calm s t := by
  unfold execCanBusError
  dsimp only
  (repeat' split) <;> exact ⟨_, rfl, by simp [Calm]⟩

theorem execCanArbitrationLost_calm (c : Fin 2) (s : State) : ∃ t, execCanArbitrationLost c s = .next t ∧ Calm s t
    := by
  unfold execCanArbitrationLost
  dsimp only
  (repeat' split) <;> exact ⟨_, rfl, by simp [Calm]⟩

theorem execBusOffRecovery_calm (c : Fin 2) (s : State) : ∃ t, execBusOffRecovery c s = .next t ∧ Calm s t := by
  unfold execBusOffRecovery
  dsimp only
  (repeat' split) <;> exact ⟨_, rfl, by simp [Calm]⟩

theorem execCanFrameReceived_calm (c : Fin 2) (f : CanFrame) (s : State) : ∃ t, execCanFrameReceived c f s = .next t
    ∧ Calm s t := by
  unfold execCanFrameReceived
  dsimp only
  (repeat' split) <;> exact ⟨_, rfl, by simp [Calm]⟩

theorem execTxb1Load_calm (c : Fin 2) (s : State) : ∃ t, execTxb1Load c s = .next t ∧ Calm s t := by
  unfold execTxb1Load
  dsimp only
  (repeat' split) <;> exact ⟨_, rfl, by simp [Calm]⟩

theorem execEnumReset_calm (line : Fin 4) (s : State) : ∃ t, execEnumReset line s = .next t ∧ Calm s t := by
  unfold execEnumReset
  dsimp only
  (repeat' split) <;> exact ⟨_, rfl, by simp [Calm]⟩

theorem execEnumAssign_calm (line : Fin 4) (s : State) : ∃ t, execEnumAssign line s = .next t ∧ Calm s t := by
  unfold execEnumAssign
  dsimp only
  (repeat' split) <;> exact ⟨_, rfl, by simp [Calm]⟩

theorem execEnumLineEnd_calm (line : Fin 4) (s : State) : ∃ t, execEnumLineEnd line s = .next t ∧ Calm s t := by
  unfold execEnumLineEnd
  dsimp only
  (repeat' split) <;> exact ⟨_, rfl, by simp [Calm]⟩

theorem execReadId_calm (node : Fin 64) (s : State) : ∃ t, execReadId node s = .next t ∧ Calm s t := by
  unfold execReadId
  dsimp only
  (repeat' split) <;> exact ⟨_, rfl, by simp [Calm]⟩

theorem execMeasSense_calm (node : Fin 64) (s : State) : ∃ t, execMeasSense node s = .next t ∧ Calm s t := by
  unfold execMeasSense
  dsimp only
  (repeat' split) <;> exact ⟨_, rfl, by simp [Calm]⟩

theorem execReadSense_calm (node : Fin 64) (s : State) : ∃ t, execReadSense node s = .next t ∧ Calm s t := by
  unfold execReadSense
  dsimp only
  (repeat' split) <;> exact ⟨_, rfl, by simp [Calm]⟩

theorem execSetDelay_calm (node : Fin 64) (s : State) : ∃ t, execSetDelay node s = .next t ∧ Calm s t := by
  unfold execSetDelay
  dsimp only
  (repeat' split) <;> exact ⟨_, rfl, by simp [Calm]⟩

theorem execSetTapPlan_calm (node : Fin 64) (s : State) : ∃ t, execSetTapPlan node s = .next t ∧ Calm s t := by
  unfold execSetTapPlan
  dsimp only
  (repeat' split) <;> exact ⟨_, rfl, by simp [Calm]⟩

theorem execReassign_calm (line : Fin 4) (addr : Fin 64) (s : State) : ∃ t, execReassign line addr s = .next t ∧
    Calm s t := by
  unfold execReassign
  dsimp only
  (repeat' split) <;> exact ⟨_, rfl, by simp [Calm]⟩

theorem execReadDiag_calm (node : Fin 64) (s : State) : ∃ t, execReadDiag node s = .next t ∧ Calm s t := by
  unfold execReadDiag
  dsimp only
  (repeat' split) <;> exact ⟨_, rfl, by simp [Calm]⟩

theorem execClearDiag_calm (node : Fin 64) (s : State) : ∃ t, execClearDiag node s = .next t ∧ Calm s t := by
  unfold execClearDiag
  dsimp only
  (repeat' split) <;> exact ⟨_, rfl, by simp [Calm]⟩

theorem execSleep_calm (line : Fin 4) (s : State) : ∃ t, execSleep line s = .next t ∧ Calm s t := by
  unfold execSleep
  dsimp only
  (repeat' split) <;> exact ⟨_, rfl, by simp [Calm]⟩

theorem execProbeFrame_calm (s : State) : ∃ t, execProbeFrame s = .next t ∧ Calm s t := by
  unfold execProbeFrame
  dsimp only
  split
  · exact ⟨_, rfl, Calm.trans (by simp [Calm]) (foldl_calm (fun s l => by simp [Calm]) _ _)⟩
  · exact ⟨_, rfl, fresh_calm s⟩

theorem execProbeLost_calm (line : Fin 4) (s : State) : ∃ t, execProbeLost line s = .next t ∧ Calm s t := by
  unfold execProbeLost
  dsimp only
  (repeat' split) <;> exact ⟨_, rfl, by simp [Calm]⟩

theorem execEcho_calm (h : ChainHdr) (payload : List Byte) (rttNs : Nat) (s : State) : ∃ t, execEcho h payload rttNs
    s = .next t ∧ Calm s t := by
  unfold execEcho
  dsimp only
  (repeat' split) <;> exact ⟨_, rfl, by simp [Calm]⟩

theorem execResult_calm (h : ChainHdr) (b : ResultBody) (s : State) : ∃ t, execResult h b s = .next t ∧ Calm s t := by
  unfold execResult
  dsimp only
  (repeat' split) <;> exact ⟨_, rfl, by simp [Calm]⟩

theorem execAux_calm (h : ChainHdr) (b : AuxBody) (s : State) : ∃ t, execAux h b s = .next t ∧ Calm s t := by
  unfold execAux
  dsimp only
  (repeat' split) <;> exact ⟨_, rfl, by simp [Calm]⟩

theorem execAnnounce_calm (h : ChainHdr) (uid nodeType proto : Nat) (s : State) : ∃ t, execAnnounce h uid nodeType
    proto s = .next t ∧ Calm s t := by
  unfold execAnnounce
  dsimp only
  (repeat' split) <;> exact ⟨_, rfl, by simp [Calm]⟩

theorem execPassThroughCheck_calm (line : Fin 4) (seen : Option Nat) (s : State) : ∃ t, execPassThroughCheck line
    seen s = .next t ∧ Calm s t := by
  unfold execPassThroughCheck
  dsimp only
  (repeat' split) <;> exact ⟨_, rfl, by simp [Calm]⟩

theorem execLineReturnWhole_calm (line : Fin 4) (s : State) : ∃ t, execLineReturnWhole line s = .next t ∧ Calm s t
    := by
  unfold execLineReturnWhole
  dsimp only
  (repeat' split) <;> exact ⟨_, rfl, by simp [Calm]⟩

theorem execItemRelease_calm (item : Nat) (s : State) : ∃ t, execItemRelease item s = .next t ∧ Calm s t := by
  unfold execItemRelease
  dsimp only
  (repeat' split) <;> exact ⟨_, rfl, by simp [Calm]⟩

theorem execItemComplete_calm (e : Fin 11) (cycles : Nat) (s : State) : ∃ t, execItemComplete e cycles s = .next t ∧
    Calm s t := by
  unfold execItemComplete
  dsimp only
  (repeat' split) <;> exact ⟨_, rfl, by simp [Calm]⟩

theorem execSyncReceive_calm (d : Fin 2) (port : Fin 3) (rawOffset : Int) (gm : Nat) (s : State) : ∃ t,
    execSyncReceive d port rawOffset gm s = .next t ∧ Calm s t := by
  unfold execSyncReceive
  dsimp only
  (repeat' split) <;> exact ⟨_, rfl, by simp [Calm]⟩

theorem execSyncReceiptTimeout_calm (d : Fin 2) (s : State) : ∃ t, execSyncReceiptTimeout d s = .next t ∧ Calm s t
    := by
  unfold execSyncReceiptTimeout
  dsimp only
  (repeat' split) <;> exact ⟨_, rfl, by simp [Calm]⟩

theorem execGptpAnnounceReceive_calm (d : Fin 2) (port : Fin 3) (v : PrioVec) (s : State) : ∃ t,
    execGptpAnnounceReceive d port v s = .next t ∧ Calm s t := by
  unfold execGptpAnnounceReceive
  dsimp only
  (repeat' split) <;> exact ⟨_, rfl, by simp [Calm]⟩

theorem execSyncSend_calm (d : Fin 2) (port : Fin 3) (s : State) : ∃ t, execSyncSend d port s = .next t ∧ Calm s t
    := by
  unfold execSyncSend
  dsimp only
  (repeat' split) <;> exact ⟨_, rfl, by simp [Calm]⟩

theorem execPdelayExchange_calm (port : Fin 3) (meanNs : Nat) (s : State) : ∃ t, execPdelayExchange port meanNs s =
    .next t ∧ Calm s t := by
  unfold execPdelayExchange
  dsimp only
  (repeat' split) <;> exact ⟨_, rfl, by simp [Calm]⟩

theorem execDomainSwitch_calm (s : State) : ∃ t, execDomainSwitch s = .next t ∧ Calm s t := by
  unfold execDomainSwitch
  dsimp only
  (repeat' split) <;> exact ⟨_, rfl, by simp [Calm]⟩

theorem execTxTimestamp_calm (port : Fin 3) (id fabricNs : Nat) (s : State) : ∃ t, execTxTimestamp port id fabricNs
    s = .next t ∧ Calm s t := by
  unfold execTxTimestamp
  dsimp only
  (repeat' split) <;> exact ⟨_, rfl, by simp [Calm]⟩

theorem execStreamSample_calm (k : Fin 8) (shuntPv vStr vLnk : Int) (s : State) : ∃ t, execStreamSample k shuntPv
    vStr vLnk s = .next t ∧ Calm s t := by
  unfold execStreamSample
  dsimp only
  (repeat' split) <;> exact ⟨_, rfl, by simp [Calm]⟩

theorem execAlignedSample_calm (s : State) : ∃ t, execAlignedSample s = .next t ∧ Calm s t := by
  unfold execAlignedSample
  dsimp only
  (repeat' split) <;> exact ⟨_, rfl, by simp [Calm]⟩

theorem execGainCheck_calm (devStr devLnk : Int) (s : State) : ∃ t, execGainCheck devStr devLnk s = .next t ∧ Calm s
    t := by
  unfold execGainCheck
  dsimp only
  (repeat' split) <;> exact ⟨_, rfl, by simp [Calm]⟩

theorem execAccordEvaluation_calm (s : State) : ∃ t, execAccordEvaluation s = .next t ∧ Calm s t := by
  unfold execAccordEvaluation
  dsimp only
  (repeat' split) <;> exact ⟨_, rfl, by simp [Calm]⟩

theorem execInsulationCycleStart_calm (s : State) : ∃ t, execInsulationCycleStart s = .next t ∧ Calm s t := by
  unfold execInsulationCycleStart
  dsimp only
  (repeat' split) <;> exact ⟨_, rfl, by simp [Calm]⟩

theorem execInsulationPhaseTimeout_calm (s : State) : ∃ t, execInsulationPhaseTimeout s = .next t ∧ Calm s t := by
  unfold execInsulationPhaseTimeout
  dsimp only
  (repeat' split) <;> exact ⟨_, rfl, by simp [Calm]⟩

theorem execSnapshotCapture_calm (s : State) : ∃ t, execSnapshotCapture s = .next t ∧ Calm s t := by
  unfold execSnapshotCapture
  dsimp only
  (repeat' split) <;> exact ⟨_, rfl, by simp [Calm]⟩

theorem execWindowEnd_calm (k : Fin 31) (s : State) : ∃ t, execWindowEnd k s = .next t ∧ Calm s t := by
  unfold execWindowEnd
  dsimp only
  split
  · split
    · refine ⟨_, rfl, Calm.trans (by simp [Calm]) (foldl_calm (fun s p => ?_) _ _)⟩
      split
      · exact .refl s
      · simp [Calm]
    · exact ⟨_, rfl, fresh_calm s⟩
  · exact ⟨_, rfl, fresh_calm s⟩

theorem execChimeRoundStart_calm (s : State) : ∃ t, execChimeRoundStart s = .next t ∧ Calm s t := by
  unfold execChimeRoundStart
  dsimp only
  (repeat' split) <;> exact ⟨_, rfl, by simp [Calm]⟩

theorem execChime_calm (node : Fin 64) (pos bin ampl cycles start : Nat) (s : State) : ∃ t, execChime node pos bin
    ampl cycles start s = .next t ∧ Calm s t := by
  unfold execChime
  dsimp only
  (repeat' split) <;> exact ⟨_, rfl, by simp [Calm]⟩

theorem execBurstEnd_calm (pos : Fin 1024) (s : State) : ∃ t, execBurstEnd pos s = .next t ∧ Calm s t := by
  unfold execBurstEnd
  dsimp only
  (repeat' split) <;> exact ⟨_, rfl, by simp [Calm]⟩

theorem execStimStop_calm (line : Fin 4) (s : State) : ∃ t, execStimStop line s = .next t ∧ Calm s t := by
  unfold execStimStop
  dsimp only
  (repeat' split) <;> exact ⟨_, rfl, by simp [Calm]⟩

theorem execLockinCampaignStart_calm (s : State) : ∃ t, execLockinCampaignStart s = .next t ∧ Calm s t := by
  unfold execLockinCampaignStart
  dsimp only
  (repeat' split) <;> exact ⟨_, rfl, by simp [Calm]⟩

theorem execLockinStart_calm (node : Fin 64) (bins posMask start : Nat) (s : State) : ∃ t, execLockinStart node bins
    posMask start s = .next t ∧ Calm s t := by
  unfold execLockinStart
  dsimp only
  (repeat' split) <;> exact ⟨_, rfl, by simp [Calm]⟩

theorem execLockinCampaignEnd_calm (s : State) : ∃ t, execLockinCampaignEnd s = .next t ∧ Calm s t := by
  unfold execLockinCampaignEnd
  dsimp only
  (repeat' split) <;> exact ⟨_, rfl, by simp [Calm]⟩

theorem execLockinRead_calm (node : Fin 64) (pos bin : Nat) (s : State) : ∃ t, execLockinRead node pos bin s = .next
    t ∧ Calm s t := by
  unfold execLockinRead
  dsimp only
  (repeat' split) <;> exact ⟨_, rfl, by simp [Calm]⟩

theorem execReply_calm (h : ChainHdr) (op status : Nat) (d : ReplyData) (s : State) : ∃ t, execReply h op status d s
    = .next t ∧ Calm s t := by
  unfold execReply
  dsimp only
  (repeat' split) <;> exact ⟨_, rfl, by simp [Calm]⟩

theorem execRequestDwellStart_calm (s : State) : ∃ t, execRequestDwellStart s = .next t ∧ Calm s t := by
  unfold execRequestDwellStart
  dsimp only
  (repeat' split) <;> exact ⟨_, rfl, by simp [Calm]⟩

theorem execSpectrumCapture_calm (s : State) : ∃ t, execSpectrumCapture s = .next t ∧ Calm s t := by
  unfold execSpectrumCapture
  dsimp only
  (repeat' split) <;> exact ⟨_, rfl, by simp [Calm]⟩

theorem execSlotComplete_calm (s : State) : ∃ t, execSlotComplete s = .next t ∧ Calm s t := by
  unfold execSlotComplete
  dsimp only
  split
  · split
    · refine ⟨_, rfl, Calm.trans (by simp [Calm]) (foldl_calm (fun s q => ?_) _ _)⟩
      split
      · exact ⟨rfl, rfl, rfl, rfl, rfl⟩
      · exact .refl s
    · exact ⟨_, rfl, fresh_calm s⟩
  · exact ⟨_, rfl, fresh_calm s⟩

theorem execDerivedUpdate_calm (s : State) : ∃ t, execDerivedUpdate s = .next t ∧ Calm s t := by
  unfold execDerivedUpdate
  extract_lets x y i n s₁ s₂
  split
  · have h₁ : Calm y s₁ := foldl_calm (fun t p => by
      dsimp only
      split <;> simp [Calm]) _ _
    have h₂ : Calm s₁ s₂ := foldl_calm (fun t p => by
      split <;> simp [Calm]) _ _
    have hy : Calm s y := by simp [Calm, y, x]
    exact ⟨_, rfl, hy.trans (h₁.trans (h₂.trans (by simp [Calm])))⟩
  · exact ⟨_, rfl, fresh_calm s⟩

theorem execFilterStep_calm (pos : Fin 1024) (s : State) : ∃ t, execFilterStep pos s = .next t ∧ Calm s t := by
  unfold execFilterStep
  dsimp only
  (repeat' split) <;> exact ⟨_, rfl, by simp [Calm]⟩

theorem execSecondJudgement_calm (s : State) : ∃ t, execSecondJudgement s = .next t ∧ Calm s t := by
  unfold execSecondJudgement
  dsimp only
  (repeat' split) <;> exact ⟨_, rfl, by simp [Calm]⟩

theorem execAnchorHour_calm (s : State) : ∃ t, execAnchorHour s = .next t ∧ Calm s t := by
  unfold execAnchorHour
  dsimp only
  (repeat' split) <;> exact ⟨_, rfl, by simp [Calm]⟩

theorem execWarningEvaluation_calm (s : State) : ∃ t, execWarningEvaluation s = .next t ∧ Calm s t := by
  unfold execWarningEvaluation
  dsimp only
  (repeat' split) <;> exact ⟨_, rfl, by simp [Calm]⟩

theorem execCellRoundUpdate_calm (s : State) : ∃ t, execCellRoundUpdate s = .next t ∧ Calm s t := by
  unfold execCellRoundUpdate
  dsimp only
  (repeat' split) <;> exact ⟨_, rfl, by simp [Calm]⟩

theorem execRoundEffect_calm (s : State) : ∃ t, execRoundEffect s = .next t ∧ Calm s t := by
  unfold execRoundEffect
  dsimp only
  (repeat' split) <;> exact ⟨_, rfl, by simp [Calm]⟩

theorem execLoopSnapshot_calm (id : Fin 64) (s : State) : ∃ t, execLoopSnapshot id s = .next t ∧ Calm s t := by
  unfold execLoopSnapshot
  dsimp only
  (repeat' split) <;> exact ⟨_, rfl, by simp [Calm]⟩

theorem execLoopPeriodEnd_calm (id : Fin 64) (s : State) : ∃ t, execLoopPeriodEnd id s = .next t ∧ Calm s t := by
  unfold execLoopPeriodEnd
  dsimp only
  (repeat' split) <;> exact ⟨_, rfl, by simp [Calm]⟩

theorem execThermalJudgement_calm (dieT : Int) (s : State) : ∃ t, execThermalJudgement dieT s = .next t ∧ Calm s t
    := by
  unfold execThermalJudgement
  dsimp only
  (repeat' split) <;> exact ⟨_, rfl, by simp [Calm]⟩

theorem execBalancePlan_calm (s : State) : ∃ t, execBalancePlan s = .next t ∧ Calm s t := by
  unfold execBalancePlan
  dsimp only
  (repeat' split) <;> exact ⟨_, rfl, by simp [Calm]⟩

theorem execBeatFrame_calm (s : State) : ∃ t, execBeatFrame s = .next t ∧ Calm s t := by
  unfold execBeatFrame
  dsimp only
  split
  · refine ⟨_, rfl, Calm.trans (Calm.trans ?_ (foldl_calm (fun s l => ?_) _ _)) (takeOver_calm _)⟩
    · simp [Calm]
    · split
      · exact foldl_calm (fun s d => by simp [Calm]) _ _
      · exact .refl s
  · exact ⟨_, rfl, fresh_calm s⟩

theorem execAliveAdvance_calm (s : State) : ∃ t, execAliveAdvance s = .next t ∧ Calm s t := by
  unfold execAliveAdvance
  dsimp only
  (repeat' split) <;> exact ⟨_, rfl, by simp [Calm]⟩

theorem execOvercurrentOnset_calm (s : State) : ∃ t, execOvercurrentOnset s = .next t ∧ Calm s t := by
  unfold execOvercurrentOnset
  dsimp only
  (repeat' split) <;> exact ⟨_, rfl, by simp [Calm]⟩

theorem execOvercurrentEnd_calm (s : State) : ∃ t, execOvercurrentEnd s = .next t ∧ Calm s t := by
  unfold execOvercurrentEnd
  dsimp only
  exact ⟨_, rfl, by simp [Calm]⟩

theorem execPrechargeCommit_calm (s : State) : ∃ t, execPrechargeCommit s = .next t ∧ Calm s t := by
  unfold execPrechargeCommit
  dsimp only
  (repeat' split) <;> exact ⟨_, rfl, by simp [Calm]⟩

theorem execHsrFrameReceive_calm (h : FabHdr) (s : State) : ∃ t, execHsrFrameReceive h s = .next t ∧ Calm s t := by
  unfold execHsrFrameReceive
  dsimp only
  (repeat' split) <;> exact ⟨_, rfl, by simp [Calm]⟩

theorem execSupervisionFrame_calm (backP0 backP1 : Bool) (s : State) : ∃ t, execSupervisionFrame backP0 backP1 s =
    .next t ∧ Calm s t := by
  unfold execSupervisionFrame
  dsimp only
  (repeat' split) <;> exact ⟨_, rfl, by simp [Calm]⟩

theorem execPortLinkChange_calm (p : Fin 3) (up : Bool) (s : State) : ∃ t, execPortLinkChange p up s = .next t ∧
    Calm s t := by
  unfold execPortLinkChange
  dsimp only
  (repeat' split) <;> exact ⟨_, rfl, by simp [Calm]⟩

theorem execDiscover_calm (rx : Option (FabHdr × DiscoverBody)) (s : State) : ∃ t, execDiscover rx s = .next t ∧
    Calm s t := by
  unfold execDiscover
  dsimp only
  (repeat' split) <;> exact ⟨_, rfl, by simp [Calm]⟩

theorem execAddrClaim_calm (rx : Option (FabHdr × Nat)) (s : State) : ∃ t, execAddrClaim rx s = .next t ∧ Calm s t
    := by
  unfold execAddrClaim
  dsimp only
  (repeat' split) <;> exact ⟨_, rfl, by simp [Calm]⟩

theorem execAddressTaken_calm (s : State) : ∃ t, execAddressTaken s = .next t ∧ Calm s t := by
  unfold execAddressTaken
  dsimp only
  (repeat' split) <;> exact ⟨_, rfl, by simp [Calm]⟩

theorem execInsResult_calm (h : FabHdr) (rPos rNeg endBeat : Nat) (s : State) : ∃ t, execInsResult h rPos rNeg
    endBeat s = .next t ∧ Calm s t := by
  unfold execInsResult
  exact ⟨_, rfl, by simp [Calm]⟩

theorem execBankState_calm (rx : Option (FabHdr × Nat × BankBody)) (s : State) : ∃ t, execBankState rx s = .next t ∧
    Calm s t := by
  unfold execBankState
  dsimp only
  (repeat' split) <;> exact ⟨_, rfl, by simp [Calm]⟩

theorem execBankComputation_calm (s : State) : ∃ t, execBankComputation s = .next t ∧ Calm s t := by
  unfold execBankComputation
  dsimp only
  (repeat' split) <;> exact ⟨_, rfl, by simp [Calm]⟩

theorem execStatus_calm (rx : Option (FabHdr × StatusBody)) (s : State) : ∃ t, execStatus rx s = .next t ∧ Calm s t
    := by
  unfold execStatus
  dsimp only
  (repeat' split) <;> exact ⟨_, rfl, by simp [Calm]⟩

theorem execPairLost_calm (s : State) : ∃ t, execPairLost s = .next t ∧ Calm s t := by
  unfold execPairLost
  dsimp only
  (repeat' split) <;> exact ⟨_, rfl, by simp [Calm]⟩

theorem execResultFwd_calm (h : FabHdr) (node : Fin 64) (seq tick : Nat) (b : ResultBody) (s : State) : ∃ t,
    execResultFwd h node seq tick b s = .next t ∧ Calm s t := by
  unfold execResultFwd
  refine ⟨_, rfl, (fresh_calm s).trans (onPartner_calm _ _ (fun s => ?_) _)⟩
  dsimp only
  (repeat' split) <;> simp [Calm]

theorem execAuxFwd_calm (h : FabHdr) (node : Fin 64) (seq tick : Nat) (b : AuxBody) (s : State) : ∃ t, execAuxFwd h
    node seq tick b s = .next t ∧ Calm s t := by
  unfold execAuxFwd
  refine ⟨_, rfl, (fresh_calm s).trans (onPartner_calm _ _ (fun s => ?_) _)⟩
  dsimp only
  (repeat' split) <;> simp [Calm]

theorem execFront_calm (rx : Option (FabHdr × FrontBody)) (s : State) : ∃ t, execFront rx s = .next t ∧ Calm s t := by
  unfold execFront
  dsimp only
  split
  · refine ⟨_, rfl, (fresh_calm s).trans (onPartner_calm _ _ (fun s => ?_) _)⟩
    (repeat' split) <;> simp [Calm]
  · (repeat' split) <;> exact ⟨_, rfl, by simp [Calm]⟩

theorem execStreamX_calm (rx : Option (FabHdr × StreamBody)) (s : State) : ∃ t, execStreamX rx s = .next t ∧ Calm s
    t := by
  unfold execStreamX
  dsimp only
  split
  · refine ⟨_, rfl, (fresh_calm s).trans (onPartner_calm _ _ (fun s => ?_) _)⟩
    (repeat' split) <;> simp [Calm]
  · (repeat' split) <;> exact ⟨_, rfl, by simp [Calm]⟩

theorem execPlan_calm (rx : Option (FabHdr × PlanBody)) (s : State) : ∃ t, execPlan rx s = .next t ∧ Calm s t := by
  unfold execPlan
  dsimp only
  split
  · refine ⟨_, rfl, (fresh_calm s).trans (onPartner_calm _ _ (fun s => ?_) _)⟩
    split
    · exact Calm.trans (by simp [Calm]) (foldl_calm (fun s c => by simp [Calm]) _ _)
    · exact .refl s
  · (repeat' split) <;> exact ⟨_, rfl, by simp [Calm]⟩

theorem execDelays_calm (rx : Option (FabHdr × Fin 64 × End × Nat)) (s : State) : ∃ t, execDelays rx s = .next t ∧
    Calm s t := by
  unfold execDelays
  dsimp only
  split
  · refine ⟨_, rfl, (fresh_calm s).trans (onPartner_calm _ _ (fun s => ?_) _)⟩
    (repeat' split) <;> simp [Calm]
  · (repeat' split) <;> exact ⟨_, rfl, by simp [Calm]⟩

theorem execChargeCommit_calm (s : State) : ∃ t, execChargeCommit s = .next t ∧ Calm s t := by
  unfold execChargeCommit
  dsimp only
  (repeat' split) <;> exact ⟨_, rfl, by simp [Calm]⟩

theorem execChainCommit_calm (s : State) : ∃ t, execChainCommit s = .next t ∧ Calm s t := by
  unfold execChainCommit
  dsimp only
  (repeat' split) <;> exact ⟨_, rfl, by simp [Calm]⟩

theorem execInputFilterChange_calm (k : Fin 16) (level : Bool) (s : State) : ∃ t, execInputFilterChange k level s =
    .next t ∧ Calm s t := by
  unfold execInputFilterChange
  dsimp only
  (repeat' split) <;> exact ⟨_, rfl, by simp [Calm]⟩

theorem execCounterEdge_calm (k : Fin 4) (s : State) : ∃ t, execCounterEdge k s = .next t ∧ Calm s t := by
  unfold execCounterEdge
  dsimp only
  (repeat' split) <;> exact ⟨_, rfl, by simp [Calm]⟩

theorem execOverload_calm (k : Fin 16) (s : State) : ∃ t, execOverload k s = .next t ∧ Calm s t := by
  unfold execOverload
  dsimp only
  (repeat' split) <;> exact ⟨_, rfl, by simp [Calm]⟩

theorem execOvertemp_calm (k : Fin 16) (tempC : Int) (s : State) : ∃ t, execOvertemp k tempC s = .next t ∧ Calm s t
    := by
  unfold execOvertemp
  dsimp only
  (repeat' split) <;> exact ⟨_, rfl, by simp [Calm]⟩

theorem execReadback_calm (k : Fin 16) (s : State) : ∃ t, execReadback k s = .next t ∧ Calm s t := by
  unfold execReadback
  dsimp only
  (repeat' split) <;> exact ⟨_, rfl, by simp [Calm]⟩

theorem execReadbackClear_calm (k : Fin 16) (s : State) : ∃ t, execReadbackClear k s = .next t ∧ Calm s t := by
  unfold execReadbackClear
  dsimp only
  (repeat' split) <;> exact ⟨_, rfl, by simp [Calm]⟩

theorem execOpenWire_calm (k : Fin 16) (s : State) : ∃ t, execOpenWire k s = .next t ∧ Calm s t := by
  unfold execOpenWire
  dsimp only
  (repeat' split) <;> exact ⟨_, rfl, by simp [Calm]⟩

theorem execOpenWireClear_calm (k : Fin 16) (s : State) : ∃ t, execOpenWireClear k s = .next t ∧ Calm s t := by
  unfold execOpenWireClear
  dsimp only
  (repeat' split) <;> exact ⟨_, rfl, by simp [Calm]⟩

theorem execSilenceExpiry_calm (s : State) : ∃ t, execSilenceExpiry s = .next t ∧ Calm s t := by
  unfold execSilenceExpiry
  dsimp only
  (repeat' split) <;> exact ⟨_, rfl, by simp [Calm]⟩

theorem execThConversion_calm (raw : List Nat) (s : State) : ∃ t, execThConversion raw s = .next t ∧ Calm s t := by
  unfold execThConversion
  dsimp only
  (repeat' split) <;> exact ⟨_, rfl, by simp [Calm]⟩

theorem execTaskRun_calm (t : Fin 8) (cycles : Nat) (s : State) : ∃ s', execTaskRun t cycles s = .next s' ∧ Calm s
    s' := by
  unfold execTaskRun
  dsimp only
  (repeat' split) <;> exact ⟨_, rfl, by simp [Calm]⟩

theorem execTaskOverrun_calm (t : Fin 8) (s : State) : ∃ s', execTaskOverrun t s = .next s' ∧ Calm s s' := by
  unfold execTaskOverrun
  dsimp only
  (repeat' split) <;> exact ⟨_, rfl, by simp [Calm]⟩

theorem execStation_calm (h : FabHdr) (dir n _sflags : Nat) (words : List Word) (s : State) : ∃ t, execStation h dir
    n _sflags words s = .next t ∧ Calm s t := by
  unfold execStation
  exact ⟨_, rfl, by simp [Calm]⟩

theorem execStationLost_calm (i : Fin 16) (s : State) : ∃ t, execStationLost i s = .next t ∧ Calm s t := by
  unfold execStationLost
  dsimp only
  (repeat' split) <;> exact ⟨_, rfl, by simp [Calm]⟩

theorem execInputPhase_calm (s : State) : ∃ t, execInputPhase s = .next t ∧ Calm s t := by
  unfold execInputPhase
  dsimp only
  (repeat' split) <;> exact ⟨_, rfl, by simp [Calm]⟩

theorem execRecorderCommit_calm (s : State) : ∃ t, execRecorderCommit s = .next t ∧ Calm s t := by
  unfold execRecorderCommit
  dsimp only
  (repeat' split) <;> exact ⟨_, rfl, by simp [Calm]⟩

theorem execJournalCommit_calm (s : State) : ∃ t, execJournalCommit s = .next t ∧ Calm s t := by
  unfold execJournalCommit
  dsimp only
  (repeat' split) <;> exact ⟨_, rfl, by simp [Calm]⟩

theorem execFreezeTimeout_calm (s : State) : ∃ t, execFreezeTimeout s = .next t ∧ Calm s t := by
  unfold execFreezeTimeout
  dsimp only
  (repeat' split) <;> exact ⟨_, rfl, by simp [Calm]⟩

theorem execClearRecordsDone_calm (s : State) : ∃ t, execClearRecordsDone s = .next t ∧ Calm s t := by
  unfold execClearRecordsDone
  exact ⟨_, rfl, by simp [Calm]⟩

theorem execWatchCheckStart_calm (s : State) : ∃ t, execWatchCheckStart s = .next t ∧ Calm s t := by
  unfold execWatchCheckStart
  dsimp only
  (repeat' split) <;> exact ⟨_, rfl, by simp [Calm]⟩

theorem execVsupLow_calm (mv : Nat) (s : State) : ∃ t, execVsupLow mv s = .next t ∧ Calm s t := by
  unfold execVsupLow
  exact ⟨_, rfl, by simp [Calm]⟩

theorem execVsupHigh_calm (mv : Nat) (s : State) : ∃ t, execVsupHigh mv s = .next t ∧ Calm s t := by
  unfold execVsupHigh
  exact ⟨_, rfl, by simp [Calm]⟩

theorem execVloadLow_calm (mv : Nat) (s : State) : ∃ t, execVloadLow mv s = .next t ∧ Calm s t := by
  unfold execVloadLow
  exact ⟨_, rfl, by simp [Calm]⟩

theorem execReplacementChecksDone_calm (s : State) : ∃ t, execReplacementChecksDone s = .next t ∧ Calm s t := by
  unfold execReplacementChecksDone
  dsimp only
  (repeat' split) <;> exact ⟨_, rfl, by simp [Calm]⟩

theorem execBatchPending_calm (s : State) : ∃ t, execBatchPending s = .next t ∧ Calm s t := by
  unfold execBatchPending
  dsimp only
  (repeat' split) <;> exact ⟨_, rfl, by simp [Calm]⟩

theorem execBatchApply_calm (s : State) : ∃ t, execBatchApply s = .next t ∧ Calm s t := by
  unfold execBatchApply
  dsimp only
  (repeat' split) <;> exact ⟨_, rfl, by simp [Calm]⟩

theorem execConstantApply_calm (t : Fin 8) (s : State) : ∃ s', execConstantApply t s = .next s' ∧ Calm s s' := by
  unfold execConstantApply
  dsimp only
  (repeat' split) <;> exact ⟨_, rfl, by simp [Calm]⟩

theorem execManifestVerifyDone_calm (s : State) : ∃ t, execManifestVerifyDone s = .next t ∧ Calm s t := by
  unfold execManifestVerifyDone
  dsimp only
  (repeat' split) <;> exact ⟨_, rfl, by simp [Calm]⟩

theorem execPieceJudged_calm (i : Fin 32) (s : State) : ∃ t, execPieceJudged i s = .next t ∧ Calm s t := by
  unfold execPieceJudged
  dsimp only
  (repeat' split) <;> exact ⟨_, rfl, by simp [Calm]⟩

theorem execImageHashCheckDone_calm (s : State) : ∃ t, execImageHashCheckDone s = .next t ∧ Calm s t := by
  unfold execImageHashCheckDone
  dsimp only
  (repeat' split) <;> exact ⟨_, rfl, by simp [Calm]⟩

theorem execDiscardDone_calm (s : State) : ∃ t, execDiscardDone s = .next t ∧ Calm s t := by
  unfold execDiscardDone
  exact ⟨_, rfl, by simp [Calm]⟩

theorem execOpSec_calm (s : State) : ∃ t, execOpSec s = .next t ∧ Calm s t := by
  unfold execOpSec
  dsimp only
  (repeat' split) <;> exact ⟨_, rfl, by simp [Calm]⟩

theorem execReserveLow_calm (low : Bool) (s : State) : ∃ t, execReserveLow low s = .next t ∧ Calm s t := by
  unfold execReserveLow
  exact ⟨_, rfl, by simp [Calm]⟩

theorem execTrialExpiry_calm (s : State) : ∃ t, execTrialExpiry s = .next t ∧ Calm s t := by
  unfold execTrialExpiry
  dsimp only
  (repeat' split) <;> exact ⟨_, rfl, by simp [Calm]⟩

theorem execStreamItem_calm (q : Fin 8) (s : State) : ∃ t, execStreamItem q s = .next t ∧ Calm s t := by
  unfold execStreamItem
  dsimp only
  (repeat' split) <;> exact ⟨_, rfl, by simp [Calm]⟩

theorem execQueueItemCommit_calm (q : QueueId) (ecc : Bool) (s : State) : ∃ t, execQueueItemCommit q ecc s = .next t
    ∧ Calm s t := by
  unfold execQueueItemCommit
  dsimp only
  (repeat' split) <;> exact ⟨_, rfl, by simp [Calm]⟩

theorem execPublish_calm (s : State) : ∃ t, execPublish s = .next t ∧ Calm s t := by
  unfold execPublish
  dsimp only
  split
  · exact ⟨_, rfl, Calm.trans (by simp [Calm]) (foldl_calm (fun s b => by simp [Calm]) _ _)⟩
  · exact ⟨_, rfl, fresh_calm s⟩

theorem execPublicationDue_calm (c : Fin 2) (k : Fin 32) (s : State) : ∃ t, execPublicationDue c k s = .next t ∧
    Calm s t := by
  unfold execPublicationDue
  dsimp only
  (repeat' split) <;> exact ⟨_, rfl, by simp [Calm]⟩

theorem execOpenReq_calm (r : Req) (word : Word) (s : State) : ∃ t, execOpenReq r word s = .next t ∧ Calm s t := by
  unfold execOpenReq
  dsimp only
  split
  · have h : Calm s (heard r (fresh s)).2 := by simp [Calm]
    split <;> rename_i heq <;> rw [heq] at h
    · exact ⟨_, rfl, h.trans (by simp [Calm])⟩
    · exact ⟨_, rfl, h⟩
  · exact ⟨_, rfl, fresh_calm s⟩

theorem execRead_calm (r : Req) (count : Nat) (addr : Word) (s : State) : ∃ t, execRead r count addr s = .next t ∧
    Calm s t := by
  unfold execRead
  exact ⟨_, rfl, by simp [Calm]⟩

theorem execReadFixed_calm (r : Req) (count : Nat) (addr : Word) (s : State) : ∃ t, execReadFixed r count addr s =
    .next t ∧ Calm s t := by
  unfold execReadFixed
  exact ⟨_, rfl, by simp [Calm]⟩

theorem execNop_calm (r : Req) (s : State) : ∃ t, execNop r s = .next t ∧ Calm s t := by
  unfold execNop
  exact ⟨_, rfl, by simp [Calm]⟩

theorem execReservedOpRequest_calm (r : Req) (op : Nat) (s : State) : ∃ t, execReservedOpRequest r op s = .next t ∧
    Calm s t := by
  unfold execReservedOpRequest
  exact ⟨_, rfl, by simp [Calm]⟩

theorem execLatchingRead_calm (i : Fin 32) (addr : Word) (s : State) : ∃ t, execLatchingRead i addr s = .next t ∧
    Calm s t := by
  unfold execLatchingRead
  exact ⟨_, rfl, by simp [Calm]⟩

theorem execQdataRead_calm (i : Fin 32) (q : QueueId) (s : State) : ∃ t, execQdataRead i q s = .next t ∧ Calm s t :=
    by
  unfold execQdataRead
  exact ⟨_, rfl, by simp [Calm]⟩

end Sys2Proof.Machine
end

section
/-! SUPPORT AND PROOFS. Starts from reset, sessions, loads, state commands and host writes as the invariants of chapter 01
see them. -/

namespace Sys2Proof.Machine

/-! ### Starts from reset (T1, T2, T5, T12 to T14) -/

theorem tableMove_blank (m : Mode) : tableMove m .blank = true := by cases m <;> rfl

theorem powerDown_st (s : State) : (powerDown s).st = State.reset.st := rfl

theorem powerDown_saf (s : State) : (powerDown s).saf = default := rfl

theorem powerDown_limits (s : State) : (powerDown s).lim.lim = Vector.replicate 8 0 := rfl

theorem powerDown_cmds (s : State) : (powerDown s).host.cmds = [] := rfl

/-- What a start from reset adds to the wiped state. -/
theorem startUp_calm (cause : Nat) (s : State) : Calm (powerDown s) (startUp cause s) := by
  unfold startUp
  dsimp only
  split <;> simp [Calm]

theorem startUp_mode (cause : Nat) (s : State) : (startUp cause s).st.mode = .blank := by
  rw [(startUp_calm cause s).1, powerDown_st]
  rfl

/-- A start from reset into BLANK, for every relation that allows it. -/
theorem powerDown_lawful {R : Mode → Mode → Prop} {s : State} (hR : R s.st.mode .blank) (x : State) :
    Lawful R s (powerDown x) :=
  .of_reset (powerDown_limits x) (powerDown_saf x) (by rw [powerDown_st]; decide) (by rw [powerDown_st]; exact hR)

theorem startUp_lawful {R : Mode → Mode → Prop} {s : State} (hR : R s.st.mode .blank) (cause : Nat) (x : State) :
    Lawful R s (startUp cause x) :=
  (powerDown_lawful hR x).steady (startUp_calm cause x).steady

theorem startUp_tabled (s : State) (cause : Nat) (x : State) : Lawful Tabled s (startUp cause x) :=
  startUp_lawful (.inr (tableMove_blank _)) cause x

theorem resetBy_lawful {R : Mode → Mode → Prop} {s : State} (hR : R s.st.mode .blank) (cause : Nat) (x : State) :
    Lawful R s (resetBy cause x) := startUp_lawful hR cause _

theorem leaveWatch_tabled (s : State) (cause : Nat) (also trip : Bool) (x : State) :
    Lawful Tabled s (leaveWatch cause also trip x) := by
  unfold leaveWatch
  exact (startUp_tabled s cause (toMode .blank 13 x)).steady (Calm.steady (by simp [Calm]))

theorem watchTrip_tabled (s : State) (r : WatchRun) (c : Nat) (t : List (Nat × Nat)) (x : State) :
    Lawful Tabled s (watchTrip r c t x) := leaveWatch_tabled s 4 r.wakeIn true _

theorem enterStorage_tabled {s : State} (h : s.st.mode = .blank ∨ s.st.mode = .loaded) :
    Lawful Tabled s (enterStorage s) := by
  refine .of_reset rfl rfl (show Mode.storage ≠ .safe by decide) ?_
  obtain h | h := h <;> rw [h] <;> exact .inr rfl

theorem enterWatch_tabled {s : State} (h : s.st.mode = .loaded ∨ s.st.mode = .run) : Lawful Tabled s (enterWatch s) := by
  refine .of_reset rfl rfl (show Mode.watch ≠ .safe by decide) ?_
  obtain h | h := h <;> rw [h] <;> exact .inr rfl

theorem allOutputsOff_steady (s : State) : Steady s (allOutputsOff s) := by
  refine (openAll_steady s).steady (Calm.steady ?_)
  unfold allOutputsOff
  simp [Calm]

/-! ### Transitions without a reset -/

/-- A transition between states that hold every contactor open, or into RUN: no limit is published yet. -/
theorem Lawful.of_toMode {R : Mode → Mode → Prop} {s t : State} (hlim : t.lim.lim = s.lim.lim) (hsaf : t.saf = s.saf)
    (hfrom : s.st.mode ≠ .run ∧ s.st.mode ≠ .safe) (hto : t.st.mode ≠ .safe) (hR : R s.st.mode t.st.mode) :
    Lawful R s t := by
  refine ⟨fun hl _ => hlim.trans (hl hfrom.1), fun hs => ?_, hR⟩
  rw [contactorsHeld_iff] at hs ⊢
  obtain ⟨hA, hB, -⟩ := hs
  rw [HoldsA, HoldsB, hsaf]
  exact ⟨fun _ => hA (.inr hfrom), fun _ => hB (.inr hfrom), fun h => absurd h hto⟩

theorem loadEnd_loads (f : Fail) {s : State} (h : s.st.mode = .loading) : Lawful Loads s (loadEnd f s) :=
  .of_toMode rfl rfl (by rw [h]; decide) (show Mode.blank ≠ .safe by decide) (.inr ⟨.inr h, .inl rfl⟩)

theorem replaceEnd_calm (f : Fail) (s : State) : Calm s (replaceEnd f s) := ⟨rfl, rfl, rfl, rfl, rfl⟩

theorem loadAbort_loads (i : Fin 32) (s : State) : Lawful Loads s (loadAbort i s) := by
  unfold loadAbort
  split
  · split
    next h => exact loadEnd_loads _ h
    next =>
      split
      · exact (replaceEnd_calm _ s).loads
      · exact (Lawful.refl s).loads
  · exact (Lawful.refl s).loads

theorem leaveService_tabled {s : State} (h : s.st.mode = .service) : Lawful Tabled s (leaveService s) :=
  .of_toMode rfl rfl (by rw [h]; decide) (show Mode.stop ≠ .safe by decide) (by rw [h]; exact .inr rfl)

theorem abortJob_calm (j : Nat) (s : State) : Calm s (abortJob j s) := by
  unfold abortJob
  dsimp only
  split
  · split
    · exact contactorAbort_calm s
    · (repeat' split) <;> simp [Calm]
  · simp [Calm]
  · exact .refl s

/-- A session closes: its load ends, or its service does, and nothing else that the invariants speak of. -/
theorem closeSession_tabled (i : Fin 32) (s : State) : Lawful Tabled s (closeSession i s) := by
  unfold closeSession
  extract_lets s₁ s₂ s₃ s₄ s₅ s₆
  have h₁ : Lawful Loads s s₁ := loadAbort_loads i s
  have h₂ : Lawful Tabled s s₂ := by
    by_cases hsv : s₁.st.mode = .service ∧ s₁.host.sess[i].inService = true
    · have hm : s₁.st.mode = s.st.mode := h₁.mode.elim id (fun ⟨_, hn⟩ => by simp [hsv.1] at hn)
      have hstay : Steady s s₁ := ⟨h₁.limits, h₁.held, hm⟩
      simpa only [s₂, if_pos hsv] using hstay.then (leaveService_tabled hsv.1)
    · simpa only [s₂, if_neg hsv] using h₁.tabled_of_loads
  have h₃ : Calm s₂ s₃ := foldl_calm (fun s j => by
    split
    · exact abortJob_calm j s
    · exact .refl s) _ _
  have h₅ : Calm s₃ s₅ := by
    simp only [s₅]
    split <;> simp [Calm, s₄]
  exact h₂.steady (h₃.trans (h₅.trans (by simp [Calm, s₆]))).steady

/-! ### The loader -/

theorem loadWord_loads (v : Word) {s : State} (h : s.st.mode = .loading) : Lawful Loads s (loadWord v s) := by
  unfold loadWord
  extract_lets words n x img
  have hx : Steady s x := Calm.steady ⟨rfl, rfl, rfl, rfl, rfl⟩
  split
  · exact hx.then (loadEnd_loads _ h)
  · split
    · exact hx.loads.steady (Calm.steady ⟨rfl, rfl, rfl, rfl, rfl⟩)
    · exact hx.loads

/-- T3, before the first word is counted. -/
theorem toLoading_loads {s : State} (h : s.st.mode = .blank) (f : Ldr → Ldr) :
    Lawful Loads s (modLdr f (toMode .loading 3 s)) :=
  .of_toMode rfl rfl (by rw [h]; decide) (show Mode.loading ≠ .safe by decide) (.inr ⟨.inl h, .inr rfl⟩)

theorem loadStart_loads (i : Fin 32) (v : Word) {s : State} (h : s.st.mode = .blank) :
    Lawful Loads s (loadStart i v s) :=
  (toLoading_loads h _).trans Loads.trans (loadWord_loads v rfl)

theorem replaceWord_calm (v : Word) (w : List Word) (s : State) : Calm s (replaceWord v w s) := by simp [Calm]

theorem ldDataWrite_loads (i : Fin 32) (v : Word) (s : State) : Lawful Loads s (ldDataWrite i v s).2 := by
  unfold ldDataWrite
  split
  next hm =>
    split
    · exact (Lawful.refl s).loads
    · exact loadStart_loads i v hm
  next hm =>
    split
    · exact loadWord_loads v hm
    · exact (Lawful.refl s).loads
  next =>
    split
    · split
      · exact (replaceWord_calm v _ s).loads
      · exact (Lawful.refl s).loads
    · exact (Lawful.refl s).loads
  next => exact (Lawful.refl s).loads

theorem ldCtrlWrite_loads (i : Fin 32) (v : Word) (s : State) : Lawful Loads s (ldCtrlWrite i v s).2 := by
  unfold ldCtrlWrite
  extract_lets t r
  have ht : Lawful Loads s t := by
    simp only [t]
    split
    · exact loadAbort_loads i s
    · exact (Lawful.refl s).loads
  split
  · split
    · exact ht.steady (Calm.steady (by simp [Calm, r]))
    · exact (Lawful.refl s).loads
  · exact ht

theorem loaderWrite_loads (i : Fin 32) (o : Nat) (v : Word) (s : State) : Lawful Loads s (loaderWrite i o v s).2 := by
  unfold loaderWrite
  split
  · exact Calm.loads ⟨rfl, rfl, rfl, rfl, rfl⟩
  · exact ldCtrlWrite_loads i v s
  · exact ldDataWrite_loads i v s
  · exact Calm.loads ⟨rfl, rfl, rfl, rfl, rfl⟩
  · exact Calm.loads (by simp [Calm])
  · split <;> exact Calm.loads ⟨rfl, rfl, rfl, rfl, rfl⟩

/-! ### Life cycle -/

/-- A life-cycle command is carried out in BLANK only (R380). -/
theorem mode_of_lcRefusal {v : Word} {s : State} (h : lcRefusal v s = 0) : s.st.mode = .blank := by
  by_contra hm
  simp [lcRefusal, hm] at h

theorem lcChange_loads (l : LcSt) (revoke : Bool) {s : State} (h : s.st.mode = .blank) (x : State) :
    Lawful Loads s (lcChange l revoke x) := resetBy_lawful (.inl h.symm) 9 _

theorem lcEffect_loads (v : Word) {s : State} (h : s.st.mode = .blank) : Lawful Loads s (lcEffect v s) := by
  unfold lcEffect
  split
  · exact lcChange_loads .owned false h _
  · exact Calm.loads ⟨rfl, rfl, rfl, rfl, rfl⟩
  · exact Calm.loads ⟨rfl, rfl, rfl, rfl, rfl⟩
  · exact lcChange_loads .returned true h s
  · exact lcChange_loads .scrapped true h s

theorem modPw_calm (f : Pw → Pw) (s : State) : Calm s (modPw f s) := ⟨rfl, rfl, rfl, rfl, rfl⟩

theorem bumpNonce_calm (s : State) : Calm s (bumpNonce s) := ⟨rfl, rfl, rfl, rfl, rfl⟩

theorem lcCmdWrite_loads (v : Word) (s : State) : Lawful Loads s (lcCmdWrite v s) := by
  unfold lcCmdWrite
  extract_lets c
  split
  · exact Calm.loads (by simp [Calm])
  next hc =>
    have hm : s.st.mode = .blank := mode_of_lcRefusal (not_not.mp hc)
    have h := (modPw_calm (fun p => { p with lcResult := 0 }) s).steady.then (lcEffect_loads v hm)
    exact h.steady (bumpNonce_calm _).steady

theorem powerWrite_loads (o : Nat) (v : Word) (s : State) : Lawful Loads s (powerWrite o v s) := by
  unfold powerWrite
  split
  · exact Calm.loads ⟨rfl, rfl, rfl, rfl, rfl⟩
  · exact Calm.loads ⟨rfl, rfl, rfl, rfl, rfl⟩
  · exact lcCmdWrite_loads v s
  · split <;> exact Calm.loads ⟨rfl, rfl, rfl, rfl, rfl⟩

/-! ### Jobs -/

theorem jobStartKind_steady (i : Fin 32) (j : Fin 8) (kind : Nat) (s : State) :
    Steady s (jobStartKind i j kind s).2 := by
  unfold jobStartKind
  split
  · exact contactorStart_steady i j 1 s
  · exact contactorStart_steady i j 2 s
  all_goals (try split) <;> exact Calm.steady (by simp [Calm])

theorem jobStartWrite_steady (i : Fin 32) (j : Fin 8) (kind : Nat) (s : State) :
    Steady s (jobStartWrite i j kind s).2 := by
  unfold jobStartWrite
  split
  · exact jobStartKind_steady i j kind s
  · exact .refl s

theorem jobCtrlWrite_steady (i : Fin 32) (j : Fin 8) (v : Word) (s : State) : Steady s (jobCtrlWrite i j v s).2 := by
  unfold jobCtrlWrite
  extract_lets r t c
  have hr : Steady s r.2 := by
    simp only [r]
    split
    · exact jobStartWrite_steady i j _ s
    · exact .refl s
  have ht : Steady s t := by
    simp only [t]
    split
    · exact hr.then (abortJob_calm j.val r.2).steady
    · exact hr
  split
  · exact .refl s
  · split
    · split
      · exact ht.then (Calm.steady (by simp [Calm, c]))
      · exact .refl s
    · exact ht

theorem jobsWrite_steady (i : Fin 32) (o : Nat) (v : Word) (s : State) : Steady s (jobsWrite i o v s).2 := by
  unfold jobsWrite
  split
  · dsimp only
    split
    · exact jobCtrlWrite_steady i _ v s
    · exact Calm.steady (by simp [Calm])
    · exact .refl s
  · exact .refl s

/-! ### A write to any register -/

theorem blockWrite_loads (i : Fin 32) (req : Option (Req × Nat × Nat)) (b : Blk) (o : Nat) (v : Word) (s : State) :
    Lawful Loads s (blockWrite i req b o v s).2 := by
  cases b
  case jobs => exact (jobsWrite_steady i o v s).loads
  case loader => exact loaderWrite_loads i o v s
  case safety => exact (safWrite_steady o v s).loads
  case power => exact powerWrite_loads o v s
  case ident =>
    simp only [blockWrite]
    split
    · exact Calm.loads (by simp [Calm])
    · exact (Lawful.refl s).loads
  case chain =>
    simp only [blockWrite, chainWrite]
    (repeat' split) <;> exact Calm.loads (by simp [Calm])
  all_goals exact Calm.loads (by simp [Calm, blockWrite])

theorem writeWord_loads (i : Fin 32) (req : Option (Req × Nat × Nat)) (a : Nat) (v : Word) (s : State) :
    Lawful Loads s (writeWord i req a v s).2 := by
  unfold writeWord
  split
  · exact (Lawful.refl s).loads
  · split
    · exact (Lawful.refl s).loads
    · split
      · exact (Lawful.refl s).loads
      · exact blockWrite_loads i req _ _ _ s

/-! ### Requests and single accesses -/

theorem respond_calm (r : Rsp) (s : State) : Calm s (respond r s) := by simp [Calm]

theorem answer_calm (i : Fin 32) (r : Rsp) (s : State) : Calm s (answer i r s) := by simp [Calm]

/-- A single access is as lawful as what it carries out. -/
theorem access_lawful {R : Mode → Mode → Prop} (hrefl : ∀ {m}, R m m) (i : Fin 32) (op a : Nat) {f : State → State}
    (hf : ∀ s, Lawful R s (f s)) (s : State) : Lawful R s (access i op a f s) := by
  have hcalm : ∀ {t}, Calm s t → Lawful R s t := fun h =>
    h.steady.mono (fun {m n} (hn : n = m) => hn ▸ hrefl)
  unfold access
  (repeat' split)
  · exact hcalm (.refl s)
  · exact hcalm (respond_calm _ s)
  · exact hcalm (respond_calm _ s)
  · exact (modSess_calm i _ s).steady.then (hf _)

/-- A single write of a session, whatever its register. -/
theorem writeCmd_tabled (i : Fin 32) (a : Nat) (v : Word) (s : State) :
    ∃ t, writeCmd i a v s = .next t ∧ Lawful Tabled s t := by
  refine ⟨_, rfl, Lawful.then (fresh_steady s) (Lawful.tabled_of_loads ?_)⟩
  refine access_lawful (R := Loads) (.inl rfl) i 4 a (fun s => ?_) _
  dsimp only
  split
  · exact writeWord_loads i none a v s
  · exact (writeWord_loads i none a v s).steady (respond_calm _ _).steady

theorem heard_calm (r : Req) (s : State) : Calm s (heard r s).2 := by simp [Calm]

/-- A request is as lawful as what it carries out. -/
theorem request_lawful {R : Mode → Mode → Prop} (hrefl : ∀ {m}, R m m) (r : Req) (op addr : Nat)
    {f : Fin 32 → State → State} (hf : ∀ i s, Lawful R s (f i s)) (s : State) : Lawful R s (request r op addr f s) := by
  have hcalm : ∀ {s t}, Calm s t → Lawful R s t := fun h =>
    h.steady.mono (fun {m n} (hn : n = m) => hn ▸ hrefl)
  have hserve : ∀ s, Lawful R s (serve r op addr f s) := fun s => by
    unfold serve
    split
    next => exact hcalm (respond_calm _ s)
    next i _ =>
      split
      · exact hcalm (respond_calm _ s)
      · refine (modSess_calm i (fun x => { x with idle := 0 }) s).steady.then ?_
        dsimp only
        split
        · split
          · exact hcalm (respond_calm _ _)
          · exact hf _ _
        · exact hf _ _
  have hin := heard_calm r s
  unfold request
  split
  · split <;> rename_i heq <;> rw [heq] at hin
    · refine (hin.trans ?_).steady.then (hserve _)
      exact ⟨rfl, rfl, rfl, rfl, rfl⟩
    · exact hcalm hin
  · exact hcalm (.refl s)

theorem writeAll_loads (i : Fin 32) (r : Req) (count : Nat) (l : List Word) (k a : Nat) (s : State) :
    Lawful Loads s (writeAll i r count l k a s).2.2.2 := by
  induction l generalizing k a s with
  | nil => exact (Lawful.refl s).loads
  | cons v l ih =>
    unfold writeAll
    extract_lets w
    have hw : Lawful Loads s w.2 := by
      simp only [w]
      split
      · exact writeWord_loads i _ a v s
      · exact (Lawful.refl s).loads
    split
    · exact hw.trans Loads.trans (ih _ _ _)
    · exact hw

theorem writeReq_loads (r : Req) (count addr : Nat) (data : List Word) (i : Fin 32) (s : State) :
    Lawful Loads s (writeReq r count addr data i s) := by
  unfold writeReq
  split
  · extract_lets x
    have hx : Lawful Loads s x.2.2.2 := writeAll_loads i r count _ 0 addr s
    split
    · split
      · exact hx
      · exact hx.steady (Calm.steady (by simp [Calm]))
    · exact hx.steady (answer_calm i _ _).steady
  · exact (answer_calm i _ s).loads

theorem execWrite_tabled (r : Req) (count : Nat) (addr : Word) (data : List Word) (s : State) :
    ∃ t, execWrite r count addr data s = .next t ∧ Lawful Tabled s t :=
  ⟨_, rfl, Lawful.then (fresh_steady s) (Lawful.tabled_of_loads
    (request_lawful (.inl rfl) r 4 addr.toNat (writeReq_loads r count addr.toNat data) _))⟩

theorem execCloseReq_tabled (r : Req) (s : State) : ∃ t, execCloseReq r s = .next t ∧ Lawful Tabled s t := by
  refine ⟨_, rfl, Lawful.then (Calm.steady ?_) (request_lawful (.inl rfl) r 2 _ (fun i s => ?_) _)⟩
  · exact ⟨rfl, rfl, rfl, rfl, rfl⟩
  · split
    · exact (closeSession_tabled i s).steady (respond_calm _ _).steady
    · exact (answer_calm i _ s).tabled

theorem execSessionTimeout_tabled (i : Fin 32) (s : State) :
    ∃ t, execSessionTimeout i s = .next t ∧ Lawful Tabled s t := by
  unfold execSessionTimeout
  dsimp only
  split
  · have h := (fresh_steady s).then (closeSession_tabled i (fresh s))
    exact ⟨_, rfl, h.steady (Calm.steady (by simp [Calm]))⟩
  · exact ⟨_, rfl, (fresh_steady s).tabled⟩

end Sys2Proof.Machine
end

section
/-! SUPPORT AND PROOFS. The commands that touch what the invariants of chapter 01 speak of, one lemma each: channels and
their tests, limits, powers and wakes, the loader, the beat boundary and the end of T6. -/

namespace Sys2Proof.Machine

/-! ### Channel A and channel B (10) -/

theorem execSafetyInputChange_tabled (i : Fin 4) (pinB level : Bool) (s : State) : ∃ t, execSafetyInputChange i pinB
    level s = .next t ∧ Lawful Tabled s t := by
  unfold execSafetyInputChange
  extract_lets x y z asks
  split
  · have hz : Steady s z := Calm.steady ⟨rfl, rfl, rfl, rfl, rfl⟩
    exact ⟨_, rfl, (hz.then (Lawful.ite (inputOpens_steady ..) (Lawful.refl z))).tabled⟩
  · exact ⟨_, rfl, (fresh_steady s).tabled⟩

theorem execPinFollow_tabled (i : Fin 4) (channelB : Bool) (s : State) : ∃ t, execPinFollow i channelB s = .next t ∧
    Lawful Tabled s t := by
  exact ⟨_, rfl, ((fresh_steady s).then (Lawful.ite (inputOpens_steady ..) (Lawful.refl _))).tabled⟩

theorem execTestPulse_tabled (tp : Fin 2) (lowReads : List Nat) (s : State) : ∃ t, execTestPulse tp lowReads s =
    .next t ∧ Lawful Tabled s t := by
  unfold execTestPulse
  extract_lets x y
  split
  · have hy : Steady s y := Calm.steady (by simp [Calm, y, x])
    refine ⟨_, rfl, Lawful.tabled (hy.then (foldl_steady (fun s i => ?_) _ _))⟩
    have hnote : ∀ (ch : Chan) (s : State),
        Steady s (inputOpens i ch false (recEvent 0x23 ch.num [toW i, beatLo s, toW tp.val, 0] s)) := fun ch s =>
      Lawful.then (Calm.steady (by simp [Calm])) (inputOpens_steady i ch false _)
    split
    · extract_lets u v note
      split
      split
      extract_lets w z
      have hw : Steady s w := Calm.steady ⟨rfl, rfl, rfl, rfl, rfl⟩
      have hz : Steady s z := hw.then (Lawful.ite (hnote .a w) (Lawful.refl w))
      exact hz.then (Lawful.ite (hnote .b z) (Lawful.refl z))
    · exact .refl s
  · exact ⟨_, rfl, (fresh_steady s).tabled⟩

theorem execChannelAEvaluation_tabled (hsMa : List Nat) (s : State) : ∃ t, execChannelAEvaluation hsMa s = .next t ∧
    Lawful Tabled s t := by
  unfold execChannelAEvaluation
  extract_lets x y
  split
  next b _ =>
    split
    · have hy : Calm s y := by simp [Calm, y, x]
      iterate 7 split
      rename_i _ y₁ c₁ e₁ _ y₂ c₂ e₂ _ y₃ c₃ e₃ _ y₄ c₄ e₄ _ y₅ c₅ e₅ _ y₆ c₆ e₆ _ y₇ c₇ e₇
      extract_lets z w
      have h₃ : Calm s y₃ :=
        hy.trans ((evalPos_calm b y).of_pair e₁ |>.trans ((evalFe_calm b y₁).of_pair e₂ |>.trans
          ((evalTemp_calm b y₂).of_pair e₃)))
      have h₆ : Calm s y₆ :=
        h₃.trans ((evalI2t_calm b y₃).of_pair e₄ |>.trans ((evalDir_calm b y₄).of_pair e₅ |>.trans
          ((evalOther_calm y₅).of_pair e₆)))
      have h₇ : Steady s y₇ := by
        have h := h₆.steady.then (evalHs_steady hsMa y₆)
        rwa [e₇] at h
      have hz : Lawful Trips s z :=
        (h₇.then ((jobTest_calm y₇).steady.then ((discJudge_steady .a _).then (latchAll_lawful .a _ _)))).steady
          (dropA_steady _)
      refine ⟨_, rfl, (hz.steady (Calm.steady ?_)).tabled_of_trips⟩
      exact ⟨rfl, rfl, rfl, rfl, rfl⟩
    · exact ⟨_, rfl, (fresh_steady s).tabled⟩
  next => exact ⟨_, rfl, (fresh_steady s).tabled⟩

theorem execCrcRecheck_tabled (s : State) : ∃ t, execCrcRecheck s = .next t ∧ Lawful Tabled s t := by
  unfold execCrcRecheck
  extract_lets x y a b z w v
  split
  · have hw : Steady s w := Calm.steady (by simp [Calm, w, z, y, x])
    have hv : Lawful Trips s v := hw.then (Lawful.ite (latch_lawful ..) (Lawful.refl w).trips)
    exact ⟨_, rfl, Lawful.tabled_of_trips (Lawful.ite (hv.trips_then (latch_lawful ..)) hv)⟩
  · exact ⟨_, rfl, (fresh_steady s).tabled⟩

theorem execSelfTest_tabled (passed : Bool) (s : State) : ∃ t, execSelfTest passed s = .next t ∧ Lawful Tabled s t
    := by
  exact ⟨_, rfl, ((fresh_steady s).then (Lawful.ite (latch_lawful ..) (Lawful.refl _).trips)).tabled_of_trips⟩

theorem execInsulationPhaseSettled_tabled (v : Int) (s : State) : ∃ t, execInsulationPhaseSettled v s = .next t ∧
    Lawful Tabled s t := by
  unfold execInsulationPhaseSettled
  extract_lets x
  split
  · have hset : Calm s (insSettled v x).1 := by simp [Calm, x]
    split
    rename_i y own heq
    rw [heq] at hset
    split
    · split
      · extract_lets n z w
        have hw : Steady s w := hset.steady.then (Calm.steady ⟨rfl, rfl, rfl, rfl, rfl⟩)
        exact ⟨_, rfl, (hw.then (Lawful.ite (latch_lawful ..) (Lawful.refl w).trips)).tabled_of_trips⟩
      · exact ⟨_, rfl, hset.tabled⟩
    · exact ⟨_, rfl, hset.tabled⟩
  · exact ⟨_, rfl, (fresh_steady s).tabled⟩

theorem execRequestApplication_tabled (s : State) : ∃ t, execRequestApplication s = .next t ∧ Lawful Tabled s t :=
    by
  unfold execRequestApplication
  extract_lets x y
  split
  · have hjob : Calm s (jobStep y).2.2 := Calm.trans (by simp [Calm, y, x]) (jobStep_calm y)
    split
    rename_i jc jo u heq
    rw [heq] at hjob
    extract_lets z w
    have hz : Steady s z := hjob.steady.then (switching_lawful (applyK_steady jc jo u))
    split
    · refine ⟨_, rfl, (hz.then (Calm.steady ?_)).tabled⟩
      exact ⟨rfl, rfl, rfl, rfl, rfl⟩
    · split
      · refine ⟨_, rfl, (hz.then (Lawful.ite (Calm.steady ?_) (.ite (jobDone_calm z).steady (.refl z)))).tabled⟩
        exact ⟨rfl, rfl, rfl, rfl, rfl⟩
      · exact ⟨_, rfl, hz.tabled⟩
  · exact ⟨_, rfl, (fresh_steady s).tabled⟩

theorem execToggleEdge_tabled (intervalUs : Nat) (lsMa : List Nat) (s : State) : ∃ t, execToggleEdge intervalUs lsMa
    s = .next t ∧ Lawful Tabled s t := by
  unfold execToggleEdge
  extract_lets x y early good run w
  split
  · have hw : Steady s w := Calm.steady ⟨rfl, rfl, rfl, rfl, rfl⟩
    have hls := hw.then (evalLs_steady lsMa w)
    split
    rename_i u c heq
    rw [heq] at hls
    extract_lets z
    have hz : Lawful Trips s z := hls.then ((discJudge_steady .b u).then (latchAll_lawful .b _ _))
    exact ⟨_, rfl, (hz.steady (switching_lawful (switchLs_steady z))).tabled_of_trips⟩
  · exact ⟨_, rfl, (fresh_steady s).tabled⟩

theorem execToggleMissing_tabled (s : State) : ∃ t, execToggleMissing s = .next t ∧ Lawful Tabled s t := by
  unfold execToggleMissing
  extract_lets x n y z
  split
  · have hz : Steady s z := Calm.steady ⟨rfl, rfl, rfl, rfl, rfl⟩
    exact ⟨_, rfl, (hz.then (Lawful.ite (latch_lawful ..) (Lawful.refl z).trips)).tabled_of_trips⟩
  · exact ⟨_, rfl, (fresh_steady s).tabled⟩

theorem execLatchA_tabled (s : State) : ∃ t, execLatchA s = .next t ∧ Lawful Tabled s t := by
  exact ⟨_, rfl, ((fresh_steady s).then
    (Lawful.ite (switching_allK_steady (fun _ c => latched_keepsOff .b c) _) (Lawful.refl _))).tabled⟩

theorem execLatchB_tabled (s : State) : ∃ t, execLatchB s = .next t ∧ Lawful Tabled s t := by
  exact ⟨_, rfl, ((fresh_steady s).then
    (Lawful.ite (switching_allK_steady (fun _ c => latched_keepsOff .a c) _) (Lawful.refl _))).tabled⟩

theorem execFastOc_tabled (s : State) : ∃ t, execFastOc s = .next t ∧ Lawful Tabled s t := by
  exact ⟨_, rfl, ((fresh_steady s).then (Lawful.ite (latch_lawful ..) (Lawful.refl _).trips)).tabled_of_trips⟩

theorem execOffPulseTest_tabled (k : Fin 4) (s : State) : ∃ t, execOffPulseTest k s = .next t ∧ Lawful Tabled s t :=
    by
  unfold execOffPulseTest
  extract_lets x c y n sets z
  split
  · have hy : Steady s y := Calm.steady (by simp [Calm, y, x])
    have hk : getNat y.saf.k k.val = c := getNat_of_lt _ k.isLt
    split
    · have hz : Steady s z := hy.then (modK_steady y (fun _ _ => .of_eq rfl rfl rfl rfl rfl))
      exact ⟨_, rfl, (hz.then (Lawful.ite (Calm.steady (by simp [Calm])) (.refl z))).tabled⟩
    · split
      · exact ⟨_, rfl, hy.tabled⟩
      next hon =>
        refine ⟨_, rfl, (hy.then (modK_steady y (fun _ _ => ?_))).tabled⟩
        have hon : c.hs = true ∧ c.ls = true := by simpa using hon
        rw [hk]
        split
        · exact .of_eq rfl rfl rfl rfl rfl
        · exact ⟨fun h => by simp [h.1] at hon, fun h => by simp [h.1] at hon⟩
  · exact ⟨_, rfl, (fresh_steady s).tabled⟩

theorem execOffPulseEnd_tabled (k : Fin 4) (maxMa : Nat) (s : State) : ∃ t, execOffPulseEnd k maxMa s = .next t ∧
    Lawful Tabled s t := by
  unfold execOffPulseEnd
  extract_lets x c pass
  split
  · exact ⟨_, rfl, (fresh_steady s).tabled⟩
  next hsSide _ =>
    split
    · exact ⟨_, rfl, (fresh_steady s).tabled⟩
    · extract_lets may on f y
      have hk : getNat x.saf.k k.val = c := getNat_of_lt _ k.isLt
      have hmay : ContactorsHeld x → may = true → MayClose x := fun hx h => by
        cases hsSide
        · exact permitB_mayClose hx k.isLt (hk ▸ h)
        · simp only [may, if_true, Bool.and_eq_true] at h
          exact permitBase_mayClose h.1.1
      have hy : Steady s y := (fresh_steady s).then (switching_lawful (modK_steady x (fun hx hno => by
        have hon : on = false := by
          simp [on, Bool.eq_false_iff.mpr (fun h => hno (hmay hx h))]
        rw [hk]
        have hf : f c = c.pulseEnd hsSide pass on := rfl
        rw [hf, hon]
        exact pulseEnd_keepsOff hsSide pass c)))
      exact ⟨_, rfl, Lawful.tabled_of_trips
        (.ite hy.trips (.ite (hy.then (latch_lawful ..)) (hy.then (latch_lawful ..))))⟩

theorem execPrechargeEnd_tabled (s : State) : ∃ t, execPrechargeEnd s = .next t ∧ Lawful Tabled s t := by
  unfold execPrechargeEnd
  extract_lets x y pre
  split
  · split
    · split
      · have hy : Steady s y := Calm.steady (by simp [Calm, y, x])
        exact ⟨_, rfl, (hy.then ((allK_steady (fun k c => openReq_keepsOff (pre.testBit k) c) y).then
          (jobDone_calm _).steady)).tabled⟩
      · exact ⟨_, rfl, (fresh_steady s).tabled⟩
    · exact ⟨_, rfl, (fresh_steady s).tabled⟩
  · exact ⟨_, rfl, (fresh_steady s).tabled⟩

theorem execPrechargeTimeout_tabled (s : State) : ∃ t, execPrechargeTimeout s = .next t ∧ Lawful Tabled s t := by
  unfold execPrechargeTimeout
  dsimp only
  split
  · split
    · split
      · exact ⟨_, rfl, Lawful.tabled (Lawful.then (Calm.steady (by simp [Calm])) (jobFail_steady 5 _))⟩
      · exact ⟨_, rfl, (fresh_steady s).tabled⟩
    · exact ⟨_, rfl, (fresh_steady s).tabled⟩
  · exact ⟨_, rfl, (fresh_steady s).tabled⟩

theorem execOutputPhase_tabled (s : State) : ∃ t, execOutputPhase s = .next t ∧ Lawful Tabled s t := by
  unfold execOutputPhase
  extract_lets x y drive img z w
  split
  · have hz : Steady s z := Calm.steady (by simp [Calm, z, y, x])
    have hw : Steady s w := by
      refine hz.then (allK_steady (fun k c => ?_) z)
      exact .of_eq rfl rfl rfl rfl rfl
    refine ⟨_, rfl, (hw.then (.ite (foldl_steady (fun s i => Calm.steady ?_) _ w) (.refl w))).tabled⟩
    simp [Calm]
  · exact ⟨_, rfl, (fresh_steady s).tabled⟩

end Sys2Proof.Machine
end

section
/-! SUPPORT AND PROOFS. Published limits, the escapement's overruns and the beat boundary as the invariants of chapter 01
see them. -/

namespace Sys2Proof.Machine

/-! ### Published limits (R223, Table 02-3) -/

/-- STATE and the contactors stay, and what is published outside RUN is zero. -/
theorem Lawful.of_limits {s t : State} (hst : t.st = s.st) (hsaf : t.saf = s.saf)
    (hlim : LimitsOnlyInRun s → s.st.mode ≠ .run → t.lim.lim = Vector.replicate 8 0) : Steady s t := by
  refine ⟨fun hl hr => hlim hl (hst ▸ hr), ?_, congrArg _ hst⟩
  rw [ContactorsHeld, ContactorsHeld, hst, hsaf]
  exact id

theorem zeroLimits_steady (s : State) : Steady s (zeroLimits s) := .of_limits rfl rfl (fun _ _ => rfl)

theorem publishLimits_limits {s : State} (h : s.st.mode ≠ .run) :
    (publishLimits s).lim.lim = Vector.replicate 8 0 := by
  have hoff : ((selection s).st.mode == .run) = false := by simp [h]
  unfold publishLimits
  simp only [setAgainIf_limits, hoff, Bool.false_and, Bool.false_eq_true, if_false]
  exact Vector.ext fun k hk => by simp

theorem publishLimits_steady (s : State) : Steady s (publishLimits s) :=
  .of_limits (by simp) (by simp) (fun _ h => publishLimits_limits h)

/-! ### Overruns and stopped items (R38 to R43, R217) -/

theorem modEngine_calm (e : Nat) (f : Engine → Engine) (s : State) : Calm s (modEngine e f s) := ⟨rfl, rfl, rfl, rfl, rfl⟩

theorem tookFree_calm (k : Nat) (s : State) : Calm s (tookFree k s) := ⟨rfl, rfl, rfl, rfl, rfl⟩

theorem overrun_steady (e : Nat) (item : Option Nat) (s : State) : Steady s (overrun e item s) := by
  unfold overrun
  extract_lets _ x now before lag y hold z
  have hz : Calm s z := ⟨rfl, rfl, rfl, rfl, rfl⟩
  exact .ite (hz.steady.then (zeroLimits_steady z)) hz.steady

theorem stopItem_steady (k cycles : Nat) (s : State) : Steady s (stopItem k cycles s) := by
  unfold stopItem
  split
  · exact .refl s
  · exact .ite ((modEngine_calm _ _ s).steady.then (overrun_steady ..)) (.refl s)

theorem stopLate_steady (s : State) (x : Nat × Nat) : Steady s (stopLate s x) :=
  (tookFree_calm 1 s).steady.then (stopItem_steady ..)

theorem stopReleased_steady (s : State) : Steady s (stopReleased s) := foldl_steady stopLate_steady _ s

theorem stopTasks_calm (s : State) : Calm s (stopTasks s) := by simp [Calm]

theorem stopWork_steady (k cycles : Nat) (s : State) : Steady s (stopWork k cycles s) :=
  Lawful.ite ((stopItem_steady k cycles s).then (stopTasks_calm _).steady) (stopItem_steady k cycles s)

theorem execLimitPublication_tabled (s : State) : ∃ t, execLimitPublication s = .next t ∧ Lawful Tabled s t := by
  unfold execLimitPublication
  dsimp only
  split
  · exact ⟨_, rfl, (Lawful.then (Calm.steady (by simp [Calm])) (publishLimits_steady _)).tabled⟩
  · exact ⟨_, rfl, (fresh_steady s).tabled⟩

theorem execItemBudgetExpiry_tabled (e : Fin 11) (s : State) : ∃ t, execItemBudgetExpiry e s = .next t ∧ Lawful
    Tabled s t := by
  unfold execItemBudgetExpiry
  extract_lets x
  split
  · exact ⟨_, rfl, (fresh_steady s).tabled⟩
  · exact ⟨_, rfl, ((fresh_steady s).then (stopWork_steady ..)).tabled⟩

theorem execItemDeadlineExpiry_tabled (item cycles : Nat) (s : State) : ∃ t, execItemDeadlineExpiry item cycles s =
    .next t ∧ Lawful Tabled s t := by
  unfold execItemDeadlineExpiry
  extract_lets x
  split
  · refine ⟨_, rfl, ((fresh_steady s).then (.ite (Lawful.then ?_ (stopWork_steady ..)) (.refl x))).tabled⟩
    exact .ite (Calm.steady ⟨rfl, rfl, rfl, rfl, rfl⟩) (.refl x)
  · exact ⟨_, rfl, (fresh_steady s).tabled⟩

/-! ### Stopping (T8) -/

/-- Contactors that are held open stay so under changes that keep what is off. -/
theorem HeldOpen.of_mapAll {s t : State} {f : Nat → Contactor → Contactor} (h : HeldOpen s)
    (hk : t.saf.k = mapAll s.saf.k f) (hf : ∀ k c, KeepsOff c (f k c)) : HeldOpen t := by
  intro k h4
  rw [hk, getNat_mapAll _ _ h4]
  exact ⟨(hf k _).1 (h k h4).1, (hf k _).2 (h k h4).2⟩

theorem jobFail_heldOpen {s : State} (h : HeldOpen s) (detail : Nat) : HeldOpen (jobFail detail s) := by
  unfold jobFail
  split
  · exact h
  next j _ =>
    exact h.of_mapAll (f := fun k c => if j.asked.testBit k then { c with openReq := true } else c) rfl
      (fun k c => openReq_keepsOff _ c)

theorem jobWatch_heldOpen {s : State} (h : HeldOpen s) (before : State) : HeldOpen (jobWatch before s) := by
  unfold jobWatch
  split
  · split
    · exact jobFail_heldOpen h 6
    · exact h
  · exact h

theorem openAll_heldOpen (s : State) : HeldOpen (openAll s) := by
  refine jobWatch_heldOpen (.of_calm ?_ (noteOpens_calm s _)) s
  intro k hk
  rw [allK_k, getNat_mapAll _ _ hk]
  exact ⟨heldByA_offBoth _, heldByB_offBoth _⟩

theorem enterStop_heldOpen (s : State) : HeldOpen (enterStop s) := openAll_heldOpen s

/-- Both channels open every contactor, and the module stops. -/
theorem enterStop_lawful {R : Mode → Mode → Prop} {s : State} (hR : R s.st.mode .stop) : Lawful R s (enterStop s) :=
  ⟨fun _ _ => rfl, fun _ => contactorsHeld_of_heldOpen (enterStop_heldOpen s) (show Mode.stop ≠ .safe by decide), hR⟩

theorem modLg_calm (f : Logic → Logic) (s : State) : Calm s (modLg f s) := ⟨rfl, rfl, rfl, rfl, rfl⟩

theorem overrunStop_tabled (s : State) : Lawful Tabled s (overrunStop s) := by
  unfold overrunStop
  split
  · extract_lets x
    have hx : Steady s x := (modLg_calm _ s).steady
    split
    next hm => exact hx.then (enterStop_lawful (by rw [hm]; exact .inr rfl))
    next => exact hx.tabled
  · exact (Lawful.refl s).tabled

/-! ### The beat boundary -/

theorem dieGate_limits (s : State) : (dieGate s).lim.lim = s.lim.lim := by
  simp only [dieGate, apply_ite State.lim, apply_ite Lim.lim, ite_self]

/-- The parts of the beat boundary before an overrun of the loops stops the module. -/
theorem beatStart_calm (s : State) : Calm s (lgBeat (fioBeat (canBeat (fabricBeat (pairBeat (chainBeat s)))))) := by
  simp [Calm]

/-- The parts after it. -/
theorem beatEnd_calm (s : State) : Calm s (releaseAtZero (armEnum (insOpen (dieGate (streamBeat (idleBeat s)))))) := by
  simp [Calm, dieGate_limits]

theorem nextBeat_tabled (s : State) : Lawful Tabled s (nextBeat s) := by
  unfold nextBeat
  extract_lets x y z w
  have hx : Calm (stopReleased s) x := by simp [Calm, x]
  have hz : Calm x z := ⟨rfl, rfl, rfl, rfl, rfl⟩
  have hw : Lawful Tabled s w :=
    (stopReleased_steady s).then ((hx.trans (hz.trans (beatStart_calm z))).steady.then (overrunStop_tabled _))
  exact hw.steady (beatEnd_calm w).steady

theorem execBeatBoundary_tabled (s : State) : ∃ t, execBeatBoundary s = .next t ∧ Lawful Tabled s t := by
  exact ⟨_, rfl, (fresh_steady s).then (.ite (nextBeat_tabled _) (Lawful.refl _).tabled)⟩

end Sys2Proof.Machine
end

section
/-! SUPPORT AND PROOFS. Supplies, wakes, the loader, firmware and the end of T6 as the invariants of chapter 01 see them. -/

namespace Sys2Proof.Machine

/-! ### Watch checks and wakes (T1, T13, T14) -/

theorem setWatch_calm (r : WatchRun) (s : State) : Calm s (setWatch r s) := ⟨rfl, rfl, rfl, rfl, rfl⟩

theorem execWatchCheckBeat_tabled (d : WatchData) (s : State) : ∃ t, execWatchCheckBeat d s = .next t ∧ Lawful
    Tabled s t := by
  unfold execWatchCheckBeat
  extract_lets x
  have hx : Lawful Tabled s x := (fresh_steady s).tabled
  split
  next r _ =>
    split
    next c _ =>
      split
      · extract_lets y r2 p z t
        have hy : Calm x y := by simp [Calm, y]
        have hz : Calm y z := ⟨rfl, rfl, rfl, rfl, rfl⟩
        split
        · exact ⟨_, rfl, watchTrip_tabled ..⟩
        · split
          · exact ⟨_, rfl, leaveWatch_tabled ..⟩
          · exact ⟨_, rfl, hx.steady (hy.trans hz).steady⟩
      · exact ⟨_, rfl, hx⟩
    · exact ⟨_, rfl, hx⟩
  · exact ⟨_, rfl, hx⟩

theorem execWatchCheckEnd_tabled (s : State) : ∃ t, execWatchCheckEnd s = .next t ∧ Lawful Tabled s t := by
  unfold execWatchCheckEnd
  extract_lets x
  have hx : Lawful Tabled s x := (fresh_steady s).tabled
  split
  next r _ =>
    split
    next c _ =>
      split
      · split
        · exact ⟨_, rfl, leaveWatch_tabled ..⟩
        · exact ⟨_, rfl, hx.steady (setWatch_calm _ x).steady⟩
      · exact ⟨_, rfl, hx⟩
    · exact ⟨_, rfl, hx⟩
  · exact ⟨_, rfl, hx⟩

theorem execWakeIn_tabled (s : State) : ∃ t, execWakeIn s = .next t ∧ Lawful Tabled s t := by
  unfold execWakeIn
  extract_lets x
  have hx : Lawful Tabled s x := (fresh_steady s).tabled
  split
  · exact ⟨_, rfl, hx⟩
  · split
    · exact ⟨_, rfl, startUp_tabled ..⟩
    · split
      · split
        · exact ⟨_, rfl, hx.steady (setWatch_calm _ x).steady⟩
        · exact ⟨_, rfl, leaveWatch_tabled ..⟩
      · exact ⟨_, rfl, leaveWatch_tabled ..⟩
    · exact ⟨_, rfl, hx⟩

theorem powerFailRecords_steady (mv : Nat) (s : State) : Steady s (powerFailRecords mv s) :=
  Lawful.then (Calm.steady (by simp [Calm])) (allOutputsOff_steady _)

theorem execPowerFail_tabled (mv : Nat) (s : State) : ∃ t, execPowerFail mv s = .next t ∧ Lawful Tabled s t := by
  unfold execPowerFail
  extract_lets x y
  split
  · exact ⟨_, rfl, (fresh_steady s).tabled⟩
  · have hy : Steady s y := (fresh_steady s).then (.ite (powerFailRecords_steady mv x) (.refl x))
    exact ⟨_, rfl, (hy.then (modPw_calm _ y).steady).tabled⟩

theorem execRestart_tabled (s : State) : ∃ t, execRestart s = .next t ∧ Lawful Tabled s t := by
  unfold execRestart
  dsimp only
  split
  · exact ⟨_, rfl, startUp_tabled s 1 _⟩
  · exact ⟨_, rfl, (fresh_steady s).tabled⟩

theorem execInternalWatchdog_tabled (s : State) : ∃ t, execInternalWatchdog s = .next t ∧ Lawful Tabled s t := by
  exact ⟨_, rfl, .ite (resetBy_lawful (.inr (tableMove_blank _)) 7 _) (fresh_steady s).tabled⟩

theorem execVsupReturn_tabled (s : State) : ∃ t, execVsupReturn s = .next t ∧ Lawful Tabled s t := by
  exact ⟨_, rfl, .ite (startUp_tabled s 3 _) (fresh_steady s).tabled⟩

/-! ### The loader (T4, T5) -/

theorem modLdr_calm (f : Ldr → Ldr) (s : State) : Calm s (modLdr f s) := ⟨rfl, rfl, rfl, rfl, rfl⟩

theorem execPostReceptionChecksDone_tabled (s : State) : ∃ t, execPostReceptionChecksDone s = .next t ∧ Lawful
    Tabled s t := by
  unfold execPostReceptionChecksDone
  extract_lets x img owned
  split
  next h =>
    have hm : x.st.mode = .loading := by
      simp only [Bool.and_eq_true, beq_iff_eq] at h
      exact h.1.1.2
    split
    · exact ⟨_, rfl, ((fresh_steady s).then (loadEnd_loads _ hm)).tabled_of_loads⟩
    · exact ⟨_, rfl, ((fresh_steady s).then (modLdr_calm _ x).steady).tabled⟩
  next => exact ⟨_, rfl, (fresh_steady s).tabled⟩

/-- T4: the calibre is active, and the contactors stay as they were. -/
theorem loadedStart_tabled (c : Calibre) {s : State} (h : s.st.mode = .loading) :
    Lawful Tabled s (loadedStart c (toMode .loaded 4 s)) :=
  .of_toMode (by simp) (by simp) (by rw [h]; decide) (by simp) (by simp [h, Tabled, tableMove])

theorem execLoadAccept_tabled (s : State) : ∃ t, execLoadAccept s = .next t ∧ Lawful Tabled s t := by
  unfold execLoadAccept
  extract_lets x c session y unchecked z
  split
  · exact ⟨_, rfl, (fresh_steady s).tabled⟩
  · split
    next h =>
      have hm : x.st.mode = .loading := by
        simp only [Bool.and_eq_true, beq_iff_eq] at h
        exact h.1.1.2
      have hz : Calm y z := modLdr_calm _ y
      refine ⟨_, rfl, ((fresh_steady s).then (loadedStart_tabled c hm)).steady (hz.steady.then (Calm.steady ?_))⟩
      exact ⟨rfl, rfl, rfl, rfl, rfl⟩
    next => exact ⟨_, rfl, (fresh_steady s).tabled⟩

theorem execLoadTimeout_tabled (s : State) : ∃ t, execLoadTimeout s = .next t ∧ Lawful Tabled s t := by
  unfold execLoadTimeout
  extract_lets x
  split
  · split
    next hm => exact ⟨_, rfl, ((fresh_steady s).then (loadEnd_loads _ hm)).tabled_of_loads⟩
    next =>
      split
      · exact ⟨_, rfl, ((fresh_calm s).trans (replaceEnd_calm _ x)).tabled⟩
      · exact ⟨_, rfl, (fresh_steady s).tabled⟩
  · exact ⟨_, rfl, (fresh_steady s).tabled⟩

/-! ### Firmware (R400, R402) -/

/-- The state stays, or the module starts from reset. -/
def Restarts (m n : Mode) : Prop := n = m ∨ n = .blank

theorem Restarts.trans {m n o : Mode} : Restarts m n → Restarts n o → Restarts m o := by
  rintro (rfl | rfl) (rfl | rfl)
  · exact .inl rfl
  all_goals exact .inr rfl

theorem Restarts.tabled {m n : Mode} : Restarts m n → Tabled m n := by
  rintro (rfl | rfl)
  · exact .inl rfl
  · exact .inr (tableMove_blank m)

/-- Every ACTIVATE job that is judged at TRG3's firing leaves the state, or starts the module anew. -/
theorem judgeActivate_tabled (s : State) : Lawful Tabled s (judgeActivate s) := by
  refine (foldl_lawful (R := Restarts) (.inl rfl) Restarts.trans (fun s j => ?_) _ s).mono Restarts.tabled
  have hcalm : ∀ {t : State}, Calm s t → Lawful Restarts s t := fun h => h.steady.mono .inl
  split
  · exact hcalm (.refl s)
  · split
    · exact resetBy_lawful (.inr rfl) 8 _
    · exact hcalm ⟨rfl, rfl, rfl, rfl, rfl⟩

theorem execTrialFallback_tabled (s : State) : ∃ t, execTrialFallback s = .next t ∧ Lawful Tabled s t := by
  unfold execTrialFallback
  dsimp only
  split
  · exact ⟨_, rfl, resetBy_lawful (.inr (tableMove_blank _)) 8 _⟩
  · exact ⟨_, rfl, (fresh_steady s).tabled⟩

theorem execTriggerFire_tabled (k : Fin 4) (s : State) : ∃ t, execTriggerFire k s = .next t ∧ Lawful Tabled s t :=
    by
  unfold execTriggerFire
  extract_lets x y
  split
  · have hy : Steady s y := Calm.steady (by simp [Calm, y, x])
    exact ⟨_, rfl, .ite (hy.then (judgeActivate_tabled y)) hy.tabled⟩
  · exact ⟨_, rfl, (fresh_steady s).tabled⟩

/-! ### The end of T6 -/

theorem armFail_calm (n : Nat) (s : State) : Calm s (armFail n s) := ⟨rfl, rfl, rfl, rfl, rfl⟩

theorem passSingles_calm (s : State) : Calm s (passSingles s) := by simp [Calm]

/-- T6 has passed: both channels take their copies, with every contactor off. -/
theorem armDone_tabled (c : Calibre) {s : State} (h : s.st.mode = .loaded) : Lawful Tabled s (armDone c s) := by
  have hm : (armDone c s).st.mode = .armed := by simp [armDone]
  have hlim : (armDone c s).lim.lim = s.lim.lim := by simp [armDone]
  have hk : (armDone c s).saf.k = default := by
    simp only [armDone, lgStart_saf, canStart_saf, fioStart_saf, limStart_saf, cellsStart_saf, estStart_saf]
    rfl
  refine ⟨fun hl _ => hlim.trans (hl (by rw [h]; decide)), fun _ => ?_, by rw [hm, h]; exact .inr rfl⟩
  exact contactorsHeld_of_default hk (by rw [hm]; decide)

theorem execArmResult_tabled (s : State) : ∃ t, execArmResult s = .next t ∧ Lawful Tabled s t := by
  unfold execArmResult
  extract_lets x y
  have hx : Calm s x := fresh_calm s
  have hy : Calm s y := hx.trans (passSingles_calm x)
  have hfail : ∀ {z : State} (n : Nat), Calm s z → Lawful Tabled s (armFail n z) := fun {z} n hz =>
    (hz.trans (armFail_calm n z)).tabled
  split
  next c _ _ =>
    split
    next h =>
      have hm : y.st.mode = .loaded := by
        simp only [Bool.and_eq_true, beq_iff_eq] at h
        obtain ⟨hst, -⟩ := passSingles_calm x
        exact (congrArg St.mode hst).trans h.2
      split
      · exact ⟨_, rfl, hfail 1 hx⟩
      · split
        · exact ⟨_, rfl, hfail 1 hy⟩
        · split
          · split
            · exact ⟨_, rfl, hy.steady.then (armDone_tabled _ hm)⟩
            · exact ⟨_, rfl, hfail _ hy⟩
          · split
            · exact ⟨_, rfl, hfail 1 hy⟩
            · exact ⟨_, rfl, hy.tabled⟩
    next => exact ⟨_, rfl, hx.tabled⟩
  · exact ⟨_, rfl, hx.tabled⟩

end Sys2Proof.Machine
end

section
/-! SUPPORT AND PROOFS. State commands at the beat boundary (01 R22, Table 01-4). -/

namespace Sys2Proof.Machine

/-! ### What an answer leaves of the host's state -/

theorem canOffer_host (c : Nat) (s : State) : (canOffer c s).host = s.host := by
  unfold canOffer
  dsimp only
  (repeat' split) <;> simp

theorem emitFab_host (mac : Option Nat) (kind dst seq beat : Nat) (stamp : Option Nat) (ports : Nat)
    (payload : List Byte) (s : State) : (emitFab mac kind dst seq beat stamp ports payload s).host = s.host := by
  unfold emitFab
  split <;> rfl

theorem respond_host (r : Rsp) (s : State) : (respond r s).host = s.host := by
  unfold respond
  dsimp only
  split
  · rw [sendFab, emitFab_host, put_host]
  · rw [canRespond, canOffer_host, modCan_host, put_host]
  · rfl

theorem setCmdStatus_calm (i : Fin 32) (code : Nat) (r : RspCode) (s : State) : Calm s (setCmdStatus i code r s) := by
  simp [Calm]

theorem setCmdStatus_cmds (i : Fin 32) (code : Nat) (r : RspCode) (s : State) :
    (setCmdStatus i code r s).host.cmds = s.host.cmds := by
  unfold setCmdStatus
  split <;> rfl

/-! ### A judged command and its answer -/

/-- The status and the answer that follow a judged command: its code and the state that its effect left. -/
def answerCmd (c : PendCmd) (p : RspCode × State) : State :=
  let s := setCmdStatus c.sess c.code p.1 p.2
  match c.req with
  | some _ => answer c.sess (cmdRsp c p.1) s
  | none => respond (cmdRsp c p.1) (if s.host.sess[c.sess].isOpen then modSess c.sess (fun x => { x with outstanding := false }) s
                                    else s)

theorem judgeCmd_eq (c : PendCmd) (s : State) :
    judgeCmd c s = answerCmd c (if safeSame c s then (.state, s) else stateCmd c.sess c.code s) := by
  unfold judgeCmd answerCmd
  generalize (if safeSame c s then ((.state, s) : RspCode × State) else stateCmd c.sess c.code s) = p
  cases p
  rfl

theorem answerCmd_calm (c : PendCmd) (p : RspCode × State) : Calm p.2 (answerCmd c p) := by
  unfold answerCmd
  refine (setCmdStatus_calm c.sess c.code p.1 p.2).trans ?_
  dsimp only
  split
  · exact answer_calm ..
  · refine Calm.trans ?_ (respond_calm ..)
    split
    · exact modSess_calm ..
    · exact .refl _

theorem answerCmd_cmds (c : PendCmd) (p : RspCode × State) : (answerCmd c p).host.cmds = p.2.host.cmds := by
  unfold answerCmd
  dsimp only
  split
  · rw [answer, respond_host]
    split <;> exact setCmdStatus_cmds ..
  · rw [respond_host]
    split <;> exact setCmdStatus_cmds ..

/-! ### The effect of one command (Table 01-4) -/

/-- The state stays, or moves among those in which commands follow commands. -/
def Live (m n : Mode) : Prop :=
  n = m ∨ ((m = .armed ∨ m = .run ∨ m = .stop ∨ m = .service) ∧ (n = .run ∨ n = .stop ∨ n = .service))

theorem Live.trans {m n o : Mode} : Live m n → Live n o → Live m o := by
  rintro (rfl | ⟨hm, hn⟩) h
  · exact h
  · obtain rfl | ⟨-, ho⟩ := h
    · exact .inr ⟨hm, hn⟩
    · exact .inr ⟨hm, ho⟩

/-- Commands among the live states, and one more by the table: what one beat boundary may do (R22). -/
theorem Live.moves {m n o : Mode} (h : Live m n) (h' : Tabled n o) : Moves .stateCmdJudge m o := by
  obtain rfl | ⟨hm, hn⟩ := h
  · exact h'.imp id .inl
  · obtain rfl | ht := h'
    · cases m <;> cases o <;> simp [Moves, tableMove] at hm hn ⊢
    · cases m <;> cases n <;> cases o <;> simp [Moves, tableMove] at hm hn ht ⊢

/-- A command's effect: a move among the live states, or one transition of the table after which no command waits. -/
def CommandEffect (s t : State) : Prop := Lawful Live s t ∨ (Lawful Tabled s t ∧ t.host.cmds = [])

theorem Calm.live {s t : State} (h : Calm s t) : Lawful Live s t := h.steady.mono .inl

theorem armStart_calm (s : State) : Calm s (armStart s) := by simp [Calm]

theorem enterRun_live {s : State} (h : s.st.mode = .armed ∨ s.st.mode = .stop) : Lawful Live s (enterRun s) := by
  refine .of_toMode rfl rfl ?_ (show Mode.run ≠ .safe by decide) (.inr ⟨?_, .inl rfl⟩)
  · obtain h | h := h <;> rw [h] <;> decide
  · exact h.elim .inl (fun h => .inr (.inr (.inl h)))

theorem leaveService_live {s : State} (h : s.st.mode = .service) : Lawful Live s (leaveService s) :=
  .of_toMode rfl rfl (by rw [h]; decide) (show Mode.stop ≠ .safe by decide) (.inr ⟨by simp [h], .inr (.inl rfl)⟩)

theorem enterService_live {s : State} (i : Fin 32) (h : s.st.mode = .stop) : Lawful Live s (enterService i s) :=
  .of_toMode rfl rfl (by rw [h]; decide) (show Mode.service ≠ .safe by decide) (.inr ⟨by simp [h], .inr (.inr rfl)⟩)

theorem trialStart_host (s : State) : (trialStart s).host = s.host := by
  unfold trialStart
  (repeat' split) <;> rfl

theorem trialStart_cal (s : State) : (trialStart s).cal = s.cal := by
  unfold trialStart
  (repeat' split) <;> rfl

theorem startUp_host (cause : Nat) (s : State) : (startUp cause s).host = (powerDown s).host := by
  unfold startUp
  dsimp only
  rw [trialStart_host, bumpNonce_host]
  split <;> rfl

theorem powerDown_cal (s : State) : (powerDown s).cal = none := rfl

theorem startUp_cal (cause : Nat) (s : State) : (startUp cause s).cal = none := by
  unfold startUp
  dsimp only
  rw [trialStart_cal, bumpNonce_cal]
  split
  · exact powerDown_cal s
  · exact powerDown_cal s

theorem startUp_cmds (cause : Nat) (s : State) : (startUp cause s).host.cmds = [] := by
  rw [startUp_host, powerDown_cmds]

theorem resetBy_cmds (cause : Nat) (s : State) : (resetBy cause s).host.cmds = [] := by
  rw [resetBy, startUp_cmds]

theorem enterStorage_cmds (s : State) : (enterStorage s).host.cmds = [] := by
  unfold enterStorage
  dsimp only
  exact powerDown_cmds _

theorem enterWatch_cmds (s : State) : (enterWatch s).host.cmds = [] := by
  unfold enterWatch
  dsimp only
  exact powerDown_cmds _

/-- Each command by its case of the table. -/
theorem stateCmd_effect (i : Fin 32) (code : Nat) (s : State) : CommandEffect s (stateCmd i code s).2 := by
  have hrefused : CommandEffect s s := .inl (Calm.refl s).live
  unfold stateCmd
  dsimp only
  split
  · split
    next h => exact .inr ⟨enterStorage_tabled h, enterStorage_cmds s⟩
    next => exact hrefused
  · split
    · exact .inl (armStart_calm s).live
    · exact hrefused
  · split
    next h => exact .inl (enterRun_live h.1)
    next => exact hrefused
  · split
    next h => exact .inl (enterStop_lawful (.inr ⟨h.elim (fun h => .inr (.inl h)) .inl, .inr (.inl rfl)⟩))
    next =>
      split
      next h => exact .inl (leaveService_live h)
      next => exact hrefused
  · split
    next h => exact .inl (enterService_live i h.1)
    next => exact hrefused
  · split
    next h => exact .inr ⟨enterWatch_tabled (h.2.imp id And.left), enterWatch_cmds s⟩
    next => exact hrefused
  · dsimp only
    exact .inr ⟨resetBy_lawful (.inr (tableMove_blank _)) 6 s, resetBy_cmds 6 s⟩
  · exact hrefused

theorem judgeCmd_effect (c : PendCmd) (s : State) : CommandEffect s (judgeCmd c s) := by
  have h : CommandEffect s (if safeSame c s then ((.state, s) : RspCode × State) else stateCmd c.sess c.code s).2 := by
    split
    · exact .inl (Calm.refl s).live
    · exact stateCmd_effect ..
  rw [judgeCmd_eq]
  refine h.imp (fun hl => hl.steady (answerCmd_calm c _).steady) (fun ⟨ht, hc⟩ => ⟨?_, (answerCmd_cmds c _).trans hc⟩)
  exact ht.steady (answerCmd_calm c _).steady

theorem judgeAll_of_no_cmds (n : Nat) {s : State} (h : s.host.cmds = []) : judgeAll n s = s := by
  cases n with
  | zero => rfl
  | succ n => simp only [judgeAll, h]

/-- What the commands of one boundary make of the state: a way among the live states, then one transition at most. -/
def Judged (m o : Mode) : Prop := ∃ n, Live m n ∧ Tabled n o

theorem judgeAll_lawful (n : Nat) (s : State) : Lawful Judged s (judgeAll n s) := by
  have hstay : ∀ s : State, Lawful Judged s s := fun s => (Lawful.refl s).mono (fun h => ⟨_, .inl rfl, .inl h⟩)
  induction n generalizing s with
  | zero => exact hstay s
  | succ n ih =>
    unfold judgeAll
    split
    · exact hstay s
    next c r _ =>
      split
      · exact hstay s
      · have htaken : Calm s { s with host := { s.host with cmds := r } } := ⟨rfl, rfl, rfl, rfl, rfl⟩
        refine htaken.steady.then ?_
        obtain hl | ⟨ht, hnone⟩ := judgeCmd_effect c { s with host := { s.host with cmds := r } }
        · obtain ⟨hlim, hheld, m, hlive, htab⟩ := ih (judgeCmd c { s with host := { s.host with cmds := r } })
          exact ⟨hlim ∘ hl.limits, hheld ∘ hl.held, m, hl.mode.trans hlive, htab⟩
        · rw [judgeAll_of_no_cmds n hnone]
          exact ht.mono (fun h => ⟨_, .inl rfl, h⟩)

theorem execStateCmdJudge_lawful (s : State) :
    ∃ t, execStateCmdJudge s = .next t ∧ Lawful (Moves .stateCmdJudge) s t := by
  refine ⟨_, rfl, (fresh_steady s).then (.ite ?_ ?_)⟩
  · exact (judgeAll_lawful _ _).mono (fun ⟨_, hlive, htab⟩ => hlive.moves htab)
  · exact (Lawful.refl _).mono .inl

end Sys2Proof.Machine
end

section
/-! SUPPORT AND PROOFS. Every command as the invariants of chapter 01 see it, and the statements about every step. -/

namespace Sys2Proof.Machine

/-! ### Every command is lawful -/

theorem lawful_of_tabled {c : Instr} {r : Res} {s : State} (h : ∃ t, r = .next t ∧ Lawful Tabled s t) :
    ∃ t, r = .next t ∧ Lawful (Moves c) s t := by
  obtain ⟨t, hr, ht⟩ := h
  exact ⟨t, hr, ht.mono (fun hm => hm.imp id .inl)⟩

theorem lawful_of_calm {c : Instr} {r : Res} {s : State} (h : ∃ t, r = .next t ∧ Calm s t) :
    ∃ t, r = .next t ∧ Lawful (Moves c) s t := by
  obtain ⟨t, hr, ht⟩ := h
  exact lawful_of_tabled ⟨t, hr, ht.tabled⟩

/-- One line per row of the opcode table: its meaning's own lemma. -/
theorem exec_lawful : ∀ (c : Instr) (s : State), ∃ t, exec c s = .next t ∧ Lawful (Moves c) s t
  | .hostWrite sess _ _, s => lawful_of_tabled (writeCmd_tabled sess _ _ s)
  | .latchingRead sess addr, s => lawful_of_calm (execLatchingRead_calm sess addr s)
  | .openReq r word, s => lawful_of_calm (execOpenReq_calm r word s)
  | .closeReq r, s => lawful_of_tabled (execCloseReq_tabled r s)
  | .read r count addr, s => lawful_of_calm (execRead_calm r count addr s)
  | .write r count addr data, s => lawful_of_tabled (execWrite_tabled r count addr data s)
  | .readFixed r count addr, s => lawful_of_calm (execReadFixed_calm r count addr s)
  | .nop r, s => lawful_of_calm (execNop_calm r s)
  | .sessionTimeout sess, s => lawful_of_tabled (execSessionTimeout_tabled sess s)
  | .enterStorage sess, s => lawful_of_tabled (writeCmd_tabled sess _ _ s)
  | .arm sess, s => lawful_of_tabled (writeCmd_tabled sess _ _ s)
  | .run sess, s => lawful_of_tabled (writeCmd_tabled sess _ _ s)
  | .stop sess, s => lawful_of_tabled (writeCmd_tabled sess _ _ s)
  | .service sess, s => lawful_of_tabled (writeCmd_tabled sess _ _ s)
  | .watch sess, s => lawful_of_tabled (writeCmd_tabled sess _ _ s)
  | .resetCmd sess, s => lawful_of_tabled (writeCmd_tabled sess _ _ s)
  | .stateCmdJudge, s => execStateCmdJudge_lawful s
  | .wakeIn, s => lawful_of_tabled (execWakeIn_tabled s)
  | .vsupReturn, s => lawful_of_tabled (execVsupReturn_tabled s)
  | .powerFail vsupMv, s => lawful_of_tabled (execPowerFail_tabled vsupMv s)
  | .restart, s => lawful_of_tabled (execRestart_tabled s)
  | .internalWatchdog, s => lawful_of_tabled (execInternalWatchdog_tabled s)
  | .vsupLow vsupMv, s => lawful_of_calm (execVsupLow_calm vsupMv s)
  | .vsupHigh vsupMv, s => lawful_of_calm (execVsupHigh_calm vsupMv s)
  | .vloadLow vloadMv, s => lawful_of_calm (execVloadLow_calm vloadMv s)
  | .beatBoundary, s => lawful_of_tabled (execBeatBoundary_tabled s)
  | .itemRelease item, s => lawful_of_calm (execItemRelease_calm item s)
  | .itemComplete engine cycles, s => lawful_of_calm (execItemComplete_calm engine cycles s)
  | .itemBudgetExpiry engine, s => lawful_of_tabled (execItemBudgetExpiry_tabled engine s)
  | .itemDeadlineExpiry item cycles, s => lawful_of_tabled (execItemDeadlineExpiry_tabled item cycles s)
  | .syncReceive domain port rawOffset gm, s => lawful_of_calm (execSyncReceive_calm domain port rawOffset gm s)
  | .gptpAnnounceReceive domain port v, s => lawful_of_calm (execGptpAnnounceReceive_calm domain port v s)
  | .syncSend domain port, s => lawful_of_calm (execSyncSend_calm domain port s)
  | .pdelayExchange port meanNs, s => lawful_of_calm (execPdelayExchange_calm port meanNs s)
  | .syncReceiptTimeout domain, s => lawful_of_calm (execSyncReceiptTimeout_calm domain s)
  | .domainSwitch, s => lawful_of_calm (execDomainSwitch_calm s)
  | .steer sess _, s => lawful_of_tabled (writeCmd_tabled sess _ _ s)
  | .triggerArm sess _ _, s => lawful_of_tabled (writeCmd_tabled sess _ _ s)
  | .triggerFire k, s => lawful_of_tabled (execTriggerFire_tabled k s)
  | .txTimestamp port id fabricNs, s => lawful_of_calm (execTxTimestamp_calm port id fabricNs s)
  | .tsqPop sess _ _, s => lawful_of_tabled (writeCmd_tabled sess _ _ s)
  | .probe sess _, s => lawful_of_tabled (writeCmd_tabled sess _ _ s)
  | .engLoadClear sess _ _, s => lawful_of_tabled (writeCmd_tabled sess _ _ s)
  | .ldData sess _, s => lawful_of_tabled (writeCmd_tabled sess _ _ s)
  | .postReceptionChecksDone, s => lawful_of_tabled (execPostReceptionChecksDone_tabled s)
  | .loadAccept, s => lawful_of_tabled (execLoadAccept_tabled s)
  | .loadTimeout, s => lawful_of_tabled (execLoadTimeout_tabled s)
  | .ldCtrlAbort sess, s => lawful_of_tabled (writeCmd_tabled sess _ _ s)
  | .replaceLogic sess, s => lawful_of_tabled (writeCmd_tabled sess _ _ s)
  | .replacementChecksDone, s => lawful_of_calm (execReplacementChecksDone_calm s)
  | .onCtrlGo sess _, s => lawful_of_tabled (writeCmd_tabled sess _ _ s)
  | .cancel sess, s => lawful_of_tabled (writeCmd_tabled sess _ _ s)
  | .batchPending, s => lawful_of_calm (execBatchPending_calm s)
  | .batchApply, s => lawful_of_calm (execBatchApply_calm s)
  | .constantApply task, s => lawful_of_calm (execConstantApply_calm task s)
  | .beatFrame, s => lawful_of_calm (execBeatFrame_calm s)
  | .passThroughCheck line seen, s => lawful_of_calm (execPassThroughCheck_calm line seen s)
  | .lineReturnWhole line, s => lawful_of_calm (execLineReturnWhole_calm line s)
  | .enumReset line, s => lawful_of_calm (execEnumReset_calm line s)
  | .enumAssign line, s => lawful_of_calm (execEnumAssign_calm line s)
  | .enumLineEnd line, s => lawful_of_calm (execEnumLineEnd_calm line s)
  | .reassign line addr, s => lawful_of_calm (execReassign_calm line addr s)
  | .readId node, s => lawful_of_calm (execReadId_calm node s)
  | .setDelay node, s => lawful_of_calm (execSetDelay_calm node s)
  | .setTapPlan node, s => lawful_of_calm (execSetTapPlan_calm node s)
  | .measSense node, s => lawful_of_calm (execMeasSense_calm node s)
  | .readSense node, s => lawful_of_calm (execReadSense_calm node s)
  | .chime node pos bin ampl cycles start, s => lawful_of_calm (execChime_calm node pos bin ampl cycles start s)
  | .lockinStart node bins posMask start, s => lawful_of_calm (execLockinStart_calm node bins posMask start s)
  | .lockinRead node pos bin, s => lawful_of_calm (execLockinRead_calm node pos bin s)
  | .stimStop line, s => lawful_of_calm (execStimStop_calm line s)
  | .readDiag node, s => lawful_of_calm (execReadDiag_calm node s)
  | .clearDiag node, s => lawful_of_calm (execClearDiag_calm node s)
  | .sleep line, s => lawful_of_calm (execSleep_calm line s)
  | .probeFrame, s => lawful_of_calm (execProbeFrame_calm s)
  | .echo h payload rttNs, s => lawful_of_calm (execEcho_calm h payload rttNs s)
  | .result h b, s => lawful_of_calm (execResult_calm h b s)
  | .aux h b, s => lawful_of_calm (execAux_calm h b s)
  | .reply h op status d, s => lawful_of_calm (execReply_calm h op status d s)
  | .announce h uid nodeType proto, s => lawful_of_calm (execAnnounce_calm h uid nodeType proto s)
  | .armResult, s => lawful_of_tabled (execArmResult_tabled s)
  | .chainCommit, s => lawful_of_calm (execChainCommit_calm s)
  | .nodeBeatReceive line hop f, s => lawful_of_calm (execNodeBeatReceive_calm line hop f s)
  | .nodeSample line hop marks vpos temps taps, s => lawful_of_calm (execNodeSample_calm line hop marks vpos temps taps s)
  | .nodeResultSend line hop, s => lawful_of_calm (execNodeResultSend_calm line hop s)
  | .nodeAuxSend line hop, s => lawful_of_calm (execNodeAuxSend_calm line hop s)
  | .nodeClaimRelease line hop, s => lawful_of_calm (execNodeClaimRelease_calm line hop s)
  | .nodeStimulusFallback line hop, s => lawful_of_calm (execNodeStimulusFallback_calm line hop s)
  | .nodeSleep line hop, s => lawful_of_calm (execNodeSleep_calm line hop s)
  | .nodeWake line hop, s => lawful_of_calm (execNodeWake_calm line hop s)
  | .nodeAnnounceSend line hop, s => lawful_of_calm (execNodeAnnounceSend_calm line hop s)
  | .streamSample k shuntPv vStr vLnk, s => lawful_of_calm (execStreamSample_calm k shuntPv vStr vLnk s)
  | .alignedSample, s => lawful_of_calm (execAlignedSample_calm s)
  | .chargeCommit, s => lawful_of_calm (execChargeCommit_calm s)
  | .gainCheck devStr devLnk, s => lawful_of_calm (execGainCheck_calm devStr devLnk s)
  | .insulationCycleStart, s => lawful_of_calm (execInsulationCycleStart_calm s)
  | .insulationPhaseSettled v, s => lawful_of_tabled (execInsulationPhaseSettled_tabled v s)
  | .insulationPhaseTimeout, s => lawful_of_calm (execInsulationPhaseTimeout_calm s)
  | .insResult h rPos rNeg endBeat, s => lawful_of_calm (execInsResult_calm h rPos rNeg endBeat s)
  | .accordEvaluation, s => lawful_of_calm (execAccordEvaluation_calm s)
  | .take sess _, s => lawful_of_tabled (writeCmd_tabled sess _ _ s)
  | .snapshotCapture, s => lawful_of_calm (execSnapshotCapture_calm s)
  | .windowEnd bin, s => lawful_of_calm (execWindowEnd_calm bin s)
  | .chimeRoundStart, s => lawful_of_calm (execChimeRoundStart_calm s)
  | .burstEnd pos, s => lawful_of_calm (execBurstEnd_calm pos s)
  | .lockinCampaignStart, s => lawful_of_calm (execLockinCampaignStart_calm s)
  | .lockinCampaignEnd, s => lawful_of_calm (execLockinCampaignEnd_calm s)
  | .requestDwellStart, s => lawful_of_calm (execRequestDwellStart_calm s)
  | .spectrumCapture, s => lawful_of_calm (execSpectrumCapture_calm s)
  | .slotComplete, s => lawful_of_calm (execSlotComplete_calm s)
  | .derivedUpdate, s => lawful_of_calm (execDerivedUpdate_calm s)
  | .filterStep pos, s => lawful_of_calm (execFilterStep_calm pos s)
  | .secondJudgement, s => lawful_of_calm (execSecondJudgement_calm s)
  | .anchorHour, s => lawful_of_calm (execAnchorHour_calm s)
  | .warningEvaluation, s => lawful_of_calm (execWarningEvaluation_calm s)
  | .refReset sess, s => lawful_of_tabled (writeCmd_tabled sess _ _ s)
  | .seedCtrlGo sess _, s => lawful_of_tabled (writeCmd_tabled sess _ _ s)
  | .cellRoundUpdate, s => lawful_of_calm (execCellRoundUpdate_calm s)
  | .roundEffect, s => lawful_of_calm (execRoundEffect_calm s)
  | .thermalJudgement dieT, s => lawful_of_calm (execThermalJudgement_calm dieT s)
  | .loopSnapshot id, s => lawful_of_calm (execLoopSnapshot_calm id s)
  | .loopPeriodEnd id, s => lawful_of_calm (execLoopPeriodEnd_calm id s)
  | .limitPublication, s => lawful_of_tabled (execLimitPublication_tabled s)
  | .balancePlan, s => lawful_of_calm (execBalancePlan_calm s)
  | .channelAEvaluation hsMa, s => lawful_of_tabled (execChannelAEvaluation_tabled hsMa s)
  | .crcRecheck, s => lawful_of_tabled (execCrcRecheck_tabled s)
  | .selfTest passed, s => lawful_of_tabled (execSelfTest_tabled passed s)
  | .requestApplication, s => lawful_of_tabled (execRequestApplication_tabled s)
  | .toggleEdge intervalUs lsMa, s => lawful_of_tabled (execToggleEdge_tabled intervalUs lsMa s)
  | .toggleMissing, s => lawful_of_tabled (execToggleMissing_tabled s)
  | .aliveAdvance, s => lawful_of_calm (execAliveAdvance_calm s)
  | .latchA, s => lawful_of_tabled (execLatchA_tabled s)
  | .latchB, s => lawful_of_tabled (execLatchB_tabled s)
  | .overcurrentOnset, s => lawful_of_calm (execOvercurrentOnset_calm s)
  | .fastOc, s => lawful_of_tabled (execFastOc_tabled s)
  | .safetyInputChange i0 pinB level, s => lawful_of_tabled (execSafetyInputChange_tabled i0 pinB level s)
  | .pinFollow i0 channelB, s => lawful_of_tabled (execPinFollow_tabled i0 channelB s)
  | .testPulse tp lowReads, s => lawful_of_tabled (execTestPulse_tabled tp lowReads s)
  | .offPulseTest k, s => lawful_of_tabled (execOffPulseTest_tabled k s)
  | .offPulseEnd k maxMa, s => lawful_of_tabled (execOffPulseEnd_tabled k maxMa s)
  | .kCmd sess _, s => lawful_of_tabled (writeCmd_tabled sess _ _ s)
  | .precharge sess _, s => lawful_of_tabled (writeCmd_tabled sess _ _ s)
  | .prechargeCommit, s => lawful_of_calm (execPrechargeCommit_calm s)
  | .prechargeEnd, s => lawful_of_tabled (execPrechargeEnd_tabled s)
  | .prechargeTimeout, s => lawful_of_tabled (execPrechargeTimeout_tabled s)
  | .closeMain sess _, s => lawful_of_tabled (writeCmd_tabled sess _ _ s)
  | .jobAbort sess _, s => lawful_of_tabled (writeCmd_tabled sess _ _ s)
  | .jobClear sess _, s => lawful_of_tabled (writeCmd_tabled sess _ _ s)
  | .inputPhase, s => lawful_of_calm (execInputPhase_calm s)
  | .taskRun t cycles, s => lawful_of_calm (execTaskRun_calm t cycles s)
  | .taskOverrun t, s => lawful_of_calm (execTaskOverrun_calm t s)
  | .outputPhase, s => lawful_of_tabled (execOutputPhase_tabled s)
  | .station h dir n sflags words, s => lawful_of_calm (execStation_calm h dir n sflags words s)
  | .stationLost i0, s => lawful_of_calm (execStationLost_calm i0 s)
  | .forceEnable sess _ _, s => lawful_of_tabled (writeCmd_tabled sess _ _ s)
  | .forceClear sess _ _, s => lawful_of_tabled (writeCmd_tabled sess _ _ s)
  | .varWr sess _, s => lawful_of_tabled (writeCmd_tabled sess _ _ s)
  | .lgClrCounts sess, s => lawful_of_tabled (writeCmd_tabled sess _ _ s)
  | .chClrCounts sess, s => lawful_of_tabled (writeCmd_tabled sess _ _ s)
  | .hsrFrameReceive h, s => lawful_of_calm (execHsrFrameReceive_calm h s)
  | .supervisionFrame backP0 backP1, s => lawful_of_calm (execSupervisionFrame_calm backP0 backP1 s)
  | .discover rx, s => lawful_of_calm (execDiscover_calm rx s)
  | .addrClaim rx, s => lawful_of_calm (execAddrClaim_calm rx s)
  | .addressTaken, s => lawful_of_calm (execAddressTaken_calm s)
  | .bankState rx, s => lawful_of_calm (execBankState_calm rx s)
  | .bankComputation, s => lawful_of_calm (execBankComputation_calm s)
  | .resultFwd h node seq tick b, s => lawful_of_calm (execResultFwd_calm h node seq tick b s)
  | .auxFwd h node seq tick b, s => lawful_of_calm (execAuxFwd_calm h node seq tick b s)
  | .front rx, s => lawful_of_calm (execFront_calm rx s)
  | .streamX rx, s => lawful_of_calm (execStreamX_calm rx s)
  | .plan rx, s => lawful_of_calm (execPlan_calm rx s)
  | .delays rx, s => lawful_of_calm (execDelays_calm rx s)
  | .status rx, s => lawful_of_calm (execStatus_calm rx s)
  | .pairLost, s => lawful_of_calm (execPairLost_calm s)
  | .yieldCmd sess, s => lawful_of_tabled (writeCmd_tabled sess _ _ s)
  | .reclaim sess, s => lawful_of_tabled (writeCmd_tabled sess _ _ s)
  | .publish, s => lawful_of_calm (execPublish_calm s)
  | .streamItem q, s => lawful_of_calm (execStreamItem_calm q s)
  | .queueItemCommit q ecc, s => lawful_of_calm (execQueueItemCommit_calm q ecc s)
  | .qdataRead sess q, s => lawful_of_calm (execQdataRead_calm sess q s)
  | .flush sess _, s => lawful_of_tabled (writeCmd_tabled sess _ _ s)
  | .claim sess _, s => lawful_of_tabled (writeCmd_tabled sess _ _ s)
  | .queueRelease sess _, s => lawful_of_tabled (writeCmd_tabled sess _ _ s)
  | .req sess _ _, s => lawful_of_tabled (writeCmd_tabled sess _ _ s)
  | .txbAbort sess _ _, s => lawful_of_tabled (writeCmd_tabled sess _ _ s)
  | .canFrameSent c, s => lawful_of_calm (execCanFrameSent_calm c s)
  | .canAckError c, s => lawful_of_calm (execCanAckError_calm c s)
  | .canFrameReceived c f, s => lawful_of_calm (execCanFrameReceived_calm c f s)
  | .loop sess _ _, s => lawful_of_tabled (writeCmd_tabled sess _ _ s)
  | .busOffRecovery c, s => lawful_of_calm (execBusOffRecovery_calm c s)
  | .publicationDue c i0, s => lawful_of_calm (execPublicationDue_calm c i0 s)
  | .txb1Load c, s => lawful_of_calm (execTxb1Load_calm c s)
  | .inputFilterChange k level, s => lawful_of_calm (execInputFilterChange_calm k level s)
  | .counterEdge k, s => lawful_of_calm (execCounterEdge_calm k s)
  | .cntClr sess _, s => lawful_of_tabled (writeCmd_tabled sess _ _ s)
  | .overload k, s => lawful_of_calm (execOverload_calm k s)
  | .overtemp k tempC, s => lawful_of_calm (execOvertemp_calm k tempC s)
  | .readback k, s => lawful_of_calm (execReadback_calm k s)
  | .openWire k, s => lawful_of_calm (execOpenWire_calm k s)
  | .silenceExpiry, s => lawful_of_calm (execSilenceExpiry_calm s)
  | .thConversion raw, s => lawful_of_calm (execThConversion_calm raw s)
  | .watchCheckStart, s => lawful_of_calm (execWatchCheckStart_calm s)
  | .watchCheckBeat d, s => lawful_of_tabled (execWatchCheckBeat_tabled d s)
  | .watchCheckEnd, s => lawful_of_tabled (execWatchCheckEnd_tabled s)
  | .wakeOutClr sess, s => lawful_of_tabled (writeCmd_tabled sess _ _ s)
  | .wakeOutHold sess _, s => lawful_of_tabled (writeCmd_tabled sess _ _ s)
  | .ship sess _, s => lawful_of_tabled (writeCmd_tabled sess _ _ s)
  | .provision sess _, s => lawful_of_tabled (writeCmd_tabled sess _ _ s)
  | .addKey sess _, s => lawful_of_tabled (writeCmd_tabled sess _ _ s)
  | .revoke sess _, s => lawful_of_tabled (writeCmd_tabled sess _ _ s)
  | .returnCmd sess _, s => lawful_of_tabled (writeCmd_tabled sess _ _ s)
  | .scrap sess _, s => lawful_of_tabled (writeCmd_tabled sess _ _ s)
  | .recorderCommit, s => lawful_of_calm (execRecorderCommit_calm s)
  | .journalCommit, s => lawful_of_calm (execJournalCommit_calm s)
  | .freeze sess, s => lawful_of_tabled (writeCmd_tabled sess _ _ s)
  | .unfreeze sess, s => lawful_of_tabled (writeCmd_tabled sess _ _ s)
  | .freezeTimeout, s => lawful_of_calm (execFreezeTimeout_calm s)
  | .clearRecords sess _, s => lawful_of_tabled (writeCmd_tabled sess _ _ s)
  | .clearRecordsDone, s => lawful_of_calm (execClearRecordsDone_calm s)
  | .crownRelease sess _, s => lawful_of_tabled (writeCmd_tabled sess _ _ s)
  | .lock sess, s => lawful_of_tabled (writeCmd_tabled sess _ _ s)
  | .manifestPiece sess _, s => lawful_of_tabled (writeCmd_tabled sess _ _ s)
  | .manifestVerifyDone, s => lawful_of_calm (execManifestVerifyDone_calm s)
  | .imagePiece sess _, s => lawful_of_tabled (writeCmd_tabled sess _ _ s)
  | .pieceJudged sess, s => lawful_of_calm (execPieceJudged_calm sess s)
  | .imageHashCheckDone, s => lawful_of_calm (execImageHashCheckDone_calm s)
  | .confirm sess, s => lawful_of_tabled (writeCmd_tabled sess _ _ s)
  | .discardSlot sess _, s => lawful_of_tabled (writeCmd_tabled sess _ _ s)
  | .discardDone, s => lawful_of_calm (execDiscardDone_calm s)
  | .activate sess _, s => lawful_of_tabled (writeCmd_tabled sess _ _ s)
  | .trialExpiry, s => lawful_of_calm (execTrialExpiry_calm s)
  | .trialFallback, s => lawful_of_tabled (execTrialFallback_tabled s)
  | .portLinkChange p up, s => lawful_of_calm (execPortLinkChange_calm p up s)
  | .nodeReset line hop ident, s => lawful_of_calm (execNodeReset_calm line hop ident s)
  | .probeLost line, s => lawful_of_calm (execProbeLost_calm line s)
  | .overcurrentEnd, s => lawful_of_calm (execOvercurrentEnd_calm s)
  | .canBusError c transmitting, s => lawful_of_calm (execCanBusError_calm c transmitting s)
  | .canArbitrationLost c, s => lawful_of_calm (execCanArbitrationLost_calm c s)
  | .readbackClear k, s => lawful_of_calm (execReadbackClear_calm k s)
  | .openWireClear k, s => lawful_of_calm (execOpenWireClear_calm k s)
  | .reserveLow low, s => lawful_of_calm (execReserveLow_calm low s)
  | .opSec, s => lawful_of_calm (execOpSec_calm s)
  | .reservedOpRequest r op, s => lawful_of_calm (execReservedOpRequest_calm r op s)
  | .reservedKindStart sess _ _, s => lawful_of_tabled (writeCmd_tabled sess _ _ s)
section
variable {s t : State}

/-- A step is as lawful as the command at the queue's front: the invariants do not see the queue. -/
theorem step_lawful {c : Instr} {rest : List Instr} (hp : s.pending = c :: rest) (h : step s = .next t) :
    Lawful (Moves c) s t := by
  rw [step_of_pending_cons hp] at h
  obtain ⟨u, hu, hl⟩ := exec_lawful c { s with pending := rest }
  obtain rfl : u = t := by simpa [hu] using h
  have htaken : Calm s { s with pending := rest } := ⟨rfl, rfl, rfl, rfl, rfl⟩
  exact htaken.steady.then hl

/-- Every step keeps both invariants. -/
theorem step_keeps (h : step s = .next t) :
    (LimitsOnlyInRun s → LimitsOnlyInRun t) ∧ (ContactorsHeld s → ContactorsHeld t) := by
  cases hp : s.pending with
  | nil =>
    obtain rfl : s = t := by simpa [step_of_pending_nil hp] using h
    exact ⟨id, id⟩
  | cons c rest =>
    have hl := step_lawful hp h
    exact ⟨hl.limits, hl.held⟩

end

end Sys2Proof.Machine

namespace Sys2Proof

open Sys2Proof.Machine

/-- Settles O4: every command keeps the limits at zero outside RUN. -/
theorem limitsZeroOutsideRun : Obligations.LimitsZeroOutsideRun := fun _ _ hs h => (step_keeps h).1 hs

/-- Settles O5: every command keeps what the channels hold open, and in BLANK, LOADING and LOADED they hold it all. -/
theorem contactorsStayOpen : Obligations.ContactorsStayOpen := by
  intro s t hs h
  have ht : ContactorsHeld t := (step_keeps h).2 hs
  refine ⟨ht, fun hm k hk => ?_⟩
  obtain ⟨-, -, -, hopen⟩ := ht
  have hout : t.st.mode ≠ .run ∧ t.st.mode ≠ .safe := by
    obtain hm | hm | hm := hm <;> rw [hm] <;> decide
  obtain ⟨⟨hhs, -, -⟩, hls, -⟩ := hopen hout.1 hout.2 k hk
  exact ⟨hhs, hls⟩

end Sys2Proof
end

section
/-! SUPPORT AND PROOFS. The state command that waits alone, judged at the beat boundary (01 R20, R22, Table 01-4). -/

namespace Sys2Proof.Machine

/-! ### A command that waits alone -/

/-- Command n of session i that came in beat b as a single access. -/
def soleCmd (i : Fin 32) (n b : Nat) : PendCmd := { sess := i, req := none, code := n, beat := b }

/-- The state that a command that waits alone is judged against. -/
def unqueued (s : State) : State := { fresh s with host := { s.host with cmds := [] } }

@[simp] theorem unqueued_st (s : State) : (unqueued s).st = s.st := rfl

@[simp] theorem unqueued_saf (s : State) : (unqueued s).saf = s.saf := rfl

@[simp] theorem unqueued_cal (s : State) : (unqueued s).cal = s.cal := rfl

@[simp] theorem unqueued_cmds (s : State) : (unqueued s).host.cmds = [] := rfl

theorem fresh_no_cmds (s : State) : fresh { s with host := { s.host with cmds := [] } } = unqueued s := rfl

/-- The command of session i waits alone since an earlier beat, its session is open, and a boundary has come. -/
structure JudgedAlone (i : Fin 32) (n b : Nat) (s : State) : Prop where
  awake : awake s = true
  tick : tickOf s = 0
  beat : b ≠ s.time.beat
  isOpen : s.host.sess[i].isOpen = true
  cmds : s.host.cmds = [soleCmd i n b]

theorem exec_judge_alone {i : Fin 32} {n b : Nat} {s : State} (h : JudgedAlone i n b s) :
    exec .stateCmdJudge s = .next (judgeCmd (soleCmd i n b) (unqueued s)) := by
  obtain ⟨hawake, htick, hbeat, -, hcmds⟩ := h
  have hrun : (awake (fresh s) && decide (tickOf (fresh s) = 0)) = true := by
    simp only [awake_fresh, hawake, Bool.true_and, decide_eq_true_eq]
    exact htick
  have hne : (soleCmd i n b).beat ≠ (fresh s).time.beat := hbeat
  have hlen : (fresh s).host.cmds.length = 1 := by rw [fresh_host, hcmds]; rfl
  change Host.Outcome.next _ = _
  rw [if_pos hrun, hlen]
  simp only [judgeAll, fresh_host, hcmds, if_neg hne]
  rfl

/-- The answer to a command that waits alone: CMD_STATUS, the end of the request, and one response. -/
theorem answerCmd_alone {i : Fin 32} {n b : Nat} {p : RspCode × State} (h : p.2.host.sess[i].isOpen = true) :
    answerCmd (soleCmd i n b) p =
      put (.rsp (cmdRsp (soleCmd i n b) p.1)) (modSess i (fun x => { x with outstanding := false })
        (modSess i (fun x => { x with cmdValid := true, cmdCode := n, cmdResult := p.1.code }) p.2)) := by
  have hstatus : setCmdStatus i n p.1 p.2 =
      modSess i (fun x => { x with cmdValid := true, cmdCode := n, cmdResult := p.1.code }) p.2 := if_pos h
  have hopen : (setCmdStatus i n p.1 p.2).host.sess[i].isOpen = true := by rw [hstatus, modSess_sess_self, h]
  simp only [answerCmd, soleCmd, hopen, if_true]
  rw [hstatus]
  rfl

/-! ### Refused commands -/

/-- A refused command leaves the state that it was judged against. -/
theorem stateCmd_of_state {i : Fin 32} {n : Nat} {s : State} (h : (stateCmd i n s).1 = .state) :
    stateCmd i n s = (.state, s) := by
  unfold stateCmd at h ⊢
  dsimp only at h ⊢
  (repeat' split at h) <;> simp_all

/-- A command that names no transition from the present state is refused. -/
theorem stateCmd_of_not_named {i : Fin 32} {n : Nat} {s : State} (h1 : 1 ≤ n) (h7 : n ≤ 7)
    (h : namesMove n s.st.mode = false) : stateCmd i n s = (.state, s) := by
  interval_cases n <;> simp [namesMove] at h <;> simp [stateCmd, h]

/-- What a refused command that waited alone leaves. -/
structure Refused (i : Fin 32) (s t : State) : Prop where
  st : t.st = s.st
  saf : t.saf = s.saf
  cal : t.cal = s.cal
  cmds : t.host.cmds = []
  result : t.host.sess[i].cmdResult = 4
  answered : t.host.sess[i].outstanding = false
  rsp : ∃ r ∈ said t, r.code = .state

theorem judge_alone_refused {i : Fin 32} {n b : Nat} {s : State} (h : JudgedAlone i n b s)
    (hr : stateCmd i n (unqueued s) = (.state, unqueued s)) : Does .stateCmdJudge s (Refused i s) := by
  have hp : (if safeSame (soleCmd i n b) (unqueued s) then ((.state, unqueued s) : RspCode × State)
      else stateCmd (soleCmd i n b).sess (soleCmd i n b).code (unqueued s)) = (.state, unqueued s) := by
    split
    · rfl
    · exact hr
  have hopen : (unqueued s).host.sess[i].isOpen = true := h.isOpen
  have hjudge := exec_judge_alone h
  rw [judgeCmd_eq, hp, answerCmd_alone hopen] at hjudge
  refine ⟨_, hjudge, ?_⟩
  constructor
  case st => simp
  case saf => simp
  case cal => simp
  case cmds => simp [modSess]
  case result =>
    rw [put_host, modSess_sess_self, modSess_sess_self]
    rfl
  case answered => rw [put_host, modSess_sess_self]
  case rsp => exact ⟨cmdRsp (soleCmd i n b) .state, by simp [said], rfl⟩

/-! ### Accepted commands -/

theorem judge_alone_accepted {i : Fin 32} {n b : Nat} {s x : State} (h : JudgedAlone i n b s) (hm : s.st.mode ≠ .safe)
    (hc : stateCmd i n (unqueued s) = (.ok, x)) :
    exec .stateCmdJudge s = .next (answerCmd (soleCmd i n b) (.ok, x)) := by
  have hsame : safeSame (soleCmd i n b) (unqueued s) = false := by simp [safeSame, hm]
  have hc' : stateCmd (soleCmd i n b).sess (soleCmd i n b).code (unqueued s) = (.ok, x) := hc
  rw [exec_judge_alone h, judgeCmd_eq, hsame, hc']
  rfl

/-- The answer to a command that waited alone changes the host's state and says its response, and nothing else. -/
theorem answerCmd_alone_host (i : Fin 32) (n b : Nat) (p : RspCode × State) :
    ∃ host, answerCmd (soleCmd i n b) p = put (.rsp (cmdRsp (soleCmd i n b) p.1)) { p.2 with host := host } := by
  by_cases h : p.2.host.sess[i].isOpen = true
  · exact ⟨_, answerCmd_alone h⟩
  · have hstatus : setCmdStatus i n p.1 p.2 = p.2 := if_neg h
    refine ⟨p.2.host, ?_⟩
    simp only [answerCmd, soleCmd, hstatus, h]
    rfl

/-- What an accepted command's effect made of the module is there when its answer has gone out. -/
theorem judge_alone_leaves {i : Fin 32} {n b : Nat} {s x : State} (h : JudgedAlone i n b s) (hm : s.st.mode ≠ .safe)
    (hc : stateCmd i n (unqueued s) = (.ok, x)) :
    Does .stateCmdJudge s (fun t => t.st = x.st ∧ t.saf = x.saf ∧ t.cal = x.cal ∧ t.chain = x.chain ∧ t.ldr = x.ldr) := by
  obtain ⟨host, ht⟩ := answerCmd_alone_host i n b (.ok, x)
  refine ⟨_, judge_alone_accepted h hm hc, ?_⟩
  rw [ht]
  exact ⟨rfl, rfl, rfl, rfl, rfl⟩

theorem enterStorage_mode (s : State) : (enterStorage s).st.mode = .storage := rfl

theorem enterWatch_mode (s : State) : (enterWatch s).st.mode = .watch := rfl

theorem enterRun_mode (s : State) : (enterRun s).st.mode = .run := rfl

theorem enterStop_mode (s : State) : (enterStop s).st.mode = .stop := rfl

theorem resetBy_mode (cause : Nat) (s : State) : (resetBy cause s).st.mode = .blank := by
  rw [resetBy, startUp_mode]

theorem resetBy_cal (cause : Nat) (s : State) : (resetBy cause s).cal = none := by
  rw [resetBy, startUp_cal]

theorem resetBy_heldOpen (cause : Nat) (s : State) : HeldOpen (resetBy cause s) := by
  have hdown : ∀ x : State, HeldOpen (powerDown x) := fun x => heldOpen_of_default (by rw [powerDown_saf]; rfl)
  rw [resetBy]
  exact (hdown _).of_calm (startUp_calm cause _)

theorem HeldOpen.of_saf {s t : State} (h : HeldOpen s) (hst : t.saf = s.saf) : HeldOpen t := by
  rwa [HeldOpen, hst]

theorem armStart_arming (s : State) : (armStart s).chain.arming = some s.time.beat := by
  unfold armStart armEnum
  split <;> rfl

theorem armStart_armErr (s : State) : (armStart s).ldr.armErr = 0 := by
  unfold armStart armEnum
  split <;> rfl

end Sys2Proof.Machine

namespace Sys2Proof

open Sys2Proof.Machine

/-- Settles O6: each command's transition by its meaning's lemma, and a command that the table does not name by the
judgement of the one that waits. -/
theorem onlyTableTransitions : Obligations.OnlyTableTransitions := by
  refine ⟨fun c rest s t hp h => (step_lawful hp h).mode, ?_⟩
  intro i n b s hawake htick hbeat h1 h7 hopen hcmds hnot
  obtain ⟨t, ht, hst, hsaf, hcal, -, hres, hout, hsaid⟩ :=
    judge_alone_refused ⟨hawake, htick, hbeat, hopen, hcmds⟩ (stateCmd_of_not_named h1 h7 hnot)
  exact ⟨t, ht, hst, hsaf, hcal, hres, hout, hsaid⟩

/-- Settles O11: each clause is one case of the judged command, whose answer leaves what its effect made. -/
theorem stateCommandJudged : Obligations.StateCommandJudged := by
  intro i n b s hawake htick hbeat hm hopen hcmds m to_
  have h : JudgedAlone i n b s := ⟨hawake, htick, hbeat, hopen, hcmds⟩
  have hto : ∀ {x : State} {y : Mode}, stateCmd i n (unqueued s) = (.ok, x) → x.st.mode = y → to_ y := by
    intro x y hc hy
    obtain ⟨t, ht, hst, -⟩ := judge_alone_leaves h hm hc
    exact ⟨t, ht, (congrArg St.mode hst).trans hy⟩
  refine ⟨?_, ?_, ?_, ?_, ?_, ?_, ?_, ?_, ?_⟩
  · rintro rfl hfrom
    exact hto (if_pos hfrom) (enterStorage_mode _)
  · rintro rfl hfrom harm
    have hc : stateCmd i 2 (unqueued s) = (.ok, armStart (unqueued s)) :=
      if_pos ⟨hfrom, Option.isNone_iff_eq_none.mpr harm⟩
    obtain ⟨t, ht, hst, -, -, hchain, hldr⟩ := judge_alone_leaves h hm hc
    exact ⟨t, ht, by rw [hst, armStart_st]; exact hfrom, by rw [hchain, armStart_arming]; rfl,
      by rw [hldr, armStart_armErr]⟩
  · rintro rfl hfrom hlg ha hb
    exact hto (if_pos ⟨hfrom, hlg, ha, hb⟩) (enterRun_mode _)
  · rintro rfl hfrom
    obtain ⟨t, ht, hst, hsaf, -⟩ := judge_alone_leaves h hm (x := enterStop (unqueued s)) (if_pos hfrom)
    exact ⟨t, ht, by rw [hst, enterStop_mode], allOff_of_heldOpen ((enterStop_heldOpen _).of_saf hsaf)⟩
  · rintro rfl hfrom
    have hfrom' : s.st.mode = .service := hfrom
    exact hto (x := leaveService (unqueued s)) (by simp [stateCmd, hfrom']) rfl
  · rintro rfl hfrom hcrown
    exact hto (x := enterService i (unqueued s)) (if_pos ⟨hfrom, hcrown⟩) rfl
  · rintro rfl hclosed hfrom
    exact hto (if_pos ⟨hclosed, hfrom⟩) (enterWatch_mode _)
  · rintro rfl
    obtain ⟨t, ht, hst, hsaf, hcal, -⟩ := judge_alone_leaves h hm (x := resetBy 6 (unqueued s)) rfl
    exact ⟨t, ht, by rw [hst, resetBy_mode], by rw [hcal, resetBy_cal],
      allOff_of_heldOpen ((resetBy_heldOpen 6 _).of_saf hsaf)⟩
  · intro hstate
    rw [fresh_no_cmds] at hstate
    obtain ⟨t, ht, hst, hsaf, hcal, hnone, hres, hout, -⟩ := judge_alone_refused h (stateCmd_of_state hstate)
    exact ⟨t, ht, hst, hsaf, hcal, hnone, hres, hout⟩

end Sys2Proof
end

section
/-! SUPPORT AND PROOFS. The beat boundary (02 R32, R33; 13 R323): nothing that a boundary does besides counting moves the
time within the beat or a session. -/

namespace Sys2Proof.Machine

/-! ### The beat, the time within it, and the sessions -/

/-- The beat number, the time within the beat, and the sessions: what a beat boundary alone moves on. -/
def clockOf (s : State) : Nat × Nat × Vector Session 32 := (s.time.beat, s.time.ns, s.host.sess)

theorem clockOf_foldl {α : Type} {g : State → α → State} (h : ∀ s x, clockOf (g s x) = clockOf s) (l : List α)
    (s : State) : clockOf (l.foldl g s) = clockOf s := by
  induction l generalizing s with
  | nil => rfl
  | cons x r ih => exact (ih (g s x)).trans (h s x)

theorem clockOf_ite {p : Prop} [Decidable p] {x y s : State} (hx : clockOf x = clockOf s) (hy : clockOf y = clockOf s) :
    clockOf (if p then x else y) = clockOf s := by
  split
  · exact hx
  · exact hy

@[simp] theorem clockOf_fresh (s : State) : clockOf (fresh s) = clockOf s := rfl
@[simp] theorem clockOf_modEngine (e : Nat) (f : Engine → Engine) (s : State) : clockOf (modEngine e f s) = clockOf s := rfl

@[simp] theorem clockOf_overrun (e : Nat) (item : Option Nat) (s : State) : clockOf (overrun e item s) = clockOf s := by
  unfold overrun
  exact clockOf_ite rfl rfl

@[simp] theorem clockOf_stopItem (k cycles : Nat) (s : State) : clockOf (stopItem k cycles s) = clockOf s := by
  unfold stopItem
  split
  · rfl
  · exact clockOf_ite (clockOf_overrun ..) rfl

theorem clockOf_stopLate (s : State) (x : Nat × Nat) : clockOf (stopLate s x) = clockOf s := clockOf_stopItem ..

@[simp] theorem clockOf_stopReleased (s : State) : clockOf (stopReleased s) = clockOf s := clockOf_foldl clockOf_stopLate _ s

@[simp] theorem clockOf_taskOver (t : Nat) (c : TaskCfg) (cycles : Nat) (s : State) :
    clockOf (taskOver t c cycles s) = clockOf s := by
  have h : ∀ x : State, clockOf x = clockOf s → clockOf (if c.cls = 0 then
      jnl 6 0xFF [beatLo x, toW t]
        (setAgain 0xC000 (2 ^ 4) (modLg (fun x => { x with protOvr := true, protNow := true, t8Pending := true }) x))
      else setAgain 0xC000 (2 ^ 5) (modLg (fun x => { x with svcOvr := true }) x)) = clockOf s :=
    fun x hx => clockOf_ite hx hx
  exact h _ (clockOf_ite rfl (clockOf_overrun ..))

theorem clockOf_taskStopped (t : Nat) (s : State) : clockOf (taskStopped t s) = clockOf s := by
  unfold taskStopped
  split
  · exact clockOf_taskOver ..
  · rfl

@[simp] theorem clockOf_stopTasks (s : State) : clockOf (stopTasks s) = clockOf s := by
  unfold stopTasks
  refine clockOf_ite ?_ rfl
  split
  next t _ =>
    exact clockOf_ite (clockOf_taskStopped t s)
      ((clockOf_foldl (fun s t => clockOf_taskStopped t s) _ _).trans (clockOf_taskStopped t s))
  · rfl

@[simp] theorem clockOf_lateTasks (s : State) : clockOf (lateTasks s) = clockOf s := clockOf_ite (clockOf_stopTasks s) rfl

@[simp] theorem clockOf_escapementBeat (s : State) : clockOf (escapementBeat s) = clockOf s := by
  unfold escapementBeat
  dsimp only
  split <;> rfl

@[simp] theorem clockOf_releaseItem (k : Nat) (s : State) : clockOf (releaseItem k s) = clockOf s := by
  unfold releaseItem
  split <;> rfl

@[simp] theorem clockOf_releaseAtZero (s : State) : clockOf (releaseAtZero s) = clockOf s := by
  unfold releaseAtZero
  refine clockOf_ite ?_ rfl
  split
  · rfl
  · refine clockOf_foldl (fun s k => ?_) _ s
    split
    · exact clockOf_ite (clockOf_releaseItem ..) rfl
    · rfl

/-! ### What the blocks do as a beat begins -/

@[simp] theorem clockOf_enumFail (l err : Nat) (d : End) (hop detail : Nat) (s : State) :
    clockOf (enumFail l err d hop detail s) = clockOf s := clockOf_ite rfl rfl

@[simp] theorem clockOf_sendDelays (a : Nat) (d : End) (v : Nat) (s : State) : clockOf (sendDelays a d v s) = clockOf s := by
  unfold sendDelays
  (repeat' split) <;> rfl

@[simp] theorem clockOf_modRec (a : Nat) (f : NodeM → NodeM) (s : State) : clockOf (modRec a f s) = clockOf s := rfl

@[simp] theorem clockOf_closeSet (a : Nat) (d : End) (s : State) : clockOf (closeSet a d s) = clockOf s := by
  unfold closeSet
  refine clockOf_ite rfl (clockOf_ite (clockOf_ite ?_ ?_) (clockOf_ite ?_ ?_)) <;> simp <;> rfl

@[simp] theorem clockOf_probeLost (l : Nat) (s : State) : clockOf (probeLost l s) = clockOf s := by
  unfold probeLost
  split
  · exact clockOf_ite (clockOf_ite (clockOf_closeSet ..) rfl) (clockOf_enumFail ..)
  · rfl

@[simp] theorem clockOf_chainBeat (s : State) : clockOf (chainBeat s) = clockOf s :=
  clockOf_ite (x := (List.range 4).foldl (fun s l => probeLost l s) s) (p := e8On s) (clockOf_foldl (fun s l => clockOf_probeLost l s) _ s) rfl

@[simp] theorem clockOf_pairBeat (s : State) : clockOf (pairBeat s) = clockOf s := clockOf_ite rfl rfl

@[simp] theorem clockOf_fabricBeat (s : State) : clockOf (fabricBeat s) = clockOf s := rfl

@[simp] theorem clockOf_put (e : Emit) (s : State) : clockOf (put e s) = clockOf s := rfl

@[simp] theorem clockOf_modCan (c : Nat) (f : CanCh → CanCh) (s : State) : clockOf (modCan c f s) = clockOf s := by
  unfold modCan setAgainIf
  split <;> rfl

@[simp] theorem clockOf_canOffer (c : Nat) (s : State) : clockOf (canOffer c s) = clockOf s := by
  unfold canOffer
  refine clockOf_ite ?_ (clockOf_modCan ..)
  split <;> simp only [clockOf_put, clockOf_modCan]

@[simp] theorem clockOf_canBeat (s : State) : clockOf (canBeat s) = clockOf s :=
  clockOf_foldl (fun s c => clockOf_ite (by simp only [clockOf_canOffer, clockOf_modCan]) rfl) _ s

@[simp] theorem clockOf_fioBeat (s : State) : clockOf (fioBeat s) = clockOf s := clockOf_ite rfl rfl

@[simp] theorem clockOf_lgBeat (s : State) : clockOf (lgBeat s) = clockOf s := rfl

theorem clockOf_jobFail (detail : Nat) (s : State) : clockOf (jobFail detail s) = clockOf s := by
  unfold jobFail
  split <;> rfl

theorem clockOf_noteOpens (before s : State) : clockOf (noteOpens before s) = clockOf s := by
  refine clockOf_ite (clockOf_foldl (fun s k => ?_) _ s) rfl
  rfl

theorem clockOf_jobWatch (before s : State) : clockOf (jobWatch before s) = clockOf s := by
  unfold jobWatch
  split
  · exact clockOf_ite (clockOf_jobFail 6 s) rfl
  · rfl

@[simp] theorem clockOf_openAll (s : State) : clockOf (openAll s) = clockOf s :=
  (clockOf_jobWatch ..).trans ((clockOf_noteOpens ..).trans rfl)

theorem clockOf_modLg (f : Logic → Logic) (s : State) : clockOf (modLg f s) = clockOf s := rfl

theorem clockOf_enterStop (s : State) : clockOf (enterStop s) = clockOf s := clockOf_openAll s

@[simp] theorem clockOf_overrunStop (s : State) : clockOf (overrunStop s) = clockOf s := by
  unfold overrunStop
  refine clockOf_ite (clockOf_ite ?_ ?_) rfl
  · rw [clockOf_enterStop, clockOf_modLg]
  · rw [clockOf_modLg]

@[simp] theorem clockOf_streamBeat (s : State) : clockOf (streamBeat s) = clockOf s := rfl

@[simp] theorem clockOf_dieGate (s : State) : clockOf (dieGate s) = clockOf s := by
  simp only [dieGate, clockOf, apply_ite State.time, apply_ite State.host, ite_self]

@[simp] theorem clockOf_insOpen (s : State) : clockOf (insOpen s) = clockOf s := clockOf_ite rfl rfl

@[simp] theorem clockOf_armEnum (s : State) : clockOf (armEnum s) = clockOf s := clockOf_ite rfl rfl

/-! ### The beat boundary -/

/-- A session's idle time in the next beat. -/
def Session.idled (x : Session) : Session := if x.isOpen then { x with idle := satAdd x.idle 1 16383 } else x

theorem Session.idled_idle (x : Session) : x.idled.idle = if x.isOpen then min 16383 (x.idle + 1) else x.idle := by
  unfold Session.idled satAdd
  split <;> rfl

/-- The next beat's number, at tick 0. -/
def beatOn (s : State) : State := { s with time := { s.time with beat := s.time.beat + 1, ns := 0 } }

theorem nextBeat_eq (s : State) : nextBeat s = releaseAtZero (armEnum (insOpen (dieGate (streamBeat (idleBeat (overrunStop
    (lgBeat (fioBeat (canBeat (fabricBeat (pairBeat (chainBeat (beatOn (escapementBeat (lateTasks
      (stopReleased s)))))))))))))))) := rfl

theorem clockOf_beatOn {s t : State} (h : clockOf s = clockOf t) :
    clockOf (beatOn s) = (t.time.beat + 1, 0, t.host.sess) := by
  simp only [clockOf, Prod.mk.injEq] at h ⊢
  obtain ⟨hbeat, -, hsess⟩ := h
  exact ⟨congrArg (· + 1) hbeat, rfl, hsess⟩

theorem clockOf_idleBeat {s : State} {n m : Nat} {v : Vector Session 32} (h : clockOf s = (n, m, v)) :
    clockOf (idleBeat s) = (n, m, v.map Session.idled) := by
  simp only [clockOf, Prod.mk.injEq] at h ⊢
  obtain ⟨hbeat, hns, rfl⟩ := h
  exact ⟨hbeat, hns, rfl⟩

theorem clockOf_nextBeat (s : State) : clockOf (nextBeat s) = (s.time.beat + 1, 0, s.host.sess.map Session.idled) := by
  simp only [nextBeat_eq, clockOf_releaseAtZero, clockOf_armEnum, clockOf_insOpen, clockOf_dieGate, clockOf_streamBeat]
  refine clockOf_idleBeat ?_
  simp only [clockOf_overrunStop, clockOf_lgBeat, clockOf_fioBeat, clockOf_canBeat, clockOf_fabricBeat, clockOf_pairBeat,
    clockOf_chainBeat]
  exact clockOf_beatOn (by simp only [clockOf_escapementBeat, clockOf_lateTasks, clockOf_stopReleased])

end Sys2Proof.Machine

namespace Sys2Proof

open Sys2Proof.Machine

/-- Settles O15: a boundary counts the beat and the sessions' idle times, and every other part of it leaves both alone. -/
theorem beatBegins : Obligations.BeatBegins := by
  intro s hawake
  have hnext := clockOf_nextBeat (fresh s)
  simp only [clockOf, Prod.mk.injEq, fresh_time, fresh_host] at hnext
  obtain ⟨hbeat, hns, hsess⟩ := hnext
  have hawake' : awake (fresh s) = true := hawake
  have hexec : exec .beatBoundary s = .next (nextBeat (fresh s)) := congrArg Host.Outcome.next (if_pos hawake')
  refine ⟨nextBeat (fresh s), hexec, hbeat, hns, by rw [tickOf, hns], by rw [fabNs, hbeat, hns, Nat.add_zero],
    fun i => ?_⟩
  have hi : (nextBeat (fresh s)).host.sess[i] = s.host.sess[i].idled := by
    rw [hsess]
    exact Vector.getElem_map Session.idled i.isLt
  rw [hi]
  exact Session.idled_idle _

end Sys2Proof
end

section
/-! SUPPORT AND PROOFS. The escapement (02 R38 to R43): engines, one rule per operation on them, and the write that clears
an engine's load. -/

namespace Sys2Proof.Machine

/-! ### Engines -/

theorem engineAt_fin (s : State) (e : Fin 11) : engineAt s e.val = s.time.engines[e] := getNat_of_lt _ e.isLt

theorem engineAt_modEngine_same {e : Nat} (he : e < 11) (f : Engine → Engine) (s : State) :
    engineAt (modEngine e f s) e = f (engineAt s e) := getNat_updNat_same _ he f

theorem engineAt_modEngine_other {e d : Nat} (h : d ≠ e) (f : Engine → Engine) (s : State) :
    engineAt (modEngine e f s) d = engineAt s d := getNat_updNat_other _ h f

@[simp] theorem itemAt_fresh (s : State) (k : Nat) : itemAt (fresh s) k = itemAt s k := rfl

@[simp] theorem itemDue_fresh (s : State) (it : LedgerItem) : itemDue (fresh s) it = itemDue s it := rfl

@[simp] theorem engineAt_fresh (s : State) (e : Nat) : engineAt (fresh s) e = engineAt s e := rfl

/-! ### Release (R38) -/

theorem mem_insertReleased (dl : Nat → Nat) (x : Nat × Nat) (l : List (Nat × Nat)) : x ∈ insertReleased dl x l := by
  induction l with
  | nil => exact List.mem_singleton_self x
  | cons y r ih =>
    unfold insertReleased
    split
    · exact List.mem_cons_self
    · exact List.mem_cons_of_mem y ih

/-- What a release makes of its engine: the item stands among the released ones with its whole budget, and the clock runs. -/
theorem engineAt_releaseItem {k : Nat} {it : LedgerItem} {s : State} (hit : itemAt s k = some it) (he : it.engine < 11)
    (hnew : (engineAt s it.engine).released.any (fun x => x.1 == k) = false) :
    (k, it.budget) ∈ (engineAt (releaseItem k s) it.engine).released ∧
      (engineAt (releaseItem k s) it.engine).clock = true := by
  have hnew' : (engineAt (takeTurn (.release k) s) it.engine).released.any (fun x => x.1 == k) = false := hnew
  simp only [releaseItem, hit, engineAt_modEngine_same he, hnew', Bool.false_eq_true, if_false]
  have hmem := mem_insertReleased (fun j => ((itemAt s j).map (·.deadline)).getD 0) (k, it.budget)
    (engineAt s it.engine).released
  refine ⟨hmem, ?_⟩
  exact Bool.not_eq_true' _ |>.mpr (List.isEmpty_eq_false_iff_exists_mem.mpr ⟨_, hmem⟩)

theorem engineAt_releaseItem_other {k e : Nat} {it : LedgerItem} {s : State} (hit : itemAt s k = some it)
    (h : e ≠ it.engine) : engineAt (releaseItem k s) e = engineAt s e := by
  simp only [releaseItem, hit]
  exact engineAt_modEngine_other h _ _

theorem execItemRelease_of_due {k : Nat} {it : LedgerItem} {s : State} (hawake : awake s = true)
    (hm : s.st.mode.fromArmed = true) (hit : itemAt s k = some it) (hdue : itemDue s it = true)
    (hturn : mayAct (.release k) it.release s = true) :
    execItemRelease k s = .next (releaseItem k (atTick it.release (fresh s))) := by
  simp [execItemRelease, hit, hawake, hm, hdue, hturn]

/-! ### Stops (R40, R43) -/

/-- Engine e has been stopped in this beat: what is released on it, and its count of overruns. -/
structure EngineStopped (e : Nat) (r : List (Nat × Nat)) (n : Nat) (s : State) : Prop where
  released : (engineAt s e).released = r
  ovr : (engineAt s e).ovr = true
  count : (engineAt s e).count = n
  now : (engineAt s e).ovrThisBeat = true

theorem EngineStopped.of_engine {e : Nat} {r : List (Nat × Nat)} {n : Nat} {s t : State} (h : EngineStopped e r n s)
    (ht : engineAt t e = engineAt s e) : EngineStopped e r n t := by
  obtain ⟨hr, ho, hc, hn⟩ := h
  constructor <;> rwa [ht]

/-- An overrun on an engine is counted, and leaves what is released. -/
theorem overrun_stopped {e : Nat} (he : e < 11) (item : Option Nat) (s : State) :
    EngineStopped e (engineAt s e).released (min 255 ((engineAt s e).count + 1)) (overrun e item s) := by
  unfold overrun
  extract_lets x now before lag y hold z
  have hy : EngineStopped e (engineAt s e).released (min 255 ((engineAt s e).count + 1)) y := by
    have hx : engineAt x e = { engineAt s e with
        count := satAdd (engineAt s e).count 1 255, ovr := true, ovrThisBeat := true } :=
      engineAt_modEngine_same he _ _
    have hxy : engineAt y e = { engineAt x e with lag := (engineAt x e).lag || lag } := engineAt_modEngine_same he _ _
    rw [hx] at hxy
    constructor
    · rw [hxy]
    · rw [hxy]
    · rw [hxy]; rfl
    · rw [hxy]
  split
  · exact hy.of_engine rfl
  · exact hy.of_engine rfl

theorem stopItem_stopped {k c : Nat} {it : LedgerItem} {s : State} (hit : itemAt s k = some it) (he : it.engine < 11)
    (hrel : (engineAt s it.engine).released.any (fun x => x.1 == k) = true) :
    EngineStopped it.engine ((engineAt s it.engine).released.filter (fun x => x.1 != k))
      (min 255 ((engineAt s it.engine).count + 1)) (stopItem k c s) := by
  simp only [stopItem, hit, hrel, if_true]
  have h := overrun_stopped he (some k) (modEngine it.engine (fun e =>
    ({ e with released := e.released.filter (fun x => x.1 != k) }.use c).settle) s)
  rwa [engineAt_modEngine_same he] at h

theorem EngineStopped.of_time {e : Nat} {r : List (Nat × Nat)} {n : Nat} {s t : State} (h : EngineStopped e r n s)
    (ht : t.time = s.time) : EngineStopped e r n t :=
  h.of_engine (by rw [engineAt, engineAt, ht])

/-- E9's part in a task's overrun: OVR of E9, and a count where E9 has not overrun in this beat already. -/
def taskEngine (s : State) : State :=
  if (engineAt s 9).ovrThisBeat then modEngine 9 (fun e => { e with ovr := true }) (setAgain 0x6060 (2 ^ 9) s)
  else overrun 9 none s

/-- The reaction of Table 11-1 to a task's overrun. -/
def taskReaction (t : Nat) (c : TaskCfg) (s : State) : State :=
  if c.cls = 0 then
    jnl 6 0xFF [beatLo s, toW t]
      (setAgain 0xC000 (2 ^ 4) (modLg (fun x => { x with protOvr := true, protNow := true, t8Pending := true }) s))
  else setAgain 0xC000 (2 ^ 5) (modLg (fun x => { x with svcOvr := true }) s)

theorem taskOver_eq (t : Nat) (c : TaskCfg) (cycles : Nat) (s : State) : ∃ f, taskOver t c cycles s =
    taskReaction t c (taskEngine (modLg (fun x => { x with ranNow := x.ranNow ++ [t] }) (modTask t f s))) := ⟨_, rfl⟩

theorem taskReaction_time (t : Nat) (c : TaskCfg) (s : State) : (taskReaction t c s).time = s.time := by
  unfold taskReaction
  split <;> rfl

/-- A task's overrun on E9 in a beat in which E9 has overrun already is not counted on the engine again. -/
theorem taskEngine_stopped {r : List (Nat × Nat)} {n : Nat} {s : State} (h : EngineStopped 9 r n s) :
    EngineStopped 9 r n (taskEngine s) := by
  obtain ⟨hr, ho, hc, hn⟩ := h
  have he : engineAt (taskEngine s) 9 = { engineAt s 9 with ovr := true } := by
    rw [taskEngine, if_pos hn]
    exact engineAt_modEngine_same (e := 9) (by decide) _ _
  constructor
  · rw [he]; exact hr
  · rw [he]
  · rw [he]; exact hc
  · rw [he]; exact hn

theorem taskOver_stopped {r : List (Nat × Nat)} {n : Nat} {s : State} (h : EngineStopped 9 r n s) (t : Nat) (c : TaskCfg)
    (cycles : Nat) : EngineStopped 9 r n (taskOver t c cycles s) := by
  obtain ⟨f, hf⟩ := taskOver_eq t c cycles s
  rw [hf]
  have hran : EngineStopped 9 r n (modLg (fun x => { x with ranNow := x.ranNow ++ [t] }) (modTask t f s)) := h.of_time rfl
  exact (taskEngine_stopped hran).of_time (taskReaction_time ..)

theorem taskStopped_stopped {r : List (Nat × Nat)} {n : Nat} {s : State} (h : EngineStopped 9 r n s) (t : Nat) :
    EngineStopped 9 r n (taskStopped t s) := by
  unfold taskStopped
  split
  · have htook : EngineStopped 9 r n (tookFree 1 s) := h.of_time rfl
    exact taskOver_stopped htook ..
  · exact h

theorem foldl_taskStopped_stopped {r : List (Nat × Nat)} {n : Nat} (l : List Nat) {s : State}
    (h : EngineStopped 9 r n s) : EngineStopped 9 r n (l.foldl (fun s t => taskStopped t s) s) := by
  induction l generalizing s with
  | nil => exact h
  | cons t l ih => exact ih (taskStopped_stopped h t)

theorem stopTasks_stopped {r : List (Nat × Nat)} {n : Nat} {s : State} (h : EngineStopped 9 r n s) :
    EngineStopped 9 r n (stopTasks s) := by
  unfold stopTasks
  split
  · split
    next t _ =>
      dsimp only
      split
      · exact taskStopped_stopped h t
      · exact foldl_taskStopped_stopped _ (taskStopped_stopped h t)
    · exact h
  · exact h

/-- A stopped item leaves its engine, which has overrun once more; on E9 its tasks are stopped with it. -/
theorem stopWork_stopped {k c : Nat} {it : LedgerItem} {s : State} (hit : itemAt s k = some it) (he : it.engine < 11)
    (hrel : (engineAt s it.engine).released.any (fun x => x.1 == k) = true) :
    EngineStopped it.engine ((engineAt s it.engine).released.filter (fun x => x.1 != k))
      (min 255 ((engineAt s it.engine).count + 1)) (stopWork k c s) := by
  have h := stopItem_stopped (c := c) hit he hrel
  unfold stopWork
  dsimp only
  split
  next h9 =>
    simp only [hit, Option.any_some, Bool.and_eq_true, beq_iff_eq] at h9
    rw [h9.1] at h ⊢
    exact stopTasks_stopped h
  · exact h

theorem execItemBudgetExpiry_of_released {e : Fin 11} {k b : Nat} {r : List (Nat × Nat)} {s : State}
    (h : s.time.engines[e].released = (k, b) :: r) : execItemBudgetExpiry e s = .next (stopWork k b (fresh s)) := by
  simp only [execItemBudgetExpiry, fresh_time, h]

theorem execItemDeadlineExpiry_of_released {k c : Nat} {it : LedgerItem} {s : State} (hit : itemAt s k = some it)
    (hrel : (engineAt s it.engine).released.any (fun x => x.1 == k) = true) :
    execItemDeadlineExpiry k c s =
      .next (stopWork k c (if it.deadline < 400 then atNs (it.deadline * 2500) (fresh s) else fresh s)) := by
  simp only [execItemDeadlineExpiry, itemAt_fresh, hit, engineAt_fresh, hrel, if_true]

/-! ### Words written to the time block (Tables 02-7 to 02-21) -/

theorem blockOf_time {o : Nat} (h : o < 0x1000) : blockOf (0x6000 + o) = some (.time, o) := by
  have hlt : 0x6000 + o < 0x13000 := by omega
  have hdiv : (0x6000 + o) / 0x1000 = 6 := by omega
  have hmod : (0x6000 + o) % 0x1000 = o := by omega
  simp only [blockOf, hlt, if_true, hdiv, hmod]

theorem wBit_or_b31 (v : Word) : wBit (v ||| b31) 31 = true := by
  simp [wBit, b31, Nat.testBit_or, show Nat.testBit 2147483648 31 = true by decide]

/-- A single write to the time block, where its meaning is known and no W1C bit of it can be fresh. -/
theorem writeCmd_time {i : Fin 32} {s x : State} {P : State → Prop} (h : MayWrite i s) {a o : Nat} {v : Word}
    {c : RspCode} (ha : a = 0x6000 + o) (ho : o < 0x1000) (h4 : o % 4 = 0)
    (hw1c : w1cTable.findIdx? (fun r => r.1 == a) = none) (hw : timeWrite o v (accessed i s) = (c, x))
    (hx : x.host = (accessed i s).host) (hp : P (put (.rsp (directRsp i 4 c a [])) x)) :
    ∃ t, writeCmd i a v s = .next t ∧ P t := by
  have hb : blockOf a = some (.time, o) := by rw [ha]; exact blockOf_time ho
  refine writes_of_may h (by omega) hb (c := c) (x := x) ?_ ?_ hp
  · rw [keepFresh_of_none hw1c]
    exact hw
  · rw [hx]
    exact accessed_outstanding h.1

theorem engLoad_not_w1c (e : Fin 11) : w1cTable.findIdx? (fun r => r.1 == 0x6080 + 4 * e.val) = none := by
  fin_cases e <;> rfl

theorem timeWrite_engLoad_clear (e : Fin 11) {v : Word} (hv : wBit v 31 = true) (s : State) :
    timeWrite (0x80 + 4 * e.val) v s = (.ok, modEngine e.val (fun x => { x with peak := 0, count := 0 }) s) := by
  have h : timeWrite (0x80 + 4 * e.val) v s =
      (.ok, if wBit v 31 then modEngine e.val (fun x => { x with peak := 0, count := 0 }) s else s) := by
    fin_cases e <;> rfl
  rw [h, if_pos hv]

end Sys2Proof.Machine

namespace Sys2Proof

open Sys2Proof.Machine

/-- Settles O16: each clause by the rule of its operation on the engine. -/
theorem escapement : Obligations.Escapement := by
  refine ⟨⟨?release, ?complete, ?stop⟩, ?clear⟩
  case release =>
    intro k it s hawake hm hit he hdue htick hnew hturn
    have hitx : itemAt (atTick it.release (fresh s)) k = some it := hit
    obtain ⟨hmem, hclock⟩ := engineAt_releaseItem hitx he hnew
    refine ⟨_, execItemRelease_of_due hawake hm hit hdue ((mayAct_iff ..).mpr ⟨htick, hturn⟩), hmem, hclock, ?_,
      fun e hne => engineAt_releaseItem_other hitx hne⟩
    have hns : clockOf (releaseItem k (atTick it.release (fresh s))) = _ := clockOf_releaseItem ..
    simp only [clockOf, Prod.mk.injEq, atTick_time] at hns
    obtain ⟨-, hns, -⟩ := hns
    rw [tickOf, hns, Nat.mul_div_cancel _ (by decide)]
  case complete =>
    intro e c k b r s hrel hc
    have hexec : exec (.itemComplete e c) s =
        .next (modEngine e.val (fun x => ({ x with released := r }.use c).settle) (fresh s)) := by
      change execItemComplete e c s = _
      simp only [execItemComplete, fresh_time, hrel, hc, if_true]
    have he := engineAt_modEngine_same e.isLt (fun x => ({ x with released := r }.use c).settle) (fresh s)
    rw [engineAt_fin, engineAt_fresh, engineAt_fin] at he
    refine ⟨_, hexec, ?_, ?_, ?_, ?_, fun f hf => ?_, rfl⟩
    · rw [he]; rfl
    · rw [he]; rfl
    · rw [he]; rfl
    · rw [he]; rfl
    · have hne : f.val ≠ e.val := fun h => hf (Fin.ext h)
      rw [← engineAt_fin, engineAt_modEngine_other hne, engineAt_fresh, engineAt_fin]
  case stop =>
    intro e k b r it s hrel hit he
    have hreleased : (engineAt s it.engine).released = (k, b) :: r := by rw [he, engineAt_fin, hrel]
    have hany : (engineAt s it.engine).released.any (fun x => x.1 == k) = true := by rw [hreleased]; simp
    have hstop : ∀ (c : Nat) (x : State), itemAt x k = some it → engineAt x it.engine = engineAt s it.engine →
        (stopWork k c x).time.engines[e].released = ((k, b) :: r).filter (fun x => x.1 != k) ∧
        (stopWork k c x).time.engines[e].ovr = true ∧
        (stopWork k c x).time.engines[e].count = min 255 (s.time.engines[e].count + 1) := by
      intro c x hx hex
      obtain ⟨hr, ho, hn, -⟩ := stopWork_stopped (c := c) hx (he ▸ e.isLt) (by rw [hex]; exact hany)
      rw [hex, hreleased, he, engineAt_fin] at hr
      rw [hex, he, engineAt_fin, engineAt_fin] at hn
      rw [he, engineAt_fin] at ho
      exact ⟨hr, ho, hn⟩
    refine ⟨⟨_, execItemBudgetExpiry_of_released hrel, hstop b _ hit rfl⟩, fun c =>
      ⟨_, execItemDeadlineExpiry_of_released hit hany, hstop c _ ?_ ?_⟩⟩
    · split
      · exact hit
      · exact hit
    · split
      · rfl
      · rfl
  case clear =>
    intro i e v s h
    refine writeCmd_time h (o := 0x80 + 4 * e.val) (by omega) (by omega) (by omega) (engLoad_not_w1c e)
      (timeWrite_engLoad_clear e (wBit_or_b31 v) _) rfl ?_
    have he := engineAt_modEngine_same e.isLt (fun x => { x with peak := 0, count := 0 }) (accessed i s)
    rw [engineAt_fin] at he
    refine ⟨?_, ?_, fun f hf => ?_, rfl, rfl⟩
    · exact congrArg Engine.peak he
    · exact congrArg Engine.count he
    · have hne : f.val ≠ e.val := fun h => hf (Fin.ext h)
      exact (engineAt_fin _ f).symm.trans ((engineAt_modEngine_other hne _ (accessed i s)).trans (engineAt_fin s f))

end Sys2Proof
end

section
/-! SUPPORT AND PROOFS. Fabric time (02 R45 to R53): what a Sync, an Announce, a timeout and a change of the steering
domain make of the time block. -/

namespace Sys2Proof.Machine

/-! ### Domains and their judgement -/

@[simp] theorem modDom_dom_self (d : Fin 2) (f : Dom → Dom) (s : State) : (modDom d f s).time.dom[d] = f s.time.dom[d] := by
  simp [modDom, updAt]

theorem modDom_dom_other {d e : Fin 2} (h : e ≠ d) (f : Dom → Dom) (s : State) :
    (modDom d f s).time.dom[e] = s.time.dom[e] := by
  have hne : d.val ≠ e.val := fun hv => h (Fin.ext hv.symm)
  simp [modDom, updAt, hne]

@[simp] theorem judgeSync_dom (s : State) : (judgeSync s).time.dom = s.time.dom := rfl
@[simp] theorem judgeSync_steer (s : State) : (judgeSync s).time.steer = s.time.steer := rfl
@[simp] theorem judgeSync_beat (s : State) : (judgeSync s).time.beat = s.time.beat := rfl

theorem judgeSync_syncState_of_fault {s : State} (h : s.time.timeFault = true) : (judgeSync s).time.syncState = .holdover := by
  simp [judgeSync, h]

/-! ### What a Sync measures (R46) -/

theorem syncMeasured_dom (d : Fin 2) (off : Int) (gm : Nat) (s : State) :
    (syncMeasured d off gm s).time.dom[d].offset = off ∧ (syncMeasured d off gm s).time.dom[d].receipt = true ∧
      (syncMeasured d off gm s).time.dom[d].gm = some gm := by
  refine ⟨?_, ?_, ?_⟩ <;> exact (congrArg _ (modDom_dom_self ..)).trans rfl

theorem syncMeasured_dom_other {d e : Fin 2} (h : e ≠ d) (off : Int) (gm : Nat) (s : State) :
    (syncMeasured d off gm s).time.dom[e] = s.time.dom[e] := modDom_dom_other h _ s

/-! ### What the steering offset makes the module do (R48 to R50) -/

theorem steerRate_natAbs (s : State) : (steerRate s).natAbs ≤ 20000000 := by
  simp only [steerRate, clampI, rateLimit]
  omega

/-- From ARMED onward: nothing after a fault, a fault beyond 10 ms, and a new rate otherwise (R49, R50). -/
theorem correct_of_fromArmed {s : State} (h : s.st.mode.fromArmed = true) :
    correct s = if s.time.timeFault then s
      else if 10000000 < s.time.dom[s.time.steer].offset.natAbs then
        { s with time := { s.time with timeFault := true, slew := false, syncState := .holdover } }
      else { s with time := { s.time with rateAdj := steerRate s, slew := decide (s.time.dom[s.time.steer].offset ≠ 0) } } := by
  simp only [correct, h, if_true]

/-- Before ARMED an offset of more than 1 µs steps the clock (R48). -/
theorem correct_of_step {s : State} (hm : s.st.mode.fromArmed = false) (hf : s.time.timeFault = false)
    (hoff : 1000 < s.time.dom[s.time.steer].offset.natAbs) :
    correct s = stepClock s.time.dom[s.time.steer].offset s := by
  simp only [correct, hm, hf, hoff, if_true, Bool.false_eq_true, if_false]

/-- What a correction from ARMED onward leaves: the clock as it is, the rate within 200 ppm where it is new, and a fault
beyond 10 ms. -/
structure Corrected (off : Int) (s t : State) : Prop where
  dom : ∀ e : Fin 2, t.time.dom[e] = s.time.dom[e]
  beat : t.time.beat = s.time.beat
  ns : t.time.ns = s.time.ns
  stepped : t.time.stepped = s.time.stepped
  rate : t.time.rateAdj = s.time.rateAdj ∨ t.time.rateAdj.natAbs ≤ 20000000
  fault : 10000000 < off.natAbs → t.time.timeFault = true ∧ t.time.syncState = .holdover
  rest : t = { s with time := t.time }

theorem correct_corrected {s : State} (h : s.st.mode.fromArmed = true)
    (hfault : s.time.timeFault = true → s.time.syncState = .holdover) :
    Corrected s.time.dom[s.time.steer].offset s (correct s) := by
  rw [correct_of_fromArmed h]
  split
  next hf => exact ⟨fun _ => rfl, rfl, rfl, rfl, .inl rfl, fun _ => ⟨hf, hfault hf⟩, rfl⟩
  · split
    · exact ⟨fun _ => rfl, rfl, rfl, rfl, .inl rfl, fun _ => ⟨rfl, rfl⟩, rfl⟩
    next hoff => exact ⟨fun _ => rfl, rfl, rfl, rfl, .inr (steerRate_natAbs s), fun hbig => absurd hbig hoff, rfl⟩

/-- A step moves fabric time by the offset, and the offset of each domain with it (R48). -/
theorem stepClock_fabNs (off : Int) (s : State) : fabNs (stepClock off s) = ((fabNs s : Int) - off).toNat := by
  have h : fabNs (stepClock off s) = ((fabNs s : Int) - off).toNat / 1000000 * 1000000 +
      ((fabNs s : Int) - off).toNat % 1000000 := rfl
  rw [h, Nat.div_add_mod']

theorem stepClock_offset (off : Int) (d : Fin 2) (s : State) :
    (stepClock off s).time.dom[d].offset = s.time.dom[d].offset - off := by
  have h : (stepClock off s).time.dom =
      mapAll s.time.dom (fun _ d => { d with offset := d.offset - off, history := [] }) := rfl
  rw [h]
  simp [mapAll]

/-! ### SYNC_RECEIVE -/

/-- The state in which a Sync's offset stands measured and judged. -/
def syncJudged (d : Fin 2) (p : Fin 3) (raw : Int) (gm : Nat) (s : State) : State :=
  judgeSync (syncMeasured d (raw - s.time.asymUsed[p]) gm (fresh s))

theorem syncJudged_holdover {d : Fin 2} {p : Fin 3} {raw : Int} {gm : Nat} {s : State}
    (h : (syncJudged d p raw gm s).time.timeFault = true) : (syncJudged d p raw gm s).time.syncState = .holdover :=
  judgeSync_syncState_of_fault (s := syncMeasured d (raw - s.time.asymUsed[p]) gm (fresh s)) h

theorem exec_syncReceive {d : Fin 2} {s : State} (hawake : awake s = true) (hself : s.time.dom[d].self = false)
    (p : Fin 3) (raw : Int) (gm : Nat) :
    exec (.syncReceive d p raw gm) s = .next (if s.time.steer = d then correct (syncJudged d p raw gm s)
      else syncJudged d p raw gm s) := by
  have hgo : (!awake (fresh s) || (fresh s).time.dom[d].self) = false := by
    rw [awake_fresh, hawake, fresh_time, hself]
    rfl
  have hsteer : ∀ {x : State}, (if steering d (syncJudged d p raw gm s) then x else syncJudged d p raw gm s) =
      if s.time.steer = d then x else syncJudged d p raw gm s := fun {x} => by
    simp only [steering, syncJudged, judgeSync_steer, syncMeasured, modDom, fresh_time, beq_iff_eq]
  change execSyncReceive d p raw gm s = _
  rw [← hsteer]
  exact if_neg (by rw [hgo]; decide)

end Sys2Proof.Machine

namespace Sys2Proof

open Sys2Proof.Machine

/-- Settles O17: the measured offset, then the correction of a module from ARMED onward, or the step of one before it. -/
theorem syncReceives : Obligations.SyncReceives := by
  refine ⟨?armed, ?step⟩
  case armed =>
    intro d p raw gm s hawake hself hm off
    obtain ⟨hoff, hreceipt, hgm⟩ := syncMeasured_dom d off gm (fresh s)
    have hother : ∀ e : Fin 2, e ≠ d → (syncMeasured d off gm (fresh s)).time.dom[e] = s.time.dom[e] :=
      fun e he => syncMeasured_dom_other he off gm (fresh s)
    refine ⟨_, exec_syncReceive hawake hself p raw gm, ?_⟩
    split
    next hsteer =>
      subst hsteer
      have hc : Corrected (syncJudged s.time.steer p raw gm s).time.dom[s.time.steer].offset _ _ :=
        correct_corrected (s := syncJudged s.time.steer p raw gm s) hm syncJudged_holdover
      obtain ⟨hdom, hbeat, hns, hstepped, hrate, hfault, hrest⟩ := hc
      have hrest' : correct (syncJudged s.time.steer p raw gm s) =
          { fresh s with time := (correct (syncJudged s.time.steer p raw gm s)).time } := hrest
      refine ⟨?_, ?_, ?_, ?_, hbeat, hns, hstepped, hrate, fun _ hbig => hfault ?_, hrest'⟩
      · exact (congrArg Dom.offset (hdom _)).trans hoff
      · exact (congrArg Dom.receipt (hdom _)).trans hreceipt
      · exact (congrArg Dom.gm (hdom _)).trans hgm
      · exact fun e he => (hdom e).trans (hother e he)
      · exact hoff.symm ▸ hbig
    next hsteer =>
      exact ⟨hoff, hreceipt, hgm, hother, rfl, rfl, rfl, .inl rfl, fun h => absurd h hsteer, rfl⟩
  case step =>
    intro d p raw gm s hawake hself hm hfault hsteer off hbig
    obtain ⟨hoff, -, -⟩ := syncMeasured_dom d off gm (fresh s)
    subst hsteer
    have hstep : correct (syncJudged s.time.steer p raw gm s) = stepClock off (syncJudged s.time.steer p raw gm s) := by
      have hoff' : (syncJudged s.time.steer p raw gm s).time.dom[(syncJudged s.time.steer p raw gm s).time.steer].offset
          = off := hoff
      have h := correct_of_step (s := syncJudged s.time.steer p raw gm s) hm hfault (hoff'.symm ▸ hbig)
      rwa [hoff'] at h
    refine ⟨_, exec_syncReceive hawake hself p raw gm, ?_⟩
    rw [if_pos rfl, hstep]
    refine ⟨stepClock_fabNs off _, rfl, ?_, rfl, rfl, rfl, rfl, rfl, rfl⟩
    have hoff' : (syncJudged s.time.steer p raw gm s).time.dom[s.time.steer].offset = off := hoff
    rw [stepClock_offset, hoff', Int.sub_self]

end Sys2Proof
end

section
/-! SUPPORT AND PROOFS. gPTP beside the Sync (02 R45, R46, R51, R53): Announce, receipt timeout, Sync, path delay, the
change of the steering domain, and the write of STEER. -/

namespace Sys2Proof.Machine

/-! ### The steering domain -/

/-- The steering domain, the switch that waits for it, and SWITCHED: what a correction leaves. -/
def steerOf (s : State) : Fin 2 × Option (Fin 2) × Bool := (s.time.steer, s.time.switchTo, s.time.switched)

theorem steerOf_correct (s : State) : steerOf (correct s) = steerOf s := by
  unfold correct
  dsimp only
  (repeat' split) <;> rfl

/-- No automatic switch is asked for while the steering domain is locked (R51). -/
theorem judgeSync_switchTo_of_locked {s : State} (h : s.time.dom[s.time.steer].locked = true) :
    (judgeSync s).time.switchTo = s.time.switchTo := by
  simp only [judgeSync, h, Bool.not_true, Bool.and_false, Bool.false_and, Bool.false_eq_true, if_false]

theorem steerOf_steerTo {d : Fin 2} {s : State} (h : s.time.dom[d].locked = true) :
    steerOf (steerTo d s) = (d, none, true) := by
  unfold steerTo
  rw [steerOf_correct]
  simp only [steerOf, Prod.mk.injEq]
  refine ⟨rfl, ?_, rfl⟩
  rw [judgeSync_switchTo_of_locked (by exact h)]
  rfl

/-- A switch that waits takes its boundary (R51): at tick 0, and, where a host asked for it, in a beat after its write. -/
theorem execDomainSwitch_of_due {d : Fin 2} {s : State} (hawake : awake s = true) (htick : tickOf s = 0)
    (hto : s.time.switchTo = some d) (hne : s.time.steer ≠ d)
    (hdue : s.time.switchAuto = true ∨ s.time.switchBeat ≠ s.time.beat) :
    execDomainSwitch s = .next (if s.time.dom[d].locked then steerTo d (fresh s)
      else if s.time.switchAuto then endSwitch (fresh s)
      else endSwitch (setAgain 0x6000 (2 ^ 13) { fresh s with time := { s.time with switchRefused := true } })) := by
  have hgo : (awake (fresh s) && decide (tickOf (fresh s) = 0) &&
      ((fresh s).time.switchAuto || (fresh s).time.switchBeat != (fresh s).time.beat)) = true := by
    have ht : tickOf (fresh s) = 0 := htick
    simp only [awake_fresh, hawake, ht, fresh_time, decide_true, Bool.true_and, Bool.or_eq_true, bne_iff_ne]
    exact hdue
  simp only [execDomainSwitch, fresh_time, hto] at hgo ⊢
  rw [if_pos hgo, if_neg hne]
  (repeat' split) <;> rfl

/-! ### Announce (R45) -/

theorem selectGm_best (d : Fin 2) (s : State) : (selectGm d s).time.dom[d].best = s.time.dom[d].best :=
  (congrArg Dom.best (modDom_dom_self ..)).trans rfl

theorem selectGm_dom_other {d e : Fin 2} (h : e ≠ d) (s : State) : (selectGm d s).time.dom[e] = s.time.dom[e] :=
  modDom_dom_other h _ s

/-- A domain that has kept a vector for a port in place of the one before. -/
def Dom.hear (p : Nat) (v : PrioVec) (x : Dom) : Dom := { x with best := (x.best.filter (fun q => q.1 != p)) ++ [(p, v)] }

theorem Dom.hear_best_others (p : Nat) (v : PrioVec) (x : Dom) :
    (x.hear p v).best.filter (fun q => q.1 != p) = x.best.filter (fun q => q.1 != p) := by
  simp [Dom.hear]

theorem exec_gptpAnnounceReceive {s : State} (hawake : awake s = true) (d : Fin 2) (p : Fin 3) (v : PrioVec) :
    exec (.gptpAnnounceReceive d p v) s = .next (judgeSync (selectGm d (modDom d (Dom.hear p.val v) (fresh s)))) := by
  have hgo : (!awake (fresh s)) = false := by rw [awake_fresh, hawake]; rfl
  change execGptpAnnounceReceive d p v s = _
  exact if_neg (by rw [hgo]; decide)

/-! ### The other events of a domain -/

theorem exec_syncReceiptTimeout {d : Fin 2} {s : State} (hawake : awake s = true) (hself : s.time.dom[d].self = false) :
    exec (.syncReceiptTimeout d) s = .next (judgeSync (modDom d (fun x =>
      { x with locked := false, good := 0, receipt := false, gm := none, best := [] }) (fresh s))) := by
  have hgo : (!awake (fresh s) || (fresh s).time.dom[d].self) = false := by
    rw [awake_fresh, hawake, fresh_time, hself]
    rfl
  change execSyncReceiptTimeout d s = _
  exact if_neg (by rw [hgo]; decide)

/-! ### STEER (R51, Table 02-9) -/

theorem timeCtrl_not_w1c : w1cTable.findIdx? (fun r => r.1 == 0x6004) = none := rfl

/-- STEER to a locked domain that does not steer yet, with the automatic switch kept. -/
theorem timeCtrlWrite_locked {v : Word} {d : Fin 2} {s : State} (hauto : wBit v 1 = s.time.autoSwitch)
    (hd : (if wBit v 0 then 1 else 0 : Fin 2) = d) (hne : s.time.steer ≠ d) (hl : s.time.dom[d].locked = true) :
    timeCtrlWrite v s = (.ok, { judgeSync s with time := { (judgeSync s).time with
      steerReq := d, switchTo := some d, switchAuto := false, switchBeat := s.time.beat } }) := by
  have hno : (s.st.mode.fromArmed && wBit v 1 != s.time.autoSwitch) = false := by simp [hauto]
  have hset : ({ s with time := { s.time with autoSwitch := wBit v 1 } } : State) = s := by rw [hauto]
  simp only [timeCtrlWrite, hno, Bool.false_eq_true, if_false, hset, hd, judgeSync_steer, hne, judgeSync_dom, hl, if_true,
    judgeSync_beat]

/-- STEER to a domain that is not locked. -/
theorem timeCtrlWrite_refused {v : Word} {d : Fin 2} {s : State} (hauto : wBit v 1 = s.time.autoSwitch)
    (hd : (if wBit v 0 then 1 else 0 : Fin 2) = d) (hne : s.time.steer ≠ d) (hl : s.time.dom[d].locked = false) :
    timeCtrlWrite v s = (.ok, setAgain 0x6000 (2 ^ 13)
      { judgeSync s with time := { (judgeSync s).time with switchRefused := true } }) := by
  have hno : (s.st.mode.fromArmed && wBit v 1 != s.time.autoSwitch) = false := by simp [hauto]
  have hset : ({ s with time := { s.time with autoSwitch := wBit v 1 } } : State) = s := by rw [hauto]
  simp only [timeCtrlWrite, hno, Bool.false_eq_true, if_false, hset, hd, judgeSync_steer, hne, judgeSync_dom, hl]

end Sys2Proof.Machine

namespace Sys2Proof

open Sys2Proof.Machine

/-- Settles O18: each event by what it makes of its domain, and a write of STEER by the lock of the domain it names. That a
domain forgets its grandmaster at the timeout and that an automatic switch is given up without SWITCH_REFUSED are the
model's choice (log 16, log 36). -/
theorem timeDomains : Obligations.TimeDomains := by
  refine ⟨⟨?announce, ?timeout, ?send, ?pdelay, ?switch⟩, ?steer⟩
  case announce =>
    intro d p v s hawake
    have hbest : (selectGm d (modDom d (Dom.hear p.val v) (fresh s))).time.dom[d].best =
        (s.time.dom[d].hear p.val v).best := (selectGm_best ..).trans (congrArg Dom.best (modDom_dom_self ..))
    refine ⟨_, exec_gptpAnnounceReceive hawake d p v, ?_, ?_, fun e he => ?_, rfl⟩
    · exact hbest ▸ List.mem_append_right _ (List.mem_singleton_self _)
    · exact (congrArg _ hbest).trans (Dom.hear_best_others ..)
    · exact (selectGm_dom_other he _).trans (modDom_dom_other he _ _)
  case timeout =>
    intro d s hawake hself
    refine ⟨_, exec_syncReceiptTimeout hawake hself, ?_, ?_, ?_, fun e he => modDom_dom_other he _ _, rfl⟩
    · exact (congrArg Dom.locked (modDom_dom_self ..)).trans rfl
    · exact (congrArg Dom.receipt (modDom_dom_self ..)).trans rfl
    · exact (congrArg Dom.gm (modDom_dom_self ..)).trans rfl
  case send =>
    intro d p s hawake hfrom hlink
    exact congrArg Host.Outcome.next (if_pos ⟨hawake, hfrom, hlink⟩)
  case pdelay =>
    intro p ns s hawake
    exact ⟨_, congrArg Host.Outcome.next (if_pos hawake), rfl, rfl, rfl⟩
  case switch =>
    intro d s hawake htick hto hne hdue
    refine ⟨fun hl => ⟨_, execDomainSwitch_of_due hawake htick hto hne hdue, ?_⟩, fun hl =>
      ⟨_, execDomainSwitch_of_due hawake htick hto hne hdue, ?_⟩⟩
    · rw [if_pos hl]
      have h := steerOf_steerTo (s := fresh s) hl
      simp only [steerOf, Prod.mk.injEq] at h
      exact ⟨h.1, h.2.2, h.2.1⟩
    · rw [if_neg (fun h => Bool.false_ne_true (hl.symm.trans h))]
      cases hauto : s.time.switchAuto
      · exact ⟨rfl, by simp [endSwitch], rfl⟩
      · exact ⟨rfl, by simp [endSwitch], rfl⟩
  case steer =>
    intro i v s h hauto d hne
    refine ⟨fun hl => ?_, fun hl => ?_⟩
    · exact writeCmd_time h (o := 4) rfl (by decide) (by decide) timeCtrl_not_w1c
        (timeCtrlWrite_locked (s := accessed i s) hauto rfl hne hl) rfl ⟨rfl, rfl, rfl⟩
    · exact writeCmd_time h (o := 4) rfl (by decide) (by decide) timeCtrl_not_w1c
        (timeCtrlWrite_refused (s := accessed i s) hauto rfl hne hl) rfl ⟨rfl, rfl, rfl⟩

end Sys2Proof
end

section
/-! SUPPORT AND PROOFS. Triggers (02 R54 to R57), and the transmit stamps and probes of the ports (02 R58 to R60). -/

namespace Sys2Proof.Machine

/-! ### Triggers -/

theorem w1cTable_trigger (k : Fin 4) : w1cTable.findIdx? (fun r => r.1 == 0x60CC + 0x10 * k.val) = some (19 + k.val) ∧
    w1cTable[19 + k.val]? = some (w1cTrigger k.val) := by
  fin_cases k <;> exact ⟨rfl, rfl⟩

theorem w1cTrigger_even (k : Nat) (s : State) : ((w1cTrigger k).2 s).testBit 0 = false := by
  simp only [w1cTrigger, bitAt]
  (repeat' split) <;> decide

/-- ARM is no W1C bit: a word for TRGk_CTRL keeps its bit 0 (00 R11). -/
theorem keepFresh_trigger_arm (k : Fin 4) (v : Word) (s : State) :
    wBit (keepFresh (0x60CC + 0x10 * k.val) v s) 0 = wBit v 0 := by
  obtain ⟨hidx, hrow⟩ := w1cTable_trigger k
  have hset : (setThisTick (0x60CC + 0x10 * k.val) s).testBit 0 = false := by
    simp only [setThisTick, hidx, hrow, Option.map_some, Option.getD_some, Nat.testBit_and, w1cTrigger_even,
      Bool.false_and]
  change (v &&& ~~~(BitVec.ofNat 32 (setThisTick (0x60CC + 0x10 * k.val) s))).getLsbD 0 = v.getLsbD 0
  rw [BitVec.getLsbD_and, BitVec.getLsbD_not, BitVec.getLsbD_ofNat, hset, Bool.and_false]
  exact Bool.and_true _

theorem timeWrite_trigger (k : Fin 4) (v : Word) (s : State) : timeWrite (0xCC + 0x10 * k.val) v s = trigWrite k 12 v s := by
  fin_cases k <;> rfl

/-- The W1C bits of a trigger after a write of its control word. -/
def Trig.acked (v : Word) (t : Trig) : Trig := { t with late := t.late && !wBit v 2, fired := t.fired && !wBit v 1 }

theorem trigWrite_arm {k : Fin 4} {v : Word} {s : State} (hk : k ≠ 3) (hoff : s.time.trg[k].arm = false)
    (hv : wBit v 0 = true) :
    trigWrite k 12 v s = (.ok, { s with time := { s.time with trg := s.time.trg.set k (s.time.trg[k].acked v).armed } }) := by
  have harm : (s.time.trg[k].acked v).arm = false := hoff
  simp only [Trig.acked] at harm ⊢
  simp only [trigWrite, hk, if_false, hv, if_true, harm, Bool.false_eq_true]

/-- A trigger that has fired in a beat (R54, R55). -/
def Trig.firedAt (beat : Nat) (t : Trig) : Trig :=
  { t with arm := false, fired := true, late := t.late || decide (1000000 < beat * 1000000 - t.target) }

theorem fireTrig_eq (k : Fin 4) (s : State) : fireTrig k s = { s with
    mark := (fireTrig k s).mark, time := { s.time with trg := s.time.trg.set k (s.time.trg[k].firedAt s.time.beat) } } := by
  have hlate : decide (s.time.trg[k].target + 1000000 < s.time.beat * 1000000) =
      decide (1000000 < s.time.beat * 1000000 - s.time.trg[k].target) := decide_eq_decide.mpr (by omega)
  simp only [fireTrig, setAgain, Trig.firedAt, hlate]

/-- A due trigger at a beat boundary fires. -/
theorem execTriggerFire_of_due {k : Fin 4} {s : State} (hawake : awake s = true) (htick : tickOf s = 0)
    (harm : s.time.trg[k].arm = true) (hnow : s.time.trg[k].armedNow = false)
    (hdue : s.time.trg[k].target ≤ s.time.beat * 1000000) :
    execTriggerFire k s =
      .next (if k = 3 then judgeActivate (fireTrig k (fresh s)) else fireTrig k (fresh s)) := by
  have hgo : (awake (fresh s) && trigDue k (fresh s) && decide (tickOf (fresh s) = 0)) = true := by
    have ht : tickOf (fresh s) = 0 := htick
    rw [awake_fresh, hawake, ht, trigDue, fresh_time, harm, hnow, decide_eq_true hdue]
    rfl
  exact if_pos hgo

theorem execTriggerFire_of_idle {k : Fin 4} {s : State} (h : s.time.trg[k].arm = false) :
    execTriggerFire k s = .next (fresh s) := by
  have hgo : (awake (fresh s) && trigDue k (fresh s) && decide (tickOf (fresh s) = 0)) = false := by
    rw [trigDue, fresh_time, h, Bool.false_and, Bool.false_and, Bool.and_false, Bool.false_and]
  exact if_neg (by rw [hgo]; decide)

theorem judgeActivate_of_no_job {s : State} (h : runningOf 0x12 s = []) : judgeActivate s = s := by
  rw [judgeActivate, h]
  rfl

/-! ### Transmit stamps -/

theorem modTsq_eq (p : Fin 3) (f : Tsq → Tsq) (s : State) :
    modTsq p f s = { s with time := { s.time with tsq := s.time.tsq.set p (f s.time.tsq[p]) } } := rfl

theorem Tsq.add_of_room {q : Tsq} (h : q.items.length < 8) (x : Stamp) : q.add x = { q with items := q.items ++ [x] } :=
  if_pos h

theorem Tsq.add_of_full {q : Tsq} (h : 8 ≤ q.items.length) (x : Stamp) :
    q.add x = { q with ovf := true, lost := min 65535 (q.lost + 1) } := if_neg (Nat.not_lt.mpr h)

theorem Tsq.popId_oldest {q : Tsq} {x : Stamp} {r : List Stamp} {id : Nat} (h : q.items = x :: r) (hid : x.id = id) :
    q.popId id = { q with items := r } := by
  simp only [Tsq.popId, h, hid, if_true]

theorem Tsq.popId_miss {q : Tsq} {id : Nat} (h : ∀ x r, q.items = x :: r → x.id ≠ id) :
    q.popId id = { q with popMiss := true } := by
  unfold Tsq.popId
  split
  next x r hq => exact if_neg (h x r hq)
  · rfl

theorem wBits_low16 (v : Word) : wBits v 15 0 = v.toNat % 65536 := by
  simp [wBits, bitsOf]

theorem tsqPop_not_w1c (p : Fin 3) : w1cTable.findIdx? (fun r => r.1 == 0x6114 + 0x20 * p.val) = none := by
  fin_cases p <;> rfl

theorem timeWrite_tsqPop (p : Fin 3) (v : Word) (s : State) : timeWrite (0x114 + 0x20 * p.val) v s =
    (.ok, modTsq p (·.popId (wBits v 15 0))
      (setAgainIf ((s.time.tsq[p].items.head?.map (·.id)) != some (wBits v 15 0)) (0x6100 + 32 * p.val) (2 ^ 9) s)) := by
  fin_cases p <;> rfl

/-- A write of TSQp_POP, where what it makes of the queue is known. -/
theorem does_tsqPop {i : Fin 32} {p : Fin 3} {v : Word} {s : State} (h : MayWrite i s) {q : Tsq}
    (hq : s.time.tsq[p].popId (v.toNat % 65536) = q) :
    Does (.tsqPop i p v) s (fun t => t.time.tsq = s.time.tsq.set p q) := by
  refine writeCmd_time h (o := 0x114 + 0x20 * p.val) (by omega) (by omega) (by omega) (tsqPop_not_w1c p)
    (timeWrite_tsqPop p _ _) (setAgainIf_host ..) ?_
  rw [wBits_low16, put_time, modTsq_eq, setAgainIf_time, ← hq]
  rfl

/-! ### Probes (R60) -/

/-- An output is a time probe with an identifier that leaves by port p alone. -/
def isProbe (id p : Nat) (e : Emit) : Bool :=
  match e with
  | .fabric _ k _ _ _ _ _ _ st ports _ => k == 9 && ports == 2 ^ p && st == some id
  | _ => false

/-- The probe of one port, where PROBE selects it and its link is up. -/
def probePort (v : Word) (s : State) (p : Nat) : State :=
  if wBit v (16 + p) && (getNat s.fab.port p).link then
    sendFab none 9 0 s.time.beat (some (wBits v 15 0)) (2 ^ p) [] s
  else s

theorem probeWrite_go {v : Word} (hv : wBit v 31 = true) (s : State) :
    probeWrite v s = probePort v (probePort v (probePort v s 0) 1) 2 := by
  simp only [probeWrite, hv]
  rfl

theorem isProbe_any_put (e : Emit) (id p : Nat) (s : State) :
    (put e s).sent.any (isProbe id p) = (s.sent.any (isProbe id p) || isProbe id p e) := by
  simp [put]

/-- What the probe of one port leaves of the queues, the ports and the silencing, and whether it leaves by a port. -/
theorem probePort_spec (v : Word) (s : State) (q : Nat) :
    (probePort v s q).time = s.time ∧ (probePort v s q).host = s.host ∧ (probePort v s q).fab.port = s.fab.port ∧
      (probePort v s q).fab.silenced = s.fab.silenced ∧
      ∀ p, (probePort v s q).sent.any (isProbe (wBits v 15 0) p) = (s.sent.any (isProbe (wBits v 15 0) p) ||
        (p == q && !s.fab.silenced && wBit v (16 + q) && (getNat s.fab.port q).link)) := by
  unfold probePort
  split
  next hsel =>
    simp only [Bool.and_eq_true] at hsel
    unfold sendFab emitFab
    split
    next hsil =>
      have hs : s.fab.silenced = true := by simpa using hsil
      exact ⟨rfl, rfl, rfl, rfl, fun p => by rw [hs]; simp⟩
    next hsil =>
      have hs : s.fab.silenced = false := by simpa using hsil
      refine ⟨rfl, rfl, rfl, rfl, fun p => ?_⟩
      rw [isProbe_any_put, hs, hsel.1, hsel.2]
      simp only [isProbe, beq_self_eq_true, Bool.true_and, Bool.and_true, Bool.not_false]
      congr 1
      rw [Bool.eq_iff_iff, beq_iff_eq, beq_iff_eq, Nat.pow_right_inj (le_refl 2)]
      exact eq_comm
  next hsel =>
    refine ⟨rfl, rfl, rfl, rfl, fun p => ?_⟩
    rw [Bool.and_assoc, Bool.eq_false_of_not_eq_true hsel, Bool.and_false, Bool.or_false]

/-- The ports by which the probes of one write leave. -/
theorem probeWrite_spec {v : Word} (hv : wBit v 31 = true) (s : State) :
    (probeWrite v s).time = s.time ∧ (probeWrite v s).host = s.host ∧
      ∀ p < 3, (probeWrite v s).sent.any (isProbe (wBits v 15 0) p) = (s.sent.any (isProbe (wBits v 15 0) p) ||
        (!s.fab.silenced && wBit v (16 + p) && (getNat s.fab.port p).link)) := by
  rw [probeWrite_go hv]
  obtain ⟨ht0, hh0, hp0, hs0, ha0⟩ := probePort_spec v s 0
  obtain ⟨ht1, hh1, hp1, hs1, ha1⟩ := probePort_spec v (probePort v s 0) 1
  obtain ⟨ht2, hh2, -, -, ha2⟩ := probePort_spec v (probePort v (probePort v s 0) 1) 2
  refine ⟨ht2.trans (ht1.trans ht0), hh2.trans (hh1.trans hh0), fun p hp => ?_⟩
  rw [ha2, ha1, ha0, hs1, hs0, hp1, hp0]
  interval_cases p <;> simp

theorem probe_not_w1c : w1cTable.findIdx? (fun r => r.1 == 0x6160) = none := rfl

theorem wBit_or_b31_of_lt (v : Word) {k : Nat} (h : k < 31) : wBit (v ||| b31) k = wBit v k := by
  have hb : (2147483648 : Nat).testBit k = false := by
    rw [show (2147483648 : Nat) = 2 ^ 31 from rfl, Nat.testBit_two_pow_of_ne (by omega)]
  simp [wBit, b31, Nat.testBit_or, hb]

theorem wBits_or_b31_low16 (v : Word) : wBits (v ||| b31) 15 0 = v.toNat % 65536 := by
  have h : (b31.toNat) % 2 ^ 16 = 0 := by decide
  rw [wBits_low16, BitVec.toNat_or, show (65536 : Nat) = 2 ^ 16 from rfl, Nat.or_mod_two_pow, h, Nat.or_zero]

end Sys2Proof.Machine

namespace Sys2Proof

open Sys2Proof.Machine

/-- Settles O19: a trigger's arming and firing, a stamp's way into and out of its queue, and the probe of each port. -/
theorem triggersAndStamps : Obligations.TriggersAndStamps := by
  refine ⟨⟨?arm, ?fire, ?fireActivate, ?idle⟩, ?stamp, ?pop, ?probe⟩
  case arm =>
    intro i k v s h hk hoff
    have hv : wBit (keepFresh (0x60CC + 0x10 * k.val) (v ||| 1) (accessed i s)) 0 = true := by
      rw [keepFresh_trigger_arm]
      simp [wBit]
    have hw : blockWrite i none .time (0xCC + 0x10 * k.val)
        (keepFresh (0x60CC + 0x10 * k.val) (v ||| 1) (accessed i s)) (accessed i s) = _ :=
      (timeWrite_trigger k _ _).trans (trigWrite_arm (s := accessed i s) hk hoff hv)
    have hb : blockOf (0x60CC + 0x10 * k.val) = some (.time, 0xCC + 0x10 * k.val) := by
      rw [show 0x60CC + 0x10 * k.val = 0x6000 + (0xCC + 0x10 * k.val) by omega]
      exact blockOf_time (by omega)
    refine writes_of_may h (by omega) hb hw (accessed_outstanding h.1) ?_
    have hset : ∀ (t : Trig) (j : Fin 4), (s.time.trg.set k t)[j] = if k = j then t else s.time.trg[j] := fun t j => by
      simp [Vector.getElem_set, Fin.ext_iff]
    refine ⟨?_, ?_, ?_, fun j hj => ?_, rfl, rfl⟩
    · exact (congrArg Trig.arm ((hset _ k).trans (if_pos rfl))).trans rfl
    · exact (congrArg Trig.target ((hset _ k).trans (if_pos rfl))).trans rfl
    · exact (congrArg Trig.armedNow ((hset _ k).trans (if_pos rfl))).trans rfl
    · exact (hset _ j).trans (if_neg (Ne.symm hj))
  case fire =>
    intro k s hawake htick harm hnow hdue hk x
    refine ⟨_, execTriggerFire_of_due hawake htick harm hnow hdue, ?_⟩
    rw [if_neg hk]
    exact fireTrig_eq k (fresh s)
  case fireActivate =>
    intro s hawake htick harm hnow hdue hjob
    refine ⟨_, execTriggerFire_of_due hawake htick harm hnow hdue, ?_⟩
    have hjob' : runningOf 0x12 (fireTrig 3 (fresh s)) = [] := hjob
    have htrg : (fireTrig 3 (fresh s)).time.trg[(3 : Fin 4)] = s.time.trg[(3 : Fin 4)].firedAt s.time.beat := by
      rw [fireTrig_eq]
      simp
    rw [if_pos rfl, judgeActivate_of_no_job hjob']
    exact ⟨congrArg Trig.fired htrg, congrArg Trig.arm htrg, congrArg Trig.late htrg, rfl, rfl⟩
  case idle =>
    intro k s h
    exact execTriggerFire_of_idle h
  case stamp =>
    intro p id ns s hawake q x
    have hexec : exec (.txTimestamp p id ns) s = .next (modTsq p (·.add x)
        (setAgainIf (decide (8 ≤ q.items.length)) (0x6100 + 32 * p.val) (2 ^ 8) (fresh s))) :=
      congrArg Host.Outcome.next (if_pos hawake)
    refine ⟨fun hroom => ?_, fun hfull => ⟨_, hexec, ?_⟩⟩
    · rw [hexec, decide_eq_false (Nat.not_le.mpr hroom), modTsq_eq]
      simp only [setAgainIf, Bool.false_eq_true, if_false]
      rw [Tsq.add_of_room (by exact hroom)]
      rfl
    · rw [decide_eq_true hfull, modTsq_eq]
      simp only [setAgainIf, if_true, setAgain_time, fresh_time]
      rw [Tsq.add_of_full hfull]
      rfl
  case pop =>
    intro i p v s h q
    exact ⟨fun x r hq hid => does_tsqPop h (Tsq.popId_oldest hq hid), fun hmiss => does_tsqPop h (Tsq.popId_miss hmiss)⟩
  case probe =>
    intro i v s h
    obtain ⟨htime, hhost, hany⟩ := probeWrite_spec (wBit_or_b31 v) (accessed i s)
    have hw : timeWrite 0x160 (v ||| b31) (accessed i s) = (.ok, probeWrite (v ||| b31) (accessed i s)) := rfl
    refine writeCmd_time h (o := 0x160) rfl (by decide) (by decide) probe_not_w1c hw hhost ⟨?_, fun p hp => ?_⟩
    · rw [put_time, htime]
      rfl
    · have hleft : (put (.rsp (directRsp i 4 .ok 0x6160 [])) (probeWrite (v ||| b31) (accessed i s))).sent.any
          (isProbe (v.toNat % 65536) p) =
          (!s.fab.silenced && wBit v (16 + p) && (getNat s.fab.port p).link) := by
        rw [isProbe_any_put, ← wBits_or_b31_low16, hany p hp, wBit_or_b31_of_lt v (by omega)]
        simp [isProbe, accessed]
      intro left
      have hl : left = (!s.fab.silenced && wBit v (16 + p) && (getNat s.fab.port p).link) := hleft
      rw [hl]
      exact ⟨fun hdown => by rw [hdown, Bool.and_false], fun hsil => by rw [hsil]; simp⟩

end Sys2Proof
end

section
/-! SUPPORT AND PROOFS. The ends of spectrum windows and of bursts (06 R147 to R156, R159): what a position's turn in a
fold over the positions changes, and the results that a window leaves. -/

namespace Sys2Proof.Machine

/-! ### Folds over the positions -/

/-- A fold over positions whose turn at p moves what g shows of p alone, with all turns related by K: what it leaves of p is
what p's own turn made of it, in a state in which g shows the same of p as at the start. -/
theorem foldl_range_at {α : Type} {K : State → State → Prop} (hrefl : ∀ s, K s s)
    (htrans : ∀ {s t u}, K s t → K t u → K s u) {g : State → Nat → α} {f : State → Nat → State} (hK : ∀ s p, K s (f s p))
    (hother : ∀ s p q, q ≠ p → g (f s p) q = g s q) (n : Nat) (s : State) :
    K s ((List.range n).foldl f s) ∧ (∀ q, n ≤ q → g ((List.range n).foldl f s) q = g s q) ∧
      ∀ p < n, ∃ u, K s u ∧ g u p = g s p ∧ g ((List.range n).foldl f s) p = g (f u p) p := by
  induction n with
  | zero => exact ⟨hrefl s, fun q _ => rfl, fun p hp => absurd hp (Nat.not_lt_zero p)⟩
  | succ n ih =>
    obtain ⟨hkept, hrest, hat⟩ := ih
    rw [List.range_succ, List.foldl_append, List.foldl_cons, List.foldl_nil]
    refine ⟨htrans hkept (hK _ n), fun q hq => ?_, fun p hp => ?_⟩
    · rw [hother _ _ _ (by omega), hrest q (by omega)]
    · rcases Nat.lt_succ_iff_lt_or_eq.mp hp with hlt | rfl
      · obtain ⟨u, hu, hup, hfold⟩ := hat p hlt
        exact ⟨u, hu, hup, (hother _ _ _ (by omega)).trans hfold⟩
      · exact ⟨_, hkept, hrest p (le_refl p), rfl⟩

/-! ### One position's spectroscopy state -/

@[simp] theorem modSpec_length (p : Nat) (f : PosSpec → PosSpec) (s : State) :
    (modSpec p f s).spec.pos.length = s.spec.pos.length := List.length_modify ..

theorem specAt_modSpec_self {p : Nat} {s : State} (h : p < s.spec.pos.length) (f : PosSpec → PosSpec) :
    specAt (modSpec p f s) p = f (specAt s p) := by
  simp [specAt, modSpec, updL, h]

theorem specAt_modSpec_other {p q : Nat} (h : q ≠ p) (f : PosSpec → PosSpec) (s : State) :
    specAt (modSpec p f s) q = specAt s q := by
  simp [specAt, modSpec, updL, Ne.symm h]

/-- The results that a position holds of each source. -/
def PosSpec.results (x : PosSpec) : List SpecAcc × List SpecAcc × List ChimeEst × List LockinEst :=
  (x.amb, x.req, x.chime, x.lockin)

theorem results_modSpec {p : Nat} {f : PosSpec → PosSpec} (hf : ∀ x, (f x).results = x.results) (s : State) (q : Nat) :
    (specAt (modSpec p f s) q).results = (specAt s q).results := by
  by_cases hq : q = p
  · subst hq
    by_cases hlt : q < s.spec.pos.length
    · rw [specAt_modSpec_self hlt, hf]
    · have hge : s.spec.pos.length ≤ q := Nat.le_of_not_lt hlt
      simp [specAt, modSpec, updL, hge]
  · rw [specAt_modSpec_other hq]

/-! ### What the works on spectra leave alone -/

/-- The time, the calibre, STATE, the safety functions, the measurements, the dwells and the number of positions: what the
works of the spectroscopy's items read and leave. -/
structure SpecKept (s t : State) : Prop where
  time : t.time = s.time
  cal : t.cal = s.cal
  st : t.st = s.st
  saf : t.saf = s.saf
  meas : t.meas = s.meas
  dwell : t.spec.dwell = s.spec.dwell
  dwellOld : t.spec.dwellOld = s.spec.dwellOld
  size : t.spec.pos.length = s.spec.pos.length

theorem SpecKept.refl (s : State) : SpecKept s s := ⟨rfl, rfl, rfl, rfl, rfl, rfl, rfl, rfl⟩

theorem SpecKept.trans {s t u : State} (h : SpecKept s t) (h' : SpecKept t u) : SpecKept s u :=
  ⟨h'.time.trans h.time, h'.cal.trans h.cal, h'.st.trans h.st, h'.saf.trans h.saf, h'.meas.trans h.meas,
    h'.dwell.trans h.dwell, h'.dwellOld.trans h.dwellOld, h'.size.trans h.size⟩

theorem SpecKept.modSpec (p : Nat) (f : PosSpec → PosSpec) (s : State) : SpecKept s (modSpec p f s) :=
  ⟨rfl, rfl, rfl, rfl, rfl, rfl, rfl, modSpec_length ..⟩

theorem workStopped_congr {s t : State} (htime : t.time = s.time) (hcal : t.cal = s.cal) (w : Work) (p : Nat) :
    workStopped w p t = workStopped w p s := by
  simp only [workStopped, itemAt, htime, hcal]

theorem specCfg_congr {s t : State} (h : t.cal = s.cal) : specCfg t = specCfg s := by
  simp only [specCfg, h]

theorem takeWindow_congr {s t : State} (h : t.cal = s.cal) : takeWindow t = takeWindow s := by
  have hfloor : iFloor t = iFloor s := by rw [iFloor, iFloor, h]
  funext k l xs ok xi reqd a r
  rw [takeWindow, takeWindow, specCfg_congr h, hfloor]

theorem inDwell_congr {s t : State} (h : t.spec.dwell = s.spec.dwell) (h' : t.spec.dwellOld = s.spec.dwellOld) :
    inDwell t = inDwell s := by
  funext k first last
  rw [inDwell, inDwell, h, h']

/-! ### A position at the end of a window (R148 to R151, R159, R170) -/

/-- What the window of bin k makes of the accumulators of position p, with n as the number of its first free value. -/
def windowTaken (s : State) (k p : Nat) (l : List BeatRec) (xi : Cx) (n : Nat) : SpecAcc × SpecAcc × Bool × Bool :=
  takeWindow s k l (interpolate n ((posSeries p l).map (fun x => (x.1, x.2 == .valid))))
    (windowOk ((posSeries p l).map (·.2)) (l.any (fun r => r.ic.any (fun x => x.1 == p))) l) xi
    (inDwell s k (((l.head?).map (·.beat)).getD 0) (((l.getLast?).map (·.beat)).getD 0))
    (((specAt s p).amb[k]?).getD default) (((specAt s p).req[k]?).getD default)

theorem windowTaken_congr {s t : State} (h : SpecKept s t) {p : Nat} (hp : specAt t p = specAt s p) (k : Nat)
    (l : List BeatRec) (xi : Cx) (n : Nat) : windowTaken t k p l xi n = windowTaken s k p l xi n := by
  obtain ⟨-, hcal, -, -, -, hdwell, hold, -⟩ := h
  rw [windowTaken, windowTaken, takeWindow_congr hcal, inDwell_congr hdwell hold, hp]

/-- A quasi-anchor changes its own position, and none of its results, the filters, and the count of free values. -/
theorem quasiAnchor_cases (p : Nat) (l : List BeatRec) (xs : List Rat) (s : State) :
    quasiAnchor p l xs s = s ∨ ∃ f est n, (∀ x : PosSpec, (f x).results = x.results) ∧
      quasiAnchor p l xs s = tookFree n { modSpec p f s with est := est } := by
  unfold quasiAnchor
  dsimp only
  split
  · split
    · refine .inr ⟨_, _, _, ?_, rfl⟩
      exact fun _ => rfl
    · exact .inl rfl
  · exact .inl rfl

/-- A change of position p that leaves the results of every position alone. -/
structure LeavesResults (p : Nat) (s t : State) : Prop where
  kept : SpecKept s t
  others : ∀ q ≠ p, specAt t q = specAt s q
  results : ∀ q, (specAt t q).results = (specAt s q).results

theorem LeavesResults.refl (p : Nat) (s : State) : LeavesResults p s s := ⟨.refl s, fun _ _ => rfl, fun _ => rfl⟩

theorem LeavesResults.trans {p : Nat} {s t u : State} (h : LeavesResults p s t) (h' : LeavesResults p t u) :
    LeavesResults p s u :=
  ⟨h.kept.trans h'.kept, fun q hq => (h'.others q hq).trans (h.others q hq), fun q => (h'.results q).trans (h.results q)⟩

theorem LeavesResults.modSpec {f : PosSpec → PosSpec} (hf : ∀ x, (f x).results = x.results) (p : Nat) (s : State) :
    LeavesResults p s (modSpec p f s) :=
  ⟨.modSpec p f s, fun _ hq => specAt_modSpec_other hq f s, results_modSpec hf s⟩

theorem quasiAnchor_leaves (p : Nat) (l : List BeatRec) (xs : List Rat) (s : State) :
    LeavesResults p s (quasiAnchor p l xs s) := by
  obtain h | ⟨f, est, n, hf, h⟩ := quasiAnchor_cases p l xs s
  · rw [h]
    exact .refl p s
  · rw [h]
    exact ⟨⟨rfl, rfl, rfl, rfl, rfl, rfl, rfl, modSpec_length p f s⟩, fun q hq => specAt_modSpec_other hq f s,
      results_modSpec hf s⟩

/-- The accumulators of a position with those that a window left. -/
def PosSpec.taking (k : Nat) (r : SpecAcc × SpecAcc × Bool × Bool) (x : PosSpec) : PosSpec :=
  { x with amb := x.amb.set k r.1, req := x.req.set k r.2.1 }

/-- A change of position p that leaves of its results what a window of bin k left. -/
structure TakesWindow (k p : Nat) (r : SpecAcc × SpecAcc × Bool × Bool) (s t : State) : Prop where
  kept : SpecKept s t
  others : ∀ q ≠ p, specAt t q = specAt s q
  own : p < s.spec.pos.length → (specAt t p).results = ((specAt s p).taking k r).results

theorem TakesWindow.then {k p : Nat} {r : SpecAcc × SpecAcc × Bool × Bool} {s t u : State} (h : TakesWindow k p r s t)
    (h' : LeavesResults p t u) : TakesWindow k p r s u :=
  ⟨h.kept.trans h'.kept, fun q hq => (h'.others q hq).trans (h.others q hq), fun hp => (h'.results p).trans (h.own hp)⟩

theorem takesWindow_modSpec (k p n : Nat) (r : SpecAcc × SpecAcc × Bool × Bool) (s : State) :
    TakesWindow k p r s (modSpec p (PosSpec.taking k r) (tookFree n s)) :=
  ⟨⟨rfl, rfl, rfl, rfl, rfl, rfl, rfl, modSpec_length p _ s⟩, fun _ hq => specAt_modSpec_other hq _ (tookFree n s),
    fun hp => congrArg _ (specAt_modSpec_self (s := tookFree n s) hp _)⟩

/-- REQ_HONOURED where a window was taken as a requested one (R159). -/
def honour (on : Bool) (s : State) : State := if on then { s with spec := { s.spec with reqHonoured := true } } else s

theorem honour_leaves (p : Nat) (on : Bool) (s : State) : LeavesResults p s (honour on s) := by
  unfold honour
  split
  · exact ⟨⟨rfl, rfl, rfl, rfl, rfl, rfl, rfl, rfl⟩, fun _ _ => rfl, fun _ => rfl⟩
  · exact .refl p s

/-- What an end of a window of bin 0 makes of a position besides its accumulators (R170). -/
def anchorTurn (p : Nat) (l : List BeatRec) (xs : List Rat) (accepted : Bool) (s : State) : State :=
  modSpec p (fun x => { x with prevMean := some (windowMean l) }) (if accepted then quasiAnchor p l xs s else s)

theorem anchorTurn_leaves (p : Nat) (l : List BeatRec) (xs : List Rat) (accepted : Bool) (s : State) :
    LeavesResults p s (anchorTurn p l xs accepted s) := by
  unfold anchorTurn
  split
  · exact (quasiAnchor_leaves p l xs s).trans (.modSpec (by intro x; rfl) p _)
  · exact .modSpec (by intro x; rfl) p s

/-- The end of a window touches its position alone, and of its results the accumulators of its bin alone. -/
theorem windowPos_takes (k p : Nat) (l : List BeatRec) (xi : Cx) (s : State) :
    TakesWindow k p (windowTaken s k p l xi s.freeCtr) s (windowPos k p l xi s) := by
  have hpos : windowPos k p l xi s =
      let r := windowTaken s k p l xi s.freeCtr
      let y := honour r.2.2.2 (modSpec p (PosSpec.taking k r) (tookFree l.length s))
      if k = 0 then anchorTurn p l (interpolate s.freeCtr ((posSeries p l).map (fun x => (x.1, x.2 == .valid)))) r.2.2.1 y
      else y := rfl
  have htaken := (takesWindow_modSpec k p l.length (windowTaken s k p l xi s.freeCtr) s).then 
    (honour_leaves p (windowTaken s k p l xi s.freeCtr).2.2.2 _)
  rw [hpos]
  dsimp only
  split
  · exact htaken.then (anchorTurn_leaves ..)
  · exact htaken

/-- A position's turn at the end of a window: none where the engine item that carries it was stopped (02 R40). -/
def windowTurn (k : Nat) (l : List BeatRec) (xi : Cx) (s : State) (p : Nat) : State :=
  if workStopped .window p s then s else windowPos k p l xi s

theorem windowTurn_kept (k : Nat) (l : List BeatRec) (xi : Cx) (s : State) (p : Nat) :
    SpecKept s (windowTurn k l xi s p) := by
  unfold windowTurn
  split
  · exact .refl s
  · exact (windowPos_takes k p l xi s).kept

theorem windowTurn_other (k : Nat) (l : List BeatRec) (xi : Cx) (s : State) (p q : Nat) (h : q ≠ p) :
    specAt (windowTurn k l xi s p) q = specAt s q := by
  unfold windowTurn
  split
  · rfl
  · exact (windowPos_takes k p l xi s).others q h

/-- What the end of a window leaves of one position. -/
structure WindowLeft (k p : Nat) (l : List BeatRec) (xi : Cx) (s t : State) : Prop where
  stopped : workStopped .window p s = true → specAt t p = specAt s p
  taken : workStopped .window p s = false →
    ∃ n, (specAt t p).results = ((specAt s p).taking k (windowTaken s k p l xi n)).results

theorem foldl_windowTurn (k : Nat) (l : List BeatRec) (xi : Cx) (s : State) :
    SpecKept s ((List.range s.spec.pos.length).foldl (windowTurn k l xi) s) ∧
      ∀ p < s.spec.pos.length, WindowLeft k p l xi s ((List.range s.spec.pos.length).foldl (windowTurn k l xi) s) := by
  obtain ⟨hkept, -, hat⟩ := foldl_range_at SpecKept.refl SpecKept.trans (windowTurn_kept k l xi) (windowTurn_other k l xi)
    s.spec.pos.length s
  refine ⟨hkept, fun p hp => ?_⟩
  obtain ⟨u, hu, hup, hfold⟩ := hat p hp
  have hstop : workStopped .window p u = workStopped .window p s := workStopped_congr hu.time hu.cal _ p
  refine ⟨fun h => ?_, fun h => ⟨u.freeCtr, ?_⟩⟩
  · have hturn : windowTurn k l xi u p = u := if_pos (hstop.trans h)
    rw [hfold, hturn, hup]
  · have hturn : windowTurn k l xi u p = windowPos k p l xi u := if_neg (by rw [hstop, h]; decide)
    rw [hfold, hturn, (windowPos_takes k p l xi u).own (hu.size.symm ▸ hp), hup, windowTaken_congr hu hup]

/-- The string's own window touches no position. -/
theorem windowStr_kept (k : Nat) (l : List BeatRec) (xi : Cx) (s : State) :
    SpecKept s (windowStr k l xi s) ∧ (windowStr k l xi s).spec.pos = s.spec.pos :=
  ⟨⟨rfl, rfl, rfl, rfl, rfl, rfl, rfl, rfl⟩, rfl⟩

/-! ### WINDOW_END and BURST_END -/

/-- A window of bin k ends with the beat before (R148). -/
def windowEnds (k : Fin 31) (s : State) : Bool :=
  awake s && s.st.mode.fromArmed && decide (s.time.beat % winHop k.val = 0) && decide (winLen k.val ≤ s.time.beat)

/-- The window of bin k taken from its beats. -/
def windowEnded (k : Fin 31) (l : List BeatRec) (s : State) : State :=
  let x := windowStr k.val l (transform k.val (currents l)) (takeTurn (.window k.val) (fresh s))
  (List.range x.spec.pos.length).foldl (windowTurn k.val l (transform k.val (currents l))) x

theorem execWindowEnd_eq (k : Fin 31) (s : State) : execWindowEnd k s =
    if windowEnds k s && mayAct (.window k.val) 330 s then
      match windowOf s (s.time.beat - winLen k.val) (winLen k.val) with
      | some l => .next (windowEnded k l s)
      | none => .next (fresh s)
    else .next (fresh s) := rfl

theorem windowEnded_kept (k : Fin 31) (l : List BeatRec) (s : State) :
    SpecKept (takeTurn (.window k.val) (fresh s)) (windowEnded k l s) :=
  (windowStr_kept ..).1.trans (foldl_windowTurn ..).1

theorem windowEnded_left (k : Fin 31) (l : List BeatRec) (s : State) {p : Nat} (hp : p < s.spec.pos.length) :
    WindowLeft k.val p l (transform k.val (currents l)) s (windowEnded k l s) := by
  obtain ⟨hstopped, htaken⟩ := (foldl_windowTurn k.val l (transform k.val (currents l))
    (windowStr k.val l (transform k.val (currents l)) (takeTurn (.window k.val) (fresh s)))).2 p hp
  exact ⟨hstopped, htaken⟩

theorem hadTurn_takeTurn (x : Turn) (s : State) : hadTurn x (takeTurn x s) = true := by
  simp [hadTurn]

/-- The burst of a position that has ended before this beat. -/
def endedBurst (p : Nat) (s : State) : Option Burst :=
  s.spec.bursts.find? (fun b => b.pos == p && decide (b.stop < s.time.beat))

/-- Every sample of a burst's beats was VALID (R156). -/
def burstSound (p : Nat) (l : List BeatRec) : Bool :=
  (posSeries p l).all (fun x => x.2 == .valid) && l.all (fun r => !r.fe.iBad)

/-- A burst's result joins the newest of its bin (R156). -/
def PosSpec.chimed (b : Burst) (l : List BeatRec) (x : PosSpec) : PosSpec :=
  { x with chime := updL x.chime b.bin (fun c => { results := (burstResult b l :: c.results).take 4, last := some b.stop }) }

theorem chimed_results {b : Burst} {x : PosSpec} (h : b.bin < x.chime.length) (l : List BeatRec) :
    ((x.chimed b l).chime[b.bin]?).map (·.results) =
      some ((burstResult b l :: ((x.chime[b.bin]?).getD default).results).take 4) := by
  simp [PosSpec.chimed, updL, h]

/-- The plan without a burst that has ended. -/
def withoutBurst (b : Burst) (s : State) : State := { s with spec := { s.spec with bursts := s.spec.bursts.erase b } }

theorem execBurstEnd_of_ended {p : Fin 1024} {b : Burst} {s : State} (hawake : awake s = true)
    (hm : s.st.mode.fromArmed = true) (hb : endedBurst p.val s = some b) : execBurstEnd p s =
      match windowOf s b.start (b.stop + 1 - b.start) with
      | some l => if burstSound b.pos l then .next (modSpec b.pos (PosSpec.chimed b l) (withoutBurst b (fresh s)))
                  else .next (withoutBurst b (fresh s))
      | none => .next (withoutBurst b (fresh s)) := by
  have hb' : (fresh s).spec.bursts.find? (fun b => b.pos == p.val && decide (b.stop < (fresh s).time.beat)) = some b := hb
  have hgo : (awake (fresh s) && (fresh s).st.mode.fromArmed) = true := by
    rw [awake_fresh, hawake, Bool.true_and]
    exact hm
  unfold execBurstEnd
  simp only [hb', hgo, if_true]
  rfl

theorem endedBurst_pos {p : Nat} {b : Burst} {s : State} (h : endedBurst p s = some b) : b.pos = p := by
  have hp := List.find?_some h
  simp only [Bool.and_eq_true, beq_iff_eq] at hp
  exact hp.1

end Sys2Proof.Machine

namespace Sys2Proof

open Sys2Proof.Machine

/-- Settles O30: a window by what it leaves of each position, and a burst by the soundness of its beats. -/
theorem spectrumWindows : Obligations.SpectrumWindows := by
  intro s hawake hm
  refine ⟨fun k hhop hlen htick => ?window, fun p b hb => ?burst⟩
  case window =>
    have hends : windowEnds k s = true := by
      simp [windowEnds, hawake, hm, hhop, hlen]
    refine ⟨fun hno => ?_, fun l hturn hwin => ?_⟩
    · change execWindowEnd k s = _
      rw [execWindowEnd_eq]
      rcases hno with hturn | hwin
      · have hnot : mayAct (.window k.val) 330 s = false := by simp [mayAct, hturn]
        rw [hnot, Bool.and_false]
        rfl
      · rw [hwin]
        split <;> rfl
    · have hexec : exec (.windowEnd k) s = .next (windowEnded k l s) := by
        change execWindowEnd k s = _
        rw [execWindowEnd_eq, hends, (mayAct_iff ..).mpr ⟨htick, hturn⟩, hwin]
        rfl
      obtain ⟨htime, -, hst, hsaf, hmeas, -, -, hsize⟩ := windowEnded_kept k l s
      refine ⟨_, hexec, hsize, ?_, hst, hsaf, hmeas, fun p hp => ?_⟩
      · rw [hadTurn, htime]
        exact hadTurn_takeTurn ..
      · obtain ⟨hstopped, htaken⟩ := windowEnded_left k l s hp
        cases hw : workStopped .window p s
        · obtain ⟨n, hres⟩ := htaken hw
          simp only [PosSpec.results, PosSpec.taking, Prod.mk.injEq] at hres
          obtain ⟨hamb, hreq, hchime, hlock⟩ := hres
          refine ⟨fun h => Bool.noConfusion h, fun j hj => ⟨?_, ?_⟩, hchime, hlock, fun _ => ⟨n, fun hk => ?_, fun hk => ?_⟩⟩
          · rw [hamb, List.getElem?_set_ne (Ne.symm hj)]
          · rw [hreq, List.getElem?_set_ne (Ne.symm hj)]
          · rw [hamb, List.getElem?_set_self hk]
            rfl
          · rw [hreq, List.getElem?_set_self hk]
            rfl
        · have hsame := hstopped hw
          refine ⟨fun _ => hsame, fun j _ => ?_, ?_, ?_, fun h => Bool.noConfusion h⟩
          · rw [hsame]
            exact ⟨rfl, rfl⟩
          · rw [hsame]
          · rw [hsame]
  case burst =>
    have hpos : b.pos = p.val := endedBurst_pos hb
    have hexec := execBurstEnd_of_ended hawake hm hb
    rw [hpos] at hexec
    cases hwin : windowOf s b.start (b.stop + 1 - b.start) with
    | none =>
      rw [hwin] at hexec
      exact ⟨_, hexec, rfl, rfl, rfl, fun _ => rfl, fun l hl => nomatch hl⟩
    | some l =>
      rw [hwin] at hexec
      cases hsound : burstSound p.val l
      · refine ⟨_, hexec.trans (if_neg (by rw [hsound]; decide)), rfl, rfl, rfl, (fun h => nomatch h),
          fun l' hl => ?_⟩
        obtain rfl := Option.some.inj hl
        have hno : ¬ burstSound p.val l = true := by rw [hsound]; decide
        split
        next hyes => exact absurd hyes hno
        · rfl
      · refine ⟨_, hexec.trans (if_pos hsound), rfl, rfl, rfl, (fun h => nomatch h), fun l' hl => ?_⟩
        obtain rfl := Option.some.inj hl
        split
        · intro hp hbin
          rw [specAt_modSpec_self (s := withoutBurst b (fresh s)) hp]
          exact chimed_results hbin l
        next hno => exact absurd hsound hno

end Sys2Proof
end

section
/-! SUPPORT AND PROOFS. The stimulus plan (06 R153 to R159, R172), spectrum captures and derived quantities (06 R160 to
R166). -/

namespace Sys2Proof.Machine

/-! ### Multiples and greatest values -/

theorem le_upTo {m : Nat} (hm : 0 < m) (n : Nat) : n ≤ upTo m n := by
  have h := Nat.div_add_mod (n + m - 1) m
  have hlt := Nat.mod_lt (n + m - 1) hm
  have hcomm : m * ((n + m - 1) / m) = upTo m n := Nat.mul_comm ..
  omega

theorem upTo_mod (m n : Nat) : upTo m n % m = 0 := Nat.mul_mod_left ..

theorem le_foldl_max (l : List Nat) (b : Nat) : b ≤ l.foldl max b := by
  induction l generalizing b with
  | nil => exact le_refl b
  | cons x r ih => exact (Nat.le_max_left b x).trans (ih (max b x))

theorem le_foldl_max_of_mem {l : List Nat} {x : Nat} (h : x ∈ l) (b : Nat) : x ≤ l.foldl max b := by
  induction l generalizing b with
  | nil => exact absurd h List.not_mem_nil
  | cons y r ih =>
    rcases List.mem_cons.mp h with rfl | hr
    · exact (Nat.le_max_right b x).trans (le_foldl_max r _)
    · exact ih hr _

/-! ### Chime rounds (R153 to R155) -/

/-- The beat at which the next round's bursts start, by the plan of log 19. -/
def roundBeat (s : State) : Nat := upTo 100 (max s.spec.nextRound (s.time.beat + 50))

theorem beat_lt_roundBeat (s : State) : s.time.beat < roundBeat s := by
  have h := le_upTo (m := 100) (by decide) (max s.spec.nextRound (s.time.beat + 50))
  have hmax := Nat.le_max_right s.spec.nextRound (s.time.beat + 50)
  simp only [roundBeat]
  omega

/-- The bursts of the next round, and the last beat of any of them. -/
def nextBursts (s : State) : List Burst := roundBursts s s.spec.round (roundBeat s)

/-- The last beat of the next round. -/
def roundStop (s : State) : Nat := ((nextBursts s).map (·.stop)).foldl max (roundBeat s)

theorem execChimeRoundStart_of_due {s : State} (hplan : plansStim s = true) (hsend : s.spec.toSend = [])
    (hdue : s.spec.nextRound ≤ s.time.beat + 100) : execChimeRoundStart s =
      if (nextBursts s).isEmpty then
        .next { fresh s with spec := { s.spec with round := s.spec.round + 1, nextRound := roundBeat s + 100 } }
      else if campaignMeets s (roundBeat s) (roundStop s) then
        .next { fresh s with spec := { s.spec with nextRound := roundBeat s + 100 } }
      else .next { fresh s with spec := { s.spec with
        round := s.spec.round + 1, toSend := nextBursts s, nextRound := upTo 100 (roundStop s + 100) } } := by
  have hgo : (plansStim (fresh s) && (fresh s).spec.toSend.isEmpty &&
      decide ((fresh s).spec.nextRound ≤ (fresh s).time.beat + 100)) = true := by
    have hp : plansStim (fresh s) = true := hplan
    rw [hp, fresh_spec, hsend, fresh_time, decide_eq_true hdue]
    rfl
  exact if_pos hgo

/-! ### Lock-in campaigns (R157, R158) -/

/-- The first beat after everything that a campaign of parity par waits for. -/
def campaignBusy (s : State) : Nat :=
  ((s.spec.bursts ++ s.spec.toSend).map (fun (b : Burst) => b.stop + 1) ++ s.spec.running.map (fun x => x.2.2)).foldl max 0

theorem running_le_campaignBusy {s : State} {x : Nat × Nat × Nat} (h : x ∈ s.spec.running) :
    x.2.2 ≤ campaignBusy s := by
  have hmem : x.2.2 ∈ s.spec.running.map (fun x => x.2.2) := List.mem_map.mpr ⟨x, h, rfl⟩
  exact le_foldl_max_of_mem (List.mem_append_right _ hmem) 0

/-- The beat at which a campaign planned for beat c0 starts. -/
def campaignBeat (s : State) (c0 : Nat) : Nat := upTo 1000 (max (max c0 (campaignBusy s)) (s.time.beat + 1))

theorem le_campaignBeat (s : State) (c0 : Nat) :
    c0 ≤ campaignBeat s c0 ∧ campaignBusy s ≤ campaignBeat s c0 ∧ s.time.beat < campaignBeat s c0 := by
  have h : max (max c0 (campaignBusy s)) (s.time.beat + 1) ≤ campaignBeat s c0 := le_upTo (by decide) _
  omega

/-- A campaign fixed with the commands of its parity, behind those that run. -/
def withCampaign (par c0 : Nat) (r : List (Nat × Nat)) (s : State) : State :=
  let c := campaignBeat s c0
  { fresh s with spec := { s.spec with
      campaigns := r, running := s.spec.running ++ [(par, c, c + 1000 * popCount 40 (specCfg s).lockinBins)]
      lockToSend := s.spec.lockToSend ++ lockRuns s par c } }

theorem execLockinCampaignStart_of_due {s : State} {par c0 : Nat} {r : List (Nat × Nat)} (hplan : plansStim s = true)
    (hcamp : s.spec.campaigns = (par, c0) :: r) (hrun : s.spec.running.length ≤ 1) (hdue : c0 ≤ s.time.beat + 100)
    (hage : 10 ≤ ageMax s) : execLockinCampaignStart s = .next (withCampaign par c0 r s) := by
  have hgo : (plansStim (fresh s) && decide (s.spec.running.length ≤ 1) && decide (c0 ≤ (fresh s).time.beat + 100) &&
      decide (10 ≤ ageMax (fresh s))) = true := by
    have hp : plansStim (fresh s) = true := hplan
    have ha : 10 ≤ ageMax (fresh s) := hage
    rw [hp, decide_eq_true hrun, fresh_time, decide_eq_true hdue, decide_eq_true ha]
    rfl
  unfold execLockinCampaignStart
  dsimp only
  rw [fresh_spec, hcamp]
  exact if_pos hgo

theorem execLockinCampaignEnd_of_ended {s : State} {x y c1 : Nat} {r : List (Nat × Nat × Nat)} (hawake : awake s = true)
    (hrun : s.spec.running = (x, y, c1) :: r) (hend : c1 ≤ s.time.beat) : execLockinCampaignEnd s =
      .next { fresh s with spec := { s.spec with
        running := r
        lockToSend := s.spec.lockToSend.filter (fun r => decide (s.time.beat < r.stop))
        locks := s.spec.locks.filter (fun r => decide (s.time.beat < r.stop)) } } := by
  have hgo : (awake (fresh s) && decide (c1 ≤ (fresh s).time.beat)) = true := by
    rw [awake_fresh, hawake, fresh_time, decide_eq_true hend]
    rfl
  unfold execLockinCampaignEnd
  dsimp only
  rw [fresh_spec, hrun]
  exact if_pos hgo

/-! ### The stimulus request (R159) -/

theorem execRequestDwellStart_of_due {s : State} {k : Nat} (hreq : requests s = true)
    (hbin : nextReqBin (specCfg s).reqBins s.spec.lastBin = some k)
    (hfree : ∀ d, s.spec.dwell = some d → d.stop ≤ s.time.beat) (hhop : s.time.beat % winHop k = 0) :
    execRequestDwellStart s = .next { fresh s with spec := { s.spec with
      dwellOld := s.spec.dwell, lastBin := some k
      dwell := some { bin := k, first := s.time.beat, stop := s.time.beat + 2 * winLen k, ampl := (specCfg s).reqAmpl } } } := by
  have hreq' : requests (fresh s) = true := hreq
  have hbin' : nextReqBin (specCfg (fresh s)).reqBins (fresh s).spec.lastBin = some k := hbin
  have hgo : ((fresh s).spec.dwell.all (fun d => decide (d.stop ≤ (fresh s).time.beat)) &&
      decide ((fresh s).time.beat % winHop k = 0)) = true := by
    rw [fresh_time, decide_eq_true hhop, Bool.and_true, Option.all_eq_true]
    exact fun d hd => decide_eq_true (hfree d hd)
  unfold execRequestDwellStart
  dsimp only
  rw [if_pos hreq', hbin']
  exact if_pos hgo

/-! ### Captures (R160 to R164) -/

/-- A snapshot is due in this beat (R160). -/
theorem execSpectrumCapture_of_due {s : State} (hawake : awake s = true) (hm : s.st.mode.fromArmed = true)
    (hbeat : s.time.beat % snapInterval s = 0) (hturn : mayAct .spectrum 330 s = true) :
    ∃ hdr recs pos camps est, recs.length = s.spec.pos.length ∧ execSpectrumCapture s =
      .next (tookFree 80 { actAt .spectrum 330 (fresh s) with
        est := est
        spec := { s.spec with
          pos := pos, seq := s.spec.seq + 1, reqHonoured := false, campaigns := camps
          slots := s.spec.slots.set ((s.spec.seq + 1) % 16) { seq := s.spec.seq + 1, st := 1, header := hdr, recs := recs } } }) := by
  have hgo : (awake (fresh s) && (fresh s).st.mode.fromArmed &&
      decide ((fresh s).time.beat % snapInterval (fresh s) = 0) && mayAct .spectrum 330 (fresh s)) = true := by
    have hm' : (fresh s).st.mode.fromArmed = true := hm
    have hbeat' : (fresh s).time.beat % snapInterval (fresh s) = 0 := hbeat
    rw [awake_fresh, hawake, hm', decide_eq_true hbeat', mayAct_fresh, hturn]
    rfl
  refine ⟨_, _, _, _, _, ?_, if_pos hgo⟩
  rw [List.length_map, List.length_range]
  rfl

/-- A complete slot's records join a queue of content 4 that takes its SEQ (R164). -/
def offerSlot (x : Slot) (s : State) (q : Nat) : State :=
  if (queueCfg s q).content = 4 ∧ (queueCfg s q).decim ≠ 0 ∧ x.seq % (queueCfg s q).decim = 0 then
    modQueue q (fun u => { u with building := u.building ++ x.recs.mapIdx (fun p r => specItem x.seq p r) }) s
  else s

theorem offerSlot_kept (x : Slot) (s : State) (q : Nat) :
    (offerSlot x s q).spec = s.spec ∧ (offerSlot x s q).st = s.st ∧ (offerSlot x s q).saf = s.saf := by
  unfold offerSlot
  split <;> exact ⟨rfl, rfl, rfl⟩

theorem foldl_offerSlot_kept (x : Slot) (l : List Nat) (s : State) : (l.foldl (offerSlot x) s).spec = s.spec ∧
    (l.foldl (offerSlot x) s).st = s.st ∧ (l.foldl (offerSlot x) s).saf = s.saf := by
  induction l generalizing s with
  | nil => exact ⟨rfl, rfl, rfl⟩
  | cons q r ih =>
    obtain ⟨hspec, hst, hsaf⟩ := ih (offerSlot x s q)
    obtain ⟨hspec', hst', hsaf'⟩ := offerSlot_kept x s q
    exact ⟨hspec.trans hspec', hst.trans hst', hsaf.trans hsaf'⟩

/-- The store with its newest slot complete. -/
def slotCompleted (x : Slot) (s : State) : State :=
  { fresh s with spec := { s.spec with slots := s.spec.slots.set (s.spec.seq % 16) { x with st := 2 } } }

theorem execSlotComplete_of_captured {s : State} {x : Slot} (hawake : awake s = true)
    (hx : s.spec.slots[s.spec.seq % 16]? = some x) (hst : x.st = 1) (hseq : x.seq = s.spec.seq) :
    execSlotComplete s = .next ((List.range 8).foldl (offerSlot x) (slotCompleted x s)) := by
  have hgo : (awake (fresh s) && x.st == 1 && x.seq == (fresh s).spec.seq) = true := by
    rw [awake_fresh, hawake, hst, hseq]
    simp
  unfold execSlotComplete
  dsimp only
  rw [fresh_spec, hx]
  exact if_pos hgo

/-! ### Derived quantities (R165, R166) -/

/-- What the reported bins of a position depend on. -/
theorem binRep_congr {s t : State} (hbeat : t.time.beat = s.time.beat) (hcal : t.cal = s.cal) (hsaf : t.saf = s.saf)
    {p : Nat} (hp : specAt t p = specAt s p) : binRep t p = binRep s p := by
  have hage : ageLimit t = ageLimit s := by
    funext k
    rw [ageLimit, ageLimit, snapInterval, snapInterval, specCfg_congr hcal]
  have hlock : lockCode t = lockCode s := by
    funext k x
    rw [lockCode, lockCode, lockinOn, lockinOn, ageMax, ageMax, snapInterval, snapInterval, specCfg_congr hcal, hsaf, hbeat]
  funext k
  rw [binRep, binRep, hage, hlock, specCfg_congr hcal, hbeat, hp]

theorem kHiOf_congr {s t : State} {p : Nat} (h : binRep t p = binRep s p) : kHiOf t p = kHiOf s p := by
  have hvalid : binValid t p = binValid s p := by
    funext k
    rw [binValid, binValid, h]
  rw [kHiOf, kHiOf, hvalid]

/-- The bins that a position's derived quantities come from, and R_OHM. -/
def PosSpec.bins (x : PosSpec) : Option Nat × Option Nat × Int := (x.kHi, x.kLo, x.rOhm)

theorem learnG_bins (s : State) (p : Nat) (x : PosSpec) : (learnG s p x).bins = x.bins := by
  unfold learnG
  dsimp only
  (repeat' split) <;> rfl

theorem tInt_bins (s : State) (p k : Nat) (x : PosSpec) : (tInt s p k x).bins = x.bins := by
  unfold tInt
  (repeat' split) <;> rfl

theorem plateStep_bins (call : Nat × Rat × Bool) (x : PosSpec) : (plateStep call x).bins = x.bins := by
  unfold plateStep
  dsimp only
  (repeat' split) <;> rfl

theorem parEst_bins (s : State) (p k : Nat) (x : PosSpec) : (parEst s p k x).bins = x.bins := by
  unfold parEst
  dsimp only
  (repeat' split) <;> rfl

/-- K_LO: bin 12 where it is VALID (R165). -/
def kLoOf (s : State) (p : Nat) : Option Nat := if binValid s p 12 then some 12 else none

/-- R_OHM and R_CT from the bins K_HI and K_LO (R165). -/
def resistances (s : State) (p : Nat) (x : PosSpec) : PosSpec :=
  { x with
    kHi := kHiOf s p, kLo := kLoOf s p
    rOhm := match kHiOf s p with
      | some k => ratFree s.freeCtr (reZ s p k)
      | none => x.rOhm
    rCt := match kHiOf s p, kLoOf s p with
      | some h, some l => max 0 (ratFree (s.freeCtr + 1) (reZ s p l - reZ s p h))
      | _, _ => x.rCt }

/-- What the derived update makes of a position at a beat's current (R165 to R168). -/
def derivedOf (i : Int) (s : State) (p : Nat) (x : PosSpec) : PosSpec :=
  let x := tInt s p (s.freeCtr + 2) (learnG s p (resistances s p x))
  plateStep (plateCall s p i x) x

theorem derivedOf_bins (i : Int) (s : State) (p : Nat) (x : PosSpec) :
    (derivedOf i s p x).kHi = kHiOf s p ∧ (derivedOf i s p x).kLo = kLoOf s p ∧
      (kHiOf s p = none → (derivedOf i s p x).rOhm = x.rOhm) := by
  have h : (derivedOf i s p x).bins = (resistances s p x).bins :=
    (plateStep_bins ..).trans ((tInt_bins ..).trans (learnG_bins ..))
  simp only [PosSpec.bins, Prod.mk.injEq] at h
  obtain ⟨hhi, hlo, hohm⟩ := h
  refine ⟨hhi, hlo, fun hnone => ?_⟩
  rw [hohm, resistances, hnone]

/-- A position's turn at the derived update: none where its engine item was stopped (02 R40). -/
def derivedTurn (i : Int) (s : State) (p : Nat) : State :=
  tookFree 4 (if workStopped .derived p s then s else modSpec p (derivedOf i s p) s)

/-- A position's turn at PAR_EST (R169). -/
def parTurn (s : State) (t : State) (p : Nat) : State :=
  if workStopped .derived p s then t else modSpec p (parEst s p (s.freeCtr + p)) t

theorem derivedTurn_kept (i : Int) (s : State) (p : Nat) : SpecKept s (derivedTurn i s p) := by
  unfold derivedTurn
  split
  · exact ⟨rfl, rfl, rfl, rfl, rfl, rfl, rfl, rfl⟩
  · exact ⟨rfl, rfl, rfl, rfl, rfl, rfl, rfl, modSpec_length ..⟩

theorem derivedTurn_other (i : Int) (s : State) (p q : Nat) (h : q ≠ p) :
    specAt (derivedTurn i s p) q = specAt s q := by
  unfold derivedTurn
  split
  · rfl
  · exact specAt_modSpec_other h (derivedOf i s p) s

theorem parTurn_kept (s t : State) (p : Nat) : SpecKept t (parTurn s t p) := by
  unfold parTurn
  split
  · exact .refl t
  · exact .modSpec ..

theorem parTurn_other (s t : State) (p q : Nat) (h : q ≠ p) : specAt (parTurn s t p) q = specAt t q := by
  unfold parTurn
  split
  · rfl
  · exact specAt_modSpec_other h _ t

/-- The current of the beat before, in 10 µA. -/
def lastCurrent (s : State) : Int := ((s.spec.hist.find? (fun r => r.beat + 1 == s.time.beat)).map (·.fe.i)).getD 0

/-- The derived quantities of every position worked out, PAR_EST apart. -/
def derivedAll (s : State) : State := (List.range s.spec.pos.length).foldl (derivedTurn (lastCurrent s)) s

theorem execDerivedUpdate_of_due {s : State} (hawake : awake s = true) (hm : s.st.mode.fromArmed = true)
    (hbeat : s.time.beat % 100 = 1) (hturn : mayAct .derived 330 s = true) : execDerivedUpdate s =
      .next (tookFree s.spec.pos.length ((List.range s.spec.pos.length).foldl
        (parTurn (derivedAll (takeTurn .derived (fresh s)))) (derivedAll (takeTurn .derived (fresh s))))) := by
  have hgo : (awake (fresh s) && (fresh s).st.mode.fromArmed && decide ((fresh s).time.beat % 100 = 1) &&
      mayAct .derived 330 (fresh s)) = true := by
    have hm' : (fresh s).st.mode.fromArmed = true := hm
    rw [awake_fresh, hawake, hm', fresh_time, decide_eq_true hbeat, mayAct_fresh, hturn]
    rfl
  exact if_pos hgo

/-- What the derived update leaves of one position. -/
structure DerivedLeft (p : Nat) (s t : State) : Prop where
  stopped : workStopped .derived p s = true → specAt t p = specAt s p
  kHi : workStopped .derived p s = false → (specAt t p).kHi = kHiOf s p
  kLo : workStopped .derived p s = false → (specAt t p).kLo = kLoOf s p
  rOhm : workStopped .derived p s = false → kHiOf s p = none → (specAt t p).rOhm = (specAt s p).rOhm

theorem derivedAll_left (s : State) :
    SpecKept s (derivedAll s) ∧ ∀ p < s.spec.pos.length, DerivedLeft p s (derivedAll s) := by
  obtain ⟨hkept, -, hat⟩ := foldl_range_at SpecKept.refl SpecKept.trans (derivedTurn_kept (lastCurrent s))
    (derivedTurn_other (lastCurrent s)) s.spec.pos.length s
  refine ⟨hkept, fun p hp => ?_⟩
  obtain ⟨u, hu, hup, hfold⟩ := hat p hp
  have hfold' : specAt (derivedAll s) p = specAt (derivedTurn (lastCurrent s) u p) p := hfold
  have hstop : workStopped .derived p u = workStopped .derived p s := workStopped_congr hu.time hu.cal _ p
  have hrep : binRep u p = binRep s p := binRep_congr (by rw [hu.time]) hu.cal hu.saf hup
  have hhi : kHiOf u p = kHiOf s p := kHiOf_congr hrep
  have hlo : kLoOf u p = kLoOf s p := by rw [kLoOf, kLoOf, binValid, binValid, hrep]
  have hgo : workStopped .derived p s = false →
      specAt (derivedAll s) p = derivedOf (lastCurrent s) u p (specAt s p) := fun h => by
    have hturn : derivedTurn (lastCurrent s) u p = tookFree 4 (modSpec p (derivedOf (lastCurrent s) u p) u) := by
      rw [derivedTurn, hstop, h]
      rfl
    rw [hfold', hturn, ← hup]
    exact specAt_modSpec_self (hu.size.symm ▸ hp) _
  obtain ⟨hkhi, hklo, hohm⟩ := derivedOf_bins (lastCurrent s) u p (specAt s p)
  refine ⟨fun h => ?_, fun h => ?_, fun h => ?_, fun h hnone => ?_⟩
  · have hturn : derivedTurn (lastCurrent s) u p = tookFree 4 u := by
      rw [derivedTurn, hstop, h]
      rfl
    rw [hfold', hturn, ← hup]
    rfl
  · rw [hgo h, hkhi, hhi]
  · rw [hgo h, hklo, hlo]
  · rw [hgo h, hohm (hhi.trans hnone)]

theorem parAll_kept (s : State) (n : Nat) : SpecKept s ((List.range n).foldl (parTurn s) s) :=
  (foldl_range_at SpecKept.refl SpecKept.trans (parTurn_kept s) (parTurn_other s) n s).1

/-- PAR_EST leaves a stopped position alone, and of every position the bins and R_OHM. -/
theorem parAll_left (s : State) {n p : Nat} (hp : p < n) (hsize : p < s.spec.pos.length) :
    (workStopped .derived p s = true → specAt ((List.range n).foldl (parTurn s) s) p = specAt s p) ∧
      (specAt ((List.range n).foldl (parTurn s) s) p).bins = (specAt s p).bins := by
  obtain ⟨-, -, hat⟩ := foldl_range_at SpecKept.refl SpecKept.trans (parTurn_kept s) (parTurn_other s) n s
  obtain ⟨u, hu, hup, hfold⟩ := hat p hp
  rw [hfold, ← hup]
  refine ⟨fun h => ?_, ?_⟩
  · rw [parTurn, if_pos h]
  · unfold parTurn
    split
    · rfl
    · rw [specAt_modSpec_self (hu.size.symm ▸ hsize), parEst_bins]

end Sys2Proof.Machine

namespace Sys2Proof

open Sys2Proof.Machine

/-- Settles O31: each command of the plan by what it fixes, a capture and a complete slot by the slot they write, and the
derived update by what it leaves of each position. The beats in which a round and a campaign are planned, a campaign after
those that run, and a dwell that is kept until its window is judged are the model's choice (log 19). -/
theorem stimulusAndSlots : Obligations.StimulusAndSlots := by
  refine ⟨fun s => ⟨?round, ?campaign, ?campaignEnd, ?dwell⟩, fun s hawake => ⟨?capture, ?complete, ?derived⟩⟩
  case round =>
    intro hplan hsend hdue
    have hexec := execChimeRoundStart_of_due hplan hsend hdue
    have hlt := beat_lt_roundBeat s
    have hstop : roundBeat s ≤ roundStop s := le_foldl_max ..
    cases hl : (nextBursts s).isEmpty
    · have hne : nextBursts s ≠ [] := fun h => by rw [h] at hl; exact absurd hl (by decide)
      cases hmeet : campaignMeets s (roundBeat s) (roundStop s)
      · rw [hl, hmeet] at hexec
        have hup : roundStop s + 100 ≤ upTo 100 (roundStop s + 100) := le_upTo (by decide) _
        refine ⟨_, hexec, ?_, rfl, fun h => absurd h hne, fun _ h => ?_, fun _ _ => ⟨rfl, rfl⟩⟩
        · change s.time.beat < upTo 100 (roundStop s + 100)
          omega
        · exact absurd (hmeet.symm.trans h) (by decide)
      · rw [hl, hmeet] at hexec
        refine ⟨_, hexec, ?_, rfl, fun h => absurd h hne, fun _ _ => ⟨hsend, rfl⟩, fun _ h => ?_⟩
        · change s.time.beat < roundBeat s + 100
          omega
        · exact absurd (hmeet.symm.trans h) (by decide)
    · have hnil : nextBursts s = [] := List.isEmpty_iff.mp hl
      rw [hl] at hexec
      refine ⟨_, hexec, ?_, rfl, fun _ => ⟨hsend, rfl⟩, fun h => absurd hnil h, fun h => absurd hnil h⟩
      change s.time.beat < roundBeat s + 100
      omega
  case campaign =>
    intro par c0 r hplan hcamp hrun hdue hage
    obtain ⟨hc0, hbusy, hbeat⟩ := le_campaignBeat s c0
    exact ⟨_, execLockinCampaignStart_of_due hplan hcamp hrun hdue hage, rfl, campaignBeat s c0, hc0, hbeat, upTo_mod ..,
      fun x hx => (running_le_campaignBusy hx).trans hbusy, rfl, rfl, rfl⟩
  case campaignEnd =>
    intro x y c1 r hawake hrun hend
    exact ⟨_, execLockinCampaignEnd_of_ended hawake hrun hend, rfl,
      fun k hk => of_decide_eq_true (List.mem_filter.mp hk).2, fun k hk => of_decide_eq_true (List.mem_filter.mp hk).2, rfl⟩
  case dwell =>
    intro k hreq hbin hfree hhop
    exact execRequestDwellStart_of_due hreq hbin hfree hhop
  case capture =>
    intro hm hbeat htick hturn hslots
    obtain ⟨hdr, recs, pos, camps, est, hrecs, hexec⟩ :=
      execSpectrumCapture_of_due hawake hm hbeat ((mayAct_iff ..).mpr ⟨htick, hturn⟩)
    have hlt : (s.spec.seq + 1) % 16 < s.spec.slots.length := by omega
    refine ⟨_, hexec, rfl, tickOf_actAt .spectrum 330 (fresh s), ?_, rfl, rfl, rfl,
      ⟨_, List.getElem?_set_self hlt, rfl, rfl, hrecs⟩, fun j hj => List.getElem?_set_ne (Ne.symm hj)⟩
    exact (hadTurn_actAt .spectrum .spectrum 330 (fresh s)).trans (by simp)
  case complete =>
    intro x hx hst hseq
    obtain ⟨hspec, hst', hsaf⟩ := foldl_offerSlot_kept x (List.range 8) (slotCompleted x s)
    exact ⟨_, execSlotComplete_of_captured hawake hx hst hseq, congrArg Spectra.slots hspec, hst', hsaf⟩
  case derived =>
    intro hm hbeat htick hturn
    have hexec := execDerivedUpdate_of_due hawake hm hbeat ((mayAct_iff ..).mpr ⟨htick, hturn⟩)
    obtain ⟨hkept, hleft⟩ := derivedAll_left (takeTurn .derived (fresh s))
    have hpar := parAll_kept (derivedAll (takeTurn .derived (fresh s))) s.spec.pos.length
    refine ⟨_, hexec, hpar.size.trans hkept.size, ?_, hpar.st.trans hkept.st, hpar.saf.trans hkept.saf, fun p hp => ?_⟩
    · rw [hadTurn, tookFree_time, hpar.time, hkept.time]
      exact hadTurn_takeTurn .derived (fresh s)
    · obtain ⟨hstopped, hbins⟩ := parAll_left (derivedAll (takeTurn .derived (fresh s))) hp (hkept.size.symm ▸ hp)
      obtain ⟨hstay, hhi, hlo, hohm⟩ := hleft p hp
      simp only [PosSpec.bins, Prod.mk.injEq] at hbins
      obtain ⟨hbhi, hblo, hbohm⟩ := hbins
      have hstop : workStopped .derived p (derivedAll (takeTurn .derived (fresh s))) = workStopped .derived p s :=
        workStopped_congr hkept.time hkept.cal _ p
      exact ⟨fun h => (hstopped (hstop.trans h)).trans (hstay h), fun h => ⟨hbhi.trans (hhi h), hblo.trans (hlo h),
        fun hnone => hbohm.trans (hohm h hnone)⟩⟩

end Sys2Proof
end

section
/-! SUPPORT AND PROOFS. The loops' snapshots and period ends (09 R217, R218). -/

namespace Sys2Proof.Machine

/-! ### Values in their bounds -/

theorem clampI_within {lo hi : Int} (h : lo ≤ hi) (x : Int) : lo ≤ clampI lo hi x ∧ clampI lo hi x ≤ hi :=
  ⟨le_max_left .., max_le h (min_le_left ..)⟩

/-! ### What a snapshot takes (R217) -/

/-- One loop changed. -/
def modLoop (k : Nat) (f : LoopSt → LoopSt) (s : State) : State :=
  { s with lim := { s.lim with loops := updL s.lim.loops k f } }

theorem modLoop_self {k : Nat} {x : LoopSt} {s : State} (h : s.lim.loops[k]? = some x) (f : LoopSt → LoopSt) :
    (modLoop k f s).lim.loops[k]? = some (f x) :=
  (List.getElem?_modify_eq f k s.lim.loops).trans (congrArg (Option.map f) h)

theorem modLoop_other {k j : Nat} (h : j ≠ k) (f : LoopSt → LoopSt) (s : State) :
    (modLoop k f s).lim.loops[j]? = s.lim.loops[j]? :=
  List.getElem?_modify_ne f s.lim.loops (Ne.symm h)

/-- Both kinds of snapshot take the record, the input and its age, and leave the output. -/
theorem loopSnap_taken (s : State) (c : LoopCfg) (x : LoopSt) :
    (loopSnap s c x).1.cfg = c ∧ (loopSnap s c x).1.begun = true ∧ (loopSnap s c x).1.u = x.u ∧
    (loopSnap s c x).1.stale = (loopInput s c.inSel).isNone := by
  unfold loopSnap
  dsimp only
  split <;> exact ⟨rfl, rfl, rfl, rfl⟩

/-- A state after a snapshot that has made the loop x. -/
def snapped (k : Nat) (x : LoopSt × Bool) (s : State) : State :=
  setAgainIf x.2 0xA000 (2 ^ 8) (tookFree 1 { s with lim := { s.lim with
    loops := updL s.lim.loops k (fun _ => x.1), schedSwitch := s.lim.schedSwitch || x.2 } })

theorem snapped_loops (k : Nat) (x : LoopSt × Bool) (s : State) :
    (snapped k x s).lim.loops = (modLoop k (fun _ => x.1) s).lim.loops := by
  rw [snapped, setAgainIf_lim]
  rfl

theorem execLoopSnapshot_of_due {id : Fin 64} {k : Nat} {c : LoopCfg} {x : LoopSt} {s : State} (hon : loopsOn s = true)
    (hk : s.cal.bind (fun c => c.loops.findIdx? (fun l => l.id == id.val)) = some k)
    (hc : s.cal.bind (fun c => c.loops[k]?) = some c) (hx : s.lim.loops[k]? = some x) (hbeat : s.time.beat % c.period = 0)
    (htick : tickOf s ≤ 40) :
    execLoopSnapshot id s = .next (snapped k (loopSnap (atTick 40 (fresh s)) c x) (atTick 40 (fresh s))) := by
  have hgo : (loopsOn (fresh s) && decide ((fresh s).time.beat % c.period = 0) && decide (tickOf (fresh s) ≤ 40)) = true := by
    have ho : loopsOn (fresh s) = true := hon
    rw [ho, fresh_time, decide_eq_true hbeat]
    exact decide_eq_true htick
  unfold execLoopSnapshot
  dsimp only
  rw [fresh_cal, hk]
  dsimp only
  rw [hc]
  dsimp only
  rw [if_pos hgo, atTick_lim, fresh_lim, hx]
  rfl

/-! ### What a period writes (R218) -/

/-- An output in the loop's bounds: the setpoint of a FIXED loop, the low bound of a loop with a STALE input. -/
def LoopSt.Written (x y : LoopSt) : Prop :=
  (x.cfg.outMin ≤ x.cfg.outMax → x.cfg.outMin ≤ y.u ∧ y.u ≤ x.cfg.outMax) ∧
  (x.cfg.kind = 2 → y.u = clampI x.cfg.outMin x.cfg.outMax x.cfg.setpoint) ∧
  (x.cfg.kind ≠ 2 → x.stale = true → y.u = x.cfg.outMin)

theorem pid_u (x : LoopSt) : ∃ v, x.pid.u = clampI x.cfg.outMin x.cfg.outMax v := ⟨_, rfl⟩

/-- The loop as its period ends, before the output is formed. -/
def LoopSt.ending (x : LoopSt) : LoopSt :=
  { x with due := true, tracking := false, inputStale := x.stale && x.cfg.kind != 2 }

theorem period_eq (x : LoopSt) : x.period =
    if x.cfg.kind = 2 then x.ending.clampU x.cfg.setpoint
    else if x.stale then { x.ending with u := x.cfg.outMin, satHi := false, satLo := false }
    else if x.cfg.kind = 3 then x.ending.clampU (x.cfg.setpoint + x.coefs.kf * x.x / 2 ^ (x.coefs.sh 3))
    else x.ending.pid := rfl

theorem period_written (x : LoopSt) : x.Written x.period := by
  rw [period_eq]
  by_cases hkind : x.cfg.kind = 2
  · rw [if_pos hkind]
    exact ⟨fun h => clampI_within h _, fun _ => rfl, fun h => absurd hkind h⟩
  rw [if_neg hkind]
  by_cases hstale : x.stale = true
  · rw [if_pos hstale]
    exact ⟨fun h => ⟨le_refl _, h⟩, fun h => absurd h hkind, fun _ _ => rfl⟩
  rw [if_neg hstale]
  refine ⟨fun h => ?_, fun h => absurd h hkind, fun _ h => absurd h hstale⟩
  split
  · exact clampI_within h _
  · obtain ⟨v, hv⟩ := pid_u x.ending
    rw [hv]
    exact clampI_within h v

/-- The conditions of a period's end. -/
def periodEnds (id : Nat) (x : LoopSt) (s : State) : Bool :=
  loopsOn s && x.begun && decide ((s.time.beat + 1) % x.cfg.period = 0) && mayAct (.loopEnd id) 360 s &&
    !hadTurn .publish s && !(engineAt s 10).ovrThisBeat && !x.lost

theorem execLoopPeriodEnd_of_found {id : Fin 64} {k : Nat} {x : LoopSt} {s : State}
    (hk : s.lim.loops.findIdx? (fun x => x.cfg.id == id.val) = some k) (hx : s.lim.loops[k]? = some x) :
    execLoopPeriodEnd id s = if periodEnds id.val x s then
      .next (modLoop k LoopSt.period (actAt (.loopEnd id.val) 360 (fresh s))) else .next (fresh s) := by
  unfold execLoopPeriodEnd
  dsimp only
  rw [fresh_lim, hk]
  dsimp only
  rw [hx]
  rfl

end Sys2Proof.Machine

namespace Sys2Proof

open Sys2Proof.Machine

/-- Settles O35: a snapshot by what it takes of its input, and a period by the output that each kind of loop writes. -/
theorem loopPeriods : Obligations.LoopPeriods := by
  intro id k s hon
  refine ⟨fun c x hk hc hx hbeat htick => ?snapshot, fun x hk hx hbegun hbeat htick hturn hpub => ?period⟩
  case snapshot =>
    have hexec := execLoopSnapshot_of_due hon hk hc hx hbeat htick
    obtain ⟨hcfg, hbegun, hu, hstale⟩ := loopSnap_taken (atTick 40 (fresh s)) c x
    refine ⟨_, hexec, ?_, ⟨_, ?_, hcfg, hbegun, hu, hstale⟩, fun j hj => ?_, ?_, ?_, ?_⟩
    · rw [tickOf, snapped, setAgainIf_time]
      exact Nat.mul_div_cancel 40 (by decide)
    · rw [snapped_loops]
      exact modLoop_self (s := atTick 40 (fresh s)) hx _
    · rw [snapped_loops]
      exact modLoop_other (s := atTick 40 (fresh s)) hj _
    · rw [snapped, setAgainIf_limits]
      rfl
    · exact setAgainIf_st ..
    · exact setAgainIf_saf ..
  case period =>
    change (_ → execLoopPeriodEnd id s = _) ∧ (_ → _ → ∃ t, execLoopPeriodEnd id s = _ ∧ _)
    rw [execLoopPeriodEnd_of_found hk hx]
    refine ⟨fun hlost => if_neg (fun h => ?_), fun hclean hkept => ?_⟩
    · simp only [periodEnds, Bool.and_eq_true, Bool.not_eq_true'] at h
      rcases hlost with hovr | hlost
      · exact absurd (hovr.symm.trans h.1.2) (by decide)
      · exact absurd (hlost.symm.trans h.2) (by decide)
    · have hgo : periodEnds id.val x s = true := by
        simp [periodEnds, hon, hbegun, hbeat, (mayAct_iff ..).mpr ⟨htick, hturn⟩, hpub, hclean, hkept]
      rw [if_pos hgo]
      exact ⟨_, rfl, tickOf_actAt (.loopEnd id.val) 360 (fresh s),
        ⟨_, modLoop_self (s := actAt (.loopEnd id.val) 360 (fresh s)) hx _, period_written x⟩,
        fun j hj => modLoop_other hj _ _, rfl, rfl, rfl⟩

end Sys2Proof
end

section
/-! SUPPORT AND PROOFS. Rounds of cell supervision (08 R199, R209, R210), thermal judgement and the balance plan (09 R224
to R230). -/

namespace Sys2Proof.Machine

/-! ### One filter -/

theorem filters_modFilter_self {p : Nat} {f : Filter} {s : State} (h : s.est.filters[p]? = some f) (g : Filter → Filter) :
    (modFilter p g s).est.filters[p]? = some (g f) :=
  (List.getElem?_modify_eq g p s.est.filters).trans (congrArg (Option.map g) h)

theorem filters_modFilter_other {p q : Nat} (h : q ≠ p) (g : Filter → Filter) (s : State) :
    (modFilter p g s).est.filters[q]? = s.est.filters[q]? :=
  List.getElem?_modify_ne g s.est.filters (Ne.symm h)

theorem filterAt_of_some {p : Nat} {f : Filter} {s : State} (h : s.est.filters[p]? = some f) : filterAt s p = f :=
  congrArg (fun o => Option.getD o default) h

/-! ### The findings of a round (R212) -/

theorem offerContent_kept (content : Nat) (words : List Word) (s : State) :
    (offerContent content words s).cells = s.cells ∧ (offerContent content words s).est = s.est := by
  unfold offerContent
  split
  · refine List.foldlRecOn (motive := fun (t : State) => t.cells = s.cells ∧ t.est = s.est) _ _ ⟨rfl, rfl⟩ (fun t ht q _ => ?_)
    split
    · exact ht
    · exact ht
  · exact ⟨rfl, rfl⟩

/-- What the entry of findings leaves of the records and of the filters; a NEW_ bit may come up, and none clears. -/
structure FindingsEntered (s t : State) : Prop where
  taps : t.cells.taps = s.cells.taps
  pos : t.cells.pos = s.cells.pos
  round : t.cells.round = s.cells.round
  est : t.est = s.est
  weak : s.cells.newWeak = true → t.cells.newWeak = true
  opened : s.cells.newOpen = true → t.cells.newOpen = true
  short : s.cells.newShort = true → t.cells.newShort = true

theorem FindingsEntered.trans {s t u : State} (h : FindingsEntered s t) (h' : FindingsEntered t u) : FindingsEntered s u :=
  ⟨h'.taps.trans h.taps, h'.pos.trans h.pos, h'.round.trans h.round, h'.est.trans h.est, h'.weak ∘ h.weak,
    h'.opened ∘ h.opened, h'.short ∘ h.short⟩

theorem enterFinding_entered (r : Nat) (s : State) (f : Finding) : FindingsEntered s (enterFinding r s f) := by
  obtain ⟨hcells, hest⟩ := offerContent_kept 5 (f.words r) (jnl 0x0B 0xFF (f.words r) s)
  have hc : (setAgainIf (decide (1 ≤ f.kind ∧ f.kind ≤ 3)) 0x14000000 (2 ^ f.kind)
      (offerContent 5 (f.words r) (jnl 0x0B 0xFF (f.words r) s))).cells = s.cells := (setAgainIf_cells ..).trans hcells
  constructor
  case est => exact (setAgainIf_est ..).trans hest
  all_goals simp +contextual only [enterFinding, hc, Bool.true_or, implies_true]

theorem foldl_enterFinding_entered (r : Nat) (l : List Finding) (s : State) :
    FindingsEntered s (l.foldl (enterFinding r) s) := by
  induction l generalizing s with
  | nil => exact ⟨rfl, rfl, rfl, rfl, id, id, id⟩
  | cons f l ih => exact (enterFinding_entered r s f).trans (ih _)

theorem cellSettle_entered (s : State) : FindingsEntered s (cellSettle s) := by
  have hclear : FindingsEntered s { s with cells := { s.cells with findings := [], before := none } } :=
    ⟨rfl, rfl, rfl, rfl, id, id, id⟩
  exact hclear.trans (foldl_enterFinding_entered _ _ _)

/-! ### The update of a round (R199, R209) -/

/-- An update due and not yet made. -/
def roundDue (s : State) : Bool :=
  awake s && cellRun s && decide (821 ≤ s.time.beat % 1000) && (s.time.beat % 1000 != 999 || decide (tickOf s ≤ 330)) &&
    s.cells.round != some (s.time.beat / 1000) && s.cells.lost != some (s.time.beat / 1000)

/-- The update made, with its findings where they need not wait for the end of the round. -/
def roundUpdated (s : State) : State :=
  let t := cellUpdate (s.time.beat / 1000) s.cells.pos s.cells.taps s
  if s.time.beat % 1000 = 999 || !t.cells.pos.any (·.restRound) then cellSettle t else t

theorem execCellRoundUpdate_eq (s : State) : execCellRoundUpdate s =
    if roundDue s then
      if workStopped .cells 0 s then
        .next { fresh s with cells := { s.cells with lost := some (s.time.beat / 1000) } }
      else .next (roundUpdated (fresh s))
    else .next (fresh s) := rfl

theorem cellUpdate_pos_length (r : Nat) (pos : List CellPos) (taps : List Tap) (s : State) :
    (cellUpdate r pos taps s).cells.pos.length = pos.length := by
  simp [cellUpdate, roundGroups]

theorem roundUpdated_saf (s : State) : (roundUpdated s).saf = s.saf := by
  unfold roundUpdated
  dsimp only
  split
  · exact (cellSettle_saf _).trans (cellUpdate_saf ..)
  · exact cellUpdate_saf ..

theorem roundUpdated_st (s : State) : (roundUpdated s).st = s.st := by
  unfold roundUpdated
  dsimp only
  split
  · exact (cellSettle_st _).trans (cellUpdate_st ..)
  · exact cellUpdate_st ..

/-- Whether or not its findings wait, an update stands as the round's. -/
theorem roundUpdated_entered (s : State) :
    FindingsEntered (cellUpdate (s.time.beat / 1000) s.cells.pos s.cells.taps s) (roundUpdated s) := by
  unfold roundUpdated
  dsimp only
  split
  · exact cellSettle_entered _
  · exact ⟨rfl, rfl, rfl, rfl, id, id, id⟩

/-! ### The effects of a round (R210) -/

/-- The effect on the filter of a position that lost a cell. -/
def opensEffect (s : State) (x : CellPos × Nat) : State :=
  if x.1.nLiveNext = x.1.nLive then s
  else modFilter x.2 (fun f => { f with
    qCap := fOfRat (fToRat f.qCap * (x.1.nLiveNext : Rat) / (x.1.nLive : Rat)), capSuspect := true }) s

theorem opensEffect_suspect {p : Nat} {f : Filter} {s : State} (h : s.est.filters[p]? = some f) (hf : f.capSuspect = true)
    (x : CellPos × Nat) : ∃ g, (opensEffect s x).est.filters[p]? = some g ∧ g.capSuspect = true := by
  unfold opensEffect
  split
  · exact ⟨f, h, hf⟩
  · by_cases hp : p = x.2
    · subst hp
      exact ⟨_, filters_modFilter_self h _, rfl⟩
    · exact ⟨f, (filters_modFilter_other hp ..).trans h, hf⟩

theorem foldl_opensEffect_suspect {p : Nat} (l : List (CellPos × Nat)) {f : Filter} {s : State}
    (h : s.est.filters[p]? = some f) (hf : f.capSuspect = true) :
    ∃ g, (l.foldl opensEffect s).est.filters[p]? = some g ∧ g.capSuspect = true := by
  induction l generalizing s f with
  | nil => exact ⟨f, h, hf⟩
  | cons x r ih =>
    obtain ⟨g, hg, hsus⟩ := opensEffect_suspect h hf x
    exact ih hg hsus

/-- Of the positions in the list, the filter of one whose count has moved is suspect, and any other is as it was. -/
theorem foldl_opensEffect_at {p : Nat} {c : CellPos} (l : List (CellPos × Nat)) (hl : ∀ x ∈ l, x.2 = p → x.1 = c)
    {f : Filter} {s : State} (h : s.est.filters[p]? = some f) :
    (c.nLiveNext = c.nLive → (l.foldl opensEffect s).est.filters[p]? = some f) ∧
    (c.nLiveNext ≠ c.nLive → (c, p) ∈ l → ∃ g, (l.foldl opensEffect s).est.filters[p]? = some g ∧ g.capSuspect = true) := by
  induction l generalizing s with
  | nil => exact ⟨fun _ => h, fun _ hm => absurd hm List.not_mem_nil⟩
  | cons x r ih =>
    have hr : ∀ y ∈ r, y.2 = p → y.1 = c := fun y hy => hl y (List.mem_cons_of_mem x hy)
    by_cases hx : x.2 = p
    · have hxc : x = (c, p) := Prod.ext (hl x List.mem_cons_self hx) hx
      subst hxc
      refine ⟨fun hc => ?_, fun hc _ => ?_⟩
      · have hsame : opensEffect s (c, p) = s := if_pos hc
        rw [List.foldl_cons, hsame]
        exact (ih hr h).1 hc
      · have hgo : opensEffect s (c, p) = modFilter p _ s := if_neg hc
        rw [List.foldl_cons, hgo]
        exact foldl_opensEffect_suspect r (filters_modFilter_self h _) rfl
    · have hkept : (opensEffect s x).est.filters[p]? = some f := by
        unfold opensEffect
        split
        · exact h
        · exact (filters_modFilter_other (Ne.symm hx) ..).trans h
      obtain ⟨hsame, hsus⟩ := ih hr hkept
      refine ⟨hsame, fun hc hm => hsus hc ?_⟩
      rcases List.mem_cons.mp hm with hcx | hm
      · exact absurd (congrArg Prod.snd hcx).symm hx
      · exact hm

theorem foldl_opensEffect_cells (l : List (CellPos × Nat)) (s : State) : (l.foldl opensEffect s).cells = s.cells := by
  refine List.foldlRecOn (motive := fun (t : State) => t.cells = s.cells) _ _ rfl (fun t ht x _ => ?_)
  unfold opensEffect
  split <;> exact ht

theorem roundEffects_cells (s : State) :
    (roundEffects s).cells.pos = s.cells.pos.map (fun c => { c with nLive := c.nLiveNext }) ∧
    (roundEffects s).cells.taps = s.cells.taps := by
  have hcells := foldl_opensEffect_cells s.cells.pos.zipIdx s
  have htaps : (s.cells.pos.zipIdx.foldl opensEffect s).cells.taps = s.cells.taps := congrArg Cells.taps hcells
  exact ⟨congrArg (fun c => c.pos.map (fun c => { c with nLive := c.nLiveNext })) hcells, htaps⟩

theorem roundEffects_at {p : Nat} {c : CellPos} {f : Filter} {s : State} (hc : s.cells.pos[p]? = some c)
    (hf : s.est.filters[p]? = some f) :
    (c.nLiveNext = c.nLive → (roundEffects s).est.filters[p]? = some f) ∧
    (c.nLiveNext ≠ c.nLive → (filterAt (roundEffects s) p).capSuspect = true) := by
  have hl : ∀ x ∈ s.cells.pos.zipIdx, x.2 = p → x.1 = c := by
    rintro ⟨y, q⟩ hy rfl
    exact Option.some.inj ((List.mk_mem_zipIdx_iff_getElem?.mp hy).symm.trans hc)
  obtain ⟨hsame, hsus⟩ := foldl_opensEffect_at s.cells.pos.zipIdx hl hf
  refine ⟨hsame, fun hmoved => ?_⟩
  obtain ⟨g, hg, hgsus⟩ := hsus hmoved (List.mk_mem_zipIdx_iff_getElem?.mpr hc)
  exact (congrArg Filter.capSuspect (filterAt_of_some (s := roundEffects s) hg)).trans hgsus

theorem execRoundEffect_of_due {s : State} (hawake : awake s = true) (hrun : cellRun s = true)
    (hbeat : s.time.beat % 1000 = 0) (hns : s.time.ns = 0) (hround : s.cells.round.isSome = true) :
    execRoundEffect s = .next (roundEffects (cellSettle (fresh s))) := by
  have hgo : (awake (fresh s) && cellRun (fresh s) && decide ((fresh s).time.beat % 1000 = 0) &&
      decide ((fresh s).time.ns = 0) && (fresh s).cells.round.isSome) = true := by
    have hr : cellRun (fresh s) = true := hrun
    rw [awake_fresh, hawake, hr, fresh_time, decide_eq_true hbeat, decide_eq_true hns]
    exact hround
  exact if_pos hgo

/-! ### Thermal judgement (R224 to R226) -/

theorem thermStep_judged (s : State) (die : Int) (c : ThermCfg) (x : ThermSt) {e : Int}
    (h : (thermStep s die c x).tEff = some e) :
    (thermStep s die c x).level = thermLevel c e ∧ (thermStep s die c x).factor = thermFactor c e := by
  unfold thermStep at h ⊢
  dsimp only at h ⊢
  split at h
  case h_1 t ht =>
    obtain rfl : t = e := Option.some.inj h
    exact ⟨rfl, rfl⟩
  case h_2 hnone =>
    have hx : x.tEff = some e := h
    cases hj : (judgedTemp s die c).1 with
    | none => rw [hj] at hnone; exact absurd (hx.symm.trans hnone) (Option.some_ne_none e)
    | some t => rw [hj] at hnone; exact absurd hnone (Option.some_ne_none _)

/-- The least factor over the classes that are die classes or not. -/
def leastFactor (cfg : List ThermCfg) (th : List ThermSt) (die : Bool) : Nat :=
  ((cfg.zip th).filter (fun x => (x.1.cls == 3) == die)).foldl (fun m x => min m x.2.factor) 1000000

theorem foldl_min_le {α : Type} (g : α → Nat) (l : List α) (b : Nat) :
    l.foldl (fun m x => min m (g x)) b ≤ b ∧ ∀ x ∈ l, l.foldl (fun m x => min m (g x)) b ≤ g x := by
  induction l generalizing b with
  | nil => exact ⟨le_refl b, fun x hx => absurd hx List.not_mem_nil⟩
  | cons y r ih =>
    obtain ⟨hb, hr⟩ := ih (min b (g y))
    refine ⟨hb.trans (Nat.min_le_left ..), fun x hx => ?_⟩
    rcases List.mem_cons.mp hx with rfl | hx
    · exact hb.trans (Nat.min_le_right ..)
    · exact hr x hx

theorem leastFactor_le {cfg : List ThermCfg} {th : List ThermSt} {k : Nat} {c : ThermCfg} {x : ThermSt}
    (hc : cfg[k]? = some c) (hx : th[k]? = some x) {die : Bool} (hdie : (c.cls == 3) = die) :
    leastFactor cfg th die ≤ x.factor := by
  have hmem : (c, x) ∈ cfg.zip th := List.mem_of_getElem? (List.getElem?_zip_eq_some.mpr ⟨hc, hx⟩)
  exact (foldl_min_le _ _ _).2 _ (List.mem_filter.mpr ⟨hmem, (beq_iff_eq (a := c.cls == 3)).mpr hdie⟩)

/-- The thermal classes of the loaded calibre. -/
def thermCfgs (s : State) : List ThermCfg := (s.cal.map (·.therm)).getD []

/-- The states of the classes, judged. -/
def thermJudged (die : Int) (s : State) : List ThermSt :=
  ((thermCfgs s).zip s.lim.therm).map (fun x => thermStep s die x.1 x.2)

/-- A state after the judgement. -/
def thermTaken (die : Int) (s : State) : State :=
  { s with lim := { s.lim with therm := thermJudged die s, fTherm := leastFactor (thermCfgs s) (thermJudged die s) false
                               fDie := leastFactor (thermCfgs s) (thermJudged die s) true } }

theorem execThermalJudgement_eq (die : Int) (s : State) : execThermalJudgement die s =
    if loopsOn s && mayAct .thermal 40 s then .next (thermTaken die (actAt .thermal 40 (fresh s)))
    else .next (fresh s) := rfl

theorem thermJudged_at {die : Int} {s : State} {k : Nat} {c : ThermCfg} {x : ThermSt} (hc : (thermCfgs s)[k]? = some c)
    (hx : (thermJudged die s)[k]? = some x) : ∃ y, x = thermStep s die c y := by
  obtain ⟨⟨c', y⟩, hzip, rfl⟩ := Option.map_eq_some_iff.mp ((List.getElem?_map ..).symm.trans hx)
  obtain ⟨hc', -⟩ := List.getElem?_zip_eq_some.mp hzip
  obtain rfl := Option.some.inj (hc'.symm.trans hc)
  exact ⟨y, rfl⟩

/-! ### The balance plan (R230) -/

/-- Positions on one node. -/
def sameNode (s : State) (q p : Nat) : Bool := (placeOf s q).map (fun x => x.2.2) == (placeOf s p).map (fun x => x.2.2)

/-- A plan is what a list of eligible positions keeps by the number on each node. -/
theorem balancePlan_plan (s : State) : ∃ want, List.Sublist want ((List.range s.meas.pos.length).filter (eligible s)) ∧
    (balancePlan s).lim.plan = want.filter (fun p =>
      decide ((want.filter (fun q => sameNode s q p && bleedsBefore s q p)).length < s.lim.maxNode)) := by
  unfold balancePlan
  dsimp only
  split
  · exact ⟨[], List.nil_sublist _, rfl⟩
  · exact ⟨_, List.filter_sublist, rfl⟩

theorem balancePlan_bounded (s : State) : ∀ p ∈ (balancePlan s).lim.plan, p < s.meas.pos.length ∧ eligible s p = true ∧
    ((balancePlan s).lim.plan.filter (fun q => sameNode s q p && bleedsBefore s q p)).length < s.lim.maxNode := by
  obtain ⟨want, hwant, hplan⟩ := balancePlan_plan s
  rw [hplan]
  intro p hp
  obtain ⟨hmem, hroom⟩ := List.mem_filter.mp hp
  obtain ⟨hrange, hel⟩ := List.mem_filter.mp (hwant.subset hmem)
  exact ⟨List.mem_range.mp hrange, hel,
    ((List.filter_sublist.filter _).length_le).trans_lt (of_decide_eq_true hroom)⟩

theorem execBalancePlan_of_due {s : State} (hon : loopsOn s = true)
    (hm : s.st.mode = .armed ∨ s.st.mode = .run ∨ s.st.mode = .stop) (hbeat : s.time.beat % 100 = 1)
    (hact : mayAct .balance 330 s = true) :
    execBalancePlan s = .next (tookFree 1 (balancePlan (actAt .balance 330 (fresh s)))) := by
  have hmode : (s.st.mode == .armed || s.st.mode == .run || s.st.mode == .stop) = true := by
    rcases hm with h | h | h <;> rw [h] <;> rfl
  have hgo : (loopsOn s && (s.st.mode == .armed || s.st.mode == .run || s.st.mode == .stop) &&
      decide (s.time.beat % 100 = 1) && mayAct .balance 330 s) = true := by
    rw [hon, hmode, decide_eq_true hbeat, hact]
    rfl
  exact if_pos hgo

theorem balancePlan_time (s : State) : (balancePlan s).time = s.time := by
  unfold balancePlan
  dsimp only
  split <;> rfl

end Sys2Proof.Machine

namespace Sys2Proof

open Sys2Proof.Machine

/-- Settles O34: a round by its update and its effects, heat by each class's judgement, and a plan by the list it keeps a
part of. -/
theorem cellsHeatAndBalance : Obligations.CellsHeatAndBalance := by
  refine ⟨fun s hawake hrun => ⟨fun hlate htick hround hlost => ?update, fun hdone => ?updated,
    fun hbeat hns hround => ?effect⟩, fun s hon => ⟨fun die hturn => ?judged, fun hturn => ?planned,
    fun die htick hturn => ?thermal, fun hm hbeat htick hturn => ?balance⟩⟩
  case update =>
    have hdue : roundDue s = true := by
      have htick' : (s.time.beat % 1000 != 999 || decide (tickOf s ≤ 330)) = true := by
        simpa [Bool.or_eq_true, bne_iff_ne, imp_iff_not_or] using htick
      rw [roundDue, hawake, hrun, decide_eq_true hlate, htick', bne_iff_ne.mpr hround, bne_iff_ne.mpr hlost]
      rfl
    have hexec : execCellRoundUpdate s = if workStopped .cells 0 s then
        .next { fresh s with cells := { s.cells with lost := some (s.time.beat / 1000) } }
        else .next (roundUpdated (fresh s)) := (execCellRoundUpdate_eq s).trans (if_pos hdue)
    refine ⟨fun hstop => hexec.trans (if_pos hstop), fun hstop => ?_⟩
    have hupd := roundUpdated_entered (fresh s)
    refine ⟨_, hexec.trans (if_neg (by rw [hstop]; decide)), hupd.round, ?_, hupd.weak, hupd.opened, hupd.short,
      roundUpdated_st _, roundUpdated_saf _⟩
    exact (congrArg List.length hupd.pos).trans (cellUpdate_pos_length ..)
  case updated =>
    refine (execCellRoundUpdate_eq s).trans (if_neg ?_)
    rcases hdone with h | h <;> simp [roundDue, h]
  case effect =>
    have hset := cellSettle_entered (fresh s)
    obtain ⟨hpos, htaps⟩ := roundEffects_cells (cellSettle (fresh s))
    refine ⟨_, execRoundEffect_of_due hawake hrun hbeat hns hround, ?_, htaps.trans hset.taps, fun p c f hc hf => ?_,
      (roundEffects_st _).trans (cellSettle_st _), (roundEffects_saf _).trans (cellSettle_saf _)⟩
    · rw [hpos, hset.pos]
      rfl
    · exact roundEffects_at ((congrArg (·[p]?) hset.pos).trans hc) ((congrArg (·.filters[p]?) hset.est).trans hf)
  case judged =>
    exact (execThermalJudgement_eq die s).trans (if_neg (by simp [mayAct, hturn]))
  case planned =>
    exact if_neg (by simp [mayAct, hturn])
  case thermal =>
    have hgo : (loopsOn s && mayAct .thermal 40 s) = true := by rw [hon, (mayAct_iff ..).mpr ⟨htick, hturn⟩]; rfl
    refine ⟨_, (execThermalJudgement_eq die s).trans (if_pos hgo), tickOf_actAt .thermal 40 (fresh s), rfl, rfl, rfl,
      fun k c x hc hx => ⟨fun e he => ?_, fun hcls => ?_, fun hcls => ?_⟩⟩
    · obtain ⟨y, rfl⟩ := thermJudged_at (s := actAt .thermal 40 (fresh s)) hc hx
      exact thermStep_judged _ die c y he
    · exact leastFactor_le hc hx (beq_eq_false_iff_ne.mpr hcls)
    · exact leastFactor_le hc hx (beq_iff_eq.mpr hcls)
  case balance =>
    refine ⟨_, execBalancePlan_of_due hon hm hbeat ((mayAct_iff ..).mpr ⟨htick, hturn⟩), ?_, ?_, ?_, ?_⟩
    · rw [tickOf, tookFree_time, balancePlan_time]
      exact tickOf_actAt .balance 330 (fresh s)
    · exact (tookFree_st ..).trans (balancePlan_st _)
    · exact (tookFree_saf ..).trans (balancePlan_saf _)
    · exact balancePlan_bounded (actAt .balance 330 (fresh s))

end Sys2Proof
end

section
/-! SUPPORT AND PROOFS. The estimator: filter steps (07 R173 to R187, R195), the second and the hour (R187 to R189), early
warnings (R191) and REF_RESET (R192). -/

namespace Sys2Proof.Machine

/-! ### What a filter has counted -/

/-- q_p, whether the filter has started, and the last beat stepped. -/
def Filter.counted (f : Filter) : Int × Bool × Nat := (f.q, f.started, f.lastBeat)

/-- The filter of p has the count c, and every other filter is that of s. -/
def StepsOnly (p : Nat) (c : Int × Bool × Nat) (s t : State) : Prop :=
  (∃ g, t.est.filters[p]? = some g ∧ g.counted = c) ∧ ∀ j ≠ p, t.est.filters[j]? = s.est.filters[j]?

theorem StepsOnly.counted {p : Nat} {c : Int × Bool × Nat} {s t : State} (h : StepsOnly p c s t) :
    (filterAt t p).counted = c := by
  obtain ⟨⟨g, hg, hc⟩, -⟩ := h
  rw [filterAt_of_some hg, hc]

theorem StepsOnly.refl {p : Nat} {f : Filter} {s : State} (h : s.est.filters[p]? = some f) :
    StepsOnly p f.counted s s := ⟨⟨f, h, rfl⟩, fun _ _ => rfl⟩

theorem StepsOnly.modFilter {p : Nat} {c d : Int × Bool × Nat} {s t : State} (h : StepsOnly p c s t)
    {k : Filter → Filter} (hk : ∀ g : Filter, g.counted = c → (k g).counted = d) : StepsOnly p d s (modFilter p k t) := by
  obtain ⟨⟨g, hg, hc⟩, hother⟩ := h
  exact ⟨⟨k g, filters_modFilter_self hg k, hk g hc⟩, fun j hj => (filters_modFilter_other hj k t).trans (hother j hj)⟩

/-- A filter put in p's place, whatever else of the state moves. -/
theorem StepsOnly.put {p : Nat} {c d : Int × Bool × Nat} {s t u : State} (h : StepsOnly p c s t) {g : Filter}
    (hg : g.counted = d) (hu : u.est.filters = (Machine.modFilter p (fun _ => g) t).est.filters) : StepsOnly p d s u := by
  obtain ⟨hown, hother⟩ := h.modFilter (k := fun _ => g) (fun _ _ => hg)
  exact ⟨hu ▸ hown, fun j hj => (congrArg (·[j]?) hu).trans (hother j hj)⟩

/-! ### The step of one position (R175 to R186) -/

theorem tempOf_kept (s : State) (p : Nat) (f : Filter) : (tempOf s p f).counted = f.counted ∧
    (tempOf s p f).qSeen = f.qSeen ∧ (tempOf s p f).qExtra = f.qExtra := by
  unfold tempOf
  (repeat' split) <;> exact ⟨rfl, rfl, rfl⟩

/-- The charge that passed since the last step joins q_p (R176). -/
theorem takeCharge_counted (s : State) (p : Nat) (f : Filter) : (takeCharge s p f).1.counted =
    (f.q + (chargeUc s.meas - f.qSeen + f.qExtra / 1000), f.started, f.lastBeat) := by
  obtain ⟨hcounted, hseen, hextra⟩ := tempOf_kept s p f
  simp only [Filter.counted, Prod.mk.injEq] at hcounted
  obtain ⟨hq, hstarted, hlast⟩ := hcounted
  simp only [takeCharge, Filter.counted, hq, hseen, hextra, hstarted, hlast]

theorem learnCap_counted (rated : Nat) (a1 a2 : Anchor) (f : Filter) : (learnCap rated a1 a2 f).1.counted = f.counted := by
  unfold learnCap
  dsimp only
  (repeat' split) <;> rfl

theorem predict_counted (s : State) (p b : Nat) (dq : Int) (f : Filter) :
    (predict s p b dq f).counted = (f.q, f.started, b) := rfl

/-- The filter that a true anchor gives, before what its capacity learns (R184, R185). -/
def anchoredBy (a : AnchorV) (p : Nat) (s : State) : Filter :=
  let f := anchorUpdate s p a 1 (filterAt s p)
  let sA := ocvInv s (setOf s p) a.v f.tP (s.freeCtr + 6)
  { f with h := 0, g := 0, anchored := true, sCC := ratFree (s.freeCtr + 7) (sA * 1000000), ccRem := 0 }

/-- The anchor's point for capacity learning, with the slope h0 there (R186). -/
def anchorPoint (a : AnchorV) (p : Nat) (s : State) : Anchor × Rat :=
  let f := anchoredBy a p s
  let sA := ocvInv s (setOf s p) a.v f.tP (s.freeCtr + 6)
  let h0 := ocvSlope s (setOf s p) sA f.tP
  ({ s := sA, u := a.u / h0, q := f.q }, h0)

theorem anchoredBy_counted (a : AnchorV) (p : Nat) (s : State) : (anchoredBy a p s).counted = (filterAt s p).counted := rfl

/-- A true anchor counted and shown in ANCHOR_TRUE. -/
def anchorNoted (s : State) : State :=
  setAgain 0x9000 (2 ^ 7) { s with est := { s.est with anchorTrue := true, trueCount := satAdd s.est.trueCount 1 65535 } }

/-- A capacity learnt or rejected, with its journal record. -/
def capTaught (p : Nat) (r : Filter × F32 × Bool) (t : State) : State :=
  let s := modFilter p (fun _ => r.1) t
  let qm := intW (ratFree (s.freeCtr + 8) (fToRat r.2.1))
  if r.2.2 then
    jnl 10 0xFF [beatLo s, toW p, qm] (setAgain 0x9000 (2 ^ 9) { s with est := { s.est with capRejectSeen := true } })
  else
    jnl 9 0xFF [beatLo s, toW p, qm, intW (ratFree (s.freeCtr + 9) (fToRat r.1.qCap))]
      (setAgain 0x9000 (2 ^ 8) { s with est := { s.est with capLearnt := true } })

theorem capTaught_filters (p : Nat) (r : Filter × F32 × Bool) (t : State) :
    (capTaught p r t).est.filters = (modFilter p (fun _ => r.1) t).est.filters := by
  unfold capTaught
  dsimp only
  split <;> rfl

/-- The four things that a true anchor does with the filter f and its point. -/
def anchorTaken (p rated : Nat) (f : Filter) (pt : Anchor × Rat) (t : State) : State :=
  if pt.2 < 2 / 100 then modFilter p (fun _ => f) t
  else match f.a1 with
    | none => modFilter p (fun _ => { f with a1 := some pt.1, gross := 0 }) t
    | some a1 =>
      if 300000 ≤ ratAbs (pt.1.s - a1.s) ∧ f.gross ≤ 4 * ((pt.1.q - a1.q).natAbs : Int) then
        capTaught p (learnCap rated a1 pt.1 f) t
      else if 2 * fToRat f.qCap < toMah f.gross then modFilter p (fun _ => { f with a1 := some pt.1, gross := 0 }) t
      else modFilter p (fun _ => f) t

theorem trueAnchor_eq (p : Nat) (a : AnchorV) (s : State) : trueAnchor p a s =
    anchorTaken p (ratedQ (anchorNoted s) (setOf s p)) (anchoredBy a p s) (anchorPoint a p s) (anchorNoted s) := rfl

/-- A true anchor moves state of charge and capacity, and leaves what the filter has counted. -/
theorem anchorTaken_stepsOnly {p : Nat} {c : Int × Bool × Nat} {s t : State} (h : StepsOnly p c s t) {f : Filter}
    (hf : f.counted = c) (rated : Nat) (pt : Anchor × Rat) : StepsOnly p c s (anchorTaken p rated f pt t) := by
  have hset : ∀ g : Filter, g.counted = c → StepsOnly p c s (modFilter p (fun _ => g) t) :=
    fun g hg => h.modFilter (fun _ _ => hg)
  unfold anchorTaken
  split
  · exact hset f hf
  split
  · exact hset _ hf
  split
  · exact h.put ((learnCap_counted ..).trans hf) (capTaught_filters ..)
  split
  · exact hset _ hf
  · exact hset f hf

theorem trueAnchor_stepsOnly {p : Nat} {c : Int × Bool × Nat} {s t : State} (h : StepsOnly p c s t) (a : AnchorV) :
    StepsOnly p c s (trueAnchor p a t) := by
  have hnoted : StepsOnly p c s (anchorNoted t) := h
  rw [trueAnchor_eq]
  exact anchorTaken_stepsOnly hnoted ((anchoredBy_counted ..).trans h.counted) _ _

theorem anchorStep_stepsOnly {p : Nat} {c : Int × Bool × Nat} {s t : State} (h : StepsOnly p c s t) (second : Bool) :
    StepsOnly p c s (anchorStep p second t) := by
  have hidle : StepsOnly p c s (modFilter p (fun f => { f with qaPending := false }) t) := h.modFilter (fun _ hg => hg)
  unfold anchorStep
  dsimp only
  split
  · split
    · exact trueAnchor_stepsOnly hidle _
    · exact hidle
  split
  · refine h.modFilter (fun _ _ => ?_)
    split
    · exact h.counted
    · exact h.counted
  · exact h

/-- The step on a beat's record counts that beat, and no charge beyond that taken in. -/
theorem filterOn_stepsOnly {p : Nat} {c : Int × Bool × Nat} {s t : State} (h : StepsOnly p c s t) (r : BeatRec) (add : Int)
    (f : Filter) : StepsOnly p (f.q, f.started, r.beat) s (filterOn p r add f t) := by
  unfold filterOn
  dsimp only
  refine (anchorStep_stepsOnly (h.modFilter (fun _ _ => ?_)) _).modFilter (fun _ hg => hg)
  split
  · exact predict_counted t p r.beat add _
  · exact predict_counted t p r.beat add _

/-- A filter that has not started, after the charge and sample of a beat: it starts at a VALID sample (R180). -/
def startStep (s : State) (p : Nat) (r : BeatRec) (f : Filter) : Filter :=
  let v := (r.pos[p]?).getD (0, .missed)
  if v.2 = .valid then { filterStart s p r.beat v.1 f with rate := [(r.beat, f.q)] } else f

theorem startStep_q (s : State) (p : Nat) (r : BeatRec) (f : Filter) :
    (startStep s p r f).q = f.q ∧ (startStep s p r f).qSeen = f.qSeen := by
  unfold startStep
  dsimp only
  split <;> exact ⟨rfl, rfl⟩

theorem startStep_started (s : State) (p : Nat) (r : BeatRec) {f : Filter} (h : f.started = false) :
    (startStep s p r f).started = (((r.pos[p]?).getD (0, .missed)).2 == .valid) := by
  unfold startStep
  dsimp only
  split
  next hv => rw [hv]; rfl
  next hv => rw [h, beq_eq_false_iff_ne.mpr hv]

theorem execFilterStep_of_shut {p : Fin 1024} {s : State} (h : stepOpen p.val s = false) :
    execFilterStep p s = .next (fresh s) := by
  have hshut : ¬ stepOpen p.val (fresh s) = true := fun h' => absurd (h'.symm.trans h) (by decide)
  unfold execFilterStep
  dsimp only
  split
  · exact if_neg hshut
  · rfl

theorem execFilterStep_of_open {p : Fin 1024} {r : BeatRec} {f : Filter} {s : State} (h : stepOpen p.val s = true)
    (hr : lastRec s = some r) (hf : s.est.filters[p.val]? = some f) : execFilterStep p s =
      if f.started = false then
        .next (tookFree 5 (modFilter p.val (fun _ => startStep (fresh s) p.val r (takeCharge (fresh s) p.val f).1) (fresh s)))
      else if f.lastBeat < r.beat then
        .next (tookFree 10 (filterOn p.val r (takeCharge (fresh s) p.val f).2 (takeCharge (fresh s) p.val f).1 (fresh s)))
      else .next (fresh s) := by
  have hr' : lastRec (fresh s) = some r := hr
  have hopen : stepOpen p.val (fresh s) = true := h
  unfold execFilterStep
  dsimp only
  rw [hr', fresh_est, hf]
  dsimp only
  rw [if_pos hopen]
  cases f.started <;> rfl

/-! ### The second (R187, R188) -/

theorem judgeSecond_of_none {f : Filter} (h : f.svN = 0) (s : State) (p : Nat) : judgeSecond s p f = f := if_pos h

theorem judgeSecond_of_some {f : Filter} (h : f.svN ≠ 0) (s : State) (p : Nat) :
    (judgeSecond s p f).svSum = 0 ∧ (judgeSecond s p f).svN = 0 ∧
    (judgeSecond s p f).sV = some (f.svSum / (f.svN : Rat)) := by
  unfold judgeSecond
  rw [if_neg h]
  dsimp only
  split <;> exact ⟨rfl, rfl, rfl⟩

/-- Every filter after the second. -/
def secondTaken (s : State) : State := { s with est := { s.est with filters := s.est.filters.mapIdx (secondOf s) } }

theorem execSecondJudgement_of_due {s : State} (hawake : awake s = true) (hm : s.st.mode.fromArmed = true)
    (hrun : s.est.running = true) (hbeat : s.time.beat % 1000 = 0) (hact : mayAct .second 330 s = true)
    (hwarn : hadTurn .warning s = false) : execSecondJudgement s = .next (secondTaken (takeTurn .second (fresh s))) := by
  have hgo : (awake s && s.st.mode.fromArmed && s.est.running && decide (s.time.beat % 1000 = 0) &&
      mayAct .second 330 s && !hadTurn .warning s) = true := by
    rw [hawake, hm, hrun, decide_eq_true hbeat, hact, hwarn]
    rfl
  exact if_pos hgo

theorem secondTaken_at {p : Nat} {f : Filter} {s : State} (h : s.est.filters[p]? = some f) :
    (secondTaken s).est.filters[p]? = some (secondOf s p f) :=
  List.getElem?_mapIdx.trans (congrArg (Option.map (secondOf s p)) h)

/-! ### The hour (R189) -/

/-- Every filter after the hour. -/
def hourTaken (s : State) : State :=
  { s with est := { s.est with filters := s.est.filters.map (hourStep (starveH s)) } }

theorem execAnchorHour_of_due {s : State} (hawake : awake s = true) (hm : s.st.mode.fromArmed = true)
    (hrun : s.est.running = true) (hlater : s.est.t6Beat < s.time.beat)
    (hbeat : (s.time.beat - s.est.t6Beat) % 3600000 = 0) (hturn : hadTurn .hour s = false) :
    execAnchorHour s = .next (hourTaken (takeTurn .hour (fresh s))) := by
  have hd : 0 < s.time.beat - s.est.t6Beat ∧ (s.time.beat - s.est.t6Beat) % 3600000 = 0 :=
    ⟨Nat.sub_pos_of_lt hlater, hbeat⟩
  have hgo : (awake s && s.st.mode.fromArmed && s.est.running &&
      decide (0 < s.time.beat - s.est.t6Beat ∧ (s.time.beat - s.est.t6Beat) % 3600000 = 0) && !hadTurn .hour s) = true := by
    rw [hawake, hm, hrun, decide_eq_true hd, hturn]
    rfl
  exact if_pos hgo

theorem hourTaken_at {p : Nat} {f : Filter} {s : State} (h : s.est.filters[p]? = some f) :
    (hourTaken s).est.filters[p]? = some (hourStep (starveH s) f) :=
  List.getElem?_map.trans (congrArg (Option.map (hourStep (starveH s))) h)

theorem hourStep_of_idle {f : Filter} (h : f.started = false) (n : Nat) : hourStep n f = f := by
  simp [hourStep, h]

theorem hourStep_of_started {f : Filter} (h : f.started = true) (n : Nat) : hourStep n f =
    { f with h := min 65535 (f.h + 1), qaThisHour := false
             g := if min 65535 (f.h + 1) ≤ n then f.g else min 500000 (f.g + if f.qaThisHour then 100 else 400) } := by
  simp only [hourStep, h, satAdd, ← Nat.not_lt, ite_not]
  rfl

/-! ### Early warnings (R191) -/

/-- The level of bit b. -/
def warnLvl (c : EstCfg) (b : Nat) : Nat := warnLevel (if decide (b < 3) then c.wDis else c.wChg) (b % 3)

/-- What each source shows in the direction of bit b. -/
def warnEps (eps : List (Option (Rat × Rat))) (b : Nat) : List (Option Rat) :=
  eps.map (fun x => x.map (fun y => if decide (b < 3) then y.1 else y.2))

/-- Live bit b, judged against that of e. -/
def warnUp (c : EstCfg) (e : Est) (eps : List (Option (Rat × Rat))) (b : Nat) : Bool :=
  liveBit (warnLvl c b) ((warnEps eps b).filterMap id) (e.live.testBit b)

/-- The first source that meets the level. -/
def warnSrc (c : EstCfg) (eps : List (Option (Rat × Rat))) (b : Nat) : Nat :=
  ((warnEps eps b).map (fun x => (x.map (fun y => decide (y ≤ (warnLvl c b : Rat)))).getD false)).findIdx id % 3

/-- One live bit judged against that of e, as judgeWarn does it. -/
def warnTurn (c : EstCfg) (e : Est) (eps : List (Option (Rat × Rat))) (s : State) (b : Nat) : State :=
  let up := warnUp c e eps b
  let t := { s with est := { s.est with live := if up then s.est.live ||| 2 ^ b else s.est.live &&& (63 ^^^ 2 ^ b) } }
  if up && !e.live.testBit b then
    setAgain 0x902C (2 ^ (8 + b)) { t with est := { t.est with latch := t.est.latch ||| 2 ^ b, src := warnSrc c eps b } }
  else t

theorem judgeWarn_eq (s : State) (eps : List (Option (Rat × Rat))) :
    judgeWarn s eps = (List.range 6).foldl (warnTurn (estCfg s) s.est eps) s := rfl

/-- The live bit goes up or down; its latch comes up with it; nothing else of the estimator but SRC moves. -/
theorem warnTurn_est (c : EstCfg) (e : Est) (eps : List (Option (Rat × Rat))) (s : State) (b : Nat) :
    ∃ (up : Bool) (src : Nat), (warnTurn c e eps s b).est = { s.est with
      live := if up then s.est.live ||| 2 ^ b else s.est.live &&& (63 ^^^ 2 ^ b)
      latch := if up && !e.live.testBit b then s.est.latch ||| 2 ^ b else s.est.latch
      src := src } := by
  unfold warnTurn
  dsimp only
  by_cases h : (warnUp c e eps b && !e.live.testBit b) = true
  · exact ⟨warnUp c e eps b, warnSrc c eps b, by rw [if_pos h, if_pos h]; rfl⟩
  · exact ⟨warnUp c e eps b, s.est.src, by rw [if_neg h, if_neg h]⟩

theorem warnTurn_time (c : EstCfg) (e : Est) (eps : List (Option (Rat × Rat))) (s : State) (b : Nat) :
    (warnTurn c e eps s b).time = s.time := by
  unfold warnTurn
  dsimp only
  split <;> rfl

/-- A warning as R191 shows it: its live bit, and its latch. -/
def warnBits (s : State) (b : Nat) : Bool × Bool := (decide (b < 6) && s.est.live.testBit b, s.est.latch.testBit b)

/-- What the judgement of the warnings leaves alone. -/
def WarnKept (s t : State) : Prop := t.est.filters = s.est.filters ∧ t.time = s.time

theorem warnTurn_kept (c : EstCfg) (e : Est) (eps : List (Option (Rat × Rat))) (s : State) (b : Nat) :
    WarnKept s (warnTurn c e eps s b) := by
  obtain ⟨up, src, hest⟩ := warnTurn_est c e eps s b
  exact ⟨by rw [hest], warnTurn_time ..⟩

theorem testBit_clear_six {n b q : Nat} (h : q ≠ b) :
    (decide (q < 6) && (n &&& (63 ^^^ 2 ^ b)).testBit q) = (decide (q < 6) && n.testBit q) := by
  by_cases hq : q < 6
  · have h63 : Nat.testBit 63 q = true := by interval_cases q <;> rfl
    simp [Nat.testBit_and, Nat.testBit_xor, Nat.testBit_two_pow_of_ne (Ne.symm h), h63]
  · simp [hq]

theorem testBit_or_two_pow_of_ne {n b q : Nat} (h : q ≠ b) : (n ||| 2 ^ b).testBit q = n.testBit q := by
  simp [Nat.testBit_or, Nat.testBit_two_pow_of_ne (Ne.symm h)]

theorem warnTurn_other (c : EstCfg) (e : Est) (eps : List (Option (Rat × Rat))) (s : State) (b q : Nat) (h : q ≠ b) :
    warnBits (warnTurn c e eps s b) q = warnBits s q := by
  obtain ⟨up, src, hest⟩ := warnTurn_est c e eps s b
  rw [warnBits, hest]
  refine Prod.ext ?_ ?_
  · cases up
    · exact testBit_clear_six h
    · exact congrArg (decide (q < 6) && ·) (testBit_or_two_pow_of_ne h)
  · dsimp only
    split
    · exact testBit_or_two_pow_of_ne h
    · rfl

/-- No latch clears, and a live bit that comes up is latched. -/
def Latched (x y : Bool × Bool) : Prop := (x.2 = true → y.2 = true) ∧ (y.1 = true → x.1 = false → y.2 = true)

theorem warnTurn_latched (c : EstCfg) (e : Est) (eps : List (Option (Rat × Rat))) {s : State} {b : Nat} (hb : b < 6)
    (hlive : s.est.live.testBit b = e.live.testBit b) : Latched (warnBits s b) (warnBits (warnTurn c e eps s b) b) := by
  obtain ⟨up, src, hest⟩ := warnTurn_est c e eps s b
  simp only [Latched, warnBits, hest, decide_eq_true hb, Bool.true_and]
  cases up
  · have hdown : (s.est.live &&& (63 ^^^ 2 ^ b)).testBit b = false := by
      have h63 : Nat.testBit 63 b = true := by interval_cases b <;> rfl
      simp [Nat.testBit_and, Nat.testBit_xor, h63]
    exact ⟨fun h => h, fun h => absurd (h.symm.trans hdown) (by decide)⟩
  · rw [← hlive]
    cases hwas : s.est.live.testBit b <;> simp +contextual [Nat.testBit_or]

theorem judgeWarn_latched (s : State) (eps : List (Option (Rat × Rat))) :
    WarnKept s (judgeWarn s eps) ∧ ∀ b < 6, Latched (warnBits s b) (warnBits (judgeWarn s eps) b) := by
  rw [judgeWarn_eq]
  obtain ⟨hkept, -, hat⟩ := foldl_range_at (K := WarnKept) (fun _ => ⟨rfl, rfl⟩)
    (fun h h' => ⟨h'.1.trans h.1, h'.2.trans h.2⟩) (warnTurn_kept (estCfg s) s.est eps) (warnTurn_other (estCfg s) s.est eps) 6 s
  refine ⟨hkept, fun b hb => ?_⟩
  obtain ⟨u, -, hu, hfold⟩ := hat b hb
  have hlive : u.est.live.testBit b = s.est.live.testBit b := by
    simpa only [warnBits, decide_eq_true hb, Bool.true_and] using congrArg Prod.fst hu
  rw [hfold, ← hu]
  exact warnTurn_latched (estCfg s) s.est eps hb hlive

theorem execWarningEvaluation_of_due {s : State} (hawake : awake s = true) (hm : s.st.mode.fromArmed = true)
    (hrun : s.est.running = true) (hbeat : s.time.beat % 100 = 0) (hact : mayAct .warning 330 s = true)
    (hstop : workStopped .warning 0 s = false) : ∃ n eps sum, execWarningEvaluation s =
      .next (tookFree n { judgeWarn (actAt .warning 330 (fresh s)) eps with
        est := { (judgeWarn (actAt .warning 330 (fresh s)) eps).est with sumNext := some sum } }) := by
  have hgo : (awake s && s.st.mode.fromArmed && s.est.running && decide (s.time.beat % 100 = 0) &&
      mayAct .warning 330 s && !workStopped .warning 0 s) = true := by
    rw [hawake, hm, hrun, decide_eq_true hbeat, hact, hstop]
    rfl
  exact ⟨_, _, _, if_pos hgo⟩

/-! ### REF_RESET (R192) -/

theorem estPage_not_w1c : w1cTable.findIdx? (fun r => r.1 == 0x9004) = none := rfl

/-- EST_PAGE of a session set. -/
def pageSet (i : Fin 32) (n : Nat) (s : State) : State := modSess i (fun x => { x with estPage := n }) s

theorem estWrite_refReset (i : Fin 32) {v : Word} (hv : wBit v 31 = true) (s : State) :
    estWrite i 4 v s = (.ok, refReset (pageSet i (wBits v 3 0) s)) := by
  have h : estWrite i 4 v s =
      (.ok, if wBit v 31 then refReset (pageSet i (wBits v 3 0) s) else pageSet i (wBits v 3 0) s) := rfl
  rw [h, if_pos hv]

theorem pageSet_outstanding (i : Fin 32) (n : Nat) (s : State) :
    (pageSet i n s).host.sess[i].outstanding = s.host.sess[i].outstanding := by
  rw [pageSet, modSess_sess_self]

/-- A single write to EST_PAGE with REF_RESET set. -/
theorem writeCmd_refReset {i : Fin 32} {s : State} {v : Word} {P : State → Prop} (h : MayWrite i s)
    (hv : wBit v 31 = true)
    (hp : ∀ n, P (put (.rsp (directRsp i 4 .ok 0x9004 [])) (refReset (pageSet i n (accessed i s))))) :
    ∃ t, writeCmd i 0x9004 v s = .next t ∧ P t := by
  have hw : blockWrite i none .est 4 (keepFresh 0x9004 v (accessed i s)) (accessed i s) =
      (.ok, refReset (pageSet i (wBits v 3 0) (accessed i s))) := by
    rw [keepFresh_of_none estPage_not_w1c]
    exact estWrite_refReset i hv (accessed i s)
  have hout : (refReset (pageSet i (wBits v 3 0) (accessed i s))).host.sess[i].outstanding = false :=
    (pageSet_outstanding ..).trans (accessed_outstanding h.1)
  exact writes_of_may h (by decide) rfl hw hout (hp _)

end Sys2Proof.Machine

namespace Sys2Proof

open Sys2Proof.Machine

/-- Settles O32: a step by what it counts, the second and the hour filter by filter, the warnings bit by bit. -/
theorem estimator : Obligations.Estimator := by
  refine ⟨⟨fun p s hshut => execFilterStep_of_shut hshut, ?steps⟩, ?times, ?reset⟩
  case steps =>
    intro p r f s hopen hr hf q
    have hexec := execFilterStep_of_open hopen hr hf
    have hcount := takeCharge_counted (fresh s) p.val f
    simp only [Filter.counted, Prod.mk.injEq] at hcount
    obtain ⟨hq, hstarted, -⟩ := hcount
    refine ⟨fun hnot => ?first, fun hon hlast => ?next, fun hon hlast => ?none⟩
    case first =>
      obtain ⟨hfq, hfseen⟩ := startStep_q (fresh s) p.val r (takeCharge (fresh s) p.val f).1
      have hat := filterAt_of_some (filters_modFilter_self (s := fresh s) hf
        (fun _ => startStep (fresh s) p.val r (takeCharge (fresh s) p.val f).1))
      refine ⟨_, hexec.trans (if_pos hnot), ?_, ?_, ?_, fun j hj => filters_modFilter_other hj _ (fresh s), rfl, rfl⟩
      · exact (congrArg Filter.q hat).trans (hfq.trans hq)
      · exact (congrArg Filter.qSeen hat).trans hfseen
      · exact (congrArg Filter.started hat).trans (startStep_started (fresh s) p.val r (hstarted.trans hnot))
    case next =>
      have hsteps := filterOn_stepsOnly (StepsOnly.refl (s := fresh s) hf) r (takeCharge (fresh s) p.val f).2
        (takeCharge (fresh s) p.val f).1
      have hat := hsteps.counted
      simp only [Filter.counted, Prod.mk.injEq] at hat
      obtain ⟨hfq, hfstarted, hfbeat⟩ := hat
      refine ⟨_, hexec.trans ((if_neg (by rw [hon]; decide)).trans (if_pos hlast)), hfq.trans hq,
        hfstarted.trans (hstarted.trans hon), hfbeat, hsteps.2, ?_, ?_⟩
      · exact (tookFree_st ..).trans (filterOn_st ..)
      · exact (tookFree_saf ..).trans (filterOn_saf ..)
    case none =>
      exact hexec.trans ((if_neg (by rw [hon]; decide)).trans (if_neg (Nat.not_lt.mpr hlast)))
  case times =>
    intro s hawake hm hrun
    refine ⟨fun h => if_neg (by simp [mayAct, h]), fun h => if_neg (by simp [h]), fun h => if_neg (by simp [mayAct, h]),
      fun hbeat htick hturn hwarn => ?second, fun hlater hbeat hturn => ?hour, fun hbeat htick hturn hstop => ?warning⟩
    case second =>
      refine ⟨_, execSecondJudgement_of_due hawake hm hrun hbeat ((mayAct_iff ..).mpr ⟨htick, hturn⟩) hwarn, rfl, rfl,
        hadTurn_takeTurn .second (fresh s), fun p f hf => ?_⟩
      have hat := secondTaken_at (s := takeTurn .second (fresh s)) hf
      have hstopped : workStopped .filter p (takeTurn .second (fresh s)) = workStopped .filter p s := rfl
      rw [secondOf, hstopped] at hat
      refine ⟨fun h => ?_, fun h hn => ?_, fun h hn => ?_⟩
      · rwa [h] at hat
      · rwa [h, if_neg (by decide), judgeSecond_of_none hn] at hat
      · rw [h, if_neg (by decide)] at hat
        rw [filterAt_of_some hat]
        exact judgeSecond_of_some hn _ p
    case hour =>
      refine ⟨_, execAnchorHour_of_due hawake hm hrun hlater hbeat hturn, rfl, rfl,
        hadTurn_takeTurn .hour (fresh s), fun p f hf => ?_⟩
      have hat := hourTaken_at (s := takeTurn .hour (fresh s)) hf
      refine ⟨fun h => ?_, fun h => ?_⟩
      · rwa [hourStep_of_idle h] at hat
      · rw [hourStep_of_started h] at hat
        rw [filterAt_of_some hat]
        exact ⟨rfl, rfl, rfl⟩
    case warning =>
      obtain ⟨n, eps, sum, hexec⟩ :=
        execWarningEvaluation_of_due hawake hm hrun hbeat ((mayAct_iff ..).mpr ⟨htick, hturn⟩) hstop
      obtain ⟨⟨hfilters, htime⟩, hbits⟩ := judgeWarn_latched (actAt .warning 330 (fresh s)) eps
      refine ⟨_, hexec, ?_, fun b hb hlatch => (hbits b hb).1 hlatch, fun b hb hlive hwas => ?_, rfl, hfilters, ?_, ?_⟩
      · rw [tickOf, tookFree_time]
        exact (congrArg (fun x => x.ns / 2500) htime).trans (tickOf_actAt .warning 330 (fresh s))
      · have hlt : decide (b < 6) = true := decide_eq_true hb
        exact (hbits b hb).2 (Bool.and_eq_true_iff.mpr ⟨hlt, hlive⟩) (Bool.and_eq_false_iff.mpr (.inr hwas))
      · exact (tookFree_st ..).trans (judgeWarn_st ..)
      · exact (tookFree_saf ..).trans (judgeWarn_saf ..)
  case reset =>
    intro i s h
    have hv : wBit (b31 ||| toW s.host.sess[i].estPage) 31 = true := by
      rw [BitVec.or_comm]
      exact wBit_or_b31 _
    refine writeCmd_refReset h hv (fun n => ⟨rfl, ?_, ?_⟩)
    · simp only [put_st, refReset_st, pageSet, modSess_st, accessed_st]
    · simp only [put_saf, refReset_saf, pageSet, modSess_saf, accessed, fresh_saf]

end Sys2Proof
end

section
/-! SUPPORT AND PROOFS. The end of T6 (03 R71 to R73, R79; 04 R100, R101). -/

namespace Sys2Proof.Machine

/-! ### What passing a line leaves alone -/

theorem linePass_time (l : Nat) (s : State) : (linePass l s).time = s.time := by
  unfold linePass
  dsimp only
  refine List.foldlRecOn (motive := fun x : State => x.time = s.time) _ _ (by simp) fun x hx h _ => ?_
  rw [modRec_time, hx]

@[simp] theorem passSingles_time (s : State) : (passSingles s).time = s.time := by
  refine List.foldlRecOn (motive := fun x : State => x.time = s.time) _ _ rfl fun x hx l _ => ?_
  split
  · rw [linePass_time, hx]
  · exact hx

/-! ### What starts with ARMED leaves the enumeration's result alone -/

@[simp] theorem estStart_chain (s : State) : (estStart s).chain = s.chain := rfl

@[simp] theorem cellsStart_chain (s : State) : (cellsStart s).chain = s.chain := rfl

@[simp] theorem limStart_chain (s : State) : (limStart s).chain = s.chain := by
  unfold limStart
  split <;> rfl

@[simp] theorem canStart_chain (s : State) : (canStart s).chain = s.chain := by
  unfold canStart
  split <;> rfl

/-- What T6 leaves when it completes: ARMED, the channels judge, every contactor is held open, and enumeration is done. -/
theorem armDone_spec (c : Calibre) (s : State) :
    (armDone c s).st.mode = .armed ∧ (armDone c s).saf.monitor = true ∧ HeldOpen (armDone c s) ∧
    (armDone c s).chain.enumDone = true := by
  refine ⟨?_, ?_, heldOpen_of_default ?_, ?_⟩
  · simp [armDone]
  · simp only [armDone, lgStart_saf, canStart_saf, fioStart_saf, limStart_saf, cellsStart_saf, estStart_saf]
    rfl
  · simp only [armDone, lgStart_saf, canStart_saf, fioStart_saf, limStart_saf, cellsStart_saf, estStart_saf]
    rfl
  · simp [armDone, lgStart, fioStart, safStart]

/-- What T6 leaves when it fails: the state as it was, ARM_ERR, and no T6 under way. -/
theorem armFail_spec (n : Nat) (s : State) :
    (armFail n s).st = s.st ∧ (armFail n s).ldr.armErr = n ∧ (armFail n s).chain.arming = none := ⟨rfl, rfl, rfl⟩

/-! ### ARM_RESULT -/

/-- The outcome of T6 in its order: a failed chain check, the time that has run out, and, once every line has passed, the
channels' judgement. -/
theorem exec_armResult {b : Nat} {c : Calibre} {s : State} (hawake : awake s = true) (hm : s.st.mode = .loaded)
    (harm : s.chain.arming = some b) (hcal : s.cal = some c) :
    exec .armResult s = .next (
      if s.chain.enumErr ≠ 0 then armFail 1 (fresh s)
      else if b + 3000 < s.time.beat then armFail 1 (passSingles (fresh s))
      else if linesPassed (passSingles (fresh s)) = true then
        if safetyArmErr c = 0 then armDone c (passSingles (fresh s))
        else armFail (safetyArmErr c) (passSingles (fresh s))
      else if b + 3000 ≤ s.time.beat then armFail 1 (passSingles (fresh s))
      else passSingles (fresh s)) := by
  change execArmResult s = _
  simp only [execArmResult, fresh_chain, harm, fresh_cal, hcal, awake_fresh, hawake, fresh_st, hm, beq_self_eq_true,
    Bool.and_self, if_true, passSingles_time, fresh_time]
  cases safetyArmErr c with
  | zero =>
    simp only [if_true]
    split_ifs <;> rfl
  | succ n =>
    simp only [Nat.succ_ne_zero, if_false]
    split_ifs <;> rfl

end Sys2Proof.Machine

namespace Sys2Proof

open Sys2Proof.Machine

/-- Settles O12: the outcome that the clause's conditions name, in the order in which T6 is judged. -/
theorem armEnds : Obligations.ArmEnds := by
  intro b c s hawake hm harm hcal
  have hexec := exec_armResult hawake hm harm hcal
  have hfail : ∀ {n : Nat} {x : State}, x.st = s.st → exec .armResult s = .next (armFail n x) →
      Does .armResult s (fun t => t.st.mode = .loaded ∧ t.ldr.armErr = n ∧ t.chain.arming = none) := by
    intro n x hx h
    obtain ⟨hst, herr, hnone⟩ := armFail_spec n x
    exact ⟨_, h, by rw [hst, hx, hm], herr, hnone⟩
  have hpass : (passSingles (fresh s)).st = s.st := by simp
  refine ⟨fun henum => ?chain, fun henum hbeat hlines hsaf => ?refused, fun henum hbeat hlines hsaf => ?armed,
    fun henum hlate => ?late⟩
  case chain =>
    rw [if_pos henum] at hexec
    exact hfail (fresh_st s) hexec
  case refused =>
    rw [if_neg (not_not.mpr henum), if_neg (by omega), if_pos hlines, if_neg hsaf] at hexec
    exact hfail hpass hexec
  case armed =>
    rw [if_neg (not_not.mpr henum), if_neg (by omega), if_pos hlines, if_pos hsaf] at hexec
    obtain ⟨hst, hmon, hopen, hdone⟩ := armDone_spec c (passSingles (fresh s))
    exact ⟨_, hexec, hst, hmon, allOff_of_heldOpen hopen, hdone⟩
  case late =>
    refine hfail hpass (hexec.trans ?_)
    rw [if_neg (not_not.mpr henum)]
    by_cases hmore : b + 3000 < s.time.beat
    · rw [if_pos hmore]
    · obtain ⟨hend, hlines⟩ := hlate.resolve_left hmore
      rw [if_neg hmore, if_neg (by simp [hlines]), if_pos hend]

end Sys2Proof
end

section
/-! SUPPORT AND PROOFS. A calibre's words, the checks of a whole image, and T4 (03 R76 to R78, R414). -/

namespace Sys2Proof.Machine

/-! ### Words written to the loader block (Tables 03-11, 03-17) -/

/-- Register a is the word at offset o of the loader block, and holds no W1C bits. -/
structure LoaderReg (a o : Nat) : Prop where
  aligned : a % 4 = 0
  block : blockOf a = some (.loader, o)
  not_w1c : w1cTable.findIdx? (fun r => r.1 == a) = none

theorem loaderReg_ctrl : LoaderReg 0x5004 0x004 := ⟨rfl, rfl, rfl⟩

theorem loaderReg_data : LoaderReg 0x5010 0x010 := ⟨rfl, rfl, rfl⟩

theorem loaderReg_onCtrl : LoaderReg 0x5044 0x044 := ⟨rfl, rfl, rfl⟩

/-- A single write to the loader block, where its meaning is known and leaves the host's state alone. -/
theorem writeCmd_loader {i : Fin 32} {s x : State} {P : State → Prop} {a o : Nat} {v : Word} {c : RspCode}
    (h : MayWrite i s) (hreg : LoaderReg a o) (hw : loaderWrite i o v (accessed i s) = (c, x))
    (hx : x.host = (accessed i s).host) (hp : P (put (.rsp (directRsp i 4 c a [])) x)) :
    ∃ t, writeCmd i a v s = .next t ∧ P t := by
  refine writes_of_may h hreg.aligned hreg.block (c := c) (x := x) ?_ ?_ hp
  · rw [keepFresh_of_none hreg.not_w1c]
    exact hw
  · rw [hx]
    exact accessed_outstanding h.1

@[simp] theorem accessed_ldr (i : Fin 32) (s : State) : (accessed i s).ldr = s.ldr := by simp [accessed]

@[simp] theorem accessed_cal (i : Fin 32) (s : State) : (accessed i s).cal = s.cal := by simp [accessed]

@[simp] theorem accessed_lg (i : Fin 32) (s : State) : (accessed i s).lg = s.lg := by simp [accessed]

/-- Before a single access says its response, nothing has been said. -/
theorem said_put_accessed (r : Rsp) (i : Fin 32) (s : State) : said (put (.rsp r) (accessed i s)) = [r] := rfl

/-! ### Reception (R76, R77) -/

/-- No check is due before the head is whole. -/
theorem receptionFail_of_headless {img : Bytes} {n : Nat} (h : n < 48) : receptionFail img n = none := if_pos h

theorem loadWord_of_headless {v : Word} {s : State} (h : s.ldr.words.length < 11) :
    loadWord v s = modLdr (fun l => { l with
      words := s.ldr.words ++ [v], count := 4 * (s.ldr.words.length + 1), idleBeats := 0 }) s := by
  have hn : 4 * (s.ldr.words ++ [v]).length = 4 * (s.ldr.words.length + 1) := by simp
  have hshort : 4 * (s.ldr.words.length + 1) < 48 := by omega
  have hhead : ¬ (48 ≤ 4 * (s.ldr.words.length + 1) ∧
      4 * (s.ldr.words.length + 1) = imgTotal (wordsBytes (s.ldr.words ++ [v])).toArray) := fun ⟨h48, _⟩ => by omega
  simp only [loadWord, hn, receptionFail_of_headless hshort, if_neg hhead]

/-- What T3 leaves: an image of one word, whose session is the owner. -/
theorem loadStart_spec (i : Fin 32) (v : Word) (s : State) :
    (loadStart i v s).st.mode = .loading ∧ (loadStart i v s).ldr.owner = some i ∧ (loadStart i v s).ldr.words = [v] ∧
    (loadStart i v s).ldr.count = 4 ∧ (loadStart i v s).ldr.receiving = true ∧ (loadStart i v s).ldr.err = 0 ∧
    (loadStart i v s).host = s.host := by
  rw [loadStart, loadWord_of_headless (by simp)]
  simp

theorem ldDataWrite_blank {i : Fin 32} {v : Word} {s : State} (hm : s.st.mode = .blank) (hlc : s.pw.lc ≠ .scrapped) :
    ldDataWrite i v s = (.ok, loadStart i v s) := by
  simp only [ldDataWrite, hm, if_neg hlc]

theorem ldDataWrite_owner {i : Fin 32} {v : Word} {s : State} (hm : s.st.mode = .loading) (ho : s.ldr.owner = some i)
    (h : s.ldr.words.length < 11) : ldDataWrite i v s = (.ok, modLdr (fun l => { l with
      words := s.ldr.words ++ [v], count := 4 * (s.ldr.words.length + 1), idleBeats := 0 }) s) := by
  simp only [ldDataWrite, hm, if_pos ho, loadWord_of_headless h]

theorem ldDataWrite_other {i : Fin 32} {v : Word} {s : State} (hm : s.st.mode = .loading) (ho : s.ldr.owner ≠ some i) :
    ldDataWrite i v s = (.access, s) := by
  simp only [ldDataWrite, hm, if_neg ho]

/-! ### The end of a load (R77, R78) -/

/-- What T5 leaves: BLANK, no calibre, no owner, no words, and the code of what failed. -/
theorem loadEnd_spec (f : Fail) (s : State) :
    (loadEnd f s).st.mode = .blank ∧ (loadEnd f s).ldr.err = f.err.code ∧ (loadEnd f s).ldr.owner = none ∧
    (loadEnd f s).ldr.words = [] ∧ (loadEnd f s).ldr.receiving = false ∧ (loadEnd f s).cal = none ∧
    (loadEnd f s).host = s.host := ⟨rfl, rfl, rfl, rfl, rfl, rfl, rfl⟩

theorem ldCtrlWrite_abort (i : Fin 32) (s : State) : ldCtrlWrite i b31 s = (.ok, loadAbort i s) := rfl

theorem ldCtrlWrite_abort_owner {i : Fin 32} {s : State} (hm : s.st.mode = .loading) (ho : s.ldr.owner = some i) :
    ldCtrlWrite i b31 s = (.ok, loadEnd { err := .aborted } s) := by
  simp only [ldCtrlWrite_abort, loadAbort, if_pos ho, if_pos hm]

theorem ldCtrlWrite_abort_other {i : Fin 32} {s : State} (ho : s.ldr.owner ≠ some i) :
    ldCtrlWrite i b31 s = (.ok, s) := by
  simp only [ldCtrlWrite_abort, loadAbort, if_neg ho]

theorem exec_loadTimeout {s : State} (hawake : awake s = true) (hm : s.st.mode = .loading)
    (hidle : 10000 ≤ s.ldr.idleBeats) : exec .loadTimeout s = .next (loadEnd { err := .timeout } (fresh s)) := by
  have hm' : (fresh s).st.mode = .loading := hm
  change execLoadTimeout s = _
  simp only [execLoadTimeout, awake_fresh, hawake, fresh_ldr, hidle, hm', decide_true, Bool.and_self, if_true]

/-! ### The checks of a whole image, and T4 (R77, R78, R414) -/

/-- The checks of R414 point 5, as the module makes them of the image that it has received. -/
def imageFail (s : State) : Option Fail :=
  point5 (catalogueNow s) (s.pw.lc == .owned) (validKey s) (wordsBytes s.ldr.words).toArray

theorem exec_postReceptionChecksDone {s : State} (hawake : awake s = true) (hm : s.st.mode = .loading)
    (hcheck : s.ldr.checking = true) (hpass : s.ldr.passed = none) :
    exec .postReceptionChecksDone s = .next (match imageFail s with
      | some f => loadEnd f (fresh s)
      | none => modLdr (fun l => { l with passed := some s.time.beat }) (fresh s)) := by
  have hm' : (fresh s).st.mode = .loading := hm
  have hfail : point5 (catalogueNow (fresh s)) ((fresh s).pw.lc == .owned) (validKey (fresh s))
    (wordsBytes (fresh s).ldr.words).toArray = imageFail s := rfl
  change execPostReceptionChecksDone s = _
  simp only [execPostReceptionChecksDone, awake_fresh, hawake, hm', fresh_ldr, hcheck, hpass, beq_self_eq_true,
    Option.isNone_none, Bool.and_self, if_true]
  rw [← fresh_ldr, hfail]
  cases imageFail s <;> rfl

theorem loadedStart_cal (c : Calibre) (s : State) : (loadedStart c s).cal = some c := rfl

/-- T4: the image is the calibre, and its load is over. -/
theorem does_loadAccept {b : Nat} {s : State} (hawake : awake s = true) (hm : s.st.mode = .loading)
    (hpass : s.ldr.passed = some b) (hbeat : b ≠ s.time.beat) (htick : tickOf s = 0) :
    Does .loadAccept s (fun t => t.st.mode = .loaded ∧
      t.cal = some (calibreOf (wordsBytes s.ldr.words).toArray) ∧ t.ldr.owner = none ∧ t.ldr.checking = false ∧
      t.saf = s.saf) := by
  have hact : (awake (fresh s) && (fresh s).st.mode == .loading && b != (fresh s).time.beat &&
      decide (tickOf (fresh s) = 0)) = true := by
    have htick' : tickOf (fresh s) = 0 := htick
    simp [hawake, hm, hbeat, htick']
  unfold Does
  change ∃ t, execLoadAccept s = .next t ∧ _
  simp only [execLoadAccept, fresh_ldr, hpass]
  rw [if_pos hact]
  refine ⟨_, rfl, ?_, ?_, ?_, ?_, ?_⟩
  · simp
  · simp [loadedStart_cal]
  · simp
  · simp
  · simp

end Sys2Proof.Machine

namespace Sys2Proof

open Sys2Proof.Machine

/-- Settles O20: each clause is one case of a written word, of an ABORT, or of the timeout. -/
theorem imageWords : Obligations.ImageWords := by
  intro i w s h
  refine ⟨fun hm hlc => ?first, fun hm ho hlen => ?next, fun hm ho => ⟨?other, ?otherAbort⟩, fun hm ho => ?abort,
    fun hm hidle => ?timeout⟩
  case first =>
    obtain ⟨hst, howner, hwords, hcount, hrec, herr, hhost⟩ := loadStart_spec i w (accessed i s)
    exact writeCmd_loader h loaderReg_data (ldDataWrite_blank hm hlc) hhost ⟨hst, howner, hwords, hcount, hrec, herr⟩
  case next =>
    exact writeCmd_loader h loaderReg_data (ldDataWrite_owner hm ho hlen) rfl (by simp)
  case other =>
    exact writeCmd_loader h loaderReg_data (ldDataWrite_other hm ho) rfl ⟨by simp, by simp, said_put_accessed _ i s⟩
  case otherAbort =>
    exact writeCmd_loader h loaderReg_ctrl (ldCtrlWrite_abort_other ho) rfl (by simp)
  case abort =>
    obtain ⟨hst, herr, howner, hwords, hrec, -, hhost⟩ := loadEnd_spec { err := .aborted } (accessed i s)
    exact writeCmd_loader h loaderReg_ctrl (ldCtrlWrite_abort_owner hm ho) hhost ⟨hst, howner, herr, hwords, hrec⟩
  case timeout =>
    obtain ⟨⟨hawake, -⟩, -⟩ := h
    obtain ⟨hst, herr, howner, -, -, hcal, -⟩ := loadEnd_spec { err := .timeout } (fresh s)
    exact ⟨_, exec_loadTimeout hawake hm hidle, hst, howner, herr, hcal⟩

/-- Settles O21: the checks by what they find in the image, and T4 by what LOADED begins with. -/
theorem loadEnds : Obligations.LoadEnds := by
  intro s hawake hm
  refine ⟨fun hcheck hpass => ?checks, fun b hpass hbeat htick => does_loadAccept hawake hm hpass hbeat htick⟩
  have hexec := exec_postReceptionChecksDone hawake hm hcheck hpass
  refine ⟨_, hexec, ?_⟩
  change match imageFail s with
    | some f => _
    | none => _
  cases imageFail s with
  | some f =>
    obtain ⟨hst, herr, howner, -, -, hcal, -⟩ := loadEnd_spec f (fresh s)
    exact ⟨hst, herr, howner, hcal⟩
  | none => exact ⟨rfl, rfl, rfl⟩

end Sys2Proof
end

section
/-! SUPPORT AND PROOFS. The replacement of the logic section (03 R84), and online batches (03 R80 to R83). -/

namespace Sys2Proof.Machine

/-! ### The replacement of section 0x0E (R84) -/

theorem replaceStart_in_stop {i : Fin 32} {s : State} (hm : s.st.mode = .stop) (hrepl : s.ldr.repl = none) :
    replaceStart i s = (.ok, modLdr (fun l => { l with
      err := 0, detail := 0, errSect := 0, errPlace := 0, count := 0, owner := some i, repl := some []
      receiving := true, checking := false, idleBeats := 0 }) s) := if_pos ⟨hm, hrepl⟩

theorem replaceStart_outside_stop {i : Fin 32} {s : State} (hm : s.st.mode ≠ .stop) :
    replaceStart i s = (.access, s) := if_neg fun ⟨h, _⟩ => hm h

/-- REPLACE_LOGIC alone is its start: a refused one leaves the state as it is. -/
theorem ldCtrlWrite_replace (i : Fin 32) (s : State) : ldCtrlWrite i b30 s = replaceStart i s := by
  have h : ldCtrlWrite i b30 s = if (replaceStart i s).1 = .ok then replaceStart i s else ((replaceStart i s).1, s) := rfl
  rw [h, replaceStart]
  split
  · rfl
  · rfl

@[simp] theorem lgReplace_cal (s : State) : (lgReplace s).cal = s.cal := by
  simp only [lgReplace, modLg_cal]
  split <;> rfl

/-- The payload that the words of a replacement hold. -/
def replacementPayload (w : List Word) : Bytes :=
  slice (wordsBytes w).toArray 16 (imgLen (wordsBytes w).toArray 0)

theorem exec_replacementChecksDone {w : List Word} {c : Calibre} {s : State} (hawake : awake s = true)
    (hrepl : s.ldr.repl = some w) (hcal : s.cal = some c) (hcheck : s.ldr.checking = true) :
    exec .replacementChecksDone s = .next (match replaceChecks c (replacementPayload w) with
      | some f => replaceEnd f (fresh s)
      | none => replaceTake (replacementPayload w).toList (fresh s)) := by
  have hp : slice (wordsBytes w).toArray 16 (imgLen (wordsBytes w).toArray 0) = replacementPayload w := rfl
  change execReplacementChecksDone s = _
  simp only [execReplacementChecksDone, awake_fresh, hawake, fresh_ldr, fresh_cal, hrepl, hcal, hcheck, Bool.and_self,
    if_true, hp]
  cases replaceChecks c (replacementPayload w) <;> rfl

/-- A replacement that ends without a new program keeps STATE and the calibre. -/
theorem replaceEnd_spec (f : Fail) (s : State) :
    (replaceEnd f s).ldr.repl = none ∧ (replaceEnd f s).ldr.owner = none ∧ (replaceEnd f s).st = s.st ∧
    (replaceEnd f s).ldr.err = f.err.code ∧ (replaceEnd f s).cal = s.cal := ⟨rfl, rfl, rfl, rfl, rfl⟩

/-- A new program is taken: section 0x0E alone changes. -/
theorem replaceTake_spec {c : Calibre} {s : State} (hcal : s.cal = some c) (p : List Byte) :
    (replaceTake p s).ldr.repl = none ∧ (replaceTake p s).ldr.owner = none ∧ (replaceTake p s).st = s.st ∧
    (replaceTake p s).ldr.replaced = true ∧ (replaceTake p s).cal = some (c.withPayload 14 p) := by
  simp [replaceTake, hcal]

/-! ### GO and CANCEL (R80 to R82) -/

/-- A word that asks for a GO of n entries and for no CANCEL. -/
theorem goWord_fields (n : Fin 32) :
    wBit (b31 ||| toW n.val) 31 = true ∧ wBits (b31 ||| toW n.val) 4 0 = n.val ∧
    wBit (b31 ||| toW n.val) 30 = false := by
  revert n
  decide

theorem onCtrlWrite_go (i n : Fin 32) (s : State) : onCtrlWrite i (b31 ||| toW n.val) s = goWrite i n.val s := by
  obtain ⟨hgo, hn, hcancel⟩ := goWord_fields n
  simp only [onCtrlWrite, hgo, hn, hcancel, if_true, Bool.false_eq_true, if_false]

theorem onCtrlWrite_cancel (i : Fin 32) (s : State) : onCtrlWrite i b30 s = cancelBatch s := rfl

/-- RESULT depends on STATE, the loader and the calibre. -/
theorem goResult_congr {s t : State} (hst : t.st = s.st) (hldr : t.ldr = s.ldr) (hcal : t.cal = s.cal) (n : Nat) :
    goResult n t = goResult n s := by
  have hentry : onEntry t = onEntry s := by
    funext k
    simp only [onEntry, hldr]
  simp only [goResult, hst, hldr, hcal, hentry]

theorem goWrite_batch_of_ok {i : Fin 32} {n : Nat} {s : State} (h : goResult n s = .ok) :
    ∃ b, (goWrite i n s).ldr.batch = some b ∧ b.session = i.val ∧ b.beat = s.time.beat ∧ b.atBoundary = false ∧
      b.entries.length = n := by
  simp [goWrite, h]

theorem goWrite_batch_of_refused {i : Fin 32} {n : Nat} {s : State} (h : goResult n s ≠ .ok) :
    (goWrite i n s).ldr.batch = s.ldr.batch := by
  simp [goWrite, h]

theorem cancelBatch_of_untaken {b : Batch} {s : State} (hb : s.ldr.batch = some b) (hc : s.lg.taskConsts = []) :
    cancelBatch s = modLg (fun x => { x with pendingConsts := [] })
      (modLdr (fun l => { l with batch := none, onResult := 7 }) s) := by
  simp only [cancelBatch, hb, hc, Option.isSome_some, List.isEmpty_nil, Bool.and_self, if_true]

/-! ### The boundary after the GO, and the effect point (R82, R83; 11 R293) -/

/-- A batch of a section other than 0x0E becomes pending, and nothing else changes. -/
theorem exec_batchPending {b : Batch} {s : State} (hawake : awake s = true) (hb : s.ldr.batch = some b)
    (hnew : b.atBoundary = false) (hbeat : b.beat ≠ s.time.beat) (htick : tickOf s = 0) (hsect : b.sect ≠ 14) :
    exec .batchPending s =
      .next { fresh s with ldr := { s.ldr with batch := some { b with atBoundary := true } } } := by
  have hact : (awake (fresh s) && !b.atBoundary && b.beat != (fresh s).time.beat && decide (tickOf (fresh s) = 0)) =
      true := by
    have htick' : tickOf (fresh s) = 0 := htick
    simp [hawake, hnew, hbeat, htick']
  change execBatchPending s = _
  simp only [execBatchPending, fresh_ldr, hb]
  rw [if_pos hact, if_neg hsect]
  rfl

theorem exec_batchApply {b : Batch} {s : State} (hawake : awake s = true) (hb : s.ldr.batch = some b)
    (hpend : b.atBoundary = true) (htick : tickOf s = 0) (heff : effectNow b s = true) :
    exec .batchApply s = .next (batchSide (fresh s) (batchDone b (fresh s))) := by
  have hact : (awake (fresh s) && b.atBoundary && decide (tickOf (fresh s) = 0) && effectNow b (fresh s)) = true := by
    have htick' : tickOf (fresh s) = 0 := htick
    have heff' : effectNow b (fresh s) = true := heff
    simp [hawake, hpend, htick', heff']
  change execBatchApply s = _
  simp only [execBatchApply, fresh_ldr, hb]
  rw [if_pos hact]

@[simp] theorem batchSide_ldr (old s : State) : (batchSide old s).ldr = s.ldr := by
  unfold batchSide
  dsimp only
  split <;> rfl

@[simp] theorem batchSide_cal (old s : State) : (batchSide old s).cal = s.cal := by
  unfold batchSide
  dsimp only
  split <;> rfl

/-- A batch in effect is counted, and its words stand in its section. -/
theorem batchDone_spec (b : Batch) (s : State) :
    (batchDone b s).ldr.batch = none ∧ (batchDone b s).ldr.onApplied = true ∧
    (batchDone b s).ldr.onCount = min 65535 (s.ldr.onCount + 1) ∧
    (batchDone b s).cal =
      s.cal.map (fun c => c.withPayload b.sect (putWords ((c.payload b.sect).getD []) b.entries)) :=
  ⟨rfl, rfl, rfl, rfl⟩

@[simp] theorem batchDone_lg (b : Batch) (s : State) : (batchDone b s).lg = s.lg := rfl

/-- After a task's cycle boundary no constant waits for it, and those of the other tasks wait on. -/
theorem applyConsts_pendingConsts (t : Nat) (s : State) :
    (applyConsts t s).lg.pendingConsts = s.lg.pendingConsts.filter (fun p => p.1 != t) := by
  by_cases hany : s.lg.pendingConsts.any (fun p => p.1 == t) = true
  · simp only [applyConsts, hany, Bool.not_true, Bool.false_eq_true, if_false]
    split
    · split
      · rfl
      · rfl
    · rfl
  · have hnone : ∀ p ∈ s.lg.pendingConsts, (p.1 != t) = true := by
      intro p hp
      by_contra hne
      exact hany (List.any_eq_true.mpr ⟨p, hp, by simpa using hne⟩)
    simp only [applyConsts, hany, Bool.not_false, if_true, List.filter_eq_self.mpr hnone]

theorem exec_constantApply {k : Fin 8} {c : TaskCfg} {s : State} (hawake : awake s = true) (hm : s.st.mode = .run)
    (hc : taskCfg s k.val = some c) (hcycle : s.time.beat % c.cycle = 0) :
    exec (.constantApply k) s = .next (applyConsts k.val (fresh s)) := by
  have hc' : taskCfg (fresh s) k.val = some c := hc
  change execConstantApply k s = _
  simp only [execConstantApply, hc', awake_fresh, hawake, fresh_st, hm, fresh_time, hcycle, beq_self_eq_true,
    Bool.and_self, if_true]

end Sys2Proof.Machine

namespace Sys2Proof

open Sys2Proof.Machine

/-- Settles O22: a replacement by its start and by what its checks find, and a batch by each of its steps from GO to its
effect. -/
theorem sectionChanges : Obligations.SectionChanges := by
  refine ⟨⟨fun i s h => ⟨fun hm hrepl => ?start, fun hm => ?refuse⟩, ?checks⟩, ?go, ?cancel, ?pending, ?apply, ?consts⟩
  case start =>
    exact writeCmd_loader h loaderReg_ctrl ((ldCtrlWrite_replace i _).trans (replaceStart_in_stop hm (by simpa)))
      rfl (by simp)
  case refuse =>
    exact writeCmd_loader h loaderReg_ctrl ((ldCtrlWrite_replace i _).trans (replaceStart_outside_stop hm)) rfl
      ⟨by simp, by simp, by simp, said_put_accessed _ i s⟩
  case checks =>
    intro w c s hawake hrepl hcal hcheck img p
    have hexec := exec_replacementChecksDone hawake hrepl hcal hcheck
    have hp : replacementPayload w = p := rfl
    rw [hp] at hexec
    cases hfail : replaceChecks c p with
    | some f =>
      rw [hfail] at hexec
      obtain ⟨hr, ho, hst, herr, hkept⟩ := replaceEnd_spec f (fresh s)
      exact ⟨_, hexec, hr, ho, hst, herr, hkept.trans hcal⟩
    | none =>
      rw [hfail] at hexec
      obtain ⟨hr, ho, hst, hset, hnew⟩ := replaceTake_spec (s := fresh s) hcal p.toList
      exact ⟨_, hexec, hr, ho, hst, hset, hnew⟩
  case go =>
    intro i n s h
    have hres : goResult n.val (accessed i s) = goResult n.val s :=
      goResult_congr (accessed_st i s) (accessed_ldr i s) (accessed_cal i s) n.val
    refine writeCmd_loader h loaderReg_onCtrl (congrArg (Prod.mk _) (onCtrlWrite_go i n _)) rfl ⟨?_, ?_, ?_, ?_, ?_⟩
    · rw [← hres]
      rfl
    · simp [goWrite]
    · simp [goWrite]
    · exact fun hok => goWrite_batch_of_ok (hres.trans hok)
    · intro hno
      rw [put_ldr, goWrite_batch_of_refused (by rwa [hres]), accessed_ldr]
  case cancel =>
    intro i b s h hb hc
    have hcancel : cancelBatch (accessed i s) = _ := cancelBatch_of_untaken (by rwa [accessed_ldr]) (by rwa [accessed_lg])
    refine writeCmd_loader h loaderReg_onCtrl
      (congrArg (Prod.mk _) ((onCtrlWrite_cancel i _).trans hcancel)) rfl (by simp)
  case pending =>
    exact fun b s hawake hb hnew hbeat htick hsect => exec_batchPending hawake hb hnew hbeat htick hsect
  case apply =>
    intro b s hawake hb hpend htick heff
    obtain ⟨hnone, happ, hcount, hcal⟩ := batchDone_spec b (fresh s)
    exact ⟨_, exec_batchApply hawake hb hpend htick heff, by rwa [batchSide_ldr], by rwa [batchSide_ldr],
      by rwa [batchSide_ldr], by simp, by rwa [batchSide_cal]⟩
  case consts =>
    intro k c s hawake hm hc hcycle
    exact ⟨_, exec_constantApply hawake hm hc hcycle, applyConsts_pendingConsts k.val (fresh s), by simp⟩

end Sys2Proof
end

section
/-! SUPPORT AND PROOFS. The nodes of the chain (04 R87 to R96, R104 to R107, R114): what an event of a node makes of the
node at its place, and the frames that a node sends. -/

namespace Sys2Proof.Machine

/-! ### The node at a place -/

theorem nodeAt_place {s : State} {l k : Nat} {n : NodeS} (h : nodeAt s l k = some n) : n.line = l ∧ n.hop = k := by
  simpa using List.find?_some h

/-- A change that leaves a node of place (l, k) at that place. -/
def StaysAt (l k : Nat) (f : NodeS → NodeS) : Prop := ∀ n, n.line = l → n.hop = k → (f n).line = l ∧ (f n).hop = k

/-- A node changed at its place: the node there, and no other, is what the change makes of it. -/
theorem nodeAt_modNode {l k : Nat} {f : NodeS → NodeS} (hf : StaysAt l k f) (s : State) (l2 k2 : Nat) :
    nodeAt (modNode l k f s) l2 k2 = if (l2, k2) = (l, k) then (nodeAt s l k).map f else nodeAt s l2 k2 := by
  have hsame : (fun n : NodeS => n.line == l2 && n.hop == k2) ∘ (fun n => if n.line == l && n.hop == k then f n else n) =
      fun n : NodeS => n.line == l2 && n.hop == k2 := by
    funext n
    by_cases hn : n.line = l ∧ n.hop = k
    · obtain ⟨hl, hk⟩ := hf n hn.1 hn.2
      simp [hn, hl, hk]
    · simp [hn]
  rw [nodeAt, modNode, List.find?_map, hsame]
  split
  next heq =>
    obtain ⟨rfl, rfl⟩ := Prod.mk.inj heq
    refine Option.map_congr fun n hn => ?_
    obtain ⟨hl, hk⟩ := nodeAt_place hn
    simp [hl, hk]
  next hne =>
    refine (Option.map_congr fun n hn => ?_).trans Option.map_id_apply
    obtain ⟨rfl, rfl⟩ := nodeAt_place hn
    rw [if_neg, id]
    exact fun h => hne (by simpa using h)

/-- The node at the place of the change. -/
theorem nodeAt_modNode_self {l k : Nat} {f : NodeS → NodeS} {s : State} {n : NodeS} (hn : nodeAt s l k = some n)
    (hf : StaysAt l k f) : nodeAt (modNode l k f s) l k = some (f n) := by
  rw [nodeAt_modNode hf, if_pos rfl, hn, Option.map_some]

/-! ### A BEAT frame at a node (R88, R91, R92, R104, R107) -/

/-- A frame raises HELD to its claim, and renews it where it carries at least HELD. -/
theorem raise_spec (now : Int) (claim : Nat) (n : NodeS) :
    n.raise now claim = { n with held := max n.held claim, heldAt := if n.held ≤ claim then now else n.heldAt } := by
  unfold NodeS.raise
  split
  next h => rw [Nat.max_eq_right h]
  next h => rw [Nat.max_eq_left (Nat.le_of_not_le h)]

/-- What a node holds of its place, its address, its claim, its times and its bleeding. -/
def NodeS.holds (n : NodeS) : Nat × Nat × Option Nat × Nat × Int × Int × List (Nat × Nat) :=
  (n.line, n.hop, n.addr, n.held, n.heldAt, n.beatAt, n.bleeds)

/-- A BEAT frame kept as the newest from its end. -/
def NodeS.storeBeat (f : NodeBeat) (n : NodeS) : NodeS :=
  let h : HeldBeat := { beat := f.beat, arrival := f.arrival, instant := f.instant, hops := f.hops
                        tempNext := f.tempNext, roundNext := f.roundNext, primary := f.primary }
  match f.fromEnd with
  | .e => { n with fromE := some h, prevE := n.fromE }
  | .w => { n with fromW := some h, prevW := n.fromW }

/-- What a frame from the end that the node follows brings: frames lost, the round, and the bleed word where its claim is
not below HELD. -/
def NodeS.heedBeat (f : NodeBeat) (full : Bool) (gap : Nat) (n : NodeS) : NodeS :=
  if n.followW = (f.fromEnd == .w) then
    let n := { n with beatLost := satAdd n.beatLost gap (2 ^ 32 - 1)
                      roundBeat := if f.roundNext then some (f.beat + 1) else n.roundBeat }
    if full then { n with bleeds := ((f.beat, n.ownBleed f.bleed) :: n.bleeds).take 2 } else n
  else n

theorem storeBeat_holds (f : NodeBeat) (n : NodeS) : (n.storeBeat f).holds = n.holds := by
  unfold NodeS.storeBeat
  cases f.fromEnd <;> rfl

/-- A BEAT frame is taken in four steps: its claim, the frame itself, the end to follow, and what it brings. -/
theorem takeBeat_steps (now : Int) (f : NodeBeat) (n : NodeS) : ∃ b gap, n.takeBeat now f =
    ((NodeS.storeBeat f { n.raise now f.claim with beatAt := now, followBase := b }).choose f.beat).heedBeat f
      (decide (n.held ≤ f.claim)) gap := ⟨_, _, rfl⟩

/-- The bleed words change only where the frame comes from the end that the node follows. -/
theorem heedBeat_spec (f : NodeBeat) (full : Bool) (gap : Nat) (n : NodeS) :
    let m := n.heedBeat f full gap
    m.line = n.line ∧ m.hop = n.hop ∧ m.addr = n.addr ∧ m.held = n.held ∧ m.heldAt = n.heldAt ∧ m.beatAt = n.beatAt ∧
    (full = false → m.bleeds = n.bleeds) ∧
    (full = true → m.followW = (f.fromEnd == .w) → m.bleeds = ((f.beat, n.ownBleed f.bleed) :: n.bleeds).take 2) := by
  unfold NodeS.heedBeat
  by_cases hend : n.followW = (f.fromEnd == .w)
  · rw [if_pos hend]
    cases full
    · exact ⟨rfl, rfl, rfl, rfl, rfl, rfl, fun _ => rfl, nofun⟩
    · exact ⟨rfl, rfl, rfl, rfl, rfl, rfl, nofun, fun _ _ => rfl⟩
  · rw [if_neg hend]
    exact ⟨rfl, rfl, rfl, rfl, rfl, rfl, fun _ => rfl, fun _ h => absurd h hend⟩

/-- What an intact BEAT frame makes of a node that is awake. -/
theorem takeBeat_spec (now : Int) (f : NodeBeat) (n : NodeS) :
    let m := n.takeBeat now f
    m.line = n.line ∧ m.hop = n.hop ∧ m.addr = n.addr ∧ m.held = max n.held f.claim ∧
    m.heldAt = (if n.held ≤ f.claim then now else n.heldAt) ∧ m.beatAt = now ∧
    (f.claim < n.held → m.bleeds = n.bleeds) ∧
    (n.held ≤ f.claim → m.followW = (f.fromEnd == .w) → m.bleeds = ((f.beat, n.ownBleed f.bleed) :: n.bleeds).take 2) := by
  obtain ⟨b, gap, hsteps⟩ := takeBeat_steps now f n
  generalize hx : (NodeS.storeBeat f { n.raise now f.claim with beatAt := now, followBase := b }).choose f.beat = x at hsteps
  have hkept : x.holds = (n.line, n.hop, n.addr, max n.held f.claim, if n.held ≤ f.claim then now else n.heldAt, now,
      n.bleeds) := by
    rw [← hx, raise_spec]
    exact storeBeat_holds f _
  obtain ⟨hline, hhop, haddr, hheld, hheldAt, hbeatAt, hbleeds⟩ := by simpa only [NodeS.holds, Prod.mk.injEq] using hkept
  have hown : x.ownBleed f.bleed = n.ownBleed f.bleed := by rw [NodeS.ownBleed, NodeS.ownBleed, haddr]
  obtain ⟨gline, ghop, gaddr, gheld, gheldAt, gbeatAt, glow, gfull⟩ :=
    heedBeat_spec f (decide (n.held ≤ f.claim)) gap x
  simp only [hsteps]
  rw [hown, hbleeds] at gfull
  refine ⟨gline.trans hline, ghop.trans hhop, gaddr.trans haddr, gheld.trans hheld, gheldAt.trans hheldAt,
    gbeatAt.trans hbeatAt, fun h => ?_, fun h => gfull (decide_eq_true h)⟩
  exact (glow (decide_eq_false (Nat.not_le.mpr h))).trans hbleeds

/-! ### What a node does of itself (R88, R104, R105, R107) -/

/-- An event at a node that is awake acts; a sleeping one only begins to wake. -/
theorem meet_stays {l k : Nat} {f : NodeS → NodeS} (hf : StaysAt l k f) : StaysAt l k (NodeS.meet f) := by
  intro n hl hk
  unfold NodeS.meet
  split
  · exact ⟨hl, hk⟩
  · exact hf n hl hk

/-- What the frame brings to a node that is awake. -/
def NodeS.hearBeat (now : Int) (f : NodeBeat) (n : NodeS) : NodeS :=
  if beatIntact f then n.takeBeat now f else { n with crcErr := satAdd n.crcErr 1 (2 ^ 32 - 1) }

theorem hearBeat_stays (l k : Nat) (now : Int) (f : NodeBeat) : StaysAt l k (NodeS.hearBeat now f) := by
  intro n hl hk
  unfold NodeS.hearBeat
  split
  · obtain ⟨hline, hhop, -⟩ := takeBeat_spec now f n
    exact ⟨hline.trans hl, hhop.trans hk⟩
  · exact ⟨hl, hk⟩

theorem exec_nodeBeatReceive (l : Fin 4) (k : Fin 16) (f : NodeBeat) (s : State) :
    exec (.nodeBeatReceive l k f) s = .next (modNode l k (NodeS.meet (NodeS.hearBeat (fabNs s) f)) (fresh s)) := rfl

theorem nodeAt_after_beat {l k : Nat} {n : NodeS} {s : State} (hn : nodeAt s l k = some n) (f : NodeBeat) :
    nodeAt (modNode l k (NodeS.meet (NodeS.hearBeat (fabNs s) f)) (fresh s)) l k =
      some (n.meet (NodeS.hearBeat (fabNs s) f)) :=
  nodeAt_modNode_self (s := fresh s) hn (meet_stays (hearBeat_stays l k _ f))

/-- An event a span after a mark of a node: it acts once the span has passed, and before that nothing does. -/
theorem does_afterSpan {c : Instr} {l k span : Nat} {mark : NodeS → Int} {f : NodeS → NodeS} {n : NodeS} {s : State}
    (hexec : exec c s = .next (afterSpan l k mark span f (fresh s))) (hf : StaysAt l k f) (hn : nodeAt s l k = some n) :
    if (spanEnd (mark n) span s).isSome then Does c s (fun t => nodeAt t l k = some (f n))
    else exec c s = .next (fresh s) := by
  have hn' : nodeAt (fresh s) l k = some n := hn
  have hspan : spanEnd (mark n) span (fresh s) = spanEnd (mark n) span s := rfl
  rw [afterSpan, hn'] at hexec
  simp only [hspan] at hexec
  cases hend : spanEnd (mark n) span s with
  | none =>
    rw [hend] at hexec
    exact hexec
  | some ns =>
    rw [hend] at hexec
    exact ⟨_, hexec, nodeAt_modNode_self (s := atNs ns (fresh s)) hn hf⟩

theorem exec_nodeClaimRelease (l : Fin 4) (k : Fin 16) (s : State) : exec (.nodeClaimRelease l k) s =
    .next (afterSpan l k (·.heldAt) 3000000 (fun n => { n with held := 0 }) (fresh s)) := rfl

theorem exec_nodeStimulusFallback (l : Fin 4) (k : Fin 16) (s : State) : exec (.nodeStimulusFallback l k) s =
    .next (afterSpan l k (·.beatAt) 5000000 (fun n => { n.stopStim with bleeds := [] }) (fresh s)) := rfl

theorem exec_nodeSleep (l : Fin 4) (k : Fin 16) (s : State) : exec (.nodeSleep l k) s =
    .next (afterSpan l k (·.beatAt) 2000000000 NodeS.sleep (fresh s)) := rfl

/-- A reset leaves a fresh node at its place, and every other place as it was. -/
theorem nodeAt_after_reset (l : Fin 4) (k : Fin 16) (i : NodeIdent) (s : State) :
    Does (.nodeReset l k i) s (fun t => ∀ l2 k2 : Nat, nodeAt t l2 k2 =
      if (l2, k2) = (l.val, k.val) then some (NodeS.fresh (fabNs s) l.val k.val i) else nodeAt s l2 k2) := by
  unfold Does
  change ∃ t, execNodeReset l k i s = .next t ∧ _
  unfold execNodeReset
  dsimp only
  split
  next n hn =>
    refine ⟨_, rfl, fun l2 k2 => ?_⟩
    have hstays : StaysAt l.val k.val fun _ => NodeS.fresh (fabNs (fresh s)) l.val k.val i := fun _ _ _ => ⟨rfl, rfl⟩
    rw [nodeAt_modNode hstays, hn]
    rfl
  next hn =>
    refine ⟨_, rfl, fun l2 k2 => ?_⟩
    have happ : nodeAt { fresh s with nodes := (fresh s).nodes ++ [NodeS.fresh (fabNs s) l.val k.val i] } l2 k2 =
        (nodeAt s l2 k2).or (if (l2, k2) = (l.val, k.val) then some (NodeS.fresh (fabNs s) l.val k.val i) else none) := by
      rw [nodeAt, List.find?_append, List.find?_singleton]
      congr 1
      refine if_congr ?_ rfl rfl
      change (l.val == l2 && k.val == k2) = true ↔ _
      rw [Bool.and_eq_true, beq_iff_eq, beq_iff_eq, Prod.mk.injEq, eq_comm, @eq_comm _ k2]
    refine happ.trans ?_
    split
    next heq =>
      obtain ⟨rfl, rfl⟩ := Prod.mk.inj heq
      rw [show nodeAt s l.val k.val = none from hn, Option.none_or]
    next => rw [Option.or_none]

/-! ### What a node sends (R90, R92 to R96, R114) -/

/-- A node's sample where it has no address or not the two frames: none. -/
theorem sample_of_unpaired {beat : Nat} {n : NodeS} (h : n.addr = none ∨ n.pair beat = none) (mk : SampleMarks)
    (vp te : List Int) (ta : List TapEntry) : n.sample beat mk vp te ta = n := by
  unfold NodeS.sample
  split
  next ha hp => rcases h with h | h <;> simp_all
  next => rfl

theorem sample_stays (l k beat : Nat) (mk : SampleMarks) (vp te : List Int) (ta : List TapEntry) :
    StaysAt l k (fun n => if n.asleep then n else n.sample beat mk vp te ta) := by
  intro n hl hk
  dsimp only
  unfold NodeS.sample
  (repeat' split) <;> exact ⟨hl, hk⟩

/-- Before its tick, once in a beat, the sample of a node that is awake. -/
theorem does_nodeSample {l : Fin 4} {k : Fin 16} {n : NodeS} {s : State} (hn : nodeAt s l k = some n)
    (hawake : n.asleep = false) (htick : tickOf s ≤ 200) (hturn : hadTurn (.sample l k) s = false) (mk : SampleMarks)
    (vp te : List Int) (ta : List TapEntry) : Does (.nodeSample l k mk vp te ta) s (fun t => tickOf t = 200 ∧
      nodeAt t l k = some (n.sample s.time.beat mk vp te ta)) := by
  have hact : mayAct (.sample l.val k.val) 200 (fresh s) = true := (mayAct_iff ..).mpr ⟨htick, hturn⟩
  unfold Does
  change ∃ t, execNodeSample l k mk vp te ta s = .next t ∧ _
  simp only [execNodeSample, if_pos hact]
  refine ⟨_, rfl, tickOf_actAt (.sample l.val k.val) 200 (fresh s), ?_⟩
  refine (nodeAt_modNode_self (s := actAt (.sample l.val k.val) 200 (fresh s)) hn
    (sample_stays l.val k.val s.time.beat mk vp te ta)).trans ?_
  rw [hawake]
  rfl

/-- The RESULT of a node's newest sample. -/
def NodeS.resultFrame (a : Nat) (c : NodeTaken) (n : NodeS) : ChainFrame :=
  mkFrame 4 a n.held (c.beat % 65536)
    (resultBytes { nstat := n.nstat c.beat (n.resultNs / 2500) c.warn, suspect := c.suspect, vpos := c.vpos })

/-- The AUX of a node's newest sample. -/
def NodeS.auxFrame (a : Nat) (c : NodeTaken) (n : NodeS) : ChainFrame :=
  mkFrame 5 a n.held (c.beat % 65536) (auxBytes { tflagNew := c.tempNew, taps := c.taps, temps := n.temps })

theorem exec_nodeResultSend {l : Fin 4} {k : Fin 16} {n : NodeS} {a : Nat} {c : NodeTaken} {s : State}
    (hn : nodeAt s l k = some n) (hawake : n.asleep = false) (ha : n.addr = some a) (hc : n.taken = some c) :
    exec (.nodeResultSend l k) s = .next (
      if c.resultSent = true ∨ c.beat ≠ s.time.beat ∨ slotFree n.resultNs s = false then fresh s
      else put (.node l k n.toEnd n.resultNs (n.resultFrame a c))
        (modNode l k (fun n => { n with taken := some { c with resultSent := true } }) (atNs n.resultNs (fresh s)))) := by
  have hn' : nodeAt (fresh s) l k = some n := hn
  have hslot : slotFree n.resultNs (fresh s) = slotFree n.resultNs s := rfl
  change execNodeResultSend l k s = _
  simp only [execNodeResultSend, hn', ha, hc, hawake, hslot, fresh_time, Bool.false_or, Bool.or_eq_true, bne_iff_ne,
    Bool.not_eq_true', or_assoc]
  split <;> rfl

theorem exec_nodeAuxSend {l : Fin 4} {k : Fin 16} {n : NodeS} {a : Nat} {c : NodeTaken} {s : State}
    (hn : nodeAt s l k = some n) (hawake : n.asleep = false) (ha : n.addr = some a) (hc : n.taken = some c) :
    exec (.nodeAuxSend l k) s = .next (
      if c.auxSent = true ∨ c.beat + 1 ≠ s.time.beat ∨ slotFree n.auxNs s = false then fresh s
      else put (.node l k n.toEnd n.auxNs (n.auxFrame a c))
        (modNode l k (fun n => { n with taken := some { c with auxSent := true } }) (atNs n.auxNs (fresh s)))) := by
  have hn' : nodeAt (fresh s) l k = some n := hn
  have hslot : slotFree n.auxNs (fresh s) = slotFree n.auxNs s := rfl
  change execNodeAuxSend l k s = _
  simp only [execNodeAuxSend, hn', ha, hc, hawake, hslot, fresh_time, Bool.false_or, Bool.or_eq_true, bne_iff_ne,
    Bool.not_eq_true', or_assoc]
  split <;> rfl

/-- A node is due to announce itself: it has not done so in these 1 000 beats (R114). -/
def NodeS.announceDue (beat : Nat) (n : NodeS) : Prop := n.announced.map (fun b => b / 1000) ≠ some (beat / 1000)

theorem exec_nodeAnnounceSend {l : Fin 4} {k : Fin 16} {n : NodeS} {s : State} (hn : nodeAt s l k = some n)
    (hawake : n.asleep = false) (ha : n.addr = none) (hself : n.resetSelf = true) (hstep : n.inStep s.time.beat = true)
    (hdue : n.announceDue s.time.beat) (htick : tickOf s ≤ 186) :
    Does (.nodeAnnounceSend l k) s (fun t => t.sent = [.node l.val k.val n.toEnd (max s.time.ns 400000)
        (mkFrame 8 0xFE n.held 0 (announceBytes n.ident.uid n.ident.nodeType n.ident.proto))] ∧
      nodeAt t l k = some { n with announced := some s.time.beat }) := by
  have hn' : nodeAt (fresh s) l k = some n := hn
  have hgo : (n.asleep || n.addr.isSome || !n.resetSelf || !n.inStep (fresh s).time.beat ||
      (n.announced.map (fun b => b / 1000)) == some ((fresh s).time.beat / 1000) || decide (186 < tickOf (fresh s))) = false := by
    have htick' : tickOf (fresh s) ≤ 186 := htick
    have hdue' : (n.announced.map (fun b => b / 1000) == some (s.time.beat / 1000)) = false := beq_false_of_ne hdue
    simp [hawake, ha, hself, hstep, hdue', htick']
  unfold Does
  change ∃ t, execNodeAnnounceSend l k s = .next t ∧ _
  simp only [execNodeAnnounceSend, hn']
  rw [if_neg (ne_true_of_eq_false hgo)]
  have hstays : ∀ b, StaysAt l.val k.val (fun n => { n with announced := some b }) := fun b n hl hk => ⟨hl, hk⟩
  by_cases hearly : tickOf (fresh s) < 160
  · have hns : max s.time.ns 400000 = 400000 := by
      have : s.time.ns / 2500 < 160 := hearly
      omega
    rw [if_pos hearly, hns]
    exact ⟨_, rfl, rfl, nodeAt_modNode_self (s := atTick 160 (fresh s)) hn (hstays _)⟩
  · have hns : max s.time.ns 400000 = s.time.ns := by
      have : ¬ s.time.ns / 2500 < 160 := hearly
      omega
    rw [if_neg hearly, hns]
    exact ⟨_, rfl, rfl, nodeAt_modNode_self (s := fresh s) hn (hstays _)⟩

theorem exec_nodeAnnounceSend_idle {l : Fin 4} {k : Fin 16} {n : NodeS} {s : State} (hn : nodeAt s l k = some n)
    (h : n.addr ≠ none ∨ n.resetSelf = false ∨ ¬ n.announceDue s.time.beat ∨ 186 < tickOf s) :
    exec (.nodeAnnounceSend l k) s = .next (fresh s) := by
  have hn' : nodeAt (fresh s) l k = some n := hn
  change execNodeAnnounceSend l k s = _
  simp only [execNodeAnnounceSend, hn']
  refine if_pos ?_
  have htick : tickOf (fresh s) = tickOf s := rfl
  rcases h with h | h | h | h
  · simp [Option.isSome_iff_ne_none.mpr h]
  · simp [h]
  · simp [not_not.mp h]
  · simp [htick, h]

end Sys2Proof.Machine

namespace Sys2Proof

open Sys2Proof.Machine

/-- Settles O27: each event by what it makes of the node at its place, each frame by its condition. -/
theorem nodes : Obligations.Nodes := by
  refine ⟨⟨fun l k n s hn => ?self, fun l k i s => ?reset⟩, fun l k n s hn hawake => ⟨fun htick hturn => ?sample,
    fun a c ha hc => ?frames, ?announce⟩⟩
  case self =>
    refine ⟨fun f hawake hf => ?intact, fun f hawake hf => ?broken, fun f hasleep => ?asleep,
      does_afterSpan (exec_nodeClaimRelease l k s) (fun _ hl hk => ⟨hl, hk⟩) hn,
      does_afterSpan (exec_nodeStimulusFallback l k s) (fun _ hl hk => ⟨hl, hk⟩) hn,
      does_afterSpan (exec_nodeSleep l k s) (fun _ hl hk => ⟨hl, hk⟩) hn, ?wake⟩
    case intact =>
      have hbeat := nodeAt_after_beat hn f
      rw [NodeS.meet, if_neg (by simp [hawake]), NodeS.hearBeat, if_pos hf] at hbeat
      obtain ⟨-, -, haddr, hheld, hheldAt, hbeatAt, hlow, hfull⟩ := takeBeat_spec (fabNs s) f n
      exact ⟨_, exec_nodeBeatReceive l k f s, _, hbeat, hheld, haddr, hbeatAt, hheldAt, hlow, hfull⟩
    case broken =>
      have hbeat := nodeAt_after_beat hn f
      rw [NodeS.meet, if_neg (by simp [hawake]), NodeS.hearBeat, if_neg (by simp [hf])] at hbeat
      exact ⟨_, exec_nodeBeatReceive l k f s, hbeat⟩
    case asleep =>
      have hbeat := nodeAt_after_beat hn f
      rw [NodeS.meet, if_pos hasleep] at hbeat
      exact ⟨_, exec_nodeBeatReceive l k f s, hbeat⟩
    case wake =>
      refine ⟨_, rfl, nodeAt_modNode_self (s := fresh s) hn ?_⟩
      intro m hl hk
      dsimp only
      split <;> exact ⟨hl, hk⟩
  case reset =>
    obtain ⟨t, hexec, hat⟩ := nodeAt_after_reset l k i s
    exact ⟨t, hexec, ⟨_, (hat _ _).trans (if_pos rfl), rfl, rfl, rfl, rfl, rfl, rfl, rfl, rfl, rfl⟩,
      fun l2 k2 hne => (hat l2 k2).trans (if_neg hne)⟩
  case sample =>
    refine ⟨fun mk vp te ta h => ?_, fun mk vp te ta a x y ha hp => ?_⟩ <;>
      obtain ⟨t, hexec, htick', hat⟩ := does_nodeSample hn hawake htick hturn mk vp te ta
    · rw [sample_of_unpaired h] at hat
      exact ⟨t, hexec, hat, htick'⟩
    · simp only [NodeS.sample, ha, hp] at hat
      exact ⟨t, hexec, htick', _, _, hat, rfl, rfl, rfl, rfl, rfl, rfl, rfl, rfl, rfl, rfl, ha.symm⟩
  case frames =>
    have hresult := exec_nodeResultSend hn hawake ha hc
    have haux := exec_nodeAuxSend hn hawake ha hc
    refine ⟨fun hnew hbeat hslot => ?_, fun hnew hbeat hslot => ?_, fun h => ?_, fun h => ?_⟩
    · rw [if_neg (by simp [hnew, hbeat, hslot])] at hresult
      exact ⟨_, hresult, rfl, nodeAt_modNode_self (s := atNs n.resultNs (fresh s)) hn fun _ hl hk => ⟨hl, hk⟩⟩
    · rw [if_neg (by simp [hnew, hbeat, hslot])] at haux
      exact ⟨_, haux, rfl, nodeAt_modNode_self (s := atNs n.auxNs (fresh s)) hn fun _ hl hk => ⟨hl, hk⟩⟩
    · rwa [if_pos h] at hresult
    · rwa [if_pos h] at haux
  case announce =>
    exact ⟨fun ha hself hstep hdue htick => exec_nodeAnnounceSend hn hawake ha hself hstep hdue htick,
      exec_nodeAnnounceSend_idle hn⟩

end Sys2Proof
end

section
/-! SUPPORT AND PROOFS. The lines and node records of the chain by number, and the commands that the module sends on a line
(04 R89, R98 to R100, R103, R114; 06 R155, R158, R172). -/

namespace Sys2Proof.Machine

/-! ### Lines and records by number -/

@[simp] theorem lineAt_modLine_self {l : Nat} (h : l < 4) (f : Line → Line) (s : State) :
    lineAt (modLine l f s) l = f (lineAt s l) := getNat_updNat_same _ h f

theorem lineAt_modLine_other {l m : Nat} (h : m ≠ l) (f : Line → Line) (s : State) :
    lineAt (modLine l f s) m = lineAt s m := getNat_updNat_other _ h f

@[simp] theorem nodeRec_modRec_self {a : Nat} (h : a < 64) (f : NodeM → NodeM) (s : State) :
    nodeRec (modRec a f s) a = f (nodeRec s a) := getNat_updNat_same _ h f

/-! ### Nodes that a frame of a line meets are nodes of that line -/

theorem line_of_mem_lineFrom {l : Nat} {d : End} {s : State} {n : NodeS} (h : n ∈ lineFrom l d s) : n.line = l := by
  have hmem : n ∈ (List.range 16).filterMap (nodeAt s l) := by
    cases d with
    | e => exact h
    | w => exact List.mem_reverse.mp h
  obtain ⟨k, -, hk⟩ := List.mem_filterMap.mp hmem
  exact (nodeAt_place hk).1

theorem mem_of_mem_reach {n : NodeS} {x : List NodeS} (h : n ∈ reach x) : n ∈ x := by
  induction x with
  | nil => exact h
  | cons m r ih =>
    unfold reach at h
    split at h
    · exact (List.mem_cons.mp h).elim (fun e => e ▸ List.mem_cons_self) fun h => List.mem_cons_of_mem _ (ih h)
    · exact (List.mem_singleton.mp h) ▸ List.mem_cons_self

theorem mem_of_mem_assignPath {claim : Nat} {n : NodeS} {x : List NodeS} (h : n ∈ assignPath claim x) : n ∈ x := by
  induction x with
  | nil => exact h
  | cons m r ih =>
    have hgate : ∀ {p : Prop} [Decidable p], n ∈ (m :: if p then assignPath claim r else []) → n ∈ m :: r := by
      intro p _ hmem
      rcases List.mem_cons.mp hmem with rfl | hrest
      · exact List.mem_cons_self
      · split at hrest
        · exact List.mem_cons_of_mem _ (ih hrest)
        · cases hrest
    unfold assignPath at h
    split at h
    · exact hgate h
    · split at h
      · exact (List.mem_singleton.mp h) ▸ List.mem_cons_self
      · exact hgate h

theorem answering_line {l : Nat} {d : End} {addr : Nat} {s : State} {n : NodeS} (h : answering l d addr s = some n) :
    n.line = l := line_of_mem_lineFrom (mem_of_mem_reach (List.mem_of_find?_eq_some h))

theorem answeringUid_line {l : Nat} {d : End} {uid : Nat} {s : State} {n : NodeS}
    (h : answeringUid l d uid s = some n) : n.line = l :=
  line_of_mem_lineFrom (mem_of_mem_reach (List.mem_of_find?_eq_some h))

theorem assignTaker_line {l claim : Nat} {d : End} {s : State} {n : NodeS}
    (h : assignTaker claim (assignPath claim (lineFrom l d s)) = some n) : n.line = l := by
  obtain ⟨hlast, -⟩ := Option.filter_eq_some_iff.mp h
  exact line_of_mem_lineFrom (mem_of_mem_assignPath (List.mem_of_getLast? hlast))

/-! ### A command whose condition holds -/

/-- A command that acts under a condition, and leaves the state it was given where the condition fails. -/
theorem does_of_guard {c : Instr} {s x y : State} {b : Bool} {P : State → Prop}
    (hexec : exec c s = if b = true then .next x else .next y) (hb : b = true) (hx : P x) : Does c s P :=
  ⟨x, hexec.trans (if_pos hb), hx⟩

@[simp] theorem lineAt_fresh (s : State) (l : Nat) : lineAt (fresh s) l = lineAt s l := rfl
@[simp] theorem nodeRec_fresh (s : State) (a : Nat) : nodeRec (fresh s) a = nodeRec s a := rfl
@[simp] theorem e8On_fresh (s : State) : e8On (fresh s) = e8On s := rfl
@[simp] theorem cmdFree_fresh (l : Nat) (s : State) : cmdFree l (fresh s) = cmdFree l s := rfl
@[simp] theorem checkingNode_fresh (s : State) (a : Nat) : checkingNode (fresh s) a = checkingNode s a := rfl
@[simp] theorem ownDelays_fresh (s : State) (a : Nat) : ownDelays (fresh s) a = ownDelays s a := rfl
@[simp] theorem checked_fresh (s : State) (a : Nat) : checked (fresh s) a = checked s a := rfl
@[simp] theorem tapPlanOf_fresh (s : State) (a : Nat) : tapPlanOf (fresh s) a = tapPlanOf s a := rfl
@[simp] theorem holder_fresh (s : State) : holder (fresh s) = holder s := rfl

/-! ### The CMD frame of a command, and the REPLY that may follow it (R98, Table 04-8) -/

@[simp] theorem putReply_chain (op seq rslot claim : Nat) (c : NodeCmd) (n : Option NodeS) (s : State) :
    (putReply op seq rslot claim c n s).chain = s.chain := by
  cases n <;> rfl

@[simp] theorem putReply_spec (op seq rslot claim : Nat) (c : NodeCmd) (n : Option NodeS) (s : State) :
    (putReply op seq rslot claim c n s).spec = s.spec := by
  cases n <;> rfl

@[simp] theorem command_spec (addr op : Nat) (args : List Nat) (c : NodeCmd) (s : State) :
    (command addr op args c s).spec = s.spec := putReply_spec ..

@[simp] theorem nodeRec_command (addr op : Nat) (args : List Nat) (c : NodeCmd) (s : State) (a : Nat) :
    nodeRec (command addr op args c s) a = nodeRec s a :=
  (congrArg (fun x : Chain => getNat x.node a) (putReply_chain ..)).trans rfl

theorem sentCmd_sendCmd {s : State} (hsent : s.sent = []) (l : Nat) (d : End) (addr op : Nat) (args : List Nat) :
    SentCmd l d addr op args s (sendCmd l d addr op args s) := by
  refine ⟨⟨[], ?_, nofun⟩, rfl, rfl, rfl, rfl, rfl⟩
  change s.sent ++ _ = _
  rw [hsent]
  rfl

/-- What a command does at the nodes is no part of what leaves. -/
theorem sentCmd_nodes {l : Nat} {d : End} {addr op : Nat} {args : List Nat} {s t : State}
    (h : SentCmd l d addr op args s t) (x : List NodeS) : SentCmd l d addr op args s { t with nodes := x } := h

/-- A node of the line, or none, answers the command. -/
theorem sentCmd_reply {l : Nat} {d : End} {addr op : Nat} {args : List Nat} {s t : State} {n : Option NodeS}
    (h : SentCmd l d addr op args s t) (hn : ∀ m, n = some m → m.line = l) (op' seq rslot claim : Nat) (c : NodeCmd) :
    SentCmd l d addr op args s (putReply op' seq rslot claim c n t) := by
  cases n with
  | none => exact h
  | some m =>
    obtain ⟨⟨r, hr, hreply⟩, hrest⟩ := h
    refine ⟨⟨r ++ [m.reply (fabNs t) op' seq rslot claim c], ?_, fun e he => ?_⟩, hrest⟩
    · exact (congrArg (· ++ _) hr).trans List.cons_append
    · rcases List.mem_append.mp he with he | he
      · exact hreply e he
      · obtain rfl := List.mem_singleton.mp he
        exact ⟨m.hop, m.toEnd, _, _, congrArg (Emit.node · _ _ _ _) (hn m rfl), rfl⟩

theorem sentCmd_command {s : State} (hsent : s.sent = []) (addr op : Nat) (args : List Nat) (c : NodeCmd) :
    SentCmd (addr / 16) (cmdEnd s (addr / 16) addr) addr op args s (command addr op args c s) :=
  sentCmd_nodes (sentCmd_reply (sentCmd_sendCmd hsent ..) (fun _ h => answering_line h) ..) _

theorem sentCmd_broadcast {s : State} (hsent : s.sent = []) (l : Nat) (d : End) (op : Nat) (args : List Nat)
    (c : NodeCmd) : SentCmd l d 0xFF op args s (broadcast l d op args c s) :=
  sentCmd_nodes (sentCmd_sendCmd hsent ..) _

/-! ### The commands of a line (R100, R114; 06 R172) -/

theorem does_enumReset {l : Fin 4} {s : State} (hfree : cmdFree l s = true) (hstep : (lineAt s l).step = .waiting)
    (hwait : 3 ≤ (lineAt s l).waited) : Does (.enumReset l) s (fun t =>
      SentCmd l (primaryEnd s l) 0xFF 1 [] s t ∧ (lineAt t l).step = .assigning ∧ (lineAt t l).nextHop = 0) := by
  refine does_of_guard rfl (by simp [hfree, hstep, hwait]) ⟨?_, ?_, ?_⟩
  · exact sentCmd_broadcast (s := fresh s) rfl l _ 1 [] (.plain NodeS.enumReset)
  · rw [lineAt_modLine_self l.isLt]
  · rw [lineAt_modLine_self l.isLt]

theorem does_enumAssign {l : Fin 4} {s : State} (hfree : cmdFree l s = true) (hstep : (lineAt s l).step = .assigning)
    (hcmds : (lineAt s l).cmds = 0) (hhop : (lineAt s l).nextHop < 16) : Does (.enumAssign l) s (fun t =>
      SentCmd l (primaryEnd s l) 0xFF 2 [nodeAddr l (lineAt s l).nextHop, 0, 0, 0] s t ∧ (lineAt t l).cmds = 4) := by
  refine does_of_guard rfl (by simp [hfree, hstep, hcmds, hhop]) ⟨?_, ?_⟩
  · exact sentCmd_nodes (sentCmd_reply (sentCmd_sendCmd (s := fresh s) rfl ..) (fun _ h => assignTaker_line h) ..) _
  · rw [lineAt_modLine_self l.isLt]

theorem does_reassign {l : Fin 4} {a : Fin 64} {s : State} (hfree : cmdFree l s = true) (hline : a.val / 16 = l)
    (hassign : (nodeRec s a).assign = true) (hcmds : (lineAt s l).cmds = 0) : Does (.reassign l a) s (fun t =>
      SentCmd l (cmdEnd s l a) 0xFF 3 ([a.val, 0, 0, 0] ++ argB 8 (nodeRec s a).uid) s t ∧
      (nodeRec t a).assign = false) := by
  refine does_of_guard rfl (by simp [hfree, hline, hassign, hcmds]) ⟨?_, ?_⟩
  · exact sentCmd_nodes (sentCmd_reply (sentCmd_sendCmd (s := fresh s) rfl ..) (fun _ h => answeringUid_line h) ..) _
  · rw [nodeRec_modRec_self a.isLt]

theorem does_stimStop {l : Fin 4} {s : State} (hfree : cmdFree l s = true) (hstop : s.spec.stimStop.testBit l = true) :
    Does (.stimStop l) s (fun t => SentCmd l (cmdEnd s l 0xFF) 0xFF 12 [] s t ∧
      t.spec.stimStop = s.spec.stimStop - 2 ^ l.val ∧ ∀ k ∈ t.spec.locks, k.addr / 16 ≠ l) := by
  refine does_of_guard rfl (by simp [hfree, hstop]) ⟨?_, rfl, fun k hk => ?_⟩
  · exact sentCmd_broadcast (s := fresh s) rfl l _ 12 [] (.plain NodeS.stopStim)
  · simpa using (List.mem_filter.mp hk).2

/-! ### The commands of a node (R99, R100, R103; 06 R155, R158) -/

/-- A node's command with this OP and these arguments left, by the end that the node follows. -/
def NodeSent (a op : Nat) (args : List Nat) (s t : State) : Prop :=
  SentCmd (a / 16) (cmdEnd s (a / 16) a) a op args s t

theorem does_readId {a : Fin 64} {s : State} (hfree : cmdFree (a / 16) s = true) (hcheck : checkingNode s a = true)
    (hid : (nodeRec s a).idRead = false) : Does (.readId a) s (NodeSent a 4 [] s) :=
  does_of_guard rfl (by simp [hfree, hcheck, hid]) (sentCmd_command (s := fresh s) rfl ..)

theorem does_measSense {a : Fin 64} {s : State} (hfree : cmdFree (a / 16) s = true) (hcheck : checkingNode s a = true)
    (hid : (nodeRec s a).idRead = true) (hdelay : ownDelays s a = true) (hsense : (nodeRec s a).senseDone = false) :
    Does (.measSense a) s (fun t => NodeSent a 7 [] s t ∧ (nodeRec t a).senseSent = true) := by
  refine does_of_guard rfl (by simp [hfree, hcheck, hid, hdelay, hsense]) ⟨?_, ?_⟩
  · exact sentCmd_command (s := tookFree 1 (fresh s)) rfl ..
  · rw [nodeRec_modRec_self a.isLt]

theorem does_readSense {a : Fin 64} {s : State} (hfree : cmdFree (a / 16) s = true) (hcheck : checkingNode s a = true)
    (hsent : (nodeRec s a).senseSent = true) (hsense : (nodeRec s a).senseDone = false) :
    Does (.readSense a) s (NodeSent a 8 [] s) :=
  does_of_guard rfl (by simp [hfree, hcheck, hsent, hsense]) (sentCmd_command (s := tookFree 1 (fresh s)) rfl ..)

theorem does_readDiag {a : Fin 64} {s : State} (hfree : cmdFree (a / 16) s = true) (hfound : (nodeRec s a).found = true)
    (hassign : (nodeRec s a).assign = false)
    (hdue : (nodeRec s a).diagBeat.map (fun b => b / 1000) ≠ some (s.time.beat / 1000)) :
    Does (.readDiag a) s (fun t => NodeSent a 13 [] s t ∧ (nodeRec t a).diagBeat = some s.time.beat) := by
  have hgo : (cmdFree (a / 16) (fresh s) && (nodeRec (fresh s) a).found && !(nodeRec (fresh s) a).assign &&
      ((nodeRec (fresh s) a).diagBeat.map (fun b => b / 1000)) != some ((fresh s).time.beat / 1000)) = true := by
    simp only [cmdFree_fresh, hfree, nodeRec_fresh, hfound, hassign, fresh_time, bne_iff_ne.mpr hdue, Bool.not_false,
      Bool.and_self]
  refine does_of_guard rfl hgo ⟨?_, ?_⟩
  · exact sentCmd_command (s := tookFree 2 (fresh s)) rfl ..
  · rw [nodeRec_modRec_self a.isLt]
    rfl

theorem does_clearDiag {a : Fin 64} {s : State} (hfree : cmdFree (a / 16) s = true) (hfound : (nodeRec s a).found = true)
    (hassign : (nodeRec s a).assign = false) : Does (.clearDiag a) s (NodeSent a 14 [] s) :=
  does_of_guard rfl (by simp [hfree, hfound, hassign]) (sentCmd_command (s := fresh s) rfl ..)

theorem does_setDelay {a : Fin 64} {s : State} (hfree : cmdFree (a / 16) s = true) (hcheck : checked s a = true)
    (hnew : (nodeRec s a).newE.isSome = true ∨ (nodeRec s a).newW.isSome = true) : Does (.setDelay a) s (fun t =>
      NodeSent a 5 (argB 2 (delayE (nodeRec s a)) ++ argB 2 (delayW (nodeRec s a))) s t ∧
      (nodeRec t a).dE = delayE (nodeRec s a) ∧ (nodeRec t a).dW = delayW (nodeRec s a) ∧
      (nodeRec t a).newE = none ∧ (nodeRec t a).newW = none) := by
  refine does_of_guard rfl (by simp [hfree, hcheck, hnew]) ⟨?_, ?_⟩
  · exact sentCmd_command (s := fresh s) rfl ..
  · rw [nodeRec_modRec_self a.isLt]
    exact ⟨rfl, rfl, rfl, rfl⟩

/-- The entries of a node's tap plan that its next SET_TAP_PLAN writes. -/
def nextMux (s : State) (a : Nat) : List Nat := ((tapPlanOf s a).drop (nodeRec s a).planNext).take 120

theorem does_setTapPlan {a : Fin 64} {s : State} (hfree : cmdFree (a / 16) s = true) (hcheck : checked s a = true)
    (hE : (nodeRec s a).newE = none) (hW : (nodeRec s a).newW = none) (hmux : nextMux s a ≠ []) :
    Does (.setTapPlan a) s (fun t => NodeSent a 6 (argB 2 (nodeRec s a).planNext ++ argB 2 (nextMux s a).length ++
        (nextMux s a).flatMap (argB 2)) s t ∧
      (nodeRec t a).planNext = (nodeRec s a).planNext + (nextMux s a).length) := by
  have hgo : (cmdFree (a / 16) (fresh s) && checked (fresh s) a && (nodeRec (fresh s) a).newE.isNone &&
      (nodeRec (fresh s) a).newW.isNone && decide (0 < (nextMux s a).length)) = true := by
    simp [hfree, hcheck, hE, hW, List.length_pos_iff.mpr hmux]
  refine does_of_guard rfl hgo ⟨?_, ?_⟩
  · exact sentCmd_command (s := fresh s) rfl ..
  · rw [nodeRec_modRec_self a.isLt, nodeRec_command]
    rfl

theorem does_lockinRead {a : Fin 64} {pos bin : Nat} {s : State} (hfree : cmdFree (a / 16) s = true)
    (hholder : holder s = true) (hm : s.st.mode.fromArmed = true) (hfound : (nodeRec s a).found = true)
    (hpos : pos < 16) (hlow : 31 ≤ bin) (hhigh : bin ≤ 39) :
    Does (.lockinRead a pos bin) s (NodeSent a 11 [pos, bin, 0, 0] s) :=
  does_of_guard rfl (by simp [hfree, hholder, hm, hfound, hpos, hlow, hhigh])
    (sentCmd_command (s := tookFree 4 (fresh s)) rfl ..)

/-- Burst b is the one that a CHIME with these operands commands: it stands at this place, and its start is at most 50 beats
ahead (06 R155). -/
def ChimeOf (s : State) (a pos bin ampl cycles start : Nat) (b : Burst) : Prop :=
  b.bin = bin ∧ b.ampl = ampl ∧ b.cycles = cycles ∧ b.start % 65536 = start ∧ s.time.beat < b.start ∧
  b.start ≤ s.time.beat + 50 ∧ ∃ n, placeOf s b.pos = some (n, pos, a)

/-- The test by which a CHIME finds its burst. -/
def chimeTest (s : State) (a pos bin ampl cycles start : Nat) (b : Burst) : Bool :=
  b.bin == bin && b.ampl == ampl && b.cycles == cycles && b.start % 65536 == start && decide (s.time.beat < b.start) &&
    decide (b.start ≤ s.time.beat + 50) && (match placeOf s b.pos with
      | some (_, k, ad) => ad == a && k == pos
      | none => false)

theorem chimeTest_iff (s : State) (a pos bin ampl cycles start : Nat) (b : Burst) :
    chimeTest s a pos bin ampl cycles start b = true ↔ ChimeOf s a pos bin ampl cycles start b := by
  unfold chimeTest
  cases hp : placeOf s b.pos with
  | none => simp [ChimeOf, hp]
  | some y =>
    obtain ⟨n, k, ad⟩ := y
    simp only [ChimeOf, hp, Bool.and_eq_true, beq_iff_eq, decide_eq_true_eq, Option.some.injEq, Prod.mk.injEq,
      exists_eq_left', and_assoc, @and_comm (k = pos)]

/-- The command of a CHIME has left, and its burst runs. -/
def chimeSent (a : Nat) (args : List Nat) (c : NodeCmd) (b : Burst) (s : State) : State :=
  let s := command a 9 args c s
  { s with spec := { s.spec with toSend := s.spec.toSend.erase b, bursts := s.spec.bursts ++ [b] } }

theorem exec_chime (a : Fin 64) (pos bin ampl cycles start : Nat) (s : State) : ∃ c : NodeCmd,
    exec (.chime a pos bin ampl cycles start) s =
      match s.spec.toSend.find? (chimeTest s a pos bin ampl cycles start) with
      | some b => if (cmdFree (a / 16) s && holder s) = true then
          .next (chimeSent a ([pos, bin] ++ argB 2 ampl ++ argB 2 cycles ++ argB 2 start) c b (fresh s))
        else .next (fresh s)
      | none => .next (fresh s) := ⟨_, rfl⟩

theorem does_chime {a : Fin 64} {pos bin ampl cycles start : Nat} {b : Burst} {s : State}
    (hfree : cmdFree (a / 16) s = true) (hholder : holder s = true) (hmem : b ∈ s.spec.toSend)
    (hb : ChimeOf s a pos bin ampl cycles start b) : Does (.chime a pos bin ampl cycles start) s (fun t =>
      NodeSent a 9 ([pos, bin] ++ argB 2 ampl ++ argB 2 cycles ++ argB 2 start) s t ∧
      ∃ x ∈ s.spec.toSend, ChimeOf s a pos bin ampl cycles start x ∧ t.spec.toSend = s.spec.toSend.erase x ∧
        t.spec.bursts = s.spec.bursts ++ [x]) := by
  obtain ⟨c, hexec⟩ := exec_chime a pos bin ampl cycles start s
  cases hfind : s.spec.toSend.find? (chimeTest s a pos bin ampl cycles start) with
  | none => exact absurd ((chimeTest_iff ..).mpr hb) (List.find?_eq_none.mp hfind b hmem)
  | some x =>
    simp only [hfind, hfree, hholder, Bool.and_self, if_true] at hexec
    refine ⟨_, hexec, ?_, x, List.mem_of_find?_eq_some hfind, (chimeTest_iff ..).mp (List.find?_some hfind), ?_, ?_⟩
    · exact sentCmd_command (s := fresh s) rfl ..
    · rw [chimeSent, command_spec, fresh_spec]
    · rw [chimeSent, command_spec, fresh_spec]

/-- Lock-in r is the one that a LOCKIN_START with these operands commands. -/
def LockinOf (a bins mask start : Nat) (r : LockRun) : Prop :=
  r.addr = a ∧ r.bins = bins ∧ r.mask = mask ∧ r.start % 65536 = start

theorem does_lockinStart {a : Fin 64} {bins mask start : Nat} {s : State} (hfree : cmdFree (a / 16) s = true)
    (hholder : holder s = true) (hwait : ∃ r ∈ s.spec.lockToSend, LockinOf a bins mask start r)
    (hahead : ∀ r ∈ s.spec.lockToSend, r.addr = a → s.time.beat < r.start) :
    Does (.lockinStart a bins mask start) s (fun t =>
      NodeSent a 10 (argB 8 bins ++ argB 2 mask ++ argB 2 start) s t ∧
      ∃ r ∈ s.spec.lockToSend, LockinOf a bins mask start r ∧ t.spec.lockToSend = s.spec.lockToSend.erase r ∧
        t.spec.locks = s.spec.locks ++ [r]) := by
  have hiff : ∀ r : LockRun, (r.addr == a.val && r.bins == bins && r.mask == mask && r.start % 65536 == start) = true ↔
      LockinOf a bins mask start r := by
    intro r
    simp only [LockinOf, Bool.and_eq_true, beq_iff_eq, and_assoc]
  unfold Does
  change ∃ t, execLockinStart a bins mask start s = .next t ∧ _
  cases hfind : s.spec.lockToSend.find? (fun r =>
      r.addr == a.val && r.bins == bins && r.mask == mask && r.start % 65536 == start) with
  | none =>
    obtain ⟨r, hr, hof⟩ := hwait
    exact absurd ((hiff r).mpr hof) (List.find?_eq_none.mp hfind r hr)
  | some r =>
    have hr := List.mem_of_find?_eq_some hfind
    have htest := List.find?_some hfind
    have hof := (hiff r).mp htest
    have hlt : s.time.beat < r.start := hahead r hr hof.1
    simp only [execLockinStart, fresh_spec, hfind, cmdFree_fresh, hfree, holder_fresh, hholder, fresh_time,
      hlt, decide_true, Bool.and_self, if_true]
    refine ⟨_, rfl, ?_, r, hr, hof, ?_, ?_⟩
    · exact sentCmd_command (s := fresh s) rfl ..
    · rw [command_spec, fresh_spec]
    · rw [command_spec, fresh_spec]

end Sys2Proof.Machine

namespace Sys2Proof

open Sys2Proof.Machine

/-- Settles O23: each command by its own lemma. -/
theorem chainCommands : Obligations.ChainCommands := by
  refine fun s => ⟨fun l hfree => ⟨does_enumReset hfree, does_enumAssign hfree, fun a => does_reassign hfree,
    does_stimStop hfree⟩, fun a hfree => ⟨does_readId hfree, does_measSense hfree, fun hcheck => does_readSense hfree hcheck,
    fun hfound hassign => ⟨does_readDiag hfree hfound hassign, does_clearDiag hfree hfound hassign⟩,
    does_setDelay hfree, does_setTapPlan hfree,
    fun pos bin hholder hm hfound => does_lockinRead hfree hholder hm hfound, ?chime, ?lockin⟩⟩
  case chime =>
    intro pos bin ampl cycles start b hholder hmem hbin hampl hcycles hstart hahead hnear hplace
    obtain ⟨t, hexec, hsent, x, hx, ⟨xbin, xampl, xcycles, xstart, -, -, xplace⟩, htoSend, hbursts⟩ :=
      does_chime hfree hholder hmem ⟨hbin, hampl, hcycles, hstart, hahead, hnear, hplace⟩
    exact ⟨t, hexec, hsent, x, hx, xbin, xampl, xcycles, xstart, xplace, htoSend, hbursts⟩
  case lockin =>
    intro bins mask start hholder hwait hahead
    obtain ⟨t, hexec, hsent, r, hr, ⟨raddr, rbins, rmask, rstart⟩, htoSend, hlocks⟩ :=
      does_lockinStart hfree hholder hwait hahead
    exact ⟨t, hexec, hsent, r, hr, raddr, rbins, rmask, rstart, htoSend, hlocks⟩

end Sys2Proof
end

section
/-! SUPPORT AND PROOFS. The BEAT, SLEEP and PROBE frames of a beat (04 R89 to R91, R102, R103, R107). -/

namespace Sys2Proof.Machine

/-! ### What the rules of the chain read beside its lines and records -/

theorem ownClaim_congr {s t : State} (hcal : t.cal = s.cal) : ownClaim t = ownClaim s := by
  simp only [ownClaim, hcal]

theorem lineUsed_congr {s t : State} (hcal : t.cal = s.cal) (l : Nat) : lineUsed t l = lineUsed s l := by
  simp only [lineUsed, chainMap, hcal]

theorem ownBits_congr {s t : State} (hcal : t.cal = s.cal) (l : Nat) : ownBits t l = ownBits s l := by
  unfold ownBits endBits chainMap
  rw [hcal]

theorem higherClaim_congr {s t : State} (hcal : t.cal = s.cal) (hfab : t.fab = s.fab) :
    higherClaim t = higherClaim s := by
  unfold higherClaim inPair ownClaim
  rw [hcal, hfab]

theorem primaryEnd_congr {s t : State} (hcal : t.cal = s.cal) (hfab : t.fab = s.fab) (l : Nat) :
    primaryEnd t l = primaryEnd s l := by
  unfold primaryEnd inPair endBits chainMap
  rw [ownBits_congr hcal, higherClaim_congr hcal hfab, hcal]

theorem addrOf_congr {s t : State} (hcal : t.cal = s.cal) (hfab : t.fab = s.fab) (n : NodeMap) :
    addrOf t n = addrOf s n := by
  simp only [addrOf, hopFromE, hopFrom, chainMap, primaryEnd_congr hcal hfab, hcal]

theorem placeOf_congr {s t : State} (hcal : t.cal = s.cal) (hfab : t.fab = s.fab) (p : Nat) :
    placeOf t p = placeOf s p := by
  simp only [placeOf, chainMap, addrOf_congr hcal hfab, hcal]

theorem beatEnds_congr {s t : State} {l : Nat} (hcal : t.cal = s.cal) (hfab : t.fab = s.fab)
    (hsecond : (lineAt t l).secondary = (lineAt s l).secondary) : beatEnds t l = beatEnds s l := by
  have hsecond' : (getNat t.chain.line l).secondary = (getNat s.chain.line l).secondary := hsecond
  unfold beatEnds sendsPrimary inPair
  rw [ownBits_congr hcal, higherClaim_congr hcal hfab, primaryEnd_congr hcal hfab, hcal, hfab, hsecond']

theorem beatPayload_congr {s t : State} (hcal : t.cal = s.cal) (hfab : t.fab = s.fab) (hbeat : t.time.beat = s.time.beat)
    (l : Nat) (primary : Bool) (ps : List Nat) : beatPayload t l primary ps = beatPayload s l primary ps := by
  simp only [beatPayload, bleedWords, placeOf_congr hcal hfab, hbeat]

/-! ### What the frames of a beat leave alone -/

/-- The time, the calibre, STATE, the fabric, the limits, the safety functions, the node records, and which lines carry
secondary frames: what sending BEAT and PROBE frames reads and leaves. -/
structure SendKept (s t : State) : Prop where
  time : t.time = s.time
  cal : t.cal = s.cal
  fab : t.fab = s.fab
  st : t.st = s.st
  saf : t.saf = s.saf
  lim : t.lim = s.lim
  node : t.chain.node = s.chain.node
  second : ∀ l, (lineAt t l).secondary = (lineAt s l).secondary

theorem SendKept.refl (s : State) : SendKept s s := ⟨rfl, rfl, rfl, rfl, rfl, rfl, rfl, fun _ => rfl⟩

theorem SendKept.trans {s t u : State} (h : SendKept s t) (h' : SendKept t u) : SendKept s u :=
  ⟨h'.time.trans h.time, h'.cal.trans h.cal, h'.fab.trans h.fab, h'.st.trans h.st, h'.saf.trans h.saf,
    h'.lim.trans h.lim, h'.node.trans h.node, fun l => (h'.second l).trans (h.second l)⟩

theorem SendKept.put (e : Emit) (s : State) : SendKept s (put e s) := ⟨rfl, rfl, rfl, rfl, rfl, rfl, rfl, fun _ => rfl⟩

theorem SendKept.tookFree (k : Nat) (s : State) : SendKept s (tookFree k s) :=
  ⟨rfl, rfl, rfl, rfl, rfl, rfl, rfl, fun _ => rfl⟩

theorem SendKept.nodeCommand (l : Nat) (d : End) (addr claim : Nat) (c : NodeCmd) (s : State) :
    SendKept s (nodeCommand l d addr claim c s) := ⟨rfl, rfl, rfl, rfl, rfl, rfl, rfl, fun _ => rfl⟩

theorem SendKept.modLine {f : Line → Line} (hf : ∀ x, (f x).secondary = x.secondary) (l : Nat) (s : State) :
    SendKept s (modLine l f s) := by
  refine ⟨rfl, rfl, rfl, rfl, rfl, rfl, rfl, fun m => ?_⟩
  by_cases hm : m = l
  · subst hm
    by_cases hlt : m < 4
    · rw [lineAt_modLine_self hlt, hf]
    · rw [lineAt, Machine.modLine, updNat_of_ge _ (Nat.le_of_not_lt hlt)]
      rfl
  · rw [lineAt_modLine_other hm]

/-- Turns of numbers that each add to an output what depends on their start add, one after the other, what the first state
says. -/
theorem foldl_range_adds {α : Type} {f : State → Nat → State} {o : State → List α} {g : State → Nat → List α}
    (hadd : ∀ s k, o (f s k) = o s ++ g s k) (hkept : ∀ n s, g ((List.range n).foldl f s) n = g s n) (n : Nat)
    (s : State) : o ((List.range n).foldl f s) = o s ++ (List.range n).flatMap (g s) := by
  induction n with
  | zero => simp
  | succ n ih =>
    rw [List.range_succ, List.foldl_append, List.foldl_cons, List.foldl_nil, hadd, hkept, ih, List.flatMap_append,
      List.append_assoc, List.flatMap_singleton]

/-! ### BEAT frames (R89 to R91) -/

/-- The BEAT frame that leaves by an end of a line. -/
def beatFrameOf (s : State) (l : Nat) (ps : List Nat) (d : End) : Emit :=
  .chain l d (mkFrame 1 0xFF (ownClaim s) (s.time.beat % 65536) (beatPayload s l (d == primaryEnd s l) ps))

/-- The BEAT frames of a line. -/
def beatFramesOf (ps : List Nat) (s : State) (l : Nat) : List Emit :=
  if lineUsed s l then (beatEnds s l).map (beatFrameOf s l ps) else []

/-- A BEAT frame leaves by an end of a line. -/
def sendBeat (l : Nat) (ps : List Nat) (s : State) (d : End) : State :=
  modLine l (fun x => { x with slept := false })
    (sendChain l d 1 0xFF (s.time.beat % 65536) (beatPayload s l (d == primaryEnd s l) ps) s)

/-- The BEAT frames of a line leave. -/
def sendBeats (ps : List Nat) (s : State) (l : Nat) : State :=
  if lineUsed s l then (beatEnds s l).foldl (sendBeat l ps) s else s

theorem sendBeat_kept (l : Nat) (ps : List Nat) (s : State) (d : End) : SendKept s (sendBeat l ps s d) :=
  (SendKept.put _ s).trans (.modLine (f := fun x => { x with slept := false }) (fun _ => rfl) l _)

theorem beatFrameOf_congr {s t : State} (hcal : t.cal = s.cal) (hfab : t.fab = s.fab) (hbeat : t.time.beat = s.time.beat)
    (l : Nat) (ps : List Nat) : beatFrameOf t l ps = beatFrameOf s l ps := by
  funext d
  simp only [beatFrameOf, ownClaim_congr hcal, hbeat, primaryEnd_congr hcal hfab, beatPayload_congr hcal hfab hbeat]

theorem beatFramesOf_congr {s t : State} (hcal : t.cal = s.cal) (hfab : t.fab = s.fab) (hbeat : t.time.beat = s.time.beat)
    {l : Nat} (hsecond : (lineAt t l).secondary = (lineAt s l).secondary) (ps : List Nat) :
    beatFramesOf ps t l = beatFramesOf ps s l := by
  rw [beatFramesOf, lineUsed_congr hcal, beatEnds_congr hcal hfab hsecond, beatFrameOf_congr hcal hfab hbeat,
    beatFramesOf]

theorem sendBeat_fold (l : Nat) (ps : List Nat) (ds : List End) (s : State) :
    SendKept s (ds.foldl (sendBeat l ps) s) ∧
    (ds.foldl (sendBeat l ps) s).sent = s.sent ++ ds.map (beatFrameOf s l ps) := by
  induction ds generalizing s with
  | nil => exact ⟨.refl s, (List.append_nil _).symm⟩
  | cons d r ih =>
    obtain ⟨hkept, hsent⟩ := ih (sendBeat l ps s d)
    refine ⟨(sendBeat_kept l ps s d).trans hkept, hsent.trans ?_⟩
    rw [beatFrameOf_congr rfl rfl rfl, List.map_cons, List.append_cons]
    rfl

theorem sendBeats_spec (ps : List Nat) (s : State) (l : Nat) :
    SendKept s (sendBeats ps s l) ∧ (sendBeats ps s l).sent = s.sent ++ beatFramesOf ps s l := by
  unfold sendBeats beatFramesOf
  split
  · exact sendBeat_fold l ps _ s
  · exact ⟨.refl s, (List.append_nil _).symm⟩

theorem sendBeats_fold_kept (ps : List Nat) (n : Nat) (s : State) :
    SendKept s ((List.range n).foldl (sendBeats ps) s) :=
  List.foldlRecOn (motive := SendKept s) _ _ (.refl s) fun _ h l _ => h.trans (sendBeats_spec ps _ l).1

theorem sendBeats_fold_sent (ps : List Nat) (n : Nat) (s : State) :
    ((List.range n).foldl (sendBeats ps) s).sent = s.sent ++ (List.range n).flatMap (beatFramesOf ps s) :=
  foldl_range_adds (o := State.sent) (fun s l => (sendBeats_spec ps s l).2)
    (fun n s => have h := sendBeats_fold_kept ps n s
      beatFramesOf_congr h.cal h.fab (congrArg Time.beat h.time) (h.second n) ps) n s

/-- BEAT_FRAME: the plan and the bleed charge move on at 20 500 ns, and the BEAT frames of the four lines leave. -/
theorem exec_beatFrame {s : State} (hon : e8On s = true) (hns : s.time.ns ≤ 20500) (hturn : hadTurn .beatFrame s = false) :
    ∃ u ps, exec .beatFrame s = .next (takeOver ((List.range 4).foldl (sendBeats ps) u)) ∧ u.lim.bleed = ps ∧
      u.time.beat = s.time.beat ∧ u.time.ns = 20500 ∧ hadTurn .beatFrame u = true ∧ u.sent = [] ∧ u.st = s.st ∧
      u.saf = s.saf ∧ u.cal = s.cal ∧ u.fab = s.fab ∧ u.chain = s.chain := by
  have hgo : (e8On (fresh s) && decide ((fresh s).time.ns ≤ 20500) && !hadTurn .beatFrame (fresh s)) = true := by
    simp [hon, hns, hturn]
  have hmax : max s.time.ns 20500 = 20500 := Nat.max_eq_right hns
  exact ⟨_, _, if_pos hgo, rfl, rfl, hmax, by simp [hadTurn], rfl, rfl, rfl, rfl, rfl, rfl⟩

/-- Taking over the holder role changes the fabric block alone. -/
theorem takeOver_eq (s : State) : ∃ f, takeOver s = { s with fab := f } := by
  unfold takeOver
  split
  · exact ⟨_, rfl⟩
  · exact ⟨s.fab, rfl⟩

theorem does_beatFrame {s : State} (hon : e8On s = true) (hns : s.time.ns ≤ 20500)
    (hturn : hadTurn .beatFrame s = false) : Does .beatFrame s (fun t =>
      t.time.ns = 20500 ∧ hadTurn .beatFrame t = true ∧ t.st = s.st ∧ t.saf = s.saf ∧
      t.sent = (List.range 4).flatMap (beatFramesOf t.lim.bleed s)) := by
  obtain ⟨u, ps, hexec, hbleed, hbeat, hns', hturn', hsent, hst, hsaf, hcal, hfab, hchain⟩ := exec_beatFrame hon hns hturn
  have hframes : beatFramesOf ps u = beatFramesOf ps s := by
    funext l
    exact beatFramesOf_congr hcal hfab hbeat (by rw [lineAt, hchain, lineAt]) ps
  have hkept := sendBeats_fold_kept ps 4 u
  have hleft := sendBeats_fold_sent ps 4 u
  rw [hsent, hframes, List.nil_append] at hleft
  generalize (List.range 4).foldl (sendBeats ps) u = v at hexec hkept hleft
  obtain ⟨f, hover⟩ := takeOver_eq v
  rw [hover] at hexec
  refine ⟨_, hexec, ?_, ?_, hkept.st.trans hst, hkept.saf.trans hsaf, ?_⟩
  · rw [← hns', ← hkept.time]
  · rw [← hturn', hadTurn, hadTurn, ← hkept.time]
  · rw [← hbleed, ← hkept.lim] at hleft
    exact hleft

/-! ### SLEEP (R107) -/

theorem does_sleep {l : Fin 4} {s : State} (hawake : awake s = true)
    (hcmd : s.host.cmds.any (fun c => c.code == 1 || c.code == 6) = true) (hfree : windowFree l s = true)
    (hslept : (lineAt s l).slept = false) : Does (.sleep l) s (fun t =>
      SentCmd l (sleepEnd s l) 0xFF 15 [] s t ∧ (lineAt t l).slept = true) := by
  have hgo : (awake (fresh s) && (fresh s).host.cmds.any (fun c => c.code == 1 || c.code == 6) &&
      windowFree l (fresh s) && !(lineAt (fresh s) l).slept) = true := by
    have hfree' : windowFree l (fresh s) = true := hfree
    rw [awake_fresh, hawake, fresh_host, hcmd, hfree', lineAt_fresh, hslept]
    rfl
  refine does_of_guard rfl hgo ⟨?_, ?_⟩
  · exact sentCmd_broadcast (s := fresh s) rfl l _ 15 [] (.plain NodeS.sleep)
  · exact congrArg Line.slept (lineAt_modLine_self l.isLt _ _)

/-! ### PROBE frames (R102, R103) -/

/-- An output is a frame that this module sends on the chain. -/
def isChain (e : Emit) : Bool :=
  match e with
  | .chain .. => true
  | _ => false

/-- The frames of this module on the chain among what a command put out. -/
def chainSent (s : State) : List Emit := s.sent.filter isChain

/-- The PROBE that goes out on a line: the next of its rotation. -/
def probeNext (s : State) (l : Nat) : Option (Nat × End) :=
  if lineUsed s l then (probesDue s l)[(lineAt s l).probeIdx % max 1 (probesDue s l).length]? else none

/-- A line whose PROBE is out. -/
def probedLine (due : Nat) (p : Nat × End) (x : Line) : Line :=
  { x with probe := some p, probeIdx := (x.probeIdx + 1) % max 1 due }

theorem probeLine_of_none {s : State} {l : Nat} (h : probeNext s l = none) : probeLine l s = s := by
  unfold probeNext at h
  unfold probeLine
  dsimp only
  split
  next hused =>
    rw [if_pos hused] at h
    rw [h]
  next => rfl

theorem probeLine_of_some {s : State} {l : Nat} {p : Nat × End} (h : probeNext s l = some p) :
    probeLine l s = sendProbe l p.2 p.1 (modLine l (probedLine (probesDue s l).length p) s) := by
  unfold probeNext at h
  unfold probeLine
  dsimp only
  split at h
  next hused =>
    rw [if_pos hused, h]
    rfl
  next => cases h

/-- A PROBE leaves, its node may echo it, and the nodes that it reaches see its claim: lines and records stay. -/
theorem sendProbe_spec (l : Nat) (d : End) (a : Nat) (s : State) :
    SendKept s (sendProbe l d a s) ∧ (sendProbe l d a s).chain = s.chain ∧
    chainSent (sendProbe l d a s) = chainSent s ++ [.chain l d (mkFrame 3 a (ownClaim s) 0 [])] := by
  unfold sendProbe
  dsimp only
  have hprobe : SendKept s (tookFree 1 (sendChain l d 3 a 0 [] s)) := (SendKept.put _ s).trans (.tookFree 1 _)
  have hsent : chainSent (tookFree 1 (sendChain l d 3 a 0 [] s)) =
      chainSent s ++ [.chain l d (mkFrame 3 a (ownClaim s) 0 [])] := List.filter_append ..
  split
  · refine ⟨(hprobe.trans (.put _ _)).trans (.nodeCommand ..), rfl, ?_⟩
    refine (List.filter_append ..).trans ?_
    exact (List.append_nil _).trans hsent
  · exact ⟨hprobe.trans (.nodeCommand ..), rfl, hsent⟩

theorem lineAt_sendProbe (l : Nat) (d : End) (a : Nat) (s : State) (m : Nat) :
    lineAt (sendProbe l d a s) m = lineAt s m :=
  congrArg (fun c : Chain => getNat c.line m) (sendProbe_spec l d a s).2.1

/-- The PROBE frame of a line, or none. -/
def probeFramesOf (s : State) (l : Nat) : List Emit :=
  ((probeNext s l).map (fun p => .chain l p.2 (mkFrame 3 p.1 (ownClaim s) 0 []))).toList

theorem probeLine_spec (s : State) (l : Nat) :
    SendKept s (probeLine l s) ∧ chainSent (probeLine l s) = chainSent s ++ probeFramesOf s l ∧
    ∀ m, m ≠ l → lineAt (probeLine l s) m = lineAt s m := by
  cases h : probeNext s l with
  | none =>
    rw [probeLine_of_none h, probeFramesOf, h]
    exact ⟨.refl s, (List.append_nil _).symm, fun _ _ => rfl⟩
  | some p =>
    obtain ⟨hkept, -, hsent⟩ := sendProbe_spec l p.2 p.1 (modLine l (probedLine (probesDue s l).length p) s)
    rw [probeLine_of_some h, probeFramesOf, h]
    have hmod : SendKept s (modLine l (probedLine (probesDue s l).length p) s) :=
      .modLine (f := probedLine _ p) (fun _ => rfl) l s
    exact ⟨hmod.trans hkept, hsent, fun m hm => (lineAt_sendProbe ..).trans (lineAt_modLine_other hm _ s)⟩

/-- What the rotation of a line is made of: that line, the records, the calibre, the fabric and STATE. -/
structure SameProbes (l : Nat) (s t : State) : Prop where
  line : lineAt t l = lineAt s l
  node : t.chain.node = s.chain.node
  cal : t.cal = s.cal
  fab : t.fab = s.fab
  st : t.st = s.st

theorem SameProbes.due {s t : State} {l : Nat} (h : SameProbes l s t) : probesDue t l = probesDue s l := by
  have hrec : nodeRec t = nodeRec s := by
    funext a
    rw [nodeRec, h.node, nodeRec]
  unfold probesDue probeList
  rw [h.st, h.line, hrec, ownBits_congr h.cal, higherClaim_congr h.cal h.fab]

theorem SameProbes.next {s t : State} {l : Nat} (h : SameProbes l s t) : probeNext t l = probeNext s l := by
  unfold probeNext
  rw [lineUsed_congr h.cal, h.due, h.line]

theorem SameProbes.frames {s t : State} {l : Nat} (h : SameProbes l s t) : probeFramesOf t l = probeFramesOf s l := by
  rw [probeFramesOf, h.next, ownClaim_congr h.cal, probeFramesOf]

theorem SendKept.sameProbes {s t : State} (h : SendKept s t) {l : Nat} (hline : lineAt t l = lineAt s l) :
    SameProbes l s t := ⟨hline, h.node, h.cal, h.fab, h.st⟩

/-- The turns of the lines: each line's is its own, and what they leave alone stays. -/
theorem probes_fold (n : Nat) (s : State) :
    let t := (List.range n).foldl (fun s l => probeLine l s) s
    SendKept s t ∧ (∀ m, n ≤ m → lineAt t m = lineAt s m) ∧
    ∀ l < n, ∃ u, SendKept s u ∧ lineAt u l = lineAt s l ∧ lineAt t l = lineAt (probeLine l u) l :=
  foldl_range_at (K := SendKept) (g := lineAt) (f := fun s l => probeLine l s) .refl .trans
    (fun s l => (probeLine_spec s l).1) (fun s l m hm => (probeLine_spec s l).2.2 m hm) n s

theorem probes_fold_sent (n : Nat) (s : State) :
    chainSent ((List.range n).foldl (fun s l => probeLine l s) s) =
      chainSent s ++ (List.range n).flatMap (probeFramesOf s) := by
  refine foldl_range_adds (fun s l => (probeLine_spec s l).2.1) (fun n s => ?_) n s
  obtain ⟨hkept, hrest, -⟩ := probes_fold n s
  exact (hkept.sameProbes (hrest n (le_refl n))).frames

theorem does_probeFrame {s : State} (hon : e8On s = true) (hyield : (inPair s && s.fab.pair.yielded) = false)
    (htick : tickOf s ≤ 144) (hturn : hadTurn .probeFrame s = false) : Does .probeFrame s (fun t =>
      tickOf t = 144 ∧ hadTurn .probeFrame t = true ∧ t.st = s.st ∧
      chainSent t = (List.range 4).filterMap (fun l => (probeNext s l).map (fun p =>
        .chain l p.2 (mkFrame 3 p.1 (ownClaim s) 0 []))) ∧
      ∀ l < 4, (probeNext s l = none → lineAt t l = lineAt s l) ∧
        ∀ p, probeNext s l = some p → lineAt t l = probedLine (probesDue s l).length p (lineAt s l)) := by
  have hgo : (e8On (fresh s) && !(inPair (fresh s) && (fresh s).fab.pair.yielded) && mayAct .probeFrame 144 (fresh s)) =
      true := by
    have hyield' : (inPair (fresh s) && (fresh s).fab.pair.yielded) = false := hyield
    rw [e8On_fresh, hon, hyield', mayAct_fresh, (mayAct_iff ..).mpr ⟨htick, hturn⟩]
    rfl
  have hexec : exec .probeFrame s =
      .next ((List.range 4).foldl (fun s l => probeLine l s) (actAt .probeFrame 144 (fresh s))) := if_pos hgo
  have hsame : ∀ l, SameProbes l s (actAt .probeFrame 144 (fresh s)) := fun l => ⟨rfl, rfl, rfl, rfl, rfl⟩
  have htick' : tickOf (actAt .probeFrame 144 (fresh s)) = 144 := tickOf_actAt ..
  have hturn' : hadTurn .probeFrame (actAt .probeFrame 144 (fresh s)) = true := by simp
  have hnone : chainSent (actAt .probeFrame 144 (fresh s)) = [] := rfl
  have hst : (actAt .probeFrame 144 (fresh s)).st = s.st := rfl
  generalize actAt .probeFrame 144 (fresh s) = x at hexec hsame htick' hturn' hnone hst
  obtain ⟨hkept, -, hline⟩ := probes_fold 4 x
  have hsent := probes_fold_sent 4 x
  refine ⟨_, hexec, ?_, ?_, hkept.st.trans hst, ?_, fun l hl => ?_⟩
  · rw [← htick', tickOf, tickOf, hkept.time]
  · rw [← hturn', hadTurn, hadTurn, hkept.time]
  · rw [hsent, hnone, List.nil_append, List.filterMap_eq_flatMap_toList]
    exact congrArg (List.flatMap · (List.range 4)) (funext fun l => (hsame l).frames)
  · obtain ⟨u, hu, hul, htl⟩ := hline l hl
    have hsame' : SameProbes l x u := hu.sameProbes hul
    have hnext : probeNext u l = probeNext s l := hsame'.next.trans (hsame l).next
    have hdue : probesDue u l = probesDue s l := hsame'.due.trans (hsame l).due
    have hul' : lineAt u l = lineAt s l := hul.trans (hsame l).line
    refine ⟨fun hno => ?_, fun p hsome => ?_⟩
    · rw [probeLine_of_none (hnext.trans hno)] at htl
      exact htl.trans hul'
    · rw [probeLine_of_some (hnext.trans hsome), hdue, lineAt_sendProbe, lineAt_modLine_self hl, hul'] at htl
      exact htl

end Sys2Proof.Machine

namespace Sys2Proof

open Sys2Proof.Machine

/-- Settles O24: BEAT and PROBE frames by what each line adds to the output, and SLEEP as a broadcast. -/
theorem chainFrames : Obligations.ChainFrames := by
  refine fun s => ⟨does_beatFrame, fun l => does_sleep, fun hon hyield htick hturn => ?_⟩
  obtain ⟨t, hexec, htick', hturn', hst, hsent, hline⟩ := does_probeFrame hon hyield htick hturn
  refine ⟨t, hexec, htick', hturn', hst, hsent, fun l hl => ⟨(hline l hl).1, fun p hp => ?_⟩⟩
  rw [(hline l hl).2 p hp]
  exact ⟨rfl, rfl⟩

end Sys2Proof
end

section
/-! SUPPORT AND PROOFS. What a line shows (04 R100 to R103, R109, R111): the end of its enumeration, the pass-through check,
the return to WHOLE, and the ECHO of a probe or its loss. -/

namespace Sys2Proof.Machine

/-! ### A chain check that fails (R101) -/

@[simp] theorem enumFail_node (l err : Nat) (d : End) (hop detail : Nat) (s : State) :
    (enumFail l err d hop detail s).chain.node = s.chain.node := by
  unfold enumFail
  dsimp only
  split <;> rfl

@[simp] theorem nodeRec_enumFail (l err : Nat) (d : End) (hop detail : Nat) (s : State) (a : Nat) :
    nodeRec (enumFail l err d hop detail s) a = nodeRec s a := by
  rw [nodeRec, enumFail_node, nodeRec]

/-- The line of the check fails, and the other lines stay. -/
theorem lineAt_enumFail (l err : Nat) (d : End) (hop detail : Nat) (s : State) (m : Nat) :
    lineAt (enumFail l err d hop detail s) m = lineAt (modLine l (fun x => { x with step := .failed }) s) m := by
  unfold enumFail
  dsimp only
  split <;> rfl

theorem lineAt_enumFail_self {l : Nat} (h : l < 4) (err : Nat) (d : End) (hop detail : Nat) (s : State) :
    lineAt (enumFail l err d hop detail s) l = { lineAt s l with step := .failed } :=
  (lineAt_enumFail ..).trans (lineAt_modLine_self h _ s)

/-- ENUM_RESULT keeps the first failure. -/
theorem enumFail_result {s : State} (h : s.chain.enumErr = 0) (l err : Nat) (d : End) (hop detail : Nat) :
    (enumFail l err d hop detail s).chain.enumErr = err ∧
    (enumFail l err d hop detail s).chain.enumDetail = min detail 65535 := by
  have h' : (modLine l (fun x => { x with step := .failed }) s).chain.enumErr = 0 := h
  unfold enumFail
  dsimp only
  rw [if_pos h']
  exact ⟨rfl, rfl⟩

/-- A change of a line that leaves its probe alone leaves every line's probe alone. -/
theorem probe_modLine {f : Line → Line} (hf : ∀ x, (f x).probe = x.probe) (l : Nat) (s : State) (m : Nat) :
    (lineAt (modLine l f s) m).probe = (lineAt s m).probe := by
  by_cases hm : m = l
  · subst hm
    by_cases hlt : m < 4
    · rw [lineAt_modLine_self hlt, hf]
    · rw [lineAt, modLine, updNat_of_ge _ (Nat.le_of_not_lt hlt), lineAt]
  · rw [lineAt_modLine_other hm]

theorem probe_enumFail (l err : Nat) (d : End) (hop detail : Nat) (s : State) (m : Nat) :
    (lineAt (enumFail l err d hop detail s) m).probe = (lineAt s m).probe := by
  rw [lineAt_enumFail]
  exact probe_modLine (f := fun x => { x with step := .failed }) (fun _ => rfl) l s m

/-! ### Probe sets (R102, R103) -/

@[simp] theorem setOf_withSet (d : End) (p : ProbeSet) (r : NodeM) : (r.withSet d p).setOf d = p := by
  cases d <;> rfl

@[simp] theorem setOf_withNew (d d' : End) (v : Nat) (r : NodeM) : (r.withNew d' v).setOf d = r.setOf d := by
  cases d <;> cases d' <;> rfl

@[simp] theorem setOf_withD (d d' : End) (v : Nat) (r : NodeM) : (r.withD d' v).setOf d = r.setOf d := by
  cases d <;> cases d' <;> rfl

@[simp] theorem sendDelays_chain (a : Nat) (d : End) (v : Nat) (s : State) : (sendDelays a d v s).chain = s.chain := by
  unfold sendDelays
  split <;> rfl

/-- What closing a set leaves of the node's set and of the probes that are out. -/
def ClosedFrom (a : Nat) (d : End) (s t : State) : Prop :=
  (nodeRec t a).setOf d = (nodeRec s a).setOf d ∧ ∀ m, (lineAt t m).probe = (lineAt s m).probe

theorem closedFrom_chain {a : Nat} {d : End} {s t : State} (h : t.chain = s.chain) : ClosedFrom a d s t := by
  simp only [ClosedFrom, nodeRec, lineAt, h, implies_true, and_self]

theorem ClosedFrom.trans {a : Nat} {d : End} {s t u : State} (h : ClosedFrom a d s t) (h' : ClosedFrom a d t u) :
    ClosedFrom a d s u := ⟨h'.1.trans h.1, fun m => (h'.2 m).trans (h.2 m)⟩

theorem closedFrom_modRec {a : Nat} {d : End} (ha : a < 64) {f : NodeM → NodeM} (hf : ∀ r, (f r).setOf d = r.setOf d)
    (s : State) : ClosedFrom a d s (modRec a f s) := by
  refine ⟨?_, fun _ => rfl⟩
  rw [nodeRec_modRec_self ha, hf]

/-- The delay of a full set is kept, to be written or as passed on. -/
theorem closedFrom_delay {a : Nat} {d : End} (ha : a < 64) (hi : Bool) (v : Nat) (s : State) :
    ClosedFrom a d s (modRec a (if hi then NodeM.withNew d v else NodeM.withD d v) s) :=
  closedFrom_modRec ha (fun r => by cases hi <;> simp) s

/-- A set that closes is empty again, and no probe that is out changes. -/
theorem closeSet_spec {a : Nat} (ha : a < 64) (d : End) (s : State) :
    (nodeRec (closeSet a d s) a).setOf d = ProbeSet.empty ∧ ∀ m, (lineAt (closeSet a d s) m).probe = (lineAt s m).probe := by
  have hempty : (nodeRec (modRec a (NodeM.withSet d ProbeSet.empty) (tookFree 1 s)) a).setOf d = ProbeSet.empty := by
    rw [nodeRec_modRec_self ha, setOf_withSet]
  suffices h : ClosedFrom a d (modRec a (NodeM.withSet d ProbeSet.empty) (tookFree 1 s)) (closeSet a d s) from
    ⟨h.1.trans hempty, h.2⟩
  unfold closeSet
  dsimp only
  split
  · exact ⟨rfl, fun _ => rfl⟩
  · split
    · split
      · exact (closedFrom_chain (sendDelays_chain ..)).trans (closedFrom_delay ha ..)
      · exact closedFrom_chain (sendDelays_chain ..)
    · split
      · exact ⟨by rw [nodeRec_enumFail], fun m => probe_enumFail ..⟩
      · exact (closedFrom_delay ha ..).trans (closedFrom_chain (sendDelays_chain ..))

/-- One probe more in the set of a node, which closes with the 64th. -/
def growSet (a : Nat) (d : End) (f : ProbeSet → ProbeSet) (s : State) : State :=
  let u := modRec a (fun r => r.withSet d (f (r.setOf d))) s
  if 64 ≤ ((nodeRec u a).setOf d).n then closeSet a d u else u

theorem growSet_spec {a : Nat} (ha : a < 64) (d : End) {f : ProbeSet → ProbeSet} (hf : ∀ p, (f p).n = p.n + 1)
    (s : State) :
    (growSet a d f s).st = s.st ∧ (∀ m, (lineAt (growSet a d f s) m).probe = (lineAt s m).probe) ∧
    (((nodeRec s a).setOf d).n < 63 → (nodeRec (growSet a d f s) a).setOf d = f ((nodeRec s a).setOf d)) ∧
    (63 ≤ ((nodeRec s a).setOf d).n → (nodeRec (growSet a d f s) a).setOf d = ProbeSet.empty) := by
  have hset : (nodeRec (modRec a (fun r => r.withSet d (f (r.setOf d))) s) a).setOf d = f ((nodeRec s a).setOf d) := by
    rw [nodeRec_modRec_self ha, setOf_withSet]
  unfold growSet
  dsimp only
  rw [hset, hf]
  split
  next hfull =>
    obtain ⟨hempty, hprobe⟩ := closeSet_spec ha d (modRec a (fun r => r.withSet d (f (r.setOf d))) s)
    exact ⟨closeSet_st .., hprobe, fun h => by omega, fun _ => hempty⟩
  next hopen => exact ⟨rfl, fun _ => rfl, fun _ => hset, fun h => by omega⟩

/-! ### The end of a line's enumeration (R100, R101) -/

/-- The line has counted its nodes. -/
def counted (l : Nat) (s : State) : State := modLine l (fun x => { x with nodes := x.nextHop }) s

/-- The error of a line by the number of nodes found and declared (Table 04-10). -/
def countErr (found declared : Nat) : Nat := if found = 0 then 12 else if found < declared then 1 else 2

theorem exec_enumLineEnd {l : Fin 4} {s : State} (hon : e8On s = true) (hstep : (lineAt s l).step = .assigning)
    (hend : 10 ≤ (lineAt s l).waited ∨ 16 ≤ (lineAt s l).nextHop) :
    exec (.enumLineEnd l) s =
      (let found := (lineAt s l).nextHop
       let declared := ((chainMap s).onLine l).length
       let u := counted l (fresh s)
       if found = 0 then .next (enumFail l 12 (primaryEnd u l) 0 0 u)
       else if found < declared then .next (enumFail l 1 (primaryEnd u l) (hopFromE u l found) found u)
       else if declared < found then .next (enumFail l 2 (primaryEnd u l) (hopFromE u l declared) found u)
       else .next (modLine l (fun x => { x with step := .checking }) u)) := by
  have hgo : (e8On (fresh s) && (lineAt (fresh s) l).step == .assigning &&
      (decide (10 ≤ (lineAt (fresh s) l).waited) || decide (16 ≤ (lineAt (fresh s) l).nextHop))) = true := by
    rcases hend with h | h <;> simp [hon, hstep, h]
  exact if_pos hgo

/-- A line whose count fails. -/
theorem counted_fails (l : Fin 4) (s : State) (err : Nat) (d : End) (hop detail : Nat) :
    let t := enumFail l err d hop detail (counted l (fresh s))
    (lineAt t l).nodes = (lineAt s l).nextHop ∧ t.st = s.st ∧ (lineAt t l).step = .failed ∧
    (s.chain.enumErr = 0 → t.chain.enumErr = err) := by
  refine ⟨?_, enumFail_st .., ?_, fun h => (enumFail_result (s := counted l (fresh s)) h ..).1⟩
  · rw [lineAt_enumFail_self l.isLt]
    exact congrArg Line.nodes (lineAt_modLine_self l.isLt _ (fresh s))
  · rw [lineAt_enumFail_self l.isLt]

theorem does_enumLineEnd {l : Fin 4} {s : State} (hon : e8On s = true) (hstep : (lineAt s l).step = .assigning)
    (hend : 10 ≤ (lineAt s l).waited ∨ 16 ≤ (lineAt s l).nextHop) :
    Does (.enumLineEnd l) s (fun t =>
      (lineAt t l).nodes = (lineAt s l).nextHop ∧ t.st = s.st ∧
      (0 < (lineAt s l).nextHop → (lineAt s l).nextHop = ((chainMap s).onLine l).length →
        (lineAt t l).step = .checking ∧ t.chain.enumErr = s.chain.enumErr) ∧
      ((lineAt s l).nextHop = 0 ∨ (lineAt s l).nextHop ≠ ((chainMap s).onLine l).length →
        (lineAt t l).step = .failed ∧
        (s.chain.enumErr = 0 → t.chain.enumErr = countErr (lineAt s l).nextHop ((chainMap s).onLine l).length))) := by
  have hexec := exec_enumLineEnd hon hstep hend
  have hfail := counted_fails l s
  have hline : lineAt (counted l (fresh s)) l = { lineAt s l with nodes := (lineAt s l).nextHop } :=
    lineAt_modLine_self l.isLt _ _
  generalize (lineAt s l).nextHop = found at hexec hfail hline ⊢
  generalize ((chainMap s).onLine l).length = declared at hexec ⊢
  dsimp only at hexec
  split at hexec
  next hzero =>
    obtain ⟨hnodes, hst, hstep', herr⟩ := hfail 12 _ _ _
    exact ⟨_, hexec, hnodes, hst, fun h => by omega,
      fun _ => ⟨hstep', fun h => (herr h).trans (if_pos hzero).symm⟩⟩
  next hsome =>
    have hcount : countErr found declared = if found < declared then 1 else 2 := if_neg hsome
    split at hexec
    next hlow =>
      obtain ⟨hnodes, hst, hstep', herr⟩ := hfail 1 _ _ _
      exact ⟨_, hexec, hnodes, hst, fun _ h => by omega,
        fun _ => ⟨hstep', fun h => by rw [herr h, hcount, if_pos hlow]⟩⟩
    next hlow =>
      split at hexec
      next hhigh =>
        obtain ⟨hnodes, hst, hstep', herr⟩ := hfail 2 _ _ _
        exact ⟨_, hexec, hnodes, hst, fun _ h => by omega,
          fun _ => ⟨hstep', fun h => by rw [herr h, hcount, if_neg hlow]⟩⟩
      next hhigh =>
        refine ⟨_, hexec, ?_, rfl, fun _ _ => ⟨?_, rfl⟩, fun h => by omega⟩
        · rw [lineAt_modLine_self l.isLt, hline]
        · rw [lineAt_modLine_self l.isLt]

/-! ### The pass-through of a beat (R109, R111) -/

/-- A pass-through that was missed: the second in beats that follow each other makes the line SPLIT. -/
theorem judgePass_missed (beat : Nat) (x : Line) :
    let missed := if x.checkBeat == some (beat - 1) then x.missRun else 0
    (missed = 0 → (x.judgePass beat false).split = x.split) ∧
    (1 ≤ missed → (x.judgePass beat false).split = true ∧ (x.judgePass beat false).brk = true ∧
      (x.judgePass beat false).secondary = true ∧ (x.judgePass beat false).mode = .split) := by
  intro missed
  have hagain : decide (2 ≤ satAdd missed 1 2) = decide (1 ≤ missed) := decide_eq_decide.mpr (by unfold satAdd; omega)
  have hsplit : (x.judgePass beat false).split = (x.split || decide (1 ≤ missed)) := congrArg (x.split || ·) hagain
  have hbrk : (x.judgePass beat false).brk = (x.brk || decide (1 ≤ missed)) := congrArg (x.brk || ·) hagain
  have hsecond : (x.judgePass beat false).secondary = (x.secondary || decide (1 ≤ missed)) :=
    congrArg (x.secondary || ·) hagain
  have hmode : (x.judgePass beat false).mode = if decide (1 ≤ missed) = true then .split else x.mode :=
    congrArg (fun b : Bool => if b = true then LineMode.split else x.mode) hagain
  refine ⟨fun h => ?_, fun h => ?_⟩
  · rw [hsplit, h]
    exact Bool.or_false _
  · rw [hsplit, hbrk, hsecond, hmode, decide_eq_true h, Bool.or_true, Bool.or_true, Bool.or_true]
    exact ⟨rfl, rfl, rfl, rfl⟩

/-- Losing the holder role changes the fabric block alone. -/
theorem loseHold_eq (s : State) : ∃ f, loseHold s = { s with fab := f } := by
  unfold loseHold
  split
  · exact ⟨_, rfl⟩
  · exact ⟨s.fab, rfl⟩

theorem does_passThroughCheck {l : Fin 4} {s : State} (hon : e8On s = true) (hfar : farOwned s l = true)
    (hm : s.st.mode.fromArmed = true) (htick : tickOf s ≤ 16) (hturn : hadTurn (.passCheck l) s = false)
    (seen : Option Nat) : Does (.passThroughCheck l seen) s (fun t =>
      lineAt t l = (lineAt s l).judgePass s.time.beat seen.isSome ∧ tickOf t = 16 ∧ t.st = s.st) := by
  have hgo : (e8On (fresh s) && farOwned (fresh s) l && mayAct (.passCheck l) 16 (fresh s)) = true := by
    have hfar' : farOwned (fresh s) l = true := hfar
    rw [e8On_fresh, hon, hfar', mayAct_fresh, (mayAct_iff ..).mpr ⟨htick, hturn⟩]
    rfl
  have hm' : (actAt (.passCheck l) 16 (fresh s)).st.mode.fromArmed = true := hm
  obtain ⟨f, hlose⟩ := loseHold_eq
    (modLine l (Line.judgePass s.time.beat seen.isSome) (actAt (.passCheck l) 16 (fresh s)))
  have hexec : exec (.passThroughCheck l seen) s = .next { modLine l (Line.judgePass s.time.beat seen.isSome)
      (actAt (.passCheck l) 16 (fresh s)) with fab := f } :=
    ((if_pos hgo).trans (if_pos hm')).trans (congrArg Host.Outcome.next hlose)
  exact ⟨_, hexec, lineAt_modLine_self l.isLt _ _, tickOf_actAt (.passCheck l.val) 16 (fresh s), rfl⟩

/-! ### The return to WHOLE (R111) -/

/-- A line that is whole again. -/
def Line.madeWhole (x : Line) : Line :=
  { x with split := false, brk := false, secondary := false, mode := .whole, wholes := satAdd x.wholes 1 65535 }

theorem exec_lineReturnWhole {l : Fin 4} {s : State} (hon : e8On s = true) (hsplit : (lineAt s l).split = true)
    (hrun : 1000 ≤ (lineAt s l).passRun) (hnext : ((lineAt s l).checkBeat == some (s.time.beat - 1)) = true)
    (hbeat : s.time.beat % 1000 = 0) (htick : tickOf s ≤ 8) (hturn : hadTurn .beatFrame s = false) :
    exec (.lineReturnWhole l) s = .next (modLine l Line.madeWhole (fresh s)) := by
  have hgo : (e8On (fresh s) && (lineAt (fresh s) l).split && decide (1000 ≤ (lineAt (fresh s) l).passRun) &&
      (lineAt (fresh s) l).checkBeat == some ((fresh s).time.beat - 1) && decide ((fresh s).time.beat % 1000 = 0) &&
      mayAct .beatFrame 8 (fresh s)) = true := by
    rw [e8On_fresh, hon, lineAt_fresh, hsplit, fresh_time, hnext, mayAct_fresh, (mayAct_iff ..).mpr ⟨htick, hturn⟩,
      decide_eq_true hrun, decide_eq_true hbeat]
    rfl
  exact if_pos hgo

/-! ### The ECHO of a probe, and a lost probe (R88, R102, R103) -/

/-- What a whole frame that is heard leaves before it is taken: nothing but CLAIM_HIGHER changes, where its claim is above
this module's (R106). -/
structure Heard (h : ChainHdr) (s v : State) : Prop where
  chain : v.chain = { s.chain with claimHigher := s.chain.claimHigher || decide (ownClaim s < h.claim) }
  time : v.time = s.time
  cal : v.cal = s.cal
  fab : v.fab = s.fab
  st : v.st = s.st
  saf : v.saf = s.saf
  spec : v.spec = s.spec

theorem heard_inbound (h : ChainHdr) (s : State) : Heard h s (inbound h true (fresh s)) := by
  have hclaim : ownClaim (fresh s) = ownClaim s := rfl
  unfold inbound
  rw [if_pos rfl, hclaim]
  split
  next hc =>
    refine ⟨?_, rfl, rfl, rfl, rfl, rfl, rfl⟩
    rw [decide_eq_true hc, Bool.or_true]
    rfl
  next hc =>
    refine ⟨?_, rfl, rfl, rfl, rfl, rfl, rfl⟩
    rw [decide_eq_false hc, Bool.or_false]
    rfl

theorem Heard.line {h : ChainHdr} {s v : State} (hv : Heard h s v) : v.chain.line = s.chain.line := by rw [hv.chain]

theorem Heard.node {h : ChainHdr} {s v : State} (hv : Heard h s v) : v.chain.node = s.chain.node := by rw [hv.chain]

theorem Heard.lineAt {h : ChainHdr} {s v : State} (hv : Heard h s v) (l : Nat) : lineAt v l = lineAt s l := by
  rw [Machine.lineAt, hv.line, Machine.lineAt]

theorem Heard.nodeRec {h : ChainHdr} {s v : State} (hv : Heard h s v) (a : Nat) : nodeRec v a = nodeRec s a := by
  rw [Machine.nodeRec, hv.node, Machine.nodeRec]

theorem Heard.tickOf {h : ChainHdr} {s v : State} (hv : Heard h s v) : tickOf v = tickOf s := by
  rw [Machine.tickOf, hv.time, Machine.tickOf]

/-- The probe that is out on a line is over. -/
def probeOver (l : Nat) (s : State) : State := modLine l (fun x => { x with probe := none }) s

theorem probe_probeOver {l : Nat} (h : l < 4) (s : State) : (lineAt (probeOver l s) l).probe = none := by
  rw [probeOver, lineAt_modLine_self h]

theorem exec_echo {h : ChainHdr} {p : List Byte} {rtt : Nat} {s v : State} (hv : Heard h s v)
    (hin : inbound h true (fresh s) = v) (hhears : hears h s = true) (hwhole : frameOk 7 h p = true)
    (hout : (lineAt s h.line).probe = some (h.addr, h.fromEnd)) (hsent : h.tick ≤ 152) (hnow : tickOf s ≤ 152) :
    exec (.echo h p rtt) s =
      .next (growSet h.addr h.fromEnd (ProbeSet.add rtt) (probeOver h.line (atNs (h.tick * 2500) v))) := by
  have hhears' : hears h (fresh s) = true := hhears
  have hgo : (true && (lineAt v h.line).probe == some (h.addr, h.fromEnd) &&
      decide (h.tick ≤ 152 ∧ tickOf v ≤ 152)) = true := by
    rw [hv.lineAt, hout, hv.tickOf, decide_eq_true ⟨hsent, hnow⟩]
    simp
  change execEcho h p rtt s = _
  rw [execEcho]
  dsimp only
  rw [if_pos hhears', hwhole, hin, if_pos hgo]
  rfl

/-- What an ECHO brings to its probe. -/
theorem does_echo {h : ChainHdr} {p : List Byte} {rtt : Nat} {s : State} (hhears : hears h s = true)
    (hwhole : frameOk 7 h p = true) (ha : h.addr < 64) (hout : (lineAt s h.line).probe = some (h.addr, h.fromEnd))
    (hsent : h.tick ≤ 152) (hnow : tickOf s ≤ 152) : Does (.echo h p rtt) s (fun t =>
      (lineAt t h.line).probe = none ∧ t.st = s.st ∧
      (((nodeRec s h.addr).setOf h.fromEnd).n < 63 → (nodeRec t h.addr).setOf h.fromEnd =
        ((nodeRec s h.addr).setOf h.fromEnd).add rtt) ∧
      (63 ≤ ((nodeRec s h.addr).setOf h.fromEnd).n → (nodeRec t h.addr).setOf h.fromEnd = ProbeSet.empty)) := by
  have hv := heard_inbound h s
  generalize hin : inbound h true (fresh s) = v at hv
  refine ⟨_, exec_echo hv hin hhears hwhole hout hsent hnow, ?_⟩
  obtain ⟨hst, hprobe, hopen, hclose⟩ := growSet_spec ha h.fromEnd (f := ProbeSet.add rtt) (fun _ => rfl)
    (probeOver h.line (atNs (h.tick * 2500) v))
  rw [← hv.nodeRec]
  exact ⟨(hprobe _).trans (probe_probeOver h.line.isLt _), hst.trans hv.st, hopen, hclose⟩

/-- A frame that is not intact is counted on its line, and nothing else of it is used (R88). -/
theorem exec_echo_broken {h : ChainHdr} {p : List Byte} {s : State} (hhears : hears h s = true)
    (hbroken : frameOk 7 h p = false) (rtt : Nat) :
    exec (.echo h p rtt) s = .next (inbound h false (fresh s)) := by
  have hhears' : hears h (fresh s) = true := hhears
  change execEcho h p rtt s = _
  rw [execEcho]
  dsimp only
  rw [if_pos hhears', hbroken]
  rfl

/-- One probe more in a set that has lost one. -/
def ProbeSet.addLost (p : ProbeSet) : ProbeSet := { p with n := p.n + 1, lost := true }

theorem probeLost_armed {l a : Nat} {d : End} {s : State} (hout : (lineAt s l).probe = some (a, d))
    (hm : s.st.mode.fromArmed = true) : probeLost l s = growSet a d ProbeSet.addLost (probeOver l s) := by
  unfold probeLost
  rw [hout]
  exact if_pos hm

theorem probeLost_before_armed {l a : Nat} {d : End} {s : State} (hout : (lineAt s l).probe = some (a, d))
    (hm : s.st.mode.fromArmed = false) : probeLost l s =
      enumFail l 10 d (hopFromE (probeOver l s) (a / 16) (a % 16)) 0xFFFF
        (modRec a (NodeM.withSet d ProbeSet.empty) (probeOver l s)) := by
  unfold probeLost
  rw [hout]
  exact if_neg (ne_true_of_eq_false hm)

theorem exec_probeLost {l : Fin 4} {p : Nat × End} {s : State} (hon : e8On s = true) (hout : (lineAt s l).probe = some p) :
    exec (.probeLost l) s = .next (probeLost l (atNs 380000 (fresh s))) := by
  have hgo : (e8On (fresh s) && (lineAt (fresh s) l).probe.isSome) = true := by
    rw [e8On_fresh, hon, lineAt_fresh, hout]
    rfl
  exact congrArg Host.Outcome.next (if_pos hgo)

/-- A probe that is lost is over; from ARMED on its set is marked and grows, before that its line fails. -/
theorem does_probeLost {l : Fin 4} {a : Nat} {d : End} {s : State} (hon : e8On s = true) (ha : a < 64)
    (hout : (lineAt s l).probe = some (a, d)) :
    (s.st.mode.fromArmed = true → Does (.probeLost l) s (fun t => (lineAt t l).probe = none ∧ t.st = s.st ∧
      (((nodeRec s a).setOf d).n < 63 → ((nodeRec t a).setOf d).lost = true ∧
        ((nodeRec t a).setOf d).n = ((nodeRec s a).setOf d).n + 1) ∧
      (63 ≤ ((nodeRec s a).setOf d).n → (nodeRec t a).setOf d = ProbeSet.empty))) ∧
    (s.st.mode.fromArmed = false → Does (.probeLost l) s (fun t => (lineAt t l).probe = none ∧
      (lineAt t l).step = .failed ∧ (s.chain.enumErr = 0 → t.chain.enumErr = 10) ∧ t.st = s.st)) := by
  have hover := probe_probeOver l.isLt (atNs 380000 (fresh s))
  refine ⟨fun hm => ⟨_, exec_probeLost hon hout, ?_⟩, fun hm => ⟨_, exec_probeLost hon hout, ?_⟩⟩
  · rw [probeLost_armed (s := atNs 380000 (fresh s)) hout hm]
    obtain ⟨hst, hprobe, hopen, hclose⟩ :=
      growSet_spec ha d (f := ProbeSet.addLost) (fun _ => rfl) (probeOver l (atNs 380000 (fresh s)))
    refine ⟨(hprobe _).trans hover, hst, fun h => ?_, hclose⟩
    rw [hopen h]
    exact ⟨rfl, rfl⟩
  · rw [probeLost_before_armed (s := atNs 380000 (fresh s)) hout hm]
    refine ⟨?_, ?_, fun h => (enumFail_result (by exact h) ..).1, enumFail_st ..⟩
    · rw [probe_enumFail]
      exact hover
    · rw [lineAt_enumFail_self l.isLt]

end Sys2Proof.Machine

namespace Sys2Proof

open Sys2Proof.Machine

/-- Settles O25: each event of a line by its own lemma. -/
theorem lineEvents : Obligations.LineEvents := by
  refine fun l s hon => ⟨fun hstep hend => does_enumLineEnd hon hstep hend,
    fun hfar hm htick hturn => ⟨fun h => ?seen, ?missed⟩,
    fun hsplit hrun hnext hbeat htick hturn => ?whole, ?echo, ?broken, fun a d hout => does_probeLost hon a.isLt hout⟩
  case seen =>
    obtain ⟨t, hexec, hline, htick', hst⟩ := does_passThroughCheck hon hfar hm htick hturn (some h)
    refine ⟨t, hexec, ?_⟩
    dsimp only
    rw [hline]
    exact ⟨rfl, rfl, rfl, rfl, rfl, htick', hst⟩
  case missed =>
    obtain ⟨t, hexec, hline, htick', hst⟩ := does_passThroughCheck hon hfar hm htick hturn none
    refine ⟨t, hexec, ?_⟩
    dsimp only
    rw [hline]
    obtain ⟨hfirst, hagain⟩ := judgePass_missed s.time.beat (lineAt s l)
    exact ⟨rfl, rfl, rfl, rfl, rfl, hfirst, hagain, htick', hst⟩
  case whole =>
    exact ⟨_, exec_lineReturnWhole hon hsplit hrun hnext hbeat htick hturn, lineAt_modLine_self l.isLt _ _, rfl⟩
  case echo =>
    rintro h p rtt rfl hhears hwhole ha hout hsent hnow
    exact does_echo hhears hwhole ha hout hsent hnow
  case broken =>
    rintro h p rtt rfl hhears hbroken
    exact ⟨_, exec_echo_broken hhears hbroken rtt, lineAt_modLine_self h.line.isLt _ _, rfl, rfl⟩

end Sys2Proof
end

section
/-! SUPPORT AND PROOFS. Frames of nodes that arrive on the chain: RESULT, AUX and ANNOUNCE (04 R88, R97, R106, R114). -/

namespace Sys2Proof.Machine

/-! ### Frames that are heard (R88, R106) -/

/-- A frame that is not intact is counted on its line. -/
theorem crc_inbound_broken (h : ChainHdr) (s : State) : (lineAt (inbound h false (fresh s)) h.line).crc =
    min 4294967295 ((lineAt s h.line).crc + 1) :=
  congrArg Line.crc (lineAt_modLine_self h.line.isLt (fun x => { x with crc := satAdd x.crc 1 (2 ^ 32 - 1) }) (fresh s))

@[simp] theorem hears_fresh (h : ChainHdr) (s : State) : hears h (fresh s) = hears h s := rfl

theorem Heard.knownSender {h : ChainHdr} {s v : State} (hv : Heard h s v) : knownSender h v = knownSender h s := by
  rw [Machine.knownSender, hv.nodeRec, Machine.knownSender]

theorem Heard.resultOk {h : ChainHdr} {s v : State} (hv : Heard h s v) (b : ResultBody) :
    resultOk h b v = resultOk h b s := by
  rw [Machine.resultOk, hv.knownSender, hv.tickOf, hv.time, Machine.resultOk]

theorem Heard.auxOk {h : ChainHdr} {s v : State} (hv : Heard h s v) : auxOk h v = auxOk h s := by
  rw [Machine.auxOk, hv.knownSender, hv.tickOf, hv.time, hv.nodeRec, Machine.auxOk]

theorem Heard.claim {h : ChainHdr} {s v : State} (hv : Heard h s v) :
    v.chain.claimHigher = (s.chain.claimHigher || decide (ownClaim s < h.claim)) := by rw [hv.chain]

theorem addr_lt_of_knownSender {h : ChainHdr} {s : State} (hk : knownSender h s = true) : h.addr < 64 := by
  unfold knownSender at hk
  simp only [Bool.and_eq_true, decide_eq_true_eq] at hk
  exact hk.1.1

theorem addr_lt_of_resultOk {h : ChainHdr} {b : ResultBody} {s : State} (hok : resultOk h b s = true) : h.addr < 64 := by
  unfold resultOk at hok
  simp only [Bool.and_eq_true] at hok
  exact addr_lt_of_knownSender hok.1.1.1

/-! ### RESULT and AUX (R97) -/

@[simp] theorem emitFab_chain (mac : Option Nat) (kind dst seq beat : Nat) (stamp : Option Nat) (ports : Nat)
    (payload : List Byte) (s : State) : (emitFab mac kind dst seq beat stamp ports payload s).chain = s.chain := by
  unfold emitFab
  split <;> rfl

@[simp] theorem forwardPair_chain (sub a seq : Nat) (body : List Byte) (s : State) :
    (forwardPair sub a seq body s).chain = s.chain := by
  unfold forwardPair
  split
  · exact emitFab_chain ..
  · rfl

/-- The first RESULT of a node in the beat joins those of the beat. -/
theorem takeResult_eq (a : Nat) (b : ResultBody) (s : State) : takeResult a b s =
    { s with chain := { s.chain with got := if s.chain.got.any (fun g => g.addr == a) then s.chain.got
      else s.chain.got ++ [{ addr := a, nstat := b.nstat, suspect := b.suspect, vpos := b.vpos }] } } := by
  unfold takeResult
  split <;> rfl

theorem takeAux_eq (a : Nat) (b : AuxBody) (s : State) : takeAux a b s =
    { s with chain := { s.chain with gotAux := if s.chain.gotAux.any (fun g => g.addr == a) then s.chain.gotAux
      else s.chain.gotAux ++ [{ addr := a, body := b }] } } := by
  unfold takeAux
  split <;> rfl

theorem exec_result_broken {h : ChainHdr} {b : ResultBody} {s : State} (hhears : hears h s = true)
    (hbroken : frameOk 4 h (resultBytes b) = false) : exec (.result h b) s = .next (inbound h false (fresh s)) := by
  change execResult h b s = _
  rw [execResult]
  dsimp only
  rw [hears_fresh, if_pos hhears, hbroken]
  rfl

theorem exec_result {h : ChainHdr} {b : ResultBody} {s v : State} (hv : Heard h s v)
    (hin : inbound h true (fresh s) = v) (hhears : hears h s = true) (hwhole : frameOk 4 h (resultBytes b) = true) :
    exec (.result h b) s = .next (if resultOk h b s then
      forwardPair 1 h.addr h.seq (resultBytes b) (takeResult h.addr b
        (modRec h.addr (fun r => { r with followW := b.nstat.testBit 2, hops := h.hops }) (atNs (h.tick * 2500) v)))
      else v) := by
  change execResult h b s = _
  rw [execResult]
  dsimp only
  rw [hears_fresh, if_pos hhears, hwhole, hin, hv.resultOk, Bool.true_and]
  split <;> rfl

theorem exec_aux_broken {h : ChainHdr} {b : AuxBody} {s : State} (hhears : hears h s = true)
    (hbroken : frameOk 5 h (auxBytes b) = false) : exec (.aux h b) s = .next (inbound h false (fresh s)) := by
  change execAux h b s = _
  rw [execAux]
  dsimp only
  rw [hears_fresh, if_pos hhears, hbroken]
  rfl

theorem exec_aux {h : ChainHdr} {b : AuxBody} {s v : State} (hv : Heard h s v) (hin : inbound h true (fresh s) = v)
    (hhears : hears h s = true) (hwhole : frameOk 5 h (auxBytes b) = true) :
    exec (.aux h b) s = .next (if auxOk h s then
      forwardPair 2 h.addr h.seq (auxBytes b) (takeAux h.addr b (atNs (h.tick * 2500) v)) else v) := by
  change execAux h b s = _
  rw [execAux]
  dsimp only
  rw [hears_fresh, if_pos hhears, hwhole, hin, hv.auxOk, Bool.true_and]
  split <;> rfl

/-! ### ANNOUNCE (R114) -/

theorem Heard.announced {h : ChainHdr} {s v : State} (hv : Heard h s v) (uid : Nat) :
    announced h uid v = announced h uid s := by
  have hhop : announceHop h v = announceHop h s := by
    rw [announceHop, primaryEnd_congr hv.cal hv.fab, hv.lineAt, announceHop]
  unfold Machine.announced
  dsimp only
  rw [hhop, hv.lineAt, hv.nodeRec]

theorem exec_announce_broken {h : ChainHdr} {u n p : Nat} {s : State} (hhears : hears h s = true)
    (hbroken : frameOk 8 h (announceBytes u n p) = false) :
    exec (.announce h u n p) s = .next (inbound h false (fresh s)) := by
  change execAnnounce h u n p s = _
  rw [execAnnounce]
  dsimp only
  rw [hears_fresh, if_pos hhears, hbroken]
  rfl

/-- What an ANNOUNCE in its window brings: a node that it matches rejoins, and any other is unknown. -/
def announceTaken (h : ChainHdr) (u : Nat) (known : Option Nat) (s : State) : State :=
  match known with
  | some a => rejoin a s
  | none => unknownSeen h u s

theorem exec_announce {h : ChainHdr} {u n p : Nat} {s v : State} (hv : Heard h s v) (hin : inbound h true (fresh s) = v)
    (hhears : hears h s = true) (hwhole : frameOk 8 h (announceBytes u n p) = true) (hm : s.st.mode.fromArmed = true)
    (hfirst : 160 ≤ h.tick) (hlast : h.tick ≤ 186) :
    exec (.announce h u n p) s = .next (announceTaken h u (announced h u s) v) := by
  change execAnnounce h u n p s = _
  rw [execAnnounce]
  dsimp only
  rw [hears_fresh, if_pos hhears, hwhole, hin, hv.st, hm, decide_eq_true ⟨hfirst, hlast⟩, Bool.and_self,
    Bool.and_self, if_pos rfl, hv.announced]
  cases announced h u s <;> rfl

/-- A node that rejoins gets its address, its delays and its tap plan again. -/
theorem rejoin_spec {a : Nat} (ha : a < 64) (s : State) :
    (rejoin a s).chain.claimHigher = s.chain.claimHigher ∧ (nodeRec (rejoin a s) a).assign = true ∧
    (nodeRec (rejoin a s) a).rejoined = true ∧ (nodeRec (rejoin a s) a).planNext = 0 ∧
    (rejoin a s).chain.nodeRejoined = true ∧ (rejoin a s).st = s.st := by
  have hrec : nodeRec (rejoin a s) a = { nodeRec s a with
      assign := true, planNext := 0, newE := some (delayE (nodeRec s a)), newW := some (delayW (nodeRec s a))
      rejoined := true } :=
    nodeRec_modRec_self ha _ s
  rw [hrec]
  exact ⟨rfl, rfl, rfl, rfl, rfl, rfl⟩

end Sys2Proof.Machine
end

section
/-! SUPPORT AND PROOFS. REPLY frames (04 R88, R98 to R101, R415, Table 04-8; 06 R158). -/

namespace Sys2Proof.Machine

/-! ### The command that a reply answers (R98) -/

/-- The command that a reply answers has its OP and its line, and names the node that answers: ENUM_ASSIGN in its first
argument where it is carried out, every command of one address in its address. -/
theorem answered_spec {h : ChainHdr} {op status : Nat} {s : State} {c : CmdOut} (hans : answered h op status s = some c) :
    c.op = op ∧ c.line = h.line ∧ (op = 2 → status = 0 → (c.args.head?).getD 0 = h.addr) ∧
    (op ≠ 2 → op ≠ 3 → c.addr = h.addr) := by
  have htest := List.find?_some hans
  simp only [Bool.and_eq_true, beq_iff_eq] at htest
  obtain ⟨⟨⟨-, hline⟩, hop⟩, hnode⟩ := htest
  refine ⟨hop, hline, fun h2 hstatus => ?_, fun h2 h3 => ?_⟩
  · rw [if_pos h2, hstatus] at hnode
    simpa using hnode
  · rw [if_neg h2, if_neg h3] at hnode
    exact eq_of_beq hnode

/-- The address that a reply speaks for. -/
def replyAddr (c : CmdOut) (a : Nat) : Nat := (c.args.head?).getD 0 * b2n (c.addr == 0xFF) + a * b2n (c.addr != 0xFF)

theorem replyAddr_broadcast {c : CmdOut} (h : c.addr = 0xFF) (a : Nat) : replyAddr c a = (c.args.head?).getD 0 := by
  simp [replyAddr, h, b2n]

theorem replyAddr_addressed {c : CmdOut} (h : c.addr ≠ 0xFF) (a : Nat) : replyAddr c a = a := by
  simp [replyAddr, h, b2n]

/-! ### What a reply brings (R99 to R101, R415) -/

theorem Heard.err {h : ChainHdr} {s v : State} (hv : Heard h s v) : v.chain.enumErr = s.chain.enumErr := by rw [hv.chain]

theorem Heard.answered {h : ChainHdr} {s v : State} (hv : Heard h s v) (op status : Nat) :
    answered h op status v = answered h op status s := by
  unfold Machine.answered
  rw [hv.chain]

/-- The command of a whole reply has been answered: what stays of the state that heard it. -/
structure Replied (s w : State) : Prop where
  line : w.chain.line = s.chain.line
  node : w.chain.node = s.chain.node
  err : w.chain.enumErr = s.chain.enumErr
  beat : w.time.beat = s.time.beat
  cal : w.cal = s.cal
  fab : w.fab = s.fab
  st : w.st = s.st
  saf : w.saf = s.saf
  spec : w.spec = s.spec

theorem Replied.lineAt {s w : State} (hw : Replied s w) (l : Nat) : lineAt w l = lineAt s l := by
  rw [Machine.lineAt, hw.line, Machine.lineAt]

theorem Heard.replied {h : ChainHdr} {s v : State} (hv : Heard h s v) (c : CmdOut) (ns : Nat) :
    Replied s (markDone c (atNs ns v)) :=
  ⟨hv.line, hv.node, hv.err, congrArg (·.beat) hv.time, hv.cal, hv.fab, hv.st, hv.saf, hv.spec⟩

/-- What the answer to a command brings, by its status. -/
def replyTaken (h : ChainHdr) (status : Nat) (d : ReplyData) (c : CmdOut) (w : State) : State :=
  if status = 0 then replyOk c (replyAddr c h.addr) d w
  else if status = 1 ∧ ((lineAt w c.line).step = .checking ∨ (c.op = 2 ∧ (lineAt w c.line).step = .assigning)) then
    enumFail c.line 11 h.fromEnd (hopFrom w c.line h.fromEnd h.hops) h.claim w
  else w

theorem takeReply_of_none {h : ChainHdr} {op status : Nat} {d : ReplyData} {s v : State} (hv : Heard h s v)
    (hin : inbound h true (fresh s) = v) (hhears : hears h s = true) (hwhole : frameOk 6 h (replyBytes op status d) = true)
    (hans : answered h op status s = none) : takeReply h op status d (fresh s) = v := by
  rw [takeReply, hears_fresh, if_pos hhears]
  dsimp only
  rw [hwhole, hin, if_pos rfl, hv.answered, hans]

theorem takeReply_of_some {h : ChainHdr} {op status : Nat} {d : ReplyData} {s v : State} {c : CmdOut} (hv : Heard h s v)
    (hin : inbound h true (fresh s) = v) (hhears : hears h s = true) (hwhole : frameOk 6 h (replyBytes op status d) = true)
    (hans : answered h op status s = some c) :
    takeReply h op status d (fresh s) = replyTaken h status d c (markDone c (atNs (h.tick * 2500) v)) := by
  rw [takeReply, hears_fresh, if_pos hhears]
  dsimp only
  rw [hwhole, hin, if_pos rfl, hv.answered, hans]
  rfl

theorem exec_reply_broken {h : ChainHdr} {op status : Nat} {d : ReplyData} {s : State} (hhears : hears h s = true)
    (hbroken : frameOk 6 h (replyBytes op status d) = false) :
    exec (.reply h op status d) s = .next (inbound h false (fresh s)) := by
  change execReply h op status d s = _
  rw [execReply]
  rw [takeReply, hears_fresh, hbroken, hhears]
  rfl

/-- A reply that brings no lock-in value. -/
theorem exec_reply_plain {h : ChainHdr} {op status : Nat} {d : ReplyData} {s : State}
    (hplain : op ≠ 11 ∨ status ≠ 0 ∨ answered h op status s = none) :
    exec (.reply h op status d) s = .next (takeReply h op status d (fresh s)) := by
  have hans : answered h op status (fresh s) = answered h op status s := rfl
  change execReply h op status d s = _
  rw [execReply]
  rw [hans]
  rcases hplain with hop | hst | hnone
  · rw [if_neg (by simp [hop])]
  · rw [if_neg (by simp [hst])]
  · rw [hnone]
    split <;> rfl

theorem exec_reply_lockin {h : ChainHdr} {d : ReplyData} {s : State} {c : CmdOut} (hhears : hears h s = true)
    (hwhole : frameOk 6 h (replyBytes 11 0 d) = true) (hans : answered h 11 0 s = some c) :
    exec (.reply h 11 0 d) s = .next (takeLockin c h.addr d (takeReply h 11 0 d (fresh s))) := by
  have hans' : answered h 11 0 (fresh s) = some c := hans
  change execReply h 11 0 d s = _
  rw [execReply]
  rw [hears_fresh, hhears, hwhole, hans']
  rfl

@[simp] theorem nodeRec_checkId (a : Nat) (s : State) (b : Nat) : nodeRec (checkId a s) b = nodeRec s b := by
  unfold checkId
  dsimp only
  (repeat' split) <;> simp

@[simp] theorem nodeRec_checkSense (a : Nat) (s : State) (b : Nat) : nodeRec (checkSense a s) b = nodeRec s b := by
  unfold checkSense
  dsimp only
  (repeat' split) <;> simp

/-- ENUM_ASSIGN's reply counts the node found, and its identity is kept. -/
theorem replyOk_assign {c : CmdOut} {a : Nat} {w : State} (hop : c.op = 2) (hl : c.line < 4) (ha : a < 64)
    (hstep : (lineAt w c.line).step = .assigning) (uid ty pr caps : Nat) (lk : Bool) :
    let t := replyOk c a (.assign uid ty pr caps lk) w
    lineAt t c.line = { lineAt w c.line with nextHop := (lineAt w c.line).nextHop + 1, waited := 0 } ∧
    nodeRec t a = { nodeRec w a with found := true, uid := uid, nodeType := ty, proto := pr, caps := caps, lockin := lk } ∧
    t.st = w.st ∧ t.saf = w.saf := by
  simp only [replyOk, if_pos (And.intro hop hstep)]
  exact ⟨lineAt_modLine_self hl _ _, nodeRec_modRec_self ha _ _, rfl, rfl⟩

/-- READ_ID's reply: the identity and the inputs are kept, whatever the checks find. -/
theorem replyOk_id (c : CmdOut) {a : Nat} (ha : a < 64) (w : State) (uid ty pr caps : Nat) (lk : Bool) (pp tp : Nat) :
    let t := replyOk c a (.id uid ty pr caps lk pp tp) w
    nodeRec t a = { nodeRec w a with
      found := true, uid := uid, nodeType := ty, proto := pr, caps := caps, lockin := lk, inputs := pp, tInputs := tp
      idRead := true } ∧ t.st = w.st ∧ t.saf = w.saf := by
  have hrec : nodeRec (modRec a (fun r => { r with inputs := pp, tInputs := tp, idRead := true })
      (keepIdent a uid ty pr caps lk w)) a = { nodeRec w a with
        found := true, uid := uid, nodeType := ty, proto := pr, caps := caps, lockin := lk, inputs := pp, tInputs := tp
        idRead := true } := by
    rw [nodeRec_modRec_self ha, keepIdent, nodeRec_modRec_self ha]
  simp only [replyOk]
  split
  · exact ⟨(nodeRec_checkId ..).trans hrec, checkId_st .., checkId_saf ..⟩
  · exact ⟨hrec, rfl, rfl⟩

/-- READ_SENSE's reply, once the wires are done. -/
theorem replyOk_sense (c : CmdOut) {a : Nat} (ha : a < 64) (w : State) (r : List Nat) :
    let t := replyOk c a (.sense true r) w
    nodeRec t a = { nodeRec w a with sense := r, senseDone := true } ∧ t.st = w.st ∧ t.saf = w.saf := by
  have hrec : nodeRec (modRec a (fun x => { x with sense := r, senseDone := true }) w) a =
      { nodeRec w a with sense := r, senseDone := true } := nodeRec_modRec_self ha _ w
  simp only [replyOk, if_true]
  split
  · exact ⟨(nodeRec_checkSense ..).trans hrec, checkSense_st .., checkSense_saf ..⟩
  · exact ⟨hrec, rfl, rfl⟩

theorem mapNode_congr {s t : State} (hcal : t.cal = s.cal) (hfab : t.fab = s.fab) (a : Nat) :
    mapNode t a = mapNode s a := by
  simp only [mapNode, hopFromE, hopFrom, chainMap, primaryEnd_congr hcal hfab, hcal]

/-- LOCKIN_READ's reply without a value: the bin keeps its own. -/
theorem takeLockin_none {done : Bool} {v1 v2 i1 i2 : Int} (h : done = false ∨ lockResult v1 v2 i1 i2 = none) (c : CmdOut)
    (a : Nat) (w : State) : takeLockin c a (.lockin done v1 v2 i1 i2) w = w := by
  have hno : (if done = true then lockResult v1 v2 i1 i2 else none) = none := by
    rcases h with h | h
    · rw [if_neg (ne_true_of_eq_false h)]
    · rw [h, ite_self]
  simp only [takeLockin, hno]
  cases (mapNode w a).bind fun n => n.stringPos ((c.args[0]?).getD 0) <;> rfl

/-- LOCKIN_READ's reply with a value for a mapped position. -/
theorem takeLockin_some {v1 v2 i1 i2 : Int} {z : Cx} {n : NodeMap} {p : Nat} {c : CmdOut} {a : Nat} {w : State}
    (hz : lockResult v1 v2 i1 i2 = some z) (hn : mapNode w a = some n) (hp : n.stringPos ((c.args[0]?).getD 0) = some p) :
    takeLockin c a (.lockin true v1 v2 i1 i2) w = modSpec p (fun x => { x with
      lockin := updL x.lockin ((c.args[1]?).getD 0 - 31) (fun _ => { z := some z, last := some w.time.beat }) }) w := by
  simp only [takeLockin, hn, Option.bind_some, hp, if_true, hz]

/-- A write that a node refuses while its line is enumerated ends that with CLAIM. -/
theorem replyTaken_refused {h : ChainHdr} {c : CmdOut} {w : State} (hl : c.line < 4)
    (hstep : (lineAt w c.line).step = .checking ∨ (c.op = 2 ∧ (lineAt w c.line).step = .assigning)) (d : ReplyData) :
    let t := replyTaken h 1 d c w
    (lineAt t c.line).step = .failed ∧
    (w.chain.enumErr = 0 → t.chain.enumErr = 11 ∧ t.chain.enumDetail = min h.claim 65535) ∧ t.st = w.st ∧
    t.saf = w.saf := by
  simp only [replyTaken, if_neg one_ne_zero, if_pos (And.intro trivial hstep)]
  refine ⟨?_, fun herr => enumFail_result herr .., enumFail_st .., enumFail_saf ..⟩
  rw [lineAt_enumFail_self hl]

end Sys2Proof.Machine
end

section
/-! SUPPORT AND PROOFS. The commit of a beat (04 R97; 05 R118, R123), and what a frame that arrives brings. -/

namespace Sys2Proof.Machine

/-- What the commit of a beat leaves of the measurements: the positions and their pairing, as the beat's own step made
them. -/
def SamePositions (s t : State) : Prop :=
  t.time = s.time ∧ t.meas.pos = s.meas.pos ∧ t.meas.posBeat = s.meas.posBeat ∧ t.meas.pair = s.meas.pair

theorem SamePositions.trans {s t u : State} (h : SamePositions s t) (h' : SamePositions t u) : SamePositions s u :=
  ⟨h'.1.trans h.1, h'.2.1.trans h.2.1, h'.2.2.1.trans h.2.2.1, h'.2.2.2.trans h.2.2.2⟩

theorem samePositions_tempCommit (s : State) : SamePositions s (tempCommit s) := by
  unfold tempCommit
  split <;> exact ⟨rfl, rfl, rfl, rfl⟩

theorem samePositions_tapCommit (s : State) : SamePositions s (tapCommit s) := by
  unfold tapCommit
  dsimp only
  split <;> exact ⟨rfl, rfl, rfl, rfl⟩

theorem samePositions_foldl {α : Type} {f : State → α → State} (hf : ∀ s x, SamePositions s (f s x)) (l : List α)
    (s : State) : SamePositions s (l.foldl f s) :=
  List.foldlRecOn (motive := SamePositions s) _ _ ⟨rfl, rfl, rfl, rfl⟩ fun u h x _ => h.trans (hf u x)

theorem samePositions_judgeAbsent (s : State) : SamePositions s (judgeAbsent s) := by
  unfold judgeAbsent
  refine (samePositions_foldl (fun s a => ?_) _ s).trans (samePositions_foldl (fun s l => ?_) _ _)
  · dsimp only
    (repeat' split) <;> exact ⟨rfl, rfl, rfl, rfl⟩
  · dsimp only
    (repeat' split) <;> exact ⟨rfl, rfl, rfl, rfl⟩

theorem samePositions_summaryShow (s : State) : SamePositions s (summaryShow s) := by
  unfold summaryShow
  (repeat' split) <;> exact ⟨rfl, rfl, rfl, rfl⟩

theorem exchJudge_keeps (s : State) :
    (exchJudge s).time = s.time ∧ (exchJudge s).meas = s.meas := by
  unfold exchJudge
  dsimp only
  split <;> exact ⟨rfl, rfl⟩

theorem samePositions_accordBeat (s : State) : SamePositions s (accordBeat s) := ⟨rfl, rfl, rfl, rfl⟩

theorem samePositions_histBeat (s : State) : SamePositions s (histBeat s) := ⟨rfl, rfl, rfl, rfl⟩

theorem samePositions_stimBeat (s : State) : SamePositions s (stimBeat s) := ⟨rfl, rfl, rfl, rfl⟩

theorem samePositions_tapTemps (s : State) : SamePositions s (tapTemps s) := ⟨rfl, rfl, rfl, rfl⟩

/-- The positions of the beat, paired only with the aligned sample of the same beat. -/
theorem posCommit_spec (s : State) :
    (posCommit s).meas.posBeat = s.time.beat ∧ (posCommit s).meas.pos.length = s.meas.pos.length ∧
    ∀ a, (posCommit s).meas.pair = some a → s.meas.alignedE = some a ∧ a.beat = s.time.beat := by
  refine ⟨rfl, List.length_mapIdx, fun a ha => ?_⟩
  unfold posCommit at ha
  dsimp only at ha
  split at ha
  case h_1 x hx =>
    split at ha
    case isTrue hbeat =>
      cases ha
      exact ⟨hx, hbeat⟩
    case isFalse => cases ha
  case h_2 => cases ha

/-- What follows the positions in the commit of a beat leaves them as they are. -/
theorem samePositions_chainCommit (s : State) : SamePositions (posCommit (exchJudge s)) (chainCommit s) := by
  refine (samePositions_tempCommit _).trans ?_
  refine (samePositions_tapCommit _).trans ?_
  refine (samePositions_judgeAbsent _).trans ?_
  refine (samePositions_accordBeat _).trans ?_
  refine (samePositions_histBeat _).trans ?_
  refine (samePositions_stimBeat _).trans ?_
  exact (samePositions_tapTemps _).trans (samePositions_summaryShow _)

theorem chainCommit_time (s : State) : (chainCommit s).time = s.time :=
  (samePositions_chainCommit s).1.trans (exchJudge_keeps s).1

/-- The positions that the commit of a beat brings. -/
theorem chainCommit_spec (s : State) :
    (chainCommit s).meas.posBeat = s.time.beat ∧ (chainCommit s).meas.pos.length = s.meas.pos.length ∧
    ∀ a, (chainCommit s).meas.pair = some a → s.meas.alignedE = some a ∧ a.beat = s.time.beat := by
  obtain ⟨htime, hmeas⟩ := exchJudge_keeps s
  obtain ⟨-, hpos, hbeat, hpair⟩ := samePositions_chainCommit s
  have hcommit := posCommit_spec (exchJudge s)
  rwa [← hpos, ← hbeat, ← hpair, htime, hmeas] at hcommit

theorem does_chainCommit {s : State} (hawake : awake s = true) (hm : s.st.mode.fromArmed = true)
    (hrun : s.est.running = true) (htick : tickOf s ≤ 330) (hturn : hadTurn .commit s = false) :
    Does .chainCommit s (fun t => t.meas.posBeat = s.time.beat ∧ tickOf t = 330 ∧ hadTurn .commit t = true ∧
      t.meas.pos.length = s.meas.pos.length ∧
      (∀ a, t.meas.pair = some a → s.meas.alignedE = some a ∧ a.beat = s.time.beat) ∧ t.st = s.st ∧ t.saf = s.saf) := by
  have hmay : mayAct .commit 330 (fresh s) = true := by rw [mayAct_fresh, (mayAct_iff ..).mpr ⟨htick, hturn⟩]
  have hexec : exec .chainCommit s = .next (chainCommit (actAt .commit 330 (fresh s))) := by
    have hgo : (awake (fresh s) && (fresh s).st.mode.fromArmed && (fresh s).est.running && mayAct .commit 330 (fresh s)) =
        true := by
      rw [hmay, awake_fresh, hawake, Bool.true_and, Bool.and_true]
      exact (congrArg (· && _) hm).trans hrun
    exact if_pos hgo
  obtain ⟨hbeat, hlen, hpair⟩ := chainCommit_spec (actAt .commit 330 (fresh s))
  refine ⟨_, hexec, hbeat, ?_, ?_, hlen, hpair, ?_, ?_⟩
  · rw [tickOf, chainCommit_time, ← tickOf, tickOf_actAt]
  · rw [hadTurn, chainCommit_time]
    exact (hadTurn_actAt .commit .commit 330 (fresh s)).trans rfl
  · rw [chainCommit_st]; rfl
  · rw [chainCommit_saf]; rfl

theorem chainCommit_again {s : State} (hturn : hadTurn .commit s = true) : exec .chainCommit s = .next (fresh s) := by
  have hmay : mayAct .commit 330 (fresh s) = false := by rw [mayAct_fresh, mayAct, hturn, Bool.not_true, Bool.and_false]
  have hno : ¬ (awake (fresh s) && (fresh s).st.mode.fromArmed && (fresh s).est.running && mayAct .commit 330 (fresh s)) =
      true := by rw [hmay, Bool.and_false]; exact Bool.false_ne_true
  exact if_neg hno

/-! ### What a frame that arrives brings (R88, R97, R106, R114) -/

theorem does_result_outside {h : ChainHdr} {b : ResultBody} {s : State} (hhears : hears h s = true)
    (hwhole : frameOk 4 h (resultBytes b) = true) (hok : resultOk h b s = false) :
    Does (.result h b) s (fun t => t.chain.claimHigher = (s.chain.claimHigher || decide (ownClaim s < h.claim)) ∧
      t.chain.got = s.chain.got ∧ t.chain.line = s.chain.line ∧ t.chain.node = s.chain.node) := by
  have hv := heard_inbound h s
  generalize hin : inbound h true (fresh s) = v at hv
  have hexec := exec_result hv hin hhears hwhole
  rw [if_neg (ne_true_of_eq_false hok)] at hexec
  exact ⟨v, hexec, hv.claim, congrArg (·.got) hv.chain, hv.line, hv.node⟩

theorem does_result {h : ChainHdr} {b : ResultBody} {s : State} (hhears : hears h s = true)
    (hwhole : frameOk 4 h (resultBytes b) = true) (hok : resultOk h b s = true) :
    Does (.result h b) s (fun t => t.chain.claimHigher = (s.chain.claimHigher || decide (ownClaim s < h.claim)) ∧
      t.chain.got = (if s.chain.got.any (fun g => g.addr == h.addr) then s.chain.got
        else s.chain.got ++ [{ addr := h.addr, nstat := b.nstat, suspect := b.suspect, vpos := b.vpos }]) ∧
      (nodeRec t h.addr).followW = b.nstat.testBit 2 ∧ (nodeRec t h.addr).hops = h.hops ∧ t.st = s.st ∧
      t.saf = s.saf) := by
  have hv := heard_inbound h s
  generalize hin : inbound h true (fresh s) = v at hv
  have hexec := exec_result hv hin hhears hwhole
  rw [if_pos hok] at hexec
  have hgot : v.chain.got = s.chain.got := congrArg (·.got) hv.chain
  have hrec := nodeRec_modRec_self (addr_lt_of_resultOk hok)
    (fun r => { r with followW := b.nstat.testBit 2, hops := h.hops }) (atNs (h.tick * 2500) v)
  refine ⟨_, hexec, ?_⟩
  dsimp only
  rw [nodeRec, forwardPair_chain, forwardPair_st, forwardPair_saf, takeResult_eq, ← hgot]
  exact ⟨hv.claim, rfl, congrArg NodeM.followW hrec, congrArg NodeM.hops hrec, hv.st, hv.saf⟩

theorem does_aux_outside {h : ChainHdr} {b : AuxBody} {s : State} (hhears : hears h s = true)
    (hwhole : frameOk 5 h (auxBytes b) = true) (hok : auxOk h s = false) :
    Does (.aux h b) s (fun t => t.chain.claimHigher = (s.chain.claimHigher || decide (ownClaim s < h.claim)) ∧
      t.chain.gotAux = s.chain.gotAux ∧ t.chain.line = s.chain.line) := by
  have hv := heard_inbound h s
  generalize hin : inbound h true (fresh s) = v at hv
  have hexec := exec_aux hv hin hhears hwhole
  rw [if_neg (ne_true_of_eq_false hok)] at hexec
  exact ⟨v, hexec, hv.claim, congrArg (·.gotAux) hv.chain, hv.line⟩

theorem does_aux {h : ChainHdr} {b : AuxBody} {s : State} (hhears : hears h s = true)
    (hwhole : frameOk 5 h (auxBytes b) = true) (hok : auxOk h s = true) :
    Does (.aux h b) s (fun t => t.chain.claimHigher = (s.chain.claimHigher || decide (ownClaim s < h.claim)) ∧
      t.chain.gotAux = (if s.chain.gotAux.any (fun g => g.addr == h.addr) then s.chain.gotAux
        else s.chain.gotAux ++ [{ addr := h.addr, body := b }]) ∧ t.st = s.st ∧ t.saf = s.saf) := by
  have hv := heard_inbound h s
  generalize hin : inbound h true (fresh s) = v at hv
  have hexec := exec_aux hv hin hhears hwhole
  rw [if_pos hok] at hexec
  have hgot : v.chain.gotAux = s.chain.gotAux := congrArg (·.gotAux) hv.chain
  refine ⟨_, hexec, ?_⟩
  dsimp only
  rw [forwardPair_chain, forwardPair_st, forwardPair_saf, takeAux_eq, ← hgot]
  exact ⟨hv.claim, rfl, hv.st, hv.saf⟩

theorem does_announce_known {h : ChainHdr} {u n p a : Nat} {s : State} (hhears : hears h s = true)
    (hwhole : frameOk 8 h (announceBytes u n p) = true) (hm : s.st.mode.fromArmed = true) (hfirst : 160 ≤ h.tick)
    (hlast : h.tick ≤ 186) (hknown : announced h u s = some a) (ha : a < 64) :
    Does (.announce h u n p) s (fun t =>
      t.chain.claimHigher = (s.chain.claimHigher || decide (ownClaim s < h.claim)) ∧ (nodeRec t a).assign = true ∧
      (nodeRec t a).rejoined = true ∧ (nodeRec t a).planNext = 0 ∧ t.chain.nodeRejoined = true ∧ t.st = s.st) := by
  have hv := heard_inbound h s
  generalize hin : inbound h true (fresh s) = v at hv
  have hexec := exec_announce hv hin hhears hwhole hm hfirst hlast
  rw [hknown] at hexec
  obtain ⟨hclaim, hassign, hrejoined, hplan, hshown, hst⟩ := rejoin_spec ha v
  exact ⟨rejoin a v, hexec, hclaim.trans hv.claim, hassign, hrejoined, hplan, hshown, hst.trans hv.st⟩

theorem does_announce_unknown {h : ChainHdr} {u n p : Nat} {s : State} (hhears : hears h s = true)
    (hwhole : frameOk 8 h (announceBytes u n p) = true) (hm : s.st.mode.fromArmed = true) (hfirst : 160 ≤ h.tick)
    (hlast : h.tick ≤ 186) (hnone : announced h u s = none) :
    Does (.announce h u n p) s (fun t =>
      t.chain.claimHigher = (s.chain.claimHigher || decide (ownClaim s < h.claim)) ∧ t.chain.unknownNode = true ∧
      t.chain.unkUid = u ∧ t.chain.unkLine = h.line.val ∧ t.chain.unkEnd = h.fromEnd ∧ t.chain.unkHops = h.hops ∧
      t.chain.node = s.chain.node ∧ t.st = s.st) := by
  have hv := heard_inbound h s
  generalize hin : inbound h true (fresh s) = v at hv
  have hexec := exec_announce hv hin hhears hwhole hm hfirst hlast
  rw [hnone] at hexec
  exact ⟨unknownSeen h u v, hexec, hv.claim, rfl, rfl, rfl, rfl, rfl, hv.node, hv.st⟩

/-! ### What a reply brings (R98 to R101, R415; 06 R158) -/

/-- A reply that answers no command brings nothing. -/
theorem does_reply_unanswered {h : ChainHdr} {op status : Nat} {d : ReplyData} {s : State} (hhears : hears h s = true)
    (hwhole : frameOk 6 h (replyBytes op status d) = true) (hnone : answered h op status s = none) :
    Does (.reply h op status d) s (fun t => t.chain.node = s.chain.node ∧ t.chain.line = s.chain.line ∧
      t.spec = s.spec) := by
  have hv := heard_inbound h s
  have htake := takeReply_of_none (d := d) hv rfl hhears hwhole hnone
  exact ⟨_, (exec_reply_plain (.inr (.inr hnone))).trans (congrArg _ htake), hv.node, hv.line, hv.spec⟩

/-- A reply that answers a command, and brings no lock-in value, brings what its command asked for. -/
theorem exec_reply_answered {h : ChainHdr} {op status : Nat} {d : ReplyData} {s : State} {c : CmdOut}
    (hhears : hears h s = true) (hwhole : frameOk 6 h (replyBytes op status d) = true)
    (hans : answered h op status s = some c) (hplain : op ≠ 11 ∨ status ≠ 0) :
    ∃ w, Replied s w ∧ exec (.reply h op status d) s = .next (replyTaken h status d c w) := by
  have hv := heard_inbound h s
  have htake := takeReply_of_some (d := d) hv rfl hhears hwhole hans
  have hexec := exec_reply_plain (d := d) (hplain.imp_right (.inl (b := answered h op status s = none)))
  exact ⟨_, hv.replied c (h.tick * 2500), hexec.trans (congrArg _ htake)⟩

theorem does_reply_assign {h : ChainHdr} {d : ReplyData} {s : State} {c : CmdOut} {uid ty pr caps : Nat} {lk : Bool}
    (hhears : hears h s = true) (ha : h.addr < 64) (hwhole : frameOk 6 h (replyBytes 2 0 d) = true)
    (hans : answered h 2 0 s = some c) (hall : c.addr = 0xFF) (hstep : (lineAt s c.line).step = .assigning)
    (hd : d = .assign uid ty pr caps lk) : Does (.reply h 2 0 d) s (fun t =>
      (lineAt t c.line).nextHop = (lineAt s c.line).nextHop + 1 ∧ (lineAt t c.line).waited = 0 ∧
      (nodeRec t h.addr).found = true ∧ (nodeRec t h.addr).uid = uid ∧ (nodeRec t h.addr).nodeType = ty ∧
      t.st = s.st ∧ t.saf = s.saf) := by
  obtain ⟨hop, hline, hnode, -⟩ := answered_spec hans
  have hl : c.line < 4 := hline ▸ h.line.isLt
  obtain ⟨w, hw, hexec⟩ := exec_reply_answered hhears hwhole hans (.inl (by decide))
  subst hd
  rw [replyTaken, if_pos rfl, replyAddr_broadcast hall, hnode rfl rfl] at hexec
  have hstep' : (lineAt w c.line).step = .assigning := (congrArg Line.step (hw.lineAt c.line)).trans hstep
  obtain ⟨hl', hn', hst, hsaf⟩ := replyOk_assign hop hl ha hstep' uid ty pr caps lk
  refine ⟨_, hexec, ?_⟩
  dsimp only
  rw [hl', hn', hst, hsaf, hw.lineAt]
  exact ⟨rfl, rfl, rfl, rfl, rfl, hw.st, hw.saf⟩

/-- A command of one address is answered for the address of the reply. -/
theorem replyAddr_answered {h : ChainHdr} {op status : Nat} {s : State} {c : CmdOut} (hans : answered h op status s = some c)
    (ha : h.addr < 64) (h2 : op ≠ 2) (h3 : op ≠ 3) : replyAddr c h.addr = h.addr := by
  obtain ⟨-, -, -, hnode⟩ := answered_spec hans
  exact replyAddr_addressed (by rw [hnode h2 h3]; omega) _

theorem does_reply_id {h : ChainHdr} {d : ReplyData} {s : State} {c : CmdOut} {uid ty pr caps pp tp : Nat} {lk : Bool}
    (hhears : hears h s = true) (ha : h.addr < 64) (hwhole : frameOk 6 h (replyBytes 4 0 d) = true)
    (hans : answered h 4 0 s = some c) (hd : d = .id uid ty pr caps lk pp tp) : Does (.reply h 4 0 d) s (fun t =>
      (nodeRec t h.addr).uid = uid ∧ (nodeRec t h.addr).nodeType = ty ∧ (nodeRec t h.addr).inputs = pp ∧
      (nodeRec t h.addr).tInputs = tp ∧ (nodeRec t h.addr).idRead = true ∧ t.st = s.st ∧ t.saf = s.saf) := by
  obtain ⟨w, hw, hexec⟩ := exec_reply_answered hhears hwhole hans (.inl (by decide))
  subst hd
  rw [replyTaken, if_pos rfl, replyAddr_answered hans ha (by decide) (by decide)] at hexec
  obtain ⟨hn, hst, hsaf⟩ := replyOk_id c ha w uid ty pr caps lk pp tp
  refine ⟨_, hexec, ?_⟩
  dsimp only
  rw [hn, hst, hsaf]
  exact ⟨rfl, rfl, rfl, rfl, rfl, hw.st, hw.saf⟩

theorem does_reply_sense {h : ChainHdr} {d : ReplyData} {s : State} {c : CmdOut} {r : List Nat}
    (hhears : hears h s = true) (ha : h.addr < 64) (hwhole : frameOk 6 h (replyBytes 8 0 d) = true)
    (hans : answered h 8 0 s = some c) (hd : d = .sense true r) : Does (.reply h 8 0 d) s (fun t =>
      (nodeRec t h.addr).sense = r ∧ (nodeRec t h.addr).senseDone = true ∧ t.st = s.st ∧ t.saf = s.saf) := by
  obtain ⟨w, hw, hexec⟩ := exec_reply_answered hhears hwhole hans (.inl (by decide))
  subst hd
  rw [replyTaken, if_pos rfl, replyAddr_answered hans ha (by decide) (by decide)] at hexec
  obtain ⟨hn, hst, hsaf⟩ := replyOk_sense c ha w r
  refine ⟨_, hexec, ?_⟩
  dsimp only
  rw [hn, hst, hsaf]
  exact ⟨rfl, rfl, hw.st, hw.saf⟩

theorem does_reply_diag {h : ChainHdr} {d : ReplyData} {s : State} {c : CmdOut} {n x1 x2 x4 : Nat} {x3 : Int}
    (hhears : hears h s = true) (ha : h.addr < 64) (hwhole : frameOk 6 h (replyBytes 13 0 d) = true)
    (hans : answered h 13 0 s = some c) (hd : d = .diag n x1 x2 x3 x4) : Does (.reply h 13 0 d) s (fun t =>
      (nodeRec t h.addr).crc = min n 65535 ∧ t.chain.line = s.chain.line ∧ t.st = s.st ∧ t.saf = s.saf) := by
  obtain ⟨w, hw, hexec⟩ := exec_reply_answered hhears hwhole hans (.inl (by decide))
  subst hd
  rw [replyTaken, if_pos rfl, replyAddr_answered hans ha (by decide) (by decide)] at hexec
  have hn := nodeRec_modRec_self ha (fun r => { r with crc := min n 65535 }) w
  exact ⟨_, hexec, congrArg NodeM.crc hn, hw.line, hw.st, hw.saf⟩

/-- LOCKIN_READ's reply: the value of its bin, where it brings one. -/
theorem does_reply_lockin {h : ChainHdr} {d : ReplyData} {s : State} {c : CmdOut} {done : Bool} {v1 v2 i1 i2 : Int}
    (hhears : hears h s = true) (hwhole : frameOk 6 h (replyBytes 11 0 d) = true) (hans : answered h 11 0 s = some c)
    (hd : d = .lockin done v1 v2 i1 i2) : Does (.reply h 11 0 d) s (fun t =>
      t.st = s.st ∧ t.saf = s.saf ∧ ((done = false ∨ lockResult v1 v2 i1 i2 = none) → t.spec = s.spec) ∧
      (∀ z n p, done = true → lockResult v1 v2 i1 i2 = some z → mapNode s h.addr = some n →
        n.stringPos ((c.args[0]?).getD 0) = some p →
        let acc : LockinEst := { z := some z, last := some s.time.beat }
        t = modSpec p (fun x => { x with lockin := updL x.lockin ((c.args[1]?).getD 0 - 31) (fun _ => acc) })
          { t with spec := s.spec })) := by
  subst hd
  have hv := heard_inbound h s
  have hexec := exec_reply_lockin hhears hwhole hans
  rw [takeReply_of_some hv rfl hhears hwhole hans, replyTaken, if_pos rfl] at hexec
  have hw := hv.replied c (h.tick * 2500)
  generalize markDone c (atNs (h.tick * 2500) (inbound h true (fresh s))) = w at hexec hw
  refine ⟨takeLockin c h.addr (.lockin done v1 v2 i1 i2) w, hexec, ?_, ?_, fun hno => ?_, ?_⟩
  · rw [takeLockin_st, hw.st]
  · rw [takeLockin_saf, hw.saf]
  · rw [takeLockin_none hno, hw.spec]
  · rintro z n p rfl hz hn hp
    rw [takeLockin_some hz ((mapNode_congr hw.cal hw.fab _).trans hn) hp, ← hw.beat, ← hw.spec]
    rfl

theorem does_reply_refused {h : ChainHdr} {op : Nat} {d : ReplyData} {s : State} {c : CmdOut} (hhears : hears h s = true)
    (hwhole : frameOk 6 h (replyBytes op 1 d) = true) (hans : answered h op 1 s = some c)
    (hstep : (lineAt s c.line).step = .checking ∨ (op = 2 ∧ (lineAt s c.line).step = .assigning)) :
    Does (.reply h op 1 d) s (fun t => (lineAt t c.line).step = .failed ∧
      (s.chain.enumErr = 0 → t.chain.enumErr = 11 ∧ t.chain.enumDetail = min h.claim 65535) ∧ t.st = s.st ∧
      t.saf = s.saf) := by
  obtain ⟨hop, hline, -, -⟩ := answered_spec hans
  obtain ⟨w, hw, hexec⟩ := exec_reply_answered hhears hwhole hans (.inr (by decide))
  rw [← hop, ← hw.lineAt] at hstep
  obtain ⟨hfailed, herr, hst, hsaf⟩ := replyTaken_refused (hline ▸ h.line.isLt) hstep d
  exact ⟨_, hexec, hfailed, fun h0 => herr (hw.err.trans h0), hst.trans hw.st, hsaf.trans hw.saf⟩

end Sys2Proof.Machine

namespace Sys2Proof

open Sys2Proof.Machine

/-- Settles O26: each frame by its own lemma, and the commit of a beat. -/
theorem chainReceives : Obligations.ChainReceives := by
  refine ⟨fun h s hhears => ⟨?result, ?aux, ?announce⟩, fun h op status d s hhears ha => ⟨?broken, ?unanswered, ?reply⟩,
    fun s hawake hm hrun htick => ⟨does_chainCommit hawake hm hrun htick, chainCommit_again⟩⟩
  case result =>
    exact fun b => ⟨fun hbroken => ⟨_, exec_result_broken hhears hbroken, ⟨crc_inbound_broken h s, rfl⟩, rfl⟩,
      does_result_outside hhears, does_result hhears⟩
  case aux =>
    exact fun b => ⟨fun hbroken => ⟨_, exec_aux_broken hhears hbroken, ⟨crc_inbound_broken h s, rfl⟩, rfl⟩,
      does_aux_outside hhears, does_aux hhears⟩
  case announce =>
    exact fun u n p =>
      ⟨fun hbroken => ⟨_, exec_announce_broken hhears hbroken, ⟨crc_inbound_broken h s, rfl⟩, rfl, rfl⟩,
      fun hwhole hm hfirst hlast => ⟨fun a => does_announce_known hhears hwhole hm hfirst hlast,
        does_announce_unknown hhears hwhole hm hfirst hlast⟩⟩
  case broken => exact fun hbroken => ⟨_, exec_reply_broken hhears hbroken, crc_inbound_broken h s, rfl, rfl⟩
  case unanswered => exact does_reply_unanswered hhears
  case reply =>
    refine fun c hwhole hans => ⟨?assign, ?id, ?sense, ?diag, ?lockin, ?refused⟩
    case assign =>
      rintro rfl rfl hall hstep uid ty pr caps lk hd
      exact does_reply_assign hhears ha hwhole hans hall hstep hd
    case id =>
      rintro rfl rfl uid ty pr caps lk pp tp hd
      exact does_reply_id hhears ha hwhole hans hd
    case sense =>
      rintro rfl rfl r hd
      exact does_reply_sense hhears ha hwhole hans hd
    case diag =>
      rintro rfl rfl n x1 x2 x3 x4 hd
      exact does_reply_diag hhears ha hwhole hans hd
    case lockin =>
      rintro rfl rfl done v1 v2 i1 i2 hd
      exact does_reply_lockin hhears hwhole hans hd
    case refused =>
      rintro rfl hstep
      exact does_reply_refused hhears hwhole hans hstep

end Sys2Proof
end

section
/-! SUPPORT AND PROOFS. The front end and the charge counter (05 R117, R120 to R122, R128, R129): the sample that a tick of
the stream stores, the aligned sample, the gain check, and what follows the charge counter at tick 20. -/

namespace Sys2Proof.Machine

/-! ### Stream samples (R117, R120, R128, R129) -/

/-- The sample whose voltages stand for those of a tick: in a gain beat that of tick 250 for tick 300 (R129). -/
def gainHeld (k : Fin 8) (s : State) : Option FeSample :=
  if gainBeat s && k.val == 6 then s.meas.stream[(5 : Fin 8)] else none

/-- The sample that tick 50 k of a beat stores. -/
def streamSample (k : Fin 8) (pv vs vl : Int) (s : State) : FeSample :=
  let str := ((gainHeld k s).map (·.vStr)).getD vs
  let lnk := ((gainHeld k s).map (·.vLnk)).getD vl
  { i := clampI (-currentRange s) (currentRange s) (shuntCurrent pv s)
    vStr := min str 180000000, vLnk := clampI (-5000000) 180000000 lnk
    iBad := decide (shuntCurrent pv s < -currentRange s ∨ currentRange s < shuntCurrent pv s)
    strBad := decide (180000000 < str) || s.meas.azStr
    lnkBad := decide (lnk < -5000000 ∨ 180000000 < lnk) || s.meas.azLnk }

/-- A sample is stored under its place, and no other place changes. -/
structure StreamStored (k : Fin 8) (x : FeSample) (s t : State) : Prop where
  own : t.meas.stream[k] = some x
  others : ∀ j : Fin 8, j ≠ k → t.meas.stream[j] = s.meas.stream[j]
  curOvr : x.iBad = true → t.meas.curOvr = true
  st : t.st = s.st
  saf : t.saf = s.saf

theorem does_streamSample {s : State} (hawake : awake s = true) (hm : s.st.mode.fromLoaded = true) (k : Fin 8)
    (pv vs vl : Int) :
    Does (.streamSample k pv vs vl) s (StreamStored k (streamSample k pv vs vl s) s) := by
  refine does_of_guard rfl (by simp [hawake, hm]) ⟨?_, fun j hj => ?_, fun hbad => ?_, rfl, rfl⟩
  · exact Vector.getElem_set_self ..
  · exact Vector.getElem_set_ne k.isLt j.isLt (fun h => hj (Fin.ext h.symm))
  · exact Bool.or_eq_true_iff.mpr (.inr hbad)

theorem currentRange_nonneg (s : State) : 0 ≤ currentRange s := by
  unfold currentRange
  split <;> decide

theorem clampI_of_mem {lo hi x : Int} (hlo : lo ≤ x) (hhi : x ≤ hi) : clampI lo hi x = x := by
  rw [clampI, min_eq_right hhi, max_eq_right hlo]

/-- The current of a stored sample is the measured one where it is not marked (R128). -/
theorem streamSample_i_of_good {k : Fin 8} {pv vs vl : Int} {s : State}
    (h : (streamSample k pv vs vl s).iBad = false) : (streamSample k pv vs vl s).i = shuntCurrent pv s := by
  obtain ⟨hlo, hhi⟩ := not_or.mp (of_decide_eq_false h)
  exact clampI_of_mem (Int.not_lt.mp hlo) (Int.not_lt.mp hhi)

theorem gainHeld_none {k : Fin 8} {s : State} (h : gainBeat s = false ∨ k ≠ 6) : gainHeld k s = none := by
  refine if_neg fun hk => ?_
  obtain ⟨hgain, h6⟩ := Bool.and_eq_true_iff.mp hk
  obtain h | h := h
  · exact Bool.noConfusion (h.symm.trans hgain)
  · exact h (Fin.ext (eq_of_beq h6))

theorem gainHeld_tick300 {s : State} (h : gainBeat s = true) : gainHeld 6 s = s.meas.stream[(5 : Fin 8)] :=
  if_pos (by rw [h]; rfl)

/-! ### The aligned sample and the gain check (R121, R129) -/

theorem exec_alignedSample {s : State} {x : FeSample} (hawake : awake s = true) (hm : s.st.mode.fromLoaded = true)
    (hx : s.meas.stream[(4 : Fin 8)] = some x) : exec .alignedSample s =
      .next { fresh s with meas := { s.meas with aligned := some { beat := s.time.beat, fe := x }
                                                 alignedE := some { beat := s.time.beat, fe := x } } } := by
  have hgo : (awake (fresh s) && (fresh s).st.mode.fromLoaded) = true := by
    rw [awake_fresh, hawake]
    exact hm
  change execAlignedSample s = _
  simp only [execAlignedSample, fresh_meas, hx, hgo, if_true]
  rfl

/-! ### What follows the charge counter at tick 20 (07 R181, 08 R213) -/

/-- A change that leaves the measurements, the time, STATE and the safety functions alone. -/
structure MeasKept (s t : State) : Prop where
  meas : t.meas = s.meas
  time : t.time = s.time
  st : t.st = s.st
  saf : t.saf = s.saf

theorem MeasKept.refl (s : State) : MeasKept s s := ⟨rfl, rfl, rfl, rfl⟩

theorem MeasKept.trans {s t u : State} (h : MeasKept s t) (h' : MeasKept t u) : MeasKept s u :=
  ⟨h'.meas.trans h.meas, h'.time.trans h.time, h'.st.trans h.st, h'.saf.trans h.saf⟩

theorem MeasKept.ite {p : Prop} [Decidable p] {s t u : State} (ht : MeasKept s t) (hu : MeasKept s u) :
    MeasKept s (if p then t else u) := by
  split
  · exact ht
  · exact hu

theorem MeasKept.foldl {α : Type} {f : State → α → State} (h : ∀ s x, MeasKept s (f s x)) (l : List α) (s : State) :
    MeasKept s (l.foldl f s) :=
  List.foldlRecOn (motive := MeasKept s) l f (.refl s) (fun _ hb x _ => hb.trans (h _ x))

theorem offerContent_measKept (content : Nat) (words : List Word) (s : State) :
    MeasKept s (offerContent content words s) := by
  refine .ite (.foldl (fun t q => ?_) _ s) (.refl s)
  exact .ite ⟨rfl, rfl, rfl, rfl⟩ (.refl t)

theorem enterFinding_measKept (r : Nat) (s : State) (f : Finding) : MeasKept s (enterFinding r s f) := by
  have hjnl : MeasKept s (jnl 0x0B 0xFF (f.words r) s) := ⟨rfl, rfl, rfl, rfl⟩
  have hmark : ∀ (c : Bool) (a bits : Nat) (t : State), MeasKept t (setAgainIf c a bits t) := fun _ _ _ _ =>
    .ite ⟨rfl, rfl, rfl, rfl⟩ (.refl _)
  obtain ⟨hmeas, htime, hst, hsaf⟩ := (hjnl.trans (offerContent_measKept 5 (f.words r) _)).trans (hmark _ _ _ _)
  exact ⟨hmeas, htime, hst, hsaf⟩

theorem cellSettle_measKept (s : State) : MeasKept s (cellSettle s) := by
  have hclear : MeasKept s { s with cells := { s.cells with findings := [], before := none } } := ⟨rfl, rfl, rfl, rfl⟩
  exact hclear.trans (.foldl (enterFinding_measKept _) _ _)

theorem cellReview_measKept (s : State) : MeasKept s (cellReview s) := by
  unfold cellReview
  split
  next b _ =>
    have hredo : MeasKept s (if restEnded s then cellUpdate (s.cells.round.getD 0) b.1 b.2 s else s) :=
      .ite ⟨rfl, rfl, rfl, rfl⟩ (.refl s)
    exact .ite (.ite (hredo.trans (cellSettle_measKept _)) hredo) (cellSettle_measKept s)
  · exact .refl s

theorem restJudge_measKept (s : State) : MeasKept s (restJudge s) :=
  .ite (.ite ⟨rfl, rfl, rfl, rfl⟩ ⟨rfl, rfl, rfl, rfl⟩) (.refl s)

theorem restPositions_measKept (s : State) : MeasKept s (restPositions s) := .ite ⟨rfl, rfl, rfl, rfl⟩ (.refl s)

/-- All that tick 20 does besides the charge counter leaves the measurements alone. -/
theorem chargeFollows_measKept (s : State) : MeasKept s (cellReview (restPositions (restJudge (epochBeat s)))) := by
  have hepoch : MeasKept s (epochBeat s) := ⟨rfl, rfl, rfl, rfl⟩
  exact ((hepoch.trans (restJudge_measKept _)).trans (restPositions_measKept _)).trans (cellReview_measKept _)

theorem does_chargeCommit {s : State} (hawake : awake s = true) (hm : s.st.mode.fromLoaded = true)
    (htick : tickOf s ≤ 20) (hturn : hadTurn .charge s = false) :
    Does .chargeCommit s (MeasKept (chargeCommit (actAt .charge 20 (fresh s)))) :=
  does_of_guard rfl (by simp [hawake, hm, mayAct_iff, htick, hturn]) (chargeFollows_measKept _)

theorem chargeCommit_again {s : State} (hturn : hadTurn .charge s = true) : exec .chargeCommit s = .next (fresh s) :=
  if_neg (by simp [mayAct, hturn])

end Sys2Proof.Machine

namespace Sys2Proof

open Sys2Proof.Machine

/-- Settles O28: the sample stored by its own definition, and the charge counter by what follows it at its tick. -/
theorem frontEnd : Obligations.FrontEnd := by
  intro s hawake hm
  refine ⟨fun k pv vs vl => ?stream, fun x hx => ⟨_, exec_alignedSample hawake hm hx, rfl, rfl, rfl⟩,
    fun a b hgain => ?gain, chargeCommit_again, fun htick hturn => ?charge⟩
  case stream =>
    obtain ⟨t, hexec, hown, hothers, hovr, hst, hsaf⟩ := does_streamSample hawake hm k pv vs vl
    have hrange := clampI_within (neg_le_self (currentRange_nonneg s)) (shuntCurrent pv s)
    have hlnk := clampI_within (show (-5000000 : Int) ≤ 180000000 by decide) (((gainHeld k s).map (·.vLnk)).getD vl)
    refine ⟨t, hexec, _, hown, hrange.1, hrange.2, streamSample_i_of_good, hovr, min_le_right _ _, hlnk.1, hlnk.2,
      fun hplain => ?_, fun y hgain hk hy => ?_, hothers, hst, hsaf⟩
    · simp [streamSample, gainHeld_none hplain]
    · subst hk
      simp [streamSample, gainHeld_tick300 hgain, hy]
  case gain =>
    have hgain' : gainBeat (fresh s) = true := hgain
    exact does_of_guard rfl (by simp [hawake, hm, hgain']) ⟨rfl, rfl, rfl, rfl⟩
  case charge =>
    obtain ⟨t, hexec, hmeas, htime, hst, hsaf⟩ := does_chargeCommit hawake hm htick hturn
    refine ⟨t, hexec, ?_, ?_, by rw [hmeas]; rfl, by rw [hmeas]; rfl, hst, hsaf⟩
    · rw [tickOf, htime]
      exact tickOf_actAt .charge 20 (fresh s)
    · rw [hadTurn, htime]
      exact (hadTurn_actAt .charge .charge 20 (fresh s)).trans (by simp)

end Sys2Proof
end

section
/-! SUPPORT AND PROOFS. The accord check, insulation cycles and measurement snapshots (05 R130, R131, R139 to R145). -/

namespace Sys2Proof.Machine

/-! ### What an evaluation makes of the accord block (R139 to R143) -/

/-- The counts and the verdicts of the accord block stay. -/
structure VerdictsKept (a b : Accord) : Prop where
  evals : b.evals = a.evals
  skipped : b.skipped = a.skipped
  skipRun : b.skipRun = a.skipRun
  warn : b.warn = a.warn
  fault : b.fault = a.fault

theorem VerdictsKept.trans {a b c : Accord} (h : VerdictsKept a b) (h' : VerdictsKept b c) : VerdictsKept a c :=
  ⟨h'.evals.trans h.evals, h'.skipped.trans h.skipped, h'.skipRun.trans h.skipRun, h'.warn.trans h.warn,
    h'.fault.trans h.fault⟩

theorem learnRout_verdictsKept (w : AccWin) (k : Nat) (a : Accord) : VerdictsKept a (learnRout w k a) := by
  unfold learnRout
  split <;> exact ⟨rfl, rfl, rfl, rfl, rfl⟩

/-- The cross-check of R143 leaves R_out, the counts and the verdicts alone. -/
theorem crossCheck_kept (w : AccWin) (a : Accord) :
    (crossCheck w a).rOut = a.rOut ∧ VerdictsKept a (crossCheck w a) := by
  unfold crossCheck
  dsimp only
  (repeat' split) <;> exact ⟨rfl, rfl, rfl, rfl, rfl, rfl⟩

/-- A skipped evaluation counts as such, and leaves R_out and the verdicts alone (R140). -/
theorem judgeAccord_of_skips {w : AccWin} (h : w.skips = true) (nPos k : Nat) (a : Accord) :
    (judgeAccord w nPos k a).skipped = satAdd a.skipped 1 255 ∧ (judgeAccord w nPos k a).rOut = a.rOut ∧
      (judgeAccord w nPos k a).evals = a.evals ∧ (judgeAccord w nPos k a).warn = a.warn ∧
      (judgeAccord w nPos k a).fault = a.fault := by
  rw [judgeAccord, if_pos h]
  exact ⟨rfl, rfl, rfl, rfl, rfl⟩

/-- An evaluation that is not skipped counts, and ACCORD_FAULT stays and brings ACCORD_WARN with it (R140 to R142). -/
theorem judgeAccord_of_counts {w : AccWin} (h : w.skips = false) (nPos k : Nat) (a : Accord) :
    (judgeAccord w nPos k a).evals = satAdd a.evals 1 65535 ∧ (judgeAccord w nPos k a).skipRun = 0 ∧
      (a.fault = true → (judgeAccord w nPos k a).fault = true) ∧
      ((judgeAccord w nPos k a).fault = true → (judgeAccord w nPos k a).warn = true) := by
  have hskip : ¬ w.skips = true := by rw [h]; decide
  rw [judgeAccord, if_neg hskip]
  refine ⟨rfl, rfl, fun hfault => ?_, fun hfault => ?_⟩
  · exact Bool.or_eq_true_iff.mpr (.inl hfault)
  · exact Bool.or_eq_true_iff.mpr (.inl hfault)

/-- The window that an evaluation judges: the one that ended with the beat before, which the commit of this beat sets
apart (R140). -/
def accordWindow (s : State) : AccWin := if hadTurn .commit s then s.meas.acc.winPrev else s.meas.acc.win

/-- The accord block with R_out learnt from the window (R139). -/
def accordLearnt (s : State) : Accord :=
  let w := accordWindow s
  let a := s.meas.acc
  let l := if w.skips then a else learnRout w s.freeCtr { a with rOutRange := false }
  { l with rOutRange := a.rOutRange || l.rOutRange }

/-- The accord block after an evaluation. -/
def accordJudged (s : State) : Accord :=
  let w := accordWindow s
  crossCheck w (judgeAccord w s.meas.pos.length (s.freeCtr + 1) (accordLearnt s))

/-- The accord block with the judged window begun anew. -/
def Accord.emptied (done : Bool) (a : Accord) : Accord :=
  if done then { a with winPrev := AccWin.start } else { a with win := AccWin.start }

theorem emptied_kept (done : Bool) (a : Accord) : (a.emptied done).rOut = a.rOut ∧ VerdictsKept a (a.emptied done) := by
  cases done <;> exact ⟨rfl, rfl, rfl, rfl, rfl, rfl⟩

theorem emptied_window (done : Bool) (a : Accord) :
    (if done then (a.emptied done).winPrev else (a.emptied done).win) = AccWin.start := by
  cases done <;> rfl

theorem accordLearnt_verdictsKept (s : State) : VerdictsKept s.meas.acc (accordLearnt s) := by
  have hnote : ∀ (a : Accord) (b : Bool), VerdictsKept a { a with rOutRange := b } := fun _ _ =>
    ⟨rfl, rfl, rfl, rfl, rfl⟩
  unfold accordLearnt
  dsimp only
  split
  · exact hnote _ _
  · exact ((hnote _ _).trans (learnRout_verdictsKept ..)).trans (hnote _ _)

theorem accordJudged_of_skips {s : State} (h : (accordWindow s).n < 500) :
    (accordJudged s).skipped = min 255 (s.meas.acc.skipped + 1) ∧ (accordJudged s).rOut = s.meas.acc.rOut ∧
      (accordJudged s).evals = s.meas.acc.evals ∧ (accordJudged s).warn = s.meas.acc.warn ∧
      (accordJudged s).fault = s.meas.acc.fault := by
  have hskip : (accordWindow s).skips = true := decide_eq_true h
  have hrOut : (accordLearnt s).rOut = s.meas.acc.rOut := by
    rw [accordLearnt, if_pos hskip]
  obtain ⟨hevals, hskipped, -, hwarn, hfault⟩ := accordLearnt_verdictsKept s
  obtain ⟨hskipped1, hrOut1, hevals1, hwarn1, hfault1⟩ := judgeAccord_of_skips hskip s.meas.pos.length
    (s.freeCtr + 1) (accordLearnt s)
  obtain ⟨hrOut', hevals', hskipped', -, hwarn', hfault'⟩ := crossCheck_kept (accordWindow s)
    (judgeAccord (accordWindow s) s.meas.pos.length (s.freeCtr + 1) (accordLearnt s))
  rw [hskipped] at hskipped1
  exact ⟨hskipped'.trans hskipped1, hrOut'.trans (hrOut1.trans hrOut), hevals'.trans (hevals1.trans hevals),
    hwarn'.trans (hwarn1.trans hwarn), hfault'.trans (hfault1.trans hfault)⟩

theorem accordJudged_of_counts {s : State} (h : 500 ≤ (accordWindow s).n) :
    (accordJudged s).evals = min 65535 (s.meas.acc.evals + 1) ∧ (accordJudged s).skipRun = 0 ∧
      (s.meas.acc.fault = true → (accordJudged s).fault = true) ∧
      ((accordJudged s).fault = true → (accordJudged s).warn = true) := by
  obtain ⟨hevals, -, -, -, hfault⟩ := accordLearnt_verdictsKept s
  obtain ⟨hevals1, hskipRun1, hstays, hbrings⟩ := judgeAccord_of_counts
    (decide_eq_false (Nat.not_lt.mpr h)) s.meas.pos.length (s.freeCtr + 1) (accordLearnt s)
  obtain ⟨-, hevals', -, hskipRun', hwarn', hfault'⟩ := crossCheck_kept (accordWindow s)
    (judgeAccord (accordWindow s) s.meas.pos.length (s.freeCtr + 1) (accordLearnt s))
  rw [hevals] at hevals1
  rw [hfault] at hstays
  exact ⟨hevals'.trans hevals1, hskipRun'.trans hskipRun1, fun hf => hfault'.trans (hstays hf),
    fun hf => hwarn'.trans (hbrings (hfault'.symm.trans hf))⟩

/-- An evaluation at its turn: the block is at tick 330, and the accord block is judged. -/
structure AccordEvaluated (s t : State) : Prop where
  acc : t.meas.acc = (accordJudged s).emptied (hadTurn .commit s)
  tick : tickOf t = 330
  st : t.st = s.st
  saf : t.saf = s.saf

theorem does_accordEvaluation {s : State} (hawake : awake s = true) (hm : s.st.mode.fromArmed = true)
    (hbeat : s.time.beat % 1000 = 0) (htick : tickOf s ≤ 330) (hturn : hadTurn .accord s = false) :
    Does .accordEvaluation s (AccordEvaluated s) := by
  have hcommit : hadTurn .commit (actAt .accord 330 (fresh s)) = hadTurn .commit s := hadTurn_actAt ..
  refine does_of_guard rfl (by simp [hawake, hm, hbeat, mayAct_iff, htick, hturn]) ⟨?_, ?_, ?_, ?_⟩
  · dsimp only
    rw [setAgainIf_freeCtr, setAgainIf_meas, hcommit]
    rfl
  · rw [tickOf, tookFree_time, setAgainIf_time]
    exact tickOf_actAt ..
  · exact setAgainIf_st ..
  · exact setAgainIf_saf ..

/-! ### Insulation (R130, R131) -/

theorem insOpen_of_measures {s : State} (h : measuresIns s = true) : insOpen s = s := if_pos h

theorem insOpen_of_not {s : State} (h : measuresIns s = false) :
    insOpen s = { s with meas := { s.meas with ins := { s.meas.ins with phase := none } } } :=
  if_neg (by rw [h]; decide)

theorem does_insulationCycleStart {s : State} (hawake : awake s = true) (hm : s.st.mode.fromLoaded = true)
    (hphase : s.meas.ins.phase = none) (hdue : s.meas.ins.nextDue ≤ s.time.beat) (hown : measuresIns s = true) :
    Does .insulationCycleStart s (fun t => t.meas.ins.phase = some (1, s.time.beat) ∧
      t.meas.ins.result = s.meas.ins.result ∧ t.st = s.st ∧ t.saf = s.saf) := by
  have hopen : insOpen (fresh s) = fresh s := insOpen_of_measures hown
  have hexec : exec .insulationCycleStart s = execInsulationCycleStart s := rfl
  rw [execInsulationCycleStart, hopen] at hexec
  have hmeasures : measuresIns (fresh s) = true := hown
  exact does_of_guard hexec (by simp [hawake, hm, hphase, hdue, hmeasures]) ⟨rfl, rfl, rfl, rfl⟩

/-- A phase settles in its time: between 500 and 10 000 beats after it began (R130). -/
def InTime (b : Nat) (s : State) : Prop := b + 500 ≤ s.time.beat ∧ s.time.beat ≤ b + 10000

theorem insSettled_first {b : Nat} {s : State} (hown : measuresIns s = true) (hp : s.meas.ins.phase = some (1, b))
    (ht : InTime b s) (v : Int) : insSettled v s =
      ({ s with meas := { s.meas with ins := { s.meas.ins with phase := some (2, s.time.beat), v1 := v } } }, false) := by
  simp only [insSettled, insOpen_of_measures hown, hp]
  exact if_pos ht

@[simp] theorem emitFab_meas (mac : Option Nat) (kind dst seq beat : Nat) (stamp : Option Nat) (ports : Nat)
    (payload : List Byte) (s : State) : (emitFab mac kind dst seq beat stamp ports payload s).meas = s.meas := by
  unfold emitFab
  split <;> rfl

@[simp] theorem sendFab_meas (mac : Option Nat) (kind dst beat : Nat) (stamp : Option Nat) (ports : Nat)
    (payload : List Byte) (s : State) : (sendFab mac kind dst beat stamp ports payload s).meas = s.meas :=
  emitFab_meas ..

theorem insSettled_second {b : Nat} {s : State} (hown : measuresIns s = true) (hp : s.meas.ins.phase = some (2, b))
    (ht : InTime b s) (v : Int) :
    (insSettled v s).1.meas.ins.phase = none ∧
      (insSettled v s).1.meas.ins.result = some (Config.insBridge s.meas.ins.v1 v) ∧
      (insSettled v s).1.meas.ins.endBeat = s.time.beat ∧ (insSettled v s).1.meas.ins.source = 0 := by
  have hin : b + 500 ≤ s.time.beat ∧ s.time.beat ≤ b + 10000 := ht
  simp only [insSettled, insOpen_of_measures hown, hp]
  rw [if_pos hin]
  dsimp only
  split
  · rw [sendFab_meas]
    exact ⟨rfl, rfl, rfl, rfl⟩
  · exact ⟨rfl, rfl, rfl, rfl⟩

/-! ### A latch leaves the measurements alone (10 R235, R269) -/

theorem enterSafe_meas (s : State) : (enterSafe s).meas = s.meas := by
  unfold enterSafe
  split <;> rfl

theorem jobFail_meas (detail : Nat) (s : State) : (jobFail detail s).meas = s.meas := by
  unfold jobFail
  split <;> rfl

theorem jobWatch_meas (before s : State) : (jobWatch before s).meas = s.meas := by
  unfold jobWatch
  split
  · split
    · exact jobFail_meas 6 s
    · rfl
  · rfl

theorem noteOpens_meas (before s : State) : (noteOpens before s).meas = s.meas := by
  unfold noteOpens
  dsimp only
  split
  · exact List.foldlRecOn (motive := fun t : State => t.meas = s.meas) _ _ rfl (fun _ ht _ _ => ht)
  · rfl

theorem latch_meas (ch : Chan) (c : Cause) (info : Nat) (s : State) : (latch ch c info s).meas = s.meas := by
  unfold latch
  split
  · rfl
  · exact ((jobWatch_meas ..).trans (noteOpens_meas ..)).trans (enterSafe_meas _)

/-- The settling of a phase: channel A, which judges a result of this module, leaves the measurements as `insSettled` left
them, and without such a result nothing follows (10 R246). -/
theorem does_insulationPhaseSettled {s : State} (hawake : awake s = true) (v : Int) :
    Does (.insulationPhaseSettled v) s (fun t => t.meas = (insSettled v (fresh s)).1.meas ∧
      ((insSettled v (fresh s)).2 = false → t = (insSettled v (fresh s)).1)) := by
  have hawake' : awake (fresh s) = true := hawake
  change ∃ t, execInsulationPhaseSettled v s = .next t ∧ _
  unfold execInsulationPhaseSettled
  dsimp only
  rw [if_pos hawake']
  split
  next rp rn b hown _ _ =>
    have hnot : (insSettled v (fresh s)).2 = false → False := fun h => Bool.noConfusion (h.symm.trans hown)
    split
    · refine ⟨_, rfl, ?_, fun h => (hnot h).elim⟩
      generalize (if rIsoBelow rp rn b.insMin = true then _ else _ : Nat) = n
      split
      · exact latch_meas ..
      · rfl
    · exact ⟨_, rfl, rfl, fun h => (hnot h).elim⟩
  · exact ⟨_, rfl, rfl, fun _ => rfl⟩

/-! ### Snapshots (R145) -/

theorem snapCtrl_not_w1c : w1cTable.findIdx? (fun r => r.1 == 0x8004) = none := rfl

/-- The pages of a session set. -/
def pagesSet (i : Fin 32) (v : Word) (s : State) : State :=
  modSess i (fun x => { x with page := wBits v 3 0, tpage := wBits v 11 8 }) s

/-- A snapshot asked for. -/
def snapAsked (s : State) : State := { s with meas := { s.meas with snapPending := true, snapValid := false } }

theorem measWrite_take (i : Fin 32) {v : Word} (hpage : wBits v 11 8 ≤ 7) (hv : wBit v 31 = true) {s : State}
    (hidle : s.meas.snapPending = false) : measWrite i 4 v s = (.ok, snapAsked (pagesSet i v s)) := by
  have h : measWrite i 4 v s = if 7 < wBits v 11 8 then (.access, s) else
      (.ok, if wBit v 31 then takeSnap (pagesSet i v s) else pagesSet i v s) := rfl
  have hasked : takeSnap (pagesSet i v s) = snapAsked (pagesSet i v s) :=
    if_neg (by rw [pagesSet, modSess_meas, hidle]; decide)
  rw [h, if_neg (Nat.not_lt.mpr hpage), if_pos hv, hasked]

theorem does_take {i : Fin 32} {v : Word} {s : State} (h : MayWrite i s) (hpage : wBits (v ||| b31) 11 8 ≤ 7)
    (hidle : s.meas.snapPending = false) : Does (.take i v) s (fun t =>
      t.meas = { s.meas with snapPending := true, snapValid := false } ∧ t.st = s.st ∧ t.saf = s.saf) := by
  obtain ⟨hmeas, hst, hsaf⟩ : (accessed i s).meas = s.meas ∧ (accessed i s).st = s.st ∧ (accessed i s).saf = s.saf :=
    ⟨modSess_meas .., modSess_st .., modSess_saf ..⟩
  have hw : blockWrite i none .meas 4 (keepFresh 0x8004 (v ||| b31) (accessed i s)) (accessed i s) =
      (.ok, snapAsked (pagesSet i (v ||| b31) (accessed i s))) := by
    rw [keepFresh_of_none snapCtrl_not_w1c]
    exact measWrite_take i hpage (wBit_or_b31 v) (by rw [hmeas, hidle])
  refine writes_of_may h (by decide) rfl hw ?_ ⟨?_, hst, hsaf⟩
  · exact (congrArg Session.outstanding (modSess_sess_self ..)).trans (accessed_outstanding h.1)
  · rw [put_meas, ← hmeas]
    rfl

theorem does_snapshotCapture {s : State} (hawake : awake s = true) (hpending : s.meas.snapPending = true)
    (htick : tickOf s ≤ 330) (hready : snapReady s = true) :
    Does .snapshotCapture s (fun t => t.meas.snapPending = false ∧
      t.meas.snapValid = true ∧ tickOf t = 330 ∧ (∃ n, t.meas.snap = some n ∧ n.beat = s.time.beat ∧
        n.pos = s.meas.pos ∧ n.temps = s.meas.temps ∧ n.iMean = s.meas.iMean ∧ n.q = chargeUc s.meas) ∧
      t.st = s.st ∧ t.saf = s.saf) := by
  have hready' : snapReady (fresh s) = true := hready
  have htick' : tickOf (fresh s) ≤ 330 := htick
  refine does_of_guard rfl (by simp [hawake, hpending, htick', hready']) ?_
  exact ⟨rfl, rfl, Nat.mul_div_cancel 330 (by decide), ⟨_, rfl, rfl, rfl, rfl, rfl, rfl⟩, rfl, rfl⟩

end Sys2Proof.Machine

namespace Sys2Proof

open Sys2Proof.Machine

/-- Settles O29: the evaluation by what it makes of the accord block, a settled phase by `insSettled`, and the snapshot by
its request and its capture. -/
theorem accordAndInsulation : Obligations.AccordAndInsulation := by
  refine ⟨fun s hawake hm hbeat htick => ⟨fun hturn => if_neg (by simp [mayAct, hturn]), fun hturn => ?evaluation⟩,
    fun s hawake => ⟨fun hm => does_insulationCycleStart hawake hm, fun v hother => ?other,
      fun v b hown hlow hhigh => ⟨fun hp => ?first, fun hp => ?second⟩, fun p b hp hlate => ?timeout,
      fun i v h hpage => does_take h hpage, fun hpending => does_snapshotCapture hawake hpending⟩⟩
  case evaluation =>
    obtain ⟨t, hexec, hacc, htick', hst, hsaf⟩ := does_accordEvaluation hawake hm hbeat htick hturn
    obtain ⟨hrOut, hevals, hskipped, hskipRun, hwarn, hfault⟩ := emptied_kept (hadTurn .commit s) (accordJudged s)
    refine ⟨t, hexec, htick', hst, hsaf, ?_, fun hskip => ?_, fun hcounts => ?_⟩
    · rw [hacc]
      exact emptied_window ..
    · rw [hacc, hrOut, hevals, hskipped, hwarn, hfault]
      exact accordJudged_of_skips hskip
    · rw [hacc, hevals, hskipRun, hwarn, hfault]
      exact accordJudged_of_counts hcounts
  case other =>
    obtain ⟨t, hexec, -, hrest⟩ := does_insulationPhaseSettled hawake v
    have hopen : insOpen (fresh s) = _ := insOpen_of_not hother
    have hsettled : insSettled v (fresh s) = (insOpen (fresh s), false) := by
      rw [insSettled, hopen]
    rw [hsettled, hopen] at hrest
    obtain rfl := hrest rfl
    exact ⟨_, hexec, rfl, rfl, rfl, rfl⟩
  case first =>
    obtain ⟨t, hexec, -, hrest⟩ := does_insulationPhaseSettled hawake v
    rw [insSettled_first (s := fresh s) hown hp ⟨hlow, hhigh⟩] at hrest
    obtain rfl := hrest rfl
    exact ⟨_, hexec, rfl, rfl, rfl, rfl, rfl⟩
  case second =>
    obtain ⟨t, hexec, hmeas, -⟩ := does_insulationPhaseSettled hawake v
    have hafter := insSettled_second (s := fresh s) hown hp ⟨hlow, hhigh⟩ v
    rw [← hmeas] at hafter
    exact ⟨t, hexec, hafter⟩
  case timeout =>
    have hgo : (awake (fresh s) && decide (b + 10000 ≤ (fresh s).time.beat)) = true := by
      simp [hawake, hlate]
    change execInsulationPhaseTimeout s = _
    simp only [execInsulationPhaseTimeout, fresh_meas, hp]
    exact if_pos hgo

end Sys2Proof
end

section
/-! SUPPORT AND PROOFS. Banks and the results of other modules (12 R297 to R299, R307 to R310; 05 R131): what a frame's way to
its block leaves alone, the BANK_STATE that leaves and those that wait, and the computation member by member. -/

namespace Sys2Proof.Machine

/-! ### A frame on its way to its block (R297 to R299, R304) -/

/-- What the reception of a frame leaves alone: every block but the fabric's, and of the fabric the banks, the pair and the
own address. -/
structure FabKept (s t : State) : Prop where
  time : t.time = s.time
  cal : t.cal = s.cal
  st : t.st = s.st
  saf : t.saf = s.saf
  meas : t.meas = s.meas
  pw : t.pw = s.pw
  lateRx : t.fab.lateRx = s.fab.lateRx
  members : t.fab.members = s.fab.members
  bankIn : t.fab.bankIn = s.fab.bankIn
  pair : t.fab.pair = s.fab.pair
  addr : t.fab.addr = s.fab.addr
  addrValid : t.fab.addrValid = s.fab.addrValid

theorem FabKept.refl (s : State) : FabKept s s := ⟨rfl, rfl, rfl, rfl, rfl, rfl, rfl, rfl, rfl, rfl, rfl, rfl⟩

theorem FabKept.trans {s t u : State} (h : FabKept s t) (h' : FabKept t u) : FabKept s u :=
  ⟨h'.time.trans h.time, h'.cal.trans h.cal, h'.st.trans h.st, h'.saf.trans h.saf, h'.meas.trans h.meas,
    h'.pw.trans h.pw, h'.lateRx.trans h.lateRx, h'.members.trans h.members, h'.bankIn.trans h.bankIn,
    h'.pair.trans h.pair, h'.addr.trans h.addr, h'.addrValid.trans h.addrValid⟩

theorem FabKept.ite {p : Prop} [Decidable p] {s t u : State} (ht : FabKept s t) (hu : FabKept s u) :
    FabKept s (if p then t else u) := by
  split
  · exact ht
  · exact hu

theorem fabArrive_kept (h : FabHdr) (s : State) : FabKept s (fabArrive h s).2 := by
  unfold fabArrive
  dsimp only
  (repeat' split) <;> exact ⟨rfl, rfl, rfl, rfl, rfl, rfl, rfl, rfl, rfl, rfl, rfl, rfl⟩

theorem fabAccept_kept (fits : Bool) (h : FabHdr) (s : State) : FabKept s (fabAccept fits h s).2 := by
  unfold fabAccept
  (repeat' split) <;> exact ⟨rfl, rfl, rfl, rfl, rfl, rfl, rfl, rfl, rfl, rfl, rfl, rfl⟩

/-- A frame that goes on leaves by its ports, and a bridge that cannot place it says so (R304). -/
def forwarded (h : FabHdr) (t : State) : State :=
  let x := if (onward h t).1 = 0 then t else put (.forward h.kind h.dst (onward h t).1) t
  if (onward h t).2 then modFab (fun x => { x with routeDrop := true }) (setAgain 0xD000 (2 ^ 4) x) else x

theorem forwarded_kept (h : FabHdr) (t : State) : FabKept t (forwarded h t) := by
  unfold forwarded
  dsimp only
  (repeat' split) <;> exact ⟨rfl, rfl, rfl, rfl, rfl, rfl, rfl, rfl, rfl, rfl, rfl, rfl⟩

theorem fabIn_eq (fits : Bool) (h : FabHdr) (s : State) : fabIn fits h s =
    match fabArrive h s with
    | (false, t) => (false, t)
    | (true, t) =>
      if forMe h (forwarded h t) && !(onward h t).2 then fabAccept fits h (forwarded h t) else (false, forwarded h t) := rfl

theorem fabIn_kept (fits : Bool) (h : FabHdr) (s : State) : FabKept s (fabIn fits h s).2 := by
  have harrive := fabArrive_kept h s
  rw [fabIn_eq]
  generalize fabArrive h s = r at harrive
  obtain ⟨on, t⟩ := r
  cases on
  · exact harrive
  · have hforward := harrive.trans (forwarded_kept h t)
    dsimp only
    split
    · exact hforward.trans (fabAccept_kept fits h _)
    · exact hforward

/-- The state in which a frame that reaches its block is taken on. -/
def delivered (h : FabHdr) (s : State) : State := (fabIn true h (fresh s)).2

theorem delivered_kept (h : FabHdr) (s : State) : FabKept s (delivered h s) := by
  have hfresh : FabKept s (fresh s) := ⟨rfl, rfl, rfl, rfl, rfl, rfl, rfl, rfl, rfl, rfl, rfl, rfl⟩
  exact hfresh.trans (fabIn_kept true h _)

theorem onFrame_of_taken {h : FabHdr} {kind len : Nat} {s : State} (ht : Taken h kind len s) (f : State → State) :
    onFrame kind len h f (fresh s) = f (delivered h s) := by
  obtain ⟨hawake, rfl, rfl, hin⟩ := ht
  have hgo : (awake (fresh s) && h.kind == h.kind) = true := by simp [hawake]
  rw [onFrame, if_pos hgo, beq_self_eq_true, delivered]
  generalize fabIn true h (fresh s) = r at hin
  obtain ⟨on, t⟩ := r
  cases hin
  rfl

section
variable {s t : State} (h : FabKept s t)
include h

theorem FabKept.awake : awake t = awake s := by
  simp only [Machine.awake, h.st, h.pw]

theorem FabKept.fabCfg : fabCfg t = fabCfg s := by
  simp only [Machine.fabCfg, h.cal]

theorem FabKept.bankRun : bankRun t = bankRun s := by
  simp only [Machine.bankRun, h.awake, h.fabCfg, h.st]

theorem FabKept.inPair : inPair t = inPair s := by
  simp only [Machine.inPair, h.cal]

theorem FabKept.ownString : ownString t = ownString s := by
  simp only [Machine.ownString, ownAddr, h.fabCfg, h.addr, h.addrValid]

theorem FabKept.insHolder : insHolder t = insHolder s := by
  unfold Machine.insHolder holder higherClaim ownClaim
  rw [h.inPair, h.st, h.cal, h.pair]

theorem FabKept.mainOpen : mainOpen t = mainOpen s := by
  have hclosed : kClosed t = kClosed s := funext fun k => by simp only [kClosed, sides, h.saf]
  simp only [Machine.mainOpen, closedMask, hclosed, kMain, h.saf]

theorem FabKept.closedMembers : closedMembers t = closedMembers s := by
  simp only [Machine.closedMembers, h.members]

theorem FabKept.ownBank : ownBank t = ownBank s := by
  simp only [Machine.ownBank, h.cal]

theorem FabKept.measuresIns : measuresIns t = measuresIns s := by
  have hperiod : insPeriod t = insPeriod s := by simp only [insPeriod, h.cal]
  simp only [Machine.measuresIns, h.insHolder, h.mainOpen, h.closedMembers, h.ownBank, h.ownString, h.time, hperiod]

theorem FabKept.insFrom (src string : Nat) : insFrom src string t = insFrom src string s := by
  simp only [Machine.insFrom, h.insHolder, h.fabCfg, h.mainOpen, h.closedMembers, h.ownBank, h.ownString]

end

/-! ### INS_RESULT (05 R131) -/

/-- The result of another module, which stands for the own one. -/
def resultTaken (src rp rn end32 : Nat) (s : State) : State :=
  insJudge rp rn { s with meas := { s.meas with ins := { s.meas.ins with
    result := some (rp, rn), source := src, endBeat := beatFrom32 s.time.beat end32 } } }

theorem insReceived_of_other {src string : Nat} {s : State} (hm : s.st.mode.fromLoaded = true)
    (hown : measuresIns s = false) (hfrom : insFrom src string s = true) (rp rn end32 : Nat) :
    insReceived src string rp rn end32 s = resultTaken src rp rn end32 s :=
  if_pos (by rw [hm, hown, hfrom]; rfl)

theorem insReceived_of_not {src string : Nat} {s : State} (h : measuresIns s = true ∨ insFrom src string s = false)
    (rp rn end32 : Nat) : insReceived src string rp rn end32 s = s := by
  refine if_neg fun hgo => ?_
  simp only [Bool.and_eq_true, Bool.not_eq_true'] at hgo
  obtain ⟨⟨-, hown⟩, hfrom⟩ := hgo
  obtain h | h := h
  · exact Bool.noConfusion (hown.symm.trans h)
  · exact Bool.noConfusion (h.symm.trans hfrom)

theorem does_insResult_other {h : FabHdr} {s : State} (ht : Taken h 10 12 s) (hm : s.st.mode.fromLoaded = true)
    (hown : measuresIns s = false) (hfrom : insFrom h.src h.string s = true) (rp rn eb : Nat) :
    Does (.insResult h rp rn eb) s (fun t => t.meas.ins.result = some (rp, rn) ∧ t.meas.ins.source = h.src ∧
      t.meas.ins.endBeat = beatFrom32 s.time.beat eb ∧ t.st = s.st ∧ t.saf = s.saf) := by
  have hkept := delivered_kept h s
  have htaken := insReceived_of_other (hkept.st ▸ hm) (hkept.measuresIns.trans hown)
    ((hkept.insFrom ..).trans hfrom) rp rn eb
  refine ⟨_, congrArg Host.Outcome.next ((onFrame_of_taken ht _).trans htaken), rfl, rfl, ?_, hkept.st, hkept.saf⟩
  rw [← hkept.time]
  rfl

theorem does_insResult_not {h : FabHdr} {s : State} (ht : Taken h 10 12 s)
    (hnot : measuresIns s = true ∨ insFrom h.src h.string s = false) (rp rn eb : Nat) :
    Does (.insResult h rp rn eb) s (fun t => t.meas = s.meas ∧ t.st = s.st ∧ t.saf = s.saf) := by
  have hkept := delivered_kept h s
  rw [← hkept.measuresIns, ← hkept.insFrom] at hnot
  have hsame := (onFrame_of_taken ht _).trans (insReceived_of_not hnot rp rn eb)
  exact ⟨_, congrArg Host.Outcome.next hsame, hkept.meas, hkept.st, hkept.saf⟩

/-! ### BANK_STATE (R306, R307) -/

/-- A frame of its STRING and beat waits, of a pair the higher CLAIM; nothing else changes. -/
theorem keepBank_eq (f : BankFrame) (s : State) :
    ∃ l, keepBank f s = modFab (fun x => { x with bankIn := l }) s ∧
      ∃ x ∈ l, x.string = f.string ∧ x.beat = f.beat ∧ f.claim ≤ x.claim := by
  unfold keepBank
  dsimp only
  split
  next hany =>
    obtain ⟨x, hx, hsame⟩ := List.any_eq_true.mp hany
    simp only [Bool.and_eq_true, beq_iff_eq, decide_eq_true_eq] at hsame
    obtain ⟨⟨hstring, hbeat⟩, hclaim⟩ := hsame
    exact ⟨s.fab.bankIn, rfl, x, hx, hstring, hbeat, hclaim⟩
  · exact ⟨_, rfl, f, List.mem_append_right _ (List.mem_singleton.mpr rfl), rfl, rfl, le_rfl⟩

/-- A payload frame that leaves changes the output list and the count of its KIND. -/
theorem sendFab_kept (mac : Option Nat) (kind dst beat : Nat) (stamp : Option Nat) (ports : Nat) (payload : List Byte)
    (s : State) : (sendFab mac kind dst beat stamp ports payload s).time = s.time ∧
      (sendFab mac kind dst beat stamp ports payload s).fab =
        { s.fab with seq := updNat s.fab.seq kind (fun x => (x + 1) % 2 ^ 32) } := by
  unfold sendFab emitFab
  split <;> exact ⟨rfl, rfl⟩

/-- A payload frame that leaves from an empty output list. -/
theorem sentFab_sendFab {s : State} (hsent : s.sent = []) (kind dst ports : Nat) (payload : List Byte) :
    SentFab kind dst ports payload s (sendFab none kind dst s.time.beat none ports payload s) := by
  unfold sendFab emitFab
  split
  next hsilent => exact ⟨hsent.trans (if_pos hsilent).symm, rfl, rfl, rfl, rfl⟩
  next hsends =>
    refine ⟨Eq.trans ?_ (if_neg hsends).symm, rfl, rfl, rfl, rfl⟩
    exact (congrArg (· ++ _) hsent).trans (List.nil_append _)

/-- The block x is ready to send what s would: nothing has left yet, and what Table 12-2 puts in a header is as in s. -/
structure SendReady (s x : State) : Prop where
  sent : x.sent = []
  beat : x.time.beat = s.time.beat
  cal : x.cal = s.cal
  st : x.st = s.st
  saf : x.saf = s.saf
  lim : x.lim = s.lim
  silenced : x.fab.silenced = s.fab.silenced
  seq : x.fab.seq = s.fab.seq
  addr : x.fab.addr = s.fab.addr
  addrValid : x.fab.addrValid = s.fab.addrValid

theorem SendReady.sentFab {s x : State} (h : SendReady s x) (kind dst : Nat) (payload : List Byte) :
    SentFab kind dst (outPorts kind dst s) payload s
      (sendFab none kind dst x.time.beat none (outPorts kind dst x) payload x) := by
  have hsent := sentFab_sendFab h.sent kind dst (outPorts kind dst x) payload
  have hcfg : fabCfg x = fabCfg s := by simp only [fabCfg, h.cal]
  have hports : outPorts kind dst x = outPorts kind dst s := by simp only [outPorts, hcfg]
  have haddr : ownAddr x = ownAddr s := by simp only [ownAddr, h.addr, h.addrValid]
  have hstring : ownString x = ownString s := by simp only [ownString, hcfg, haddr]
  simpa only [SentFab, hcfg, hports, haddr, hstring, h.silenced, h.seq, h.beat, h.st, h.saf, h.lim] using hsent

/-- The BANK_STATE of this beat, which waits with those received (R307). -/
def ownFrame (s : State) : BankFrame :=
  { string := ownString s, claim := ownClaim s, beat := s.time.beat, body := bankBody s }

/-- The block after its BANK_STATE has left. -/
def bankStateSent (s : State) : State :=
  let x := keepBank (ownFrame s) (actAt .bankState 360 (fresh s))
  tookFree 1 (sendFab none 5 0xFFFF x.time.beat none (outPorts 5 0xFFFF x) (bankBytes (bankBody s)) x)

theorem execBankState_none (s : State) : execBankState none s =
    if bankRun (fresh s) && mayAct .bankState 360 (fresh s) then .next (bankStateSent s) else .next (fresh s) := rfl

theorem does_bankState_send {s : State} (hrun : bankRun s = true) (htick : tickOf s ≤ 360)
    (hturn : hadTurn .bankState s = false) : Does (.bankState none) s (fun t =>
      tickOf t = 360 ∧ hadTurn .bankState t = true ∧
      SentFab 5 0xFFFF (outPorts 5 0xFFFF s) (bankBytes (bankBody s)) s t ∧
      (∃ f ∈ t.fab.bankIn, f.string = ownString s ∧ f.beat = s.time.beat ∧ ownClaim s ≤ f.claim) ∧
      t.fab.members = s.fab.members ∧ t.fab.bankCalc = s.fab.bankCalc) := by
  have hrun' : bankRun (fresh s) = true := hrun
  refine does_of_guard (execBankState_none s) (by simp [hrun', mayAct_iff, htick, hturn]) ?_
  obtain ⟨l, hkeep, hwaits⟩ := keepBank_eq (ownFrame s) (actAt .bankState 360 (fresh s))
  have hready : SendReady s (keepBank (ownFrame s) (actAt .bankState 360 (fresh s))) := by
    rw [hkeep]
    exact ⟨rfl, rfl, rfl, rfl, rfl, rfl, rfl, rfl, rfl, rfl⟩
  have htime := congrArg State.time hkeep
  have hfab := congrArg State.fab hkeep
  rw [bankStateSent]
  generalize keepBank (ownFrame s) (actAt .bankState 360 (fresh s)) = x at hready htime hfab
  obtain ⟨htime', hfab'⟩ := sendFab_kept none 5 0xFFFF x.time.beat none (outPorts 5 0xFFFF x) (bankBytes (bankBody s)) x
  refine ⟨?_, ?_, hready.sentFab 5 0xFFFF (bankBytes (bankBody s)), ?_⟩
  · rw [tickOf, tookFree_time, htime', htime]
    exact tickOf_actAt .bankState 360 (fresh s)
  · rw [hadTurn, tookFree_time, htime', htime]
    exact (hadTurn_actAt .bankState .bankState 360 (fresh s)).trans (by simp)
  · rw [tookFree_fab, hfab', hfab]
    exact ⟨hwaits, rfl, rfl⟩

/-- The frame that a BANK_STATE received brings for its computation. -/
def bankFrame (h : FabHdr) (b : BankBody) (s : State) : BankFrame :=
  { string := h.string, claim := h.claim, beat := beatFrom32 s.time.beat h.beat, body := b }

theorem takeBank_of_bank {h : FabHdr} {tick : Nat} {b : BankBody} {s : State} (hrun : bankRun s = true)
    (hbank : b.bank = (fabCfg s).bank) : takeBank h tick b s =
      if beatFrom32 s.time.beat h.beat = s.time.beat ∨
          (beatFrom32 s.time.beat h.beat + 1 = s.time.beat ∧ tick < 340) then
        keepBank (bankFrame h b s) s
      else modFab (fun x => { x with lateRx := true }) (setAgain 0xD000 (2 ^ 5) s) :=
  if_pos (by simp [hrun, hbank])

theorem does_bankState_received {h : FabHdr} {tick : Nat} {b : BankBody} {s : State} (ht : Taken h 5 56 s)
    (hrun : bankRun s = true) (hbank : b.bank = (fabCfg s).bank) :
    let fb := beatFrom32 s.time.beat h.beat
    Does (.bankState (some (h, tick, b))) s (fun t => t.st = s.st ∧ t.saf = s.saf ∧ t.fab.members = s.fab.members ∧
      (fb = s.time.beat ∨ (fb + 1 = s.time.beat ∧ tick < 340) → t.fab.lateRx = s.fab.lateRx ∧
        ∃ f ∈ t.fab.bankIn, f.string = h.string ∧ f.beat = fb ∧ h.claim ≤ f.claim) ∧
      (fb ≠ s.time.beat → (fb + 1 ≠ s.time.beat ∨ 340 ≤ tick) →
        t.fab.lateRx = true ∧ t.fab.bankIn = s.fab.bankIn)) := by
  intro fb
  have hkept := delivered_kept h s
  have htaken := takeBank_of_bank (h := h) (tick := tick) (hkept.bankRun.trans hrun) (hkept.fabCfg ▸ hbank)
  rw [hkept.time] at htaken
  have hexec : exec (.bankState (some (h, tick, b))) s = .next (takeBank h tick b (delivered h s)) :=
    congrArg Host.Outcome.next (onFrame_of_taken ht _)
  rw [htaken] at hexec
  by_cases hintime : fb = s.time.beat ∨ (fb + 1 = s.time.beat ∧ tick < 340)
  · obtain ⟨l, hkeep, x, hx, hstring, hbeat, hclaim⟩ := keepBank_eq (bankFrame h b (delivered h s)) (delivered h s)
    rw [if_pos hintime, hkeep] at hexec
    refine ⟨_, hexec, hkept.st, hkept.saf, hkept.members, fun _ => ⟨hkept.lateRx, x, hx, hstring, ?_, hclaim⟩,
      fun hne hlate => ?_⟩
    · exact hbeat.trans (congrArg (fun y : Time => beatFrom32 y.beat h.beat) hkept.time)
    · omega
  · rw [if_neg hintime] at hexec
    exact ⟨_, hexec, hkept.st, hkept.saf, hkept.members, fun hyes => absurd hyes hintime,
      fun _ _ => ⟨rfl, hkept.bankIn⟩⟩

/-! ### Members, one by one (R308) -/

theorem memberStep_string (frames : List BankFrame) (m : Member) : (memberStep frames m).string = m.string := by
  unfold memberStep
  split <;> rfl

theorem memberStep_share (frames : List BankFrame) (m : Member) :
    (memberStep frames m).included = m.included ∧ (memberStep frames m).share = m.share := by
  unfold memberStep
  split <;> exact ⟨rfl, rfl⟩

theorem memberStep_miss (frames : List BankFrame) (m : Member) :
    (memberStep frames m).miss = 0 ∨ (memberStep frames m).miss = min 3 (m.miss + 1) := by
  unfold memberStep
  split
  · exact .inl rfl
  · exact .inr rfl

/-- Exclusion leaves the STRING, the frame and the miss count of a member. -/
theorem excludeStep_kept (m : Member) : (excludeStep m).string = m.string ∧ (excludeStep m).body = m.body ∧
    (excludeStep m).miss = m.miss := by
  unfold excludeStep
  split <;> exact ⟨rfl, rfl, rfl⟩

/-- Who is included after step 1 was included before, is CONNECTED and has not missed three beats, and keeps its share. -/
theorem excludeStep_included {m : Member} (h : (excludeStep m).included = true) :
    m.included = true ∧ m.body.connected = true ∧ m.miss ≠ 3 ∧ (excludeStep m).share = m.share := by
  unfold excludeStep at h ⊢
  split at h
  · exact Bool.noConfusion h
  next hstays =>
    rw [if_neg hstays]
    simp only [h, Bool.true_and, Bool.or_eq_true, Bool.not_eq_true', beq_iff_eq, not_or, Bool.not_eq_false] at hstays
    exact ⟨h, hstays.1, hstays.2, rfl⟩

/-- What an epoch's evaluation may make of a member: it keeps its STRING, its frame and its miss count, and becomes included
only where it is CONNECTED and missed no beat (R308 steps 2 and 3). -/
structure Evaluated (m n : Member) : Prop where
  string : n.string = m.string
  body : n.body = m.body
  miss : n.miss = m.miss
  included : n.included = true → m.included = true ∨ (m.body.connected = true ∧ m.miss = 0)

theorem Evaluated.refl (m : Member) : Evaluated m m := ⟨rfl, rfl, rfl, .inl⟩

theorem admitStep_evaluated (got : Nat → Bool) (vb : Rat) (m : Member) : Evaluated m (admitStep got vb m) := by
  unfold admitStep
  split
  next hadmit =>
    simp only [Member.candidate, Bool.and_eq_true, beq_iff_eq] at hadmit
    obtain ⟨⟨⟨-, hconnected⟩, hmiss⟩, -⟩ := hadmit
    exact ⟨rfl, rfl, rfl, fun _ => .inr ⟨hconnected, hmiss⟩⟩
  · exact .refl m

theorem shareStep_kept (sum : Int) (n : Nat) (m : Member) : (shareStep sum n m).string = m.string ∧
    (shareStep sum n m).body = m.body ∧ (shareStep sum n m).miss = m.miss ∧
    (shareStep sum n m).included = m.included := by
  unfold shareStep
  (repeat' split) <;> exact ⟨rfl, rfl, rfl, rfl⟩

/-- A member after the evaluation of an epoch. -/
def evaluated (got : Nat → Bool) (vb : Rat) (sum : Int) (n : Nat) (m : Member) : Member :=
  shareStep sum n (admitStep got vb m)

theorem evaluated_evaluated (got : Nat → Bool) (vb : Rat) (sum : Int) (n : Nat) (m : Member) :
    Evaluated m (evaluated got vb sum n m) := by
  obtain ⟨hstring, hbody, hmiss, hinc⟩ := admitStep_evaluated got vb m
  obtain ⟨hstring', hbody', hmiss', hinc'⟩ := shareStep_kept sum n (admitStep got vb m)
  exact ⟨hstring'.trans hstring, hbody'.trans hbody, hmiss'.trans hmiss, fun h => hinc (hinc'.symm.trans h)⟩

/-! ### The computation (R308 to R310) -/

/-- The frames that a computation takes: those of the beat before. -/
def bankFrames (s : State) : List BankFrame := s.fab.bankIn.filter (fun f => f.beat + 1 == s.time.beat)

/-- A STRING whose first frame has come. -/
def newMember (f : BankFrame) : Member :=
  { string := f.string, body := f.body, claim := f.claim, beat := f.beat
    miss := 0, included := false, mute := false, share := 0 }

/-- The members with the frames of the beat before, those new among them. -/
def bankHeard (s : State) : List Member :=
  let known := s.fab.members.map (memberStep (bankFrames s))
  ((bankFrames s).filter (fun f => known.all (fun m => m.string != f.string))).foldl
    (fun l f => insertMember (newMember f) l) known

/-- The members after step 1 of R308. -/
def bankExcluded (s : State) : List Member := (bankHeard s).map excludeStep

/-- The block with the frames taken, and LEFT where step 1 excluded a member. -/
def bankTaken (s : State) : State :=
  let gone := (bankHeard s).any (fun m => m.included && !(excludeStep m).included)
  modFab (fun x => { x with left := x.left || gone, bankIn := x.bankIn.filter (fun f => decide (s.time.beat ≤ f.beat)) })
    (setAgainIf gone 0xD0C0 (2 ^ 5) s)

/-- The members and the block after steps 2 and 3, which an epoch's first beat makes. -/
def bankEpochStep (s : State) : List Member × State :=
  if s.time.beat % 100 = 1 then
    epochEval (fun st => (bankFrames s).any (fun f => f.string == st)) (bankExcluded s) (bankTaken s)
  else (bankExcluded s, bankTaken s)

/-- A STRING is included after step 1. -/
def afterExclusion (s : State) (st : Nat) : Bool := (bankExcluded s).any (fun m => m.string == st && m.included)

theorem bankCompute_eq (s : State) : bankCompute s =
    modFab (fun x => { x with members := (bankEpochStep s).1
                              bankCalc := Vector.ofFn (fun i : Fin 8 =>
                                bankLimit (afterExclusion s) (bankEpochStep s).1 i.val) }) (bankEpochStep s).2 := rfl

theorem mem_insertMember {x m : Member} {l : List Member} : x ∈ insertMember m l ↔ x = m ∨ x ∈ l := by
  induction l with
  | nil => simp [insertMember]
  | cons y r ih =>
    rw [insertMember]
    split
    · exact List.mem_cons
    · rw [List.mem_cons, ih, List.mem_cons]
      exact or_left_comm

theorem mem_foldl_insertMember {x : Member} (news : List BankFrame) (l : List Member) :
    x ∈ news.foldl (fun l f => insertMember (newMember f) l) l ↔ x ∈ l ∨ ∃ f ∈ news, x = newMember f := by
  induction news generalizing l with
  | nil => simp
  | cons f r ih =>
    rw [List.foldl_cons, ih, mem_insertMember, List.exists_mem_cons_iff]
    tauto

/-- Every member of the beat before is heard of, or has missed the beat. -/
theorem mem_bankHeard_of_member {m : Member} {s : State} (h : m ∈ s.fab.members) :
    memberStep (bankFrames s) m ∈ bankHeard s :=
  (mem_foldl_insertMember _ _).mpr (.inl (List.mem_map_of_mem h))

/-- Who is heard of was a member, or is new and not included. -/
theorem mem_bankHeard_cases {x : Member} {s : State} (h : x ∈ bankHeard s) :
    (∃ m ∈ s.fab.members, memberStep (bankFrames s) m = x) ∨ x.included = false := by
  obtain hknown | ⟨f, -, rfl⟩ := (mem_foldl_insertMember _ _).mp h
  · exact .inl (List.mem_map.mp hknown)
  · exact .inr rfl

/-- Who is included after step 1 was a member before. -/
theorem member_of_included {x : Member} {s : State} (h : x ∈ bankExcluded s) (hinc : x.included = true) :
    ∃ m ∈ s.fab.members, excludeStep (memberStep (bankFrames s) m) = x := by
  obtain ⟨y, hy, rfl⟩ := List.mem_map.mp h
  obtain ⟨hyinc, -⟩ := excludeStep_included hinc
  obtain ⟨m, hm, rfl⟩ | hnot := mem_bankHeard_cases hy
  · exact ⟨m, hm, rfl⟩
  · exact Bool.noConfusion (hnot.symm.trans hyinc)

theorem afterExclusion_eq (s : State) (st : Nat) : afterExclusion s st =
    s.fab.members.any (fun m => m.string == st && (excludeStep (memberStep (bankFrames s) m)).included) := by
  have hstring : ∀ m, (excludeStep (memberStep (bankFrames s) m)).string = m.string := fun m =>
    (excludeStep_kept _).1.trans (memberStep_string ..)
  rw [afterExclusion, Bool.eq_iff_iff, List.any_eq_true, List.any_eq_true]
  constructor
  · rintro ⟨x, hx, hst⟩
    obtain ⟨hst, hinc⟩ := Bool.and_eq_true_iff.mp hst
    obtain ⟨m, hm, rfl⟩ := member_of_included hx hinc
    rw [hstring] at hst
    exact ⟨m, hm, Bool.and_eq_true_iff.mpr ⟨hst, hinc⟩⟩
  · rintro ⟨m, hm, hst⟩
    exact ⟨_, List.mem_map_of_mem (mem_bankHeard_of_member hm), by rwa [hstring]⟩

/-- The members after a computation are those after step 1, each as the epoch's evaluation leaves it. -/
theorem bankEpochStep_members (s : State) : ∃ f : Member → Member, (bankEpochStep s).1 = (bankExcluded s).map f ∧
    (∀ m, Evaluated m (f m)) ∧ (s.time.beat % 100 ≠ 1 → f = id) := by
  unfold bankEpochStep
  split
  next hepoch => exact ⟨evaluated _ _ _ _, List.map_map .., evaluated_evaluated _ _ _ _, fun h => absurd hepoch h⟩
  · exact ⟨id, (List.map_id _).symm, Evaluated.refl, fun _ => rfl⟩

theorem bankEpochStep_kept (s : State) : (bankEpochStep s).2.time = s.time ∧ (bankEpochStep s).2.st = s.st ∧
    (bankEpochStep s).2.saf = s.saf ∧ (bankEpochStep s).2.lim = s.lim := by
  unfold bankEpochStep
  split <;> simp [epochEval, bankTaken]

/-- What a computation leaves of the members of the beat before: their miss counts go on, and who missed three beats is not
included (R308). -/
theorem bankEpochStep_of_member {m : Member} {s : State} (hm : m ∈ s.fab.members) :
    ∃ n ∈ (bankEpochStep s).1, n.string = m.string ∧ (n.miss = 0 ∨ n.miss = min 3 (m.miss + 1)) ∧
      (n.miss = 3 → n.included = false) := by
  obtain ⟨f, hmembers, hf, -⟩ := bankEpochStep_members s
  obtain ⟨hstring, -, hmiss, hinc⟩ := hf (excludeStep (memberStep (bankFrames s) m))
  obtain ⟨hstring1, -, hmiss1⟩ := excludeStep_kept (memberStep (bankFrames s) m)
  refine ⟨_, hmembers ▸ List.mem_map_of_mem (List.mem_map_of_mem (mem_bankHeard_of_member hm)),
    hstring.trans (hstring1.trans (memberStep_string ..)), ?_, fun h3 => Bool.eq_false_iff.mpr fun hn => ?_⟩
  · rw [hmiss, hmiss1]
    exact memberStep_miss ..
  · rw [hmiss] at h3
    obtain hin | ⟨-, h0⟩ := hinc hn
    · obtain ⟨-, -, hne, -⟩ := excludeStep_included hin
      exact hne (hmiss1.symm.trans h3)
    · omega

/-- Who is included after a computation is CONNECTED and has missed fewer than three beats (R308). -/
theorem bankEpochStep_included {n : Member} {s : State} (hn : n ∈ (bankEpochStep s).1) (hinc : n.included = true) :
    n.body.connected = true ∧ n.miss < 3 := by
  obtain ⟨f, hmembers, hf, -⟩ := bankEpochStep_members s
  rw [hmembers] at hn
  obtain ⟨x, hx, rfl⟩ := List.mem_map.mp hn
  obtain ⟨-, hbody, hmiss, hin⟩ := hf x
  rw [hbody, hmiss]
  obtain hin | ⟨hconnected, h0⟩ := hin hinc
  · obtain ⟨m, -, rfl⟩ := member_of_included hx hin
    obtain ⟨-, hconnected, hne, -⟩ := excludeStep_included hin
    obtain ⟨-, hbody1, hmiss1⟩ := excludeStep_kept (memberStep (bankFrames s) m)
    rw [hbody1, hmiss1]
    have hcount := memberStep_miss (bankFrames s) m
    exact ⟨hconnected, by omega⟩
  · exact ⟨hconnected, by omega⟩

/-- Outside an epoch's first beat nobody joins, and shares stay (R308). -/
theorem bankEpochStep_between {n : Member} {s : State} (hbeat : s.time.beat % 100 ≠ 1) (hn : n ∈ (bankEpochStep s).1)
    (hinc : n.included = true) :
    ∃ m ∈ s.fab.members, m.string = n.string ∧ m.included = true ∧ m.share = n.share := by
  obtain ⟨f, hmembers, -, hid⟩ := bankEpochStep_members s
  rw [hmembers, hid hbeat, List.map_id] at hn
  obtain ⟨m, hm, rfl⟩ := member_of_included hn hinc
  obtain ⟨hwas, -, -, hshare⟩ := excludeStep_included hinc
  obtain ⟨hinc0, hshare0⟩ := memberStep_share (bankFrames s) m
  exact ⟨m, hm, ((excludeStep_kept _).1.trans (memberStep_string ..)).symm, hinc0.symm.trans hwas,
    (hshare.trans hshare0).symm⟩

theorem getNat_ofFn {α : Type} [Inhabited α] {n i : Nat} (h : i < n) (f : Fin n → α) :
    getNat (Vector.ofFn f) i = f ⟨i, h⟩ := by
  rw [getNat_of_lt _ h, Vector.getElem_ofFn]

theorem exec_bankComputation {s : State} (hrun : bankRun s = true) (htick : tickOf s ≤ 360)
    (hturn : hadTurn .bankCalc s = false) :
    exec .bankComputation s = .next (bankCompute (actAt .bankCalc 360 (fresh s))) := by
  have hrun' : bankRun (fresh s) = true := hrun
  exact if_pos (by simp [hrun', mayAct_iff, htick, hturn])

end Sys2Proof.Machine

namespace Sys2Proof

open Sys2Proof.Machine

/-- Settles O45: the BANK_STATE that leaves and the one that comes, the computation member by member, and INS_RESULT. -/
theorem banks : Obligations.Banks := by
  refine ⟨fun s hrun htick => ⟨does_bankState_send hrun htick, fun hturn => if_neg (by simp [mayAct, hturn]),
    fun hturn => if_neg (by simp [mayAct, hturn]), fun hturn => ?computation⟩,
    fun h tick b s ht => does_bankState_received ht,
    fun h rp rn eb s ht hm => ⟨fun hown hfrom => does_insResult_other ht hm hown hfrom rp rn eb,
      fun hnot => does_insResult_not ht hnot rp rn eb⟩⟩
  case computation =>
    have hexec := exec_bankComputation hrun htick hturn
    rw [bankCompute_eq] at hexec
    obtain ⟨htime, hst, hsaf, hlim⟩ := bankEpochStep_kept (actAt .bankCalc 360 (fresh s))
    refine ⟨_, hexec, ?_, hst, hsaf, hlim, fun i hi => ?_, fun m hm => bankEpochStep_of_member hm,
      fun n hn => bankEpochStep_included hn,
      fun hbeat n hn => bankEpochStep_between (s := actAt .bankCalc 360 (fresh s)) hbeat hn⟩
    · exact (congrArg (fun x : Time => x.ns / 2500) htime).trans (tickOf_actAt ..)
    · exact (getNat_ofFn hi _).trans
        (congrArg (fun g => bankLimit g _ i) (funext (afterExclusion_eq (actAt .bankCalc 360 (fresh s)))))

end Sys2Proof
end

section
/-! SUPPORT AND PROOFS. GO in SEED_CTRL: its refusals in order, and the seeds that an accepted one stores (07 R194,
Table 07-11). -/

namespace Sys2Proof.Machine

/-! ### Seeds stored -/

/-- The seed that the staged values make for a position. -/
def stagedSeed (e : Est) (p : Nat) : Seed :=
  { pos := p, soc := e.seedSoc, socU := e.seedSocU, q := e.seedQ, qU := e.seedQU, hours := wBits e.seedAge 31 16
    suspect := wBit e.seedAge 0 }

theorem mem_putSeed (p : Nat) (e : Est) (x : Seed) :
    x ∈ (putSeed p e).seeds ↔ x ∈ e.seeds ∧ x.pos ≠ p ∨ x = stagedSeed e p := by
  simp [putSeed, stagedSeed]

/-- The staged values stored for each position of a list. -/
def putSeeds (l : List Nat) (e : Est) : Est := l.foldl (fun e p => putSeed p e) e

theorem putSeeds_cons (p : Nat) (l : List Nat) (e : Est) : putSeeds (p :: l) e = putSeeds l (putSeed p e) := rfl

theorem putSeeds_filters (l : List Nat) (e : Est) : (putSeeds l e).filters = e.filters := by
  induction l generalizing e with
  | nil => rfl
  | cons p l ih => exact ih (putSeed p e)

theorem mem_putSeeds_of_not_mem {l : List Nat} {e : Est} {x : Seed} (hx : x.pos ∉ l) :
    x ∈ (putSeeds l e).seeds ↔ x ∈ e.seeds := by
  induction l generalizing e with
  | nil => rfl
  | cons p l ih =>
    obtain ⟨hp, hl⟩ := not_or.mp (mt List.mem_cons.mpr hx)
    have hnew : x ≠ stagedSeed e p := fun h => hp (congrArg Seed.pos h)
    rw [putSeeds_cons, ih hl, mem_putSeed]
    simp only [ne_eq, hp, not_false_eq_true, and_true, hnew, or_false]

/-- Storing a seed leaves the staged values, so a position that the list names again gets the same seed. -/
theorem stagedSeed_mem_putSeeds {l : List Nat} {e : Est} {p : Nat} (hp : p ∈ l) :
    stagedSeed e p ∈ (putSeeds l e).seeds := by
  induction l generalizing e with
  | nil => cases hp
  | cons q l ih =>
    rw [putSeeds_cons]
    by_cases hl : p ∈ l
    · exact ih (e := putSeed q e) hl
    · obtain rfl : p = q := (List.mem_cons.mp hp).resolve_right hl
      rw [mem_putSeeds_of_not_mem hl, mem_putSeed]
      exact .inr rfl

/-! ### GO (R194, Table 07-11) -/

/-- The positions that a word of SEED_CTRL names: with ALL every mapped one. -/
def seedNamed (v : Word) (s : State) : List Nat :=
  if wBit v 30 then List.range s.meas.pos.length else [wBits v 9 0]

/-- The estimation block that GO leaves. -/
def seedGone (v : Word) (s : State) : Est :=
  if s.st.mode ≠ .loaded then { s.est with seedResult := 2 }
  else if ∃ p ∈ seedNamed v s, s.meas.pos.length ≤ p then { s.est with seedResult := 3 }
  else if ∃ p ∈ seedNamed v s, seedOk s p = false then { s.est with seedResult := 1 }
  else { putSeeds (seedNamed v s) s.est with seedResult := 0 }

/-- A state whose estimation block is e. -/
def withEst (s : State) (e : Est) : State := { s with est := e }

theorem seedCtrlWrite_go {v : Word} {s : State} (hv : wBit v 31 = true) :
    seedCtrlWrite v s = withEst s (seedGone v s) := by
  have hpos : (seedNamed v s).any (fun p => decide (s.meas.pos.length ≤ p)) = true ↔
      ∃ p ∈ seedNamed v s, s.meas.pos.length ≤ p := by simp
  have hrange : (!(seedNamed v s).all (seedOk s)) = true ↔ ∃ p ∈ seedNamed v s, seedOk s p = false := by simp
  refine (if_neg (by rw [hv]; decide)).trans ?_
  refine (if_congr bne_iff_ne rfl (if_congr hpos rfl (if_congr hrange rfl rfl))).trans ?_
  simp only [seedGone, apply_ite (withEst s)]
  rfl

theorem seedCtrl_not_w1c : w1cTable.findIdx? (fun r => r.1 == 0x9A00) = none := rfl

/-- GO changes the estimation block alone, and what it leaves there is judged on the state before the command. -/
theorem does_seedCtrlGo {i : Fin 32} {v : Word} {s : State} (h : MayWrite i s) :
    Does (.seedCtrlGo i v) s (fun t => t.est = seedGone (v ||| b31) s ∧ t.st = s.st) := by
  have hw : blockWrite i none .est 0xA00 (keepFresh 0x9A00 (v ||| b31) (accessed i s)) (accessed i s) =
      (.ok, withEst (accessed i s) (seedGone (v ||| b31) s)) := by
    rw [keepFresh_of_none seedCtrl_not_w1c]
    exact congrArg (Prod.mk RspCode.ok) (seedCtrlWrite_go (wBit_or_b31 v))
  exact writes_of_may h (by decide) rfl hw (accessed_outstanding h.1) ⟨rfl, accessed_st i s⟩

theorem does_seedCtrlGo_of_eq {i : Fin 32} {v : Word} {s : State} (h : MayWrite i s) {e : Est}
    (he : seedGone (v ||| b31) s = e) : Does (.seedCtrlGo i v) s (fun t => t.est = e ∧ t.st = s.st) :=
  he ▸ does_seedCtrlGo h

end Sys2Proof.Machine

namespace Sys2Proof

open Sys2Proof.Machine

/-- Settles O33: the refusals of GO in the order of `seedGone`, and the seeds stored position by position. -/
theorem seedResults : Obligations.SeedResults := by
  intro i v s h n l
  have hnone : (∀ p ∈ l, p < n) → ¬ ∃ p ∈ l, n ≤ p := fun hl ⟨p, hp, hle⟩ => absurd (hl p hp) (Nat.not_lt.mpr hle)
  refine ⟨fun hmode => ?state, fun hmode hpos => ?pos, fun hmode hmapped hrange => ?range, fun hmode hok => ?stored⟩
  case state => exact does_seedCtrlGo_of_eq h (if_pos hmode)
  case pos => exact does_seedCtrlGo_of_eq h ((if_neg (not_not.mpr hmode)).trans (if_pos hpos))
  case range =>
    exact does_seedCtrlGo_of_eq h
      ((if_neg (not_not.mpr hmode)).trans ((if_neg (hnone hmapped)).trans (if_pos hrange)))
  case stored =>
    have hrange : ¬ ∃ p ∈ l, seedOk s p = false := fun ⟨p, hp, hbad⟩ => Bool.noConfusion (hbad.symm.trans (hok p hp).2)
    have hgone : seedGone (v ||| b31) s = { putSeeds l s.est with seedResult := 0 } :=
      (if_neg (not_not.mpr hmode)).trans ((if_neg (hnone fun p hp => (hok p hp).1)).trans (if_neg hrange))
    obtain ⟨t, hexec, hest, hst⟩ := does_seedCtrlGo_of_eq h hgone
    refine ⟨t, hexec, by rw [hest], hst, fun p hp => ?_, fun x hx => ?_, ?_⟩
    · exact ⟨stagedSeed s.est p, hest ▸ stagedSeed_mem_putSeeds hp, rfl, rfl, rfl, rfl, rfl⟩
    · exact hest ▸ mem_putSeeds_of_not_mem hx
    · exact hest ▸ putSeeds_filters l s.est

end Sys2Proof
end

section
/-! SUPPORT AND PROOFS. The published limits (09 R222, R223, R226, R227; 10 R245). -/

namespace Sys2Proof.Machine

/-! ### One limit (R223) -/

/-- The envelope of a direction in channel A's working copy. -/
def dirEnv (s : State) (dir : Nat) : Nat :=
  match s.saf.copyA with
  | some b => if dir = 1 then b.iChgEnv else b.iDisEnv
  | none => 0

/-- A winner of a direction cut to its envelope and scaled by the factors, before the horizons are ordered. -/
def scaledWinner (s : State) (dir fPlate : Nat) (cold : Bool) (w : Nat) : Nat :=
  let l := min w (dirEnv s dir) * s.lim.fTherm / 1000000
  if dir = 1 then (if cold then 0 else l * fPlate / 1000000) else l

/-- A scale in ppm that is at most one whole lowers what it scales. -/
theorem mul_ppm_le (n : Nat) {f : Nat} (hf : f ≤ 1000000) : n * f / 1000000 ≤ n :=
  Nat.div_le_of_le_mul (by rw [Nat.mul_comm 1000000 n]; exact Nat.mul_le_mul_left n hf)

theorem plateFactor_le (l : Nat) : plateFactor l ≤ 1000000 := by
  unfold plateFactor
  split <;> decide

theorem scaledWinner_le_dirEnv {s : State} {fPlate : Nat} (htherm : s.lim.fTherm ≤ 1000000) (hplate : fPlate ≤ 1000000)
    (dir : Nat) (cold : Bool) (w : Nat) : scaledWinner s dir fPlate cold w ≤ dirEnv s dir := by
  have hcut : min w (dirEnv s dir) * s.lim.fTherm / 1000000 ≤ dirEnv s dir :=
    (mul_ppm_le _ htherm).trans (Nat.min_le_right ..)
  unfold scaledWinner
  dsimp only
  split
  · split
    · exact Nat.zero_le _
    · exact (mul_ppm_le _ hplate).trans hcut
  · exact hcut

theorem scaledWinner_cold (s : State) (fPlate w : Nat) : scaledWinner s 1 fPlate true w = 0 := rfl

/-! ### The ordering step (R223) -/

/-- A limit after the ordering step: none above that of the next shorter horizon. -/
def ordered (l : Nat → Nat) : Nat → Nat
  | 0 => l 0
  | h + 1 => min (l (h + 1)) (ordered l h)

theorem ordered_succ_le (l : Nat → Nat) (h : Nat) : ordered l (h + 1) ≤ ordered l h := Nat.min_le_right ..

theorem ordered_le (l : Nat → Nat) : ∀ h, ordered l h ≤ l h
  | 0 => le_refl _
  | _ + 1 => Nat.min_le_left ..

theorem direction_limits (s : State) (dir fPlate : Nat) (cold : Bool) : (direction s dir s.lim.fTherm fPlate cold).1 =
    (List.range 4).map (ordered fun h => scaledWinner s dir fPlate cold (horizon s dir h)) := rfl

/-! ### The eight limits -/

/-- Limits are formed: the module is in RUN and the loops do not hold (01 R24, Table 02-3). -/
def publishes (s : State) : Bool := s.st.mode == .run && !s.time.loopHold

/-- The limit of a direction and horizon that R223 forms in RUN. -/
def formedLimit (s : State) (dir h : Nat) : Nat :=
  ordered (fun h => scaledWinner (selection s) dir (plateFactor (plateMax s)) (coldCharge s)
    (horizon (selection s) dir h)) h

/-- The formed limits as the registers hold them: discharge first, each from the shortest horizon on. -/
def formedLimits (s : State) : List Nat := (List.range 4).map (formedLimit s 0) ++ (List.range 4).map (formedLimit s 1)

theorem publishLimits_lim (s : State) : (publishLimits s).lim.lim =
    Vector.ofFn (fun k => if publishes s then ((formedLimits s)[k.val]?).getD 0 else 0) :=
  setAgainIf_limits ..

theorem publishLimits_lim_of_not {s : State} (h : publishes s = false) :
    (publishLimits s).lim.lim = Vector.replicate 8 0 := by
  rw [publishLimits_lim, h]
  exact Vector.ext fun k hk => by simp

theorem formedLimits_getElem? {s : State} {dir h : Nat} (hdir : dir < 2) (hh : h < 4) :
    (formedLimits s)[4 * dir + h]? = some (formedLimit s dir h) := by
  interval_cases dir <;> interval_cases h <;> rfl

theorem getNat_publishLimits {s : State} {dir h : Nat} (hdir : dir < 2) (hh : h < 4) :
    getNat (publishLimits s).lim.lim (4 * dir + h) = if publishes s then formedLimit s dir h else 0 := by
  rw [publishLimits_lim, getNat_ofFn (by omega)]
  dsimp only
  rw [formedLimits_getElem? hdir hh, Option.getD_some]

/-- A bound of the formed limit bounds the published one, which is that limit or 0. -/
theorem getNat_publishLimits_le {s : State} {dir h b : Nat} (hdir : dir < 2) (hh : h < 4) (hb : formedLimit s dir h ≤ b) :
    getNat (publishLimits s).lim.lim (4 * dir + h) ≤ b := by
  rw [getNat_publishLimits hdir hh]
  split
  · exact hb
  · exact Nat.zero_le b

theorem publishLimits_ordered {s : State} {dir h : Nat} (hdir : dir < 2) (hh : h < 3) :
    getNat (publishLimits s).lim.lim (4 * dir + h + 1) ≤ getNat (publishLimits s).lim.lim (4 * dir + h) := by
  rw [Nat.add_assoc, getNat_publishLimits hdir (Nat.succ_lt_succ hh), getNat_publishLimits hdir (Nat.lt_succ_of_lt hh)]
  split
  · exact ordered_succ_le ..
  · exact le_refl 0

theorem formedLimit_le_dirEnv {s : State} (htherm : s.lim.fTherm ≤ 1000000) (dir h : Nat) :
    formedLimit s dir h ≤ dirEnv s dir :=
  (ordered_le ..).trans (scaledWinner_le_dirEnv (s := selection s) htherm (plateFactor_le _) ..)

theorem formedLimit_cold {s : State} (hcold : coldCharge s = true) (h : Nat) : formedLimit s 1 h = 0 := by
  refine Nat.le_zero.mp ((ordered_le ..).trans_eq ?_)
  rw [hcold]
  exact scaledWinner_cold ..

/-! ### What publication leaves beside the limits -/

@[simp] theorem publishLimits_time (s : State) : (publishLimits s).time = s.time := setAgainIf_time ..

theorem publishLimits_limBeat (s : State) : (publishLimits s).lim.limBeat = s.time.beat :=
  congrArg Lim.limBeat (setAgainIf_lim ..)

theorem publishLimits_chgCold (s : State) : (publishLimits s).lim.chgCold = coldCharge s :=
  congrArg Lim.chgCold (setAgainIf_lim ..)

theorem exec_limitPublication {s : State} (hon : loopsOn s = true) : exec .limitPublication s =
    if mayAct .publish 360 s then .next (publishLimits (actAt .publish 360 (fresh s))) else .next (fresh s) := by
  have hgo : (loopsOn (fresh s) && mayAct .publish 360 (fresh s)) = mayAct .publish 360 s := by
    have hon' : loopsOn (fresh s) = true := hon
    rw [hon', Bool.true_and, mayAct_fresh]
  change execLimitPublication s = _
  unfold execLimitPublication
  dsimp only
  rw [hgo]

end Sys2Proof.Machine

namespace Sys2Proof

open Sys2Proof.Machine

/-- Settles O36: each published limit is 0 or the ordered, scaled winner of its direction and horizon, and the bounds are
those of the scaling and of the ordering step. -/
theorem limitsPublished : Obligations.LimitsPublished := by
  intro s hon htick
  rw [Does, exec_limitPublication hon]
  refine ⟨fun hturn => if_neg (by simp [mayAct_iff, hturn]), fun hturn => ?_⟩
  refine ⟨_, if_pos ((mayAct_iff ..).mpr ⟨htick, hturn⟩), ?tick, publishLimits_limBeat _, publishLimits_st _,
    publishLimits_saf _, publishLimits_chgCold _, fun hoff => publishLimits_lim_of_not ?off,
    fun d hd h hh => publishLimits_ordered hd hh, fun b hb htherm h hh => ?envelope, fun hcold h hh => ?cold⟩
  case tick => rw [tickOf, publishLimits_time]; exact tickOf_actAt .publish 360 (fresh s)
  case off =>
    rcases hoff with hmode | hhold
    · exact Bool.and_eq_false_imp.mpr fun hrun => absurd (eq_of_beq hrun) hmode
    · exact (congrArg (fun b => s.st.mode == .run && !b) hhold).trans (Bool.and_false _)
  case envelope =>
    have henv : dirEnv s 0 = b.iDisEnv ∧ dirEnv s 1 = b.iChgEnv := by simp [dirEnv, hb]
    have hle : ∀ dir, formedLimit (actAt .publish 360 (fresh s)) dir h ≤ dirEnv s dir :=
      fun dir => formedLimit_le_dirEnv (s := actAt .publish 360 (fresh s)) htherm dir h
    have hdis := getNat_publishLimits_le (dir := 0) (by decide) hh ((hle 0).trans_eq henv.1)
    rw [Nat.mul_zero, Nat.zero_add] at hdis
    exact ⟨hdis, getNat_publishLimits_le (dir := 1) (by decide) hh ((hle 1).trans_eq henv.2)⟩
  case cold =>
    exact Nat.le_zero.mp (getNat_publishLimits_le (dir := 1) (by decide) hh
      (formedLimit_cold (s := actAt .publish 360 (fresh s)) hcold h).le)

end Sys2Proof
end

section
/-! SUPPORT. The safety functions (10), one rule per operation of a channel: what follows from an opening, what a latch makes
of the state, and what a channel leaves as it was whatever it judges. -/

namespace Sys2Proof.Machine

/-! ### What follows from an opening (R258, R269) -/

/-- At most what follows from an opening happens: a contactor is asked to open, and of the rest of the safety functions the
job and OPEN_LOAD change. -/
structure Follows (s t : State) : Prop where
  st : t.st = s.st
  time : t.time = s.time
  sent : t.sent = s.sent
  limits : t.lim.lim = s.lim.lim
  saf : t.saf = { s.saf with k := t.saf.k, job := t.saf.job, openLoad := t.saf.openLoad }
  k : ∀ k < 4, getNat t.saf.k k = { getNat s.saf.k k with openReq := (getNat t.saf.k k).openReq }

theorem Follows.refl (s : State) : Follows s s := ⟨rfl, rfl, rfl, rfl, rfl, fun _ _ => rfl⟩

theorem Follows.trans {s t u : State} (h : Follows s t) (h' : Follows t u) : Follows s u where
  st := h'.st.trans h.st
  time := h'.time.trans h.time
  sent := h'.sent.trans h.sent
  limits := h'.limits.trans h.limits
  saf := h'.saf.trans (congrArg (fun x : Saf => { x with k := u.saf.k, job := u.saf.job, openLoad := u.saf.openLoad }) h.saf)
  k := fun k hk => (h'.k k hk).trans
    (congrArg (fun c : Contactor => { c with openReq := (getNat u.saf.k k).openReq }) (h.k k hk))

theorem jobFail_follows (detail : Nat) (s : State) : Follows s (jobFail detail s) := by
  unfold jobFail
  split
  · exact .refl s
  · refine ⟨rfl, rfl, rfl, rfl, rfl, fun k hk => ?_⟩
    dsimp only [jobEnd, modJob, allK]
    rw [getNat_mapAll _ _ hk]
    split <;> rfl

theorem noteOpens_follows (before s : State) : Follows s (noteOpens before s) := by
  unfold noteOpens
  dsimp only
  split
  · refine List.foldlRecOn (motive := Follows s) _ _ (.refl s) fun t ht k _ => ht.trans ?_
    exact ⟨rfl, rfl, rfl, rfl, rfl, fun _ _ => rfl⟩
  · exact .refl s

theorem jobWatch_follows (before s : State) : Follows s (jobWatch before s) := by
  unfold jobWatch
  split
  · split
    · exact jobFail_follows 6 s
    · exact .refl s
  · exact .refl s

/-- A change of switches is its function and what follows from an opening. -/
theorem switching_follows (f : State → State) (s : State) : Follows (f s) (switching f s) :=
  (noteOpens_follows s (f s)).trans (jobWatch_follows s _)

/-- A contactor after a change of switches is what the change made of it, but for its open request. -/
theorem switching_allK_k (f : Nat → Contactor → Contactor) (s : State) {k : Nat} (hk : k < 4) :
    getNat (switching (allK f) s).saf.k k =
      { f k (getNat s.saf.k k) with openReq := (getNat (switching (allK f) s).saf.k k).openReq } := by
  have h := (switching_follows (allK f) s).k k hk
  rwa [allK_k, getNat_mapAll _ _ hk] at h

/-! ### A latch (R235, R269) -/

/-- The safety functions with one more cause latched in a channel, shown as the first where it is that. -/
def Saf.withLatch (x : Saf) (ch : Chan) (c : Cause) (shown : Option (Chan × Cause × Nat)) (tick : Nat) : Saf :=
  { x with latched := x.latched ++ [(ch, c)], latchA := x.latchA || ch == .a, latchB := x.latchB || ch == .b
           cause := shown, causeTick := tick }

/-- What a cause that has not latched yet does: it is noted, SAFE is entered, and its channel turns its switches off. -/
theorem latch_eq {ch : Chan} {c : Cause} {s : State} (hm : s.saf.monitor = true) (hnew : (ch, c) ∉ s.saf.latched)
    (info : Nat) : ∃ x : State, x.st = s.st ∧ x.time = s.time ∧
      (∃ shown tick, x.saf = s.saf.withLatch ch c shown tick) ∧
      latch ch c info s = switching (allK fun _ k => k.latched ch) (enterSafe x) := by
  unfold latch
  rw [if_neg (by simp [hm, hnew])]
  extract_lets was first recorded x latchedState
  exact ⟨latchedState, rfl, rfl, ⟨_, _, rfl⟩, rfl⟩

theorem enterSafe_time (s : State) : (enterSafe s).time = s.time := by
  unfold enterSafe
  split <;> rfl

/-- A latch again changes nothing (R269). -/
theorem latch_again {ch : Chan} {c : Cause} {s : State} (h : (ch, c) ∈ s.saf.latched) (info : Nat) :
    latch ch c info s = s := if_pos (by simp [h])

/-- ARMED, RUN, STOP and SERVICE are left for SAFE by T11, and the limits read zero (01 R24). -/
theorem enterSafe_of_active {s : State}
    (h : s.st.mode = .armed ∨ s.st.mode = .run ∨ s.st.mode = .stop ∨ s.st.mode = .service) :
    (enterSafe s).st.mode = .safe ∧ (enterSafe s).lim.lim = Vector.replicate 8 0 := by
  unfold enterSafe
  rcases h with h | h | h | h <;> rw [h] <;> exact ⟨rfl, rfl⟩

/-- A cause that latches in s, where `s₀` is the state that the command found. -/
theorem latch_latchedNow {ch : Chan} {c : Cause} {s₀ s : State} (hst₀ : s.st = s₀.st) (hm : s.saf.monitor = true)
    (hnew : (ch, c) ∉ s.saf.latched) (info : Nat) : LatchedNow ch c s₀ (latch ch c info s) := by
  obtain ⟨x, hst, -, ⟨shown, tick, hsaf⟩, heq⟩ := latch_eq hm hnew info
  have hf := switching_follows (allK fun _ k => k.latched ch) (enterSafe x)
  have hk := fun k hk => switching_allK_k (fun _ k => k.latched ch) (enterSafe x) (k := k) hk
  rw [← heq] at hf hk
  obtain ⟨hlatched, hA, hB⟩ : (latch ch c info s).saf.latched = s.saf.latched ++ [(ch, c)] ∧
      (latch ch c info s).saf.latchA = (s.saf.latchA || ch == .a) ∧
      (latch ch c info s).saf.latchB = (s.saf.latchB || ch == .b) := by
    rw [hf.saf]
    dsimp only [allK]
    rw [enterSafe_saf, hsaf]
    exact ⟨rfl, rfl, rfl⟩
  refine ⟨?_, ?_, ?_, fun hmode => ?_⟩
  · rw [hlatched]
    exact List.mem_append_right _ (List.mem_singleton_self _)
  · rintro rfl
    exact ⟨hA.trans (Bool.or_true _), fun k h4 => congrArg Contactor.hs (hk k h4)⟩
  · rintro rfl
    exact ⟨hB.trans (Bool.or_true _), fun k h4 => congrArg Contactor.ls (hk k h4)⟩
  · rw [hf.st, hf.limits]
    rw [← hst₀, ← hst] at hmode
    exact enterSafe_of_active hmode

theorem latch_mem (ch : Chan) (c : Cause) (info : Nat) {s : State} (hm : s.saf.monitor = true) :
    (ch, c) ∈ (latch ch c info s).saf.latched := by
  by_cases h : (ch, c) ∈ s.saf.latched
  · rwa [latch_again h]
  · exact (latch_latchedNow rfl hm h info).1

/-! ### What a channel does of itself -/

/-- A channel does at most what its judgement may bring: it opens contactors, judges the safety inputs and latches causes,
which stay latched; a pulse that runs and a test asked for stand, and so does the rest of the safety functions. -/
structure ChannelActs (s t : State) : Prop where
  time : t.time = s.time
  saf : t.saf = { s.saf with
    k := t.saf.k, sin := t.saf.sin, job := t.saf.job, openLoad := t.saf.openLoad, latched := t.saf.latched
    latchA := t.saf.latchA, latchB := t.saf.latchB, cause := t.saf.cause, causeTick := t.saf.causeTick }
  latched : s.saf.latched ⊆ t.saf.latched
  latchA : s.saf.latchA = true → t.saf.latchA = true
  latchB : s.saf.latchB = true → t.saf.latchB = true
  test : ∀ k < 4, (getNat t.saf.k k).pulse = (getNat s.saf.k k).pulse ∧
    (getNat t.saf.k k).lsTest = (getNat s.saf.k k).lsTest

theorem ChannelActs.refl (s : State) : ChannelActs s s :=
  ⟨rfl, rfl, List.Subset.refl _, id, id, fun _ _ => ⟨rfl, rfl⟩⟩

theorem ChannelActs.trans {s t u : State} (h : ChannelActs s t) (h' : ChannelActs t u) : ChannelActs s u where
  time := h'.time.trans h.time
  saf := h'.saf.trans (congrArg (fun x : Saf => { x with
    k := u.saf.k, sin := u.saf.sin, job := u.saf.job, openLoad := u.saf.openLoad, latched := u.saf.latched
    latchA := u.saf.latchA, latchB := u.saf.latchB, cause := u.saf.cause, causeTick := u.saf.causeTick }) h.saf)
  latched := List.Subset.trans h.latched h'.latched
  latchA := h'.latchA ∘ h.latchA
  latchB := h'.latchB ∘ h.latchB
  test := fun k hk => ⟨(h'.test k hk).1.trans (h.test k hk).1, (h'.test k hk).2.trans (h.test k hk).2⟩

theorem foldl_channelActs {α : Type} {g : State → α → State} (h : ∀ s x, ChannelActs s (g s x)) (l : List α) (s : State) :
    ChannelActs s (l.foldl g s) :=
  List.foldlRecOn (motive := ChannelActs s) l g (.refl s) fun _ ht x _ => ht.trans (h _ x)

theorem ChannelActs.ite {p : Prop} [Decidable p] {s t u : State} (ht : ChannelActs s t) (hu : ChannelActs s u) :
    ChannelActs s (if p then t else u) := by
  split
  · exact ht
  · exact hu

theorem Follows.channelActs {s t : State} (h : Follows s t) : ChannelActs s t := by
  have hlatched : t.saf.latched = s.saf.latched ∧ t.saf.latchA = s.saf.latchA ∧ t.saf.latchB = s.saf.latchB := by
    rw [h.saf]
    exact ⟨rfl, rfl, rfl⟩
  obtain ⟨hl, hA, hB⟩ := hlatched
  refine ⟨h.time, ?_, hl ▸ List.Subset.refl _, hA ▸ id, hB ▸ id, fun k hk => ?_⟩
  · exact h.saf.trans (by rw [h.saf])
  · rw [h.k k hk]
    exact ⟨rfl, rfl⟩

/-- A change of contactors that leaves the tests alone. -/
theorem switching_channelActs {f : Nat → Contactor → Contactor}
    (hf : ∀ k c, (f k c).pulse = c.pulse ∧ (f k c).lsTest = c.lsTest) (s : State) :
    ChannelActs s (switching (allK f) s) := by
  have hall : ChannelActs s (allK f s) := by
    refine ⟨rfl, rfl, List.Subset.refl _, id, id, fun k hk => ?_⟩
    rw [allK_k, getNat_mapAll _ _ hk]
    exact hf k _
  exact hall.trans (switching_follows (allK f) s).channelActs

theorem latch_channelActs (ch : Chan) (c : Cause) (info : Nat) (s : State) : ChannelActs s (latch ch c info s) := by
  by_cases hm : s.saf.monitor = true
  · by_cases hold : (ch, c) ∈ s.saf.latched
    · rw [latch_again hold]
      exact .refl s
    · obtain ⟨x, -, htime, ⟨shown, tick, hsaf⟩, heq⟩ := latch_eq hm hold info
      rw [heq]
      refine .trans ?_ (switching_channelActs (fun _ k => by cases ch <;> exact ⟨rfl, rfl⟩) (enterSafe x))
      rw [← enterSafe_saf] at hsaf
      refine ⟨(enterSafe_time x).trans htime, ?_, ?_, fun h => ?_, fun h => ?_, fun k _ => ?_⟩
      all_goals rw [hsaf]
      · rfl
      · exact List.subset_append_left ..
      · exact Bool.or_eq_true_iff.mpr (.inl h)
      · exact Bool.or_eq_true_iff.mpr (.inl h)
      · exact ⟨rfl, rfl⟩
  · rw [latch, if_pos (by simp [hm])]
    exact .refl s

theorem latchAll_channelActs (ch : Chan) (l : List (Cause × Nat)) (s : State) : ChannelActs s (latchAll ch l s) := by
  refine foldl_channelActs (fun s n => ?_) _ s
  split
  · exact latch_channelActs ch _ _ s
  · exact .refl s

theorem inputOpens_channelActs (i : Nat) (ch : Chan) (cancel : Bool) (s : State) :
    ChannelActs s (inputOpens i ch cancel s) := by
  refine switching_channelActs (fun k c => ?_) s
  split
  · cases ch <;> cases cancel <;> exact ⟨rfl, rfl⟩
  · exact ⟨rfl, rfl⟩

theorem discJudge_channelActs (ch : Chan) (s : State) : ChannelActs s (discJudge ch s) := by
  refine foldl_channelActs (fun s i => ?_) _ s
  cases ch
  all_goals
    dsimp only
    split
    · refine .trans ?_ (inputOpens_channelActs i _ false _)
      exact ⟨rfl, rfl, List.Subset.refl _, id, id, fun _ _ => ⟨rfl, rfl⟩⟩
    · exact ⟨rfl, rfl, List.Subset.refl _, id, id, fun _ _ => ⟨rfl, rfl⟩⟩

theorem dropA_channelActs (s : State) : ChannelActs s (dropA s) := by
  refine switching_channelActs (fun k c => ?_) s
  split <;> exact ⟨rfl, rfl⟩

end Sys2Proof.Machine
end

section
/-! SUPPORT AND PROOFS. What latches: the self test, the fast comparator, a missing edge and the CRCs of the working copies;
and how a channel follows the latch of the other (10 R235, R244, R248 to R250). -/

namespace Sys2Proof.Machine

/-- A command that acts under a condition and leaves the state it was given where the condition fails, both in one state. -/
theorem does_of_choice {c : Instr} {s x y : State} {b : Bool} {P : State → Prop}
    (hexec : exec c s = .next (if b = true then x else y)) (hb : b = true) (hx : P x) : Does c s P :=
  ⟨x, hexec.trans (congrArg Host.Outcome.next (if_pos hb)), hx⟩

/-! ### Causes that one command finds -/

theorem does_selfTest_failed {s : State} (hawake : awake s = true) (hm : s.saf.monitor = true) (htick : tickOf s ≤ 330)
    (hnew : (Chan.a, Cause.internal) ∉ s.saf.latched) : Does (.selfTest false) s (LatchedNow .a .internal s) := by
  have htick' : tickOf (fresh s) ≤ 330 := htick
  exact does_of_choice rfl (by simp [hawake, hm, htick']) (latch_latchedNow (s := fresh s) rfl hm hnew 0)

theorem does_fastOc {s : State} (hawake : awake s = true) (hm : s.saf.monitor = true) (hover : s.saf.overI = true)
    (hnew : (Chan.b, Cause.fastOc) ∉ s.saf.latched) : Does .fastOc s (LatchedNow .b .fastOc s) :=
  does_of_choice rfl (by simp [hawake, hm, hover]) (latch_latchedNow (s := fresh s) rfl hm hnew 0)

/-! ### Missing edges (R250) -/

/-- One more edge is missing. -/
def edgeMissed (s : State) : State :=
  { s with saf := { s.saf with missing := s.saf.missing + 1, goodRun := 0, toggleOk := false } }

theorem exec_toggleMissing {s : State} (hawake : awake s = true) (hm : s.saf.monitor = true)
    (hseen : s.saf.edgeSeen = true) : exec .toggleMissing s = .next
      (if 2 ≤ s.saf.missing + 1 then latch .b .toggle 0 (edgeMissed (fresh s)) else edgeMissed (fresh s)) :=
  if_pos (by simp [hawake, hm, hseen])

/-! ### The CRCs of the working copies (R248) -/

/-- The CRCs of both working copies taken anew. -/
def recheckCrcs (s : State) : State :=
  { s with saf := { s.saf with crcA := crc32c (s.saf.rawA.take 0xFC), crcB := crc32c (s.saf.rawB.take 0xFC) } }

/-- Channel B's judgement of the CRCs just taken: its own against that of acceptance. -/
def judgeCrcB (s : State) : State := if s.saf.crcB ≠ s.saf.accB then latch .b .sbCorrupt 0 s else s

/-- Channel A's judgement, of both copies. -/
def judgeCrcA (s : State) : State :=
  if s.saf.crcA ≠ s.saf.accA ∨ s.saf.crcB ≠ s.saf.accA then latch .a .sbCorrupt 0 s else s

theorem judgeCrcB_channelActs (s : State) : ChannelActs s (judgeCrcB s) := .ite (latch_channelActs ..) (.refl s)

theorem judgeCrcA_channelActs (s : State) : ChannelActs s (judgeCrcA s) := .ite (latch_channelActs ..) (.refl s)

/-- What the CRCs are judged by stands while causes latch. -/
theorem ChannelActs.crcs {s t : State} (h : ChannelActs s t) :
    t.saf.crcA = s.saf.crcA ∧ t.saf.crcB = s.saf.crcB ∧ t.saf.accA = s.saf.accA ∧ t.saf.monitor = s.saf.monitor := by
  rw [h.saf]
  exact ⟨rfl, rfl, rfl, rfl⟩

theorem exec_crcRecheck {s : State} (hawake : awake s = true) (hm : s.saf.monitor = true)
    (hbeat : s.time.beat % 1000 = 0) (htick : tickOf s ≤ 340) (hturn : hadTurn .recheck s = false) :
    exec .crcRecheck s = .next (judgeCrcA (judgeCrcB (recheckCrcs (actAt .recheck 340 (fresh s))))) := by
  have hmay : mayAct .recheck 340 (fresh s) = true := (mayAct_iff ..).mpr ⟨htick, hturn⟩
  have hexec : exec .crcRecheck s = .next
      (let u := recheckCrcs (actAt .recheck 340 (fresh s))
       let v := judgeCrcB u
       if u.saf.crcA ≠ v.saf.accA ∨ u.saf.crcB ≠ v.saf.accA then latch .a .sbCorrupt 0 v else v) :=
    if_pos (by simp [hawake, hm, hbeat, hmay])
  obtain ⟨hcrcA, hcrcB, -, -⟩ := (judgeCrcB_channelActs (recheckCrcs (actAt .recheck 340 (fresh s)))).crcs
  rw [hexec, judgeCrcA, hcrcA, hcrcB]

theorem exec_crcRecheck_again {s : State} (hturn : hadTurn .recheck s = true) :
    exec .crcRecheck s = .next (fresh s) :=
  if_neg (by simp [mayAct, hturn])

/-- The recheck at its turn: the CRCs are those of the copies, and each channel judges them. -/
theorem does_crcRecheck {s : State} (hawake : awake s = true) (hm : s.saf.monitor = true)
    (hbeat : s.time.beat % 1000 = 0) (htick : tickOf s ≤ 340) (hturn : hadTurn .recheck s = false) :
    Does .crcRecheck s (fun t => tickOf t = 340 ∧
      t.saf.crcA = crc32c (s.saf.rawA.take 0xFC) ∧ t.saf.crcB = crc32c (s.saf.rawB.take 0xFC) ∧
      (t.saf.crcB ≠ s.saf.accB → (Chan.b, Cause.sbCorrupt) ∈ t.saf.latched) ∧
      (t.saf.crcA ≠ s.saf.accA ∨ t.saf.crcB ≠ s.saf.accA → (Chan.a, Cause.sbCorrupt) ∈ t.saf.latched) ∧
      (t.saf.crcA = s.saf.accA → t.saf.crcB = s.saf.accA → t.saf.crcB = s.saf.accB →
        t.saf.latched = s.saf.latched ∧ t.st = s.st)) := by
  refine ⟨_, exec_crcRecheck hawake hm hbeat htick hturn, ?_⟩
  generalize hu : recheckCrcs (actAt .recheck 340 (fresh s)) = u
  have hB := judgeCrcB_channelActs u
  have hA := judgeCrcA_channelActs (judgeCrcB u)
  obtain ⟨hcrcA, hcrcB, haccA, hmonitor⟩ := hB.crcs
  obtain ⟨hcrcA', hcrcB', -, -⟩ := hA.crcs
  have hmon : u.saf.monitor = true := hu ▸ hm
  have haccs : u.saf.accA = s.saf.accA ∧ u.saf.accB = s.saf.accB := hu ▸ ⟨rfl, rfl⟩
  rw [← haccs.1, ← haccs.2, hcrcA', hcrcB', hcrcA, hcrcB]
  refine ⟨?_, ?_, ?_, fun hbad => hA.latched ?_, fun hbad => ?_, fun ha hba hbb => ?_⟩
  · rw [tickOf, (hB.trans hA).time, ← hu]
    exact tickOf_actAt ..
  · rw [← hu]
    rfl
  · rw [← hu]
    rfl
  · rw [judgeCrcB, if_pos hbad]
    exact latch_mem _ _ _ hmon
  · rw [judgeCrcA, hcrcA, hcrcB, haccA, if_pos hbad]
    exact latch_mem _ _ _ (hmonitor.trans hmon)
  · have hsameB : judgeCrcB u = u := if_neg (not_not.mpr hbb)
    have hsameA : judgeCrcA u = u := if_neg (not_or.mpr ⟨not_not.mpr ha, not_not.mpr hba⟩)
    rw [hsameB, hsameA, ← hu]
    exact ⟨rfl, rfl⟩

/-! ### A channel follows the other's latch (R235) -/

theorem does_latchA {s : State} (h : s.saf.latchA = true) :
    Does .latchA s (fun t => t.st = s.st ∧ ∀ k < 4, (getNat t.saf.k k).ls = false) := by
  have hf := switching_follows (allK fun _ c => { c.offB with req := false }) (fresh s)
  exact does_of_choice (b := s.saf.latchA) rfl h
    ⟨hf.st, fun k hk => congrArg Contactor.ls (switching_allK_k _ _ hk)⟩

theorem does_latchB {s : State} (h : s.saf.latchB = true) :
    Does .latchB s (fun t => t.st = s.st ∧ ∀ k < 4, (getNat t.saf.k k).hs = false) := by
  have hf := switching_follows (allK fun _ c => { c.offA with req := false }) (fresh s)
  exact does_of_choice (b := s.saf.latchB) rfl h
    ⟨hf.st, fun k hk => congrArg Contactor.hs (switching_allK_k _ _ hk)⟩

end Sys2Proof.Machine

namespace Sys2Proof

open Sys2Proof.Machine

/-- Settles O37: each cause by the rule of a latch, and each channel's following by the rule of a change of switches. -/
theorem safetyLatches : Obligations.SafetyLatches := by
  refine fun s => ⟨fun hawake hm => ⟨fun htick hnew => does_selfTest_failed hawake hm htick hnew,
    fun hover hnew => does_fastOc hawake hm hover hnew, fun hseen hmissing hnew => ?second, fun hseen hnone => ?first,
    exec_crcRecheck_again, fun hbeat htick hturn => does_crcRecheck hawake hm hbeat htick hturn⟩,
    fun hawake htick => ?passed, does_latchA, does_latchB, fun hawake => ?onset, rfl⟩
  case second =>
    refine ⟨_, (exec_toggleMissing hawake hm hseen).trans (congrArg _ (if_pos (by omega))), ?_⟩
    exact latch_latchedNow (s := edgeMissed (fresh s)) rfl hm hnew 0
  case first =>
    refine ⟨_, (exec_toggleMissing hawake hm hseen).trans (congrArg _ (if_neg (by omega))), ?_, rfl, rfl, rfl⟩
    exact congrArg (· + 1) hnone
  case passed => exact congrArg Host.Outcome.next (if_neg (by simp))
  case onset => exact congrArg Host.Outcome.next (if_pos hawake)

end Sys2Proof
end

section
/-! SUPPORT AND PROOFS. The channels' beat: channel A's evaluation, the requests at tick 350, the TOGGLE edge, ALIVE and K_CMD
(10 R233, R235, R238, R247, R250, R252 to R254). -/

namespace Sys2Proof.Machine

/-! ### Folds in which one entry decides -/

/-- A fold over entries that each stand once: I holds until the entry a, which makes P of it, and P holds from there. -/
theorem foldl_once {α : Type} {g : State → α → State} {I P : State → Prop} {a : α}
    (hI : ∀ s x, x ≠ a → I s → I (g s x)) (ha : ∀ s, I s → P (g s a)) (hP : ∀ s x, x ≠ a → P s → P (g s x))
    {l : List α} (hmem : a ∈ l) (hnodup : l.Nodup) {s : State} (hs : I s) : P (l.foldl g s) := by
  induction l generalizing s with
  | nil => cases hmem
  | cons x r ih =>
    obtain ⟨hx, hr⟩ := List.nodup_cons.mp hnodup
    by_cases hxa : x = a
    · subst hxa
      exact List.foldlRecOn (motive := P) r g (ha s hs) fun t ht y hy => hP t y (fun h => hx (h ▸ hy)) ht
    · exact ih ((List.mem_cons.mp hmem).resolve_left (Ne.symm hxa)) hr (hI s x hxa hs)

/-! ### Causes found in one evaluation (R269, Table 10-7) -/

/-- The causes of Table 10-7 in the order of their codes, from 1 on. -/
def causes : List Cause :=
  [.posOv, .posUv, .strOv, .strUv, .tempOt, .tempUt, .posAge, .tempAge, .feAge, .i2tDis, .i2tChg, .fastOc, .direction,
    .insulation, .accord, .sbCorrupt, .internal, .toggle, .bAlive, .testHs, .testLs, .coil]

theorem causes_code (c : Cause) : causes[c.code - 1]? = some c := by cases c <;> rfl

theorem code_lt (c : Cause) : c.code < 23 := by cases c <;> decide

theorem code_injective {c d : Cause} (h : c.code = d.code) : c = d :=
  Option.some.inj ((causes_code c).symm.trans (h ▸ causes_code d))

theorem ChannelActs.monitor {s t : State} (h : ChannelActs s t) : t.saf.monitor = s.saf.monitor := by rw [h.saf]

/-- Every cause that an evaluation finds is latched after it. -/
theorem mem_latchAll {ch : Chan} {l : List (Cause × Nat)} {c : Cause} {n : Nat} (h : (c, n) ∈ l) {s : State}
    (hm : s.saf.monitor = true) : (ch, c) ∈ (latchAll ch l s).saf.latched := by
  unfold latchAll
  refine foldl_once (I := fun s => s.saf.monitor = true) (P := fun s => (ch, c) ∈ s.saf.latched) (a := c.code)
    (fun s m _ hs => ?_) (fun s hs => ?_) (fun s m _ hs => ?_) (List.mem_range.mpr (code_lt c)) List.nodup_range hm
  · split
    · exact (latch_channelActs ..).monitor.trans hs
    · exact hs
  · split
    next x hx =>
      have hcode : x.1.code = c.code := by simpa using List.find?_some hx
      rw [code_injective hcode]
      exact latch_mem ch c x.2 hs
    next hnone => exact absurd (List.find?_eq_none.mp hnone _ h) (by simp)
  · split
    · exact (latch_channelActs ..).latched hs
    · exact hs

/-! ### Channel A's evaluation (R238, R247, R251) -/

/-- A judgement: what it notes in the state, and the causes that it finds. -/
abbrev Judgement := State → State × List (Cause × Nat)

/-- One judgement, then another on the state it leaves. -/
def Judgement.then (f g : Judgement) : Judgement := fun s => ((g (f s).1).1, (f s).2 ++ (g (f s).1).2)

/-- What a judgement reads beside its own notes stands: the time, the measurements, and what has latched. -/
def Judgement.Keeps (f : Judgement) : Prop := ∀ s, (f s).1.time = s.time ∧ (f s).1.meas = s.meas ∧
  (f s).1.saf.latched = s.saf.latched ∧ (f s).1.saf.monitor = s.saf.monitor

theorem Judgement.Keeps.then {f g : Judgement} (hf : f.Keeps) (hg : g.Keeps) : (f.then g).Keeps := fun s =>
  ⟨(hg _).1.trans (hf s).1, (hg _).2.1.trans (hf s).2.1, (hg _).2.2.1.trans (hf s).2.2.1,
    (hg _).2.2.2.trans (hf s).2.2.2⟩

theorem Judgement.mem_then_left {f g : Judgement} {s : State} {x : Cause × Nat} (h : x ∈ (f s).2) :
    x ∈ ((f.then g) s).2 := List.mem_append_left _ h

theorem Judgement.mem_then_right {f g : Judgement} {s : State} {x : Cause × Nat} (h : x ∈ (g (f s).1).2) :
    x ∈ ((f.then g) s).2 := List.mem_append_right _ h

/-- Channel A's judgements that come before that of ALIVE and the accord fault. -/
def judgedSamples (b : SafetyBlock) : Judgement :=
  ((((Judgement.then (evalPos b) (evalFe b)).then (evalTemp b)).then (evalI2t b)).then (evalDir b))

/-- Channel A's judgements of one evaluation, before any of what they find latches. -/
def judgedA (b : SafetyBlock) (hsMa : List Nat) : Judgement :=
  ((judgedSamples b).then evalOther).then (evalHs hsMa)

theorem judgedSamples_keeps (b : SafetyBlock) : (judgedSamples b).Keeps := by
  have hpos : Judgement.Keeps (evalPos b) := fun _ => ⟨rfl, rfl, rfl, rfl⟩
  have hfe : Judgement.Keeps (evalFe b) := fun _ => ⟨rfl, rfl, rfl, rfl⟩
  have htemp : Judgement.Keeps (evalTemp b) := fun _ => ⟨rfl, rfl, rfl, rfl⟩
  have hi2t : Judgement.Keeps (evalI2t b) := fun _ => ⟨rfl, rfl, rfl, rfl⟩
  have hdir : Judgement.Keeps (evalDir b) := fun _ => ⟨rfl, rfl, rfl, rfl⟩
  exact (((hpos.then hfe).then htemp).then hi2t).then hdir

theorem judgedA_keeps (b : SafetyBlock) (l : List Nat) : (judgedA b l).Keeps := by
  have hother : Judgement.Keeps evalOther := fun _ => ⟨rfl, rfl, rfl, rfl⟩
  have hhs : Judgement.Keeps (evalHs l) := fun _ => ⟨rfl, rfl, rfl, rfl⟩
  exact ((judgedSamples_keeps b).then hother).then hhs

/-- Channel A's evaluation up to its note that it has run. -/
def evaluatedA (b : SafetyBlock) (hsMa : List Nat) (s : State) : State :=
  dropA (latchAll .a (judgedA b hsMa s).2 (discJudge .a (jobTest (judgedA b hsMa s).1)))

/-- This beat's evaluation has run. -/
def noteEval (s : State) : State := { s with saf := { s.saf with evalBeat := some s.time.beat } }

theorem exec_channelAEvaluation {b : SafetyBlock} {s : State} (hawake : awake s = true) (hm : s.saf.monitor = true)
    (hcopy : s.saf.copyA = some b) (htick : tickOf s ≤ 340) (hnew : s.saf.evalBeat ≠ some s.time.beat) (l : List Nat) :
    exec (.channelAEvaluation l) s = .next (noteEval (evaluatedA b l (atTick 340 (fresh s)))) := by
  change execChannelAEvaluation l s = _
  unfold execChannelAEvaluation
  extract_lets u v
  split
  next b' hb =>
    obtain rfl : b' = b := Option.some.inj (hb.symm.trans hcopy)
    have htick' : tickOf u ≤ 340 := htick
    rw [if_pos (by simp [u, hawake, hm, htick', hnew])]
    iterate 7 split
    rename_i _ y₁ c₁ e₁ _ y₂ c₂ e₂ _ y₃ c₃ e₃ _ y₄ c₄ e₄ _ y₅ c₅ e₅ _ y₆ c₆ e₆ _ y₇ c₇ e₇
    have hjudged : judgedA b' l v = (y₇, c₁ ++ c₂ ++ c₃ ++ c₄ ++ c₅ ++ c₆ ++ c₇) := by
      simp only [judgedA, judgedSamples, Judgement.then, e₁, e₂, e₃, e₄, e₅, e₆, e₇]
    rw [evaluatedA, hjudged]
    rfl
  next hnone => exact absurd (hnone.symm.trans hcopy) (by simp)

theorem jobTest_channelActs (s : State) : ChannelActs s (jobTest s) := by
  unfold jobTest
  (repeat' split) <;> exact ⟨rfl, rfl, List.Subset.refl _, id, id, fun _ _ => ⟨rfl, rfl⟩⟩

theorem judged_channelActs (l : List (Cause × Nat)) (s : State) :
    ChannelActs s (latchAll .a l (discJudge .a (jobTest s))) :=
  ((jobTest_channelActs s).trans (discJudge_channelActs ..)).trans (latchAll_channelActs ..)

theorem evaluatedA_time (b : SafetyBlock) (l : List Nat) (s : State) : (evaluatedA b l s).time = s.time :=
  ((judged_channelActs _ _).trans (dropA_channelActs _)).time.trans (judgedA_keeps b l s).1

theorem evaluatedA_latched (b : SafetyBlock) (l : List Nat) (s : State) :
    s.saf.latched ⊆ (evaluatedA b l s).saf.latched := by
  obtain ⟨-, -, hlatched, -⟩ := judgedA_keeps b l s
  exact hlatched ▸ ((judged_channelActs _ _).trans (dropA_channelActs _)).latched

/-- What the judgements find is latched after the evaluation. -/
theorem mem_evaluatedA {b : SafetyBlock} {l : List Nat} {s : State} (hm : s.saf.monitor = true) {c : Cause} {n : Nat}
    (h : (c, n) ∈ (judgedA b l s).2) : (Chan.a, c) ∈ (evaluatedA b l s).saf.latched := by
  refine (dropA_channelActs _).latched (mem_latchAll h ?_)
  obtain ⟨-, -, -, hmonitor⟩ := judgedA_keeps b l s
  exact ((jobTest_channelActs _).trans (discJudge_channelActs ..)).monitor.trans (hmonitor.trans hm)

theorem accord_mem_judgedA {b : SafetyBlock} {l : List Nat} {s : State} (h : s.meas.acc.fault = true) :
    (Cause.accord, 0) ∈ (judgedA b l s).2 := by
  obtain ⟨-, hmeas, -, -⟩ := judgedSamples_keeps b s
  have hfound : (Cause.accord, 0) ∈ (evalOther (judgedSamples b s).1).2 := by
    refine List.mem_append_left _ ?_
    rw [hmeas, if_pos h]
    exact List.mem_singleton_self _
  unfold judgedA
  exact Judgement.mem_then_left (Judgement.mem_then_right hfound)

theorem rangeCount_high {lo hi v : Int} {w : Watched} (hv : hi < v) (hw : 1 ≤ w.count) :
    (rangeCount lo hi v true w).2 = some true := by
  have hout : ¬ (lo ≤ v ∧ v ≤ hi) := fun h => absurd h.2 (not_le.mpr hv)
  simp [rangeCount, hout, hw, hv]

theorem firstAt_of_mem {α : Type} [DecidableEq α] {l : List (Option α)} {x : α} (h : some x ∈ l) :
    ∃ n, firstAt l x = some n := by
  refine Option.isSome_iff_exists.mp ?_
  rw [firstAt, List.findIdx?_isSome]
  exact List.any_eq_true.mpr ⟨_, h, decide_eq_true rfl⟩

/-- A position's second VALID sample in a row above its bound is found (R238). -/
theorem posOv_mem_evalPos {b : SafetyBlock} {s : State} {p : Nat} {x : PosM} {w : Watched}
    (hbeat : s.meas.posBeat = s.time.beat) (hx : s.meas.pos[p]? = some x) (hw : s.saf.posW[p]? = some w)
    (hcode : x.code = .valid) (hv : b.vPosMax < x.value) (hcount : 1 ≤ w.count) :
    ∃ n, (Cause.posOv, n) ∈ (evalPos b s).2 := by
  have hmem : (x, w) ∈ s.meas.pos.zip s.saf.posW :=
    List.mem_of_getElem? (List.getElem?_zip_eq_some.mpr ⟨hx, hw⟩)
  have hhigh : (rangeCount b.vPosMin b.vPosMax x.value (s.meas.posBeat == s.time.beat && x.code == .valid) w).2 =
      some true := by
    rw [hbeat, hcode]
    simpa using rangeCount_high hv hcount
  have hout : some true ∈ ((s.meas.pos.zip s.saf.posW).map fun x => rangeCount b.vPosMin b.vPosMax x.1.value
      (s.meas.posBeat == s.time.beat && x.1.code == .valid) x.2).map (·.2) := by
    rw [List.map_map]
    exact List.mem_map.mpr ⟨(x, w), hmem, hhigh⟩
  obtain ⟨n, hn⟩ := firstAt_of_mem hout
  refine ⟨n, List.mem_append_left _ (List.mem_append_left _ ?_)⟩
  rw [hn]
  exact List.mem_singleton_self _

theorem posOv_mem_judgedA {b : SafetyBlock} {l : List Nat} {s : State} {n : Nat}
    (h : (Cause.posOv, n) ∈ (evalPos b s).2) : (Cause.posOv, n) ∈ (judgedA b l s).2 := by
  unfold judgedA judgedSamples
  exact Judgement.mem_then_left (Judgement.mem_then_left (Judgement.mem_then_left (Judgement.mem_then_left (Judgement.mem_then_left (Judgement.mem_then_left h)))))

theorem does_channelAEvaluation {b : SafetyBlock} {s : State} (hawake : awake s = true) (hm : s.saf.monitor = true)
    (hcopy : s.saf.copyA = some b) (htick : tickOf s ≤ 340) (hnew : s.saf.evalBeat ≠ some s.time.beat) (l : List Nat) :
    Does (.channelAEvaluation l) s (fun t => t.saf.evalBeat = some s.time.beat ∧ tickOf t = 340 ∧
      (∀ x ∈ s.saf.latched, x ∈ t.saf.latched) ∧
      (s.meas.acc.fault = true → (Chan.a, Cause.accord) ∈ t.saf.latched) ∧
      (∀ (p : Nat) (x : PosM) (w : Watched), s.meas.posBeat = s.time.beat → s.meas.pos[p]? = some x →
        s.saf.posW[p]? = some w → x.code = .valid → b.vPosMax < x.value → 1 ≤ w.count →
        (Chan.a, Cause.posOv) ∈ t.saf.latched)) := by
  have htime := evaluatedA_time b l (atTick 340 (fresh s))
  have hold := evaluatedA_latched b l (atTick 340 (fresh s))
  have hfound : ∀ {c n}, (c, n) ∈ (judgedA b l (atTick 340 (fresh s))).2 →
      (Chan.a, c) ∈ (evaluatedA b l (atTick 340 (fresh s))).saf.latched := mem_evaluatedA (s := atTick 340 (fresh s)) hm
  have hexec := exec_channelAEvaluation hawake hm hcopy htick hnew l
  generalize evaluatedA b l (atTick 340 (fresh s)) = t at htime hold hfound hexec
  refine ⟨_, hexec, ?_, ?_, fun x hx => hold hx, fun hfault => hfound (accord_mem_judgedA hfault),
    fun p x w hbeat hx hw hcode hv hcount => ?_⟩
  · exact (congrArg (fun x : Time => some x.beat) htime :)
  · exact (congrArg (fun x : Time => x.ns / 2500) htime).trans (Nat.mul_div_cancel 340 (by decide))
  · obtain ⟨n, hn⟩ := posOv_mem_evalPos (s := atTick 340 (fresh s)) hbeat hx hw hcode hv hcount
    exact hfound (posOv_mem_judgedA hn)

/-! ### Requests at tick 350 (R250, R252, R253) -/

/-- The requests of a tick 350 have been applied: TOGGLE and the note of the evaluation stand, and outside RUN channel A
holds every contactor open. -/
structure Applied (s t : State) : Prop where
  st : t.st = s.st
  time : t.time = s.time
  toggle : t.saf.toggle = s.saf.toggle
  evalBeat : t.saf.evalBeat = s.saf.evalBeat
  applied : t.saf.applied.map (·.1) = some s.time.beat
  off : s.st.mode ≠ .run → ∀ k < 4, (getNat t.saf.k k).hs = false ∧ (getNat t.saf.k k).closeReq = false

theorem Applied.follows {s t u : State} (h : Applied s t) (hf : Follows t u) : Applied s u := by
  obtain ⟨hst, htime, htoggle, heval, happlied, hoff⟩ := h
  refine ⟨hf.st.trans hst, hf.time.trans htime, ?_, ?_, ?_, fun hno k hk => ?_⟩
  · rw [hf.saf]; exact htoggle
  · rw [hf.saf]; exact heval
  · rw [hf.saf]; exact happlied
  · rw [hf.k k hk]; exact hoff hno k hk

theorem applyK_applied (jc jo : Nat) (s : State) : Applied s (applyK jc jo s) := by
  unfold applyK
  extract_lets at_ shutNow on barred drives
  split
  extract_lets req may fresh last dv permit refused s₁ x s₂
  have hpermit : ∀ k, permit.testBit k = true → s.st.mode = .run := fun k hk => by
    have hmay : may.testBit k = true := by
      by_cases hdv : dv = true
      · simp only [permit, hdv, if_true, Nat.testBit_and, Bool.and_eq_true] at hk
        exact hk.1
      · simpa [permit, hdv] using hk
    have hbase := testBit_maskIf hmay
    simp only [Bool.and_eq_true] at hbase
    exact (permitBase_mayClose hbase.1.1).1
  have hs₂ : Applied s s₂ := by
    refine ⟨rfl, rfl, rfl, rfl, rfl, fun hno k hk => ?_⟩
    have hnot : ¬ permit.testBit k = true := fun h => hno (hpermit k h)
    have hk' : getNat s₂.saf.k k = _ := getNat_mapAll _ _ hk
    dsimp only at hk'
    rw [hk', if_neg hnot]
    exact ⟨rfl, rfl⟩
  split
  · split
    · exact hs₂.follows (jobFail_follows 7 s₂)
    · split
      · exact hs₂.follows (jobFail_follows 6 s₂)
      · exact hs₂
  · exact hs₂

theorem jobDone_follows (s : State) : Follows s (jobDone s) := by
  unfold jobDone
  split <;> exact ⟨rfl, rfl, rfl, rfl, rfl, fun _ _ => rfl⟩

/-- The job's own step at tick 350 changes the job table and the job alone. -/
theorem jobStep_follows (s : State) : Follows s (jobStep s).2.2 := by
  unfold jobStep
  dsimp only
  (repeat' split) <;> exact ⟨rfl, rfl, rfl, rfl, rfl, fun _ _ => rfl⟩

/-- The requests of a tick 350, the job's among them, applied. -/
def requestsApplied (s : State) : State := switching (applyK (jobStep s).1 (jobStep s).2.1) (jobStep s).2.2

theorem requestsApplied_applied (s : State) : Applied s (requestsApplied s) := by
  have hjob := jobStep_follows s
  obtain ⟨hst, htime, htoggle, heval, happlied, hoff⟩ :=
    (applyK_applied (jobStep s).1 (jobStep s).2.1 (jobStep s).2.2).follows (switching_follows _ _)
  refine ⟨hst.trans hjob.st, htime.trans hjob.time, htoggle.trans ?_, heval.trans ?_, happlied.trans ?_, fun hmode => ?_⟩
  · rw [hjob.saf]
  · rw [hjob.saf]
  · rw [hjob.time]
  · exact hoff (hjob.st ▸ hmode)

/-- What becomes of the job where channel B takes nothing, since no edge follows. -/
def jobWithoutEdge (s : State) : State :=
  match s.saf.job with
  | some j =>
    if j.precharge then { s with saf := { s.saf with job := some { j with now := 0 } } }
    else if j.commit.isSome then jobDone s else s
  | none => s

theorem jobWithoutEdge_follows (s : State) : Follows s (jobWithoutEdge s) := by
  unfold jobWithoutEdge
  split
  · split
    · exact ⟨rfl, rfl, rfl, rfl, rfl, fun _ _ => rfl⟩
    · split
      · exact jobDone_follows s
      · exact .refl s
  · exact .refl s

/-- TOGGLE changes after an evaluation, and its edge is on its way to channel B. -/
def toggled (s : State) : State := { s with saf := { s.saf with toggle := !s.saf.toggle, edgePending := true } }

theorem exec_requestApplication {s : State} (hawake : awake s = true) (hm : s.saf.monitor = true)
    (htick : tickOf s ≤ 350) (hnew : s.saf.applied.map (·.1) ≠ some s.time.beat) :
    exec .requestApplication s = .next
      (if (requestsApplied (atTick 350 (fresh s))).saf.evalBeat = some (requestsApplied (atTick 350 (fresh s))).time.beat
        then toggled (requestsApplied (atTick 350 (fresh s)))
        else jobWithoutEdge (requestsApplied (atTick 350 (fresh s)))) := by
  have htick' : tickOf (fresh s) ≤ 350 := htick
  change execRequestApplication s = _
  unfold execRequestApplication
  extract_lets u v
  rw [if_pos (by simpa [u, hawake, hm, htick'] using hnew)]
  have hw : switching (applyK (jobStep v).1 (jobStep v).2.1) (jobStep v).2.2 = requestsApplied v := rfl
  split
  rename_i jc jo x hx
  rw [hx] at hw
  dsimp only at hw ⊢
  have hv : atTick 350 (fresh s) = v := rfl
  rw [hw, hv, apply_ite Host.Outcome.next]
  refine if_congr Iff.rfl rfl ?_
  rw [jobWithoutEdge]
  cases (requestsApplied v).saf.job <;> rfl

theorem does_requestApplication {s : State} (hawake : awake s = true) (hm : s.saf.monitor = true)
    (htick : tickOf s ≤ 350) (hnew : s.saf.applied.map (·.1) ≠ some s.time.beat) :
    Does .requestApplication s (fun t => tickOf t = 350 ∧ t.saf.applied.map (·.1) = some s.time.beat ∧ t.st = s.st ∧
      (s.saf.evalBeat = some s.time.beat → t.saf.toggle = !s.saf.toggle ∧ t.saf.edgePending = true) ∧
      (s.saf.evalBeat ≠ some s.time.beat → t.saf.toggle = s.saf.toggle) ∧
      (s.st.mode ≠ .run → ∀ k < 4, (getNat t.saf.k k).hs = false ∧ (getNat t.saf.k k).closeReq = false)) := by
  have hexec := exec_requestApplication hawake hm htick hnew
  have happ := requestsApplied_applied (atTick 350 (fresh s))
  generalize requestsApplied (atTick 350 (fresh s)) = u at hexec happ
  have htick350 : ∀ t : State, t.time = u.time → tickOf t = 350 := fun t ht => by
    rw [tickOf, ht, happ.time]
    exact Nat.mul_div_cancel 350 (by decide)
  have hran : u.saf.evalBeat = some u.time.beat ↔ s.saf.evalBeat = some s.time.beat := by
    rw [happ.evalBeat, happ.time]
    exact Iff.rfl
  by_cases heval : s.saf.evalBeat = some s.time.beat
  · refine ⟨toggled u, hexec.trans (congrArg _ (if_pos (hran.mpr heval))), htick350 _ rfl, happ.applied, happ.st,
      fun _ => ⟨congrArg Bool.not happ.toggle, rfl⟩, fun hno => absurd heval hno, happ.off⟩
  · have hdone := happ.follows (jobWithoutEdge_follows u)
    exact ⟨_, hexec.trans (congrArg _ (if_neg (mt hran.mp heval))), htick350 _ (jobWithoutEdge_follows u).time,
      hdone.applied, hdone.st, fun hyes => absurd hyes heval, fun _ => hdone.toggle, hdone.off⟩

/-! ### The TOGGLE edge (R250, R254) -/

/-- An edge that comes alone, 750 µs to 1 250 µs after the one before it, is good (R250). -/
def goodEdge (us : Nat) (x : Saf) : Bool :=
  x.edgeSeen && x.missing == 0 && decide (750 ≤ us) && decide (us ≤ 1250)

theorem goodEdge_iff (us : Nat) (x : Saf) :
    goodEdge us x = true ↔ x.edgeSeen = true ∧ x.missing = 0 ∧ 750 ≤ us ∧ us ≤ 1250 := by
  simp [goodEdge, and_assoc]

/-- Channel B notes an edge. -/
def noteEdge (us : Nat) (s : State) : State :=
  let run := if goodEdge us s.saf then satAdd s.saf.goodRun 1 2 else 0
  { s with saf := { s.saf with edgePending := false, edgeSeen := true, missing := 0, goodRun := run
                               toggleOk := goodEdge us s.saf, noToggle := s.saf.noToggle && decide (run < 2) } }

/-- What channel B judges at an edge: an edge that comes early, the currents, and the inputs. -/
def judgedB (us : Nat) (lsMa : List Nat) (s : State) : State :=
  latchAll .b ((if s.saf.edgeSeen && decide (us < 750) then [(Cause.toggle, 0)] else []) ++
    (evalLs lsMa (noteEdge us s)).2) (discJudge .b (evalLs lsMa (noteEdge us s)).1)

theorem exec_toggleEdge {s : State} (hawake : awake s = true) (hm : s.saf.monitor = true)
    (hedge : s.saf.edgePending = true) (us : Nat) (l : List Nat) :
    exec (.toggleEdge us l) s = .next (switching switchLs (judgedB us l (fresh s))) :=
  if_pos (by simp [hawake, hm, hedge])

theorem evalLs_channelActs (ma : List Nat) (s : State) : ChannelActs s (evalLs ma s).1 := by
  refine ⟨rfl, rfl, List.Subset.refl _, id, id, fun k hk => ?_⟩
  unfold evalLs
  dsimp only
  rw [getNat_mapAll _ _ hk]
  exact ⟨rfl, rfl⟩

theorem judgedB_channelActs (us : Nat) (l : List Nat) (s : State) : ChannelActs (noteEdge us s) (judgedB us l s) :=
  ((evalLs_channelActs l _).trans (discJudge_channelActs ..)).trans (latchAll_channelActs ..)

/-- Channel B has switched LS at an edge: what it knows of edges stands, and each contactor is what the edge makes of it, but
for its open request. -/
structure EdgeSwitched (s t : State) : Prop where
  edges : t.saf.edgePending = s.saf.edgePending ∧ t.saf.edgeSeen = s.saf.edgeSeen ∧ t.saf.missing = s.saf.missing ∧
    t.saf.toggleOk = s.saf.toggleOk
  k : ∀ k < 4, getNat t.saf.k k = { (getNat s.saf.k k).edge (permitB s k (getNat s.saf.k k)) with
    openReq := (getNat t.saf.k k).openReq }

theorem EdgeSwitched.follows {s t u : State} (h : EdgeSwitched s t) (hf : Follows t u) : EdgeSwitched s u := by
  refine ⟨?_, fun k hk => ?_⟩
  · rw [hf.saf]
    exact h.edges
  · have hreq := congrArg (fun c : Contactor => { c with openReq := (getNat u.saf.k k).openReq }) (h.k k hk)
    exact (hf.k k hk).trans hreq

theorem switchLs_edgeSwitched (s : State) : EdgeSwitched s (switchLs s) := by
  unfold switchLs
  extract_lets drives ok refused s₁ x s₂ y
  have hs₂ : EdgeSwitched s s₂ := by
    refine ⟨?_, fun k hk => ?_⟩
    · simp [s₂, x, s₁, allK]
    · have hk' : getNat s₂.saf.k k = (getNat s.saf.k k).edge (ok k (getNat s.saf.k k)) := by
        simp [s₂, x, s₁, allK, getNat_mapAll _ _ hk]
      rw [hk']
  split
  · split
    · exact hs₂.follows (jobFail_follows 7 s₂)
    · split
      · exact hs₂.follows (jobDone_follows s₂)
      · exact hs₂.follows ⟨rfl, rfl, rfl, rfl, rfl, fun _ _ => rfl⟩
  · exact hs₂

/-- Once a channel has latched, channel B permits nothing (R254). -/
theorem permitB_latched {s : State} (h : s.saf.latchA = true ∨ s.saf.latchB = true) (k : Nat) (c : Contactor) :
    permitB s k c = false := by
  rcases h with h | h <;> simp [permitB, h]

theorem edge_without_permit_ls {c : Contactor} (hp : c.pulse ≠ some false) : (c.edge false).ls = false := by
  have hp' : (c.pulse == some false) = false := beq_eq_false_iff_ne.mpr hp
  cases hls : c.ls <;> simp [Contactor.edge, Contactor.offB, hp', hls]

theorem does_toggleEdge {s : State} (hawake : awake s = true) (hm : s.saf.monitor = true)
    (hedge : s.saf.edgePending = true) (us : Nat) (l : List Nat) : Does (.toggleEdge us l) s (fun t =>
      t.saf.edgePending = false ∧ t.saf.edgeSeen = true ∧ t.saf.missing = 0 ∧
      (t.saf.toggleOk = true ↔ s.saf.edgeSeen = true ∧ s.saf.missing = 0 ∧ 750 ≤ us ∧ us ≤ 1250) ∧
      (s.saf.latchA = true ∨ s.saf.latchB = true → ∀ k < 4, (getNat s.saf.k k).pulse ≠ some false →
        (getNat t.saf.k k).ls = false)) := by
  have hacts := judgedB_channelActs us l (fresh s)
  have hswitched := (switchLs_edgeSwitched (judgedB us l (fresh s))).follows (switching_follows switchLs _)
  obtain ⟨hpending, hseen, hmissing, hok⟩ := hswitched.edges
  refine ⟨_, exec_toggleEdge hawake hm hedge us l, hpending.trans ?_, hseen.trans ?_, hmissing.trans ?_, ?_,
    fun hlatched k hk hpulse => ?_⟩
  · rw [hacts.saf]; rfl
  · rw [hacts.saf]; rfl
  · rw [hacts.saf]; rfl
  · rw [hok, hacts.saf]
    exact goodEdge_iff us s.saf
  · have hpulse' : (getNat (judgedB us l (fresh s)).saf.k k).pulse ≠ some false := by
      rw [(hacts.test k hk).1]
      exact hpulse
    rw [hswitched.k k hk, permitB_latched (hlatched.imp hacts.latchA hacts.latchB)]
    exact edge_without_permit_ls hpulse'

/-! ### K_CMD (Table 10-14) -/

theorem accessed_saf (i : Fin 32) (s : State) : (accessed i s).saf = s.saf := modSess_saf ..

theorem does_kCmd {i : Fin 32} {v : Word} {s : State} (h : MayWrite i s) (hm : s.saf.monitor = true) :
    Does (.kCmd i v) s (fun t => t.st = s.st ∧ t.saf = { s.saf with k := t.saf.k } ∧ ∀ k < 4, getNat t.saf.k k =
      { getNat s.saf.k k with openReq := (getNat s.saf.k k).openReq || wBit v k }) := by
  have hw : blockWrite i none .safety 0x010 (keepFresh 0xB010 v (accessed i s)) (accessed i s) =
      (.ok, allK (fun k c => if wBit v k then { c with openReq := true } else c) (accessed i s)) := by
    rw [keepFresh_of_none rfl]
    exact congrArg (Prod.mk RspCode.ok) (if_pos hm)
  refine writes_of_may h (by decide) rfl hw (accessed_outstanding h.1) ⟨accessed_st i s, ?_, fun k hk => ?_⟩
  · rw [put_saf, allK, accessed_saf]
  · rw [put_saf, allK_k, accessed_saf, getNat_mapAll _ _ hk]
    cases wBit v k
    · simp
    · simp

end Sys2Proof.Machine

namespace Sys2Proof

open Sys2Proof.Machine

/-- Settles O38: the evaluation by what its judgements find, the requests by what applying them leaves, and the edge by what
it makes of each contactor. -/
theorem channelsEachBeat : Obligations.ChannelsEachBeat := by
  refine fun s hawake => ⟨fun hm => ⟨fun l b hcopy htick hnew => does_channelAEvaluation hawake hm hcopy htick hnew l,
    fun htick hnew => does_requestApplication hawake hm htick ?notYet,
    fun us l hedge => does_toggleEdge hawake hm hedge us l⟩, ?alive, fun i v h hm => does_kCmd h hm⟩
  case notYet =>
    intro happlied
    obtain ⟨x, hx, hbeat⟩ := Option.map_eq_some_iff.mp happlied
    exact hnew x hx hbeat
  case alive => exact congrArg Host.Outcome.next (if_pos hawake)

end Sys2Proof
end

section
/-! SUPPORT AND PROOFS. The safety inputs with their test pulses, and the off-pulse tests of the contactors (10 R234, R259 to
R262, R264, R266). -/

namespace Sys2Proof.Machine

/-! ### Vectors by an index of their length -/

theorem getNat_fin {α : Type} [Inhabited α] {n : Nat} (v : Vector α n) (i : Fin n) : getNat v i.val = v[i] :=
  getNat_of_lt v i.isLt

theorem updAt_same {α : Type} {n : Nat} (v : Vector α n) (i : Fin n) (f : α → α) : (updAt v i f)[i] = f v[i] := by
  simp [updAt]

theorem modK_same (k : Fin 4) (f : Contactor → Contactor) (s : State) : (modK k.val f s).saf.k[k] = f s.saf.k[k] := by
  rw [← getNat_fin, ← getNat_fin]
  exact getNat_updNat_same _ k.isLt f

theorem modK_other {k j : Fin 4} (h : j ≠ k) (f : Contactor → Contactor) (s : State) :
    (modK k.val f s).saf.k[j] = s.saf.k[j] := by
  rw [← getNat_fin, ← getNat_fin]
  exact getNat_updNat_other _ (fun hv => h (Fin.ext hv)) f

/-! ### An input opens its contactors (R264) -/

/-- What an input makes of a contactor when a channel opens K_MASK. -/
def openedBy (i : Nat) (ch : Chan) (cancel : Bool) (s : State) (k : Nat) (c : Contactor) : Contactor :=
  if masks s i k then
    let c := if cancel then { c with req := false, blocked := true, lockout := true } else c
    match ch with
    | .a => c.offA
    | .b => c.offB
  else c

theorem inputOpens_eq (i : Nat) (ch : Chan) (cancel : Bool) (s : State) :
    inputOpens i ch cancel s = switching (allK (openedBy i ch cancel s)) s := rfl

/-- Beside contactors and the job, an input that opens its contactors leaves what the inputs are judged by. -/
theorem inputOpens_kept (i : Nat) (ch : Chan) (cancel : Bool) (s : State) :
    (inputOpens i ch cancel s).time = s.time ∧ (inputOpens i ch cancel s).sent = s.sent ∧
      (inputOpens i ch cancel s).saf.copyA = s.saf.copyA ∧ (inputOpens i ch cancel s).saf.sin = s.saf.sin := by
  have hf := switching_follows (allK (openedBy i ch cancel s)) s
  rw [inputOpens_eq, hf.time, hf.sent, hf.saf]
  exact ⟨rfl, rfl, rfl, rfl⟩

theorem inputOpens_k {i k : Nat} (ch : Chan) (cancel : Bool) {s : State} (hk : k < 4) :
    getNat (inputOpens i ch cancel s).saf.k k = { openedBy i ch cancel s k (getNat s.saf.k k) with
      openReq := (getNat (inputOpens i ch cancel s).saf.k k).openReq } :=
  switching_allK_k (openedBy i ch cancel s) s hk

section
variable {i k : Nat} {s : State} (hk : k < 4) (hmask : masks s i k = true)
include hk hmask

theorem inputOpens_a_hs (cancel : Bool) : (getNat (inputOpens i .a cancel s).saf.k k).hs = false := by
  rw [inputOpens_k _ _ hk, openedBy, if_pos hmask]
  rfl

theorem inputOpens_b_ls (cancel : Bool) : (getNat (inputOpens i .b cancel s).saf.k k).ls = false := by
  rw [inputOpens_k _ _ hk, openedBy, if_pos hmask]
  rfl

theorem inputOpens_cancel_req (ch : Chan) : (getNat (inputOpens i ch true s).saf.k k).req = false := by
  rw [inputOpens_k _ _ hk, openedBy, if_pos hmask]
  cases ch <;> rfl

end

/-! ### A pin changes, and the other channel follows (R264) -/

/-- A pin's filtered level. -/
def pinSet (i : Fin 4) (pinB level : Bool) (s : State) : State :=
  { s with saf := { s.saf with sin := updAt s.saf.sin i fun x =>
      if pinB then { x with pinB := level } else { x with pinA := level } } }

/-- A pin asks, and its channel judges. -/
def pinAsks (i : Fin 4) (pinB : Bool) (s : State) : Bool := s.saf.monitor && if pinB then asksB s i.val else asksA s i.val

/-- A pin changed, with what follows where it asks. -/
def pinChanged (i : Fin 4) (pinB level : Bool) (s : State) : State :=
  if pinAsks i pinB (pinSet i pinB level s) then inputOpens i (if pinB then .b else .a) true (pinSet i pinB level s)
  else pinSet i pinB level s

theorem exec_safetyInputChange {s : State} (hawake : awake s = true) (i : Fin 4) (pinB level : Bool) :
    exec (.safetyInputChange i pinB level) s = .next (pinChanged i pinB level (fresh s)) :=
  if_pos hawake

theorem pinChanged_kept (i : Fin 4) (pinB level : Bool) (s : State) : (pinChanged i pinB level s).st = s.st ∧
    (pinChanged i pinB level s).saf.sin = (pinSet i pinB level s).saf.sin := by
  unfold pinChanged
  split
  · exact ⟨inputOpens_st .., (inputOpens_kept ..).2.2.2⟩
  · exact ⟨rfl, rfl⟩

theorem pinSet_pinA (i : Fin 4) (level : Bool) (s : State) :
    (getNat (pinSet i false level s).saf.sin i).pinA = level := by
  rw [getNat_fin]
  exact congrArg SafeIn.pinA (updAt_same ..)

theorem pinSet_pinB (i : Fin 4) (level : Bool) (s : State) :
    (getNat (pinSet i true level s).saf.sin i).pinB = level := by
  rw [getNat_fin]
  exact congrArg SafeIn.pinB (updAt_same ..)

/-- Whatever a pin asks, the pin changes and STATE stays. -/
theorem does_safetyInputChange {s : State} (hawake : awake s = true) (i : Fin 4) (b lv : Bool) :
    Does (.safetyInputChange i b lv) s (fun t => t.st = s.st ∧
      (b = true → t.saf.sin[i].pinB = lv ∧ t.saf.sin[i].pinA = s.saf.sin[i].pinA) ∧
      (b = false → t.saf.sin[i].pinA = lv ∧ t.saf.sin[i].pinB = s.saf.sin[i].pinB)) := by
  obtain ⟨hst, hsin⟩ := pinChanged_kept i b lv (fresh s)
  have hpin : (pinChanged i b lv (fresh s)).saf.sin[i] = if b then { s.saf.sin[i] with pinB := lv } else { s.saf.sin[i] with pinA := lv } :=
    (congrArg (fun v : Vector SafeIn 4 => v[i]) hsin).trans (updAt_same ..)
  refine ⟨_, exec_safetyInputChange hawake i b lv, hst, ?_⟩
  rw [hpin]
  constructor
  · rintro rfl
    exact ⟨rfl, rfl⟩
  · rintro rfl
    exact ⟨rfl, rfl⟩

/-- A pin A that asks opens its contactors in channel A and cancels what asks to close them. -/
theorem does_pinA_asks {s : State} (hawake : awake s = true) (hm : s.saf.monitor = true) {i : Fin 4}
    (hmode : (sinCfg s i.val).mode = 1 ∨ (sinCfg s i.val).mode = 2) :
    Does (.safetyInputChange i false false) s (fun t =>
      ∀ k < 4, masks s i.val k = true → (getNat t.saf.k k).hs = false ∧ (getNat t.saf.k k).req = false) := by
  have hcfg : sinCfg (pinSet i false false (fresh s)) i = sinCfg s i := rfl
  have hasks : asksA (pinSet i false false (fresh s)) i = true := by
    rw [asksA, pinSet_pinA, hcfg]
    rcases hmode with h | h <;> rw [h] <;> rfl
  have hopens : pinChanged i false false (fresh s) = inputOpens i .a true (pinSet i false false (fresh s)) :=
    if_pos (Bool.and_eq_true_iff.mpr ⟨hm, hasks⟩)
  refine ⟨_, (exec_safetyInputChange hawake i false false).trans (congrArg _ hopens), fun k hk hmask => ?_⟩
  exact ⟨inputOpens_a_hs (s := pinSet i false false (fresh s)) hk hmask true,
    inputOpens_cancel_req (s := pinSet i false false (fresh s)) hk hmask .a⟩

/-- The same of pin B in channel B, at the level at which it asks. -/
theorem does_pinB_asks {s : State} (hawake : awake s = true) (hm : s.saf.monitor = true) {i : Fin 4} {level : Bool}
    (hasks : asksB (pinSet i true level (fresh s)) i = true) :
    Does (.safetyInputChange i true level) s (fun t =>
      ∀ k < 4, masks s i.val k = true → (getNat t.saf.k k).ls = false ∧ (getNat t.saf.k k).req = false) := by
  have hopens : pinChanged i true level (fresh s) = inputOpens i .b true (pinSet i true level (fresh s)) :=
    if_pos (Bool.and_eq_true_iff.mpr ⟨hm, hasks⟩)
  refine ⟨_, (exec_safetyInputChange hawake i true level).trans (congrArg _ hopens), fun k hk hmask => ?_⟩
  exact ⟨inputOpens_b_ls (s := pinSet i true level (fresh s)) hk hmask true,
    inputOpens_cancel_req (s := pinSet i true level (fresh s)) hk hmask .b⟩

theorem asksB_pinSet_low {s : State} {i : Fin 4} (h : (sinCfgB s i.val).mode = 1) :
    asksB (pinSet i true false s) i = true := by
  have hcfg : (sinCfgB (pinSet i true false s) i).mode = 1 := h
  rw [asksB, hcfg, pinSet_pinB]
  rfl

theorem asksB_pinSet_high {s : State} {i : Fin 4} (h : (sinCfgB s i.val).mode = 2) :
    asksB (pinSet i true true s) i = true := by
  have hcfg : (sinCfgB (pinSet i true true s) i).mode = 2 := h
  rw [asksB, hcfg, pinSet_pinB]
  rfl

theorem does_pinFollow_a {s : State} (hawake : awake s = true) (hm : s.saf.monitor = true) {i : Fin 4}
    (hasks : asksB s i.val = true) : Does (.pinFollow i false) s (fun t => t.st = s.st ∧
      ∀ k < 4, masks s i.val k = true → (getNat t.saf.k k).hs = false) := by
  have hasks' : asksB (fresh s) i.val = true := hasks
  exact does_of_choice rfl (by simp [hawake, hm, hasks'])
    ⟨inputOpens_st .., fun k hk hmask => inputOpens_a_hs (s := fresh s) hk hmask true⟩

theorem does_pinFollow_b {s : State} (hawake : awake s = true) (hm : s.saf.monitor = true) {i : Fin 4}
    (hasks : asksA s i.val = true) : Does (.pinFollow i true) s (fun t => t.st = s.st ∧
      ∀ k < 4, masks s i.val k = true → (getNat t.saf.k k).ls = false) := by
  have hasks' : asksA (fresh s) i.val = true := hasks
  exact does_of_choice rfl (by simp [hawake, hm, hasks'])
    ⟨inputOpens_st .., fun k hk hmask => inputOpens_b_ls (s := fresh s) hk hmask true⟩

/-! ### Test pulses (R266) -/

/-- A TP_FAULT that a channel sets is recorded and opens the channel's switches. -/
def pulseNote (tp : Fin 2) (i : Nat) (ch : Chan) (sets : Bool) (s : State) : State :=
  if sets then inputOpens i ch false (recEvent 0x23 ch.num [toW i, beatLo s, toW tp.val, 0] s) else s

/-- What both channels judge of a pulse at an input. -/
def putPulse (i : Nat) (a b : SafeCh) (s : State) : State :=
  { s with saf := { s.saf with sin := updNat s.saf.sin i (fun x => { x with a := a, b := b }) } }

/-- Both channels judge an input under a test pulse, and note what they set. -/
def pulseStep (tp : Fin 2) (l : List Nat) (s : State) (i : Nat) : State :=
  if (sinCfg s i).mode != 0 && (sinCfg s i).test == tp.val + 1 then
    let x := getNat s.saf.sin i
    let a := judgePulse x.pinA ((l[2 * i]?).getD 0) x.a
    let b := judgePulse x.pinB ((l[2 * i + 1]?).getD 0) x.b
    pulseNote tp i .b b.2 (pulseNote tp i .a a.2 (putPulse i a.1 b.1 s))
  else s

/-- What the judgement of the other inputs leaves as it was. -/
structure PulseKept (s t : State) : Prop where
  st : t.st = s.st
  time : t.time = s.time
  sent : t.sent = s.sent
  copyA : t.saf.copyA = s.saf.copyA

theorem PulseKept.trans {s t u : State} (h : PulseKept s t) (h' : PulseKept t u) : PulseKept s u :=
  ⟨h'.st.trans h.st, h'.time.trans h.time, h'.sent.trans h.sent, h'.copyA.trans h.copyA⟩

theorem pulseNote_kept (tp : Fin 2) (i : Nat) (ch : Chan) (sets : Bool) (s : State) :
    PulseKept s (pulseNote tp i ch sets s) := by
  unfold pulseNote
  split
  · obtain ⟨htime, hsent, hcopy, -⟩ :=
      inputOpens_kept i ch false (recEvent 0x23 ch.num [toW i, beatLo s, toW tp.val, 0] s)
    exact ⟨inputOpens_st .., htime, hsent, hcopy⟩
  · exact ⟨rfl, rfl, rfl, rfl⟩

theorem pulseNote_sin (tp : Fin 2) (i : Nat) (ch : Chan) (sets : Bool) (s : State) :
    (pulseNote tp i ch sets s).saf.sin = s.saf.sin := by
  unfold pulseNote
  split
  · exact (inputOpens_kept ..).2.2.2
  · rfl

theorem pulseStep_kept (tp : Fin 2) (l : List Nat) (s : State) (i : Nat) : PulseKept s (pulseStep tp l s i) := by
  unfold pulseStep
  split
  · refine .trans (.trans ?_ (pulseNote_kept ..)) (pulseNote_kept ..)
    exact ⟨rfl, rfl, rfl, rfl⟩
  · exact ⟨rfl, rfl, rfl, rfl⟩

theorem pulseStep_sin_other (tp : Fin 2) (l : List Nat) (s : State) {i j : Nat} (h : i ≠ j) :
    getNat (pulseStep tp l s j).saf.sin i = getNat s.saf.sin i := by
  unfold pulseStep
  split
  · dsimp only
    rw [pulseNote_sin, pulseNote_sin]
    exact getNat_updNat_other _ h _
  · rfl

theorem pulseStep_sin_same {tp : Fin 2} {s : State} {i : Nat} (hi : i < 4) (hmode : (sinCfg s i).mode ≠ 0)
    (htest : (sinCfg s i).test = tp.val + 1) (l : List Nat) : (getNat (pulseStep tp l s i).saf.sin i).a =
      (judgePulse (getNat s.saf.sin i).pinA ((l[2 * i]?).getD 0) (getNat s.saf.sin i).a).1 := by
  unfold pulseStep
  rw [if_pos (by simp [hmode, htest])]
  dsimp only
  rw [pulseNote_sin, pulseNote_sin]
  exact congrArg SafeIn.a (getNat_updNat_same _ hi _)

theorem foldl_pulseStep_kept (tp : Fin 2) (l : List Nat) (is : List Nat) (s : State) :
    PulseKept s (is.foldl (pulseStep tp l) s) :=
  List.foldlRecOn (motive := PulseKept s) is _ ⟨rfl, rfl, rfl, rfl⟩ fun t ht i _ => ht.trans (pulseStep_kept tp l t i)

/-- After the pulse channel A's half of an input that the pulse tests is what its judgement of the pulse made of it. -/
theorem foldl_pulseStep_sin {tp : Fin 2} {s : State} {i : Nat} (hi : i < 4) (hmode : (sinCfg s i).mode ≠ 0)
    (htest : (sinCfg s i).test = tp.val + 1) (l : List Nat) :
    (getNat ((List.range 4).foldl (pulseStep tp l) s).saf.sin i).a =
      (judgePulse (getNat s.saf.sin i).pinA ((l[2 * i]?).getD 0) (getNat s.saf.sin i).a).1 := by
  refine foldl_once (I := fun t => sinCfg t i = sinCfg s i ∧ getNat t.saf.sin i = getNat s.saf.sin i)
    (P := fun t => (getNat t.saf.sin i).a =
      (judgePulse (getNat s.saf.sin i).pinA ((l[2 * i]?).getD 0) (getNat s.saf.sin i).a).1)
    (fun t j hj ⟨hcfg, hsin⟩ => ⟨?_, (pulseStep_sin_other tp l t (Ne.symm hj)).trans hsin⟩) (fun t ⟨hcfg, hsin⟩ => ?_)
    (fun t j hj ht => ?_) (List.mem_range.mpr hi) List.nodup_range ⟨rfl, rfl⟩
  · rw [← hcfg, sinCfg, sinCfg, (pulseStep_kept tp l t j).copyA]
  · rw [pulseStep_sin_same hi (by rwa [hcfg]) (by rwa [hcfg]), hsin]
  · rw [pulseStep_sin_other tp l t (Ne.symm hj)]
    exact ht

theorem judgePulse_seen {lows : Nat} (h : 2 ≤ lows) (x : SafeCh) : (judgePulse true lows x).1.tpMiss = 0 := by
  simp [judgePulse, h]

theorem judgePulse_missed {lows : Nat} (h : lows < 2) (x : SafeCh) :
    (judgePulse true lows x).1.tpMiss = min 255 (x.tpMiss + 1) ∧
      (1 ≤ x.tpMiss → (judgePulse true lows x).1.tpFault = true) := by
  have hnot : ¬ 2 ≤ lows := Nat.not_le.mpr h
  refine ⟨by simp [judgePulse, hnot, satAdd], fun hsecond => ?_⟩
  cases hfault : x.tpFault <;> simp [judgePulse, hnot, hsecond, hfault]

/-- The state in which the inputs judge a pulse: it has left, at tick 100. -/
def pulseSent (tp : Fin 2) (s : State) : State := put (.tpPulse tp.val) (actAt (.testPulse tp.val) 100 (fresh s))

theorem exec_testPulse {tp : Fin 2} {s : State} (hawake : awake s = true) (hm : s.saf.monitor = true)
    (hbeat : s.time.beat % 100 = 25 + 50 * tp.val) (htick : tickOf s ≤ 100) (hturn : hadTurn (.testPulse tp.val) s = false)
    (l : List Nat) : exec (.testPulse tp l) s = .next ((List.range 4).foldl (pulseStep tp l) (pulseSent tp s)) := by
  have hmay : mayAct (.testPulse tp.val) 100 (fresh s) = true := (mayAct_iff ..).mpr ⟨htick, hturn⟩
  exact if_pos (by simp [hawake, hm, hbeat, hmay])

theorem does_testPulse {tp : Fin 2} {s : State} (hawake : awake s = true) (hm : s.saf.monitor = true)
    (hbeat : s.time.beat % 100 = 25 + 50 * tp.val) (htick : tickOf s ≤ 100) (hturn : hadTurn (.testPulse tp.val) s = false)
    (l : List Nat) : Does (.testPulse tp l) s (fun t => t.sent = [.tpPulse tp.val] ∧ tickOf t = 100 ∧ t.st = s.st ∧
      ∀ i < 4, (sinCfg s i).mode ≠ 0 → (sinCfg s i).test = tp.val + 1 → (getNat s.saf.sin i).pinA = true →
        (2 ≤ (l[2 * i]?).getD 0 → (getNat t.saf.sin i).a.tpMiss = 0) ∧
        ((l[2 * i]?).getD 0 < 2 → (getNat t.saf.sin i).a.tpMiss = min 255 ((getNat s.saf.sin i).a.tpMiss + 1) ∧
          (1 ≤ (getNat s.saf.sin i).a.tpMiss → (getNat t.saf.sin i).a.tpFault = true))) := by
  obtain ⟨hst, htime, hsent, -⟩ := foldl_pulseStep_kept tp l (List.range 4) (pulseSent tp s)
  refine ⟨_, exec_testPulse hawake hm hbeat htick hturn l, hsent, ?_, hst, fun i hi hmode htest hpin => ?_⟩
  · exact (congrArg (fun x : Time => x.ns / 2500) htime).trans (tickOf_actAt (.testPulse tp.val) 100 (fresh s))
  · have hpin' : (getNat (pulseSent tp s).saf.sin i).pinA = true := hpin
    rw [foldl_pulseStep_sin (s := pulseSent tp s) hi hmode htest, hpin']
    exact ⟨fun h => judgePulse_seen h _, fun h => judgePulse_missed h _⟩

/-! ### The slot of a contactor test (R259, R261) -/

/-- A slot whose test is postponed; at the eighth in a row the test is overdue. -/
def Contactor.postpone (beat : Nat) (c : Contactor) : Contactor :=
  { c with postponed := satAdd c.postponed 1 15, slotBeat := some beat
           overdue := c.overdue || (decide (8 ≤ satAdd c.postponed 1 15) && !c.overdue) }

/-- A slot whose test begins: LS by asking channel B, HS at once. -/
def Contactor.beginTest (beat : Nat) (c : Contactor) : Contactor :=
  if c.nextLs then { c with slotBeat := some beat, lsTest := true }
  else { c with slotBeat := some beat, pulse := some true, pulseOpened := false, hs := false }

theorem postpone_overdue {c : Contactor} (h : 7 ≤ c.postponed) (beat : Nat) : (c.postpone beat).overdue = true := by
  have h8 : 8 ≤ satAdd c.postponed 1 15 := by
    unfold satAdd
    omega
  cases hover : c.overdue <;> simp [Contactor.postpone, hover, h8]

theorem beginTest_ls (beat : Nat) (c : Contactor) : (c.beginTest beat).ls = c.ls := by
  unfold Contactor.beginTest
  split <;> rfl

theorem beginTest_of_hs {c : Contactor} (h : c.nextLs = false) (beat : Nat) :
    (c.beginTest beat).hs = false ∧ (c.beginTest beat).pulse = some true := by
  simp [Contactor.beginTest, h]

theorem beginTest_of_ls {c : Contactor} (h : c.nextLs = true) (beat : Nat) :
    (c.beginTest beat).hs = c.hs ∧ (c.beginTest beat).pulse = c.pulse ∧ (c.beginTest beat).lsTest = true := by
  simp [Contactor.beginTest, h]

/-- A slot in which the test of a contactor falls due: it was closed as tick 350 began, no pulse of it runs, and the slot has
not been taken. -/
structure SlotDue (k : Fin 4) (s : State) : Prop where
  awake : awake s = true
  monitor : s.saf.monitor = true
  beat : s.time.beat % 1000 = 100 + 200 * k.val
  tick : tickOf s ≤ 350
  closed : testable s k.val = true
  pulse : s.saf.k[k].pulse = none
  slot : s.saf.k[k].slotBeat ≠ some s.time.beat

/-- The test of a slot is postponed: a request for the contactor falls at this tick, or the LS test that is next has no edge
to come (R261). -/
def postpones (k : Fin 4) (s : State) : Bool :=
  requestedNow (atTick 350 s) k.val || (s.saf.k[k].nextLs && !edgeAhead s)

theorem SlotDue.guard {k : Fin 4} {s : State} (h : SlotDue k s) :
    (Sys2Proof.Machine.awake (fresh s) && (fresh s).saf.monitor &&
      decide ((fresh s).time.beat % 1000 = 100 + 200 * k.val) && decide (tickOf (fresh s) ≤ 350) &&
      testable (fresh s) k.val && (fresh s).saf.k[k].pulse.isNone &&
      (fresh s).saf.k[k].slotBeat != some (fresh s).time.beat) = true := by
  simp only [Bool.and_eq_true, decide_eq_true_eq, bne_iff_ne]
  exact ⟨⟨⟨⟨⟨⟨h.awake, h.monitor⟩, h.beat⟩, h.tick⟩, h.closed⟩, Option.isNone_iff_eq_none.mpr h.pulse⟩, h.slot⟩

/-- What the job asks for at a tick 350 depends on the safety functions and the time. -/
theorem jobStep_asks {s t : State} (hsaf : t.saf = s.saf) (htime : t.time = s.time) :
    (jobStep t).1 = (jobStep s).1 ∧ (jobStep t).2.1 = (jobStep s).2.1 := by
  unfold jobStep absTick kPre kMain
  rw [hsaf, htime]
  cases s.saf.job with
  | none => exact ⟨rfl, rfl⟩
  | some j =>
    dsimp only
    (repeat' split) <;> exact ⟨rfl, rfl⟩

theorem postpones_fresh (k : Fin 4) (s : State) : postpones k (fresh s) = postpones k s := by
  obtain ⟨hclose, hopen⟩ := jobStep_asks (s := atTick 350 s) (t := atTick 350 (fresh s)) rfl rfl
  have hrequested : requestedNow (atTick 350 (fresh s)) k.val = requestedNow (atTick 350 s) k.val := by
    unfold requestedNow
    dsimp only
    rw [hclose, hopen]
    rfl
  rw [postpones, postpones, hrequested]
  rfl

theorem does_offPulseTest_postponed {k : Fin 4} {s : State} (h : SlotDue k s) (hp : postpones k s = true) :
    Does (.offPulseTest k) s (fun t => t.saf.k[k].postponed = min 15 (s.saf.k[k].postponed + 1) ∧
      t.saf.k[k].hs = s.saf.k[k].hs ∧ t.saf.k[k].ls = s.saf.k[k].ls ∧ t.saf.k[k].pulse = none ∧
      (7 ≤ s.saf.k[k].postponed → t.saf.k[k].overdue = true) ∧ t.st = s.st) := by
  change ∃ t, execOffPulseTest k s = .next t ∧ _
  unfold execOffPulseTest
  extract_lets u c v n sets w
  have hpost : (requestedNow v k.val || (c.nextLs && !edgeAhead v)) = true := (postpones_fresh k s).trans hp
  rw [if_pos h.guard, if_pos hpost]
  have hw : w.saf.k[k] = s.saf.k[k].postpone s.time.beat := modK_same k _ v
  generalize ht : (if sets = true then _ else w : State) = t
  obtain ⟨hst, hsaf⟩ : t.st = s.st ∧ t.saf = w.saf := by
    rw [← ht]
    split <;> exact ⟨rfl, rfl⟩
  refine ⟨t, rfl, ?_⟩
  rw [hsaf, hw]
  exact ⟨rfl, rfl, rfl, h.pulse, fun h7 => postpone_overdue h7 _, hst⟩

theorem does_offPulseTest_begun {k : Fin 4} {s : State} (h : SlotDue k s) (hp : postpones k s = false)
    (hhs : s.saf.k[k].hs = true) (hls : s.saf.k[k].ls = true) : Does (.offPulseTest k) s (fun t =>
      t.saf.k[k].ls = true ∧
      (s.saf.k[k].nextLs = false → t.saf.k[k].hs = false ∧ t.saf.k[k].pulse = some true) ∧
      (s.saf.k[k].nextLs = true → t.saf.k[k].hs = true ∧ t.saf.k[k].pulse = none ∧ t.saf.k[k].lsTest = true) ∧
      (∀ j : Fin 4, j ≠ k → t.saf.k[j] = s.saf.k[j]) ∧ tickOf t = 350 ∧ t.st = s.st) := by
  have hexec : exec (.offPulseTest k) s =
      .next (modK k.val (Contactor.beginTest s.time.beat) (atTick 350 (fresh s))) := by
    change execOffPulseTest k s = _
    unfold execOffPulseTest
    extract_lets u c v n sets w
    have hnot : ¬ (requestedNow v k.val || (c.nextLs && !edgeAhead v)) = true := fun hv =>
      Bool.false_ne_true (((postpones_fresh k s).trans hp).symm.trans hv)
    have hon : ¬ (!(c.hs && c.ls)) = true := by
      rw [show c.hs = true from hhs, show c.ls = true from hls]
      decide
    rw [if_pos h.guard, if_neg hnot, if_neg hon]
    rfl
  have hk := modK_same k (Contactor.beginTest s.time.beat) (atTick 350 (fresh s))
  refine ⟨_, hexec, ?_⟩
  dsimp only
  rw [hk]
  refine ⟨(beginTest_ls ..).trans hls, fun hnext => beginTest_of_hs hnext _, fun hnext => ?_,
    fun j hj => modK_other hj _ _, Nat.mul_div_cancel 350 (by decide), rfl⟩
  obtain ⟨hhs', hpulse, hlsTest⟩ := beginTest_of_ls hnext s.time.beat
  exact ⟨hhs'.trans hhs, hpulse.trans h.pulse, hlsTest⟩

/-! ### LS_TEST at the edge (R260) -/

theorem edge_lsTest (ok : Bool) (c : Contactor) : (c.edge ok).lsTest = false := by
  unfold Contactor.edge
  split
  · rfl
  · split
    · rfl
    · split <;> rfl

/-- A pulse that the edge begins is one that LS_TEST asked for. -/
theorem edge_begins_pulse {ok : Bool} {c : Contactor} (hnone : c.pulse = none) (hp : (c.edge ok).pulse = some false) :
    c.lsTest = true ∧ (c.edge ok).ls = false := by
  by_cases htest : ok = true ∧ c.lsTest = true ∧ c.ls = true
  · obtain ⟨rfl, hlsTest, hls⟩ := htest
    refine ⟨hlsTest, ?_⟩
    simp [Contactor.edge, hnone, hlsTest, hls]
  · exfalso
    have hstays : (c.edge ok).pulse = c.pulse := by
      have hnot : ¬ (c.lsTest && c.ls && c.pulse.isNone) = true ∨ ok = false := by
        cases ok <;> simp_all
      unfold Contactor.edge
      split
      · rfl
      · split
        · split <;> rfl
        next hok => rw [if_neg (hnot.resolve_right (by simpa using hok))]
    simp [hstays, hnone] at hp

theorem does_toggleEdge_tests {s : State} (hawake : awake s = true) (hm : s.saf.monitor = true)
    (hedge : s.saf.edgePending = true) (us : Nat) (l : List Nat) (k : Fin 4) : Does (.toggleEdge us l) s (fun t =>
      t.saf.k[k].lsTest = false ∧
      (s.saf.k[k].pulse = none → t.saf.k[k].pulse = some false → s.saf.k[k].lsTest = true ∧ t.saf.k[k].ls = false)) := by
  have hswitched := (switchLs_edgeSwitched (judgedB us l (fresh s))).follows (switching_follows switchLs _)
  obtain ⟨hpulse, hlsTest⟩ := (judgedB_channelActs us l (fresh s)).test k.val k.isLt
  have hk := hswitched.k k.val k.isLt
  have hbefore : getNat (noteEdge us (fresh s)).saf.k k.val = s.saf.k[k] := getNat_fin ..
  rw [hbefore] at hpulse hlsTest
  rw [getNat_fin (switching switchLs (judgedB us l (fresh s))).saf.k k] at hk
  refine ⟨_, exec_toggleEdge hawake hm hedge us l, ?_⟩
  dsimp only
  rw [hk, ← hpulse, ← hlsTest]
  exact ⟨edge_lsTest .., fun hnone hp => edge_begins_pulse hnone hp⟩

/-! ### The end of a pulse (R260, R262) -/

/-- The switch under test may come on again: its channel still permits the contactor. -/
def mayReturn (b : Bool) (k : Fin 4) (s : State) : Bool :=
  if b then permitBase s && s.saf.k[k].req && !holdA s k.val else permitB s k.val s.saf.k[k]

/-- The pulse of a contactor has ended, with what follows from an opening. -/
def pulseEnded (b : Bool) (ma : Nat) (k : Fin 4) (s : State) : State :=
  switching (modK k.val (Contactor.pulseEnd b (decide (ma < 50))
    (decide (ma < 50) && !s.saf.k[k].pulseOpened && mayReturn b k s))) s

theorem pulseEnded_follows (b : Bool) (ma : Nat) (k : Fin 4) (s : State) :
    Follows (modK k.val (Contactor.pulseEnd b (decide (ma < 50))
      (decide (ma < 50) && !s.saf.k[k].pulseOpened && mayReturn b k s)) s) (pulseEnded b ma k s) :=
  switching_follows ..

theorem pulseEnded_k (b : Bool) (ma : Nat) (k : Fin 4) (s : State) : (pulseEnded b ma k s).saf.k[k] =
    { Contactor.pulseEnd b (decide (ma < 50)) (decide (ma < 50) && !s.saf.k[k].pulseOpened && mayReturn b k s)
        s.saf.k[k] with openReq := (pulseEnded b ma k s).saf.k[k].openReq } := by
  have hk := (pulseEnded_follows b ma k s).k k.val k.isLt
  rw [getNat_fin, getNat_fin, modK_same] at hk
  exact hk

theorem exec_offPulseEnd {k : Fin 4} {b : Bool} {s : State} (hm : s.saf.monitor = true)
    (hp : s.saf.k[k].pulse = some b) (ma : Nat) : exec (.offPulseEnd k ma) s = .next
      (if decide (ma < 50) then pulseEnded b ma k (fresh s)
       else if b then latch .a .testHs k.val (pulseEnded b ma k (fresh s))
       else latch .b .testLs k.val (pulseEnded b ma k (fresh s))) := by
  have hmonitor : ¬ (!(fresh s).saf.monitor) = true := by simp [hm]
  change execOffPulseEnd k ma s = _
  unfold execOffPulseEnd
  extract_lets u c pass
  split
  next hnone => exact absurd (hnone.symm.trans hp) (by simp)
  next hsSide hside =>
    obtain rfl : hsSide = b := Option.some.inj (hside.symm.trans hp)
    exact if_neg hmonitor

theorem does_offPulseEnd_passes {k : Fin 4} {b : Bool} {s : State} (hm : s.saf.monitor = true)
    (hp : s.saf.k[k].pulse = some b) {ma : Nat} (hma : ma < 50) : Does (.offPulseEnd k ma) s (fun t =>
      t.saf.k[k].pulse = none ∧ t.saf.k[k].lastPass = true ∧ t.saf.k[k].nextLs = b ∧ t.saf.k[k].postponed = 0 ∧
      t.saf.k[k].overdue = false ∧
      t.saf.k[k].hs = (s.saf.k[k].hs || (b && !s.saf.k[k].pulseOpened && mayReturn b k s)) ∧
      t.saf.k[k].ls = (s.saf.k[k].ls || (!b && !s.saf.k[k].pulseOpened && mayReturn b k s)) ∧ t.st = s.st) := by
  have hpass : decide (ma < 50) = true := decide_eq_true hma
  have hmay : mayReturn b k (fresh s) = mayReturn b k s := rfl
  refine ⟨_, (exec_offPulseEnd hm hp ma).trans (congrArg _ (if_pos hpass)), ?_⟩
  dsimp only
  rw [pulseEnded_k, hpass, hmay]
  simp only [Contactor.pulseEnd, if_true, Bool.true_and, Bool.not_true, Bool.and_false, Bool.and_assoc, true_and]
  exact ⟨rfl, rfl, (pulseEnded_follows b ma k (fresh s)).st⟩

/-- A pulse that does not pass latches the cause of its side. -/
theorem pulseEnded_latches {ch : Chan} {c : Cause} {s : State} (hm : s.saf.monitor = true)
    (hnew : (ch, c) ∉ s.saf.latched) (b : Bool) (ma : Nat) (k : Fin 4) :
    LatchedNow ch c s (latch ch c k.val (pulseEnded b ma k (fresh s))) := by
  have hf := pulseEnded_follows b ma k (fresh s)
  refine latch_latchedNow hf.st ?_ ?_ k.val
  · rw [hf.saf]
    exact hm
  · rw [hf.saf]
    exact hnew

end Sys2Proof.Machine

namespace Sys2Proof

open Sys2Proof.Machine

/-- Settles O39: the inputs by what one that asks opens and by what a pulse makes of each, and the tests by their slot, the
edge and the end of their pulse. -/
theorem safetyInputsAndTests : Obligations.SafetyInputsAndTests := by
  refine ⟨fun s hawake => ⟨does_safetyInputChange hawake, fun hm i => ⟨does_pinA_asks hawake hm,
      fun hmode => does_pinB_asks hawake hm (asksB_pinSet_low hmode),
      fun hmode => does_pinB_asks hawake hm (asksB_pinSet_high hmode), does_pinFollow_a hawake hm,
      does_pinFollow_b hawake hm⟩,
    fun tp l hm hbeat htick hturn => does_testPulse hawake hm hbeat htick hturn l⟩,
    fun k s hm => ⟨fun hawake hbeat htick hclosed hpulse hslot => ?slot, fun us l hawake hedge =>
      does_toggleEdge_tests hawake hm hedge us l k, fun b ma hp => ⟨does_offPulseEnd_passes hm hp, ?hs, ?ls⟩⟩⟩
  case slot =>
    have hdue : SlotDue k s := ⟨hawake, hm, hbeat, htick, hclosed, hpulse, hslot⟩
    exact ⟨does_offPulseTest_postponed hdue, does_offPulseTest_begun hdue⟩
  case hs =>
    rintro hma rfl hnew
    exact ⟨_, (exec_offPulseEnd hm hp ma).trans (congrArg _ (if_neg (by simpa using hma))),
      pulseEnded_latches hm hnew true ma k⟩
  case ls =>
    rintro hma rfl hnew
    exact ⟨_, (exec_offPulseEnd hm hp ma).trans (congrArg _ (if_neg (by simpa using hma))),
      pulseEnded_latches hm hnew false ma k⟩

end Sys2Proof
end

section
/-! SUPPORT AND PROOFS. The job table's acts: START, ABORT and CLEAR of a slot, and the precharge job from its commit point to
its end (10 R255 to R258; 13 R330 to R332). -/

namespace Sys2Proof.Machine

/-! ### Slots -/

theorem jobAt_fin (s : State) (j : Fin 8) : jobAt s j.val = s.host.jobs[j] := getNat_fin ..

theorem modJob_same (j : Fin 8) (f : Job → Job) (s : State) : (modJob j.val f s).host.jobs[j] = f s.host.jobs[j] := by
  rw [← jobAt_fin, ← jobAt_fin]
  exact getNat_updNat_same _ j.isLt f

theorem modJob_other {j m : Fin 8} (h : m ≠ j) (f : Job → Job) (s : State) :
    (modJob j.val f s).host.jobs[m] = s.host.jobs[m] := by
  rw [← jobAt_fin, ← jobAt_fin]
  exact getNat_updNat_other _ (fun hv => h (Fin.ext hv)) f

/-! ### A write of JOBj_CTRL (Table 13-14) -/

theorem jobCtrl_not_w1c (j : Fin 8) : w1cTable.findIdx? (fun r => r.1 == 0x2040 + 0x20 * j.val) = none := by
  fin_cases j <;> rfl

theorem blockOf_jobCtrl (j : Fin 8) : blockOf (0x2040 + 0x20 * j.val) = some (.jobs, 0x40 + 0x20 * j.val) := by
  fin_cases j <;> rfl

theorem jobsWrite_ctrl (i : Fin 32) (j : Fin 8) (v : Word) (s : State) :
    jobsWrite i (0x40 + 0x20 * j.val) v s = jobCtrlWrite i j v s := by
  fin_cases j <;> rfl

/-- The response to a write of JOBj_CTRL. -/
def jobRsp (i : Fin 32) (j : Fin 8) (c : RspCode) : Rsp := directRsp i 4 c (0x2040 + 0x20 * j.val) []

/-- A single write of JOBj_CTRL, where its meaning is known and leaves the sessions alone. -/
theorem writeCmd_jobCtrl {i : Fin 32} {j : Fin 8} {v : Word} {s x : State} {c : RspCode} {P : State → Prop}
    (h : MayWrite i s) (hw : jobCtrlWrite i j v (accessed i s) = (c, x))
    (hsess : x.host.sess = (accessed i s).host.sess) (hp : P (put (.rsp (jobRsp i j c)) x)) :
    ∃ t, writeCmd i (0x2040 + 0x20 * j.val) v s = .next t ∧ P t := by
  refine writes_of_may h (by omega) (blockOf_jobCtrl j) (c := c) (x := x) ?_ ?_ hp
  · rw [keepFresh_of_none (jobCtrl_not_w1c j)]
    exact (jobsWrite_ctrl i j v _).trans hw
  · rw [hsess]
    exact accessed_outstanding h.1

/-- A word of JOBj_CTRL that starts a job of a KIND and does nothing else. -/
structure StartWord (v : Word) (kind : Nat) : Prop where
  start : wBit v 31 = true
  abort : wBit v 30 = false
  clear : wBit v 29 = false
  kind : wBits v 7 0 = kind

theorem startWord_of_kind (kind : Nat) : StartWord (b31 ||| toW (fld kind 0 8)) (kind % 256) := by
  have hlt : kind % 256 < 2 ^ 31 := by omega
  have hword : (toW (fld kind 0 8)).toNat = kind % 256 := by
    simp only [toW, fld, BitVec.toNat_ofNat]
    omega
  have hv : (b31 ||| toW (fld kind 0 8)).toNat = 2 ^ 31 + kind % 256 := by
    rw [BitVec.toNat_or, hword]
    exact (Nat.two_pow_add_eq_or_of_lt hlt 1).symm
  refine ⟨?_, ?_, ?_, ?_⟩
  · rw [wBit, hv, Nat.testBit_eq_decide_div_mod_eq, decide_eq_true_iff]
    omega
  · rw [wBit, hv, Nat.testBit_eq_decide_div_mod_eq, decide_eq_false_iff_not]
    omega
  · rw [wBit, hv, Nat.testBit_eq_decide_div_mod_eq, decide_eq_false_iff_not]
    omega
  · rw [wBits, bitsOf, hv]
    omega

theorem jobCtrlWrite_start {v : Word} {kind : Nat} (h : StartWord v kind) (i : Fin 32) (j : Fin 8) (s : State) :
    jobCtrlWrite i j v s = if (jobStartWrite i j kind s).1 ≠ .ok then ((jobStartWrite i j kind s).1, s)
      else (.ok, (jobStartWrite i j kind s).2) := by
  obtain ⟨h31, h30, h29, rfl⟩ := h
  simp [jobCtrlWrite, h31, h30, h29]

theorem jobCtrlWrite_abort (i : Fin 32) (j : Fin 8) (s : State) :
    jobCtrlWrite i j b30 s = (.ok, abortJob j.val s) := rfl

theorem jobCtrlWrite_clear (i : Fin 32) (j : Fin 8) (s : State) :
    jobCtrlWrite i j b29 s = if (jobClearWrite j.val s).1 = .ok then jobClearWrite j.val s
      else ((jobClearWrite j.val s).1, s) := rfl

/-! ### START (R330) -/

/-- A START in a slot that is not IDLE is refused as a write. -/
theorem does_start_taken {c : Instr} {i : Fin 32} {j : Fin 8} {v : Word} {kind : Nat} {s : State}
    (hexec : exec c s = writeCmd i (0x2040 + 0x20 * j.val) v s) (hv : StartWord v kind) (h : MayWrite i s)
    (hst : s.host.jobs[j].st ≠ .idle) : Does c s (fun t => t.host.jobs = s.host.jobs ∧ t.saf = s.saf ∧ t.st = s.st ∧
      said t = [directRsp i 4 .access (0x2040 + 0x20 * j.val) []]) := by
  have hw : jobCtrlWrite i j v (accessed i s) = (.access, accessed i s) := by
    have hstart : jobStartWrite i j kind (accessed i s) = (.access, accessed i s) := if_neg hst
    rw [jobCtrlWrite_start hv, hstart]
    rfl
  rw [Does, hexec]
  exact writeCmd_jobCtrl h hw rfl ⟨rfl, accessed_saf i s, accessed_st i s, said_put_accessed ..⟩

/-- A START in an IDLE slot, by what the KIND's start makes of it. -/
theorem does_start_idle {c : Instr} {i : Fin 32} {j : Fin 8} {v : Word} {kind : Nat} {s x : State} {P : State → Prop}
    (hexec : exec c s = writeCmd i (0x2040 + 0x20 * j.val) v s) (hv : StartWord v kind) (h : MayWrite i s)
    (hst : s.host.jobs[j].st = .idle) (hkind : jobStartKind i j kind (accessed i s) = (.ok, x))
    (hsess : x.host.sess = (accessed i s).host.sess) (hp : P (put (.rsp (jobRsp i j .ok)) x)) : Does c s P := by
  have hw : jobCtrlWrite i j v (accessed i s) = (.ok, x) := by
    have hstart : jobStartWrite i j kind (accessed i s) = (.ok, x) := (if_pos hst).trans hkind
    rw [jobCtrlWrite_start hv, hstart]
    rfl
  rw [Does, hexec]
  exact writeCmd_jobCtrl h hw hsess hp

theorem jobRefuse_slot (i : Fin 32) (j : Fin 8) (kind d : Nat) (s : State) :
    (jobRefuse i j.val kind d s).host.jobs[j].st = .refused ∧ (jobRefuse i j.val kind d s).host.jobs[j].detail = d ∧
      (jobRefuse i j.val kind d s).host.jobs[j].kind = kind := by
  rw [jobRefuse, modJob_same]
  exact ⟨rfl, rfl, rfl⟩

theorem contactorStart_refused {j : Fin 8} {kind d : Nat} {s : State} (h : contactorDetail j.val kind s = some d)
    (i : Fin 32) : contactorStart i j kind s = jobRefuse i j.val kind d s := by
  simp only [contactorStart, h]

/-- A contactor job starts: its slot runs it, and what no demand holds may be closed anew (R264). -/
structure ContactorStarted (i : Fin 32) (j : Fin 8) (kind : Nat) (s t : State) : Prop where
  slot : t.host.jobs[j].st = .running ∧ t.host.jobs[j].kind = kind ∧ t.host.jobs[j].session = i.val ∧
    t.host.jobs[j].start = s.time.beat
  job : ∃ x, t.saf.job = some x ∧ x.slot = j ∧ x.precharge = (kind == 1) ∧ x.commit = none
  k : ∀ k < 4, getNat t.saf.k k = { getNat s.saf.k k with lockout := (getNat s.saf.k k).lockout && demanded s k }
  st : t.st = s.st
  sess : t.host.sess = s.host.sess

theorem contactorStart_started {j : Fin 8} {kind : Nat} {s : State} (h : contactorDetail j.val kind s = none)
    (i : Fin 32) : ContactorStarted i j kind s (contactorStart i j kind s) := by
  simp only [contactorStart, h]
  refine ⟨?_, ⟨_, rfl, rfl, rfl, rfl⟩, fun k hk => getNat_mapAll _ _ hk, rfl, rfl⟩
  rw [jobStart, modJob_same]
  exact ⟨rfl, rfl, rfl, rfl⟩

/-- A START of PRECHARGE or CLOSE_MAIN by its slot and its conditions. -/
theorem does_contactorStart {c : Instr} {i : Fin 32} {j : Fin 8} {v : Word} {kind : Nat} {s : State}
    (hexec : exec c s = writeCmd i (0x2040 + 0x20 * j.val) v s) (hv : StartWord v kind) (hk : kind = 1 ∨ kind = 2)
    (h : MayWrite i s) :
    (s.host.jobs[j].st = .idle → contactorDetail j.val kind s = none → Does c s (fun t =>
      t.host.jobs[j].st = .running ∧ t.host.jobs[j].kind = kind ∧ t.host.jobs[j].session = i.val ∧
      t.host.jobs[j].start = s.time.beat ∧
      (∃ x, t.saf.job = some x ∧ x.slot = j ∧ x.precharge = (kind == 1) ∧ x.commit = none) ∧
      (∀ k < 4, getNat t.saf.k k =
        { getNat s.saf.k k with lockout := (getNat s.saf.k k).lockout && demanded s k }) ∧ t.st = s.st)) ∧
    (∀ d, s.host.jobs[j].st = .idle → contactorDetail j.val kind s = some d → Does c s (fun t =>
      t.host.jobs[j].st = .refused ∧ t.host.jobs[j].detail = d ∧ t.saf = s.saf ∧ t.st = s.st)) ∧
    (s.host.jobs[j].st ≠ .idle → Does c s (fun t => t.host.jobs = s.host.jobs ∧ t.saf = s.saf ∧ t.st = s.st ∧
      said t = [directRsp i 4 .access (0x2040 + 0x20 * j.val) []])) := by
  have hkind : jobStartKind i j kind (accessed i s) = (.ok, contactorStart i j kind (accessed i s)) := by
    rcases hk with rfl | rfl <;> rfl
  have hdetail : contactorDetail j.val kind (accessed i s) = contactorDetail j.val kind s := rfl
  refine ⟨fun hst hnone => ?_, fun d hst hd => ?_, does_start_taken hexec hv h⟩
  · obtain ⟨⟨hrun, hkind', hsession, hstart⟩, hjob, hcontactors, hst', hsess⟩ :=
      contactorStart_started (hdetail.trans hnone) i
    exact does_start_idle hexec hv h hst hkind hsess ⟨hrun, hkind', hsession, hstart, hjob, hcontactors, hst'⟩
  · rw [contactorStart_refused (hdetail.trans hd)] at hkind
    obtain ⟨hrefused, hdetail', -⟩ := jobRefuse_slot i j kind d (accessed i s)
    exact does_start_idle hexec hv h hst hkind rfl ⟨hrefused, hdetail', accessed_saf i s, accessed_st i s⟩

theorem jobStartKind_reserved {kind : Nat} (h : kindOk kind = false) (i : Fin 32) (j : Fin 8) (s : State) :
    jobStartKind i j kind s = (.ok, jobRefuse i j.val kind 8 s) := by
  unfold jobStartKind
  split
  case h_6 => rfl
  all_goals simp [kindOk] at h

theorem does_reservedKindStart {i : Fin 32} {j : Fin 8} {kind : Nat} {s : State} (h : MayWrite i s)
    (hst : s.host.jobs[j].st = .idle) (hkind : kindOk (kind % 256) = false) :
    Does (.reservedKindStart i j kind) s (fun t => t.host.jobs[j].st = .refused ∧ t.host.jobs[j].detail = 8 ∧
      t.host.jobs[j].kind = kind % 256 ∧ t.saf = s.saf ∧ t.st = s.st) := by
  obtain ⟨hrefused, hdetail, hkind'⟩ := jobRefuse_slot i j (kind % 256) 8 (accessed i s)
  exact does_start_idle rfl (startWord_of_kind kind) h hst (jobStartKind_reserved hkind i j _) rfl
    ⟨hrefused, hdetail, hkind', accessed_saf i s, accessed_st i s⟩

/-! ### The precharge job at tick 350 (R255, R256) -/

theorem jobDone_ends {x : JobRun} {s : State} (h : s.saf.job = some x) : (jobDone s).saf.job = none ∧
    (jobDone s).host.jobs[x.slot].st = .completed ∧ (jobDone s).saf.k = s.saf.k := by
  simp only [jobDone, h]
  exact ⟨rfl, congrArg Job.st (modJob_same ..), rfl⟩

theorem jobFail_ends {x : JobRun} {s : State} (h : s.saf.job = some x) (d : Nat) : (jobFail d s).saf.job = none ∧
    (jobFail d s).host.jobs[x.slot].st = .failed ∧ (jobFail d s).host.jobs[x.slot].detail = d := by
  simp only [jobFail, h]
  exact ⟨rfl, congrArg Job.st (modJob_same ..), congrArg Job.detail (modJob_same ..)⟩

/-- K_PRE is asked to open. -/
def preOpens (s : State) : State := allK (fun k c => if (kPre s).testBit k then { c with openReq := true } else c) s

theorem preOpens_k {s : State} {k : Nat} (hk : k < 4) : getNat (preOpens s).saf.k k =
    { getNat s.saf.k k with openReq := (getNat s.saf.k k).openReq || (kPre s).testBit k } := by
  refine (getNat_mapAll _ _ hk).trans ?_
  cases (kPre s).testBit k <;> simp

/-- No commit point has come within PRE_TMAX. -/
def preTimedOut (s : State) : State := setAgain 0xB000 (2 ^ 8) { s with saf := { s.saf with preTimeout := true } }

/-- The commit point of a job whose abort was not asked for: what is left of K_MAIN is asked to close. -/
def prechargeCommitted (x : JobRun) (s : State) : State :=
  let u := jobCommitted x.slot.val s
  let rest := kMain s &&& (15 ^^^ x.first)
  { u with saf := { u.saf with job := some { x with
      commit := some s.time.beat, asked := x.asked ||| rest, now := rest } } }

section
variable {x : JobRun} {b : SafetyBlock} {s : State} (hawake : awake s = true) (hbefore : beforeRequests s = true)
  (hjob : s.saf.job = some x) (hpre : x.precharge = true)
include hawake hbefore hjob hpre

theorem exec_prechargeCommit (hcopy : s.saf.copyA = some b) {s₀ c : Nat} (hs : x.s = some s₀) (hcommit : x.commit = none)
    (hc : x.cBeat = some c) (habort : x.abortAt = none) (hdue : c ≤ s.time.beat) (htmax : s.time.beat ≤ s₀ + b.preTmax) :
    exec .prechargeCommit s = .next (prechargeCommitted x (atTick 350 (fresh s))) := by
  have hbefore' : beforeRequests (fresh s) = true := hbefore
  change execPrechargeCommit s = _
  simp only [execPrechargeCommit, fresh_saf, hjob, hcopy, hpre, hs, hcommit, hc, habort]
  rw [if_pos (by simp [hawake, hbefore', hdue, htmax])]
  simp only [prechargeCommitted, hpre, hs, hc, habort]
  rfl

theorem does_prechargeCommit (hcopy : s.saf.copyA = some b) {s₀ c : Nat} (hs : x.s = some s₀) (hcommit : x.commit = none)
    (hc : x.cBeat = some c) (habort : x.abortAt = none) (hdue : c ≤ s.time.beat) (htmax : s.time.beat ≤ s₀ + b.preTmax) :
    Does .prechargeCommit s (fun t => tickOf t = 350 ∧ t.host.jobs[x.slot].committed = true ∧
      t.host.jobs[x.slot].commit = s.time.beat ∧ (t.saf.job.bind (·.commit)) = some s.time.beat ∧ t.saf.k = s.saf.k ∧
      t.st = s.st) := by
  have hslot := modJob_same x.slot (fun y => { y with committed := true, commit := s.time.beat }) (atTick 350 (fresh s))
  exact ⟨_, exec_prechargeCommit hawake hbefore hjob hpre hcopy hs hcommit hc habort hdue htmax,
    Nat.mul_div_cancel 350 (by decide), congrArg Job.committed hslot, congrArg Job.commit hslot, rfl, rfl, rfl⟩

theorem does_prechargeEnd {c : Nat} (hcommit : x.commit = some c) (hdue : c + 20 ≤ s.time.beat) :
    Does .prechargeEnd s (fun t => tickOf t = 350 ∧ t.saf.job = none ∧ t.host.jobs[x.slot].st = .completed ∧
      t.st = s.st ∧ ∀ k < 4, getNat t.saf.k k =
        { getNat s.saf.k k with openReq := (getNat s.saf.k k).openReq || (kPre s).testBit k }) := by
  have hbefore' : beforeRequests (fresh s) = true := hbefore
  have hexec : exec .prechargeEnd s = .next (jobDone (preOpens (atTick 350 (fresh s)))) := by
    change execPrechargeEnd s = _
    simp only [execPrechargeEnd, fresh_saf, hjob, hpre, hcommit]
    exact if_pos (by simp [hawake, hbefore', hdue])
  have hf := jobDone_follows (preOpens (atTick 350 (fresh s)))
  obtain ⟨hnone, hended, hk⟩ := jobDone_ends (s := preOpens (atTick 350 (fresh s))) hjob
  refine ⟨_, hexec, ?_, hnone, hended, hf.st, fun k h4 => ?_⟩
  · rw [tickOf, hf.time]
    exact Nat.mul_div_cancel 350 (by decide)
  · rw [hk]
    exact preOpens_k (s := atTick 350 (fresh s)) h4

theorem does_prechargeTimeout (hcopy : s.saf.copyA = some b) {s₀ : Nat} (hs : x.s = some s₀) (hcommit : x.commit = none)
    (habort : x.abortAt = none) (hlate : s₀ + b.preTmax + 1 ≤ s.time.beat) :
    Does .prechargeTimeout s (fun t => tickOf t = 350 ∧ t.saf.job = none ∧ t.saf.preTimeout = true ∧
      t.host.jobs[x.slot].st = .failed ∧ t.host.jobs[x.slot].detail = 5 ∧ t.st = s.st) := by
  have hbefore' : beforeRequests (fresh s) = true := hbefore
  have hexec : exec .prechargeTimeout s = .next (jobFail 5 (preTimedOut (atTick 350 (fresh s)))) := by
    change execPrechargeTimeout s = _
    simp only [execPrechargeTimeout, fresh_saf, hjob, hcopy, hpre, hs, hcommit, habort]
    exact if_pos (by simp [hawake, hbefore', hlate])
  have hf := jobFail_follows 5 (preTimedOut (atTick 350 (fresh s)))
  obtain ⟨hnone, hended, hdetail⟩ := jobFail_ends (s := preTimedOut (atTick 350 (fresh s))) hjob 5
  refine ⟨_, hexec, ?_, hnone, ?_, hended, hdetail, hf.st⟩
  · rw [tickOf, hf.time]
    exact Nat.mul_div_cancel 350 (by decide)
  · rw [hf.saf]
    rfl

end

/-! ### ABORT and CLEAR (R331, R332) -/

/-- An ABORT of a slot, by what it makes of the state of the access. -/
theorem does_jobAbort {i : Fin 32} {j : Fin 8} {s x : State} {P : State → Prop} (h : MayWrite i s)
    (habort : abortJob j.val (accessed i s) = x) (hsess : x.host.sess = (accessed i s).host.sess)
    (hp : P (put (.rsp (jobRsp i j .ok)) x)) : Does (.jobAbort i j) s P :=
  writeCmd_jobCtrl h ((jobCtrlWrite_abort ..).trans (congrArg (Prod.mk RspCode.ok) habort)) hsess hp

/-- The trigger of an ACTIVATE that is aborted is disarmed. -/
def disarmActivate (s : State) : State :=
  { s with time := { s.time with trg := updNat s.time.trg 3 (fun t => { t with arm := false }) } }

section
variable {j : Fin 8} {s : State} (hrun : s.host.jobs[j].st = .running)
include hrun

theorem abortJob_contactor (hkind : s.host.jobs[j].kind = 1 ∨ s.host.jobs[j].kind = 2) :
    abortJob j.val s = contactorAbort s := by
  simp only [abortJob, jobAt_fin, hrun]
  exact if_pos hkind

/-- The tick in which an ACTIVATE's trigger fires: the firing comes before the ABORT (16 Table 16-12, log 15). -/
theorem abortJob_firing (hfiring : s.host.jobs[j].kind = 0x12 ∧ tickOf s = 0 ∧ trigDue 3 s = true) :
    abortJob j.val s = s := by
  have hkind : ¬ (s.host.jobs[j].kind = 1 ∨ s.host.jobs[j].kind = 2) := by
    rw [hfiring.1]
    decide
  simp only [abortJob, jobAt_fin, hrun]
  exact (if_neg hkind).trans (if_pos hfiring)

variable (h1 : s.host.jobs[j].kind ≠ 1) (h2 : s.host.jobs[j].kind ≠ 2)
  (hfiring : ¬ (s.host.jobs[j].kind = 0x12 ∧ tickOf s = 0 ∧ trigDue 3 s = true))
include h1 h2 hfiring

theorem abortJob_late (hcommitted : s.host.jobs[j].committed = true) :
    abortJob j.val s = modJob j.val (fun y => { y with abortLate := true }) s := by
  simp only [abortJob, jobAt_fin, hrun]
  exact (if_neg (not_or.mpr ⟨h1, h2⟩)).trans ((if_neg hfiring).trans (if_pos hcommitted))

theorem abortJob_uncommitted (hcommitted : s.host.jobs[j].committed = false) : abortJob j.val s =
    if s.host.jobs[j].kind = 0x12 then disarmActivate (jobEnd j.val .aborted 0 s) else jobEnd j.val .aborted 0 s := by
  simp only [abortJob, jobAt_fin, hrun]
  exact (if_neg (not_or.mpr ⟨h1, h2⟩)).trans ((if_neg hfiring).trans
    (if_neg fun h => Bool.false_ne_true (hcommitted.symm.trans h)))

/-- An abort before the commit point ends the job, and nothing of the safety functions changes. -/
theorem abortJob_ends (hcommitted : s.host.jobs[j].committed = false) :
    (abortJob j.val s).host.jobs[j].st = .aborted ∧ (abortJob j.val s).host.sess = s.host.sess ∧
      (abortJob j.val s).saf = s.saf ∧ (abortJob j.val s).st = s.st := by
  have hended : (jobEnd j.val .aborted 0 s).host.jobs[j].st = .aborted := congrArg Job.st (modJob_same ..)
  rw [abortJob_uncommitted hrun h1 h2 hfiring hcommitted]
  split
  · exact ⟨hended, rfl, rfl, rfl⟩
  · exact ⟨hended, rfl, rfl, rfl⟩

end

theorem abortJob_completed {j : Fin 8} {s : State} (h : s.host.jobs[j].st = .completed) :
    abortJob j.val s = modJob j.val (fun y => { y with abortLate := true }) s := by
  simp only [abortJob, jobAt_fin, h]

theorem abortJob_idle {j : Fin 8} {s : State} (h : s.host.jobs[j].st = .idle) : abortJob j.val s = s := by
  simp only [abortJob, jobAt_fin, h]

/-- An ABORT of a contactor job before its commit point: it is latched in its tick. -/
def abortLatched (r : JobRun) (s : State) : State :=
  modJob r.slot.val (fun x => { x with abortReq := true })
    { s with saf := { s.saf with job := some { r with abortAt := some (r.abortAt.getD (absTick s)) } } }

theorem contactorAbort_before {r : JobRun} {s : State} (hjob : s.saf.job = some r) (hcommit : r.commit = none) :
    contactorAbort s = abortLatched r s := by
  simp only [contactorAbort, hjob]
  exact if_neg (by simp [hcommit])

theorem contactorAbort_after {r : JobRun} {c : Nat} {s : State} (hjob : s.saf.job = some r) (hcommit : r.commit = some c) :
    contactorAbort s = modJob r.slot.val (fun x => { x with abortLate := true }) s := by
  simp only [contactorAbort, hjob]
  exact if_pos (by simp [hcommit])

/-- A slot in which ABORT comes too late, whatever its job is. -/
theorem does_jobAbort_late {i : Fin 32} {j : Fin 8} {s : State} (h : MayWrite i s)
    (habort : abortJob j.val (accessed i s) = modJob j.val (fun y => { y with abortLate := true }) (accessed i s)) :
    Does (.jobAbort i j) s (fun t => t.host.jobs[j] = { s.host.jobs[j] with abortLate := true } ∧ t.saf = s.saf ∧
      t.st = s.st) :=
  does_jobAbort h habort rfl ⟨modJob_same .., accessed_saf i s, accessed_st i s⟩

theorem does_jobAbort_none {i : Fin 32} {j : Fin 8} {s : State} (h : MayWrite i s)
    (habort : abortJob j.val (accessed i s) = accessed i s) :
    Does (.jobAbort i j) s (fun t => t.host.jobs = s.host.jobs ∧ t.saf = s.saf ∧ t.time.trg = s.time.trg ∧ t.st = s.st) :=
  does_jobAbort h habort rfl ⟨rfl, accessed_saf i s, rfl, accessed_st i s⟩

theorem jobClearWrite_ended {j : Fin 8} {s : State} (hrun : s.host.jobs[j].st ≠ .running)
    (hidle : s.host.jobs[j].st ≠ .idle) :
    jobClearWrite j.val s = (.ok, modJob j.val (fun x => { (default : Job) with arg := x.arg }) s) := by
  unfold jobClearWrite
  rw [jobAt_fin]
  split
  next h => exact absurd h hrun
  next h => exact absurd h hidle
  next => rfl

theorem does_jobClear_ended {i : Fin 32} {j : Fin 8} {s : State} (h : MayWrite i s)
    (hrun : s.host.jobs[j].st ≠ .running) (hidle : s.host.jobs[j].st ≠ .idle) : Does (.jobClear i j) s (fun t =>
      t.host.jobs[j] = { (default : Job) with arg := s.host.jobs[j].arg } ∧
      (∀ m : Fin 8, m ≠ j → t.host.jobs[m] = s.host.jobs[m]) ∧ t.saf = s.saf ∧ t.st = s.st) := by
  have hclear : jobCtrlWrite i j b29 (accessed i s) =
      (.ok, modJob j.val (fun x => { (default : Job) with arg := x.arg }) (accessed i s)) := by
    rw [jobCtrlWrite_clear, jobClearWrite_ended (s := accessed i s) hrun hidle]
    rfl
  exact writeCmd_jobCtrl h hclear rfl
    ⟨modJob_same .., fun m hm => modJob_other hm .., accessed_saf i s, accessed_st i s⟩

theorem does_jobClear_running {i : Fin 32} {j : Fin 8} {s : State} (h : MayWrite i s)
    (hrun : s.host.jobs[j].st = .running) : Does (.jobClear i j) s (fun t => t.host.jobs = s.host.jobs ∧
      t.saf = s.saf ∧ said t = [directRsp i 4 .access (0x2040 + 0x20 * j.val) []]) := by
  have hrun' : (jobAt (accessed i s) j.val).st = .running := (congrArg Job.st (jobAt_fin ..)).trans hrun
  have hclear : jobCtrlWrite i j b29 (accessed i s) = (.access, accessed i s) := by
    rw [jobCtrlWrite_clear, jobClearWrite, hrun']
    rfl
  exact writeCmd_jobCtrl h hclear rfl ⟨rfl, accessed_saf i s, said_put_accessed ..⟩

end Sys2Proof.Machine

namespace Sys2Proof

open Sys2Proof.Machine

/-- Settles O40: each act on a slot by what the write of its word makes of the slot, and the precharge job by its three
steps at tick 350. -/
theorem jobs : Obligations.Jobs := by
  refine ⟨⟨fun i j s h => ?starts, fun x b s hawake hbefore hjob hcopy hpre =>
    ⟨fun s₀ c => does_prechargeCommit hawake hbefore hjob hpre hcopy,
      fun c => does_prechargeEnd hawake hbefore hjob hpre,
      fun s₀ => does_prechargeTimeout hawake hbefore hjob hpre hcopy⟩⟩, fun i j s h => ?acts⟩
  case starts =>
    have h1 : StartWord (b31 ||| 0x01) 1 := startWord_of_kind 1
    have h2 : StartWord (b31 ||| 0x02) 2 := startWord_of_kind 2
    exact ⟨does_contactorStart rfl h1 (.inl rfl) h, does_contactorStart rfl h2 (.inr rfl) h⟩
  case acts =>
    refine ⟨fun r hrun hkind hjob hslot hcommit => ?latched, fun r c hrun hkind hjob hslot hcommit => ?contactorLate,
      fun hrun hfiring => does_jobAbort_none h (abortJob_firing (s := accessed i s) hrun hfiring),
      fun hrun h1 h2 hnot hcommitted => ?ends,
      fun hrun h1 h2 hnot hcommitted => does_jobAbort_late h (abortJob_late (s := accessed i s) hrun h1 h2 hnot hcommitted),
      fun hst => ?completed, fun hst => ?idle, does_jobClear_ended h, does_jobClear_running h,
      fun kind => does_reservedKindStart h⟩
    case latched =>
      subst hslot
      have habort := (abortJob_contactor (s := accessed i s) hrun hkind).trans
        (contactorAbort_before (s := accessed i s) hjob hcommit)
      exact does_jobAbort h habort rfl ⟨modJob_same .., rfl, accessed_st i s⟩
    case contactorLate =>
      subst hslot
      exact does_jobAbort_late h ((abortJob_contactor (s := accessed i s) hrun hkind).trans
        (contactorAbort_after (s := accessed i s) hjob hcommit))
    case ends =>
      obtain ⟨hended, hsess, hsaf, hst⟩ := abortJob_ends (s := accessed i s) hrun h1 h2 hnot hcommitted
      exact does_jobAbort h rfl hsess ⟨hended, hsaf.trans (accessed_saf i s), hst⟩
    case completed =>
      obtain ⟨t, hexec, hslot, hsaf, -⟩ := does_jobAbort_late h (abortJob_completed (s := accessed i s) hst)
      exact ⟨t, hexec, hslot, hsaf⟩
    case idle =>
      obtain ⟨t, hexec, hslots, hsaf, -⟩ := does_jobAbort_none h (abortJob_idle (s := accessed i s) hst)
      exact ⟨t, hexec, hslots, hsaf⟩

end Sys2Proof
end

section
/-! SUPPORT AND PROOFS. The registers of the logic engine (11 R277, R289, R292, Table 11-14), and CLR_COUNTS of the chain (04
Table 04-17). -/

namespace Sys2Proof.Machine

/-! ### Words written to a register without W1C bits -/

/-- Register a is the word at offset o of block b, and holds no W1C bits. -/
structure PlainReg (a : Nat) (b : Blk) (o : Nat) : Prop where
  aligned : a % 4 = 0
  block : blockOf a = some (b, o)
  not_w1c : w1cTable.findIdx? (fun r => r.1 == a) = none

theorem plainReg_lgCtrl : PlainReg 0xC004 .logic 0x004 := ⟨rfl, rfl, rfl⟩

theorem plainReg_varWr : PlainReg 0xC018 .logic 0x018 := ⟨rfl, rfl, rfl⟩

theorem plainReg_chCtrl : PlainReg 0x7004 .chain 0x004 := ⟨rfl, rfl, rfl⟩

theorem plainReg_forceSel (f : Fin 32) : PlainReg (0xC100 + 8 * f.val) .logic (0x100 + 8 * f.val) := by
  constructor
  · omega
  · fin_cases f <;> rfl
  · fin_cases f <;> rfl

/-- A single write of such a register, where its meaning is known and leaves the host's state alone. -/
theorem writeCmd_plain {i : Fin 32} {s x : State} {P : State → Prop} {a o : Nat} {b : Blk} {v : Word} {c : RspCode}
    (h : MayWrite i s) (hreg : PlainReg a b o) (hw : blockWrite i none b o v (accessed i s) = (c, x))
    (hx : x.host = (accessed i s).host) (hp : P (put (.rsp (directRsp i 4 c a [])) x)) :
    ∃ t, writeCmd i a v s = .next t ∧ P t := by
  refine writes_of_may h hreg.aligned hreg.block (c := c) (x := x) ?_ ?_ hp
  · rw [keepFresh_of_none hreg.not_w1c]
    exact hw
  · rw [hx]
    exact accessed_outstanding h.1

/-- The same in the logic engine's block, where the write leaves all but that block, the marks and the journal alone. -/
theorem writeCmd_logic {i : Fin 32} {s x : State} {a o : Nat} {v : Word} {c : RspCode} (h : MayWrite i s)
    (hreg : PlainReg a .logic o) (hw : lgWrite i o v (accessed i s) = (c, x)) (hhost : x.host = (accessed i s).host)
    (hst : x.st = (accessed i s).st) (hsaf : x.saf = (accessed i s).saf) (hsent : x.sent = (accessed i s).sent) :
    ∃ t, writeCmd i a v s = .next t ∧ t.lg = x.lg ∧ t.st = s.st ∧ t.saf = s.saf ∧ said t = [directRsp i 4 c a []] := by
  refine writeCmd_plain h hreg hw hhost ⟨put_lg .., hst.trans (accessed_st i s), hsaf.trans (accessed_saf i s), ?_⟩
  rw [said, put_sent, hsent]
  rfl

/-- The session of a single access, with its idle time 0. -/
theorem accessed_sess (i : Fin 32) (s : State) : (accessed i s).host.sess[i] = { s.host.sess[i] with idle := 0 } :=
  modSess_sess_self ..

theorem accessed_crown (i : Fin 32) (s : State) : (accessed i s).host.sess[i].crown = s.host.sess[i].crown :=
  (congrArg Session.crown (accessed_sess i s)).trans rfl

theorem accessed_varSel (i : Fin 32) (s : State) : (accessed i s).host.sess[i].varSel = s.host.sess[i].varSel :=
  (congrArg Session.varSel (accessed_sess i s)).trans rfl

/-! ### The bits of a word beside its bit 31 -/

theorem wBits_congr {v w : Word} {hi lo : Nat} (hbits : ∀ k, k ≤ hi → wBit w k = wBit v k) (hlo : lo ≤ hi) :
    wBits w hi lo = wBits v hi lo := by
  refine Nat.eq_of_testBit_eq fun j => ?_
  simp only [wBits, bitsOf, Nat.testBit_mod_two_pow, Nat.testBit_div_two_pow]
  by_cases hj : j < hi - lo + 1
  · have hk : w.toNat.testBit (j + lo) = v.toNat.testBit (j + lo) := hbits (j + lo) (by omega)
    rw [hk]
  · simp [hj]

theorem wBit_and_low31 (v : Word) (k : Nat) : wBit (v &&& 0x7FFFFFFF) k = (wBit v k && decide (k < 31)) := by
  have hmask : (0x7FFFFFFF : Nat).testBit k = decide (k < 31) := by
    rw [show (0x7FFFFFFF : Nat) = 2 ^ 31 - 1 from rfl, Nat.testBit_two_pow_sub_one]
  simp [wBit, Nat.testBit_and, hmask]

/-! ### Forces (R289, Table 11-14) -/

/-- The force that a word of FORCEf_SEL names, with a value. -/
def namedForce (on : Bool) (v val : Word) : Force :=
  { enable := on, word := wBit v 30, area := wBits v 23 20, index := wBits v 19 0, val := val }

theorem namedForce_congr {v w : Word} (h : ∀ k, k < 31 → wBit w k = wBit v k) (on : Bool) (val : Word) :
    namedForce on w val = namedForce on v val := by
  rw [namedForce, namedForce, h 30 (by decide), wBits_congr (fun k hk => h k (by omega)) (by decide),
    wBits_congr (fun k hk => h k (by omega)) (by decide)]

@[simp] theorem clean_enable (x : Force) : x.clean.enable = x.enable := by
  unfold Force.clean
  split <;> rfl

/-- Of a force that is off, the value stays whole. -/
theorem clean_of_off {x : Force} (h : x.enable = false) : x.clean = x := by
  simp [Force.clean, h]

/-- A session may enable a force: in a crown session, on areas I and Q, and not where it closes a contactor. -/
def mayForce (i : Fin 32) (x : Force) (s : State) : Bool :=
  s.host.sess[i].crown && (x.area == 1 || x.area == 2) && !x.closes

theorem mayForce_iff (i : Fin 32) (x : Force) (s : State) : mayForce i x s = true ↔
    s.host.sess[i].crown = true ∧ (x.area = 1 ∨ x.area = 2) ∧ x.closes = false := by
  simp [mayForce, and_assoc]

/-- A force is refused. -/
def forceDenied (s : State) : State := setAgain 0xC000 (2 ^ 7) (modLg (fun y => { y with forceRefused := true }) s)

theorem forceSelWrite_eq (i f : Fin 32) (v : Word) (s : State) : forceSelWrite i f.val v s =
    let x := (namedForce (wBit v 31) v s.lg.forces[f].val).clean
    if x.enable && !mayForce i x s then (.access, forceDenied s) else (.ok, putForce i f.val x s) := by
  simp only [forceSelWrite, namedForce, mayForce, forceDenied, getNat_fin, bne, Bool.not_and, Bool.not_or, Bool.not_not]

theorem forceSelWrite_enable (i f : Fin 32) (v : Word) (s : State) : forceSelWrite i f.val (v ||| b31) s =
    let x := (namedForce true v s.lg.forces[f].val).clean
    if mayForce i x s then (.ok, putForce i f.val x s) else (.access, forceDenied s) := by
  have hnamed : namedForce true (v ||| b31) s.lg.forces[f].val = namedForce true v s.lg.forces[f].val :=
    namedForce_congr (fun k hk => wBit_or_b31_of_lt v hk) ..
  have hon : (namedForce true v s.lg.forces[f].val).clean.enable = true := clean_enable _
  rw [forceSelWrite_eq, wBit_or_b31, hnamed]
  simp only [hon, Bool.true_and]
  cases mayForce i (namedForce true v s.lg.forces[f].val).clean s <;> rfl

theorem forceSelWrite_clear (i f : Fin 32) (v : Word) (s : State) : forceSelWrite i f.val (v &&& 0x7FFFFFFF) s =
    (.ok, putForce i f.val (namedForce false v s.lg.forces[f].val) s) := by
  have hnamed : namedForce false (v &&& 0x7FFFFFFF) s.lg.forces[f].val = namedForce false v s.lg.forces[f].val :=
    namedForce_congr (fun k hk => by rw [wBit_and_low31, decide_eq_true hk, Bool.and_true]) ..
  have hoff : wBit (v &&& 0x7FFFFFFF) 31 = false := by rw [wBit_and_low31]; exact Bool.and_false _
  rw [forceSelWrite_eq, hoff, hnamed, clean_of_off rfl]
  rfl

/-- A force that is put in its slot changes the slot, and beside it at most the journal. -/
theorem putForce_spec (i f : Fin 32) (x : Force) (s : State) :
    (putForce i f.val x s).lg = { s.lg with forces := s.lg.forces.set f x } ∧ (putForce i f.val x s).host = s.host ∧
      (putForce i f.val x s).st = s.st ∧ (putForce i f.val x s).saf = s.saf ∧ (putForce i f.val x s).sent = s.sent := by
  have hset : updNat s.lg.forces f.val (fun _ => x) = s.lg.forces.set f x := updNat_of_lt _ f.isLt _
  unfold putForce
  split
  next hsame =>
    rw [getNat_fin] at hsame
    subst hsame
    exact ⟨by simp, rfl, rfl, rfl, rfl⟩
  next => exact ⟨by simp [hset], rfl, rfl, rfl, rfl⟩

theorem lgWrite_forceSel (i f : Fin 32) (v : Word) (s : State) :
    lgWrite i (0x100 + 8 * f.val) v s = forceSelWrite i f.val v s := by
  fin_cases f <;> rfl

/-- A word of FORCEf_SEL that puts a force in its slot. -/
theorem does_putForce {i f : Fin 32} {v : Word} {x : Force} {s : State} (h : MayWrite i s)
    (hw : forceSelWrite i f.val v (accessed i s) = (.ok, putForce i f.val x (accessed i s))) :
    ∃ t, writeCmd i (0xC100 + 8 * f.val) v s = .next t ∧
      t.lg = { s.lg with forces := s.lg.forces.set f x } ∧ t.st = s.st ∧ t.saf = s.saf := by
  obtain ⟨hlg, hhost, hst, hsaf, hsent⟩ := putForce_spec i f x (accessed i s)
  rw [accessed_lg] at hlg
  obtain ⟨t, ht, htlg, htst, htsaf, -⟩ :=
    writeCmd_logic h (plainReg_forceSel f) ((lgWrite_forceSel ..).trans hw) hhost hst hsaf hsent
  exact ⟨t, ht, htlg.trans hlg, htst, htsaf⟩

theorem does_forceDenied {i f : Fin 32} {v : Word} {s : State} (h : MayWrite i s)
    (hw : forceSelWrite i f.val v (accessed i s) = (.access, forceDenied (accessed i s))) :
    ∃ t, writeCmd i (0xC100 + 8 * f.val) v s = .next t ∧
      t.lg = { s.lg with forceRefused := true } ∧ t.st = s.st ∧ t.saf = s.saf ∧
      said t = [directRsp i 4 .access (0xC100 + 8 * f.val) []] := by
  obtain ⟨t, ht, hlg, hrest⟩ :=
    writeCmd_logic h (plainReg_forceSel f) ((lgWrite_forceSel ..).trans hw) rfl rfl rfl rfl
  exact ⟨t, ht, hlg.trans (by simp [forceDenied]), hrest⟩

/-! ### VAR_WR (R292) -/

theorem does_varWr_taken {i : Fin 32} {v : Word} {s : State} (h : MayWrite i s)
    (harea : opArea s.host.sess[i].varSel.toNat = 3) (hindex : opIndex s.host.sess[i].varSel.toNat < 4096)
    (hcfg : (lgCfg s).isSome = true) : Does (.varWr i v) s (fun t => t.lg = { s.lg with
      varWrites := s.lg.varWrites ++ [(opIndex s.host.sess[i].varSel.toNat, v)] } ∧ t.st = s.st ∧ t.saf = s.saf) := by
  have hw : varWrite i v (accessed i s) = (.ok, modLg (fun x => { x with
      varWrites := x.varWrites ++ [(opIndex s.host.sess[i].varSel.toNat, v)] }) (accessed i s)) := by
    rw [varWrite, accessed_varSel]
    exact if_pos ⟨harea, hindex, hcfg⟩
  obtain ⟨t, ht, hlg, hst, hsaf, -⟩ := writeCmd_logic h plainReg_varWr hw rfl rfl rfl rfl
  exact ⟨t, ht, hlg.trans (by simp), hst, hsaf⟩

theorem does_varWr_refused {i : Fin 32} {v : Word} {s : State} (h : MayWrite i s)
    (hno : opArea s.host.sess[i].varSel.toNat ≠ 3 ∨ (lgCfg s).isSome = false) :
    Does (.varWr i v) s (fun t => t.lg = { s.lg with varRefused := true } ∧
      said t = [directRsp i 4 .access 0xC018 []]) := by
  have hw : varWrite i v (accessed i s) =
      (.access, setAgain 0xC000 (2 ^ 6) (modLg (fun x => { x with varRefused := true }) (accessed i s))) := by
    rw [varWrite, accessed_varSel]
    refine if_neg fun ⟨harea, _, hcfg⟩ => ?_
    rcases hno with hno | hno
    · exact hno harea
    · exact Bool.false_ne_true (hno.symm.trans hcfg)
  obtain ⟨t, ht, hlg, -, -, hsaid⟩ := writeCmd_logic h plainReg_varWr hw rfl rfl rfl rfl
  exact ⟨t, ht, hlg.trans (by simp), hsaid⟩

/-! ### Counts (R277; 04 Table 04-17) -/

theorem getNat_map {α β : Type} [Inhabited α] [Inhabited β] {n : Nat} (v : Vector α n) (f : α → β) {k : Nat} (h : k < n) :
    getNat (v.map f) k = f (getNat v k) := by
  rw [getNat_of_lt _ h, getNat_of_lt _ h, Vector.getElem_map]

theorem lgClear_lg (s : State) : (lgClear s).lg = { s.lg with
    tasks := s.lg.tasks.map (fun t => { t with ovr := 0, peak := 0 })
    stations := s.lg.stations.map (fun y => { y with losses := 0 }) } := rfl

theorem does_lgClrCounts {i : Fin 32} {s : State} (h : MayWrite i s) : Does (.lgClrCounts i) s (fun t =>
    t.lg.output = s.lg.output ∧ t.lg.mem = s.lg.mem ∧ t.st = s.st ∧ t.saf = s.saf ∧
      (∀ k < 8, getNat t.lg.tasks k = { getNat s.lg.tasks k with ovr := 0, peak := 0 }) ∧
      ∀ k < 16, stnAt t k = { stnAt s k with losses := 0 }) := by
  have hw : lgWrite i 0x004 b31 (accessed i s) = (.ok, lgClear (accessed i s)) := rfl
  obtain ⟨t, ht, hlg, hst, hsaf, -⟩ := writeCmd_logic h plainReg_lgCtrl hw rfl rfl rfl rfl
  rw [lgClear_lg, accessed_lg] at hlg
  refine ⟨t, ht, by rw [hlg], by rw [hlg], hst, hsaf, fun k hk => ?_, fun k hk => ?_⟩
  · rw [hlg, getNat_map _ _ hk]
  · rw [stnAt, hlg, getNat_map _ _ hk, stnAt]

theorem chClear_chain (s : State) : (chClear s).chain = { s.chain with
    line := mapAll s.chain.line (fun _ x =>
      { x with crc := 0, passMiss := 0, resultMiss := 0, wholes := 0, splits := 0 })
    node := mapAll s.chain.node (fun _ r => { r with rejoined := false, crc := 0 }) } := rfl

theorem does_chClrCounts {i : Fin 32} {s : State} (h : MayWrite i s) : Does (.chClrCounts i) s (fun t =>
    t.st = s.st ∧ t.saf = s.saf ∧ t.lg = s.lg ∧
      (∀ l < 4, lineAt t l = { lineAt s l with crc := 0, passMiss := 0, resultMiss := 0, wholes := 0, splits := 0 }) ∧
      ∀ a < 64, nodeRec t a = { nodeRec s a with rejoined := false, crc := 0 }) := by
  have hw : blockWrite i none .chain 0x004 b31 (accessed i s) = (.ok, chClear (accessed i s)) := rfl
  refine writeCmd_plain h plainReg_chCtrl hw rfl ⟨accessed_st i s, accessed_saf i s, accessed_lg i s, fun l hl => ?_,
    fun a ha => ?_⟩
  · rw [lineAt, put_chain, chClear_chain, getNat_mapAll _ _ hl]
    rfl
  · rw [nodeRec, put_chain, chClear_chain, getNat_mapAll _ _ ha]
    rfl

end Sys2Proof.Machine

namespace Sys2Proof

open Sys2Proof.Machine

/-- Settles O43: each register by what the write of its word makes of the logic engine or of the chain. -/
theorem logicRegisters : Obligations.LogicRegisters := by
  refine fun i s h => ⟨fun f v => ⟨fun hcrown harea hopen => ?enabled, fun hno => ?denied,
    does_putForce h (forceSelWrite_clear i f v _)⟩, fun v => ⟨does_varWr_taken h, does_varWr_refused h⟩,
    does_lgClrCounts h, does_chClrCounts h⟩
  case enabled =>
    have hmay : mayForce i (namedForce true v s.lg.forces[f].val).clean (accessed i s) = true :=
      (mayForce_iff ..).mpr ⟨(accessed_crown i s).trans hcrown, harea, hopen⟩
    exact does_putForce h ((forceSelWrite_enable ..).trans (if_pos hmay))
  case denied =>
    have hdeny : ¬ mayForce i (namedForce true v s.lg.forces[f].val).clean (accessed i s) = true := fun hmay => by
      obtain ⟨hcrown, harea, hopen⟩ := (mayForce_iff ..).mp hmay
      rw [accessed_crown] at hcrown
      rcases hno with hno | ⟨h1, h2⟩ | hno
      · exact Bool.false_ne_true (hno.symm.trans hcrown)
      · exact harea.elim h1 h2
      · exact Bool.false_ne_true (hopen.symm.trans hno)
    exact does_forceDenied h ((forceSelWrite_enable ..).trans (if_neg hdeny))

end Sys2Proof
end

section
/-! SUPPORT AND PROOFS. Remote stations: STATION frames and lost stations (11 R285 to R287; 12 R318). -/

namespace Sys2Proof.Machine

/-! ### A frame on its way to its block leaves the logic engine and the claims alone -/

/-- The logic engine, and the claims that the module holds (R318). -/
def stationInputs (s : State) : Logic × List (Nat × Nat × Nat) := (s.lg, s.fab.held)

theorem stationInputs_fabArrive (h : FabHdr) (s : State) : stationInputs (fabArrive h s).2 = stationInputs s := by
  unfold fabArrive
  dsimp only
  (repeat' split) <;> rfl

theorem stationInputs_forwarded (h : FabHdr) (s : State) : stationInputs (forwarded h s) = stationInputs s := by
  unfold forwarded
  dsimp only
  (repeat' split) <;> rfl

theorem stationInputs_fabAccept (fits : Bool) (h : FabHdr) (s : State) :
    stationInputs (fabAccept fits h s).2 = stationInputs s := by
  unfold fabAccept
  (repeat' split) <;> rfl

theorem stationInputs_fabIn (fits : Bool) (h : FabHdr) (s : State) : stationInputs (fabIn fits h s).2 = stationInputs s := by
  have harrive := stationInputs_fabArrive h s
  rw [fabIn_eq]
  generalize fabArrive h s = r at harrive
  obtain ⟨on, t⟩ := r
  cases on
  · exact harrive
  · have hforward := (stationInputs_forwarded h t).trans harrive
    dsimp only
    split
    · exact (stationInputs_fabAccept ..).trans hforward
    · exact hforward

theorem stationInputs_delivered (h : FabHdr) (s : State) : stationInputs (delivered h s) = stationInputs s :=
  stationInputs_fabIn true h (fresh s)

/-! ### One station -/

theorem stationCfgs_congr {s t : State} (h : t.cal = s.cal) : stationCfgs t = stationCfgs s := by
  rw [stationCfgs, lgCfg, h]
  rfl

@[simp] theorem stationCfgs_fresh (s : State) : stationCfgs (fresh s) = stationCfgs s := rfl

@[simp] theorem stationCfgs_atTick (t : Nat) (s : State) : stationCfgs (atTick t s) = stationCfgs s := rfl

theorem stnAt_modStn_same {i : Nat} (hi : i < 16) (f : StationSt → StationSt) (s : State) :
    stnAt (modStn i f s) i = f (stnAt s i) := getNat_updNat_same _ hi f

theorem stnAt_modStn_other {i j : Nat} (h : j ≠ i) (f : StationSt → StationSt) (s : State) :
    stnAt (modStn i f s) j = stnAt s j := getNat_updNat_other _ h f

/-- A change that leaves its station as it is changes nothing. -/
theorem modStn_lg_of_fixed {i : Nat} (hi : i < 16) {f : StationSt → StationSt} {s : State} (h : f (stnAt s i) = stnAt s i) :
    (modStn i f s).lg = s.lg := by
  rw [stnAt, getNat_of_lt _ hi] at h
  simp [modStn, updNat_of_lt _ hi, h]

/-! ### What a frame makes of its station (R285, R287) -/

/-- Station y after a later good frame, at a time in ticks. -/
def StationSt.later (q : Nat) (now p : Nat) (words : List Word) (y : StationSt) : StationSt :=
  let next := decide ((q % 2 ^ 32 + 2 ^ 32 - p) % 2 ^ 32 = 1) && decide (1 ≤ y.run)
  { y with
    lastSeq := some q, arrival := now, newest := words
    prior := if y.arrival = now then y.prior else y.newest
    run := if next then min 255 (y.run + 1) else 1
    pairAt := if next && (y.pairAt.isNone || y.good) then some now else y.pairAt }

theorem stnAt_stnFrame_later {i q p : Nat} {s : State} (hi : i < 16) (hlast : (stnAt s i).lastSeq = some p)
    (hlater : seqLater q p = true) (words : List Word) :
    stnAt (stnFrame i q words s) i = (stnAt s i).later q (absTick s) p words := by
  rw [stnFrame, stnAt_modStn_same hi]
  simp only [hlast, hlater, if_true]
  rfl

theorem stnAt_stnFrame_other {i j : Nat} (h : j ≠ i) (q : Nat) (words : List Word) (s : State) :
    stnAt (stnFrame i q words s) j = stnAt s j := stnAt_modStn_other h ..

theorem stnFrame_lg_of_not_later {i q p : Nat} {s : State} (hi : i < 16) (hlast : (stnAt s i).lastSeq = some p)
    (hlater : seqLater q p = false) (words : List Word) : (stnFrame i q words s).lg = s.lg :=
  modStn_lg_of_fixed hi (by simp only [hlast, hlater]; rfl)

/-! ### Which frames reach their station (R300, R318) -/

/-- The claim held for the string of a frame's sender. -/
def heldClaim (h : FabHdr) (s : State) : Nat := ((s.fab.held.find? (fun e => e.1 == h.string)).map (·.2.1)).getD 0

/-- A frame whose claim is not below the one held has its claim held. -/
def claimTaken (h : FabHdr) (s : State) : State :=
  modFab (fun x => { x with held := x.held.filter (fun y => y.1 != h.string) ++ [(h.string, h.claim, s.time.beat)] }) s

theorem stnClaim_taken {h : FabHdr} {s : State} (hclaim : heldClaim h s ≤ h.claim) :
    stnClaim h s = (true, claimTaken h s) := if_neg (Nat.not_lt.mpr hclaim)

theorem stnClaim_low {h : FabHdr} {s : State} (hclaim : ¬ heldClaim h s ≤ h.claim) :
    ∃ t, stnClaim h s = (false, t) ∧ t.lg = s.lg := ⟨_, if_pos (Nat.lt_of_not_le hclaim), rfl⟩

section
variable {h : FabHdr} {n i : Nat} {words : List Word} {c : StationCfg} {s : State}
  (hfind : (stationCfgs s).findIdx? (fun c => c.addr == h.src) = some i) (hcfg : (stationCfgs s)[i]? = some c)
include hfind hcfg

theorem stnTake_unfit {dir : Nat} (hno : dir ≠ 1 ∨ n ≠ c.nIn) : stnTake h dir n words s = badFrame h.port s := by
  have hbad : (dir != 1 || n != c.nIn) = true := by simpa using hno
  simp only [stnTake, hfind, hcfg, Option.map_some, Option.getD_some, hbad, if_true]

/-- A frame to the module and of the station's length, by what the claim rule makes of it. -/
theorem stnTake_claimed (hn : n = c.nIn) {on : Bool} {t : State} (hclaim : stnClaim h s = (on, t)) :
    stnTake h 1 n words s =
      if on && t.st.mode.fromArmed then stnFrame i h.seq (padTo 0 n words) t else t := by
  cases on <;> simp [stnTake, hfind, hcfg, hn, hclaim]

/-- With a claim not below the one held, it is kept with its station. -/
theorem stnTake_station (hm : s.st.mode.fromArmed = true) (hn : n = c.nIn) (hclaim : heldClaim h s ≤ h.claim) :
    stnTake h 1 n words s = stnFrame i h.seq (padTo 0 n words) (claimTaken h s) :=
  (stnTake_claimed hfind hcfg hn (stnClaim_taken hclaim)).trans (if_pos hm)

/-- Any other frame leaves the logic engine as it is. -/
theorem stnTake_lg_of_other (hm : s.st.mode.fromArmed = true) (hi : i < 16) {q dir : Nat} (hno : dir ≠ 1 ∨ n ≠ c.nIn ∨
    ¬ heldClaim h s ≤ h.claim ∨ ((stnAt s i).lastSeq = some q ∧ seqLater h.seq q = false)) :
    (stnTake h dir n words s).lg = s.lg := by
  by_cases hunfit : dir ≠ 1 ∨ n ≠ c.nIn
  · rw [stnTake_unfit hfind hcfg hunfit]
    rfl
  · obtain ⟨rfl, hn⟩ : dir = 1 ∧ n = c.nIn := by simpa using hunfit
    by_cases hclaim : heldClaim h s ≤ h.claim
    · obtain ⟨hlast, hlater⟩ : (stnAt s i).lastSeq = some q ∧ seqLater h.seq q = false := by simpa [hn, hclaim] using hno
      rw [stnTake_station hfind hcfg hm hn hclaim]
      exact stnFrame_lg_of_not_later (s := claimTaken h s) hi hlast hlater _
    · obtain ⟨t, ht, hlg⟩ := stnClaim_low hclaim
      rw [stnTake_claimed hfind hcfg hn ht]
      simpa using hlg

end

theorem exec_station {h : FabHdr} {n : Nat} {s : State} (ht : Taken h 7 (4 + 4 * n) s) (dir sf : Nat) (words : List Word) :
    exec (.station h dir n sf words) s = .next (stnTake h dir n words (delivered h s)) :=
  congrArg Host.Outcome.next (onFrame_of_taken ht _)

/-! ### Lost stations (R286) -/

theorem tickOf_atTick (t : Nat) (s : State) : tickOf (atTick t s) = t := Nat.mul_div_cancel t (by decide)

/-- GOOD station y whose timeout has passed at a time in ticks is LOST. -/
def StationSt.judged (c : StationCfg) (now : Nat) (y : StationSt) : StationSt :=
  if y.good = true ∧ y.arrival + c.timeout * 400 ≤ now then
    { y with good := false, run := 0, pairAt := none, losses := satAdd y.losses 1 65535 }
  else y

theorem stnAt_stnJudge {j : Nat} {c : StationCfg} {s : State} (hj : j < 16) (hc : (stationCfgs s)[j]? = some c) :
    stnAt (stnJudge s) j = (stnAt s j).judged c (absTick s) := by
  rw [stnAt, stnJudge, modLg_lg, getNat_mapAll _ _ hj]
  simp only [hc, Bool.and_eq_true, decide_eq_true_eq]
  rfl

theorem absTick_stnJudge (s : State) : absTick (stnJudge s) = absTick s := by rw [absTick, stnJudge, modLg_time, absTick]

theorem exec_stationLost {i : Fin 16} {s : State} (hawake : awake s = true) (hm : s.st.mode.fromArmed = true)
    (hi : i.val < (stationCfgs s).length) (htick : tickOf s ≤ 380) :
    exec (.stationLost i) s = .next (stnJudge (atTick (if tickOf s ≤ 20 then 20 else 380) (fresh s))) := by
  have hgo : (awake (fresh s) && (fresh s).st.mode.fromArmed && decide (i.val < (stationCfgs (fresh s)).length) &&
      decide (tickOf (fresh s) ≤ 380)) = true := by
    have htick' : tickOf (fresh s) ≤ 380 := htick
    simp [hawake, hm, hi, htick']
  exact if_pos hgo

end Sys2Proof.Machine

namespace Sys2Proof

open Sys2Proof.Machine

/-- Settles O42: a frame by the way it takes to its station, and the lost stations by the judgement of each. -/
theorem remoteStations : Obligations.RemoteStations := by
  refine ⟨fun h n sf i words c s ht hm hfind hcfg hi => ?frame, fun i s hawake hm hi htick => ?lost⟩
  case frame =>
    have hkept := delivered_kept h s
    obtain ⟨hlg, hheld⟩ := Prod.mk.inj (stationInputs_delivered h s)
    have hcfgs : stationCfgs (delivered h s) = stationCfgs s := stationCfgs_congr hkept.cal
    have hclaim : heldClaim h (delivered h s) = heldClaim h s := by rw [heldClaim, hheld]; rfl
    have hstn : ∀ j, stnAt (delivered h s) j = stnAt s j := fun j => by rw [stnAt, hlg]; rfl
    have hnow : absTick (delivered h s) = absTick s := by rw [absTick, hkept.time]; rfl
    rw [← hcfgs] at hfind hcfg
    have hm' : (delivered h s).st.mode.fromArmed = true := by rw [hkept.st]; exact hm
    refine ⟨fun q hle hlast hlater hn => ?_, fun q dir hno => ?_⟩
    · have hle' : heldClaim h (delivered h s) ≤ h.claim := hclaim.trans_le hle
      refine ⟨_, exec_station ht 1 sf words, ?_⟩
      rw [stnTake_station hfind hcfg hm' hn hle']
      refine ⟨?_, fun j hj => ?_, ?_, ?_⟩
      · have hlast' : (stnAt (claimTaken h (delivered h s)) i).lastSeq = some q := (congrArg _ (hstn i)).trans hlast
        rw [stnAt_stnFrame_later hi hlast' hlater, ← hstn i, ← hnow]
        rfl
      · exact (stnAt_stnFrame_other hj ..).trans (hstn j)
      · exact (stnFrame_st ..).trans hkept.st
      · exact (stnFrame_saf ..).trans hkept.saf
    · refine ⟨_, exec_station ht dir sf words, ?_, (stnTake_st ..).trans hkept.st, (stnTake_saf ..).trans hkept.saf⟩
      refine (stnTake_lg_of_other hfind hcfg hm' hi (q := q) ?_).trans hlg
      rwa [hclaim, hstn]
  case lost =>
    refine ⟨_, exec_stationLost hawake hm hi htick, tickOf_atTick .., stnJudge_st _, stnJudge_saf _,
      fun j hj c hc => ?_⟩
    have hcfg : (stationCfgs (atTick (if tickOf s ≤ 20 then 20 else 380) (fresh s)))[j]? = some c := by
      rw [stationCfgs_atTick, stationCfgs_fresh]
      exact hc
    rw [stnAt_stnJudge hj hcfg, absTick_stnJudge]
    rfl

end Sys2Proof
end

section
/-! SUPPORT. Sparse words, the words of the input image (11 R279, Table 11-3), and forces on an image (11 R289, R290). -/

namespace Sys2Proof.Machine

/-! ### Sparse words -/

/-- A list of words by index rises strictly, as the list of an image does. -/
def Rises (l : List (Nat × Word)) : Prop := l.Pairwise (fun p q => p.1 < q.1)

theorem wordAt_cons (j : Nat) (u : Word) (r : List (Nat × Word)) (i : Nat) :
    wordAt ((j, u) :: r) i = if j = i then u else wordAt r i := by
  by_cases h : j = i <;> simp [wordAt, h]

theorem wordAt_of_absent {l : List (Nat × Word)} {i : Nat} (h : ∀ p ∈ l, p.1 ≠ i) : wordAt l i = 0 := by
  have hnone : l.find? (fun p => p.1 == i) = none := List.find?_eq_none.mpr fun p hp => by simpa using h p hp
  rw [wordAt, hnone]
  rfl

theorem mem_wordPut {l : List (Nat × Word)} {i : Nat} {v : Word} {p : Nat × Word} (h : p ∈ wordPut l i v) :
    p = (i, v) ∨ p ∈ l := by
  induction l with
  | nil =>
    unfold wordPut at h
    split at h
    · exact .inr h
    · exact .inl (List.mem_singleton.mp h)
  | cons q r ih =>
    obtain ⟨j, u⟩ := q
    unfold wordPut at h
    split_ifs at h
    · exact .inr h
    · exact List.mem_cons.mp h
    · exact .inr (List.mem_cons_of_mem _ h)
    · exact (List.mem_cons.mp h).imp_right (List.mem_cons_of_mem _)
    · rcases List.mem_cons.mp h with h | h
      · exact .inr (h ▸ List.mem_cons_self)
      · exact (ih h).imp_right (List.mem_cons_of_mem _)

theorem rises_wordPut {l : List (Nat × Word)} (h : Rises l) (i : Nat) (v : Word) : Rises (wordPut l i v) := by
  induction l with
  | nil =>
    unfold wordPut
    split
    · exact h
    · exact List.pairwise_singleton ..
  | cons q r ih =>
    obtain ⟨j, u⟩ := q
    obtain ⟨hhead, hrest⟩ := List.pairwise_cons.mp h
    unfold wordPut
    split_ifs with hlt _ heq _
    · exact h
    · exact List.pairwise_cons.mpr ⟨fun p hp => (List.mem_cons.mp hp).elim (fun e => e ▸ hlt)
        fun hp => hlt.trans (hhead p hp), h⟩
    · exact hrest
    · exact List.pairwise_cons.mpr ⟨fun p hp => heq ▸ hhead p hp, hrest⟩
    · refine List.pairwise_cons.mpr ⟨fun p hp => ?_, ih hrest⟩
      rcases mem_wordPut hp with rfl | hp
      · exact Nat.lt_of_le_of_ne (Nat.le_of_not_lt hlt) (Ne.symm heq)
      · exact hhead p hp

theorem wordAt_wordPut_same {l : List (Nat × Word)} (h : Rises l) (i : Nat) (v : Word) : wordAt (wordPut l i v) i = v := by
  induction l with
  | nil =>
    unfold wordPut
    split
    next hv => exact hv.symm
    next => rw [wordAt_cons, if_pos rfl]
  | cons q r ih =>
    obtain ⟨j, u⟩ := q
    obtain ⟨hhead, hrest⟩ := List.pairwise_cons.mp h
    unfold wordPut
    split_ifs with hlt hv heq hv
    · have habsent : ∀ p ∈ (j, u) :: r, p.1 ≠ i := fun p hp => (List.mem_cons.mp hp).elim
        (fun e => e ▸ hlt.ne') fun hp => (hlt.trans (hhead p hp)).ne'
      rw [wordAt_of_absent habsent, hv]
    · rw [wordAt_cons, if_pos rfl]
    · have habsent : ∀ p ∈ r, p.1 ≠ i := fun p hp => heq ▸ (hhead p hp).ne'
      rw [wordAt_of_absent habsent, hv]
    · rw [wordAt_cons, if_pos rfl]
    · rw [wordAt_cons, if_neg (Ne.symm heq), ih hrest]

theorem wordAt_wordPut_other {i j : Nat} (h : j ≠ i) (l : List (Nat × Word)) (v : Word) :
    wordAt (wordPut l i v) j = wordAt l j := by
  induction l with
  | nil =>
    unfold wordPut
    split
    · rfl
    · rw [wordAt_cons, if_neg h.symm]
  | cons q r ih =>
    obtain ⟨k, u⟩ := q
    unfold wordPut
    split_ifs with hlt hv heq hv
    · rfl
    · rw [wordAt_cons, if_neg h.symm]
    · rw [wordAt_cons, if_neg (heq ▸ h.symm)]
    · rw [wordAt_cons, wordAt_cons, if_neg h.symm, if_neg (heq ▸ h.symm)]
    · rw [wordAt_cons, wordAt_cons, ih]

/-! ### Words put one after another -/

theorem rises_putAll {img : List (Nat × Word)} (h : Rises img) (l : List (Nat × Word)) : Rises (putAll l img) := by
  induction l generalizing img with
  | nil => exact h
  | cons p r ih => exact ih (rises_wordPut h ..)

theorem wordAt_putAll_other {l : List (Nat × Word)} {i : Nat} (h : ∀ p ∈ l, p.1 ≠ i) (img : List (Nat × Word)) :
    wordAt (putAll l img) i = wordAt img i := by
  induction l generalizing img with
  | nil => rfl
  | cons p r ih =>
    exact (ih (fun q hq => h q (List.mem_cons_of_mem _ hq)) _).trans
      (wordAt_wordPut_other (h p List.mem_cons_self).symm ..)

/-- Of words put at different indices, each stands where it was put. -/
theorem wordAt_putAll {l img : List (Nat × Word)} (himg : Rises img) (hl : (l.map (·.1)).Nodup) {i : Nat} {v : Word}
    (hmem : (i, v) ∈ l) : wordAt (putAll l img) i = v := by
  induction l generalizing img with
  | nil => cases hmem
  | cons p r ih =>
    obtain ⟨hnew, hrest⟩ := List.nodup_cons.mp hl
    rcases List.mem_cons.mp hmem with rfl | hmem
    · refine (wordAt_putAll_other (fun q hq e => hnew (List.mem_map.mpr ⟨q, hq, e⟩)) _).trans ?_
      exact wordAt_wordPut_same himg i v
    · exact ih (rises_wordPut himg ..) hrest hmem

/-! ### The input image (Table 11-3) -/

/-- Words 0 to 31 of the input image. -/
def inputWords (s : State) : List (Nat × Word) :=
  [(0, toW (inWord0 s)), (1, toW (inWord1 s))] ++
    (List.range 4).map (fun k => (2 + k, toW (getNat s.fio.cnt k))) ++
    (List.range 6).map (fun t => (6 + t, intW (getNat s.fio.th t).held)) ++
    [(12, toW (inWord12 s)), (13, intW (meanBefore s)), (14, intW ((s.meas.aligned.map (·.fe.vStr)).getD 0)),
     (15, toW s.est.sum.socStr)] ++
    (List.range 8).map (fun i => (16 + i, toW (getNat s.lim.lim i))) ++
    [(24, 0), (25, 0), (26, 0), (27, 0), (30, 0), (31, 0),
     (28, toW (maskIf (stationCfgs s).length (fun i => (stnAt s i).good))),
     (29, toW (maskIf (stationCfgs s).length (fun i => !(stnAt s i).good)))]

theorem inputImage_eq (s : State) : inputImage s = putAll (stnWords s) (putAll (inputWords s) s.lg.rawInput) :=
  List.foldl_append

theorem inputWords_indices (s : State) : (inputWords s).map (·.1) = [0, 1] ++ (List.range 4).map (2 + ·) ++
    (List.range 6).map (6 + ·) ++ [12, 13, 14, 15] ++ (List.range 8).map (16 + ·) ++ [24, 25, 26, 27, 30, 31, 28, 29] := by
  simp [inputWords, Function.comp_def]

theorem inputWords_nodup (s : State) : ((inputWords s).map (·.1)).Nodup := by
  rw [inputWords_indices]
  decide

theorem inputWords_index {s : State} {p : Nat × Word} (h : p ∈ inputWords s) : p.1 < 32 := by
  have hmem : p.1 ∈ (inputWords s).map (·.1) := List.mem_map_of_mem h
  rw [inputWords_indices] at hmem
  revert hmem
  generalize p.1 = i
  revert i
  decide

theorem stnWords_index {s : State} {p : Nat × Word} (h : p ∈ stnWords s) : 32 ≤ p.1 := by
  obtain ⟨i, -, hp⟩ := List.mem_flatMap.mp h
  dsimp only at hp
  split at hp
  · obtain ⟨j, hj, rfl⟩ := List.mem_mapIdx.mp hp
    dsimp only
    omega
  · cases hp

theorem wordAt_inputImage {s : State} (h : Rises s.lg.rawInput) {p : Nat × Word} (hp : p ∈ inputWords s) :
    wordAt (inputImage s) p.1 = p.2 := by
  rw [inputImage_eq, wordAt_putAll_other fun q hq => ((inputWords_index hp).trans_le (stnWords_index hq)).ne']
  exact wordAt_putAll h (inputWords_nodup s) hp

theorem rises_inputImage {s : State} (h : Rises s.lg.rawInput) : Rises (inputImage s) := by
  rw [inputImage_eq]
  exact rises_putAll (rises_putAll h _) _

/-! ### Forces on an image (R289, R290) -/

/-- An image under one force. -/
def forceWord (area : Nat) (l : List (Nat × Word)) (f : Force) : List (Nat × Word) :=
  if f.enable && f.area == area && decide (f.at < 288) then
    let u := wordAt l f.at
    let v := f.apply u
    wordPut l f.at (if area == 1 && (f.at == 28 || f.at == 29) then (v &&& 0xFFFF0000) ||| (u &&& 0xFFFF) else v)
  else l

theorem forced_eq (area : Nat) (img : List (Nat × Word)) (s : State) :
    forced area img s = s.lg.forces.toList.foldl (forceWord area) img := rfl

theorem rises_forceWord {l : List (Nat × Word)} (h : Rises l) (area : Nat) (f : Force) : Rises (forceWord area l f) := by
  unfold forceWord
  split
  · exact rises_wordPut h ..
  · exact h

theorem rises_foldl_forceWord {l : List (Nat × Word)} (h : Rises l) (area : Nat) (fs : List Force) :
    Rises (fs.foldl (forceWord area) l) := by
  induction fs generalizing l with
  | nil => exact h
  | cons f fs ih => exact ih (rises_forceWord h ..)

theorem foldl_forceWord_of_off {fs : List Force} (h : ∀ f ∈ fs, f.enable = false) (area : Nat) (l : List (Nat × Word)) :
    fs.foldl (forceWord area) l = l := by
  induction fs generalizing l with
  | nil => rfl
  | cons f fs ih =>
    have hoff : forceWord area l f = l := by simp [forceWord, h f List.mem_cons_self]
    rw [List.foldl_cons, hoff]
    exact ih (fun g hg => h g (List.mem_cons_of_mem _ hg)) l

/-- A word force on the input image that is not on the stations' quality words. -/
structure WordForce (f : Force) : Prop where
  enable : f.enable = true
  word : f.word = true
  area : f.area = 1
  index_lt : f.index < 288
  index_ne : f.index ≠ 28 ∧ f.index ≠ 29

theorem wordAt_forceWord {f : Force} (h : WordForce f) {l : List (Nat × Word)} (hl : Rises l) :
    wordAt (forceWord 1 l f) f.index = f.val := by
  obtain ⟨henable, hword, harea, hlt, h28, h29⟩ := h
  have hput : forceWord 1 l f = wordPut l f.index f.val := by
    simp [forceWord, Force.at, Force.apply, henable, hword, harea, hlt, h28, h29]
  rw [hput]
  exact wordAt_wordPut_same hl ..

/-- The last enabled force decides its word. -/
theorem wordAt_forced {f : Fin 32} {s : State} (h : WordForce s.lg.forces[f])
    (hlast : ∀ g : Fin 32, f < g → s.lg.forces[g].enable = false) {img : List (Nat × Word)} (himg : Rises img) :
    wordAt (forced 1 img s) s.lg.forces[f].index = s.lg.forces[f].val := by
  have hlen : f.val < s.lg.forces.toList.length := by simp
  have hoff : ∀ g ∈ s.lg.forces.toList.drop (f.val + 1), g.enable = false := fun g hg => by
    obtain ⟨k, hk, rfl⟩ := List.mem_drop_iff_getElem.mp hg
    have hk32 : f.val + 1 + k < 32 := by simpa [Nat.add_comm] using hk
    have hlt : f.val < f.val + 1 + k := by omega
    exact hlast ⟨f.val + 1 + k, hk32⟩ hlt
  have hsplit : s.lg.forces.toList =
      s.lg.forces.toList.take f.val ++ s.lg.forces[f] :: s.lg.forces.toList.drop (f.val + 1) := by
    conv_lhs => rw [← List.take_append_drop f.val s.lg.forces.toList, List.drop_eq_getElem_cons hlen]
    rfl
  rw [forced_eq, hsplit, List.foldl_append, List.foldl_cons, foldl_forceWord_of_off hoff]
  exact wordAt_forceWord h (rises_foldl_forceWord himg ..)

end Sys2Proof.Machine
end

section
/-! SUPPORT AND PROOFS. The phases of a beat (11 R273, R275, R279, R280, R286, R290, R292): each acts once, at its tick. -/

namespace Sys2Proof.Machine

/-! ### INPUT_PHASE -/

/-- The stations as they stand at an input phase (R286, R287). -/
def stationsJudged (s : State) : State := stnAdmit (stnJudge (actAt .input 20 (fresh s)))

/-- The images and the memory area after an input phase. -/
def inputTaken (s : State) : State :=
  modLg (fun x => { x with mem := putAll x.varWrites x.mem, varWrites := [], rawInput := inputImage s
                           input := forced 1 (inputImage s) s }) s

theorem inputTaken_lg (s : State) : (inputTaken s).lg = { s.lg with
    mem := putAll s.lg.varWrites s.lg.mem, varWrites := [], rawInput := inputImage s
    input := forced 1 (inputImage s) s } := modLg_lg ..

/-- What changes up to the images: the time, the turns and the stations. -/
structure ThroughStations (s t : State) : Prop where
  lg : t.lg = { s.lg with stations := t.lg.stations }
  beat : t.time.beat = s.time.beat
  trg : t.time.trg = s.time.trg
  engines : t.time.engines = s.time.engines
  loopHold : t.time.loopHold = s.time.loopHold
  cal : t.cal = s.cal
  meas : t.meas = s.meas
  est : t.est = s.est
  cells : t.cells = s.cells
  lim : t.lim = s.lim
  saf : t.saf = s.saf
  fio : t.fio = s.fio
  st : t.st = s.st

theorem actAt_time (x : Turn) (n : Nat) (s : State) :
    (actAt x n s).time = { s.time with turns := x :: s.time.turns, ns := n * 2500 } := rfl

theorem stationsJudged_time (s : State) : (stationsJudged s).time = (actAt .input 20 (fresh s)).time := rfl

theorem stationsJudged_through (s : State) : ThroughStations s (stationsJudged s) := by
  constructor <;> simp [stationsJudged, stnAdmit, stnJudge, actAt_time]

section
variable {s t : State} (h : ThroughStations s t)
include h

theorem ThroughStations.stationCfgs : stationCfgs t = stationCfgs s := stationCfgs_congr h.cal

theorem ThroughStations.forced (area : Nat) (img : List (Nat × Word)) : forced area img t = forced area img s := by
  rw [forced_eq, forced_eq, h.lg]

theorem ThroughStations.inWord0 : inWord0 t = inWord0 s := by
  simp only [Machine.inWord0, ioMode, ioCfg, ioPers, ioAt, h.cal, h.fio]

theorem ThroughStations.inWord1 : inWord1 t = inWord1 s := by
  simp only [Machine.inWord1, ioAt, h.fio]

theorem ThroughStations.demand : demand t = demand s := by
  funext i
  simp only [Machine.demand, asksA, asksB, sinCfg, sinCfgB, h.saf]

theorem ThroughStations.llStatus : llStatus t = llStatus s := by
  simp only [Machine.llStatus, coldCharge, h.lim, h.cal, h.est, h.meas, h.saf, h.loopHold, h.st]

theorem ThroughStations.estStatus : estStatus t = estStatus s := by
  have hstarve : starveH t = starveH s := by simp only [starveH, estCfg, h.cal]
  simp only [Machine.estStatus, hstarve, estLag, h.est, h.lim, h.engines]

theorem ThroughStations.inWord12 : inWord12 t = inWord12 s := by
  simp only [Machine.inWord12, h.demand, h.llStatus, h.estStatus, h.trg, h.saf, h.est, h.cells, h.meas]

theorem ThroughStations.meanBefore : meanBefore t = meanBefore s := by
  simp only [Machine.meanBefore, prevCurrents, h.meas]

/-- Words 0 to 31 of the input image, by the stations as they stand. -/
theorem ThroughStations.inputWords : inputWords t =
    [(0, toW (Machine.inWord0 s)), (1, toW (Machine.inWord1 s))] ++
      (List.range 4).map (fun k => (2 + k, toW (getNat s.fio.cnt k))) ++
      (List.range 6).map (fun t => (6 + t, intW (getNat s.fio.th t).held)) ++
      [(12, toW (Machine.inWord12 s)), (13, intW (Machine.meanBefore s)),
       (14, intW ((s.meas.aligned.map (·.fe.vStr)).getD 0)), (15, toW s.est.sum.socStr)] ++
      (List.range 8).map (fun i => (16 + i, toW (getNat s.lim.lim i))) ++
      [(24, 0), (25, 0), (26, 0), (27, 0), (30, 0), (31, 0),
       (28, toW (maskIf (Machine.stationCfgs s).length (fun i => (stnAt t i).good))),
       (29, toW (maskIf (Machine.stationCfgs s).length (fun i => !(stnAt t i).good)))] := by
  simp only [Machine.inputWords, h.inWord0, h.inWord1, h.inWord12, h.meanBefore, h.stationCfgs, h.fio, h.meas, h.est, h.lim]

end

theorem exec_inputPhase {s : State} (hawake : awake s = true) (hm : s.st.mode.fromArmed = true) (htick : tickOf s ≤ 20)
    (hturn : hadTurn .input s = false) : exec .inputPhase s = .next (inputTaken (stationsJudged s)) := by
  have hgo : (awake (fresh s) && (fresh s).st.mode.fromArmed && mayAct .input 20 (fresh s)) = true := by
    rw [awake_fresh, fresh_st, mayAct_fresh, hawake, hm, (mayAct_iff ..).mpr ⟨htick, hturn⟩]
    rfl
  exact if_pos hgo

theorem exec_inputPhase_again {s : State} (hturn : hadTurn .input s = true) : exec .inputPhase s = .next (fresh s) :=
  if_neg (by simp [mayAct, hturn])

/-- Words 0 to 31 of the images and the forces on them, after an input phase of a state whose image's list rises. -/
theorem does_inputPhase {s : State} (himg : Rises s.lg.rawInput) (hawake : awake s = true)
    (hm : s.st.mode.fromArmed = true) (htick : tickOf s ≤ 20) (hturn : hadTurn .input s = false) :
    Does .inputPhase s (fun t => tickOf t = 20 ∧ hadTurn .input t = true ∧ t.lg.mem = putAll s.lg.varWrites s.lg.mem ∧
      t.lg.varWrites = [] ∧ t.lg.output = s.lg.output ∧ t.lg.inst = s.lg.inst ∧ t.lg.forces = s.lg.forces ∧
      (let w := wordAt t.lg.rawInput
       let n := (stationCfgs s).length
       w 0 = toW (inWord0 s) ∧ w 1 = toW (inWord1 s) ∧ (∀ k < 4, w (2 + k) = toW (getNat s.fio.cnt k)) ∧
       (∀ k < 6, w (6 + k) = intW (getNat s.fio.th k).held) ∧ w 12 = toW (inWord12 s) ∧ w 13 = intW (meanBefore s) ∧
       w 14 = intW ((s.meas.aligned.map (·.fe.vStr)).getD 0) ∧ w 15 = toW s.est.sum.socStr ∧
       (∀ k < 8, w (16 + k) = toW (getNat s.lim.lim k)) ∧ (∀ k ∈ [24, 25, 26, 27, 30, 31], w k = 0) ∧
       w 28 = toW (maskIf n (fun i => (stnAt t i).good)) ∧ w 29 = toW (maskIf n (fun i => !(stnAt t i).good))) ∧
      t.lg.input = forced 1 t.lg.rawInput s ∧
      (∀ f : Fin 32, s.lg.forces[f].enable = true → s.lg.forces[f].word = true → s.lg.forces[f].area = 1 →
        s.lg.forces[f].index < 288 → s.lg.forces[f].index ≠ 28 → s.lg.forces[f].index ≠ 29 →
        (∀ g : Fin 32, f < g → s.lg.forces[g].enable = false) →
        wordAt t.lg.input s.lg.forces[f].index = s.lg.forces[f].val) ∧ t.st = s.st ∧ t.saf = s.saf) := by
  have hthrough := stationsJudged_through s
  refine ⟨_, exec_inputPhase hawake hm htick hturn, ?_⟩
  generalize hx : stationsJudged s = x at hthrough
  have hraw : x.lg.rawInput = s.lg.rawInput := by rw [hthrough.lg]
  have himage : (inputTaken x).lg.rawInput = inputImage x := by rw [inputTaken_lg]
  have hinput : (inputTaken x).lg.input = forced 1 (inputImage x) s := by rw [inputTaken_lg, hthrough.forced]
  have hrises : Rises (inputImage x) := rises_inputImage (hraw ▸ himg)
  have hstn : ∀ i, stnAt (inputTaken x) i = stnAt x i := fun i => by rw [stnAt, inputTaken_lg, stnAt]
  have hword : ∀ p ∈ inputWords x, wordAt (inputImage x) p.1 = p.2 := fun p => wordAt_inputImage (hraw ▸ himg)
  have htime : (inputTaken x).time = (actAt .input 20 (fresh s)).time := by
    rw [← hx, inputTaken, modLg_time, stationsJudged_time]
  rw [hthrough.inputWords] at hword
  refine ⟨?tick, ?turn, ?mem, ?writes, ?output, ?inst, ?forces, ?words, ?input, ?force, hthrough.st, hthrough.saf⟩
  case tick => rw [tickOf, htime]; exact tickOf_actAt ..
  case turn => simp [hadTurn, htime, actAt_time]
  case mem => rw [inputTaken_lg, hthrough.lg]
  case writes => rw [inputTaken_lg]
  case output => rw [inputTaken_lg, hthrough.lg]
  case inst => rw [inputTaken_lg, hthrough.lg]
  case forces => rw [inputTaken_lg, hthrough.lg]
  case input => rw [himage, hinput]
  case words =>
    simp only [himage, hstn]
    simp only [List.forall_mem_append, List.forall_mem_cons, List.forall_mem_map, List.mem_range, List.not_mem_nil,
      false_implies, implies_true, and_true, and_assoc] at hword
    obtain ⟨h0, h1, hcnt, hth, h12, h13, h14, h15, hlim, h24, h25, h26, h27, h30, h31, h28, h29⟩ := hword
    exact ⟨h0, h1, hcnt, hth, h12, h13, h14, h15, hlim, by simp [h24, h25, h26, h27, h30, h31], h28, h29⟩
  case force =>
    intro f henable hforce harea hlt h28 h29 hlast
    rw [hinput]
    exact wordAt_forced ⟨henable, hforce, harea, hlt, h28, h29⟩ hlast hrises

/-! ### OUTPUT_PHASE -/

/-- What the outputs of a phase leave alone: the clock, the state, the safety functions, and of the logic engine all but the
stations. -/
structure OutputsKept (s t : State) : Prop where
  lg : t.lg = { s.lg with stations := t.lg.stations }
  time : t.time = s.time
  st : t.st = s.st
  saf : t.saf = s.saf

theorem OutputsKept.refl (s : State) : OutputsKept s s := ⟨rfl, rfl, rfl, rfl⟩

theorem OutputsKept.trans {s t u : State} (h : OutputsKept s t) (h' : OutputsKept t u) : OutputsKept s u :=
  ⟨h'.lg.trans (by rw [h.lg]), h'.time.trans h.time, h'.st.trans h.st, h'.saf.trans h.saf⟩

theorem stnJudge_outputsKept (s : State) : OutputsKept s (stnJudge s) := by
  constructor <;> simp [stnJudge]

theorem drivePhase_outputsKept (vals : Nat → Bool) (s : State) : OutputsKept s (drivePhase vals s) := by
  unfold drivePhase
  split <;> exact ⟨rfl, rfl, rfl, rfl⟩

theorem stnSend_outputsKept (img : List (Nat × Word)) (s : State) (i : Nat) : OutputsKept s (stnSend img i s) := by
  unfold stnSend emitFab
  dsimp only
  (repeat' split) <;> exact ⟨rfl, rfl, rfl, rfl⟩

theorem foldl_stnSend_outputsKept (img : List (Nat × Word)) (l : List Nat) (s : State) :
    OutputsKept s (l.foldl (fun s i => stnSend img i s) s) := by
  induction l generalizing s with
  | nil => exact .refl s
  | cons i l ih => exact (stnSend_outputsKept img s i).trans (ih _)

/-- Outputs follow the image (R280): in RUN, unless a protection task has overrun in the beat. -/
def drives (s : State) : Bool := s.st.mode == .run && !s.lg.protNow

/-- The contactor bits of an image at an output phase. -/
def bitsPut (drive : Bool) (img : List (Nat × Word)) (s : State) : State :=
  allK (fun k c =>
    let v := drive && wBit (wordAt img 1) k
    { c with progBit := v, blocked := c.blocked && (v || demanded s k) }) s

theorem getNat_bitsPut {k : Nat} (hk : k < 4) (drive : Bool) (img : List (Nat × Word)) (s : State) :
    getNat (bitsPut drive img s).saf.k k = { getNat s.saf.k k with
      progBit := drive && wBit (wordAt img 1) k
      blocked := (getNat s.saf.k k).blocked && (drive && wBit (wordAt img 1) k || demanded s k) } :=
  getNat_mapAll s.saf.k _ hk

/-- The field outputs, the contactor bits and, in RUN, the stations' frames by an output phase. -/
def outputsTaken (s : State) : State :=
  let img := forced 2 s.lg.output s
  let x := bitsPut (drives s) img
    (drivePhase (fun k => if drives s then wBit (wordAt img 0) k else (ioCfg s k).safe) s)
  if x.st.mode = .run then (List.range 16).foldl (fun s i => stnSend img i s) x else x

theorem exec_outputPhase {s : State} (hawake : awake s = true) (hm : s.st.mode.fromArmed = true) (htick : tickOf s ≤ 380)
    (hturn : hadTurn .output s = false) :
    exec .outputPhase s = .next (outputsTaken (stnJudge (actAt .output 380 (fresh s)))) := by
  have hgo : (awake (fresh s) && (fresh s).st.mode.fromArmed && mayAct .output 380 (fresh s)) = true := by
    rw [awake_fresh, fresh_st, mayAct_fresh, hawake, hm, (mayAct_iff ..).mpr ⟨htick, hturn⟩]
    rfl
  exact if_pos hgo

theorem exec_outputPhase_again {s : State} (hturn : hadTurn .output s = true) : exec .outputPhase s = .next (fresh s) :=
  if_neg (by simp [mayAct, hturn])

/-- What a phase's outputs make of the contactors: their bits follow the forced image where it drives. -/
structure BitsTaken (s t : State) : Prop where
  lg : t.lg = { s.lg with stations := t.lg.stations }
  time : t.time = s.time
  st : t.st = s.st
  bits : ∀ k < 4, (getNat t.saf.k k).hs = (getNat s.saf.k k).hs ∧ (getNat t.saf.k k).ls = (getNat s.saf.k k).ls ∧
    (getNat t.saf.k k).progBit = (drives s && wBit (wordAt (forced 2 s.lg.output s) 1) k)

theorem BitsTaken.kept {s t u : State} (h : BitsTaken s t) (h' : OutputsKept t u) : BitsTaken s u :=
  ⟨h'.lg.trans (by rw [h.lg]), h'.time.trans h.time, h'.st.trans h.st, by rw [h'.saf]; exact h.bits⟩

theorem outputsTaken_bits (s : State) : BitsTaken s (outputsTaken s) := by
  unfold outputsTaken
  extract_lets img x
  have hdriven := drivePhase_outputsKept (fun k => if drives s then wBit (wordAt img 0) k else (ioCfg s k).safe) s
  have hx : BitsTaken s x := by
    refine ⟨hdriven.lg, hdriven.time, hdriven.st, fun k hk => ?_⟩
    rw [getNat_bitsPut hk, hdriven.saf]
    exact ⟨rfl, rfl, rfl⟩
  split
  · exact hx.kept (foldl_stnSend_outputsKept ..)
  · exact hx

/-- The contactor bits after an output phase. -/
theorem does_outputPhase {s : State} (hawake : awake s = true) (hm : s.st.mode.fromArmed = true) (htick : tickOf s ≤ 380)
    (hturn : hadTurn .output s = false) :
    Does .outputPhase s (fun t => tickOf t = 380 ∧ hadTurn .output t = true ∧ t.lg.output = s.lg.output ∧
      t.lg.mem = s.lg.mem ∧ t.st = s.st ∧
      ∀ k < 4, (getNat t.saf.k k).hs = (getNat s.saf.k k).hs ∧ (getNat t.saf.k k).ls = (getNat s.saf.k k).ls ∧
        (getNat t.saf.k k).progBit = (s.st.mode == .run && !s.lg.protNow && wBit (wordAt (forced 2 s.lg.output s) 1) k)) := by
  have hjudged := stnJudge_outputsKept (actAt .output 380 (fresh s))
  obtain ⟨hlg, htime, hst, hbits⟩ := outputsTaken_bits (stnJudge (actAt .output 380 (fresh s)))
  refine ⟨_, exec_outputPhase hawake hm htick hturn, ?tick, ?turn, ?output, ?mem, ?state, ?bits⟩
  case tick => rw [tickOf, htime, hjudged.time]; exact tickOf_actAt ..
  case turn => simp [hadTurn, htime, hjudged.time, actAt_time]
  case output => rw [hlg, hjudged.lg]; rfl
  case mem => rw [hlg, hjudged.lg]; rfl
  case state => rw [hst, hjudged.st, actAt_st, fresh_st]
  case bits =>
    have hdrives : drives (stnJudge (actAt .output 380 (fresh s))) = drives s := by
      rw [drives, hjudged.st, hjudged.lg]
      rfl
    rw [hdrives, forced_eq, hjudged.lg, hjudged.saf] at hbits
    exact hbits

end Sys2Proof.Machine
end

section
/-! SUPPORT AND PROOFS. The tasks of a beat (11 R272 to R274, R276, R277, Table 11-1). -/

namespace Sys2Proof.Machine

/-! ### A program run reads the logic engine and the beat -/

section
variable {s t : State} (hlg : t.lg = s.lg)
include hlg

theorem areaWord_congr : areaWord t = areaWord s := by
  funext k x area i
  simp only [areaWord, constFor, hlg]

theorem bitOp_congr : bitOp t = bitOp s := by
  funext k x w
  simp only [bitOp, areaWord_congr hlg]

theorem wordOp_congr : wordOp t = wordOp s := by
  funext k x w
  simp only [wordOp, areaWord_congr hlg]

theorem runBits_congr (k : Nat) (code : List Word) (acc : Bool) (st : List (Bool × Nat)) (x : Shadow) :
    runBits t k code acc st x = runBits s k code acc st x := by
  induction code generalizing acc st x with
  | nil => rfl
  | cons w r ih => simp only [runBits, bitOp_congr hlg, ih]

theorem evalCall_congr (hbeat : t.time.beat = s.time.beat) : evalCall t = evalCall s := by
  funext k first hd ops x
  simp only [evalCall, hbeat, bitOp_congr hlg, wordOp_congr hlg]

theorem runCalls_congr (hbeat : t.time.beat = s.time.beat) (k : Nat) (first : Bool) (n : Nat) (code : List Word)
    (x : Shadow) : runCalls t k first n code x = runCalls s k first n code x := by
  induction n generalizing code x with
  | zero => rfl
  | succ n ih =>
    cases code with
    | nil => rfl
    | cons w r => simp only [runCalls, evalCall_congr hlg hbeat, ih]

end

/-! ### TASK_RUN -/

/-- A task runs: between the input and the output phase, in an item of E9 that runs, as the next due task (R273, R276). -/
def TaskRuns (tk : Fin 8) (s : State) : Prop :=
  nextTask s = some tk.val ∧ hadTurn .input s = true ∧ hadTurn .output s = false ∧ e9Runs s = true

section
variable {tk : Fin 8} {c : TaskCfg} {p : LogicCfg} {s : State} (hcfg : lgCfg s = some p) (htask : taskCfg s tk = some c)
include hcfg htask

theorem exec_taskRun (hawake : awake s = true) (hm : s.st.mode = .run) (cycles : Nat) (h : TaskRuns tk s) : exec (.taskRun tk cycles) s =
    if c.wcet < cycles then .next (taskOver tk c c.wcet (applyConsts tk (fresh s)))
    else .next (taskCommit tk c p cycles (applyConsts tk (fresh s))) := by
  obtain ⟨hnext, hin, hout, he9⟩ := h
  have hgo : (awake (fresh s) && (fresh s).st.mode == .run && nextTask (fresh s) == some tk.val &&
      hadTurn .input (fresh s) && !hadTurn .output (fresh s) && e9Runs (fresh s)) = true := by
    have hnext' : nextTask (fresh s) = some tk.val := hnext
    have he9' : e9Runs (fresh s) = true := he9
    simp [hawake, hm, hnext', hin, hout, he9']
  have hcfg' : lgCfg (fresh s) = some p := hcfg
  have htask' : taskCfg (fresh s) tk = some c := htask
  change execTaskRun tk cycles s = _
  simp only [execTaskRun, hcfg', htask']
  exact if_pos hgo

theorem exec_taskRun_idle (cycles : Nat) (h : ¬ TaskRuns tk s) : exec (.taskRun tk cycles) s = .next (fresh s) := by
  have hno : ¬ (awake (fresh s) && (fresh s).st.mode == .run && nextTask (fresh s) == some tk.val &&
      hadTurn .input (fresh s) && !hadTurn .output (fresh s) && e9Runs (fresh s)) = true := fun hgo => by
    simp only [Bool.and_eq_true, beq_iff_eq, Bool.not_eq_true'] at hgo
    obtain ⟨⟨⟨⟨-, hnext⟩, hin⟩, hout⟩, he9⟩ := hgo
    exact h ⟨hnext, hin, hout, he9⟩
  have hcfg' : lgCfg (fresh s) = some p := hcfg
  have htask' : taskCfg (fresh s) tk = some c := htask
  change execTaskRun tk cycles s = _
  simp only [execTaskRun, hcfg', htask']
  exact if_neg hno

end

/-- Constants that wait for a task are all of the logic engine that changes before it runs (R293). -/
theorem applyConsts_lg (k : Nat) (s : State) : ∃ pending consts own, (applyConsts k s).lg =
    { s.lg with pendingConsts := pending, consts := consts, taskConsts := own } := by
  by_cases hany : s.lg.pendingConsts.any (fun p => p.1 == k) = true
  · simp only [applyConsts, hany, Bool.not_true, Bool.false_eq_true, if_false]
    split
    · split
      · exact ⟨_, _, _, rfl⟩
      · exact ⟨_, _, _, rfl⟩
    · exact ⟨_, _, _, rfl⟩
  · have hsame : applyConsts k s = s := by simp [applyConsts, hany]
    exact ⟨_, _, _, congrArg State.lg hsame⟩

theorem applyConsts_of_none {k : Nat} {s : State} (h : s.lg.pendingConsts = []) : applyConsts k s = s := by
  simp [applyConsts, h]

theorem taskDue_of_ran {k : Nat} {s : State} (h : k ∈ s.lg.ranNow) : taskDue s k = false := by
  unfold taskDue
  split
  · simp [h]
  · rfl

/-! ### A task that ends (R274) -/

/-- What a task makes of a shadow copy, from its entry on. -/
def taskShadow (tk : Nat) (c : TaskCfg) (p : LogicCfg) (s : State) : Shadow :=
  let x0 : Shadow := { q := s.lg.output, m := s.lg.mem, inst := s.lg.inst, k := s.freeCtr }
  if p.form = 0 then runBits s tk (p.code.drop c.entry) false [] x0
  else runCalls s tk (getNat s.lg.tasks tk).firstScan p.code.length (dropCalls c.entry p.code) x0

theorem taskShadow_congr {s t : State} (hlg : t.lg = s.lg) (hbeat : t.time.beat = s.time.beat) (hfree : t.freeCtr = s.freeCtr)
    (tk : Nat) (c : TaskCfg) (p : LogicCfg) : taskShadow tk c p t = taskShadow tk c p s := by
  simp only [taskShadow, hlg, hfree, runBits_congr hlg, runCalls_congr hlg hbeat]

/-- A task's record after it has ended in time. -/
def TaskSt.ended (cycles : Nat) (y : TaskSt) : TaskSt :=
  { y with lastOvr := false, firstScan := false, peak := max y.peak (min cycles 524287) }

theorem taskCommit_lg (tk : Nat) (c : TaskCfg) (p : LogicCfg) (cycles : Nat) (s : State) :
    (taskCommit tk c p cycles s).lg = { s.lg with
      output := (taskShadow tk c p s).q, mem := (taskShadow tk c p s).m, inst := (taskShadow tk c p s).inst
      ranNow := s.lg.ranNow ++ [tk], tasks := updNat s.lg.tasks tk (TaskSt.ended cycles) } := rfl

/-- A task that ends within its WCET commits its shadow copy as a whole. -/
theorem does_taskRun_ends {tk : Fin 8} {c : TaskCfg} {p : LogicCfg} {s : State} (hcfg : lgCfg s = some p)
    (htask : taskCfg s tk = some c) (hawake : awake s = true) (hm : s.st.mode = .run) {cycles : Nat}
    (h : TaskRuns tk s) (hin : cycles ≤ c.wcet) :
    Does (.taskRun tk cycles) s (fun t => ∃ x : Shadow, t.lg.output = x.q ∧ t.lg.mem = x.m ∧ t.lg.inst = x.inst ∧
      (s.lg.pendingConsts = [] → x = taskShadow tk c p s) ∧ getNat t.lg.tasks tk = (getNat s.lg.tasks tk).ended cycles ∧
      taskDue t tk = false ∧ t.lg.input = s.lg.input ∧ t.st = s.st ∧ t.saf = s.saf) := by
  obtain ⟨pending, consts, own, hlg⟩ := applyConsts_lg tk (fresh s)
  rw [fresh_lg] at hlg
  refine ⟨_, (exec_taskRun hcfg htask hawake hm cycles h).trans (if_neg (Nat.not_lt.mpr hin)),
    taskShadow tk c p (applyConsts tk (fresh s)), by rw [taskCommit_lg], by rw [taskCommit_lg], by rw [taskCommit_lg],
    fun hnone => ?shadow, ?record, taskDue_of_ran ?ran, ?input, ?state, ?safety⟩
  case shadow =>
    rw [applyConsts_of_none (s := fresh s) hnone]
    exact taskShadow_congr (fresh_lg s) rfl (fresh_freeCtr s) ..
  case record => rw [taskCommit_lg, hlg, getNat_updNat_same _ tk.isLt]
  case ran => simp [taskCommit_lg]
  case input => rw [taskCommit_lg, hlg]
  case state => rw [taskCommit_st, applyConsts_st, fresh_st]
  case safety => rw [taskCommit_saf, applyConsts_saf, fresh_saf]

/-! ### A task that overruns (R277, Table 11-1) -/

/-- A task's record after an overrun. -/
def TaskSt.overrun (cycles : Nat) (y : TaskSt) : TaskSt :=
  { y with ovr := satAdd y.ovr 1 255, lastOvr := true, peak := max y.peak (min cycles 524287) }

/-- What an overrun of a task leaves, and what it makes of the task, of E9 and of the reaction that its class asks for. -/
structure TaskOverran (tk : Fin 8) (c : TaskCfg) (s t : State) : Prop where
  mem : t.lg.mem = s.lg.mem
  output : t.lg.output = s.lg.output
  inst : t.lg.inst = s.lg.inst
  record : ∃ n ≤ c.wcet, getNat t.lg.tasks tk = (getNat s.lg.tasks tk).overrun n
  due : taskDue t tk = false
  engine : (engineAt t 9).ovr = true
  st : t.st = s.st
  saf : t.saf = s.saf
  protection : c.cls = 0 → t.lg.protOvr = true ∧ t.lg.protNow = true ∧ t.lg.t8Pending = true
  service : c.cls ≠ 0 → t.lg.svcOvr = true ∧ t.lg.protOvr = s.lg.protOvr ∧ t.lg.t8Pending = s.lg.t8Pending

/-- The task's record and the note that it is done for this beat. -/
def overrunNoted (tk cycles : Nat) (s : State) : State :=
  modLg (fun x => { x with ranNow := x.ranNow ++ [tk] }) (modTask tk (TaskSt.overrun cycles) s)

theorem taskOver_steps (tk : Nat) (c : TaskCfg) (cycles : Nat) (s : State) :
    taskOver tk c cycles s = taskReaction tk c (taskEngine (overrunNoted tk cycles s)) := rfl

theorem taskEngine_lg (s : State) : (taskEngine s).lg = s.lg := by
  unfold taskEngine overrun
  dsimp only
  (repeat' split) <;> rfl

theorem taskEngine_ovr (s : State) : (engineAt (taskEngine s) 9).ovr = true := by
  unfold taskEngine
  split
  · rw [engineAt_modEngine_same (by decide)]
  · exact (overrun_stopped (by decide) none s).ovr

theorem taskReaction_lg (tk : Nat) (c : TaskCfg) (s : State) : (taskReaction tk c s).lg =
    if c.cls = 0 then { s.lg with protOvr := true, protNow := true, t8Pending := true }
    else { s.lg with svcOvr := true } := by
  unfold taskReaction
  split <;> rfl

theorem taskOver_lg (tk : Nat) (c : TaskCfg) (cycles : Nat) (s : State) : (taskOver tk c cycles s).lg =
    let x : Logic := { s.lg with
      tasks := updNat s.lg.tasks tk (TaskSt.overrun cycles), ranNow := s.lg.ranNow ++ [tk] }
    if c.cls = 0 then { x with protOvr := true, protNow := true, t8Pending := true } else { x with svcOvr := true } := by
  rw [taskOver_steps, taskReaction_lg, taskEngine_lg]
  rfl

theorem taskOver_overran {tk : Fin 8} {c : TaskCfg} {n : Nat} (hn : n ≤ c.wcet) (s : State) :
    TaskOverran tk c s (taskOver tk c n s) := by
  have hkept : (taskOver tk c n s).lg.mem = s.lg.mem ∧ (taskOver tk c n s).lg.output = s.lg.output ∧
      (taskOver tk c n s).lg.inst = s.lg.inst ∧
      (taskOver tk c n s).lg.tasks = updNat s.lg.tasks tk (TaskSt.overrun n) ∧
      (taskOver tk c n s).lg.ranNow = s.lg.ranNow ++ [tk.val] := by
    rw [taskOver_lg]
    dsimp only
    split <;> exact ⟨rfl, rfl, rfl, rfl, rfl⟩
  obtain ⟨hmem, houtput, hinst, htasks, hran⟩ := hkept
  refine ⟨hmem, houtput, hinst, ⟨n, hn, ?record⟩, taskDue_of_ran (by simp [hran]), ?engine, taskOver_st .., taskOver_saf ..,
    fun hcls => ?protection, fun hcls => ?service⟩
  case record => rw [htasks, getNat_updNat_same _ tk.isLt]
  case engine =>
    rw [taskOver_steps, engineAt, taskReaction_time]
    exact taskEngine_ovr _
  case protection =>
    rw [taskOver_lg]
    dsimp only
    rw [if_pos hcls]
    exact ⟨rfl, rfl, rfl⟩
  case service =>
    rw [taskOver_lg]
    dsimp only
    rw [if_neg hcls]
    exact ⟨rfl, rfl, rfl⟩

/-- Seen from a state with the same images, block data, records and reactions, it is the same overrun. -/
theorem TaskOverran.of_same {tk : Fin 8} {c : TaskCfg} {s x t : State} (h : TaskOverran tk c x t) (hst : x.st = s.st)
    (hsaf : x.saf = s.saf) {pending own : List (Nat × Nat × Int)} {consts : List Int}
    (hlg : x.lg = { s.lg with pendingConsts := pending, consts := consts, taskConsts := own }) : TaskOverran tk c s t := by
  obtain ⟨hmem, houtput, hinst, hrecord, hdue, hengine, htst, htsaf, hprot, hserv⟩ := h
  rw [hlg] at hmem houtput hinst hrecord hserv
  exact ⟨hmem, houtput, hinst, hrecord, hdue, hengine, htst.trans hst, htsaf.trans hsaf, hprot, hserv⟩

/-- A task that does not end within its WCET is stopped there. -/
theorem does_taskRun_stopped {tk : Fin 8} {c : TaskCfg} {p : LogicCfg} {s : State} (hcfg : lgCfg s = some p)
    (htask : taskCfg s tk = some c) (hawake : awake s = true) (hm : s.st.mode = .run) {cycles : Nat}
    (h : TaskRuns tk s) (hover : c.wcet < cycles) : Does (.taskRun tk cycles) s (TaskOverran tk c s) := by
  obtain ⟨pending, consts, own, hlg⟩ := applyConsts_lg tk (fresh s)
  have hoverran := taskOver_overran (tk := tk) (Nat.le_refl c.wcet) (applyConsts tk (fresh s))
  exact ⟨_, (exec_taskRun hcfg htask hawake hm cycles h).trans (if_pos hover),
    hoverran.of_same (applyConsts_st ..) (applyConsts_saf ..) hlg⟩

/-- The escapement stops a due task's item. -/
theorem does_taskOverrun {tk : Fin 8} {c : TaskCfg} {s : State} (htask : taskCfg s tk = some c) (hawake : awake s = true)
    (hm : s.st.mode = .run) (hdue : taskDue s tk = true) : Does (.taskOverrun tk) s (TaskOverran tk c s) := by
  have htask' : taskCfg (fresh s) tk = some c := htask
  have hgo : (awake (fresh s) && (fresh s).st.mode == .run && taskDue (fresh s) tk) = true := by
    have hdue' : taskDue (fresh s) tk = true := hdue
    simp [hawake, hm, hdue']
  have hexec : exec (.taskOverrun tk) s = .next (taskStopped tk (fresh s)) := by
    change execTaskOverrun tk s = _
    simp only [execTaskOverrun, htask']
    rw [if_pos hgo]
  have hstopped : taskStopped tk (fresh s) =
      taskOver tk c ((Config.freeInt s.freeCtr).toNat % (c.wcet + 1)) (tookFree 1 (fresh s)) := by
    simp only [taskStopped, htask', fresh_freeCtr]
  rw [hstopped] at hexec
  have hn : (Config.freeInt s.freeCtr).toNat % (c.wcet + 1) ≤ c.wcet := Nat.le_of_lt_succ (Nat.mod_lt _ (Nat.succ_pos _))
  have hoverran := taskOver_overran (tk := tk) hn (tookFree 1 (fresh s))
  exact ⟨_, hexec, hoverran.of_same rfl rfl rfl⟩

end Sys2Proof.Machine
end

section
/-! SUPPORT AND PROOFS. An input image whose list does not rise: why the phases of a beat fail as they are stated. -/

namespace Sys2Proof.Machine

/-- ARMED, all else as after reset, but the list of the input image falls: word 25, then word 24. -/
def fallingImage : State :=
  { State.reset with st := { mode := .armed, prev := 0, changes := 0 }
                     lg := { (default : Logic) with rawInput := [(25, 1), (24, 1)] } }

/-- Its input phase puts a 0 in word 24, but a write of 0 looks for the entry only before the first greater index: word 24
still reads 1. -/
theorem word24_fallingImage : wordAt (inputTaken (stationsJudged fallingImage)).lg.rawInput 24 = 1 := by decide

end Sys2Proof.Machine

namespace Sys2Proof

open Sys2Proof.Machine

/-- Refutes O41: the statement speaks of every state, and in one whose input image is listed out of order the input phase
does not clear word 24. Only the words of the image and the forces on them need the order that the model asks of its
lists of words: where the list rises they hold (`does_inputPhase`), and the clauses of the output phase and of the tasks
hold in every state (`does_outputPhase`, `exec_taskRun_idle`, `does_taskRun_ends`, `does_taskRun_stopped`,
`does_taskOverrun`). -/
theorem not_logicTimes : ¬ Obligations.LogicTimes := by
  rintro ⟨hphases, -⟩
  obtain ⟨-, -, hinput, -⟩ := hphases fallingImage rfl rfl
  have htick : tickOf fallingImage ≤ 20 := by decide
  obtain ⟨t, ht, -, -, -, -, -, -, -, hwords, -⟩ := hinput htick rfl
  obtain ⟨-, -, -, -, -, -, -, -, -, hzero, -⟩ := hwords
  have hstate : t = inputTaken (stationsJudged fallingImage) :=
    Host.Outcome.next.inj (ht.symm.trans (exec_inputPhase rfl rfl htick rfl))
  have hword : wordAt t.lg.rawInput 24 = 0 := hzero 24 (by decide)
  rw [hstate, word24_fallingImage] at hword
  exact absurd hword (by decide)

end Sys2Proof
end

section
/-! SUPPORT. What a frame's passage through the ports changes (12 R297 to R299, R304). -/

namespace Sys2Proof.Machine

/-! ### The passage of a frame -/

/-- What a frame's passage through the ports changes: the port counts, the tables of copies and of senders, ROUTE_DROP,
the marks and the output list. -/
structure Passage where
  port : Vector PortSt 3
  hsrSeen : List (Nat × Nat × Nat)
  paySeen : List (Nat × Nat × Nat × Nat × Nat)
  nodeTable : List (Nat × Nat)
  proxies : List Nat
  routeDrop : Bool
  mark : W1cMark
  sent : List Emit

/-- The block after a passage. -/
def Passage.into (p : Passage) (s : State) : State :=
  { s with
    fab := { s.fab with port := p.port, hsrSeen := p.hsrSeen, paySeen := p.paySeen, nodeTable := p.nodeTable
                        proxies := p.proxies, routeDrop := p.routeDrop }
    mark := p.mark, sent := p.sent }

/-- A block's own part of what passages change. -/
def Passage.of (s : State) : Passage :=
  { port := s.fab.port, hsrSeen := s.fab.hsrSeen, paySeen := s.fab.paySeen, nodeTable := s.fab.nodeTable
    proxies := s.fab.proxies, routeDrop := s.fab.routeDrop, mark := s.mark, sent := s.sent }

theorem fabArrive_passage (h : FabHdr) (s : State) : (fabArrive h s).2 = (Passage.of (fabArrive h s).2).into s := by
  unfold fabArrive
  dsimp only
  (repeat' split) <;> rfl

theorem fabAccept_passage (fits : Bool) (h : FabHdr) (s : State) :
    (fabAccept fits h s).2 = (Passage.of (fabAccept fits h s).2).into s := by
  unfold fabAccept
  (repeat' split) <;> rfl

theorem forwarded_passage (h : FabHdr) (s : State) : forwarded h s = (Passage.of (forwarded h s)).into s := by
  unfold forwarded
  dsimp only
  (repeat' split) <;> rfl

theorem Passage.into_trans {s t u : State} (h : t = (Passage.of t).into s) (h' : u = (Passage.of u).into t) :
    u = (Passage.of u).into s :=
  calc u = (Passage.of u).into t := h'
    _ = (Passage.of u).into ((Passage.of t).into s) := congrArg _ h

theorem fabIn_passage (fits : Bool) (h : FabHdr) (s : State) :
    (fabIn fits h s).2 = (Passage.of (fabIn fits h s).2).into s := by
  have harrive := fabArrive_passage h s
  rw [fabIn_eq]
  generalize fabArrive h s = r at harrive
  obtain ⟨on, t⟩ := r
  cases on
  · exact harrive
  · have hforward := Passage.into_trans harrive (forwarded_passage h t)
    dsimp only
    split
    · exact Passage.into_trans hforward (fabAccept_passage fits h _)
    · exact hforward

theorem delivered_passage (h : FabHdr) (s : State) : ∃ p : Passage, delivered h s = p.into s :=
  ⟨_, fabIn_passage true h (fresh s)⟩

/-- A frame that reaches its block is taken on in a state that differs by its passage alone. -/
theorem onFrame_passed {h : FabHdr} {kind len : Nat} {s : State} (ht : Taken h kind len s) :
    ∃ p : Passage, ∀ f : State → State, onFrame kind len h f (fresh s) = f (p.into s) := by
  obtain ⟨p, hp⟩ := delivered_passage h s
  exact ⟨p, fun f => (onFrame_of_taken ht f).trans (congrArg f hp)⟩

end Sys2Proof.Machine
end

section
/-! SUPPORT AND PROOFS. Ports, duplicates, supervision, discovery and address claims (12 R297 to R299, R301, R302,
Table 12-10). -/

namespace Sys2Proof.Machine

/-! ### Port counts (Table 12-10) -/

theorem updAt_other {α : Type} {n : Nat} (v : Vector α n) {i j : Fin n} (h : j ≠ i) (f : α → α) :
    (updAt v i f)[j] = v[j] := by
  simp [updAt, Fin.val_ne_of_ne h.symm]

theorem updAt_updAt {α : Type} {n : Nat} (v : Vector α n) (i : Fin n) (f g : α → α) :
    updAt (updAt v i f) i g = v.set i (g (f v[i])) := by
  simp [updAt]

theorem modPort_same (p : Fin 3) (f : PortSt → PortSt) (s : State) : (modPort p f s).fab.port[p] = f s.fab.port[p] :=
  updAt_same ..

theorem modPort_other {p q : Fin 3} (h : q ≠ p) (f : PortSt → PortSt) (s : State) :
    (modPort p f s).fab.port[q] = s.fab.port[q] := updAt_other _ h f

/-- A port changed twice is changed once. -/
theorem modPort_modPort (p : Fin 3) (f g : PortSt → PortSt) (s : State) : modPort p g (modPort p f s) =
    { s with fab := { s.fab with port := s.fab.port.set p (g (f s.fab.port[p])) } } := by
  simp only [modPort, modFab, updAt_updAt]

/-! ### A frame reaches its port (R297) -/

/-- A port with one more frame received. -/
def rxOnce (x : PortSt) : PortSt := { x with rx := satAdd x.rx 1 (2 ^ 32 - 1) }

/-- A port with one more frame discarded for an error. -/
def errOnce (x : PortSt) : PortSt := { x with err := satAdd x.err 1 (2 ^ 32 - 1) }

/-- A port with one more duplicate discarded. -/
def dupOnce (x : PortSt) : PortSt := { x with dup := satAdd x.dup 1 (2 ^ 32 - 1) }

/-- A frame is counted at its port. -/
def rxCounted (h : FabHdr) (s : State) : State := modPort h.port rxOnce s

theorem rxCounted_port (h : FabHdr) (s : State) : (rxCounted h s).fab.port[h.port] = rxOnce s.fab.port[h.port] :=
  modPort_same ..

theorem fabArrive_bad {h : FabHdr} (hbad : h.tagged = true ∨ 1522 < lineBytes h) (s : State) :
    fabArrive h s = (false, badFrame h.port (rxCounted h s)) := if_pos (by simpa using hbad)

section
variable {h : FabHdr} {s : State} (htag : h.tagged = false) (hlen : lineBytes h ≤ 1522) (hmac : h.mac ≠ ownMac)
include htag hlen hmac

/-- The second HSR copy. -/
theorem fabArrive_copy {b : Nat} (hport : h.port.val < 2) (hseen : (h.mac, h.hsrSeq, b) ∈ s.fab.hsrSeen)
    (hrecent : s.time.beat ≤ b + 400) : fabArrive h s = (false, dupFrame h.port (rxCounted h s)) := by
  have hany : s.fab.hsrSeen.any (fun x => x.1 == h.mac && x.2.1 == h.hsrSeq && recent s.time.beat x.2.2) = true :=
    List.any_eq_true.mpr ⟨_, hseen, by simp [recent, hrecent]⟩
  have hgood : ¬ (h.tagged || decide (1522 < lineBytes h)) = true := by simp [htag, hlen]
  unfold fabArrive
  dsimp only
  rw [if_neg hgood, if_neg hmac, if_pos hport]
  exact if_pos hany

/-- A first copy goes on: beside its count, only its sender's and its own entry are new. -/
theorem fabArrive_first (hnew : ∀ x ∈ s.fab.hsrSeen, ¬(x.1 = h.mac ∧ x.2.1 = h.hsrSeq)) :
    ∃ hs nt px, fabArrive h s =
      (true, modFab (fun x => { x with hsrSeen := hs, nodeTable := nt, proxies := px }) (rxCounted h s)) := by
  have hany : ¬ s.fab.hsrSeen.any (fun x => x.1 == h.mac && x.2.1 == h.hsrSeq && recent s.time.beat x.2.2) = true := by
    intro hany
    obtain ⟨x, hx, hsame⟩ := List.any_eq_true.mp hany
    simp only [Bool.and_eq_true, beq_iff_eq] at hsame
    exact hnew x hx hsame.1
  have hgood : ¬ (h.tagged || decide (1522 < lineBytes h)) = true := by simp [htag, hlen]
  unfold fabArrive
  dsimp only
  rw [if_neg hgood, if_neg hmac]
  split
  · exact ⟨_, _, _, if_neg hany⟩
  · split
    · exact ⟨_, _, _, rfl⟩
    · exact ⟨_, _, _, rfl⟩

end

theorem exec_hsrFrame {s : State} (hawake : awake s = true) (h : FabHdr) :
    exec (.hsrFrameReceive h) s = .next (fabIn true h (fresh s)).2 :=
  congrArg Host.Outcome.next (if_pos hawake)

theorem exec_hsrFrame_of_fabIn {h : FabHdr} {s t : State} {on : Bool} (hawake : awake s = true)
    (hin : fabIn true h (fresh s) = (on, t)) : exec (.hsrFrameReceive h) s = .next t := by
  rw [exec_hsrFrame hawake, hin]

theorem fabIn_of_stopped {h : FabHdr} {s t : State} (harrive : fabArrive h s = (false, t)) (fits : Bool) :
    fabIn fits h s = (false, t) := by
  rw [fabIn_eq, harrive]

theorem does_hsrFrame_bad {h : FabHdr} {s : State} (hawake : awake s = true)
    (hbad : h.tagged = true ∨ 1522 < lineBytes h) : Does (.hsrFrameReceive h) s (fun t =>
      t = { fresh s with fab := { s.fab with port := s.fab.port.set h.port { s.fab.port[h.port] with
        rx := satAdd s.fab.port[h.port].rx 1 (2 ^ 32 - 1), err := satAdd s.fab.port[h.port].err 1 (2 ^ 32 - 1) } } }) :=
  ⟨_, exec_hsrFrame_of_fabIn hawake (fabIn_of_stopped (fabArrive_bad hbad (fresh s)) true), modPort_modPort ..⟩

theorem does_hsrFrame_copy {h : FabHdr} {b : Nat} {s : State} (hawake : awake s = true) (htag : h.tagged = false)
    (hlen : lineBytes h ≤ 1522) (hmac : h.mac ≠ ownMac) (hport : h.port.val < 2)
    (hseen : (h.mac, h.hsrSeq, b) ∈ s.fab.hsrSeen) (hrecent : s.time.beat ≤ b + 400) :
    Does (.hsrFrameReceive h) s (fun t =>
      t = { fresh s with fab := { s.fab with port := s.fab.port.set h.port { s.fab.port[h.port] with
        rx := satAdd s.fab.port[h.port].rx 1 (2 ^ 32 - 1), dup := satAdd s.fab.port[h.port].dup 1 (2 ^ 32 - 1) } } }) :=
  ⟨_, exec_hsrFrame_of_fabIn hawake
    (fabIn_of_stopped (fabArrive_copy (s := fresh s) htag hlen hmac hport hseen hrecent) true), modPort_modPort ..⟩

/-! ### A frame by MAC only (R298, R299, R301) -/

section
variable {h : FabHdr} (hproto : ownProto h = true) (hdst : h.dst = 0)
include hproto hdst

theorem mine_of_mac (s : State) : mine h s = (h.ethDst == ownMac) := by simp [mine, hproto, hdst]

theorem forMe_of_mac (s : State) : forMe h s = (h.ethDst == ownMac) := by
  simp [forMe, mine_of_mac hproto hdst, hdst]

/-- One for this module alone does not go on. -/
theorem onward_of_ownMac (heth : h.ethDst = ownMac) (s : State) : onward h s = (0, false) :=
  if_pos (by simp [mine_of_mac hproto hdst, heth])

/-- One for another module goes on round the ring, but a TIME_PROBE. -/
theorem onward_of_otherMac (heth : h.ethDst ≠ ownMac) (hkind : h.kind ≠ 9) (hport : h.port.val < 2) (s : State) :
    onward h s = ((if h.port.val = 0 then 2 else 1) + (if outP2 h s then 4 else 0), false) := by
  have hstay : ¬ (mine h s || (ownProto h && h.kind == 9)) = true := by simp [mine_of_mac hproto hdst, heth, hkind]
  rw [onward, if_neg hstay, if_pos hport]

/-- One for this module alone is judged by its header and for copies. -/
theorem fabIn_of_ownMac (heth : h.ethDst = ownMac) {s t : State} (harrive : fabArrive h s = (true, t)) (fits : Bool) :
    fabIn fits h s = fabAccept fits h t := by
  have honward := onward_of_ownMac hproto hdst heth t
  have hforward : forwarded h t = t := by rw [forwarded, honward]; rfl
  have hforMe : forMe h t = true := (forMe_of_mac hproto hdst t).trans (by simp [heth])
  rw [fabIn_eq, harrive]
  simp only [hforward, honward, hforMe]
  rfl

theorem fabIn_of_otherMac (heth : h.ethDst ≠ ownMac) (hkind : h.kind ≠ 9) (hport : h.port.val < 2) {s t : State}
    (harrive : fabArrive h s = (true, t)) (fits : Bool) :
    ∃ ports, fabIn fits h s = (false, put (.forward h.kind h.dst ports) t) ∧
      ports % 4 = (if h.port.val = 0 then 2 else 1) := by
  have honward := onward_of_otherMac hproto hdst heth hkind hport t
  have hsome : ¬ (onward h t).1 = 0 := by rw [honward]; dsimp only; split <;> omega
  have hforMe : ∀ u, forMe h u = false := fun u => (forMe_of_mac hproto hdst u).trans (by simp [heth])
  have hforward : forwarded h t = put (.forward h.kind h.dst (onward h t).1) t := by
    rw [forwarded, if_neg hsome, honward]
    rfl
  refine ⟨(onward h t).1, ?_, ?_⟩
  · rw [fabIn_eq, harrive]
    simp only [hforMe, hforward]
    rfl
  · rw [honward]
    dsimp only
    split <;> split <;> rfl

end

/-! ### What becomes of a frame for this module (R298, R299) -/

theorem fabAccept_bad {fits : Bool} {h : FabHdr} (hbad : headerOk fits h = false) (s : State) :
    fabAccept fits h s = (false, badFrame h.port s) := if_pos (by simp [hbad])

theorem samePay_self (h : FabHdr) (b : Nat) : samePay h (h.src, h.kind, h.seq, h.dst, b) = true := by simp [samePay]

/-- Another copy of a payload frame came within the last 400 ms (R299). -/
def copied (h : FabHdr) (s : State) : Bool := s.fab.paySeen.any (fun x => samePay h x && recent s.time.beat x.2.2.2.2)

theorem copied_of_mem {h : FabHdr} {b : Nat} {s : State} (hseen : (h.src, h.kind, h.seq, h.dst, b) ∈ s.fab.paySeen)
    (hrecent : s.time.beat ≤ b + 400) : copied h s = true :=
  List.any_eq_true.mpr ⟨_, hseen, by simp [samePay_self, recent, hrecent]⟩

theorem not_copied_of_all {h : FabHdr} {s : State} (hnew : s.fab.paySeen.all (fun x => !samePay h x) = true) :
    copied h s = false := by
  refine List.any_eq_false.mpr fun x hx => ?_
  have hdiffers := List.all_eq_true.mp hnew x hx
  rw [Bool.not_eq_true'] at hdiffers
  simp [hdiffers]

/-- A payload frame is accepted, and known from now on. -/
def paid (h : FabHdr) (s : State) : State :=
  modFab (fun x => { x with paySeen := x.paySeen ++ [(h.src, h.kind, h.seq, h.dst, s.time.beat)] }) s

theorem fabAccept_ok {fits : Bool} {h : FabHdr} (hok : headerOk fits h = true) (s : State) :
    fabAccept fits h s = if copied h s then (false, dupFrame h.port s) else (true, paid h s) :=
  if_neg (by simp [hok])

section
variable {h : FabHdr} {s : State} (hawake : awake s = true) (htag : h.tagged = false) (hlen : lineBytes h ≤ 1522)
  (hmac : h.mac ≠ ownMac) (hnew : ∀ x ∈ s.fab.hsrSeen, ¬(x.1 = h.mac ∧ x.2.1 = h.hsrSeq)) (hproto : ownProto h = true)
  (hdst : h.dst = 0)
include hawake htag hlen hmac hnew hproto hdst

theorem does_hsrFrame_other (heth : h.ethDst ≠ ownMac) (hkind : h.kind ≠ 9) (hport : h.port.val < 2) :
    Does (.hsrFrameReceive h) s (fun t =>
      (∃ ports, t.sent = [.forward h.kind h.dst ports] ∧ ports % 4 = (if h.port.val = 0 then 2 else 1)) ∧
      t.fab.paySeen = s.fab.paySeen ∧ t.fab.port[h.port].rx = satAdd s.fab.port[h.port].rx 1 (2 ^ 32 - 1) ∧
      t.fab.port[h.port].err = s.fab.port[h.port].err ∧ t.fab.port[h.port].dup = s.fab.port[h.port].dup ∧
      t.st = s.st ∧ t.saf = s.saf) := by
  obtain ⟨hs, nt, px, harrive⟩ := fabArrive_first (s := fresh s) htag hlen hmac hnew
  obtain ⟨ports, hin, hports⟩ := fabIn_of_otherMac hproto hdst heth hkind hport harrive true
  have hcount := rxCounted_port h (fresh s)
  have hkept := fabIn_kept true h (fresh s)
  rw [hin] at hkept
  exact ⟨_, exec_hsrFrame_of_fabIn hawake hin, ⟨ports, rfl, hports⟩, rfl, (congrArg PortSt.rx hcount :),
    (congrArg PortSt.err hcount :), (congrArg PortSt.dup hcount :), hkept.st, hkept.saf⟩

theorem does_hsrFrame_unfit (heth : h.ethDst = ownMac) (hbad : headerOk true h = false) :
    Does (.hsrFrameReceive h) s (fun t => t.sent = [] ∧ t.fab.paySeen = s.fab.paySeen ∧
      t.fab.port[h.port].err = satAdd s.fab.port[h.port].err 1 (2 ^ 32 - 1) ∧ t.st = s.st ∧ t.saf = s.saf) := by
  obtain ⟨hs, nt, px, harrive⟩ := fabArrive_first (s := fresh s) htag hlen hmac hnew
  have hin := (fabIn_of_ownMac hproto hdst heth harrive true).trans (fabAccept_bad hbad _)
  have hkept := fabIn_kept true h (fresh s)
  rw [hin] at hkept
  have hcount : (badFrame h.port (rxCounted h (fresh s))).fab.port[h.port] = errOnce (rxOnce s.fab.port[h.port]) :=
    (modPort_same ..).trans (congrArg errOnce (rxCounted_port h (fresh s)))
  exact ⟨_, exec_hsrFrame_of_fabIn hawake hin, rfl, rfl, (congrArg PortSt.err hcount :), hkept.st, hkept.saf⟩

theorem does_hsrFrame_fit (heth : h.ethDst = ownMac) (hok : headerOk true h = true) :
    Does (.hsrFrameReceive h) s (fun t => t.sent = [] ∧ t.st = s.st ∧ t.saf = s.saf ∧
      t.fab.port[h.port].rx = satAdd s.fab.port[h.port].rx 1 (2 ^ 32 - 1) ∧
      t.fab.port[h.port].err = s.fab.port[h.port].err ∧
      (∀ b, (h.src, h.kind, h.seq, h.dst, b) ∈ s.fab.paySeen → s.time.beat ≤ b + 400 →
        t.fab.paySeen = s.fab.paySeen ∧ t.fab.port[h.port].dup = satAdd s.fab.port[h.port].dup 1 (2 ^ 32 - 1)) ∧
      (s.fab.paySeen.all (fun x => !samePay h x) = true → t.fab.port[h.port].dup = s.fab.port[h.port].dup ∧
        t.fab.paySeen = s.fab.paySeen ++ [(h.src, h.kind, h.seq, h.dst, s.time.beat)])) := by
  obtain ⟨hs, nt, px, harrive⟩ := fabArrive_first (s := fresh s) htag hlen hmac hnew
  have hin := (fabIn_of_ownMac hproto hdst heth harrive true).trans (fabAccept_ok hok _)
  have hkept := fabIn_kept true h (fresh s)
  have hcount := rxCounted_port h (fresh s)
  split at hin
  next hcopied =>
    rw [hin] at hkept
    have hdup : (dupFrame h.port (rxCounted h (fresh s))).fab.port[h.port] = dupOnce (rxOnce s.fab.port[h.port]) :=
      (modPort_same ..).trans (congrArg dupOnce hcount)
    refine ⟨_, exec_hsrFrame_of_fabIn hawake hin, rfl, hkept.st, hkept.saf, (congrArg PortSt.rx hdup :),
      (congrArg PortSt.err hdup :), fun _ _ _ => ⟨rfl, (congrArg PortSt.dup hdup :)⟩, fun hall => ?_⟩
    exact absurd (hcopied.symm.trans (not_copied_of_all hall)) (by decide)
  next hcopied =>
    rw [hin] at hkept
    exact ⟨_, exec_hsrFrame_of_fabIn hawake hin, rfl, hkept.st, hkept.saf, (congrArg PortSt.rx hcount :),
      (congrArg PortSt.err hcount :), fun b hseen hrecent => absurd (copied_of_mem hseen hrecent) hcopied,
      fun _ => ⟨(congrArg PortSt.dup hcount :), rfl⟩⟩

end

/-! ### Supervision and links (R297, Table 12-10) -/

/-- The supervision frames of an interval leave; `one` says that those of the last came back on one port only. -/
def supervised (one : Bool) (s : State) : State :=
  put .supervision (modFab (fun x => { x with
    supRun := if one then satAdd x.supRun 1 3 else 0, supBeat := some s.time.beat
    ringOpen := one && (x.ringOpen || (if one then satAdd x.supRun 1 3 else 0) == 3) }) s)

theorem exec_supervisionFrame (a b : Bool) (s : State) : exec (.supervisionFrame a b) s =
    if awake s && s.fab.supBeat.all (fun n => decide (n + 2000 ≤ s.time.beat)) then
      .next (supervised (s.fab.supBeat.isSome && a != b) (fresh s))
    else .next (fresh s) := rfl

theorem supervised_one (s : State) : (supervised true s).fab.supRun = satAdd s.fab.supRun 1 3 ∧
    (2 ≤ s.fab.supRun → (supervised true s).fab.ringOpen = true) ∧
    (s.fab.supRun < 2 → (supervised true s).fab.ringOpen = s.fab.ringOpen) := by
  refine ⟨rfl, fun hrun => ?_, fun hrun => ?_⟩
  · have hthree : satAdd s.fab.supRun 1 3 = 3 := by unfold satAdd; omega
    simp [supervised, hthree]
  · have hfewer : satAdd s.fab.supRun 1 3 ≠ 3 := by unfold satAdd; omega
    simp [supervised, hfewer]

theorem does_supervisionFrame {s : State} (hawake : awake s = true)
    (hdue : s.fab.supBeat.all (fun n => decide (n + 2000 ≤ s.time.beat)) = true) (a b : Bool) :
    Does (.supervisionFrame a b) s (fun t =>
      t.sent = [.supervision] ∧ t.fab.supBeat = some s.time.beat ∧ t.st = s.st ∧ t.saf = s.saf ∧
      (a = b ∨ s.fab.supBeat = none → t.fab.ringOpen = false ∧ t.fab.supRun = 0) ∧
      (a ≠ b → s.fab.supBeat ≠ none → t.fab.supRun = satAdd s.fab.supRun 1 3 ∧
        (2 ≤ s.fab.supRun → t.fab.ringOpen = true) ∧ (s.fab.supRun < 2 → t.fab.ringOpen = s.fab.ringOpen))) := by
  refine does_of_guard (exec_supervisionFrame a b s) (by simp [hawake, hdue])
    ⟨rfl, rfl, rfl, rfl, fun hno => ?_, fun hne hsome => ?_⟩
  · have hone : (s.fab.supBeat.isSome && a != b) = false := by
      obtain rfl | hnone := hno
      · simp
      · simp [hnone]
    rw [hone]
    exact ⟨rfl, rfl⟩
  · have hone : (s.fab.supBeat.isSome && a != b) = true := by simp [Option.isSome_iff_ne_none, hsome, hne]
    rw [hone]
    exact supervised_one (fresh s)

theorem exec_supervisionFrame_early {n : Nat} {s : State} (hlast : s.fab.supBeat = some n)
    (hearly : s.time.beat < n + 2000) (a b : Bool) : exec (.supervisionFrame a b) s = .next (fresh s) := by
  rw [exec_supervisionFrame, if_neg]
  simp [hlast, Nat.not_le.mpr hearly]

theorem does_portLinkChange (p : Fin 3) (up : Bool) (s : State) : Does (.portLinkChange p up) s (fun t =>
    t.fab.port[p].link = up ∧ (up = false → t.time.pdelay[p] = 0) ∧
    (∀ q : Fin 3, q ≠ p → t.fab.port[q] = s.fab.port[q] ∧ t.time.pdelay[q] = s.time.pdelay[q]) ∧
    t.st = s.st ∧ t.saf = s.saf) := by
  have hlink : (modPort p (fun x => { x with link := up }) (fresh s)).fab.port[p].link = up :=
    congrArg PortSt.link (modPort_same ..)
  have hothers : ∀ q : Fin 3, q ≠ p →
      (modPort p (fun x => { x with link := up }) (fresh s)).fab.port[q] = s.fab.port[q] :=
    fun q hq => modPort_other hq ..
  cases up
  · refine ⟨_, rfl, hlink, fun _ => ?_, fun q hq => ⟨hothers q hq, ?_⟩, rfl, rfl⟩
    · simp
    · simp [Fin.val_ne_of_ne hq.symm]
  · exact ⟨_, rfl, hlink, fun hno => Bool.noConfusion hno, fun q hq => ⟨hothers q hq, rfl⟩, rfl, rfl⟩

/-! ### Frames that leave at their tick -/

theorem SendReady.sentFab_of {s x t : State} (h : SendReady s x) {kind dst ports : Nat} {payload : List Byte}
    (hsent : SentFab kind dst ports payload x t) : SentFab kind dst ports payload s t := by
  have hcfg : fabCfg x = fabCfg s := by simp only [fabCfg, h.cal]
  have haddr : ownAddr x = ownAddr s := by simp only [ownAddr, h.addr, h.addrValid]
  have hstring : ownString x = ownString s := by simp only [ownString, hcfg, haddr]
  simpa only [SentFab, hcfg, haddr, hstring, h.silenced, h.seq, h.beat, h.st, h.saf, h.lim] using hsent

/-- A frame that a command of a tick sends, with its turn taken. -/
theorem sentFab_at (x : Turn) (tk kind dst ports : Nat) (payload : List Byte) (s : State) :
    let t := sendFab none kind dst s.time.beat none ports payload (actAt x tk (fresh s))
    tickOf t = tk ∧ hadTurn x t = true ∧ SentFab kind dst ports payload s t := by
  have hready : SendReady s (actAt x tk (fresh s)) := ⟨rfl, rfl, rfl, rfl, rfl, rfl, rfl, rfl, rfl, rfl⟩
  obtain ⟨htime, -⟩ := sendFab_kept none kind dst s.time.beat none ports payload (actAt x tk (fresh s))
  refine ⟨?_, ?_, hready.sentFab_of (sentFab_sendFab rfl kind dst ports payload)⟩
  · rw [tickOf, htime]
    exact tickOf_actAt ..
  · rw [hadTurn, htime]
    exact (hadTurn_actAt x x tk (fresh s)).trans (by simp)

/-! ### What the module sends (R301, R302) -/

theorem execDiscover_none (s : State) : execDiscover none s =
    if awake s && decide (s.time.beat % 1000 = 500) && mayAct .discover 100 s then
      .next (sendFab none 1 0xFFFF s.time.beat none (outPorts 1 0xFFFF s) (discoverBytes s)
        (actAt .discover 100 (fresh s)))
    else .next (fresh s) := rfl

theorem does_discover {s : State} (hawake : awake s = true) (hbeat : s.time.beat % 1000 = 500) (htick : tickOf s ≤ 100)
    (hturn : hadTurn .discover s = false) : Does (.discover none) s (fun t =>
      tickOf t = 100 ∧ hadTurn .discover t = true ∧
      SentFab 1 0xFFFF (outPorts 1 0xFFFF s) (discoverBytes s) s t) :=
  does_of_guard (execDiscover_none s) (by simp [hawake, hbeat, mayAct_iff, htick, hturn]) (sentFab_at ..)

theorem exec_discover_again {s : State} (hturn : hadTurn .discover s = true) :
    exec (.discover none) s = .next (fresh s) := if_neg (by simp [mayAct, hturn])

/-- An ADDR_CLAIM for a candidate leaves. -/
def claimSent (cand : Nat) (s : State) : State :=
  let x := modFab (fun x => { x with candidate := cand, claims := x.claims + 1, claimBeat := s.time.beat }) s
  sendFab none 2 0xFFFF x.time.beat none (outPorts 2 0xFFFF x)
    (leB 2 cand ++ leB 2 0 ++ leB 1 (s.fab.claims + 1) ++ leB 3 0) x

theorem execAddrClaim_none (s : State) : execAddrClaim none s =
    if claiming s && (decide (s.time.beat % 100 = 0) &&
        (s.fab.claims == 0 || decide (s.fab.claimBeat + 100 ≤ s.time.beat))) && decide (s.fab.claims < 3) then
      .next (claimSent (if s.fab.claims = 0 then freeStation s else s.fab.candidate) (fresh s))
    else .next (fresh s) := rfl

theorem claimSent_spec (cand : Nat) (s : State) :
    (claimSent cand (fresh s)).fab.candidate = cand ∧ (claimSent cand (fresh s)).fab.claims = s.fab.claims + 1 ∧
      (claimSent cand (fresh s)).fab.claimBeat = s.time.beat ∧
      SentFab 2 0xFFFF (outPorts 2 0xFFFF s) (leB 2 cand ++ leB 2 0 ++ leB 1 (s.fab.claims + 1) ++ leB 3 0) s
        (claimSent cand (fresh s)) := by
  obtain ⟨-, hfab⟩ := sendFab_kept none 2 0xFFFF s.time.beat none (outPorts 2 0xFFFF s)
    (leB 2 cand ++ leB 2 0 ++ leB 1 (s.fab.claims + 1) ++ leB 3 0)
    (modFab (fun x => { x with candidate := cand, claims := x.claims + 1, claimBeat := s.time.beat }) (fresh s))
  have hready : SendReady s
      (modFab (fun x => { x with candidate := cand, claims := x.claims + 1, claimBeat := s.time.beat }) (fresh s)) :=
    ⟨rfl, rfl, rfl, rfl, rfl, rfl, rfl, rfl, rfl, rfl⟩
  exact ⟨(congrArg Fab.candidate hfab :), (congrArg Fab.claims hfab :), (congrArg Fab.claimBeat hfab :),
    hready.sentFab ..⟩

/-- The addresses that the ring has shown within the last 2 000 beats. -/
def shownAddrs (s : State) : List Nat := (s.fab.peers.filter (fun p => decide (s.time.beat ≤ p.beat + 2000))).map (·.addr)

/-- The lowest station number whose address is not among them. -/
def freeNumber (s : State) : Option Nat :=
  ((List.range 1022).map (· + 1)).find? (fun k => !(shownAddrs s).contains ((fabCfg s).ring * 1024 + k))

theorem freeStation_eq (s : State) : freeStation s = (fabCfg s).ring * 1024 + (freeNumber s).getD 1022 := rfl

theorem freeNumber_isSome {n : Nat} {s : State} (hlow : 1 ≤ n) (hhigh : n ≤ 1022)
    (hn : ∀ p ∈ s.fab.peers, p.addr ≠ (fabCfg s).ring * 1024 + n) : (freeNumber s).isSome = true := by
  refine List.find?_isSome.mpr ⟨n, List.mem_map.mpr ⟨n - 1, List.mem_range.mpr (by omega), by omega⟩, ?_⟩
  simp only [shownAddrs, Bool.not_eq_true', List.contains_eq_mem, decide_eq_false_iff_not, List.mem_map,
    List.mem_filter]
  rintro ⟨q, ⟨hq, -⟩, hqn⟩
  exact hn q hq hqn

/-- Of a ring that leaves a station number free, the one found is free (R302 step 1). -/
theorem freeStation_free {s : State}
    (hfree : ∃ n, 1 ≤ n ∧ n ≤ 1022 ∧ ∀ p ∈ s.fab.peers, p.addr ≠ (fabCfg s).ring * 1024 + n) :
    ∀ p ∈ s.fab.peers, s.time.beat ≤ p.beat + 2000 → p.addr ≠ freeStation s := by
  intro p hp hbeat heq
  obtain ⟨n, hlow, hhigh, hn⟩ := hfree
  obtain ⟨k, hk⟩ := Option.isSome_iff_exists.mp (freeNumber_isSome hlow hhigh hn)
  have hfound := List.find?_some hk
  have hshown : p.addr ∈ shownAddrs s := List.mem_map_of_mem (List.mem_filter.mpr ⟨hp, by simpa using hbeat⟩)
  rw [freeStation_eq, hk, Option.getD_some] at heq
  rw [heq] at hshown
  simp [hshown] at hfound

section
variable {s : State} (hclaiming : claiming s = true) (hbeat : s.time.beat % 100 = 0)
include hclaiming hbeat

theorem does_addrClaim_first (hclaims : s.fab.claims = 0) : Does (.addrClaim none) s (fun t =>
    t.fab.candidate = freeStation s ∧ t.fab.claims = 1 ∧ t.fab.claimBeat = s.time.beat ∧
    SentFab 2 0xFFFF (outPorts 2 0xFFFF s) (leB 2 (freeStation s) ++ leB 2 0 ++ leB 1 1 ++ leB 3 0) s t ∧
    ((∃ n, 1 ≤ n ∧ n ≤ 1022 ∧ ∀ p ∈ s.fab.peers, p.addr ≠ (fabCfg s).ring * 1024 + n) →
      ∀ p ∈ s.fab.peers, s.time.beat ≤ p.beat + 2000 → p.addr ≠ t.fab.candidate)) := by
  have hexec := execAddrClaim_none s
  rw [if_pos (by simp [hclaiming, hbeat, hclaims]), if_pos hclaims] at hexec
  obtain ⟨hcand, hcount, hat, hsent⟩ := claimSent_spec (freeStation s) s
  rw [hclaims] at hcount hsent
  refine ⟨_, hexec, hcand, hcount, hat, hsent, fun hfree => ?_⟩
  rw [hcand]
  exact freeStation_free hfree

theorem does_addrClaim_next (hsome : 0 < s.fab.claims) (hfewer : s.fab.claims < 3)
    (hdue : s.fab.claimBeat + 100 ≤ s.time.beat) : Does (.addrClaim none) s (fun t =>
      t.fab.candidate = s.fab.candidate ∧ t.fab.claims = s.fab.claims + 1 ∧ t.fab.claimBeat = s.time.beat ∧
      SentFab 2 0xFFFF (outPorts 2 0xFFFF s)
        (leB 2 s.fab.candidate ++ leB 2 0 ++ leB 1 (s.fab.claims + 1) ++ leB 3 0) s t) := by
  have hexec := execAddrClaim_none s
  rw [if_pos (by simp [hclaiming, hbeat, hdue, hfewer]), if_neg (Nat.ne_of_gt hsome)] at hexec
  exact ⟨_, hexec, claimSent_spec s.fab.candidate s⟩

end

theorem exec_addrClaim_early {s : State} (hsome : 0 < s.fab.claims) (hearly : s.time.beat < s.fab.claimBeat + 100) :
    exec (.addrClaim none) s = .next (fresh s) := by
  refine (execAddrClaim_none s).trans (if_neg ?_)
  simp [Nat.ne_of_gt hsome, Nat.not_le.mpr hearly]

theorem does_addressTaken {s : State} (hclaiming : claiming s = true) (hclaims : s.fab.claims = 3)
    (hdue : s.fab.claimBeat + 100 ≤ s.time.beat) : Does .addressTaken s (fun t =>
      t.fab = { s.fab with addr := s.fab.candidate, addrValid := true, dynamic := true, claims := 0 } ∧ t.st = s.st ∧
      t.saf = s.saf ∧ t.sent = []) := by
  have hgo : (claiming (fresh s) && (fresh s).fab.claims == 3 &&
      decide ((fresh s).fab.claimBeat + 100 ≤ (fresh s).time.beat)) = true := by
    have hclaiming' : claiming (fresh s) = true := hclaiming
    simp [hclaiming', hclaims, hdue]
  exact ⟨_, if_pos hgo, rfl, rfl, rfl, rfl⟩

/-! ### What the module hears (R301, R302) -/

/-- A peer that is shown stands among the peers, and only its own earlier entry gives way to it. -/
theorem putPeer_peers (p : Peer) (s : State) : p ∈ (putPeer p s).fab.peers ∧
    ∀ q ∈ s.fab.peers, q.mac ≠ p.mac ∨ q.addr ≠ p.addr ∨ q.discovered ≠ p.discovered → q ∈ (putPeer p s).fab.peers := by
  refine ⟨List.mem_append_right _ (List.mem_singleton.mpr rfl), fun q hq hother => ?_⟩
  refine List.mem_append_left _ (List.mem_filter.mpr ⟨hq, ?_⟩)
  simpa [or_assoc] using hother

/-- A candidate that is met changes the count of claims alone. -/
theorem candidateMet_eq (mac addr : Nat) (s : State) : candidateMet mac addr s = modFab (fun x => { x with
    claims := if s.fab.addrValid = false ∧ 0 < s.fab.claims ∧ addr = s.fab.candidate ∧ mac < ownMac then 0
      else x.claims }) s := by
  unfold candidateMet
  simp only [Bool.and_eq_true, Bool.not_eq_true', decide_eq_true_eq, beq_iff_eq, and_assoc]
  split <;> rfl

/-- An address that is met changes ADDR_CONFLICT and the silence alone. -/
theorem addressMet_eq (mac addr : Nat) (s : State) : addressMet mac addr s = modFab (fun x => { x with
    addrConflict := x.addrConflict || (s.fab.addrValid && addr == s.fab.addr)
    silenced := x.silenced || (s.fab.addrValid && addr == s.fab.addr && decide (mac < ownMac)) }) s := by
  unfold addressMet
  split
  next hmet => simp [hmet]
  next hmet => simp [Bool.eq_false_iff.mpr hmet, modFab]

/-- What a DISCOVER shows of its sender. -/
def shownBy (b : DiscoverBody) (now : Nat) : Peer :=
  { mac := b.mac, addr := if b.addrValid then b.addr else 0, role := b.role, bank := b.bank, beat := now
    discovered := true }

/-- What a DISCOVER from the ring makes of the fabric block. -/
theorem takeDiscover_fab {h : FabHdr} (hport : h.port.val < 2) (b : DiscoverBody) (s : State) :
    (takeDiscover h b s).fab = { (putPeer (shownBy b s.time.beat) s).fab with
      claims := if b.addrValid = true ∧ s.fab.addrValid = false ∧ 0 < s.fab.claims ∧ b.addr = s.fab.candidate ∧
        b.mac < ownMac then 0 else s.fab.claims
      addrConflict := s.fab.addrConflict || (b.addrValid && s.fab.addrValid && b.addr == s.fab.addr)
      silenced := s.fab.silenced || (b.addrValid && s.fab.addrValid && b.addr == s.fab.addr &&
        decide (b.mac < ownMac)) } := by
  have htake : takeDiscover h b s = if b.addrValid then
      addressMet b.mac b.addr (candidateMet b.mac b.addr (putPeer (shownBy b s.time.beat) s))
    else putPeer (shownBy b s.time.beat) s := if_pos hport
  rw [htake]
  cases hvalid : b.addrValid
  · simp [putPeer]
  · simp [addressMet_eq, candidateMet_eq, putPeer]
    rfl

theorem does_discover_received {h : FabHdr} {s : State} (ht : Taken h 1 32 s) (hport : h.port.val < 2)
    (b : DiscoverBody) : Does (.discover (some (h, b))) s (fun t =>
      let a := if b.addrValid then b.addr else 0
      (∃ p ∈ t.fab.peers, p.mac = b.mac ∧ p.discovered = true ∧ p.beat = s.time.beat ∧ p.addr = a) ∧
      (∀ q ∈ s.fab.peers, q.mac ≠ b.mac ∨ q.addr ≠ a ∨ q.discovered = false → q ∈ t.fab.peers) ∧
      (b.addrValid = true → s.fab.addrValid = true → b.addr = s.fab.addr → t.fab.addrConflict = true ∧
        t.fab.silenced = (s.fab.silenced || decide (b.mac < ownMac))) ∧
      (b.addrValid = true → s.fab.addrValid = false → 0 < s.fab.claims → b.addr = s.fab.candidate → b.mac < ownMac →
        t.fab.claims = 0) ∧
      t.fab.addr = s.fab.addr ∧ t.fab.addrValid = s.fab.addrValid ∧ t.st = s.st ∧ t.saf = s.saf) := by
  obtain ⟨p, hp⟩ := onFrame_passed ht
  have hfab := takeDiscover_fab hport b (p.into s)
  obtain ⟨hnew, hold⟩ := putPeer_peers (shownBy b s.time.beat) (p.into s)
  refine ⟨_, congrArg Host.Outcome.next (hp _), ⟨shownBy b s.time.beat, ?_, rfl, rfl, rfl, rfl⟩, fun q hq hother => ?_,
    fun hvalid hown heq => ?_, fun hvalid hown hsome heq hlower => ?_, ?_, ?_, takeDiscover_st .., takeDiscover_saf ..⟩
  · rw [hfab]
    exact hnew
  · rw [hfab]
    exact hold q hq (by simpa [shownBy] using hother)
  · rw [hfab]
    simp [Passage.into, hvalid, hown, heq]
  · rw [hfab]
    exact if_pos ⟨hvalid, hown, hsome, heq, hlower⟩
  · rw [hfab]
    rfl
  · rw [hfab]
    rfl

theorem takeClaim_ring {h : FabHdr} (hport : h.port.val < 2) (a : Nat) (s : State) : takeClaim h a s =
    candidateMet h.mac a (putPeer { mac := h.mac, addr := a, role := 0, bank := 0, beat := s.time.beat
                                    discovered := false } s) := if_pos hport

theorem takeClaim_p2 {h : FabHdr} (hport : 2 ≤ h.port.val) (a : Nat) (s : State) : takeClaim h a s = s :=
  if_neg (Nat.not_lt.mpr hport)

theorem takeClaim_addrValid (h : FabHdr) (a : Nat) (s : State) :
    (takeClaim h a s).fab.addrValid = s.fab.addrValid := by
  unfold takeClaim
  split
  · rw [candidateMet_eq]
    rfl
  · rfl

theorem does_addrClaim_received {h : FabHdr} {s : State} (ht : Taken h 2 8 s) (a : Nat) :
    Does (.addrClaim (some (h, a))) s (fun t => t.st = s.st ∧ t.saf = s.saf ∧ t.fab.addrValid = s.fab.addrValid ∧
      (h.port.val < 2 → (∃ p ∈ t.fab.peers, p.mac = h.mac ∧ p.addr = a ∧ p.beat = s.time.beat ∧ p.discovered = false) ∧
        (s.fab.addrValid = false → 0 < s.fab.claims → a = s.fab.candidate → h.mac < ownMac → t.fab.claims = 0) ∧
        (ownMac ≤ h.mac ∨ a ≠ s.fab.candidate → t.fab.claims = s.fab.claims)) ∧
      (2 ≤ h.port.val → t.fab.peers = s.fab.peers ∧ t.fab.claims = s.fab.claims)) := by
  obtain ⟨p, hp⟩ := onFrame_passed ht
  refine ⟨_, congrArg Host.Outcome.next (hp _), takeClaim_st .., takeClaim_saf .., takeClaim_addrValid ..,
    fun hport => ?_, fun hport => ?_⟩
  · rw [takeClaim_ring hport, candidateMet_eq]
    refine ⟨⟨_, (putPeer_peers _ _).1, rfl, rfl, rfl, rfl⟩, fun hown hsome heq hlower => ?_, fun hno => if_neg ?_⟩
    · exact if_pos ⟨hown, hsome, heq, hlower⟩
    · rintro ⟨-, -, heq, hlower⟩
      exact hno.elim (Nat.not_le.mpr hlower) (absurd heq)
  · rw [takeClaim_p2 hport]
    exact ⟨rfl, rfl⟩

end Sys2Proof.Machine

namespace Sys2Proof

open Sys2Proof.Machine

/-- Settles O44: a frame by what becomes of it at its port, a DISCOVER and a claim by what each makes of the peers, the
candidate and the address. -/
theorem fabricPortsAndAddresses : Obligations.FabricPortsAndAddresses := by
  refine ⟨⟨fun h s hawake => ⟨does_hsrFrame_bad hawake, fun htag hlen hmac =>
        ⟨fun b => does_hsrFrame_copy hawake htag hlen hmac, fun hnew hproto hdst =>
          ⟨does_hsrFrame_other hawake htag hlen hmac hnew hproto hdst,
            does_hsrFrame_unfit hawake htag hlen hmac hnew hproto hdst,
            does_hsrFrame_fit hawake htag hlen hmac hnew hproto hdst⟩⟩⟩,
      fun a b s hawake => ⟨fun hdue => does_supervisionFrame hawake hdue a b,
        fun n hlast hearly => exec_supervisionFrame_early hlast hearly a b⟩,
      does_portLinkChange⟩,
    fun s hawake => ⟨fun hbeat htick => ⟨does_discover hawake hbeat htick, exec_discover_again⟩,
      fun hclaiming hbeat => ⟨does_addrClaim_first hclaiming hbeat, does_addrClaim_next hclaiming hbeat,
        exec_addrClaim_early⟩,
      does_addressTaken⟩,
    fun h b s ht hport => does_discover_received ht hport b,
    fun h a s ht => does_addrClaim_received ht a⟩

end Sys2Proof
end

section
/-! SUPPORT AND PROOFS. The frames of the exchange between partners, received and sent (12 R313, R314, R316, Table
12-16). -/

namespace Sys2Proof.Machine

/-! ### A frame of the partner (R315) -/

/-- A PARTNER_X frame that reaches its block, in a module of a pair. -/
theorem onExchange_passed {h : FabHdr} {len : Nat} {s : State} (ht : Taken h 6 len s) (hpair : inPair s = true)
    (hm : s.st.mode.fromLoaded = true) :
    ∃ p : Passage, ∀ f : State → State, onExchange len h f (fresh s) = f (p.into s) := by
  obtain ⟨p, hp⟩ := onFrame_passed ht
  have hgo : (inPair (p.into s) && (p.into s).st.mode.fromLoaded) = true := Bool.and_eq_true_iff.mpr ⟨hpair, hm⟩
  exact ⟨p, fun f => (hp _).trans (if_pos hgo)⟩

theorem onPartner_passed {h : FabHdr} {len : Nat} {s : State} (hf : FromPartner h len s) :
    ∃ p : Passage, ∀ f : State → State, onPartner len h f (fresh s) = f (p.into s) := by
  obtain ⟨ht, hpair, hm, hsrc⟩ := hf
  obtain ⟨p, hp⟩ := onExchange_passed ht hpair hm
  have hgo : (h.src == partnerAddr (p.into s)) = true := beq_iff_eq.mpr hsrc
  exact ⟨p, fun f => (hp _).trans (if_pos hgo)⟩

/-- A module that a frame of the partner reaches takes part in the exchange, from ARMED on. -/
theorem exchOn_of_partner {h : FabHdr} {len : Nat} {s : State} (hf : FromPartner h len s)
    (hm : s.st.mode.fromArmed = true) : exchOn s = true := by
  obtain ⟨⟨hawake, -⟩, hpair, hloaded, -⟩ := hf
  simp [exchOn, pairOn, hawake, hpair, hloaded, hm]

/-! ### Results that the partner forwards (R316) -/

theorem takeResult_first {a : Nat} {s : State} (hnone : s.chain.got.any (fun g => g.addr == a) = false)
    (b : ResultBody) : takeResult a b s = { s with chain := { s.chain with
      got := s.chain.got ++ [{ addr := a, nstat := b.nstat, suspect := b.suspect, vpos := b.vpos }] } } :=
  if_neg (by simp [hnone])

theorem takeAux_first {a : Nat} {s : State} (hnone : s.chain.gotAux.any (fun g => g.addr == a) = false) (b : AuxBody) :
    takeAux a b s = { s with chain := { s.chain with gotAux := s.chain.gotAux ++ [{ addr := a, body := b }] } } :=
  if_neg (by simp [hnone])

theorem does_resultFwd {h : FabHdr} {nd : Fin 64} {q tick : Nat} {b : ResultBody} {s : State} (hf : FromPartner h 60 s)
    (hm : s.st.mode.fromArmed = true) (hfound : (nodeRec s nd.val).found = true) (hfrom : 210 ≤ tick) (hto : tick ≤ 330)
    (htick : tickOf s ≤ 330) (hseq : q = s.time.beat % 65536)
    (hfollows : followsOther s nd.val (b.nstat.testBit 2) = true)
    (hnone : s.chain.got.any (fun g => g.addr == nd.val) = false) : Does (.resultFwd h nd q tick b) s (fun t =>
      t.chain.got = s.chain.got ++ [{ addr := nd.val, nstat := b.nstat, suspect := b.suspect, vpos := b.vpos }] ∧
      (nodeRec t nd.val).followW = b.nstat.testBit 2 ∧ t.st = s.st ∧ t.saf = s.saf) := by
  obtain ⟨p, hp⟩ := onPartner_passed hf
  have hgo : (exchOn s && decide (210 ≤ tick ∧ tick ≤ 330 ∧ tickOf s ≤ 330) && q == s.time.beat % 65536 &&
      (nodeRec s nd.val).found && followsOther s nd.val (b.nstat.testBit 2)) = true := by
    simp [exchOn_of_partner hf hm, hfrom, hto, htick, hseq, hfound, hfollows]
  refine ⟨_, congrArg Host.Outcome.next ((hp _).trans (if_pos hgo)), ?_⟩
  rw [takeResult_first (s := modRec _ _ (p.into s)) hnone]
  refine ⟨rfl, ?_, rfl, rfl⟩
  exact (congrArg NodeM.followW (nodeRec_modRec_self nd.isLt _ (p.into s)) :)

theorem does_auxFwd {h : FabHdr} {nd : Fin 64} {q tick : Nat} {b : AuxBody} {s : State} (hf : FromPartner h 60 s)
    (hm : s.st.mode.fromArmed = true) (hfound : (nodeRec s nd.val).found = true) (hfrom : 20 ≤ tick) (hto : tick ≤ 140)
    (htick : tickOf s ≤ 140) (hseq : (q + 1) % 65536 = s.time.beat % 65536)
    (hfollows : followsOther s nd.val (nodeRec s nd.val).followW = true)
    (hnone : s.chain.gotAux.any (fun g => g.addr == nd.val) = false) : Does (.auxFwd h nd q tick b) s (fun t =>
      t.chain.gotAux = s.chain.gotAux ++ [{ addr := nd.val, body := b }] ∧ t.st = s.st ∧ t.saf = s.saf) := by
  obtain ⟨p, hp⟩ := onPartner_passed hf
  have hgo : (exchOn s && decide (20 ≤ tick ∧ tick ≤ 140 ∧ tickOf s ≤ 140) && (q + 1) % 65536 == s.time.beat % 65536 &&
      (nodeRec s nd.val).found && followsOther s nd.val (nodeRec s nd.val).followW) = true := by
    simp [exchOn_of_partner hf hm, hfrom, hto, htick, hseq, hfound, hfollows]
  refine ⟨_, congrArg Host.Outcome.next ((hp _).trans (if_pos hgo)), ?_⟩
  rw [takeAux_first (s := p.into s) hnone]
  exact ⟨rfl, rfl, rfl⟩

/-! ### What the holder sends the other (R316) -/

section
variable {h : FabHdr} {s : State} (hm : s.st.mode.fromArmed = true) (hother : holder s = false)
  (hbeat : thisBeat h s = true)
include hm hother hbeat

/-- The non-holder takes a frame of this beat. -/
theorem fromHolder {len : Nat} (hf : FromPartner h len s) : (exchOn s && !holder s && thisBeat h s) = true := by
  simp [exchOn_of_partner hf hm, hother, hbeat]

theorem does_front_received (hf : FromPartner h 20 s) (b : FrontBody) : Does (.front (some (h, b))) s (fun t =>
    (t.meas.alignedE.map (fun a => (a.beat, a.fe.i, a.fe.vStr, a.fe.vLnk))) = some (s.time.beat, b.i, b.vStr, b.vLnk) ∧
    t.meas.aligned = s.meas.aligned ∧ t.st = s.st ∧ t.saf = s.saf) := by
  obtain ⟨p, hp⟩ := onPartner_passed hf
  exact ⟨_, congrArg Host.Outcome.next ((hp _).trans (if_pos (fromHolder hm hother hbeat hf))), rfl, rfl, rfl, rfl⟩

theorem does_streamX_received (hf : FromPartner h 52 s) (b : StreamBody) : Does (.streamX (some (h, b))) s (fun t =>
    t.meas.iMean = b.iMean ∧ t.meas.qSum = s.meas.qSum - s.meas.ownDq + b.dq ∧ t.st = s.st ∧ t.saf = s.saf) := by
  obtain ⟨p, hp⟩ := onPartner_passed hf
  exact ⟨_, congrArg Host.Outcome.next ((hp _).trans (if_pos (fromHolder hm hother hbeat hf))), rfl, rfl, rfl, rfl⟩

theorem does_plan_received {b : PlanBody} (hf : FromPartner h (136 + 4 * b.ic.length) s) (hcmds : b.cmds = []) :
    Does (.plan (some (h, b))) s (fun t =>
      t.fab.pair.plan = some (s.time.beat, b) ∧ t.spec = s.spec ∧ t.st = s.st ∧ t.saf = s.saf) := by
  have hlen : 136 + 16 * b.cmds.length + 4 * b.ic.length = 136 + 4 * b.ic.length := by simp [hcmds]
  rw [← hlen] at hf
  obtain ⟨p, hp⟩ := onPartner_passed hf
  refine ⟨_, congrArg Host.Outcome.next ((hp _).trans (if_pos (fromHolder hm hother hbeat hf))), ?_⟩
  rw [hcmds]
  exact ⟨rfl, rfl, rfl, rfl⟩

end

/-! ### Delays from the other end (R313) -/

theorem does_delays_received {h : FabHdr} {nd : Fin 64} {d : End} {v : Nat} {s : State} (hf : FromPartner h 8 s)
    (hclaim : higherClaim s = true) (hfound : (nodeRec s nd.val).found = true)
    (hnews : s.st.mode.fromArmed = false ∨ 2 ≤ ((v : Int) - (nodeRec s nd.val).dOf d).natAbs) :
    Does (.delays (some (h, nd, d, v))) s (fun t =>
      nodeRec t nd.val = NodeM.withNew d v (nodeRec s nd.val) ∧ t.st = s.st ∧ t.saf = s.saf) := by
  obtain ⟨p, hp⟩ := onPartner_passed hf
  have hgo : (higherClaim s && (nodeRec s nd.val).found) = true := by simp [hclaim, hfound]
  have hnews' : ¬ (s.st.mode.fromArmed = true ∧ ((v : Int) - (nodeRec s nd.val).dOf d).natAbs < 2) := by
    rintro ⟨harmed, hnear⟩
    obtain hno | hfar := hnews
    · exact Bool.noConfusion (hno.symm.trans harmed)
    · omega
  exact ⟨_, congrArg Host.Outcome.next ((hp _).trans ((if_pos hgo).trans (if_neg hnews'))),
    nodeRec_modRec_self nd.isLt _ (p.into s), rfl, rfl⟩

/-! ### What the module sends (R313, R314, Table 12-16) -/

/-- A frame to the partner that a command of a tick sends, with its turn taken. -/
theorem sentX_at (x : Turn) (tk sub : Nat) (body : List Byte) (s : State) :
    let t := sendX sub body (actAt x tk (fresh s))
    tickOf t = tk ∧ hadTurn x t = true ∧ SentFab 6 (partnerAddr s) 3 (leB 1 sub ++ leB 3 0 ++ body) s t :=
  sentFab_at x tk 6 (partnerAddr s) 3 (leB 1 sub ++ leB 3 0 ++ body) s

theorem execStatus_none (s : State) : execStatus none s =
    if pairOn s && mayAct .status 370 s then .next (sendX 7 (statusBytes (ownStatus s)) (actAt .status 370 (fresh s)))
    else .next (fresh s) := rfl

theorem execStreamX_none (s : State) : execStreamX none s =
    if exchOn s && holder s && mayAct .stream 22 s then .next (sendX 4 (streamBytes s) (actAt .stream 22 (fresh s)))
    else .next (fresh s) := rfl

theorem execPlan_none (s : State) : execPlan none s =
    if exchOn s && holder s && mayAct .plan 370 s then .next (sendX 5 (planBytes s) (actAt .plan 370 (fresh s)))
    else .next (fresh s) := rfl

theorem execFront_none {a : Aligned} {s : State} (ha : s.meas.aligned = some a) : execFront none s =
    if exchOn s && holder s && a.beat == s.time.beat && mayAct .front 242 s then
      .next (sendX 3 (frontBytes a.fe) (actAt .front 242 (fresh s)))
    else .next (fresh s) := by
  simp only [execFront, fresh_meas, ha]
  rfl

theorem does_status_sent {s : State} (hon : pairOn s = true) (htick : tickOf s ≤ 370)
    (hturn : hadTurn .status s = false) : Does (.status none) s (fun t => tickOf t = 370 ∧ hadTurn .status t = true ∧
      SentFab 6 (partnerAddr s) 3 (leB 1 7 ++ leB 3 0 ++ statusBytes (ownStatus s)) s t) :=
  does_of_guard (execStatus_none s) (by simp [hon, mayAct_iff, htick, hturn]) (sentX_at ..)

theorem exec_status_again {s : State} (hturn : hadTurn .status s = true) : exec (.status none) s = .next (fresh s) :=
  (execStatus_none s).trans (if_neg (by simp [mayAct, hturn]))

theorem exec_streamX_again {s : State} (hturn : hadTurn .stream s = true) : exec (.streamX none) s = .next (fresh s) :=
  (execStreamX_none s).trans (if_neg (by simp [mayAct, hturn]))

theorem exec_plan_again {s : State} (hturn : hadTurn .plan s = true) : exec (.plan none) s = .next (fresh s) :=
  (execPlan_none s).trans (if_neg (by simp [mayAct, hturn]))

theorem exec_front_again {s : State} (hturn : hadTurn .front s = true) : exec (.front none) s = .next (fresh s) := by
  cases ha : s.meas.aligned with
  | none =>
    change execFront none s = _
    simp only [execFront, fresh_meas, ha]
  | some a => exact (execFront_none ha).trans (if_neg (by simp [mayAct, hturn]))

section
variable {s : State} (hon : pairOn s = true) (hm : s.st.mode.fromArmed = true) (hholder : holder s = true)
include hon hm hholder

/-- From ARMED on the holder takes its part in the exchange. -/
theorem exchOn_holder : (exchOn s && holder s) = true := by simp [exchOn, hon, hm, hholder]

theorem does_streamX_sent (htick : tickOf s ≤ 22) (hturn : hadTurn .stream s = false) :
    Does (.streamX none) s (fun t => tickOf t = 22 ∧ hadTurn .stream t = true ∧
      SentFab 6 (partnerAddr s) 3 (leB 1 4 ++ leB 3 0 ++ streamBytes s) s t) :=
  does_of_guard (execStreamX_none s) (by simp [exchOn_holder hon hm hholder, mayAct_iff, htick, hturn]) (sentX_at ..)

theorem does_front_sent {a : Aligned} (htick : tickOf s ≤ 242) (hturn : hadTurn .front s = false)
    (ha : s.meas.aligned = some a) (hbeat : a.beat = s.time.beat) :
    Does (.front none) s (fun t => tickOf t = 242 ∧ hadTurn .front t = true ∧
      SentFab 6 (partnerAddr s) 3 (leB 1 3 ++ leB 3 0 ++ frontBytes a.fe) s t) :=
  does_of_guard (execFront_none ha) (by simp [exchOn_holder hon hm hholder, hbeat, mayAct_iff, htick, hturn])
    (sentX_at ..)

theorem does_plan_sent (htick : tickOf s ≤ 370) (hturn : hadTurn .plan s = false) :
    Does (.plan none) s (fun t => tickOf t = 370 ∧ hadTurn .plan t = true ∧
      SentFab 6 (partnerAddr s) 3 (leB 1 5 ++ leB 3 0 ++ planBytes s) s t) :=
  does_of_guard (execPlan_none s) (by simp [exchOn_holder hon hm hholder, mayAct_iff, htick, hturn]) (sentX_at ..)

end

theorem execDelays_none {a : Nat} {w : Bool} {v : Nat} {r : List (Nat × Bool × Nat)} {s : State}
    (hwaits : s.fab.pair.delays = (a, w, v) :: r) : execDelays none s =
      if pairOn s then .next (sendX 6 (leB 1 a ++ leB 1 (b2n w) ++ leB 2 v)
        (modPair (fun p => { p with delays := r }) (fresh s)))
      else .next (fresh s) := by
  simp only [execDelays, fresh_fab, hwaits]
  rfl

theorem does_delays_sent {a : Nat} {w : Bool} {v : Nat} {r : List (Nat × Bool × Nat)} {s : State} (hon : pairOn s = true)
    (hwaits : s.fab.pair.delays = (a, w, v) :: r) : Does (.delays none) s (fun t => t.fab.pair.delays = r ∧
      SentFab 6 (partnerAddr s) 3 (leB 1 6 ++ leB 3 0 ++ (leB 1 a ++ leB 1 (b2n w) ++ leB 2 v)) s t) := by
  have hready : SendReady s (modPair (fun p => { p with delays := r }) (fresh s)) :=
    ⟨rfl, rfl, rfl, rfl, rfl, rfl, rfl, rfl, rfl, rfl⟩
  obtain ⟨-, hfab⟩ := sendFab_kept none 6 (partnerAddr s) s.time.beat none 3
    (leB 1 6 ++ leB 3 0 ++ (leB 1 a ++ leB 1 (b2n w) ++ leB 2 v)) (modPair (fun p => { p with delays := r }) (fresh s))
  exact does_of_guard (execDelays_none hwaits) hon
    ⟨(congrArg (fun f : Fab => f.pair.delays) hfab :), hready.sentFab_of (sentFab_sendFab rfl ..)⟩

end Sys2Proof.Machine

namespace Sys2Proof

open Sys2Proof.Machine

/-- Settles O46: each frame received by what its acceptance makes of the block, each one sent by its turn and its bytes. -/
theorem partnerFrames : Obligations.PartnerFrames := by
  refine ⟨⟨fun h nd q tick s hf hm hfound => ⟨fun b => does_resultFwd hf hm hfound, fun b => does_auxFwd hf hm hfound⟩,
      fun h s hm hother hbeat => ⟨fun b hf => does_front_received hm hother hbeat hf b,
        fun b hf => does_streamX_received hm hother hbeat hf b, fun b => does_plan_received hm hother hbeat⟩,
      fun h nd d v s => does_delays_received⟩,
    fun s hon => ⟨does_status_sent hon, fun hm hholder => ⟨does_streamX_sent hon hm hholder,
        fun a => does_front_sent hon hm hholder, does_plan_sent hon hm hholder⟩,
      exec_status_again, exec_streamX_again, exec_front_again, exec_plan_again,
      fun a w v r => does_delays_sent hon⟩⟩

end Sys2Proof
end

section
/-! SUPPORT AND PROOFS. How a pair forms, is lost, yields and is reclaimed (12 R311, R313, R319, R320). -/

namespace Sys2Proof.Machine

/-! ### STATUS (R311, R313, R319) -/

theorem takeStatus_lost {s : State} (hlost : s.fab.pair.st = .lost) (h : FabHdr) (b : StatusBody) :
    takeStatus h b s = s := if_pos (Or.inr hlost)

/-- One of another module breaks the second item of R311, and does nothing else (log 27). -/
theorem takeStatus_other {h : FabHdr} {s : State} (hsrc : h.src ≠ partnerAddr s)
    (hst : s.fab.pair.st = .waiting ∨ s.fab.pair.st = .formed) (b : StatusBody) :
    takeStatus h b s = modPair (fun p => { p with configBad := true }) s := by
  have hpair : ¬ (s.fab.pair.st = .none ∨ s.fab.pair.st = .lost) := by
    obtain hst | hst := hst <;> simp [hst]
  exact (if_neg hpair).trans (if_pos hsrc)

theorem mapTemps_fab (s : State) : (mapTemps s).fab = s.fab := by simp only [mapTemps]

/-- Positions that are mapped anew leave the pair alone (04 R100). -/
theorem ite_mapTemps_fab (c : Bool) (s : State) : (if c = true then mapTemps s else s).fab = s.fab := by
  split
  · exact mapTemps_fab s
  · rfl

/-- The good STATUS frames in a row after one more, which is good or not. -/
def goodRunAfter (ok : Bool) (n : Nat) : Nat := if ok then satAdd n 1 3 else 0

/-- The first STATUS of a beat from the partner, while the pair has not formed. -/
theorem takeStatus_waiting {h : FabHdr} {s : State} (hsrc : h.src = partnerAddr s) (hst : s.fab.pair.st = .waiting)
    (hfirst : s.fab.pair.gotNow = false) (b : StatusBody) :
    let ok := pairConfig h.src (ownStatus s) b (ownAddr s)
    let run := goodRunAfter ok s.fab.pair.goodRun
    ∃ m x, (takeStatus h b s).fab.pair = { s.fab.pair with
      partner := some b, gotNow := true, missRun := 0, goodRun := run, configBad := s.fab.pair.configBad || !ok
      st := if run = 3 then .formed else .waiting, mismatchRun := m, stepMismatch := x } := by
  intro ok run
  have hpair : ¬ (s.fab.pair.st = .none ∨ s.fab.pair.st = .lost) := by simp [hst]
  have hrun : (if !ok then 0 else if s.fab.pair.gotNow then s.fab.pair.goodRun else satAdd s.fab.pair.goodRun 1 3) = run := by
    simp only [run, goodRunAfter, hfirst]
    cases ok <;> rfl
  unfold takeStatus
  dsimp only
  rw [if_neg hpair, if_neg (not_not_intro hsrc), ite_mapTemps_fab]
  simp only [modPair_fab, hst, true_and]
  exact ⟨_, _, by rw [← hrun]⟩

theorem goodRunAfter_formed (n : Nat) : goodRunAfter true n = 3 ↔ 2 ≤ n := by
  simp only [goodRunAfter, if_true, satAdd]
  omega

section
variable {h : FabHdr} {s : State} (ht : Taken h 6 20 s) (hpair : inPair s = true)
  (hm : s.st.mode.fromLoaded = true) (b : StatusBody)
include ht hpair hm

/-- A STATUS that is received is taken in a state that differs by its passage alone. -/
theorem exec_status_received :
    ∃ p : Passage, exec (.status (some (h, b))) s = .next (takeStatus h b (p.into s)) := by
  obtain ⟨p, hp⟩ := onExchange_passed ht hpair hm
  exact ⟨p, congrArg Host.Outcome.next (hp _)⟩

theorem does_status_waiting (hsrc : h.src = partnerAddr s) (hst : s.fab.pair.st = .waiting)
    (hfirst : s.fab.pair.gotNow = false) : Does (.status (some (h, b))) s (fun t => t.st = s.st ∧ t.saf = s.saf ∧
      t.fab.pair.gotNow = true ∧ t.fab.pair.missRun = 0 ∧ t.fab.pair.partner = some b ∧
      (pairConfig h.src (ownStatus s) b (ownAddr s) = true → t.fab.pair.goodRun = satAdd s.fab.pair.goodRun 1 3 ∧
        t.fab.pair.configBad = s.fab.pair.configBad ∧
        t.fab.pair.st = (if 2 ≤ s.fab.pair.goodRun then .formed else .waiting)) ∧
      (pairConfig h.src (ownStatus s) b (ownAddr s) = false → t.fab.pair.goodRun = 0 ∧ t.fab.pair.configBad = true ∧
        t.fab.pair.st = .waiting)) := by
  obtain ⟨p, hexec⟩ := exec_status_received ht hpair hm b
  obtain ⟨m, x, htaken⟩ := takeStatus_waiting (s := p.into s) hsrc hst hfirst b
  have hown : ownStatus (p.into s) = ownStatus s := rfl
  have haddr : ownAddr (p.into s) = ownAddr s := rfl
  rw [hown, haddr] at htaken
  refine ⟨_, hexec, takeStatus_st .., takeStatus_saf .., ?_⟩
  rw [htaken]
  refine ⟨rfl, rfl, rfl, fun hgood => ?_, fun hbad => ?_⟩
  · simp only [hgood, goodRunAfter_formed, Bool.not_true, Bool.or_false]
    exact ⟨rfl, rfl, rfl⟩
  · simp [hbad, goodRunAfter]

theorem does_status_other (hsrc : h.src ≠ partnerAddr s)
    (hst : s.fab.pair.st = .waiting ∨ s.fab.pair.st = .formed) : Does (.status (some (h, b))) s (fun t =>
      t.fab.pair = { s.fab.pair with configBad := true } ∧ t.st = s.st ∧ t.saf = s.saf) := by
  obtain ⟨p, hexec⟩ := exec_status_received ht hpair hm b
  rw [takeStatus_other (s := p.into s) hsrc hst b] at hexec
  exact ⟨_, hexec, rfl, rfl, rfl⟩

theorem does_status_lost (hlost : s.fab.pair.st = .lost) : Does (.status (some (h, b))) s (fun t =>
    t.fab.pair = s.fab.pair) := by
  obtain ⟨p, hexec⟩ := exec_status_received ht hpair hm b
  rw [takeStatus_lost (s := p.into s) hlost h b] at hexec
  exact ⟨_, hexec, rfl⟩

end

theorem does_pairLost {s : State} (hon : pairOn s = true) (hst : s.fab.pair.st = .formed)
    (hmissed : 3 ≤ s.fab.pair.missRun) (htick : tickOf s ≤ 330) : Does .pairLost s (fun t => tickOf t = 330 ∧
      t.fab = { s.fab with pair := { s.fab.pair with st := .lost } } ∧ t.st = s.st ∧ t.saf = s.saf) := by
  have hgo : (pairOn s && s.fab.pair.st == .formed && decide (3 ≤ s.fab.pair.missRun) && decide (tickOf s ≤ 330)) = true := by
    simp [hon, hst, hmissed, htick]
  exact ⟨_, if_pos hgo, tickOf_atTick 330 s, rfl, rfl, rfl⟩

/-! ### A beat of the pair (R313, R319, R320) -/

/-- A beat in which no STATUS came is counted. -/
def Pair.missCounted (p : Pair) : Pair :=
  { (if p.gotNow then p else { p with missRun := satAdd p.missRun 1 3, goodRun := 0, mismatchRun := 0
                                      statusMiss := satAdd p.statusMiss 1 65535 }) with gotNow := false }

/-- YIELD acts. -/
def Pair.yieldDone (p : Pair) : Pair :=
  if p.yieldNext then { p with yielded := true, yieldNext := false, holder := false } else p

/-- RECLAIM acts, once its beat has come. -/
def Pair.reclaimDone (now : Nat) (p : Pair) : Pair :=
  match p.reclaimAt with
  | some n => if n ≤ now then { p with yielded := false, reclaimAt := none, holder := true } else p
  | none => p

theorem pairBeat_pair {s : State} (hon : pairOn s = true) :
    (pairBeat s).fab.pair = (s.fab.pair.missCounted.yieldDone).reclaimDone s.time.beat := by
  rw [pairBeat, if_pos hon]
  rfl

theorem yieldDone_kept (p : Pair) : p.yieldDone.missRun = p.missRun ∧ p.yieldDone.goodRun = p.goodRun ∧
    p.yieldDone.reclaimAt = p.reclaimAt := by
  unfold Pair.yieldDone
  split <;> exact ⟨rfl, rfl, rfl⟩

theorem reclaimDone_kept (now : Nat) (p : Pair) : (p.reclaimDone now).missRun = p.missRun ∧
    (p.reclaimDone now).goodRun = p.goodRun := by
  unfold Pair.reclaimDone
  (repeat' split) <;> exact ⟨rfl, rfl⟩

theorem missCounted_kept (p : Pair) : p.missCounted.yieldNext = p.yieldNext ∧ p.missCounted.reclaimAt = p.reclaimAt := by
  unfold Pair.missCounted
  split <;> exact ⟨rfl, rfl⟩

theorem missCounted_of_missed {p : Pair} (hmissed : p.gotNow = false) :
    p.missCounted.missRun = satAdd p.missRun 1 3 ∧ p.missCounted.goodRun = 0 := by
  simp [Pair.missCounted, hmissed]

theorem reclaimDone_of_none {now : Nat} {p : Pair} (hnone : p.reclaimAt = none) : p.reclaimDone now = p := by
  simp only [Pair.reclaimDone, hnone]

theorem reclaimDone_of_due {now n : Nat} {p : Pair} (hat : p.reclaimAt = some n) (hdue : n ≤ now) :
    (p.reclaimDone now).yielded = false ∧ (p.reclaimDone now).holder = true := by
  simp [Pair.reclaimDone, hat, hdue]

section
variable {s : State} (hon : pairOn s = true)
include hon

theorem pairBeat_missed (hmissed : s.fab.pair.gotNow = false) :
    (pairBeat s).fab.pair.missRun = satAdd s.fab.pair.missRun 1 3 ∧ (pairBeat s).fab.pair.goodRun = 0 := by
  obtain ⟨hmiss, hgood⟩ := missCounted_of_missed hmissed
  obtain ⟨hmiss', hgood', -⟩ := yieldDone_kept s.fab.pair.missCounted
  obtain ⟨hmiss'', hgood''⟩ := reclaimDone_kept s.time.beat s.fab.pair.missCounted.yieldDone
  rw [pairBeat_pair hon]
  exact ⟨hmiss''.trans (hmiss'.trans hmiss), hgood''.trans (hgood'.trans hgood)⟩

theorem pairBeat_yields (hnone : s.fab.pair.reclaimAt = none) (hyield : s.fab.pair.yieldNext = true) :
    (pairBeat s).fab.pair.yielded = true ∧ (pairBeat s).fab.pair.holder = false := by
  obtain ⟨hnext, hat⟩ := missCounted_kept s.fab.pair
  obtain ⟨-, -, hat'⟩ := yieldDone_kept s.fab.pair.missCounted
  rw [pairBeat_pair hon, reclaimDone_of_none (hat'.trans (hat.trans hnone)), Pair.yieldDone,
    if_pos (hnext.trans hyield)]
  exact ⟨rfl, rfl⟩

theorem pairBeat_reclaims {n : Nat} (hat : s.fab.pair.reclaimAt = some n) (hdue : n ≤ s.time.beat) :
    (pairBeat s).fab.pair.yielded = false ∧ (pairBeat s).fab.pair.holder = true := by
  obtain ⟨-, hat'⟩ := missCounted_kept s.fab.pair
  obtain ⟨-, -, hat''⟩ := yieldDone_kept s.fab.pair.missCounted
  rw [pairBeat_pair hon]
  exact reclaimDone_of_due (hat''.trans (hat'.trans hat)) hdue

end

/-! ### PAIR_CTRL (R320) -/

theorem accessed_fab (i : Fin 32) (s : State) : (accessed i s).fab = s.fab := by simp [accessed]

theorem plainReg_pairCtrl : PlainReg 0xD084 .fabric 0x084 := ⟨rfl, rfl, rfl⟩

/-- YIELD may be taken: by the holder of a formed pair, in STOP. -/
theorem pairCtrlWrite_yield {s : State} (hstop : s.st.mode = .stop) (hpair : inPair s = true)
    (hholder : s.fab.pair.holder = true) (hst : s.fab.pair.st = .formed) (hnot : s.fab.pair.yielded = false) :
    pairCtrlWrite b31 s = (.ok, modPair (fun p => { p with yieldNext := true }) s) := by
  have h31 : wBit b31 31 = true := rfl
  have h30 : wBit b31 30 = false := rfl
  simp [pairCtrlWrite, h31, h30, hstop, hpair, hholder, hst, hnot]

theorem pairCtrlWrite_reclaim {s : State} (hstop : s.st.mode = .stop) (hpair : inPair s = true)
    (hyielded : s.fab.pair.yielded = true) : pairCtrlWrite b30 s =
      (.ok, modPair (fun p => { p with reclaimAt := some ((s.time.beat / 1000 + 1) * 1000) }) s) := by
  have h31 : wBit b30 31 = false := rfl
  have h30 : wBit b30 30 = true := rfl
  simp [pairCtrlWrite, h31, h30, hstop, hpair, hyielded]

theorem pairCtrlWrite_reclaim_refused {s : State} (hnot : s.fab.pair.yielded = false) :
    pairCtrlWrite b30 s = (.access, s) := by
  have h31 : wBit b30 31 = false := rfl
  have h30 : wBit b30 30 = true := rfl
  simp [pairCtrlWrite, h31, h30, hnot]

section
variable {i : Fin 32} {s : State} (h : MayWrite i s)
include h

/-- A write of PAIR_CTRL whose meaning changes at most the fabric block. -/
theorem writeCmd_pairCtrl {v : Word} {c : RspCode} {f : Pair → Pair}
    (hw : pairCtrlWrite v (accessed i s) = (c, modPair f (accessed i s))) :
    ∃ t, writeCmd i 0xD084 v s = .next t ∧ t.fab.pair = f s.fab.pair ∧ t.st = s.st ∧ t.saf = s.saf ∧
      said t = [directRsp i 4 c 0xD084 []] :=
  writeCmd_plain h plainReg_pairCtrl hw (modPair_host ..)
    ⟨congrArg (fun x : Fab => f x.pair) (accessed_fab i s), accessed_st i s, accessed_saf i s, rfl⟩

theorem does_yieldCmd (hstop : s.st.mode = .stop) (hpair : inPair s = true) (hholder : s.fab.pair.holder = true)
    (hst : s.fab.pair.st = .formed) (hnot : s.fab.pair.yielded = false) : Does (.yieldCmd i) s (fun t =>
      t.fab.pair = { s.fab.pair with yieldNext := true } ∧ t.st = s.st ∧ t.saf = s.saf) := by
  obtain ⟨t, ht, hpair', hst', hsaf, -⟩ :=
    writeCmd_pairCtrl h (pairCtrlWrite_yield (s := accessed i s) hstop hpair hholder hst hnot)
  exact ⟨t, ht, hpair', hst', hsaf⟩

theorem does_reclaim (hstop : s.st.mode = .stop) (hpair : inPair s = true) (hyielded : s.fab.pair.yielded = true) :
    Does (.reclaim i) s (fun t =>
      t.fab.pair = { s.fab.pair with reclaimAt := some ((s.time.beat / 1000 + 1) * 1000) } ∧ t.st = s.st ∧
      t.saf = s.saf) := by
  obtain ⟨t, ht, hpair', hst', hsaf, -⟩ :=
    writeCmd_pairCtrl h (pairCtrlWrite_reclaim (s := accessed i s) hstop hpair hyielded)
  exact ⟨t, ht, hpair', hst', hsaf⟩

theorem does_reclaim_refused (hnot : s.fab.pair.yielded = false) : Does (.reclaim i) s (fun t =>
    t.fab.pair = s.fab.pair ∧ said t = [directRsp i 4 .access 0xD084 []]) := by
  obtain ⟨t, ht, hpair', -, -, hsaid⟩ :=
    writeCmd_pairCtrl h (f := id) (pairCtrlWrite_reclaim_refused (s := accessed i s) hnot)
  exact ⟨t, ht, hpair', hsaid⟩

end

end Sys2Proof.Machine

namespace Sys2Proof

open Sys2Proof.Machine

/-- Settles O47: a STATUS by what it makes of the pair, a beat by its three acts in order, and PAIR_CTRL by what it takes. -/
theorem pairLife : Obligations.PairLife := by
  refine ⟨fun h b s ht hpair hm => ⟨does_status_waiting ht hpair hm b, does_status_other ht hpair hm b,
      does_status_lost ht hpair hm b⟩,
    fun s hon => ⟨does_pairLost hon, pairBeat_missed hon, pairBeat_yields hon, fun n => pairBeat_reclaims hon⟩,
    fun i s h hstop hpair => ⟨does_yieldCmd h hstop hpair, does_reclaim h hstop hpair, does_reclaim_refused h⟩⟩

end Sys2Proof
end

section
/-! SUPPORT. Requests: what the way of a request to the block leaves alone, and what carries it out (13 R322 to R327). -/

namespace Sys2Proof.Machine

/-! ### A request that is heard -/

theorem heard_host (r : Req) (s : State) : (heard r s).2.host = s.host := by
  unfold heard
  split
  · rfl
  · split
    · rw [fabIn_passage]
      rfl
    · rfl

theorem heard_cal (r : Req) (s : State) : (heard r s).2.cal = s.cal := by
  unfold heard
  split
  · rfl
  · split
    · exact (fabIn_kept ..).cal
    · rfl

/-- What a free value taken before a frame arrives makes of the frame's outcome. -/
def tookFreeBefore (k : Nat) (p : Bool × State) : Bool × State := (p.1, tookFree k p.2)

theorem fabArrive_tookFree (k : Nat) (h : FabHdr) (s : State) :
    fabArrive h (tookFree k s) = tookFreeBefore k (fabArrive h s) := by
  simp only [fabArrive, apply_ite (tookFreeBefore k)]
  rfl

theorem fabAccept_tookFree (k : Nat) (fits : Bool) (h : FabHdr) (s : State) :
    fabAccept fits h (tookFree k s) = tookFreeBefore k (fabAccept fits h s) := by
  simp only [fabAccept, apply_ite (tookFreeBefore k)]
  rfl

theorem forwarded_tookFree (k : Nat) (h : FabHdr) (s : State) :
    forwarded h (tookFree k s) = tookFree k (forwarded h s) := by
  have honward : onward h (tookFree k s) = onward h s := rfl
  simp only [forwarded, honward]
  split <;> split <;> rfl

theorem fabIn_tookFree (k : Nat) (fits : Bool) (h : FabHdr) (s : State) :
    fabIn fits h (tookFree k s) = tookFreeBefore k (fabIn fits h s) := by
  have hfor : ∀ u, forMe h (tookFree k u) = forMe h u := fun _ => rfl
  have honward : ∀ u, onward h (tookFree k u) = onward h u := fun _ => rfl
  rw [fabIn_eq, fabIn_eq, fabArrive_tookFree]
  generalize fabArrive h s = p
  obtain ⟨on, t⟩ := p
  cases on
  · rfl
  · simp only [tookFreeBefore, forwarded_tookFree, honward, hfor, fabAccept_tookFree]
    split <;> rfl

theorem heard_tookFree (k : Nat) (r : Req) (s : State) :
    heard r (tookFree k s) = tookFreeBefore k (heard r s) := by
  unfold heard
  split
  · rfl
  · split
    · exact fabIn_tookFree ..
    · rfl

/-! ### A request that is carried out (R322 to R324) -/

/-- The state in which a request of session i is carried out: it has been heard, the block stands at its moment, and the
session's idle time is 0. -/
def admitted (r : Req) (i : Fin 32) (s : State) : State :=
  modSess i (fun x => { x with idle := 0 }) (atNs r.atNs (heard r s).2)

theorem admitted_sess (r : Req) (i : Fin 32) (s : State) :
    (admitted r i s).host.sess[i] = { s.host.sess[i] with idle := 0 } := by
  rw [admitted, modSess_sess_self, atNs_host, heard_host]

theorem sessionOf_eq_some {r : Req} {i : Fin 32} {s : State} (h : sessionOf r s = some i) :
    s.host.sess[i].isOpen = true := by
  unfold sessionOf at h
  split at h
  · simp only [Option.ite_none_right_eq_some, Option.some.injEq, Bool.and_eq_true] at h
    obtain ⟨⟨hopen, -⟩, rfl⟩ := h
    exact hopen
  · cases h

theorem sessionOf_congr {s t : State} (h : t.host = s.host) (r : Req) : sessionOf r t = sessionOf r s := by
  simp only [sessionOf, h]

theorem isOpen_of_accepted {r : Req} {i : Fin 32} {s : State} (h : Accepted r i s) : s.host.sess[i].isOpen = true :=
  sessionOf_eq_some h.2.2.1

/-- An accepted request is what it carries out, whatever free value its answer takes before. -/
theorem request_of_accepted {r : Req} {i : Fin 32} {s : State} (h : Accepted r i s) (k op addr : Nat)
    (f : Fin 32 → State → State) :
    request r op addr f (tookFree k (fresh s)) = f i (admitted r i (tookFree k (fresh s))) := by
  obtain ⟨hawake, hheard, hsess, hout, htag⟩ := h
  have hawake' : awake (tookFree k (fresh s)) = true := hawake
  have hheard' : heard r (tookFree k (fresh s)) = (true, (heard r (tookFree k (fresh s))).2) := by
    rw [heard_tookFree, tookFreeBefore, hheard]
  have hhost : (atNs r.atNs (heard r (tookFree k (fresh s))).2).host = s.host := by
    rw [atNs_host, heard_host, tookFree_host, fresh_host]
  rw [request, if_pos hawake', hheard']
  dsimp only
  rw [serve, sessionOf_congr hhost, hsess]
  dsimp only
  rw [hhost, hout, modSess_sess_self, hhost]
  simp only [Bool.false_eq_true, if_false]
  split
  next p hp => exact if_neg (htag p hp)
  next => rfl

/-- The same, where the answer takes no free value. -/
theorem request_of_accepted_plain {r : Req} {i : Fin 32} {s : State} (h : Accepted r i s) (op addr : Nat)
    (f : Fin 32 → State → State) : request r op addr f (fresh s) = f i (admitted r i (fresh s)) :=
  request_of_accepted h 0 op addr f

/-! ### What a response leaves alone, and what an answer leaves in its session (R324) -/

theorem canOffer_cal (c : Nat) (s : State) : (canOffer c s).cal = s.cal := by
  unfold canOffer
  dsimp only
  (repeat' split) <;> simp

theorem emitFab_cal (mac : Option Nat) (kind dst seq beat : Nat) (stamp : Option Nat) (ports : Nat)
    (payload : List Byte) (s : State) : (emitFab mac kind dst seq beat stamp ports payload s).cal = s.cal := by
  unfold emitFab
  split <;> rfl

theorem respond_cal (r : Rsp) (s : State) : (respond r s).cal = s.cal := by
  unfold respond
  dsimp only
  split
  · rw [sendFab, emitFab_cal, put_cal]
  · rw [canRespond, canOffer_cal, modCan_cal, put_cal]
  · rfl

theorem answer_cal (i : Fin 32) (r : Rsp) (s : State) : (answer i r s).cal = s.cal := by
  unfold answer
  rw [respond_cal]
  split <;> rfl

/-- What an answer makes of an open session: nothing waits any more, and the response is stored with its TAG. -/
def Session.answered (p : Rsp) (x : Session) : Session := { x with lastTag := some (p.tag, p), outstanding := false }

theorem answer_host {i : Fin 32} {s : State} (hopen : s.host.sess[i].isOpen = true) (p : Rsp) :
    (answer i p s).host = (modSess i (Session.answered p) s).host := by
  rw [answer, respond_host, if_pos hopen]
  rfl

/-- Only its own output says what a response says. -/
theorem said_put_rsp (r : Rsp) (s : State) : said (put (.rsp r) s) = said s ++ [r] := by
  simp [said]

theorem said_emitFab (mac : Option Nat) (kind dst seq beat : Nat) (stamp : Option Nat) (ports : Nat)
    (payload : List Byte) (s : State) : said (emitFab mac kind dst seq beat stamp ports payload s) = said s := by
  unfold emitFab
  split <;> simp [said]

theorem said_canOffer (c : Nat) (s : State) : said (canOffer c s) = said s := by
  unfold canOffer
  dsimp only
  (repeat' split) <;> simp [said]

theorem said_respond (r : Rsp) (s : State) : said (respond r s) = said s ++ [r] := by
  unfold respond
  dsimp only
  split
  · rw [sendFab, said_emitFab]
    exact said_put_rsp r s
  · rw [canRespond, said_canOffer, ← said_put_rsp r s]
    simp [said]
  · exact said_put_rsp r s

theorem said_answer (i : Fin 32) (r : Rsp) (s : State) : said (answer i r s) = said s ++ [r] := by
  rw [answer, said_respond]
  split <;> rfl

@[simp] theorem admitted_st (r : Req) (i : Fin 32) (s : State) : (admitted r i s).st = s.st := by simp [admitted]

@[simp] theorem admitted_saf (r : Req) (i : Fin 32) (s : State) : (admitted r i s).saf = s.saf := by simp [admitted]

theorem admitted_cal (r : Req) (i : Fin 32) (s : State) : (admitted r i s).cal = s.cal := by
  rw [admitted, modSess_cal, atNs_cal, heard_cal]

/-- What is stored where a request of an accepted session is answered at once, and nothing else is done. -/
structure AnsweredOnly (r : Req) (i : Fin 32) (p : Rsp) (s t : State) : Prop where
  idle : t.host.sess[i].idle = 0
  stored : t.host.sess[i].lastTag = some (r.tag, p)
  st : t.st = s.st
  saf : t.saf = s.saf
  cal : t.cal = s.cal

theorem answer_answeredOnly {r : Req} {i : Fin 32} {s : State} (h : Accepted r i s) {p : Rsp} (htag : p.tag = r.tag)
    (k : Nat) : AnsweredOnly r i p s (answer i p (admitted r i (tookFree k (fresh s)))) := by
  have hsess : (admitted r i (tookFree k (fresh s))).host.sess[i] = { s.host.sess[i] with idle := 0 } := admitted_sess ..
  have hopen : (admitted r i (tookFree k (fresh s))).host.sess[i].isOpen = true := by
    rw [hsess]
    exact isOpen_of_accepted h
  have hend : (answer i p (admitted r i (tookFree k (fresh s)))).host.sess[i] =
      Session.answered p { s.host.sess[i] with idle := 0 } := by
    rw [answer_host hopen, modSess_sess_self, hsess]
  refine ⟨by rw [hend]; rfl, by rw [hend, ← htag]; rfl, by simp, by simp, ?_⟩
  rw [answer_cal, admitted_cal]
  rfl

end Sys2Proof.Machine
end

section
/-! SUPPORT AND PROOFS. Sessions: OPEN, CLOSE, NOP, a reserved OP and the close of an idle session (13 R322, R323, Table
13-4). -/

namespace Sys2Proof.Machine

/-! ### OPEN (R322) -/

/-- The session that an OPEN takes is one of those that are closed. -/
theorem openChoice_mem {l : List (Fin 32)} (h : l ≠ []) (k : Nat) : ∃ i ∈ l, openChoice k l = some i := by
  have hlt : (Config.freeInt k).toNat % l.length < l.length := Nat.mod_lt _ (List.length_pos_of_ne_nil h)
  exact ⟨_, List.getElem_mem hlt, List.getElem?_eq_getElem hlt⟩

theorem mem_closedSessions {i : Fin 32} {s : State} : i ∈ closedSessions s ↔ s.host.sess[i].isOpen = false := by
  simp [closedSessions]

/-- The session that an OPEN begins. -/
def openedSession (r : Req) : Session := { (default : Session) with isOpen := true, source := r.source }

theorem openReq_opens {r : Req} {s : State} (hok : plainOk r true = true) (hne : closedSessions s ≠ []) (w : Word) :
    ∃ i : Fin 32, s.host.sess[i].isOpen = false ∧
      (openReq r w s).host.sess = s.host.sess.set i (openedSession r) ∧ (openReq r w s).cal = s.cal := by
  obtain ⟨i, hi, hchoice⟩ := openChoice_mem hne (s.freeCtr + 1)
  have hopen : openReq r w s = respond { reply r 1 .ok 0 (noAddr s) (openData r w i) with session := i.val }
      (tookFree 2 { s with host := { s.host with sess := s.host.sess.set i (openedSession r) } }) := by
    simp only [openReq, hok, hchoice]
    rfl
  refine ⟨i, mem_closedSessions.mp hi, ?_, ?_⟩
  · rw [hopen, respond_host]
    rfl
  · rw [hopen, respond_cal]
    rfl

theorem does_openReq {r : Req} {s : State} (hawake : awake s = true) (hheard : (heard r (fresh s)).1 = true)
    (hok : plainOk r true = true) (hne : closedSessions s ≠ []) (w : Word) :
    Does (.openReq r w) s (fun t => ∃ i : Fin 32, s.host.sess[i].isOpen = false ∧ t.host.sess[i].isOpen = true ∧
      t.host.sess[i].source = r.source ∧ (∀ j : Fin 32, j ≠ i → t.host.sess[j] = s.host.sess[j]) ∧
      t.st = s.st ∧ t.saf = s.saf ∧ t.cal = s.cal) := by
  have hhost : (atNs r.atNs (heard r (fresh s)).2).host = s.host := by rw [atNs_host, heard_host, fresh_host]
  have hexec : exec (.openReq r w) s = .next (openReq r w (atNs r.atNs (heard r (fresh s)).2)) := by
    change execOpenReq r w s = _
    have hpair : heard r (fresh s) = (true, (heard r (fresh s)).2) := Prod.ext hheard rfl
    have hawake' : awake (fresh s) = true := hawake
    rw [execOpenReq, if_pos hawake', hpair]
  obtain ⟨i, hclosed, hsess, hcal⟩ := openReq_opens (s := atNs r.atNs (heard r (fresh s)).2) hok
    (by rwa [closedSessions, hhost]) w
  rw [hhost] at hclosed hsess
  refine ⟨_, hexec, i, hclosed, ?_, ?_, fun j hj => ?_, ?_, ?_, ?_⟩
  · simp [hsess, openedSession]
  · simp [hsess, openedSession]
  · simp [hsess, Fin.val_ne_of_ne hj.symm]
  · simp
  · simp
  · rw [hcal, atNs_cal, heard_cal, fresh_cal]

/-! ### The close of a session (R323) -/

theorem storeRec_host (e : RecEvent) (s : State) : (storeRec e s).host = s.host := by
  unfold storeRec
  dsimp only
  split <;> rfl

theorem storeJnl_host (w : List Word) (s : State) : (storeJnl w s).host = s.host := by
  unfold storeJnl
  split <;> rfl

/-- A fold whose steps leave the host's state alone leaves it alone. -/
theorem foldl_host {α : Type} {g : State → α → State} (h : ∀ s x, (g s x).host = s.host) (l : List α) (s : State) :
    (l.foldl g s).host = s.host := by
  induction l generalizing s with
  | nil => rfl
  | cons x r ih => exact (ih (g s x)).trans (h s x)

theorem freezeEnd_host (s : State) : (freezeEnd s).host = s.host := by
  unfold freezeEnd
  split
  · rfl
  · rw [jnl_host, flushHeld, foldl_host fun s w => storeJnl_host w s, foldl_host fun s e => storeRec_host e s]

theorem loadAbort_host (i : Fin 32) (s : State) : (loadAbort i s).host = s.host := by
  unfold loadAbort
  (repeat' split) <;> rfl

theorem abortJob_sess (j : Nat) (s : State) : (abortJob j s).host.sess = s.host.sess := by
  unfold abortJob contactorAbort
  dsimp only
  (repeat' split) <;> rfl

theorem releaseClaims_sess (i : Fin 32) (s : State) : (releaseClaims i s).host.sess = s.host.sess := rfl

/-- The sessions that are open in s are open in t, and no other. -/
def SameOpen (s t : State) : Prop := ∀ j : Fin 32, t.host.sess[j].isOpen = s.host.sess[j].isOpen

theorem SameOpen.of_sess {s t : State} (h : t.host.sess = s.host.sess) : SameOpen s t := fun j => by rw [h]

theorem SameOpen.of_host {s t : State} (h : t.host = s.host) : SameOpen s t := fun j => by rw [h]

theorem SameOpen.trans {s t u : State} (h : SameOpen s t) (h' : SameOpen t u) : SameOpen s u :=
  fun j => (h' j).trans (h j)

theorem leaveService_sameOpen (s : State) : SameOpen s (leaveService s) := fun j => by
  simp [leaveService]

theorem setCrown_sameOpen (i : Fin 32) (released : Bool) (signer : Nat) (s : State) :
    SameOpen s (setCrown i released signer s) := fun j => by
  have hset : (updAt s.host.sess i (fun x => { x with crown := released }))[j].isOpen = s.host.sess[j].isOpen := by
    by_cases hj : j = i
    · subst hj; simp [updAt]
    · rw [updAt_other _ hj]
  unfold setCrown
  dsimp only
  split <;> exact hset

theorem foldl_sameOpen {α : Type} {g : State → α → State} (h : ∀ s x, SameOpen s (g s x)) (l : List α) (s : State) :
    SameOpen s (l.foldl g s) := by
  induction l generalizing s with
  | nil => exact fun _ => rfl
  | cons x r ih => exact (h s x).trans (ih (g s x))

/-- A session that closes is as after reset, and no other opens or closes. -/
theorem closeSession_sess (i : Fin 32) (s : State) : ∃ t, SameOpen s t ∧
    (closeSession i s).host.sess = t.host.sess.set i default := by
  unfold closeSession
  extract_lets s₁ s₂ s₃ s₄ s₅ s₆
  have h₁ : SameOpen s s₁ := .of_host (loadAbort_host i s)
  have h₂ : SameOpen s₁ s₂ := by
    simp only [s₂]
    split
    · exact leaveService_sameOpen s₁
    · exact fun _ => rfl
  have h₃ : SameOpen s₂ s₃ := foldl_sameOpen (fun s j => by
    split
    · exact .of_sess (abortJob_sess j s)
    · exact fun _ => rfl) _ _
  have h₄ : SameOpen s₃ s₄ := .of_sess (releaseClaims_sess i s₃)
  have h₅ : SameOpen s₄ s₅ := by
    simp only [s₅]
    split
    · exact .of_host (freezeEnd_host s₄)
    · exact fun _ => rfl
  have h₆ : SameOpen s₅ s₆ := setCrown_sameOpen i false 0xFF s₅
  have hall : SameOpen s s₆ := h₁.trans (h₂.trans (h₃.trans (h₄.trans (h₅.trans h₆))))
  exact ⟨s₆, hall, rfl⟩

theorem closeSession_self (i : Fin 32) (s : State) : (closeSession i s).host.sess[i] = default := by
  obtain ⟨t, -, ht⟩ := closeSession_sess i s
  simp [ht]

theorem closeSession_other {i j : Fin 32} (h : j ≠ i) (s : State) :
    (closeSession i s).host.sess[j].isOpen = s.host.sess[j].isOpen := by
  obtain ⟨t, hopen, ht⟩ := closeSession_sess i s
  rw [← hopen j]
  simp [ht, Fin.val_ne_of_ne h.symm]

theorem does_closeReq {r : Req} {i : Fin 32} {s : State} (h : Accepted r i s) (hok : plainOk r false = true) :
    Does (.closeReq r) s (fun t => t.host.sess[i].isOpen = false ∧ t.host.sess[i].latches = [] ∧
      t.host.sess[i].crown = false) := by
  have hself : (closeSession i (admitted r i (tookFree 1 (fresh s)))).host.sess[i] = default := closeSession_self ..
  have hexec : exec (.closeReq r) s = .next (respond (reply r 2 .ok 0 (noAddr (fresh s)) [])
      (closeSession i (admitted r i (tookFree 1 (fresh s))))) := by
    change Host.Outcome.next (request ..) = _
    rw [request_of_accepted h, if_pos hok]
  refine ⟨_, hexec, ?_, ?_, ?_⟩
  all_goals
    rw [respond_host, hself]
    rfl

theorem does_sessionTimeout {i : Fin 32} {s : State} (hawake : awake s = true) (hopen : s.host.sess[i].isOpen = true)
    (hidle : 10000 ≤ s.host.sess[i].idle) : Does (.sessionTimeout i) s (fun t => t.host.sess[i].isOpen = false ∧
      t.host.timeoutSeen = true ∧ ∀ j : Fin 32, j ≠ i → t.host.sess[j].isOpen = s.host.sess[j].isOpen) := by
  have hgo : (awake (fresh s) && (fresh s).host.sess[i].isOpen && decide (10000 ≤ (fresh s).host.sess[i].idle)) = true := by
    rw [awake_fresh, fresh_host, hawake, hopen, decide_eq_true hidle]
    rfl
  have hself : (closeSession i (fresh s)).host.sess[i] = default := closeSession_self ..
  exact ⟨_, if_pos hgo, congrArg Session.isOpen hself, rfl, fun j hj => closeSession_other hj (fresh s)⟩

/-! ### NOP and a reserved OP (Table 13-4) -/

theorem exec_nop {r : Req} {i : Fin 32} {s : State} (h : Accepted r i s) : exec (.nop r) s =
    .next (answer i (reply r 6 (if plainOk r false then .ok else .format) 0 (noAddr (fresh s)) [])
      (admitted r i (tookFree 1 (fresh s)))) :=
  congrArg _ (request_of_accepted h ..)

theorem exec_reservedOpRequest {r : Req} {i : Fin 32} {s : State} (h : Accepted r i s) (op : Nat) :
    exec (.reservedOpRequest r op) s =
      .next (answer i (reply r op .format 0 (noAddr (fresh s)) []) (admitted r i (tookFree 1 (fresh s)))) :=
  congrArg _ (request_of_accepted h ..)

/-- A request that is only answered, by the response that is stored. -/
theorem does_answer {c : Instr} {r : Req} {i : Fin 32} {s : State} {p : Rsp} {k : Nat} (h : Accepted r i s)
    (hexec : exec c s = .next (answer i p (admitted r i (tookFree k (fresh s))))) (htag : p.tag = r.tag) :
    Does c s (fun t => t.host.sess[i].idle = 0 ∧
      (∃ q, t.host.sess[i].lastTag = some (r.tag, q) ∧ q.code = p.code) ∧ t.st = s.st ∧ t.saf = s.saf ∧ t.cal = s.cal) := by
  obtain ⟨hidle, hstored, hst, hsaf, hcal⟩ := answer_answeredOnly h htag k
  exact ⟨_, hexec, hidle, ⟨p, hstored, rfl⟩, hst, hsaf, hcal⟩

end Sys2Proof.Machine

namespace Sys2Proof

open Sys2Proof.Machine

/-- Settles O7: OPEN by the session it takes, CLOSE and the timeout by the close of a session, and a NOP and a reserved OP
as requests that are only answered. -/
theorem sessions : Obligations.Sessions :=
  ⟨⟨fun _ w _ hawake hheard hok hne => does_openReq hawake hheard hok hne w, fun _ _ _ => does_closeReq,
    fun _ _ _ h => does_answer h (exec_nop h) rfl, fun _ op _ _ h => does_answer h (exec_reservedOpRequest h op) rfl⟩,
   fun _ _ => does_sessionTimeout⟩

end Sys2Proof
end

section
/-! SUPPORT AND PROOFS. READ, READ_FIXED and WRITE requests (13 R324, R325, R337). -/

namespace Sys2Proof.Machine

/-! ### Words read one after the other (R325) -/

theorem readAll_length (i : Fin 32) (step n a : Nat) (s : State) :
    (readAll i step n a s).2.2.1.length ≤ n ∧
      ((readAll i step n a s).1 = .ok → (readAll i step n a s).2.2.1.length = n) := by
  induction n generalizing a s with
  | zero => exact ⟨le_rfl, fun _ => rfl⟩
  | succ n ih =>
    unfold readAll
    dsimp only
    split
    · obtain ⟨hle, hok⟩ := ih (a + step) (readWord i a s).2.2
      exact ⟨Nat.succ_le_succ hle, fun h => congrArg Nat.succ (hok h)⟩
    next hbad => exact ⟨Nat.zero_le _, fun h => absurd h hbad⟩

/-- The first word read is the register's. -/
theorem readAll_head {i : Fin 32} {step n a : Nat} {s : State} (hn : 1 ≤ n) (h4 : a % 4 = 0)
    (hb : (blockOf a).isSome = true) (hh : headAt a = none) :
    (readAll i step n a s).2.2.1.head? = some (sessionRead i a s) := by
  obtain ⟨m, rfl⟩ := Nat.exists_eq_add_of_le' hn
  simp only [readAll, readWord_register h4 hb hh, if_true, List.head?_cons]

/-- Of session i nothing but its latches has changed. -/
def LatchesOnly (i : Fin 32) (s t : State) : Prop := ∃ l, t.host.sess[i] = { s.host.sess[i] with latches := l }

theorem LatchesOnly.of_sess {i : Fin 32} {s t : State} (h : t.host.sess = s.host.sess) : LatchesOnly i s t :=
  ⟨s.host.sess[i].latches, by rw [h]⟩

theorem LatchesOnly.trans {i : Fin 32} {s t u : State} (h : LatchesOnly i s t) (h' : LatchesOnly i t u) :
    LatchesOnly i s u := by
  obtain ⟨_, h⟩ := h
  obtain ⟨l, h'⟩ := h'
  exact ⟨l, by rw [h', h]⟩

theorem headRead_sess (i : Fin 32) (q : QueueId) (s : State) : (headRead i q s).2.2.host.sess = s.host.sess := by
  unfold headRead setQueue
  dsimp only
  split
  · split <;> simp [modQueue]
  · rfl

theorem takeLatch_latchesOnly (i : Fin 32) (a : Nat) (s : State) : LatchesOnly i s (takeLatch i a s) := by
  unfold takeLatch
  dsimp only
  split
  · exact .of_sess rfl
  · exact ⟨_, modSess_sess_self ..⟩

theorem readWord_latchesOnly (i : Fin 32) (a : Nat) (s : State) : LatchesOnly i s (readWord i a s).2.2 := by
  unfold readWord
  split
  · exact .of_sess rfl
  · split
    · exact .of_sess rfl
    · split
      · exact .of_sess (headRead_sess ..)
      · exact takeLatch_latchesOnly i a s

theorem readAll_latchesOnly (i : Fin 32) (step n a : Nat) (s : State) :
    LatchesOnly i s (readAll i step n a s).2.2.2 := by
  induction n generalizing a s with
  | zero => exact .of_sess rfl
  | succ n ih =>
    unfold readAll
    dsimp only
    split
    · exact (readWord_latchesOnly i a s).trans (ih ..)
    · exact readWord_latchesOnly i a s

/-! ### Words taken from the head of a queue (R337) -/

theorem headAt_queue (q : Fin 8) : headAt (0x4000 + 0x20 * q.val) = some (.q q) := by
  fin_cases q <;> rfl

theorem readWord_queueHead (i : Fin 32) (q : Fin 8) (s : State) :
    readWord i (0x4000 + 0x20 * q.val) s = headRead i (.q q) s := by
  have h4 : (0x4000 + 0x20 * q.val) % 4 = 0 := by omega
  have hb : (blockOf (0x4000 + 0x20 * q.val)).isNone = false := by fin_cases q <;> rfl
  simp [readWord, h4, hb, headAt_queue]

/-- The oldest word of a readable queue is read, and the queue goes on without it. -/
theorem headRead_cons {i : Fin 32} {q : QueueId} {s : State} {w : Word} {r : List Word}
    (hread : (queueAt q s).readable i = true) (hw : (queueAt q s).words = w :: r) :
    headRead i q s = (.ok, w, setQueue q { queueAt q s with words := r, last := w } s) := by
  have hpop : (queueAt q s).pop = (w, { queueAt q s with words := r, last := w }) := by simp [Queue.pop, hw]
  have hsome : (queueAt q s).words.isEmpty = false := by rw [hw]; rfl
  simp only [headRead, if_pos hread, hpop, hsome, setAgainIf, Bool.false_eq_true, if_false]

theorem modQueue_same (q : Fin 8) (f : Queue → Queue) (s : State) :
    (modQueue q.val f s).host.queues[q] = f s.host.queues[q] := by
  rw [← getNat_fin, ← getNat_fin]
  exact getNat_updNat_same _ q.isLt f

theorem readAll_queueHead {i : Fin 32} {q : Fin 8} (n : Nat) {s : State} (hread : s.host.queues[q].readable i = true)
    (hn : n ≤ s.host.queues[q].words.length) :
    (readAll i 0 n (0x4000 + 0x20 * q.val) s).1 = .ok ∧
      (readAll i 0 n (0x4000 + 0x20 * q.val) s).2.2.1 = s.host.queues[q].words.take n ∧
      (readAll i 0 n (0x4000 + 0x20 * q.val) s).2.2.2.host.queues[q].words = s.host.queues[q].words.drop n := by
  induction n generalizing s with
  | zero => exact ⟨rfl, rfl, rfl⟩
  | succ n ih =>
    cases hw : s.host.queues[q].words with
    | nil =>
      rw [hw] at hn
      exact absurd hn (Nat.not_succ_le_zero n)
    | cons w r =>
      let t := setQueue (.q q) { s.host.queues[q] with words := r, last := w } s
      have hqueue : t.host.queues[q] = { s.host.queues[q] with words := r, last := w } := modQueue_same ..
      have hword : readWord i (0x4000 + 0x20 * q.val) s = (.ok, w, t) :=
        (readWord_queueHead i q s).trans (headRead_cons (q := .q q) hread hw)
      rw [hw] at hn
      obtain ⟨hok, htaken, hleft⟩ := ih (s := t) (by rw [hqueue]; exact hread)
        (by rw [hqueue]; exact Nat.le_of_succ_le_succ hn)
      rw [hqueue] at htaken hleft
      simp only [readAll, hword, if_true, Nat.add_zero]
      exact ⟨hok, congrArg (w :: ·) htaken, hleft⟩

/-! ### READ and READ_FIXED (R324, R325) -/

theorem pos_of_sizeOk {r : Req} {n : Nat} {isWrite : Bool} (h : sizeOk r n isWrite = true) : 1 ≤ n := by
  unfold sizeOk at h
  split at h <;>
  · simp only [Bool.and_eq_true, decide_eq_true_eq] at h
    exact h.1.1

/-- The response to a READ or a READ_FIXED, by the words that were read. -/
def readRsp (r : Req) (op : Nat) (x : RspCode × Nat × List Word × State) : Rsp :=
  reply r op x.1 x.2.2.1.length x.2.1 x.2.2.1

theorem readReq_sized {r : Req} {count : Nat} (h : sizeOk r count false = true) (op step addr : Nat) (i : Fin 32)
    (s : State) : readReq r op count step addr i s =
      answer i (readRsp r op (readAll i step count addr s)) (readAll i step count addr s).2.2.2 := if_pos h

/-- What an answer leaves of an accepted request whose work changed of its session the latches alone. -/
theorem answer_accepted {r : Req} {i : Fin 32} {s t : State} (h : Accepted r i s)
    (ht : LatchesOnly i (admitted r i (fresh s)) t) {p : Rsp} (htag : p.tag = r.tag) :
    (answer i p t).host.queues = t.host.queues ∧ (answer i p t).host.sess[i].idle = 0 ∧
      (answer i p t).host.sess[i].lastTag = some (r.tag, p) ∧ p ∈ said (answer i p t) := by
  obtain ⟨l, hl⟩ := ht
  rw [admitted_sess] at hl
  have hopen : t.host.sess[i].isOpen = true := by
    rw [hl]
    have hopen : s.host.sess[i].isOpen = true := isOpen_of_accepted h
    exact hopen
  have hsess : (answer i p t).host.sess[i] = Session.answered p t.host.sess[i] := by
    rw [answer_host hopen, modSess_sess_self]
  refine ⟨?_, ?_, ?_, ?_⟩
  · rw [answer_host hopen]
    rfl
  · rw [hsess, hl]
    rfl
  · rw [hsess, ← htag]
    rfl
  · rw [said_answer]
    exact List.mem_append_right _ (List.mem_singleton_self p)

theorem exec_read {r : Req} {i : Fin 32} {s : State} (h : Accepted r i s) (n : Nat) (a : Word) :
    exec (.read r n a) s = .next (readReq r 3 n 4 a.toNat i (admitted r i (fresh s))) :=
  congrArg _ (request_of_accepted_plain h ..)

theorem exec_readFixed {r : Req} {i : Fin 32} {s : State} (h : Accepted r i s) (n : Nat) (a : Word) :
    exec (.readFixed r n a) s = .next (readReq r 5 n 0 a.toNat i (admitted r i (fresh s))) :=
  congrArg _ (request_of_accepted_plain h ..)

theorem does_read {r : Req} {n : Nat} {a : Word} {i : Fin 32} {s : State} (h : Accepted r i s)
    (hsize : sizeOk r n false = true) :
    Does (.read r n a) s (fun t => t.host.sess[i].idle = 0 ∧ ∃ p, t.host.sess[i].lastTag = some (r.tag, p) ∧
      p ∈ said t ∧ p.op = 3 ∧ p.done = p.data.length ∧ p.data.length ≤ n ∧ (p.code = .ok → p.data.length = n) ∧
      (headAt a.toNat = none → a.toNat % 4 = 0 → (blockOf a.toNat).isSome = true →
        p.data.head? = some (sessionRead i a.toNat (admitted r i (fresh s))))) := by
  obtain ⟨-, hidle, hstored, hsaid⟩ := answer_accepted h (readAll_latchesOnly i 4 n a.toNat (admitted r i (fresh s)))
    (p := readRsp r 3 (readAll i 4 n a.toNat (admitted r i (fresh s)))) rfl
  obtain ⟨hle, hok⟩ := readAll_length i 4 n a.toNat (admitted r i (fresh s))
  exact ⟨_, (exec_read h n a).trans (congrArg _ (readReq_sized hsize ..)), hidle, _, hstored, hsaid, rfl, rfl, hle, hok,
    fun hh h4 hb => readAll_head (pos_of_sizeOk hsize) h4 hb hh⟩

theorem admitted_queues (r : Req) (i : Fin 32) (s : State) : (admitted r i s).host.queues = s.host.queues :=
  (congrArg HostIf.queues (heard_host r s) :)

theorem does_readFixed {r : Req} {n : Nat} {a : Word} {i : Fin 32} {q : Fin 8} {s : State} (h : Accepted r i s)
    (hsize : sizeOk r n false = true) (ha : a.toNat = 0x4000 + 0x20 * q.val)
    (hread : s.host.queues[q].readable i = true) (hn : n ≤ s.host.queues[q].words.length) :
    Does (.readFixed r n a) s (fun t => t.host.queues[q].words = s.host.queues[q].words.drop n ∧
      ∃ p, t.host.sess[i].lastTag = some (r.tag, p) ∧ p.code = .ok ∧ p.data = s.host.queues[q].words.take n) := by
  have hqueues : (admitted r i (fresh s)).host.queues = s.host.queues := admitted_queues ..
  obtain ⟨hok, htaken, hleft⟩ := readAll_queueHead (q := q) (i := i) n (s := admitted r i (fresh s))
    (by rwa [hqueues]) (by rwa [hqueues])
  rw [hqueues, ← ha] at htaken hleft
  rw [← ha] at hok
  obtain ⟨hkept, -, hstored, -⟩ := answer_accepted h (readAll_latchesOnly i 0 n a.toNat (admitted r i (fresh s)))
    (p := readRsp r 5 (readAll i 0 n a.toNat (admitted r i (fresh s)))) rfl
  exact ⟨_, (exec_readFixed h n a).trans (congrArg _ (readReq_sized hsize ..)), by rw [hkept, hleft], _, hstored, hok,
    htaken⟩

/-- A READ or READ_FIXED of a wrong COUNT or length. -/
theorem does_readReq_refused {c : Instr} {r : Req} {op n step addr : Nat} {i : Fin 32} {s : State} (h : Accepted r i s)
    (hsize : sizeOk r n false = false)
    (hexec : exec c s = .next (readReq r op n step addr i (admitted r i (fresh s)))) :
    Does c s (fun t => t.host.queues = s.host.queues ∧
      ∃ p, t.host.sess[i].lastTag = some (r.tag, p) ∧ p.code = .format ∧ p.data = []) := by
  have hanswer : readReq r op n step addr i (admitted r i (fresh s)) =
      answer i (reply r op .format 0 addr []) (admitted r i (fresh s)) := by simp [readReq, hsize]
  obtain ⟨hkept, -, hstored, -⟩ := answer_accepted h (.of_sess rfl) (p := reply r op .format 0 addr []) rfl
  exact ⟨_, hexec.trans (congrArg _ hanswer), hkept.trans (admitted_queues ..), _, hstored, rfl, rfl⟩

/-! ### WRITE (R325) -/

theorem writeAll_count (i : Fin 32) (r : Req) (count : Nat) (l : List Word) (k a : Nat) (s : State) :
    ((writeAll i r count l k a s).1 = .ok → (writeAll i r count l k a s).2.2.1 = k + l.length) ∧
      (writeAll i r count l k a s).2.2.1 ≤ k + l.length := by
  induction l generalizing k a s with
  | nil => exact ⟨fun _ => rfl, le_rfl⟩
  | cons v l ih =>
    have hlen : k + (v :: l).length = k + 1 + l.length := by
      rw [List.length_cons]
      omega
    unfold writeAll
    extract_lets w
    rw [hlen]
    split
    · exact ih ..
    next hbad => exact ⟨fun h => absurd h hbad, Nat.le_add_right_of_le (Nat.le_succ k)⟩

theorem does_write {r : Req} {n : Nat} {a : Word} {l : List Word} {i : Fin 32} {s : State} (h : Accepted r i s)
    (hsize : sizeOk r n true = true) :
    let x := writeAll i r n (l.take n) 0 a.toNat (admitted r i (fresh s))
    x.2.2.2.host.sess[i].outstanding = false →
      Does (.write r n a l) s (fun t => t.st = x.2.2.2.st ∧ t.saf = x.2.2.2.saf ∧ t.cal = x.2.2.2.cal ∧
        ∃ p ∈ said t, p.op = 4 ∧ p.tag = r.tag ∧ p.code = x.1 ∧ p.done = x.2.2.1) := by
  intro x hout
  have hexec : exec (.write r n a l) s = .next (answer i (reply r 4 x.1 x.2.2.1 x.2.1 []) x.2.2.2) := by
    refine (congrArg Host.Outcome.next (request_of_accepted_plain h ..)).trans (congrArg _ ?_)
    refine (if_pos hsize).trans (if_neg ?_)
    rw [hout]
    exact Bool.false_ne_true
  refine ⟨_, hexec, answer_st .., answer_saf .., answer_cal .., reply r 4 x.1 x.2.2.1 x.2.1 [], ?_, rfl, rfl, rfl, rfl⟩
  rw [said_answer]
  exact List.mem_append_right _ (List.mem_singleton_self _)

end Sys2Proof.Machine

namespace Sys2Proof

open Sys2Proof.Machine

/-- Settles O8: reads by the words taken one after the other, and a WRITE by the words that took effect. -/
theorem accessRequests : Obligations.AccessRequests := by
  refine ⟨⟨fun _ _ _ _ _ => does_read, fun _ _ _ _ _ _ => does_readFixed, fun _ n a _ _ h hsize => ?refused⟩,
    fun r n a l i s h hsize hn => ?written⟩
  case refused =>
    exact ⟨does_readReq_refused h hsize (exec_read h n a), does_readReq_refused h hsize (exec_readFixed h n a)⟩
  case written =>
    have hlen : 0 + (l.take n).length = n := by rw [Nat.zero_add, List.length_take_of_le hn]
    have hcount := writeAll_count i r n (l.take n) 0 a.toNat (admitted r i (fresh s))
    rw [hlen] at hcount
    exact ⟨hcount.1, hcount.2, does_write h hsize⟩

end Sys2Proof
end

section
/-! SUPPORT AND PROOFS. The host's side of a queue: its head, FLUSH, CLAIM and RELEASE (13 R337, R338, Table 13-19). -/

namespace Sys2Proof.Machine

/-! ### EMPTY and who may read (R337, Table 13-19) -/

/-- A word of four flags above a field of 16 bits: the lowest flag is bit 16. -/
theorem wBit_16_of_flags (a b c e : Bool) {x : Nat} (hx : x < 2 ^ 16) :
    wBit (toW (bitAt a 19 + bitAt b 18 + bitAt c 17 + bitAt e 16 + x)) 16 = e := by
  simp only [wBit, toW, BitVec.toNat_ofNat, Nat.testBit_eq_decide_div_mod_eq]
  cases a <;> cases b <;> cases c <;> cases e <;> simp only [bitAt, if_true, Bool.false_eq_true, if_false,
    decide_eq_true_eq, decide_eq_false_iff_not] <;> omega

theorem stat_empty_iff (q : Queue) : wBit q.stat 16 = true ↔ q.words = [] := by
  have hcount : fld (min q.words.length 65535) 0 16 < 2 ^ 16 := by
    unfold fld
    omega
  rw [Queue.stat, wBit_16_of_flags _ _ _ _ hcount, List.isEmpty_iff]

theorem readable_of_unclaimed {q : Queue} (h : q.claim = none) (i : Fin 32) : q.readable i = true := by
  simp [Queue.readable, h]

theorem readable_iff_of_claimed {q : Queue} {j : Fin 32} (h : q.claim = some j) (i : Fin 32) :
    q.readable i = true ↔ j = i := by
  simp [Queue.readable, h]

/-! ### Queues by their names -/

theorem queueAt_congr {s t : State} (hq : t.host.queues = s.host.queues) (hc : t.can = s.can) (p : QueueId) :
    queueAt p t = queueAt p s := by
  cases p with
  | q k => simp only [queueAt, hq]
  | can c => simp only [queueAt, hc]

theorem queueAt_accessed (p : QueueId) (i : Fin 32) (s : State) : queueAt p (accessed i s) = queueAt p s :=
  queueAt_congr rfl rfl p

theorem queueAt_setQueue_same (q : QueueId) (x : Queue) (s : State) : queueAt q (setQueue q x s) = x := by
  cases q with
  | q k => exact modQueue_same k (fun _ => x) s
  | can c =>
    simp only [queueAt, setQueue, modCan_can]
    rw [← getNat_fin, getNat_updNat_same _ c.isLt]

theorem queueAt_setQueue_other {p q : QueueId} (h : p ≠ q) (x : Queue) (s : State) :
    queueAt p (setQueue q x s) = queueAt p s := by
  cases q with
  | q k =>
    cases p with
    | q m =>
      have hne : m.val ≠ k.val := fun hv => h (by rw [Fin.ext hv])
      simp only [queueAt, setQueue, modQueue]
      rw [← getNat_fin, ← getNat_fin, getNat_updNat_other _ hne]
    | can c => rfl
  | can c =>
    cases p with
    | q m => simp only [queueAt, setQueue, modCan_host]
    | can d =>
      have hne : d.val ≠ c.val := fun hv => h (by rw [Fin.ext hv])
      simp only [queueAt, setQueue, modCan_can]
      rw [← getNat_fin, ← getNat_fin, getNat_updNat_other _ hne]

/-- A change of one queue leaves the state, the safety functions and the output alone. -/
theorem setQueue_kept (q : QueueId) (x : Queue) (s : State) :
    (setQueue q x s).st = s.st ∧ (setQueue q x s).saf = s.saf ∧ (setQueue q x s).sent = s.sent := by
  cases q with
  | q k => exact ⟨rfl, rfl, rfl⟩
  | can c => simp only [setQueue, modCan_st, modCan_saf, modCan_sent, and_self]

/-! ### A read of the head (R337) -/

theorem headAt_headAddr (q : QueueId) : headAt (headAddr q) = some q := by
  cases q with
  | q k => exact headAt_queue k
  | can c => fin_cases c <;> rfl

theorem readWord_head (i : Fin 32) (q : QueueId) (s : State) : readWord i (headAddr q) s = headRead i q s := by
  have h4 : headAddr q % 4 = 0 := by
    cases q <;> simp only [headAddr] <;> omega
  have hb : (blockOf (headAddr q)).isNone = false := by
    cases q with
    | q k => fin_cases k <;> rfl
    | can c => fin_cases c <;> rfl
  simp [readWord, h4, hb, headAt_headAddr]

theorem exec_qdataRead {i : Fin 32} {q : QueueId} {s x : State} {c : RspCode} {w : Word} (h : MayAccess i s)
    (hr : headRead i q (accessed i s) = (c, w, x)) :
    exec (.qdataRead i q) s = .next (put (.rsp (directRsp i 3 c (headAddr q) (if c = .ok then [w] else []))) x) := by
  have hx : hostRead i (headAddr q) (fresh s) =
      put (.rsp (directRsp i 3 c (headAddr q) (if c = .ok then [w] else []))) x := by
    rw [hostRead, access_of_may h]
    simp only [readWord_head, hr, respond_directRsp]
  exact congrArg _ hx

theorem headRead_empty {i : Fin 32} {q : QueueId} {s : State} (hread : (queueAt q s).readable i = true)
    (hw : (queueAt q s).words = []) : headRead i q s = (.ok, (queueAt q s).last,
      setQueue q { queueAt q s with underrun := true } (setAgain (queueStatAt q) (2 ^ 18) s)) := by
  have hpop : (queueAt q s).pop = ((queueAt q s).last, { queueAt q s with underrun := true }) := by simp [Queue.pop, hw]
  have hnone : (queueAt q s).words.isEmpty = true := by rw [hw]; rfl
  simp only [headRead, if_pos hread, hpop, hnone, setAgainIf, if_true]

theorem headRead_refused {i : Fin 32} {q : QueueId} {s : State} (hread : (queueAt q s).readable i = false) :
    headRead i q s = (.access, 0, s) := by simp [headRead, hread]

/-- A read of a readable head, by what it makes of the queue. -/
theorem does_qdataRead {i : Fin 32} {q : QueueId} {s u : State} {w : Word} {x : Queue} (h : MayAccess i s)
    (hr : headRead i q (accessed i s) = (.ok, w, setQueue q x u)) (hst : u.st = s.st) (hsaf : u.saf = s.saf)
    (hsent : u.sent = []) (hqueues : ∀ p, queueAt p u = queueAt p s) :
    Does (.qdataRead i q) s (fun t => queueAt q t = x ∧ said t = [directRsp i 3 .ok (headAddr q) [w]] ∧
      (∀ p, p ≠ q → queueAt p t = queueAt p s) ∧ t.st = s.st ∧ t.saf = s.saf) := by
  obtain ⟨hst', hsaf', hsent'⟩ := setQueue_kept q x u
  refine ⟨_, exec_qdataRead h hr, ?_, ?_, fun p hp => ?_, hst'.trans hst, hsaf'.trans hsaf⟩
  · exact (queueAt_congr rfl rfl _).trans (queueAt_setQueue_same q x u)
  · rw [said_put_rsp, said, hsent', hsent]
    rfl
  · exact (queueAt_congr rfl rfl _).trans ((queueAt_setQueue_other hp x u).trans (hqueues p))

theorem does_qdataRead_cons {i : Fin 32} {q : QueueId} {s : State} (h : MayAccess i s)
    (hread : (queueAt q s).readable i = true) {w : Word} {r : List Word} (hw : (queueAt q s).words = w :: r) :
    Does (.qdataRead i q) s (fun t => queueAt q t = { queueAt q s with words := r, last := w } ∧
      said t = [directRsp i 3 .ok (headAddr q) [w]] ∧ (∀ p, p ≠ q → queueAt p t = queueAt p s) ∧ t.st = s.st ∧
      t.saf = s.saf) := by
  have hqueue := queueAt_accessed q i s
  have hr := headRead_cons (i := i) (q := q) (s := accessed i s) (by rwa [hqueue]) (hqueue ▸ hw)
  rw [hqueue] at hr
  exact does_qdataRead h hr (accessed_st i s) (accessed_saf i s) rfl (fun p => queueAt_accessed p i s)

theorem does_qdataRead_empty {i : Fin 32} {q : QueueId} {s : State} (h : MayAccess i s)
    (hread : (queueAt q s).readable i = true) (hw : (queueAt q s).words = []) :
    Does (.qdataRead i q) s (fun t => queueAt q t = { queueAt q s with underrun := true } ∧
      said t = [directRsp i 3 .ok (headAddr q) [(queueAt q s).last]] ∧ t.st = s.st ∧ t.saf = s.saf) := by
  have hqueue := queueAt_accessed q i s
  have hr := headRead_empty (i := i) (q := q) (s := accessed i s) (by rwa [hqueue]) (hqueue ▸ hw)
  rw [hqueue] at hr
  obtain ⟨t, hexec, hend, hsaid, -, hkept⟩ := does_qdataRead h hr (accessed_st i s) (accessed_saf i s) rfl
    (fun p => (queueAt_congr rfl rfl _).trans (queueAt_accessed p i s))
  exact ⟨t, hexec, hend, hsaid, hkept⟩

theorem does_qdataRead_refused {i : Fin 32} {q : QueueId} {s : State} (h : MayAccess i s)
    (hread : (queueAt q s).readable i = false) : Does (.qdataRead i q) s (fun t =>
      queueAt q t = queueAt q s ∧ said t = [directRsp i 3 .access (headAddr q) []]) :=
  ⟨_, exec_qdataRead h (headRead_refused (by rwa [queueAt_accessed])),
    (queueAt_congr rfl rfl _).trans (queueAt_accessed q i s), said_put_accessed ..⟩

/-! ### FLUSH, CLAIM and RELEASE (R337, R338, Table 13-19) -/

/-- A single write of a register without W1C bits, where its meaning is known and leaves the sessions alone. -/
theorem writeCmd_of_sess {i : Fin 32} {s x : State} {P : State → Prop} {a o : Nat} {b : Blk} {v : Word} {c : RspCode}
    (h : MayWrite i s) (hreg : PlainReg a b o) (hw : blockWrite i none b o v (accessed i s) = (c, x))
    (hsess : x.host.sess = (accessed i s).host.sess) (hp : P (put (.rsp (directRsp i 4 c a [])) x)) :
    ∃ t, writeCmd i a v s = .next t ∧ P t := by
  refine writes_of_may h hreg.aligned hreg.block (c := c) (x := x) ?_ ?_ hp
  · rw [keepFresh_of_none hreg.not_w1c]
    exact hw
  · rw [hsess]
    exact accessed_outstanding h.1

theorem plainReg_queueCtrl (q : Fin 8) : PlainReg (0x4008 + 0x20 * q.val) .queues (0x008 + 0x20 * q.val) := by
  constructor
  · omega
  · fin_cases q <;> rfl
  · fin_cases q <;> rfl

theorem queuesWrite_ctrl (i : Fin 32) (q : Fin 8) (v : Word) (s : State) :
    queuesWrite i (0x008 + 0x20 * q.val) v s = queueCtrl i q.val v s := by
  fin_cases q <;> rfl

/-- A write of QqCTRL that is taken makes its change of that queue alone. -/
theorem writeCmd_queueCtrl {i : Fin 32} {q : Fin 8} {v : Word} {s u : State} {x : Queue} (h : MayWrite i s)
    (hw : queueCtrl i q.val v (accessed i s) = (.ok, setQueue (.q q) x u)) (hhost : u.host = (accessed i s).host)
    (hst : u.st = s.st) (hsaf : u.saf = s.saf) (hcan : u.can = s.can) (hsent : u.sent = []) :
    ∃ t, writeCmd i (0x4008 + 0x20 * q.val) v s = .next t ∧ t.host.queues = s.host.queues.set q x ∧ t.can = s.can ∧
      t.st = s.st ∧ t.saf = s.saf ∧ said t = [directRsp i 4 .ok (0x4008 + 0x20 * q.val) []] := by
  have hset : (setQueue (.q q) x u).host.queues = s.host.queues.set q x := by
    simp only [setQueue, modQueue, hhost]
    exact updNat_of_lt _ q.isLt _
  refine writeCmd_of_sess h (plainReg_queueCtrl q) ((queuesWrite_ctrl ..).trans hw) ?_ ⟨hset, hcan, hst, hsaf, ?_⟩
  · simp only [setQueue, modQueue, hhost]
  · rw [said_put_rsp, said]
    simp only [setQueue, modQueue, hsent]
    rfl

theorem queueCtrl_flush (i : Fin 32) (q : Fin 8) (s : State) : queueCtrl i q.val b31 s =
    (.ok, setQueue (.q q) s.host.queues[q].flush (setAgain (0x4004 + 0x20 * q.val) (2 ^ 19) s)) := by
  have h30 : wBit b31 30 = false := rfl
  have h31 : wBit b31 31 = true := rfl
  have h29 : wBit b31 29 = false := rfl
  simp [queueCtrl, h29, h30, h31, setAgainIf, setQueue, modQueue, updNat, updAt]

theorem queueCtrl_claim {i : Fin 32} {q : Fin 8} {s : State} (hread : s.host.queues[q].readable i = true) :
    queueCtrl i q.val b30 s = (.ok, setQueue (.q q) { s.host.queues[q] with claim := some i } s) := by
  have h30 : wBit b30 30 = true := rfl
  have h31 : wBit b30 31 = false := rfl
  have h29 : wBit b30 29 = false := rfl
  have hno : (!(getNat s.host.queues q.val).readable i) = false := by rw [getNat_fin, hread]; rfl
  simp only [queueCtrl, h29, h30, h31, hno]
  simp [setAgainIf, setQueue, modQueue, updNat, updAt]

theorem queueCtrl_claim_refused {i : Fin 32} {q : Fin 8} {s : State} (hread : s.host.queues[q].readable i = false) :
    queueCtrl i q.val b30 s = (.access, s) := by
  have h30 : wBit b30 30 = true := rfl
  have hyes : (!(getNat s.host.queues q.val).readable i) = true := by rw [getNat_fin, hread]; rfl
  simp only [queueCtrl, h30, hyes]
  rfl

theorem queueCtrl_release (i : Fin 32) (q : Fin 8) (s : State) : queueCtrl i q.val b29 s =
    (.ok, setQueue (.q q) (if s.host.queues[q].claim = some i then { s.host.queues[q] with claim := none }
      else s.host.queues[q]) s) := by
  have h30 : wBit b29 30 = false := rfl
  have h31 : wBit b29 31 = false := rfl
  have h29 : wBit b29 29 = true := rfl
  simp only [queueCtrl, h29, h30, h31]
  simp [setAgainIf, setQueue, modQueue, updNat, updAt]

theorem does_claim {i : Fin 32} {q : Fin 8} {s : State} (h : MayWrite i s)
    (hread : s.host.queues[q].readable i = true) : Does (.claim i q) s (fun t =>
      t.host.queues = s.host.queues.set q { s.host.queues[q] with claim := some i } ∧ t.st = s.st ∧ t.saf = s.saf) := by
  obtain ⟨t, ht, hqueues, -, hst, hsaf, -⟩ := writeCmd_queueCtrl h (queueCtrl_claim (s := accessed i s) hread) rfl
    (accessed_st i s) (accessed_saf i s) rfl rfl
  exact ⟨t, ht, hqueues, hst, hsaf⟩

theorem does_claim_refused {i : Fin 32} {q : Fin 8} {s : State} (h : MayWrite i s)
    (hread : s.host.queues[q].readable i = false) : Does (.claim i q) s (fun t => t.host.queues = s.host.queues ∧
      said t = [directRsp i 4 .access (0x4008 + 0x20 * q.val) []]) :=
  writeCmd_of_sess h (plainReg_queueCtrl q) ((queuesWrite_ctrl ..).trans (queueCtrl_claim_refused hread)) rfl
    ⟨rfl, said_put_accessed ..⟩

theorem does_queueRelease {i : Fin 32} {q : Fin 8} {s : State} (h : MayWrite i s) : Does (.queueRelease i q) s (fun t =>
    t.host.queues = s.host.queues.set q (if s.host.queues[q].claim = some i then { s.host.queues[q] with claim := none }
      else s.host.queues[q]) ∧ t.st = s.st ∧ t.saf = s.saf ∧
    said t = [directRsp i 4 .ok (0x4008 + 0x20 * q.val) []]) := by
  obtain ⟨t, ht, hqueues, -, hkept⟩ := writeCmd_queueCtrl h (queueCtrl_release i q (accessed i s)) rfl
    (accessed_st i s) (accessed_saf i s) rfl rfl
  exact ⟨t, ht, hqueues, hkept⟩

theorem does_queueRelease_own {i : Fin 32} {q : Fin 8} {s : State} (h : MayWrite i s)
    (hclaim : s.host.queues[q].claim = some i) : Does (.queueRelease i q) s (fun t =>
      t.host.queues = s.host.queues.set q { s.host.queues[q] with claim := none } ∧ t.st = s.st ∧ t.saf = s.saf) := by
  obtain ⟨t, ht, hqueues, hst, hsaf, -⟩ := does_queueRelease (q := q) h
  exact ⟨t, ht, by rw [hqueues, if_pos hclaim], hst, hsaf⟩

theorem does_queueRelease_other {i : Fin 32} {q : Fin 8} {s : State} (h : MayWrite i s)
    (hclaim : s.host.queues[q].claim ≠ some i) : Does (.queueRelease i q) s (fun t =>
      t.host.queues = s.host.queues ∧ said t = [directRsp i 4 .ok (0x4008 + 0x20 * q.val) []]) := by
  obtain ⟨t, ht, hqueues, -, -, hsaid⟩ := does_queueRelease (q := q) h
  refine ⟨t, ht, ?_, hsaid⟩
  rw [hqueues, if_neg hclaim]
  exact Vector.set_getElem_self q.isLt

theorem plainReg_canRxCtrl (c : Fin 2) :
    PlainReg (0xE018 + 0x400 * c.val) (if c = 0 then .can0 else .can1) 0x018 := by
  fin_cases c <;> exact ⟨rfl, rfl, rfl⟩

theorem blockWrite_can (i : Fin 32) (c : Fin 2) (o : Nat) (v : Word) (s : State) :
    blockWrite i none (if c = 0 then .can0 else .can1) o v s = canWrite c.val o v s := by
  fin_cases c <;> rfl

theorem modCan_congr {c : Nat} {f g : CanCh → CanCh} {s : State} (h : f (canAt s c) = g (canAt s c)) :
    modCan c f s = modCan c g s := by
  have hupd : updNat s.can c f = updNat s.can c g := by
    by_cases hc : c < 2
    · rw [canAt, getNat_of_lt _ hc] at h
      rw [updNat_of_lt _ hc, updNat_of_lt _ hc, h]
    · rw [updNat_of_ge _ (Nat.not_lt.mp hc), updNat_of_ge _ (Nat.not_lt.mp hc)]
  simp only [modCan, h, hupd]

theorem canWrite_flush (c : Fin 2) (s : State) : canWrite c.val 0x018 b31 s =
    (.ok, setQueue (.can c) (queueAt (.can c) s).flush (setAgain (0xE014 + 0x400 * c.val) (2 ^ 19) s)) := by
  have hw : canWrite c.val 0x018 b31 s =
      (.ok, modCan c.val (fun x => { x with rx := x.rx.flush }) (setAgain (0xE014 + 0x400 * c.val) (2 ^ 19) s)) := rfl
  rw [hw, setQueue, queueAt]
  refine congrArg (Prod.mk RspCode.ok) (modCan_congr ?_)
  rw [canAt, setAgain_can, getNat_fin]

/-- FLUSH of any queue, by what its control register's write makes of it. -/
theorem does_flush {i : Fin 32} {s : State} (h : MayWrite i s) (q : QueueId) : Does (.flush i q) s (fun t =>
    queueAt q t = { queueAt q s with words := [], drops := 0, flushed := true } ∧
    (∀ p, p ≠ q → queueAt p t = queueAt p s) ∧ t.st = s.st ∧ t.saf = s.saf) := by
  have hend : ∀ (a bits : Nat) (r : Rsp),
      let t := put (.rsp r) (setQueue q (queueAt q (accessed i s)).flush (setAgain a bits (accessed i s)))
      queueAt q t = (queueAt q s).flush ∧ (∀ p, p ≠ q → queueAt p t = queueAt p s) ∧ t.st = s.st ∧ t.saf = s.saf := by
    intro a bits r
    rw [queueAt_accessed]
    obtain ⟨hst, hsaf, -⟩ := setQueue_kept q (queueAt q s).flush (setAgain a bits (accessed i s))
    exact ⟨(queueAt_congr rfl rfl q).trans (queueAt_setQueue_same ..), fun p hp => (queueAt_congr rfl rfl p).trans
      ((queueAt_setQueue_other hp ..).trans (queueAt_congr rfl rfl p)), hst, hsaf.trans (accessed_saf i s)⟩
  cases q with
  | q k =>
    exact writeCmd_of_sess h (plainReg_queueCtrl k) ((queuesWrite_ctrl ..).trans (queueCtrl_flush i k (accessed i s)))
      rfl (hend ..)
  | can c =>
    refine writeCmd_of_sess h (plainReg_canRxCtrl c) ((blockWrite_can ..).trans (canWrite_flush c (accessed i s))) ?_
      (hend ..)
    rw [setQueue, modCan_host, setAgain_host]

end Sys2Proof.Machine

namespace Sys2Proof

open Sys2Proof.Machine

/-- Settles O48: a read by the head's words and its claim, and a write of a queue's control register by the queue it
leaves. -/
theorem queueReads : Obligations.QueueReads := by
  refine fun i s => ⟨fun q => ⟨stat_empty_iff _, fun h => readable_of_unclaimed h i,
      fun j h => (readable_iff_of_claimed h i)⟩,
    fun q h hread => ⟨fun w r hw => does_qdataRead_cons h hread hw, does_qdataRead_empty h hread⟩,
    fun q => does_qdataRead_refused, fun h => ⟨does_flush h, fun q => ?_⟩⟩
  exact ⟨does_claim h, does_claim_refused h, does_queueRelease_own h, does_queueRelease_other h⟩

end Sys2Proof
end

section
/-! SUPPORT AND PROOFS. The module's side of a queue: items written and committed (13 R335, R336, R339). -/

namespace Sys2Proof.Machine

/-! ### STREAM_ITEM (R339) -/

section
variable {q : Fin 8} {s : State} (hawake : awake s = true) (harmed : s.st.mode.fromArmed = true) (htick : tickOf s ≤ 340)
include hawake harmed htick

theorem exec_streamItem_turn (hturn : hadTurn (.item q.val) s = false) : exec (.streamItem q) s =
    match streamItem (queueCfg s q) (actAt (.item q.val) 340 (fresh s)) with
    | some w => .next (tookFree w.length (modQueue q.val (·.offer w) (actAt (.item q.val) 340 (fresh s))))
    | none => .next (actAt (.item q.val) 340 (fresh s)) := by
  have hact : mayAct (.item q.val) 340 s = true := (mayAct_iff ..).mpr ⟨htick, hturn⟩
  have hgo : (awake (fresh s) && (fresh s).st.mode.fromArmed && mayAct (.item q.val) 340 (fresh s)) = true := by
    rw [awake_fresh, fresh_st, mayAct_fresh, hawake, harmed, hact]
    rfl
  exact (if_pos hgo).trans rfl

omit hawake harmed htick in
theorem exec_streamItem_again (hturn : hadTurn (.item q.val) s = true) : exec (.streamItem q) s = .next (fresh s) := by
  have hact : mayAct (.item q.val) 340 (fresh s) = false := by simp [mayAct, hturn]
  refine if_neg ?_
  rw [hact, Bool.and_false]
  exact Bool.false_ne_true

theorem does_streamItem (hturn : hadTurn (.item q.val) s = false) {w : List Word}
    (hw : streamItem (queueCfg s q) (actAt (.item q.val) 340 (fresh s)) = some w) : Does (.streamItem q) s (fun t =>
      tickOf t = 340 ∧ hadTurn (.item q.val) t = true ∧
      t.host.queues = s.host.queues.set q { s.host.queues[q] with building := s.host.queues[q].building ++ [w] } ∧
      t.st = s.st ∧ t.saf = s.saf) := by
  have hexec := exec_streamItem_turn hawake harmed htick hturn
  rw [hw] at hexec
  exact ⟨_, hexec, tickOf_actAt .., (hadTurn_actAt ..).trans (by simp), updNat_of_lt _ q.isLt _, rfl, rfl⟩

theorem exec_streamItem_none (hturn : hadTurn (.item q.val) s = false)
    (hw : streamItem (queueCfg s q) (actAt (.item q.val) 340 (fresh s)) = none) :
    exec (.streamItem q) s = .next (actAt (.item q.val) 340 (fresh s)) := by
  have hexec := exec_streamItem_turn hawake harmed htick hturn
  rwa [hw] at hexec

end

/-! ### The commit of an item (R335, R336) -/

theorem commit_taken {q : Queue} {item : List Word} {rest : List (List Word)} {kind depth : Nat}
    (hb : q.building = item :: rest) (hfit : q.words.length + q.gapWords + 1 + item.length ≤ depth) :
    q.commit kind depth false = { q with
      building := rest, drops := 0, seq := (q.seq + 1) % 65536
      words := q.words ++ (if q.drops = 0 then [] else [itemHeader 0xFF 1 q.firstDrop, toW q.drops]) ++
        itemHeader kind item.length q.seq :: item } := by
  have hkeep : Queue.drops? { q with building := rest } item depth false = false :=
    decide_eq_false (Nat.not_lt.mpr hfit)
  simp only [Queue.commit, hb, hkeep]
  rfl

theorem commit_dropped {q : Queue} {item : List Word} {rest : List (List Word)} {kind depth : Nat} {lost : Bool}
    (hb : q.building = item :: rest) (hdrop : lost = true ∨ depth < q.words.length + q.gapWords + 1 + item.length) :
    q.commit kind depth lost = { q with
      building := rest, drops := satAdd q.drops 1 65535, firstDrop := if q.drops = 0 then q.seq else q.firstDrop
      total := satAdd q.total 1 65535, ovf := true, seq := (q.seq + 1) % 65536 } := by
  have hdrops : Queue.drops? { q with building := rest } item depth lost = true :=
    (Bool.or_eq_true ..).mpr (hdrop.imp id decide_eq_true)
  simp only [Queue.commit, hb, hdrops]
  rfl

/-- QUEUE_ITEM_COMMIT changes its queue as the commit says, and nothing else of the queues. -/
theorem does_queueItemCommit (q : Fin 8) (ecc : Bool) (s : State) : Does (.queueItemCommit (.q q) ecc) s (fun t =>
    t.host.queues = s.host.queues.set q (s.host.queues[q].commit (queueCfg s q).content (queueCfg s q).depth
      (ecc || sourceLost (queueCfg s q).content s)) ∧ t.st = s.st ∧ t.saf = s.saf) := by
  refine ⟨_, rfl, ?_, ?_, ?_⟩
  · simp only [modQueue, tookFree_host, setAgainIf_host, fresh_host]
    exact updNat_of_lt _ q.isLt _
  · simp [modQueue]
  · simp [modQueue]

end Sys2Proof.Machine

namespace Sys2Proof

open Sys2Proof.Machine

/-- Settles O49: an item by its turn at tick 340, and a commit by what fits. -/
theorem queueItems : Obligations.QueueItems := by
  refine ⟨fun q s hawake harmed htick => ⟨fun hturn => ⟨fun w => does_streamItem hawake harmed htick hturn,
    exec_streamItem_none hawake harmed htick hturn⟩, exec_streamItem_again⟩, fun q item rest s hb => ⟨?taken, ?dropped⟩⟩
  case taken =>
    intro hlost hfit
    obtain ⟨t, ht, hqueues, hkept⟩ := does_queueItemCommit q false s
    rw [hlost, Bool.or_false, commit_taken hb hfit] at hqueues
    exact ⟨t, ht, hqueues, hkept⟩
  case dropped =>
    intro ecc hdrop
    obtain ⟨t, ht, hqueues, hkept⟩ := does_queueItemCommit q ecc s
    rw [commit_dropped hb (hdrop.imp (fun hecc => by rw [hecc, Bool.true_or]) id)] at hqueues
    exact ⟨t, ht, hqueues, hkept⟩

end Sys2Proof
end

section
/-! SUPPORT. One CAN channel changed, and what an offer at the next start of arbitration makes of a channel (14 R347, R348). -/

namespace Sys2Proof.Machine

/-! ### One channel changed -/

theorem canAt_fin (s : State) (c : Fin 2) : canAt s c.val = s.can[c] := getNat_fin ..

theorem modCan_at (c : Fin 2) (f : CanCh → CanCh) (s : State) : (modCan c.val f s).can[c] = f s.can[c] := by
  rw [modCan_can, ← getNat_fin, getNat_updNat_same _ c.isLt, getNat_fin]

theorem modCan_other {c d : Fin 2} (h : d ≠ c) (f : CanCh → CanCh) (s : State) :
    (modCan c.val f s).can[d] = s.can[d] := by
  rw [modCan_can, ← getNat_fin, getNat_updNat_other _ (fun hv => h (Fin.ext hv)), getNat_fin]

theorem modTxb_at (b : Fin 3) (f : Txb → Txb) (x : CanCh) : (x.modTxb b.val f).txb[b] = f x.txb[b] := by
  rw [CanCh.modTxb, ← getNat_fin, getNat_updNat_same _ b.isLt, getNat_fin]

/-! ### The next start of arbitration (R348) -/

/-- A channel at the next start of arbitration: TXB0 takes a response that waits, and a pending buffer is offered. -/
def CanCh.offer (x : CanCh) : CanCh :=
  if x.loadRsp.idle then
    match x.loadRsp.choose with
    | some b => { x.loadRsp with offered := some b }
    | none => x.loadRsp
  else x.loadRsp

theorem updNat_updNat {α : Type} {n : Nat} (v : Vector α n) (i : Nat) (f g : α → α) :
    updNat (updNat v i f) i g = updNat v i (fun x => g (f x)) := by
  by_cases hi : i < n
  · rw [updNat_of_lt _ hi, updNat_of_lt _ hi, updNat_of_lt _ hi, Vector.getElem_set_self, Vector.set_set]
  · rw [updNat_of_ge _ (Nat.not_lt.mp hi), updNat_of_ge _ (Nat.not_lt.mp hi), updNat_of_ge _ (Nat.not_lt.mp hi)]

theorem canOffer_can (c : Nat) (s : State) : (canOffer c s).can = updNat s.can c (fun _ => (canAt s c).offer) := by
  unfold canOffer CanCh.offer
  generalize (canAt s c).loadRsp = x
  cases hidle : x.idle with
  | false => simp only [hidle, Bool.false_eq_true, if_false, modCan_can]
  | true =>
    cases hchosen : x.choose with
    | none => simp only [hidle, hchosen, if_true, modCan_can]
    | some b => simp only [hidle, hchosen, if_true, put_can, modCan_can, updNat_updNat]

theorem canOffer_at (c : Fin 2) (s : State) : (canOffer c.val s).can[c] = s.can[c].offer := by
  rw [canOffer_can, canAt_fin, ← getNat_fin, getNat_updNat_same _ c.isLt]

theorem canOffer_other {c d : Fin 2} (h : d ≠ c) (s : State) : (canOffer c.val s).can[d] = s.can[d] := by
  rw [canOffer_can, ← getNat_fin, getNat_updNat_other _ (fun hv => h (Fin.ext hv)), getNat_fin]

/-- An offer fills TXB0 at most, takes a response from those that wait at most, and names a buffer. -/
theorem offer_eq (x : CanCh) : ∃ t q o, x.offer = { x with txb := x.txb.set 0 t, rspQ := q, offered := o } := by
  have hload : ∃ t q, x.loadRsp = { x with txb := x.txb.set 0 t, rspQ := q } := by
    have hsame : ∃ t q, x = { x with txb := x.txb.set 0 t, rspQ := q } :=
      ⟨x.txb[0], x.rspQ, by rw [Vector.set_getElem_self]⟩
    unfold CanCh.loadRsp
    split
    · split
      · exact ⟨_, _, rfl⟩
      · exact hsame
    · exact hsame
  obtain ⟨t, q, hload⟩ := hload
  unfold CanCh.offer
  rw [hload]
  split
  · split
    · exact ⟨t, q, _, rfl⟩
    · exact ⟨t, q, _, rfl⟩
  · exact ⟨t, q, _, rfl⟩

/-- Where no response waits, an offer names a buffer and does nothing else. -/
theorem offer_of_no_rsp {x : CanCh} (h : x.rspQ = []) : ∃ o, x.offer = { x with offered := o } := by
  have hload : x.loadRsp = x := by simp only [CanCh.loadRsp, h]
  unfold CanCh.offer
  rw [hload]
  split
  · split
    · exact ⟨_, rfl⟩
    · exact ⟨_, rfl⟩
  · exact ⟨_, rfl⟩

/-- A channel that is changed and then offers: what is in its place, and what stays. -/
theorem changed_offers (c : Fin 2) (f : CanCh → CanCh) (s : State) :
    (canOffer c.val (modCan c.val f s)).can[c] = (f s.can[c]).offer ∧
      (∀ d : Fin 2, d ≠ c → (canOffer c.val (modCan c.val f s)).can[d] = s.can[d]) ∧
      (canOffer c.val (modCan c.val f s)).st = s.st ∧ (canOffer c.val (modCan c.val f s)).saf = s.saf := by
  refine ⟨?_, fun d hd => ?_, ?_, ?_⟩
  · rw [canOffer_at, modCan_at]
  · rw [canOffer_other hd, modCan_other hd]
  · rw [canOffer_st, modCan_st]
  · rw [canOffer_saf, modCan_saf]

end Sys2Proof.Machine
end

section
/-! SUPPORT AND PROOFS. The end of an attempt on a CAN bus, the ACK run, receiving, and recovery (14 R343, R348 to R353). -/

namespace Sys2Proof.Machine

/-! ### The error state follows the counters (R343) -/

/-- A judgement of the counters sets the error state and what latches it. -/
theorem judge_eq (x : CanCh) : ∃ e p q n, x.judge =
    { x with errSt := e, passiveSeen := p, busoffSeen := q, busoff := n } := by
  unfold CanCh.judge
  split
  · exact ⟨_, _, _, _, rfl⟩
  · exact ⟨_, _, _, _, rfl⟩
  · (repeat' split) <;> exact ⟨_, _, _, _, rfl⟩

/-- A channel that takes part on its bus. -/
def CanCh.online (x : CanCh) : Prop := x.errSt = .active ∨ x.errSt = .passive

theorem judge_of_online {x : CanCh} (h : x.online) : x.judge =
    if 256 ≤ x.tec then { x with errSt := .busOff, busoffSeen := true, busoff := satAdd x.busoff 1 255 }
    else if 128 ≤ x.tec ∨ 128 ≤ x.recCnt then
      { x with errSt := .passive, passiveSeen := x.passiveSeen || x.errSt == .active }
    else { x with errSt := .active } := by
  rcases h with h | h <;> simp only [CanCh.judge, h]

/-- The error state that the counters call for, with BUSOFF counted from n (R343). -/
def CountsJudged (n : Nat) (z : CanCh) : Prop :=
  (256 ≤ z.tec → z.errSt = .busOff ∧ z.busoff = satAdd n 1 255) ∧
  (z.tec < 256 → (128 ≤ z.tec ∨ 128 ≤ z.recCnt) → z.errSt = .passive) ∧
  (z.tec < 128 → z.recCnt < 128 → z.errSt = .active)

theorem countsJudged_judge {x : CanCh} (h : x.online) : CountsJudged x.busoff x.judge := by
  rw [judge_of_online h]
  split
  next h256 => exact ⟨fun _ => ⟨rfl, rfl⟩, fun hlt => absurd hlt (Nat.not_lt.mpr h256), fun hlt => by dsimp only at hlt; omega⟩
  next h256 =>
    split
    next h128 =>
      refine ⟨fun hge => absurd hge h256, fun _ _ => rfl, fun htec hrec => ?_⟩
      dsimp only at htec hrec
      omega
    next h128 => exact ⟨fun hge => absurd hge h256, fun _ hor => absurd hor h128, fun _ _ => rfl⟩

/-- A channel after its counters changed to those of y: judged, and at the next start of arbitration. -/
structure JudgedFrom (y z : CanCh) : Prop where
  tec : z.tec = y.tec
  recCnt : z.recCnt = y.recCnt
  ackRun : z.ackRun = y.ackRun
  noAck : z.noAck = y.noAck
  noAckSeen : z.noAckSeen = y.noAckSeen
  txOk : z.txOk = y.txOk
  rx : z.rx = y.rx
  busy : z.busy = y.busy
  judged : y.online → CountsJudged y.busoff z
  txb : y.rspQ = [] → z.txb = y.txb

theorem judge_offer (y : CanCh) : JudgedFrom y y.judge.offer := by
  obtain ⟨t, r, o, hoffer⟩ := offer_eq y.judge
  have hcounts : y.online → CountsJudged y.busoff y.judge.offer := fun h => by
    have hj := countsJudged_judge h
    rw [hoffer]
    exact hj
  have htxb : y.rspQ = [] → y.judge.offer.txb = y.txb := fun h => by
    obtain ⟨e, p, q, n, hjudge⟩ := judge_eq y
    obtain ⟨o', hoffer'⟩ := offer_of_no_rsp (x := y.judge) (by rw [hjudge]; exact h)
    rw [hoffer', hjudge]
  obtain ⟨e, p, q, n, hjudge⟩ := judge_eq y
  constructor
  case judged => exact hcounts
  case txb => exact htxb
  all_goals rw [hoffer, hjudge]

/-- A channel that is changed, judged and offers: what is in its place, and what stays. -/
theorem changed_judged (c : Fin 2) (f : CanCh → CanCh) (s : State) :
    JudgedFrom (f s.can[c]) (canOffer c.val (modCan c.val (fun x => (f x).judge) s)).can[c] ∧
      (∀ d : Fin 2, d ≠ c → (canOffer c.val (modCan c.val (fun x => (f x).judge) s)).can[d] = s.can[d]) ∧
      (canOffer c.val (modCan c.val (fun x => (f x).judge) s)).st = s.st ∧
      (canOffer c.val (modCan c.val (fun x => (f x).judge) s)).saf = s.saf := by
  obtain ⟨hat, hother, hkept⟩ := changed_offers c (fun x => (f x).judge) s
  rw [hat]
  exact ⟨judge_offer _, hother, hkept⟩

/-! ### What each end of an attempt makes of its channel (R348 to R350) -/

/-- The frame of buffer b received its ACK. -/
def CanCh.acked (b : Fin 3) (x : CanCh) : CanCh :=
  { x.modTxb b.val (fun t => { t with st := .done, attempts := satAdd t.attempts 1 255
                                      abortLate := t.abortReq, abortReq := false }) with
    offered := none, tec := x.tec - 1, txOk := (x.txOk + 1) % 2 ^ 24, ackRun := 0, noAck := false
    pubSent := if b == 1 && decide (0 < x.nPub) then (x.pubSent + 1) % 65536 else x.pubSent }

/-- The frame on the bus received no ACK. -/
def CanCh.unacked (x : CanCh) : CanCh :=
  { x.failed with
    ackRun := satAdd x.ackRun 1 255, noAck := decide (16 ≤ satAdd x.ackRun 1 255)
    noAckSeen := x.noAckSeen || (decide (16 ≤ satAdd x.ackRun 1 255) && !x.noAck)
    tec := if x.errSt = CanSt.passive then x.tec else x.tec + 8 }

/-- A bus error stops the channel's own frame: its transmit counter rises by 8. -/
def CanCh.stopped (x : CanCh) : CanCh := { x.failed with tec := x.tec + 8 }

section
variable {c : Fin 2} {s : State} (hawake : awake s = true)
include hawake

theorem exec_canFrameSent {b : Fin 3} (hoff : s.can[c].offered = some b) : exec (.canFrameSent c) s =
    .next (canOffer c.val (modCan c.val (fun x => (x.acked b).judge) (fresh s))) := by
  have hoff' : (canAt (fresh s) c.val).offered = some b := by rw [canAt_fin, fresh_can, hoff]
  have hon : canOn (fresh s) = true := hawake
  change execCanFrameSent c s = _
  simp only [execCanFrameSent, hoff', hon, if_true]
  rfl

theorem exec_canAckError (hoff : s.can[c].offered.isSome = true) : exec (.canAckError c) s =
    .next (canOffer c.val (modCan c.val (fun x => x.unacked.judge) (fresh s))) := by
  have hgo : (canOn (fresh s) && (canAt (fresh s) c.val).offered.isSome) = true := by
    rw [canAt_fin, fresh_can, hoff, Bool.and_true]
    exact hawake
  refine (if_pos hgo).trans (congrArg Host.Outcome.next (congrArg (canOffer c.val) (modCan_congr ?_)))
  rfl

theorem exec_canBusError (honline : s.can[c].online) : exec (.canBusError c true) s =
      (if s.can[c].offered.isSome then
        .next (canOffer c.val (modCan c.val (fun x => x.stopped.judge) (fresh s)))
      else .next (fresh s)) ∧
    exec (.canBusError c false) s = .next (canOffer c.val (modCan c.val (fun x =>
      { x with busy := false, recCnt := satAdd x.recCnt 1 255 }.judge) (fresh s))) := by
  have hstop : (!canOn (fresh s) || (canAt (fresh s) c.val).errSt == .busOff ||
      (canAt (fresh s) c.val).errSt == .integrating) = false := by
    have hon : canOn (fresh s) = true := hawake
    rw [canAt_fin, fresh_can, hon]
    rcases honline with h | h <;> rw [h] <;> rfl
  have hat : canAt (fresh s) c.val = s.can[c] := canAt_fin ..
  refine ⟨?_, ?_⟩
  · refine (if_neg ((Bool.eq_false_iff ..).mp hstop)).trans ?_
    rw [hat]
    rfl
  · exact (if_neg ((Bool.eq_false_iff ..).mp hstop)).trans rfl

theorem exec_canArbitrationLost (hoff : s.can[c].offered.isSome = true) : exec (.canArbitrationLost c) s =
    .next (modCan c.val (fun x => { x.failed with busy := true }) (fresh s)) := by
  refine if_pos ?_
  rw [canAt_fin, fresh_can, hoff, Bool.and_true]
  exact hawake

end

/-- An attempt that failed: the buffer it used is counted, and ABORTED where an abort waits. -/
def Txb.failed (t : Txb) : Txb :=
  { t with attempts := satAdd t.attempts 1 255, st := if t.abortReq then .aborted else t.st, abortReq := false }

/-- A channel whose attempt with buffer b failed. -/
def CanCh.failedAt (b : Fin 3) (x : CanCh) : CanCh := { x.modTxb b.val Txb.failed with offered := none }

theorem failed_eq {x : CanCh} {b : Fin 3} (h : x.offered = some b) : x.failed = x.failedAt b := by
  simp only [CanCh.failed, h]
  rfl

end Sys2Proof.Machine

namespace Sys2Proof

open Sys2Proof.Machine

/-- Settles O51: the ACK run of a channel whose frame is on the bus, which neither a judgement nor an offer touches. -/
theorem canAckRun : Obligations.CanAckRun := by
  intro c s hawake hoff x run
  obtain ⟨b, hb⟩ := Option.isSome_iff_exists.mp hoff
  refine ⟨?unacked, ?acked⟩
  case unacked =>
    obtain ⟨hend, hother, hst, hsaf⟩ := changed_judged c CanCh.unacked (fresh s)
    exact ⟨_, exec_canAckError hawake hoff, hend.ackRun, hend.noAck, hend.noAckSeen, hst, hsaf, hother⟩
  case acked =>
    obtain ⟨hend, hother, hst, hsaf⟩ := changed_judged c (CanCh.acked b) (fresh s)
    exact ⟨_, exec_canFrameSent hawake hb, hend.ackRun, hend.noAck, hend.noAckSeen, hst, hsaf, hother⟩

end Sys2Proof
end

section
/-! SUPPORT AND PROOFS. CAN frames sent and received, their errors, and recovery (14 R343, R348 to R350, R352, R353). -/

namespace Sys2Proof.Machine

/-! ### The end of an attempt on the bus (R348 to R350) -/

section
variable {c : Fin 2} {b : Fin 3} {s : State} (hawake : awake s = true) (hoff : s.can[c].offered = some b)
include hawake hoff

theorem does_canArbitrationLost : Does (.canArbitrationLost c) s (fun t => t.can[c].txb[b] = s.can[c].txb[b].failed ∧
    t.can[c].offered = none ∧ t.can[c].busy = true ∧ t.can[c].tec = s.can[c].tec ∧ t.can[c].errSt = s.can[c].errSt ∧
    t.st = s.st ∧ t.saf = s.saf) := by
  refine ⟨_, exec_canArbitrationLost hawake (Option.isSome_iff_exists.mpr ⟨b, hoff⟩), ?_⟩
  beta_reduce
  rw [modCan_at, fresh_can, failed_eq hoff, modCan_st, modCan_saf]
  exact ⟨modTxb_at .., rfl, rfl, rfl, rfl, rfl, rfl⟩

variable (hrsp : s.can[c].rspQ = []) (honline : s.can[c].online)
include hrsp honline

theorem does_canFrameSent : Does (.canFrameSent c) s (fun t => t.can[c].txb[b] = { s.can[c].txb[b] with
      st := .done, attempts := satAdd s.can[c].txb[b].attempts 1 255, abortLate := s.can[c].txb[b].abortReq
      abortReq := false } ∧
    t.can[c].tec = s.can[c].tec - 1 ∧ t.can[c].recCnt = s.can[c].recCnt ∧ t.can[c].ackRun = 0 ∧ t.can[c].noAck = false ∧
    t.can[c].txOk = (s.can[c].txOk + 1) % 2 ^ 24 ∧ CountsJudged s.can[c].busoff t.can[c] ∧ t.st = s.st ∧ t.saf = s.saf) := by
  obtain ⟨hend, -, hst, hsaf⟩ := changed_judged c (CanCh.acked b) (fresh s)
  refine ⟨_, exec_canFrameSent hawake hoff, ?_, hend.tec, hend.recCnt, hend.ackRun, hend.noAck, hend.txOk,
    hend.judged honline, hst, hsaf⟩
  rw [hend.txb hrsp]
  exact modTxb_at ..

theorem does_canAckError_ended : Does (.canAckError c) s (fun t => t.can[c].txb[b] = s.can[c].txb[b].failed ∧
    t.can[c].ackRun = satAdd s.can[c].ackRun 1 255 ∧ t.can[c].noAck = decide (16 ≤ satAdd s.can[c].ackRun 1 255) ∧
    t.can[c].tec = (if s.can[c].errSt = .passive then s.can[c].tec else s.can[c].tec + 8) ∧
    t.can[c].recCnt = s.can[c].recCnt ∧ CountsJudged s.can[c].busoff t.can[c] ∧ t.st = s.st ∧ t.saf = s.saf) := by
  obtain ⟨hend, -, hst, hsaf⟩ := changed_judged c CanCh.unacked (fresh s)
  rw [fresh_can, CanCh.unacked, failed_eq hoff] at hend
  refine ⟨_, exec_canAckError hawake (Option.isSome_iff_exists.mpr ⟨b, hoff⟩), ?_, hend.ackRun, hend.noAck, hend.tec,
    hend.recCnt, hend.judged honline, hst, hsaf⟩
  rw [hend.txb hrsp]
  exact modTxb_at ..

theorem does_canBusError_sender : Does (.canBusError c true) s (fun t => t.can[c].txb[b] = s.can[c].txb[b].failed ∧
    t.can[c].tec = s.can[c].tec + 8 ∧ t.can[c].recCnt = s.can[c].recCnt ∧ CountsJudged s.can[c].busoff t.can[c] ∧
    t.st = s.st ∧ t.saf = s.saf) := by
  have hexec := (exec_canBusError hawake honline).1.trans (if_pos (Option.isSome_iff_exists.mpr ⟨b, hoff⟩))
  obtain ⟨hend, -, hst, hsaf⟩ := changed_judged c CanCh.stopped (fresh s)
  rw [fresh_can, CanCh.stopped, failed_eq hoff] at hend
  refine ⟨_, hexec, ?_, hend.tec, hend.recCnt, hend.judged honline, hst, hsaf⟩
  rw [hend.txb hrsp]
  exact modTxb_at ..

end

/-! ### A receiver's bus error, and recovery (R343) -/

theorem does_canBusError_receiver {c : Fin 2} {s : State} (hawake : awake s = true) (honline : s.can[c].online) :
    Does (.canBusError c false) s (fun t => t.can[c].recCnt = satAdd s.can[c].recCnt 1 255 ∧
      t.can[c].tec = s.can[c].tec ∧ t.st = s.st ∧ t.saf = s.saf) := by
  obtain ⟨hend, -, hst, hsaf⟩ :=
    changed_judged c (fun x => { x with busy := false, recCnt := satAdd x.recCnt 1 255 }) (fresh s)
  exact ⟨_, (exec_canBusError hawake honline).2, hend.recCnt, hend.tec, hst, hsaf⟩

/-- A channel that comes back from bus-off. -/
def CanCh.recovered (x : CanCh) : CanCh := { x with errSt := .active, tec := 0, recCnt := 0 }

theorem exec_busOffRecovery {c : Fin 2} {s : State} (hawake : awake s = true) : exec (.busOffRecovery c) s =
    if s.can[c].errSt = .busOff then .next (canOffer c.val (modCan c.val CanCh.recovered (fresh s)))
    else .next (fresh s) := by
  have hat : (canAt (fresh s) c.val).errSt = s.can[c].errSt := congrArg CanCh.errSt (canAt_fin ..)
  have hon : canOn (fresh s) = true := hawake
  change execBusOffRecovery c s = _
  simp only [execBusOffRecovery, hat, hon, Bool.true_and, beq_iff_eq]
  rfl

theorem does_busOffRecovery {c : Fin 2} {s : State} (hawake : awake s = true) (hoff : s.can[c].errSt = .busOff) :
    Does (.busOffRecovery c) s (fun t => t.can[c].errSt = .active ∧ t.can[c].tec = 0 ∧ t.can[c].recCnt = 0 ∧
      t.can[c].rx = s.can[c].rx ∧ t.st = s.st ∧ t.saf = s.saf) := by
  obtain ⟨hat, -, hst, hsaf⟩ := changed_offers c CanCh.recovered (fresh s)
  obtain ⟨t, r, o, hoffer⟩ := offer_eq ((fresh s).can[c]).recovered
  refine ⟨_, (exec_busOffRecovery hawake).trans (if_pos hoff), ?_⟩
  beta_reduce
  rw [hat, hoffer]
  exact ⟨rfl, rfl, rfl, rfl, hst, hsaf⟩

theorem does_busOffRecovery_other {c d : Fin 2} (h : d ≠ c) {s : State} (hawake : awake s = true) :
    Does (.busOffRecovery c) s (fun t => t.can[d] = s.can[d]) := by
  rw [Does, exec_busOffRecovery hawake]
  split
  · exact ⟨_, rfl, (changed_offers c CanCh.recovered (fresh s)).2.1 d h⟩
  · exact ⟨_, rfl, rfl⟩

/-! ### A frame that is heard (R351 to R353) -/

/-- The counting of a frame that another node sent; of its own frame a channel counts nothing. -/
def frameCounted (c : Fin 2) (f : CanFrame) (s : State) : State :=
  if f.own then s
  else modCan c.val (fun x => { x with busy := false, recCnt := recDown s.freeCtr x.recCnt }.judge) (tookFree 1 s)

/-- A frame that the module discards: a remote frame, an access request, one before ARMED, or one that no filter lets in. -/
def Discarded (c : Fin 2) (f : CanFrame) (s : State) : Prop :=
  f.remote = true ∨ s.can[c].isAccess f = true ∨ s.st.mode.fromArmed = false ∨ s.can[c].filterOf f = none

/-- A frame whose item is stored in the receive queue. -/
def rxOffered (c : Fin 2) (item : List Word) (s : State) : State :=
  modCan c.val (fun x => { x with rx := x.rx.offer item }) s

theorem frameCounted_st (c : Fin 2) (f : CanFrame) (s : State) : (frameCounted c f s).st = s.st := by
  unfold frameCounted
  split
  · rfl
  · exact modCan_st ..

theorem frameCounted_time (c : Fin 2) (f : CanFrame) (s : State) : (frameCounted c f s).time = s.time := by
  unfold frameCounted
  split
  · rfl
  · exact modCan_time ..

theorem canOffer_time (c : Nat) (s : State) : (canOffer c s).time = s.time := by
  unfold canOffer
  dsimp only
  (repeat' split) <;> simp

section
variable {c : Fin 2} {f : CanFrame} {s : State} (hawake : awake s = true) (hhears : s.can[c].hears f.own = true)
include hawake hhears

theorem exec_canFrameReceived : exec (.canFrameReceived c f) s =
    if f.remote || s.can[c].isAccess f || !s.st.mode.fromArmed then
      .next (canOffer c.val (frameCounted c f (fresh s)))
    else match s.can[c].filterOf f with
      | some k => .next (rxOffered c (rxItem s.time.beat k f) (canOffer c.val (frameCounted c f (fresh s))))
      | none => .next (canOffer c.val (frameCounted c f (fresh s))) := by
  have hat : canAt (fresh s) c.val = s.can[c] := canAt_fin ..
  have hgo : (canOn (fresh s) && (canAt (fresh s) c.val).hears f.own) = true := by
    rw [hat, hhears, Bool.and_true]
    exact hawake
  have hmode : (canOffer c.val (frameCounted c f (fresh s))).st = s.st := by
    rw [canOffer_st, frameCounted_st, fresh_st]
  have hbeat : (canOffer c.val (frameCounted c f (fresh s))).time = s.time := by
    rw [canOffer_time, frameCounted_time, fresh_time]
  rw [hat] at hgo
  change execCanFrameReceived c f s = _
  simp only [execCanFrameReceived, hat, hgo, if_true]
  change (if f.remote || s.can[c].isAccess f || !(canOffer c.val (frameCounted c f (fresh s))).st.mode.fromArmed then _
    else _) = _
  rw [hmode, ← hbeat]
  rfl

theorem exec_canFrameReceived_stored {k : Nat} (hremote : f.remote = false) (haccess : s.can[c].isAccess f = false)
    (harmed : s.st.mode.fromArmed = true) (hk : s.can[c].filterOf f = some k) : exec (.canFrameReceived c f) s =
      .next (rxOffered c (rxItem s.time.beat k f) (canOffer c.val (frameCounted c f (fresh s)))) := by
  rw [exec_canFrameReceived hawake hhears, hremote, haccess, harmed, hk]
  rfl

theorem exec_canFrameReceived_discarded (hdiscard : Discarded c f s) : exec (.canFrameReceived c f) s =
    .next (canOffer c.val (frameCounted c f (fresh s))) := by
  rw [exec_canFrameReceived hawake hhears]
  split
  · rfl
  next hkept =>
    have hnone : s.can[c].filterOf f = none := by
      obtain h | h | h | h := hdiscard
      case inr.inr.inr => exact h
      all_goals
        rw [h] at hkept
        simp at hkept
    rw [hnone]

end

theorem exec_canFrameReceived_deaf {c : Fin 2} {f : CanFrame} {s : State} (hdeaf : s.can[c].hears f.own = false) :
    exec (.canFrameReceived c f) s = .next (fresh s) := by
  refine if_neg ?_
  rw [canAt_fin, fresh_can, hdeaf, Bool.and_false]
  exact Bool.false_ne_true

theorem rxOffered_at (c : Fin 2) (item : List Word) (s : State) :
    (rxOffered c item s).can[c] = { s.can[c] with rx := s.can[c].rx.offer item } ∧ (rxOffered c item s).st = s.st ∧
      (rxOffered c item s).saf = s.saf := ⟨modCan_at .., modCan_st .., modCan_saf ..⟩

/-- What counting another node's frame leaves of the channel. -/
theorem frameCounted_other {c : Fin 2} {f : CanFrame} (hown : f.own = false) (s : State) :
    JudgedFrom { s.can[c] with busy := false, recCnt := recDown s.freeCtr s.can[c].recCnt }
        (canOffer c.val (frameCounted c f s)).can[c] ∧
      (canOffer c.val (frameCounted c f s)).st = s.st ∧ (canOffer c.val (frameCounted c f s)).saf = s.saf := by
  obtain ⟨hend, -, hkept⟩ := changed_judged c
    (fun x => { x with busy := false, recCnt := recDown s.freeCtr x.recCnt }) (tookFree 1 s)
  have hcounted : frameCounted c f s = modCan c.val
      (fun x => { x with busy := false, recCnt := recDown s.freeCtr x.recCnt }.judge) (tookFree 1 s) := by
    simp [frameCounted, hown]
  rw [hcounted]
  exact ⟨hend, hkept⟩

theorem frameCounted_own {c : Fin 2} {f : CanFrame} (hown : f.own = true) (s : State) : frameCounted c f s = s :=
  if_pos hown

theorem hears_of_online {x : CanCh} (h : x.online) {f : CanFrame} :
    (f.own = false → x.loop ≠ 1 → x.hears f.own = true) ∧ (f.own = true → x.loop ≠ 0 → x.hears f.own = true) := by
  refine ⟨fun hown hloop => ?_, fun hown hloop => ?_⟩
  all_goals rcases h with h | h <;> simp [CanCh.hears, h, hown, hloop]

section
variable {c : Fin 2} {f : CanFrame} {s : State} (hawake : awake s = true) (honline : s.can[c].online)
include hawake honline

theorem does_canFrameReceived_other (hown : f.own = false) (hloop : s.can[c].loop ≠ 1) {k : Nat}
    (hremote : f.remote = false) (haccess : s.can[c].isAccess f = false) (harmed : s.st.mode.fromArmed = true)
    (hk : s.can[c].filterOf f = some k) : Does (.canFrameReceived c f) s (fun t =>
      t.can[c].rx = { s.can[c].rx with building := s.can[c].rx.building ++ [rxItem s.time.beat k f] } ∧
      t.can[c].busy = false ∧ t.can[c].tec = s.can[c].tec ∧
      (s.can[c].recCnt ≤ 127 → t.can[c].recCnt = s.can[c].recCnt - 1) ∧ t.st = s.st ∧ t.saf = s.saf) := by
  have hhears := (hears_of_online honline).1 hown hloop
  obtain ⟨hend, hst, hsaf⟩ := frameCounted_other (c := c) hown (fresh s)
  obtain ⟨hat, hst', hsaf'⟩ :=
    rxOffered_at c (rxItem s.time.beat k f) (canOffer c.val (frameCounted c f (fresh s)))
  refine ⟨_, exec_canFrameReceived_stored hawake hhears hremote haccess harmed hk, ?_⟩
  beta_reduce
  rw [hat, hst', hst, hsaf', hsaf]
  refine ⟨?_, hend.busy, hend.tec, fun hlow => hend.recCnt.trans (if_pos hlow), rfl, rfl⟩
  rw [hend.rx]
  rfl

theorem does_canFrameReceived_discarded (hown : f.own = false) (hloop : s.can[c].loop ≠ 1) (hdiscard : Discarded c f s) :
    Does (.canFrameReceived c f) s (fun t => t.can[c].rx = s.can[c].rx ∧ t.st = s.st ∧ t.saf = s.saf) := by
  have hhears := (hears_of_online honline).1 hown hloop
  obtain ⟨hend, hst, hsaf⟩ := frameCounted_other (c := c) hown (fresh s)
  exact ⟨_, exec_canFrameReceived_discarded hawake hhears hdiscard, hend.rx, hst, hsaf⟩

theorem does_canFrameReceived_own (hown : f.own = true) (hloop : s.can[c].loop ≠ 0) {k : Nat}
    (hremote : f.remote = false) (haccess : s.can[c].isAccess f = false) (harmed : s.st.mode.fromArmed = true)
    (hk : s.can[c].filterOf f = some k) : Does (.canFrameReceived c f) s (fun t =>
      t.can[c].rx = { s.can[c].rx with building := s.can[c].rx.building ++ [rxItem s.time.beat k f] } ∧
      t.can[c].recCnt = s.can[c].recCnt ∧ t.can[c].tec = s.can[c].tec ∧ t.st = s.st ∧ t.saf = s.saf) := by
  have hhears := (hears_of_online honline).2 hown hloop
  obtain ⟨hat, hst, hsaf⟩ := rxOffered_at c (rxItem s.time.beat k f) (canOffer c.val (frameCounted c f (fresh s)))
  obtain ⟨t, r, o, hoffer⟩ := offer_eq (fresh s).can[c]
  refine ⟨_, exec_canFrameReceived_stored hawake hhears hremote haccess harmed hk, ?_⟩
  beta_reduce
  rw [hat, hst, hsaf, frameCounted_own hown, canOffer_at, canOffer_st, canOffer_saf, hoffer]
  exact ⟨rfl, rfl, rfl, rfl, rfl⟩

end

end Sys2Proof.Machine

namespace Sys2Proof

open Sys2Proof.Machine

/-- Settles O52: each end of an attempt by what it makes of its channel, a frame that is heard by its counting and its
filter, and the recovery. -/
theorem canFrames : Obligations.CanFrames := by
  refine ⟨fun c b s hawake hoff hrsp honline => ⟨fun _ => does_canFrameSent hawake hoff hrsp honline,
      does_canAckError_ended hawake hoff hrsp honline, does_canBusError_sender hawake hoff hrsp honline,
      does_canArbitrationLost hawake hoff⟩,
    fun c s hawake => ⟨fun honline => ⟨does_canBusError_receiver hawake honline, fun f hown hloop => ⟨fun k =>
          does_canFrameReceived_other hawake honline hown hloop, does_canFrameReceived_discarded hawake honline hown hloop⟩,
        fun f k hown hloop => does_canFrameReceived_own hawake honline hown hloop⟩,
      fun f => exec_canFrameReceived_deaf, does_busOffRecovery hawake, fun d hd => does_busOffRecovery_other hd hawake⟩⟩

end Sys2Proof
end

section
/-! SUPPORT AND PROOFS. Publications on the fabric and on CAN (13 R341; 14 R354, R355). -/

namespace Sys2Proof.Machine

/-! ### PUBLISH (R341) -/

/-- A frame that left as a publication shows it: its KIND, its address and its payload. -/
def pubView (e : Emit) : Nat × Nat × List Byte :=
  match e with
  | .fabric _ k _ d _ _ _ _ _ _ p => (k, d, p)
  | _ => (0, 0, [])

/-- The payload of a subscription's PUBLISH frame. -/
def pubPayload (b : Sub) (s : State) : List Byte := leB 2 b.content ++ leB 2 0 ++ wordsLe (pubWords b.content s)

/-- A block after frames of its own left: the SEQ of the KINDs and the output list have changed. -/
def sentOn (s : State) (seq : Vector Nat 16) (out : List Emit) : State :=
  { s with fab := { s.fab with seq := seq }, sent := out }


section
variable (s : State) (seq : Vector Nat 16) (out : List Emit)

theorem w1cAny_sentOn (a : Nat) : w1cAny a (sentOn s seq out) = w1cAny a s := by
  have hrows : w1cTable.map (fun r => r.2 (sentOn s seq out)) = w1cTable.map (fun r => r.2 s) := rfl
  unfold w1cAny
  cases hrow : w1cTable.find? (fun r => r.1 == a) with
  | none => rfl
  | some r => simp only [Option.map_some, List.map_inj_left.mp hrows r (List.mem_of_find?_eq_some hrow)]

theorem mirror_sentOn (k : Nat) : mirror 0 k (sentOn s seq out) = mirror 0 k s := by
  unfold mirror
  rfl

theorem summaryWord_sentOn : summaryWord 0 (sentOn s seq out) = summaryWord 0 s := by
  have hattn : ∀ k, attn 0 k (sentOn s seq out) = attn 0 k s := fun k => by
    unfold attn
    simp only [mirror_sentOn, w1cAny_sentOn]
    rfl
  unfold summaryWord
  simp only [hattn]
  rfl

/-- The words of a publication are those of the newest values, whatever has left before it. -/
theorem pubWords_sentOn (content : Nat) : pubWords content (sentOn s seq out) = pubWords content s := by
  have hfabric : ∀ o, fabricRead o (sentOn s seq out) = fabricRead o s := fun o => by
    unfold fabricRead
    rfl
  have hest : ∀ o, estRead 0 o (sentOn s seq out) = estRead 0 o s := fun o => by
    unfold estRead
    rfl
  have hrequest : requestRecord (sentOn s seq out) = requestRecord s := by
    unfold requestRecord
    rfl
  have hsaf : safRead 0 (sentOn s seq out) = safRead 0 s := by
    unfold safRead
    rfl
  have hstate : stateWord (sentOn s seq out) = stateWord s := rfl
  have hk : kState (sentOn s seq out) = kState s := rfl
  have haligned : alignedNow (sentOn s seq out) = alignedNow s := rfl
  unfold pubWords
  simp only [hfabric, hest, hrequest, hsaf, hstate, hk, haligned, summaryWord_sentOn]
  rfl

end

theorem publishOne_sentOn (b : Sub) (s : State) : ∃ seq, publishOne b s = sentOn s seq
    (s.sent ++ if s.fab.silenced then [] else [.fabric none 8 (ownAddr s) b.addr (ownString s)
      (if (fabCfg s).role = 1 then (fabCfg s).claim else 0) (getNat s.fab.seq 8) s.time.beat none (outPorts 8 b.addr s)
      (pubPayload b s)]) := by
  refine ⟨updNat s.fab.seq 8 (fun x => (x + 1) % 2 ^ 32), ?_⟩
  unfold publishOne sendFab emitFab
  cases hsilent : s.fab.silenced with
  | true =>
    rw [if_pos rfl, List.append_nil]
    exact if_pos rfl
  | false =>
    rw [if_neg Bool.false_ne_true]
    exact if_neg Bool.false_ne_true

/-- The frames of a list of subscriptions leave in its order, or none leaves from a silenced module. -/
theorem foldl_publishOne (l : List Sub) (s : State) : ∃ seq out,
    l.foldl (fun s b => publishOne b s) s = sentOn s seq out ∧ (s.fab.silenced = true → out = s.sent) ∧
      (s.fab.silenced = false → out.map pubView = s.sent.map pubView ++ l.map (fun b => (8, b.addr, pubPayload b s))) := by
  induction l generalizing s with
  | nil => exact ⟨s.fab.seq, s.sent, rfl, fun _ => rfl, fun _ => (List.append_nil _).symm⟩
  | cons b r ih =>
    obtain ⟨seq, hone⟩ := publishOne_sentOn b s
    obtain ⟨seq', out, hall, hsilent, hloud⟩ := ih (publishOne b s)
    have hpayload : ∀ x, pubPayload x (publishOne b s) = pubPayload x s := fun x => by
      rw [pubPayload, hone, pubWords_sentOn]
      rfl
    simp only [hpayload] at hloud
    rw [hone] at hall hsilent hloud
    refine ⟨seq', out, by rw [List.foldl_cons, hone, hall]; rfl, fun h => ?_, fun h => ?_⟩
    · rw [hsilent h]
      simp [sentOn, h]
    · rw [hloud h]
      simp [sentOn, h, pubView]

section
variable {s : State} (hawake : awake s = true) (harmed : s.st.mode.fromArmed = true) (htick : tickOf s ≤ 370)

theorem exec_publish_again (hturn : hadTurn .publishFab s = true) : exec .publish s = .next (fresh s) := by
  have hact : mayAct .publishFab 370 (fresh s) = false := by simp [mayAct, hturn]
  refine if_neg ?_
  rw [hact, Bool.and_false]
  exact Bool.false_ne_true

include hawake harmed htick

theorem does_publish (hturn : hadTurn .publishFab s = false) : Does .publish s (fun t => tickOf t = 370 ∧
    hadTurn .publishFab t = true ∧ t.st = s.st ∧ t.saf = s.saf ∧ (s.fab.silenced = true → t.sent = []) ∧
    (s.fab.silenced = false → t.sent.map pubView = (s.host.subs.toList.filter (fun b => b.due s.time.beat)).map
      (fun b => (8, b.addr, pubPayload b (actAt .publishFab 370 (fresh s)))))) := by
  have hact : mayAct .publishFab 370 s = true := (mayAct_iff ..).mpr ⟨htick, hturn⟩
  have hgo : (awake (fresh s) && (fresh s).st.mode.fromArmed && mayAct .publishFab 370 (fresh s)) = true := by
    rw [awake_fresh, fresh_st, mayAct_fresh, hawake, harmed, hact]
    rfl
  obtain ⟨seq, out, hall, hsilent, hloud⟩ := foldl_publishOne
    (s.host.subs.toList.filter (fun b => b.due s.time.beat)) (actAt .publishFab 370 (fresh s))
  have hexec : exec .publish s = .next (sentOn (actAt .publishFab 370 (fresh s)) seq out) := by
    rw [← hall]
    exact if_pos hgo
  exact ⟨_, hexec, tickOf_actAt .., (hadTurn_actAt ..).trans (by simp), rfl, rfl, hsilent, hloud⟩

end

/-! ### CAN publications (14 R354, R355) -/

/-- What a CAN record that falls due waits with: its content of tick 370. -/
def newestPub (c : Fin 2) (k : Fin 32) (p : PubCfg) (s : State) : PubPend :=
  { index := k.val, canId := p.canId, data := canPubData p.content (actAt (.pubCan c.val k.val) 370 (fresh s)) }

section
variable {c : Fin 2} {k : Fin 32} {p : PubCfg} {s : State} (hawake : awake s = true)
  (harmed : s.st.mode.fromArmed = true) (htick : tickOf s ≤ 370) (hturn : hadTurn (.pubCan c.val k.val) s = false)
  (hp : (pubsOf s c.val)[k.val]? = some p) (hon : p.enable = true) (hper : 0 < p.period) (hdue : s.time.beat % p.period = 0)
include hawake harmed htick hturn hp hon hper hdue

/-- The content of a publication that falls due, at its tick. -/
theorem does_publicationDue : Does (.publicationDue c k) s (fun t => tickOf t = 370 ∧
    t.can = s.can.set c (s.can[c].due (newestPub c k p s)) ∧ t.st = s.st ∧ t.saf = s.saf) := by
  have hact : mayAct (.pubCan c.val k.val) 370 s = true := (mayAct_iff ..).mpr ⟨htick, hturn⟩
  have hpubs : (pubsOf (fresh s) c.val)[k.val]? = some p := hp
  have hgo : (awake (fresh s) && (fresh s).st.mode.fromArmed && p.enable && p.period != 0 &&
      decide ((fresh s).time.beat % p.period = 0) && mayAct (.pubCan c.val k.val) 370 (fresh s)) = true := by
    rw [awake_fresh, fresh_st, fresh_time, mayAct_fresh, hawake, harmed, hon, hact, decide_eq_true hdue]
    simp only [Bool.true_and, Bool.and_true, bne_iff_ne]
    omega
  have hexec : exec (.publicationDue c k) s = .next (modCan c.val (CanCh.due (newestPub c k p s))
      (actAt (.pubCan c.val k.val) 370 (fresh s))) := by
    change execPublicationDue c k s = _
    simp only [execPublicationDue, hpubs, hgo, if_true, newestPub]
  refine ⟨_, hexec, ?_, ?_, ?_, ?_⟩
  · rw [tickOf, modCan_time]
    exact tickOf_actAt ..
  · rw [modCan_can]
    exact updNat_of_lt _ c.isLt _
  · rw [modCan_st]
    rfl
  · rw [modCan_saf]
    rfl

end

theorem due_of_new {p : PubPend} {x : CanCh} (h : ∀ q ∈ x.pubs, q.index ≠ p.index) :
    x.due p = { x with pubs := x.pubs ++ [p] } := by
  refine if_neg ?_
  simpa using h

theorem due_of_waiting {p : PubPend} {x : CanCh} (h : ∃ q ∈ x.pubs, q.index = p.index) : x.due p = { x with
    pubs := x.pubs.map (fun q => if q.index == p.index then p else q), pubSkip := satAdd x.pubSkip 1 65535 } := by
  refine if_pos ?_
  simpa using h

/-! ### TXB1 takes the lowest record (14 R354) -/

/-- Of two pending records the lower one. -/
def lowerPub (m : Option PubPend) (p : PubPend) : Option PubPend :=
  match m with
  | some q => if p.index < q.index then some p else some q
  | none => some p

theorem foldl_lowerPub_of_lowest {p : PubPend} {l : List PubPend} (hlow : ∀ q ∈ l, q = p ∨ p.index < q.index) :
    l.foldl lowerPub (some p) = some p := by
  induction l with
  | nil => rfl
  | cons q r ih =>
    have hstep : lowerPub (some p) q = some p := by
      rcases hlow q List.mem_cons_self with rfl | hlt
      · exact if_neg (Nat.lt_irrefl _)
      · exact if_neg (Nat.lt_asymm hlt)
    rw [List.foldl_cons, hstep]
    exact ih fun q hq => hlow q (List.mem_cons_of_mem _ hq)

/-- The record with the lowest index is found, whatever stood before it. -/
theorem foldl_lowerPub {p : PubPend} {l : List PubPend} {m : Option PubPend} (hlow : ∀ q ∈ l, q = p ∨ p.index < q.index)
    (hp : p ∈ l) (hm : ∀ q, m = some q → q = p ∨ p.index < q.index) : l.foldl lowerPub m = some p := by
  induction l generalizing m with
  | nil => cases hp
  | cons q r ih =>
    have hrest : ∀ x ∈ r, x = p ∨ p.index < x.index := fun x hx => hlow x (List.mem_cons_of_mem _ hx)
    rw [List.foldl_cons]
    rcases List.mem_cons.mp hp with rfl | hp
    · have hstep : lowerPub m p = some p := by
        cases m with
        | none => rfl
        | some q =>
          rcases hm q rfl with rfl | hlt
          · exact if_neg (Nat.lt_irrefl _)
          · exact if_pos hlt
      rw [hstep]
      exact foldl_lowerPub_of_lowest hrest
    · refine ih hrest hp fun x hx => ?_
      cases m with
      | none =>
        cases hx
        exact hlow _ List.mem_cons_self
      | some y =>
        simp only [lowerPub] at hx
        split at hx <;> cases hx
        · exact hlow _ List.mem_cons_self
        · exact hm _ rfl

/-- A channel whose TXB1 takes a publication. -/
def CanCh.pubLoaded (p : PubPend) (x : CanCh) : CanCh :=
  { x.modTxb 1 (Txb.load p.canId p.data) with pubs := x.pubs.filter (fun q => q.index != p.index) }

theorem does_txb1Load {c : Fin 2} {p : PubPend} {s : State} (hawake : awake s = true) (hn : 0 < s.can[c].nPub)
    (hst : s.can[c].txb[(1 : Fin 3)].st ≠ .pending) (hp : p ∈ s.can[c].pubs)
    (hlow : ∀ q ∈ s.can[c].pubs, q = p ∨ p.index < q.index) : Does (.txb1Load c) s (fun t =>
      t.can[c].txb[(1 : Fin 3)] = Txb.load p.canId p.data s.can[c].txb[(1 : Fin 3)] ∧
      t.can[c].pubs = s.can[c].pubs.filter (fun q => q.index != p.index) ∧ t.st = s.st ∧ t.saf = s.saf) := by
  have hat : canAt (fresh s) c.val = s.can[c] := canAt_fin ..
  have hbest : s.can[c].pubs.foldl lowerPub none = some p := foldl_lowerPub hlow hp (fun q hq => by cases hq)
  have hgo : (canOn (fresh s) && decide (0 < s.can[c].nPub) && s.can[c].txb[(1 : Fin 3)].st != .pending) = true := by
    have hon : canOn (fresh s) = true := hawake
    rw [hon, decide_eq_true hn, bne_iff_ne.mpr hst]
    rfl
  have hexec : exec (.txb1Load c) s = .next (canOffer c.val (modCan c.val (CanCh.pubLoaded p) (fresh s))) := by
    change execTxb1Load c s = _
    unfold execTxb1Load
    dsimp only
    rw [hat]
    change (match s.can[c].pubs.foldl lowerPub none with | some p => _ | none => _) = _
    rw [hbest]
    exact if_pos hgo
  obtain ⟨hoffered, -, hst', hsaf⟩ := changed_offers c (CanCh.pubLoaded p) (fresh s)
  obtain ⟨t, r, o, hoffer⟩ := offer_eq ((fresh s).can[c].pubLoaded p)
  refine ⟨_, hexec, ?_, ?_, hst', hsaf⟩
  · rw [hoffered, hoffer]
    exact (Vector.getElem_set_ne (by decide) (by decide) (by decide)).trans (modTxb_at 1 ..)
  · rw [hoffered, hoffer]
    rfl

end Sys2Proof.Machine

namespace Sys2Proof

open Sys2Proof.Machine

/-- Settles O50: the frames of tick 370 in their order, a record that falls due by whether it still waits, and TXB1 by the
lowest record. -/
theorem publications : Obligations.Publications := by
  refine ⟨fun s hawake harmed htick => ⟨exec_publish_again, does_publish hawake harmed htick⟩,
    fun c k p s hawake harmed htick hturn hp hon hper hdue => ⟨fun hnew => ?new, fun hwaits => ?waiting⟩,
    fun c p s => does_txb1Load⟩
  case new =>
    have h := does_publicationDue hawake harmed htick hturn hp hon hper hdue
    rwa [due_of_new hnew] at h
  case waiting =>
    have h := does_publicationDue hawake harmed htick hturn hp hon hper hdue
    rwa [due_of_waiting hwaits] at h

end Sys2Proof
end

section
/-! SUPPORT. What outlives a start from reset (15 R371, R378, R381; 16 R402): the power block, the update block and the
records, followed through the stores that a start closes. -/

namespace Sys2Proof.Machine

/-! ### Stores that a start leaves -/

/-- The power block and the update block of t are those of s. -/
structure StoresKept (s t : State) : Prop where
  pw : t.pw = s.pw
  upd : t.upd = s.upd

/-- So are the records and the freeze that t holds. -/
structure RecordsKept (s t : State) : Prop extends StoresKept s t where
  recs : t.rcd.recs = s.rcd.recs
  jnls : t.rcd.jnls = s.rcd.jnls
  freeze : t.rcd.freeze = s.rcd.freeze

theorem StoresKept.refl (s : State) : StoresKept s s := ⟨rfl, rfl⟩

theorem StoresKept.trans {s t u : State} (h : StoresKept s t) (h' : StoresKept t u) : StoresKept s u :=
  ⟨h'.pw.trans h.pw, h'.upd.trans h.upd⟩

theorem RecordsKept.refl (s : State) : RecordsKept s s := ⟨.refl s, rfl, rfl, rfl⟩

theorem RecordsKept.trans {s t u : State} (h : RecordsKept s t) (h' : RecordsKept t u) : RecordsKept s u :=
  ⟨h.toStoresKept.trans h'.toStoresKept, h'.recs.trans h.recs, h'.jnls.trans h.jnls, h'.freeze.trans h.freeze⟩

theorem foldl_storesKept {α : Type} {g : State → α → State} (h : ∀ s x, StoresKept s (g s x)) (l : List α) {s t : State}
    (hst : StoresKept s t) : StoresKept s (l.foldl g t) :=
  List.foldlRecOn (motive := StoresKept s) l g hst fun t ht x _ => ht.trans (h t x)

theorem foldl_recordsKept {α : Type} {g : State → α → State} (h : ∀ s x, RecordsKept s (g s x)) (l : List α) (s : State) :
    RecordsKept s (l.foldl g s) :=
  List.foldlRecOn (motive := RecordsKept s) l g (.refl s) fun t ht x _ => ht.trans (h t x)

theorem storeRec_storesKept (e : RecEvent) (s : State) : StoresKept s (storeRec e s) := by
  unfold storeRec
  dsimp only
  split <;> exact ⟨rfl, rfl⟩

theorem storeJnl_storesKept (w : List Word) (s : State) : StoresKept s (storeJnl w s) := by
  unfold storeJnl
  split <;> exact ⟨rfl, rfl⟩

theorem flushHeld_storesKept (s : State) : StoresKept s (flushHeld s) :=
  foldl_storesKept (fun s w => storeJnl_storesKept w s) _
    (foldl_storesKept (fun s e => storeRec_storesKept e s) _ ⟨rfl, rfl⟩)

theorem freezeEnd_storesKept (s : State) : StoresKept s (freezeEnd s) := by
  unfold freezeEnd
  split
  · exact .refl s
  · exact (flushHeld_storesKept s).trans ⟨rfl, rfl⟩

theorem freezeEnd_of_none {s : State} (h : s.rcd.freeze = none) : freezeEnd s = s := by
  rw [freezeEnd, h]

theorem setCrown_recordsKept (i : Fin 32) (released : Bool) (signer : Nat) (s : State) :
    RecordsKept s (setCrown i released signer s) := by
  unfold setCrown
  dsimp only
  split <;> exact ⟨⟨rfl, rfl⟩, rfl, rfl, rfl⟩

theorem lockAll_recordsKept (s : State) :
    RecordsKept s ((List.finRange 32).foldl (fun s i => setCrown i false 0xFF s) s) :=
  foldl_recordsKept (fun s i => setCrown_recordsKept i false 0xFF s) _ s

theorem jobFail_recordsKept (detail : Nat) (s : State) : RecordsKept s (jobFail detail s) := by
  unfold jobFail
  split <;> exact ⟨⟨rfl, rfl⟩, rfl, rfl, rfl⟩

theorem noteOpens_recordsKept (before s : State) : RecordsKept s (noteOpens before s) := by
  unfold noteOpens
  dsimp only
  split
  · refine foldl_recordsKept (fun t k => ?_) _ s
    exact ⟨⟨rfl, rfl⟩, rfl, rfl, rfl⟩
  · exact .refl s

theorem jobWatch_recordsKept (before s : State) : RecordsKept s (jobWatch before s) := by
  unfold jobWatch
  split
  · split
    · exact jobFail_recordsKept 6 s
    · exact .refl s
  · exact .refl s

theorem switching_recordsKept {f : State → State} {s : State} (h : RecordsKept s (f s)) : RecordsKept s (switching f s) :=
  h.trans ((noteOpens_recordsKept s (f s)).trans (jobWatch_recordsKept s _))

theorem openAll_recordsKept (s : State) : RecordsKept s (openAll s) :=
  switching_recordsKept ⟨⟨rfl, rfl⟩, rfl, rfl, rfl⟩

theorem allOutputsOff_recordsKept (s : State) : RecordsKept s (allOutputsOff s) :=
  (openAll_recordsKept s).trans ⟨⟨rfl, rfl⟩, rfl, rfl, rfl⟩

theorem allOutputsOff_allOff (s : State) : allOff (allOutputsOff s) = true :=
  allOff_of_heldOpen ((openAll_heldOpen s).of_calm ⟨rfl, rfl, rfl, rfl, rfl⟩)

/-! ### The start (R378, R381, R402) -/

/-- The power block after a start from reset, but for the wake cause. -/
def Pw.started (p : Pw) : Pw :=
  { p with vsupDip := false, lcRefused := false, watch := none, resReadable := false, held := false, lcResult := 0,
           lcData := default, wakeInAlso := false, wiped := p.wiped || p.entered, nonceCtr := p.nonceCtr + 1 }

/-- The update block after a start from reset outside a trial. -/
def Upd.started (u : Upd) : Upd := { u with sess := Upd.reset.sess, actSec := 0 }

theorem powerDown_storesKept (s : State) : (powerDown s).pw = { s.pw with
      vsupDip := false, lcRefused := false, watch := none, resReadable := false, held := false, lcResult := 0
      lcData := default, wakeInAlso := false } ∧ (powerDown s).upd = s.upd.started := by
  obtain ⟨hpw, hupd⟩ := (lockAll_recordsKept s).toStoresKept.trans (freezeEnd_storesKept _)
  unfold powerDown
  exact ⟨by rw [← hpw]; rfl, by rw [← hupd]; rfl⟩

theorem trialStart_of_no_trial {s : State} (h : s.upd.phase ≠ .trial) : trialStart s = s := if_neg h

theorem trialStart_pw (s : State) : (trialStart s).pw = { s.pw with wakeCause := (trialStart s).pw.wakeCause } := by
  unfold trialStart
  (repeat' split) <;> rfl

/-- A start before its count of TRIAL. -/
def started (cause : Nat) (s : State) : State :=
  let s := powerDown s
  let s := if s.pw.entered && !s.pw.wiped then wipeRecords { s with pw := { s.pw with wiped := true } } else s
  bumpNonce { s with
    pw := { s.pw with wakeCause := cause }
    rcd := { s.rcd with pcycle := if cause = 1 then satAdd s.rcd.pcycle 1 (2 ^ 32 - 1) else s.rcd.pcycle } }

theorem startUp_eq (cause : Nat) (s : State) : startUp cause s = trialStart (started cause s) := rfl

theorem started_pw (cause : Nat) (s : State) : (started cause s).pw = { s.pw.started with wakeCause := cause } := by
  obtain ⟨hpw, -⟩ := powerDown_storesKept s
  unfold started
  generalize powerDown s = p at hpw
  have hentered : p.pw.entered = s.pw.entered := by rw [hpw]
  have hwiped : p.pw.wiped = s.pw.wiped := by rw [hpw]
  dsimp only
  rw [hentered, hwiped]
  cases he : s.pw.entered <;> cases hw : s.pw.wiped <;>
    simp [hpw, Pw.started, bumpNonce, wipeRecords, he, hw]

theorem started_upd (cause : Nat) (s : State) : (started cause s).upd = s.upd.started := by
  obtain ⟨-, hupd⟩ := powerDown_storesKept s
  unfold started
  generalize powerDown s = p at hupd
  dsimp only
  split <;> exact hupd

theorem startUp_pw (cause : Nat) (s : State) :
    (startUp cause s).pw = { s.pw.started with wakeCause := (startUp cause s).pw.wakeCause } := by
  rw [startUp_eq]
  exact (trialStart_pw _).trans (by rw [started_pw])

section
variable {s : State} (h : s.upd.phase ≠ .trial)
include h

theorem startUp_of_no_trial (cause : Nat) : startUp cause s = started cause s := by
  have hphase : (started cause s).upd.phase ≠ .trial := by
    rw [started_upd]
    exact h
  rw [startUp_eq, trialStart_of_no_trial hphase]

theorem startUp_wakeCause (cause : Nat) : (startUp cause s).pw.wakeCause = cause := by
  rw [startUp_of_no_trial h, started_pw]

theorem startUp_upd (cause : Nat) : (startUp cause s).upd = s.upd.started := by
  rw [startUp_of_no_trial h, started_upd]

end

theorem startUp_held (cause : Nat) (s : State) : (startUp cause s).pw.held = false := by
  rw [startUp_pw]
  rfl

theorem startUp_closed (cause : Nat) (s : State) (i : Fin 32) : (startUp cause s).host.sess[i].isOpen = false := by
  have hclosed : (powerDown s).host.sess[i] = default := Vector.getElem_replicate i.isLt
  rw [startUp_host, hclosed]
  rfl

theorem startUp_allOff (cause : Nat) (s : State) : allOff (startUp cause s) = true :=
  allOff_of_heldOpen ((heldOpen_of_default (by rw [powerDown_saf]; rfl)).of_calm (startUp_calm cause s))

end Sys2Proof.Machine
end

section
/-! SUPPORT AND PROOFS. Supplies, power fail and the starts from reset (15 R366, R369 to R371, R376). -/

namespace Sys2Proof.Machine

/-! ### Supplies (Table 15-1) -/

theorem lowFlag_of_lt {mv : Nat} (h : mv < 16000) (b : Bool) : lowFlag mv b = true := if_pos h

theorem lowFlag_of_le {mv : Nat} (h : 16500 ≤ mv) (b : Bool) : lowFlag mv b = false := by
  rw [lowFlag, if_neg (by omega), if_pos h]

theorem lowFlag_between {mv : Nat} (h : 16000 ≤ mv) (h' : mv < 16500) (b : Bool) : lowFlag mv b = b := by
  rw [lowFlag, if_neg (by omega), if_neg (by omega)]

theorem highFlag_of_lt {mv : Nat} (h : 32000 < mv) (b : Bool) : highFlag mv b = true := if_pos h

theorem highFlag_of_le {mv : Nat} (h : mv ≤ 31500) (b : Bool) : highFlag mv b = false := by
  rw [highFlag, if_neg (by omega), if_pos h]

theorem highFlag_between {mv : Nat} (h : 31500 < mv) (h' : mv ≤ 32000) (b : Bool) : highFlag mv b = b := by
  rw [highFlag, if_neg (by omega), if_neg (by omega)]

/-- A flag that was clear is set by a low value alone. -/
theorem lowFlag_rises (mv : Nat) (a b : Bool) :
    (a && lowFlag mv b && !b && decide (12000 ≤ mv)) = (a && !b && decide (12000 ≤ mv ∧ mv < 16000)) := by
  cases b with
  | true => simp
  | false =>
    have hlow : lowFlag mv false = decide (mv < 16000) := by
      unfold lowFlag
      split
      · simp [*]
      · split <;> simp [*]
    rw [hlow]
    cases a <;> simp [Bool.and_comm]

theorem setVsup_eq (mv : Nat) (s : State) : ∃ m, setVsup mv s = { s with mark := m, pw := { s.pw with
    vsup := mv, vsupLow := lowFlag mv s.pw.vsupLow, vsupHigh := highFlag mv s.pw.vsupHigh
    vsupDip := s.pw.vsupDip || (awake s && !s.pw.vsupLow && decide (12000 ≤ mv ∧ mv < 16000)) } } := by
  unfold setVsup
  rw [lowFlag_rises]
  refine ⟨(setAgainIf (awake s && !s.pw.vsupLow && decide (12000 ≤ mv ∧ mv < 16000)) 0x10000 (2 ^ 5) s).mark, ?_⟩
  unfold setAgainIf modPw
  dsimp only
  split
  · simp only [lowFlag_rises]
    rfl
  · simp only [lowFlag_rises]

end Sys2Proof.Machine

namespace Sys2Proof

open Sys2Proof.Machine

/-- Settles O13: each flag by the side of the band on which the value lies. -/
theorem supplyFlags : Obligations.SupplyFlags := by
  intro mv s vsup
  have hvsup : ∀ c, exec c s = .next (setVsup mv (fresh s)) → vsup c := by
    intro c hc
    obtain ⟨m, ht⟩ := setVsup_eq mv (fresh s)
    refine ⟨_, hc.trans (congrArg _ ht), rfl, fun h => lowFlag_of_lt h _, fun h => lowFlag_of_le h _,
      fun h h' => lowFlag_between h h' _, fun h => highFlag_of_lt h _, fun h => highFlag_of_le h _,
      fun h h' => highFlag_between h h' _, ?_, rfl⟩
    rw [awake_fresh]
    rfl
  refine ⟨hvsup _ rfl, hvsup _ rfl, _, rfl, fun h => lowFlag_of_lt h _, fun h => lowFlag_of_le h _,
    fun h h' => lowFlag_between h h' _, rfl⟩

end Sys2Proof
end

section
/-! SUPPORT AND PROOFS. Power fail, and the starts from reset with their causes (15 R369 to R371, R376). -/

namespace Sys2Proof.Machine

/-! ### Power fail (R370) -/

theorem powerFailRecords_allOff (mv : Nat) (s : State) : allOff (powerFailRecords mv s) = true := allOutputsOff_allOff _

theorem not_held_of_awake {s : State} (h : awake s = true) : s.pw.held = false := by
  simp only [awake, Bool.and_eq_true, Bool.not_eq_true'] at h
  exact h.2

theorem hosted_of_awake {s : State} (h : awake s = true) : s.st.mode.hosted = true := by
  simp only [awake, Bool.and_eq_true] at h
  exact h.1

theorem awake_of_held {s : State} (h : s.pw.held = true) : awake s = false := by
  simp [awake, h]

/-- A module that fell below 12.0 V while it was awake holds, with everything off. -/
theorem does_powerFail {mv : Nat} {s : State} (hawake : awake s = true) (hmv : mv < 12000) :
    Does (.powerFail mv) s (fun t => t.pw.held = true ∧ allOff t = true ∧ t.st = s.st ∧ awake t = false) := by
  have hstorage : s.st.mode ≠ .storage := fun h => by
    have hhosted := hosted_of_awake hawake
    rw [h] at hhosted
    cases hhosted
  have hgo : ¬((fresh s).st.mode = .storage ∨ (fresh s).pw.held = true ∨ 12000 ≤ mv) := by
    rw [fresh_st, fresh_pw, not_held_of_awake hawake]
    exact not_or.mpr ⟨hstorage, not_or.mpr ⟨Bool.false_ne_true, by omega⟩⟩
  have hexec : exec (.powerFail mv) s = .next (modPw (fun p => { p with held := true, wakeTrip := false, wakeHold := false })
      (powerFailRecords mv (fresh s))) := by
    refine (if_neg hgo).trans ?_
    rw [awake_fresh, if_pos hawake]
  exact ⟨_, hexec, rfl, powerFailRecords_allOff mv _, powerFailRecords_st mv _, awake_of_held rfl⟩

/-! ### Starts -/

/-- What every start from reset leaves: BLANK, no calibre, no session, no switch, and its cause outside a trial. -/
def Anew (n : Nat) (s t : State) : Prop := t.st.mode = .blank ∧ t.cal = none ∧ allOff t = true ∧ t.pw.held = false ∧
  (∀ i : Fin 32, t.host.sess[i].isOpen = false) ∧ (s.upd.phase ≠ .trial → t.pw.wakeCause = n)

theorem startUp_anew {s x : State} (hupd : x.upd = s.upd) (cause : Nat) : Anew cause s (startUp cause x) :=
  ⟨startUp_mode cause x, startUp_cal cause x, startUp_allOff cause x, startUp_held cause x, startUp_closed cause x,
    fun h => startUp_wakeCause (by rwa [hupd]) cause⟩

/-- T13 shows the retained result besides. -/
theorem leaveWatch_anew {s x : State} (hupd : x.upd = s.upd) (cause : Nat) (also trip : Bool) :
    Anew cause s (leaveWatch cause also trip x) := by
  have h : Anew cause s (startUp cause (toMode .blank 13 x)) := startUp_anew (x := toMode .blank 13 x) hupd cause
  unfold leaveWatch
  generalize startUp cause (toMode .blank 13 x) = t at h ⊢
  exact h

theorem resetBy_anew (cause : Nat) (s : State) : Anew cause s (resetBy cause s) :=
  startUp_anew ((toMode_upd ..).trans (allOutputsOff_recordsKept s).upd) cause

theorem does_restart {s : State} (hheld : s.pw.held = true) : Does .restart s (Anew 1 s) := by
  refine ⟨_, if_pos hheld, startUp_anew ?_ 1⟩
  split <;> rfl

theorem does_internalWatchdog {s : State} (hawake : awake s = true) : Does .internalWatchdog s (Anew 7 s) :=
  ⟨_, congrArg Host.Outcome.next (if_pos hawake), resetBy_anew 7 (fresh s)⟩

section
variable {s : State} (hheld : s.pw.held = false)
include hheld

theorem does_wakeIn_storage (hmode : s.st.mode = .storage) : Does .wakeIn s (Anew 2 s) := by
  have hexec : exec .wakeIn s = .next (startUp 2 (toMode .blank 1 (fresh s))) := by
    change execWakeIn s = _
    simp only [execWakeIn, fresh_pw, fresh_st, hheld, hmode, Bool.false_eq_true, if_false]
  exact ⟨_, hexec, startUp_anew (x := toMode .blank 1 (fresh s)) rfl 2⟩

theorem does_vsupReturn (hmode : s.st.mode = .storage) : Does .vsupReturn s (Anew 3 s) :=
  ⟨_, congrArg Host.Outcome.next (if_pos ⟨hmode, hheld⟩), startUp_anew (x := toMode .blank 1 (fresh s)) rfl 3⟩

theorem does_wakeIn_watch (hmode : s.st.mode = .watch) (hidle : ∀ r, s.pw.watch = some r → r.beat = none) :
    Does .wakeIn s (Anew 5 s) := by
  have hexec : ∃ x : State, exec .wakeIn s = .next (leaveWatch 5 false false x) ∧ x.upd = s.upd := by
    change ∃ x : State, execWakeIn s = _ ∧ _
    cases hwatch : s.pw.watch with
    | none =>
      refine ⟨fresh s, ?_, rfl⟩
      simp only [execWakeIn, fresh_pw, fresh_st, hheld, hmode, hwatch, Bool.false_eq_true, if_false]
    | some r =>
      have hbeat : r.beat.isSome = false := by
        rw [hidle r hwatch]
        rfl
      refine ⟨watchEnd r (min (2 ^ 32 - 1) (r.checks * r.period + (Config.freeInt (fresh s).freeCtr).toNat % r.period))
        (tookFree 1 (fresh s)), ?_, rfl⟩
      simp only [execWakeIn, fresh_pw, fresh_st, hheld, hmode, hwatch, hbeat, Bool.false_eq_true, if_false]
  obtain ⟨x, hx, hupd⟩ := hexec
  exact ⟨_, hx, leaveWatch_anew hupd 5 false false⟩

end

end Sys2Proof.Machine

namespace Sys2Proof

open Sys2Proof.Machine

/-- Settles O14: every start goes through the one start from reset. -/
theorem startsFromReset : Obligations.StartsFromReset := fun _ =>
  ⟨fun _ => does_powerFail, does_restart, does_internalWatchdog, does_wakeIn_storage, does_vsupReturn, does_wakeIn_watch⟩

end Sys2Proof
end

section
/-! SUPPORT AND PROOFS. The checks of WATCH (15 R373 to R377). -/

namespace Sys2Proof.Machine

/-! ### T13 (R376) -/

/-- The power block after T13: the result that was kept is readable. -/
theorem leaveWatch_pw (cause : Nat) (also trip : Bool) (s : State) :
    (leaveWatch cause also trip s).pw = { s.pw.started with
      wakeCause := (leaveWatch cause also trip s).pw.wakeCause, res := s.pw.res, resReadable := true, wakeInAlso := also
      wakeTrip := s.pw.wakeTrip || trip } := by
  have h := startUp_pw cause (toMode .blank 13 s)
  unfold leaveWatch
  generalize startUp cause (toMode .blank 13 s) = t at h ⊢
  dsimp only
  rw [h]
  rfl

theorem leaveWatch_mode (cause : Nat) (also trip : Bool) (s : State) : (leaveWatch cause also trip s).st.mode = .blank :=
  (leaveWatch_anew (s := s) rfl cause also trip).1

/-! ### One check beat (R374 to R376) -/

theorem watchTake_kept (k c : Nat) (d : WatchData) (r : WatchRun) :
    (watchTake k c d r).wakeIn = r.wakeIn ∧ (watchTake k c d r).plan = r.plan := by
  unfold watchTake
  dsimp only
  (repeat' split) <;> exact ⟨rfl, rfl⟩

/-- The voltages of a check stand as they were where beat 19 brings no string voltage. -/
theorem watchTake_noVoltage {d : WatchData} (hd : d.vStr = none) (k : Nat) (r : WatchRun) :
    (watchTake k 19 d r).strN = r.strN ∧ (watchTake k 19 d r).strSum = r.strSum := by
  unfold watchTake
  dsimp only
  rw [if_pos (by decide), hd]
  dsimp only
  split <;> exact ⟨rfl, rfl⟩

theorem watchFrames_pw (r : WatchRun) (c : Nat) (s : State) : (watchFrames r c s).pw = s.pw := by
  unfold watchFrames
  split
  · refine List.foldlRecOn (motive := fun t : State => t.pw = s.pw) _ _ rfl fun t ht l _ => ?_
    split
    · exact (put_pw ..).trans ht
    · exact ht
  · rfl

theorem testBit_maskOf_of_mem {k : Nat} {l : List Nat} (h : k ∈ l) : (maskOf l).testBit k = true := by
  have hkept : ∀ (l : List Nat) (m : Nat), m.testBit k = true → (l.foldl (fun m k => m ||| 2 ^ k) m).testBit k = true := by
    intro l
    induction l with
    | nil => exact fun _ h => h
    | cons x r ih => exact fun m h => ih _ (by simp [h])
  have hset : ∀ m : Nat, (l.foldl (fun m k => m ||| 2 ^ k) m).testBit k = true := by
    induction l with
    | nil => cases h
    | cons x r ih =>
      intro m
      rcases List.mem_cons.mp h with rfl | h
      · exact hkept r _ (by simp)
      · exact ih h _
  exact hset 0

/-- A trip keeps its checks and the cause of the first in the result. -/
theorem watchTrip_pw (r : WatchRun) (c : Nat) (a : Nat × Nat) (l : List (Nat × Nat)) (s : State) :
    let t := watchTrip r c (a :: l) s
    t.pw.watch = none ∧ t.pw.wakeTrip = true ∧ t.pw.resReadable = true ∧ t.pw.res.cause = a.2 ∧
      t.pw.res.tripped.testBit a.1 = true ∧ t.pw.wakeInAlso = r.wakeIn := by
  dsimp only [watchTrip]
  rw [leaveWatch_pw]
  exact ⟨rfl, Bool.or_true _, rfl, rfl, testBit_maskOf_of_mem List.mem_cons_self, rfl⟩

theorem watchTrip_mode (r : WatchRun) (c : Nat) (t : List (Nat × Nat)) (s : State) :
    (watchTrip r c t s).st.mode = .blank := leaveWatch_mode ..

section
variable {r : WatchRun} {s : State} (hmode : s.st.mode = .watch) (hheld : s.pw.held = false)
  (hrun : s.pw.watch = some r)
include hmode hheld hrun

theorem does_watchCheckStart (hbeat : r.beat = none) (hplan : r.plan.isSome = true) : Does .watchCheckStart s (fun t =>
    t.st = s.st ∧ t.pw.res = s.pw.res ∧ ∃ x, t.pw.watch = some x ∧ x.beat = some 0 ∧ x.checks = r.checks + 1 ∧
      x.strN = 0 ∧ x.strSum = 0 ∧ x.wakeIn = false ∧ ∀ n ∈ x.nodes, n.missed = 0 ∧ n.hit = none) := by
  have hexec : exec .watchCheckStart s = .next (setWatch { r with
      checks := r.checks + 1, beat := some 0, insDone := false, wakeIn := false, strSum := 0, strN := 0
      nodes := r.nodes.map (fun n => { n with missed := 0, sums := n.locals.map (fun _ => (0, 0)), temps := [], hit := none }) }
        (fresh s)) := by
    change execWatchCheckStart s = _
    unfold execWatchCheckStart
    dsimp only
    rw [fresh_pw, hrun]
    exact if_pos ⟨hmode, hheld, hbeat, hplan⟩
  refine ⟨_, hexec, rfl, rfl, _, rfl, rfl, rfl, rfl, rfl, rfl, fun n hn => ?_⟩
  obtain ⟨m, -, rfl⟩ := List.mem_map.mp hn
  exact ⟨rfl, rfl⟩

section
variable {c : Nat} {d : WatchData} (hbeat : r.beat = some c)
include hbeat

/-- The state of a check beat before its trips are judged, with the run x that the beat brought. -/
def watchBeat (x r : WatchRun) (c : Nat) (d : WatchData) (s : State) : State :=
  let t := tookFree 1 (watchFrames r c s)
  setWatch { x with beat := some (c + 1) } { t with pw := { t.pw with res := watchShow s.freeCtr c d x t.pw.res } }

theorem exec_watchCheckBeat {x : WatchRun} (hx : watchTake s.freeCtr c d r = x) : exec (.watchCheckBeat d) s = .next (
    if !(watchTrips c d x).isEmpty then watchTrip x c (watchTrips c d x) (watchBeat x r c d (fresh s))
    else if x.wakeIn then leaveWatch 5 false false (watchEnd x (x.secs c) (watchBeat x r c d (fresh s)))
    else watchBeat x r c d (fresh s)) := by
  change execWatchCheckBeat d s = _
  unfold execWatchCheckBeat
  dsimp only
  rw [fresh_pw, hrun]
  dsimp only
  rw [hbeat]
  dsimp only
  rw [if_pos ⟨hmode, hheld⟩, fresh_freeCtr, hx]
  unfold watchBeat
  dsimp only
  rw [fresh_freeCtr]
  split
  · rfl
  · split <;> rfl

theorem does_watchCheckBeat_passed (hpassed : watchTrips c d (watchTake s.freeCtr c d r) = []) (hwake : r.wakeIn = false) :
    Does (.watchCheckBeat d) s (fun t => t.st = s.st ∧
      t.pw.watch = some { watchTake s.freeCtr c d r with beat := some (c + 1) } ∧ t.pw.wakeTrip = s.pw.wakeTrip) := by
  obtain ⟨hin, -⟩ := watchTake_kept s.freeCtr c d r
  rw [hwake] at hin
  have hexec := exec_watchCheckBeat hmode hheld hrun hbeat (d := d) rfl
  rw [hpassed, if_neg (by decide), hin, if_neg Bool.false_ne_true] at hexec
  have htrip := congrArg Pw.wakeTrip (watchFrames_pw r c (fresh s))
  exact ⟨_, hexec, watchFrames_st r c (fresh s), rfl, htrip⟩

theorem does_watchCheckBeat_tripped {a : Nat × Nat} {l : List (Nat × Nat)}
    (htripped : watchTrips c d (watchTake s.freeCtr c d r) = a :: l) :
    Does (.watchCheckBeat d) s (fun t => t.st.mode = .blank ∧ t.pw.watch = none ∧ t.pw.wakeTrip = true ∧
      t.pw.resReadable = true ∧ t.pw.res.cause = a.2 ∧ t.pw.res.tripped.testBit a.1 = true ∧ t.pw.wakeInAlso = r.wakeIn) := by
  obtain ⟨hin, -⟩ := watchTake_kept s.freeCtr c d r
  generalize hx : watchTake s.freeCtr c d r = x at htripped hin
  have hexec := exec_watchCheckBeat hmode hheld hrun hbeat hx
  rw [htripped, if_pos (show (!(a :: l).isEmpty) = true from rfl)] at hexec
  have h := watchTrip_pw x c a l (watchBeat x r c d (fresh s))
  rw [hin] at h
  exact ⟨_, hexec, watchTrip_mode .., h⟩

theorem does_watchCheckEnd (hover : r.over' c = true) (hwake : r.wakeIn = false) : Does .watchCheckEnd s (fun t =>
    t.st = s.st ∧ t.pw.watch = some { r with beat := none } ∧ t.pw.res = s.pw.res) := by
  have hexec : exec .watchCheckEnd s = .next (setWatch { r with beat := none } (fresh s)) := by
    change execWatchCheckEnd s = _
    unfold execWatchCheckEnd
    dsimp only
    rw [fresh_pw, hrun]
    dsimp only
    rw [hbeat]
    dsimp only
    rw [if_pos ⟨hmode, hheld, hover⟩, hwake]
    rfl
  exact ⟨_, hexec, rfl, rfl, rfl⟩

theorem does_watchCheckEnd_woken (hover : r.over' c = true) (hwake : r.wakeIn = true) : Does .watchCheckEnd s (fun t =>
    t.st.mode = .blank ∧ t.pw.watch = none ∧ t.pw.resReadable = true ∧ t.pw.res.cause = s.pw.res.cause) := by
  have hexec : exec .watchCheckEnd s = .next (leaveWatch 5 false false (watchEnd r (r.secs c) (fresh s))) := by
    change execWatchCheckEnd s = _
    unfold execWatchCheckEnd
    dsimp only
    rw [fresh_pw, hrun]
    dsimp only
    rw [hbeat]
    dsimp only
    rw [if_pos ⟨hmode, hheld, hover⟩, hwake]
    rfl
  refine ⟨_, hexec, leaveWatch_mode .., ?_⟩
  rw [leaveWatch_pw]
  exact ⟨rfl, rfl, rfl⟩

end

end

/-- Check 0 trips at beat 19 on a mean below V_STR_LO. -/
theorem watchTrips_strLow {r : WatchRun} {p : WatchCfg} {d : WatchData} (hplan : r.plan = some p)
    (hcheck : p.checks.testBit 0 = true) (hlow : r.strSum < p.vStrLo * r.strN) : watchTrips 19 d r ≠ [] := by
  have hhas : r.has 0 = true := by
    rw [WatchRun.has, hplan]
    exact hcheck
  unfold watchTrips
  rw [hplan]
  simp [hhas, hlow]

end Sys2Proof.Machine

namespace Sys2Proof

open Sys2Proof.Machine

/-- Settles O55: the start, the check beat by whether a check trips, and the end by whether WAKE_IN waits. -/
theorem watchChecks : Obligations.WatchChecks := by
  refine fun r s hmode hheld hrun => ⟨does_watchCheckStart hmode hheld hrun, fun c d hbeat =>
    ⟨does_watchCheckBeat_passed hmode hheld hrun hbeat, fun a l => does_watchCheckBeat_tripped hmode hheld hrun hbeat,
      fun p hplan hcheck hc hvolt _ hlow => ?_⟩,
    fun c hbeat hover => ⟨does_watchCheckEnd hmode hheld hrun hbeat hover, does_watchCheckEnd_woken hmode hheld hrun hbeat hover⟩⟩
  subst hc
  obtain ⟨hn, hsum⟩ := watchTake_noVoltage hvolt s.freeCtr r
  refine watchTrips_strLow ((watchTake_kept ..).2.trans hplan) hcheck ?_
  rwa [hn, hsum]

end Sys2Proof
end

section
/-! SUPPORT AND PROOFS. Records that are formed, stored, lost or held back (16 R382 to R388). -/

namespace Sys2Proof.Machine

/-! ### Forming a record -/

theorem formRec_of_free {s : State} (h : s.rcd.freeze = none) (e : RecEvent) : formRec e s = storeRec e s :=
  if_pos (by rw [h]; rfl)

theorem storeRec_rcd_of_room {s : State} (h : s.rcd.recs.length < 4096) (e : RecEvent) : (storeRec e s).rcd = { s.rcd with
    recs := s.rcd.recs ++ [recWords s.rcd.recs.length e], newRecord := true } := by
  unfold storeRec
  dsimp only
  rw [if_pos h]
  rfl

theorem storeRec_rcd_of_full {s : State} (h : 4096 ≤ s.rcd.recs.length) (e : RecEvent) : (storeRec e s).rcd = { s.rcd with
    recLost := satAdd s.rcd.recLost 1 (2 ^ 32 - 1), rrFull := true } := by
  unfold storeRec
  dsimp only
  rw [if_neg (by omega)]

theorem storeRec_queue (e : RecEvent) (s : State) :
    (storeRec e s).rcd.recQ = s.rcd.recQ ∧ (storeRec e s).rcd.jnls = s.rcd.jnls := by
  unfold storeRec
  dsimp only
  split <;> exact ⟨rfl, rfl⟩

/-- A freeze holds a record back as far as there is room, and the recorder stays. -/
theorem formRec_of_frozen {s : State} (h : s.rcd.freeze ≠ none) (e : RecEvent) :
    (formRec e s).rcd.recQ = s.rcd.recQ ∧ (formRec e s).rcd.jnls = s.rcd.jnls ∧ (formRec e s).rcd.recs = s.rcd.recs ∧
      (s.rcd.holdRec.length < 16 → (formRec e s).rcd.holdRec = s.rcd.holdRec ++ [e]) := by
  have hfrozen : s.rcd.freeze.isNone = false := by simpa using Option.isSome_iff_ne_none.mpr h
  unfold formRec
  rw [hfrozen, if_neg Bool.false_ne_true]
  split
  next hroom => exact ⟨rfl, rfl, rfl, fun _ => rfl⟩
  next hfull => exact ⟨rfl, rfl, rfl, fun hroom => absurd hroom hfull⟩

theorem offerContent_rcd (content : Nat) (words : List Word) (s : State) : (offerContent content words s).rcd = s.rcd := by
  unfold offerContent
  split
  · refine List.foldlRecOn (motive := fun t : State => t.rcd = s.rcd) _ _ rfl fun t ht q _ => ?_
    split
    · exact (modQueue_rcd ..).trans ht
    · exact ht
  · rfl

/-- The stores with the next SEQ taken. -/
def sequenced (s : State) : State := { s with rcd := { s.rcd with jnlSeq := satAdd s.rcd.jnlSeq 1 (2 ^ 64 - 1) } }

theorem formJnl_rcd_of_free {s : State} (h : s.rcd.freeze = none) (e : JnlEvent) :
    (formJnl e s).rcd = (storeJnl (jnlWords (sequenced s).rcd.jnlSeq e false) (sequenced s)).rcd := by
  unfold formJnl
  dsimp only
  rw [if_pos (by rw [h]; rfl), offerContent_rcd]
  rfl

theorem storeJnl_rcd_of_room {s : State} (h : s.rcd.jnls.length < 65536) (w : List Word) :
    (storeJnl w s).rcd = { s.rcd with jnls := s.rcd.jnls ++ [w] } := by
  unfold storeJnl
  rw [if_pos h]

theorem storeJnl_rcd_of_full {s : State} (h : 65536 ≤ s.rcd.jnls.length) (w : List Word) :
    (storeJnl w s).rcd = { s.rcd with jnlLost := satAdd s.rcd.jnlLost 1 (2 ^ 32 - 1), jrFull := true } := by
  unfold storeJnl
  rw [if_neg (by omega)]

/-- What the forming of a journal record leaves, and its SEQ, whether it is stored, lost or held back. -/
theorem formJnl_kept (e : JnlEvent) (s : State) : (formJnl e s).rcd.jnlQ = s.rcd.jnlQ ∧
    (formJnl e s).rcd.recs = s.rcd.recs ∧ (formJnl e s).rcd.jnlSeq = satAdd s.rcd.jnlSeq 1 (2 ^ 64 - 1) := by
  unfold formJnl
  dsimp only
  split
  · rw [offerContent_rcd]
    unfold storeJnl
    split <;> exact ⟨rfl, rfl, rfl⟩
  · split <;> rw [offerContent_rcd] <;> exact ⟨rfl, rfl, rfl⟩

theorem formJnl_of_frozen {s : State} (h : s.rcd.freeze ≠ none) (e : JnlEvent) : (formJnl e s).rcd.jnls = s.rcd.jnls ∧
    (s.rcd.holdJnl.length < 64 →
      (formJnl e s).rcd.holdJnl = s.rcd.holdJnl ++ [jnlWords (formJnl e s).rcd.jnlSeq e false]) := by
  have hfrozen : s.rcd.freeze.isNone = false := by simpa using Option.isSome_iff_ne_none.mpr h
  obtain ⟨-, -, hseq⟩ := formJnl_kept e s
  rw [hseq]
  unfold formJnl
  dsimp only
  rw [hfrozen, if_neg Bool.false_ne_true]
  split
  next hroom =>
    rw [offerContent_rcd]
    exact ⟨rfl, fun _ => rfl⟩
  next hfull =>
    rw [offerContent_rcd]
    exact ⟨rfl, fun hroom => absurd hroom hfull⟩

/-- A record that is formed, by whether a freeze holds and whether there is room. -/
def RecFormed (e : RecEvent) (s t : State) : Prop :=
  t.rcd.recQ = s.rcd.recQ ∧ t.rcd.jnls = s.rcd.jnls ∧ t.st = s.st ∧ t.saf = s.saf ∧
  (s.rcd.freeze = none → s.rcd.recs.length < 4096 → t.rcd.recs = s.rcd.recs ++ [recWords s.rcd.recs.length e] ∧
    t.rcd.newRecord = true ∧ t.rcd.recLost = s.rcd.recLost) ∧
  (s.rcd.freeze = none → 4096 ≤ s.rcd.recs.length → t.rcd.recs = s.rcd.recs ∧ t.rcd.rrFull = true ∧
    t.rcd.recLost = satAdd s.rcd.recLost 1 (2 ^ 32 - 1)) ∧
  (s.rcd.freeze ≠ none → t.rcd.recs = s.rcd.recs ∧ (s.rcd.holdRec.length < 16 → t.rcd.holdRec = s.rcd.holdRec ++ [e]))

theorem formRec_formed (e : RecEvent) (s : State) : RecFormed e s (formRec e s) := by
  by_cases hfree : s.rcd.freeze = none
  case pos =>
    have hst := formRec_st e s
    have hsaf := formRec_saf e s
    rw [formRec_of_free hfree] at hst hsaf ⊢
    obtain ⟨hrecQ, hjnls⟩ := storeRec_queue e s
    refine ⟨hrecQ, hjnls, hst, hsaf, fun _ hroom => ?_, fun _ hfull => ?_, fun h => absurd hfree h⟩
    · rw [storeRec_rcd_of_room hroom]
      exact ⟨rfl, rfl, rfl⟩
    · rw [storeRec_rcd_of_full hfull]
      exact ⟨rfl, rfl, rfl⟩
  case neg =>
    obtain ⟨hrecQ, hjnls, hheld⟩ := formRec_of_frozen hfree e
    exact ⟨hrecQ, hjnls, formRec_st e s, formRec_saf e s, fun h => absurd h hfree, fun h => absurd h hfree, fun _ => hheld⟩

/-- The same of a journal record, which takes the next SEQ. -/
def JnlFormed (e : JnlEvent) (s t : State) : Prop :=
  t.rcd.jnlQ = s.rcd.jnlQ ∧ t.rcd.recs = s.rcd.recs ∧ t.st = s.st ∧ t.saf = s.saf ∧
  t.rcd.jnlSeq = satAdd s.rcd.jnlSeq 1 (2 ^ 64 - 1) ∧
  (s.rcd.freeze = none → s.rcd.jnls.length < 65536 → t.rcd.jnls = s.rcd.jnls ++ [jnlWords t.rcd.jnlSeq e false]) ∧
  (s.rcd.freeze = none → 65536 ≤ s.rcd.jnls.length → t.rcd.jnls = s.rcd.jnls ∧ t.rcd.jrFull = true ∧
    t.rcd.jnlLost = satAdd s.rcd.jnlLost 1 (2 ^ 32 - 1)) ∧
  (s.rcd.freeze ≠ none → t.rcd.jnls = s.rcd.jnls ∧
    (s.rcd.holdJnl.length < 64 → t.rcd.holdJnl = s.rcd.holdJnl ++ [jnlWords t.rcd.jnlSeq e false]))

theorem formJnl_formed (e : JnlEvent) (s : State) : JnlFormed e s (formJnl e s) := by
  obtain ⟨hjnlQ, hrecs, hseq⟩ := formJnl_kept e s
  refine ⟨hjnlQ, hrecs, formJnl_st e s, formJnl_saf e s, hseq, fun hfree hroom => ?_, fun hfree hfull => ?_,
    fun hfrozen => formJnl_of_frozen hfrozen e⟩
  · rw [formJnl_rcd_of_free hfree, storeJnl_rcd_of_room (s := sequenced s) hroom]
    rfl
  · rw [formJnl_rcd_of_free hfree, storeJnl_rcd_of_full (s := sequenced s) hfull]
    exact ⟨rfl, rfl, rfl⟩

/-! ### The events that wait (R384 to R387) -/

section
variable {s : State}

theorem exec_recorderCommit {e : RecEvent} {r : List RecEvent} (hq : s.rcd.recQ = e :: r) :
    exec .recorderCommit s = .next (formRec e { fresh s with rcd := { s.rcd with recQ := r } }) := by
  change execRecorderCommit s = _
  unfold execRecorderCommit
  dsimp only
  rw [fresh_rcd, hq]

theorem exec_journalCommit {e : JnlEvent} {r : List JnlEvent} (hq : s.rcd.jnlQ = e :: r) :
    exec .journalCommit s = .next (formJnl e { fresh s with rcd := { s.rcd with jnlQ := r } }) := by
  change execJournalCommit s = _
  unfold execJournalCommit
  dsimp only
  rw [fresh_rcd, hq]

theorem does_opSec (hawake : awake s = true) : Does .opSec s (fun t =>
    t.rcd = { s.rcd with opSec := satAdd s.rcd.opSec 1 (2 ^ 32 - 1) } ∧
    t.upd = { s.upd with trialSec := if s.upd.phase = .trial then satAdd s.upd.trialSec 1 (2 ^ 32 - 1) else s.upd.trialSec } ∧
    t.st = s.st ∧ t.saf = s.saf) :=
  ⟨_, if_pos hawake, rfl, rfl, rfl, rfl⟩

end

end Sys2Proof.Machine

namespace Sys2Proof

open Sys2Proof.Machine

/-- Settles O57: recorder and journal by whether a freeze holds and whether the store is full. -/
theorem recordStores : Obligations.RecordStores := fun _ =>
  ⟨fun e _ hq => ⟨_, exec_recorderCommit hq, formRec_formed e _⟩,
    fun e _ hq => ⟨_, exec_journalCommit hq, formJnl_formed e _⟩, does_opSec⟩

end Sys2Proof
end

section
/-! SUPPORT AND PROOFS. WAKE_OUT and the life cycle (15 R377, R379 to R381, Table 15-11). -/

namespace Sys2Proof.Machine

/-! ### Words and registers -/

theorem lcWord_toNat (k : Nat) (v : Word) : (lcWord k v).toNat = 2 ^ 24 * (k % 256) + v.toNat % 2 ^ 24 := by
  have hlow : (v &&& 0x00FFFFFF).toNat = v.toNat % 2 ^ 24 := Nat.and_two_pow_sub_one_eq_mod v.toNat 24
  have hhigh : (toW (k * 2 ^ 24)).toNat = 2 ^ 24 * (k % 256) := by
    rw [toW, BitVec.toNat_ofNat]
    omega
  rw [lcWord, BitVec.toNat_or, hlow, hhigh, Nat.or_comm, Nat.two_pow_add_eq_or_of_lt (Nat.mod_lt _ (by decide))]

theorem lcWord_cmd (k : Nat) (v : Word) : wBits (lcWord k v) 31 24 = k % 256 := by
  rw [wBits, lcWord_toNat, bitsOf]
  omega

theorem lcWord_target (k : Nat) (v : Word) : wBits (lcWord k v) 17 16 = wBits v 17 16 := by
  rw [wBits, lcWord_toNat, wBits, bitsOf, bitsOf]
  omega

theorem plainReg_wakeOut : PlainReg 0x10004 .power 0x004 := ⟨rfl, rfl, rfl⟩

theorem plainReg_lcCmd : PlainReg 0x10044 .power 0x044 := ⟨rfl, rfl, rfl⟩

theorem accessed_pw (i : Fin 32) (s : State) : (accessed i s).pw = s.pw := modSess_pw ..

theorem accessed_rcd (i : Fin 32) (s : State) : (accessed i s).rcd = s.rcd := modSess_rcd ..

/-! ### WAKE_OUT (R377) -/

/-- A write of WAKE_OUT: CLR by bit 31, HOLD by bit 0. -/
theorem does_wakeOut {i : Fin 32} {s : State} (h : MayWrite i s) (v : Word) : ∃ t, writeCmd i 0x10004 v s = .next t ∧
    t.pw = { s.pw with wakeTrip := s.pw.wakeTrip && !wBit v 31, wakeHold := wBit v 0 } ∧ t.st = s.st ∧ t.saf = s.saf := by
  have hw : blockWrite i none .power 0x004 v (accessed i s) = (.ok, modPw (fun p =>
    { p with wakeTrip := p.wakeTrip && !wBit v 31, wakeHold := wBit v 0 }) (accessed i s)) := rfl
  refine writeCmd_plain h plainReg_wakeOut hw rfl ⟨?_, accessed_st i s, accessed_saf i s⟩
  rw [put_pw, modPw_pw, accessed_pw]

theorem wakeOutClr_bits (b : Bool) : wBit (b31 ||| toW (b2n b)) 31 = true ∧ wBit (b31 ||| toW (b2n b)) 0 = b := by
  cases b <;> decide

theorem wakeOutHold_bits (b : Bool) : wBit (toW (b2n b)) 31 = false ∧ wBit (toW (b2n b)) 0 = b := by
  cases b <;> decide

theorem does_wakeOutClr {i : Fin 32} {s : State} (h : MayWrite i s) :
    Does (.wakeOutClr i) s (fun t => t.pw = { s.pw with wakeTrip := false } ∧ t.st = s.st ∧ t.saf = s.saf) := by
  obtain ⟨t, hexec, hpw, hst, hsaf⟩ := does_wakeOut h (b31 ||| toW (b2n s.pw.wakeHold))
  obtain ⟨hclr, hhold⟩ := wakeOutClr_bits s.pw.wakeHold
  rw [hclr, hhold, Bool.not_true, Bool.and_false] at hpw
  exact ⟨t, hexec, hpw, hst, hsaf⟩

theorem does_wakeOutHold {i : Fin 32} {s : State} (h : MayWrite i s) (b : Bool) :
    Does (.wakeOutHold i b) s (fun t => t.pw = { s.pw with wakeHold := b } ∧ t.st = s.st ∧ t.saf = s.saf) := by
  obtain ⟨t, hexec, hpw, hst, hsaf⟩ := does_wakeOut h (toW (b2n b))
  obtain ⟨hclr, hhold⟩ := wakeOutHold_bits b
  rw [hclr, hhold, Bool.not_false, Bool.and_true] at hpw
  exact ⟨t, hexec, hpw, hst, hsaf⟩

/-! ### What a life-cycle command is refused for (R380, Table 15-11) -/

/-- A refusal is judged by STATE and the power block alone. -/
theorem lcRefusal_parts (v : Word) (s : State) :
    lcRefusal v s = lcRefusal v { State.reset with st := s.st, pw := s.pw } := rfl

theorem lcRefusal_congr {s x : State} (hst : x.st = s.st) (hpw : x.pw = s.pw) (v : Word) :
    lcRefusal v x = lcRefusal v s := by
  rw [lcRefusal_parts, hst, hpw, ← lcRefusal_parts]

theorem lcKey_congr {s x : State} (h : x.pw.lcData = s.pw.lcData) : lcKey x = lcKey s := by
  simp only [lcKey, lcNum, h]

theorem lcRefusal_ship (v : Word) (s : State) : lcRefusal (lcWord 1 v) s = 1 :=
  if_pos (.inr (lcWord_cmd 1 v))

theorem lcRefusal_outside_blank {s : State} (h : s.st.mode ≠ .blank) (v : Word) : lcRefusal v s = 1 := if_pos (.inl h)

theorem lcRefusal_supply {s : State} {k : Nat} (hblank : s.st.mode = .blank) (hvsup : s.pw.vsup < 20000) (hk : k % 256 ≠ 1)
    (v : Word) : lcRefusal (lcWord k v) s = 2 := by
  unfold lcRefusal
  dsimp only
  rw [lcWord_cmd, if_neg (not_or.mpr ⟨not_not.mpr hblank, hk⟩), if_pos hvsup]

/-- A command that is carried out was allowed in its state. -/
theorem lcAllowed_of_accepted {v : Word} {s : State} (h : lcRefusal v s = 0) : lcAllowed (wBits v 31 24) s.pw.lc = true := by
  by_contra hnot
  have hno : (!lcAllowed (wBits v 31 24) s.pw.lc) = true := by simpa using hnot
  unfold lcRefusal at h
  dsimp only at h
  rw [if_pos hno] at h
  split at h
  · cases h
  · split at h <;> cases h

/-! ### A change of state (R381) -/

theorem flushHeld_freeze (s : State) : (flushHeld s).rcd.freeze = none := by
  have hrec : ∀ (e : RecEvent) (t : State), (storeRec e t).rcd.freeze = t.rcd.freeze := fun e t => by
    unfold storeRec
    dsimp only
    split <;> rfl
  have hjnl : ∀ (w : List Word) (t : State), (storeJnl w t).rcd.freeze = t.rcd.freeze := fun w t => by
    unfold storeJnl
    split <;> rfl
  refine List.foldlRecOn (motive := fun t : State => t.rcd.freeze = none) _ _ ?_ fun t ht w _ => (hjnl w t).trans ht
  exact List.foldlRecOn (motive := fun t : State => t.rcd.freeze = none) _ _ rfl fun t ht e _ => (hrec e t).trans ht

theorem freezeEnd_freeze (s : State) : (freezeEnd s).rcd.freeze = none := by
  unfold freezeEnd
  split
  next h => exact h
  next => exact flushHeld_freeze s

/-- No record stands and no freeze holds any back. -/
def NoRecords (s : State) : Prop := s.rcd.recs = [] ∧ s.rcd.jnls = [] ∧ s.rcd.freeze = none

theorem NoRecords.of_kept {s t : State} (h : NoRecords s) (hst : RecordsKept s t) : NoRecords t :=
  ⟨hst.recs.trans h.1, hst.jnls.trans h.2.1, hst.freeze.trans h.2.2⟩

theorem powerDown_noRecords {s : State} (h : NoRecords s) :
    (powerDown s).rcd.recs = [] ∧ (powerDown s).rcd.jnls = [] := by
  have hlocked := h.of_kept (lockAll_recordsKept s)
  unfold powerDown
  generalize (List.finRange 32).foldl (fun s i => setCrown i false 0xFF s) s = p at hlocked ⊢
  obtain ⟨hrecs, hjnls, hfreeze⟩ := hlocked
  rw [freezeEnd_of_none hfreeze]
  exact ⟨hrecs, hjnls⟩

theorem startUp_noRecords {s : State} (h : NoRecords s) (cause : Nat) :
    (startUp cause s).rcd.recs = [] ∧ (startUp cause s).rcd.jnls = [] := by
  have htrial : ∀ x : State, (trialStart x).rcd.recs = x.rcd.recs ∧ (trialStart x).rcd.jnls = x.rcd.jnls := fun x => by
    unfold trialStart
    (repeat' split) <;> exact ⟨rfl, rfl⟩
  have hdown := powerDown_noRecords h
  rw [startUp_eq, (htrial _).1, (htrial _).2]
  unfold started
  generalize powerDown s = p at hdown
  dsimp only
  split
  · exact ⟨rfl, rfl⟩
  · exact hdown

theorem resetBy_noRecords {s : State} (h : NoRecords s) (cause : Nat) :
    (resetBy cause s).rcd.recs = [] ∧ (resetBy cause s).rcd.jnls = [] := by
  have hoff := h.of_kept (allOutputsOff_recordsKept s)
  unfold resetBy
  generalize allOutputsOff s = x at hoff ⊢
  have hblank : NoRecords (toMode .blank 14 x) := hoff
  exact startUp_noRecords hblank cause

theorem resetBy_pw (cause : Nat) (s : State) :
    (resetBy cause s).pw = { s.pw.started with wakeCause := (resetBy cause s).pw.wakeCause } := by
  have hpw : (toMode .blank 14 (allOutputsOff s)).pw = s.pw := (toMode_pw ..).trans (allOutputsOff_recordsKept s).pw
  rw [resetBy, startUp_pw, hpw]

/-- The life cycle has moved on: the fuses are blown, the records are gone and the module has started anew. -/
def Moved (l : LcSt) (t : State) : Prop :=
  t.pw.lc = l ∧ t.pw.entered = true ∧ t.pw.wiped = true ∧ t.rcd.recs = [] ∧ t.rcd.jnls = [] ∧ t.st.mode = .blank ∧
    t.cal = none ∧ ∀ j : Fin 32, t.host.sess[j].isOpen = false

/-- The state of a life-cycle change before the start from reset. -/
def lcWiped (l : LcSt) (revoke : Bool) (s : State) : State :=
  let s := modPw (fun p => { p with lc := l, entered := true, wiped := false
                                    keys := if revoke then p.keys.map (fun k => { k with revoked := true }) else p.keys })
    (freezeEnd s)
  modPw (fun p => { p with wiped := true }) (wipeRecords s)

theorem lcChange_eq (l : LcSt) (revoke : Bool) (s : State) : lcChange l revoke s = resetBy 9 (lcWiped l revoke s) := rfl

theorem lcWiped_pw (l : LcSt) (revoke : Bool) (s : State) : (lcWiped l revoke s).pw = { s.pw with
    lc := l, entered := true, wiped := true
    keys := if revoke then s.pw.keys.map (fun k => { k with revoked := true }) else s.pw.keys } := by
  have hpw := (freezeEnd_storesKept s).pw
  unfold lcWiped
  generalize freezeEnd s = t at hpw
  rw [← hpw]
  rfl

theorem lcChange_pw (l : LcSt) (revoke : Bool) (s : State) : (lcChange l revoke s).pw = { (lcWiped l revoke s).pw.started with
    wakeCause := (lcChange l revoke s).pw.wakeCause } := by
  rw [lcChange_eq, resetBy_pw]

theorem lcChange_moved (l : LcSt) (revoke : Bool) (s : State) : Moved l (lcChange l revoke s) := by
  have hfreeze : (lcWiped l revoke s).rcd.freeze = none := freezeEnd_freeze s
  obtain ⟨hrecs, hjnls⟩ := resetBy_noRecords (s := lcWiped l revoke s) ⟨rfl, rfl, hfreeze⟩ 9
  obtain ⟨hmode, hcal, -, -, hclosed, -⟩ := resetBy_anew 9 (lcWiped l revoke s)
  have hpw : (lcChange l revoke s).pw.lc = l ∧ (lcChange l revoke s).pw.entered = true ∧
      (lcChange l revoke s).pw.wiped = true := by
    rw [lcChange_pw, lcWiped_pw]
    exact ⟨rfl, rfl, rfl⟩
  obtain ⟨hlc, hentered, hwiped⟩ := hpw
  rw [lcChange_eq] at hlc hentered hwiped ⊢
  exact ⟨hlc, hentered, hwiped, hrecs, hjnls, hmode, hcal, hclosed⟩

theorem lcChange_keys (l : LcSt) (revoke : Bool) (s : State) : (lcChange l revoke s).pw.keys =
    if revoke then s.pw.keys.map (fun k => { k with revoked := true }) else s.pw.keys := by
  rw [lcChange_pw, lcWiped_pw]
  rfl

theorem lcChange_nonce (l : LcSt) (revoke : Bool) (s : State) :
    (lcChange l revoke s).pw.nonceCtr = s.pw.nonceCtr + 1 := by
  rw [lcChange_pw, lcWiped_pw]
  rfl

theorem lcChange_sess (l : LcSt) (revoke : Bool) (s : State) (i : Fin 32) :
    (lcChange l revoke s).host.sess[i].outstanding = false := by
  have hclosed : ∀ x : State, (powerDown x).host.sess[i] = default := fun _ => Vector.getElem_replicate i.isLt
  rw [lcChange_eq, resetBy, startUp_host, hclosed]
  rfl

/-! ### A write of LC_CMD (R380) -/

/-- No effect lets NONCE fall behind or leaves a request waiting that did not wait. -/
theorem lcEffect_kept (v : Word) (i : Fin 32) {s : State} (h : s.host.sess[i].outstanding = false) :
    s.pw.nonceCtr ≤ (lcEffect v s).pw.nonceCtr ∧ (lcEffect v s).host.sess[i].outstanding = false := by
  have hchange : ∀ l revoke (x : State), x.pw.nonceCtr = s.pw.nonceCtr →
      s.pw.nonceCtr ≤ (lcChange l revoke x).pw.nonceCtr ∧ (lcChange l revoke x).host.sess[i].outstanding = false :=
    fun l revoke x hx => ⟨by rw [lcChange_nonce]; omega, lcChange_sess l revoke x i⟩
  unfold lcEffect
  dsimp only
  split
  · refine hchange _ _ _ ?_
    rfl
  · exact ⟨le_rfl, h⟩
  · exact ⟨le_rfl, h⟩
  · refine hchange _ _ _ ?_
    rfl
  · refine hchange _ _ _ ?_
    rfl

/-- The state that a command carried out finds. -/
def lcReady (i : Fin 32) (s : State) : State := modPw (fun p => { p with lcResult := 0 }) (accessed i s)

/-- A refused command shows its RESULT, and NONCE changes. -/
def lcShown (n : Nat) (s : State) : State :=
  bumpNonce (modPw (fun p => { p with lcRefused := true, lcResult := n }) (setAgain 0x10000 (2 ^ 6) s))

theorem lcShown_kept (n : Nat) (s : State) : (lcShown n s).pw =
    { s.pw with lcRefused := true, lcResult := n, nonceCtr := s.pw.nonceCtr + 1 } ∧ (lcShown n s).rcd = s.rcd ∧
      (lcShown n s).st = s.st ∧ (lcShown n s).saf = s.saf := ⟨rfl, rfl, rfl, rfl⟩

theorem lcCmdWrite_refused {v : Word} {s : State} (h : lcRefusal v s ≠ 0) :
    lcCmdWrite v s = lcShown (lcRefusal v s) s := if_pos h

theorem lcCmdWrite_done {v : Word} {s : State} (h : lcRefusal v s = 0) :
    lcCmdWrite v s = bumpNonce (lcEffect v (modPw (fun p => { p with lcResult := 0 }) s)) := if_neg (not_not.mpr h)

/-- A write of LC_CMD: NONCE changes; refused it shows its RESULT and leaves the rest; else it has its effect. -/
theorem does_lcCmd {i : Fin 32} {w : Word} {s : State} {P : State → Prop} (h : MayWrite i s)
    (hP : lcRefusal w s = 0 → ∀ r, P (put (.rsp r) (bumpNonce (lcEffect w (lcReady i s))))) :
    ∃ t, writeCmd i 0x10044 w s = .next t ∧ s.pw.nonceCtr < t.pw.nonceCtr ∧ (lcRefusal w s ≠ 0 →
      t.pw = { s.pw with lcRefused := true, lcResult := lcRefusal w s, nonceCtr := s.pw.nonceCtr + 1 } ∧ t.rcd = s.rcd ∧
        t.st = s.st ∧ t.saf = s.saf) ∧ (lcRefusal w s = 0 → P t) := by
  have hcode : lcRefusal w (accessed i s) = lcRefusal w s := lcRefusal_congr (accessed_st i s) (accessed_pw i s) w
  by_cases hn : lcRefusal w s = 0
  case pos =>
    obtain ⟨hnonce, hout⟩ := lcEffect_kept w i (s := lcReady i s) (accessed_outstanding h.1)
    have hw : blockWrite i none .power 0x044 w (accessed i s) = (.ok, bumpNonce (lcEffect w (lcReady i s))) :=
      congrArg (Prod.mk RspCode.ok) (lcCmdWrite_done (hcode.trans hn))
    refine writes_of_may h plainReg_lcCmd.aligned plainReg_lcCmd.block (v := w) (c := .ok)
      (x := bumpNonce (lcEffect w (lcReady i s))) ?_ hout
      ⟨Nat.lt_succ_of_le hnonce, fun hne => absurd hn hne, fun _ => hP hn _⟩
    rw [keepFresh_of_none plainReg_lcCmd.not_w1c]
    exact hw
  case neg =>
    have hw : blockWrite i none .power 0x044 w (accessed i s) = (.ok, lcShown (lcRefusal w s) (accessed i s)) := by
      rw [← hcode]
      exact congrArg (Prod.mk RspCode.ok) (lcCmdWrite_refused (fun h0 => hn (hcode.symm.trans h0)))
    generalize lcRefusal w s = n at hw hn ⊢
    refine writeCmd_plain (x := lcShown n (accessed i s)) h plainReg_lcCmd hw rfl ?_
    have hkept := lcShown_kept n (accessed i s)
    rw [accessed_pw, accessed_rcd, accessed_st, accessed_saf] at hkept
    exact ⟨Nat.lt_succ_self _, fun _ => hkept, fun h0 => absurd h0 hn⟩

end Sys2Proof.Machine
end

section
/-! SUPPORT AND PROOFS. What each life-cycle command does that is carried out (15 Table 15-11). -/

namespace Sys2Proof.Machine

/-- The response and the new NONCE leave a moved life cycle and the keys as they are. -/
theorem Moved.answered {l : LcSt} {s : State} (h : Moved l s) (r : Rsp) : Moved l (put (.rsp r) (bumpNonce s)) := h

/-- A command that writes key slots has made keys of the keys and left the life cycle, STATE and the records as they were. -/
def KeysWritten (keys : Vector KeySlot 4) (s t : State) : Prop :=
  t.pw.lc = s.pw.lc ∧ t.st = s.st ∧ t.rcd = s.rcd ∧ t.pw.keys = keys

theorem KeysWritten.answered {keys : Vector KeySlot 4} {s t : State} (h : KeysWritten keys s t) (r : Rsp) :
    KeysWritten keys s (put (.rsp r) (bumpNonce t)) := h

/-- The key slot that TARGET names. -/
def targetSlot (v : Word) : Fin 4 := ⟨wBits v 17 16 % 4, Nat.mod_lt _ (by decide)⟩

theorem targetSlot_val (v : Word) : (targetSlot v).val = wBits v 17 16 :=
  Nat.mod_eq_of_lt (show wBits v 17 16 < 4 from Nat.mod_lt _ (by decide))

/-- One key slot changed is that slot set. -/
theorem updNat_targetSlot (keys : Vector KeySlot 4) (v : Word) (f : KeySlot → KeySlot) :
    updNat keys (wBits v 17 16) f = keys.set (targetSlot v) (f keys[targetSlot v]) := by
  rw [← targetSlot_val]
  exact updNat_of_lt keys (targetSlot v).isLt f

section
variable {v w : Word} {i : Fin 32} {s : State}

theorem lcEffect_provision (hcmd : wBits w 31 24 = 2) : lcEffect w (lcReady i s) = lcChange .owned false
    (modPw (fun p => { p with keys := updNat p.keys 0 (fun k => { k with key := some (lcKey (lcReady i s)) }) })
      (lcReady i s)) := by
  simp only [lcEffect, hcmd]

theorem lcEffect_addKey (hcmd : wBits w 31 24 = 3) : lcEffect w (lcReady i s) =
    modPw (fun p => { p with keys := updNat p.keys (wBits w 17 16) (fun k => { k with key := some (lcKey (lcReady i s)) }) })
      (lcReady i s) := by
  simp only [lcEffect, hcmd]

theorem lcEffect_revoke (hcmd : wBits w 31 24 = 4) : lcEffect w (lcReady i s) =
    modPw (fun p => { p with keys := updNat p.keys (wBits w 17 16) (fun k => { k with revoked := true }) }) (lcReady i s) := by
  simp only [lcEffect, hcmd]

theorem lcEffect_return (hcmd : wBits w 31 24 = 5) : lcEffect w (lcReady i s) = lcChange .returned true (lcReady i s) := by
  simp only [lcEffect, hcmd]

theorem lcEffect_scrap (hcmd : wBits w 31 24 = 6) : lcEffect w (lcReady i s) = lcChange .scrapped true (lcReady i s) := by
  simp only [lcEffect, hcmd]

theorem lcReady_pw : (lcReady i s).pw = { s.pw with lcResult := 0 } := by
  rw [lcReady, modPw_pw, accessed_pw]

theorem lcKey_lcReady : lcKey (lcReady i s) = lcKey s := lcKey_congr (by rw [lcReady_pw])

theorem keysWritten_lcReady (n : Nat) (f : KeySlot → KeySlot) : KeysWritten (updNat s.pw.keys n f) s
    (modPw (fun p => { p with keys := updNat p.keys n f }) (lcReady i s)) := by
  refine ⟨?_, accessed_st i s, accessed_rcd i s, ?_⟩ <;> rw [modPw_pw, lcReady_pw]

/-- PROVISION moves the life cycle to OWNED and writes key slot 0. -/
theorem lcEffect_provisions (hcmd : wBits w 31 24 = 2) : Moved .owned (lcEffect w (lcReady i s)) ∧
    (lcEffect w (lcReady i s)).pw.keys = s.pw.keys.set 0 { s.pw.keys[(0 : Fin 4)] with key := some (lcKey s) } := by
  rw [lcEffect_provision hcmd]
  refine ⟨lcChange_moved .., ?_⟩
  rw [lcChange_keys, if_neg Bool.false_ne_true, modPw_pw, lcReady_pw, lcKey_lcReady]
  exact updNat_of_lt s.pw.keys (show 0 < 4 by decide) (fun k => { k with key := some (lcKey s) })

/-- RETURN moves it to RETURNED and revokes every key. -/
theorem lcEffect_returns (hcmd : wBits w 31 24 = 5) : Moved .returned (lcEffect w (lcReady i s)) ∧
    ∀ k : Fin 4, (lcEffect w (lcReady i s)).pw.keys[k] = { s.pw.keys[k] with revoked := true } := by
  rw [lcEffect_return hcmd]
  refine ⟨lcChange_moved .., fun k => ?_⟩
  rw [lcChange_keys, if_pos rfl, lcReady_pw]
  exact Vector.getElem_map _ k.isLt

theorem lcEffect_addsKey (hcmd : wBits w 31 24 = 3) (htarget : wBits w 17 16 = wBits v 17 16) :
    KeysWritten (s.pw.keys.set (targetSlot v) { s.pw.keys[targetSlot v] with key := some (lcKey s) }) s
      (lcEffect w (lcReady i s)) := by
  rw [lcEffect_addKey hcmd, htarget, lcKey_lcReady, ← updNat_targetSlot s.pw.keys v (fun k => { k with key := some (lcKey s) })]
  exact keysWritten_lcReady _ _

theorem lcEffect_revokes (hcmd : wBits w 31 24 = 4) (htarget : wBits w 17 16 = wBits v 17 16) :
    KeysWritten (s.pw.keys.set (targetSlot v) { s.pw.keys[targetSlot v] with revoked := true }) s
      (lcEffect w (lcReady i s)) := by
  rw [lcEffect_revoke hcmd, htarget, ← updNat_targetSlot s.pw.keys v (fun k => { k with revoked := true })]
  exact keysWritten_lcReady _ _

end

/-- ADD_KEY and REVOKE are carried out in OWNED alone. -/
theorem owned_of_accepted {w : Word} {s : State} (h : lcRefusal w s = 0) (hcmd : wBits w 31 24 = 3 ∨ wBits w 31 24 = 4) :
    s.pw.lc = .owned := by
  have hallowed := lcAllowed_of_accepted h
  rcases hcmd with hcmd | hcmd <;> rw [hcmd] at hallowed <;> exact eq_of_beq hallowed

end Sys2Proof.Machine

namespace Sys2Proof

open Sys2Proof.Machine

/-- Settles O56: the two writes of WAKE_OUT, and LC_CMD by its code, refused or with the effect of that code. -/
theorem lifeCycle : Obligations.LifeCycle := by
  refine fun i s h => ⟨does_wakeOutClr h, does_wakeOutHold h, fun v => ?_⟩
  refine ⟨does_lcCmd h fun hn => ?ship, lcRefusal_ship v s, does_lcCmd h fun _ r => ?provision,
    does_lcCmd h fun hn r => ?addKey, does_lcCmd h fun hn r => ?revoke, does_lcCmd h fun _ r => ?returnCmd,
    does_lcCmd h fun _ r => ?scrap, fun k hmode => lcRefusal_outside_blank hmode _,
    fun k hblank hvsup hk => lcRefusal_supply hblank hvsup hk v⟩
  case ship => exact absurd ((lcRefusal_ship v s).symm.trans hn) (by decide)
  case provision =>
    obtain ⟨hmoved, hkeys⟩ := lcEffect_provisions (i := i) (s := s) (lcWord_cmd 2 v)
    exact ⟨hmoved.answered r, hkeys⟩
  case addKey =>
    obtain ⟨hlc, hst, hrcd, hkeys⟩ :=
      (lcEffect_addsKey (v := v) (i := i) (s := s) (lcWord_cmd 3 v) (lcWord_target 3 v)).answered r
    exact ⟨hlc.trans (owned_of_accepted hn (.inl (lcWord_cmd 3 v))), hst, hrcd, hkeys⟩
  case revoke =>
    obtain ⟨hlc, hst, hrcd, hkeys⟩ :=
      (lcEffect_revokes (v := v) (i := i) (s := s) (lcWord_cmd 4 v) (lcWord_target 4 v)).answered r
    exact ⟨hlc.trans (owned_of_accepted hn (.inr (lcWord_cmd 4 v))), hst, hrcd, hkeys⟩
  case returnCmd =>
    obtain ⟨hmoved, hkeys⟩ := lcEffect_returns (i := i) (s := s) (lcWord_cmd 5 v)
    exact ⟨hmoved.answered r, hkeys⟩
  case scrap =>
    rw [lcEffect_scrap (lcWord_cmd 6 v)]
    exact (lcChange_moved ..).answered r

end Sys2Proof
end

section
/-! SUPPORT AND PROOFS. Firmware pieces and the checks over a manifest and an image (16 R394 to R397). -/

namespace Sys2Proof.Machine

/-! ### Writes of UP_CMD -/

theorem plainReg_upCmd : PlainReg 0x12004 .update 0x004 := ⟨rfl, rfl, rfl⟩

theorem accessed_upd (i : Fin 32) (s : State) : (accessed i s).upd = s.upd := modSess_upd ..

/-- The word that a piece command writes: its OP, and the index of the piece. -/
theorem pieceWord_bits {op k : Nat} (hop : op < 16) (hk : k < 16384) :
    wBits (toW (op * 2 ^ 28 + fld k 0 14)) 31 28 = op ∧ wBits (toW (op * 2 ^ 28 + fld k 0 14)) 13 0 = k := by
  have hfld : fld k 0 14 = k := by
    rw [fld]
    omega
  have hword : (toW (op * 2 ^ 28 + fld k 0 14)).toNat = op * 2 ^ 28 + k := by
    rw [hfld, toW, BitVec.toNat_ofNat]
    omega
  simp only [wBits, hword, bitsOf]
  omega

section
variable {i : Fin 32} {v : Word} {s : State} (hresult : s.upd.sess[i].result ≠ 1)
include hresult

theorem upCmdWrite_manifest (hop : wBits v 31 28 = 1) (hlc : s.pw.lc ≠ .scrapped) :
    upCmdWrite i v s = (.ok, manifestWrite i (wBits v 13 0) s) := by
  unfold upCmdWrite
  simp only [if_neg hresult, hop, if_neg hlc]

theorem upCmdWrite_image (hop : wBits v 31 28 = 2) (hlc : s.pw.lc ≠ .scrapped) :
    upCmdWrite i v s = (.ok, imageWrite i (wBits v 13 0) s) := by
  unfold upCmdWrite
  simp only [if_neg hresult, hop, if_neg hlc]

theorem upCmdWrite_confirm (hop : wBits v 31 28 = 3) (htrial : s.upd.phase = .trial)
    (hcrown : s.host.sess[i].crown = true) : upCmdWrite i v s = (.ok, confirm i s) := by
  unfold upCmdWrite
  simp only [if_neg hresult, hop]
  exact if_pos ⟨htrial, hcrown⟩

end

/-- A write of UP_CMD that leaves the host's state alone. -/
theorem writeCmd_upCmd {i : Fin 32} {s x : State} {P : State → Prop} {v : Word} {c : RspCode} (h : MayWrite i s)
    (hw : upCmdWrite i v (accessed i s) = (c, x)) (hx : x.host = (accessed i s).host)
    (hp : P (put (.rsp (directRsp i 4 c 0x12004 [])) x)) : ∃ t, writeCmd i 0x12004 v s = .next t ∧ P t :=
  writeCmd_plain h plainReg_upCmd hw hx hp

theorem upResult_upd (i : Fin 32) (c : Nat) (s : State) : (upResult i c s).upd = { s.upd with
    sess := updAt s.upd.sess i (fun x => { x with result := c, piece := none }) } := rfl

theorem upResult_result (i : Fin 32) (c : Nat) (s : State) : (upResult i c s).upd.sess[i].result = c := by
  rw [upResult_upd]
  exact congrArg UpSess.result (updAt_same ..)

/-! ### Manifest and image pieces (R395, R396) -/

/-- The next manifest piece is stored. -/
theorem manifestWrite_stored {i : Fin 32} {s : State} (hphase : s.upd.phase = .empty ∨ s.upd.phase = .manifest)
    (hcheck : s.upd.manCheck = none) : (manifestWrite i s.upd.slot.next s).upd.phase = .manifest ∧
      (manifestWrite i s.upd.slot.next s).upd.slot.man = s.upd.slot.man ++ wordsBytes s.upd.sess[i].buf ∧
      (manifestWrite i s.upd.slot.next s).upd.slot.next = s.upd.slot.next + 1 ∧
      (manifestWrite i s.upd.slot.next s).upd.active = s.upd.active ∧
      (manifestWrite i s.upd.slot.next s).upd.svnMin = s.upd.svnMin := by
  have hopen : ¬(s.upd.phase ≠ .empty ∧ s.upd.phase ≠ .manifest) := fun h => hphase.elim h.1 h.2
  have hidle : ¬s.upd.manCheck.isSome = true := by
    rw [hcheck]
    exact Bool.false_ne_true
  unfold manifestWrite
  dsimp only
  rw [if_neg hopen, if_neg (not_not.mpr rfl), if_neg hidle]
  exact ⟨rfl, rfl, rfl, rfl, rfl⟩

/-- A manifest piece out of turn is refused with RESULT 4. -/
theorem manifestWrite_outOfTurn {i : Fin 32} {k : Nat} {s : State}
    (hphase : s.upd.phase = .empty ∨ s.upd.phase = .manifest) (hk : k ≠ s.upd.slot.next) :
    manifestWrite i k s = upResult i 4 s := by
  have hopen : ¬(s.upd.phase ≠ .empty ∧ s.upd.phase ≠ .manifest) := fun h => hphase.elim h.1 h.2
  unfold manifestWrite
  dsimp only
  rw [if_neg hopen, if_pos hk]

theorem manifestWrite_host (i : Fin 32) (k : Nat) (s : State) : (manifestWrite i k s).host = s.host := by
  unfold manifestWrite
  dsimp only
  (repeat' split) <;> rfl

theorem imageWrite_waits {i : Fin 32} {k : Nat} {s : State} (hphase : s.upd.phase = .receiving)
    (hk : k < nPieces s.upd.slot.man) : imageWrite i k s = modUpSess i (fun x => { x with result := 1, piece := some k }) s := by
  unfold imageWrite
  rw [if_neg (not_not.mpr hphase), if_neg (by omega)]

section
variable {i : Fin 32} {k : Nat} {s : State} (h : MayWrite i s) (hk : k < 16384) (hresult : s.upd.sess[i].result ≠ 1)
  (hlc : s.pw.lc ≠ .scrapped)
include h hk hresult hlc

/-- A manifest piece that may be written is judged as one. -/
theorem does_manifestWrite {P : State → Prop} (hp : ∀ r, P (put (.rsp r) (manifestWrite i k (accessed i s)))) :
    Does (.manifestPiece i k) s P := by
  obtain ⟨hop, hindex⟩ := pieceWord_bits (op := 1) (by decide) hk
  rw [Nat.one_mul] at hop hindex
  refine writeCmd_upCmd h (c := .ok) (x := manifestWrite i k (accessed i s)) ?_ (manifestWrite_host ..) (hp _)
  rw [upCmdWrite_manifest (s := accessed i s) hresult hop hlc, hindex]

/-- So is an image piece. -/
theorem does_imagePiece (hphase : s.upd.phase = .receiving) (hpiece : k < nPieces s.upd.slot.man) :
    Does (.imagePiece i k) s (fun t => t.upd.sess[i].piece = some k ∧ t.upd.sess[i].result = 1 ∧
      t.upd.slot = s.upd.slot) := by
  obtain ⟨hop, hindex⟩ := pieceWord_bits (op := 2) (by decide) hk
  refine writeCmd_upCmd h (c := .ok)
    (x := modUpSess i (fun x => { x with result := 1, piece := some k }) (accessed i s)) ?_ rfl ?_
  · rw [upCmdWrite_image (s := accessed i s) hresult hop hlc, hindex, imageWrite_waits (s := accessed i s) hphase hpiece]
  · have hsess := updAt_same s.upd.sess i (fun x => { x with result := 1, piece := some k })
    exact ⟨congrArg UpSess.piece hsess, congrArg UpSess.result hsess, rfl⟩

variable (hphase : s.upd.phase = .empty ∨ s.upd.phase = .manifest)
include hphase

theorem does_manifestPiece_next (hnext : k = s.upd.slot.next) (hcheck : s.upd.manCheck = none) :
    Does (.manifestPiece i k) s (fun t => t.upd.phase = .manifest ∧
      t.upd.slot.man = s.upd.slot.man ++ wordsBytes s.upd.sess[i].buf ∧ t.upd.slot.next = k + 1 ∧
      t.upd.active = s.upd.active ∧ t.upd.svnMin = s.upd.svnMin) := by
  refine does_manifestWrite h hk hresult hlc fun r => ?_
  have hstored := manifestWrite_stored (i := i) (s := accessed i s) hphase hcheck
  rw [accessed_upd, ← hnext] at hstored
  rw [put_upd]
  exact hstored

theorem does_manifestPiece_outOfTurn (hnext : k ≠ s.upd.slot.next) : Does (.manifestPiece i k) s (fun t =>
    t.upd.slot = s.upd.slot ∧ t.upd.sess[i].result = 4 ∧ t.upd.phase = s.upd.phase) := by
  refine does_manifestWrite h hk hresult hlc fun r => ?_
  rw [put_upd, manifestWrite_outOfTurn (s := accessed i s) hphase hnext]
  exact ⟨rfl, upResult_result .., rfl⟩

end

/-! ### A piece is judged (R396, R397) -/

theorem mem_insertPiece (k : Nat) (w : List Word) (l : List (Nat × List Word)) :
    (k, w) ∈ insertPiece k w l ∧ (insertPiece k w l).length = l.length + 1 := by
  induction l with
  | nil => exact ⟨List.mem_singleton.mpr rfl, rfl⟩
  | cons p r ih =>
    obtain ⟨j, v⟩ := p
    unfold insertPiece
    split
    · exact ⟨List.mem_cons_self, rfl⟩
    · exact ⟨List.mem_cons_of_mem _ ih.1, congrArg (· + 1) ih.2⟩

theorem exec_pieceJudged {i : Fin 32} {k : Nat} {s : State} (hawake : awake s = true) (hpiece : s.upd.sess[i].piece = some k) :
    exec (.pieceJudged i) s = .next (judgePiece i k (fresh s)) := by
  change execPieceJudged i s = _
  unfold execPieceJudged
  dsimp only
  rw [fresh_upd, hpiece]
  dsimp only
  rw [awake_fresh, if_pos hawake]

theorem does_pieceJudged {i : Fin 32} {k : Nat} {s : State} (hawake : awake s = true)
    (hpiece : s.upd.sess[i].piece = some k) (hphase : s.upd.phase = .receiving)
    (hnew : s.upd.slot.pieces.any (fun p => p.1 == k) = false) :
    let w := paddedPiece s.upd.slot.man k s.upd.sess[i].buf
    Does (.pieceJudged i) s (fun t => if sha256 (wordsBytes w) = pieceHash s.upd.slot.man k then
      (k, w) ∈ t.upd.slot.pieces ∧ t.upd.slot.pieces.length = s.upd.slot.pieces.length + 1 ∧ t.upd.sess[i].result = 0
      else t.upd.slot = s.upd.slot ∧ t.upd.sess[i].result = 3 ∧ t.upd.phase = .receiving) := by
  intro w
  refine ⟨_, exec_pieceJudged hawake hpiece, ?_⟩
  unfold judgePiece
  dsimp only
  rw [fresh_upd, if_neg (not_not.mpr hphase), hnew, if_neg Bool.false_ne_true]
  by_cases hhash : sha256 (wordsBytes w) = pieceHash s.upd.slot.man k
  case pos =>
    rw [if_pos hhash, if_neg (by rw [bne_iff_ne]; exact not_not.mpr hhash)]
    obtain ⟨hmem, hlen⟩ := mem_insertPiece k w s.upd.slot.pieces
    exact ⟨hmem, hlen, upResult_result ..⟩
  case neg =>
    rw [if_neg hhash, if_pos (bne_iff_ne.mpr hhash)]
    exact ⟨rfl, upResult_result .., hphase⟩

/-! ### The checks over a whole manifest and a whole image (R394, R396) -/

theorem does_manifestVerifyDone {i : Fin 32} {s : State} (hawake : awake s = true) (hcheck : s.upd.manCheck = some i) :
    Does .manifestVerifyDone s (fun t => t.upd.manCheck = none ∧ match manFault s.upd.slot.man s with
      | none => t.upd.phase = .receiving ∧ t.upd.sess[i].result = 0 ∧ t.upd.slot = s.upd.slot
      | some c => t.upd.phase = .rejected ∧ t.upd.sess[i].result = c) := by
  have hfault : manFault s.upd.slot.man (fresh s) = manFault s.upd.slot.man s := rfl
  have hup : (!awake (fresh s)) = false := by rw [awake_fresh, hawake]; rfl
  cases hman : manFault s.upd.slot.man s with
  | none =>
    have hexec : exec .manifestVerifyDone s = .next (upResult i 0 (jnl 0x10 i.val [toW (manField s.upd.slot.man 0xA 1),
        toW (manField s.upd.slot.man 0xB 1), toW (manSvn s.upd.slot.man), toW (manField s.upd.slot.man 0x1C 4),
        toW (nPieces s.upd.slot.man)]
        (modUpd (fun u => { u with phase := .receiving, manCheck := none }) (fresh s)))) := by
      change execManifestVerifyDone s = _
      unfold execManifestVerifyDone
      dsimp only
      rw [fresh_upd, hcheck]
      dsimp only
      rw [hup, hfault, hman, if_neg Bool.false_ne_true]
    exact ⟨_, hexec, rfl, rfl, upResult_result .., rfl⟩
  | some c =>
    have hexec : exec .manifestVerifyDone s =
        .next (upResult i c (modUpd (fun u => { u with phase := .rejected, manCheck := none }) (fresh s))) := by
      change execManifestVerifyDone s = _
      unfold execManifestVerifyDone
      dsimp only
      rw [fresh_upd, hcheck]
      dsimp only
      rw [hup, hfault, hman, if_neg Bool.false_ne_true]
    exact ⟨_, hexec, rfl, rfl, upResult_result ..⟩

theorem does_imageHashCheckDone {i : Fin 32} {s : State} (hawake : awake s = true) (hcheck : s.upd.imgCheck = some i) :
    Does .imageHashCheckDone s (fun t => t.upd.imgCheck = none ∧ t.upd.slot = s.upd.slot ∧
      if imageMatches s.upd.slot then t.upd.phase = .ready
      else t.upd.phase = .rejected ∧ t.upd.sess[i].result = 9) := by
  have hup : (!awake (fresh s)) = false := by rw [awake_fresh, hawake]; rfl
  have hexec : exec .imageHashCheckDone s = if imageMatches s.upd.slot then
        .next (modUpd (fun u => { u with phase := .ready, imgCheck := none }) (fresh s))
      else .next (upResult i 9 (modUpd (fun u => { u with phase := .rejected, imgCheck := none }) (fresh s))) := by
    change execImageHashCheckDone s = _
    unfold execImageHashCheckDone
    dsimp only
    rw [fresh_upd, hcheck]
    dsimp only
    rw [hup, if_neg Bool.false_ne_true]
  cases hmatch : imageMatches s.upd.slot with
  | true =>
    rw [hmatch, if_pos rfl] at hexec
    exact ⟨_, hexec, rfl, rfl, rfl⟩
  | false =>
    rw [hmatch, if_neg Bool.false_ne_true] at hexec
    exact ⟨_, hexec, rfl, rfl, rfl, upResult_result ..⟩

end Sys2Proof.Machine

namespace Sys2Proof

open Sys2Proof.Machine

/-- Settles O59: pieces by whether they are in turn and their hash agrees, and the two checks by their outcome. -/
theorem firmwarePieces : Obligations.FirmwarePieces :=
  ⟨⟨fun _ _ _ h hk hresult hlc hphase => ⟨does_manifestPiece_next h hk hresult hlc hphase,
      does_manifestPiece_outOfTurn h hk hresult hlc hphase⟩,
    fun _ _ _ => does_imagePiece, fun _ _ _ => does_pieceJudged⟩,
   ⟨fun _ _ => does_manifestVerifyDone, fun _ _ => does_imageHashCheckDone⟩⟩

end Sys2Proof
end

section
/-! SUPPORT AND PROOFS. The firmware slots: CONFIRM, DISCARD_SLOT, ACTIVATE, trial and fallback (16 R398 to R402). -/

namespace Sys2Proof.Machine

/-! ### CONFIRM (R401) -/

theorem does_confirm {i : Fin 32} {s : State} (h : MayWrite i s) (hresult : s.upd.sess[i].result ≠ 1)
    (htrial : s.upd.phase = .trial) (hcrown : s.host.sess[i].crown = true) : Does (.confirm i) s (fun t =>
      t.upd.phase = .empty ∧ t.upd.slot = default ∧ t.upd.active = s.upd.active ∧ s.upd.svnMin ≤ t.upd.svnMin ∧
      manSvn s.upd.slot.man ≤ t.upd.svnMin) := by
  have hop : wBits (toW (3 * 2 ^ 28)) 31 28 = 3 := by decide
  exact writeCmd_upCmd h (upCmdWrite_confirm (s := accessed i s) hresult hop htrial ((accessed_crown i s).trans hcrown)) rfl
    ⟨rfl, rfl, rfl, le_max_left .., le_max_right ..⟩

/-! ### DISCARD_SLOT (R398) -/

section
variable {i : Fin 32} {j : Fin 8} {s : State} (h : MayWrite i s) (hcrown : s.host.sess[i].crown = true)
  (hidle : (jobAt s j.val).st = .idle) (hfree : contactorJob s = false)
include h hcrown hidle hfree

theorem does_discardSlot (hphase : s.upd.phase ≠ .trial) : Does (.discardSlot i j) s (fun t =>
    (jobAt t j.val).st = .running ∧ (jobAt t j.val).kind = 0x11 ∧ (jobAt t j.val).session = i.val) := by
  have hcontactor : contactorJob (accessed i s) = false := hfree
  have hstart : discardStart i j.val (accessed i s) = jobCommitted j.val (jobStart i j.val 0x11 (accessed i s)) := by
    unfold discardStart
    rw [hcontactor, if_neg Bool.false_ne_true, accessed_upd, if_neg hphase]
  have hkind : jobStartKind i j 0x11 (accessed i s) = (.ok, jobCommitted j.val (jobStart i j.val 0x11 (accessed i s))) := by
    rw [← hstart]
    exact if_pos ((accessed_crown i s).trans hcrown)
  rw [jobAt_fin] at hidle
  refine does_start_idle rfl (startWord_of_kind 0x11) h hidle hkind rfl ?_
  have hslot : ∀ t : State, (jobCommitted j.val (jobStart i j.val 0x11 t)).host.jobs[j].st = .running ∧
      (jobCommitted j.val (jobStart i j.val 0x11 t)).host.jobs[j].kind = 0x11 ∧
      (jobCommitted j.val (jobStart i j.val 0x11 t)).host.jobs[j].session = i.val := fun t => by
    rw [jobCommitted, modJob_same, jobStart, modJob_same]
    exact ⟨rfl, rfl, rfl⟩
  rw [jobAt_fin]
  exact hslot _

/-! ### ACTIVATE (R399) -/

/-- TRG3 as an ACTIVATE arms it. -/
def activateTrig (s : State) : Trig :=
  { ns := 0, secLo := s.upd.actSec % 2 ^ 32, secHi := s.upd.actSec / 2 ^ 32, target := actNs s
    arm := true, armedNow := true, fired := false, late := false }

/-- The state in which TRG3 is armed for an ACTIVATE. -/
def activateArmed (s : State) : State := { s with time := { s.time with trg := s.time.trg.set 3 (activateTrig s) } }

theorem does_activate (hphase : s.upd.phase = .ready) (hahead : fabNs s + 2000000000 ≤ actNs s) :
    Does (.activate i j) s (fun t => (jobAt t j.val).st = .running ∧ (jobAt t j.val).kind = 0x12 ∧
      t.time.trg[(3 : Fin 4)].arm = true ∧ t.time.trg[(3 : Fin 4)].target = s.upd.actSec * 1000000000 ∧
      t.upd.phase = .ready) := by
  have hcontactor : contactorJob (accessed i s) = false := hfree
  have hready : ¬(accessed i s).upd.phase ≠ .ready := not_not.mpr hphase
  have hnotLate : ¬actNs (accessed i s) < fabNs (accessed i s) + 2000000000 := Nat.not_lt.mpr hahead
  have hstart : activateStart i j.val (accessed i s) = jobStart i j.val 0x12 (activateArmed (accessed i s)) := by
    unfold activateStart
    rw [hcontactor, if_neg Bool.false_ne_true, if_neg hready, if_neg hnotLate]
    rfl
  have hkind : jobStartKind i j 0x12 (accessed i s) = (.ok, jobStart i j.val 0x12 (activateArmed (accessed i s))) := by
    rw [← hstart]
    exact if_pos ((accessed_crown i s).trans hcrown)
  rw [jobAt_fin] at hidle
  refine does_start_idle rfl (startWord_of_kind 0x12) h hidle hkind rfl ?_
  have hslot : ∀ t : State, (jobStart i j.val 0x12 t).host.jobs[j].st = .running ∧
      (jobStart i j.val 0x12 t).host.jobs[j].kind = 0x12 := fun t => by
    rw [jobStart, modJob_same]
    exact ⟨rfl, rfl⟩
  have htrig : ∀ t : State, (activateArmed t).time.trg[(3 : Fin 4)] = activateTrig t := fun t =>
    Vector.getElem_set_self (by decide)
  rw [jobAt_fin]
  obtain ⟨hrunning, hkind'⟩ := hslot (activateArmed (accessed i s))
  have harmed := htrig (accessed i s)
  exact ⟨hrunning, hkind', congrArg Trig.arm harmed, congrArg Trig.target harmed, hphase⟩

end

theorem does_discardDone {j : Nat} {s : State} (hj : j < 8) (holdest : oldestOf 0x11 s = some j) :
    Does .discardDone s (fun t => t.upd.phase = .empty ∧ t.upd.slot = default ∧ t.upd.active = s.upd.active ∧
      (jobAt t j).st = .completed) := by
  have holdest' : oldestOf 0x11 (fresh s) = some j := holdest
  have hexec : exec .discardDone s = .next (jobEnd j .completed 0
      (modUpd (fun u => { u with phase := .empty, slot := default, manCheck := none, imgCheck := none }) (fresh s))) := by
    change execDiscardDone s = _
    unfold execDiscardDone discardDone
    rw [holdest']
  have hended := modJob_same ⟨j, hj⟩ (fun x => { x with st := .completed, detail := 0, ended := s.time.beat, abortReq := false })
    (modUpd (fun u => { u with phase := .empty, slot := default, manCheck := none, imgCheck := none }) (fresh s))
  rw [← jobAt_fin] at hended
  exact ⟨_, hexec, rfl, rfl, rfl, congrArg Job.st hended⟩

/-! ### Trial and fallback (R402) -/

theorem exec_trialExpiry {s : State} (hawake : awake s = true) (hphase : s.upd.phase = .trial)
    (hsec : 3600 ≤ s.upd.trialSec) :
    exec .trialExpiry s = .next { fresh s with upd := { s.upd with expired := true } } :=
  if_pos ⟨hphase, hsec, hawake⟩

/-- Outside a trial a start keeps the update block, but for what its sessions hold and ACT_SEC. -/
theorem resetBy_upd {s : State} (h : s.upd.phase ≠ .trial) (cause : Nat) : (resetBy cause s).upd = s.upd.started := by
  have hupd : (toMode .blank 14 (allOutputsOff s)).upd = s.upd := (toMode_upd ..).trans (allOutputsOff_recordsKept s).upd
  rw [resetBy, startUp_upd (by rwa [hupd]), hupd]

theorem does_trialFallback {s : State} (hawake : awake s = true) (hphase : s.upd.phase = .trial)
    (hexpired : s.upd.expired = true) (htick : tickOf s = 0) (hoff : noSwitchOn s = true) (hlow : lowCurrent s = true) :
    Does .trialFallback s (fun t => t.upd.active = 1 - s.upd.active ∧ t.upd.phase = .rejected ∧ t.upd.fellBack = true ∧
      t.st.mode = .blank ∧ t.cal = none ∧ t.pw.wakeCause = 8) := by
  have hphase' : (fallBack 2 (fresh s)).upd.phase ≠ .trial := by
    change UpPhase.rejected ≠ .trial
    decide
  have hexec : exec .trialFallback s = .next (resetBy 8 (fallBack 2 (fresh s))) :=
    if_pos ⟨hphase, hexpired, hawake, htick, hoff, hlow⟩
  obtain ⟨hmode, hcal, -, -, -, hcause⟩ := resetBy_anew 8 (fallBack 2 (fresh s))
  refine ⟨_, hexec, ?_, ?_, ?_, hmode, hcal, hcause hphase'⟩
  all_goals
    rw [resetBy_upd hphase']
    rfl

end Sys2Proof.Machine

namespace Sys2Proof

open Sys2Proof.Machine

/-- Settles O60: each command by its one write, and expiry and fallback by the start from reset. -/
theorem firmwareSlots : Obligations.FirmwareSlots :=
  ⟨fun _ _ => does_confirm, fun _ _ _ => does_discardSlot, fun _ _ => does_discardDone, fun _ _ _ => does_activate,
    fun _ => exec_trialExpiry, fun _ => does_trialFallback, fun _ _ => rfl⟩

end Sys2Proof
end

section
/-! SUPPORT AND PROOFS. The field channels: inputs, counters, conversions, outputs and their faults (14 R357 to R363). -/

namespace Sys2Proof.Machine

/-! ### One channel -/

theorem modIo_same {k : Nat} (hk : k < 16) (f : IoCh → IoCh) (s : State) : ioAt (modIo k f s) k = f (ioAt s k) :=
  getNat_updNat_same _ hk f

theorem modIo_other {j k : Nat} (h : j ≠ k) (f : IoCh → IoCh) (s : State) : ioAt (modIo k f s) j = ioAt s j :=
  getNat_updNat_other _ h f

/-- Of the channels, k alone has changed, and nothing of STATE or the safety functions. -/
def OnlyIo (k : Nat) (c : IoCh) (s t : State) : Prop :=
  ioAt t k = c ∧ t.st = s.st ∧ t.saf = s.saf ∧ ∀ j : Nat, j ≠ k → ioAt t j = ioAt s j

theorem modIo_onlyIo (k : Fin 16) (f : IoCh → IoCh) (s : State) :
    OnlyIo k.val (f (ioAt s k.val)) s (modIo k.val f (fresh s)) :=
  ⟨modIo_same k.isLt f _, rfl, rfl, fun _ hj => modIo_other hj f _⟩

theorem setFault_io (k : Nat) (f : IoCh → IoCh) (s : State) :
    (setFault k f s).fio.io = updNat s.fio.io k (fun c => { f c with seen := true }) := rfl

/-- A fault that begins: FAULT_SEEN of its channel and FAULT_SEEN_ANY with it. -/
theorem setFault_onlyIo (k : Fin 16) (f : IoCh → IoCh) (s : State) :
    OnlyIo k.val { f (ioAt s k.val) with seen := true } s (setFault k.val f s) := by
  refine ⟨?_, rfl, rfl, fun j hj => ?_⟩
  · rw [ioAt, setFault_io, getNat_updNat_same _ k.isLt]
    rfl
  · rw [ioAt, setFault_io, getNat_updNat_other _ hj]
    rfl

theorem mapAll_at {α β : Type} {n : Nat} (v : Vector α n) (f : Nat → α → β) (k : Fin n) :
    (mapAll v f)[k] = f k.val v[k] := by
  simp [mapAll]

/-! ### Inputs and counters (R357, R358) -/

section
variable {s : State} (hawake : awake s = true)
include hawake

theorem does_inputFilterChange (k : Fin 16) (l : Bool) : Does (.inputFilterChange k l) s (fun t => t.st = s.st ∧
    t.saf = s.saf ∧
    (ioMode s k.val = 1 → (ioAt t k.val) = { ioAt s k.val with filtered := l } ∧ ∀ j : Nat, j ≠ k.val → ioAt t j = ioAt s j) ∧
    (ioMode s k.val ≠ 1 → t.fio = s.fio)) := by
  have hmode : ioMode (fresh s) k.val = ioMode s k.val := rfl
  by_cases h : ioMode s k.val = 1
  case pos =>
    have hexec : exec (.inputFilterChange k l) s = .next (modIo k.val (fun c => { c with filtered := l }) (fresh s)) := by
      refine congrArg Host.Outcome.next (if_pos ?_)
      rw [awake_fresh, hawake, hmode, h]
      rfl
    obtain ⟨hat, hst, hsaf, hother⟩ := modIo_onlyIo k (fun c => { c with filtered := l }) s
    exact ⟨_, hexec, hst, hsaf, fun _ => ⟨hat, hother⟩, fun hne => absurd h hne⟩
  case neg =>
    have hexec : exec (.inputFilterChange k l) s = .next (fresh s) := by
      refine congrArg Host.Outcome.next (if_neg ?_)
      rw [hmode, beq_false_of_ne h, Bool.and_false]
      exact Bool.false_ne_true
    exact ⟨_, hexec, rfl, rfl, fun h1 => absurd h1 h, fun _ => rfl⟩

theorem does_counterEdge (k : Fin 4) : Does (.counterEdge k) s (fun t => t.st = s.st ∧ t.saf = s.saf ∧
    (ioMode s k.val = 3 → t.fio = { s.fio with cnt := s.fio.cnt.set k ((s.fio.cnt[k] + 1) % 2 ^ 32) }) ∧
    (ioMode s k.val ≠ 3 → t.fio = s.fio)) := by
  have hmode : ioMode (fresh s) k.val = ioMode s k.val := rfl
  by_cases h : ioMode s k.val = 3
  case pos =>
    refine ⟨_, congrArg Host.Outcome.next (if_pos ?_), rfl, rfl, fun _ => rfl, fun hne => absurd h hne⟩
    rw [awake_fresh, hawake, hmode, h]
    rfl
  case neg =>
    refine ⟨_, congrArg Host.Outcome.next (if_neg ?_), rfl, rfl, fun h3 => absurd h3 h, fun _ => rfl⟩
    rw [hmode, beq_false_of_ne h, Bool.and_false]
    exact Bool.false_ne_true

end

theorem plainReg_cntClr : PlainReg 0xF004 .fio 0x004 := ⟨rfl, rfl, rfl⟩

theorem does_cntClr {i : Fin 32} {v : Word} {s : State} (h : MayWrite i s) : Does (.cntClr i v) s (fun t => t.st = s.st ∧
    t.saf = s.saf ∧ t.fio.io = s.fio.io ∧ ∀ k : Fin 4, t.fio.cnt[k] = if wBit v k.val then 0 else s.fio.cnt[k]) := by
  have hw : blockWrite i none .fio 0x004 v (accessed i s) = (.ok, cntClear v (accessed i s)) := rfl
  exact writeCmd_plain h plainReg_cntClr hw rfl ⟨accessed_st i s, accessed_saf i s, rfl, fun k => mapAll_at ..⟩

/-! ### Conversions (R363) -/

/-- A conversion that a mapped input takes is in range, or the value stands as SUSPECT. -/
theorem takeTh_outcome (b : Nat) (v : Option Int) (x : TempPt) :
    ((x.takeTh b v).code = .valid ∧ -4000 ≤ (x.takeTh b v).held ∧ (x.takeTh b v).held ≤ 15000 ∧
      (x.takeTh b v).heldBeat = some b) ∨
    ((x.takeTh b v).code = .suspect ∧ (x.takeTh b v).held = x.held ∧ (x.takeTh b v).heldBeat = x.heldBeat) := by
  cases v with
  | none => exact .inr ⟨rfl, rfl, rfl⟩
  | some y =>
    unfold TempPt.takeTh
    dsimp only
    split
    next hrange => exact .inl ⟨rfl, hrange.1, hrange.2, rfl⟩
    next => exact .inr ⟨rfl, rfl, rfl⟩

theorem thTemp_zero (k : Nat) (c : ThCfg) : thTemp k c 0 = none := if_pos rfl

/-- What a conversion makes of input k. -/
def thTaken (raw : List Nat) (s : State) (t : Nat) (x : TempPt) : TempPt :=
  if x.mapped then
    x.takeTh s.time.beat (thTemp (s.freeCtr + t) (((ioPers s).th[t]?).getD default) (raw.getD t 0))
  else x

theorem thTaken_outcome (raw : List Nat) (s : State) (t : Nat) (x : TempPt) :
    (x.mapped = false → thTaken raw s t x = x) ∧
    (x.mapped = true → ((thTaken raw s t x).code = .valid ∧ -4000 ≤ (thTaken raw s t x).held ∧
        (thTaken raw s t x).held ≤ 15000 ∧ (thTaken raw s t x).heldBeat = some s.time.beat) ∨
      ((thTaken raw s t x).code = .suspect ∧ (thTaken raw s t x).held = x.held ∧
        (thTaken raw s t x).heldBeat = x.heldBeat)) ∧
    (x.mapped = true → raw.getD t 0 = 0 → (thTaken raw s t x).code = .suspect) := by
  unfold thTaken
  cases hmapped : x.mapped with
  | false => exact ⟨fun _ => rfl, fun h => absurd h Bool.false_ne_true, fun h => absurd h Bool.false_ne_true⟩
  | true =>
    refine ⟨fun h => absurd h.symm Bool.false_ne_true, fun _ => takeTh_outcome .., fun _ hraw => ?_⟩
    rw [hraw, thTemp_zero]
    rfl

section
variable {raw : List Nat} {s : State}

theorem exec_thConversion_again (hturn : hadTurn .thermistors s = true) : exec (.thConversion raw) s = .next (fresh s) := by
  have hact : mayAct .thermistors 330 (fresh s) = false := by simp [mayAct, hturn]
  refine if_neg ?_
  rw [hact, Bool.and_false]
  exact Bool.false_ne_true

theorem exec_thConversion (hawake : awake s = true) (hmode : s.st.mode.fromLoaded = true) (hbeat : s.time.beat % 10 = 0)
    (htick : tickOf s ≤ 330) (hturn : hadTurn .thermistors s = false) :
    exec (.thConversion raw) s = .next (tookFree 6 { actAt .thermistors 330 (fresh s) with
      fio := { s.fio with th := mapAll s.fio.th (thTaken raw s) } }) := by
  have hact : mayAct .thermistors 330 s = true := (mayAct_iff ..).mpr ⟨htick, hturn⟩
  refine if_pos ?_
  rw [awake_fresh, fresh_st, fresh_time, mayAct_fresh, hawake, hmode, decide_eq_true hbeat, hact]
  rfl

theorem does_thConversion (hawake : awake s = true) (hmode : s.st.mode.fromLoaded = true) (hbeat : s.time.beat % 10 = 0)
    (htick : tickOf s ≤ 330) (hturn : hadTurn .thermistors s = false) : Does (.thConversion raw) s (fun t =>
      tickOf t = 330 ∧ hadTurn .thermistors t = true ∧ t.st = s.st ∧ t.saf = s.saf ∧ ∀ k : Fin 6,
      (s.fio.th[k].mapped = false → t.fio.th[k] = s.fio.th[k]) ∧
      (s.fio.th[k].mapped = true → (t.fio.th[k].code = .valid ∧ -4000 ≤ t.fio.th[k].held ∧ t.fio.th[k].held ≤ 15000 ∧
          t.fio.th[k].heldBeat = some s.time.beat) ∨
        (t.fio.th[k].code = .suspect ∧ t.fio.th[k].held = s.fio.th[k].held ∧ t.fio.th[k].heldBeat = s.fio.th[k].heldBeat)) ∧
      (s.fio.th[k].mapped = true → raw.getD k.val 0 = 0 → t.fio.th[k].code = .suspect)) := by
  refine ⟨_, exec_thConversion hawake hmode hbeat htick hturn, tickOf_actAt .., (hadTurn_actAt ..).trans (by simp), rfl, rfl,
    fun k => ?_⟩
  have hat : (mapAll s.fio.th (thTaken raw s))[k] = thTaken raw s k.val s.fio.th[k] := mapAll_at ..
  have h := thTaken_outcome raw s k.val s.fio.th[k]
  rw [← hat] at h
  exact h

end

/-! ### Outputs and their faults (R360) -/

section
variable {k : Fin 16} {s : State}

/-- A fault has begun in channel k. -/
def Faulted (k : Fin 16) (s : State) (x : IoCh) (t : State) : Prop :=
  ioAt t k.val = x ∧ t.fio.faultSeenAny = true ∧ t.st = s.st ∧ t.saf = s.saf ∧ ∀ j : Nat, j ≠ k.val → ioAt t j = ioAt s j

theorem setFault_faulted (k : Fin 16) (f : IoCh → IoCh) (s : State) :
    Faulted k s { f (ioAt s k.val) with seen := true } (setFault k.val f (fresh s)) := by
  obtain ⟨hat, hst, hsaf, hother⟩ := setFault_onlyIo k f (fresh s)
  exact ⟨hat, rfl, hst, hsaf, hother⟩

variable (hawake : awake s = true)
include hawake

section
variable (hmode : ioMode s k.val = 2)
include hmode

/-- The condition under which an output channel is looked at. -/
theorem output_looked : (awake (fresh s) && ioMode (fresh s) k.val == 2) = true := by
  have hmode' : ioMode (fresh s) k.val = 2 := hmode
  rw [awake_fresh, hawake, hmode']
  rfl

theorem does_overload (hout : (ioAt s k.val).out = true) :
    Does (.overload k) s (Faulted k s { ioAt s k.val with overload := true, seen := true }) := by
  have hout' : (ioAt (fresh s) k.val).out = true := hout
  refine ⟨_, congrArg Host.Outcome.next (if_pos ?_), setFault_faulted k (fun c => { c with overload := true }) s⟩
  rw [output_looked hawake hmode, hout']
  rfl

theorem exec_overtemp (x : Int) : exec (.overtemp k x) s =
    if 150 < x then .next (if (ioAt s k.val).overtemp then modIo k.val (fun c => { c with cool := false }) (fresh s)
      else setFault k.val (fun c => { c with overtemp := true, cool := false }) (fresh s))
    else if x < 130 then .next (modIo k.val (fun c => { c with cool := true }) (fresh s))
    else .next (fresh s) := if_pos (output_looked hawake hmode)

theorem does_overtemp_begins {x : Int} (hx : 150 < x) (hcold : (ioAt s k.val).overtemp = false) :
    Does (.overtemp k x) s (Faulted k s { ioAt s k.val with overtemp := true, cool := false, seen := true }) := by
  have hexec := exec_overtemp hawake hmode x
  rw [if_pos hx, hcold, if_neg Bool.false_ne_true] at hexec
  exact ⟨_, hexec, setFault_faulted k (fun c => { c with overtemp := true, cool := false }) s⟩

theorem does_overtemp_stays {x : Int} (hx : 150 < x) (hhot : (ioAt s k.val).overtemp = true) :
    Does (.overtemp k x) s (fun t => ioAt t k.val = { ioAt s k.val with cool := false } ∧
      t.fio.faultSeenAny = s.fio.faultSeenAny ∧ t.st = s.st ∧ t.saf = s.saf) := by
  have hexec := exec_overtemp hawake hmode x
  rw [if_pos hx, hhot, if_pos rfl] at hexec
  exact ⟨_, hexec, modIo_same k.isLt (fun c => { c with cool := false }) (fresh s), rfl, rfl, rfl⟩

theorem exec_overtemp_between {x : Int} (hlo : 130 ≤ x) (hhi : x ≤ 150) : exec (.overtemp k x) s = .next (fresh s) := by
  rw [exec_overtemp hawake hmode, if_neg (by omega), if_neg (by omega)]

theorem does_overtemp_cooled {x : Int} (hx : x < 130) : Does (.overtemp k x) s (fun t =>
    ioAt t k.val = { ioAt s k.val with cool := true } ∧ t.st = s.st ∧ t.saf = s.saf) := by
  have hexec := exec_overtemp hawake hmode x
  rw [if_neg (by omega), if_pos hx] at hexec
  exact ⟨_, hexec, modIo_same k.isLt (fun c => { c with cool := true }) (fresh s), rfl, rfl⟩

theorem does_readback (hload : (ioAt s k.val).overload = false) (htemp : (ioAt s k.val).overtemp = false)
    (hread : (ioAt s k.val).readback = false) :
    Does (.readback k) s (Faulted k s { ioAt s k.val with readback := true, seen := true }) := by
  have hat : ioAt (fresh s) k.val = ioAt s k.val := rfl
  refine ⟨_, congrArg Host.Outcome.next (if_pos ?_), setFault_faulted k (fun c => { c with readback := true }) s⟩
  rw [output_looked hawake hmode, hat, hload, htemp, hread]
  rfl

theorem does_readbackClear : Does (.readbackClear k) s (fun t => ioAt t k.val = { ioAt s k.val with readback := false } ∧
    t.st = s.st ∧ t.saf = s.saf) :=
  ⟨_, congrArg Host.Outcome.next (if_pos (output_looked hawake hmode)),
    modIo_same k.isLt (fun c => { c with readback := false }) (fresh s), rfl, rfl⟩

end

theorem does_openWire (hjudged : wireJudged s k.val = true) (hwhole : (ioAt s k.val).openWire = false) :
    Does (.openWire k) s (Faulted k s { ioAt s k.val with openWire := true, seen := true }) := by
  have hat : ioAt (fresh s) k.val = ioAt s k.val := rfl
  have hjudged' : wireJudged (fresh s) k.val = true := hjudged
  refine ⟨_, congrArg Host.Outcome.next (if_pos ?_), setFault_faulted k (fun c => { c with openWire := true }) s⟩
  rw [awake_fresh, hawake, hjudged', hat, hwhole]
  rfl

theorem does_openWireClear (hlive : s.fio.live = true) : Does (.openWireClear k) s (fun t =>
    ioAt t k.val = { ioAt s k.val with openWire := false } ∧ t.st = s.st ∧ t.saf = s.saf) := by
  refine ⟨_, congrArg Host.Outcome.next (if_pos ?_), modIo_same k.isLt (fun c => { c with openWire := false }) (fresh s),
    rfl, rfl⟩
  rw [awake_fresh, hawake, fresh_fio, hlive]
  rfl

/-! ### The silence watch (R361) -/

/-- What the expiry of the silence watch makes of channel j. -/
def silenced (s : State) (j : Nat) (c : IoCh) : IoCh :=
  if ioMode s j = 2 then { c with driven := (ioCfg s j).safe, openWire := c.openWire && (ioCfg s j).safe } else c

theorem does_silenceExpiry (hlive : s.fio.live = true) (harmed : s.fio.armed = true) (hloud : s.fio.silent = false)
    (hsilence : (ioPers s).silence * 1000000 ≤ silentNs s) : Does .silenceExpiry s (fun t => t.fio.silent = true ∧
      t.fio.tripSeen = true ∧ t.fio.trips = satAdd s.fio.trips 1 65535 ∧ t.fio.cnt = s.fio.cnt ∧ t.st = s.st ∧
      t.saf = s.saf ∧ ∀ j < 16, (ioMode s j = 2 → (ioAt t j).driven = (ioCfg s j).safe) ∧
        (ioMode s j ≠ 2 → ioAt t j = ioAt s j)) := by
  have hdue : (ioPers (fresh s)).silence * 1000000 ≤ silentNs (fresh s) := hsilence
  have hexec : exec .silenceExpiry s = .next { setAgain 0xF000 2 (fresh s) with fio := { s.fio with
      io := mapAll s.fio.io (silenced s), silent := true, tripSeen := true, trips := satAdd s.fio.trips 1 65535 } } := by
    refine if_pos ?_
    rw [awake_fresh, hawake, fresh_fio, hlive, harmed, hloud, decide_eq_true hdue]
    rfl
  have hat : ∀ j < 16, getNat (mapAll s.fio.io (silenced s)) j = silenced s j (ioAt s j) := fun j hj => getNat_mapAll _ _ hj
  refine ⟨_, hexec, rfl, rfl, rfl, rfl, rfl, rfl, fun j hj => ⟨fun hmode => ?_, fun hmode => ?_⟩⟩
  · exact (congrArg IoCh.driven ((hat j hj).trans (if_pos hmode))).trans rfl
  · exact (hat j hj).trans (if_neg hmode)

end

/-- The drive that finds a switch too hot leaves it off, whatever the value. -/
theorem drive_out_of_overtemp {c : IoCh} (hhot : c.overtemp = true) :
    (IoCh.drive false c).out = false ∧ (IoCh.drive true c).out = false := by
  simp [IoCh.drive, IoCh.out, hhot]

end Sys2Proof.Machine

namespace Sys2Proof

open Sys2Proof.Machine

/-- Settles O54: the inputs and conversions by their personality and turn, the outputs by the fault that begins or ends. -/
theorem fieldChannels : Obligations.FieldChannels := by
  refine ⟨fun s hawake => ⟨does_inputFilterChange hawake, does_counterEdge hawake, fun _ _ => does_cntClr,
    fun _ hmode hbeat htick => ⟨exec_thConversion_again, does_thConversion hawake hmode hbeat htick⟩⟩, ?_⟩
  intro k s hawake c fault
  exact ⟨fun hmode => ⟨does_overload hawake hmode, fun _ => does_overtemp_begins hawake hmode,
      fun _ => does_overtemp_stays hawake hmode, fun _ => exec_overtemp_between hawake hmode,
      fun _ => does_overtemp_cooled hawake hmode, does_readback hawake hmode, does_readbackClear hawake hmode,
      fun hhot _ => drive_out_of_overtemp hhot⟩,
    does_openWire hawake, does_openWireClear hawake, does_silenceExpiry hawake⟩

end Sys2Proof
end
